-- ==== Sys2Proof/Word.lean ====
section
/-! DEFINITION. The machine's plainest data: bytes, words, and tables of records by number.
Bit vectors stand only for what the manual treats as bits (register contents, addresses, packed data); counts, sizes and
object numbers are natural numbers. -/

namespace Sys2Proof

abbrev Byte := BitVec 8
abbrev W16 := BitVec 16
abbrev W32 := BitVec 32
abbrev W64 := BitVec 64

/-- A table of records by number: association pairs with rising numbers. An absent number has no record; for the fixed
families of like things (tiles, Courses, lanes) an absent number stands for the record's reset value. -/
abbrev Tbl (α : Type) := List (Nat × α)

namespace Tbl
variable {α : Type}

def find? : Tbl α → Nat → Option α
  | [], _ => none
  | (k, v) :: t, i => if k = i then some v else find? t i

/-- The record of number `i`, or the given default. -/
def get (d : α) (t : Tbl α) (i : Nat) : α := (find? t i).getD d

def set : Tbl α → Nat → α → Tbl α
  | [], i, v => [(i, v)]
  | (k, w) :: t, i, v =>
    if k = i then (i, v) :: t else if i < k then (i, v) :: (k, w) :: t else (k, w) :: set t i v

def del : Tbl α → Nat → Tbl α
  | [], _ => []
  | (k, w) :: t, i => if k = i then del t i else (k, w) :: del t i

def has (t : Tbl α) (i : Nat) : Bool := (find? t i).isSome

def keys (t : Tbl α) : List Nat := List.map Prod.fst t
def vals (t : Tbl α) : List α := List.map Prod.snd t

/-- Applies `f` to the record of number `i` (the default where there is none) and stores the result. -/
def upd (d : α) (t : Tbl α) (i : Nat) (f : α → α) : Tbl α := set t i (f (get d t i))

/-- Applies `f` to every record present. -/
def mapVals (t : Tbl α) (f : Nat → α → α) : Tbl α := List.map (fun p => (p.1, f p.1 p.2)) t
end Tbl

end Sys2Proof
end

