-- ==== Sys2Proof/Syntax.lean ====
section
/-! DEFINITION. The commands and events of the module: one constructor of `Instr` for each row of
spec/opcode_table.json, in the table's order. A mailbox command names only its mailbox: its request bytes are state
(R34), written by MAILBOX_REQUEST_WRITE and submitted by MB_DOORBELL. Operands of the event rows are what comes from
outside the module: sensor readings, measured power, a codec's outcome, the outcome of a self-test, a received packet. Lasting faults that a
full BIST finds are listed as unit kind, unit id (R350) and slice of an Ashlar. -/

namespace Sys2Proof

/-- A PCIe function (R29, R30): the physical function or virtual function `n`. -/
inductive Fn where
  | pf
  | vf (n : Nat)
  deriving DecidableEq, Repr

/-- A mailbox: the function it belongs to and its number there (R31: 0-31 on the PF, R32: 0-3 on a VF). -/
structure Mb where
  fn : Fn
  idx : Nat
  deriving DecidableEq, Repr

/-- A logical Ashlar: a partition and a logical slot of it (R22, R80). -/
structure Ash where
  part : Nat
  slot : Nat
  deriving DecidableEq, Repr

/-- How a host read by a Lintel internal channel ended (R354): in full, or with a channel error code of R118. -/
inductive HostRead where
  | ok
  | err (code : Nat)
  deriving DecidableEq, Repr

/-- SCALAR (R83): integer add, subtract, multiply, shift, logic and compare; `illegal` is any other encoding. -/
inductive ScalarOp where
  | add | sub | mul | and | or | xor | shl | shr | sar | eq | lt | ltu | illegal
  deriving DecidableEq, Repr

/-- BRANCH (R83): conditional branches on a compare of two G registers, and the counted branch. -/
inductive BranchOp where
  | eq (rs rt : Nat) | ne (rs rt : Nat) | lt (rs rt : Nat) | ge (rs rt : Nat)
  | counted (rc : Nat)
  | illegal
  deriving DecidableEq, Repr

/-- ADDR (R83): A-register arithmetic and moves between G and A. -/
inductive AddrOp where
  | addG (ad as gs : Nat) | subG (ad as gs : Nat)
  | toA (ad gs : Nat) | toG (gd as : Nat)
  | illegal
  deriving DecidableEq, Repr

/-- One loop of an operand-pattern program: its count and its byte stride. -/
structure Loop where
  count : Nat
  stride : Int
  deriving DecidableEq, Repr

/-- An operand-pattern program of the plan's Template section (R83, R124): up to 8 nested loops over the address in an A
register, or the windows of a layer record of the plan, whose input map stands at its tensor descriptor or, for a streamed
layer, in a band of rows from `row0` on at the address in an A register, with an MX scale plane at a second. -/
inductive TemplateProg where
  | nest (base : Nat) (loops : List Loop)
  | window (layer : Nat) (band : Option (Nat × Nat × Nat))
  | illegal
  deriving DecidableEq, Repr

/-- Where a Bed operation takes an operand: own SRAM at an A register, with the MX scale plane at a second; a nested-loop
program of a Template port, from its unit `skip` on; or the window of a port's layer at output position (ot, oy, ox), reduction
indices from `r0`, column 0 standing for output column `c0`, `ngroups` channel groups from `group` placed block-diagonally. -/
inductive BedSrc where
  | sram (a scale : Nat)
  | nest (p scale skip : Nat)
  | window (p ot oy ox group ngroups r0 c0 : Nat)
  deriving DecidableEq, Repr

/-- BED (R66-R70, R76, R83, R128): load a stationary block of `k` reduction indices by `cols` columns, set start values, stream
one moving vector, combine partial accumulators or add the bias, combine `n` chunk results by the tree of R70 and then add
the bias (FP32 or INT32 words at a second register), read out through conversion, read out by requantisation.
`int` says that the accumulators hold INT32; `corr` names the layer and first output channel whose constant-padding
correction is added with the bias. -/
inductive BedOp where
  | load (ctrl : Nat) (src : BedSrc) (k cols : Nat)
  | start (int : Bool) (entry cols a : Nat) (corr : Option (Nat × Nat))
  | stream (ctrl : Nat) (src : BedSrc) (entry : Nat)
  | combine (int : Bool) (entry cols a : Nat) (corr : Option (Nat × Nat))
  | tree (int : Bool) (entry cols a n : Nat) (bias : Option Nat) (corr : Option (Nat × Nat))
  | readout (int : Bool) (entry cols ctrl a scale : Nat)
  | requant (entry cols ctrl : Nat) (mult : W32) (zp : Int) (a : Nat)
  | illegal
  deriving DecidableEq, Repr

/-- The element functions of the Dressing unit (R71). -/
inductive DressFn where
  | add | mul | fma | min | max | cmpLt | cmpLe | cmpEq
  | sqrt | recip | rsqrt | exp | exp2 | log | log2 | tanh | sigmoid | erf | gelu | silu
  deriving DecidableEq, Repr

/-- DRESS (R71, R72, R133): element operations, row macro-operations, row reduction, pooling of channels from `ch` on at one
output position, and conversion of stored elements to FP32. Sources and destination are A registers; element sources are FP32,
results are written through conversion, MX scales at a second A register. -/
inductive DressOp where
  | elem (f : DressFn) (n a b c ctrl dst scale : Nat)
  | softmax (n a ctrl dst scale : Nat)
  | layerNorm (n : Nat) (eps : W32) (a ctrl dst scale : Nat)
  | rmsNorm (n : Nat) (eps : W32) (a ctrl dst scale : Nat)
  | rowSum (n a dst : Nat)
  | pool (p ot oy ox ch n dst scale : Nat)
  | widen (ctrl n a ascale dst : Nat)
  | illegal
  deriving DecidableEq, Repr

/-- A tile DMA descriptor (R116). -/
structure TileDesc where
  src : Nat
  dst : Nat
  sem : Nat
  form : Nat
  rsvd : Nat
  rowBytes : Nat
  rows : Nat
  srcStride : Int
  dstStride : Int
  deriving DecidableEq, Repr

/-- A hardware error that a unit or a transfer detects as it runs (R255-R258): a residue mismatch of a Bed column, a Dressing, Quoin or
Riddle lane; an uncorrectable word in a bank of the Ashlar's SRAM, a bank set of its Course buffer, or a Plinth SRAM bank set that holds
the Ledger; parity in what a BIST slice 56 to 63 of the Ashlar covers; an HBM unit of a pseudo-channel that the symbol code corrected or
could not correct; a Mortar flit of a lane group and how often it was replayed, more than four for a failed transfer (R257). -/
inductive HwErr where
  | residue (n : Nat)
  | sram (bank : Nat)
  | cbuf (set : Nat)
  | plinth (set : Nat)
  | parity (slice : Nat)
  | hbm (channel : Nat) (corrected : Bool)
  | mortar (group replays : Nat)
  deriving DecidableEq, Repr

/-- A TEMPLATE instruction's program, with the parity error that its port reports as it is set up (R255). -/
structure TemplateSet where
  prog : TemplateProg
  err : Option HwErr
  deriving DecidableEq, Repr

/-- What fails in a Pier's control (R258, R273): parity in the Foreman, its watchdog, or parity in a Setter's map. -/
inductive PierFault where
  | foremanParity | watchdog | setterParity
  deriving DecidableEq, Repr

/-- HANDOFF (R83, R140, R159): a candidate list to the Pier's Quoin unit, or a buffer of FP32 logits to Riddle. The
addresses stand in A registers. `draft` tells draft logits from main logits; `j` is the position after the last context
position. -/
inductive HandoffOp where
  | quoin (a : Nat) (count : Nat) (rec : Nat) (image : Nat)
  | riddle (session : Nat) (draft : Bool) (j : Nat) (a : Nat)
  | illegal
  deriving DecidableEq, Repr

/-- A reading over I3C (R240): a value (raw, of the three coolant sensors; in the sensor's unit, of others), or a failed read. -/
inductive Reading where
  | val (v : Int)
  | fail
  deriving DecidableEq, Repr

/-- One picture an access unit makes outputable (R175), as the codec standard's decoding process gives it: `matrix` and `range` are the
signalled values (0 unsignalled, else as in VID_FACING), `unitsAgo` how many units before this one carried it, `data` the luma and chroma planes as R174 lays them out. -/
structure PicOut where
  width : Nat
  height : Nat
  bitDepth : Nat
  matrix : Nat
  range : Nat
  mono : Bool
  unitsAgo : Nat
  data : List Byte
  deriving DecidableEq, Repr

/-- Profiles that the table Codec support names (R167), by their standards. -/
inductive Profile' where
  | main | main10 | constrainedBaseline | high | other
  deriving DecidableEq, Repr

/-- What the headers of a unit say of it (R167): profile, level times ten, chroma format, bit depth, coded size, and whether it uses a tool
that the table Codec support leaves out. -/
structure StreamInfo where
  profile : Profile'
  level10 : Nat
  yuv420 : Bool
  mono : Bool
  depth : Nat
  width : Nat
  height : Nat
  otherTool : Bool
  deriving DecidableEq, Repr

/-- The stream state of an open codec context between pictures (R169): parameter sets, reference list, picture order, AV1 probability tables,
rate-control and look-ahead state. -/
structure StreamState where
  paramSets : List (List Byte) := []
  refs : List Nat := []
  order : Int := 0
  tables : List Byte := []
  rate : List Byte := []
  deriving DecidableEq, Repr, Inhabited

/-- The structure by which a picture divides (R172), with the number of its tiles, CTU rows or independent slices. -/
inductive Division where
  | tiles (n : Nat)
  | wavefront (n : Nat)
  | slices (n : Nat)
  | whole
  deriving DecidableEq, Repr

/-- What a free core does (R172): it takes the next picture, of which the headers of a decode unit give the structure, or joins a picture
that its codec divides. -/
inductive PicStart where
  | take (div : Division)
  | join
  deriving DecidableEq, Repr

/-- What the standard's decoding process yields for a decode unit at its codec frame boundary (R175, R176): the pictures made outputable,
an error of the stream (0 none, 1 to 3 as the table Stream error codes), whether the unit ends the stream, the unit's picture type and
headers, the byte ranges of its planes that an error leaves undecoded with their number of units, its references as units back, whether
film grain was signalled, and the stream state after it. `lines` are the 64-byte units of reference pictures fetched, as tenant offsets. -/
structure CodecResult where
  outputs : List PicOut
  streamError : Nat
  eos : Bool
  picType : Nat
  info : StreamInfo
  conc : List (Nat × Nat)
  concUnits : Nat
  refs : List Nat
  grain : Bool
  stream : StreamState
  lines : List Nat
  deriving DecidableEq, Repr

/-- A SPDM request over DOE (R302): slot or parameter, nonce and message bytes. -/
structure SpdmReq where
  param1 : Nat
  param2 : Nat
  body : List Byte
  deriving DecidableEq, Repr

/-- A Sett packet header (R206) with its payload and whether its AES-GCM tag verifies under its KEY_ID. -/
structure Packet where
  dest : Nat
  src : Nat
  origin : Nat
  type : Nat
  tenant : Nat
  keyId : Nat
  epoch : Nat
  hop : Nat
  hopCount : Nat
  first : Bool
  last : Bool
  twin : Bool
  context : Nat
  route : List Nat
  seq : Nat
  boot : Nat
  counter : Nat
  payload : List Byte
  tagOk : Bool
  deriving DecidableEq, Repr

/-- Ways into the module for debug (R291). -/
inductive DebugPath where
  | scan
  | ports
  | memory
  | fuses
  deriving DecidableEq, Repr

/-- The link sequence and credit word of a frame (R200, R206). -/
structure LinkWord where
  seq : Nat
  credits : Nat
  deriving DecidableEq, Repr

/-- What the module measures of a lane (R219): OMA and back-reflection against the baseline in 0.01 dB, errored bits and bits of the last 10 s. -/
structure LaneMeas where
  lane : Nat
  oma : Int
  br : Int
  ber : Nat × Nat
  deriving DecidableEq, Repr

/-- STATUS of the cleaning cartridge (R220). -/
structure CartStatus where
  state : Reading
  reqId : Nat
  deriving DecidableEq, Repr

/-- FW_STAGE in a mailbox, and how the read of the image header that it starts with ended (R311, R354). -/
structure StageCmd where
  mb : Mb
  rd : HostRead
  deriving DecidableEq, Repr

/-- How a link frame arrived (R201): whole, with a codeword that FEC could not correct, or with a failed CRC; the symbol errors name a lane. -/
inductive FrameGot where
  | whole
  | uncorrectable (lane : Nat)
  | badCrc (lane : Nat)
  deriving DecidableEq, Repr

/-- The commands and events, one per row of the table. -/
inductive Instr where
  | registerWrite (fn : Fn) (off size : Nat) (v : W64)
  | msixUnmask (fn : Fn) (vec : Nat)
  | sriovVfEnable
  | pciPmStateWrite (fn : Fn) (d3 : Bool)
  | vfFlr (v : Nat)
  | pfFlr
  | submissionSlotWrite (fn : Fn) (entry off : Nat) (bytes : List Byte)
  | ticketRead (fn : Fn) (entry : Nat)
  | eqConsWrite (v : W32)
  | eqLostRead
  | ringDropRead (vf ring : Nat)
  | ringEnable (vf ring : Nat) (cfg : W32)
  | ringRegistrationCheck (vf ring : Nat)
  | ringDisable (vf ring : Nat) (cfg : W32)
  | ringHeadWrite (vf ring : Nat) (v : W32)
  | ringBacklogDrain (vf : Nat)
  | ringModTimer (vf ring : Nat)
  | infoIdentity (m : Mb)
  | infoFirmware (m : Mb)
  | infoCapacity (m : Mb)
  | infoStatus (m : Mb)
  | infoTime (m : Mb)
  | partCreate (m : Mb)
  | pierPowerUpDone (pier : Nat)
  | partDestroy (m : Mb)
  | partQuery (m : Mb)
  | partKeepwarm (m : Mb)
  | partCounters (m : Mb)
  | planLoad (m : Mb)
  | planLoadComplete (op : Nat) (rd : HostRead)
  | planBind (m : Mb)
  | planUnload (m : Mb)
  | planInfo (m : Mb)
  | ctxCreate (m : Mb)
  | ctxRemove (m : Mb)
  | ctxSet (m : Mb)
  | ctxRebind (m : Mb)
  | ctxQuery (m : Mb)
  | ctxShedlog (m : Mb)
  | batchStart (part : Nat)
  | batchFillTimeout (part : Nat)
  | scalar (a : Ash) (op : ScalarOp) (rd rs rt : Nat)
  | branch (a : Ash) (op : BranchOp) (target : Nat)
  | addr (a : Ash) (op : AddrOp)
  | template (a : Ash) (port : Nat) (set : TemplateSet)
  | bed (a : Ash) (op : BedOp) (err : Option HwErr)
  | dress (a : Ash) (op : DressOp) (err : Option HwErr)
  | dma (a : Ash) (q : Nat) (d : TileDesc)
  | tileDmaShadowLoad (a : Ash) (q : Nat)
  | tileDmaDescriptorDone (a : Ash) (q : Nat) (err : Option HwErr)
  | sig (a : Ash) (s n : Nat)
  | wait (a : Ash) (s n : Nat)
  | waitGrant (part s : Nat)
  | semrd (a : Ash) (rd s : Nat)
  | fenceL (a : Ash)
  | fenceC (a : Ash)
  | fenceP (a : Ash)
  | fenceH (a : Ash)
  | fenceRelease (a : Ash)
  | handoff (a : Ash) (op : HandoffOp)
  | quoinJob (pier : Nat) (err : Option HwErr)
  | emit (a : Ash) (item : Nat) (bytes : List Byte)
  | bndry (a : Ash)
  | boundaryPoint (part : Nat)
  | boundaryOverdue (part : Nat)
  | courseGate (c : Nat)
  | courseWake (c : Nat) (ref : Int)
  | hbmSelfRefreshEntry (pier : Nat)
  | shCtrlArm (ch : Nat) (v : W32)
  | chCtrlEnable (ch : Nat) (v : W32)
  | chCtrlDisable (ch : Nat) (v : W32)
  | shadowWindowOverwrite (ch off : Nat) (v : W64)
  | dmaShadowActivate (ch : Nat)
  | channelSetComplete (ch : Nat)
  | channelBusError (ch code offset : Nat)
  | internalReadFail (op code : Nat)
  | facingConvert (pier : Nat)
  | facingBandWrite (pier : Nat)
  | visParams (m : Mb)
  | visCounters (m : Mb)
  | srvOpen (m : Mb)
  | frameMappingDone (op : Nat)
  | srvSampling (m : Mb)
  | srvPause (m : Mb)
  | sessionPauseTimeout (ctx : Nat)
  | srvCancel (m : Mb)
  | srvQuery (m : Mb)
  | specSuspend (ctx : Nat)
  | specResume (ctx : Nat)
  | vidDecodeOpen (m : Mb)
  | vidEncodeOpen (m : Mb)
  | vidFacing (m : Mb)
  | vidForceIdr (m : Mb)
  | vidFlush (m : Mb)
  | vidQuery (m : Mb)
  | vidCores (m : Mb)
  | bitstreamCopyDone (ctx : Nat) (rd : HostRead)
  | trowelPictureStart (core : Nat) (how : PicStart)
  | codecFrameBoundary (core : Nat) (res : CodecResult) (hw : Option Nat)
  | trowelPllStop
  | pwrCap (m : Mb)
  | pwrProfile (m : Mb)
  | pwrStatus (m : Mb)
  | pwrShutdown (m : Mb)
  | shutdownDrainTimeout
  | shutdownBistDone (found : List (Nat × Nat × Nat)) (results : Nat)
  | shutdownPowerOff
  | governorSample (watts : Nat)
  | floorStepSecondStage (watts fit : Nat)
  | rateClimb (watts predicted : Nat)
  | pwrAlertNAssert
  | pwrAlertNRelease
  | leaseLapsed
  | fallbackCap
  | supplyHold (mv : Nat)
  | supplyRecovered (mv : Nat)
  | holdEnd
  | longDip
  | safeCauseClear (cause : Nat)
  | supplyHigh (mv : Nat)
  | overVoltageLockout (mv : Nat)
  | powerFailReset (mv : Nat)
  | epoNAssert
  | epoNRelease
  | thermtrip
  | aonPowerUp (mv : Nat) (plinthOk : Bool) (found : List (Nat × Nat × Nat))
  | perstNAssert
  | perstNRelease (plinthOk : Bool) (found : List (Nat × Nat × Nat))
  | flowSample (f : Reading)
  | tempSample (inlet outlet : Reading)
  | pflowUpdate
  | coolantStateDwell (row : Nat)
  | quenchEnd
  | quenchStage2
  | diodeSample (tile : Nat) (a b : Reading)
  | disagreeDwell (tile : Nat)
  | junctionDwell (tile : Nat)
  | sensorTest (tile : Nat)
  | sensorTestDone (tile : Nat) (diodes : Int × Int) (ref : Int)
  | thermalModelUpdate (pier : Nat) (pred ref : List Int)
  | hbmTempSample (stack : Nat) (t : Reading)
  | thermStatus (m : Mb)
  | thermCourse (m : Mb)
  | thermHbm (m : Mb)
  | targetedSelfTestStart (kind id : Nat)
  | targetedSelfTestDone (kind id : Nat) (pass : Bool)
  | fuseBurnDone
  | bistSliceStart (tile : Nat)
  | bistSliceDone (tile : Nat) (pass : Bool)
  | coverageRotation (tile : Nat)
  | bistCoverageLapsed (tile : Nat)
  | correctedSummary (kind id count : Nat)
  | errorLogFlush
  | foremanWatchdog (pier : Nat) (what : PierFault)
  | masonLockstepError
  | pierResetComplete (pier : Nat) (pass : Bool)
  | fltSummary (m : Mb)
  | fltTest (m : Mb)
  | fltUnit (m : Mb)
  | fltPierReset (m : Mb)
  | logInfo (m : Mb)
  | logRead (m : Mb)
  | portLightDetect (port : Nat)
  | lightLoss (port : Nat)
  | hello (port neighbour nport : Nat) (keyOk : Bool)
  | helloRetry (port : Nat)
  | linkFrameReceive (port : Nat) (word : LinkWord) (got : FrameGot) (fec : List Nat) (pkt : Packet)
  | linkNak (port : Nat) (linkSeq : Nat)
  | linkRetrainDone (port : Nat) (ok : Bool)
  | laneBerCheck (port lane : Nat) (berTooHigh : Bool)
  | laneTestDone (port lane errors : Nat)
  | settPacketReceive (port : Nat)
  | record (p : Packet)
  | data (p : Packet)
  | landingGapTimeout (imp : Nat)
  | drain (p : Packet) (port : Nat)
  | drainAck (p : Packet)
  | drainTimeout
  | portState (p : Packet)
  | portStateFlood
  | time (port : Nat) (t1 t2 t3 t4 : Int)
  | timeExchange
  | timeParentLoss
  | holdoverLimit
  | inspectEntry (port lane : Nat) (omaDelta brDelta : Int) (ber : Nat × Nat)
  | cartridgePoll (port : Nat) (status : CartStatus)
  | cartridgeTimeout (port : Nat)
  | rebaseline (port : Nat) (lanes : List LaneMeas)
  | fabPort (m : Mb)
  | fabCounters (m : Mb)
  | fabPortCtrl (m : Mb)
  | fabExport (m : Mb)
  | fabImport (m : Mb)
  | fabUnbind (m : Mb)
  | fabStream (m : Mb)
  | fabRoute (m : Mb)
  | twinHeartbeat (p : Packet)
  | twinHeartbeatSend
  | twinLead (p : Packet)
  | twinJoinReq (p : Packet)
  | twinJoinGrant (p : Packet)
  | twinJoinRefuse (p : Packet)
  | twinHandoverPacket (p : Packet)
  | twinHandoverAck (p : Packet)
  | partnerLossTimeout
  | twinStatus (m : Mb)
  | twinJoin (m : Mb)
  | twinHandover (m : Mb)
  | secTenantCreate (m : Mb)
  | secTenantRemove (m : Mb)
  | tenantScrubDone (t : Nat)
  | secTenantQuery (m : Mb)
  | secQuota (m : Mb)
  | secKeyRetire (m : Mb)
  | secKeyStatus (m : Mb)
  | secLifecycle (m : Mb)
  | secFabricBind (m : Mb)
  | secAttest (m : Mb)
  | attestReportLanded (op : Nat)
  | getVersion (r : SpdmReq)
  | getCapabilities (r : SpdmReq)
  | negotiateAlgorithms (r : SpdmReq)
  | getDigests (r : SpdmReq)
  | getCertificate (r : SpdmReq)
  | challenge (r : SpdmReq)
  | getMeasurements (r : SpdmReq)
  | spdmUnsupportedRequest (code : Nat)
  | fwStage (m : StageCmd)
  | fwStageVerify (op : Nat) (rd : HostRead)
  | fwActivate (m : Mb)
  | activationProcessorInService (pass : Bool)
  | fwDiscard (m : Mb)
  | profileWrite (m : Mb)
  | profileInfo (m : Mb)
  | fuseInfo (m : Mb)
  | fuseRead (m : Mb)
  | modeQuery (m : Mb)
  | modeSet (m : Mb)
  | modeCompatLock (m : Mb)
  | i3cBusRecovery (freed : Bool)
  | mbDoorbell (m : Mb) (v : W32)
  | mailboxRequestWrite (m : Mb) (off : Nat) (bytes : List Byte)
  | masonRestartDone
  | outHostCopyDone (copy : Nat) (rd : HostRead)
  | profileWriteDone (op : Nat) (rd : HostRead)
  | activationCopyDone
  | calibrationDone (op : Nat) (ok : Bool)
  | cleanReqInterval (port : Nat)
  deriving DecidableEq, Repr

end Sys2Proof
end

