-- ==== Sys2Proof/Decode.lean ====
section
/-! DEFINITION. The table's words. Every row of spec/opcode_table.json is a command of the block's interface and none gives bits of
an encoding, so no word of any length spells a command. -/

namespace Sys2Proof

/-- The command that a word spells by the table's bits: none, because no row gives bits. -/
def decodeTableWord (_nbits _w : Nat) : Option Instr := none

end Sys2Proof
end

