-- ==== Sys2Proof/Machine/State.lean ====
section
/-! DEFINITION. The machine's state as plain data, its faults and refusals, and the state after reset.
A field's docstring gives, in brackets, its width, the rule of spec/ that names it and its reset value; "DESIGN CHOICE n" is a
reset value the spec does not give, with the row of the assumption log that names it. Tables (`Tbl`) list only the records
that differ from the record's own reset value. -/

namespace Sys2Proof.Machine

/-- Sparse byte memory: addresses strictly rising, no entry equal to the zero that an unlisted address reads as. -/
abbrev Memory := List Host.Cell

/-- AON ticks of 40 ns (R6). -/
abbrev Tick := Nat

/-! ## Host interface: mailboxes, interrupts, window, rings, event queue (02_mailbox.md) -/

/-- One mailbox (R34). -/
structure Mailbox where
  /-- [256 bytes] [R34] [DESIGN CHOICE 2: zero] request area, sparse by byte offset -/
  req : Memory := []
  /-- [256 bytes] [R34] [DESIGN CHOICE 2: zero] response area: header and payload of the last response -/
  resp : List Byte := []
  /-- [2 bits] [R34] [0] MB_STATUS.STATE: 0 IDLE, 1 BUSY, 2 DONE -/
  state : Nat := 0
  /-- [8 bits] [R34] [0] MB_STATUS.STATUS -/
  status : Nat := 0
  /-- [16 bits] [R34] [0] MB_STATUS.DONE_COUNT -/
  doneCount : Nat := 0
  /-- [1 bit] [R34] [0] MB_CTRL.INTR_EN -/
  intrEn : Bool := false
  /-- [1 bit] [R34] [0] MB_CTRL.OVERRUN -/
  overrun : Bool := false
  deriving DecidableEq, Repr

/-- One request in Mason's input buffer (R34, R37): taken in doorbell order. -/
structure MasonReq where
  mb : Mb
  bytes : List Byte
  /-- [1 bit] [R53] [false] the mailbox was reset after the doorbell: the response is discarded -/
  discard : Bool
  deriving DecidableEq, Repr

/-- What an accepted operation is about (R38). -/
inductive OpKind where
  | partCreate (part pier : Nat)
  | partDestroy (part : Nat)
  | planLoad (plan tenant addr len : Nat)
  | ctxRemove (ctx : Nat)
  | ctxRebind (ctx part : Nat)
  | mapFrames (ctx : Nat)
  | srvPause (ctx : Nat)
  | vidFlush (ctx : Nat)
  | shutdown
  | fltTest (kind id test : Nat)
  | pierReset (pier : Nat)
  | fabRetrain (port : Nat)
  | fabClean (port : Nat)
  | twinJoin
  | twinHandover
  | tenantRemove (t : Nat)
  | attest (addr : Nat) (vf : Option Nat) (nonce : List Byte) (report : List Byte)
  | fwStage (area addr : Nat) (header : List Byte)
  | fwActivate (area : Nat)
  | profileWrite (addr len : Nat)
  deriving DecidableEq, Repr

/-- An accepted operation that has not ended (R38). -/
structure PendingOp where
  opId : Nat
  mb : Mb
  code : Nat
  tag : Nat
  kind : OpKind
  deriving DecidableEq, Repr

/-- Mason (R13, R34, R38, R39). -/
structure Mason where
  /-- [list] [R34] [empty] input buffer, in the order of the doorbells (R37) -/
  inputs : List MasonReq := []
  /-- [32 bits] [R38] [0] the OP_ID last given; 0 before the first -/
  lastOp : Nat := 0
  /-- [list] [R38] [empty] accepted operations that have not ended -/
  ops : List PendingOp := []
  /-- [1 bit] [R39] [false] MASON_PAUSE: an activation or a restart -/
  paused : Bool := false
  /-- [1 bit] [R39] [0] cause of the pause: 0 activation, 1 restart -/
  pauseCause : Nat := 0
  /-- [ticks] [R39] [0] when the pause began -/
  pauseAt : Tick := 0
  /-- [µs] [R39] [0] the announced length of the pause -/
  pauseUs : Nat := 0
  /-- [list] [R195] [empty] N and T that hold through a pause: 0 for the Trowel pool, 1 + the number of a serving partition -/
  kept : Tbl (Nat × Nat) := []
  /-- [list] [R264] [empty] times of lockstep differences in the last 24 h -/
  lockstep : List Tick := []
  deriving DecidableEq, Repr

/-- One MSI-X vector (R31, R51). -/
structure Vector where
  /-- [64 bits] [R31] [0] message address -/
  addr : W64 := 0
  /-- [32 bits] [R31] [0] message data -/
  data : W32 := 0
  /-- [1 bit] [R31] [1] masked -/
  masked : Bool := true
  /-- [1 bit] [R31] [0] pending bit -/
  pending : Bool := false
  deriving DecidableEq, Repr

/-- A completion record (R50) before its phase is known. -/
structure Rec where
  type : Nat
  status : Nat
  last : Bool
  ctx : Nat
  tenant : Nat
  seq : Nat
  detail : Nat
  userTag : W64
  time : Tick
  body : List Byte
  pseq : Nat
  deriving DecidableEq, Repr

/-- One completion ring (R48-R51). -/
structure Ring where
  /-- [52 bits] [R48] [0] RING_BASE.BASE, bus address bits [63:12] -/
  base : Nat := 0
  /-- [1 bit] [R48] [0] RING_CFG.ENABLE -/
  enable : Bool := false
  /-- [1 bit] [R48] [0] RING_CFG.REGISTERED -/
  registered : Bool := false
  /-- [4 bits] [R48] [0] RING_CFG.SIZE -/
  size : Nat := 0
  /-- [3 bits] [R48] [0] RING_CFG.VECTOR -/
  vector : Nat := 0
  /-- [8 bits] [R48] [0] RING_CFG.MOD_COUNT -/
  modCount : Nat := 0
  /-- [10 bits] [R48] [0] RING_MOD.MOD_TIME, µs -/
  modTime : Nat := 0
  /-- [16 bits] [R48] [0] RING_HEAD.INDEX -/
  head : Nat := 0
  /-- [16 bits] [R48] [0] RING_TAIL.INDEX -/
  tail : Nat := 0
  /-- [1 bit] [R48] [0] RING_STAT.OVERFLOW -/
  overflow : Bool := false
  /-- [1 bit] [R48] [0] RING_STAT.CFG_ERR -/
  cfgErr : Bool := false
  /-- [32 bits] [R48] [0] RING_DROP.COUNT -/
  drop : Nat := 0
  /-- [1 bit] [R50] [1] PHASE of the current lap -/
  phase : Bool := true
  /-- [count] [R51] [0] records written since the last interrupt -/
  unannounced : Nat := 0
  /-- [ticks] [R51] [0] when the oldest unannounced record was written -/
  oldestAt : Tick := 0
  deriving DecidableEq, Repr

/-- One virtual function's own registers (R32, R33, R49). -/
structure Vf where
  /-- [4 rings] [R48] [reset rings] -/
  rings : Tbl Ring := []
  /-- [256 records] [R49] [empty] backlog, in release order, with the ring of each record -/
  backlog : List (Nat × Rec) := []
  /-- [4 bits] [R32] [0] MB_DONE -/
  mbDone : List Nat := []
  deriving DecidableEq, Repr

/-- One entry of the admission window (R43-R46). -/
structure Entry where
  /-- [56 bytes] [R43] [DESIGN CHOICE 2: zero] bytes +0x00 to +0x37, sparse -/
  bytes : Memory := []
  /-- [1 bit] [R44] [false] armed -/
  armed : Bool := false
  /-- [64 bits] [R46] [DECISION 3, REASON 0x34, others 0] the latched ticket word -/
  ticket : W64 := 0xF400000000000000#64
  deriving DecidableEq, Repr

/-- The PF event queue (R52). -/
structure EventQueue where
  /-- [9 bits] [R52] [0] EQ_PROD.INDEX -/
  prod : Nat := 0
  /-- [9 bits] [R52] [0] EQ_CONS.INDEX -/
  cons : Nat := 0
  /-- [1 bit] [R52] [0] EQ_CTRL.INTR_EN -/
  intrEn : Bool := false
  /-- [1 bit] [R52] [0] EQ_CTRL.OVERFLOW -/
  overflow : Bool := false
  /-- [32 bits] [R52] [0] EQ_LOST.COUNT -/
  lost : Nat := 0
  /-- [count] [R52] [0] events lost since the queue last had space: the count of the coming EVENTS_LOST (log 114) -/
  lostRun : Nat := 0
  /-- [512 × 32 bytes] [R31] [0 in every byte] the entries -/
  entries : Tbl (List Byte) := []
  deriving DecidableEq, Repr

/-- An MSI-X message sent (R51): function, vector, address and data. -/
structure Msg where
  fn : Fn
  vec : Nat
  addr : W64
  data : W32
  deriving DecidableEq, Repr

/-- The PCIe side of the module (R29-R34, R53). -/
structure HostIf where
  /-- [1 bit] [R234] [false] the link is up (step 7 of the start-up) -/
  linkUp : Bool := false
  /-- [65 functions] [R29] [D0] functions in D3hot -/
  d3 : List Fn := []
  /-- [1 bit] [R53] [DESIGN CHOICE 2: disabled] SR-IOV VF Enable -/
  vfEnable : Bool := false
  /-- [32 PF mailboxes] [R31] [reset mailboxes] -/
  pfMb : Tbl Mailbox := []
  /-- [64 × 4 VF mailboxes, number vf × 4 + mailbox] [R32] [reset mailboxes] -/
  vfMb : Tbl Mailbox := []
  /-- [32 bits] [R33] [0] PF MB_DONE, the numbers of its set bits -/
  pfDone : List Nat := []
  /-- [64 VFs] [R32] [reset] -/
  vfs : Tbl Vf := []
  /-- [32 PF vectors] [R31] [masked, zero] -/
  pfVec : Tbl Vector := []
  /-- [64 × 8 VF vectors, number vf × 8 + vector] [R32] [masked, zero] -/
  vfVec : Tbl Vector := []
  /-- [16,384 entries] [R31] [not armed, NOT_DECIDED] PF window -/
  pfWin : Tbl Entry := []
  /-- [64 × 768 entries, number vf × 768 + slot] [R42] [not armed, NOT_DECIDED] VF window slices -/
  vfWin : Tbl Entry := []
  /-- [64 × 768] [R42, R301] [unbound] context a VF slot is bound to; a closed binding is 16,384 -/
  slotBind : Tbl Nat := []
  /-- [512 entries] [R52] [empty] -/
  eq : EventQueue := {}
  /-- [64 bits] [DESIGN CHOICE 3] [0] the value of the last register or ticket read (the read's completion) -/
  lastRead : W64 := 0
  /-- [list] [R51] [empty] MSI-X messages sent to the host, newest first -/
  msgs : List Msg := []
  /-- [list] [R29, R120] [empty] channel error codes reported by AER, newest first -/
  aer : List Nat := []
  deriving DecidableEq, Repr

/-! ## Partitions, plans, jobs and tiles (01, 03, 04) -/

/-- A tensor descriptor (R96). -/
structure Tensor where
  ctrl : Nat
  space : Nat
  pier : Nat
  rank : Nat
  dim : List Nat
  base : Nat
  scaleBase : Nat
  rowPitch : Nat
  sliceDim : Nat
  halo : Nat
  sliceLen : Nat
  length : Nat
  deriving DecidableEq, Repr

/-- A layer record (R135). -/
structure Layer where
  op : Nat
  padMode : Nat
  ceil : Bool
  countPad : Bool
  streamed : Bool
  inW : Nat
  inH : Nat
  inT : Nat
  kT : Nat
  kW : Nat
  kH : Nat
  sW : Nat
  sH : Nat
  sT : Nat
  pack : Nat
  dW : Nat
  dH : Nat
  outPadW : Nat
  outPadH : Nat
  padL : Nat
  padR : Nat
  padT : Nat
  padB : Nat
  padF : Nat
  padK : Nat
  inC : Nat
  outC : Nat
  groups : Nat
  padValue : W32
  outW : Nat
  outH : Nat
  outT : Nat
  inTensor : Nat
  wTensor : Nat
  outTensor : Nat
  deriving DecidableEq, Repr

/-- A Quoin record (R140); thresholds and scales are FP32 words. -/
structure QuoinRec where
  mode : Nat
  form : Nat
  scoreFn : Nat
  numClasses : Nat
  maxOut : Nat
  scoreThr : W32
  iouThr : W32
  modelW : Nat
  modelH : Nat
  scaleX : W32
  scaleY : W32
  offX : W32
  offY : W32
  srcW : Nat
  srcH : Nat
  deriving DecidableEq, Repr

/-- A vision input record (R139). -/
structure VisionRec where
  inFmt : Nat
  batch : Nat
  inW : Nat
  inH : Nat
  inC : Nat
  ringDepth : Nat
  bandRows : Nat
  ringOffset : Nat
  bandSem : Nat
  freeSem : Nat
  deriving DecidableEq, Repr

/-- A serving record (R149). -/
structure ServeRec where
  draftMax : Nat
  maxBatch : Nat
  vocab : Nat
  kvUnit : Nat
  kvStreams : Nat
  dkvStreams : Nat
  dkvUnit : Nat
  chunk : Nat
  stepTokens : Nat
  maxContext : Nat
  deriving DecidableEq, Repr

/-- A record of the geometry section, in section order (R135). -/
inductive GeoRec where
  | layer (l : Layer)
  | quoin (q : QuoinRec)
  | vision (v : VisionRec)
  | serve (v : ServeRec)
  deriving DecidableEq, Repr

/-- One section of a loaded image (R95): type, size selector and its bytes. -/
structure Section where
  type : Nat
  sizeSel : Nat
  bytes : List Byte
  deriving DecidableEq, Repr

/-- A loaded plan image (R95-R100). -/
structure Plan where
  tenant : Nat
  /-- the 128 header bytes of R95 -/
  header : List Byte
  length : Nat
  flags : Nat
  sizeMask : Nat
  group : Nat
  boundaryUs : Nat
  sramBytes : Nat
  cbufBytes : Nat
  semaphores : Nat
  hbmBytes : Nat
  minMason : Nat
  sections : List Section
  /-- geometry records by the section's size selector (R95, R135) -/
  geo : Tbl (List GeoRec)
  /-- tenant offset of the image itself (R98, R108) -/
  imageOff : Nat
  /-- tenant offset of the plan's HBM region (R108) -/
  regionOff : Nat
  deriving DecidableEq, Repr

/-- An item that admission counts (R185), queued or in a job. -/
structure Item where
  ctx : Nat
  tenant : Nat
  /-- class at the decision (R185); excess Guard items are queued as Working (R189) -/
  cls : Nat
  excess : Bool
  /-- admission order over the module (R145) -/
  order : Nat
  kind : Nat
  dflags : Nat
  seq : Nat
  addr : Nat
  length : Nat
  deadlineUs : Nat
  userTag : W64
  args : List Byte
  /-- image index within the descriptor; 0 otherwise -/
  index : Nat
  count : Nat
  decided : Tick
  /-- hold time already passed at the decision (R195) -/
  holdAt : Tick
  displaced : Nat
  /-- set when the descriptor failed its checks at the work's start (R144, R152) -/
  bad : Bool
  /-- cancelled under SRV_CANCEL (R158) -/
  cancelled : Bool
  /-- the item runs on a Twin Standby as its lead names it: first PSEQ (R281) -/
  leadPseq : Option Nat
  /-- admitted DISPLACING (R191) -/
  displacing : Bool
  /-- VIS_CODEC in a batch: the ORDER of the decoded picture it reads (R144) -/
  pic : Option Nat := none
  deriving DecidableEq, Repr

/-- The Quoin outcome of one image (R141, R146). -/
structure ImageOut where
  boxes : Nat := 0
  truncated : Bool := false
  maxOut : Bool := false
  candInvalid : Nat := 0
  emitted : List Byte := []
  /-- the box records written, for exports (R212) -/
  boxBytes : List Byte := []
  deriving DecidableEq, Repr

/-- One session's part in a serving step (R154). -/
structure StepSlot where
  ctx : Nat
  item : Item
  kStep : Nat
  chunk : Nat
  /-- logits handed to Riddle: (draft, j, words) (R159) -/
  logits : List (Bool × Nat × List W32)
  deriving DecidableEq, Repr

/-- A running job (R258): a vision batch or a serving step. -/
structure Job where
  /-- batch slots in order (R145); a `none` runs on zero input -/
  slots : List (Option Item)
  steps : List StepSlot
  /-- failed descriptors whose records go with this batch (R144) -/
  failed : List Item
  outs : Tbl ImageOut
  /-- run number 1-4 (R263) -/
  run : Nat
  /-- an error touched the job (R262) -/
  marked : Bool
  planErr : Option Nat
  /-- tenant removal began (R299): TENANT_CLOSED records -/
  closed : Bool
  /-- job ordinal since PLAN_BIND (R80) -/
  ordinal : Nat
  start : Tick
  deriving DecidableEq, Repr

/-- A stalled Chisel (R79, R82, R87): on a WAIT, or on fence 0 L, 1 C, 2 P, 3 H. -/
inductive Stall where
  | run
  | onSem (s n : Nat)
  | onFence (f : Nat)
  deriving DecidableEq, Repr

/-- One tile DMA queue with its register sets (R112, R113). -/
structure DmaQueue where
  /-- [32 descriptors] [R116] [empty] waiting descriptors, each under its tag: dispatch order × 2^32 + code offset -/
  fifo : List (Nat × TileDesc) := []
  /-- [1 set] [R113] [empty] the armed shadow set -/
  shadow : Option (Nat × TileDesc) := none
  /-- [1 set] [R113] [empty] the active set -/
  active : Option (Nat × TileDesc) := none
  /-- [1 set] [R113] [empty] the former active set, whose last request is issued and whose bytes land -/
  landing : Option (Nat × TileDesc) := none
  deriving DecidableEq, Repr

/-- An instruction dispatched to the Bed, the Dressing or the Template unit (R79). -/
inductive UnitOp where
  | bed (op : BedOp) (err : Option HwErr)
  | dress (op : DressOp) (err : Option HwErr)
  | template (port : Nat) (prog : TemplateProg) (err : Option HwErr)
  deriving DecidableEq, Repr

/-- An entry of a unit's queue: dispatch order, code offset, and the A registers as they stood at the dispatch. -/
structure UnitJob where
  order : Nat
  pc : Nat
  a : Tbl Nat
  op : UnitOp
  deriving DecidableEq, Repr

/-- A SIG that has not landed (R86): semaphore, amount and, in Coursed ordering, the descriptors it follows. -/
structure HeldSig where
  sem : Nat
  n : Nat
  after : List Nat
  deriving DecidableEq, Repr

/-- A Template port's program (R83, R124). -/
structure Port where
  prog : TemplateProg := .nest 0 []
  deriving DecidableEq, Repr

/-- The running state of one logical Ashlar, all of it empty at a boundary point (R25). -/
structure Chisel where
  /-- [32 × 64 bits] [R80] [0] G0-G31; G0 is never listed -/
  g : Tbl W64 := []
  /-- [16 × 48 bits] [R80] [0] A0-A15 -/
  a : Tbl Nat := []
  /-- [32 bits] [R85] [0] code-section offset of the next instruction -/
  pc : Nat := 0
  /-- [state] [R79] [running] -/
  stall : Stall := .run
  /-- [1 bit] [R84] [false] BNDRY retired in this batch -/
  bndry : Bool := false
  /-- [2 queues] [R116] [empty] -/
  q0 : DmaQueue := {}
  q1 : DmaQueue := {}
  /-- [3 queues of 16] [R79] [empty] what the Bed, Dressing and Template units have not run, in dispatch order -/
  units : List UnitJob := []
  /-- [count] [R79, R116] [0] dispatch order of the next instruction of a unit -/
  nextDesc : Nat := 0
  /-- [list] [R86] [empty] SIGs that have not landed -/
  held : List HeldSig := []
  /-- [3 ports] [R124] [empty] -/
  ports : Tbl Port := []
  /-- [128 columns × 64 entries × 32 bits, number column × 64 + entry] [R65] [0] accumulators -/
  acc : Tbl W32 := []
  /-- [128 × 128] [04 Units of one Ashlar] [DESIGN CHOICE 2: empty] stationary operand: control byte, depth, columns and element bytes with scales -/
  stat : Option (Nat × Nat × Nat × List Byte × List Byte) := none
  /-- [count] [R140] [0] handoffs issued in this batch that have not completed -/
  handoffs : Nat := 0
  deriving DecidableEq, Repr

/-- SRAM with valid tags (R104): the array's bytes and the numbers of the valid 64-byte lines, rising. -/
structure Sram where
  /-- [bytes] [R104] [unread until written] -/
  bytes : Memory := []
  /-- [1 tag per 64-byte line] [R104] [clear: DEDUCED 4] -/
  valid : List Nat := []
  deriving DecidableEq, Repr

/-- The partition counters (R78, R100, R129). -/
structure PartCounters where
  /-- [32 bits] [R78] [0] -/
  convSat : Nat := 0
  /-- [32 bits] [R78] [0] -/
  convNonfinite : Nat := 0
  /-- [32 bits] [R78] [0] -/
  nanFlush : Nat := 0
  /-- [32 bits] [R78] [0] -/
  underflow : Nat := 0
  /-- [32 bits] [R78] [0] -/
  accSat : Nat := 0
  /-- [32 bits] [R78] [0] -/
  accWrap : Nat := 0
  /-- [32 bits] [R78] [0] -/
  accNonfinite : Nat := 0
  /-- [64 bits] [R100] [0] -/
  boundaries : Nat := 0
  /-- [32 bits] [R100] [0] -/
  restarts : Nat := 0
  /-- [32 bits] [R100] [0] -/
  planErrors : Nat := 0
  /-- [32 bits] [R100] [0] -/
  rotations : Nat := 0
  /-- [32 bits] [R93] [0] -/
  wakes : Nat := 0
  /-- [64 bits] [R129] [0] -/
  tapsElided : Nat := 0
  /-- [64 bits] [R129] [0] -/
  rowcolSkipped : Nat := 0
  deriving DecidableEq, Repr

/-- One entry of a TWIN_LEAD (R280): what runs, or is shed, and its first PSEQ. -/
structure LeadEntry where
  ctx : Nat
  item : Nat
  disp : Nat
  seq : Nat
  pseq : Nat
  arg : Nat
  deriving DecidableEq, Repr

/-- A lead waiting on a Standby (R281): the job ordinal and its entries. -/
structure Lead where
  job : Nat
  entries : List LeadEntry
  deriving DecidableEq, Repr

/-- A handoff in a Pier's Quoin queue (R140). -/
structure QuoinJob where
  part : Nat
  slot : Nat
  list : Nat
  count : Nat
  qrec : Nat
  image : Nat
  deriving DecidableEq, Repr

/-- A Facing conversion due (R139, R181): the batch slot it fills and the decoded picture it reads, or zero bands for an unfilled slot of a
batch that the row-band ring feeds (R145). -/
structure FacingJob where
  part : Nat
  slot : Nat
  codec : Nat
  pic : Nat
  /-- converted; its row bands go out (R139) -/
  conv : Bool
  /-- zero input: no picture is read -/
  zero : Bool := false
  deriving DecidableEq, Repr

/-- A partition (R22, R99). -/
structure Part where
  tenant : Nat
  sizeLog2 : Nat
  pier : Nat
  course : Nat
  slot : Nat
  /-- 0 EMPTY, 1 IDLE, 2 RUNNING, 3 CLOSING (R99) -/
  state : Nat := 0
  /-- waiting for its Pier's power-up (R94, R102) -/
  powering : Bool := false
  keepwarm : Bool := false
  plan : Option Nat := none
  job : Option Job := none
  /-- a marked job to run again before any other (R262) -/
  again : Option Job := none
  /-- batches started since PLAN_BIND (R80) -/
  ordinal : Nat := 0
  chisels : Tbl Chisel := []
  sems : Tbl Nat := []
  /-- WAITs in arrival order: semaphore, slot, n (R82) -/
  waits : List (Nat × Nat × Nat) := []
  ctr : PartCounters := {}
  /-- running clock since the last boundary point, ticks (R21) -/
  sinceBoundary : Tick := 0
  /-- nominal progress of the running batch, quarter ticks (R355) -/
  progress4 : Nat := 0
  /-- lost under R196 -/
  lost : Bool := false
  /-- held by a self-test of its tile in a Course with no idle tile (R260), until this time -/
  heldUntil : Option Tick := none
  /-- row-band ring credits per Course of the partition (R139) -/
  credits : Tbl Nat := []
  /-- result area in HBM: the box records of the batch's OUT_HOST images by batch slot, kept until the next batch (R147; log 123) -/
  results : Tbl (List Byte) := []
  /-- next band for the Facing unit (R139) -/
  nextBand : Nat := 0
  /-- sessions in order of request start (R154) -/
  running : List Nat := []
  /-- request durations, newest first: end and length in ticks (R186) -/
  durations : List (Tick × Tick) := []
  /-- admitted work woke a gated Course (R93) -/
  wokenAt : Option Tick := none
  /-- when the partition last had queued or running work (R93) -/
  busyAt : Tick := 0
  /-- Twin: leads waiting on a Standby, oldest first (R281) -/
  leads : List Lead := []
  /-- Twin: this partition has been granted to the Standby (R282) -/
  granted : Bool := false
  deriving DecidableEq, Repr

/-- A control request waiting at a Setter (R17, R19). -/
inductive CtlReq where
  | repair (tile : Nat)
  | throttle (t : Nat)
  | rotate (slot : Nat) (thermal : Bool)
  | test (tile slice : Nat) (requested : Bool)
  deriving DecidableEq, Repr

/-- One Course (R90-R93, R245, R247). -/
structure Course where
  /-- [8 slots × 4 bits] [R90] [DESIGN CHOICE 5: slots 0-7 on tiles 0-7, tile 8 idle] logical slot to physical tile; an absent slot is 15 -/
  map : List Nat := [0, 1, 2, 3, 4, 5, 6, 7]
  /-- [9 bits] [R90] [none] retired physical tiles -/
  retired : List Nat := []
  /-- [1 bit] [R264] [false] spare consumed -/
  spareUsed : Bool := false
  /-- [2 bits] [R93] [0 Gated] 0 Gated, 1 Warm, 2 Running -/
  power : Nat := 0
  /-- [ticks] [R245] [0] when the Course was gated -/
  gatedAt : Tick := 0
  /-- [ticks] [R93] [0] when a partition of it last had work or keep-warm -/
  busyAt : Tick := 0
  /-- [1 bit] [R93] [false] a wake is under way, with the partition that caused it -/
  waking : Option Nat := none
  /-- [5 bits] [R226] [16] governor rate level r -/
  r : Nat := 16
  /-- [5 bits] [R247] [16] thermal level t in force -/
  t : Nat := 16
  /-- [5 bits] [R247] [16] t_next -/
  tNext : Nat := 16
  /-- [list] [R17] [empty] control requests not yet applied -/
  reqs : List CtlReq := []
  /-- [1 bit] [R245] [false] reference thermometer retired -/
  refRetired : Bool := false
  /-- [16 bits] [R253] [DESIGN CHOICE 6: 0] reference thermometer, 1/16 °C -/
  refTemp : Int := 0
  /-- [what, since] [R90, R244, R266] [none] what runs on the idle tile: 0 BIST slice, 1 sensor test, 2 targeted test -/
  occupied : Option (Nat × Nat) := none
  /-- [ticks] [R266] [none] start of the last BIST slice -/
  lastSlice : Option Tick := none
  /-- [1 bit] [R264] [false] Course retired (Course buffer exhausted) -/
  gone : Bool := false
  deriving DecidableEq, Repr

/-- One physical Ashlar tile (R243-R246, R266). -/
structure Tile where
  /-- [3 MiB] [R104] [no valid line] -/
  sram : Sram := {}
  /-- [16 bits] [R243] [DESIGN CHOICE 6: 0] hot-spot T, 1/16 °C -/
  meas : Int := 0
  /-- [16 bits] [R246] [DESIGN CHOICE 6: 0] predicted hot spot -/
  pred : Int := 0
  /-- [fixed point] [R246] [0] model offset at `offsetAt`, in 1/15,625,000 of 1/16 °C, of which it loses one each tick (0.1 °C per second) -/
  offset : Int := 0
  /-- [ticks] [R246] [0] the instant of `offset` -/
  offsetAt : Tick := 0
  /-- [1/16 °C, newest first] [R246] [empty] predictions of the last 20 ms with their instants -/
  predHist : List (Tick × Int) := []
  /-- [16 bits] [R243] [DESIGN CHOICE 6: 0] last reading of diode A, 1/16 °C -/
  dA : Int := 0
  /-- [16 bits] [R243] [DESIGN CHOICE 6: 0] last reading of diode B, 1/16 °C -/
  dB : Int := 0
  /-- [1 bit] [R244] [false] diode A retired -/
  aRetired : Bool := false
  /-- [1 bit] [R244] [false] diode B retired -/
  bRetired : Bool := false
  /-- [2 bits] [R253] [0] band of the table Diode disagreement -/
  band : Nat := 0
  /-- [ticks] [R243] [none] since when the diodes disagree by more than 10 °C -/
  disagreeAt : Option Tick := none
  /-- [ticks] [R243] [none] last SENSOR_DISAGREE -/
  disagreePost : Option Tick := none
  /-- [1 bit] [R243] [false] sensor test queued -/
  testQueued : Bool := false
  /-- [ticks] [R248] [none] since when T is at or above 105 °C -/
  hotAt : Option Tick := none
  /-- [ticks] [R91] [none] when it left its slot -/
  leftAt : Option Tick := none
  /-- [64 slices] [R266] [none] slices passed since the last completion -/
  slices : List Nat := []
  /-- [ticks] [R267] [0] last coverage completion -/
  covered : Tick := 0
  /-- [ticks] [R267] [none] last BIST_COVERAGE_LAPSED -/
  lapsedAt : Option Tick := none
  deriving DecidableEq, Repr

/-- One Pier (R94, R111, R264, R273). -/
structure Pier where
  /-- [1 bit] [R94] [false] powered -/
  powered : Bool := false
  /-- [1 bit] [R94] [false] power-up under way -/
  powering : Bool := false
  /-- [1 bit] [R111] [true: DEDUCED 7] HBM stacks in self-refresh -/
  selfRefresh : Bool := true
  /-- [ticks] [R111] [0] last HBM traffic or running partition -/
  hbmBusyAt : Tick := 0
  /-- [1 bit] [R273] [false] in reset -/
  resetting : Bool := false
  /-- [3 bits] [R275] [0] cause of the reset -/
  resetCause : Nat := 0
  /-- [ticks] [R273] [0] when the reset began -/
  resetAt : Tick := 0
  /-- [1 bit] [R264] [false] retired -/
  retired : Bool := false
  /-- [64 groups] [R257] [64] Mortar lane groups disabled -/
  mortarOff : List Nat := []
  /-- [queue of 64] [R140] [empty] Quoin handoffs -/
  quoin : List QuoinJob := []
  /-- [1 bit] [R264] [false] Quoin unit retired -/
  quoinRetired : Bool := false
  /-- [1 bit] [R264] [false] Facing unit retired -/
  facingRetired : Bool := false
  /-- [queue] [R181] [empty] Facing conversions due -/
  facing : List FacingJob := []
  deriving DecidableEq, Repr

/-! ## Memory and Lintel DMA (05) -/

/-- One register set of a host channel (R117). -/
structure ShSet where
  /-- [64 bits] [R117] [0] SH_SRC -/
  src : W64 := 0
  /-- [64 bits] [R117] [0] SH_DST -/
  dst : W64 := 0
  /-- [32 bits] [R117] [0] SH_ROW -/
  row : W32 := 0
  /-- [32 bits] [R117] [0] SH_COUNT -/
  count : W32 := 0
  /-- [32 bits] [R117] [0] SH_SRC_STRIDE -/
  sstr : W32 := 0
  /-- [32 bits] [R117] [0] SH_DST_STRIDE -/
  dstr : W32 := 0
  /-- [48 bits] [R117] [0] SH_SRC_PSTRIDE -/
  spstr : W64 := 0
  /-- [48 bits] [R117] [0] SH_DST_PSTRIDE -/
  dpstr : W64 := 0
  /-- [32 bits] [R117] [0] SH_TAG -/
  tag : W32 := 0
  /-- [32 bits] [R117] [0] SH_CTRL without ARM and reserved bits -/
  ctrl : W32 := 0
  deriving DecidableEq, Repr

/-- A Lintel host channel (R117). -/
structure Channel where
  /-- [1 bit] [R117] [0] CH_CTRL.ENABLE -/
  enable : Bool := false
  /-- [1 bit] [R117] [0] CH_CTRL.IRQ_BAD -/
  irqBad : Bool := false
  /-- [1 bit] [R117] [0] CH_STATUS.ACTIVE_BUSY -/
  busy : Bool := false
  /-- [1 bit] [R117] [0] CH_STATUS.SHADOW_ARMED -/
  armed : Bool := false
  /-- [1 bit] [R117] [0] CH_STATUS.ACTIVE_SET -/
  activeB : Bool := false
  /-- [1 bit] [R117] [0] CH_STATUS.STOPPED -/
  stopped : Bool := false
  /-- [16 bits] [R117] [0] CH_STATUS.DONE_COUNT -/
  doneCount : Nat := 0
  /-- [1 bit] [R117] [0] CH_ERR.BAD -/
  bad : Bool := false
  /-- [1 bit] [R117] [0] CH_ERR.ARM_REFUSED -/
  armRefused : Bool := false
  /-- [1 bit] [R117] [0] CH_ERR.OVERWRITE -/
  overwrite : Bool := false
  /-- [32 bits] [R117] [0] CH_BAD_INFO.TAG -/
  badTag : W32 := 0
  /-- [8 bits] [R117] [0] CH_BAD_INFO.CODE -/
  badCode : Nat := 0
  /-- [40 bits] [R117] [0] CH_BAD_OFFSET.OFFSET -/
  badOffset : Nat := 0
  /-- [41 bits] [R117] [0] CH_PROGRESS.BYTES -/
  progress : Nat := 0
  /-- [set A] [R112] [0] -/
  setA : ShSet := {}
  /-- [set B] [R112] [0] -/
  setB : ShSet := {}
  /-- [1 bit] [R113] [false] the active set has issued its last request and lands: the former active set, if its bytes have not landed -/
  landing : Option ShSet := none
  /-- [1 bit] [R264] [false] channel retired -/
  retired : Bool := false
  deriving DecidableEq, Repr

/-- A host copy of a box area or encoded unit by an internal channel (R146, R177). -/
structure HostCopy where
  id : Nat
  tenant : Nat
  /-- the held records with their ring contexts -/
  recs : List Rec
  bytes : List Byte
  hostAddr : Nat
  attach : List Byte
  /-- when the records become LATE (R192); none without a deadline -/
  due : Option Tick
  /-- item number for the loss log (R194) -/
  item : Nat
  /-- discarded candidates that the records count (R146) -/
  candInvalid : Nat
  /-- first PSEQ that a lead gives the records (R281) -/
  lead : Option Nat
  deriving DecidableEq, Repr

/-- What an internal channel moves (R112, R354): the host read of an accepted operation, a host copy, or a decode unit's bytes. -/
inductive IntJob where
  | op (id : Nat)
  | copy (id : Nat)
  | unit (ctx order : Nat)
  deriving DecidableEq, Repr

/-- The register sets of an internal channel (R112). -/
structure IntChannel where
  /-- [1 set] [R112] [none] -/
  active : Option IntJob := none
  /-- [1 set] [R112] [none] -/
  shadow : Option IntJob := none
  deriving DecidableEq, Repr

/-- A loss-log entry (R194): SEQ, KIND, REASON, ITEM, TIME. -/
structure Loss where
  seq : Nat
  kind : Nat
  reason : Nat
  item : Nat
  time : Tick
  deriving DecidableEq, Repr

/-- HBM, host memory and Lintel (R106-R112). -/
structure MemSys where
  /-- [288 GiB] [R106] [DESIGN CHOICE 8: zero] HBM by physical address, as the owner reads it -/
  hbm : Memory := []
  /-- [2^64] [R112] [DESIGN CHOICE 8: zero] host memory as the module sees it -/
  host : Memory := []
  /-- [per tenant] [R108] [empty] frame tables, number tenant × 2^28 + page, value the frame (physical address / 2 MiB) -/
  frames : Tbl Nat := []
  /-- [list] [R264] [empty] retired frames -/
  badFrames : List Nat := []
  /-- [count] [R108] [0] round-robin Pier of the next frame -/
  nextPier : Nat := 0
  /-- [list] [R150] [empty] frames that KV pages are cut from: tenant and page -/
  kvFrames : List (Nat × Nat) := []
  /-- [16 channels] [R117] [reset channels] -/
  ch : Tbl Channel := []
  /-- [32 channels] [R112] [no set in use] internal channels -/
  intCh : Tbl IntChannel := []
  /-- [32 channels] [R112] [none] retired internal channels -/
  intRetired : List Nat := []
  /-- [4,096 entries] [R194] [empty] loss-log entries that wait in Plinth SRAM, with their contexts, oldest first -/
  lossBuf : List (Nat × Loss) := []
  /-- [list] [R146, R177] [empty] host copies in flight -/
  copies : List HostCopy := []
  /-- [count] [R146] [0] number of the next host copy -/
  nextCopy : Nat := 0
  /-- [16 Courses × 1 MiB] [R104] [no valid line] Course buffers -/
  cbuf : Tbl Sram := []
  deriving DecidableEq, Repr

/-! ## Ledger contexts and admission (09) -/

/-- A vision context's own state (R146). -/
structure Vision where
  mode : Nat := 0
  scoreThr : Option W32 := none
  iouThr : Option W32 := none
  maxOut : Nat := 0
  fillUs : Nat := 16000
  images : Nat := 0
  boxes : Nat := 0
  candTruncated : Nat := 0
  candInvalid : Nat := 0
  maxOutHits : Nat := 0
  partialBatches : Nat := 0
  deriving DecidableEq, Repr

/-- A session's sampling settings (R159, R165). -/
structure Sampling where
  topK : Nat := 0
  temperature : W32 := 0
  topP : W32 := 0x3F800000#32
  minP : W32 := 0
  repetition : W32 := 0x3F800000#32
  presence : W32 := 0
  window : Nat := 0
  stop : List Nat := []
  deriving DecidableEq, Repr

/-- The running request of a session (R152-R158). -/
structure Request where
  item : Item
  /-- context length at the request's start -/
  startLen : Nat
  prefillLeft : List Nat
  maxNew : Nat
  prefillOnly : Bool
  delivered : Nat
  firstGiven : Bool
  sampling : Sampling
  startAt : Tick
  deriving DecidableEq, Repr

/-- A session's own state (R148-R165). -/
structure Session where
  /-- 0 New, 1 Open, 2 Pausing, 3 Paused -/
  state : Nat := 0
  specMode : Nat := 0
  draftLen : Nat := 0
  k : Nat := 0
  maxContext : Nat := 0
  pauseMs : Nat := 0
  seed : W64 := 0
  /-- context length -/
  length : Nat := 0
  /-- token ids of the context, oldest first (the token page keeps the last 16,384) -/
  tokens : List Nat := []
  /-- reserved KV pages as 64 KiB page numbers of the tenant space: streams in order, then draft streams, then the token page (R150) -/
  pages : List Nat := []
  sampling : Sampling := {}
  req : Option Request := none
  idleAt : Tick := 0
  cancelled : Nat := 0
  steps : Nat := 0
  tokensOut : Nat := 0
  drafted : Nat := 0
  accepted : Nat := 0
  suspensions : Nat := 0
  timeoutPauses : Nat := 0
  suspendLeft : Nat := 0
  /-- (proposed, accepted) of the drafting steps of the current window -/
  window : List (Nat × Nat) := []
  /-- Auto speculation is suspended (R164) -/
  suspended : Bool := false
  /-- the session follows leads on a Twin Standby (R282) -/
  joined : Bool := false
  deriving DecidableEq, Repr

/-- Facing settings of a decode context (R181, R183). -/
structure Facing where
  cropX : Nat
  cropY : Nat
  cropW : Nat
  cropH : Nat
  outW : Nat
  outH : Nat
  filter : Nat
  matrix : Nat
  range : Nat
  chOrder : Nat
  outFmt : Nat
  layout : Nat
  mean : List W32
  scale : List W32
  deriving DecidableEq, Repr

/-- What stays known of a decode unit for the records of its picture (R175, R176). -/
structure UnitRec where
  pts : W64 := 0
  picType : Nat := 0
  cores : Nat := 1
  ns : Nat := 0
  error : Nat := 0
  concUnits : Nat := 0
  refConcealed : Bool := false
  grain : Bool := false
  /-- byte ranges of the picture's planes that are concealed -/
  conc : List (Nat × Nat) := []
  deriving DecidableEq, Repr

/-- A decoded picture held in the pool (R174). -/
structure Pic where
  slot : Nat
  order : Nat
  width : Nat
  height : Nat
  bitDepth : Nat
  needVision : Bool
  needEncode : Bool
  unit : UnitRec
  /-- signalled matrix and range, 0 unsignalled (R181) -/
  matrix : Nat
  range : Nat
  mono : Bool
  /-- dropped while a batch or an encode frame still reads it (R26, R174) -/
  dropped : Bool := false
  deriving DecidableEq, Repr

/-- A codec context's own state (R169, R174, R183). -/
structure Codec where
  /-- 0 New, 1 decode, 2 encode -/
  state : Nat := 0
  codec : Nat := 0
  maxCores : Nat := 0
  maxW : Nat := 0
  maxH : Nat := 0
  bitDepth : Nat := 8
  outQueue : Nat := 0
  conceal : Nat := 0
  consumers : Nat := 0
  encCtx : Nat := 0
  poolOff : Nat := 0
  poolPages : Nat := 0
  pics : List Pic := []
  nextOrder : Nat := 0
  /-- pictures output: with CONSUMERS 0, the ring's next slot (R174) -/
  outN : Nat := 0
  lastSize : Nat × Nat × Nat := (0, 0, 0)
  /-- planes of the previous picture in output order, for concealment (R176) -/
  prevOut : Option (List Byte) := none
  skipping : Bool := false
  /-- NO_PARAM_SETS: units are skipped until one carries a parameter set (R175) -/
  needParams : Bool := false
  /-- stream state between pictures, in the context's HBM area and Ledger entry (R169) -/
  stream : StreamState := {}
  /-- next byte of the 4 MiB bitstream ring (R173) -/
  ringPos : Nat := 0
  /-- units that passed their codec frame boundary, newest first (R175) -/
  unitHist : List UnitRec := []
  /-- units since the last random-access point that decoded without error, that one included (R176) -/
  sinceRap : Nat := 0
  /-- Facing settings that a partition's running batch keeps, by partition (R183, R184) -/
  facingRun : Tbl (Option Facing) := []
  /-- admitted units whose bytes are in HBM: order numbers -/
  copied : List Nat := []
  facing : Option Facing := none
  rc : Nat := 0
  fpsNum : Nat := 0
  fpsDen : Nat := 0
  bitrate : Nat := 0
  maxKbps : Nat := 0
  hrdMs : Nat := 0
  qp : List Nat := []
  bFrames : Nat := 0
  gop : Nat := 0
  refs : Nat := 0
  outCap : Nat := 0
  forceIdr : Bool := false
  /-- reconstructed pictures that the encoder may refer to, newest first, at most REFS (R178) -/
  encRefs : List (List Byte) := []
  /-- fullness of the HRD buffer in bits; none before the first unit (R180) -/
  hrdBits : Option Nat := none
  /-- source pictures taken and their PTS, newest first, as far back as reordering may reach (R177) -/
  srcs : List (W64 × List Byte) := []
  /-- VID_FLUSH of an encode context has run, and waits for the copies of its last units (R183) -/
  flushed : Bool := false
  /-- VID_FLUSH waits: admission order of the items that come after it -/
  flushAt : Option Nat := none
  units : Nat := 0
  pictures : Nat := 0
  concealedN : Nat := 0
  dropped : Nat := 0
  streamErrors : Nat := 0
  oversize : Nat := 0
  hrdViol : Nat := 0
  coreNs : Nat := 0
  /-- the decoder sheds every unit after this admission order up to the next random-access point (R193) -/
  shedFrom : Option Nat := none
  deriving DecidableEq, Repr

/-- A Ledger context (R185, R197). -/
structure Ctx where
  tenant : Nat
  group : Nat
  cls : Nat
  ring : Nat
  /-- 0xFFFF for group 0x06 -/
  part : Nat
  queueMax : Nat
  rate : Nat
  burst : Nat
  deadlineUs : Nat
  shedAgeUs : Nat
  coreUs : Nat
  /-- VF slot, 0xFFFF when it has none -/
  slot : Nat
  /-- bucket in 1 / (25 × 10^9) tokens, as it stood at bucketAt (R189) -/
  bucket : Int
  bucketAt : Tick
  lastSeq : Option Nat := none
  /-- ticket counter (R46) -/
  ticket : Nat := 0
  queue : List Item := []
  /-- CTX_REMOVE accepted: leaves at the boundary that ends its running item -/
  removing : Bool := false
  /-- CTX_REBIND accepted: destination -/
  rebind : Option Nat := none
  admitted : Nat := 0
  deferred : Nat := 0
  refused : Nat := 0
  late : Nat := 0
  shed : Nat := 0
  displaced : Nat := 0
  guardExcess : Nat := 0
  lossTotal : Nat := 0
  /-- newest first, at most 256 -/
  losses : List Loss := []
  /-- creation order, for R199 -/
  born : Nat := 0
  pseq : Nat := 0
  exportId : Option Nat := none
  vision : Vision := {}
  /-- VIS_PARAMS values of the running batch (R146, R147) -/
  visionRun : Vision := {}
  session : Session := {}
  codec : Codec := {}
  deriving DecidableEq, Repr

/-- One Trowel core (R168-R171). -/
structure Core where
  /-- [1 bit] [R264] [false] retired -/
  retired : Bool := false
  /-- [1 bit] [R183] [true: DEDUCED 9] gated -/
  gated : Bool := true
  /-- [picture] [R168] [none] the context and item being run, the start and the run number -/
  busy : Option (Nat × Item × Tick × Nat) := none
  /-- [context] [R170] [none] context whose picture it last ran -/
  lastCtx : Option Nat := none
  /-- [count] [R171] [0] run -/
  run : Nat := 0
  /-- [32 bits] [R183] [0] SWITCHES -/
  switches : Nat := 0
  /-- [1 bit] [R259] [false] leaves the pool for its BIST -/
  testing : Bool := false
  /-- [1 bit] [R170] [false] the picture under way began with a context switch -/
  switched : Bool := false
  /-- [structure] [R172] [none] how the picture under way divides -/
  div : Division := .whole
  /-- [count] [R172] [0] number of the tile, slice or wavefront residue that was dealt to the core -/
  share : Nat := 0
  /-- [stream state] [R170] [none] loaded at the start of the picture under way -/
  stream : Option StreamState := none
  /-- [256 KiB, 4,096 lines] [R170] [empty] reference cache: tags of tenant and physical 64-byte line, newest first -/
  cache : List (Nat × Nat) := []
  deriving DecidableEq, Repr

/-- The Trowel pool and the Facing units' clock (R168, R183, R223). -/
structure Trowel where
  /-- [16 cores] [R168] [reset cores] -/
  cores : Tbl Core := []
  /-- [1 bit] [R223] [false] PLL running -/
  pllOn : Bool := false
  /-- [ticks] [R223] [0] since when no core and no Facing unit is ungated -/
  idleAt : Tick := 0
  /-- [64 bits] [R183] [0] BUSY_NS -/
  busyNs : Nat := 0
  /-- [1 bit] [R248] [false] PLL divided by 2 for heat -/
  halved : Bool := false
  /-- [list] [R176, R184] [empty] pictures that restart from their codec frame boundary: context, item and run -/
  again : List (Nat × Item × Nat) := []
  /-- [list] [R186] [empty] core times of the pictures of the last 100 ms: end tick, ns -/
  recent : List (Tick × Nat) := []
  deriving DecidableEq, Repr

/-! ## Power, clocks, start-up (11) and thermal control (12) -/

/-- Power and start-up (R223-R238). -/
structure Power where
  /-- [supply] [R234] [false] AON supply on -/
  aon : Bool := false
  /-- [supply] [R234] [false] power stages other than AON on -/
  stages : Bool := false
  /-- [pin] [R337, R338] [low: 47 kΩ pull-down] EPO_N high -/
  epoN : Bool := false
  /-- [pin] [R337] [low: 10 kΩ pull-down] PERST_N high -/
  perstN : Bool := false
  /-- [pin] [R337] [high: pull-up] PWR_ALERT_N high -/
  pwrAlertN : Bool := true
  /-- [pin] [R337] [low: pull-down] COMPAT_SEL high -/
  compatSel : Bool := false
  /-- [latch] [R250] [false] THERMTRIP_N latched low -/
  thermtrip : Bool := false
  /-- [3 bits] [R33] [0 STARTING] 0 STARTING, 1 READY, 2 SAFE_HOLD, 3 SHUTTING_DOWN -/
  phase : Nat := 0
  /-- [1 bit] [R340] [false] start-up held before step 7 by PERST_N -/
  heldStep7 : Bool := false
  /-- [mV] [R237] [DESIGN CHOICE 6: 0] VIN_MV -/
  vinMv : Nat := 0
  /-- [W] [R226] [DESIGN CHOICE 6: 0] measured input power, the last 10 µs average -/
  pinW : Nat := 0
  /-- [W, newest first] [R237] [empty] the 10 µs averages of the last 1 ms, of which PIN_W is the mean -/
  samples : List Nat := []
  /-- [W] [R229] [900, the default fallback cap] cap in force -/
  capW : Nat := 900
  /-- [2 bits] [R237] [2 fallback] lease: 0 live, 1 holding, 2 fallback -/
  lease : Nat := 2
  /-- [ticks] [R229] [0] start of the lease or of the 60 s hold -/
  leaseAt : Tick := 0
  /-- [1 bit] [R224] [0 Full] profile last selected -/
  eco : Bool := false
  /-- [1 bit] [R225] [false] supply Safe cause -/
  safeSupply : Bool := false
  /-- [1 bit] [R33] [0] MOD_STATE.HOLD -/
  hold : Bool := false
  /-- [ticks] [R230] [0] start of the Hold -/
  holdAt : Tick := 0
  /-- [mV] [R237] [0] lowest VIN_MV of the Hold -/
  holdMin : Nat := 0
  /-- [ticks] [R225] [none] since when the input is below 43.0 V -/
  lowAt : Option Tick := none
  /-- [ticks] [R230] [none] since when the input is back above 44 V -/
  recoverAt : Option Tick := none
  /-- [ticks] [R225] [none] since when the input is above 44 V, for the 10 s of the supply cause -/
  okAt : Option Tick := none
  /-- [ticks] [R230] [none] since when the input is above 58.0 V -/
  highAt : Option Tick := none
  /-- [1 bit] [R230, R232] [false] the over-voltage lockout holds the stages off, until the input is 0.3 V below its level -/
  lockout : Bool := false
  /-- [ticks] [R230] [none] last SUPPLY_HIGH -/
  highPost : Option Tick := none
  /-- [1 bit] [R33] [0] MOD_STATE.FLOOR_STEP -/
  floor : Bool := false
  /-- [ticks] [R227] [0] when step 1 of the floor step ran -/
  floorAt : Tick := 0
  /-- [1 bit] [R227] [false] a rate climb is under way -/
  climbing : Bool := false
  /-- [32 bits] [R237] [0] HOLDS -/
  holds : Nat := 0
  /-- [32 bits] [R237] [0] FLOOR_STEPS -/
  floorSteps : Nat := 0
  /-- [32 bits] [R237] [0] ALERTS -/
  alerts : Nat := 0
  /-- [64 bits] [R237] [0] HOLD_NS -/
  holdNs : Nat := 0
  /-- [ticks] [R195] [0] hold time passed in all (model's own) -/
  holdTicks : Tick := 0
  /-- [ticks] [R41] [0] AON time of the last reset -/
  resetAt : Tick := 0
  /-- [ms] [R236] [none] orderly shutdown: DRAIN_MS and its start, Hold time not counted -/
  drain : Option (Nat × Tick) := none
  /-- [2 bits] [R236] [0] shutdown step: 0 none, 1 draining, 2 partitions ending, 3 BIST, 4 CMD_DONE posted -/
  shutStep : Nat := 0
  /-- [ticks] [R236] [0] when CMD_DONE was posted -/
  shutAt : Tick := 0
  /-- [unit] [R272] [none] SAFE_HOLD waits for running jobs: the unit's kind and id -/
  safeHoldReq : Option (Nat × Nat) := none
  deriving DecidableEq, Repr

/-- One coolant sensor (R239, R240). -/
structure Sensor where
  /-- [count] [R240] [0] consecutive failed reads -/
  fails : Nat := 0
  /-- [count] [R240] [0] consecutive answered reads -/
  oks : Nat := 0
  /-- [1 bit] [R240] [false] silent -/
  silent : Bool := false
  /-- [ticks] [R240] [none] since when it answers again, for the 10 s of its Safe cause -/
  backAt : Option Tick := none
  deriving DecidableEq, Repr

/-- One row of the coolant states (R242): in force, and since when its set or clear condition holds. -/
structure Dwell where
  on : Bool := false
  since : Option Tick := none
  deriving DecidableEq, Repr

/-- One HBM stack's temperature (R249). -/
structure Stack where
  /-- [°C] [R249] [DESIGN CHOICE 6: 0] -/
  temp : Int := 0
  /-- [3 bits] [R253] [0] 0 normal, 1 hot, 2 throttled, 3 stopped, 4 silent -/
  state : Nat := 0
  /-- [count] [R245] [0] consecutive failed reads -/
  fails : Nat := 0
  deriving DecidableEq, Repr

/-- Thermal control (R239-R254). -/
structure Thermal where
  /-- [sensor] [R240] [answering] -/
  flow : Sensor := {}
  /-- [sensor] [R240] [answering] -/
  inletS : Sensor := {}
  /-- [sensor] [R240] [answering] -/
  outletS : Sensor := {}
  /-- [mL/min, newest first] [R239, R251] [empty] flow reads of the last 102 ms; none for a failed read -/
  flows : List (Option Nat) := []
  /-- [mL/min] [R239] [DESIGN CHOICE 6: 2000] F -/
  fMean : Nat := 2000
  /-- [1/16 °C] [R239] [DESIGN CHOICE 6: 0] inlet -/
  inlet : Int := 0
  /-- [1/16 °C] [R239] [DESIGN CHOICE 6: 0] outlet -/
  outlet : Int := 0
  /-- [1/16 W] [R241] [DESIGN CHOICE 6: 1500 W] P_flow (p_force) -/
  pFlow : Int := 24000
  /-- [row] [R242] [clear] FLOW_LOW -/
  flowLow : Dwell := {}
  /-- [row] [R242] [clear] Safe, flow -/
  safeFlow : Dwell := {}
  /-- [row] [R242] [clear] Safe, inlet -/
  safeInlet : Dwell := {}
  /-- [row] [R242] [clear] Safe, outlet -/
  safeOutlet : Dwell := {}
  /-- [row] [R242] [clear] Safe, junction -/
  safeJunction : Dwell := {}
  /-- [row] [R242] [clear] INLET_COLD -/
  inletCold : Dwell := {}
  /-- [1 bit] [R33] [0] MOD_STATE.QUENCH -/
  quench : Bool := false
  /-- [ticks] [R252] [0] start of the Quench -/
  quenchAt : Tick := 0
  /-- [1 bit] [R252] [false] stage 2 -/
  stage2 : Bool := false
  /-- [ticks] [R252] [none] since when f is at or above 1.2 L/min -/
  okAt : Option Tick := none
  /-- [32 bits] [R253] [0] QUENCHES -/
  quenches : Nat := 0
  /-- [32 bits] [R253] [0] ROTATIONS -/
  rotations : Nat := 0
  /-- [32 bits] [R253] [0] THROTTLE_MS -/
  throttleMs : Nat := 0
  /-- [16 bits] [R253] [0] MODEL_DRIFT -/
  drift : Nat := 0
  /-- [16 bits] [R253] [0] SENSORS_RETIRED -/
  sensorsRetired : Nat := 0
  /-- [8 stacks] [R249] [reset stacks] -/
  hbmStacks : Tbl Stack := []
  /-- [8 diode pairs: as tiles] [R243] [reset] Plinth diode pairs -/
  plinth : Tbl Tile := []
  /-- [ticks] [R341] [none] the I3C bus is stuck: the last recovery attempt -/
  i3cStuck : Option Tick := none
  deriving DecidableEq, Repr

/-! ## Faults, log, fuses (13, 16) -/

/-- Fault history of one unit, number kind × 2^20 + id (R261, R275). -/
structure Unit where
  /-- [ticks] [R261] [empty] transient classes of the last 24 h -/
  transient : List Tick := []
  /-- [32 bits] [R275] [0] TRANSIENT_TOTAL -/
  total : Nat := 0
  /-- [test] [R259] [none] pending test: part, requested operation -/
  pending : Option (Nat × Option Nat) := none
  /-- [ticks] [R260] [0] when the pending test was called for -/
  pendingAt : Tick := 0
  /-- [1 bit] [R259] [false] its test is running -/
  testing : Bool := false
  /-- [1 bit] [R264] [false] retired -/
  retired : Bool := false
  /-- [rows] [R264] [empty] row repairs used per bank set or bank group -/
  rows : Tbl Nat := []
  /-- [ticks] [R258] [none] last CORRECTED_SUMMARY -/
  hourAt : Option Tick := none
  deriving DecidableEq, Repr

/-- An error-log entry (R274). -/
structure LogEntry where
  number : Nat
  code : Nat
  severity : Nat
  kind : Nat
  id : Nat
  time : Tick
  boot : Nat
  cls : Nat
  action : Nat
  part : Nat
  ctx : Nat
  detail : List Byte
  kept : Bool
  deriving DecidableEq, Repr

/-- A fuse-ledger entry (R319) without its position and CRC. -/
structure Fuse where
  kind : Nat
  reason : Nat
  unitKind : Nat
  unitId : Nat
  value : Nat
  boot : Nat
  time : Tick
  logRef : Nat
  /-- what the repair replaced, so that an unrecorded one can be taken back: the bank set or group of a row, the lane the spare served, the diode pair -/
  aux : Nat := 0
  deriving DecidableEq, Repr

/-- Errors, log and fuse ledger (R255-R276, R318-R319). -/
structure Faults where
  /-- [units] [R261] [no history] -/
  units : Tbl Unit := []
  /-- [64 bits] [R275] [0] CORRECTED -/
  corrected : Nat := 0
  /-- [64 bits] [R275] [0] ERRORS -/
  errors : Nat := 0
  /-- [32 bits] [R275] [0] TRANSIENT -/
  transient : Nat := 0
  /-- [32 bits] [R275] [0] LASTING -/
  lasting : Nat := 0
  /-- [32 bits] [R275] [0] RESTARTS -/
  restarts : Nat := 0
  /-- [32 bits] [R275] [0] ABORTED -/
  aborted : Nat := 0
  /-- [32 bits] [R275] [0] PIER_RESETS -/
  pierResets : Nat := 0
  /-- [64 bits] [R274] [0] number of the next log entry -/
  logNext : Nat := 0
  /-- [262,144 entries] [R274] [empty] main area, newest first -/
  log : List LogEntry := []
  /-- [32,768 entries] [R274] [empty] kept area, newest first -/
  kept : List LogEntry := []
  /-- [list] [R274] [empty] entries that have not reached flash, oldest first -/
  unflushed : List LogEntry := []
  /-- [24,576 positions] [R319] [DESIGN CHOICE 10: empty] fuse ledger, oldest first; an INVALID position is `none` -/
  ledger : List (Option Fuse) := []
  /-- [list] [R265] [empty] burns that wait, oldest first -/
  burns : List Fuse := []
  /-- [4 lanes] [R264] [none] retired Riddle lanes -/
  riddleRetired : List Nat := []
  deriving DecidableEq, Repr

/-! ## Fabric (10) and twin (14) -/

/-- A link frame (R200): link sequence and the credits it gives back, its packet, and how often it was replayed (R201). -/
structure Frame where
  seq : Nat
  credits : Nat
  pkt : Packet
  replays : Nat := 0
  deriving DecidableEq, Repr

/-- One fabric port (R200-R205, R219-R221). -/
structure FPort where
  /-- [2 × 0.1 nm] [R335] [none before bring-up] transmit and receive wavelength -/
  wave : Option (Nat × Nat) := none
  /-- [4 bits] [R221] [0 DOWN] STATE of FAB_PORT -/
  state : Nat := 0
  /-- [4 bits] [R204] [15 free] lane the spare replaces -/
  spareFor : Nat := 15
  /-- [3 bits] [R204] [4] remaps left -/
  remaps : Nat := 4
  /-- [list] [R203] [none] lanes with a lasting fault -/
  badLanes : List Nat := []
  /-- [lane] [R203] [none] lane under test -/
  testing : Option Nat := none
  /-- [1 MiB] [R201] [empty] retry buffer, oldest first -/
  retry : List Frame := []
  /-- [256] [R201] [256] credits of 4 KiB at the neighbour's receive buffer -/
  credits : Nat := 256
  /-- [list] [R201] [empty] frames sent whose credits have not come back: link sequence and credits, oldest first -/
  unpaid : List (Nat × Nat) := []
  /-- [list] [R201] [empty] packets that wait for credit, oldest first -/
  waiting : List Packet := []
  /-- [count] [R201] [0] credits to give back with the next frame -/
  owed : Nat := 0
  /-- [count] [R201] [0] link sequence of the next frame sent -/
  txSeq : Nat := 0
  /-- [count] [R201] [0] link sequence expected -/
  rxSeq : Nat := 0
  /-- [1 MiB] [R201] [empty] receive buffer -/
  rx : List Packet := []
  /-- [link sequence] [R201] [none] the NAK sent last, until the frame it names arrives -/
  nak : Option Nat := none
  /-- [1 bit] [R201] [false] TRAINING with the retry buffer kept: a retrain -/
  retraining : Bool := false
  /-- [ticks] [R201] [empty] replays of the last 1 ms -/
  replayTimes : List Tick := []
  /-- [12 × 64 bits] [R221] [0] counters in the order of FAB_COUNTERS -/
  ctr : Tbl Nat := []
  /-- [9 × 16 bits] [R219] [0] OMA against the baseline per lane, 0.01 dB -/
  oma : Tbl Int := []
  /-- [9 × 16 bits] [R219] [0] back-reflection above baseline per lane, 0.01 dB -/
  br : Tbl Int := []
  /-- [9 ratios] [R219] [DESIGN CHOICE 6: none measured] errored bits and bits of the last 10 s per lane -/
  ber : Tbl (Nat × Nat) := []
  /-- [9 ratios] [R219] [DESIGN CHOICE 10: none taken] the baseline of the same per lane -/
  berBase : Tbl (Nat × Nat) := []
  /-- [9 counts] [R201] [0] corrected FEC symbols per lane -/
  fecLane : Tbl Nat := []
  /-- [9 × 16 bits] [R220] [0] OMA of the baseline below the integration baseline per lane, 0.01 dB -/
  aged : Tbl Int := []
  /-- [ticks] [R219] [none] since when the inspect conditions hold on a lane without a break, per lane -/
  inspectAt : Tbl Tick := []
  /-- [ticks] [R220] [none] last CLEAN_REQ -/
  cleanAt : Option Tick := none
  /-- [ticks] [R220] [empty] cleanings of the last 24 h that left the port in INSPECT -/
  cleanings : List Tick := []
  /-- [1 bit] [R220] [false] cleaned: re-baseline when 10 s UP -/
  rebase : Bool := false
  /-- [ticks] [R220] [0] when the port came UP -/
  upAt : Tick := 0
  /-- [ticks] [R205] [0] last HELLO exchange -/
  helloAt : Tick := 0
  /-- [8 bits] [R220] [0] request id of the cleaning -/
  reqId : Nat := 0
  /-- [3 bytes] [R220] [empty] CLEAN_REQ last written to the cartridge -/
  cleanReq : List Byte := []
  /-- [count] [R220, R240] [0] consecutive failed STATUS reads of the cartridge -/
  cartFails : Nat := 0
  /-- [ticks] [R220] [none] last hourly PORT_INSPECT or CLEAN_INEFFECTIVE -/
  inspectPost : Option Tick := none
  deriving DecidableEq, Repr

/-- An export (R212). -/
structure Export where
  ctx : Nat
  dest : Nat
  attachMax : Nat
  /-- next SEQ, from 1 -/
  seq : Nat
  deriving DecidableEq, Repr

/-- An import (R213, R214). -/
structure Import where
  tenant : Nat
  origin : Nat
  srcCtx : Nat
  srcTenant : Nat
  slotsLog2 : Nat
  ringAddr : Nat
  consAddr : Nat
  h : Nat
  /-- set bits of the window, each sequence number with its arrival, rising -/
  window : List (Nat × Tick)
  delivered : Nat
  duplicates : Nat
  lost : Nat
  landFull : Nat
  drainDiscard : Nat
  /-- RECORD packets that landed last: sequence number and the attachment bytes their record names (R214) -/
  heads : List (Nat × Nat) := []
  /-- landing stopped by PF FLR (R222) -/
  stopped : Bool
  deriving DecidableEq, Repr

/-- A link of another module as its PORT_STATE packets report it (R206, R211). -/
structure Link where
  module : Nat
  port : Nat
  state : Nat
  neighbour : Nat
  deriving DecidableEq, Repr

/-- The route kept for a stream (R210): destination, ORIGIN, CONTEXT and the route's index. -/
structure Kept where
  dest : Nat
  origin : Nat
  ctx : Nat
  route : Nat
  deriving DecidableEq, Repr

/-- The fabric (R200-R222). -/
structure Fabric where
  /-- [12 ports] [R221] [reset ports] -/
  ports : Tbl FPort := []
  /-- [1024] [R221] [none] -/
  exports : Tbl Export := []
  /-- [1024] [R221] [none] -/
  imports : Tbl Import := []
  /-- [64 bits] [R208] [0] COUNTER -/
  counter : Nat := 0
  /-- [64 × 8 bits] [R206] [DESIGN CHOICE 10: 0] EPOCH per tenant -/
  epochs : Tbl Nat := []
  /-- [(src, tenant, epoch)] [R215] [empty] drained epochs -/
  drained : List (Nat × Nat × Nat) := []
  /-- [list] [R215] [empty] drain ids seen: source, id -/
  seen : List (Nat × Nat) := []
  /-- [32 bits] [R215] [0] the last drain id given -/
  drainId : Nat := 0
  /-- [per tenant] [R216] [none] fabric steps in progress: drain id, modules that must answer, start -/
  steps : Tbl (Nat × List Nat × Tick) := []
  /-- [list] [R216] [empty] streams whose imports a tenant's removal unbound: ORIGIN, SRC_CONTEXT, SRC_TENANT -/
  closed : List (Nat × Nat × Nat) := []
  /-- [list] [R211] [empty] links known of other modules -/
  links : List Link := []
  /-- [list] [R210] [empty] the route each stream keeps -/
  keeps : List Kept := []
  /-- [list] [R209] [empty] disabled routes: destination × 4 + index -/
  badRoutes : List Nat := []
  /-- [2 bits] [R217] [0 Local] 0 Local, 1 Locked, 2 Holdover -/
  timeState : Nat := 0
  /-- [1 bit] [R218] [false] the one step to Vault time has been taken since AON power-up -/
  stepped : Bool := false
  /-- [ns] [R217] [0xFFFF] measured uncertainty bound -/
  uncertainty : Nat := 0xFFFF
  /-- [ticks] [R217] [0] last TIME exchange with the parent -/
  timeAt : Tick := 0
  /-- [1 bit] [R217] [false] the alternate parent is in use -/
  alternate : Bool := false
  /-- [ticks] [R218] [none] start of the Holdover -/
  holdoverAt : Option Tick := none
  /-- [ns] [R217] [0] slew still to apply, signed -/
  slew : Int := 0
  /-- [ticks] [R217] [0] ticks since the last tick that slewing added or left out (200 ppm: one in 5,000) -/
  slewPhase : Nat := 0
  /-- [1 bit] [R208, R294] [false] exhausted: no port is brought up -/
  exhausted : Bool := false
  /-- [list] [R207, R210] [empty] packets delivered to this module and not yet acted on, with their arrival ports -/
  inbox : List (Nat × Packet) := []
  /-- [list] [R200] [empty] link frames sent, newest first, with their ports -/
  sent : List (Nat × Frame) := []
  /-- [list] [R222] [empty] records that were released in a Hold, oldest first: export, tenant, context and payloads -/
  heldOut : List (Nat × Nat × Nat × List (List Byte)) := []
  /-- [ticks] [R211] [0] last flood of the full port state -/
  floodAt : Tick := 0
  /-- [ticks] [R217] [0] last TIME request sent to the parent -/
  timeSent : Tick := 0
  /-- [1 bit] [R217, R218] [false] a Holdover has passed 1,000 ns of uncertainty: VAULT_SYNC is clear -/
  unsynced : Bool := false
  deriving DecidableEq, Repr

/-- The Twin pair (R277-R288). -/
structure Twin where
  /-- [2 bits] [R277] [0 Solo, the profile's default] role: 0 Solo, 1 Primary, 2 Standby -/
  role : Nat := 0
  /-- [2 bits] [R287] [0 absent] partner state: 0 absent, 1 joining, 2 joined, 3 lost -/
  partner : Nat := 0
  /-- [ticks] [R280] [0] last twin message -/
  heardAt : Tick := 0
  /-- [64 bits] [R287] [0] LEADS -/
  leads : Nat := 0
  /-- [32 bits] [R287] [0] SWITCHOVERS -/
  switchovers : Nat := 0
  /-- [32 bits] [R287] [0] TWIN_ABSENT -/
  absent : Nat := 0
  /-- [32 bits] [R287] [0] TWIN_SKIPPED -/
  skipped : Nat := 0
  /-- [32 bits] [R287] [0] UNJOINED -/
  unjoined : Nat := 0
  /-- [1 bit] [R283] [false] a handover waits for its ack -/
  handing : Bool := false
  /-- [8 bits] [R280] [0] cause of that handover -/
  handCause : Nat := 0
  /-- [ticks] [R284] [0] when this module became Primary -/
  primaryAt : Tick := 0
  /-- [1 bit] [R283] [false] a former Primary: releases only jobs led before the handover -/
  former : Bool := false
  /-- [list] [R281] [empty] leads for the Trowel pool: context, item, seq, pseq -/
  trowel : List (Nat × Nat × Nat × Nat) := []
  deriving DecidableEq, Repr

/-! ## Security (15), firmware (16), modes (17) -/

/-- A tenant (R297, R299). -/
structure Tenant where
  quotaGib : Nat
  /-- 1 open, 2 removing (R307) -/
  state : Nat := 1
  /-- removal step 1-6 while removing -/
  step : Nat := 0
  startAt : Tick := 0
  /-- frames mapped when the scrub began, MiB -/
  scrubMib : Nat := 0
  /-- bytes of the quota that images, regions, pools and KV reservations use (R98, R151) -/
  used : Nat := 0
  deriving DecidableEq, Repr

/-- Keys, tenants, attestation (R289-R308). -/
structure Sec where
  /-- [fuse] [R289] [DESIGN CHOICE 10: 2 FIELD] life-cycle state in force: 0 MANUFACTURE, 1 INTEGRATION, 2 FIELD, 3 RMA, 4 SCRAPPED -/
  life : Nat := 2
  /-- [fuse] [R289] [DESIGN CHOICE 10: 2 FIELD] life-cycle state fused, in force at the next start -/
  lifeFused : Nat := 2
  /-- [fuse, 64 bits] [R41] [DESIGN CHOICE 10: 0] SERIAL -/
  serial : Nat := 0
  /-- [fuse, 64 bits] [R295] [DESIGN CHOICE 10: 0] ORDER -/
  order : Nat := 0
  /-- [64 fuses] [R293] [none] key slots on generation B -/
  slotB : List Nat := []
  /-- [4 fuses] [R294] [none] retired fabric keys -/
  fabRetired : List Nat := []
  /-- [fuse] [R295] [DESIGN CHOICE 10: bound in FIELD] fabric key set bound -/
  fabBound : Bool := true
  /-- [fuse] [R296] [false] keys killed -/
  killed : Bool := false
  /-- [tenants] [R297] [none] -/
  tenants : Tbl Tenant := []
  /-- [64 bits] [R304] [DESIGN CHOICE 10: 0] configuration epoch -/
  epoch : Nat := 0
  /-- [bytes] [R302] [empty] the last SPDM response -/
  doe : List Byte := []
  /-- [2 bits] [R302] [0] SPDM negotiation: 0 none, 1 version, 2 capabilities, 3 algorithms -/
  spdm : Nat := 0
  /-- [bytes] [R302] [empty] SPDM transcript -/
  transcript : List Byte := []
  /-- [64 bits] [R305] [none] epoch of the transcript's first GET_MEASUREMENTS -/
  measEpoch : Option Nat := none
  deriving DecidableEq, Repr

/-- A firmware image (R310): its checked header fields and signature parts. -/
structure Image where
  role : Nat
  version : Nat
  epoch : Nat
  length : Nat
  digest : List Byte
  /-- five (MIN_VERSION, MAX_VERSION) pairs -/
  compat : List (Nat × Nat)
  verified : Bool
  deriving DecidableEq, Repr

/-- An activation in progress (R313). -/
structure Activation where
  area : Nat
  role : Nat
  /-- the next processor to come into service -/
  unit : Nat
  op : Nat
  /-- the image it replaces -/
  old : Image
  /-- 0 copying, 1 restarting -/
  phase : Nat
  deriving DecidableEq, Repr

/-- The cabinet profile (R320). -/
structure Profile where
  moduleId : Nat := 0
  order : Nat := 0
  seq : Nat := 1
  fallbackW : Nat := 900
  guardCeiling : Nat := 25
  /-- port, neighbour module, neighbour port -/
  topology : List (Nat × Nat × Nat) := []
  /-- destination, routes (hop count, ports) in order of preference -/
  routes : List (Nat × List (Nat × List Nat)) := []
  /-- root module, primary and alternate parent port -/
  timeRoot : Option (Nat × Nat × Nat) := none
  /-- partner module and initial role -/
  twin : Option (Nat × Nat) := none
  cartridge : Bool := false
  /-- section SENSORS: address, register, raw format, gain and offset of FLOW, INLET and OUTLET -/
  sensors : List Byte := []
  digest : List Byte := []
  deriving DecidableEq, Repr

/-- The shutdown record (R270) without its MAGIC and its MAC under the module key. -/
structure ShutRec where
  boot : Nat
  results : Nat
  time : Tick
  masonVersion : Nat
  repairs : Nat
  ledger : List Byte
  profile : List Byte
  deriving DecidableEq, Repr

/-- Firmware, flash and modes (R309-R330). -/
structure Flash where
  /-- [5 banks] [R309] [DESIGN CHOICE 10: version 2.3, epoch 0] active images in ROLE order -/
  active : List Image := []
  /-- [2 areas] [R309] [empty] staging areas -/
  staged : Tbl Image := []
  /-- [activation] [R313] [none] -/
  act : Option Activation := none
  /-- [7 bits] [R316] [DESIGN CHOICE 10: 0] anti-rollback counter C -/
  counter : Nat := 0
  /-- [flash] [R321] [DESIGN CHOICE 10: a profile with every default of R320] newest verified profile stored -/
  stored : Option Profile := some {}
  /-- [in force] [R321] [none until step 4] profile read at this start -/
  profile : Option Profile := none
  /-- [16 bits] [R208] [DESIGN CHOICE 10: 0] BOOT -/
  boot : Nat := 0
  /-- [192 bytes] [R270] [DESIGN CHOICE 10: none] shutdown record -/
  shutRec : Option ShutRec := none
  /-- [record] [R232] [DESIGN CHOICE 10: none] power-fail record: cause, running partitions, AON time -/
  failRec : Option (Nat × Nat × Tick) := none
  /-- [flash] [R277] [none: the profile's initial role holds] Twin role kept in module flash -/
  twinBit : Option Nat := none
  /-- [flash] [R324] [0 Native, at shipment] stored interface bit -/
  ifaceBit : Nat := 0
  /-- [flash] [R324] [0 Single, at shipment] stored tenancy -/
  tenancyBit : Nat := 0
  /-- [fuse] [R326] [DESIGN CHOICE 10: none] COMPAT lock -/
  lock : Option Nat := none
  /-- [in force] [R325] [0 Native] interface in force -/
  iface : Nat := 0
  /-- [in force] [R324] [0 Single] tenancy in force -/
  tenancy : Nat := 0
  /-- [sampled] [R325] [low] COMPAT_SEL as sampled at this start -/
  selSampled : Bool := false
  deriving DecidableEq, Repr

/-- The module. -/
structure State where
  /-- [queue] [block rule] [empty] commands that wait, first in first out -/
  pending : List Instr := []
  /-- [64 bits] [R33] [0] the AON counter -/
  now : Tick := 0
  /-- [count] [DESIGN CHOICE 1, model's own] [1] ticks that one idle step stands for -/
  idleTicks : Nat := 1
  /-- [count] [free values, model's own] [DESIGN CHOICE 11: 0] index of the next free value -/
  freeIdx : Nat := 0
  host : HostIf := {}
  mason : Mason := {}
  parts : Tbl Part := []
  plans : Tbl Plan := []
  /-- [32 bits] [R100] [0] the last PLAN_ID given -/
  lastPlan : Nat := 0
  /-- [16 Courses] [R90] [reset] number Pier × 4 + Course -/
  courses : Tbl Course := []
  /-- [144 tiles] [R350] [reset] number Pier × 36 + Course × 9 + tile -/
  tiles : Tbl Tile := []
  /-- [4 Piers] [R11] [reset] -/
  piers : Tbl Pier := []
  mem : MemSys := {}
  /-- [16,384 contexts] [R198] [none] -/
  ctxs : Tbl Ctx := []
  /-- [count] [R145] [0] admission order of the next item -/
  nextOrder : Nat := 0
  trowel : Trowel := {}
  power : Power := {}
  therm : Thermal := {}
  flt : Faults := {}
  fab : Fabric := {}
  twin : Twin := {}
  sec : Sec := {}
  fw : Flash := {}
  deriving DecidableEq, Repr

/-- Faults of the model: none is raised, because every command of the table has an effect (see NOTES.md, Stops); the type
has one constructor so that the interface's outcome is inhabited. -/
inductive Fault where
  /-- An access outside every address space: no meaning raises it (safe). -/
  | noSuchAddress (a : Nat)
  deriving DecidableEq, Repr

/-- Refusals. -/
inductive Refusal where
  /-- Raised by the dispatch for a command without a meaning (safe). -/
  | notModelled (mnemonic : String)
  deriving DecidableEq, Repr

/-- The machine right after reset: every field at the value its docstring names; the AON supply is not yet up and
AON_POWER_UP starts the module (R234). -/
def State.reset : State := {}

end Sys2Proof.Machine
end

