-- ==== Sys2Proof/Machine/Mem.lean ====
section
/-! DEFINITION. Bytes, sparse memory in its one canonical form, SRAM lines with valid tags (R104), little-endian words (R6). -/

namespace Sys2Proof.Machine

/-! ## Bytes and little-endian words -/

/-- The `n` low bytes of `k`, least significant first (R6). -/
def leBytes : Nat → Nat → List Byte
  | 0, _ => []
  | n + 1, k => BitVec.ofNat 8 k :: leBytes n (k / 256)

/-- The number that little-endian bytes stand for. -/
def leNat : List Byte → Nat
  | [] => 0
  | b :: t => b.toNat + 256 * leNat t

/-- The `n` bytes from offset `off`, zeros past the end. -/
def slice (bs : List Byte) (off n : Nat) : List Byte :=
  let p := (bs.drop off).take n
  p ++ List.replicate (n - p.length) 0

/-- The little-endian field of `n` bytes at `off`. -/
def field (bs : List Byte) (off n : Nat) : Nat := leNat (slice bs off n)

/-- `bs` cut or padded with zeros to `n` bytes. -/
def padTo (n : Nat) (bs : List Byte) : List Byte := slice bs 0 n

def allZero (bs : List Byte) : Bool := bs.all (· == 0)

/-- Bits [hi:lo] of `n`. -/
def bitsOf (n hi lo : Nat) : Nat := n / 2 ^ lo % 2 ^ (hi - lo + 1)

def bitOf (n i : Nat) : Bool := n / 2 ^ i % 2 == 1

/-- `n` as a two's-complement number of `w` bits. -/
def signed (w n : Nat) : Int := if n % 2 ^ w < 2 ^ (w - 1) then (n % 2 ^ w : Nat) else (n % 2 ^ w : Nat) - (2 : Int) ^ w

/-- `i` as `w` bits of two's complement. -/
def unsigned (w : Nat) (i : Int) : Nat := (i % (2 : Int) ^ w).toNat

def boolN (b : Bool) : Nat := if b then 1 else 0

def ceilDiv (a b : Nat) : Nat := (a + b - 1) / b

/-- Addition that stops at `m`. -/
def satAdd (m a b : Nat) : Nat := min m (a + b)

def sat32 (a b : Nat) : Nat := satAdd 0xFFFFFFFF a b
def sat64 (a b : Nat) : Nat := satAdd 0xFFFFFFFFFFFFFFFF a b

/-! ## Memory -/

/-- The byte at `a`; an unlisted address reads as zero (log 8). -/
def memRead : Memory → Nat → Byte
  | [], _ => 0
  | (k, b) :: t, a => if k = a then b else if a < k then 0 else memRead t a

/-- Writes one byte, keeping addresses rising and zeros unlisted. -/
def memWrite : Memory → Nat → Byte → Memory
  | [], a, b => if b = 0 then [] else [(a, b)]
  | (k, c) :: t, a, b =>
    if k = a then (if b = 0 then t else (a, b) :: t)
    else if a < k then (if b = 0 then (k, c) :: t else (a, b) :: (k, c) :: t)
    else (k, c) :: memWrite t a b

def memReadN (m : Memory) (a : Nat) : Nat → List Byte
  | 0 => []
  | n + 1 => memRead m a :: memReadN m (a + 1) n

def memWriteN (m : Memory) (a : Nat) : List Byte → Memory
  | [] => m
  | b :: t => memWriteN (memWrite m a b) (a + 1) t

/-- Zeros `[lo, lo + n)`. -/
def memClear (m : Memory) (lo n : Nat) : Memory := m.filter fun c => decide (c.1 < lo) || decide (lo + n ≤ c.1)

/-- The canonical form: addresses strictly rising and no zero listed. -/
def Memory.wf : Memory → Bool
  | [] => true
  | [(_, b)] => b != 0
  | (a, b) :: (a', b') :: t => b != 0 && decide (a < a') && Memory.wf ((a', b') :: t)

/-! ## SRAM with valid tags (R104) -/

/-- The canonical form of an SRAM array's bytes. -/
def Sram.wf (s : Sram) : Bool := Memory.wf s.bytes

def insertNat : List Nat → Nat → List Nat
  | [], n => [n]
  | k :: t, n => if k = n then k :: t else if n < k then n :: k :: t else k :: insertNat t n

def removeNat (l : List Nat) (n : Nat) : List Nat := l.filter (· != n)

/-- Rule 2 of R104: a line whose tag is clear reads as zero. -/
def sramRead (s : Sram) (a : Nat) : Byte := if s.valid.contains (a / 64) then memRead s.bytes a else 0

/-- Rules 1 and 3 of R104. -/
def sramWrite (s : Sram) (a : Nat) (b : Byte) : Sram :=
  if s.valid.contains (a / 64) then { s with bytes := memWrite s.bytes a b }
  else { bytes := memWrite (memClear s.bytes (a / 64 * 64) 64) a b, valid := insertNat s.valid (a / 64) }

def sramReadN (s : Sram) (a : Nat) : Nat → List Byte
  | 0 => []
  | n + 1 => sramRead s a :: sramReadN s (a + 1) n

def sramWriteN (s : Sram) (a : Nat) : List Byte → Sram
  | [] => s
  | b :: t => sramWriteN (sramWrite s a b) (a + 1) t

/-- Rule 4 of R104 over the lines [lo, hi): tags clear, the array is not touched. -/
def sramInvalidate (s : Sram) (lo hi : Nat) : Sram :=
  { s with valid := s.valid.filter fun n => decide (n < lo) || decide (hi ≤ n) }

/-! ## Lists -/

/-- Drops the first element that meets `p`. -/
def dropFirst {α : Type} (p : α → Bool) : List α → List α
  | [] => []
  | x :: t => if p x then t else x :: dropFirst p t

/-- Inserts by key, before the first element whose key is larger (stable). -/
def insertBy {α : Type} (le : α → α → Bool) (x : α) : List α → List α
  | [] => [x]
  | y :: t => if le y x then y :: insertBy le x t else x :: y :: t

/-- Stable insertion sort, structurally recursive so that the kernel evaluates it. -/
def sortBy {α : Type} (le : α → α → Bool) : List α → List α
  | [] => []
  | x :: t => insertByFront x (sortBy le t)
where
  insertByFront (x : α) : List α → List α
    | [] => [x]
    | y :: t => if le x y then x :: y :: t else y :: insertByFront x t

/-- The least number below `n` that meets `p`. -/
def leastBelow (n : Nat) (p : Nat → Bool) : Option Nat := (List.range n).find? p

def sumNat (l : List Nat) : Nat := l.foldl (· + ·) 0

def maxInt (d : Int) (l : List Int) : Int := l.foldl max d

/-- The middle of a sorted list (the lower of two). -/
def medianInt (l : List Int) : Int := (sortBy (fun a b => decide (a ≤ b)) l).getD ((l.length - 1) / 2) 0

/-- Keeps an updated element of a list by position. -/
def setAt {α : Type} : List α → Nat → α → List α
  | [], _, _ => []
  | _ :: t, 0, v => v :: t
  | x :: t, n + 1, v => x :: setAt t n v

end Sys2Proof.Machine
end

