-- ==== Sys2Proof/Machine/Crypto.lean ====
section
/-! DEFINITION. The published functions that the spec names: SHA-384 (FIPS 180-4; R95, R303, R319), CRC-32 of IEEE 802.3
(R274, R319) and Philox-4x32-10 (R160). -/

namespace Sys2Proof.Machine

/-! ## SHA-384 -/

/-- Primes below 410: the 80 round constants are 64 fraction bits of their cube roots. -/
def primesTo (n : Nat) : List Nat :=
  (List.range n).filter fun p => decide (2 ≤ p) && (List.range 21).all fun d => d < 2 || d == p || p % d != 0

/-- Greatest r with r^k ≤ n, by bits from 2^b down. -/
def rootFloor (k n : Nat) : Nat → Nat → Nat
  | 0, acc => acc
  | b + 1, acc => rootFloor k n b (if (acc + 2 ^ b) ^ k ≤ n then acc + 2 ^ b else acc)

def sha512K : List W64 :=
  (primesTo 410).map fun p => BitVec.ofNat 64 (rootFloor 3 (p * 2 ^ 192) 68 0)

/-- Initial hash of SHA-384: 64 fraction bits of the square roots of the 9th to 16th primes. -/
def sha384H0 : List W64 :=
  ((primesTo 54).drop 8).map fun p => BitVec.ofNat 64 (rootFloor 2 (p * 2 ^ 128) 68 0)

def rotr64 (x : W64) (n : Nat) : W64 := (x >>> n) ||| (x <<< (64 - n))

def beBytes (n k : Nat) : List Byte := (leBytes n k).reverse

def shaPad (bs : List Byte) : List Byte :=
  bs ++ [0x80] ++ List.replicate ((111 + 128 - bs.length % 128) % 128) 0 ++ beBytes 16 (8 * bs.length)

def beWords : Nat → List Byte → List W64
  | 0, _ => []
  | n + 1, bs => BitVec.ofNat 64 (leNat (bs.take 8).reverse) :: beWords n (bs.drop 8)

/-- The message schedule: `w` holds the last 16 words, oldest first; one new word a round. -/
def shaRounds : List W64 → List W64 → List W64 → List W64
  | k :: ks, w0 :: w, [a, b, c, d, e, f, g, h] =>
    let s1 := rotr64 e 14 ^^^ rotr64 e 18 ^^^ rotr64 e 41
    let ch := (e &&& f) ^^^ (~~~e &&& g)
    let t1 := h + s1 + ch + k + w0
    let s0 := rotr64 a 28 ^^^ rotr64 a 34 ^^^ rotr64 a 39
    let mj := (a &&& b) ^^^ (a &&& c) ^^^ (b &&& c)
    let w1 := w.getD 0 0
    let w14 := w.getD 13 0
    let n := w0 + (rotr64 w1 1 ^^^ rotr64 w1 8 ^^^ (w1 >>> 7)) + w.getD 8 0 + (rotr64 w14 19 ^^^ rotr64 w14 61 ^^^ (w14 >>> 6))
    shaRounds ks (w ++ [n]) [t1 + s0 + mj, a, b, c, d + t1, e, f, g]
  | _, _, st => st

def shaBlock (h : List W64) (block : List Byte) : List W64 :=
  List.zipWith (· + ·) h (shaRounds sha512K (beWords 16 block) h)

def shaBlocks : Nat → List W64 → List Byte → List W64
  | 0, h, _ => h
  | n + 1, h, bs => shaBlocks n (shaBlock h (bs.take 128)) (bs.drop 128)

/-- SHA-384 of a byte string, 48 bytes. -/
def sha384 (bs : List Byte) : List Byte :=
  let p := shaPad bs
  (((shaBlocks (p.length / 128) sha384H0 p).take 6).map fun w => beBytes 8 w.toNat).flatten

/-! ## CRC-32 (IEEE 802.3) -/

def crcBit (c : W32) : W32 := if c.getLsbD 0 then (c >>> 1) ^^^ 0xEDB88320#32 else c >>> 1

def crcByte (c : W32) (b : Byte) : W32 :=
  crcBit (crcBit (crcBit (crcBit (crcBit (crcBit (crcBit (crcBit (c ^^^ b.setWidth 32))))))))

def crc32 (bs : List Byte) : W32 := ~~~(bs.foldl crcByte 0xFFFFFFFF#32)

/-! ## Philox-4x32-10 (R160) -/

def philoxRound (c : W32 × W32 × W32 × W32) (k0 k1 : W32) : W32 × W32 × W32 × W32 :=
  let p0 := 0xD2511F53 * c.1.toNat
  let p1 := 0xCD9E8D57 * c.2.2.1.toNat
  (BitVec.ofNat 32 (p1 / 2 ^ 32) ^^^ c.2.1 ^^^ k0, BitVec.ofNat 32 p1,
   BitVec.ofNat 32 (p0 / 2 ^ 32) ^^^ c.2.2.2 ^^^ k1, BitVec.ofNat 32 p0)

def philoxRounds : Nat → W32 × W32 × W32 × W32 → W32 → W32 → W32 × W32 × W32 × W32
  | 0, c, _, _ => c
  | n + 1, c, k0, k1 => philoxRounds n (philoxRound c k0 k1) (k0 + 0x9E3779B9#32) (k1 + 0xBB67AE85#32)

/-- First output word for a seed, a context position and a purpose (R160). -/
def philox (seed : W64) (pos purpose : Nat) : W32 :=
  (philoxRounds 10 (BitVec.ofNat 32 pos, BitVec.ofNat 32 purpose, 0, 0) (seed.setWidth 32) ((seed >>> 32).setWidth 32)).1

end Sys2Proof.Machine
end

