-- ==== Sys2Proof/Config.lean ====
section
/-! DEFINITION. What the spec leaves open: free values (`opaque`, no body, so that no proof can see a value), and the fixed
secrets of the module (keys, certificates), which appear only through opaque functions. -/

namespace Sys2Proof.Config

/-- A value the spec leaves open, fresh at each index (log 11). -/
opaque freeWord : Nat → W64

/-- Result of a G-register shift by 64 or more, which R83 does not state, by direction (0 left, 1 right, 2 arithmetic) and operands (log 12). -/
opaque wideShift : Nat → W64 → W64 → W64

/-- The exact distance, in ulp steps of FP32 from the correctly rounded result, of a Dressing result that R71 only bounds:
by the function's number and the input (log 13). It is reduced to the bound where it is used. -/
opaque ulpStep : Nat → W32 → Nat

/-- Whether an ECDSA P-384 signature verifies: key number (0 firmware, 1 integrator, 2 manufacturing, 3 RMA), SHA-384 digest,
96 signature bytes (R290, R310, R320; log 14). -/
opaque sigOk : Nat → List Byte → List Byte → Bool

/-- The attestation key's signature over a digest (R302, R306; log 14). -/
opaque attestSign : List Byte → List Byte

/-- The certificate chain of slot 0 and its digest (R302; log 14). -/
opaque certChain : List Byte
opaque certDigest : List Byte

/-- A control-plane result that the spec does not state, by its name's number and its operands (log 15). -/
opaque unstated : Nat → List Nat → Nat

/-- AES-GCM-256 under a fabric key: the encrypted payload and the 16-byte tag, by KEY_ID, IV, additional data and payload (R207; log 111). -/
opaque aesGcm : Nat → List Byte → List Byte → List Byte → List Byte

/-! ## The encoder (R177-R180; log 129): its decisions beside those that the manual states -/

/-- What the encoder decides before it codes a frame: picture type (0 I, 1 P, 2 B), IDR, which source picture it codes, as pictures back from
the newest, and under CBR and VBR the frame QP. -/
structure EncPlan where
  picType : Nat
  idr : Bool
  ago : Nat
  qp : Nat
  deriving DecidableEq, Repr, Inhabited

/-- What coding a frame gives: the access unit, the reconstructed picture, the stream state after it. -/
structure EncOut where
  unit : List Byte
  recon : List Byte
  stream : StreamState
  deriving Inhabited

/-- By settings, stream state, a forced IDR, the block offsets in place and the source picture. -/
opaque encPlan : List Nat → StreamState → Bool → List Int → List Byte → EncPlan

/-- By settings, stream state, plan, block QPs, motion vectors by reference and coding unit, and the picture coded. -/
opaque encode : List Nat → StreamState → EncPlan → List Nat → List (List (Int × Int)) → List Byte → EncOut

/-- The cost of a vector in quarter pixels: codec, whether on subsampled luma, samples of the block, samples of the window. -/
opaque matchCost : Nat → Bool → List Nat → List Nat → Int → Int → Nat

/-- Bytes of filler data: codec and length. -/
opaque filler : Nat → Nat → List Byte

end Sys2Proof.Config
end

