-- ==== Sys2Proof/Machine/Flags.lean ====
section
/-! DEFINITION. Status codes (R40), register words (R33, R34, R48, R52, R117) and the flags that other files read from the state. -/

namespace Sys2Proof.Machine

/-! ## Shared status codes (R40) -/

namespace St
abbrev ok : Nat := 0x00
abbrev accepted : Nat := 0x01
abbrev busy : Nat := 0x02
abbrev retryAfter : Nat := 0x03
abbrev refused : Nat := 0x04
abbrev badCommand : Nat := 0x05
abbrev badArg : Nat := 0x06
abbrev badGeometry : Nat := 0x07
abbrev noResource : Nat := 0x08
abbrev noSlot : Nat := 0x09
abbrev notPermitted : Nat := 0x0A
abbrev tenantClosed : Nat := 0x0B
abbrev headerRejected : Nat := 0x0C
abbrev signatureFailed : Nat := 0x0D
abbrev incompatible : Nat := 0x0E
abbrev rollback : Nat := 0x0F
abbrev abortedFault : Nat := 0x10
abbrev abortedThermal : Nat := 0x11
abbrev abortedPower : Nat := 0x12
abbrev cancelled : Nat := 0x13
abbrev safeState : Nat := 0x14
abbrev late : Nat := 0x15
abbrev shed : Nat := 0x16
end St

/-! ## Time in AON ticks of 40 ns (R6) -/

def tUs (n : Nat) : Tick := 25 * n
def tMs (n : Nat) : Tick := 25000 * n
def tS (n : Nat) : Tick := 25000000 * n

def State.since (s : State) (t : Tick) : Tick := s.now - t

/-- Whether at least `d` ticks have passed since an instant that was noted. -/
def State.passed (s : State) (t : Option Tick) (d : Tick) : Bool :=
  match t with
  | some t => decide (d ≤ s.now - t)
  | none => false

/-! ## The module's conditions -/

/-- Every power stage but AON is on and the module is out of reset: clocks run and events of the module's units take place. -/
def State.up (s : State) : Bool := s.power.stages && s.power.perstN

/-- READY (R33): the state in which work is admitted and run. -/
def State.ready (s : State) : Bool := s.up && s.power.phase == 1

/-- READY or SHUTTING_DOWN: partitions, contexts and tenants may exist. -/
def State.working (s : State) : Bool := s.up && (s.power.phase == 1 || s.power.phase == 3)

def State.broup (s : State) : Bool := s.fw.iface == 1
def State.multi (s : State) : Bool := s.fw.tenancy == 1

/-- A coolant sensor holds its Safe cause while it is silent and for 10 s after (R240). -/
def Sensor.holds (q : Sensor) : Bool := q.silent || q.backAt.isSome

/-- SAFE_CAUSES of PWR_STATUS (R225, R237): supply, flow, sensor, thermal. -/
def State.safeCauses (s : State) : Nat :=
  boolN s.power.safeSupply + 2 * boolN s.therm.safeFlow.on +
    4 * boolN (s.therm.flow.holds || s.therm.inletS.holds || s.therm.outletS.holds) +
    8 * boolN (s.therm.safeInlet.on || s.therm.safeOutlet.on || s.therm.safeJunction.on)

def State.safeCause (s : State) : Bool := s.safeCauses != 0

/-- The profile in force (R224, R225): 0 Full, 1 Eco, 2 Safe. -/
def State.profile (s : State) : Nat := if s.safeCause then 2 else boolN s.power.eco

/-- The processors of a role restart one after another (R313). -/
def State.restarting (s : State) (role : Nat) : Bool :=
  match s.fw.act with
  | some a => a.role == role && a.phase == 1
  | none => false

/-- MODULE_ID of the verified profile (R320); none without a Vault. -/
def State.moduleId (s : State) : Option Nat := s.fw.profile.map (·.moduleId)

def State.moduleIdWord (s : State) : Nat := s.moduleId.getD 0xFFFF

/-! ## Register words -/

/-- MOD_ID (R33). -/
def State.modId (s : State) : Nat := 0x000243B1 + s.moduleIdWord * 2 ^ 32

/-- MOD_STATE.STATE (R33): MASON_PAUSE stands while Mason is paused. -/
def State.stateField (s : State) : Nat := if s.mason.paused && s.power.phase != 2 then 4 else s.power.phase

/-- MOD_STATE (R33). -/
def State.modState (s : State) : Nat :=
  s.stateField + boolN s.broup * 2 ^ 3 + s.profile * 2 ^ 4 + boolN s.power.hold * 2 ^ 6 + boolN s.therm.quench * 2 ^ 7 +
    boolN s.power.floor * 2 ^ 8 + boolN s.therm.flowLow.on * 2 ^ 9

/-- MB_STATUS (R34). -/
def Mailbox.statusWord (m : Mailbox) : Nat := m.state + m.status * 2 ^ 8 + m.doneCount * 2 ^ 16

/-- MB_CTRL (R34). -/
def Mailbox.ctrlWord (m : Mailbox) : Nat := boolN m.intrEn + 2 * boolN m.overrun

/-- RING_CFG (R48). -/
def Ring.cfgWord (r : Ring) : Nat :=
  boolN r.enable + 2 * boolN r.registered + r.size * 2 ^ 4 + r.vector * 2 ^ 8 + r.modCount * 2 ^ 16

/-- The set bits of a done register (R33). -/
def doneWord (l : List Nat) : Nat := (l.map fun i => 2 ^ i).foldl (· + ·) 0

/-- CH_STATUS (R117). -/
def Channel.statusWord (c : Channel) : Nat :=
  boolN c.busy + 2 * boolN c.armed + 4 * boolN c.activeB + 8 * boolN c.stopped + c.doneCount * 2 ^ 16

/-! ## Tenants -/

/-- VF_ID.TENANT_OPEN (R33): the tenant exists and is not being removed. -/
def State.tenantOpen (s : State) (t : Nat) : Bool :=
  match s.sec.tenants.find? t with
  | some r => r.state == 1
  | none => false

/-- VF_ID.SLOTS_BOUND (R33). A closed binding (R301) is bound to no context. -/
def State.slotsBound (s : State) (v : Nat) : Nat :=
  (s.host.slotBind.filter fun p => p.1 / 768 == v && p.2 != 16384).length

def State.vfId (s : State) (v : Nat) : Nat := v % 64 + boolN (s.tenantOpen v) * 2 ^ 8 + s.slotsBound v * 2 ^ 16

end Sys2Proof.Machine
end

