-- ==== Sys2Proof/Machine/Operands.lean ====
section
/-! DEFINITION. Operand forms: request headers and payload fields (R35, R327), places of partitions, tiles and memory
(R22, R90, R81, R108), and the one way to reach a record of a table. -/

namespace Sys2Proof.Machine

/-! ## Requests -/

/-- A request's header fields and payload, by the interface in force (R35, R327). -/
def reqCode (broup : Bool) (b : List Byte) : Nat := if broup then field b 4 2 else field b 0 2
def reqTag (broup : Bool) (b : List Byte) : Nat := if broup then field b 0 4 else field b 4 4
def reqLen (broup : Bool) (b : List Byte) : Nat := if broup then field b 6 2 else field b 8 2
def reqPayload (broup : Bool) (b : List Byte) : List Byte := slice b (if broup then 8 else 16) (min 240 (reqLen broup b))

/-- Check 1 of R36: the header is well formed. -/
def reqHeaderOk (broup : Bool) (b : List Byte) : Bool :=
  if broup then decide (reqLen broup b ≤ 240)
  else field b 2 1 == 1 && field b 3 1 == 0 && decide (reqLen broup b ≤ 240) && field b 10 6 == 0

/-! ## Partitions, Courses and tiles (R22, R90) -/

def Part.size (p : Part) : Nat := 2 ^ p.sizeLog2

/-- Global Course number (Pier × 4 + Course) of logical Ashlar `l`. -/
def Part.courseOf (p : Part) (l : Nat) : Nat := p.pier * 4 + p.course + (if p.size ≤ 8 then 0 else l / 8)

def Part.slotOf (p : Part) (l : Nat) : Nat := if p.size ≤ 8 then p.slot + l else l % 8

def Part.nCourses (p : Part) : Nat := if p.size ≤ 8 then 1 else p.size / 8

def Part.courses (p : Part) : List Nat := (List.range p.nCourses).map (p.pier * 4 + p.course + ·)

def Part.piers (p : Part) : List Nat := (List.range 4).filter fun q => p.courses.any fun c => c / 4 == q

def Part.hasCourse (p : Part) (c : Nat) : Bool := p.courses.contains c

/-- Loose inside one Course, Coursed beyond (R22). -/
def Part.coursed (p : Part) : Bool := decide (8 < p.size)

/-- Number of semaphores: 32 per Ashlar (R22). -/
def Part.semCount (p : Part) : Nat := 32 * p.size

/-- Bytes of the partition's Course-buffer space: 128 KiB per Ashlar (R22). -/
def Part.cbufSize (p : Part) : Nat := 131072 * p.size

/-- Logical Ashlar of a partition that sits in (Course, slot), if any. -/
def Part.logicalAt (p : Part) (c slot : Nat) : Option Nat :=
  leastBelow p.size fun l => p.courseOf l == c && p.slotOf l == slot

def State.course (s : State) (c : Nat) : Course := s.courses.get {} c
def State.tile (s : State) (t : Nat) : Tile := s.tiles.get {} t
def State.pier (s : State) (p : Nat) : Pier := s.piers.get {} p
def State.chan (s : State) (c : Nat) : Channel := s.mem.ch.get {} c
def State.vf (s : State) (v : Nat) : Vf := s.host.vfs.get {} v
def State.ring (s : State) (v r : Nat) : Ring := (s.vf v).rings.get {} r
def State.core (s : State) (c : Nat) : Core := s.trowel.cores.get {} c
def State.port (s : State) (p : Nat) : FPort := s.fab.ports.get {} p
def State.stack (s : State) (k : Nat) : Stack := s.therm.hbmStacks.get {} k
def State.unit (s : State) (kind id : Nat) : Unit := s.flt.units.get {} (kind * 2 ^ 20 + id)
def State.part? (s : State) (p : Nat) : Option Part := s.parts.find? p
def State.ctx? (s : State) (c : Nat) : Option Ctx := s.ctxs.find? c
def State.plan? (s : State) (p : Nat) : Option Plan := s.plans.find? p
def State.cbuf (s : State) (c : Nat) : Sram := s.mem.cbuf.get {} c

/-- Physical tile (Pier × 36 + Course × 9 + tile) that serves a slot of a Course; none where the slot is absent. -/
def State.tileOfSlot (s : State) (c slot : Nat) : Option Nat :=
  let t := (s.course c).map.getD slot 15
  if t < 9 then some (c * 9 + t) else none

def State.tileOf (s : State) (p : Part) (l : Nat) : Option Nat := s.tileOfSlot (p.courseOf l) (p.slotOf l)

/-- The idle physical tile of a Course (R90): in no slot and not retired. -/
def Course.idle (c : Course) : Option Nat := leastBelow 9 fun t => !c.map.contains t && !c.retired.contains t

/-- Slot of a Course that a physical tile (0-8) serves. -/
def Course.slotOfTile (c : Course) (t : Nat) : Option Nat := leastBelow 8 fun k => c.map.getD k 15 == t

/-- Active Ashlars of a Course (R41): 0, 7 or 8; a retired Course has none. -/
def Course.active (c : Course) : Nat := if c.gone then 0 else (c.map.filter (· < 9)).length

/-- The partition that holds a slot of a Course. -/
def State.partAt (s : State) (c slot : Nat) : Option (Nat × Part) :=
  List.find? (fun q : Nat × Part => (q.2.logicalAt c slot).isSome) s.parts

/-! ## One way to change a record -/

def State.updPart (s : State) (p : Nat) (f : Part → Part) : State :=
  match s.parts.find? p with
  | some r => { s with parts := s.parts.set p (f r) }
  | none => s

def State.updCtx (s : State) (c : Nat) (f : Ctx → Ctx) : State :=
  match s.ctxs.find? c with
  | some r => { s with ctxs := s.ctxs.set c (f r) }
  | none => s

def State.updCourse (s : State) (c : Nat) (f : Course → Course) : State := { s with courses := s.courses.upd {} c f }
def State.updTile (s : State) (t : Nat) (f : Tile → Tile) : State := { s with tiles := s.tiles.upd {} t f }
def State.updPier (s : State) (p : Nat) (f : Pier → Pier) : State := { s with piers := s.piers.upd {} p f }
def State.updChan (s : State) (c : Nat) (f : Channel → Channel) : State := { s with mem.ch := s.mem.ch.upd {} c f }
def State.updVf (s : State) (v : Nat) (f : Vf → Vf) : State := { s with host.vfs := s.host.vfs.upd {} v f }
def State.updRing (s : State) (v r : Nat) (f : Ring → Ring) : State :=
  s.updVf v fun x => { x with rings := x.rings.upd {} r f }
def State.updCore (s : State) (c : Nat) (f : Core → Core) : State := { s with trowel.cores := s.trowel.cores.upd {} c f }
def State.updPort (s : State) (p : Nat) (f : FPort → FPort) : State := { s with fab.ports := s.fab.ports.upd {} p f }
def State.updStack (s : State) (k : Nat) (f : Stack → Stack) : State :=
  { s with therm.hbmStacks := s.therm.hbmStacks.upd {} k f }
def State.updUnit (s : State) (kind id : Nat) (f : Unit → Unit) : State :=
  { s with flt.units := s.flt.units.upd {} (kind * 2 ^ 20 + id) f }
def State.updCbuf (s : State) (c : Nat) (f : Sram → Sram) : State := { s with mem.cbuf := s.mem.cbuf.upd {} c f }
def State.updTenant (s : State) (t : Nat) (f : Tenant → Tenant) : State :=
  match s.sec.tenants.find? t with
  | some r => { s with sec.tenants := s.sec.tenants.set t (f r) }
  | none => s

def Part.chisel (p : Part) (l : Nat) : Chisel := p.chisels.get {} l

def State.updChisel (s : State) (p l : Nat) (f : Chisel → Chisel) : State :=
  s.updPart p fun r => { r with chisels := r.chisels.upd {} l f }

def State.updPartCtr (s : State) (p : Nat) (f : PartCounters → PartCounters) : State :=
  s.updPart p fun r => { r with ctr := f r.ctr }

/-! ## Register sets of a host channel (R112, R117) -/

def ShSet.tenant (x : ShSet) : Nat := bitsOf x.ctrl.toNat 13 8
def Channel.shadowSet (c : Channel) : ShSet := if c.activeB then c.setA else c.setB
def Channel.activeSet (c : Channel) : ShSet := if c.activeB then c.setB else c.setA

/-- Sets armed, active or landing, of a tenant. -/
def Channel.holdsTenant (c : Channel) (t : Nat) : Bool :=
  (c.armed && c.shadowSet.tenant == t) || (c.busy && c.activeSet.tenant == t) || match c.landing with | some x => x.tenant == t | none => false

/-! ## Sets of the internal channels (R112) -/

/-- The oldest host-sourced unit of a decode context whose bytes are not in HBM (R173). -/
def Ctx.toCopy (c : Ctx) : Option Item := List.find? (fun i : Item => i.kind == 0x0601 && !bitOf i.dflags 0 && !c.codec.copied.contains i.order) c.queue

def PendingOp.intJob (o : PendingOp) : Option IntJob :=
  match o.kind with
  | .planLoad _ _ _ _ => some (.op o.opId)
  | .fwStage _ _ _ => some (.op o.opId)
  | .profileWrite _ _ => some (.op o.opId)
  | _ => none

/-- What the internal channels have to move: operations, host copies and decode units in turn. -/
def State.intJobs (s : State) : List IntJob :=
  s.mason.ops.filterMap PendingOp.intJob ++ (s.mem.copies.map fun h => .copy h.id) ++
    s.ctxs.filterMap fun c => if c.2.codec.state == 1 then c.2.toCopy.map fun i => .unit c.1 i.order else none

def IntChannel.holds (c : IntChannel) (j : IntJob) : Bool := c.active == some j || c.shadow == some j

/-- A set whose job has ended is free, and the shadow set becomes active. -/
def IntChannel.turn (c : IntChannel) (js : List IntJob) : IntChannel :=
  let live (x : Option IntJob) : Option IntJob := x.filter js.contains
  match live c.active with
  | some j => { active := some j, shadow := live c.shadow }
  | none => { active := live c.shadow, shadow := none }

/-- A job without a set takes the active set of the lowest free channel in service, else the lowest free shadow set, else it waits. -/
def giveSet (retired : List Nat) (t : Tbl IntChannel) (j : IntJob) : Tbl IntChannel :=
  if t.any fun c => c.2.holds j then t
  else
    match leastBelow 32 fun k => !retired.contains k && (t.get {} k).active.isNone with
    | some k => t.upd {} k fun c => { c with active := some j }
    | none =>
      match leastBelow 32 fun k => !retired.contains k && (t.get {} k).shadow.isNone with
      | some k => t.upd {} k fun c => { c with shadow := some j }
      | none => t

/-- Sets of ended jobs are free, waiting jobs take sets (log 124). -/
def State.syncSets (s : State) : State :=
  { s with mem.intCh := s.intJobs.foldl (giveSet s.mem.intRetired) (s.mem.intCh.mapVals fun k c => if s.mem.intRetired.contains k then {} else c.turn s.intJobs) }

/-- A channel runs the job in its active set: all Lintel engines pause in a Hold (R123). -/
def State.intRuns (s : State) (j : IntJob) : Bool := s.up && !s.power.hold && s.mem.intCh.any fun c => c.2.active == some j

/-- The end of a job of an internal channel: `f` is its effect; nothing happens while the job holds no active set. -/
def State.intDone (s : State) (j : IntJob) (f : State → State) : State :=
  let s1 := s.syncSets
  if s1.intRuns j then (f s1).syncSets else s

/-! ## Mailboxes -/

/-- The mailbox exists (R31, R32). -/
def mbExists (m : Mb) : Bool :=
  match m.fn with
  | .pf => decide (m.idx < 32)
  | .vf v => decide (v < 64) && decide (m.idx < 4)

def State.mbox (s : State) (m : Mb) : Mailbox :=
  match m.fn with
  | .pf => s.host.pfMb.get {} m.idx
  | .vf v => s.host.vfMb.get {} (v * 4 + m.idx)

def State.updMbox (s : State) (m : Mb) (f : Mailbox → Mailbox) : State :=
  match m.fn with
  | .pf => { s with host.pfMb := s.host.pfMb.upd {} m.idx f }
  | .vf v => { s with host.vfMb := s.host.vfMb.upd {} (v * 4 + m.idx) f }

/-! ## Memory of a tenant (R108): 48-bit offsets through 2 MiB frames -/

def State.frameOf (s : State) (tenant page : Nat) : Option Nat := s.mem.frames.find? (tenant * 2 ^ 28 + page)

/-- Physical HBM address of a tenant offset; none where no frame is mapped. -/
def State.physAddr (s : State) (tenant off : Nat) : Option Nat :=
  (s.frameOf tenant (off / 2 ^ 21)).map fun f => f * 2 ^ 21 + off % 2 ^ 21

/-- Frames of one Pier (R106) and those of its system region (R107). -/
def pierFrames : Nat := 36864
def sysFrames : Nat := 128

/-- Diode pairs: tiles 0 to 143, then the Plinth's eight pairs. -/
def State.pair (s : State) (n : Nat) : Tile := if n < 144 then s.tile n else s.therm.plinth.get {} (n - 144)
def State.updPair (s : State) (n : Nat) (f : Tile → Tile) : State :=
  if n < 144 then s.updTile n f else { s with therm.plinth := s.therm.plinth.upd {} (n - 144) f }

/-- HBM stacks that `n` bytes of a tenant's space from `off` on lie in (R106): bit 8 of the physical address selects the stack of a Pier. -/
def State.spanStacks (s : State) (tenant off n : Nat) : List Nat :=
  ((List.range (if n = 0 then 0 else (off + n - 1) / 2 ^ 21 + 1 - off / 2 ^ 21)).map fun i =>
    let pg := off / 2 ^ 21 + i
    let lo := max off (pg * 2 ^ 21)
    let hi := min (off + n) ((pg + 1) * 2 ^ 21)
    match s.frameOf tenant pg with
    | none => []
    | some f =>
      let pier := f / pierFrames
      if lo / 256 == (hi - 1) / 256 then [2 * pier + lo / 256 % 2] else [2 * pier, 2 * pier + 1]).flatten.dedup

/-- A request to these stacks may be served now (R111, R249): no Quench holds them in self-refresh and none is stopped for heat. -/
def State.hbmServes (s : State) (ks : List Nat) : Bool := !s.therm.quench && ks.all fun k => (s.stack k).state != 3

/-- HBM traffic ends self-refresh (R111). -/
def State.hbmTouch (s : State) (pier : Nat) : State := s.updPier pier fun q => { q with selfRefresh := false, hbmBusyAt := s.now }

def State.touchStacks (s : State) (ks : List Nat) : State := ((ks.map (· / 2)).dedup).foldl (fun s k => s.hbmTouch k) s

def State.hbmByte (s : State) (tenant off : Nat) : Byte :=
  match s.physAddr tenant off with
  | some a => memRead s.mem.hbm a
  | none => 0

def State.hbmReadN (s : State) (tenant off : Nat) : Nat → List Byte
  | 0 => []
  | n + 1 => s.hbmByte tenant off :: s.hbmReadN tenant (off + 1) n

def State.hbmWrite (s : State) (tenant off : Nat) (b : Byte) : State :=
  match s.physAddr tenant off with
  | some a => { s with mem.hbm := memWrite s.mem.hbm a b }
  | none => s

def State.hbmWriteN (s : State) (tenant off : Nat) : List Byte → State
  | [] => s
  | b :: t => (s.hbmWrite tenant off b).hbmWriteN tenant (off + 1) t

/-- Whether every byte of the range has a frame. -/
def State.hbmMapped (s : State) (tenant off n : Nat) : Bool :=
  n == 0 || (List.range ((off + n - 1) / 2 ^ 21 + 1 - off / 2 ^ 21)).all fun i => (s.frameOf tenant (off / 2 ^ 21 + i)).isSome

def State.hostWriteN (s : State) (a : Nat) (bs : List Byte) : State := { s with mem.host := memWriteN s.mem.host a bs }
def State.hostReadN (s : State) (a n : Nat) : List Byte := memReadN s.mem.host a n

end Sys2Proof.Machine
end

