-- ==== Sys2Proof/Machine/Ops.lean ====
section
/-! DEFINITION. The operations that the meanings share: interrupts (R51), the error log and the event queue (R274, R52), the
mailbox transport and Mason's checks (R34-R39, R351), accepted operations (R38), free values. -/

namespace Sys2Proof.Machine

/-- What a command answers; no meaning of this model stops (NOTES.md, Stops). -/
abbrev Out := Host.Outcome State Fault Refusal

/-- The next free value (log 11). -/
def State.free (s : State) : W64 × State := (Config.freeWord s.freeIdx, { s with freeIdx := s.freeIdx + 1 })

/-! ## Functions and interrupts -/

/-- VFs that exist (R30, R324). -/
def State.vfCount (s : State) : Nat := if s.multi then 64 else 1

/-- The function exists and answers configuration requests. -/
def State.fnThere (s : State) : Fn → Bool
  | .pf => s.host.linkUp
  | .vf v => s.host.linkUp && s.host.vfEnable && decide (v < s.vfCount)

/-- Memory requests to the function's BAR0 reach it: D3hot disables BAR decoding (R29). -/
def State.fnDecodes (s : State) (f : Fn) : Bool := s.fnThere f && !s.host.d3.contains f

def State.vector (s : State) : Fn → Nat → Vector
  | .pf, i => s.host.pfVec.get {} i
  | .vf v, i => s.host.vfVec.get {} (v * 8 + i)

def State.setVector (s : State) (f : Fn) (i : Nat) (x : Vector) : State :=
  match f with
  | .pf => { s with host.pfVec := s.host.pfVec.set i x }
  | .vf v => { s with host.vfVec := s.host.vfVec.set (v * 8 + i) x }

def State.sendMsg (s : State) (f : Fn) (i : Nat) : State :=
  { s with host.msgs := ⟨f, i, (s.vector f i).addr, (s.vector f i).data⟩ :: s.host.msgs }

/-- R51: a masked vector sets its pending bit and fires when unmasked. -/
def State.raiseVec (s : State) (f : Fn) (i : Nat) : State :=
  if (s.vector f i).masked then s.setVector f i { s.vector f i with pending := true } else s.sendMsg f i

/-! ## The error log and the event queue -/

/-- Severity of an event code (R349); 0x090B carries that of the name its state byte reports. -/
def severityOf (code : Nat) (detail : List Byte) : Nat :=
  if code = 0x090B then (if field detail 2 1 = 3 then 2 else 1)
  else if [0x0902, 0x0904, 0x0A08, 0x0D0F].contains code then 3
  else if [0x0807, 0x0906, 0x0908, 0x0909, 0x090D, 0x0A01, 0x0A03, 0x0A04, 0x0A06, 0x0A07, 0x0A09, 0x0C03, 0x0D06, 0x0D08, 0x0D09,
      0x0D0A, 0x0D81, 0x0D83].contains code then 2
  else if [0x0101, 0x0104, 0x0105, 0x0501, 0x0802, 0x0903, 0x0A0A, 0x0B01, 0x0B02, 0x0B05, 0x0C01, 0x0C02, 0x0D01, 0x0D05, 0x0D0D,
      0x0D0E, 0x0D82].contains code then 0
  else 1

/-- Log fields of an entry beside those of the event (R274). -/
structure LogTag where
  cls : Nat := 0xFF
  action : Nat := 0
  part : Nat := 0xFFFF
  ctx : Nat := 0xFFFF

def mainCap : Nat := 262144
def keptCap : Nat := 32768

/-- R274: the entries that also go to the kept area. -/
def logKept (code cls action : Nat) : Bool := cls == 2 || [2, 3, 4, 5, 6, 8, 9, 10].contains action || [0x0807, 0x0A08].contains code

/-- Appends one error-log entry (R274). -/
def State.logWrite (s : State) (code kind id : Nat) (detail : List Byte) (t : LogTag) : State :=
  let k := logKept code t.cls t.action && decide (s.flt.kept.length < keptCap)
  let e : LogEntry := { number := s.flt.logNext, code, severity := severityOf code detail, kind, id, time := s.now, boot := s.fw.boot, cls := t.cls, action := t.action, part := t.part, ctx := t.ctx, detail := padTo 16 detail, kept := k }
  { s with
    flt.logNext := s.flt.logNext + 1
    flt.log := (e :: s.flt.log).take mainCap
    flt.kept := if k then e :: s.flt.kept else s.flt.kept
    flt.unflushed := s.flt.unflushed ++ [e] }

/-- R52: the queue is full when (EQ_PROD + 1) modulo 512 equals EQ_CONS. -/
def EventQueue.full (q : EventQueue) : Bool := (q.prod + 1) % 512 == q.cons

def eventBytes (code sev kind id : Nat) (time : Tick) (detail : List Byte) : List Byte :=
  leBytes 2 code ++ leBytes 1 sev ++ leBytes 1 kind ++ leBytes 4 id ++ leBytes 8 time ++ padTo 16 detail

/-- Writes an entry at EQ_PROD, advances it and raises PF vector 1 under INTR_EN. -/
def State.eqPut (s : State) (bytes : List Byte) : State :=
  let s := { s with host.eq.entries := s.host.eq.entries.set s.host.eq.prod bytes, host.eq.prod := (s.host.eq.prod + 1) % 512 }
  if s.host.eq.intrEn then s.raiseVec .pf 1 else s

/-- R52: an event's entry, or its count where the queue is full. -/
def State.eqEvent (s : State) (code kind id : Nat) (detail : List Byte) : State :=
  if s.host.eq.full then
    { s with host.eq.lost := sat32 s.host.eq.lost 1, host.eq.overflow := true, host.eq.lostRun := s.host.eq.lostRun + 1 }
  else s.eqPut (eventBytes code (severityOf code detail) kind id s.now detail)

/-- Posts an event: event queue and error log (R52, R274). -/
def State.postT (s : State) (code kind id : Nat) (detail : List Byte) (t : LogTag) : State :=
  (s.eqEvent code kind id detail).logWrite code kind id detail t

def State.post (s : State) (code kind id : Nat) (detail : List Byte) : State := s.postT code kind id detail {}

/-- R52: when space returns, the first entry written is EVENTS_LOST with the count of the losses since the queue last had space (log 114). -/
def State.eqSpace (s : State) : State :=
  if s.host.eq.lostRun == 0 || s.host.eq.full then s
  else
    let n := s.host.eq.lostRun
    { s with host.eq.lostRun := 0 }.post 0x0102 0 0 (leBytes 4 (min n 0xFFFFFFFF))

/-! ## Mailboxes (R34-R39) -/

/-- A request that Mason executes. -/
structure Req where
  mb : Mb
  code : Nat
  tag : Nat
  len : Nat
  pay : List Byte

/-- The virtual function that issued the request; it serves the tenant of its number (R30). -/
def Req.vf (r : Req) : Option Nat :=
  match r.mb.fn with
  | .pf => none
  | .vf v => some v

def Req.u8 (r : Req) (o : Nat) : Nat := field r.pay o 1
def Req.u16 (r : Req) (o : Nat) : Nat := field r.pay o 2
def Req.u32 (r : Req) (o : Nat) : Nat := field r.pay o 4
def Req.u64 (r : Req) (o : Nat) : Nat := field r.pay o 8

/-- A response before its header is laid out. -/
structure Resp where
  status : Nat := St.ok
  detail : Nat := 0
  arg : Nat := 0
  payload : List Byte := []

/-- Response bytes in the interface in force (R35, R327). -/
def respBytes (broup : Bool) (code tag : Nat) (r : Resp) : List Byte :=
  (if broup then leBytes 4 tag ++ leBytes 2 code ++ leBytes 1 r.status ++ leBytes 1 r.detail ++ leBytes 4 r.arg ++
      leBytes 2 r.payload.length ++ leBytes 2 0
    else leBytes 2 code ++ leBytes 1 r.status ++ leBytes 1 r.detail ++ leBytes 4 tag ++ leBytes 2 r.payload.length ++ leBytes 2 0 ++
      leBytes 4 r.arg) ++ r.payload

/-- Rule 4 of R34: the response area is complete. -/
def State.respond (s : State) (m : Mb) (code tag : Nat) (r : Resp) : State :=
  let s := s.updMbox m fun b =>
    { b with resp := respBytes s.broup code tag r, state := 2, status := r.status, doneCount := (b.doneCount + 1) % 65536 }
  let s := match m.fn with
    | .pf => { s with host.pfDone := insertNat s.host.pfDone m.idx }
    | .vf v => s.updVf v fun x => { x with mbDone := insertNat x.mbDone m.idx }
  if (s.mbox m).intrEn then s.raiseVec m.fn 0 else s

/-! ### Objects and their order (R37) -/

/-- An object that commands touch: kind (1 partition, 2 context, 3 plan, 4 tenant, 5 Pier, 6 unit, 7 port, 8 staging area,
9 profile, 10 pair, 11 power state) and number. -/
abbrev Obj := Nat × Nat

def OpKind.objs : OpKind → List Obj
  | .partCreate p _ => [(1, p)]
  | .partDestroy p => [(1, p)]
  | .planLoad _ _ _ _ => []
  | .ctxRemove c => [(2, c)]
  | .ctxRebind c p => [(2, c), (1, p)]
  | .mapFrames c => [(2, c)]
  | .srvPause c => [(2, c)]
  | .vidFlush c => [(2, c)]
  | .shutdown => [(11, 0)]
  | .fltTest k i _ => [(6, k * 2 ^ 20 + i)]
  | .pierReset p => [(5, p)]
  | .fabRetrain p => [(7, p)]
  | .fabClean p => [(7, p)]
  | .twinJoin => [(10, 0)]
  | .twinHandover => [(10, 0)]
  | .tenantRemove t => [(4, t)]
  | .attest _ _ _ _ => []
  | .fwStage a _ _ => [(8, a)]
  | .fwActivate a => [(8, a)]
  | .profileWrite _ _ => [(9, 0)]

/-- R37: an object is held by an accepted operation that still runs (log 16). -/
def State.held (s : State) (o : Obj) : Bool := s.mason.ops.any fun p => p.kind.objs.contains o

/-- As `held`, a session's pause left aside: CTX_REMOVE ends a session in any state (R148). -/
def State.heldFor (s : State) (o : Obj) : Bool :=
  s.mason.ops.any fun p => (match p.kind with | .srvPause _ => false | _ => true) && p.kind.objs.contains o

/-- Objects that a waiting request touches; `none` where it may touch any (log 17). -/
def reqObjs (code : Nat) (pay : List Byte) : Option (List Obj) :=
  let g := code / 256
  if g == 1 then some []
  else if g == 2 && code != 0x0201 then some [(1, field pay 0 2)]
  else if code == 0x0304 then some [(2, field pay 0 2), (1, field pay 2 2)]
  else if g == 3 && code != 0x0301 then some [(2, field pay 0 2)]
  else if g == 5 || g == 7 || (g == 6 && code != 0x0607) then some [(2, field pay 0 2)]
  else none

/-- R37: the requests may run in either order. -/
def reqsApart (broup : Bool) (a b : MasonReq) : Bool :=
  match reqObjs (reqCode broup a.bytes) (reqPayload broup a.bytes), reqObjs (reqCode broup b.bytes) (reqPayload broup b.bytes) with
  | some x, some y => x.all fun o => !y.contains o
  | some [], none => true
  | none, some [] => true
  | _, _ => false

/-- The oldest request of a mailbox that may run now, by its position: no earlier request touches its objects (R37). -/
def takeReq (broup : Bool) (m : Mb) : List MasonReq → List MasonReq → Option MasonReq
  | _, [] => none
  | before, r :: t =>
    if r.mb = m then (if before.all (fun q => reqsApart broup q r) then some r else none)
    else takeReq broup m (r :: before) t

/-- Mason runs: power is on, the start has reached the end of its steps, and no pause is in force (R34, R39). -/
def State.masonRuns (s : State) : Bool := s.up && s.power.phase != 0 && !s.mason.paused

def mkReq (broup : Bool) (r : MasonReq) : Req :=
  ⟨r.mb, reqCode broup r.bytes, reqTag broup r.bytes, reqLen broup r.bytes, reqPayload broup r.bytes⟩

/-- Checks 3 to 6 of R36, in order: the first that fails gives its status. -/
def State.reqCheck (s : State) (r : Req) (vfOk : Bool) (layout : Req → Bool) : Option Nat :=
  if r.vf.isSome && !vfOk then some St.notPermitted
  else if (match r.vf with | some v => !s.tenantOpen v | none => false) then some St.tenantClosed
  else if s.power.phase == 2 && r.code / 256 != 1 && r.code / 256 != 0x0E then some St.safeState
  else if !layout r then some St.badArg
  else none

/-- Executes the request of mailbox `m` where it is the command `code` (R36, R37); else nothing happens (log 18). -/
def State.mbRun (s : State) (m : Mb) (code : Nat) (vfOk : Bool) (layout : Req → Bool) (body : State → Req → State × Resp) : State :=
  match takeReq s.broup m [] s.mason.inputs with
  | none => s
  | some q =>
    let r := mkReq s.broup q
    if r.code != code || !s.masonRuns then s
    else
      let s1 := { s with mason.inputs := dropFirst (fun x => x.mb == m) s.mason.inputs }
      let (s2, resp) := match s1.reqCheck r vfOk layout with
        | some st => (s1, { status := st : Resp })
        | none => body s1 r
      if q.discard then s2 else s2.respond m code r.tag resp

/-- Layouts (check 6 of R36): the length, and ranges of reserved bytes that must be zero. -/
def lenIs (n : Nat) (rsv : List (Nat × Nat)) (r : Req) : Bool := r.len == n && rsv.all fun p => field r.pay p.1 p.2 == 0

def okR (payload : List Byte) : Resp := { payload := payload }
def failR (status : Nat) (detail : Nat := 0) : Resp := { status := status, detail := detail }

/-! ### Accepted operations (R38) -/

/-- Answers ACCEPTED with the next OP_ID: 1 after each start, no 0 after the wrap. -/
def State.accept (s : State) (r : Req) (k : OpKind) : State × Resp :=
  let id := if s.mason.lastOp + 1 < 2 ^ 32 then s.mason.lastOp + 1 else 1
  ({ s with mason.lastOp := id, mason.ops := s.mason.ops ++ [⟨id, r.mb, r.code, r.tag, k⟩] }, { status := St.accepted, arg := id })

def State.op? (s : State) (id : Nat) : Option PendingOp := List.find? (fun p => p.opId == id) s.mason.ops

def State.dropOp (s : State) (id : Nat) : State := { s with mason.ops := s.mason.ops.filter fun p => p.opId != id }

/-- The first accepted operation that meets `p`. -/
def State.opOf (s : State) (p : OpKind → Bool) : Option PendingOp := List.find? (fun o => p o.kind) s.mason.ops

end Sys2Proof.Machine
end

