-- ==== Sys2Proof/Machine/Records.lean ====
section
/-! DEFINITION. What leaves the module as results: Sett packets on their routes (R206-R210), completion records in their rings
with backlog and moderation (R48-R51, R278, R328), exports (R212), and the end of accepted operations (R38). -/

namespace Sys2Proof.Machine

/-! ## Packets -/

/-- UP, HALF, or INSPECT of a port that stays in use (R210, R220). -/
def portUsable (st : Nat) : Bool := st == 2 || st == 3 || st == 4

def State.ownId (s : State) : Nat := s.moduleIdWord % 256

/-- R277: the pair id is the lower of the two module ids. -/
def State.pairId (s : State) : Nat :=
  match s.fw.profile.bind (·.twin) with
  | some (partner, _) => min s.ownId partner
  | none => s.ownId

def State.partner (s : State) : Option Nat := (s.fw.profile.bind (·.twin)).map Prod.fst

/-- ORIGIN of this module's streams (R277). -/
def State.origin (s : State) : Nat := if s.twin.role == 0 then s.ownId else s.pairId

def State.linkOk (s : State) (m p : Nat) : Bool :=
  if m == s.ownId then portUsable (s.port p).state
  else s.fab.links.any fun l => l.module == m && l.port == p && portUsable l.state

/-- The neighbour at a module's port: from the profile for this module, from PORT_STATE for the others (R209, R211). -/
def State.neighbour (s : State) (m p : Nat) : Option Nat :=
  if m == s.ownId then (s.fw.profile.bind fun f => List.find? (fun t => t.1 == p) f.topology).map fun t => t.2.1
  else (List.find? (fun l : Link => l.module == m && l.port == p) s.fab.links).map (·.neighbour)

/-- Follows a route's ports; every link must be known UP or HALF (R210). -/
def State.traceOk (s : State) (dest : Nat) : Nat → List Nat → Bool
  | cur, [] => cur == dest
  | cur, p :: t =>
    s.linkOk cur p && match s.neighbour cur p with
      | some n => s.traceOk dest n t
      | none => false

/-- The profile's routes to a destination: index, hop count and ports (R209). -/
def State.routesTo (s : State) (dest : Nat) : List (Nat × Nat × List Nat) :=
  match s.fw.profile with
  | none => []
  | some f =>
    match List.find? (fun r => r.1 == dest) f.routes with
    | none => []
    | some r => r.2.zipIdx.map fun x => (x.2, x.1.1, x.1.2)

def State.routeOk (s : State) (dest : Nat) (r : Nat × Nat × List Nat) : Bool :=
  !s.fab.badRoutes.contains (dest * 4 + r.1) && s.traceOk dest s.ownId (r.2.2.take r.2.1)

/-- R210: the route a stream keeps while its links stay up, else the first usable one. -/
def State.pickRoute (s : State) (dest origin ctx : Nat) : Option (Nat × Nat × List Nat) :=
  let rs := (s.routesTo dest).filter (s.routeOk dest)
  match List.find? (fun k : Kept => k.dest == dest && k.origin == origin && k.ctx == ctx) s.fab.keeps with
  | some k => (match List.find? (fun r => r.1 == k.route) rs with | some r => some r | none => rs.head?)
  | none => rs.head?

def frameBytes (p : Packet) : Nat := 32 + p.payload.length + 16 + 8

def FPort.count (f : FPort) (i n : Nat) : FPort := { f with ctr := f.ctr.set i (sat64 (f.ctr.get 0 i) n) }

/-- Credits of 4 KiB that a packet's frame takes of the receive buffer (R201; log 19). -/
def creditsOf (p : Packet) : Nat := ceilDiv (frameBytes p) 4096

/-- The next frame of a port: it gives back the credits owed. -/
def FPort.frame (f : FPort) (p : Packet) : Frame := { seq := f.txSeq, credits := f.owed, pkt := p }

/-- A frame is sent: it stays in the retry buffer, and its credits are out. -/
def FPort.send (f : FPort) (p : Packet) : FPort :=
  { (f.count 0 1).count 9 (frameBytes p) with
    retry := f.retry ++ [f.frame p], txSeq := f.txSeq + 1, credits := f.credits - creditsOf p, unpaid := f.unpaid ++ [(f.txSeq, creditsOf p)], owed := 0 }

/-- Sends what waits while there is credit for it, in order. -/
def State.pumpPort (s : State) (port : Nat) : List Packet → State
  | [] => s.updPort port fun f => { f with waiting := [] }
  | p :: t =>
    if creditsOf p ≤ (s.port port).credits then
      { s.updPort port fun f => f.send p with fab.sent := (port, (s.port port).frame p) :: s.fab.sent }.pumpPort port t
    else s.updPort port fun f => { f with waiting := p :: t }

/-- Sends a packet as one link frame of a port; without credit, or behind others, it waits (R200, R201). -/
def State.sendOn (s : State) (port : Nat) (p : Packet) : State := s.pumpPort port ((s.port port).waiting ++ [p])

/-- Credits come back for whole frames, the oldest first: what they name has left the neighbour's buffer, so it leaves the retry buffer too. -/
def FPort.repay : Nat → List (Nat × Nat) → FPort → FPort
  | _, [], f => f
  | n, u :: t, f =>
    if u.2 ≤ n then FPort.repay (n - u.2) t { f with unpaid := t, credits := f.credits + u.2, retry := f.retry.filter fun x => decide (u.1 < x.seq) } else f

/-- A port leaves service: what its retry buffer, its receive buffer and its queue hold is discarded and counted in ROUTE_DROP (R202). -/
def FPort.dropFrames (f : FPort) : FPort :=
  { f.count 6 (f.retry.length + f.rx.length + f.waiting.length) with retry := [], rx := [], waiting := [], unpaid := [], credits := 256, owed := 0, nak := none, replayTimes := [] }

/-- R294: the lowest KEY_ID that has not been retired. -/
def State.keyId (s : State) : Nat := (leastBelow 4 fun k => !s.sec.fabRetired.contains k).getD 0

/-- A packet this module originates, before its route is known; COUNTER is taken at sending (R206, R208). -/
def State.newPacket (s : State) (dest type : Nat) : Packet :=
  { dest, src := s.ownId, origin := s.origin, type, tenant := 0, keyId := s.keyId, epoch := 0, hop := 0, hopCount := 1, first := false, last := false, twin := s.twin.role != 0, context := 0, route := [], seq := 0, boot := s.fw.boot, counter := 0, payload := [], tagOk := true }

/-- The port of the first route listed to a destination; port 0 where none is listed. -/
def State.firstPort (s : State) (dest : Nat) : Nat := ((s.routesTo dest).head?.map fun r => r.2.2.getD 0 0).getD 0

/-- Originates a packet by route (R208, R210): with no usable route it is not sent, and counted in ROUTE_DROP (log 38). -/
def State.sendRouted (s : State) (p : Packet) : State :=
  match s.pickRoute p.dest p.origin p.context with
  | none => s.updPort (s.firstPort p.dest) fun f => f.count 6 1
  | some r =>
    let p := { p with hop := 1, hopCount := r.2.1, route := r.2.2, counter := s.fab.counter }
    let k : Kept := ⟨p.dest, p.origin, p.context, r.1⟩
    let s := { s with fab.counter := s.fab.counter + 1, fab.keeps := k :: s.fab.keeps.filter fun x => !(x.dest == k.dest && x.origin == k.origin && x.ctx == k.ctx) }
    s.sendOn (r.2.2.getD 0 0) p

/-- Originates a one-hop packet on a port (R206). -/
def State.sendLocal (s : State) (port : Nat) (p : Packet) : State :=
  let p := { p with hop := 1, hopCount := 1, route := [port], counter := s.fab.counter }
  { s with fab.counter := s.fab.counter + 1 }.sendOn port p

/-! ## Completion records (R50, R327) -/

/-- The 64 bytes of a record under a PHASE, with the pair sequence of R278 in Native. -/
def recBytes (broup : Bool) (phase : Bool) (r : Rec) : List Byte :=
  let body := padTo 32 r.body
  if broup then
    leBytes 1 r.type ++ leBytes 1 r.status ++ leBytes 1 (boolN phase + 2 * boolN r.last) ++ leBytes 1 0 ++
      leBytes 4 (r.ctx % 2 ^ 14 + r.tenant * 2 ^ 16) ++ leBytes 8 r.userTag.toNat ++ leBytes 4 r.seq ++ leBytes 4 r.detail ++
      leBytes 4 r.time ++ leBytes 3 r.pseq ++ leBytes 1 0 ++ body
  else
    leBytes 1 r.type ++ leBytes 1 r.status ++ leBytes 2 (boolN phase + 2 * boolN r.last + r.pseq % 2 ^ 14 * 4) ++
      leBytes 4 (r.ctx % 2 ^ 14 + r.tenant * 2 ^ 16 + r.pseq / 2 ^ 14 % 2 ^ 10 * 2 ^ 22) ++ leBytes 4 r.seq ++ leBytes 4 r.detail ++
      leBytes 8 r.userTag.toNat ++ leBytes 8 r.time ++ body

def Ring.records (r : Ring) : Nat := 2 ^ (8 + r.size)

/-- R49: full when (TAIL + 1) modulo size equals HEAD. -/
def Ring.full (r : Ring) : Bool := (r.tail + 1) % r.records == r.head

/-- R51: raises the ring's vector when MOD_COUNT or more records are unannounced. -/
def State.ringAnnounce (s : State) (v i : Nat) : State :=
  let r := s.ring v i
  if decide (max 1 r.modCount ≤ r.unannounced) then
    (s.updRing v i fun r => { r with unannounced := 0 }).raiseVec (.vf v) r.vector
  else s

/-- Writes one record at TAIL and advances TAIL; PHASE alternates on each lap (R50). -/
def State.ringWrite (s : State) (v i : Nat) (x : Rec) : State :=
  let r := s.ring v i
  let s := s.hostWriteN (r.base * 4096 + 64 * r.tail) (recBytes s.broup r.phase x)
  let t := (r.tail + 1) % r.records
  let s := s.updRing v i fun r =>
    { r with
      tail := t
      phase := if t == 0 then !r.phase else r.phase
      unannounced := r.unannounced + 1
      oldestAt := if r.unannounced == 0 then s.now else r.oldestAt }
  s.ringAnnounce v i

def State.ringDropOne (s : State) (v i : Nat) : State := s.updRing v i fun r => { r with drop := sat32 r.drop 1 }

/-- R48, R49: writes a record, or keeps it in the VF's backlog, or drops and counts it. -/
def State.ringPush (s : State) (v i : Nat) (x : Rec) : State :=
  let r := s.ring v i
  if !r.registered then s.ringDropOne v i
  else if !r.full && !((s.vf v).backlog.any fun q => q.1 == i) then s.ringWrite v i x
  else if (s.vf v).backlog.length < 256 then s.updVf v fun f => { f with backlog := f.backlog ++ [(i, x)] }
  else
    let s := (s.ringDropOne v i).updRing v i fun r => { r with overflow := true }
    if r.overflow then s else s.post 0x0103 9 v (leBytes 1 i)

/-! ## Exports (R212) -/

/-- The packet payloads of a record and its attachment: the first holds the record. -/
def exportChunks (recd att : List Byte) : List (List Byte) :=
  (recd ++ att.take 4032) :: chunksOf' 4096 (att.length + 1) (att.drop 4032)
where
  chunksOf' (k : Nat) : Nat → List Byte → List (List Byte)
    | 0, _ => []
    | _, [] => []
    | n + 1, l => l.take k :: chunksOf' k n (l.drop k)

def State.exportSend (s : State) (id tenant ctx : Nat) (n : Nat) : Nat → List (List Byte) → State
  | _, [] => s
  | i, c :: t =>
    match s.fab.exports.find? id with
    | none => s
    | some e =>
      let p := { s.newPacket e.dest (if i == 0 then 1 else 2) with tenant, epoch := s.fab.epochs.get 0 tenant, context := ctx, first := i == 0, last := i + 1 == n, seq := e.seq, payload := c }
      let s := s.sendRouted p
      let s := { s with fab.exports := s.fab.exports.set id { e with seq := (e.seq + 1) % 2 ^ 48 } }
      s.exportSend id tenant ctx n (i + 1) t

/-- Sends a released record of an exported context with its attachment, cut at ATTACH_MAX; in a Hold it waits (R222). -/
def State.exportRec (s : State) (c : Ctx) (x : Rec) (phase : Bool) (att : List Byte) : State :=
  match c.exportId with
  | none => s
  | some id =>
    match s.fab.exports.find? id with
    | none => s
    | some e =>
      let ch := exportChunks (recBytes s.broup phase x) (att.take e.attachMax)
      if s.power.hold then { s with fab.heldOut := s.fab.heldOut ++ [(id, x.tenant, x.ctx, ch)] } else s.exportSend id x.tenant x.ctx ch.length 0 ch

/-- At the end of a Hold the records that waited are sent. -/
def State.exportHeld (s : State) : State :=
  s.fab.heldOut.foldl (fun s h => s.exportSend h.1 h.2.1 h.2.2.1 h.2.2.2.length 0 h.2.2.2) { s with fab.heldOut := [] }

/-! ## Release -/

/-- R278: PSEQ runs 1 to 2^24 - 1 and skips 0. -/
def nextPseq (p : Nat) : Nat := if p + 1 < 2 ^ 24 then p + 1 else 1

/-- Records that carry a pair sequence in Twin role (R278). -/
def recPaired (type : Nat) : Bool := decide (2 ≤ type) && decide (type ≤ 6)

/-- Counters over released records: of VIS_COUNTERS (R146) and of VID_QUERY (R183). -/
def Ctx.countRec (c : Ctx) (x : Rec) : Ctx :=
  let bit (i : Nat) : Nat := boolN (bitOf x.detail i)
  if x.type == 2 then
    { c with
      vision.images := sat64 c.vision.images 1
      vision.boxes := sat64 c.vision.boxes (x.detail % 2 ^ 11)
      vision.candTruncated := sat32 c.vision.candTruncated (bit 11)
      vision.maxOutHits := sat32 c.vision.maxOutHits (bit 12) }
  else if x.type == 3 then
    let ev := x.detail % 16
    { c with
      codec.units := sat64 c.codec.units (boolN x.last)
      codec.pictures := sat64 c.codec.pictures (boolN (ev == 0))
      codec.concealedN := sat32 c.codec.concealedN (boolN (ev == 0) * bit 4)
      codec.dropped := sat32 c.codec.dropped (boolN (ev == 2))
      codec.streamErrors := sat32 c.codec.streamErrors (boolN (ev == 3)) }
  else if x.type == 4 then
    { c with
      codec.units := sat64 c.codec.units 1
      codec.pictures := sat64 c.codec.pictures 1
      codec.oversize := sat32 c.codec.oversize (bit 3)
      codec.hrdViol := sat32 c.codec.hrdViol (bit 4)
      codec.coreNs := sat64 c.codec.coreNs (field x.body 24 4) }
  else c

/-- Releases a record of a context to its ring and its export (R26, R50, R212, R278). `perMember` releases it with PSEQ 0
(R288). -/
def State.release (s : State) (x : Rec) (att : List Byte) (perMember : Bool := false) : State :=
  match s.ctx? x.ctx with
  | none => s
  | some c =>
    let paired := s.twin.role != 0 && recPaired x.type && !perMember
    let n := nextPseq c.pseq
    let x := if paired then { x with pseq := n } else { x with pseq := 0 }
    let s := s.updCtx x.ctx fun c => { c.countRec x with pseq := if paired then n else c.pseq }
    let phase := (s.ring x.tenant c.ring).phase
    let s := s.ringPush x.tenant c.ring x
    s.exportRec c x phase att

/-- R38: the final status of an accepted operation: a CMD_DONE event on the PF, a CMD_DONE record in ring 0 on a VF. -/
def State.finishOp (s : State) (id : Nat) (status : Nat) (detail : Nat := 0) : State :=
  match s.op? id with
  | none => s
  | some o =>
    let s := s.dropOp id
    match o.mb.fn with
    | .pf => s.post 0x0101 8 o.mb.idx (leBytes 2 o.code ++ leBytes 1 status ++ leBytes 1 detail ++ leBytes 4 o.tag ++ leBytes 4 id)
    | .vf v =>
      s.ringPush v 0 { type := 1, status, last := false, ctx := 0, tenant := v, seq := 0, detail := o.code + detail * 2 ^ 16, userTag := BitVec.ofNat 64 o.tag, time := s.now, body := leBytes 4 id, pseq := 0 }

/-- Ends every accepted operation that meets `p`. -/
def State.finishOps (s : State) (p : OpKind → Bool) (status : Nat) (detail : Nat := 0) : State :=
  (s.mason.ops.filter fun o => p o.kind).foldl (fun s o => s.finishOp o.opId status detail) s

/-- A CONTEXT_EVENT record (R199): per member, PSEQ 0. -/
def State.contextEvent (s : State) (ctx : Nat) (detail : Nat) (body : List Byte) : State :=
  match s.ctx? ctx with
  | none => s
  | some c => s.release { type := 7, status := St.ok, last := false, ctx, tenant := c.tenant, seq := 0, detail, userTag := 0, time := s.now, body, pseq := 0 } []

end Sys2Proof.Machine
end

