-- ==== Sys2Proof/Machine/Alloc.lean ====
section
/-! DEFINITION. Allocation of tenant HBM space: lowest run of unmapped pages, frames by Pier, zero before mapping (R106-R110). -/

namespace Sys2Proof.Machine

def State.frameFree (s : State) (f : Nat) : Bool := !(s.mem.frames.any fun p => p.2 == f) && !s.mem.badFrames.contains f

/-- The first number from `i` that meets `p`, looking at `fuel` numbers. -/
def firstFrom (p : Nat → Bool) (i : Nat) : Nat → Option Nat
  | 0 => none
  | n + 1 => if p i then some i else firstFrom p (i + 1) n

/-- The lowest free frame of a Pier (log 20). -/
def State.freeFrame (s : State) (pier : Nat) : Option Nat :=
  if (s.pier pier).retired then none
  else firstFrom s.frameFree (pier * pierFrames + sysFrames) (pierFrames - sysFrames)

/-- A free frame of the Pier whose turn it is, or of the next that has one (log 20). -/
def State.takeFrame (s : State) (pier : Nat) : Option Nat :=
  match s.freeFrame (pier % 4) with
  | some f => some f
  | none =>
    match s.freeFrame ((pier + 1) % 4) with
    | some f => some f
    | none =>
      match s.freeFrame ((pier + 2) % 4) with
      | some f => some f
      | none => s.freeFrame ((pier + 3) % 4)

/-- Free tenant frames of a Pier in service: neither mapped nor retired (R108, R264). -/
def State.freeIn (s : State) (pier : Nat) : Nat :=
  if (s.pier pier).retired then 0
  else pierFrames - sysFrames - (s.mem.frames.filter fun p => p.2 / pierFrames == pier).length -
    (s.mem.badFrames.filter fun f => f / pierFrames == pier && !(s.mem.frames.any fun p => p.2 == f)).length

/-- Free tenant frames of the module (R108). -/
def State.freeFrames (s : State) : Nat := sumNat ((List.range 4).map s.freeIn)

/-- Start of the lowest run of `n` unmapped pages of a tenant space of `lim` pages (R108). -/
def findRun (mapped : Nat → Bool) (n lim : Nat) (start i : Nat) : Nat → Option Nat
  | 0 => none
  | fuel + 1 =>
    if start + n ≤ i then some start
    else if lim ≤ i then none
    else if mapped i then findRun mapped n lim (i + 1) (i + 1) fuel
    else findRun mapped n lim start (i + 1) fuel

def State.quotaPages (s : State) (t : Nat) : Nat :=
  match s.sec.tenants.find? t with
  | some r => r.quotaGib * 512
  | none => 0

/-- Maps page `pg` on a zeroed frame (R110) of the named Pier, or round-robin. -/
def State.mapPage (s : State) (tenant pg : Nat) (pier : Option Nat) : State :=
  let q := pier.getD s.mem.nextPier
  match (if pier.isSome then s.freeFrame q else s.takeFrame q) with
  | none => s
  | some f =>
    { s with
      mem.frames := s.mem.frames.set (tenant * 2 ^ 28 + pg) f
      mem.hbm := memClear s.mem.hbm (f * 2 ^ 21) (2 ^ 21)
      mem.nextPier := if pier.isSome then s.mem.nextPier else (s.mem.nextPier + 1) % 4 }

def State.mapPages (s : State) (tenant pg : Nat) (pierOf : Nat → Option Nat) : Nat → Nat → State
  | 0, _ => s
  | n + 1, i => (s.mapPage tenant (pg + i) (pierOf i)).mapPages tenant pg pierOf n (i + 1)

/-- Allocates `n` pages for a tenant, where every page finds a frame of its Pier; answers the first page. -/
def State.allocPages (s : State) (tenant n : Nat) (pierOf : Nat → Option Nat) : Option (Nat × State) :=
  if s.freeFrames < n then none
  else
    let lim := s.quotaPages tenant
    match findRun (fun p => (s.frameOf tenant p).isSome) n lim 0 0 (lim + 2) with
    | none => none
    | some pg =>
      let t := s.mapPages tenant pg pierOf n 0
      if (List.range n).all fun i => (t.frameOf tenant (pg + i)).isSome then some (pg, t) else none

/-- Unmaps pages; their frames are cleared before they are free again (R110; log 21). -/
def State.freePages (s : State) (tenant pg : Nat) : Nat → State
  | 0 => s
  | n + 1 =>
    let s := match s.frameOf tenant pg with
      | some f => { s with mem.frames := s.mem.frames.del (tenant * 2 ^ 28 + pg), mem.hbm := memClear s.mem.hbm (f * 2 ^ 21) (2 ^ 21) }
      | none => s
    s.freePages tenant (pg + 1) n

def pagesOf (bytes : Nat) : Nat := ceilDiv bytes (2 ^ 21)

/-- Changes the bytes of a tenant's quota in use. -/
def State.useQuota (s : State) (t n : Nat) : State := s.updTenant t fun r => { r with used := r.used + n }
def State.giveQuota (s : State) (t n : Nat) : State := s.updTenant t fun r => { r with used := r.used - n }

def State.quotaLeft (s : State) (t : Nat) : Nat :=
  match s.sec.tenants.find? t with
  | some r => r.quotaGib * 2 ^ 30 - r.used
  | none => 0

end Sys2Proof.Machine
end

