-- ==== Sys2Proof/Machine/Admission.lean ====
section
/-! DEFINITION. Admission: resources and their capacity (R186, R247, R355), Guard checks (R187), the loss log and SHED (R193,
R194), batch formation (R191) and the decision of a ticket read (R44-R46, R189, R190, R196). Times are in quarter ticks of
10 ns, tokens in 1 / (25 × 10^9) token, so that every comparison of R189 is exact. -/

namespace Sys2Proof.Machine

/-! ## Rate levels and resources -/

/-- Divisor d of a level (R226, R247). -/
def dOfLevel (l : Nat) : Nat := if 16 ≤ l then 1 else if 8 ≤ l then 2 else 4

def Course.level (c : Course) : Nat := min c.r c.t

/-- Divisor of a partition: that of the lowest level among its Courses (R247). -/
def State.partD (s : State) (p : Part) : Nat := dOfLevel (p.courses.foldl (fun a c => min a (s.course c).level) 16)

/-- Geometry records of the section that serves a partition size (R95). -/
def Plan.geoFor (p : Plan) (k : Nat) : List GeoRec :=
  match p.geo.find? k with
  | some g => g
  | none => (p.geo.find? 255).getD []

def State.planOf (s : State) (p : Part) : Option Plan := p.plan.bind s.plan?

def State.geoOf (s : State) (p : Part) : List GeoRec :=
  match s.planOf p with
  | some pl => pl.geoFor p.sizeLog2
  | none => []

def State.visionOf (s : State) (p : Part) : Option VisionRec :=
  (s.geoOf p).findSome? fun g => match g with | .vision v => some v | _ => none

def State.serveOf (s : State) (p : Part) : Option ServeRec :=
  (s.geoOf p).findSome? fun g => match g with | .serve v => some v | _ => none

/-- The class an item is queued under: excess Guard items are queued as Working (R189). -/
def Item.eff (i : Item) : Nat := if i.excess then 1 else i.cls

/-- The resource of a context (R186): a partition, or the Trowel pool for group 0x06. -/
abbrev Res := Option Nat

def Ctx.res (c : Ctx) : Res := if c.group == 6 then none else some c.part

def State.ctxsOn (s : State) (r : Res) : List (Nat × Ctx) := s.ctxs.filter fun p => p.2.res == r

def byOrder (a b : Item) : Bool := decide (a.order ≤ b.order)

/-- Items queued on a resource, in admission order. -/
def State.queuedOn (s : State) (r : Res) : List Item := sortBy byOrder ((s.ctxsOn r).map fun p => p.2.queue).flatten

/-- G of a vision partition at divisor `d` (R186): one term for each Guard context. -/
def State.guardSlots (s : State) (part : Nat) (boundaryUs d : Nat) : Nat :=
  sumNat ((s.ctxsOn (some part)).map fun p => if p.2.cls == 0 then p.2.rate * boundaryUs * d / 1000000000 + 1 else 0)

/-- Guard sessions Open on a serving partition (R186). -/
def State.guardOpen (s : State) (part : Nat) : Nat :=
  ((s.ctxsOn (some part)).filter fun p => p.2.cls == 0 && p.2.session.state == 1).length

/-- A core that may take a picture: in service, idle, and not called to its BIST (R259). -/
def State.coreFree (s : State) (c : Nat) : Bool :=
  !(s.core c).retired && (s.core c).busy.isNone && !(s.core c).testing && (s.unit 6 c).pending.isNone

def State.activeCores (s : State) : Nat := ((List.range 16).filter fun c => !(s.core c).retired).length

/-- Mean of the lengths that ended in the last 100 ms; of the newest alone where none did. -/
def meanRecent (now : Tick) (l : List (Tick × Nat)) : Option Nat :=
  match l with
  | [] => none
  | x :: _ =>
    let r := l.filter fun p => decide (now ≤ p.1 + tMs 100)
    match r with
    | [] => some x.2
    | _ => some (sumNat (r.map Prod.snd) / r.length)

/-- N and T of a resource from what is known now. -/
def State.capacityNow (s : State) (r : Res) : Nat × Nat :=
  match r with
  | none => (s.activeCores, (meanRecent s.now s.trowel.recent |>.getD (Config.unstated 2 [])) / 10)
  | some pid =>
    match s.part? pid with
    | none => (0, 0)
    | some p =>
      match s.planOf p with
      | none => (0, 0)
      | some pl =>
        match s.visionOf p, s.serveOf p with
        | some v, _ => (v.batch - s.guardSlots pid pl.boundaryUs (s.partD p), 100 * pl.boundaryUs * s.partD p)
        | _, some q => (q.maxBatch - s.guardOpen pid, 4 * (meanRecent s.now p.durations |>.getD (tMs 10)))
        | _, _ => (0, 100 * pl.boundaryUs * s.partD p)

/-- Slots per cycle N, cycle time T in quarter ticks (R186). While Mason is paused, what it computes for the Trowel pool and for serving
partitions keeps its last value (R195). -/
def State.capacity (s : State) (r : Res) : Nat × Nat :=
  match s.mason.kept.find? (match r with | none => 0 | some p => p + 1) with
  | some q => if s.mason.paused then q else s.capacityNow r
  | none => s.capacityNow r

/-- Time to the resource's next boundary point in quarter ticks (R355). -/
def State.toBoundary (s : State) (r : Res) : Nat :=
  match r with
  | none =>
    if (List.range 16).any s.coreFree then 0
    else
      let run := ((List.range 16).filterMap fun c => (s.core c).busy.map fun b => s.now - b.2.2.1).foldl max 0
      (s.capacity none).2 - 4 * run
  | some pid =>
    match s.part? pid with
    | none => 0
    | some p =>
      match s.planOf p, p.job with
      | some pl, some _ => (100 * pl.boundaryUs - p.progress4) * s.partD p
      | _, _ => 0

/-- Remaining reset time of the Piers of a resource, in quarter ticks (R273; the length that the hardware expects is not
stated, log 15). -/
def State.resetLeft (s : State) (r : Res) : Nat :=
  match r.bind s.part? with
  | none => 0
  | some p => (p.piers.map fun q => if (s.pier q).resetting then Config.unstated 1 [q] - 4 * s.since (s.pier q).resetAt else 0).foldl max 0

/-! ## Guard checks (R187) -/

/-- The contexts whose rebinding to a partition is accepted, as if it had taken effect: they count on their destination (R187, R197). -/
def State.rebound (s : State) (r : Res) : State :=
  match r with
  | none => s
  | some pid => { s with ctxs := s.ctxs.mapVals fun _ c => if c.rebind == some pid then { c with part := pid } else c }

/-- The table Guard checks for a resource; answers the DETAIL of the first row that fails. -/
def State.guardCheck (s : State) (r : Res) : Option Nat :=
  let s := s.rebound r
  let ceil := (s.fw.profile.map (·.guardCeiling)).getD 25
  let gs := (s.ctxsOn r).filter fun p => p.2.cls == 0
  if gs.isEmpty then none
  else if ceil == 0 then some 1
  else
    match r with
    | none =>
      if sumNat (gs.map fun p => p.2.rate * p.2.coreUs) * 100 ≤ s.activeCores * 1000000 * ceil * 1000 then none else some 1
    | some pid =>
      match s.part? pid, (s.part? pid).bind s.planOf with
      | some p, some pl =>
        (match s.visionOf p, s.serveOf p with
        | some v, _ =>
          if v.batch * 1000000 * ceil * 1000 < sumNat (gs.map fun p => p.2.rate) * pl.boundaryUs * 100 then some 1
          else if v.batch < s.guardSlots pid pl.boundaryUs 4 then some 2
          else none
        | _, some q => if q.maxBatch * ceil / 100 < gs.length then some 3 else none
        | _, _ => none)
      | _, _ => none

/-! ## Buckets, ages, the loss log -/

/-- One token (R189). -/
def tokenUnit : Int := 25000000000

/-- The bucket now: RATE is in thousandths of an item per second, up to BURST. -/
def Ctx.tokens (c : Ctx) (now : Tick) : Int :=
  min (c.burst * tokenUnit) (c.bucket + (c.rate * (now - c.bucketAt) : Nat))

def Ctx.settle (c : Ctx) (now : Tick) : Ctx := { c with bucket := c.tokens now, bucketAt := now }

/-- Age since the decision, time in Hold left out (R193, R195). -/
def State.age (s : State) (i : Item) : Tick := s.now - i.decided - (s.power.holdTicks - i.holdAt)

def ageUs (t : Tick) : Nat := t / 25

/-- The HBM of a Pier cannot be written: a Quench, or the Pier's reset (R194). -/
def State.logBlocked (s : State) (pier : Nat) : Bool := s.therm.quench || (s.pier pier).resetting

/-- Writes an entry into a context's loss log, in HBM of Pier (context mod 4), which leaves self-refresh for it (R194). -/
def State.writeLoss (s : State) (ctx : Nat) (l : Loss) : State :=
  (s.hbmTouch (ctx % 4)).updCtx ctx fun c => { c with losses := (l :: c.losses).take 256 }

/-- An event of a context's loss log (R194): counted, and written, or held in the Plinth's buffer of 4,096 entries while HBM cannot be
written. -/
def State.loss (s : State) (ctx seq kind reason item : Nat) : State :=
  let l : Loss := ⟨seq, kind, reason, item, s.now⟩
  let s := s.updCtx ctx fun c => { c with lossTotal := sat32 c.lossTotal 1 }
  if s.logBlocked (ctx % 4) then
    if s.mem.lossBuf.length < 4096 then { s with mem.lossBuf := s.mem.lossBuf ++ [(ctx, l)] } else s
  else s.writeLoss ctx l

/-- Entries whose Pier can be written again leave the buffer, in order. -/
def State.flushLoss (s : State) : State :=
  let go := s.mem.lossBuf.filter fun x => !s.logBlocked (x.1 % 4)
  go.foldl (fun s x => s.writeLoss x.1 x.2) { s with mem.lossBuf := s.mem.lossBuf.filter fun x => s.logBlocked (x.1 % 4) }

/-- Past its deadline budget (R192). -/
def State.isLate (s : State) (i : Item) : Bool := i.deadlineUs != 0xFFFFFFFF && decide (tUs i.deadlineUs < s.now - i.decided)

/-- OK, or LATE past the deadline. -/
def State.okOrLate (s : State) (i : Item) : Nat := if s.isLate i then St.late else St.ok

/-- Counts a LATE record (R192, R194, R197). -/
def State.noteLate (s : State) (i : Item) : State :=
  (s.updCtx i.ctx fun c => { c with late := sat32 c.late 1 }).loss i.ctx i.seq 2 0 i.index

/-! ## Records of items -/

def State.itemRec (s : State) (i : Item) (type status detail : Nat) (last : Bool) (body : List Byte) : Rec :=
  { type, status, last, ctx := i.ctx, tenant := i.tenant, seq := i.seq, detail, userTag := i.userTag, time := s.now, body, pseq := 0 }

/-- Body of a STEP_RECORD without tokens: POSITION is the context length (log 23). -/
def State.emptyStep (s : State) (ctx : Nat) : List Byte :=
  List.replicate 28 0 ++ leBytes 4 (((s.ctx? ctx).map (·.session.length)).getD 0)

/-- Work of a context has left its queue without running: the quiet time of its partition's Courses (R93) and the idle time of its session
(R157) count from now. -/
def State.quietFrom (s : State) (ctx : Nat) : State :=
  match s.ctx? ctx with
  | none => s
  | some c =>
    let s := match s.part? c.part with
      | some p => p.courses.foldl (fun s k => s.updCourse k fun x => { x with busyAt := s.now }) s
      | none => s
    if c.group == 7 then s.updCtx ctx fun x => { x with session.idleAt := s.now } else s

/-- The record that closes a request marked as cancelled which ends before it ran (R158). -/
def State.closeMarked (s : State) (i : Item) : State :=
  (s.updCtx i.ctx fun c => { c with session.cancelled := sat32 c.session.cancelled 1 }).release
    (s.itemRec i 5 St.cancelled (4 * 2 ^ 6) true (s.emptyStep i.ctx)) []

/-- Drops a queued item with a SHED record at once (R193), or with the record of a cancelled request (R158). -/
def State.shedItem (s : State) (i : Item) (cause : Nat) : State :=
  match s.ctx? i.ctx with
  | none => s
  | some c =>
    let a := min (ageUs (s.age i)) 0xFFFFFFFF
    let s := s.updCtx i.ctx fun c =>
      { c with queue := c.queue.filter (fun q => q.order != i.order), shed := sat32 c.shed 1, codec.shedFrom := if i.kind == 0x0601 then c.codec.shedFrom.orElse fun _ => some i.order else c.codec.shedFrom }
    let s := (s.loss i.ctx i.seq 1 cause i.index).quietFrom i.ctx
    if i.cancelled then s.closeMarked i
    else s.release { type := 6, status := St.shed, last := false, ctx := i.ctx, tenant := i.tenant, seq := i.seq, detail := cause + i.index * 2 ^ 8, userTag := i.userTag, time := s.now, body := leBytes 1 i.eff ++ leBytes 1 (min i.displaced 255) ++ leBytes 2 0 ++ leBytes 4 a ++ leBytes 4 c.shedAgeUs, pseq := 0 } []

/-- R193: items charged to a Guard reservation and encode frames are never shed; an age of 0 means never. -/
def State.sheddable (s : State) (c : Ctx) (i : Item) : Bool :=
  i.eff != 0 && c.shedAgeUs != 0 && i.kind != 0x0602 && decide (tUs c.shedAgeUs < s.age i)

/-- Drops every queued item of a resource past its shed age, in admission order (R193). A Standby sheds only what its leads
name (R281). -/
def State.shedOld (s : State) (r : Res) : State :=
  if s.twin.role == 2 then s
  else
    ((s.queuedOn r).filter fun i => match s.ctx? i.ctx with | some c => s.sheddable c i | none => false).foldl
      (fun s i => s.shedItem i 0) s

/-! ## Batch formation (R145, R191) -/

/-- One step of R191: places each item of the class with every earlier queued item of its context, while all fit the room.
Answers what was placed, oldest first, and the room left. -/
def placeStep (q : List Item) (wants : Item → Bool) : List Item → List Item → Nat → List Item × Nat
  | [], done, room => (done, room)
  | i :: t, done, room =>
    if wants i && !(done.any fun x => x.order == i.order) then
      let need := q.filter fun x => x.ctx == i.ctx && decide (x.order ≤ i.order) && !(done.any fun y => y.order == x.order)
      if need.length ≤ room then placeStep q wants t (done ++ need) (room - need.length)
      else placeStep q wants t done room
    else placeStep q wants t done room

/-- The batch that R191 forms from queued items in admission order, in slot order. -/
def formBatch (q : List Item) (batch g : Nat) : List Item :=
  let (d1, room1) := placeStep q (fun i => i.eff == 0) q [] batch
  let n := min (batch - g) room1
  let (d2, left2) := placeStep q (fun i => i.eff == 1) q d1 n
  let room2 := room1 - (n - left2)
  let (d3, room3) := placeStep q (fun i => i.eff == 2) q d2 room2
  (placeStep q (fun i => i.eff == 3) q d3 room3).1

/-- Bulk and Idle items of a batch that the other lacks. -/
def displacedBy (without with' : List Item) : List Item :=
  without.filter fun i => decide (2 ≤ i.eff) && !(with'.any fun x => x.order == i.order)

/-- BATCH and G of a vision partition now. -/
def State.batchGuard (s : State) (pid : Nat) : Option (Nat × Nat) :=
  match s.part? pid with
  | none => none
  | some p =>
    match s.planOf p with
    | none => none
    | some pl => (s.visionOf p).map fun v => (v.batch, s.guardSlots pid pl.boundaryUs (s.partD p))

/-! ## The decision -/

/-- A decision: code, reason, estimate in 16 µs units. -/
structure Decision where
  dec : Nat
  reason : Nat
  est : Nat := 0
  deriving DecidableEq, Repr

/-- The ticket word (R46). -/
def ticketWord (d : Decision) (ticket : Nat) : W64 :=
  BitVec.ofNat 64 (ticket % 2 ^ 40 + d.est * 2 ^ 40 + d.reason * 2 ^ 56 + d.dec * 2 ^ 62)

/-- Kinds defined within each group (R144, R152, R173, R180). -/
def kindOk (group kind : Nat) : Bool :=
  (group == 5 && [0x0501, 0x0502, 0x0503].contains kind) || (group == 6 && [0x0601, 0x0602].contains kind) || (group == 7 && kind == 0x0701)

/-- Items of a descriptor (R185). -/
def descItems (kind : Nat) (d : List Byte) : Nat := if kind / 256 == 5 then field d 0x28 2 else 1

/-- R44 step 2: SEQ is newer than the last decided. -/
def seqNewer (last : Option Nat) (seq : Nat) : Bool :=
  match last with
  | none => true
  | some l => let x := (seq + 2 ^ 32 - l % 2 ^ 32) % 2 ^ 32; decide (1 ≤ x) && decide (x ≤ 2 ^ 31 - 1)

/-- The items of a descriptor, as they are queued. -/
def State.mkItems (s : State) (cn : Nat) (c : Ctx) (d : List Byte) (k cls : Nat) (excess disp : Bool) : List Item :=
  (List.range k).map fun i =>
    { ctx := cn, tenant := c.tenant, cls, excess, order := s.nextOrder + i, kind := field d 0 2, dflags := field d 2 2, seq := field d 4 4, addr := field d 8 8, length := field d 0x10 4, deadlineUs := (if field d 0x14 4 == 0 then c.deadlineUs else field d 0x14 4), userTag := BitVec.ofNat 64 (field d 0x18 8), args := slice d 0x20 16, index := i, count := k, decided := s.now, holdAt := s.power.holdTicks, displaced := 0, bad := false, cancelled := false, leadPseq := none, displacing := disp }

/-- Queues the items (R44: the descriptor is copied into the context's queue). -/
def State.enqueue (s : State) (cn : Nat) (is : List Item) : State :=
  { s.updCtx cn (fun c => { c with queue := c.queue ++ is }) with nextOrder := s.nextOrder + is.length }

def State.refuse (s : State) (cn seq k reason : Nat) : State × Decision :=
  ((s.updCtx cn fun c => { c with refused := sat64 c.refused k }).loss cn seq 0 reason 0, { dec := 2, reason })

/-- R189 for a Guard context: never refused. -/
def State.decideGuard (s : State) (cn : Nat) (c : Ctx) (d : List Byte) (k : Nat) : State × Decision :=
  let b := c.tokens s.now
  if (k : Int) * tokenUnit ≤ b then
    let is := s.mkItems cn c d k 0 false false
    let q := s.queuedOn c.res
    let disp := match c.res.bind s.batchGuard with
      | some (n, g) => !(displacedBy (formBatch q n g) (formBatch (q ++ is) n g)).isEmpty
      | none => false
    let s := s.updCtx cn fun c => { c.settle s.now with bucket := b - k * tokenUnit, admitted := sat64 c.admitted k }
    (s.enqueue cn (is.map fun i => { i with displacing := disp }), { dec := 0, reason := if disp then 2 else 1 })
  else
    let s := s.updCtx cn fun c => { c.settle s.now with admitted := sat64 c.admitted k, guardExcess := sat32 c.guardExcess k }
    let s := s.enqueue cn (s.mkItems cn c d k 0 true false)
    let ex := ((s.ctx? cn).map fun c => c.queue.filter (·.excess)).getD []
    ((ex.take (ex.length - c.queueMax)).foldl (fun s i => s.shedItem i 2) s, { dec := 0, reason := 0 })

/-- The reason of a DEFER (R190, R273; a partition held for a test carries QUEUE_DEPTH where no other condition holds: R260). -/
def State.deferReason (s : State) (r : Res) (bucketFirst : Bool) : Nat :=
  if bucketFirst then 0x10
  else
    match r.bind s.part? with
    | none => if s.power.hold then 0x13 else if s.power.floor then 0x11 else 0x15
    | some p =>
      if p.piers.any (fun q => (s.pier q).resetting) then 0x15
      else if s.power.hold then 0x13
      else if s.power.floor then 0x11
      else if p.courses.any (fun q => decide ((s.course q).t < 16)) then 0x12
      else if p.courses.any (fun q => (s.course q).active == 7) then 0x14
      else 0x15

/-- R189 for Working, Bulk and Idle. -/
def State.decideRest (s : State) (cn : Nat) (c : Ctx) (d : List Byte) (k : Nat) : State × Decision :=
  let seq := field d 4 4
  let b := c.tokens s.now
  let want : Int := k * tokenUnit
  if c.queueMax < c.queue.length + k then s.refuse cn seq k 0x22
  else
    let short := 4 * (want - b)
    let tbCeil := if want ≤ b then 0 else ((short + c.rate - 1) / c.rate).toNat
    let tbFloor := if want ≤ b then 0 else (short / c.rate).toNat
    let a := ((s.queuedOn c.res).filter fun i => decide (i.eff ≤ c.cls)).length + k - 1
    let (n, t) := s.capacity c.res
    let tob := s.toBoundary c.res
    let tq : Option Nat := if n = 0 then none else some (tob + s.resetLeft c.res + a / n * t)
    let est : Option Nat := tq.map fun q => max tbCeil q
    let dl := if field d 0x14 4 == 0 then c.deadlineUs else field d 0x14 4
    let tooLate := dl != 0xFFFFFFFF && match est with | none => true | some e => decide (100 * dl < e)
    if c.cls == 3 && decide (b < want) then s.refuse cn seq k 0x20
    else if tooLate then s.refuse cn seq k 0x21
    else
      let is := s.mkItems cn c d k c.cls false false
      let s1 := (s.updCtx cn fun c => { c.settle s.now with bucket := max (b - want) (-(c.queueMax * tokenUnit)) }).enqueue cn is
      if (match est with | some e => decide (e ≤ tob) | none => false) then
        (s1.updCtx cn fun c => { c with admitted := sat64 c.admitted k }, { dec := 0, reason := 0 })
      else
        let e := match est with | some e => min (ceilDiv e 1600) 0xFFFF | none => 0xFFFF
        let first := match tq with | some q => decide (q ≤ tbFloor) | none => false
        (s1.updCtx cn fun c => { c with deferred := sat64 c.deferred k }, { dec := 1, reason := s.deferReason c.res first, est := e })

/-- Bytes of a codec context's 4 MiB bitstream ring that its host-sourced units hold (R173). -/
def State.ringUsed (s : State) (cn : Nat) (c : Ctx) : Nat :=
  let run := (List.range 16).filterMap fun k => match (s.core k).busy with | some (n, i, _) => if n == cn then some i else none | none => none
  let again := s.trowel.again.filterMap fun a => if a.1 == cn then some a.2.1 else none
  sumNat ((c.queue ++ run.dedup ++ again).map fun i => if i.kind == 0x0601 && !bitOf i.dflags 0 then i.length else 0)

/-- A host-sourced access unit that the ring has no space for (R173, which also holds for Guard: log 128). -/
def State.ringFull (s : State) (cn : Nat) (c : Ctx) (d : List Byte) : Bool :=
  field d 0 2 == 0x0601 && !bitOf (field d 2 2) 0 && decide (2 ^ 22 < s.ringUsed cn c + field d 0x10 4)

/-- Step 4 of R44 under R173, R189 and R196. -/
def State.decideClass (s : State) (cn : Nat) (c : Ctx) (d : List Byte) (k : Nat) : State × Decision :=
  let noPlan := match c.res with
    | none => false
    | some p => match s.part? p with | some x => x.plan.isNone | none => true
  let lost := match c.res.bind s.part? with | some x => x.lost | none => false
  if s.profile == 2 && decide (2 ≤ c.cls) then s.refuse cn (field d 4 4) k 0x23
  else if noPlan then s.refuse cn (field d 4 4) k 0x25
  else if s.ringFull cn c d then s.refuse cn (field d 4 4) k 0x22
  else if lost then
    let s := s.enqueue cn (s.mkItems cn c d k c.cls false false)
    (s.updCtx cn fun c => { c with deferred := sat64 c.deferred k }, { dec := 1, reason := 0x14, est := 0xFFFF })
  else if c.cls == 0 then s.decideGuard cn c d k
  else s.decideRest cn c d k

/-- The context takes no work: it is being removed, a session that is not Open, a codec context without its open command,
or the module is shutting down (R44 step 1, R148, R174, R236). -/
def State.ctxGone (s : State) (c : Ctx) : Bool :=
  c.removing || s.power.phase != 1 || (c.group == 7 && c.session.state != 1) || (c.group == 6 && c.codec.state == 0)

/-- R44 for an existing context: steps 1 to 4. -/
def State.decideTicket (s : State) (cn : Nat) (c : Ctx) (d : List Byte) : State × Decision :=
  let kind := field d 0 2
  let k := descItems kind d
  if s.ctxGone c then (s, { dec := 3, reason := 0x32 })
  else if !kindOk c.group kind || field d 0x30 8 != 0 || (c.group == 5 && (k == 0 || decide (256 < k))) then (s, { dec := 3, reason := 0x31 })
  else if !seqNewer c.lastSeq (field d 4 4) then (s, { dec := 3, reason := 0x33 })
  else
    let s := s.updCtx cn fun c => { c with lastSeq := some (field d 4 4) }
    if !s.tenantOpen c.tenant then s.refuse cn (field d 4 4) k 0x24
    else s.decideClass cn c d k

/-- R46: each decision adds 1 to the context's ticket counter, which wraps to 1. -/
def State.countTicket (s : State) (cn : Nat) : State × Nat :=
  match s.ctx? cn with
  | none => (s, 0)
  | some c =>
    let t := if c.ticket + 1 < 2 ^ 40 then c.ticket + 1 else 1
    (s.updCtx cn fun c => { c with ticket := t }, t)

end Sys2Proof.Machine
end

