-- ==== Sys2Proof/Machine/Errors.lean ====
section
/-! DEFINITION. What errors set off: records of items that end without running, plan errors (R85), hardware errors and their tests
(R258-R261), fuse burns that wait (R265), control requests and map changes (R17, R19, R90-R92), repair and retirement (R264),
lost partitions (R196), Guard reservations (R199), SAFE_HOLD (R272), the handover message (R283) and the start of a Pier reset
(R273). -/

namespace Sys2Proof.Machine

/-! ## Records of items -/

/-- The one record of an item that ends without a result (R144, R147, R156, R184, R236, R272; log 23): VISION_RESULT with BOXES
0, AU_DONE, an empty ENCODE_OUTPUT, or a STEP_RECORD with COUNT 0 and END 6. -/
def State.plainRec (s : State) (i : Item) (status : Nat) (last : Bool) : Rec :=
  if i.kind == 0x0601 then s.itemRec i 3 status 1 last (i.args.take 8)
  else if i.kind == 0x0602 then s.itemRec i 4 status 0 last []
  else if i.kind == 0x0701 then s.itemRec i 5 status (6 * 2 ^ 6) last (s.emptyStep i.ctx)
  else s.itemRec i 2 status (i.index * 2 ^ 16) last []

def State.unqueue (s : State) (i : Item) : State :=
  (s.updCtx i.ctx fun c => { c with queue := c.queue.filter fun q => q.order != i.order }).quietFrom i.ctx

/-- A queued item leaves its queue with one record of the status. A serving request marked as cancelled closes CANCELLED with
END 4 in place of it (R158). Outside a batch group and a step batch FLAGS.LAST marks a video unit's record only (R50, R175). -/
def State.endQueued (s : State) (i : Item) (status : Nat) : State :=
  if i.cancelled then (s.unqueue i).closeMarked i
  else (s.unqueue i).release (s.plainRec i status (i.kind / 256 == 6)) []

/-- Ends every queued item that meets `p`, in admission order. -/
def State.endAllQueued (s : State) (p : Item → Bool) (status : Nat) : State :=
  (sortBy byOrder ((s.ctxs.map fun c => c.2.queue).flatten.filter p)).foldl (fun s i => s.endQueued i status) s

/-! ## Jobs -/

/-- The SEQ that stands for a job: that of batch slot 0, or the job ordinal of a serving step (R80). -/
def Job.seq (j : Job) : Nat :=
  match j.slots.findSome? id with
  | some i => i.seq
  | none => j.ordinal

def Part.jobSeq (p : Part) : Nat :=
  match p.job with
  | some j => j.seq
  | none => 0

/-- An error touches the partition's job (R262). -/
def State.touchPart (s : State) (p : Nat) : State :=
  s.updPart p fun r => { r with job := r.job.map fun j => { j with marked := true } }

/-- A plan error by logical Ashlar `l` ends the batch (R85); the first one counts (log 24). -/
def State.planError (s : State) (p l code off : Nat) : State :=
  match s.part? p with
  | none => s
  | some r =>
    match r.job with
    | none => s
    | some j =>
      if j.planErr.isSome then s
      else
        let s := s.updPart p fun r =>
          { r with job := some { j with planErr := some code }, ctr.planErrors := sat32 r.ctr.planErrors 1 }
        s.postT 0x0201 3 ((s.tileOf r l).getD 0)
          (leBytes 2 p ++ leBytes 1 code ++ leBytes 1 l ++ leBytes 4 off ++ leBytes 4 j.seq) { part := p }

/-- What a boundary point clears (R25, R251): registers, accumulators, queues, semaphores and the valid tags of the partition's
tiles and Course-buffer slices, its handoffs and conversions, and the credits of R139. -/
def State.clearPart (s : State) (p : Nat) : State :=
  match s.part? p with
  | none => s
  | some r =>
    let tiles := (List.range r.size).filterMap (s.tileOf r)
    let s := tiles.foldl (fun s t => s.updTile t fun x => { x with sram.valid := [] }) s
    let s := r.courses.foldl (fun s c => s.updCbuf c fun b =>
      if r.coursed then sramInvalidate b 0 16384 else sramInvalidate b (2048 * r.slot) (2048 * (r.slot + r.size))) s
    let s := { s with piers := s.piers.mapVals fun _ q => { q with quoin := q.quoin.filter (·.part != p), facing := q.facing.filter (·.part != p) } }
    s.updPart p fun r => { r with chisels := [], sems := [], waits := [], credits := [], nextBand := 0, sinceBoundary := 0, progress4 := 0 }

/-! ## Fuses (R265, R318) -/

/-- A burn that waits its turn; `ref` is the error-log number that caused it. -/
def State.burn (s : State) (kind reason ukind uid value ref : Nat) (aux : Nat := 0) : State :=
  { s with flt.burns := s.flt.burns ++ [⟨kind, reason, ukind, uid, value, s.fw.boot, s.now, ref % 2 ^ 32, aux⟩] }

/-- Number of the newest error-log entry, for LOG_REF (R319). -/
def State.lastLog (s : State) : Nat := s.flt.logNext - 1

/-! ## Twin handover (R280, R283) -/

/-- A Primary with a joined partner sends TWIN_HANDOVER; the lead passes on the ACK. -/
def State.handover (s : State) (cause : Nat) : State :=
  if s.twin.role == 1 && s.twin.partner == 2 && !s.twin.handing then
    match s.partner with
    | some q => { s with twin.handing := true, twin.handCause := cause }.sendRouted { s.newPacket q 0x34 with payload := leBytes 1 cause }
    | none => s
  else s

/-! ## Lost partitions and Guard reservations -/

def State.ctxNums (s : State) (r : Res) : List Nat := (s.ctxsOn r).map Prod.fst

/-- R196: partitions are lost; each bound context is told. -/
def State.loseParts (s : State) (pred : Part → Bool) : State :=
  (s.parts.filter fun q => pred q.2 && !q.2.lost).foldl
    (fun s q => (s.ctxNums (some q.1)).foldl (fun s c => s.contextEvent c 1 []) (s.updPart q.1 fun r => { r with lost := true })) s

/-- The Guard context of a resource created last. -/
def State.newestGuard (s : State) (r : Res) : Option Nat :=
  (((s.ctxsOn r).filter fun p => p.2.cls == 0).foldl
    (fun (a : Option (Nat × Nat)) p => match a with
      | some (b, c) => if b ≤ p.2.born then some (p.2.born, p.1) else some (b, c)
      | none => some (p.2.born, p.1)) none).map Prod.snd

/-- GUARD_RESERVATION of R199: Guard contexts become Working, most recent first, until every check holds. -/
def State.guardRecheck (s : State) (r : Res) : Nat → State
  | 0 => s
  | n + 1 =>
    match s.guardCheck r with
    | none => s
    | some d =>
      match s.newestGuard r with
      | none => s
      | some c => ((s.updCtx c fun x => { x with cls := 1 }).contextEvent c 3 (leBytes 1 d)).guardRecheck r n

def State.guardRecheckAll (s : State) (r : Res) : State := s.guardRecheck r s.ctxs.length

/-- Rechecks every partition with a tile in a Course. -/
def State.guardRecheckCourse (s : State) (c : Nat) : State :=
  (s.parts.filter fun p => p.2.hasCourse c).foldl (fun s p => s.guardRecheckAll (some p.1)) s

/-! ## SAFE_HOLD (R272) -/

/-- Kind of the entry by which VID_FLUSH runs after the units queued before it. -/
def flushKind : Nat := 0x06FF

/-- Pictures that wait to restart count as queued again. -/
def State.requeuePics (s : State) (f : Item → Bool) : State :=
  let back := s.trowel.again.filter fun a => f a.2.1
  back.foldl (fun s a =>
    s.updCtx a.1 fun c => if a.2.1.kind == flushKind then { c with codec.flushAt := some a.2.1.order } else { c with queue := a.2.1 :: c.queue })
    { s with trowel.again := s.trowel.again.filter fun a => !f a.2.1 }

/-- Items between two runs or two steps, once no job runs: those of jobs and pictures that would restart, and running requests. -/
def State.between (s : State) : List Item :=
  ((s.parts.map fun p => (p.2.again.map fun j => j.slots.filterMap id).getD []).flatten) ++ s.ctxs.filterMap fun c => c.2.session.req.map (·.item)

def State.anyJob (s : State) : Bool := s.parts.any (fun p => p.2.job.isSome) || (List.range 16).any fun c => (s.core c).busy.isSome

/-- No context, partition or tenant remains; Piers and cores are gated; fabric ports go dark. -/
def State.dropObjects (s : State) : State :=
  { s with
    parts := [], plans := [], ctxs := [], host.slotBind := []
    sec.tenants := []
    mem.frames := [], mem.kvFrames := [], mem.copies := [], mem.hbm := []
    courses := s.courses.mapVals fun _ c => { c with power := 0, waking := none, reqs := [] }
    piers := s.piers.mapVals fun _ p => { p with powered := false, powering := false, selfRefresh := true, resetting := false, quoin := [], facing := [] }
    trowel.cores := s.trowel.cores.mapVals fun _ c => { c with busy := none, gated := true, lastCtx := none, run := 0, switched := false, div := .whole, share := 0, stream := none, cache := [] }
    trowel.again := [], trowel.pllOn := false
    fab.ports := s.fab.ports.mapVals fun _ p => { p.dropFrames with state := 0, testing := none, retraining := false }
    fab.exports := [], fab.imports := [], fab.inbox := [], fab.heldOut := [] }

def State.enterSafeHold (s : State) (kind id : Nat) : State :=
  let s := s.between.foldl (fun s i => s.updCtx i.ctx fun c => { c with queue := i :: c.queue }) (s.requeuePics fun _ => true)
  let s := s.endAllQueued (fun _ => true) St.safeState
  let s := s.finishOps (fun _ => true) St.safeState
  let s := s.dropObjects
  { s with power.phase := 2, power.safeHoldReq := none }.postT 0x0A08 0 0 (leBytes 1 kind ++ [0, 0, 0] ++ leBytes 4 id) { cls := 2, action := 8 }

/-- Enters SAFE_HOLD once no job runs. -/
def State.trySafeHold (s : State) : State :=
  match s.power.safeHoldReq with
  | some (k, i) => if s.anyJob then s else s.enterSafeHold k i
  | none => s

def State.wantSafeHold (s : State) (kind id : Nat) : State :=
  if s.power.phase == 2 || s.power.safeHoldReq.isSome then s
  else { s with power.safeHoldReq := some (kind, id) }.trySafeHold

/-! ## Control requests at the Setter (R17, R19, R90-R92) -/

def reqRank : CtlReq → Nat
  | .repair _ => 0
  | .throttle _ => 1
  | .rotate _ _ => 2
  | .test _ _ _ => 3

/-- The partition that holds a slot is in a batch. -/
def State.slotBusy (s : State) (c slot : Nat) : Bool :=
  match s.partAt c slot with
  | some (_, p) => p.job.isSome
  | none => false

/-- Predicted hot spots of the tiles that hold slots (R246). -/
def State.slotPreds (s : State) (c : Nat) : List Int :=
  ((s.course c).map.filter (· < 9)).map fun t => (s.tile (c * 9 + t)).pred

/-- The Course median, the lower middle of an even number (log 25). -/
def State.courseMedian (s : State) (c : Nat) : Int := medianInt (s.slotPreds c)

def State.courseHot (s : State) (c : Nat) : Int :=
  match s.slotPreds c with
  | [] => 0
  | x :: t => maxInt x t

/-- The slot moves to the idle tile; its former tile becomes idle (R90). -/
def State.mapRotate (s : State) (c slot : Nat) : State :=
  match (s.course c).idle with
  | none => s
  | some i =>
    let old := (s.course c).map.getD slot 15
    let s := s.updCourse c fun k => { k with map := setAt k.map slot i }
    let s := s.updTile (c * 9 + old) fun x => { x with leftAt := some s.now }
    let s := { s with therm.rotations := sat32 s.therm.rotations 1 }
    match s.partAt c slot with
    | some (p, _) => s.updPartCtr p fun k => { k with rotations := sat32 k.rotations 1 }
    | none => s

def State.retiredEvent (s : State) (kind id : Nat) : State :=
  s.postT 0x0A04 kind id (leBytes 1 (Config.unstated 4 [kind, id])) { cls := 2, action := 6 }

/-- A tile is retired: the fuses are the spare's on the Course's first retirement, and the tile's own (R318), and RETIRED is posted (R264). -/
def State.burnTile (s : State) (c t : Nat) : State :=
  let s1 := if (s.course c).spareUsed then s else s.burn 0x02 1 2 c t s.lastLog
  ((s1.burn 0x0E 1 3 (c * 9 + t) 0 s.lastLog).updCourse c fun k => { k with retired := insertNat k.retired t, spareUsed := true }).retiredEvent 3 (c * 9 + t)

/-- Repair by spare: the slot moves to the idle tile and the failed tile is retired (R90, R264). -/
def State.mapRepair (s : State) (c t slot i : Nat) : State :=
  (s.burnTile c t).updCourse c fun k => { k with map := setAt k.map slot i, occupied := none }

/-- The job that runs on a slot is marked: the slot's tile is taken from it (log 26). -/
def State.touchSlot (s : State) (c slot : Nat) : State :=
  match s.partAt c slot with
  | some (p, _) => s.touchPart p
  | none => s

/-- Retirement with no spare left: slot 7 becomes absent, and another slot of the failed tile takes the tile that held slot 7, at
once (R17), whatever partition runs on it; where slot 7 is absent already, the Course is retired (R24, R41, R90; log 26). -/
def State.mapAbsent (s : State) (c t slot : Nat) : State :=
  let seven := (s.course c).map.getD 7 15
  if seven < 9 then
    let s := ((s.touchSlot c 7).burnTile c t).updCourse c fun k => { k with map := setAt (setAt k.map slot seven) 7 15 }
    (s.loseParts fun p => (p.logicalAt c 7).isSome).guardRecheckCourse c
  else
    let s := ((List.range 8).foldl (fun s k => s.touchSlot c k) s).burnTile c t
    ((s.updCourse c fun k => { k with map := setAt k.map slot 15, gone := true }).loseParts fun p => p.hasCourse c).guardRecheckCourse c

/-- The thermal level of a Course changes (R247). -/
def State.setThrottle (s : State) (c t : Nat) : State :=
  let old := (s.course c).t
  let s := s.updCourse c fun k => { k with t }
  if (old == 16 && decide (t < 16)) || (decide (old < 16) && t == 16) then
    s.post 0x0905 2 c (leBytes 1 t ++ [0] ++ leBytes 2 (unsigned 16 (s.courseHot c)))
  else s

/-- The idle tile is a target of a thermal rotation: at or below the median, 20 ms since it left a slot (R91). -/
def State.thermalTarget (s : State) (c i : Nat) : Bool :=
  let x := s.tile (c * 9 + i)
  decide (x.pred ≤ s.courseMedian c) && (x.leftAt.isNone || s.passed x.leftAt (tMs 20))

def State.courseRunning (s : State) (c : Nat) : Bool := s.parts.any fun p => p.2.hasCourse c && p.2.job.isSome

/-- One request, if it is due now; `bp` says that a partition of the Course is at its boundary point. -/
def State.applyReq (s : State) (c : Nat) (bp : Bool) (r : CtlReq) : Option State :=
  let k := s.course c
  match r with
  | .repair t =>
    match k.slotOfTile t with
    | none => some (if k.retired.contains t then s else s.burnTile c t)
    | some slot =>
      if s.slotBusy c slot then none
      else
        match k.idle with
        | some i => some (s.mapRepair c t slot i)
        | none => some (s.mapAbsent c t slot)
  | .throttle t => if bp || !s.courseRunning c then some (s.setThrottle c t) else none
  | .rotate slot thermal =>
    if s.slotBusy c slot || k.occupied.isSome then none
    else
      match k.idle with
      | none => none
      | some i => if thermal && !s.thermalTarget c i then none else some (s.mapRotate c slot)
  | .test t _ _ => if k.idle == some t then some s else none

/-- The due requests of a Course in the order of R19; none while a Hold is in force (R20). -/
def State.applyDue (s : State) (c : Nat) (bp : Bool) : State :=
  if s.power.hold then s
  else
    (sortBy (fun a b => decide (reqRank a ≤ reqRank b)) (s.course c).reqs).foldl
      (fun s r => match s.applyReq c bp r with
        | some s' => s'.updCourse c fun k => { k with reqs := dropFirst (fun q => q == r) k.reqs }
        | none => s) s

/-- Posts a request; a tile outside any running batch takes it at once (R17; log 27). A throttle request replaces an older one. -/
def State.postReq (s : State) (c : Nat) (r : CtlReq) : State :=
  let keep := (s.course c).reqs.filter fun q => match r, q with | .throttle _, .throttle _ => false | _, _ => q != r
  (s.updCourse c fun k => { k with reqs := keep ++ [r] }).applyDue c false

/-! ## Lasting faults (R264) -/

/-- Units of the history table: an Ashlar's parts are its BIST slices (R261). -/
def unitId (kind id slice : Nat) : Nat := if kind == 3 then id * 64 + slice else id

def rowsUsed (u : Unit) (k : Nat) : Nat := u.rows.get 0 k

/-- Copies a frame to another and remaps the page that held it (R264). -/
def State.migrateFrame (s : State) (f : Nat) : State :=
  let s := { s with mem.badFrames := insertNat s.mem.badFrames f }
  match List.find? (fun p : Nat × Nat => p.2 == f) s.mem.frames with
  | none => s
  | some (k, _) =>
    match s.freeFrame (f / pierFrames) with
    | none => s
    | some g =>
      let cells := (s.mem.hbm.filter fun c => decide (f * 2 ^ 21 ≤ c.1) && decide (c.1 < (f + 1) * 2 ^ 21)).map fun c => (c.1 - f * 2 ^ 21 + g * 2 ^ 21, c.2)
      let m := memClear (memClear s.mem.hbm (f * 2 ^ 21) (2 ^ 21)) (g * 2 ^ 21) (2 ^ 21)
      { s with mem.hbm := cells.foldl (fun m c => memWrite m c.1 c.2) m, mem.frames := s.mem.frames.set k g }

def State.retireUnit (s : State) (kind id : Nat) : State := s.updUnit kind id fun u => { u with retired := true }

/-- Row repair of a bank set while rows last: 16 per bank set; the test runs again. -/
def State.rowRepair (s : State) (kind key set fuse ukind uid : Nat) (w : Nat) : State :=
  (s.updUnit kind key fun u => { u with rows := u.rows.set set (rowsUsed u set + 1) }).burn fuse 1 ukind uid w s.lastLog set

/-- An uncorrected loss of both Quoin or both Facing units of a pair of Piers loses that pair's vision partitions. -/
def State.losePair (s : State) (p : Nat) : State :=
  s.loseParts fun r => r.piers.any (fun q => q / 2 == p / 2) && (s.visionOf r).isSome

/-- A Course is gated; one that was keeps the instant. -/
def State.gateCourse (s : State) (c : Nat) : State :=
  s.updCourse c fun k => { k with power := 0, waking := none, gatedAt := if k.power == 0 then k.gatedAt else s.now }

/-- Pier reset (R273): begins; a Primary hands over before it. The Pier's Courses are gated once no job runs on them (R254). -/
def State.pierReset (s : State) (p cause : Nat) : State :=
  let s := s.handover (if cause == 4 then 3 else 2)
  let s := s.updPier p fun q => { q with resetting := true, resetCause := cause, resetAt := s.now }
  let s := (List.range 4).foldl (fun s i => if s.courseRunning (p * 4 + i) then s else s.gateCourse (p * 4 + i)) s
  { s with flt.pierResets := sat32 s.flt.pierResets 1 }.postT 0x0A07 1 p (leBytes 1 cause ++ leBytes 1 0) { action := 7 }

/-- Repairs or retires a unit classed lasting; `slice` tells the part of an Ashlar. A row's place is not stated by the event, so
it is a free value (log 28). -/
def State.lasting (s : State) (kind id slice : Nat) : State :=
  let s := { s with flt.lasting := sat32 s.flt.lasting 1 }
  let (w, s1) := s.free
  let row := w.toNat % 2 ^ 32
  match kind with
  | 3 =>
    if slice < 32 && rowsUsed (s.unit 3 (id * 64)) (slice / 4) < 16 then s1.rowRepair 3 (id * 64) (slice / 4) 0x03 3 id row
    else s.postReq (id / 9) (.repair (id % 9))
  | 12 =>
    if rowsUsed (s.unit 12 id) 0 < 16 then s1.rowRepair 12 id 0 (if id < 64 then 0x04 else 0x05) 12 id row
    else if id < 64 then
      let c := id / 4
      ((((s.retireUnit 12 id).retiredEvent 12 id).updCourse c fun k => { k with gone := true }).loseParts fun p => p.hasCourse c).guardRecheckCourse c
    else (s.retireUnit 12 id).wantSafeHold 12 id
  | 10 =>
    let g := row % 8
    if rowsUsed (s.unit 10 id) g < 1 then s1.rowRepair 10 id g 0x06 10 id row
    else
      let f := id / 64 * pierFrames + sysFrames + row % (pierFrames - sysFrames)
      (s1.migrateFrame f).logWrite 0x0A03 10 id (leBytes 1 9) { cls := 2, action := 9 }
  | 11 =>
    let p := id / 64
    let s := (s.retireUnit 11 id).updPier p fun q => { q with mortarOff := insertNat q.mortarOff (id % 64) }
    let s := s.postT 0x0A04 11 id (leBytes 1 (Config.unstated 4 [11, id])) { cls := 2, action := 10 }
    if 16 < (s.pier p).mortarOff.length && !(s.pier p).resetting then s.pierReset p 3 else s
  | 6 =>
    let s := (((s.retireUnit 6 id).retiredEvent 6 id).burn 0x0E 1 6 id 0 s.lastLog).updCore id fun c => { c with retired := true, testing := false }
    s.guardRecheckAll none
  | 13 =>
    let s := ((s.retireUnit 13 id).retiredEvent 13 id)
    if id < 4 then
      let waiting := (s.pier id).quoin
      let s := (s.burn 0x0E 1 13 id 0 s.lastLog).updPier id fun q => { q with quoinRetired := true, quoin := [] }
      let s := s.updPier (id ^^^ 1) fun q => { q with quoin := q.quoin ++ waiting }
      if (s.pier (id ^^^ 1)).quoinRetired then s.losePair id else s
    else if id < 8 then
      let s := (s.burn 0x0E 1 13 id 0 s.lastLog).updPier (id - 4) fun q => { q with facingRetired := true }
      if (s.pier ((id - 4) ^^^ 1)).facingRetired then s.losePair (id - 4) else s
    else if id < 12 then
      let s := { s.burn 0x0E 1 13 id 0 s.lastLog with flt.riddleRetired := insertNat s.flt.riddleRetired (id - 8) }
      if 4 ≤ s.flt.riddleRetired.length then s.wantSafeHold 13 12 else s
    else if id < 32 then s.updChan (id - 16) fun c => { c with retired := true, stopped := true, enable := false, armed := false, busy := false, landing := none }
    else { s with mem.intRetired := insertNat s.mem.intRetired (id - 32) }
  | 0 => s.wantSafeHold 0 0
  | _ => s.retireUnit kind id

/-- A targeted test is called for (R258-R261). A second event on a unit whose test is pending classes it lasting at once; the
test then runs afterwards. The test of an Ashlar that holds a slot is posted with a rotation of that slot (R260). -/
def State.wantTest (s : State) (kind id slice : Nat) (req : Option Nat := none) : State :=
  let k := unitId kind id slice
  if (s.unit kind k).pending.isSome then
    let s := s.lasting kind id slice
    s.updUnit kind k fun u => { u with pending := some (slice, (u.pending.bind Prod.snd).orElse fun _ => req) }
  else
    let s := s.updUnit kind k fun u => { u with pending := some (slice, req), pendingAt := s.now }
    if kind == 3 then
      let c := id / 9
      match (s.course c).slotOfTile (id % 9) with
      | some slot =>
        if (s.course c).idle.isSome then (s.postReq c (.rotate slot false)).postReq c (.test (id % 9) slice req.isSome) else s
      | none => s
    else s

/-- A detected hardware error is counted and logged (R258): mechanism, part and the job's SEQ. -/
def State.errorEvent (s : State) (kind id mech part seq : Nat) (tested : Bool) (p : Nat := 0xFFFF) : State :=
  { s with flt.errors := sat64 s.flt.errors 1 }.postT 0x0A01 kind id
    (leBytes 1 mech ++ leBytes 2 part ++ [0] ++ leBytes 4 seq) { cls := if tested then 3 else 0xFF, part := p }

/-- An error in an Ashlar part of a running job (R258): marks the job and calls for the part's test. -/
def State.ashlarError (s : State) (p : Nat) (r : Part) (l mech part slice : Nat) : State :=
  match s.tileOf r l with
  | none => s
  | some t => ((s.touchPart p).errorEvent 3 t mech part r.jobSeq true p).wantTest 3 t slice

end Sys2Proof.Machine
end

