-- ==== Sys2Proof/Machine/Ledger.lean ====
section
/-! DEFINITION. The fuse ledger (R318, R319): its entries as bytes, its digest, burns and their completion (R265), FUSE_INFO and FUSE_READ
(R322). -/

namespace Sys2Proof.Machine

def ledgerCap : Nat := 24576

/-- The 28 bytes of an entry that its CRC covers (R319). -/
def fuseHead (n : Nat) (f : Fuse) : List Byte :=
  leBytes 2 n ++ leBytes 1 f.kind ++ leBytes 1 f.reason ++ leBytes 4 (f.unitKind * 2 ^ 28 + f.unitId) ++ leBytes 4 f.value ++ leBytes 2 f.boot ++ [0, 0] ++
    leBytes 8 f.time ++ leBytes 4 f.logRef

/-- The 32 bytes of a position; an INVALID one holds what the interrupted burn left, shown as zero. -/
def fuseBytes (x : Option Fuse × Nat) : List Byte :=
  match x.1 with
  | some f => fuseHead x.2 f ++ leBytes 4 (crc32 (fuseHead x.2 f)).toNat
  | none => List.replicate 32 0

/-- SHA-384 over all valid entries, in order. -/
def State.ledgerDigest (s : State) : List Byte :=
  sha384 ((s.flt.ledger.zipIdx.filter fun x => x.1.isSome).map fuseBytes).flatten

/-- One completed burn adds one entry. -/
def State.burnNow (s : State) (f : Fuse) : State :=
  if s.flt.ledger.length < ledgerCap then { s with flt.ledger := s.flt.ledger ++ [some { f with boot := s.fw.boot, time := s.now }] } else s

/-- A setting that a command burns before it answers. -/
def State.burnCmd (s : State) (kind reason ukind uid value : Nat) : State := s.burnNow ⟨kind, reason, ukind, uid, value, s.fw.boot, s.now, 0, 0⟩

/-- ACTION and resources left of the REPAIR event that a burn of a repair posts. -/
def State.repairInfo (s : State) (f : Fuse) : Option (Nat × Nat) :=
  if f.kind == 2 then some (3, 0)
  else if f.kind == 3 then some (2, 128 - sumNat ((List.range 8).map fun k => rowsUsed (s.unit 3 (f.unitId * 64)) k))
  else if f.kind == 4 || f.kind == 5 then some (2, 16 - rowsUsed (s.unit 12 f.unitId) 0)
  else if f.kind == 7 then some (5, (s.port f.unitId).remaps)
  else if f.kind == 6 then some (4, 8 - sumNat ((List.range 8).map fun k => rowsUsed (s.unit 10 f.unitId) k))
  else none

/-- A burn completes: the ledger entry, and what waited for it. -/
def execFuseBurnDone (s : State) : Out :=
  .next (match s.flt.burns with
    | [] => s
    | f :: t =>
      if s.up && !s.mason.paused then
        let s := { s with flt.burns := t }.burnNow f
        let s := if f.kind == 8 then { s with fw.counter := max s.fw.counter f.value }.post 0x0C04 0 0 (leBytes 1 f.value) else s
        match s.repairInfo f with
        | some (a, left) => s.postT 0x0A03 f.unitKind f.unitId (leBytes 1 a ++ leBytes 2 left) { cls := 2, action := a }
        | none => s
      else s)

def State.fuseInfo (s : State) (_q : Req) : State × Resp :=
  (s, okR (leBytes 2 s.flt.ledger.length ++ leBytes 2 (s.flt.ledger.filter fun x => x.isNone).length ++ leBytes 1 s.fw.counter ++ [0, 0, 0] ++ s.ledgerDigest))

def execFuseInfo (m : Mb) (s : State) : Out := .next (s.mbRun m 0x0E40 false (lenIs 0 []) State.fuseInfo)

/-- Up to seven positions from START; BAD_ARG where START lies past the ledger's end. -/
def State.fuseRead (s : State) (q : Req) : State × Resp :=
  if ledgerCap ≤ q.u16 0 then (s, failR St.badArg)
  else
    let es := (s.flt.ledger.zipIdx.drop (q.u16 0)).take 7
    (s, okR (leBytes 1 es.length ++ List.replicate 7 0 ++ (es.map fuseBytes).flatten))

def execFuseRead (m : Mb) (s : State) : Out := .next (s.mbRun m 0x0E41 false (lenIs 4 [(2, 2)]) State.fuseRead)

end Sys2Proof.Machine
end

