-- ==== Sys2Proof/Machine/Num.lean ====
section
/-! DEFINITION. Number formats and exact arithmetic (03_numerics.md R54-R78): decoding of the 18 formats, rounding to nearest even,
FP32 operations, Bed group sums, conversions to every format, requantisation. Finite values are exact: sign, integer, power of two. -/

namespace Sys2Proof.Machine

/-- A value of a format: NaN, an infinity, or (-1)^neg × m × 2^e (m = 0 is a signed zero). -/
inductive Val where
  | nan
  | inf (neg : Bool)
  | fin (neg : Bool) (m : Nat) (e : Int)
  deriving DecidableEq, Repr

/-- An exact dyadic number m × 2^e. -/
structure Dy where
  m : Int
  e : Int
  deriving DecidableEq, Repr

/-- Layout of a floating-point format (R58). `maxM × 2^maxE` is the largest finite value. -/
structure FFmt where
  eb : Nat
  mb : Nat
  bias : Nat
  /-- 0 IEEE infinities and NaNs, 1 E4M3 (one NaN code), 2 neither -/
  kind : Nat
  maxM : Nat
  maxE : Int
  deriving DecidableEq, Repr

def fmtFP32 : FFmt := ⟨8, 23, 127, 0, 2 ^ 24 - 1, 104⟩
def fmtE8M10 : FFmt := ⟨8, 10, 127, 0, 2 ^ 11 - 1, 117⟩
def fmtBF16 : FFmt := ⟨8, 7, 127, 0, 2 ^ 8 - 1, 120⟩
def fmtFP16 : FFmt := ⟨5, 10, 15, 0, 2 ^ 11 - 1, 5⟩
def fmtE4M3 : FFmt := ⟨4, 3, 7, 1, 14, 5⟩
def fmtE5M2 : FFmt := ⟨5, 2, 15, 0, 7, 13⟩
def fmtE3M2 : FFmt := ⟨3, 2, 3, 2, 7, 2⟩
def fmtE2M3 : FFmt := ⟨2, 3, 1, 2, 15, -1⟩
def fmtE2M1 : FFmt := ⟨2, 1, 1, 2, 3, 1⟩

/-- Decodes an element word (R58, R60). -/
def decodeF (f : FFmt) (w : Nat) : Val :=
  let s := bitOf w (f.eb + f.mb)
  let e := bitsOf w (f.eb + f.mb - 1) f.mb
  let m := w % 2 ^ f.mb
  if f.kind == 0 && e == 2 ^ f.eb - 1 then (if m == 0 then .inf s else .nan)
  else if f.kind == 1 && e == 15 && m == 7 then .nan
  else if e == 0 then .fin s m (1 - f.bias - f.mb)
  else .fin s (2 ^ f.mb + m) ((e : Int) - f.bias - f.mb)

/-- `m / 2^k` rounded to nearest, ties to even. -/
def rneShift (m k : Nat) : Nat :=
  let q := m / 2 ^ k
  let r := m % 2 ^ k
  if 2 * r > 2 ^ k || (2 * r == 2 ^ k && q % 2 == 1) then q + 1 else q

/-- Rounds m × 2^e (m > 0) to the format's precision: exponent unbounded above, bounded below by the subnormals (R73). -/
def roundMag (f : FFmt) (m : Nat) (e : Int) : Nat × Int :=
  let l : Int := Nat.log2 m + 1
  let q := max (e + l - (f.mb + 1)) (1 - (f.bias : Int) - f.mb)
  if q ≤ e then (m * 2 ^ (e - q).toNat, q) else (rneShift m (q - e).toNat, q)

/-- As `roundMag`, toward zero (R77). -/
def truncMag (f : FFmt) (m : Nat) (e : Int) : Nat × Int :=
  let l : Int := Nat.log2 m + 1
  let q := max (e + l - (f.mb + 1)) (1 - (f.bias : Int) - f.mb)
  if q ≤ e then (m * 2 ^ (e - q).toNat, q) else (m / 2 ^ (q - e).toNat, q)

/-- m × 2^e > m' × 2^e' -/
def magGt (m : Nat) (e : Int) (m' : Nat) (e' : Int) : Bool :=
  let k := min e e'
  decide (m * 2 ^ (e - k).toNat > m' * 2 ^ (e' - k).toNat)

/-- Encodes a magnitude already rounded to the format and not above its largest finite value. -/
def encodeMag (f : FFmt) (neg : Bool) (m : Nat) (q : Int) : Nat :=
  let (m, q) := if m ≥ 2 ^ (f.mb + 1) then (m / 2, q + 1) else (m, q)
  let s := if neg then 2 ^ (f.eb + f.mb) else 0
  if m < 2 ^ f.mb then s + m else s + (q + f.bias + f.mb).toNat * 2 ^ f.mb + (m - 2 ^ f.mb)

def infWord (f : FFmt) (neg : Bool) : Nat := (if neg then 2 ^ (f.eb + f.mb) else 0) + (2 ^ f.eb - 1) * 2 ^ f.mb

/-- The positive canonical NaN (R60). -/
def nanWord (f : FFmt) : Nat := if f.kind == 1 then 0x7F else (2 ^ f.eb - 1) * 2 ^ f.mb + 2 ^ (f.mb - 1)

def maxWord (f : FFmt) (neg : Bool) : Nat := encodeMag f neg f.maxM f.maxE

/-- Numeric events of a conversion (R78). -/
structure NumEv where
  sat : Nat := 0
  nonfinite : Nat := 0
  nanFlush : Nat := 0
  underflow : Nat := 0
  deriving DecidableEq, Repr

def NumEv.add (a b : NumEv) : NumEv :=
  ⟨a.sat + b.sat, a.nonfinite + b.nonfinite, a.nanFlush + b.nanFlush, a.underflow + b.underflow⟩

/-- Conversion to a floating-point element (R73), with `ovf` the OVF bit; for FP6 and FP4 NaN gives +0. -/
def convF (f : FFmt) (ovf : Bool) : Val → Nat × NumEv
  | .nan => if f.kind == 2 then (0, { nanFlush := 1 }) else (nanWord f, {})
  | .inf neg =>
    if ovf && f.kind == 0 then (infWord f neg, {})
    else if ovf && f.kind == 1 then (nanWord f, {})
    else (maxWord f neg, { sat := 1 })
  | .fin neg m e =>
    if m == 0 then ((if neg then 2 ^ (f.eb + f.mb) else 0), {})
    else
      let (m', q) := roundMag f m e
      if m' == 0 then ((if neg then 2 ^ (f.eb + f.mb) else 0), { underflow := 1 })
      else if magGt m' q f.maxM f.maxE then
        if ovf && f.kind == 0 then (infWord f neg, { nonfinite := 1 })
        else if ovf && f.kind == 1 then (nanWord f, { nonfinite := 1 })
        else (maxWord f neg, { sat := 1 })
      else (encodeMag f neg m' q, {})

/-! ## FP32 operations: one rounding each, IEEE 754 overflow, canonical NaN -/

def f32Val (w : W32) : Val := decodeF fmtFP32 w.toNat

def f32Of (v : Val) : W32 := BitVec.ofNat 32 (convF fmtFP32 true v).1

/-- Exact sum of finite signed values; `zneg` is the sign of an exact zero. -/
def dyAdd (a b : Dy) : Dy :=
  let k := min a.e b.e
  ⟨a.m * 2 ^ (a.e - k).toNat + b.m * 2 ^ (b.e - k).toNat, k⟩

def valDy : Val → Dy
  | .fin neg m e => ⟨if neg then -(m : Int) else m, e⟩
  | _ => ⟨0, 0⟩

def dyVal (d : Dy) (zneg : Bool) : Val := if d.m == 0 then .fin zneg 0 0 else .fin (decide (d.m < 0)) d.m.natAbs d.e

/-- IEEE 754 addition, exact (R67): NaN for opposite infinities; an exact zero is +0 unless both are -0. -/
def valAdd : Val → Val → Val
  | .nan, _ => .nan
  | _, .nan => .nan
  | .inf a, .inf b => if a == b then .inf a else .nan
  | .inf a, _ => .inf a
  | _, .inf b => .inf b
  | .fin na ma ea, .fin nb mb eb =>
    dyVal (dyAdd (valDy (.fin na ma ea)) (valDy (.fin nb mb eb))) (ma == 0 && mb == 0 && na && nb)

def valNeg : Val → Val
  | .nan => .nan
  | .inf n => .inf (!n)
  | .fin n m e => .fin (!n) m e

/-- Exact product; infinity × zero is NaN. -/
def valMul : Val → Val → Val
  | .nan, _ => .nan
  | _, .nan => .nan
  | .inf a, .inf b => .inf (a != b)
  | .inf a, .fin n m _ => if m == 0 then .nan else .inf (a != n)
  | .fin n m _, .inf a => if m == 0 then .nan else .inf (a != n)
  | .fin na ma ea, .fin nb mb eb => .fin (na != nb) (ma * mb) (ea + eb)

/-- Quotient of finite magnitudes with a sticky last bit: enough bits that one more rounding is correct. -/
def divSticky (ma mb : Nat) (ea eb : Int) : Nat × Int :=
  let k := 320 + Nat.log2 mb
  let n := ma * 2 ^ k
  let q := n / mb
  (2 * q + (if n % mb == 0 then 0 else 1), ea - eb - k - 1)

def valDiv : Val → Val → Val
  | .nan, _ => .nan
  | _, .nan => .nan
  | .inf _, .inf _ => .nan
  | .inf a, .fin n _ _ => .inf (a != n)
  | .fin n _ _, .inf a => .fin (a != n) 0 0
  | .fin na ma ea, .fin nb mb eb =>
    if mb == 0 then (if ma == 0 then .nan else .inf (na != nb))
    else let (q, e) := divSticky ma mb ea eb; .fin (na != nb) q e

/-- Square root with a sticky last bit. -/
def valSqrt : Val → Val
  | .nan => .nan
  | .inf neg => if neg then .nan else .inf false
  | .fin neg m e =>
    if m == 0 then .fin neg 0 0
    else if neg then .nan
    else
      let (m, e) := if e % 2 == 0 then (m, e) else (2 * m, e - 1)
      let n := m * 2 ^ 320
      let r := Nat.sqrt n
      .fin false (2 * r + (if r * r == n then 0 else 1)) (e / 2 - 161)

def fadd (a b : W32) : W32 := f32Of (valAdd (f32Val a) (f32Val b))
def fsub (a b : W32) : W32 := f32Of (valAdd (f32Val a) (valNeg (f32Val b)))
def fmul (a b : W32) : W32 := f32Of (valMul (f32Val a) (f32Val b))
def fdiv (a b : W32) : W32 := f32Of (valDiv (f32Val a) (f32Val b))
def ffma (a b c : W32) : W32 := f32Of (valAdd (valMul (f32Val a) (f32Val b)) (f32Val c))
def fsqrt (a : W32) : W32 := f32Of (valSqrt (f32Val a))
def fneg (a : W32) : W32 := f32Of (valNeg (f32Val a))

def f32Nat (n : Nat) : W32 := f32Of (.fin false n 0)
def f32Dy (m e : Int) : W32 := f32Of (dyVal ⟨m, e⟩ false)

/-- a < b on values; false on NaN. -/
def valLt : Val → Val → Bool
  | .nan, _ => false
  | _, .nan => false
  | .inf a, .inf b => a && !b
  | .inf a, _ => a
  | _, .inf b => !b
  | .fin na ma ea, .fin nb mb eb => decide ((dyAdd (valDy (.fin na ma ea)) (valDy (.fin (!nb) mb eb))).m < 0)

def isNan (w : W32) : Bool := f32Val w == .nan
def flt (a b : W32) : Bool := valLt (f32Val a) (f32Val b)
def fge (a b : W32) : Bool := !isNan a && !isNan b && !flt a b
def fle (a b : W32) : Bool := fge b a

def isZero (w : W32) : Bool := w.toNat % 2 ^ 31 == 0

/-- Which of +0 and -0 the minimum (0) or maximum (1) of the two is: not stated, a free value (log 115). -/
def zeroPick (op : Nat) (a b : W32) : W32 := if a == b then a else if Config.unstated 16 [op, a.toNat] % 2 == 1 then a else b

/-- The larger; NaN when either is NaN (R71: IEEE 754, canonical NaN). -/
def fmax (a b : W32) : W32 :=
  if isNan a || isNan b then f32Of .nan else if isZero a && isZero b then zeroPick 1 a b else if flt a b then b else a
def fmin (a b : W32) : W32 :=
  if isNan a || isNan b then f32Of .nan else if isZero a && isZero b then zeroPick 0 a b else if flt b a then b else a
def fclamp (x lo hi : W32) : W32 := fmin (fmax x lo) hi

/-! ## Element formats by numeric control byte (R54, R56, R57, R61-R64) -/

def ctrlFmt (c : Nat) : Nat := c % 32
def ctrlOvf (c : Nat) : Bool := bitOf c 5
def ctrlElem (c : Nat) : Bool := bitOf c 6

/-- R56: the codes, the formats that allow OVF and ELEM, bit 7. -/
def ctrlOk (c : Nat) : Bool :=
  let f := ctrlFmt c
  decide (c < 128) && decide (1 ≤ f) && decide (f ≤ 0x12) &&
  (!ctrlElem c || f == 0x0A || f == 0x0B) &&
  (!ctrlOvf c || [0x01, 0x02, 0x03, 0x04, 0x05, 0x06, 0x0A, 0x0B, 0x0C, 0x0D].contains f)

/-- The element type of a floating-point or MX format; none for integers, MXINT8 and A4. -/
def elemFF (c : Nat) : Option FFmt :=
  match ctrlFmt c with
  | 0x01 => some fmtFP32 | 0x02 => some fmtE8M10 | 0x03 => some fmtBF16 | 0x04 => some fmtFP16
  | 0x05 => some fmtE4M3 | 0x06 => some fmtE5M2 | 0x07 => some fmtE3M2 | 0x08 => some fmtE2M3 | 0x09 => some fmtE2M1
  | 0x0A => some (if ctrlElem c then fmtE5M2 else fmtE4M3)
  | 0x0B => some (if ctrlElem c then fmtE2M3 else fmtE3M2)
  | 0x0C => some fmtE2M1
  | _ => none

def isMx (c : Nat) : Bool := decide (0x0A ≤ ctrlFmt c) && decide (ctrlFmt c ≤ 0x0D)
def isA4 (c : Nat) : Bool := ctrlFmt c == 0x12
def isIntFmt (c : Nat) : Bool := [0x0E, 0x0F, 0x10, 0x11].contains (ctrlFmt c)

/-- Bits an element occupies in its plane. -/
def elemBits (c : Nat) : Nat :=
  match ctrlFmt c with
  | 0x01 => 32 | 0x02 => 32 | 0x03 => 16 | 0x04 => 16 | 0x0E => 16
  | 0x07 => 6 | 0x08 => 6 | 0x0B => 6
  | 0x09 => 4 | 0x0C => 4 | 0x11 => 4
  | _ => 8

/-- Packed bytes of a run of n elements (R57, R96). -/
def runBytes (c n : Nat) : Nat := if isA4 c then 34 * ceilDiv n 64 else ceilDiv (n * elemBits c) 8

/-- Bed multiply-accumulates per cycle (R54); a mixed pair runs at the lower figure (R55). -/
def macRate (c : Nat) : Nat :=
  match ctrlFmt c with
  | 0x01 => 1024 | 0x02 => 2048 | 0x03 => 4096 | 0x04 => 4096 | 0x0E => 4096
  | 0x09 => 32768 | 0x0C => 32768 | 0x11 => 32768 | 0x12 => 32768
  | _ => 16384

def pairRate (c d : Nat) : Nat := min (macRate c) (macRate d)

/-- Element word i of a packed run (R57). -/
def elemWord (c : Nat) (run : List Byte) (i : Nat) : Nat :=
  match elemBits c with
  | 4 => bitsOf (field run (i / 2) 1) (4 * (i % 2) + 3) (4 * (i % 2))
  | 6 => bitsOf (field run (3 * (i / 4)) 3) (6 * (i % 4) + 5) (6 * (i % 4))
  | b => field run (i * (b / 8)) (b / 8)

/-- E8M0 scale (R61): none for the NaN byte. -/
def e8m0 (b : Nat) : Option Int := if b == 0xFF then none else some ((b : Int) - 127)

def scaleVal (v : Val) (k : Int) : Val :=
  match v with
  | .fin n m e => .fin n m (e + k)
  | v => v

/-- Value of element i of a run, with the run's scale plane for MX formats (R57-R64). -/
def elemVal (c : Nat) (run scales : List Byte) (i : Nat) : Val :=
  let f := ctrlFmt c
  if f == 0x12 then
    let off := 34 * (i / 64)
    let j := i % 64
    let q := signed 4 (bitsOf (field run (off + j / 2) 1) (4 * (j % 2) + 3) (4 * (j % 2)))
    let e := signed 8 (field run (off + 32) 1)
    let z := signed 4 (field run (off + 33) 1 % 16)
    dyVal ⟨q - z, e⟩ false
  else if f == 0x0E then dyVal ⟨signed 16 (elemWord c run i), 0⟩ false
  else if f == 0x0F then dyVal ⟨signed 8 (elemWord c run i), 0⟩ false
  else if f == 0x10 then .fin false (elemWord c run i) 0
  else if f == 0x11 then dyVal ⟨signed 4 (elemWord c run i), 0⟩ false
  else if f == 0x0D then
    match e8m0 (field scales (i / 32) 1) with
    | none => .nan
    | some k => dyVal ⟨signed 8 (elemWord c run i), k - 6⟩ false
  else
    match elemFF c with
    | none => .nan
    | some ff =>
      let w := if f == 0x02 then elemWord c run i / 2 ^ 13 else elemWord c run i
      let v := decodeF ff w
      if isMx c then
        match e8m0 (field scales (i / 32) 1) with
        | none => .nan
        | some k => scaleVal v k
      else v

/-! ## Bed arithmetic (R65-R69, R77) -/

/-- Whether the accumulator of an operand pair is INT32 (R65). -/
def accIsInt (c d : Nat) : Bool := isIntFmt c && isIntFmt d

/-- Exact sum of a group of products with its special values (R66, R68); an exact zero is -0 only when every product is -0. -/
def groupSum (ps : List (Val × Val)) : Val :=
  let prods := ps.map fun p => valMul p.1 p.2
  if prods.any (· == .nan) then .nan
  else
    let pos := prods.any (· == .inf false)
    let neg := prods.any (· == .inf true)
    if pos && neg then .nan
    else if pos then .inf false
    else if neg then .inf true
    else
      let s := prods.foldl (fun d p => dyAdd d (valDy p)) ⟨0, 0⟩
      dyVal s (prods.all fun p => match p with | .fin n m _ => n && m == 0 | _ => false)

/-- FP32 accumulator: A + S rounded once (R67). -/
def accAddF (a : W32) (s : Val) : W32 := f32Of (valAdd (f32Val a) s)

/-- R77: a value truncated toward zero to FP32; overflow gives the largest finite value. -/
def truncF32 : Val → Val
  | .fin neg m e =>
    if m == 0 then .fin neg 0 0
    else
      let (m', q) := truncMag fmtFP32 m e
      if magGt m' q fmtFP32.maxM fmtFP32.maxE then .fin neg fmtFP32.maxM fmtFP32.maxE else .fin neg m' q
  | v => v

/-- An exact integer value of a dyadic (integer operands only). -/
def dyInt (d : Dy) : Int := if d.e ≥ 0 then d.m * 2 ^ d.e.toNat else d.m / 2 ^ (-d.e).toNat

/-- INT32 accumulator under the plan's INT_ACC flag (R69); the flag tells saturate. Second result: it left the range. -/
def accAddI (sat : Bool) (a : W32) (s : Int) : W32 × Bool :=
  let t := a.toInt + s
  if -(2 ^ 31) ≤ t ∧ t < 2 ^ 31 then (BitVec.ofInt 32 t, false)
  else if sat then (BitVec.ofInt 32 (if t < 0 then -(2 ^ 31) else 2 ^ 31 - 1), true)
  else (BitVec.ofInt 32 t, true)

/-- Whether an operand pair takes Broup's group of 64 (R77): both of FP8 E4M3, FP8 E5M2 and MXFP8, the two the same or not (log 119). -/
def broupPair (c d : Nat) : Bool := [0x05, 0x06, 0x0A].contains (ctrlFmt c) && [0x05, 0x06, 0x0A].contains (ctrlFmt d)

def groupLen (broup : Bool) (c d : Nat) : Nat := if broup && broupPair c d then 64 else 16

/-- One group into an accumulator: new value, left-the-range flag for INT32, became-non-finite flag for FP32. -/
def accGroup (broup sat : Bool) (c d : Nat) (a : W32) (ps : List (Val × Val)) : W32 × Bool :=
  if accIsInt c d then accAddI sat a (dyInt (valDy (groupSum ps)))
  else
    let s := groupSum ps
    let s := if broup && broupPair c d then truncF32 s else s
    let r := accAddF a s
    (r, match f32Val r with | .fin _ _ _ => false | _ => (match f32Val a with | .fin _ _ _ => true | _ => false))

/-- Combines partial accumulators by the pairwise tree on index (R70, R72): an unpaired last value passes up unchanged. -/
def pairLevel (f : W32 → W32 → W32) : List W32 → List W32
  | a :: b :: t => f a b :: pairLevel f t
  | l => l

def pairTree (f : W32 → W32 → W32) : Nat → List W32 → W32
  | 0, l => l.getD 0 0
  | n + 1, l => if l.length ≤ 1 then l.getD 0 0 else pairTree f n (pairLevel f l)

/-- The Deterministic order across chunks (R70): each column's chunk results, `cols` words apart, by the pairwise tree on chunk index. -/
def chunkTree (f : W32 → W32 → W32) (cols n : Nat) (ws : List W32) (col : Nat) : W32 :=
  pairTree f 32 ((List.range n).map fun c => ws.getD (c * cols + col) 0)

/-- Row reduction in FP32 (R72): element i to lane i mod 256, lanes ascending, then the pairwise tree on lane index. A lane starts with its
first element, and a lane without one takes no part (log 116). -/
def rowSum (l : List W32) : W32 :=
  let lanes := (List.range (min 256 l.length)).map fun j =>
    (l.zipIdx.filter fun p => p.2 % 256 == j).foldl (fun (acc : Option W32) p => some (match acc with | none => p.1 | some a => fadd a p.1)) none
  pairTree fadd 9 (lanes.map fun o => o.getD 0)

/-! ## Conversions (R73-R76) -/

/-- A value rounded to an integer, ties to even. -/
def rneInt (d : Dy) : Int :=
  if d.e ≥ 0 then d.m * 2 ^ d.e.toNat
  else
    let k := (-d.e).toNat
    let a := rneShift d.m.natAbs k
    if d.m < 0 then -(a : Int) else a

/-- floor(v + 0.5) (R76 under Broup). -/
def halfUp (d : Dy) : Int :=
  if d.e ≥ 0 then d.m * 2 ^ d.e.toNat
  else (2 * d.m + 2 ^ (-d.e).toNat) / 2 ^ ((-d.e).toNat + 1)

def intRange (c : Nat) : Int × Int :=
  match ctrlFmt c with
  | 0x0E => (-32768, 32767) | 0x0F => (-128, 127) | 0x10 => (0, 255) | _ => (-8, 7)

def clampI (x lo hi : Int) : Int := max lo (min hi x)

/-- Conversion to an integer format (R73): NaN gives 0, counted. -/
def convI (c : Nat) : Val → Nat × NumEv
  | .nan => (0, { nanFlush := 1 })
  | .inf neg =>
    let (lo, hi) := intRange c
    (unsigned (elemBits c) (if neg then lo else hi), { sat := 1 })
  | .fin neg m e =>
    let (lo, hi) := intRange c
    let r := rneInt (valDy (.fin neg m e))
    let q := clampI r lo hi
    (unsigned (elemBits c) q, { sat := boolN (q != r), underflow := boolN (m != 0 && r == 0) })

/-- Requantisation (R76): acc × m exact, rounded once, plus zp, clamped; `broup` selects half-up. A non-zero product that rounds to zero
counts as underflow (R78). A multiplier that is not finite is not stated: the product is converted as R73 says, without zp (log 118). -/
def requantize (broup : Bool) (c : Nat) (acc mult : W32) (zp : Int) : Nat × NumEv :=
  match f32Val mult with
  | .fin n m e =>
    let d : Dy := ⟨acc.toInt * (if n then -(m : Int) else m), e⟩
    let v := if broup then halfUp d else rneInt d
    let (lo, hi) := intRange c
    let q := clampI (v + zp) lo hi
    (unsigned (elemBits c) q, { sat := boolN (q != v + zp), underflow := boolN (d.m != 0 && v == 0) })
  | v => convI c (valMul v (dyVal ⟨acc.toInt, 0⟩ false))

/-- floor(log2 |v|) of a non-zero finite value. -/
def floorLog2 (m : Nat) (e : Int) : Int := (Nat.log2 m : Int) + e

def emaxOf (c : Nat) : Int :=
  match ctrlFmt c with
  | 0x0A => if ctrlElem c then 15 else 8
  | 0x0B => if ctrlElem c then 2 else 4
  | 0x0C => 2
  | _ => 0

/-- Infinities as ±FP32 max, for a block conversion with OVF = 0 (R73, R74). -/
def finiteOr : Val → Val
  | .inf neg => .fin neg fmtFP32.maxM fmtFP32.maxE
  | v => v

/-- A block of 32 values to an MX format (R74): scale byte, element words. With OVF = 1 an infinity makes the scale NaN (R73). -/
def convMx (c : Nat) (xs : List Val) : Nat × List Nat × NumEv :=
  let bad := xs.any fun v => v == .nan || (ctrlOvf c && (v == .inf false || v == .inf true))
  if bad then (0xFF, xs.map fun _ => 0, {})
  else
    let ys := xs.map finiteOr
    let exps := ys.filterMap fun v => match v with | .fin _ m e => if m == 0 then none else some (floorLog2 m e) | _ => none
    let k := match exps with | [] => -127 | x :: t => t.foldl max x - emaxOf c
    let k := clampI k (-127) 127
    let qs := ys.map fun v =>
      let v' := scaleVal v (-k)
      if ctrlFmt c == 0x0D then
        match v' with
        | .fin n m e =>
          let r := rneInt (valDy (.fin n m (e + 6)))
          let q := clampI r (-127) 127
          (unsigned 8 q, ({ sat := boolN (q != r), underflow := boolN (m != 0 && r == 0) } : NumEv))
        | _ => (0, {})
      else
        match elemFF c with
        | some f => convF f false v'
        | none => (0, {})
    ((k + 127).toNat, qs.map Prod.fst, qs.foldl (fun a q => a.add q.2) {})

def ceilLog2Dy (d : Dy) : Int :=
  let l := (Nat.log2 d.m.natAbs : Int)
  (if d.m == 2 ^ l.toNat then l else l + 1) + d.e

/-- ceil(log2(d / 15)) for d > 0: the least k with d ≤ 15 × 2^k. -/
def ceilLog2Div15 (d : Dy) : Int :=
  let k := (Nat.log2 d.m.natAbs : Int) + d.e - 4
  let fits (k : Int) : Bool := let j := min d.e k; decide (d.m * 2 ^ (d.e - j).toNat ≤ 15 * 2 ^ (k - j).toNat)
  if fits k then k else if fits (k + 1) then k + 1 else k + 2

def a4Loop (lo hi : Dy) : Nat → Int → Int × Int
  | 0, e => (e, rneInt ⟨lo.m, lo.e - e⟩)
  | n + 1, e =>
    let a := rneInt ⟨lo.m, lo.e - e⟩
    let b := rneInt ⟨hi.m, hi.e - e⟩
    if b - a ≤ 15 ∨ e = 127 then (e, a) else a4Loop lo hi n (e + 1)

def dyLt (a b : Dy) : Bool := decide ((dyAdd a ⟨-b.m, b.e⟩).m < 0)

/-- A block of 64 values to A4 (R75): exponent, zero point, elements. A NaN is excluded from the range and written as the
element of value 0, counted. -/
def convA4 (xs : List Val) : Int × Int × List Int × NumEv :=
  let ys := xs.map finiteOr
  let fins := ys.filterMap fun v => match v with | .nan => none | v => some (valDy v)
  let lo := fins.foldl (fun a d => if dyLt d a then d else a) ⟨0, 0⟩
  let hi := fins.foldl (fun a d => if dyLt a d then d else a) ⟨0, 0⟩
  let rng := dyAdd hi ⟨-lo.m, lo.e⟩
  if rng.m == 0 then (0, 0, ys.map fun _ => 0, { nanFlush := (ys.filter (· == .nan)).length })
  else
    let e0 := max (ceilLog2Div15 rng) (-128)
    let (e, a) := a4Loop lo hi 256 e0
    let z := clampI (-8 - a) (-8) 7
    let qs := ys.map fun v => match v with
      | .nan => (z, ({ nanFlush := 1 } : NumEv))
      | v =>
        let d := valDy v
        let r := rneInt ⟨d.m, d.e - e⟩ + z
        let q := clampI r (-8) 7
        (q, { sat := boolN (q != r), underflow := boolN (d.m != 0 && q == z) })
    (e, z, qs.map Prod.fst, qs.foldl (fun a q => a.add q.2) {})

/-- Packs element words of a run (R57). -/
def packWords (bits : Nat) (ws : List Nat) : List Byte :=
  leBytes (ceilDiv (ws.length * bits) 8) ((ws.zipIdx.map fun p => p.1 * 2 ^ (bits * p.2)).foldl (· + ·) 0)

def chunksOf {α : Type} (k : Nat) : Nat → List α → List (List α)
  | 0, _ => []
  | _, [] => []
  | n + 1, l => l.take k :: chunksOf k n (l.drop k)

/-- Converts a run of values to a format: element bytes, scale bytes, events (R57, R73-R75). -/
def convRun (c : Nat) (xs : List Val) : List Byte × List Byte × NumEv :=
  if isA4 c then
    let bs := (chunksOf 64 (xs.length + 1) xs).map fun b => convA4 (b ++ List.replicate (64 - b.length) (.fin false 0 0))
    ((bs.map fun b => packWords 4 (b.2.2.1.map (unsigned 4)) ++ leBytes 1 (unsigned 8 b.1) ++ leBytes 1 (unsigned 4 b.2.1)).flatten, [],
      bs.foldl (fun a b => a.add b.2.2.2) {})
  else if isMx c then
    let bs := (chunksOf 32 (xs.length + 1) xs).map (convMx c)
    (packWords (elemBits c) (bs.map fun b => b.2.1).flatten, bs.map fun b => BitVec.ofNat 8 b.1, bs.foldl (fun a b => a.add b.2.2) {})
  else
    let qs := xs.map fun v => match elemFF c with
      | some f => let (w, ev) := convF f (ctrlOvf c) v; ((if ctrlFmt c == 0x02 then w * 2 ^ 13 else w), ev)
      | none => convI c v
    (packWords (elemBits c) (qs.map Prod.fst), [], qs.foldl (fun a q => a.add q.2) {})

/-- R352: a finite FP32 value that the input format holds exactly. -/
def representable (c : Nat) (w : W32) : Bool :=
  match f32Val w with
  | .fin neg m e =>
    if m == 0 then true
    else
      let tz := (List.range 32).foldl (fun (k : Nat) _ => if m / 2 ^ k % 2 == 0 then k + 1 else k) 0
      let o := m / 2 ^ tz
      let oe := e + tz
      if isA4 c then decide (o ≤ 15) && (List.range 4).any fun k => decide (o * 2 ^ k ≤ 15) && decide (-128 ≤ oe - k) && decide (oe - k ≤ 127)
      else if ctrlFmt c == 0x0D then (List.range 8).any fun k => decide (o * 2 ^ k ≤ (if neg then 128 else 127)) && decide (-127 ≤ oe - k + 6) && decide (oe - k + 6 ≤ 127)
      else if isIntFmt c then
        let (lo, hi) := intRange c
        let r := dyInt (valDy (.fin neg m e))
        decide (0 ≤ oe) && decide (lo ≤ r) && decide (r ≤ hi)
      else match elemFF c with
        | none => false
        | some f =>
          if isMx c then (List.range 255).any fun k =>
            let (m', q) := roundMag f m (e - ((k : Int) - 127))
            !magGt m' q f.maxM f.maxE && !magGt m' q m (e - ((k : Int) - 127)) && !magGt m (e - ((k : Int) - 127)) m' q
          else
            let (m', q) := roundMag f m e
            !magGt m' q f.maxM f.maxE && !magGt m' q m e && !magGt m e m' q
  | _ => false

end Sys2Proof.Machine
end

