-- ==== Sys2Proof/Machine/Window.lean ====
section
/-! DEFINITION. Convolution and pooling geometry (R124-R133, R137, R138): axes, output sizes, padding, the taps behind a reduction
index, elided taps and skipped rows, and the places of tensor elements (R96). -/

namespace Sys2Proof.Machine

/-- One axis as the Template walks it: input size, taps, tap distance, step, padding before (negative crops), inserted positions per
input element (R130) and output size. -/
structure Axis where
  n : Nat
  k : Nat
  d : Nat
  s : Nat
  pb : Int
  up : Nat
  o : Nat
  deriving DecidableEq, Repr

def effK (k d : Nat) : Nat := d * (k - 1) + 1

/-- R126: output size by OP: floor, ceil with its correction, or the transposed form. -/
def outSize (op : Nat) (ceil : Bool) (n k d s pb pa q : Nat) : Int :=
  let x : Int := (n : Int) + pb + pa - effK k d
  if op == 2 then ((n : Int) - 1) * s - pb - pa + effK k d + q
  else if ceil then
    let o := -((-x) / (s : Int)) + 1
    if (n : Int) + pb ≤ (o - 1) * s then o - 1 else o
  else x / (s : Int) + 1

/-- An axis of a layer: OP 0x02 runs at stride 1 over a map with inserted zeros and flipped taps (R130). -/
def mkAxis (op n k d s pb o : Nat) : Axis :=
  if op == 2 then { n, k, d, s := 1, pb := (effK k d : Int) - 1 - pb, up := s, o } else { n, k, d, s, pb, up := 1, o }

/-- OP 0x05 is a 3 × 3 layer with padding 1 over the map of 4 × 4 blocks (R137). -/
def Layer.axisW (l : Layer) : Axis :=
  if l.op == 5 then ⟨l.inW / 4, 3, 1, 1, 1, 1, l.inW / 4⟩ else mkAxis l.op l.inW l.kW l.dW l.sW l.padL l.outW
def Layer.axisH (l : Layer) : Axis :=
  if l.op == 5 then ⟨l.inH / 4, 3, 1, 1, 1, 1, l.inH / 4⟩ else mkAxis l.op l.inH l.kH l.dH l.sH l.padT l.outH
def Layer.axisT (l : Layer) : Axis := mkAxis l.op l.inT l.kT 1 l.sT l.padF l.outT

/-- R127: what a tap reads along an axis at coordinate `v` of the map with inserted zeros; none outside the map or between elements. -/
def coordIn (a : Axis) (v : Int) : Option Nat :=
  if 0 ≤ v ∧ v ≤ ((a.n : Int) - 1) * a.up ∧ v % a.up = 0 then some (v / a.up).toNat else none

def coordMap (mode : Nat) (n : Nat) (v : Int) : Nat :=
  if mode == 2 then (clampI v 0 ((n : Int) - 1)).toNat
  else if n ≤ 1 then 0
  else
    let r := v % (2 * ((n : Int) - 1))
    (if (n : Int) ≤ r then 2 * ((n : Int) - 1) - r else r).toNat

def Axis.coord (a : Axis) (o t : Nat) : Int := (o : Int) * a.s + (t : Int) * a.d - a.pb

/-- The input index that a tap reads at an output position. -/
def Axis.read (a : Axis) (mode o t : Nat) : Option Nat :=
  if mode == 2 || mode == 3 then some (coordMap mode a.n (a.coord o t)) else coordIn a (a.coord o t)

/-- R128: the tap reads outside the map for every output position. -/
def Axis.outside (a : Axis) (t : Nat) : Bool := (List.range a.o).all fun o => (coordIn a (a.coord o t)).isNone

/-- What one tap supplies: nothing (a structural zero), PAD_VALUE, or the input element at (t, y, x). -/
inductive Tap where
  | zero
  | pad
  | at (t y x : Nat)
  deriving DecidableEq, Repr

/-- One tap at one output position (R127, R128). -/
def Layer.tap (l : Layer) (ot oy ox kt kh kw : Nat) : Tap :=
  match l.axisT.read l.padMode ot kt, l.axisH.read l.padMode oy kh, l.axisW.read l.padMode ox kw with
  | some t, some y, some x => .at t y x
  | _, _, _ =>
    if l.padMode == 1 && !(l.axisT.outside kt || l.axisH.outside kh || l.axisW.outside kw) then .pad else .zero

/-! ## Reduction indices and columns -/

/-- Input channels of a group as the reduction index counts them. -/
def Layer.icg (l : Layer) : Nat := if l.op == 5 then 48 else l.inC / l.groups

/-- Columns of the moving operand: the taps, or under PACK the union of the windows (R138). -/
def Layer.spanW (l : Layer) : Nat :=
  if l.pack ≤ 1 then l.axisW.k else (l.pack - 1) * l.axisW.s + effK l.axisW.k l.axisW.d

/-- Length of the reduction dimension of one group. -/
def Layer.redLen (l : Layer) : Nat := l.axisT.k * l.axisH.k * l.spanW * l.icg

/-- An input element: (t, y, x, channel), PAD_VALUE, or a structural zero. -/
inductive Elem where
  | zero
  | pad
  | at (t y x c : Nat)
  deriving DecidableEq, Repr

def Tap.elem (c : Nat) : Tap → Elem
  | .zero => .zero
  | .pad => .pad
  | .at t y x => .at t y x c

/-- The stem's element (R137): block row kr and column kc, channel c' of the block at (a, b), for the phase of the column. -/
def stemElem (l : Layer) (a b kr kc c' phase : Nat) : Elem :=
  let dy := c' / 12
  let dx := c' / 3 % 4
  let py := phase / 2
  let px := phase % 2
  if decide (2 * py + 1 ≤ 4 * kr + dy) && decide (4 * kr + dy ≤ 2 * py + 7) && decide (2 * px + 1 ≤ 4 * kc + dx) && decide (4 * kc + dx ≤ 2 * px + 7) then
    match coordIn l.axisH (l.axisH.coord a kr), coordIn l.axisW (l.axisW.coord b kc) with
    | some y, some x => .at 0 (4 * y + dy) (4 * x + dx) (c' % 3)
    | _, _ => .zero
  else .zero

/-- The element at reduction index `r` of group `g` for Bed column `col` of the layer (R124, R131, R137, R138). -/
def Layer.elem (l : Layer) (ot oy ox g r col : Nat) : Elem :=
  let ic := r % l.icg
  let u := r / l.icg % l.spanW
  let kh := r / l.icg / l.spanW % l.axisH.k
  let kt := r / l.icg / l.spanW / l.axisH.k
  if l.redLen ≤ r then .zero
  else if l.op == 5 then (if l.outC = 0 then .zero else stemElem l oy ox kh u ic (col / l.outC))
  else
    let p := if l.pack ≤ 1 then 0 else col / l.outC
    let oc := if l.pack ≤ 1 then col else col % l.outC
    if oc / (l.outC / l.groups) != g then .zero
    else if l.pack ≤ 1 then (l.tap ot oy ox kt kh u).elem (g * l.icg + ic)
    else
      let v := (u : Int) - p * l.axisW.s
      if v < 0 ∨ v % l.axisW.d ≠ 0 ∨ (l.axisW.k : Int) ≤ v / l.axisW.d then .zero
      else (l.tap ot oy (ox + p) kt kh (v / l.axisW.d).toNat).elem (g * l.icg + ic)

/-! ## Counters (R129) -/

/-- Pairs of output position and tap of an axis that read inside the map. -/
def Axis.insides (a : Axis) : Nat :=
  sumNat ((List.range a.k).map fun t => ((List.range a.o).filter fun o => (coordIn a (a.coord o t)).isSome).length)

def Axis.kept (a : Axis) : Nat := ((List.range a.k).filter fun t => !a.outside t).length

/-- TAPS_ELIDED of one image of a convolution layer. -/
def Layer.tapsElided (l : Layer) : Nat :=
  let t := l.axisT
  let h := l.axisH
  let w := l.axisW
  let outs := t.o * h.o * w.o
  let taps := t.k * h.k * w.k
  if l.padMode == 0 then outs * taps - t.insides * h.insides * w.insides
  else if l.padMode == 1 then outs * (taps - t.kept * h.kept * w.kept)
  else 0

/-- Input indices of an axis that some issued tap reads. -/
def Axis.reads (a : Axis) (mode : Nat) : List Nat :=
  (List.range a.n).filter fun i => (List.range a.k).any fun t => (List.range a.o).any fun o => a.read mode o t == some i

/-- ROWCOL_SKIPPED of one image: rows and columns, and frames of a 3-D layer, that no issued tap reads. -/
def Layer.rowcolSkipped (l : Layer) : Nat :=
  let t := l.axisT.reads l.padMode
  let h := l.axisH.reads l.padMode
  let w := l.axisW.reads l.padMode
  let any := !t.isEmpty && !h.isEmpty && !w.isEmpty
  let miss (a : Axis) (r : List Nat) : Nat := if any then a.n - r.length else a.n
  miss l.axisH h + miss l.axisW w + (if 1 < l.inT || 1 < l.kT || l.padF != 0 || l.padK != 0 then miss l.axisT t else 0)

def convOp (op : Nat) : Bool := op == 1 || op == 2 || op == 5

/-! ## Tensors (R96) -/

/-- Number of slices and the first index and count of slice `i`: the halo repeats indices at each side that has a neighbour. -/
def Tensor.sliceSpan (t : Tensor) (i : Nat) : Nat × Nat :=
  let n := t.dim.getD t.sliceDim 1
  let lo := i * t.sliceLen - (if i = 0 then 0 else t.halo)
  let hi := min n ((i + 1) * t.sliceLen + t.halo)
  (lo, hi - lo)

/-- Dimensions of a plane, or of slice `i`. -/
def Tensor.sliceDims (t : Tensor) (i : Nat) : List Nat :=
  if t.space == 2 then t.dim else setAt t.dim t.sliceDim (t.sliceSpan i).2

/-- Index of the run of an element within a plane of the given dimensions. -/
def runIndex (dim idx : List Nat) : Nat :=
  ((idx.getD 4 0 * dim.getD 3 1 + idx.getD 3 0) * dim.getD 2 1 + idx.getD 2 0) * dim.getD 1 1 + idx.getD 1 0

/-- The index within slice `i`; none where the slice does not hold it. -/
def Tensor.localIdx (t : Tensor) (i : Nat) (idx : List Nat) : Option (List Nat) :=
  if t.space == 2 then some idx
  else
    let (lo, n) := t.sliceSpan i
    let x := idx.getD t.sliceDim 0
    if lo ≤ x ∧ x < lo + n then some (setAt idx t.sliceDim (x - lo)) else none

/-- Offsets from BASE and SCALE_BASE of the run that holds an element, its length in elements, and the element's place in it. -/
def Tensor.place (t : Tensor) (i : Nat) (idx : List Nat) : Option (Nat × Nat × Nat × Nat) :=
  (t.localIdx i idx).map fun j =>
    let d := t.sliceDims i
    let r := runIndex d j
    (r * t.rowPitch, r * ceilDiv (d.getD 0 1) 32, d.getD 0 1, j.getD 0 0)

/-- Packed length of a run, and the LENGTH that R96 expects: for the largest slice in SPACE 0 and 1. -/
def Tensor.lengthFor (t : Tensor) : Nat :=
  let d := if t.space == 2 then t.dim else setAt t.dim t.sliceDim (t.sliceLen + 2 * t.halo)
  t.rowPitch * (d.getD 1 1 * d.getD 2 1 * d.getD 3 1 * d.getD 4 1 - 1) + runBytes t.ctrl (d.getD 0 1)

end Sys2Proof.Machine
end

