-- ==== Sys2Proof/Machine/Image.lean ====
section
/-! DEFINITION. The plan-image container (R95-R98) and its geometry section (R125, R126, R132-R140, R149, R352): parsing, and the
checks of R98 in their order. -/

namespace Sys2Proof.Machine

/-! ## Parsing -/

/-- A section-table entry (R95). -/
structure SecEnt where
  type : Nat
  sel : Nat
  rsv : Nat
  length : Nat
  offset : Nat

def secEnts (b : List Byte) : List SecEnt :=
  (List.range (field b 0x0A 2)).map fun i =>
    let o := 0x80 + 16 * i
    ⟨field b o 2, field b (o + 2) 1, field b (o + 3) 1, field b (o + 4) 4, field b (o + 8) 8⟩

def secOf (b : List Byte) (e : SecEnt) : Section := ⟨e.type, e.sel, slice b e.offset e.length⟩

/-- Tensor descriptor `i` of a section (R96). -/
def parseTensor (b : List Byte) (i : Nat) : Tensor :=
  let o := 64 * i
  { ctrl := field b o 1, space := field b (o + 1) 1, pier := field b (o + 2) 1, rank := field b (o + 3) 1, dim := (List.range 5).map fun j => field b (o + 4 + 4 * j) 4, base := field b (o + 0x18) 8, scaleBase := field b (o + 0x20) 8, rowPitch := field b (o + 0x28) 8, sliceDim := field b (o + 0x30) 1, halo := field b (o + 0x31) 1, sliceLen := field b (o + 0x34) 4, length := field b (o + 0x38) 8 }

def parseLayer (b : List Byte) : Layer :=
  let f := field b 2 2
  { op := field b 0 1, padMode := field b 1 1, ceil := bitOf f 0, countPad := bitOf f 1, streamed := bitOf f 2, inW := field b 4 2, inH := field b 6 2, inT := field b 8 1, kT := field b 9 1, kW := field b 0xA 1, kH := field b 0xB 1, sW := field b 0xC 1, sH := field b 0xD 1, sT := field b 0xE 1, pack := field b 0xF 1, dW := field b 0x10 1, dH := field b 0x11 1, outPadW := field b 0x12 1, outPadH := field b 0x13 1, padL := field b 0x14 2, padR := field b 0x16 2, padT := field b 0x18 2, padB := field b 0x1A 2, padF := field b 0x1C 1, padK := field b 0x1D 1, inC := field b 0x20 4, outC := field b 0x24 4, groups := field b 0x28 4, padValue := BitVec.ofNat 32 (field b 0x2C 4), outW := field b 0x30 2, outH := field b 0x32 2, outT := field b 0x34 1, inTensor := field b 0x38 2, wTensor := field b 0x3A 2, outTensor := field b 0x3C 2 }

def word32 (b : List Byte) (o : Nat) : W32 := BitVec.ofNat 32 (field b o 4)

def parseQuoin (b : List Byte) : QuoinRec :=
  { mode := field b 1 1, form := field b 2 1, scoreFn := field b 3 1, numClasses := field b 4 2, maxOut := field b 6 2, scoreThr := word32 b 8, iouThr := word32 b 0xC, modelW := field b 0x10 2, modelH := field b 0x12 2, scaleX := word32 b 0x14, scaleY := word32 b 0x18, offX := word32 b 0x1C, offY := word32 b 0x20, srcW := field b 0x24 2, srcH := field b 0x26 2 }

def parseVision (b : List Byte) : VisionRec :=
  { inFmt := field b 1 1, batch := field b 2 2, inW := field b 4 2, inH := field b 6 2, inC := field b 8 1, ringDepth := field b 9 1, bandRows := field b 0xA 1, ringOffset := field b 0xC 4, bandSem := field b 0x10 2, freeSem := field b 0x12 2 }

def parseServe (b : List Byte) : ServeRec :=
  { draftMax := field b 1 1, maxBatch := field b 2 2, vocab := field b 4 4, kvUnit := field b 8 4, kvStreams := field b 0xC 2, dkvStreams := field b 0xE 2, dkvUnit := field b 0x10 4, chunk := field b 0x14 2, stepTokens := field b 0x16 2, maxContext := field b 0x18 4 }

def parseGeo (b : List Byte) : GeoRec :=
  if field b 0 1 == 6 then .quoin (parseQuoin b)
  else if field b 0 1 == 7 then .vision (parseVision b)
  else if field b 0 1 == 8 then .serve (parseServe b)
  else .layer (parseLayer b)

def geoRecs (b : List Byte) : List (List Byte) := (List.range (b.length / 64)).map fun i => slice b (64 * i) 64

/-- Sizes a section serves among those of the mask. -/
def selServes (sel k : Nat) : Bool := sel == k || sel == 255
def maskSizes (mask : Nat) : List Nat := (List.range 8).filter (bitOf mask)

/-- The tensor descriptors that serve partition size 2^k. -/
def tensorsFor (ss : List Section) (k : Nat) : List Tensor :=
  match List.find? (fun x : Section => x.type == 3 && selServes x.sizeSel k) ss with
  | none => []
  | some x => (List.range (x.bytes.length / 64)).map (parseTensor x.bytes)

def Plan.tensor (p : Plan) (k i : Nat) : Option Tensor := (tensorsFor p.sections k)[i]?

/-! ## Check 1: the container -/

def spansApart (a b : Nat × Nat) : Bool := decide (a.1 + a.2 ≤ b.1) || decide (b.1 + b.2 ≤ a.1) || a.2 == 0 || b.2 == 0

def pairsApart : List (Nat × Nat) → Bool
  | [] => true
  | a :: t => t.all (spansApart a) && pairsApart t

def oneBit (n : Nat) : Bool := (maskSizes n).length == 1

def check1 (b : List Byte) : Bool :=
  let f := field b 6 2
  let mask := field b 8 1
  let n := field b 0xA 2
  let es := secEnts b
  let sized (e : SecEnt) : Bool := [1, 2, 3, 4].contains e.type
  b.take 4 == [0x41, 0x4D, 0x5A, 0x50] && field b 4 2 == 2 && decide (f < 8) && field b 0x1A 2 == 0 && allZero (slice b 0x28 24) && allZero (slice b 0x70 16) &&
    es.all (fun e => e.rsv == 0) && [5, 6, 7].contains (field b 9 1) && decide (1 ≤ n) && decide (n ≤ 64) && mask != 0 && (bitOf f 0 || oneBit mask) &&
    es.all (fun e => decide (e.offset + e.length ≤ b.length) && e.offset % 64 == 0) &&
    pairsApart ((0, 0x80 + 16 * n) :: es.map fun e => (e.offset, e.length)) &&
    es.all (fun e => decide (1 ≤ e.type) && decide (e.type ≤ 6)) &&
    es.all (fun e => (decide (e.sel ≤ 7) && bitOf mask e.sel) || (e.sel == 255 && (!sized e || oneBit mask))) &&
    (maskSizes mask).all (fun k => [1, 2, 4].all fun t => es.any fun e => e.type == t && selServes e.sel k) &&
    es.all (fun e => !(e.type == 3 || e.type == 5) || e.length % 64 == 0)

/-! ## Check 4: control bytes, tensors, preload tables -/

/-- Slices of a tensor at a partition size: one per logical slot, or one per Course. -/
def sliceCount (space k : Nat) : Nat := if space == 0 then 2 ^ k else if k ≤ 3 then 1 else 2 ^ k / 8

def Tensor.legal (t : Tensor) (rsv : Nat) (k : Nat) : Bool :=
  ctrlOk t.ctrl && decide (t.space ≤ 2) && decide (1 ≤ t.rank) && decide (t.rank ≤ 5) && t.dim.all (fun d => decide (1 ≤ d)) &&
    (t.dim.drop t.rank).all (· == 1) && (if t.space == 2 then decide (t.pier ≤ 3) || t.pier == 255 else t.pier == 255) &&
    t.rowPitch % 64 == 0 && decide (runBytes t.ctrl ((if t.space == 2 then t.dim else setAt t.dim t.sliceDim (t.sliceLen + 2 * t.halo)).getD 0 1) ≤ t.rowPitch) &&
    (if t.space == 2 then t.sliceDim == 0 else decide (t.sliceDim < t.rank) && decide (t.halo ≤ 64) && decide (t.dim.getD t.sliceDim 1 ≤ t.sliceLen * sliceCount t.space k)) &&
    (isMx t.ctrl || t.scaleBase == 0) && rsv == 0 && t.length == t.lengthFor

/-- R97: 208 bytes for each slot, address entries with bits [63:48] zero. -/
def preloadOk (b : List Byte) (k : Nat) : Bool :=
  b.length == 208 * 2 ^ k && (List.range (2 ^ k)).all fun n => (List.range 14).all fun i => field b (208 * n + 96 + 8 * i + 6) 2 == 0

def check4 (ss : List Section) (mask : Nat) : Bool :=
  ss.all fun x =>
    let ks := (maskSizes mask).filter (selServes x.sizeSel)
    if x.type == 3 then ks.all fun k => (List.range (x.bytes.length / 64)).all fun i => (parseTensor x.bytes i).legal (field x.bytes (64 * i + 0x32) 2) k
    else if x.type == 2 then ks.all (preloadOk x.bytes)
    else if x.type == 5 then (geoRecs x.bytes).all fun r => field r 0 1 != 7 || ctrlOk (field r 1 1)
    else true

/-! ## Check 5: geometry records -/

/-- A failed geometry check: detail code and axis (R136). -/
abbrev GeoErr := Option (Nat × Nat)

def gRange (ok : Bool) (axis : Nat) : GeoErr := if ok then none else some (3, axis)

/-- The first of several checks that fails. -/
def firstErr (l : List GeoErr) : GeoErr := l.findSome? id

def btw (lo x hi : Nat) : Bool := decide (lo ≤ x) && decide (x ≤ hi)

def f32Finite (w : W32) : Bool := match f32Val w with | .fin _ _ _ => true | _ => false

/-- Range checks of a layer record (R125, R132, R133, R135). -/
def layerRange (l : Layer) (b : List Byte) (inCtrl : Nat) : GeoErr :=
  let pool := l.op == 3 || l.op == 4
  firstErr [
    gRange (btw 1 l.inW 65535 && btw 1 l.kW 31 && btw 1 l.dW 64 && btw 1 l.sW 32 && decide (l.padL ≤ 2047) && decide (l.padR ≤ 2047)) 0,
    gRange (btw 1 l.inH 65535 && btw 1 l.kH 31 && btw 1 l.dH 64 && btw 1 l.sH 32 && decide (l.padT ≤ 2047) && decide (l.padB ≤ 2047)) 1,
    gRange (btw 1 l.inT 8 && btw 1 l.kT 8 && btw 1 l.sT 8 && decide (l.padF ≤ 7) && decide (l.padK ≤ 7)) 2,
    gRange (l.op == 2 || l.outPadW == 0) 0,
    gRange (l.op == 2 || l.outPadH == 0) 1,
    gRange (l.op != 2 || decide (l.outPadW < l.sW)) 0,
    gRange (l.op != 2 || decide (l.outPadH < l.sH)) 1,
    gRange (btw 1 l.inC 65536 && btw 1 l.outC 65536 && btw 1 l.groups l.inC) 255,
    gRange (decide (l.padMode ≤ 3) && ((!pool && l.op != 2) || l.padMode == 0)) 255,
    gRange (!((l.padMode == 1 || l.padMode == 3) && (l.padF != 0 || l.padK != 0))) 2,
    gRange ((!l.ceil || pool) && (!l.countPad || l.op == 4) && decide (field b 2 2 < 8)) 255,
    gRange (l.pack == 1 || (btw 2 l.pack 128 && (l.op == 1 || l.op == 2))) 255,
    gRange (f32Finite l.padValue && representable inCtrl l.padValue && (l.padMode == 1 || l.padValue == 0)) 255,
    gRange (field b 0x1E 2 == 0 && field b 0x35 3 == 0 && field b 0x3E 2 == 0) 255,
    gRange (!pool || l.outC == l.inC) 255,
    gRange (!pool || l.wTensor == 0) 255]

/-- The fixed values of the regrouped stem (R137). -/
def stemRange (l : Layer) : GeoErr :=
  firstErr [
    gRange (l.kW == 7 && l.sW == 2 && l.padL == 3 && l.padR == 3 && l.dW == 1 && l.inW % 4 == 0) 0,
    gRange (l.kH == 7 && l.sH == 2 && l.padT == 3 && l.padB == 3 && l.dH == 1 && l.inH % 4 == 0) 1,
    gRange (l.inT == 1 && l.kT == 1 && l.sT == 1 && l.padF == 0 && l.padK == 0) 2,
    gRange (l.inC == 3 && btw 1 l.outC 32 && l.padMode == 0 && l.groups == 1 && l.pack == 1) 255]

def Layer.outs (l : Layer) : List (Nat × Int × Nat) :=
  [(0, outSize l.op l.ceil l.inW l.kW l.dW l.sW l.padL l.padR l.outPadW, l.outW),
   (1, outSize l.op l.ceil l.inH l.kH l.dH l.sH l.padT l.padB l.outPadH, l.outH),
   (2, outSize l.op l.ceil l.inT l.kT 1 l.sT l.padF l.padK 0, l.outT)]

/-- R133: pooling padding of at most half the effective kernel, on each side. -/
def poolPad (l : Layer) : GeoErr :=
  let bad (p q k d : Nat) : Bool := decide (effK k d / 2 < max p q)
  if bad l.padL l.padR l.kW l.dW then some (6, 0) else if bad l.padT l.padB l.kH l.dH then some (6, 1) else if bad l.padF l.padK l.kT 1 then some (6, 2) else none

def layerOps (l : Layer) : GeoErr :=
  let pool := l.op == 3 || l.op == 4
  firstErr [
    if pool && l.groups != l.inC then some (4, 255) else none,
    if l.inC % l.groups != 0 || l.outC % l.groups != 0 then some (4, 255) else none,
    if pool then poolPad l else none,
    if decide (1 < l.pack) && decide (128 < l.pack * l.outC) then some (8, 255) else none,
    l.outs.findSome? fun x => if x.2.1 ≤ 0 then some (1, x.1) else none,
    l.outs.findSome? fun x => if x.2.1 != (x.2.2 : Int) then some (2, x.1) else none]

/-- Bytes of a tensor's scale plane, per slice where it is sliced. -/
def Tensor.scaleLen (t : Tensor) : Nat :=
  if isMx t.ctrl then
    let d := if t.space == 2 then t.dim else setAt t.dim t.sliceDim (t.sliceLen + 2 * t.halo)
    ceilDiv (d.getD 0 1) 32 * (d.getD 1 1 * d.getD 2 1 * d.getD 3 1 * d.getD 4 1)
  else 0

def Tensor.spans (t : Tensor) : List (Nat × Nat) := [(t.base, t.length), (t.scaleBase, t.scaleLen)]

/-- The ranges of two tensors do not meet in one on-chip space. -/
def Tensor.apart (t u : Tensor) : Bool := t.space != u.space || t.space == 2 || t.spans.all fun a => u.spans.all fun b => spansApart a b

/-- A tensor on chip lies within the sizes that the image declares (R134). -/
def Tensor.fits (t : Tensor) (sram cbuf : Nat) : Bool :=
  t.space == 2 || t.spans.all fun x => x.2 == 0 || decide (x.1 + x.2 ≤ if t.space == 0 then sram else cbuf)

/-- A map lies whole in SRAM within the declared sizes, and its tensor holds just the map's elements, so that the slices, which cover the
tensor once but for their halos (check 4), cover the map once (R134; the spec fixes no shape of a map's tensor, log 54). -/
def mapResident (t : Tensor) (c w h n sram cbuf : Nat) : Bool :=
  decide (t.space < 2) && c * w * h * n == t.dim.foldl (· * ·) 1 && t.fits sram cbuf

/-- The row-band ring, as its span in each Course-buffer slice, meets no byte of the tensor. -/
def Tensor.offRing (t : Tensor) (ring : Option (Nat × Nat)) : Bool :=
  match ring with
  | some r => t.space != 1 || t.spans.all fun x => x.2 == 0 || spansApart x r
  | none => true

def layerResident (ts : List Tensor) (l : Layer) (first : Bool) (sram cbuf : Nat) (ring : Option (Nat × Nat)) : Bool :=
  match ts[l.inTensor]?, ts[l.outTensor]? with
  | some i, some o =>
    let ws := if l.op == 3 || l.op == 4 then [] else (ts[l.wTensor]?).toList
    (if l.streamed then first && o.offRing ring && ws.all (·.offRing ring) else mapResident i l.inC l.inW l.inH l.inT sram cbuf && i.apart o) &&
      mapResident o l.outC l.outW l.outH l.outT sram cbuf &&
      ws.all (fun w => (l.streamed || w.apart i) && w.apart o && w.fits sram cbuf)
  | _, _ => false

/-- The bands that one row of the layer's output reads (R139). -/
def Layer.bandSet (l : Layer) (bandRows oy : Nat) : List Nat :=
  let rows := ((List.range l.axisH.k).filterMap fun t => l.axisH.read l.padMode oy t).map fun y =>
    if l.op == 5 then (List.range 4).map fun d => (4 * y + d) / bandRows else [y / bandRows]
  rows.flatten.foldl insertNat []

def Layer.bandsAt (l : Layer) (bandRows oy : Nat) : Nat := (l.bandSet bandRows oy).length

def Layer.bandNeed (l : Layer) (bandRows : Nat) : Nat := ((List.range l.axisH.o).map (l.bandsAt bandRows)).foldl max 0

def quoinOk (q : QuoinRec) : Bool :=
  decide (q.mode ≤ 1) && decide (q.form ≤ 2) && decide (q.scoreFn ≤ 1) && btw 1 q.numClasses 256 && btw 1 q.maxOut 1024 && f32Finite q.scoreThr &&
    fge q.iouThr 0 && fle q.iouThr 0x3F800000#32 && btw 1 q.srcW 8192 && btw 1 q.srcH 8192

def visionErr (v : VisionRec) (b : List Byte) (layers : List Layer) (cbuf : Nat) : GeoErr :=
  let band := v.bandRows * runBytes v.inFmt (v.inW * v.inC)
  firstErr [
    gRange (decide (1 ≤ v.inW)) 0,
    gRange (decide (1 ≤ v.inH)) 1,
    gRange (btw 1 v.batch 256 && btw 1 v.inC 4 && (v.ringDepth == 0 || btw 2 v.ringDepth 16) && btw 1 v.bandRows 64 && field b 0xB 1 == 0 && allZero (slice b 0x14 44)) 255,
    if v.ringDepth != 0 && decide (v.ringDepth ≤ ((layers.head?).map (·.bandNeed v.bandRows)).getD 0) then some (5, 255) else none,
    if v.ringDepth != 0 && decide (cbuf < v.ringOffset + v.ringDepth * band) then some (5, 255) else none]

def pow2In (x : Nat) : Bool := (List.range 11).any fun i => x == 64 * 2 ^ i

/-- R149. -/
def serveErr (v : ServeRec) (b : List Byte) : GeoErr :=
  gRange (decide (v.draftMax ≤ 16) && btw 1 v.maxBatch 1024 && btw 2 v.vocab 262144 && pow2In v.kvUnit && btw 1 v.kvStreams 1024 && decide (v.dkvStreams ≤ 1024) &&
    (if v.draftMax == 0 then v.dkvUnit == 0 || pow2In v.dkvUnit else pow2In v.dkvUnit) && btw 16 v.chunk 4096 && v.chunk % 16 == 0 &&
    decide (v.maxBatch + v.chunk ≤ v.stepTokens) && decide (v.stepTokens ≤ 8192) && btw 64 v.maxContext 131072 && allZero (slice b 0x1C 36)) 255

/-- What a geometry check needs beside the record. -/
structure GeoEnv where
  group : Nat
  tensors : List Tensor
  sram : Nat
  cbuf : Nat
  layers : List Layer
  /-- offset and length of the row-band ring in each Course-buffer slice, where the section has one -/
  ring : Option (Nat × Nat)

/-- One record, in section order; `seen` are the OPs before it. -/
def geoErr (e : GeoEnv) (seen : List Nat) (b : List Byte) : GeoErr :=
  let op := field b 0 1
  let n := e.tensors.length
  if btw 1 op 5 then
    let l := parseLayer b
    firstErr [
      gRange (decide (l.inTensor < n) && decide (l.outTensor < n) && (op == 3 || op == 4 || decide (l.wTensor < n))) 255,
      layerRange l b ((e.tensors[l.inTensor]?.map (·.ctrl)).getD 1),
      if op == 5 then stemRange l else none,
      layerOps l,
      if layerResident e.tensors l (!(seen.any fun o => btw 1 o 5)) e.sram e.cbuf e.ring then none else some (5, 255)]
  else if op == 6 then
    if quoinOk (parseQuoin b) then gRange (allZero (slice b 0x28 24)) 255 else some (7, 255)
  else if op == 7 then (if seen.contains 7 || e.group != 5 then some (3, 255) else visionErr (parseVision b) b e.layers e.cbuf)
  else if op == 8 then (if seen.contains 8 || e.group != 7 then some (3, 255) else serveErr (parseServe b) b)
  else some (3, 255)

/-- A failed check of a geometry section: record index, detail, axis. A tensor that no layer names and that leaves its declared space fails
under no record's index (log 126). -/
def geoScan (e : GeoEnv) : List Nat → Nat → List (List Byte) → Option (Nat × Nat × Nat)
  | seen, _, [] =>
    if (e.group == 5 && !seen.contains 7) || (e.group == 7 && !seen.contains 8) then some (0xFFFF, 3, 255)
    else if e.tensors.all (·.fits e.sram e.cbuf) then none
    else some (0xFFFF, 5, 255)
  | seen, i, b :: t =>
    match geoErr e seen b with
    | some (d, a) => some (i, d, a)
    | none => geoScan e (seen ++ [field b 0 1]) (i + 1) t

/-- PACK of each layer with its record index. -/
def packList (b : List Byte) : List (Nat × Nat) :=
  (geoRecs b).zipIdx.filterMap fun r => if btw 1 (field r.1 0 1) 5 then some (r.2, field r.1 0xF 1) else none

/-- The record index of the first layer whose PACK differs, or that one list lacks. -/
def packDiff : List (Nat × Nat) → List (Nat × Nat) → Option Nat
  | [], [] => none
  | [], y :: _ => some y.1
  | x :: _, [] => some x.1
  | x :: xs, y :: ys => if x.2 == y.2 then packDiff xs ys else some y.1

/-- The row-band ring of a section's vision record. -/
def ringOf (b : List Byte) : Option (Nat × Nat) :=
  (geoRecs b).findSome? fun r =>
    if field r 0 1 == 7 then
      let v := parseVision r
      if v.ringDepth == 0 then none else some (v.ringOffset, v.ringDepth * (v.bandRows * runBytes v.inFmt (v.inW * v.inC)))
    else none

def layersOf (b : List Byte) : List Layer := (geoRecs b).filterMap fun r => if btw 1 (field r 0 1) 5 then some (parseLayer r) else none

/-- Check 5 for every size of the mask; a size without a geometry section is checked as an empty one. A Deterministic image has the
same layers' PACK in every section (R138). -/
def check5 (ss : List Section) (mask group sram cbuf : Nat) (det : Bool) : Option (Nat × Nat × Nat) :=
  let geos := ss.filter fun x => x.type == 5
  let one := (maskSizes mask).findSome? fun k =>
    let b := ((List.find? (fun x : Section => selServes x.sizeSel k) geos).map (·.bytes)).getD []
    geoScan ⟨group, tensorsFor ss k, sram, cbuf, layersOf b, ringOf b⟩ [] 0 (geoRecs b)
  match one with
  | some e => some e
  | none =>
    match geos with
    | [] => none
    | g :: t =>
      if !det then none
      else t.findSome? fun x => (packDiff (packList g.bytes) (packList x.bytes)).map fun i => (i, 8, 255)

/-! ## Checks 6 to 8 and the loaded plan -/

/-- Table Partition sizes: CBUF_BYTES and SEMAPHORES within what a size gives (R22). -/
def sizeFits (sram cbuf sems k : Nat) : Bool :=
  decide (sram ≤ 0x300000) && decide (cbuf ≤ if k ≤ 3 then 131072 * 2 ^ k else 1048576) && decide (sems ≤ if k ≤ 3 then 32 * 2 ^ k else 256)

def mkPlan (tenant : Nat) (b : List Byte) (ss : List Section) : Plan :=
  { tenant, header := b.take 128, length := b.length, flags := field b 6 2, sizeMask := field b 8 1, group := field b 9 1, boundaryUs := field b 0xC 4, sramBytes := field b 0x10 4, cbufBytes := field b 0x14 4, semaphores := field b 0x18 2, hbmBytes := field b 0x1C 8, minMason := field b 0x24 4, sections := ss, geo := (ss.filter fun x => x.type == 5).foldl (fun t x => if t.has x.sizeSel then t else t.set x.sizeSel ((geoRecs x.bytes).map parseGeo)) [], imageOff := 0, regionOff := 0 }

/-- How an image fails its checks: the final status, and for check 5 the record index, detail and axis (R136). -/
inductive ImgErr where
  | status (st : Nat)
  | geometry (rec' det axis : Nat)

/-- Checks 1 to 7 of R98 in order, for the active Mason version and the interface in force. -/
def checkImage (masonVersion : Nat) (broup : Bool) (b : List Byte) : Option ImgErr :=
  let f := field b 6 2
  let mask := field b 8 1
  let ss := (secEnts b).map (secOf b)
  if !check1 b then some (.status St.badArg)
  else if slice b 0x40 48 != sha384 (b.drop 0x80) then some (.status St.badArg)
  else if masonVersion < field b 0x24 4 || bitOf f 1 != broup then some (.status St.incompatible)
  else if !check4 ss mask then some (.status St.badArg)
  else
    match check5 ss mask (field b 9 1) (field b 0x10 4) (field b 0x14 4) (bitOf f 0) with
    | some (i, d, a) => some (.geometry i d a)
    | none =>
      if 20000 < field b 0xC 4 then some (.status St.refused)
      else if !(maskSizes mask).all (sizeFits (field b 0x10 4) (field b 0x14 4) (field b 0x18 2)) then some (.status St.noResource)
      else none

/-- Weights sections stand in the plan's region one after another, each at a multiple of 64 bytes (log 32). -/
def weightBytes (ss : List Section) : List Byte :=
  ((ss.filter fun x => x.type == 6).map fun x => padTo (64 * ceilDiv x.bytes.length 64) x.bytes).flatten

/-- Pages of the region that a tensor with SPACE 2 touches, and the Pier it names for page `i` (R96, R108). -/
def Tensor.onPage (t : Tensor) (i : Nat) : Bool :=
  t.space == 2 && t.spans.any fun x => x.2 != 0 && decide (x.1 < (i + 1) * 2 ^ 21) && decide (i * 2 ^ 21 < x.1 + x.2)

/-- Pier of page `i` of a plan's region; none for round-robin. -/
def pagePier (ts : List Tensor) (i : Nat) : Option Nat :=
  match List.find? (fun t : Tensor => t.onPage i && decide (t.pier ≤ 3)) ts with
  | some t => some t.pier
  | none => (List.find? (fun t : Tensor => t.onPage i) ts).map fun t =>
    (i - (if isMx t.ctrl then min t.base t.scaleBase else t.base) / 2 ^ 21) % 4

end Sys2Proof.Machine
end

