-- ==== Sys2Proof/Machine/Space.lean ====
section
/-! DEFINITION. The partition address space (R81), references to KV pages (R150), and the conditions under which the tiles of a
partition run. -/

namespace Sys2Proof.Machine

/-- Where a partition address lies: a physical tile's SRAM, a Course buffer, or a tenant's HBM space. -/
inductive Loc where
  | sram (tile off : Nat)
  | cbuf (course off : Nat)
  | hbm (tenant off : Nat)
  deriving DecidableEq, Repr

/-- KV references stand above the 48-bit addresses in this model (log 29): session slot, stream, byte within the stream. -/
def kvBase : Nat := 2 ^ 48
def kvSlot (a : Nat) : Nat := (a - kvBase) / 2 ^ 45
def kvStream (a : Nat) : Nat := (a - kvBase) / 2 ^ 34 % 2 ^ 11
def kvByte (a : Nat) : Nat := (a - kvBase) % 2 ^ 34

/-- Pages of one main and one draft stream for a session of `m` tokens (R151). -/
def ServeRec.mainPages (q : ServeRec) (m : Nat) : Nat := ceilDiv (m + 17) (65536 / q.kvUnit)
def ServeRec.draftPages (q : ServeRec) (m : Nat) : Nat := if q.dkvUnit == 0 then 0 else ceilDiv (m + 17) (65536 / q.dkvUnit)

/-- A KV reference through the session's page list in the Ledger (R150); none beyond the session's pages. -/
def State.kvResolve (s : State) (p : Part) (a : Nat) : Option (Nat × Loc) := do
  let q ← s.serveOf p
  let j ← p.job
  let st ← j.steps[kvSlot a]?
  let c ← s.ctx? st.ctx
  let m := q.mainPages c.session.maxContext
  let d := q.draftPages c.session.maxContext
  let n := kvStream a
  let k := kvByte a / 65536
  let i ← if n < q.kvStreams then (if k < m then some (n * m + k) else none)
    else if n - q.kvStreams < q.dkvStreams then (if k < d then some (q.kvStreams * m + (n - q.kvStreams) * d + k) else none)
    else none
  let pg ← c.session.pages[i]?
  some (2 ^ 20 + (kvSlot a * 2 ^ 11 + n) * 2 ^ 20 + k, .hbm c.tenant (pg * 65536 + kvByte a % 65536))

/-- R81: the space a partition address lies in, by number, and the place it stands for, as logical Ashlar `l` sees it. -/
def State.resolve (s : State) (p : Part) (l a : Nat) : Option (Nat × Loc) :=
  if kvBase ≤ a then s.kvResolve p a
  else if a < 0x300000 then (s.tileOf p l).map fun t => (0, .sram t a)
  else if a < 0x100000000 then none
  else if a < 0x200000000 then
    let n := (a - 0x100000000) / 0x400000
    let o := (a - 0x100000000) % 0x400000
    if n < p.size && o < 0x300000 then (s.tileOf p n).map fun t => (1 + n, .sram t o) else none
  else if a < 0x100000000000 then
    let k := (a - 0x200000000) / 0x100000
    let o := (a - 0x200000000) % 0x100000
    if p.coursed then (if k < p.nCourses then some (200 + k, .cbuf (p.pier * 4 + p.course + k) o) else none)
    else if k == 0 && o < p.cbufSize then some (200, .cbuf (p.pier * 4 + p.course) (131072 * p.slot + o)) else none
  else
    match s.planOf p with
    | none => none
    | some pl => if a - 0x100000000000 < pl.hbmBytes then some (300, .hbm p.tenant (pl.regionOff + (a - 0x100000000000))) else none

/-- Every byte of `[a, a + n)` lies in one space that exists for the partition. -/
def State.rangeOk (s : State) (p : Part) (l a n : Nat) : Bool :=
  n == 0 ||
    match s.resolve p l a, s.resolve p l (a + n - 1) with
    | some x, some y => x.1 == y.1
    | _, _ => false

def State.readLoc (s : State) : Loc → Byte
  | .sram t o => sramRead (s.tile t).sram o
  | .cbuf c o => sramRead (s.cbuf c) o
  | .hbm t o => s.hbmByte t o

def State.writeLoc (s : State) (b : Byte) : Loc → State
  | .sram t o => s.updTile t fun x => { x with sram := sramWrite x.sram o b }
  | .cbuf c o => s.updCbuf c fun x => sramWrite x o b
  | .hbm t o => s.hbmWrite t o b

def State.readAt (s : State) (p : Part) (l a : Nat) : Byte :=
  match s.resolve p l a with
  | some x => s.readLoc x.2
  | none => 0

def State.readRange (s : State) (p : Part) (l a : Nat) : Nat → List Byte
  | 0 => []
  | n + 1 => s.readAt p l a :: s.readRange p l (a + 1) n

def State.writeAt (s : State) (p : Part) (l a : Nat) (b : Byte) : State :=
  match s.resolve p l a with
  | some x => s.writeLoc b x.2
  | none => s

def State.writeRange (s : State) (p : Part) (l a : Nat) : List Byte → State
  | [] => s
  | b :: t => (s.writeAt p l a b).writeRange p l (a + 1) t

/-- The tiles of the partition run: no Hold and no Quench (R18, R230, R251). A Pier reset lets running jobs reach their boundary point
(R273). -/
def State.tilesRun (s : State) (_p : Part) : Bool := s.up && !s.power.hold && !s.therm.quench

/-- What a Chisel needs to issue: a batch without a plan error, a slot of the partition, tiles that run. -/
def State.chiselAt (s : State) (a : Ash) : Option (Part × Chisel) :=
  match s.part? a.part with
  | none => none
  | some p =>
    match p.job with
    | none => none
    | some j => if j.planErr.isNone && decide (a.slot < p.size) && s.tilesRun p then some (p, p.chisel a.slot) else none

/-- The code section that serves a partition (R95). -/
def State.codeOf (s : State) (p : Part) : List Byte :=
  match s.planOf p with
  | none => []
  | some pl => ((List.find? (fun x : Section => x.type == 1 && (x.sizeSel == p.sizeLog2 || x.sizeSel == 255)) pl.sections).map (·.bytes)).getD []

def State.codeLen (s : State) (p : Part) : Nat := (s.codeOf p).length

/-- Bits [63:60] of the instruction word at a code offset (R83); none outside the code section. -/
def State.codeClass (s : State) (p : Part) (pc : Nat) : Option Nat :=
  if pc + 8 ≤ s.codeLen p then some (field (s.codeOf p) (pc + 7) 1 / 16) else none

/-- An instruction of class `k` issues where the word at the Chisel's pc is of that class, the Chisel is not stalled and has not retired its
boundary marker (R79, R83, R84). A word of class 0xC to 0xF raises PE_ILLEGAL whatever command comes; one of another class, or no word,
is not the command's instruction. -/
def State.issue (s : State) (a : Ash) (k : Nat) (body : Part → Chisel → State) : State :=
  match s.chiselAt a with
  | some (p, c) =>
    if c.stall == .run && !c.bndry then
      match s.codeClass p c.pc with
      | some q => if q == k then body p c else if 12 ≤ q then s.planError a.part a.slot 1 c.pc else s
      | none => s
    else s
  | none => s

/-- The instruction retires: the next one stands 8 bytes on (R83). -/
def State.retire (s : State) (a : Ash) (f : Chisel → Chisel) : State :=
  s.updChisel a.part a.slot fun c => { f c with pc := c.pc + 8 }

/-- A plan error at the Chisel's instruction (R85). -/
def State.perr (s : State) (a : Ash) (c : Chisel) (code : Nat) : State := s.planError a.part a.slot code c.pc

def Chisel.gr (c : Chisel) (i : Nat) : W64 := if i = 0 then 0 else c.g.get 0 i
def Chisel.ar (c : Chisel) (i : Nat) : Nat := c.a.get 0 i

/-- G0 reads as zero and ignores writes (R80). -/
def Chisel.setG (c : Chisel) (i : Nat) (v : W64) : Chisel := if i = 0 then c else { c with g := c.g.set i v }
def Chisel.setA (c : Chisel) (i v : Nat) : Chisel := { c with a := c.a.set i (v % 2 ^ 48) }

end Sys2Proof.Machine
end

