-- ==== Sys2Proof/Machine/Chisel.lean ====
section
/-! DEFINITION. The Chisel's own instructions (R79-R87): scalar, branch, address, semaphores, the conditions of fences, handoffs and
EMIT. A command names the next instruction of a Chisel: its encoding belongs to the plan image (R83). -/

namespace Sys2Proof.Machine

/-! ## SCALAR, BRANCH, ADDR -/

def wordOf (b : Bool) : W64 := if b then 1 else 0

/-- The integer operations of SCALAR; none for an illegal encoding. A shift by 64 or more is not stated (log 12). -/
def scalarVal (op : ScalarOp) (a b : W64) : Option W64 :=
  let w (k : Nat) (v : W64) : W64 := if b.toNat < 64 then v else Config.wideShift k a b
  match op with
  | .add => some (a + b)
  | .sub => some (a - b)
  | .mul => some (a * b)
  | .and => some (a &&& b)
  | .or => some (a ||| b)
  | .xor => some (a ^^^ b)
  | .shl => some (w 0 (a <<< b.toNat))
  | .shr => some (w 1 (a >>> b.toNat))
  | .sar => some (w 2 (a.sshiftRight b.toNat))
  | .eq => some (wordOf (a == b))
  | .lt => some (wordOf (a.slt b))
  | .ltu => some (wordOf (a.ult b))
  | .illegal => none

def execScalar (a : Ash) (op : ScalarOp) (rd rs rt : Nat) (s : State) : Out :=
  .next (s.issue a 0 fun _ c =>
    match scalarVal op (c.gr rs) (c.gr rt) with
    | some v => if rd < 32 && rs < 32 && rt < 32 then s.retire a fun c => c.setG rd v else s.perr a c 1
    | none => s.perr a c 1)

/-- Whether a branch is taken, and the Chisel with a counted branch's counter; none for an illegal encoding. A counted branch
subtracts 1 and is taken while the count is not zero (log 30). -/
def branchTaken (c : Chisel) : BranchOp → Option (Bool × Chisel)
  | .eq rs rt => if rs < 32 && rt < 32 then some (c.gr rs == c.gr rt, c) else none
  | .ne rs rt => if rs < 32 && rt < 32 then some (c.gr rs != c.gr rt, c) else none
  | .lt rs rt => if rs < 32 && rt < 32 then some ((c.gr rs).slt (c.gr rt), c) else none
  | .ge rs rt => if rs < 32 && rt < 32 then some (!(c.gr rs).slt (c.gr rt), c) else none
  | .counted rc => if rc < 32 then some (c.gr rc - 1 != 0, c.setG rc (c.gr rc - 1)) else none
  | .illegal => none

/-- A target outside the code section raises PE_CODE; one that is no instruction word's offset is an illegal encoding (log 30). -/
def execBranch (a : Ash) (op : BranchOp) (target : Nat) (s : State) : Out :=
  .next (s.issue a 1 fun p c =>
    match branchTaken c op with
    | none => s.perr a c 1
    | some (taken, c') =>
      if target % 8 != 0 then s.perr a c 1
      else if s.codeLen p ≤ target then s.perr a c 4
      else s.updChisel a.part a.slot fun _ => { c' with pc := if taken then target else c.pc + 8 })

def addrVal (c : Chisel) : AddrOp → Option Chisel
  | .addG ad as' gs => if ad < 16 && as' < 16 && gs < 32 then some (c.setA ad (c.ar as' + (c.gr gs).toNat)) else none
  | .subG ad as' gs => if ad < 16 && as' < 16 && gs < 32 then some (c.setA ad (c.ar as' + 2 ^ 64 - (c.gr gs).toNat)) else none
  | .toA ad gs => if ad < 16 && gs < 32 then some (c.setA ad (c.gr gs).toNat) else none
  | .toG gd as' => if gd < 32 && as' < 16 then some (c.setG gd (BitVec.ofNat 64 (c.ar as'))) else none
  | .illegal => none

def execAddr (a : Ash) (op : AddrOp) (s : State) : Out :=
  .next (s.issue a 2 fun _ c =>
    match addrVal c op with
    | some c' => s.retire a fun _ => c'
    | none => s.perr a c 1)

/-! ## Semaphores (R82, R86) -/

/-- Adds to a semaphore; a count above 0xFFFF raises PE_SEM. -/
def State.addSem (s : State) (p l k n off : Nat) : State :=
  match s.part? p with
  | none => s
  | some r =>
    if r.semCount ≤ k then s.planError p l 3 off
    else if 0xFFFF < r.sems.get 0 k + n then s.planError p l 3 off
    else s.updPart p fun r => { r with sems := r.sems.set k (r.sems.get 0 k + n) }

/-- Global Course of a semaphore (R82). -/
def Part.semCourse (p : Part) (k : Nat) : Nat := p.pier * 4 + p.course + (if p.coursed then k / 256 else 0)

/-- The destinations of `n` bytes from a partition address on (R86): Courses, and 100 + the HBM stack. -/
def State.spanDests (s : State) (p : Part) (l a n : Nat) : List Nat :=
  match s.resolve p l a with
  | some (_, .sram t _) => [t / 9]
  | some (_, .cbuf c _) => [c]
  | some (_, .hbm t o) => (s.spanStacks t o n).map (100 + ·)
  | none => []

def rowAddr (base : Nat) (stride : Int) (r : Nat) : Nat := ((base : Int) + stride * (r : Int)).toNat

def State.rowsDests (s : State) (p : Part) (l base : Nat) (stride : Int) (n rows : Nat) : List Nat :=
  ((List.range rows).map fun r => s.spanDests p l (rowAddr base stride r) n).flatten.dedup

/-- Every destination that a descriptor writes to. -/
def State.descDests (s : State) (p : Part) (l : Nat) (d : TileDesc) : List Nat := s.rowsDests p l d.dst d.dstStride d.rowBytes d.rows

/-- Descriptors of an Ashlar that have not landed, in dispatch order within each queue. -/
def DmaQueue.all (q : DmaQueue) : List (Nat × TileDesc) := q.landing.toList ++ q.active.toList ++ q.shadow.toList ++ q.fifo
def Chisel.outstanding (c : Chisel) : List (Nat × TileDesc) := c.q0.all ++ c.q1.all

/-- SIG (R82): in Coursed ordering it lands after the Ashlar's earlier writes and SIGs to the semaphore's Course; in Loose ordering it
lands at once or later, a free choice (R86). -/
def execSig (a : Ash) (k n : Nat) (s : State) : Out :=
  .next (s.issue a 7 fun p c =>
    if n == 0 || 255 < n then s.perr a c 1
    else if p.semCount ≤ k then s.perr a c 3
    else
      let before := (c.outstanding.filter fun d => (s.descDests p a.slot d.2).contains (p.semCourse k)).map Prod.fst
      let hold (s : State) : State := s.updChisel a.part a.slot fun c => { c with held := c.held ++ [⟨k, n, if p.coursed then before else []⟩] }
      let s := s.retire a fun c => c
      if p.coursed then (if before.isEmpty then s.addSem a.part a.slot k n c.pc else hold s)
      else
        let (w, s) := s.free
        if w.toNat % 2 == 1 then hold s else s.addSem a.part a.slot k n c.pc)

/-- The SIGs of a Chisel that nothing holds back land, those of one semaphore or of all. -/
def State.landLoose (s : State) (a : Ash) (k : Option Nat) : State :=
  match s.part? a.part with
  | none => s
  | some p =>
    let due (h : HeldSig) : Bool := h.after.isEmpty && (match k with | some n => h.sem == n | none => true)
    ((p.chisel a.slot).held.filter due).foldl (fun s h => s.addSem a.part a.slot h.sem h.n (p.chisel a.slot).pc)
      (s.updChisel a.part a.slot fun c => { c with held := c.held.filter fun h => !due h })

def State.landAll (s : State) (pid k : Nat) : State :=
  match s.part? pid with
  | none => s
  | some p => (List.range p.size).foldl (fun s l => s.landLoose ⟨pid, l⟩ (some k)) s

/-- WAIT (R82): takes n at once where the count suffices and no WAIT came earlier; else stalls, in order of arrival. -/
def execWait (a : Ash) (k n : Nat) (s : State) : Out :=
  .next (s.issue a 7 fun p c =>
    if p.semCount ≤ k then s.perr a c 3
    else if n ≤ p.sems.get 0 k && !(p.waits.any fun w => w.1 == k) then
      (s.retire a fun c => c).updPart a.part fun p => { p with sems := p.sems.set k (p.sems.get 0 k - n) }
    else
      (s.updChisel a.part a.slot fun c => { c with stall := .onSem k n }).updPart a.part fun p =>
        { p with waits := p.waits ++ [(k, a.slot, n)] })

/-- The oldest WAIT on a semaphore is satisfied, subtracts its n and lets its Chisel go on (R82), once the SIGs under way to the semaphore
have landed. -/
def execWaitGrant (part k : Nat) (s : State) : Out :=
  .next (match s.part? part with
    | none => s
    | some p =>
      if s.tilesRun p && (match p.job with | some j => j.planErr.isNone | none => false) then
        let s := s.landAll part k
        match s.part? part with
        | none => s
        | some p =>
          match List.find? (fun w : Nat × Nat × Nat => w.1 == k) p.waits with
          | none => s
          | some (_, l, n) =>
            if n ≤ p.sems.get 0 k then
              (s.updPart part fun p => { p with sems := p.sems.set k (p.sems.get 0 k - n), waits := dropFirst (fun w => w.1 == k) p.waits }).retire
                ⟨part, l⟩ fun c => { c with stall := .run }
            else s
      else s)

def execSemrd (a : Ash) (rd k : Nat) (s : State) : Out :=
  .next (s.issue a 7 fun p c =>
    if 32 ≤ rd then s.perr a c 1
    else if p.semCount ≤ k then s.perr a c 3
    else s.retire a fun c => c.setG rd (BitVec.ofNat 64 (p.sems.get 0 k)))

/-! ## Fences (R87) -/

/-- A place in the Ashlar's own SRAM. -/
def State.ownSram (s : State) (p : Part) (l a : Nat) : Bool :=
  match s.resolve p l a with
  | some (_, .sram t _) => s.tileOf p l == some t
  | _ => false

/-- Fence 0 L, 1 C, 2 P, 3 H holds: every unit has run its queue, and the writes and SIGs have landed. No partition address reaches host
memory, so H adds nothing to P. -/
def State.fenceHolds (s : State) (p : Part) (l f : Nat) (c : Chisel) : Bool :=
  let own := s.tileOf p l |>.map (· / 9)
  let ds := c.outstanding
  c.units.isEmpty && ds.all (fun d => !s.ownSram p l d.2.dst && (d.2.form == 3 || !s.ownSram p l d.2.src)) &&
    (f == 0 || (ds.all (fun d => !(s.descDests p l d.2).any (fun x => some x == own) && (d.2.sem == 0xFFFF || some (p.semCourse d.2.sem) != own)) && c.held.all fun h => some (p.semCourse h.sem) != own)) &&
    (f < 2 || (ds.isEmpty && c.held.isEmpty))

/-! ## HANDOFF, EMIT, BNDRY -/

/-- The Pier whose Quoin serves a Pier: its own, or that of Pier XOR 1 once its own is retired (R264). -/
def State.quoinPier (s : State) (p : Nat) : Nat := if (s.pier p).quoinRetired then p ^^^ 1 else p

def State.leWords (s : State) (p : Part) (l a n : Nat) : List W32 :=
  (List.range n).map fun i => BitVec.ofNat 32 (leNat (s.readRange p l (a + 4 * i) 4))

/-- A session's logits handed to Riddle replace those it had for the same position (R159). -/
def StepSlot.addLogits (x : StepSlot) (draft : Bool) (j : Nat) (ws : List W32) : StepSlot :=
  { x with logits := (x.logits.filter fun q => !(q.1 == draft && q.2.1 == j)) ++ [(draft, j, ws)] }

/-- R140: the span is checked when the handoff is dispatched; while the Pier's queue of 64 is full the handoff waits. -/
def State.handoffQuoin (s : State) (a : Ash) (p : Part) (c : Chisel) (reg count rec' image : Nat) : State :=
  match s.planOf p with
  | none => s
  | some _ =>
    let ok := match (s.geoOf p)[rec']? with | some (.quoin _) => true | _ => false
    if !ok || 16 ≤ reg || (match s.visionOf p with | some v => decide (v.batch ≤ image) | none => true) then s.perr a c 1
    else if !s.rangeOk p a.slot (c.ar reg) (16 * min count 4096) then s.perr a c 2
    else
      let q := s.quoinPier (p.courseOf a.slot / 4)
      if 64 ≤ (s.pier q).quoin.length then s
      else (s.retire a fun c => { c with handoffs := c.handoffs + 1 }).updPier q fun x =>
        { x with quoin := x.quoin ++ [⟨a.part, a.slot, c.ar reg, count, rec', image⟩] }

/-- R159: Riddle takes a position's FP32 logits of one session of the step batch. -/
def State.handoffRiddle (s : State) (a : Ash) (p : Part) (c : Chisel) (n : Nat) (draft : Bool) (j reg : Nat) : State :=
  match s.serveOf p, p.job with
  | some q, some job =>
    if 16 ≤ reg || job.steps.length ≤ n then s.perr a c 1
    else if !s.rangeOk p a.slot (c.ar reg) (4 * q.vocab) then s.perr a c 2
    else
      let ws := s.leWords p a.slot (c.ar reg) q.vocab
      (s.retire a fun c => c).updPart a.part fun p =>
        { p with job := p.job.map fun k => { k with steps := k.steps.zipIdx.map fun x => if x.2 == n then x.1.addLogits draft j ws else x.1 } }
  | _, _ => s.perr a c 1

/-- EMIT stages up to 32 bytes of BODY for an image of the batch (R83, R146). -/
def execEmit (a : Ash) (item : Nat) (bytes : List Byte) (s : State) : Out :=
  .next (s.issue a 10 fun _ c =>
    if 32 < bytes.length then s.perr a c 1
    else (s.retire a fun c => c).updPart a.part fun p =>
      { p with job := p.job.map fun j => { j with outs := j.outs.upd {} item fun o => { o with emitted := bytes } } })

end Sys2Proof.Machine
end

