-- ==== Sys2Proof/Machine/TileDma.lean ====
section
/-! DEFINITION. The tile DMA queues (R112-R116, R121): enqueueing, the shadow set with its checks, and what a descriptor's end does. The
bytes of a descriptor move at its end. -/

namespace Sys2Proof.Machine

def Chisel.queue (c : Chisel) (q : Nat) : DmaQueue := if q = 0 then c.q0 else c.q1
def Chisel.setQueue (c : Chisel) (q : Nat) (x : DmaQueue) : Chisel := if q = 0 then { c with q0 := x } else { c with q1 := x }

/-- A descriptor's tag: dispatch order and the code offset of its instruction. -/
def descTag (order pc : Nat) : Nat := order * 2 ^ 32 + pc

/-- DMA (R83): the queue holds 32 descriptors; while it is full the Chisel waits (R79). -/
def execDma (a : Ash) (q : Nat) (d : TileDesc) (s : State) : Out :=
  .next (s.issue a 6 fun _ c =>
    if 2 ≤ q then s.perr a c 1
    else if 32 ≤ (c.queue q).fifo.length then s
    else s.retire a fun c =>
      { c.setQueue q { c.queue q with fifo := (c.queue q).fifo ++ [(descTag c.nextDesc c.pc, d)] } with nextDesc := c.nextDesc + 1 })

/-- R114, R116: form, reserved bits and counts of a tile descriptor are legal. -/
def descLegal (d : TileDesc) : Bool :=
  d.rsvd == 0 && decide (1 ≤ d.rowBytes) && decide (1 ≤ d.rows) && decide (d.rows ≤ 65536) && decide (d.rowBytes * d.rows ≤ 2 ^ 40) &&
    (if d.form == 0 then d.rows == 1 && decide (d.rowBytes < 2 ^ 32)
     else (d.form == 1 || d.form == 3) && decide (d.rowBytes ≤ 2 ^ 24))

/-- R81, R114: every row lies in the one space of the first. -/
def State.sideOk (s : State) (p : Part) (l base : Nat) (stride : Int) (rows n : Nat) : Bool :=
  (List.range rows).all fun r =>
    decide (0 ≤ (base : Int) + stride * (r : Int)) && s.rangeOk p l (rowAddr base stride r) n &&
      (match s.resolve p l base, s.resolve p l (rowAddr base stride r) with | some x, some y => x.1 == y.1 | _, _ => false)

def State.descOk (s : State) (p : Part) (l : Nat) (d : TileDesc) : Bool :=
  s.sideOk p l d.dst d.dstStride d.rows d.rowBytes && (d.form == 3 || s.sideOk p l d.src d.srcStride d.rows d.rowBytes)

/-- A queue that is idle starts its armed set (R113). -/
def DmaQueue.start (x : DmaQueue) : DmaQueue :=
  match x.active, x.shadow with
  | none, some d => { x with active := some d, shadow := none }
  | _, _ => x

/-- The batch of an Ashlar's partition, whether or not a plan error is draining it. -/
def State.drainAt (s : State) (a : Ash) : Option (Part × Chisel) :=
  match s.part? a.part with
  | none => none
  | some p => if p.job.isSome && decide (a.slot < p.size) && s.tilesRun p then some (p, p.chisel a.slot) else none

/-- R113: an active set that has issued its last request lands while the armed one becomes active and the shadow set is free again. -/
def DmaQueue.turn (x : DmaQueue) : DmaQueue :=
  match x.shadow, x.active, x.landing with
  | some d, some e, none => { x with landing := some e, active := some d, shadow := none }
  | _, _, _ => x

/-- R113: the head descriptor enters the free shadow set and is checked there; a bad one moves no byte. -/
def execTileDmaShadowLoad (a : Ash) (q : Nat) (s : State) : Out :=
  .next (match s.drainAt a with
    | none => s
    | some (p, c) =>
      if 2 ≤ q then s
      else
        let x := (c.queue q).turn
        match x.shadow, x.fifo with
        | none, (t, d) :: rest =>
          if !descLegal d then (s.updChisel a.part a.slot fun c => c.setQueue q { x with fifo := rest }).planError a.part a.slot 1 (t % 2 ^ 32)
          else if !s.descOk p a.slot d then
            (s.updChisel a.part a.slot fun c => c.setQueue q { x with fifo := rest }).planError a.part a.slot 2 (t % 2 ^ 32)
          else s.updChisel a.part a.slot fun c => c.setQueue q { x with fifo := rest, shadow := some (t, d) }.start
        | _, _ => s.updChisel a.part a.slot fun c => c.setQueue q x)

/-- Moves rows `r` to `r + n - 1`, each read whole and then written, in ascending order (R114). -/
def State.moveRows (s : State) (p : Part) (l : Nat) (d : TileDesc) (r : Nat) : Nat → State
  | 0 => s
  | n + 1 =>
    let bs := if d.form == 3 then List.replicate d.rowBytes 0 else s.readRange p l (rowAddr d.src d.srcStride r) d.rowBytes
    (s.writeRange p l (rowAddr d.dst d.dstStride r) bs).moveRows p l d (r + 1) n

/-- HBM stacks that a descriptor touches. -/
def State.descStacks (s : State) (p : Part) (l : Nat) (d : TileDesc) : List Nat :=
  ((s.descDests p l d ++ (if d.form == 3 then [] else s.rowsDests p l d.src d.srcStride d.rowBytes d.rows)).filter (100 ≤ ·)).map (· - 100)

/-- SIGs whose earlier writes have landed, in program order (R86). -/
def State.landSigs (s : State) (a : Ash) (off : Nat) : List HeldSig → State
  | [] => s
  | h :: t => (s.addSem a.part a.slot h.sem h.n off).landSigs a off t

def State.releaseHeld (s : State) (a : Ash) (tag : Nat) : State :=
  match s.part? a.part with
  | none => s
  | some p =>
    let hs := (p.chisel a.slot).held.map fun h => { h with after := removeNat h.after tag }
    let s := s.updChisel a.part a.slot fun c => { c with held := hs.filter fun h => !h.after.isEmpty }
    s.landSigs a (tag % 2 ^ 32) (hs.filter fun h => h.after.isEmpty)

/-- R86: in Coursed ordering no earlier descriptor of the Ashlar to a destination of this one is outstanding, and none of its queue. -/
def State.mayLand (s : State) (p : Part) (l : Nat) (c : Chisel) (t : Nat) (d : TileDesc) : Bool :=
  !p.coursed || c.outstanding.all fun e => decide (t ≤ e.1) || !((s.descDests p l e.2).any (s.descDests p l d).contains)

end Sys2Proof.Machine
end

