-- ==== Sys2Proof/Machine/Bed.lean ====
section
/-! DEFINITION. The Template's operand streams (R124, R127) and the Bed unit (R65-R70, R73-R76, R128): stationary block, groups,
accumulators, readout. A unit's address outside its Ashlar's SRAM, or for a Template port outside that and its Course's buffer, raises
PE_ADDR (log 33). An operation answers its result or a plan-error code (R85). -/

namespace Sys2Proof.Machine

/-! ## Reach of a unit -/

/-- `[a, a + n)` lies in the Ashlar's own SRAM, or with `cb` in the partition's slice of its own Course's buffer. -/
def State.unitOk (s : State) (p : Part) (l : Nat) (cb : Bool) (a n : Nat) : Bool :=
  n == 0 ||
    match s.resolve p l a, s.resolve p l (a + n - 1) with
    | some (i, .sram t _), some (j, _) => i == j && s.tileOf p l == some t
    | some (i, .cbuf c _), some (j, _) => cb && i == j && c == p.courseOf l
    | _, _ => false

def State.unitRead (s : State) (p : Part) (l : Nat) (cb : Bool) (a n : Nat) : Except Nat (List Byte) :=
  if s.unitOk p l cb a n then .ok (s.readRange p l a n) else .error 2

def need (b : Bool) : Except Nat PUnit := if b then .ok ⟨⟩ else .error 1

/-! ## Template ports -/

/-- Storage unit of a format: bytes and elements. -/
def unitOf (c : Nat) : Nat × Nat :=
  if isA4 c then (34, 64) else if elemBits c == 6 then (3, 4) else if elemBits c == 4 then (1, 2) else (elemBits c / 8, 1)

/-- Number of addresses of a nest, and its `u`-th address relative to the base; the first loop is the outermost. -/
def nestCount : List Loop → Nat
  | [] => 1
  | x :: t => x.count * nestCount t

def nestOff : List Loop → Nat → Int
  | [], _ => 0
  | x :: t, u => x.stride * (u / nestCount t : Nat) + nestOff t (u % nestCount t)

def Chisel.prog (c : Chisel) (p : Nat) : TemplateProg := (c.ports.get {} p).prog

/-- The bytes of `n` units from unit `u` of a nest. -/
def State.nestRead (s : State) (p : Part) (l : Nat) (base : Nat) (loops : List Loop) (size u : Nat) : Nat → Except Nat (List Byte)
  | 0 => .ok []
  | n + 1 => do
    let a := (base : Int) + nestOff loops u
    if a < 0 then .error 2
    let h ← s.unitRead p l true a.toNat size
    let t ← s.nestRead p l base loops size (u + 1) n
    .ok (h ++ t)

/-- The layer a port's program walks. -/
def State.portLayer (s : State) (p : Part) (c : Chisel) (port : Nat) : Except Nat (Layer × Option (Nat × Nat × Nat)) :=
  match c.prog port with
  | .window n band =>
    match (s.geoOf p)[n]? with
    | some (.layer l) => .ok (l, band)
    | _ => .error 1
  | _ => .error 1

/-- The run of the input map that holds (t, y, x, ch): its bytes, its scales and the element's place, from the layer's tensor or from a
band of packed rows. -/
def State.mapRun (s : State) (p : Part) (c : Chisel) (slot : Nat) (l : Layer) (band : Option (Nat × Nat × Nat)) (t y x ch : Nat) :
    Except Nat (Nat × List Byte × List Byte × Nat) := do
  let some ten := (s.planOf p).bind fun pl => pl.tensor p.sizeLog2 l.inTensor | .error 1
  match band with
  | some (r, row0, r2) =>
    let row := t * l.inH + y
    let n := runBytes ten.ctrl (l.inW * l.inC)
    let m := ceilDiv (l.inW * l.inC) 32
    if row < row0 then .error 2
    let bs ← s.unitRead p slot true (c.ar r + (row - row0) * n) n
    let sc ← if isMx ten.ctrl then s.unitRead p slot true (c.ar r2 + (row - row0) * m) m else .ok []
    .ok (ten.ctrl, bs, sc, x * l.inC + ch)
  | none =>
    if ten.space == 2 then .error 2
    let k := if ten.space == 0 then slot else if p.coursed then slot / 8 else 0
    let some (ro, so, n, i) := ten.place k [ch, x, y, t, 0] | .error 2
    let org := if ten.space == 0 then 0 else 0x200000000 + k * 0x100000
    let bs ← s.unitRead p slot true (org + ten.base + ro) (runBytes ten.ctrl n)
    let sc ← if isMx ten.ctrl then s.unitRead p slot true (org + ten.scaleBase + so) (ceilDiv n 32) else .ok []
    .ok (ten.ctrl, bs, sc, i)

/-- The value of a window element; none for a structural zero (R124, R127). -/
def State.elemValue (s : State) (p : Part) (c : Chisel) (slot : Nat) (l : Layer) (band : Option (Nat × Nat × Nat)) : Elem → Except Nat (Option Val)
  | .zero => .ok none
  | .pad => .ok (some (f32Val l.padValue))
  | .at t y x ch => do
    let (f, bs, sc, i) ← s.mapRun p c slot l band t y x ch
    .ok (some (elemVal f bs sc i))

/-! ## Operands -/

/-- Packed bytes and scales of `k` elements as run `j` of a source that is no window. -/
def State.srcRun (s : State) (p : Part) (c : Chisel) (slot ctrl : Nat) (src : BedSrc) (k j : Nat) : Except Nat (List Byte × List Byte) := do
  match src with
  | .sram a sc =>
    need (a < 16 && sc < 16)
    let bs ← s.unitRead p slot false (c.ar a + j * runBytes ctrl k) (runBytes ctrl k)
    let ss ← if isMx ctrl then s.unitRead p slot false (c.ar sc + j * ceilDiv k 32) (ceilDiv k 32) else .ok []
    .ok (bs, ss)
  | .nest port sc skip =>
    need (port < 3 && sc < 16)
    match c.prog port with
    | .nest base loops =>
      let (size, per) := unitOf ctrl
      let n := ceilDiv k per
      need (decide (skip + (j + 1) * n ≤ nestCount loops))
      let bs ← s.nestRead p slot (c.ar base) loops size (skip + j * n) n
      let ss ← if isMx ctrl then s.unitRead p slot true (c.ar sc + j * ceilDiv k 32) (ceilDiv k 32) else .ok []
      .ok (bs, ss)
    | _ => .error 1
  | .window _ _ _ _ _ _ _ _ => .error 1

def State.srcRuns (s : State) (p : Part) (c : Chisel) (slot ctrl : Nat) (src : BedSrc) (k : Nat) : Nat → Nat → Except Nat (List Byte × List Byte)
  | 0, _ => .ok ([], [])
  | n + 1, j => do
    let (b, x) ← s.srcRun p c slot ctrl src k j
    let (bs, xs) ← s.srcRuns p c slot ctrl src k n (j + 1)
    .ok (b ++ bs, x ++ xs)

/-- The moving operand as column `col` of the block sees it: each of the `k` values with the group it falls in; a structural zero has
no value (R124, R131, R138). -/
def State.moving (s : State) (p : Part) (c : Chisel) (slot ctrl : Nat) (src : BedSrc) (k glen col : Nat) : Except Nat (List (Option Val × Nat × Nat)) := do
  match src with
  | .window port ot oy ox g ng r0 c0 =>
    need (port < 3)
    let (l, band) ← s.portLayer p c port
    need (convOp l.op && l.redLen != 0 && decide (l.icg ≠ 0))
    (List.range k).mapM fun j => do
      let pg := g + (r0 + j) / l.redLen
      let r := if ng ≤ 1 then r0 + j else (r0 + j) % l.redLen
      let pg := if ng ≤ 1 then g else pg
      let v ← if decide (g + max 1 ng ≤ pg) then .ok none else s.elemValue p c slot l band (l.elem ot oy ox pg r (c0 + col))
      .ok (v, pg, r / glen)
  | src => do
    let (bs, ss) ← s.srcRun p c slot ctrl src k 0
    .ok ((List.range k).map fun j => (some (elemVal ctrl bs ss j), 0, j / glen))

/-! ## Groups of one column (R66, R124) -/

/-- The products of each group in order; a short group is padded with a zero product, and a group without a product is left out. -/
def groupsOf (glen : Nat) : Nat → List (Option Val × Val × Nat × Nat) → List (List (Val × Val))
  | 0, _ => []
  | _, [] => []
  | n + 1, x :: t =>
    let same := (x :: t).filter fun y => y.2.2 == x.2.2
    let rest := (x :: t).filter fun y => y.2.2 != x.2.2
    let ps := same.filterMap fun y => y.1.map fun v => (v, y.2.1)
    let ps := if same.length < glen && !ps.isEmpty then ps ++ [(.fin false 0 0, .fin false 0 0)] else ps
    if ps.isEmpty then groupsOf glen n rest else ps :: groupsOf glen n rest

/-- Adds the groups to one accumulator; counts range events. -/
def addGroups (broup sat : Bool) (cm cs : Nat) : W32 → Nat → List (List (Val × Val)) → W32 × Nat
  | a, n, [] => (a, n)
  | a, n, g :: t =>
    let (a', e) := accGroup broup sat cm cs a g
    addGroups broup sat cm cs a' (n + boolN e) t

def accIndex (col entry : Nat) : Nat := col * 64 + entry
def Chisel.accAt (c : Chisel) (col entry : Nat) : W32 := c.acc.get 0 (accIndex col entry)
def Chisel.setAcc (c : Chisel) (col entry : Nat) (v : W32) : Chisel := { c with acc := c.acc.set (accIndex col entry) v }

/-- Counts accumulator events under the counter of the kind (R78). -/
def accEvents (int sat : Bool) (n : Nat) (k : PartCounters) : PartCounters :=
  if !int then { k with accNonfinite := sat32 k.accNonfinite n }
  else if sat then { k with accSat := sat32 k.accSat n }
  else { k with accWrap := sat32 k.accWrap n }

/-- Counts conversion events (R78). -/
def numEvents (e : NumEv) (k : PartCounters) : PartCounters :=
  { k with convSat := sat32 k.convSat e.sat, convNonfinite := sat32 k.convNonfinite e.nonfinite, nanFlush := sat32 k.nanFlush e.nanFlush, underflow := sat32 k.underflow e.underflow }

/-- Streams one moving vector over every column (R66-R69): accumulators after, events counted. -/
def State.streamCols (s : State) (p : Part) (slot : Nat) (broup sat : Bool) (cm : Nat) (src : BedSrc) (entry : Nat)
    (st : Nat × Nat × Nat × List Byte × List Byte) : Nat → Chisel → Nat → Except Nat (Chisel × Nat)
  | 0, c, n => .ok (c, n)
  | m + 1, c, n => do
    let (cs, k, cols, bs, ss) := st
    let col := cols - (m + 1)
    let glen := groupLen broup cm cs
    let mv ← s.moving p c slot cm src k glen col
    let w := slice bs (col * runBytes cs k) (runBytes cs k)
    let sc := slice ss (col * ceilDiv k 32) (ceilDiv k 32)
    let ps := mv.zipIdx.map fun x => (x.1.1, elemVal cs w sc x.2, x.1.2)
    let (a, e) := addGroups broup sat cm cs (c.accAt col entry) 0 (groupsOf glen k ps)
    s.streamCols p slot broup sat cm src entry st m (c.setAcc col entry a) (n + e)

/-! ## Constant-padding correction (R128) -/

/-- A weight: DIM[0] runs along the reduction index, DIM[1] along the output channel (log 32). -/
def weightAt (ws : List Byte) (t : Tensor) (r oc : Nat) : Val :=
  let b := slice ws (t.base + oc * t.rowPitch) (runBytes t.ctrl (t.dim.getD 0 1))
  let x := slice ws (t.scaleBase + oc * ceilDiv (t.dim.getD 0 1) 32) (ceilDiv (t.dim.getD 0 1) 32)
  elemVal t.ctrl b x r

/-- PAD_VALUE × the sum of the weights of every outside tap, exact. -/
def corrSum (ws : List Byte) (t : Tensor) (l : Layer) (oc : Nat) : Val :=
  let taps := (List.range (l.axisT.k * l.axisH.k * l.axisW.k)).filter fun q =>
    l.axisT.outside (q / l.axisW.k / l.axisH.k) || l.axisH.outside (q / l.axisW.k % l.axisH.k) || l.axisW.outside (q % l.axisW.k)
  let vs := (taps.map fun q => (List.range l.icg).map fun ic => weightAt ws t (q * l.icg + ic) oc).flatten
  valMul (f32Val l.padValue) (vs.foldl valAdd (.fin false 0 0))

/-- The bytes a weight tensor's offsets count in: the plan's weights, or the Ashlar's SRAM or its Course buffer's slice. -/
def State.weightSpace (s : State) (p : Part) (slot : Nat) (pl : Plan) (t : Tensor) : List Byte :=
  if t.space == 2 then weightBytes pl.sections
  else
    let k := if p.coursed then slot / 8 else 0
    s.readRange p slot (if t.space == 0 then 0 else 0x200000000 + k * 0x100000) (max (t.base + t.length) (t.scaleBase + t.length))

/-- The correction as an accumulator word: rounded once, or under INT_ACC. With packing column p × OUT_C + oc is channel oc (R138). -/
def State.correction (s : State) (p : Part) (slot : Nat) (int sat : Bool) (layer col : Nat) : Option W32 :=
  match (s.geoOf p)[layer]?, s.planOf p with
  | some (.layer l), some pl =>
    match pl.tensor p.sizeLog2 l.wTensor with
    | some t =>
      let v := corrSum (s.weightSpace p slot pl t) t l (if 1 < l.pack then col % l.outC else col)
      some (if int then (accAddI sat 0 (dyInt (valDy v))).1 else f32Of v)
    | none => none
  | _, _ => none

/-- One addition to an accumulator, as a partial sum or a bias. -/
def accPlus (int sat : Bool) (a b : W32) : W32 × Bool :=
  if int then accAddI sat a b.toInt
  else
    let r := accAddF a (f32Val b)
    (r, match f32Val r, f32Val a with | .fin _ _ _, _ => false | _, .fin _ _ _ => true | _, _ => false)

/-- Sets (`add` false) or increases the accumulators of an entry from FP32 or INT32 words in SRAM, then adds the corrections; no words leave
them, or set them to +0. -/
def State.accWords (s : State) (p : Part) (slot : Nat) (int sat add : Bool) (entry cols : Nat) (ws : List Byte) (corr : Option (Nat × Nat)) :
    Nat → Chisel → Nat → Except Nat (Chisel × Nat)
  | 0, c, n => .ok (c, n)
  | m + 1, c, n => do
    let col := cols - (m + 1)
    let w := word32 ws (4 * col)
    let (a, e) := if add then (if ws.isEmpty then (c.accAt col entry, false) else accPlus int sat (c.accAt col entry) w) else (w, false)
    let (a, e2) ← match corr with
      | none => .ok (a, false)
      | some (layer, oc0) =>
        match s.correction p slot int sat layer (oc0 + col) with
        | some k => .ok (accPlus int sat a k)
        | none => .error 1
    s.accWords p slot int sat add entry cols ws corr m (c.setAcc col entry a) (n + boolN e + boolN e2)

/-- A level of the Deterministic tree over INT32 or FP32 words, and how many of its additions left the range (R67, R69, R78). -/
def treeLevel (int sat : Bool) : List W32 → List W32 × Nat
  | a :: b :: t =>
    let (r, e) := accPlus int sat a b
    let (rs, n) := treeLevel int sat t
    (r :: rs, n + boolN e)
  | l => (l, 0)

def treeEvents (int sat : Bool) : Nat → List W32 → Nat
  | 0, _ => 0
  | n + 1, l => if l.length ≤ 1 then 0 else (treeLevel int sat l).2 + treeEvents int sat n (treeLevel int sat l).1

/-- Sets each column's accumulator of an entry to its chunk results combined by the pairwise tree on chunk index (R70). -/
def treeCols (int sat : Bool) (entry cols k : Nat) (ws : List W32) (c : Chisel) : Chisel × Nat :=
  (List.range cols).foldl (fun x col =>
    (x.1.setAcc col entry (chunkTree (fun a b => (accPlus int sat a b).1) cols k ws col),
     x.2 + treeEvents int sat 32 ((List.range k).map fun i => ws.getD (i * cols + col) 0))) (c, 0)

/-! ## Readout (R73-R76) -/

def accVal (int : Bool) (w : W32) : Val := if int then dyVal ⟨w.toInt, 0⟩ false else f32Val w

/-- Writes bytes to the Ashlar's own SRAM. -/
def State.unitWrite (s : State) (p : Part) (slot a : Nat) (bs : List Byte) : Except Nat State :=
  if s.unitOk p slot false a bs.length then .ok (s.writeRange p slot a bs) else .error 2

def State.writeRun (s : State) (p : Part) (slot dst sc : Nat) (r : List Byte × List Byte × NumEv) : Except Nat State := do
  let s ← s.unitWrite p slot dst r.1
  s.unitWrite p slot sc r.2.1

def intWords (ctrl : Nat) (qs : List (Nat × NumEv)) : List Byte × List Byte × NumEv :=
  (packWords (elemBits ctrl) (qs.map Prod.fst), [], qs.foldl (fun a q => a.add q.2) {})

/-- A Bed operation: the state with what it stored, the Chisel, and the counters' change; or a plan-error code. In Deterministic mode
(FLAGS[0]) an accumulator's start value is +0, and the bias and the padding correction are added after the tree (R70; log 120). -/
def State.bedOp (s : State) (p : Part) (slot : Nat) (c : Chisel) (op : BedOp) : Except Nat (State × Chisel × (PartCounters → PartCounters)) := do
  let sat := match s.planOf p with | some pl => bitOf pl.flags 2 | none => false
  let det := match s.planOf p with | some pl => bitOf pl.flags 0 | none => false
  match op with
  | .load ctrl src k cols =>
    need (ctrlOk ctrl && btw 1 k 128 && btw 1 cols 128)
    let (bs, ss) ← s.srcRuns p c slot ctrl src k cols 0
    .ok (s, { c with stat := some (ctrl, k, cols, bs, ss) }, id)
  | .start int entry cols a corr =>
    need (decide (entry < 64) && btw 1 cols 128 && decide (a < 16))
    let ws ← s.unitRead p slot false (c.ar a) (4 * cols)
    let (c, n) ← s.accWords p slot int sat false entry cols (if det then [] else ws) (if det then none else corr) cols c 0
    .ok (s, c, accEvents int sat n)
  | .stream ctrl src entry =>
    need (ctrlOk ctrl && decide (entry < 64))
    match c.stat with
    | none => .error 1
    | some st =>
      let (c, n) ← s.streamCols p slot s.broup sat ctrl src entry st st.2.2.1 c 0
      .ok (s, c, accEvents (accIsInt ctrl st.1) sat n)
  | .combine int entry cols a corr =>
    need (decide (entry < 64) && btw 1 cols 128 && decide (a < 16))
    let ws ← s.unitRead p slot false (c.ar a) (4 * cols)
    let (c, n) ← s.accWords p slot int sat true entry cols ws corr cols c 0
    .ok (s, c, accEvents int sat n)
  | .tree int entry cols a k bias corr =>
    need (decide (entry < 64) && btw 1 cols 128 && decide (a < 16) && btw 1 k 65536 && decide (bias.getD 0 < 16))
    let ws ← s.unitRead p slot false (c.ar a) (4 * cols * k)
    let (c1, n1) := treeCols int sat entry cols k ((List.range (cols * k)).map fun i => word32 ws (4 * i)) c
    let bs ← match bias with | some b => s.unitRead p slot false (c.ar b) (4 * cols) | none => .ok []
    let (c2, n2) ← s.accWords p slot int sat true entry cols bs corr cols c1 0
    .ok (s, c2, accEvents int sat (n1 + n2))
  | .readout int entry cols ctrl a sc =>
    need ((ctrlOk ctrl || ctrl == 0) && decide (entry < 64) && btw 1 cols 128 && decide (a < 16) && decide (sc < 16))
    let xs := (List.range cols).map fun j => c.accAt j entry
    if ctrl == 0 then
      let s ← s.unitWrite p slot (c.ar a) (xs.map fun w => leBytes 4 w.toNat).flatten
      .ok (s, c, id)
    else
      let r := convRun ctrl (xs.map (accVal int))
      let s ← s.writeRun p slot (c.ar a) (c.ar sc) r
      .ok (s, c, numEvents r.2.2)
  | .requant entry cols ctrl mult zp a =>
    need (ctrlOk ctrl && isIntFmt ctrl && decide (entry < 64) && btw 1 cols 128 && decide (a < 16))
    let r := intWords ctrl ((List.range cols).map fun j => requantize s.broup ctrl (c.accAt j entry) mult zp)
    let s ← s.unitWrite p slot (c.ar a) r.1
    .ok (s, c, numEvents r.2.2)
  | .illegal => .error 1

end Sys2Proof.Machine
end

