-- ==== Sys2Proof/Machine/Fun.lean ====
section
/-! DEFINITION. The functions that the Dressing, Quoin and Riddle units evaluate (R71, R141, R159): each exact value is computed to
about 300 bits in fixed point, with a last bit that marks it as inexact, so that one rounding of it is correct. Where the
spec only bounds a result in ulp, the result is a free value among those within the bound (log 13). -/

namespace Sys2Proof.Machine

/-- Fraction bits of the fixed-point numbers. -/
def fxP : Nat := 320

/-- ln 2, 2 / sqrt π and 1 / sqrt 2, times 2^320. -/
def fxLn2 : Int := 1480553391661173448385607439722553250922680800745876974795605978609098082859138712941075737848984
def fxErfC : Int := 2410203272519249216264429303418431786590919952803993071303316359311055940753903742343790935809570
def fxRt : Int := 1510370917626229192656131765650051598258818640063025169853477724877920162725057355477940086284995

def fxMul (a b : Int) : Int := a * b / 2 ^ fxP
def fxDiv (a b : Int) : Int := a * 2 ^ fxP / b
def fxOne : Int := 2 ^ fxP

/-- A finite value in fixed point (toward minus infinity below 2^-320). -/
def fxOf : Val → Int
  | .fin neg m e =>
    let v : Int := if 0 ≤ e + fxP then m * 2 ^ (e + fxP).toNat else (m / 2 ^ (-(e + fxP)).toNat : Nat)
    if neg then -v else v
  | _ => 0

/-- A positive fixed-point result times 2^k, marked inexact. -/
def fxVal (neg : Bool) (n : Nat) (k : Int := 0) : Val := .fin neg (2 * n + 1) (k - fxP - 1)

/-- Sum of x^i / i! from term `t` on. -/
def expTerms (x : Int) : Nat → Nat → Int → Int
  | 0, _, _ => 0
  | f + 1, i, t => t + expTerms x f (i + 1) (fxMul t x / (i : Int))

/-- e^x as mantissa and power of two: x = k ln 2 + r with 0 ≤ r < ln 2. -/
def expFx (x : Int) : Nat × Int :=
  let k := x / fxLn2
  ((expTerms (x - k * fxLn2) 90 1 fxOne).toNat, k)

def expVal (x : Int) : Val := let (n, k) := expFx x; fxVal false n k

/-- e^x in fixed point, for x not above about 100. -/
def expFix (x : Int) : Int := let (n, k) := expFx x; if 0 ≤ k then n * 2 ^ k.toNat else (n / 2 ^ (-k).toNat : Nat)

/-- Sum of y^(2i+1) / (2i+1). -/
def atanhTerms (y2 : Int) : Nat → Nat → Int → Int
  | 0, _, _ => 0
  | f + 1, i, t => t / (2 * i + 1 : Nat) + atanhTerms y2 f (i + 1) (fxMul t y2)

/-- ln of m × 2^e, m > 0. -/
def lnFx (m : Nat) (e : Int) : Int :=
  let l := Nat.log2 m
  let z : Int := m * 2 ^ (fxP - l)
  let y := fxDiv (z - fxOne) (z + fxOne)
  2 * atanhTerms (fxMul y y) 110 0 y + (e + l) * fxLn2

/-- Sum of (2x²)^n x / (1·3···(2n+1)). -/
def erfTerms (x2 : Int) : Nat → Nat → Int → Int
  | 0, _, _ => 0
  | f + 1, n, t => t + erfTerms x2 f (n + 1) (fxMul t x2 / (2 * n + 3 : Nat))

/-- erf x for 0 ≤ x ≤ 15. -/
def erfFx (x : Int) : Int :=
  let x2 := fxMul x x
  fxMul fxErfC (fxMul (expFix (-x2)) (erfTerms (2 * x2) 700 0 x))

/-! ## Results within a bound of ulp -/

/-- An FP32 word as a signed count of ulp steps from zero, and back. -/
def ordOf (w : W32) : Int := if w.getLsbD 31 then -((w.toNat - 2 ^ 31 : Nat) : Int) else w.toNat
def ofOrd (neg0 : Bool) (i : Int) : W32 :=
  if i < 0 then BitVec.ofNat 32 (2 ^ 31 + i.natAbs) else if i = 0 && neg0 then 0x80000000#32 else BitVec.ofNat 32 i.toNat

/-- |d| as a dyadic comparison: |a - b| ≤ n ulp of b, ulp that of FP32 at b. -/
def withinUlp (n : Nat) (a b : Val) : Bool :=
  match a, b with
  | .fin _ _ _, .fin nb mb eb =>
    let d := dyAdd (valDy a) (valDy (.fin (!nb) mb eb))
    let u : Int := max (floorLog2 mb eb - 23) (-149)
    let k := min d.e u
    decide (d.m.natAbs * 2 ^ (d.e - k).toNat ≤ n * 2 ^ (u - k).toNat)
  | _, _ => a == b

/-- A free value within `n` ulp of the exact value; exact zeros and non-finite values are as they are (log 13). -/
def bounded (fn n : Nat) (x : W32) (exact : Val) : W32 :=
  let r := f32Of exact
  match exact with
  | .fin neg m _ =>
    if m == 0 then r
    else
      let cands := ((List.range (2 * n + 1)).map fun (i : Nat) => ofOrd neg (ordOf r + (i : Int) - n)).filter fun w => withinUlp n (f32Val w) exact
      cands.getD (Config.ulpStep fn x % cands.length) r
  | _ => r

/-- Exact values by function; `none` where a special case fixes the result. -/
def recipVal (v : Val) : Val := valDiv (.fin false 1 0) v

/-- rsqrt(+0) is +infinity; `dressFn` gives rsqrt(-0). -/
def rsqrtVal : Val → Val
  | .fin neg m e => if m == 0 then .inf false else if neg then .nan else valDiv (.fin false 1 0) (valSqrt (.fin neg m e))
  | .inf neg => if neg then .nan else .fin false 0 0
  | .nan => .nan

/-- e^v: 1 at zero, +infinity above 88.7228, 0 far below every subnormal. -/
def expOf : Val → Val
  | .nan => .nan
  | .inf neg => if neg then .fin false 0 0 else .inf false
  | .fin neg m e =>
    if m == 0 then .fin false 1 0
    else if neg && magGt m e 200 0 then .fin false 1 (-400)
    else if !neg && magGt m e 90 0 then .inf false
    else expVal (fxOf (.fin neg m e))

def exp2Of : Val → Val
  | .nan => .nan
  | .inf neg => if neg then .fin false 0 0 else .inf false
  | .fin neg m e =>
    if m == 0 then .fin false 1 0
    else if magGt m e 400 0 then (if neg then .fin false 1 (-400) else .inf false)
    else
      let x := fxOf (.fin neg m e)
      if x % fxOne = 0 then .fin false 1 (x / fxOne) else expVal (fxMul x fxLn2)

def lnOf : Val → Val
  | .nan => .nan
  | .inf neg => if neg then .nan else .inf false
  | .fin neg m e =>
    if m == 0 then .inf true
    else if neg then .nan
    else
      let x := lnFx m e
      if m == 2 ^ Nat.log2 m && e + Nat.log2 m == 0 then .fin false 0 0 else fxVal (decide (x < 0)) x.natAbs

def log2Of : Val → Val
  | .fin neg m e =>
    if m == 0 then .inf true
    else if neg then .nan
    else if m == 2 ^ Nat.log2 m then dyVal ⟨e + Nat.log2 m, 0⟩ false
    else let x := fxDiv (lnFx m e) fxLn2; fxVal (decide (x < 0)) x.natAbs
  | v => lnOf v

def oneVal (neg : Bool) : Val := .fin neg 1 0

/-- tanh: ±1 exactly beyond ±9.0. -/
def tanhOf : Val → Val
  | .nan => .nan
  | .inf neg => oneVal neg
  | .fin neg m e =>
    if m == 0 then .fin neg 0 0
    else if magGt m e 9 0 then oneVal neg
    else
      let a := expFix (2 * fxOf (.fin false m e))
      fxVal neg (fxDiv (a - fxOne) (a + fxOne)).toNat

/-- sigmoid: 0 and 1 exactly beyond ±104.0. -/
def sigmoidOf : Val → Val
  | .nan => .nan
  | .inf neg => if neg then .fin false 0 0 else oneVal false
  | .fin neg m e =>
    if m == 0 then .fin false 1 (-1)
    else if magGt m e 104 0 then (if neg then .fin false 0 0 else oneVal false)
    else fxVal false (fxDiv fxOne (fxOne + expFix (-(fxOf (.fin neg m e))))).toNat

/-- erf; above 12 it differs from 1 by less than 2^-200, which marks it inexact. -/
def erfOf : Val → Val
  | .nan => .nan
  | .inf neg => oneVal neg
  | .fin neg m e =>
    if m == 0 then .fin neg 0 0
    else if magGt m e 12 0 then .fin neg (2 ^ 200 - 1) (-200)
    else fxVal neg (erfFx (fxOf (.fin false m e))).toNat

/-- GELU: x above 10.0 and -0 below -10.0; else x Φ(x). -/
def geluOf : Val → Val
  | .nan => .nan
  | .inf neg => if neg then .fin true 0 0 else .inf false
  | .fin neg m e =>
    if m == 0 then .fin neg 0 0
    else if magGt m e 10 0 then (if neg then .fin true 0 0 else .fin false m e)
    else
      let r := erfFx (fxMul (fxOf (.fin false m e)) fxRt)
      let phi := (if neg then fxOne - r else fxOne + r) / 2
      valMul (.fin neg m e) (fxVal false phi.toNat)

/-- x / (1 + e^-x), without the saturation of sigmoid; `dressFn` gives SiLU(-infinity). -/
def siluOf : Val → Val
  | .nan => .nan
  | .inf neg => if neg then .nan else .inf false
  | .fin neg m e =>
    if m == 0 then .fin neg 0 0
    else if magGt m e 200 0 then (if neg then .fin true 1 (-280) else .fin false m e)
    else valMul (.fin neg m e) (fxVal false (fxDiv fxOne (fxOne + expFix (-(fxOf (.fin neg m e))))).toNat)

/-! ## FP32 results -/

/-- exp of a Dressing or Riddle operation: within 2 ulp, +infinity above 88.7228, exp(±0) = 1 (R71, R159). -/
def fexp (x : W32) : W32 :=
  match f32Val x with
  | .fin _ m _ => if m == 0 then 0x3F800000#32 else if valLt (.fin false 887228 0) (valMul (f32Val x) (.fin false 10000 0)) then 0x7F800000#32 else bounded 1 2 x (expOf (f32Val x))
  | v => f32Of (expOf v)

/-- exp and sigmoid of Quoin: correctly rounded (R141). -/
def qexp (x : W32) : W32 := f32Of (expOf (f32Val x))
def qsigmoid (x : W32) : W32 := f32Of (sigmoidOf (f32Val x))

/-- A Dressing element function of one, two or three operands (R71). A compare yields 1.0 or +0; rsqrt(-0) and SiLU(-infinity) are not
stated and are free values (log 115). -/
def dressFn (f : DressFn) (a b c : W32) : W32 :=
  let v := f32Val a
  match f with
  | .add => fadd a b
  | .mul => fmul a b
  | .fma => ffma a b c
  | .min => fmin a b
  | .max => fmax a b
  | .cmpLt => if flt a b then 0x3F800000#32 else 0
  | .cmpLe => if fle a b then 0x3F800000#32 else 0
  | .cmpEq => if fle a b && fle b a then 0x3F800000#32 else 0
  | .sqrt => fsqrt a
  | .recip => bounded 2 1 a (recipVal v)
  | .rsqrt => if a == 0x80000000#32 then BitVec.ofNat 32 (Config.unstated 17 []) else bounded 3 2 a (rsqrtVal v)
  | .exp => fexp a
  | .exp2 => bounded 4 2 a (exp2Of v)
  | .log => bounded 5 2 a (lnOf v)
  | .log2 => bounded 6 2 a (log2Of v)
  | .tanh => if flt a 0xC1100000#32 || flt 0x41100000#32 a then f32Of (tanhOf (if flt 0 a then .inf false else .inf true)) else bounded 7 3 a (tanhOf v)
  | .sigmoid => if flt a 0xC2D00000#32 then 0 else if flt 0x42D00000#32 a then 0x3F800000#32 else bounded 8 3 a (sigmoidOf v)
  | .erf => bounded 9 4 a (erfOf v)
  | .gelu => if flt 0x41200000#32 a then a else if flt a 0xC1200000#32 then 0x80000000#32 else bounded 10 4 a (geluOf v)
  | .silu => if a == 0xFF800000#32 then BitVec.ofNat 32 (Config.unstated 18 []) else bounded 11 4 a (siluOf v)

/-! ## Row macro-operations (R71, R72) -/

/-- A free value within `n` ulp of the exact value; it depends on the element and on what the row's reductions gave, in the order of R72,
and on nothing else (log 13). -/
def boundedBy (fn n : Nat) (x : W32) (sums : List W32) (exact : Val) : W32 :=
  bounded fn n (BitVec.ofNat 32 (Config.unstated 19 (x.toNat :: sums.map BitVec.toNat))) exact

/-- Softmax: e^(x_i - max) over the sum of all; NaN where a NaN, a +infinity or only -infinities stand in the row. The unit's own sum is
that of its exponentials in the order of R72. -/
def softmaxRow (xs : List W32) : List W32 :=
  let vs := xs.map f32Val
  if vs.any (· == .nan) || vs.any (· == .inf false) || vs.all (· == .inf true) then xs.map fun _ => f32Of .nan
  else
    let mx := vs.foldl (fun a v => if valLt a v then v else a) (.inf true)
    let es := vs.map fun v => match v with
      | .fin _ _ _ =>
        let d := valAdd v (valNeg mx)
        (match d with | .fin n m e => if n && magGt m e 220 0 then 0 else expFix (fxOf d) | _ => 0)
      | _ => 0
    let s := es.foldl (· + ·) 0
    let own := rowSum (xs.map fun x => fexp (f32Of (valAdd (f32Val x) (valNeg mx))))
    (List.zip xs es).map fun p => if p.2 = 0 then 0 else boundedBy 12 4 p.1 [f32Of mx, own] (fxVal false (fxDiv p.2 s).toNat)

def dySum (l : List Dy) : Dy := l.foldl dyAdd ⟨0, 0⟩
def dyMul (a b : Dy) : Dy := ⟨a.m * b.m, a.e + b.e⟩

/-- sign(x) × sqrt(num / den) with a last bit that marks it inexact; NaN for a negative den. -/
def rootRatio (neg : Bool) (num den : Dy) : Val :=
  if den.m < 0 then .nan
  else if num.m == 0 then .fin neg 0 0
  else if den.m == 0 then .inf neg
  else
    let (q, e) := divSticky num.m.natAbs den.m.natAbs num.e den.e
    match valSqrt (.fin false q e) with
    | .fin _ m e => .fin neg m e
    | v => v

/-- What the unit's own reductions of a norm give, in the order of R72: the sum (layer norm only), then that of the squared deviations. -/
def normSums (centre : Bool) (xs : List W32) : List W32 :=
  let n := f32Nat xs.length
  let mean := if centre then fdiv (rowSum xs) n else 0
  [mean, rowSum (xs.map fun x => let d := fsub x mean; fmul d d)]

/-- (x - mean) / sqrt(mean of squares + ε), mean zero for RMS norm; rows with a non-finite element give NaN, and so do an ε that is NaN or
-infinity; an infinite ε gives zeros. A row whose deviations and ε are all zero has no stated result: free values (log 115). -/
def normRow (fn : Nat) (centre : Bool) (eps : W32) (xs : List W32) : List W32 :=
  let vs := xs.map f32Val
  if vs.any (fun v => match v with | .fin _ _ _ => false | _ => true) then xs.map fun _ => f32Of .nan
  else
    let n : Int := xs.length
    let ds := vs.map valDy
    let sum := dySum ds
    let cs := ds.map fun d => if centre then dyAdd ⟨d.m * n, d.e⟩ ⟨-sum.m, sum.e⟩ else ⟨d.m * n, d.e⟩
    match f32Val eps with
    | .nan => xs.map fun _ => f32Of .nan
    | .inf neg => cs.map fun c => if neg then f32Of .nan else f32Of (.fin (decide (c.m < 0)) 0 0)
    | .fin _ _ _ =>
      let ss := dySum (cs.map fun d => dyMul d d)
      let den := dyAdd ss (dyMul ⟨n * n * n, 0⟩ (valDy (f32Val eps)))
      if den.m == 0 then xs.map fun x => BitVec.ofNat 32 (Config.unstated 20 [fn, x.toNat])
      else (List.zip xs cs).map fun p => boundedBy fn 4 p.1 (eps :: normSums centre xs) (rootRatio (decide (p.2.m < 0)) (dyMul ⟨n, 0⟩ (dyMul p.2 p.2)) den)

end Sys2Proof.Machine
end

