-- ==== Sys2Proof/Machine/Dress.lean ====
section
/-! DEFINITION. The Dressing unit (R71, R72, R133): element functions, row macro-operations, row reduction, pooling and widening, on
operands in the Ashlar's own SRAM (log 33). -/

namespace Sys2Proof.Machine

/-- `n` FP32 words at an A register. -/
def State.fp32s (s : State) (p : Part) (slot : Nat) (c : Chisel) (a n : Nat) : Except Nat (List W32) := do
  need (a < 16)
  let bs ← s.unitRead p slot false (c.ar a) (4 * n)
  .ok ((List.range n).map fun i => word32 bs (4 * i))

/-- Converts FP32 results to their output format, where it is narrower than FP32 (R71), and stores them. -/
def State.putVals (s : State) (p : Part) (slot : Nat) (c : Chisel) (ctrl dst sc : Nat) (vs : List Val) : Except Nat (State × (PartCounters → PartCounters)) := do
  need (ctrlOk ctrl && decide (dst < 16) && decide (sc < 16))
  let r := if ctrlFmt ctrl == 0x01 then ((vs.map fun v => leBytes 4 (f32Of v).toNat).flatten, [], {}) else convRun ctrl vs
  let s ← s.writeRun p slot (c.ar dst) (c.ar sc) r
  .ok (s, numEvents r.2.2)

/-- Number of sources an element function reads. -/
def fnArity : DressFn → Nat
  | .add => 2 | .mul => 2 | .min => 2 | .max => 2 | .cmpLt => 2 | .cmpLe => 2 | .cmpEq => 2
  | .fma => 3
  | _ => 1

/-- The longest row of a row operation (R72). -/
def rowMax : Nat := 262144

/-! ## Pooling (R133) -/

/-- The elements of a pooling window in row-major tap order, inside the map only. -/
def State.poolTaps (s : State) (p : Part) (c : Chisel) (slot : Nat) (l : Layer) (band : Option (Nat × Nat × Nat)) (ot oy ox ch : Nat) : Except Nat (List Val) := do
  let h := l.axisH.k
  let w := l.axisW.k
  let vs ← (List.range (l.axisT.k * h * w)).mapM fun q => s.elemValue p c slot l band ((l.tap ot oy ox (q / w / h) (q / w % h) (q % w)).elem ch)
  .ok (vs.filterMap id)

/-- One pooled value: `int` for an integer input format. -/
def poolValue (l : Layer) (int : Bool) (vs : List Val) : Val :=
  match vs with
  | [] => .fin false 0 0
  | v :: t =>
    if l.op == 3 then
      if vs.any (· == .nan) then .nan else t.foldl (fun a b => if valLt a b then b else a) v
    else
      let n := if l.countPad then l.kH * l.kW else vs.length
      if int then
        let d := (vs.map valDy).foldl dyAdd ⟨0, 0⟩
        let q := dyInt d
        dyVal ⟨if q < 0 then -(rneQuot q.natAbs n : Int) else rneQuot q.natAbs n, 0⟩ false
      else f32Val (fdiv (t.foldl (fun a b => fadd a (f32Of b)) (f32Of v)) (f32Nat n))
where
  /-- `a / n` rounded to nearest, ties to even. -/
  rneQuot (a n : Nat) : Nat :=
    if n = 0 then 0 else if n < 2 * (a % n) || (2 * (a % n) == n && a / n % 2 == 1) then a / n + 1 else a / n

def State.poolOp (s : State) (p : Part) (slot : Nat) (c : Chisel) (port ot oy ox ch n dst sc : Nat) : Except Nat (State × (PartCounters → PartCounters)) := do
  need (port < 3)
  let (l, band) ← s.portLayer p c port
  need ((l.op == 3 || l.op == 4) && decide (ch + n ≤ l.inC) && decide (ot < l.outT) && decide (oy < l.outH) && decide (ox < l.outW))
  let some pl := s.planOf p | .error 1
  match pl.tensor p.sizeLog2 l.inTensor, pl.tensor p.sizeLog2 l.outTensor with
  | some i, some o => do
    let vs ← (List.range n).mapM fun j => do
      let xs ← s.poolTaps p c slot l band ot oy ox (ch + j)
      .ok (poolValue l (isIntFmt i.ctrl) xs)
    s.putVals p slot c o.ctrl dst sc vs
  | _, _ => .error 1

/-! ## The operations -/

def State.dressOp (s : State) (p : Part) (slot : Nat) (c : Chisel) (op : DressOp) : Except Nat (State × (PartCounters → PartCounters)) := do
  match op with
  | .elem f n a b e ctrl dst sc =>
    let xs ← s.fp32s p slot c a n
    let ys ← if 2 ≤ fnArity f then s.fp32s p slot c b n else .ok []
    let zs ← if 3 ≤ fnArity f then s.fp32s p slot c e n else .ok []
    s.putVals p slot c ctrl dst sc (xs.zipIdx.map fun x => f32Val (dressFn f x.1 (ys.getD x.2 0) (zs.getD x.2 0)))
  | .softmax n a ctrl dst sc =>
    need (btw 1 n rowMax)
    let xs ← s.fp32s p slot c a n
    s.putVals p slot c ctrl dst sc ((softmaxRow xs).map f32Val)
  | .layerNorm n eps a ctrl dst sc =>
    need (btw 1 n rowMax)
    let xs ← s.fp32s p slot c a n
    s.putVals p slot c ctrl dst sc ((normRow 13 true eps xs).map f32Val)
  | .rmsNorm n eps a ctrl dst sc =>
    need (btw 1 n rowMax)
    let xs ← s.fp32s p slot c a n
    s.putVals p slot c ctrl dst sc ((normRow 14 false eps xs).map f32Val)
  | .rowSum n a dst =>
    need (btw 1 n rowMax && decide (dst < 16))
    let xs ← s.fp32s p slot c a n
    let s ← s.unitWrite p slot (c.ar dst) (leBytes 4 (rowSum xs).toNat)
    .ok (s, id)
  | .pool port ot oy ox ch n dst sc => s.poolOp p slot c port ot oy ox ch n dst sc
  -- a block-format value above FP32's largest finite value becomes an infinity and is not counted (log 117)
  | .widen ctrl n a asc dst =>
    need (ctrlOk ctrl && decide (a < 16) && decide (asc < 16) && decide (dst < 16))
    let bs ← s.unitRead p slot false (c.ar a) (runBytes ctrl n)
    let ss ← if isMx ctrl then s.unitRead p slot false (c.ar asc) (ceilDiv n 32) else .ok []
    let ws := (List.range n).map fun i => leBytes 4 (f32Of (elemVal ctrl bs ss i)).toNat
    let s ← s.unitWrite p slot (c.ar dst) ws.flatten
    .ok (s, id)
  | .illegal => .error 1

end Sys2Proof.Machine
end

