-- ==== Sys2Proof/Machine/Units.lean ====
section
/-! DEFINITION. The queues of the Bed, Dressing and Template units (R79) and what waits for them: dispatch, running an entry, the hardware
errors a unit reports (R255-R258), the order between units, DMA and fences (R86-R89), a descriptor's end, handoffs and the boundary
marker. A unit runs its own entries in order; between units, and between a unit and the DMA queues, the order is a free choice made
where another agent could see it (log 121). -/

namespace Sys2Proof.Machine

/-! ## Dispatch (R79) -/

/-- 0 Bed, 1 Dressing, 2 Template. -/
def UnitOp.unit : UnitOp → Nat
  | .bed _ _ => 0
  | .dress _ _ => 1
  | .template _ _ _ => 2

def Chisel.queueOf (c : Chisel) (u : Nat) : List UnitJob := c.units.filter fun j => j.op.unit == u

/-! ## Hardware errors of a tile (R255-R258) -/

/-- The bank has a line whose tag is set: only such a line is read from the array (R105). -/
def Sram.reads (x : Sram) (banks : Nat) (p : Nat → Bool) : Bool := x.valid.any fun n => p (n % banks)

/-- An error that an Ashlar reports while it runs: the job is marked and the part's test is called for. The slice is that of the table
BIST slices: a residue error's is `res`. -/
def State.tileErr (s : State) (pid : Nat) (p : Part) (l res : Nat) : HwErr → State
  | .residue n => s.ashlarError pid p l 3 n res
  | .sram b =>
    match s.tileOf p l with
    | some t => if (s.tile t).sram.reads 32 (· == b % 32) then s.ashlarError pid p l 0 (b % 32) (b % 32) else s
    | none => s
  | .cbuf k =>
    let c := p.courseOf l
    if (s.cbuf c).reads 16 (· / 4 == k % 4) then
      ((s.touchPart pid).errorEvent 12 (c * 4 + k % 4) 0 (k % 4) p.jobSeq true pid).wantTest 12 (c * 4 + k % 4) 0
    else s
  | .plinth k => ((s.touchPart pid).errorEvent 12 (64 + k) 0 k p.jobSeq true pid).wantTest 12 (64 + k) 0
  | .parity k => s.ashlarError pid p l 4 0 (56 + k % 8)
  | .hbm n corrected => ((if corrected then s else s.touchPart pid).errorEvent 10 n 1 0 p.jobSeq true pid).wantTest 10 n 0
  | .mortar g n => ((if n ≤ 4 then s else s.touchPart pid).errorEvent 11 g 2 (g % 64) p.jobSeq true pid).wantTest 11 g 0

/-- The BIST slice that covers a Bed column or a Dressing lane (R266). -/
def UnitOp.slice (op : UnitOp) (n : Nat) : Nat :=
  match op with
  | .bed _ _ => 32 + n % 128 / 8
  | .dress _ _ => 48 + n % 256 / 32
  | .template _ _ _ => 56

def UnitOp.err : UnitOp → Option HwErr
  | .bed _ e => e
  | .dress _ e => e
  | .template _ _ e => e

/-! ## Running an entry -/

/-- What an entry does: the new state with the Chisel's registers that units write, or a plan-error code at its instruction (R85). -/
def State.runOp (s : State) (pid l : Nat) (p : Part) (c : Chisel) (j : UnitJob) : State :=
  match j.op with
  | .bed op _ =>
    match s.bedOp p l { c with a := j.a } op with
    | .error e => s.planError pid l e j.pc
    | .ok (s', c', f) => (s'.updChisel pid l fun x => { x with acc := c'.acc, stat := c'.stat }).updPartCtr pid f
  | .dress op _ =>
    match s.dressOp p l { c with a := j.a } op with
    | .error e => s.planError pid l e j.pc
    | .ok (s', f) => s'.updPartCtr pid f
  | .template port prog _ => s.updChisel pid l fun x => { x with ports := x.ports.set port ⟨prog⟩ }

/-- An entry leaves its queue and runs; then the error it reports. -/
def State.runJob (s : State) (pid l : Nat) (p : Part) (c : Chisel) (j : UnitJob) : State :=
  let s1 := (s.updChisel pid l fun x => { x with units := dropFirst (fun k => k == j) x.units }).runOp pid l p c j
  match j.op.err with
  | some e => s1.tileErr pid p l (match e with | .residue n => j.op.slice n | _ => 0) e
  | none => s1

/-- Spans of its own SRAM that an entry writes: offset and length. -/
def UnitJob.writes (j : UnitJob) : List (Nat × Nat) :=
  let ar (i : Nat) : Nat := j.a.get 0 i
  let run (ctrl n dst sc : Nat) : List (Nat × Nat) := (ar dst, runBytes ctrl n) :: (if isMx ctrl then [(ar sc, ceilDiv n 32)] else [])
  match j.op with
  | .bed (.readout _ _ cols ctrl a sc) _ => if ctrl == 0 then [(ar a, 4 * cols)] else run ctrl cols a sc
  | .bed (.requant _ cols ctrl _ _ a) _ => [(ar a, runBytes ctrl cols)]
  | .dress (.elem _ n _ _ _ ctrl dst sc) _ => run ctrl n dst sc
  | .dress (.softmax n _ ctrl dst sc) _ => run ctrl n dst sc
  | .dress (.layerNorm n _ _ ctrl dst sc) _ => run ctrl n dst sc
  | .dress (.rmsNorm n _ _ ctrl dst sc) _ => run ctrl n dst sc
  | .dress (.rowSum _ _ dst) _ => [(ar dst, 4)]
  | .dress (.pool _ _ _ _ _ n dst sc) _ => [(ar dst, 4 * n), (ar sc, ceilDiv n 32)]
  | .dress (.widen _ n _ _ dst) _ => [(ar dst, 4 * n)]
  | _ => []

/-- A place in the Ashlar's own SRAM as an offset. -/
def State.ownOff (s : State) (p : Part) (l a : Nat) : Option Nat :=
  match s.resolve p l a with
  | some (_, .sram t o) => if s.tileOf p l == some t then some o else none
  | _ => none

/-- A descriptor writes a byte of one of the spans of the Ashlar's own SRAM. -/
def State.descMeets (s : State) (p : Part) (l : Nat) (d : TileDesc) (ws : List (Nat × Nat)) : Bool :=
  (List.range d.rows).any fun r =>
    match s.ownOff p l (rowAddr d.dst d.dstStride r) with
    | some o => ws.any fun w => decide (w.1 < o + d.rowBytes) && decide (o < w.1 + w.2)
    | none => false

/-- In Coursed ordering an entry waits for the Ashlar's earlier DMA writes to an address that it writes (R86). -/
def State.mayRun (s : State) (p : Part) (l : Nat) (c : Chisel) (j : UnitJob) : Bool :=
  !p.coursed || c.outstanding.all fun d => decide (j.order < d.1 / 2 ^ 32) || !s.descMeets p l d.2 j.writes

/-- The oldest entry of a unit runs, if it may. -/
def State.unitStep (s : State) (a : Ash) (u : Nat) : Option State :=
  match s.chiselAt a with
  | none => none
  | some (p, c) =>
    match (c.queueOf u).head? with
    | none => none
    | some j => if s.mayRun p a.slot c j then some (s.runJob a.part a.slot p c j) else none

/-- The entries that have run by now: a free number of them, in a free order between the units. -/
def State.pump (s : State) (a : Ash) : Nat → State
  | 0 => s
  | n + 1 =>
    let (w, s1) := s.free
    if w.toNat % 2 == 0 then s1
    else match s1.unitStep a (w.toNat / 2 % 3) with
      | some s2 => s2.pump a n
      | none => s1.pump a n

/-- The units run until their queues are empty or none may run, in a free order. -/
def State.drainQ (s : State) (a : Ash) : Nat → State
  | 0 => s
  | n + 1 =>
    let (w, s1) := s.free
    let u := w.toNat % 3
    match ((s1.unitStep a u).orElse fun _ => s1.unitStep a ((u + 1) % 3)).orElse fun _ => s1.unitStep a ((u + 2) % 3) with
    | some s2 => s2.drainQ a n
    | none => s1

def State.queued (s : State) (a : Ash) : Nat := ((s.chiselAt a).map fun x => x.2.units.length).getD 0

def State.pumpAsh (s : State) (a : Ash) : State := s.pump a (s.queued a)
def State.drainUnits (s : State) (a : Ash) : State := s.drainQ a (s.queued a)

/-- Every Ashlar of a partition. -/
def State.pumpPart (s : State) (pid : Nat) : State :=
  match s.part? pid with
  | none => s
  | some p => (List.range p.size).foldl (fun s l => s.pumpAsh ⟨pid, l⟩) s

def State.drainPart (s : State) (pid : Nat) : State :=
  match s.part? pid with
  | none => s
  | some p => (List.range p.size).foldl (fun s l => s.drainUnits ⟨pid, l⟩) s

/-! ## TEMPLATE, BED, DRESS -/

/-- The instruction joins its unit's queue of 16; while that is full the Chisel stalls until the unit has run its oldest entry (R79). -/
def State.dispatch (s : State) (a : Ash) (k : Nat) (op : UnitOp) : State :=
  s.issue a k fun _ c =>
    let s := if 16 ≤ (c.queueOf op.unit).length then (s.unitStep a op.unit).getD s else s
    match s.chiselAt a with
    | none => s
    | some (_, c) =>
      if 16 ≤ (c.queueOf op.unit).length then s
      else s.retire a fun c => { c with units := c.units ++ [⟨c.nextDesc, c.pc, c.a, op⟩], nextDesc := c.nextDesc + 1 }

/-- A program that the port accepts: up to 8 nested loops over an A register, or the windows of a layer record. -/
def State.templateOk (s : State) (p : Part) : TemplateProg → Bool
  | .nest base loops => decide (base < 16) && decide (loops.length ≤ 8)
  | .window layer band =>
    (match (s.geoOf p)[layer]? with | some (.layer _) => true | _ => false) &&
      (match band with | some (r, _, r2) => decide (r < 16) && decide (r2 < 16) | none => true)
  | .illegal => false

/-- TEMPLATE (R83): an encoding that no port accepts raises PE_ILLEGAL when it is issued. -/
def execTemplate (a : Ash) (port : Nat) (set : TemplateSet) (s : State) : Out :=
  .next (match s.chiselAt a with
    | some (p, _) => if port < 3 && s.templateOk p set.prog then s.dispatch a 3 (.template port set.prog set.err) else s.issue a 3 fun _ c => s.perr a c 1
    | none => s)

/-- BED (R83). `err` is a hardware error that the operation meets (R255, R256, R258). -/
def execBed (a : Ash) (op : BedOp) (err : Option HwErr) (s : State) : Out := .next (s.dispatch a 4 (.bed op err))

/-- DRESS (R83). -/
def execDress (a : Ash) (op : DressOp) (err : Option HwErr) (s : State) : Out := .next (s.dispatch a 5 (.dress op err))

/-! ## Fences (R87) -/

def State.fence (s : State) (a : Ash) (f : Nat) : State :=
  s.issue a 8 fun p c =>
    if s.fenceHolds p a.slot f c then s.retire a fun c => c
    else s.updChisel a.part a.slot fun c => { c with stall := .onFence f }

def execFenceL (a : Ash) (s : State) : Out := .next (s.fence a 0)
def execFenceC (a : Ash) (s : State) : Out := .next (s.fence a 1)
def execFenceP (a : Ash) (s : State) : Out := .next (s.fence a 2)
def execFenceH (a : Ash) (s : State) : Out := .next (s.fence a 3)

/-- The condition of a stalled fence comes to hold: the units have run what they held, and SIGs under way have landed. -/
def execFenceRelease (a : Ash) (s : State) : Out :=
  .next (match s.chiselAt a with
    | none => s
    | some (_, c) =>
      match c.stall with
      | .onFence f =>
        let s := (s.drainUnits a).landLoose a none
        match s.chiselAt a with
        | none => s
        | some (p, c) => if s.fenceHolds p a.slot f c then s.retire a fun c => { c with stall := .run } else s
      | _ => s)

/-! ## HANDOFF and BNDRY -/

/-- HANDOFF (R83): the buffer holds what the units have written by now. -/
def execHandoff (a : Ash) (op : HandoffOp) (s : State) : Out :=
  let s := s.pumpAsh a
  .next (s.issue a 9 fun p c =>
    match op with
    | .quoin reg count rec' image => s.handoffQuoin a p c reg count rec' image
    | .riddle n draft j reg => s.handoffRiddle a p c n draft j reg
    | .illegal => s.perr a c 1)

/-- BNDRY retires once every earlier instruction has: the units have run their queues, the Ashlar's handoffs have completed and its SIGs
have landed (R84, R102, R140). A second one in a batch raises PE_DOUBLE (R85). -/
def execBndry (a : Ash) (s : State) : Out :=
  .next (match s.chiselAt a with
    | none => s
    | some (_, c) =>
      if c.bndry then s.perr a c 5
      else if c.stall == .run then
        let s := (s.drainUnits a).landLoose a none
        s.issue a 11 fun _ c => if c.units.isEmpty && c.handoffs == 0 && c.held.isEmpty then s.retire a fun c => { c with bndry := true } else s
      else s)

/-! ## A descriptor's end (R113, R116, R121) -/

/-- The set whose last byte lands: the former active set first in Coursed ordering, either of the two in Loose (R86). `true` is the former. -/
def State.endingSet (s : State) (p : Part) (x : DmaQueue) : State × Option (Bool × Nat × TileDesc) :=
  match x.landing, x.active with
  | some d, some e =>
    if p.coursed then (s, some (true, d))
    else
      let (w, s) := s.free
      (s, some (if w.toNat % 2 == 0 then (true, d) else (false, e)))
  | some d, none => (s, some (true, d))
  | none, some e => (s, some (false, e))
  | none, none => (s, none)

def DmaQueue.ended (x : DmaQueue) (former : Bool) : DmaQueue :=
  if former then { x with landing := none } else { x with active := none }.start

/-- R121: an uncorrectable HBM unit, or a Mortar flit still bad after its fourth replay, makes the descriptor bad. -/
def badDesc : Option HwErr → Bool
  | some (.hbm _ corrected) => !corrected
  | some (.mortar _ n) => decide (4 < n)
  | _ => false

/-- In Coursed ordering a descriptor waits for earlier entries of the Ashlar's units that write an address it writes (R86). -/
def State.afterUnits (s : State) (p : Part) (l : Nat) (c : Chisel) (t : Nat) (d : TileDesc) : Bool :=
  !p.coursed || c.units.all fun j => decide (t / 2 ^ 32 < j.order) || !s.descMeets p l d j.writes

/-- The units have run what comes before a descriptor. -/
def State.unitsBefore (s : State) (a : Ash) (t : Nat) (d : TileDesc) : State :=
  match s.drainAt a with
  | some (p, c) => if s.afterUnits p a.slot c t d then s else s.drainUnits a
  | none => s

/-- A descriptor ends (R116): every byte has landed and its SEM is signalled, or it is bad (R121): how many of its rows landed is
then a free value (log 31), and its SEM is not signalled. The queue goes on with the shadow set. -/
def State.descEnd (s : State) (a : Ash) (q : Nat) (p : Part) (former : Bool) (t : Nat) (d : TileDesc) (err : Option HwErr) : State :=
  let s := s.touchStacks (s.descStacks p a.slot d)
  let s := if badDesc err then
      let (w, s) := s.free
      s.moveRows p a.slot d 0 (w.toNat % (d.rows + 1))
    else s.moveRows p a.slot d 0 d.rows
  let s := match err with
    | some e => s.tileErr a.part p a.slot (62 + q) e
    | none => s
  let s := s.updChisel a.part a.slot fun c => c.setQueue q ((c.queue q).ended former)
  let s := if !badDesc err && d.sem != 0xFFFF then s.addSem a.part a.slot d.sem 1 (t % 2 ^ 32) else s
  s.releaseHeld a t

/-- TILE_DMA_DESCRIPTOR_DONE: what the units of the partition have run by now stands in SRAM. -/
def execTileDmaDescriptorDone (a : Ash) (q : Nat) (err : Option HwErr) (s : State) : Out :=
  .next (match s.drainAt a with
    | none => s
    | some (p, c) =>
      if 2 ≤ q then s
      else
        let (s1, x) := s.endingSet p (c.queue q)
        match x with
        | none => s
        | some (former, t, d) =>
          if !s.hbmServes (s.descStacks p a.slot d) || !s.mayLand p a.slot c t d then s
          else
            let s2 := (s1.pumpPart a.part).unitsBefore a t d
            match s2.drainAt a with
            | none => s2
            | some (p2, c2) => if s2.afterUnits p2 a.slot c2 t d then s2.descEnd a q p2 former t d err else s2)

end Sys2Proof.Machine
end

