-- ==== Sys2Proof/Machine/Quoin.lean ====
section
/-! DEFINITION. The Quoin unit (R140-R143): candidates, boxes, suppression, box records, and a job from its Pier's queue. -/

namespace Sys2Proof.Machine

/-- The parameters in force for one image (R141): the record's, replaced by VIS_PARAMS where set. -/
structure QuoinSet where
  qr : QuoinRec
  thr : W32
  iou : W32
  maxOut : Nat
  agnostic : Bool

def quoinSet (q : QuoinRec) (v : Vision) : QuoinSet :=
  { qr := q, thr := v.scoreThr.getD q.scoreThr, iou := v.iouThr.getD q.iouThr, maxOut := (if v.maxOut == 0 then q.maxOut else v.maxOut), agnostic := (if v.mode == 0 then q.mode == 1 else v.mode == 2) }

/-- A box that passed the threshold. -/
structure Box where
  score : W32
  cand : Nat
  cls : Nat
  x1 : W32
  y1 : W32
  x2 : W32
  y2 : W32

def f16To32 (n : Nat) : W32 := f32Of (decodeF fmtFP16 n)

def fhalf : W32 := 0x3F000000#32
def fone : W32 := 0x3F800000#32

/-- Clamps a pair of edges along one axis. -/
def clampPair (a b hi : W32) : W32 × W32 :=
  let a := fclamp a 0 hi
  (a, fclamp (fmax b a) 0 hi)

/-- The edges before clamping (R141). -/
def candEdges (form : Nat) (px py s v0 v1 v2 v3 : W32) : W32 × W32 × W32 × W32 :=
  if form == 2 then (fsub px (fmul v0 s), fsub py (fmul v1 s), fadd px (fmul v2 s), fadd py (fmul v3 s))
  else
    let cx := fadd px (fmul v0 s)
    let cy := fadd py (fmul v1 s)
    let size (v : W32) : W32 := if form == 0 then fmul v s else fmul (qexp (fmin v (f32Nat 16))) s
    let w := size v2
    let h := size v3
    (fsub cx (fmul fhalf w), fsub cy (fmul fhalf h), fadd cx (fmul fhalf w), fadd cy (fmul fhalf h))

/-- One candidate record: discarded as invalid, below the threshold, or a box. -/
inductive Cand where
  | invalid
  | below
  | box (b : Box)

def candidate (q : QuoinSet) (i : Nat) (b : List Byte) : Cand :=
  let score := f16To32 (field b 6 2)
  let v (k : Nat) : W32 := f16To32 (field b (8 + 2 * k) 2)
  if decide (q.qr.numClasses ≤ field b 5 1) || isNan score || isNan (v 0) || isNan (v 1) || isNan (v 2) || isNan (v 3) then .invalid
  else
    let sc := if q.qr.scoreFn == 1 then qsigmoid score else score
    if !fge sc q.thr then .below
    else
      let s := f32Of (.fin false 1 (field b 4 1))
      let px := fmul (fadd (f32Nat (field b 0 2)) fhalf) s
      let py := fmul (fadd (f32Nat (field b 2 2)) fhalf) s
      let (x1, y1, x2, y2) := candEdges q.qr.form px py s (v 0) (v 1) (v 2) (v 3)
      if isNan x1 || isNan y1 || isNan x2 || isNan y2 then .invalid
      else
        let (x1, x2) := clampPair x1 x2 (f32Nat q.qr.modelW)
        let (y1, y2) := clampPair y1 y2 (f32Nat q.qr.modelH)
        .box ⟨sc, i, field b 5 1, x1, y1, x2, y2⟩

def iou (a b : Box) : W32 :=
  let iw := fmax 0 (fsub (fmin a.x2 b.x2) (fmax a.x1 b.x1))
  let ih := fmax 0 (fsub (fmin a.y2 b.y2) (fmax a.y1 b.y1))
  let inter := fmul iw ih
  let area (c : Box) : W32 := fmul (fsub c.x2 c.x1) (fsub c.y2 c.y1)
  let u := fsub (fadd (area a) (area b)) inter
  if fle u 0 then 0 else fdiv inter u

def suppressed (q : QuoinSet) (a : Box) (out : List Box) : Bool :=
  out.any fun b => (q.agnostic || a.cls == b.cls) && flt q.iou (iou a b)

/-- Suppression in order of score; true when MAX_OUT stopped it. -/
def suppress (q : QuoinSet) : List Box → List Box → List Box × Bool
  | [], out => (out, false)
  | a :: t, out =>
    if suppressed q a out then suppress q t out
    else if out.length + 1 == q.maxOut then (out ++ [a], true)
    else suppress q t (out ++ [a])

/-- A coordinate in 1/8 pixel of the source picture (R142). -/
def boxCoord (m scale off : W32) (src : Nat) : Nat :=
  let v := fmul (fadd (fmul m scale) off) (f32Nat 8)
  match f32Val v with
  | .nan => 0
  | .inf neg => if neg then 0 else min (src * 8) 65535
  | .fin n k e => (clampI (rneInt (valDy (.fin n k e))) 0 (min (src * 8) 65535)).toNat

/-- A box record (R142). -/
def boxRec (q : QuoinRec) (b : Box) : List Byte :=
  leBytes 2 (boxCoord b.x1 q.scaleX q.offX q.srcW) ++ leBytes 2 (boxCoord b.y1 q.scaleY q.offY q.srcH) ++ leBytes 2 (boxCoord b.x2 q.scaleX q.offX q.srcW) ++
    leBytes 2 (boxCoord b.y2 q.scaleY q.offY q.srcH) ++ leBytes 2 (convF fmtFP16 true (f32Val b.score)).1 ++ leBytes 1 b.cls ++ leBytes 1 0 ++ leBytes 2 b.cand ++ leBytes 2 0

/-- What Quoin computes for a candidate list of `count` records. -/
def quoinRun (q : QuoinSet) (count : Nat) (bytes : List Byte) : ImageOut :=
  let n := min count 4096
  let cs := (List.range n).map fun i => candidate q i (slice bytes (16 * i) 16)
  let boxes := sortBy (fun a b : Box => !flt a.score b.score) (cs.filterMap fun c => match c with | .box b => some b | _ => none)
  let (out, full) := suppress q boxes []
  { boxes := out.length, truncated := decide (4096 < count), maxOut := full, candInvalid := (cs.filter fun c => match c with | .invalid => true | _ => false).length, emitted := [], boxBytes := (out.map (boxRec q.qr)).flatten }

/-- Box areas of an item go to host memory (R144). -/
def Item.outHost (i : Item) : Bool := bitOf i.dflags 0
def Item.outAddr (i : Item) : Nat := field i.args 0 8

/-- The result of one handoff enters its batch; the box records of an image go to its box area in HBM, or with OUT_HOST stay in the
partition's result area until the host copy (R142, R146). -/
def State.quoinResult (s : State) (j : QuoinJob) (item : Option Item) (o : ImageOut) : State :=
  let s := s.updPart j.part fun p => { p with job := p.job.map fun k => { k with outs := k.outs.upd {} j.image fun x => { o with emitted := x.emitted } } }
  match item with
  | some i => if i.outHost then s.updPart j.part fun p => { p with results := p.results.set j.image o.boxBytes } else s.hbmWriteN i.tenant (i.outAddr + 16384 * i.index) o.boxBytes
  | none => s

/-- The error a Quoin job reports (R258). -/
def State.quoinErr (s : State) (pier : Nat) (j : QuoinJob) (p : Part) : HwErr → State
  | .residue n => ((s.touchPart j.part).errorEvent 13 pier 3 n p.jobSeq true j.part).wantTest 13 pier 0
  | e => s.tileErr j.part p j.slot 0 e

/-- QUOIN_JOB: the oldest handoff of a Pier's queue runs and completes (R140, R141). -/
def execQuoinJob (pier : Nat) (err : Option HwErr) (s : State) : Out :=
  .next (match (s.pier pier).quoin with
    | [] => s
    | j :: rest =>
      if (s.pier pier).quoinRetired then s
      else
        let s := s.pumpPart j.part
        match s.part? j.part with
        | none => s
        | some p =>
          if !s.tilesRun p then s
          else
            let item := (p.job.bind fun k => k.slots[j.image]?).join
            let v := ((item.bind fun i => s.ctx? i.ctx).map (·.visionRun)).getD {}
            let s1 := s.updPier pier fun q => { q with quoin := rest }
            let s2 := match (s.geoOf p)[j.qrec]? with
              | some (.quoin q) => s1.quoinResult j item (quoinRun (quoinSet q v) j.count (s.readRange p j.slot j.list (16 * min j.count 4096)))
              | _ => s1
            let s3 := s2.updChisel j.part j.slot fun c => { c with handoffs := c.handoffs - 1 }
            match err with
            | some e => s3.quoinErr pier j p e
            | none => s3)

end Sys2Proof.Machine
end

