-- ==== Sys2Proof/Machine/Time.lean ====
section
/-! DEFINITION. What the passing of time changes by itself: the AON counter with its slew (R33, R217, R223), hold time (R195, R230),
running clock and nominal progress of the partitions (R21, R355), the unbinding of imports that a PF FLR stopped (R222; log 49). Everything else that time brings is an event of the table. -/

namespace Sys2Proof.Machine

/-- R21: time in a Hold or under a floor step does not count toward the boundary-overdue limit. -/
def State.clockCounts (s : State) : Bool := !s.power.hold && !s.power.floor && !s.therm.quench

/-- R355: progress of a running batch advances by the length divided by d, not under a Hold or a Quench. -/
def State.progresses (s : State) : Bool := !s.power.hold && !s.therm.quench

def State.agePart (s : State) (n : Tick) (p : Part) : Part :=
  { p with
    sinceBoundary := if p.job.isSome && s.clockCounts then p.sinceBoundary + n else p.sinceBoundary
    progress4 := if p.job.isSome && s.progresses then p.progress4 + 4 * n / s.partD p else p.progress4 }

/-- Ticks that slewing adds to or takes from `n`, at most one in 5,000 (R217). -/
def State.slewTicks (s : State) (n : Tick) : Int :=
  let room : Int := ((s.fab.slewPhase + n) / 5000 : Nat)
  let want := s.fab.slew / 40
  if s.fab.slew = 0 then 0 else if want < 0 then max want (-room) else min want room

/-- `n` ticks of the AON clock pass; without the AON supply there is no clock (R223). -/
def State.advance (s : State) (n : Tick) : State :=
  if !s.power.aon then s
  else
    let k := s.slewTicks n
    { s with
      now := ((s.now + n : Nat) + k).toNat
      fab.slew := s.fab.slew - 40 * k
      fab.slewPhase := if s.fab.slew = 0 then 0 else (s.fab.slewPhase + n) % 5000
      power.holdTicks := if s.power.hold then s.power.holdTicks + n else s.power.holdTicks
      power.holdNs := if s.power.hold then s.power.holdNs + 40 * n else s.power.holdNs
      fab.imports := s.fab.imports.filter fun i => !i.2.stopped
      parts := s.parts.mapVals fun _ p => s.agePart n p }

end Sys2Proof.Machine
end

