-- ==== Sys2Proof/Machine/Host.lean ====
section
/-! DEFINITION. The host's side of the module (02_mailbox.md): interrupts, functions, the admission window, the event queue, the
completion rings and the mailboxes' Plinth part. A request that does not reach the function (R29, R30, R53) changes nothing. -/

namespace Sys2Proof.Machine

/-! ## Interrupts and functions -/

def fnVectors : Fn → Nat
  | .pf => 32
  | .vf _ => 8

/-- Clears a vector's mask; a pending message is sent (R51). -/
def State.unmask (s : State) (f : Fn) (i : Nat) : State :=
  let v := s.vector f i
  let s1 := s.setVector f i { v with masked := false, pending := false }
  if v.pending then s1.sendMsg f i else s1

def execMsixUnmask (f : Fn) (i : Nat) (s : State) : Out :=
  .next (if s.fnDecodes f && decide (i < fnVectors f) then s.unmask f i else s)

/-- R53: the VFs reappear as after their own FLR; their FLR effects came with the PF FLR that disabled them. -/
def execSriovVfEnable (s : State) : Out :=
  .next (if s.host.linkUp then { s with host.vfEnable := true } else s)

/-- R29: D3hot disables BAR decoding only. -/
def execPciPmStateWrite (f : Fn) (d3 : Bool) (s : State) : Out :=
  .next (if s.fnThere f then
      { s with host.d3 := if d3 then (if s.host.d3.contains f then s.host.d3 else f :: s.host.d3) else s.host.d3.filter (· != f) }
    else s)

/-! ## Rings -/

/-- Rule 4 of R48: REGISTERED falls at once; records of the ring in the backlog are counted and dropped. -/
def State.ringOff (s : State) (v i : Nat) : State :=
  let n := ((s.vf v).backlog.filter fun q => q.1 == i).length
  let s := s.updVf v fun f => { f with backlog := f.backlog.filter fun q => q.1 != i }
  s.updRing v i fun r => { r with enable := false, registered := false, drop := sat32 r.drop n, unannounced := 0 }

def cfgSize (w : Nat) : Nat := bitsOf w 7 4
def cfgVector (w : Nat) : Nat := bitsOf w 10 8
def cfgModCount (w : Nat) : Nat := bitsOf w 23 16

/-- A write of RING_CFG: VECTOR and MOD_COUNT take their values; SIZE only while ENABLE is 0 (R48). -/
def State.ringCfg (s : State) (v i : Nat) (w : Nat) : State :=
  let r := s.ring v i
  let s := s.updRing v i fun r => { r with size := if r.enable then r.size else cfgSize w, vector := cfgVector w, modCount := cfgModCount w }
  if bitOf w 0 then s.updRing v i fun r => { r with enable := true }
  else if r.enable || r.registered then s.ringOff v i
  else s

/-- Requests registration; it is checked by RING_REGISTRATION_CHECK. -/
def execRingEnable (v i : Nat) (cfg : W32) (s : State) : Out :=
  .next (if s.fnDecodes (.vf v) && decide (i < 4) && bitOf cfg.toNat 0 then s.ringCfg v i cfg.toNat else s)

/-- Rule 2 of R48. -/
def execRingRegistrationCheck (v i : Nat) (s : State) : Out :=
  let r := s.ring v i
  .next (if s.masonRuns && r.enable && !r.registered then
      if r.base != 0 && decide (r.size ≤ 8) then
        s.updRing v i fun r => { r with registered := true, head := 0, tail := 0, phase := true, unannounced := 0 }
      else s.updRing v i fun r => { r with enable := false, cfgErr := true }
    else s)

def execRingDisable (v i : Nat) (cfg : W32) (s : State) : Out :=
  .next (if s.fnDecodes (.vf v) && decide (i < 4) && !bitOf cfg.toNat 0 then s.ringCfg v i cfg.toNat else s)

def execRingHeadWrite (v i : Nat) (w : W32) (s : State) : Out :=
  .next (if s.fnDecodes (.vf v) && decide (i < 4) then s.updRing v i fun r => { r with head := w.toNat % 65536 } else s)

/-- Writes each waiting record whose ring has room and no older record waiting (R49). -/
def State.drainBacklog (s : State) (v : Nat) : List (Nat × Rec) → List (Nat × Rec) → State
  | [], kept => s.updVf v fun f => { f with backlog := kept }
  | (i, x) :: t, kept =>
    if !(s.ring v i).full && !(kept.any fun q => q.1 == i) then (s.ringWrite v i x).drainBacklog v t kept
    else s.drainBacklog v t (kept ++ [(i, x)])

def execRingBacklogDrain (v : Nat) (s : State) : Out :=
  .next (if s.up then s.drainBacklog v (s.vf v).backlog [] else s)

/-- R51: the oldest unannounced record has waited MOD_TIME µs. -/
def execRingModTimer (v i : Nat) (s : State) : Out :=
  let r := s.ring v i
  .next (if s.up && r.registered && r.modTime != 0 && r.unannounced != 0 && decide (tUs r.modTime ≤ s.since r.oldestAt) then
      (s.updRing v i fun r => { r with unannounced := 0 }).raiseVec (.vf v) r.vector
    else s)

def execRingDropRead (v i : Nat) (s : State) : Out :=
  .next (if s.fnDecodes (.vf v) && decide (i < 4) then
      { s.updRing v i (fun r => { r with drop := 0 }) with host.lastRead := BitVec.ofNat 64 (s.ring v i).drop }
    else s)

/-! ## The event queue -/

def execEqConsWrite (w : W32) (s : State) : Out :=
  .next (if s.fnDecodes .pf then { s with host.eq.cons := w.toNat % 512 }.eqSpace else s)

def execEqLostRead (s : State) : Out :=
  .next (if s.fnDecodes .pf then { s with host.lastRead := BitVec.ofNat 64 s.host.eq.lost, host.eq.lost := 0 } else s)

/-! ## The admission window (R42-R46) -/

def fnEntries : Fn → Nat
  | .pf => 16384
  | .vf _ => 768

def State.entry (s : State) : Fn → Nat → Entry
  | .pf, n => s.host.pfWin.get {} n
  | .vf v, n => s.host.vfWin.get {} (v * 768 + n)

def State.updEntry (s : State) (f : Fn) (n : Nat) (g : Entry → Entry) : State :=
  match f with
  | .pf => { s with host.pfWin := s.host.pfWin.upd {} n g }
  | .vf v => { s with host.vfWin := s.host.vfWin.upd {} (v * 768 + n) g }

/-- Any write to bytes +0x00 to +0x37 arms the entry (R44); bytes from +0x38 are read-only. -/
def State.slotWrite (s : State) (f : Fn) (n off : Nat) (bs : List Byte) : State :=
  s.updEntry f n fun e => { e with bytes := memWriteN e.bytes off (bs.take (0x38 - off)), armed := true }

def execSubmissionSlotWrite (f : Fn) (n off : Nat) (bs : List Byte) (s : State) : Out :=
  .next (if s.fnDecodes f && decide (n < fnEntries f) && decide (off < 0x38) && !bs.isEmpty then s.slotWrite f n off bs else s)

/-- Admitted work wakes the gated Courses of its partition (R93) and ends a session's idle time (R157). -/
def State.noteAdmitted (s : State) (cn : Nat) (c : Ctx) : State :=
  let s := s.updCtx cn fun c => { c with session.idleAt := s.now }
  match c.res.bind s.part? with
  | none => s
  | some p =>
    let s := s.updPart c.part fun q => { q with busyAt := s.now, wokenAt := if q.wokenAt.isSome then q.wokenAt else some s.now }
    p.courses.foldl (fun s k => s.updCourse k fun q =>
      { q with busyAt := s.now, waking := if q.power == 0 && q.waking.isNone then some c.part else q.waking }) s

/-- The context that an entry reaches: a PF entry serves the context of its number, a VF slot the one bound to it. -/
inductive Reach where
  | unbound
  | closed
  | gone
  | ctx (n : Nat) (c : Ctx)
  deriving DecidableEq, Repr

def State.reach (s : State) : Fn → Nat → Reach
  | .pf, n =>
    match s.ctx? n with
    | some c => .ctx n c
    | none => .gone
  | .vf v, n =>
    match s.host.slotBind.find? (v * 768 + n) with
    | none => .unbound
    | some 16384 => .closed
    | some k =>
      match s.ctx? k with
      | some c => .ctx k c
      | none => .gone

/-- A deciding read (R44): decision, ticket number and the state after. -/
def State.decideEntry (s : State) (f : Fn) (n : Nat) : State × W64 :=
  let d := memReadN (s.entry f n).bytes 0 0x38
  match s.reach f n with
  | .unbound => (s, ticketWord { dec := 3, reason := 0x30 } 0)
  | .closed => (s, ticketWord { dec := 2, reason := 0x24 } 0)
  | .gone => (s, ticketWord { dec := 3, reason := 0x32 } 0)
  | .ctx k c =>
    let (s1, t) := s.countTicket k
    let (s2, dc) := s1.decideTicket k ((s1.ctx? k).getD c) d
    ((if dc.dec < 2 then s2.noteAdmitted k c else s2), ticketWord dc t)

/-- R44, R45: an armed entry decides and is disarmed; any other returns its latched word. -/
def execTicketRead (f : Fn) (n : Nat) (s : State) : Out :=
  .next (if s.fnDecodes f && decide (n < fnEntries f) then
      if (s.entry f n).armed then
        let (s1, w) := s.decideEntry f n
        { s1.updEntry f n (fun e => { e with armed := false, ticket := w }) with host.lastRead := w }
      else { s with host.lastRead := (s.entry f n).ticket }
    else s)

/-! ## Mailboxes (R34, R36, R39) -/

/-- Command codes that the manual defines (check 2 of R36). -/
def codeDefined (c : Nat) : Bool :=
  (match c / 256 with
    | 0x01 => [1, 2, 3, 4, 5] | 0x02 => [1, 2, 3, 4, 5] | 0x03 => [1, 2, 3, 4, 5, 6] | 0x04 => [1, 2, 3, 4] | 0x05 => [1, 2]
    | 0x06 => [1, 2, 3, 4, 5, 6, 7] | 0x07 => [1, 2, 3, 4, 5] | 0x08 => [1, 2, 3, 4] | 0x09 => [1, 2, 3] | 0x0A => [1, 2, 3, 4]
    | 0x0B => [1, 2, 3, 4, 5, 6, 7, 8, 9] | 0x0C => [1, 2, 3, 0x10, 0x11]
    | 0x0D => [1, 2, 3, 4, 5, 6, 7, 8, 0x80, 0x81, 0x82] | 0x0E => [1, 2, 0x40, 0x41] | 0x0F => [1, 2, 3]
    | _ => []).contains (c % 256)

/-- ARG of RETRY_AFTER: the remaining pause in µs, rounded up, and never less than 1,000 (R39). -/
def State.retryUs (s : State) : Nat := max 1000 (s.mason.pauseUs - s.since s.mason.pauseAt / 25)

/-- An accepted doorbell: the Plinth answers during a pause, Mason answers a malformed header or an unknown code, and any other
request waits in Mason's input buffer. -/
def State.submit (s : State) (m : Mb) : State :=
  let bytes := memReadN (s.mbox m).req 0 256
  let code := reqCode s.broup bytes
  let tag := reqTag s.broup bytes
  if s.mason.paused then s.respond m code tag { status := St.retryAfter, arg := s.retryUs }
  else if !reqHeaderOk s.broup bytes || !codeDefined code then s.respond m code tag { status := St.badCommand }
  else { s.updMbox m (fun b => { b with state := 1 }) with mason.inputs := s.mason.inputs ++ [⟨m, bytes, false⟩] }

def State.doorbell (s : State) (m : Mb) (w : Nat) : State :=
  if !bitOf w 0 then s
  else if (s.mbox m).state == 1 then s.updMbox m fun b => { b with overrun := true }
  else s.submit m

def execMbDoorbell (m : Mb) (w : W32) (s : State) : Out :=
  .next (if s.fnDecodes m.fn && mbExists m then s.doorbell m w.toNat else s)

/-- Rule 3 of R34: a write while BUSY is dropped and sets OVERRUN. -/
def State.requestWrite (s : State) (m : Mb) (off : Nat) (bs : List Byte) : State :=
  if (s.mbox m).state == 1 then s.updMbox m fun b => { b with overrun := true }
  else s.updMbox m fun b => { b with req := memWriteN b.req off (bs.take (256 - off)) }

def execMailboxRequestWrite (m : Mb) (off : Nat) (bs : List Byte) (s : State) : Out :=
  .next (if s.fnDecodes m.fn && mbExists m && decide (off < 256) && !bs.isEmpty then s.requestWrite m off bs else s)

/-! ## Function-level reset of a VF (R53) -/

/-- The VF's mailboxes go to IDLE (their registers to reset values; log 22) and the responses of commands that are BUSY are
discarded; its rings are unregistered; its MSI-X table is reset; slots and tickets stay. -/
def State.vfReset (s : State) (v : Nat) : State :=
  let s := { s with
    host.vfMb := s.host.vfMb.mapVals fun k b => if k / 4 == v then { b with state := 0, status := 0, doneCount := 0, intrEn := false, overrun := false } else b
    host.vfVec := s.host.vfVec.filter fun p => p.1 / 8 != v
    mason.inputs := s.mason.inputs.map fun r : MasonReq => if r.mb.fn == Fn.vf v then { r with discard := true } else r }
  let s := (List.range 4).foldl (fun s i => s.ringOff v i) s
  (s.updVf v fun f => { f with mbDone := [] }).post 0x0105 9 v []

def execVfFlr (v : Nat) (s : State) : Out :=
  .next (if s.fnThere (.vf v) then { s.vfReset v with host.d3 := s.host.d3.filter (· != Fn.vf v) } else s)

end Sys2Proof.Machine
end

