-- ==== Sys2Proof/Machine/Partition.lean ====
section
/-! DEFINITION. Partition commands (R22, R24, R94, R99-R102, R353), Course power (R93, R94), HBM self-refresh (R111). -/

namespace Sys2Proof.Machine

/-! ## Shared pieces -/

/-- R351: a tenant that the payload names exists by number and is open; answers the failing status. -/
def State.tenantErr (s : State) (t : Nat) : Option Nat :=
  if 63 < t then some St.badArg else if s.tenantOpen t then none else some St.tenantClosed

/-- Contexts bound to a partition. -/
def State.boundCtxs (s : State) (p : Nat) : List (Nat × Ctx) := s.ctxsOn (some p)

/-- A gated Course of the partition begins to wake for it (R93). -/
def State.wakeCourses (s : State) (p : Nat) : State :=
  match s.part? p with
  | none => s
  | some r => r.courses.foldl (fun s k => s.updCourse k fun q =>
      { q with busyAt := s.now, waking := if q.power == 0 && q.waking.isNone then some p else q.waking }) s

/-- Readings of the diodes of a Course's tiles that are in service. -/
def State.courseDiodes (s : State) (c : Nat) : List Int :=
  (List.range 9).flatMap fun t =>
    let x := s.tile (c * 9 + t)
    (if x.aRetired then [] else [x.dA]) ++ (if x.bRetired then [] else [x.dB])

/-- R245: after at least 100 ms Gated, a reference more than 5 °C from the median of the diodes in service is retired. -/
def State.checkRef (s : State) (c : Nat) (ref : Int) : State :=
  let k := s.course c
  let s := s.updCourse c fun k => { k with refTemp := ref }
  let d := ref - medianInt (s.courseDiodes c)
  if k.power == 0 && !k.refRetired && decide (tMs 100 ≤ s.since k.gatedAt) && decide (80 < d.natAbs) then
    (s.updCourse c fun k => { k with refRetired := true }).post 0x090A 2 c (leBytes 2 (unsigned 16 d))
  else s

/-- Keep-warm holds the partition's Courses Warm or Running (R94), each with its reference compared where it was Gated (R245); a Quench, a Hold or a floor step overrides it while in force. -/
def State.warmCourses (s : State) (p : Nat) : State :=
  match s.part? p with
  | none => s
  | some r =>
    if !r.keepwarm || r.powering || s.therm.quench || s.power.hold || s.power.floor then s
    else r.courses.foldl (fun s k =>
      if (s.pier (k / 4)).resetting then s else (s.checkRef k (s.course k).refTemp).updCourse k fun q => { q with power := max 1 q.power }) s

/-- A Pier that has lost its last partition is gated, and its Courses with it (R94); one in reset stays as its reset leaves it (log 113). -/
def State.gatePier (s : State) (q : Nat) : State :=
  if (s.parts.any fun r => r.2.piers.contains q) || (s.pier q).resetting then s
  else (List.range 4).foldl (fun s i => s.updCourse (q * 4 + i) fun k => { k with power := 0, waking := none, gatedAt := s.now })
    (s.updPier q fun x => { x with powered := false, powering := false, selfRefresh := true })

/-- Removes a partition at its boundary point: its Courses are quiet from now on, and its tiles take their requests at once (R17). -/
def State.removePart (s : State) (p : Nat) : State :=
  match s.part? p with
  | none => s
  | some r =>
    let s := s.clearPart p
    let s := { s with parts := s.parts.del p }
    let s := r.courses.foldl (fun s k => s.updCourse k fun q => { q with busyAt := s.now }) s
    r.piers.foldl State.gatePier (r.courses.foldl (fun s k => s.applyDue k false) s)

/-! ## Placement (R22, R24, R353) -/

/-- A placement field as the size allows it: free, or one of its aligned starts. -/
def fieldFits (v step lim : Nat) : Bool := v == 255 || (decide (v < lim) && v % step == 0)

def placeLegal (k pier course slot : Nat) : Bool :=
  let size := 2 ^ k
  if k ≤ 3 then fieldFits pier 1 4 && fieldFits course 1 4 && fieldFits slot size 8
  else if k == 4 then fieldFits pier 1 4 && fieldFits course 2 4 && fieldFits slot 8 8
  else if k == 5 then fieldFits pier 1 4 && fieldFits course 4 4 && fieldFits slot 8 8
  else if k == 6 then fieldFits pier 2 4 && fieldFits course 4 4 && fieldFits slot 8 8
  else fieldFits pier 4 4 && fieldFits course 4 4 && fieldFits slot 8 8

/-- Every place that R22 gives a size, lowest Pier, Course and slot first. -/
def places (k : Nat) : List (Nat × Nat × Nat) :=
  (List.range 128).filterMap fun i =>
    let p := i / 32
    let c := i / 8 % 4
    let l := i % 8
    if placeLegal k p c l then some (p, c, l) else none

def placed (tenant k : Nat) (q : Nat × Nat × Nat) : Part := { tenant, sizeLog2 := k, pier := q.1, course := q.2.1, slot := q.2.2 }

/-- Every logical slot exists and is free, on Piers in service. -/
def State.placeFree (s : State) (r : Part) : Bool :=
  (List.range r.size).all (fun l => (s.tileOf r l).isSome && !(s.course (r.courseOf l)).gone && (s.partAt (r.courseOf l) (r.slotOf l)).isNone) &&
    r.piers.all fun p => !(s.pier p).retired

def heldAt (v x : Nat) : Bool := v == 255 || v == x

def State.findPlace (s : State) (tenant k pier course slot : Nat) : Option Part :=
  ((places k).filter fun q => heldAt pier q.1 && heldAt course q.2.1 && heldAt slot q.2.2).findSome? fun q =>
    if s.placeFree (placed tenant k q) then some (placed tenant k q) else none

/-! ## PART_CREATE, PIER_POWER_UP_DONE -/

def partReply (id : Nat) (r : Part) : List Byte :=
  leBytes 2 id ++ leBytes 1 r.pier ++ leBytes 1 r.course ++ leBytes 1 r.slot ++ leBytes 1 (boolN r.coursed) ++ [0, 0]

/-- Creates the partition; an unpowered Pier is powered first, and the command is then ACCEPTED (R94). -/
def State.addPart (s : State) (q : Req) (id : Nat) (r : Part) : State × Resp :=
  let cold := r.piers.filter fun p => !(s.pier p).powered
  let r := { r with keepwarm := q.u8 5 == 1, powering := !cold.isEmpty, busyAt := s.now }
  let s := { s with parts := s.parts.set id r }
  if cold.isEmpty then (s.warmCourses id, okR (partReply id r))
  else
    let s := cold.foldl (fun s p => s.updPier p fun x => { x with powering := true }) s
    let (s, a) := s.accept q (.partCreate id r.pier)
    (s, { a with payload := partReply id r })

def State.partCreate (s : State) (q : Req) : State × Resp :=
  match s.tenantErr (q.u8 0) with
  | some e => (s, failR e)
  | none =>
    if 7 < q.u8 1 || 1 < q.u8 5 || !placeLegal (q.u8 1) (q.u8 2) (q.u8 3) (q.u8 4) then (s, failR St.badArg)
    else
      match s.findPlace (q.u8 0) (q.u8 1) (q.u8 2) (q.u8 3) (q.u8 4), leastBelow 128 (fun i => !s.parts.has i) with
      | some r, some id => if r.piers.any (fun p => (s.pier p).powering) then (s, failR St.busy) else s.addPart q id r
      | _, _ => (s, failR St.noResource)

def execPartCreate (m : Mb) (s : State) : Out := .next (s.mbRun m 0x0201 false (lenIs 8 [(6, 2)]) State.partCreate)

/-- Partitions whose Piers are all powered take their places; their PART_CREATE ends (R94). -/
def State.powerParts (s : State) : State :=
  (s.parts.filter fun q => q.2.powering && q.2.piers.all fun p => (s.pier p).powered).foldl
    (fun s q => ((s.updPart q.1 fun r => { r with powering := false }).warmCourses q.1).finishOps
      (fun k => match k with | .partCreate n _ => n == q.1 | _ => false) St.ok) s

def execPierPowerUpDone (pier : Nat) (s : State) : Out :=
  .next (if s.up && (s.pier pier).powering then
      (s.updPier pier fun x => { x with powering := false, powered := true, hbmBusyAt := s.now }).powerParts
    else s)

/-! ## PART_DESTROY, PART_QUERY, PART_KEEPWARM, PART_COUNTERS -/

def State.partDestroy (s : State) (q : Req) : State × Resp :=
  match s.part? (q.u16 0) with
  | none => (s, failR St.badArg)
  | some r =>
    if s.held (1, q.u16 0) then (s, failR St.busy)
    else if !(s.boundCtxs (q.u16 0)).isEmpty then (s, failR St.refused 1)
    else if r.job.isSome then (s.updPart (q.u16 0) fun r => { r with state := 3 }).accept q (.partDestroy (q.u16 0))
    else (s.removePart (q.u16 0), okR [])

def execPartDestroy (m : Mb) (s : State) : Out := .next (s.mbRun m 0x0202 false (lenIs 4 [(2, 2)]) State.partDestroy)

/-- The nibble of a logical slot in the MAP field (R100). -/
def State.mapNibble (s : State) (r : Part) (l : Nat) : Nat := if l < r.size then ((s.tileOf r l).map (· % 9)).getD 15 else 15

def State.partMap (s : State) (r : Part) : List Byte :=
  (List.range 64).map fun i => BitVec.ofNat 8 (s.mapNibble r (2 * i) + 16 * s.mapNibble r (2 * i + 1))

def State.partQuery (s : State) (q : Req) : State × Resp :=
  match s.part? (q.u16 0) with
  | none => (s, failR St.badArg)
  | some r =>
    let red := match s.planOf r with | some pl => pl.flags % 2 | none => 0
    (s, okR (leBytes 1 r.tenant ++ leBytes 1 r.sizeLog2 ++ leBytes 1 r.state ++ leBytes 1 (boolN r.keepwarm) ++ leBytes 1 (boolN r.coursed) ++
      leBytes 1 red ++ [0, 0] ++ leBytes 4 (r.plan.getD 0) ++ leBytes 4 0 ++ leBytes 8 r.ctr.boundaries ++ s.partMap r))

def execPartQuery (m : Mb) (s : State) : Out := .next (s.mbRun m 0x0203 false (lenIs 4 [(2, 2)]) State.partQuery)

/-- R94: with effect at once; a Course no longer held is quiet from now. -/
def State.partKeepwarm (s : State) (q : Req) : State × Resp :=
  match s.part? (q.u16 0) with
  | none => (s, failR St.badArg)
  | some r =>
    if 1 < q.u8 2 then (s, failR St.badArg)
    else if s.held (1, q.u16 0) then (s, failR St.busy)
    else
      let s1 := s.updPart (q.u16 0) fun r => { r with keepwarm := q.u8 2 == 1 }
      let s2 := if r.keepwarm && q.u8 2 == 0 then r.courses.foldl (fun s k => s.updCourse k fun x => { x with busyAt := s.now }) s1 else s1.warmCourses (q.u16 0)
      (s2, okR [])

def execPartKeepwarm (m : Mb) (s : State) : Out := .next (s.mbRun m 0x0204 false (lenIs 4 [(3, 1)]) State.partKeepwarm)

def ctrBytes (c : PartCounters) : List Byte :=
  leBytes 4 c.convSat ++ leBytes 4 c.convNonfinite ++ leBytes 4 c.nanFlush ++ leBytes 4 c.underflow ++ leBytes 4 c.accSat ++ leBytes 4 c.accWrap ++
    leBytes 4 c.accNonfinite ++ leBytes 4 0 ++ leBytes 8 c.boundaries ++ leBytes 4 c.restarts ++ leBytes 4 c.planErrors ++ leBytes 4 c.rotations ++
    leBytes 4 c.wakes ++ leBytes 8 c.tapsElided ++ leBytes 8 c.rowcolSkipped

def State.partCounters (s : State) (q : Req) : State × Resp :=
  match s.part? (q.u16 0) with
  | none => (s, failR St.badArg)
  | some r => (s, okR (ctrBytes r.ctr))

def execPartCounters (m : Mb) (s : State) : Out := .next (s.mbRun m 0x0205 false (lenIs 4 [(2, 2)]) State.partCounters)

/-! ## Course power (R93), HBM self-refresh (R111) -/

/-- Admitted work of a partition, queued or running. -/
def State.partWork (s : State) (p : Nat) (r : Part) : Bool := r.job.isSome || r.again.isSome || !(s.queuedOn (some p)).isEmpty || !r.running.isEmpty

/-- For 2 ms no partition of the Course has had work, and none keeps it warm; a Hold or a floor step counts as no such time. -/
def execCourseGate (c : Nat) (s : State) : Out :=
  .next (let k := s.course c
    let quiet := s.parts.all fun q => !q.2.hasCourse c || (!q.2.keepwarm && !s.partWork q.1 q.2)
    if s.up && decide (c < 16) && k.power != 0 && k.waking.isNone && quiet && !s.power.hold && !s.power.floor && decide (tMs 2 ≤ s.since k.busyAt) then
      s.updCourse c fun k => { k with power := 0, gatedAt := s.now }
    else s)

/-- A wake completes: the reference thermometer (`ref`, 1/16 °C) is checked, the Course is Warm, and WAKES counts for the partition whose work
woke it. -/
def execCourseWake (c : Nat) (ref : Int) (s : State) : Out :=
  .next (match (s.course c).waking with
    | none => s
    | some p =>
      if s.up && !s.therm.quench && !s.power.hold && (s.pier (c / 4)).powered && !(s.pier (c / 4)).resetting then
        ((s.checkRef c ref).updCourse c fun k => { k with power := max 1 k.power, waking := none, busyAt := s.now }).updPartCtr p fun k => { k with wakes := sat32 k.wakes 1 }
      else s)

/-- The Pier has had no running partition and no HBM traffic for 1 ms. -/
def execHbmSelfRefreshEntry (pier : Nat) (s : State) : Out :=
  .next (let q := s.pier pier
    if s.up && decide (pier < 4) && !q.selfRefresh && !(s.parts.any fun r => r.2.piers.contains pier && r.2.job.isSome) && decide (tMs 1 ≤ s.since q.hbmBusyAt) then
      s.updPier pier fun q => { q with selfRefresh := true }
    else s)

end Sys2Proof.Machine
end

