-- ==== Sys2Proof/Machine/Riddle.lean ====
section
/-! DEFINITION. Riddle: sampling of one position (R159), its draws (R160), speculation (R163), and the tokens that one step yields.
Positions count from 0: a context of length L has its next token at position L, and position P + j of R163 is L + j - 1. -/

namespace Sys2Proof.Machine

/-- What sampling leaves of a position: the kept prefix of c, its weights e, and whether no logit was finite. -/
structure Dist where
  ids : List Nat
  e : List W32
  nonfinite : Bool
  deriving DecidableEq, Repr

/-- All probability on one token. -/
def Dist.point (t : Nat) (nf : Bool := false) : Dist := ⟨[t], [0x3F800000#32], nf⟩

def negInf : W32 := 0xFF800000#32

/-- h[t]: count of t in the last `w` tokens. -/
def recent (hist : List Nat) (w : Nat) : List Nat := hist.drop (hist.length - w)

/-- Repetition, then presence, for a token that stands in the window; a NaN logit is -infinity (R159). -/
def penalise (sm : Sampling) (h : List Nat) (t : Nat) (l : W32) : W32 :=
  let l := if isNan l then negInf else l
  if h.contains t then fsub (if flt 0 l then fdiv l sm.repetition else fmul l sm.repetition) sm.presence else l

/-- Token ids by logit descending, then id ascending. -/
def sortLogits (ls : List (Nat × W32)) : List (Nat × W32) := sortBy (fun a b => !flt a.2 b.2) ls

/-- Running FP32 sums of a list. -/
def runSums : W32 → List W32 → List W32
  | _, [] => []
  | a, x :: t => fadd a x :: runSums (fadd a x) t

def sumsOf : List W32 → List W32
  | [] => []
  | x :: t => x :: runSums x t

/-- 1 + the least j that meets `p`; the whole length where there is none. -/
def firstLen (p : W32 → Bool) (l : List W32) : Nat :=
  match l.findIdx? p with
  | some j => j + 1
  | none => l.length

/-- e[j] never increases along c (R159): each weight is at most the one before it, which keeps the bound of exp. -/
def noRise : W32 → List W32 → List W32
  | _, [] => []
  | m, x :: t =>
    let y := if flt m x then m else x
    y :: noRise y t

/-- The sampling steps of R159 up to the draw, for logits of one position after the tokens of `hist`. -/
def dist (sm : Sampling) (hist : List Nat) (logits : List W32) : Dist :=
  let h := recent hist sm.window
  let c := sortLogits (logits.zipIdx.map fun x => (x.2, penalise sm h x.2 x.1))
  match c with
  | [] => Dist.point 0 true
  | c0 :: _ =>
    if f32Val c0.2 == .inf true then Dist.point c0.1 true
    else if !flt 0 sm.temperature then Dist.point c0.1
    else
      let c := c.map fun x => (x.1, fdiv x.2 sm.temperature)
      let c := if sm.topK == 0 then c else c.take sm.topK
      let l0 := (c.head?.map Prod.snd).getD 0
      let e := noRise 0x7F800000#32 (c.map fun x => fexp (fsub x.2 l0))
      let s := sumsOf e
      let n := if flt sm.topP 0x3F800000#32 then firstLen (fun x => fge x (fmul sm.topP (s.getLastD 0))) s else e.length
      let n := if flt 0 sm.minP then ((e.take n).filter fun x => fge x sm.minP).length else n
      ⟨(c.map Prod.fst).take n, e.take n, false⟩

/-- The draw u of R160. -/
def draw (seed : W64) (pos purpose : Nat) : W32 := f32Of (.fin false ((philox seed pos purpose).toNat / 256) (-24))

/-- x := u * s[n-1]; the least j with s[j] > x, or the last. -/
def pick (ids : List Nat) (weights : List W32) (u : W32) : Nat :=
  let s := sumsOf weights
  let x := fmul u (s.getLastD 0)
  ids.getD (min (firstLen (fun y => flt x y) s - 1) (ids.length - 1)) 0

/-- The probability of a token (R159): 0 outside the kept prefix. -/
def Dist.prob (d : Dist) (t : Nat) : W32 :=
  match d.ids.findIdx? (· == t) with
  | some j => fdiv (d.e.getD j 0) ((sumsOf d.e).getLastD 0)
  | none => 0

/-- The residual draw of R163. -/
def residual (m q : Dist) (u : W32) : Nat :=
  let r := m.ids.map fun t => fmax 0 (fsub (m.prob t) (q.prob t))
  if (sumsOf r).getLastD 0 == 0 then pick m.ids (m.ids.map m.prob) u else pick m.ids r u

/-- What a decoding step yields: its tokens, how many draft tokens were accepted, and whether a sampled position had no finite logit. -/
structure StepOut where
  toks : List Nat
  accepted : Nat
  nonfinite : Bool
  deriving DecidableEq, Repr

/-- A session's step as Riddle sees it. -/
structure Drafting where
  sm : Sampling
  seed : W64
  /-- context tokens before the step -/
  hist : List Nat
  /-- context length, that is position P + 1 -/
  len : Nat
  /-- logits of the main model and of the draft for position P + j, where the plan handed them over -/
  main : Nat → Option (List W32)
  draft : Nat → Option (List W32)
  /-- the token of a position without logits: not stated (log 35) -/
  gap : Nat → Nat

def Drafting.dist (d : Drafting) (l : Option (List W32)) (hist : List Nat) (j : Nat) : Dist :=
  match l with
  | some ws => Sys2Proof.Machine.dist d.sm hist ws
  | none => Dist.point (d.gap (d.len + j - 1))

/-- Draft proposals at positions P + j to P + k, purpose 3, each with the distribution it was drawn from. -/
def Drafting.propose (d : Drafting) (hist : List Nat) (j : Nat) : Nat → List (Nat × Dist)
  | 0 => []
  | n + 1 =>
    let q := d.dist (d.draft j) hist j
    let t := pick q.ids q.e (draw d.seed (d.len + j - 1) 3)
    (t, q) :: d.propose (hist ++ [t]) (j + 1) n

/-- Acceptance (R163), from position P + j on. With temperature 0 every distribution is one token, so the test accepts exactly the main
argmax and the residual draw emits it. -/
def Drafting.accept (d : Drafting) (hist : List Nat) (j : Nat) : List (Nat × Dist) → StepOut
  | [] =>
    let m := d.dist (d.main j) hist j
    ⟨[pick m.ids m.e (draw d.seed (d.len + j - 1) 0)], 0, m.nonfinite⟩
  | (t, q) :: rest =>
    let m := d.dist (d.main j) hist j
    let ok := if flt 0 d.sm.temperature then flt (fmul (draw d.seed (d.len + j - 1) 1) (q.prob t)) (m.prob t) else m.ids.head? == some t
    if ok then
      let r := d.accept (hist ++ [t]) (j + 1) rest
      ⟨t :: r.toks, r.accepted + 1, m.nonfinite || r.nonfinite⟩
    else ⟨[if flt 0 d.sm.temperature then residual m q (draw d.seed (d.len + j - 1) 2) else m.ids.headD 0], 0, m.nonfinite⟩

/-- The tokens of a step with `k` draft tokens; each proposal is a sampled position too (R155). -/
def Drafting.step (d : Drafting) (k : Nat) : StepOut :=
  let ps := d.propose d.hist 1 k
  let o := d.accept d.hist 1 ps
  { o with nonfinite := o.nonfinite || ps.any fun x => x.2.nonfinite }

/-- Logits handed over in the step for a position. -/
def StepSlot.logitsFor (x : StepSlot) (draft : Bool) (j : Nat) : Option (List W32) :=
  (List.find? (fun q : Bool × Nat × List W32 => q.1 == draft && q.2.1 == j) x.logits).map fun q => q.2.2

/-- The step of a session whose context, with the tokens prefilled in this step, is `tokens`. -/
def sampleStep (x : StepSlot) (c : Session) (sm : Sampling) (vocab : Nat) (tokens : List Nat) (k : Nat) : StepOut :=
  let d : Drafting := { sm, seed := c.seed, hist := tokens, len := tokens.length, main := x.logitsFor false, draft := x.logitsFor true, gap := fun pos => Config.unstated 6 [x.ctx, pos] % max 1 vocab }
  d.step k

end Sys2Proof.Machine
end

