-- ==== Sys2Proof/Machine/Serve.lean ====
section
/-! DEFINITION. Groups of records released together, and serving (07_serving.md): what a session's step yields, ends and aborts of
requests, pauses, speculation modes, KV pages, and the serving commands. -/

namespace Sys2Proof.Machine

/-! ## Groups of records (R26, R155) -/

/-- A record due for release: its item, whether it carries LATE past the deadline, its attachment, the PSEQ a lead gives it, and
whether it is a per-member record (R288). -/
structure Rel where
  r : Rec
  item : Item
  judge : Bool := false
  att : List Byte := []
  lead : Option Nat := none
  perMember : Bool := false

/-- R281: the next record of a led item takes the lead's PSEQ. -/
def State.setPseq (s : State) (ctx : Nat) (lead : Option Nat) : State :=
  match lead with
  | some n => s.updCtx ctx fun c => { c with pseq := n - 1 }
  | none => s

def State.releaseOne (s : State) (x : Rel) (last : Bool) : State :=
  let late := x.judge && x.r.status == St.ok && s.isLate x.item
  let s := if late then s.noteLate x.item else s
  (s.setPseq x.item.ctx x.lead).release { x.r with status := if late then St.late else x.r.status, last, time := s.now } x.att x.perMember

/-- Releases a group in order; FLAGS.LAST marks the last record. -/
def State.releaseGroup (s : State) : List Rel → State
  | [] => s
  | [x] => s.releaseOne x true
  | x :: t => (s.releaseOne x false).releaseGroup t

/-! ## Speculation modes (R164) -/

def Session.proposed (c : Session) : Nat := sumNat (c.window.map Prod.fst)
def Session.taken (c : Session) : Nat := sumNat (c.window.map Prod.snd)

/-- 32 drafting steps show a rate below 0.15. -/
def Session.suspendDue (c : Session) : Bool :=
  c.specMode == 1 && !c.suspended && decide (32 ≤ c.window.length) && decide (100 * c.taken < 15 * c.proposed)

def Session.resumeDue (c : Session) : Bool := c.suspended && c.suspendLeft == 0

/-- A full window shows a rate of 0.6 or more. -/
def Session.riseDue (c : Session) : Bool :=
  c.specMode == 1 && !c.suspended && decide (32 ≤ c.window.length) && decide (6 * c.proposed ≤ 10 * c.taken)

def Session.suspend (c : Session) : Session :=
  if c.suspendDue then { c with suspended := true, suspendLeft := 256, window := [], suspensions := sat32 c.suspensions 1 } else c

def Session.resume (c : Session) : Session :=
  if c.resumeDue then { c with suspended := false, k := max 1 (c.k / 2), window := [] } else c

def Session.rise (c : Session) : Session := if c.riseDue then { c with k := min c.draftLen (2 * c.k), window := [] } else c

/-- Draft length in force. -/
def Session.draftNow (c : Session) : Nat :=
  if c.specMode == 0 then 0 else if c.specMode == 2 then c.draftLen else if c.suspended then 0 else c.k

/-- A decoding step ends: its draft enters the window of the last 32 drafting steps, or one suspended step is over. -/
def Session.noteStep (c : Session) (k acc : Nat) : Session :=
  if c.suspended then { c with suspendLeft := c.suspendLeft - 1 }
  else if k == 0 then c
  else { c with window := (c.window ++ [(k, acc)]).drop (c.window.length + 1 - 32) }.rise

def State.updSession (s : State) (ctx : Nat) (f : Session → Session) : State := s.updCtx ctx fun c => { c with session := f c.session }

/-- Auto speculation suspends: the table's own event, and also at the next step's start where it is due. -/
def execSpecSuspend (ctx : Nat) (s : State) : Out := .next (if s.up then s.updSession ctx Session.suspend else s)
def execSpecResume (ctx : Nat) (s : State) : Out := .next (if s.up then s.updSession ctx Session.resume else s)

/-! ## Step records (R155) -/

/-- What a session's step delivers. -/
structure Step where
  toks : List Nat := []
  fin : Nat := 0
  accepted : Nat := 0
  drafted : Nat := 0
  nonfinite : Bool := false
  suspended : Bool := false
  prefill : Bool := false
  pos : Nat := 0

def Step.detail (x : Step) (count : Nat) (cont : Bool) (fin : Nat) : Nat :=
  count + boolN cont * 2 ^ 4 + boolN x.prefill * 2 ^ 5 + fin * 2 ^ 6 + x.accepted * 2 ^ 9 + x.drafted * 2 ^ 14 + boolN x.suspended * 2 ^ 19 +
    boolN x.nonfinite * 2 ^ 20

/-- Nine 24-bit slots, a reserved byte, POSITION. -/
def stepBody (toks : List Nat) (pos : Nat) : List Byte := padTo 28 (toks.map (leBytes 3)).flatten ++ leBytes 4 pos

/-- One record, or two where more than nine tokens are delivered. -/
def State.stepRecs (s : State) (i : Item) (x : Step) : List Rec :=
  if x.toks.length ≤ 9 then [s.itemRec i 5 St.ok (x.detail x.toks.length false x.fin) false (stepBody x.toks x.pos)]
  else
    [s.itemRec i 5 St.ok (x.detail 9 true 0) false (stepBody (x.toks.take 9) x.pos),
     s.itemRec i 5 St.ok (x.detail (x.toks.length - 9) false x.fin) false (stepBody (x.toks.drop 9) (x.pos + 9))]

/-- Tokens up to the one that ends the request (R153), with END: 1 stop token, 2 MAX_NEW, 3 context full. -/
def cutTokens (stop : List Nat) (maxNew maxCtx delivered len : Nat) : List Nat → List Nat × Nat
  | [] => ([], 0)
  | t :: ts =>
    if stop.contains t then ([t], 1)
    else if maxNew ≤ delivered + 1 then ([t], 2)
    else if maxCtx ≤ len + 1 then ([t], 3)
    else
      let (r, e) := cutTokens stop maxNew maxCtx (delivered + 1) (len + 1) ts
      (t :: r, e)

/-! ## Ends of requests -/

/-- A pause takes effect (R157): pages and reservation return, the context length becomes 0, one record with END 5 is written. -/
def State.pauseNow (s : State) (ctx : Nat) (timeout : Bool) : State :=
  match s.ctx? ctx with
  | none => s
  | some c =>
    let s := (s.giveQuota c.tenant (65536 * c.session.pages.length)).updSession ctx fun x =>
      { x with state := 3, pages := [], length := 0, tokens := [], window := [], suspended := false, suspendLeft := 0, timeoutPauses := if timeout then sat32 x.timeoutPauses 1 else x.timeoutPauses }
    s.release { type := 5, status := St.ok, last := true, ctx, tenant := c.tenant, seq := 0, detail := 5 * 2 ^ 6, userTag := 0, time := s.now, body := stepBody [] 0, pseq := 0 } []

/-- A Pausing session whose admitted work has ended pauses, and its SRV_PAUSE ends. -/
def State.tryPause (s : State) (ctx : Nat) : State :=
  match s.ctx? ctx with
  | none => s
  | some c =>
    if c.session.state == 2 && c.session.req.isNone && c.queue.isEmpty then
      (s.pauseNow ctx false).finishOps (fun k => match k with | .srvPause n => n == ctx | _ => false) St.ok
    else s

/-- The token page holds the last 16,384 token ids of the context as UINT32 (R150); the id at context position i stands at entry i modulo
16,384 (log 127). -/
def State.tokenPage (s : State) (ctx : Nat) : State :=
  match s.ctx? ctx with
  | none => s
  | some c =>
    match c.session.pages.getLast? with
    | none => s
    | some pg =>
      let ts := c.session.tokens
      let lo := ts.length - 16384
      ((ts.drop lo).zipIdx).foldl (fun s x => s.hbmWriteN c.tenant (65536 * pg + 4 * ((lo + x.2) % 16384)) (leBytes 4 x.1)) s

/-- The context's tokens after a change, in the Ledger and in the token page. -/
def State.setTokens (s : State) (ctx : Nat) (ts : List Nat) (len : Nat) : State :=
  (s.updSession ctx fun x => { x with tokens := ts, length := len }).tokenPage ctx

def State.tokensOf (s : State) (ctx : Nat) : List Nat := ((s.ctx? ctx).map (·.session.tokens)).getD []

/-- A request leaves its session: its duration is measured (R186) and the session's idle time starts. -/
def State.endRequest (s : State) (ctx : Nat) : State :=
  match s.ctx? ctx with
  | none => s
  | some c =>
    let d := match c.session.req with | some r => s.since r.startAt | none => 0
    (s.updSession ctx fun x => { x with req := none, idleAt := s.now }).updPart c.part fun p =>
      { p with running := removeNat p.running ctx, durations := (s.now, d) :: p.durations.filter fun q => decide (s.now ≤ q.1 + tMs 100) }

/-- The closing record of a cancelled request; the context returns to its length at the request's start (R158). -/
def State.closeCancelled (s : State) (ctx : Nat) (r : Request) : State × List Rel :=
  let s := ((s.setTokens ctx ((s.tokensOf ctx).take r.startLen) r.startLen).updSession ctx fun x => { x with cancelled := sat32 x.cancelled 1 }).endRequest ctx
  (s, [{ r := s.itemRec r.item 5 St.cancelled (4 * 2 ^ 6) true (stepBody [] r.startLen), item := r.item }])

/-- A running request ends abnormally with one record (R156, R166): the context length is the position after the last token that a record
of it released, or its length at the request's start (log 34). -/
def State.abortReq (s : State) (status : Nat) (perMember : Bool) (ctx : Nat) : State × List Rel :=
  match s.ctx? ctx with
  | none => (s, [])
  | some c =>
    match c.session.req with
    | none => (s, [])
    | some r =>
      if r.item.cancelled then s.closeCancelled ctx r
      else
        let len := if r.firstGiven then c.session.length else r.startLen
        let s := (s.setTokens ctx ((s.tokensOf ctx).take len) len).endRequest ctx
        (s, [{ r := s.itemRec r.item 5 status (6 * 2 ^ 6) true (stepBody [] len), item := r.item, perMember }])

/-- Runs a list of session operations and gathers their records. -/
def gather (f : State → Nat → State × List Rel) : State → List Nat → State × List Rel
  | s, [] => (s, [])
  | s, c :: t =>
    let (s1, a) := f s c
    let (s2, b) := gather f s1 t
    (s2, a ++ b)

/-! ## A session's step at the boundary point (R153-R155, R163) -/

/-- Counters over released records (R165). -/
def Session.count (c : Session) (x : Step) : Session :=
  { c with steps := sat64 c.steps 1, tokensOut := sat64 c.tokensOut x.toks.length, drafted := sat64 c.drafted x.drafted, accepted := sat64 c.accepted x.accepted }

/-- The context after a step: `tokens` with the delivered ones. -/
def State.commitStep (s : State) (st : StepSlot) (r : Request) (tokens : List Nat) (x : Step) (withheld : Bool) : State × List Rel :=
  let all := tokens ++ x.toks
  let s := (s.setTokens st.ctx all all.length).updSession st.ctx fun c =>
    { c with req := some { r with delivered := r.delivered + x.toks.length, firstGiven := r.firstGiven || !x.toks.isEmpty } }
  if r.item.cancelled then
    if x.fin == 0 then (s, []) else s.closeCancelled st.ctx r
  else
    let recs := if withheld then [] else (s.stepRecs st.item x).zipIdx.map fun q =>
      ({ r := q.1, item := r.item, judge := q.2 == 0 && !r.firstGiven && !x.toks.isEmpty, lead := if q.2 == 0 then st.item.leadPseq else none } : Rel)
    let s := if withheld then s else s.updSession st.ctx fun c => c.count x
    (if x.fin == 0 then s else s.endRequest st.ctx, recs)

/-- One slot of a step batch. On a Twin Standby a session that has not joined releases nothing (R282). -/
def State.stepSlot (s : State) (vocab : Nat) (st : StepSlot) : State × List Rel :=
  match s.ctx? st.ctx with
  | none => (s, [])
  | some c =>
    match c.session.req with
    | none => (s, [])
    | some r =>
      let withheld := s.twin.role == 2 && !c.session.joined
      let toks := c.session.tokens ++ r.prefillLeft.take st.chunk
      let rest := r.prefillLeft.drop st.chunk
      let r' := { r with prefillLeft := rest }
      if !r.prefillLeft.isEmpty && (!rest.isEmpty || r.prefillOnly) then
        s.commitStep st r' toks { prefill := true, fin := if rest.isEmpty then 7 else 0, pos := toks.length } withheld
      else
        let k := if r.prefillLeft.isEmpty then st.kStep else 0
        let out := sampleStep st c.session r.sampling vocab toks k
        let (ts, fin) := cutTokens r.sampling.stop r.maxNew c.session.maxContext r.delivered toks.length out.toks
        let s := if r.prefillLeft.isEmpty then s.updSession st.ctx fun x => x.noteStep k out.accepted else s
        let c' := ((s.ctx? st.ctx).map (·.session)).getD c.session
        s.commitStep st r' toks { toks := ts, fin, accepted := out.accepted, drafted := k, nonfinite := out.nonfinite, suspended := c'.suspendDue || (c'.suspended && c'.suspendLeft != 0), prefill := !r.prefillLeft.isEmpty, pos := toks.length } withheld

def State.stepSlots (s : State) (vocab : Nat) : List StepSlot → State × List Rel
  | [] => (s, [])
  | x :: t =>
    let (s1, a) := s.stepSlot vocab x
    let (s2, b) := s1.stepSlots vocab t
    (s2, a ++ b)

/-! ## KV pages (R150, R151) -/

/-- The Pier of each reserved page, in the order of the session's page list. -/
def ServeRec.pagePiers (q : ServeRec) (p : Part) (m : Nat) : List Nat :=
  let pier (i : Nat) : Nat := p.piers.getD (i % p.piers.length) 0
  ((List.range q.kvStreams).map fun i => List.replicate (q.mainPages m) (pier i)).flatten ++
    ((List.range q.dkvStreams).map fun i => List.replicate (q.draftPages m) (pier i)).flatten ++ [pier 0]

/-- KV pages of a tenant that its sessions hold. -/
def State.kvUsed (s : State) (t : Nat) : List Nat := ((s.ctxs.filter fun c => c.2.tenant == t).map fun c => c.2.session.pages).flatten

/-- Free KV pages of a tenant on a Pier, lowest first: 32 to each frame that pages are cut from. -/
def State.kvFree (s : State) (t pier : Nat) (used : List Nat) : List Nat :=
  ((s.mem.kvFrames.filter fun f => f.1 == t && (match s.frameOf t f.2 with | some g => g / pierFrames == pier | none => false)).map fun f =>
    ((List.range 32).map fun i => f.2 * 32 + i).filter fun pg => !used.contains pg).flatten

/-- Free frames of one Pier (R108). -/
def State.pierFree (s : State) (pier : Nat) : Nat :=
  if (s.pier pier).retired then 0
  else
    pierFrames - sysFrames - (s.mem.frames.filter fun f => f.2 / pierFrames == pier).length -
      (s.mem.badFrames.filter fun f => f / pierFrames == pier && !(s.mem.frames.any fun p => p.2 == f)).length

/-- Maps `n` more frames of a Pier for a tenant's KV pages. -/
def State.kvMap (s : State) (t pier : Nat) : Nat → Option State
  | 0 => some s
  | n + 1 =>
    match s.allocPages t 1 fun _ => some pier with
    | none => none
    | some (pg, s1) => { s1 with mem.kvFrames := s1.mem.kvFrames ++ [(t, pg)] }.kvMap t pier n

/-- Maps what each Pier lacks; answers how many frames were mapped. -/
def State.kvRoom (s : State) (t : Nat) (want : List Nat) : List Nat → Option (State × Nat)
  | [] => some (s, 0)
  | p :: ps =>
    let need := (want.filter (· == p)).length
    let more := ceilDiv (need - (s.kvFree t p (s.kvUsed t)).length) 32
    if s.pierFree p < more then none
    else
      match s.kvMap t p more with
      | none => none
      | some s1 => (s1.kvRoom t want ps).map fun q => (q.1, q.2 + more)

/-- Takes one free page for each entry of the list, from the entry's Pier. -/
def takePages (free : Tbl (List Nat)) : List Nat → List Nat
  | [] => []
  | p :: t =>
    match free.get [] p with
    | pg :: rest => pg :: takePages (free.set p rest) t
    | [] => takePages free t

/-- R151: reserves the whole page need, or nothing. -/
def State.kvReserve (s : State) (t : Nat) (want : List Nat) : Option (State × List Nat × Nat) :=
  if s.quotaLeft t < 65536 * want.length then none
  else
    match s.kvRoom t want ((List.range 4).filter want.contains) with
    | none => none
    | some (s1, n) =>
      let free : Tbl (List Nat) := (List.range 4).map fun p => (p, s1.kvFree t p (s1.kvUsed t))
      some (s1.useQuota t (65536 * want.length), takePages free want, n)

/-! ## Serving commands (R165) -/

/-- The context a command names, of a group and of the issuing tenant. -/
def State.ctxFor (s : State) (q : Req) (group : Nat) : Option Ctx :=
  match s.ctx? (q.u16 0) with
  | none => none
  | some c => if c.group == group && (match q.vf with | some v => c.tenant == v | none => true) then some c else none

def openSession (q : Req) (pages : List Nat) (now : Tick) (x : Session) : Session :=
  { x with specMode := q.u8 2, draftLen := q.u8 3, k := q.u8 3, maxContext := q.u32 4, pauseMs := q.u32 8, seed := BitVec.ofNat 64 (q.u64 0x10), length := 0, tokens := [], pages, suspended := false, suspendLeft := 0, window := [], idleAt := now, joined := false }

def State.srvOpen (s : State) (q : Req) : State × Resp :=
  match s.ctxFor q 7 with
  | none => (s, failR St.badArg)
  | some c =>
    match s.part? c.part with
    | none => (s, failR St.badArg)
    | some p =>
      match s.serveOf p with
      | none => (s, failR St.badArg)
      | some v =>
        if 2 < q.u8 2 || (q.u8 2 != 0 && v.draftMax != 0 && !btwN 1 (q.u8 3) v.draftMax) || !btwN 64 (q.u32 4) v.maxContext || 86400000 < q.u32 8 then (s, failR St.badArg)
        else if s.held (2, q.u16 0) then (s, failR St.busy)
        else if q.u8 2 != 0 && v.draftMax == 0 then (s, failR St.incompatible)
        else
          match s.kvReserve c.tenant (v.pagePiers p (q.u32 4)) with
          | none => (s, failR St.noResource)
          | some (s1, pages, n) =>
            if c.session.state == 1 || c.session.state == 2 then (s, failR St.refused 1)
            else
              let pay := leBytes 4 pages.length ++ leBytes 4 0
              let s2 := s1.updSession (q.u16 0) (openSession q pages s.now)
              if n == 0 then (s2.updSession (q.u16 0) fun x => { x with state := 1 }, okR pay)
              else
                let (s3, a) := s2.accept q (.mapFrames (q.u16 0))
                (s3, { a with payload := pay })
where
  btwN (lo x hi : Nat) : Bool := decide (lo ≤ x) && decide (x ≤ hi)

def execSrvOpen (m : Mb) (s : State) : Out := .next (s.mbRun m 0x0701 true (lenIs 24 [(0xC, 4)]) State.srvOpen)

/-- R110: the zeros are written; the open command ends and its context takes work. -/
def execFrameMappingDone (op : Nat) (s : State) : Out :=
  .next (match s.op? op with
    | some ⟨_, _, code, _, .mapFrames ctx⟩ =>
      if s.up then
        let s := s.updCtx ctx fun c =>
          if code == 0x0701 then { c with session.state := 1, session.idleAt := s.now } else { c with codec.state := if code == 0x0601 then 1 else 2 }
        s.finishOp op St.ok
      else s
    | _ => s)

def f32In (lo hi w : W32) : Bool := fge w lo && fge hi w

def Req.w32 (q : Req) (o : Nat) : W32 := BitVec.ofNat 32 (q.u32 o)

/-- TEMPERATURE 0, or 0.01 to 100; TOP_P above 0, to 1; MIN_P 0 to 1; REPETITION 1 to 10; PRESENCE -10 to 10. -/
def samplingOk (q : Req) : Bool :=
  decide (q.u16 2 ≤ 1024) && (q.u32 4 == 0 || q.u32 4 == 0x80000000 || f32In 0x3C23D70A#32 0x42C80000#32 (q.w32 4)) && flt 0 (q.w32 8) && f32In 0 0x3F800000#32 (q.w32 8) &&
    f32In 0 0x3F800000#32 (q.w32 0xC) && f32In 0x3F800000#32 0x41200000#32 (q.w32 0x10) && f32In 0xC1200000#32 0x41200000#32 (q.w32 0x14) && decide (q.u16 0x18 ≤ 4096) && decide (q.u8 0x1A ≤ 8)

def samplingOf (q : Req) : Sampling :=
  { topK := q.u16 2, temperature := q.w32 4, topP := q.w32 8, minP := q.w32 0xC, repetition := q.w32 0x10, presence := q.w32 0x14, window := q.u16 0x18, stop := (List.range (q.u8 0x1A)).map fun i => q.u32 (0x20 + 4 * i) }

def State.srvSampling (s : State) (q : Req) : State × Resp :=
  match s.ctxFor q 7 with
  | none => (s, failR St.badArg)
  | some _ =>
    if !samplingOk q then
      (s, failR St.badArg)
    else if s.held (2, q.u16 0) then (s, failR St.busy)
    else
      (s.updSession (q.u16 0) fun x => { x with sampling := samplingOf q }, okR [])

def execSrvSampling (m : Mb) (s : State) : Out := .next (s.mbRun m 0x0702 true (lenIs 64 [(0x1B, 5)]) State.srvSampling)

def State.srvPause (s : State) (q : Req) : State × Resp :=
  match s.ctxFor q 7 with
  | none => (s, failR St.badArg)
  | some c =>
    if s.held (2, q.u16 0) then (s, failR St.busy)
    else if c.session.state != 1 then (s, failR St.refused 1)
    else if c.session.req.isNone && c.queue.isEmpty then (s.pauseNow (q.u16 0) false, okR [])
    else (s.updSession (q.u16 0) fun x => { x with state := 2 }).accept q (.srvPause (q.u16 0))

def execSrvPause (m : Mb) (s : State) : Out := .next (s.mbRun m 0x0703 true (lenIs 4 [(2, 2)]) State.srvPause)

/-- R157: Open with no admitted or running work for PAUSE_TIMEOUT_MS. -/
def execSessionPauseTimeout (ctx : Nat) (s : State) : Out :=
  .next (match s.ctx? ctx with
    | none => s
    | some c =>
      let x := c.session
      if s.up && c.group == 7 && x.state == 1 && x.pauseMs != 0 && x.req.isNone && c.queue.isEmpty && decide (tMs x.pauseMs ≤ s.since x.idleAt) then s.pauseNow ctx true
      else s)

/-- Admitted requests of a session that have not ended: the running one, then the queued ones. -/
def Ctx.requests (c : Ctx) : List Item := (c.session.req.map (·.item)).toList ++ c.queue

def State.srvCancel (s : State) (q : Req) : State × Resp :=
  match s.ctxFor q 7 with
  | none => (s, failR St.badArg)
  | some c =>
    let hit (i : Item) : Bool := q.u8 2 == 1 || i.seq == q.u32 4
    let n := (c.requests.filter hit).length
    if 1 < q.u8 2 || (q.u8 2 == 0 && n == 0) then (s, failR St.badArg)
    else if s.held (2, q.u16 0) then (s, failR St.busy)
    else
      let mark (i : Item) : Item := if hit i then { i with cancelled := true } else i
      (s.updCtx (q.u16 0) fun c => { c with queue := c.queue.map mark, session.req := c.session.req.map fun r => { r with item := mark r.item } }, okR (leBytes 2 n ++ [0, 0]))

def execSrvCancel (m : Mb) (s : State) : Out := .next (s.mbRun m 0x0704 true (lenIs 8 [(3, 1)]) State.srvCancel)

/-- Pages that hold a position of the context. -/
def pagesUsed (v : ServeRec) (len : Nat) : Nat :=
  if len == 0 then 0
  else v.kvStreams * ceilDiv len (65536 / v.kvUnit) + (if v.dkvUnit == 0 then 0 else v.dkvStreams * ceilDiv len (65536 / v.dkvUnit)) + 1

def State.srvQuery (s : State) (q : Req) : State × Resp :=
  match s.ctxFor q 7 with
  | none => (s, failR St.badArg)
  | some c =>
    let x := c.session
    let used := match (s.part? c.part).bind s.serveOf with | some v => pagesUsed v x.length | none => 0
    (s, okR (leBytes 1 x.state ++ leBytes 1 x.specMode ++ leBytes 1 x.draftNow ++ [0] ++ leBytes 2 x.suspendLeft ++ [0, 0] ++ leBytes 4 x.length ++ leBytes 4 x.pages.length ++
      leBytes 4 used ++ leBytes 4 x.cancelled ++ leBytes 8 x.steps ++ leBytes 8 x.tokensOut ++ leBytes 8 x.drafted ++ leBytes 8 x.accepted ++ leBytes 4 x.suspensions ++ leBytes 4 x.timeoutPauses))

def execSrvQuery (m : Mb) (s : State) : Out := .next (s.mbRun m 0x0705 true (lenIs 4 [(2, 2)]) State.srvQuery)

end Sys2Proof.Machine
end

