-- ==== Sys2Proof/Machine/Lead.lean ====
section
/-! DEFINITION. What a Twin Primary sends about its jobs (R280-R282): leads with their entries, and the grants of a join. -/

namespace Sys2Proof.Machine

/-- Originates a twin packet to the partner. -/
def State.sendTwin (s : State) (type : Nat) (payload : List Byte) : State :=
  match s.partner with
  | some q => s.sendRouted { s.newPacket q type with payload }
  | none => s

def entryBytes (e : LeadEntry) : List Byte :=
  leBytes 2 e.ctx ++ leBytes 1 e.item ++ leBytes 1 e.disp ++ leBytes 4 e.seq ++ leBytes 4 e.pseq ++ leBytes 4 e.arg

/-- A lead of at most 255 entries a packet, all with the same JOB; it counts once in LEADS. -/
def State.sendLead (s : State) (part job : Nat) (es : List LeadEntry) : State :=
  let s := { s with twin.leads := sat64 s.twin.leads 1 }
  (chunksOf 255 (es.length + 1) es).foldl
    (fun s c => if c.isEmpty then s else s.sendTwin 0x31 (leBytes 2 part ++ leBytes 2 c.length ++ leBytes 8 job ++ leBytes 4 0 ++ (c.map entryBytes).flatten)) s

/-- The Primary leads the jobs of a partition from its grant on, and Trowel pictures once the partner joins (R282). -/
def State.leadsPart (s : State) (p : Part) : Bool := s.twin.role == 1 && p.granted
def State.leadsTrowel (s : State) : Bool := s.twin.role == 1 && (s.twin.partner == 1 || s.twin.partner == 2)

/-- Records of a context that wait for a host copy. -/
def State.copyRecs (s : State) (ctx : Nat) : Nat := sumNat (s.mem.copies.map fun h => (h.recs.filter fun r => r.ctx == ctx).length)

/-- PSEQ of the `n`-th record that a context releases from now on, counted from 0. -/
def State.pseqAt (s : State) (ctx n : Nat) : Nat :=
  (List.range (n + 1 + s.copyRecs ctx)).foldl (fun p _ => nextPseq p) (((s.ctx? ctx).map (·.pseq)).getD 0)

/-- Entries of items that each release one record, in order. -/
def State.itemEntries (s : State) : List Nat → List Item → List LeadEntry
  | _, [] => []
  | seen, i :: t =>
    ⟨i.ctx, i.index, 0, i.seq, s.pseqAt i.ctx (seen.filter (· == i.ctx)).length, 0⟩ :: s.itemEntries (i.ctx :: seen) t

/-- Drops what is past its shed age on a resource, and gives the shed entries of the coming lead (R193, R281). -/
def State.shedLed (s : State) (r : Res) : State × List LeadEntry :=
  if s.twin.role == 2 then (s, [])
  else
    ((s.queuedOn r).filter fun i => match s.ctx? i.ctx with | some c => s.sheddable c i | none => false).foldl
      (fun a i =>
        let s := a.1.shedItem i 0
        (s, a.2 ++ [⟨i.ctx, i.index, 1, i.seq, ((s.ctx? i.ctx).map (·.pseq)).getD 0, 0⟩])) (s, [])

/-! ## Joining (R282) -/

/-- NEXT_PSEQ and NEXT_EXPORT_SEQ of a context. -/
def State.grantEntry (s : State) (c : Nat × Ctx) : List Byte :=
  let e := match c.2.exportId.bind s.fab.exports.find? with | some x => x.seq | none => 1
  leBytes 2 c.1 ++ [0, 0] ++ leBytes 4 (s.pseqAt c.1 0) ++ leBytes 6 e ++ [0, 0]

/-- TWIN_JOIN_GRANT for the contexts of a partition, or of the Trowel pool under PART_ID 0xFFFF. -/
def State.sendGrant (s : State) (part : Nat) (cs : List (Nat × Ctx)) : State :=
  (chunksOf 255 (cs.length + 1) cs).foldl
    (fun s c => s.sendTwin 0x33 (leBytes 2 part ++ leBytes 2 c.length ++ (c.map s.grantEntry).flatten))
    (if cs.isEmpty then s.sendTwin 0x33 (leBytes 2 part ++ leBytes 2 0) else s)

/-- The join completes on the Primary when every partition has been granted. -/
def State.joinDone (s : State) : State :=
  if s.twin.role == 1 && s.twin.partner == 1 && s.parts.all (fun p => p.2.granted) then
    { s with twin.partner := 2 }.post 0x0D82 0 0 (leBytes 1 (s.partner.getD 0xFF))
  else s

/-- At a partition's boundary point a joining partner is granted it. -/
def State.grantPart (s : State) (pid : Nat) : State :=
  match s.part? pid with
  | none => s
  | some p =>
    if s.twin.role == 1 && s.twin.partner == 1 && !p.granted then
      ((s.sendGrant pid (s.ctxsOn (some pid))).updPart pid fun p => { p with granted := true }).joinDone
    else s

end Sys2Proof.Machine
end

