-- ==== Sys2Proof/Machine/Batch.lean ====
section
/-! DEFINITION. Starting a job of a partition: the conditions, a vision batch (R144, R145, R191), a serving step (R152-R154), the lead a
Standby follows (R281), a restart (R262), and the Chisels' preload (R80). -/

namespace Sys2Proof.Machine

/-! ## Conditions and preload -/

/-- The partition may start a job: the module runs it, its plan is bound, its tiles and Piers are in service and awake. -/
def State.canStart (s : State) (p : Part) : Bool :=
  s.up && (s.power.phase == 1 || (s.power.phase == 3 && s.power.shutStep == 1)) && p.job.isNone && p.plan.isSome && p.state != 3 && !p.lost && !p.powering &&
    !s.power.hold && !s.therm.quench && s.power.safeHoldReq.isNone && (match p.heldUntil with | some t => decide (t ≤ s.now) | none => true) &&
    p.courses.all (fun c => (s.course c).power != 0 && (s.course c).waking.isNone && !(s.course c).gone && (List.range 4).all fun b => !(s.unit 12 (c * 4 + b)).testing) &&
    p.piers.all fun q => (s.pier q).powered && !(s.pier q).resetting && !(s.pier q).retired

/-- The section of a type that serves a partition size (R95). -/
def Plan.sectionFor (pl : Plan) (type k : Nat) : List Byte :=
  ((List.find? (fun x : Section => x.type == type && selServes x.sizeSel k) pl.sections).map (·.bytes)).getD []

/-- Offset within the plan's region of the batch input area: BASE of the HBM tensor that the first streamed layer reads; not stated
where no layer names it (log 36). -/
def State.inputBase (s : State) (p : Part) (pl : Plan) : Nat :=
  let t := (s.geoOf p).findSome? fun g => match g with
    | .layer l => if l.streamed then (pl.tensor p.sizeLog2 l.inTensor).bind fun t => if t.space == 2 then some t.base else none else none
    | _ => none
  t.getD (Config.unstated 3 [p.plan.getD 0] % max 1 pl.hbmBytes)

/-- Registers of slot `n` at a batch start (R80, R97); the base of the output area is not stated (log 36). -/
def State.preload (s : State) (p : Part) (pl : Plan) (seq n : Nat) : Chisel :=
  let tab := pl.sectionFor 2 p.sizeLog2
  let g : Tbl W64 := [(1, BitVec.ofNat 64 n), (2, BitVec.ofNat 64 p.size), (3, BitVec.ofNat 64 seq)] ++
    (List.range 12).map fun i => (4 + i, BitVec.ofNat 64 (field tab (208 * n + 8 * i) 8))
  let a : Tbl Nat := [(0, 0x100000000000 + s.inputBase p pl), (1, 0x100000000000 + Config.unstated 3 [p.plan.getD 0, 1] % max 1 pl.hbmBytes)] ++
    (List.range 14).map fun i => (2 + i, field tab (208 * n + 96 + 8 * i) 6)
  { g, a }

/-- A job starts: every Chisel takes its preload, the Courses run. -/
def State.startJob (s : State) (pid : Nat) (j : Job) : State :=
  match s.part? pid, (s.part? pid).bind s.planOf with
  | some p, some pl =>
    let ring := ((s.visionOf p).map (·.ringDepth)).getD 0
    let s1 := s.updPart pid fun p =>
      { p with job := some { j with start := s.now }, again := none, state := 2, ordinal := j.ordinal, chisels := (List.range p.size).map fun n => (n, s.preload p pl j.seq n), sems := [], waits := [], sinceBoundary := 0, progress4 := 0, heldUntil := none, wokenAt := none, busyAt := s.now, nextBand := 0, credits := (List.range p.nCourses).map fun k => (k, ring) }
    p.courses.foldl (fun s c => s.updCourse c fun k => { k with power := 2, busyAt := s.now }) s1
  | _, _ => s

def emptyJob (ordinal : Nat) : Job :=
  { slots := [], steps := [], failed := [], outs := [], run := 1, marked := false, planErr := none, closed := false, ordinal, start := 0 }

/-! ## Vision batches -/

def imgBytes (v : VisionRec) : Nat := ceilDiv (v.inW * v.inH * v.inC * elemBits v.inFmt) 8

/-- CODEC_CTX of a VIS_CODEC item. -/
def Item.codecCtx (i : Item) : Nat := field i.args 12 2 % 2 ^ 14
def Item.rowBand (i : Item) : Bool := i.kind == 0x0503 && bitOf i.dflags 1

/-- The decode context that a VIS_CODEC item names, of its tenant. -/
def State.codecOf (s : State) (i : Item) : Option Ctx :=
  match s.ctx? i.codecCtx with
  | none => none
  | some c => if c.group == 6 && c.tenant == i.tenant && c.codec.state == 1 then some c else none

/-- Pictures of a codec context that batches now read. -/
def State.picsTaken (s : State) (codec : Nat) : List Nat :=
  (s.parts.map fun p => ((p.2.job.toList ++ p.2.again.toList).map fun j => j.slots.filterMap fun x =>
    match x with | some i => if i.kind == 0x0503 && i.codecCtx == codec then i.pic else none | none => none).flatten).flatten

/-- Pictures that await the vision consumer, in output order. -/
def State.picsFree (s : State) (codec : Nat) : List Nat :=
  match s.ctx? codec with
  | none => []
  | some c => (c.codec.pics.filter fun q => q.needVision && !q.dropped && !(s.picsTaken codec).contains q.order).map (·.order)

/-- Queued images that a slot could take: a VIS_CODEC image needs its decoded picture, and later images of its context wait behind it
(R145). -/
def State.readyItems (s : State) : List Nat → List Nat → List Item → List Item
  | _, _, [] => []
  | blocked, taken, i :: t =>
    if blocked.contains i.ctx then s.readyItems blocked taken t
    else if i.kind != 0x0503 || (s.codecOf i).isNone then i :: s.readyItems blocked taken t
    else if (taken.filter (· == i.codecCtx)).length < (s.picsFree i.codecCtx).length then i :: s.readyItems blocked (i.codecCtx :: taken) t
    else s.readyItems (i.ctx :: blocked) taken t

/-- A descriptor that fails its checks when its work starts (R144). -/
def State.badVision (s : State) (v : VisionRec) (i : Item) : Bool :=
  i.dflags / 4 != 0 || (bitOf i.dflags 1 && i.kind != 0x0503) || field i.args 14 2 != 0 ||
    (if i.kind == 0x0503 then (s.codecOf i).isNone || field i.args 10 2 != 0 || i.addr != 0 || i.length != 0
      else field i.args 10 2 != v.inW || field i.args 12 2 != v.inH || i.length != i.count * imgBytes v) ||
    (!bitOf i.dflags 0 && !s.hbmMapped i.tenant (field i.args 0 8) (16384 * i.count))

/-- Forms the batch; a failing descriptor takes no slot. Answers the batch and the failed images. -/
def State.formLoop (s : State) (v : VisionRec) (g : Nat) : Nat → List Item → List Item → List Item × List Item
  | 0, _, f => ([], f)
  | n + 1, q, f =>
    let b := formBatch q v.batch g
    match List.find? (fun i : Item => i.index == 0 && s.badVision v i) b with
    | none => (b, f)
    | some i =>
      let same (x : Item) : Bool := x.ctx == i.ctx && x.seq == i.seq
      s.formLoop v g n (q.filter fun x => !same x) (f ++ q.filter same)

/-- Gives each VIS_CODEC image of a batch the next picture of its codec context. -/
def State.givePics (s : State) : List Nat → List Item → List Item
  | _, [] => []
  | used, i :: t =>
    if i.kind == 0x0503 then
      let n := (used.filter (· == i.codecCtx)).length
      { i with pic := (s.picsFree i.codecCtx)[n]? } :: s.givePics (i.codecCtx :: used) t
    else i :: s.givePics used t

/-- Counts a displacement (R191, R194). -/
def State.displace (s : State) (i : Item) : State :=
  (s.updCtx i.ctx fun c =>
    { c with displaced := sat32 c.displaced 1, queue := c.queue.map fun q => if q.order == i.order then { q with displaced := q.displaced + 1 } else q }).loss i.ctx i.seq 3 0 i.index

def State.takeItems (s : State) (is : List Item) : State := is.foldl (fun s i => s.unqueue i) s

/-- The Facing unit that converts for a Pier's partitions (R264). -/
def State.facingPier (s : State) (p : Nat) : Nat := if (s.pier p).facingRetired then p ^^^ 1 else p

def State.pushFacing (s : State) (p : Part) (j : FacingJob) : State :=
  s.updPier (s.facingPier (p.piers.headD 0)) fun q => { q with facing := q.facing ++ [j] }

/-- The row-band ring feeds the batch: some image of it comes as bands (R139). -/
def ringFed (v : VisionRec) (slots : List (Option Item)) : Bool := v.ringDepth != 0 && slots.any fun x => match x with | some i => i.rowBand | none => false

/-- Brings the image of a slot to the batch input area (R139, R144, R145): from tenant HBM, from the host, by a Facing conversion, or zeros
for an unfilled slot, which a ring-fed batch also receives as zero bands (log 125). -/
def State.placeImage (s : State) (pid : Nat) (p : Part) (pl : Plan) (v : VisionRec) (fresh ring : Bool) (x : Option Item × Nat) : State :=
  let dst := pl.regionOff + s.inputBase p pl + x.2 * imgBytes v
  match x.1 with
  | none =>
    let s := if ring then s.pushFacing p { part := pid, slot := x.2, codec := 0, pic := 0, conv := true, zero := true } else s
    if fresh then s.hbmWriteN p.tenant dst (List.replicate (imgBytes v) 0) else s
  | some i =>
    if i.kind == 0x0503 then s.pushFacing p { part := pid, slot := x.2, codec := i.codecCtx, pic := i.pic.getD 0, conv := false }
    else if !fresh then s
    else
      let a := i.addr + i.index * imgBytes v
      s.hbmWriteN p.tenant dst (if i.kind == 0x0502 then s.hostReadN a (imgBytes v) else s.hbmReadN i.tenant a (imgBytes v))

def State.placeImages (s : State) (pid : Nat) (p : Part) (pl : Plan) (v : VisionRec) (fresh : Bool) (slots : List (Option Item)) : State :=
  slots.zipIdx.foldl (fun s x => s.placeImage pid p pl v fresh (ringFed v slots) x) s

/-- VIS_PARAMS values in force for the batch's contexts (R146, R147). -/
def State.latchVision (s : State) (ctxs : List Nat) (partialStart : Bool) : State :=
  ctxs.foldl (fun s c => s.updCtx c fun x =>
    { x with visionRun := x.vision, vision.partialBatches := if partialStart then sat32 x.vision.partialBatches 1 else x.vision.partialBatches }) s

/-- Facing settings in force for the batch (R183, R184). -/
def State.latchFacing (s : State) (pid : Nat) (slots : List (Option Item)) : State :=
  slots.foldl (fun s x => match x with
    | some i => if i.kind == 0x0503 then s.updCtx i.codecCtx fun c => { c with codec.facingRun := c.codec.facingRun.set pid c.codec.facing } else s
    | none => s) s

/-- Records of failed descriptors where no batch starts (R144). -/
def State.failNow (s : State) (is : List Item) : State :=
  s.releaseGroup (is.map fun i => { r := s.plainRec i St.badArg false, item := i, lead := i.leadPseq })

/-- Starts a vision batch with given slots. -/
def State.startVision (s : State) (pid : Nat) (p : Part) (pl : Plan) (v : VisionRec) (ordinal : Nat) (slots : List (Option Item)) (failed : List Item) : State :=
  let slots := (slots ++ List.replicate (v.batch - slots.length) none).take v.batch
  let ctxs := (slots.filterMap fun x => x.map (·.ctx)).dedup
  let s := (s.latchVision ctxs (slots.any Option.isNone)).updPart pid fun r => { r with results := [] }
  let s := (s.latchFacing pid slots).placeImages pid p pl v true slots
  (s.hbmTouch (p.piers.headD 0)).startJob pid { emptyJob ordinal with slots, failed }

/-- Forms and starts the next batch of a vision partition from its queues. -/
def State.formVision (s : State) (pid : Nat) (p : Part) (pl : Plan) (v : VisionRec) : State :=
  let (s, shedEs) := s.shedLed (some pid)
  let q := s.readyItems [] [] (s.queuedOn (some pid))
  let g := s.guardSlots pid pl.boundaryUs (s.partD p)
  let (b, failed) := s.formLoop v g (q.length + 1) q []
  let moved := displacedBy (formBatch (q.filter fun i => !i.displacing && !failed.any fun f => f.order == i.order) v.batch g) b
  let s := (moved.foldl (fun s i => s.displace i) s).takeItems (b ++ failed)
  let leads := s.leadsPart p
  if b.isEmpty then
    let s := if leads && !(shedEs.isEmpty && failed.isEmpty) then s.sendLead pid p.ordinal (shedEs ++ s.itemEntries [] failed) else s
    s.failNow failed
  else
    let s := if leads then s.sendLead pid (p.ordinal + 1) (shedEs ++ s.itemEntries [] (b ++ failed)) else s
    s.startVision pid p pl v (p.ordinal + 1) ((s.givePics [] b).map some) failed

/-- R145: the oldest queued image has waited its context's FILL_US. -/
def State.fillDue (s : State) (q : List Item) : Bool :=
  match q with
  | [] => false
  | i :: _ => match s.ctx? i.ctx with | some c => decide (tUs c.vision.fillUs ≤ s.now - i.decided) | none => false

def State.visionDue (s : State) (pid : Nat) (v : VisionRec) : Bool :=
  let q := s.readyItems [] [] (s.queuedOn (some pid))
  decide (v.batch ≤ q.length) || q.any (fun i => i.cls == 0 && !i.excess) || s.fillDue q

/-! ## Serving steps -/

/-- The token ids of a request's source (R152). -/
def State.reqTokens (s : State) (i : Item) : List Nat :=
  let bs := if bitOf i.dflags 0 then s.hbmReadN i.tenant i.addr i.length else s.hostReadN i.addr i.length
  (List.range (i.length / 4)).map fun k => field bs (4 * k) 4

/-- The checks at a request's start (R44, R152). -/
def State.reqOk (s : State) (q : ServeRec) (c : Session) (i : Item) : Bool :=
  i.length % 4 == 0 && decide (4 ≤ i.length) && decide (i.length ≤ 524288) && decide (i.dflags < 4) && (bitOf i.dflags 1 || btw 1 (field i.args 0 4) 131072) && field i.args 4 12 == 0 && (!bitOf i.dflags 0 || s.hbmMapped i.tenant i.addr i.length) &&
    (s.reqTokens i).all (fun t => decide (t < q.vocab)) && decide (c.length + i.length / 4 ≤ c.maxContext - 1)

/-- Starts a request of a session, or ends it with one BAD_ARG record, or the closing record of a cancelled one (R158), the context unchanged. -/
def State.startRequest (s : State) (pid : Nat) (q : ServeRec) (i : Item) : State :=
  match s.ctx? i.ctx with
  | none => s
  | some c =>
    let s1 := s.unqueue i
    if s.reqOk q c.session i then
      (s1.updSession i.ctx fun x =>
        { x with req := some { item := i, startLen := x.length, prefillLeft := s.reqTokens i, maxNew := field i.args 0 4, prefillOnly := bitOf i.dflags 1, delivered := 0, firstGiven := false, sampling := x.sampling, startAt := s.now } }).updPart pid fun p =>
        { p with running := p.running ++ [i.ctx] }
    else if i.cancelled then ((s1.setPseq i.ctx i.leadPseq).closeMarked i).tryPause i.ctx
    else ((s1.setPseq i.ctx i.leadPseq).release (s1.itemRec i 5 St.badArg (6 * 2 ^ 6) false (s1.emptyStep i.ctx)) []).tryPause i.ctx

/-- The request that may start next: in class order, then in admission order; Bulk and Idle only while the free slots exceed the unused
Guard sessions' slots (R191). -/
def State.nextRequest (s : State) (pid : Nat) (q : ServeRec) : Option Item :=
  match s.part? pid with
  | none => none
  | some p =>
    let free := q.maxBatch - p.running.length
    let unused := ((s.ctxsOn (some pid)).filter fun c => c.2.cls == 0 && c.2.session.state == 1 && c.2.session.req.isNone).length
    let heads := (s.ctxsOn (some pid)).filterMap fun c => if c.2.session.req.isNone && (c.2.session.state == 1 || c.2.session.state == 2) then c.2.queue.head? else none
    let sorted := sortBy (fun a b : Item => decide (a.eff < b.eff) || (a.eff == b.eff && decide (a.order ≤ b.order))) heads
    List.find? (fun i : Item => if i.eff < 2 then decide (0 < free) else decide (unused < free)) sorted

def State.startRequests (s : State) (pid : Nat) (q : ServeRec) : Nat → State
  | 0 => s
  | n + 1 =>
    match s.nextRequest pid q with
    | none => s
    | some i => (s.startRequest pid q i).startRequests pid q n

def State.prefilling (s : State) (ctx : Nat) : List Nat := (((s.ctx? ctx).bind (·.session.req)).map (·.prefillLeft)).getD []

/-- Chunks for the prefilling sessions, in slot order, while they fit the room (R154): session and tokens. -/
def State.chunks (s : State) (chunk : Nat) : Nat → List Nat → List (Nat × Nat)
  | _, [] => []
  | room, c :: t =>
    let n := min chunk (s.prefilling c).length
    if room < n then [] else (c, n) :: s.chunks chunk (room - n) t

/-- The step batch of R154: session, draft length and chunk. -/
def State.stepBatch (s : State) (q : ServeRec) (slots : List Nat) : List (Nat × Nat × Nat) :=
  let dec := slots.filter fun c => (s.prefilling c).isEmpty
  let pre := slots.filter fun c => !(s.prefilling c).isEmpty
  let budget := q.stepTokens - dec.length - (if pre.isEmpty then 0 else q.chunk)
  let k (c : Nat) : Nat := min (((s.ctx? c).map fun x => x.session.draftNow).getD 0) (budget / dec.length)
  let room := q.stepTokens - sumNat (dec.map fun c => 1 + k c)
  let ch := s.chunks q.chunk room pre
  slots.filterMap fun c =>
    if (s.prefilling c).isEmpty then some (c, k c, 0)
    else (List.find? (fun x : Nat × Nat => x.1 == c) ch).map fun x => (c, 0, x.2)

def State.mkSlot (s : State) (x : Nat × Nat × Nat) (lead : Option Nat) : Option StepSlot :=
  ((s.ctx? x.1).bind (·.session.req)).map fun r => ⟨x.1, { r.item with leadPseq := lead }, x.2.1, x.2.2, []⟩

/-- ARG of a serving entry: k_step, prefill flag, chunk tokens (R280). -/
def stepArg (x : StepSlot) : Nat := x.kStep + boolN (x.chunk != 0) * 2 ^ 5 + x.chunk * 2 ^ 6

/-- Due suspensions and resumptions of a partition's sessions (R164). -/
def State.dueSpec (s : State) (pid : Nat) : State :=
  (s.ctxNums (some pid)).foldl (fun s c => s.updSession c fun x => x.suspend.resume) s

def State.formServe (s : State) (pid : Nat) (q : ServeRec) : State :=
  let (s, shedEs) := s.shedLed (some pid)
  let s := (s.ctxNums (some pid)).foldl (fun s c => s.tryPause c) s
  let s := (s.dueSpec pid).startRequests pid q ((s.queuedOn (some pid)).length + 1)
  match s.part? pid with
  | none => s
  | some p =>
    let steps := (s.stepBatch q p.running).filterMap fun x => s.mkSlot x none
    let leads := s.leadsPart p
    if steps.isEmpty then (if leads && !shedEs.isEmpty then s.sendLead pid p.ordinal shedEs else s)
    else
      let es := steps.map fun x => (⟨x.ctx, 0, 0, x.item.seq, s.pseqAt x.ctx 0, stepArg x⟩ : LeadEntry)
      let s := if leads then s.sendLead pid (p.ordinal + 1) (shedEs ++ es) else s
      s.startJob pid { emptyJob (p.ordinal + 1) with steps }

/-! ## Following a lead (R281, R282) -/

/-- R281 rule 3: queued items older than the oldest led one of their context are dropped without a record. -/
def State.skipOlder (s : State) (es : List LeadEntry) : State :=
  es.foldl (fun s e =>
    match s.ctx? e.ctx with
    | none => s
    | some c =>
      let oldest := (es.filter fun x => x.ctx == e.ctx).foldl (fun a x => if seqNewer (some x.seq) a then x.seq else a) e.seq
      let old := c.queue.filter fun i => seqNewer (some i.seq) oldest
      { s.takeItems old with twin.skipped := sat32 s.twin.skipped old.length }) s

def State.ledItem (s : State) (e : LeadEntry) : Option Item :=
  match s.ctx? e.ctx with
  | none => none
  | some c => (List.find? (fun i : Item => i.seq == e.seq && (i.kind == 0x0701 || i.index == e.item)) c.queue).map fun i => { i with leadPseq := some e.pseq }

def State.countAbsent (s : State) : State := { s with twin.absent := sat32 s.twin.absent 1 }

/-- An entry with DISP 1 sheds its item under the lead's PSEQ. -/
def State.ledShed (s : State) (e : LeadEntry) : State :=
  match s.ledItem e with
  | some i => (s.setPseq e.ctx (some e.pseq)).shedItem i 0
  | none => s.countAbsent

def State.ledVision (s : State) (v : VisionRec) : List LeadEntry → List (Option Item) → List Item → State × List (Option Item) × List Item
  | [], slots, failed => (s, slots, failed)
  | e :: t, slots, failed =>
    match s.ledItem e with
    | none => s.countAbsent.ledVision v t (slots ++ [none]) failed
    | some i =>
      let s := s.unqueue i
      if s.badVision v i then s.ledVision v t slots (failed ++ [i]) else s.ledVision v t (slots ++ [some i]) failed

/-- One serving entry: a running request goes on, a queued one starts; a session that has not joined drops its leads until its own
prefill of the history has ended (R282; log 37). -/
def State.ledServe (s : State) (pid : Nat) (q : ServeRec) (e : LeadEntry) : State × Option StepSlot :=
  match s.ctx? e.ctx with
  | none => (s.countAbsent, none)
  | some c =>
    let k := bitsOf e.arg 4 0
    let ch := if bitOf e.arg 5 then bitsOf e.arg 18 6 else 0
    match c.session.req with
    | some r =>
      if c.session.joined && r.item.seq == e.seq then (s, s.mkSlot (e.ctx, k, ch) (some e.pseq))
      else ({ s with twin.unjoined := sat32 s.twin.unjoined 1 }, none)
    | none =>
      match s.ledItem e with
      | none => (s.countAbsent, none)
      | some i =>
        if c.session.joined || (c.session.state == 1 && c.session.length != 0) then
          let s := (s.updSession e.ctx fun x => { x with joined := true }).startRequest pid q i
          (s, s.mkSlot (e.ctx, k, ch) (some e.pseq))
        else ({ s with twin.unjoined := sat32 s.twin.unjoined 1 }, none)

def State.ledServes (s : State) (pid : Nat) (q : ServeRec) : List LeadEntry → State × List StepSlot
  | [] => (s, [])
  | e :: t =>
    let (s1, x) := s.ledServe pid q e
    let (s2, r) := s1.ledServes pid q t
    (s2, x.toList ++ r)

/-- A Standby's own prefills of the history: PREFILL_ONLY requests of sessions that have not joined. -/
def State.ownPrefills (s : State) (pid : Nat) (q : ServeRec) : State :=
  ((s.ctxsOn (some pid)).filter fun c => !c.2.session.joined && c.2.session.req.isNone && c.2.session.state == 1).foldl
    (fun s c => match c.2.queue.head? with
      | some i => if bitOf i.dflags 1 then s.startRequest pid q i else s
      | none => s) s

def State.ownSteps (s : State) (pid : Nat) (q : ServeRec) (room : Nat) : List StepSlot :=
  let own := ((s.part? pid).map (·.running)).getD [] |>.filter fun c => match s.ctx? c with | some x => !x.session.joined | none => false
  (s.chunks q.chunk room own).filterMap fun x => s.mkSlot (x.1, 0, x.2) none

/-- Starts the job of the oldest waiting lead. -/
def State.startLead (s : State) (pid : Nat) (p : Part) (pl : Plan) (ld : Lead) : State :=
  let s := s.updPart pid fun p => { p with leads := p.leads.drop 1 }
  let s := (ld.entries.filter fun e => e.disp == 1).foldl (fun s e => s.ledShed e) s
  let run := ld.entries.filter fun e => e.disp != 1
  let s := s.skipOlder run
  if run.isEmpty then s
  else
    match s.visionOf p, s.serveOf p with
    | some v, _ =>
      let (s, slots, failed) := s.ledVision v run [] []
      let b := s.givePics [] (slots.filterMap id)
      let slots := (slots.foldl (fun (a : List (Option Item) × List Item) x => match x with
        | none => (a.1 ++ [none], a.2)
        | some _ => (a.1 ++ [a.2.head?], a.2.drop 1)) ([], b)).1
      if slots.isEmpty then s.failNow failed else s.startVision pid p pl v ld.job slots failed
    | none, some q =>
      let (s, steps) := s.ledServes pid q run
      let s := s.ownPrefills pid q
      let steps := steps ++ s.ownSteps pid q (q.stepTokens - sumNat (steps.map fun x => 1 + x.kStep + x.chunk))
      if steps.isEmpty then s else s.startJob pid { emptyJob ld.job with steps }
    | none, none => s

/-! ## Restart and start -/

/-- R262: a marked job starts again, before any other job, with the same items and from the same inputs. -/
def State.restartJob (s : State) (pid : Nat) (p : Part) (pl : Plan) (j : Job) : State :=
  let c := p.courses.headD 0
  let s := (s.updPartCtr pid fun k => { k with restarts := sat32 k.restarts 1 }).postT 0x0A05 2 c
    (leBytes 2 pid ++ leBytes 1 j.run ++ [0] ++ leBytes 4 j.seq) { action := 1, part := pid }
  let s := { s with flt.restarts := sat32 s.flt.restarts 1 }
  let s := match s.visionOf p with
    | some v => s.placeImages pid p pl v false j.slots
    | none => s
  s.startJob pid { j with marked := false, planErr := none, outs := [], steps := j.steps.map fun x => { x with logits := [] } }

/-- The partition's next job, where it may start and its start is due (R145, R154, R262, R281). -/
def State.startDue (s : State) (pid : Nat) : State :=
  match s.part? pid with
  | none => s
  | some p =>
    match s.planOf p with
    | none => s
    | some pl =>
      if !s.canStart p then s
      else
        match p.again, p.leads with
        | some j, _ => s.restartJob pid p pl j
        | none, ld :: _ => s.startLead pid p pl ld
        | none, [] =>
          match s.visionOf p, s.serveOf p with
          | some v, _ => if s.twin.role != 2 && s.visionDue pid v then s.formVision pid p pl v else s
          | none, some q =>
            if s.twin.role != 2 then s.formServe pid q
            else
              let s := s.ownPrefills pid q
              let steps := s.ownSteps pid q q.stepTokens
              if steps.isEmpty then s else s.startJob pid { emptyJob p.ordinal with steps }
          | none, none => s

def execBatchStart (part : Nat) (s : State) : Out := .next (s.startDue part)

/-- R145: the oldest queued image has waited the context's FILL_US, and a partial batch starts. -/
def execBatchFillTimeout (part : Nat) (s : State) : Out :=
  .next (match s.part? part with
    | none => s
    | some p =>
      match s.planOf p, s.visionOf p with
      | some pl, some v =>
        if s.canStart p && p.again.isNone && p.leads.isEmpty && s.twin.role != 2 && s.fillDue (s.readyItems [] [] (s.queuedOn (some part))) then
          s.formVision part p pl v
        else s
      | _, _ => s)

end Sys2Proof.Machine
end

