-- ==== Sys2Proof/Machine/Context.lean ====
section
/-! DEFINITION. Ledger contexts: removal and rebinding as they take effect (R16, R197, R199), and the context commands (R185, R187, R197,
R198). -/

namespace Sys2Proof.Machine

/-! ## Removal and rebinding -/

def Job.hasCtx (j : Job) (n : Nat) : Bool :=
  j.slots.any (fun x => match x with | some i => i.ctx == n | none => false) || j.steps.any (fun x => x.ctx == n) || j.failed.any fun i => i.ctx == n

/-- An item of the context is in a running batch, step or picture, or one of a codec context's pictures is: it stays until the batch's
boundary point (R26). -/
def State.ctxRunning (s : State) (n : Nat) : Bool :=
  s.parts.any (fun p => (p.2.job.toList ++ p.2.again.toList).any fun j => j.hasCtx n) || !(s.picsTaken n).isEmpty ||
    (List.range 16).any fun k => match (s.core k).busy with | some (c, _) => c == n | none => false

/-- VIS_CODEC images that name a codec context which goes, not yet placed in a batch (R147). -/
def State.refuseImages (s : State) (codec : Nat) : State :=
  s.endAllQueued (fun i => i.kind == 0x0503 && i.codecCtx == codec) St.refused

/-- The context leaves the Ledger: its pages, pool and quota return, its slot and export end, and CTX_REMOVE gives its final OK. -/
def State.dropCtx (s : State) (n : Nat) : State :=
  match s.ctx? n with
  | none => s
  | some c =>
    let s := if c.group == 6 then (s.refuseImages n).freePages c.tenant (c.codec.poolOff / 2 ^ 21) c.codec.poolPages else s
    let s := s.giveQuota c.tenant (65536 * c.session.pages.length + 2 ^ 21 * c.codec.poolPages)
    let s := s.updPart c.part fun p => { p with running := removeNat p.running n }
    let s := match c.exportId with
      | some e => { s with fab.exports := s.fab.exports.del e }
      | none => s
    let s := { s with
      ctxs := s.ctxs.del n
      host.slotBind := s.host.slotBind.filter fun b => b.2 != n
      mem.copies := s.mem.copies.filter fun h => !(h.recs.any fun r => r.ctx == n)
      trowel.again := s.trowel.again.filter fun a => a.1 != n }
    (s.finishOps (fun k => match k with | .srvPause m => m == n | _ => false) St.cancelled).finishOps
      (fun k => match k with | .ctxRemove m => m == n | _ => false) St.ok

/-- A CTX_REBIND takes effect: the context and its queue move. -/
def State.rebindNow (s : State) (n : Nat) : State :=
  match s.ctx? n with
  | none => s
  | some c =>
    match c.rebind with
    | none => s
    | some d =>
      let run := c.session.req.isSome
      let s := s.updPart c.part fun p => { p with running := removeNat p.running n }
      let s := if run then s.updPart d fun p => { p with running := p.running ++ [n] } else s
      let s := (s.updCtx n fun c => { c with part := d, rebind := none }).contextEvent n 2 []
      let s := if run || !c.queue.isEmpty then s.wakeCourses d else s
      s.finishOps (fun k => match k with | .ctxRebind m _ => m == n | _ => false) St.ok

/-! ## CTX_CREATE -/

/-- A context of the issuing tenant, or of any on the PF. -/
def State.ownCtx (s : State) (q : Req) : Option Ctx :=
  match s.ctx? (q.u16 0) with
  | none => none
  | some c => if (match q.vf with | some v => c.tenant == v | none => true) then some c else none

/-- Tenant of a request: on a VF the issuing one. -/
def Req.tenant (q : Req) : Nat := q.vf.getD (q.u8 0)

/-- Values a context may have: QUEUE, RATE, BURST, DEADLINE_US. -/
def queueOk (n : Nat) : Bool := decide (1 ≤ n) && decide (n ≤ 4096)
def rateOk (n : Nat) : Bool := decide (1 ≤ n) && decide (n ≤ 1000000000)
def deadlineOk (n : Nat) : Bool := (decide (1 ≤ n) && decide (n ≤ 60000000)) || n == 0xFFFFFFFF

/-- The partition fits the group: exists for the tenant, its plan or, when EMPTY, its contexts are of the group. -/
def State.partFits (s : State) (q : Req) (t : Nat) : Bool :=
  if q.u8 1 == 6 then q.u16 4 == 0xFFFF
  else
    match s.part? (q.u16 4) with
    | none => false
    | some p =>
      p.tenant == t && match s.planOf p with
        | some pl => pl.group == q.u8 1
        | none => (s.boundCtxs (q.u16 4)).all fun c => c.2.group == q.u8 1

def createOk (q : Req) : Bool :=
  [5, 6, 7].contains (q.u8 1) && decide (q.u8 2 ≤ 3) && decide (q.u8 3 ≤ 3) && queueOk (q.u16 6) && rateOk (q.u32 8) && queueOk (q.u16 0xC) && deadlineOk (q.u32 0x10) &&
    (q.u32 0x18 == 0 || (q.u8 1 == 6 && q.u8 2 == 0))

def newCtx (q : Req) (t slot born : Nat) (now : Tick) : Ctx :=
  let burst := if q.u8 2 == 0 then 1 else q.u16 0xC
  { tenant := t, group := q.u8 1, cls := q.u8 2, ring := q.u8 3, part := q.u16 4, queueMax := q.u16 6, rate := q.u32 8, burst, deadlineUs := q.u32 0x10, shedAgeUs := q.u32 0x14, coreUs := q.u32 0x18, slot, bucket := burst * tokenUnit, bucketAt := now, born }

/-- Binds a new context, unless Guard checks fail. -/
def State.addCtx (s : State) (q : Req) (t n slot : Nat) : State × Resp :=
  let born := (s.ctxs.map fun c => c.2.born).foldl max 0 + 1
  let c := newCtx q t slot born s.now
  let s1 := { s with ctxs := s.ctxs.set n c, host.slotBind := if slot == 0xFFFF then s.host.slotBind else s.host.slotBind.set (t * 768 + slot) n }
  match (if c.cls == 0 then s1.guardCheck c.res else none) with
  | some d => (s, failR St.refused d)
  | none =>
    let g := match (s1.part? c.part).bind s1.planOf, (s1.part? c.part).bind s1.visionOf with
      | some pl, some _ => if c.group == 5 then s1.guardSlots c.part pl.boundaryUs 1 else 0
      | _, _ => 0
    (s1, okR (leBytes 2 n ++ leBytes 2 slot ++ leBytes 2 g ++ [0, 0]))

def State.ctxCreate (s : State) (q : Req) : State × Resp :=
  let t := q.tenant
  if q.vf.isSome && q.u8 2 == 0 then (s, failR St.notPermitted)
  else
    match s.tenantErr t with
    | some e => (s, failR e)
    | none =>
      if !createOk q || !s.partFits q t then (s, failR St.badArg)
      else if q.u8 1 != 6 && s.held (1, q.u16 4) then (s, failR St.busy)
      else if q.u8 1 == 6 && decide (4096 ≤ (s.ctxs.filter fun c => c.2.group == 6).length) then (s, failR St.noResource)
      else
        match leastBelow 16384 fun n => !s.ctxs.has n with
        | none => (s, failR St.noResource)
        | some n =>
          match q.vf with
          | none => s.addCtx q t n 0xFFFF
          | some v =>
            match leastBelow 768 fun k => !s.host.slotBind.has (v * 768 + k) with
            | none => (s, failR St.noResource)
            | some k => s.addCtx q t n k

def execCtxCreate (m : Mb) (s : State) : Out := .next (s.mbRun m 0x0301 true (lenIs 28 [(0xE, 2)]) State.ctxCreate)

/-! ## CTX_REMOVE, CTX_SET, CTX_REBIND -/

/-- Queued items go without a record; while an item runs, the context stays until the boundary that ends it. A pause that waits does not keep a
session (R148). -/
def State.ctxRemove (s : State) (q : Req) : State × Resp :=
  let n := q.u16 0
  match s.ownCtx q with
  | none => (s, failR St.badArg)
  | some _ =>
    if s.heldFor (2, n) then (s, failR St.busy)
    else
      let s := (s.updCtx n fun c => { c with queue := [], removing := true }).quietFrom n
      if s.ctxRunning n then s.accept q (.ctxRemove n) else (s.dropCtx n, okR [])

def execCtxRemove (m : Mb) (s : State) : Out := .next (s.mbRun m 0x0302 true (lenIs 4 [(2, 2)]) State.ctxRemove)

def setOk (q : Req) : Bool :=
  (q.u8 2 == 0xFF || decide (q.u8 2 ≤ 3)) && (q.u32 4 == 0 || rateOk (q.u32 4)) && (q.u16 8 == 0 || queueOk (q.u16 8)) && (q.u16 0xA == 0 || queueOk (q.u16 0xA)) &&
    (q.u32 0xC == 0 || deadlineOk (q.u32 0xC))

/-- A context with new values; the bucket is clipped to a lower BURST at once, which is 1 for Guard. -/
def Ctx.setBy (c : Ctx) (q : Req) (now : Tick) : Ctx :=
  let keep (d v k : Nat) : Nat := if v == k then d else v
  let c := c.settle now
  let cls := keep c.cls (q.u8 2) 0xFF
  let burst := if cls == 0 then 1 else keep c.burst (q.u16 8) 0
  { c with cls, rate := keep c.rate (q.u32 4) 0, burst, queueMax := keep c.queueMax (q.u16 0xA) 0, deadlineUs := keep c.deadlineUs (q.u32 0xC) 0, shedAgeUs := keep c.shedAgeUs (q.u32 0x10) 0xFFFFFFFF, bucket := min c.bucket (burst * tokenUnit) }

def State.ctxSet (s : State) (q : Req) : State × Resp :=
  let n := q.u16 0
  if q.vf.isSome && q.u8 2 == 0 then (s, failR St.notPermitted)
  else
    match s.ownCtx q with
    | none => (s, failR St.badArg)
    | some c =>
      if !setOk q then (s, failR St.badArg)
      else if s.held (2, n) then (s, failR St.busy)
      else
        let s1 := s.updCtx n fun c => c.setBy q s.now
        match (if (c.setBy q s.now).cls == 0 then s1.guardCheck c.res else none) with
        | some d => (s, failR St.refused d)
        | none => (s1, okR [])

def execCtxSet (m : Mb) (s : State) : Out := .next (s.mbRun m 0x0303 true (lenIs 20 [(3, 1)]) State.ctxSet)

/-- DIGEST of a plan image (R95). -/
def Plan.digest (p : Plan) : List Byte := slice p.header 0x40 48

def State.ctxRebind (s : State) (q : Req) : State × Resp :=
  let n := q.u16 0
  match s.ownCtx q, s.part? (q.u16 2) with
  | some c, some d =>
    if c.group == 6 || d.tenant != c.tenant then (s, failR St.badArg)
    else if s.held (2, n) || s.held (1, q.u16 2) then (s, failR St.busy)
    else if (match s.planOf d, (s.part? c.part).bind s.planOf with | some a, some b => a.digest != b.digest | _, _ => true) then (s, failR St.incompatible)
    else
      match (if c.cls == 0 then (s.updCtx n fun c => { c with part := q.u16 2 }).guardCheck (some (q.u16 2)) else none) with
      | some e => (s, failR St.refused e)
      | none =>
        let (s1, a) := (s.updCtx n fun c => { c with rebind := some (q.u16 2) }).accept q (.ctxRebind n (q.u16 2))
        let idle := match s.part? c.part with | some p => p.lost || (p.job.isNone && p.again.isNone) | none => true
        (if idle then s1.rebindNow n else s1, a)
  | _, _ => (s, failR St.badArg)

def execCtxRebind (m : Mb) (s : State) : Out := .next (s.mbRun m 0x0304 true (lenIs 4 []) State.ctxRebind)

/-! ## CTX_QUERY, CTX_SHEDLOG -/

def State.ctxQuery (s : State) (q : Req) : State × Resp :=
  match s.ownCtx q with
  | none => (s, failR St.badArg)
  | some c =>
    let lost := match c.res.bind s.part? with | some p => p.lost | none => false
    let bucket := unsigned 32 (c.tokens s.now / 25000000)
    (s, okR (leBytes 1 c.group ++ leBytes 1 c.cls ++ leBytes 2 c.part ++ leBytes 2 c.queue.length ++ leBytes 1 (boolN lost) ++ [0] ++ leBytes 4 bucket ++ leBytes 4 0 ++
      leBytes 8 c.admitted ++ leBytes 8 c.deferred ++ leBytes 8 c.refused ++ leBytes 4 c.late ++ leBytes 4 c.shed ++ leBytes 4 c.displaced ++ leBytes 4 c.guardExcess))

def execCtxQuery (m : Mb) (s : State) : Out := .next (s.mbRun m 0x0305 true (lenIs 4 [(2, 2)]) State.ctxQuery)

/-- A loss-log entry (R194). -/
def lossBytes (l : Loss) : List Byte := leBytes 4 l.seq ++ leBytes 1 l.kind ++ leBytes 1 l.reason ++ leBytes 1 l.item ++ [0] ++ leBytes 8 l.time

def State.ctxShedlog (s : State) (q : Req) : State × Resp :=
  match s.ownCtx q with
  | none => (s, failR St.badArg)
  | some c =>
    let es := (c.losses.drop (q.u8 2)).take 14
    (s, okR (leBytes 4 c.lossTotal ++ leBytes 1 es.length ++ leBytes 3 0 ++ (es.map lossBytes).flatten))

def execCtxShedlog (m : Mb) (s : State) : Out := .next (s.mbRun m 0x0306 true (lenIs 4 [(3, 1)]) State.ctxShedlog)

end Sys2Proof.Machine
end

