-- ==== Sys2Proof/Machine/PlanCmd.lean ====
section
/-! DEFINITION. Plan-image commands (R98, R100, R101, R136) and failed host reads (R354). -/

namespace Sys2Proof.Machine

/-! ## PLAN_LOAD -/

/-- PLAN_ID of the next image accepted for loading. -/
def State.nextPlan (s : State) : Nat := if s.lastPlan + 1 < 2 ^ 32 then s.lastPlan + 1 else 1

def State.planLoad (s : State) (q : Req) : State × Resp :=
  match s.tenantErr (q.u8 0) with
  | some e => (s, failR e)
  | none =>
    if q.u64 8 % 4096 != 0 || q.u64 0x10 < 128 || 2 ^ 40 < q.u64 0x10 then (s, failR St.badArg)
    else
      let id := s.nextPlan
      let (s, a) := { s with lastPlan := id }.accept q (.planLoad id (q.u8 0) (q.u64 8) (q.u64 0x10))
      (s, { a with payload := leBytes 4 id })

def execPlanLoad (m : Mb) (s : State) : Out := .next (s.mbRun m 0x0401 false (lenIs 24 [(1, 7)]) State.planLoad)

/-- A failed host read of an internal channel: BAD_ARG with the channel error code, and AER (R354). -/
def State.readFailed (s : State) (op code : Nat) : State := { s with host.aer := code :: s.host.aer }.finishOp op St.badArg code

/-- Active version of a role; an absent bank stands for version 2.3.0 at epoch 0 (log 10). -/
def State.activeImage (s : State) (role : Nat) : Image :=
  s.fw.active.getD role { role, version := 0x02030000, epoch := 0, length := 1, digest := List.replicate 48 0, compat := List.replicate 5 (0, 0xFFFFFFFF), verified := true }

/-- Active Mason version (R309). -/
def State.masonVersion (s : State) : Nat := (s.activeImage 0).version

/-- Check 8 of R98 and the placing of an image: image pages, then region pages, with the weights in the region (R108; log 32). -/
def State.placePlan (s : State) (pl : Plan) (b : List Byte) : Option (Plan × State) :=
  let ni := pagesOf b.length
  let nr := pagesOf pl.hbmBytes
  let bytes := (ni + nr) * 2 ^ 21
  if s.quotaLeft pl.tenant < bytes || 256 ≤ s.plans.length then none
  else
    match s.allocPages pl.tenant ni (fun _ => none) with
    | none => none
    | some (pi, s1) =>
      match s1.allocPages pl.tenant nr (pagePier (tensorsFor pl.sections ((maskSizes pl.sizeMask).head?.getD 0))) with
      | none => none
      | some (pr, s2) =>
        let s3 := (s2.hbmWriteN pl.tenant (pi * 2 ^ 21) b).hbmWriteN pl.tenant (pr * 2 ^ 21) ((weightBytes pl.sections).take pl.hbmBytes)
        some ({ pl with imageOff := pi * 2 ^ 21, regionOff := pr * 2 ^ 21 }, s3.useQuota pl.tenant bytes)

def State.loadImage (s : State) (op id tenant : Nat) (b : List Byte) : State :=
  if !s.tenantOpen tenant then s.finishOp op St.tenantClosed
  else
    match checkImage s.masonVersion s.broup b with
    | some (.status st) => s.finishOp op st
    | some (.geometry i d a) =>
      (s.post 0x0501 9 tenant (leBytes 2 i ++ leBytes 1 d ++ leBytes 1 a)).finishOp op St.badGeometry d
    | none =>
      match s.placePlan (mkPlan tenant b ((secEnts b).map (secOf b))) b with
      | none => s.finishOp op St.noResource
      | some (pl, s1) => { s1 with plans := s1.plans.set id pl }.finishOp op St.ok

/-- HBM stacks that the image and the region of a loaded plan lie in. -/
def State.planStacks (s : State) (id : Nat) : List Nat :=
  match s.plan? id with
  | none => []
  | some pl => s.spanStacks pl.tenant pl.imageOff pl.length ++ s.spanStacks pl.tenant pl.regionOff pl.hbmBytes

/-- The image has been read from host memory, or its read failed. The transfer to HBM waits in a Hold, in a Quench and for a stopped stack
(R111, R123, R249). -/
def execPlanLoadComplete (op : Nat) (rd : HostRead) (s : State) : Out :=
  .next (match s.op? op with
    | none => s
    | some o =>
      match o.kind with
      | .planLoad id t a n =>
        if s.therm.quench then s
        else
          match rd with
          | .ok =>
            if !s.hbmServes ((s.loadImage op id t (s.hostReadN a n)).planStacks id) then s
            else s.intDone (.op op) fun s =>
              let s := s.loadImage op id t (s.hostReadN a n)
              s.touchStacks (s.planStacks id)
          | .err c => s.intDone (.op op) fun s => s.readFailed op c
      | _ => s)

/-- R354 for PLAN_LOAD, FW_STAGE and PROFILE_WRITE: nothing of the read is kept. -/
def execInternalReadFail (op code : Nat) (s : State) : Out :=
  .next (match s.op? op with
    | none => s
    | some o =>
      match o.kind with
      | .planLoad _ _ _ _ => s.intDone (.op op) fun s => s.readFailed op code
      | .fwStage area _ _ => s.intDone (.op op) fun s => { s with fw.staged := s.fw.staged.del area }.readFailed op code
      | .profileWrite _ _ => s.intDone (.op op) fun s => s.readFailed op code
      | _ => s)

/-! ## PLAN_BIND, PLAN_UNLOAD, PLAN_INFO -/

/-- R101 on the first PLAN_BIND of a partition with contexts: their GROUP, and then the Guard checks under the new plan. -/
def State.planBindGo (s : State) (p pl : Nat) : State × Resp :=
  let s1 := s.updPart p fun r => { r with plan := some pl, state := 1, ordinal := 0 }
  match s1.guardCheck (some p) with
  | some d => (s, failR St.refused (0x10 + d))
  | none => (s1, okR [])

def State.planBind (s : State) (q : Req) : State × Resp :=
  match s.part? (q.u16 0), s.plan? (q.u32 4) with
  | some r, some pl =>
    let bound := s.boundCtxs (q.u16 0)
    if r.tenant != pl.tenant then (s, failR St.notPermitted)
    else if s.held (1, q.u16 0) then (s, failR St.busy)
    else if !bitOf pl.sizeMask r.sizeLog2 || (r.plan.isNone && bound.any fun c => c.2.group != pl.group) then (s, failR St.incompatible)
    else if !sizeFits pl.sramBytes pl.cbufBytes pl.semaphores r.sizeLog2 then (s, failR St.noResource)
    else if r.plan.isSome && !bound.isEmpty then (s, failR St.refused 2)
    else s.planBindGo (q.u16 0) (q.u32 4)
  | _, _ => (s, failR St.badArg)

def execPlanBind (m : Mb) (s : State) : Out := .next (s.mbRun m 0x0402 false (lenIs 8 [(2, 2)]) State.planBind)

def State.planBound (s : State) (id : Nat) : Nat := (s.parts.filter fun q => q.2.plan == some id).length

/-- The image and its region leave the tenant's space and quota. -/
def State.dropPlan (s : State) (id : Nat) : State :=
  match s.plan? id with
  | none => s
  | some pl =>
    let ni := pagesOf pl.length
    let nr := pagesOf pl.hbmBytes
    let s := (s.freePages pl.tenant (pl.imageOff / 2 ^ 21) ni).freePages pl.tenant (pl.regionOff / 2 ^ 21) nr
    { s.giveQuota pl.tenant ((ni + nr) * 2 ^ 21) with plans := s.plans.del id }

def State.planUnload (s : State) (q : Req) : State × Resp :=
  if !s.plans.has (q.u32 0) then (s, failR St.badArg)
  else if s.planBound (q.u32 0) != 0 then (s, failR St.refused 3)
  else (s.dropPlan (q.u32 0), okR [])

def execPlanUnload (m : Mb) (s : State) : Out := .next (s.mbRun m 0x0403 false (lenIs 4 []) State.planUnload)

def State.planInfo (s : State) (q : Req) : State × Resp :=
  match s.plan? (q.u32 0) with
  | none => (s, failR St.badArg)
  | some pl => (s, okR (slice pl.header 0 64 ++ slice pl.header 0x40 48 ++ leBytes 1 pl.tenant ++ leBytes 1 (s.planBound (q.u32 0)) ++ [0, 0]))

def execPlanInfo (m : Mb) (s : State) : Out := .next (s.mbRun m 0x0404 false (lenIs 4 []) State.planInfo)

end Sys2Proof.Machine
end

