-- ==== Sys2Proof/Machine/Removal.lean ====
section
/-! DEFINITION. Steps 2 to 4 of a tenant's removal (R299): what must land, the drain of the fabric (R215, R216), and the tear-down. Each
step begins when the one before it has ended; steps that Mason carries out wait through its pause (R307). -/

namespace Sys2Proof.Machine

def Part.ofTenant (p : Part) (t : Nat) : Bool := p.tenant == t

/-- Jobs, pictures, host-channel sets and host copies of a tenant that have not ended (step 2). -/
def State.tenantBusy (s : State) (t : Nat) : Bool :=
  s.parts.any (fun p => p.2.ofTenant t && p.2.job.isSome) ||
    (List.range 16).any (fun k => match (s.core k).busy with | some b => b.2.1.tenant == t | none => false) ||
    (List.range 16).any (fun c => (s.chan c).holdsTenant t) || s.mem.copies.any fun h => h.tenant == t

/-- Modules of the profile with a usable route: their DRAIN_ACK is waited for. -/
def State.mustAck (s : State) : List Nat :=
  match s.fw.profile with
  | none => []
  | some f => (f.routes.map Prod.fst).filter fun d => d != s.ownId && (s.routesTo d).any fun r => s.routeOk d r

/-- Ports in use. -/
def State.usablePorts (s : State) : List Nat := (List.range 12).filter fun p => portUsable (s.port p).state

def Import.key (i : Import) : Nat × Nat × Nat := (i.origin, i.srcCtx, i.srcTenant)

/-- A DRAIN packet, which floods hop by hop; it carries the epoch that it drains, the one before the increment (log 39). -/
def State.drainPacket (s : State) (t id : Nat) : Packet :=
  { s.newPacket s.ownId 0x10 with tenant := t, epoch := s.fab.epochs.get 0 t, payload := leBytes 4 id }

/-- Operations on a tenant's objects that have not ended. -/
def State.opOfTenant (s : State) (t : Nat) (k : OpKind) : Bool :=
  let ctx (n : Nat) : Bool := match s.ctx? n with | some c => c.tenant == t | none => false
  let part (n : Nat) : Bool := match s.part? n with | some p => p.tenant == t | none => false
  match k with
  | .partCreate p _ => part p
  | .planLoad _ n _ _ => n == t
  | .ctxRebind c _ => ctx c
  | .mapFrames c => ctx c
  | .srvPause c => ctx c
  | .vidFlush c => ctx c
  | .attest _ v _ _ => v == some t
  | _ => false

/-- Step 4: contexts, partitions, plans, rings, pages and pools go; bound VF slots hold the closed binding. The frames stay the tenant's
until they are scrubbed. -/
def State.tearDown (s : State) (t : Nat) : State :=
  let frames := s.mem.frames
  let hbm := s.mem.hbm
  let slots := (s.host.slotBind.filter fun b => b.1 / 768 == t).map Prod.fst
  let s := s.finishOps (s.opOfTenant t) St.tenantClosed
  let s := ((s.ctxs.filter fun c => c.2.tenant == t).map Prod.fst).foldl (fun s n => s.dropCtx n) s
  let s := ((s.parts.filter fun p => p.2.tenant == t).map Prod.fst).foldl (fun s n =>
    (s.removePart n).finishOps (fun k => match k with | .partDestroy m => m == n | _ => false) St.ok) s
  let s := ((s.plans.filter fun p => p.2.tenant == t).map Prod.fst).foldl (fun s n => s.dropPlan n) s
  let s := (List.range 4).foldl (fun s i => s.ringOff t i) s
  let s := { s with mem.frames := frames, mem.hbm := hbm, host.slotBind := slots.foldl (fun b k => b.set k 16384) s.host.slotBind }
  s.updTenant t fun r => { r with step := 5, scrubMib := 2 * (frames.filter fun p => p.1 / 2 ^ 28 == t).length }

/-- Step 4 begins, where Mason runs. -/
def State.tearDue (s : State) (t : Nat) : State :=
  match s.sec.tenants.find? t with
  | some r => if r.step == 4 && !s.mason.paused then s.tearDown t else s
  | none => s

/-- The fabric step ends. -/
def State.drainOver (s : State) (t : Nat) : State :=
  ({ s with fab.steps := s.fab.steps.del t }.updTenant t fun r => { r with step := 4 }).tearDue t

/-- Step 3: exports are unbound, the epoch advances, a DRAIN goes out on every port in use, imports are unbound. -/
def State.drainBegin (s : State) (t : Nat) : State :=
  let id := if s.fab.drainId + 1 < 2 ^ 32 then s.fab.drainId + 1 else 1
  let mine := s.fab.exports.filter fun e => match s.ctx? e.2.ctx with | some c => c.tenant == t | none => false
  let s := mine.foldl (fun s e => { s with fab.exports := s.fab.exports.del e.1 }.updCtx e.2.ctx fun c => { c with exportId := none }) s
  let p := s.drainPacket t id
  let s := { s with fab.epochs := s.fab.epochs.set t ((s.fab.epochs.get 0 t + 1) % 256), fab.drainId := id, fab.seen := (s.ownId, id) :: s.fab.seen }
  let s := s.usablePorts.foldl (fun s k => s.sendLocal k p) s
  let gone := s.fab.imports.filter fun i => i.2.tenant == t
  let s := { s with
    fab.imports := s.fab.imports.filter fun i => i.2.tenant != t
    fab.closed := gone.map (fun (i : Nat × Import) => i.2.key) ++ s.fab.closed
    fab.steps := s.fab.steps.set t (id, s.mustAck, s.now) }
  let s := s.updTenant t fun r => { r with step := 3 }
  if s.mustAck.isEmpty then s.drainOver t else s

/-- Removals whose step 2 has ended go on. -/
def State.landDue (s : State) : State :=
  (s.sec.tenants.filter fun r => r.2.state == 2 && r.2.step == 2).foldl (fun s r => if s.tenantBusy r.1 then s else s.drainBegin r.1) s

end Sys2Proof.Machine
end

