-- ==== Sys2Proof/Machine/Boundary.lean ====
section
/-! DEFINITION. Boundary points (R17-R21, R25, R26, R262, R263): the drained partition, its job's end in each way the manual gives, the
records, what falls due, and the next job. -/

namespace Sys2Proof.Machine

/-! ## Records of a vision batch (R146, R147) -/

def visionDetail (o : ImageOut) (index : Nat) : Nat :=
  o.boxes % 2 ^ 11 + boolN o.truncated * 2 ^ 11 + boolN o.maxOut * 2 ^ 12 + boolN (o.candInvalid != 0) * 2 ^ 13 + index * 2 ^ 16

/-- A context that still receives records (R16, R147). -/
def State.live (s : State) (n : Nat) : Bool :=
  match s.ctx? n with
  | some c => !c.removing
  | none => false

/-- Images of a job with their batch slots, and its failed ones without, in admission order, of contexts that still receive records. -/
def State.jobImages (s : State) (j : Job) : List (Item × Option Nat) :=
  let xs := (j.slots.zipIdx.filterMap fun x => x.1.map fun i => (i, some x.2)) ++ j.failed.map fun i => (i, none)
  (sortBy (fun a b : Item × Option Nat => decide (a.1.order ≤ b.1.order)) xs).filter fun x => s.live x.1.ctx

/-- Deadline of an item, as an instant (R192). -/
def Item.due (i : Item) : Option Tick := if i.deadlineUs == 0xFFFFFFFF then none else some (i.decided + tUs i.deadlineUs)

/-- The record of a computed image; with OUT_HOST it waits for the copy of its box area. -/
def State.imageDone (s : State) (j : Job) (i : Item) (slot : Nat) (last : Bool) : State :=
  let o := j.outs.get {} slot
  let r := s.itemRec i 2 St.ok (visionDetail o i.index) last (padTo 32 o.emitted)
  if i.outHost then
    { s with mem.copies := s.mem.copies ++ [⟨s.mem.nextCopy, i.tenant, [r], o.boxBytes, i.outAddr + 16384 * i.index, o.boxBytes, i.due, i.index, o.candInvalid, i.leadPseq⟩], mem.nextCopy := s.mem.nextCopy + 1 }
  else
    (s.updCtx i.ctx fun c => { c with vision.candInvalid := sat32 c.vision.candInvalid o.candInvalid }).releaseOne
      { r, item := i, judge := true, att := o.boxBytes, lead := i.leadPseq } last

def State.imagesDone (s : State) (j : Job) : List (Item × Option Nat) → State
  | [] => s
  | (i, some k) :: t => (s.imageDone j i k t.isEmpty).imagesDone j t
  | (i, none) :: t => (s.releaseOne { r := s.plainRec i St.badArg false, item := i, lead := i.leadPseq } t.isEmpty).imagesDone j t

/-- Layers of a plan that count in TAPS_ELIDED and ROWCOL_SKIPPED (R129). -/
def State.countTaps (s : State) (pid : Nat) (images : Nat) : State :=
  match s.part? pid with
  | none => s
  | some p =>
    let ls := (s.geoOf p).filterMap fun g => match g with | .layer l => if convOp l.op then some l else none | _ => none
    s.updPartCtr pid fun k =>
      { k with tapsElided := sat64 k.tapsElided (images * sumNat (ls.map Layer.tapsElided)), rowcolSkipped := sat64 k.rowcolSkipped (images * sumNat (ls.map Layer.rowcolSkipped)) }

/-! ## Ends of a job -/

/-- The vision consumer takes the pictures a batch read (R174). -/
def State.takePics (s : State) (j : Job) : State :=
  j.slots.foldl (fun s x => match x with
    | some i =>
      match i.pic with
      | some o => s.updCtx i.codecCtx fun c => { c with codec.pics := (c.codec.pics.map fun q => if q.order == o then { q with needVision := false } else q).filter fun q => q.needVision || q.needEncode }
      | none => s
    | none => s) s

/-- Records that still release normally where a job ends with one status for all its items (R85, R147, R156, R263). -/
def State.abortJob (s : State) (pid : Nat) (j : Job) (status : Nat) (perMember : Bool) : State :=
  let rels := (s.jobImages j).map fun x =>
    ({ r := s.plainRec x.1 (if x.2.isSome then status else St.badArg) false, item := x.1, lead := if perMember then none else x.1.leadPseq, perMember } : Rel)
  let s := s.takePics j
  let run := ((s.part? pid).map (·.running)).getD []
  let (s, more) := if j.steps.isEmpty then (s, []) else gather (fun s c => s.abortReq status perMember c) s run
  s.releaseGroup (rels ++ more.filter fun x => s.live x.item.ctx)

/-- A job that ended in order: its results are released (R26). -/
def State.completeJob (s : State) (pid : Nat) (j : Job) : State :=
  let s := s.takePics j
  if j.steps.isEmpty then s.imagesDone j (s.jobImages j)
  else
    let vocab := (((s.part? pid).bind s.serveOf).map (·.vocab)).getD 1
    let (s, rels) := s.stepSlots vocab (j.steps.filter fun x => s.live x.ctx)
    s.releaseGroup rels

/-- How a job comes to its boundary point: in order, emptied by Quench (R251), or emptied by a Foreman fault before a Pier reset (R273). -/
inductive Fin where
  | drained
  | quench
  | pierReset
  deriving DecidableEq, Repr

/-- A fourth run that an error touched ends the job (R263). -/
def State.abortFault (s : State) (pid : Nat) (p : Part) (j : Job) : State :=
  let s := { s with flt.aborted := sat32 s.flt.aborted 1 }.postT 0x0A06 2 (p.courses.headD 0) (leBytes 2 pid ++ [0, 0] ++ leBytes 4 j.seq) { part := pid }
  s.abortJob pid j St.abortedFault false

/-- The job's end, by the order of R276, R288: tenant removal, Quench, plan error, error, results. -/
def State.finishJob (s : State) (pid : Nat) (p : Part) (j : Job) (how : Fin) : State :=
  if j.closed then s.abortJob pid j St.tenantClosed false
  else
    match how with
    | .quench => s.abortJob pid j St.abortedThermal (s.twin.role != 0 && s.twin.partner == 2)
    | .pierReset => s.updPart pid fun p => { p with again := some j }
    | .drained =>
      if j.planErr.isSome then s.abortJob pid j St.abortedFault false
      else if j.marked then
        let s := s.countTaps pid (j.slots.filter Option.isSome).length
        if j.run < 4 then s.updPart pid fun p => { p with again := some { j with run := j.run + 1 } } else s.abortFault pid p j
      else (s.countTaps pid (j.slots.filter Option.isSome).length).completeJob pid j

/-! ## What falls due at a boundary point -/

/-- Codec contexts that CTX_REMOVE made leave; their pictures may have been those of the batch that ends. -/
def State.leaving (s : State) : List Nat := (s.ctxs.filter fun c => c.2.group == 6 && c.2.removing).map Prod.fst

/-- Removals, rebindings and pauses of contexts that waited for it (R16, R157, R197). -/
def State.ctxsDue (s : State) (pid : Nat) : State :=
  (s.ctxNums (some pid) ++ s.leaving).foldl (fun s n =>
    match s.ctx? n with
    | none => s
    | some c =>
      if c.removing then (if s.ctxRunning n then s else s.dropCtx n)
      else if c.rebind.isSome then s.rebindNow n
      else s.tryPause n) s

/-- Courses with no running partition are Warm (R93), those of a Pier in reset Gated (R254). -/
def State.restCourses (s : State) (cs : List Nat) : State :=
  cs.foldl (fun s c =>
    if s.courseRunning c then s
    else if (s.pier (c / 4)).resetting then s.gateCourse c
    else s.updCourse c fun k => { k with power := min 1 k.power, busyAt := s.now }) s

/-- After a handover the former Primary ends, without a record, the requests of which no step is led (R283). -/
def State.dropUnled (s : State) (pid : Nat) : State :=
  (((s.part? pid).map (·.running)).getD []).foldl
    (fun s n => s.updSession n fun x => { x with req := none, joined := false, idleAt := s.now }) s |>.updPart pid fun p => { p with running := [] }

/-- The boundary point of a partition: empty state (item 1 to 5 of R25), due control actions in the order of R19, then the job's end and what
waited for it. -/
def State.reachBoundary (s : State) (pid : Nat) (how : Fin) : State :=
  match s.part? pid with
  | none => s
  | some p =>
    match p.job with
    | none => s
    | some j =>
      let s := (s.clearPart pid).updPart pid fun p => { p with job := none, state := if p.state == 3 then 3 else 1, busyAt := s.now, ctr.boundaries := sat64 p.ctr.boundaries 1 }
      let s := p.piers.foldl (fun s q => s.updPier q fun x => { x with hbmBusyAt := s.now }) s
      let s := p.courses.foldl (fun s c => s.applyDue c true) s
      let s := s.finishJob pid p j how
      let s := if s.twin.role == 2 && s.twin.former then s.dropUnled pid else s
      let s := (s.ctxsDue pid).restCourses p.courses
      let s := if p.state == 3 then (s.removePart pid).finishOps (fun k => match k with | .partDestroy n => n == pid | _ => false) St.ok else s
      (((s.guardRecheckAll (some pid)).grantPart pid).trySafeHold).landDue

/-- Every Ashlar has retired its boundary marker, or a plan error ended the batch; the units' and DMA queues are empty and every write has landed. -/
def Part.drained (p : Part) (j : Job) : Bool :=
  (List.range p.size).all fun l =>
    let c := p.chisel l
    (c.bndry || j.planErr.isSome) && (c.units.isEmpty || j.planErr.isSome) && c.outstanding.isEmpty && (c.held.isEmpty || j.planErr.isSome) && (c.handoffs == 0 || j.planErr.isSome)

/-- Serving steps lengthen while Riddle loads new microcode (R309). -/
def execBoundaryPoint (part : Nat) (s : State) : Out :=
  .next (match s.part? part with
    | none => s
    | some p =>
      match p.job with
      | none => s
      | some j => if s.tilesRun p && p.drained j && (j.steps.isEmpty || !s.restarting 4) then (s.reachBoundary part .drained).startDue part else s)

/-! ## Boundary overdue (R21, R262) -/

/-- Ashlars that have not retired BNDRY are each an error of their Chisel and DMA queues, slices 60 to 63 (R258). -/
def State.overdueErrors (s : State) (pid : Nat) (p : Part) (j : Job) : State :=
  ((List.range p.size).filter fun l => !(p.chisel l).bndry).foldl (fun s l =>
    match s.tileOf p l with
    | none => s
    | some t => [60, 61, 62, 63].foldl (fun s k => s.wantTest 3 t k) (s.errorEvent 3 t 7 0 j.seq true pid)) s

/-- No boundary point for 40 ms of running clock: the job is marked and the partition is emptied at once. A plan error governs the job
(R276). -/
def execBoundaryOverdue (part : Nat) (s : State) : Out :=
  .next (match s.part? part with
    | none => s
    | some p =>
      match p.job with
      | none => s
      | some j =>
        if s.tilesRun p && decide (tMs 40 ≤ p.sinceBoundary) then
          (((s.touchPart part).overdueErrors part p j).reachBoundary part .drained).startDue part
        else s)

/-- Empties every running partition that meets `pred` (R251, R262). -/
def State.emptyParts (s : State) (pred : Part → Bool) (how : Fin) : State :=
  (s.parts.filter fun p => p.2.job.isSome && pred p.2).foldl (fun s p => s.reachBoundary p.1 how) s

end Sys2Proof.Machine
end

