-- ==== Sys2Proof/Machine/Facing.lean ====
section
/-! DEFINITION. The Facing units (R139, R181-R183): conversion of decoded pictures, row bands; the vision commands (R146) and the end of a
host copy (R146, R177). -/

namespace Sys2Proof.Machine

/-! ## Decoded pictures in HBM (R174) -/

def up (n k : Nat) : Nat := ceilDiv n k * k

def sampleBytes (depth : Nat) : Nat := if depth == 8 then 1 else 2
def picPitch (w depth : Nat) : Nat := up (up w 16 * sampleBytes depth) 256
def chromaOff (w h depth : Nat) : Nat := picPitch w depth * up h 16
def picBytes (w h depth : Nat) : Nat := chromaOff w h depth * 3 / 2

/-- Tenant offset of a pool slot: the pool follows the context's 4 MiB bitstream ring. -/
def Codec.slotOff (c : Codec) (slot : Nat) : Nat := c.poolOff + 2 ^ 22 + slot * picBytes c.maxW c.maxH c.bitDepth

/-- A sample of a plane: 8 bits, or 10 bits in [15:6]. -/
def State.sample (s : State) (tenant base depth i : Nat) : Nat :=
  if depth == 8 then (s.hbmByte tenant (base + i)).toNat else leNat (s.hbmReadN tenant (base + 2 * i) 2) / 64

/-- A plane as the filter reads it: coordinates clamped to the decoded picture; component 0 luma, 1 Cb, 2 Cr. -/
def State.plane (s : State) (tenant off : Nat) (p : Pic) (comp : Nat) (x y : Int) : W32 :=
  let w := if comp == 0 then p.width else ceilDiv p.width 2
  let h := if comp == 0 then p.height else ceilDiv p.height 2
  let cx := (clampI x 0 (w - 1 : Nat)).toNat
  let cy := (clampI y 0 (h - 1 : Nat)).toNat
  let pitch := picPitch p.width p.bitDepth
  if comp == 0 then f32Nat (s.sample tenant (off + cy * pitch) p.bitDepth cx)
  else f32Nat (s.sample tenant (off + chromaOff p.width p.height p.bitDepth + cy * pitch) p.bitDepth (2 * cx + comp - 1))

/-! ## The filter -/

def ratio (a b : Nat) : W32 := f32Of (valDiv (.fin false a 0) (.fin false b 0))
def fFloor (w : W32) : Int := dyInt (valDy (f32Val w))
def f32Int (i : Int) : W32 := f32Dy i 0

/-- The Keys kernel with a = -0.5 at a distance of at most 1, and between 1 and 2. -/
def keysNear (d : W32) : W32 := fadd (fmul (fmul (fsub (fmul (ratio 3 2) d) (ratio 5 2)) d) d) fone
def keysFar (d : W32) : W32 := fadd (fmul (fsub (fmul (fadd (fmul (fneg fhalf) d) (ratio 5 2)) d) (f32Nat 4)) d) (f32Nat 2)

/-- Taps of one axis: coordinate and weight. -/
def taps (cubic : Bool) (x : W32) : List (Int × W32) :=
  let i := fFloor x
  let t := fsub x (f32Int i)
  let u := fsub fone t
  if cubic then [(i - 1, keysFar (fadd fone t)), (i, keysNear t), (i + 1, keysNear u), (i + 2, keysFar (fadd fone u))]
  else [(i, u), (i + 1, t)]

/-- Weight × sample summed in tap order: rows top to bottom, taps left to right. -/
def filt (cubic : Bool) (get : Int → Int → W32) (sx sy : W32) : W32 :=
  let ps := ((taps cubic sy).map fun v => (taps cubic sx).map fun h => fmul (fmul v.2 h.2) (get h.1 v.1)).flatten
  match ps with
  | [] => 0
  | p :: t => t.foldl fadd p

/-! ## One output pixel (R181) -/

/-- kr, kgb, kgr, kb. -/
def matrixConsts (m : Nat) : W32 × W32 × W32 × W32 :=
  if m == 1 then (ratio 1402 1000, ratio 344136 1000000, ratio 714136 1000000, ratio 1772 1000)
  else (ratio 15748 10000, ratio 1873 10000, ratio 4681 10000, ratio 18556 10000)

/-- The settings for a picture: the context's, or until the first VID_FACING the picture's own size; stream values filled in. -/
def facingFor (f : Option Facing) (p : Pic) : Facing :=
  let f := f.getD { cropX := 0, cropY := 0, cropW := p.width, cropH := p.height, outW := p.width, outH := p.height, filter := 0, matrix := 0, range := 0, chOrder := 0, outFmt := 0x10, layout := 0, mean := [0, 0, 0], scale := [fone, fone, fone] }
  let pick (a b d : Nat) : Nat := if a != 0 then a else if b != 0 then b else d
  { f with matrix := pick f.matrix p.matrix 2, range := pick f.range p.range 1, chOrder := if p.mono then 2 else f.chOrder }

def Facing.channels (f : Facing) : Nat := if f.chOrder == 2 then 1 else 3

/-- Source coordinate of an output coordinate along an axis. -/
def srcCoord (crop size out x : Nat) : W32 :=
  fsub (fadd (f32Nat crop) (fdiv (fmul (fadd (f32Nat x) fhalf) (f32Nat size)) (f32Nat out))) fhalf

/-- Values of the output channels at (x, y), before conversion to OUT_FMT; `get` reads component, column and row. -/
def facingPixel (f : Facing) (depth : Nat) (get : Nat → Int → Int → W32) (x y : Nat) : List W32 :=
  let cubic := f.filter == 1
  let sx := srcCoord f.cropX f.cropW f.outW x
  let sy := srcCoord f.cropY f.cropH f.outH y
  let cx := fdiv sx (f32Nat 2)
  let cy := fdiv (fsub sy fhalf) (f32Nat 2)
  let k := 2 ^ (depth - 8)
  let m := f32Nat (2 ^ depth - 1)
  let lim := f.range == 1
  let yv := filt cubic (get 0) sx sy
  let yn := if lim then fdiv (fsub yv (f32Nat (16 * k))) (f32Nat (219 * k)) else fdiv yv m
  let chroma (comp : Nat) : W32 :=
    let v := filt cubic (get comp) cx cy
    if lim then fdiv (fsub v (f32Nat (128 * k))) (f32Nat (224 * k)) else fdiv (fsub v (f32Nat (2 ^ (depth - 1)))) m
  let cbn := chroma 1
  let crn := chroma 2
  let (kr, kgb, kgr, kb) := matrixConsts f.matrix
  let r := fadd yn (fmul kr crn)
  let g := fsub (fsub yn (fmul kgb cbn)) (fmul kgr crn)
  let b := fadd yn (fmul kb cbn)
  let ch := if f.chOrder == 2 then [yn] else if f.chOrder == 1 then [b, g, r] else [r, g, b]
  ch.zipIdx.map fun c => fmul (fsub (fmul (fclamp c.1 0 fone) (f32Nat 255)) (f.mean.getD c.2 0)) (f.scale.getD c.2 0)

/-- Bytes of a converted picture, in its layout, with OVF = 0. -/
def facingBytes (f : Facing) (depth : Nat) (get : Nat → Int → Int → W32) : List Byte :=
  let px := (List.range (f.outW * f.outH)).map fun i => facingPixel f depth get (i % f.outW) (i / f.outW)
  let vs := if f.layout == 0 then px.flatten else ((List.range f.channels).map fun c => px.map fun p => p.getD c 0).flatten
  (convRun (ctrlFmt f.outFmt) (vs.map f32Val)).1

/-! ## Facing jobs -/

/-- The picture of a job, its settings and its offset; none once its codec context is gone. -/
def State.facingPic (s : State) (j : FacingJob) : Option (Nat × Pic × Facing × Nat) :=
  match s.ctx? j.codec with
  | none => none
  | some c =>
    (List.find? (fun p : Pic => p.order == j.pic) c.codec.pics).map fun p =>
      (c.tenant, p, facingFor (c.codec.facingRun.get none j.part) p, c.codec.slotOff p.slot)

/-- Whether a slot's image goes out as row bands (R139). -/
def State.bandJob (s : State) (p : Part) (j : FacingJob) : Bool :=
  match (p.job.bind fun k => k.slots[j.slot]?).join, s.visionOf p with
  | some i, some v => i.rowBand && v.ringDepth != 0
  | _, _ => false

def Pier.setFacing (q : Pier) (l : List FacingJob) : Pier := { q with facing := l }

/-- Converts the picture of the unit's oldest job into the batch input area; a row-band job then stays for its bands. -/
def State.facingGo (s : State) (pier : Nat) (p : Part) (pl : Plan) (v : VisionRec) (j : FacingJob) (rest : List FacingJob) : State :=
  let s := { s with trowel.pllOn := true, trowel.idleAt := s.now }
  let s := match s.facingPic j with
    | some (t, pic, f, off) =>
      s.hbmWriteN p.tenant (pl.regionOff + s.inputBase p pl + j.slot * imgBytes v) (padTo (imgBytes v) (facingBytes f pic.bitDepth (s.plane t off pic)))
    | none => s
  s.updPier pier fun q => q.setFacing (if s.bandJob p j then { j with conv := true } :: rest else rest)

/-- A Facing unit runs: no Hold, and in a Quench until its second stage (R184, R251, R252). -/
def State.facingRuns (s : State) : Bool := s.up && !s.power.hold && !s.therm.stage2

/-- HBM stacks of the batch input area's slot, and of the picture that the job reads. -/
def State.facingStacks (s : State) (p : Part) (pl : Plan) (v : VisionRec) (j : FacingJob) : List Nat :=
  s.spanStacks p.tenant (pl.regionOff + s.inputBase p pl + j.slot * imgBytes v) (imgBytes v) ++
    match s.facingPic j with
    | some (t, pic, _, off) => s.spanStacks t off (picBytes pic.width pic.height pic.bitDepth)
    | none => []

def execFacingConvert (pier : Nat) (s : State) : Out :=
  .next (match (s.pier pier).facing with
    | [] => s
    | j :: rest =>
      match s.part? j.part with
      | none => s
      | some p =>
        match s.planOf p, s.visionOf p with
        | some pl, some v =>
          let ks := s.facingStacks p pl v j
          if s.facingRuns && !j.conv && s.hbmServes ks then (s.touchStacks ks).facingGo pier p pl v j rest else s
        | _, _ => s)

/-! ## Row bands (R139) -/

/-- Input rows of a Course's slice of the first layer, halo rows included, as its tensors are sliced; none where they are not sliced by
rows. -/
def Tensor.rowsIn (t : Tensor) (p : Part) (k : Nat) (y : Nat) : Option Bool :=
  if t.space == 2 || t.sliceDim != 2 then none
  else
    let hit (i : Nat) : Bool := decide ((t.sliceSpan i).1 ≤ y) && decide (y < (t.sliceSpan i).1 + (t.sliceSpan i).2)
    some (if t.space == 1 then hit k else (List.range p.size).any fun l => p.courseOf l == p.pier * 4 + p.course + k && hit l)

/-- The Course's row slice contains a row of the band: by the input tensor's rows, else by what the output rows of its slice read, else
every Course. -/
def State.courseHolds (s : State) (p : Part) (pl : Plan) (v : VisionRec) (k band : Nat) : Bool :=
  match (s.geoOf p).findSome? fun g => match g with | .layer l => some l | _ => none with
  | none => true
  | some l =>
    match pl.tensor p.sizeLog2 l.inTensor, pl.tensor p.sizeLog2 l.outTensor with
    | some ti, some tout =>
      let inRow (d : Nat) : Option Bool := ti.rowsIn p k (if l.op == 5 then (band * v.bandRows + d) / 4 else band * v.bandRows + d)
      (match inRow 0 with
        | some _ => (List.range v.bandRows).any fun d => inRow d == some true
        | none =>
          match tout.rowsIn p k 0 with
          | some _ => (List.range l.axisH.o).any fun oy => tout.rowsIn p k oy == some true && (l.bandSet v.bandRows oy).contains band
          | none => true)
    | _, _ => true

/-- Bytes of band `b` of the converted picture in the batch input area. -/
def State.bandBytes (s : State) (p : Part) (pl : Plan) (v : VisionRec) (f : Facing) (slot b : Nat) : List Byte :=
  let row := runBytes f.outFmt (f.outW * (if f.layout == 0 then f.channels else 1))
  let n := min v.bandRows (f.outH - b * v.bandRows)
  let base := pl.regionOff + s.inputBase p pl + slot * imgBytes v + b * v.bandRows * row
  if f.layout == 0 then s.hbmReadN p.tenant base (n * row)
  else ((List.range f.channels).map fun c => s.hbmReadN p.tenant (base + c * f.outH * row) (n * row)).flatten

/-- Offset of a partition's slice in its Courses' buffers (R22). -/
def Part.cbufBase (p : Part) : Nat := if p.coursed then 0 else 131072 * p.slot

/-- One credit of each ring that takes the band; a ring without one takes FREE_SEM. None while FREE_SEM is short. -/
def Part.takeCredits (p : Part) (free : Nat) (ks : List Nat) : Option Part :=
  let dry := (ks.filter fun k => p.credits.get 0 k == 0).length
  if p.sems.get 0 free < dry then none
  else some { p with sems := if dry == 0 then p.sems else p.sems.set free (p.sems.get 0 free - dry), credits := ks.foldl (fun c k => c.set k (c.get 0 k - 1)) p.credits }

/-- Writes the next band, of an image of `rows` rows, into the rings and signals BAND_SEM; the unit's clock runs (R223). -/
def State.bandGo (s : State) (pier : Nat) (p : Part) (pl : Plan) (v : VisionRec) (data : List Byte) (rows : Nat) (j : FacingJob) (rest : List FacingJob) (b : Nat) : State :=
  let ks := (List.range p.nCourses).filter fun k => s.courseHolds p pl v k b
  match p.takeCredits v.freeSem ks with
  | none => s
  | some p' =>
    let at' := p.cbufBase + v.ringOffset + p.nextBand % v.ringDepth * (v.bandRows * runBytes v.inFmt (v.inW * v.inC))
    let s := { s.updPart j.part fun _ => { p' with nextBand := p.nextBand + 1 } with trowel.pllOn := true, trowel.idleAt := s.now }
    let s := ks.foldl (fun s k => s.updCbuf (p.pier * 4 + p.course + k) fun x => sramWriteN x at' data) s
    let s := s.addSem j.part 0 v.bandSem 1 0
    if rows ≤ (b + 1) * v.bandRows then s.updPier pier fun q => q.setFacing rest else s

/-- Bands of the batch that earlier slots fed through the ring hold. -/
def State.bandsBefore (s : State) (p : Part) (j : FacingJob) : Nat :=
  let rows (i : Item) : Nat :=
    match s.ctx? i.codecCtx with
    | some c => (match List.find? (fun q : Pic => some q.order == i.pic) c.codec.pics with | some q => (facingFor (c.codec.facingRun.get none j.part) q).outH | none => 0)
    | none => 0
  match p.job, s.visionOf p with
  | some k, some v => sumNat ((k.slots.take j.slot).map fun x => match x with | some i => if i.rowBand then ceilDiv (rows i) v.bandRows else 0 | none => if ringFed v k.slots then ceilDiv v.inH v.bandRows else 0)
  | _, _ => 0

/-- Rows of the image whose bands a job writes, and the bytes of band `b`; none once its picture is gone. -/
def State.bandData (s : State) (p : Part) (pl : Plan) (v : VisionRec) (j : FacingJob) (b : Nat) : Option (Nat × List Byte) :=
  if j.zero then some (v.inH, List.replicate (min v.bandRows (v.inH - b * v.bandRows) * runBytes v.inFmt (v.inW * v.inC)) 0)
  else (s.facingPic j).map fun x => (x.2.2.1.outH, s.bandBytes p pl v x.2.2.1 j.slot b)

/-- FACING_BAND_WRITE: the band goes into Course buffers, which hold what the units of the partition have run by now. -/
def execFacingBandWrite (pier : Nat) (s : State) : Out :=
  .next (match (s.pier pier).facing with
    | [] => s
    | j :: rest =>
      if !s.facingRuns || !j.conv then s
      else
        let s := s.pumpPart j.part
        match s.part? j.part with
        | none => s
        | some p =>
          match s.planOf p, s.visionOf p with
          | some pl, some v =>
            let b := p.nextBand - s.bandsBefore p j
            match s.bandData p pl v j b with
            | some (rows, data) =>
              let ks := if j.zero then [] else s.facingStacks p pl v j
              if ks.isEmpty || s.hbmServes ks then (s.touchStacks ks).bandGo pier p pl v data rows j rest b else s
            | none => s.updPier pier fun q => q.setFacing rest
          | _, _ => s)

/-! ## VIS_PARAMS, VIS_COUNTERS -/

def f32Keep : Nat := 0x7FC00000

def visParamsOk (q : Req) : Bool :=
  decide (q.u8 2 ≤ 2) && (q.u32 4 == f32Keep || f32Finite (q.w32 4)) && (q.u32 8 == f32Keep || f32In 0 fone (q.w32 8)) && decide (q.u16 0xC ≤ 1024) &&
    (decide (q.u32 0x10 ≤ 1000000) || q.u32 0x10 == 0xFFFFFFFF)

def Vision.setBy (v : Vision) (q : Req) : Vision :=
  { v with
    mode := if q.u8 2 == 0 then v.mode else q.u8 2
    scoreThr := if q.u32 4 == f32Keep then v.scoreThr else some (q.w32 4)
    iouThr := if q.u32 8 == f32Keep then v.iouThr else some (q.w32 8)
    maxOut := if q.u16 0xC == 0 then v.maxOut else q.u16 0xC
    fillUs := if q.u32 0x10 == 0xFFFFFFFF then v.fillUs else q.u32 0x10 }

def State.visParams (s : State) (q : Req) : State × Resp :=
  match s.ctxFor q 5 with
  | none => (s, failR St.badArg)
  | some _ =>
    if !visParamsOk q then (s, failR St.badArg)
    else if s.held (2, q.u16 0) then (s, failR St.busy)
    else (s.updCtx (q.u16 0) fun c => { c with vision := c.vision.setBy q }, okR [])

def execVisParams (m : Mb) (s : State) : Out := .next (s.mbRun m 0x0501 true (lenIs 20 [(3, 1), (0xE, 2)]) State.visParams)

def State.visCounters (s : State) (q : Req) : State × Resp :=
  match s.ctxFor q 5 with
  | none => (s, failR St.badArg)
  | some c =>
    let v := c.vision
    (s, okR (leBytes 8 v.images ++ leBytes 8 v.boxes ++ leBytes 4 v.candTruncated ++ leBytes 4 v.candInvalid ++ leBytes 4 v.maxOutHits ++ leBytes 4 v.partialBatches))

def execVisCounters (m : Mb) (s : State) : Out := .next (s.mbRun m 0x0502 true (lenIs 4 [(2, 2)]) State.visCounters)

/-! ## Host copies of box areas and encoded units (R146, R177) -/

/-- A held record as it is released: BAD_ARG and, for a vision result, HOST_COPY_FAILED where the copy failed; else LATE past its deadline. -/
def copyRec (r : Rec) (rd : HostRead) (late : Bool) (now : Tick) : Rec :=
  match rd with
  | .ok => { r with status := if late && r.status == St.ok then St.late else r.status, time := now }
  | .err _ => { r with status := St.badArg, detail := if r.type == 2 then r.detail + 2 ^ 14 else r.detail, time := now }

def State.releaseCopy (s : State) (h : HostCopy) (rd : HostRead) (r : Rec) : State :=
  let late := match h.due with | some t => decide (t < s.now) | none => false
  let x := copyRec r rd late s.now
  let s := if x.status == St.late then (s.updCtx r.ctx fun c => { c with late := sat32 c.late 1 }).loss r.ctx r.seq 2 0 h.item else s
  let s := s.updCtx r.ctx fun c => { c with vision.candInvalid := sat32 c.vision.candInvalid h.candInvalid }
  (s.setPseq r.ctx h.lead).release x h.attach

/-- Host copies of a context's units that have not ended. -/
def State.copying (s : State) (cn : Nat) : Bool := s.mem.copies.any fun h => h.recs.any fun r => r.ctx == cn

/-- VID_FLUSH ends with OK after EOS, or after the last unit of an encode context and its copy to the host (R183). -/
def State.flushOver (s : State) (cn : Nat) : State :=
  let ended := s.finishOps (fun k => match k with | .vidFlush n => n == cn | _ => false) (if s.tenantOpen (((s.ctx? cn).map (·.tenant)).getD 64) then St.ok else St.tenantClosed)
  (if s.copying cn then s else ended).updCtx cn fun c => { c with codec.flushed := s.copying cn }

/-- Contexts whose flush waits for copies. -/
def State.flushesDue (s : State) : State :=
  (s.ctxs.filter fun (c : Nat × Ctx) => c.2.codec.flushed).foldl (fun (s : State) c => s.flushOver c.1) s

def execOutHostCopyDone (copy : Nat) (rd : HostRead) (s : State) : Out :=
  .next (match List.find? (fun h : HostCopy => h.id == copy) s.mem.copies with
    | none => s
    | some h =>
      if s.therm.quench then s
      else s.intDone (.copy copy) fun s =>
        let s := { s with mem.copies := s.mem.copies.filter fun x => x.id != copy }
        let s := match rd with
          | .ok => s.hostWriteN h.hostAddr h.bytes
          | .err c => { s with host.aer := c :: s.host.aer }
        ((h.recs.foldl (fun s r => s.releaseCopy h rd r) s).flushesDue).landDue)

end Sys2Proof.Machine
end

