-- ==== Sys2Proof/Machine/Motion.lean ====
section
/-! DEFINITION. Motion search of the encoder (R178): the cached window, the four stages and the order of ties. Vectors are in quarter pixels. -/

namespace Sys2Proof.Machine

/-! ## The window -/

/-- Side of a coding unit: 64 luma samples for HEVC, 16 for H.264. -/
def codingUnit (codec : Nat) : Nat := if codec == 0 then 64 else 16

/-- Largest components of a vector, in pixels. -/
def reachX : Nat := 128
def reachY : Nat := 64

/-- Interpolation margin on every side. -/
def margin : Nat := 4

def windowW (codec : Nat) : Nat := codingUnit codec + 2 * (reachX + margin)
def windowH (codec : Nat) : Nat := codingUnit codec + 2 * (reachY + margin)

/-- Bytes of a reference's window with its chroma, and of the column that each step along a row loads. -/
def windowBytes (codec : Nat) : Nat := windowW codec * windowH codec * 3 / 2
def columnBytes (codec : Nat) : Nat := codingUnit codec * windowH codec * 3 / 2

/-- Bytes that the core loads for one reference over one row of coding units: the window at its start, a column at each step. -/
def rowLoad (codec cols : Nat) : Nat := if cols == 0 then 0 else windowBytes codec + (cols - 1) * columnBytes codec

/-- A luma plane of 8-bit samples: width, height, pitch and bytes. -/
structure Luma where
  w : Nat
  h : Nat
  pitch : Nat
  bytes : List Byte
  deriving DecidableEq, Repr

def lumaOf (w h : Nat) (bytes : List Byte) : Luma := ⟨w, h, picPitch w 8, bytes⟩

/-- A sample; outside the picture the standards' edge padding. -/
def Luma.at (p : Luma) (x y : Int) : Nat :=
  (p.bytes.getD ((clampI y 0 (p.h - 1 : Nat)).toNat * p.pitch + (clampI x 0 (p.w - 1 : Nat)).toNat) 0).toNat

/-- Samples of a rectangle, rows from the top. -/
def Luma.rect (p : Luma) (x y : Int) (w h : Nat) : List Nat := (List.range (w * h)).map fun i => p.at (x + (i % w : Nat)) (y + (i / w : Nat))

def Luma.block (p : Luma) (codec : Nat) (bx by' : Nat) : List Nat := p.rect (bx * codingUnit codec : Nat) (by' * codingUnit codec : Nat) (codingUnit codec) (codingUnit codec)

def Luma.window (p : Luma) (codec : Nat) (bx by' : Nat) : List Nat :=
  p.rect ((bx * codingUnit codec : Nat) - (reachX + margin : Nat)) ((by' * codingUnit codec : Nat) - (reachY + margin : Nat)) (windowW codec) (windowH codec)

/-! ## Candidates -/

/-- A candidate vector and its cost. -/
structure Mv where
  cost : Nat
  x : Int
  y : Int
  deriving DecidableEq, Repr

/-- A lower cost first; ties go to the shorter vector, then to the lower vertical, then to the lower horizontal component. -/
def Mv.before (a b : Mv) : Bool :=
  let la := a.x * a.x + a.y * a.y
  let lb := b.x * b.x + b.y * b.y
  decide (a.cost < b.cost) ||
    (a.cost == b.cost && (decide (la < lb) || (la == lb && (decide (a.y < b.y) || (a.y == b.y && decide (a.x ≤ b.x))))))

/-- A vector outside the window is never chosen. -/
def inReach (x y : Int) : Bool :=
  decide (-(4 * reachX : Nat) ≤ x) && decide (x ≤ (4 * reachX : Nat)) && decide (-(4 * reachY : Nat) ≤ y) && decide (y ≤ (4 * reachY : Nat))

/-- The vectors within `n` steps of `step` around one. -/
def around (x y step : Int) (n : Nat) : List (Int × Int) :=
  (List.range ((2 * n + 1) * (2 * n + 1))).map fun i => (x + step * ((i % (2 * n + 1) : Nat) - (n : Int)), y + step * ((i / (2 * n + 1) : Nat) - (n : Int)))

/-- The best of candidates, the first of the order of ties. -/
def bestMv : List Mv → Mv → Mv
  | [], b => b
  | c :: t, b => bestMv t (if c.before b then c else b)

/-- What a stage tries: vectors in reach with their costs. -/
def tryAll (cost : Int → Int → Nat) (l : List (Int × Int)) : List Mv := (l.filter fun v => inReach v.1 v.2).map fun v => ⟨cost v.1 v.2, v.1, v.2⟩

/-- Stage 1: every vector of the luma that is subsampled 2 to 1 each way; the best 3. -/
def coarse (cost : Int → Int → Nat) : List Mv :=
  let l := (List.range ((reachX + 1) * (reachY + 1))).map fun i => (8 * ((i % (reachX + 1) : Nat) - ((reachX / 2 : Nat) : Int)), 8 * ((i / (reachX + 1) : Nat) - ((reachY / 2 : Nat) : Int)))
  (sortBy Mv.before (tryAll cost l)).take 3

/-- Stages 2 to 4: full pixels within 4 of the best 3, then half and quarter pixels around the best. -/
def refine (cost : Int → Int → Nat) (three : List Mv) : Mv :=
  let full := tryAll cost (three.map fun c => around c.x c.y 4 4).flatten
  let b := bestMv full ⟨cost 0 0, 0, 0⟩
  let b := bestMv (tryAll cost (around b.x b.y 2 1)) b
  bestMv (tryAll cost (around b.x b.y 1 1)) b

/-- The vector of a coding unit against one reference. -/
def searchUnit (codec : Nat) (cur ref : Luma) (bx by' : Nat) : Int × Int :=
  let blk := cur.block codec bx by'
  let win := ref.window codec bx by'
  let b := refine (Config.matchCost codec false blk win) (coarse (Config.matchCost codec true blk win))
  (b.x, b.y)

/-- Motion search of a picture: for each reference, the vectors of its coding units in raster order. -/
def searchPic (codec w h : Nat) (cur : List Byte) (refs : List (List Byte)) : List (List (Int × Int)) :=
  let n := codingUnit codec
  let cols := ceilDiv w n
  refs.map fun r => (List.range (cols * ceilDiv h n)).map fun i => searchUnit codec (lumaOf w h cur) (lumaOf w h r) (i % cols) (i / cols)

end Sys2Proof.Machine
end

