-- ==== Sys2Proof/Machine/Encode.lean ====
section
/-! DEFINITION. The encoder's decisions that the manual states (R177-R180): regions of interest and block QPs, frame QP by mode, the HRD buffer,
filler, the picture coded and its references. What it codes beyond them is `Config.encPlan` and `Config.encode` (log 129). -/

namespace Sys2Proof.Machine

/-! ## Regions of interest (R179) -/

/-- An entry at ROI_ADDR: UINT16 pixels and a signed offset. -/
structure Roi where
  x : Nat
  y : Nat
  w : Nat
  h : Nat
  off : Int
  deriving DecidableEq, Repr

def roiOf (b : List Byte) : Roi := ⟨field b 0 2, field b 2 2, field b 4 2, field b 6 2, signed 8 (field b 8 1)⟩

/-- An entry outside its ranges. -/
def Roi.bad (r : Roi) : Bool := decide (r.off < -31) || decide (31 < r.off)

def Item.roiAddr (i : Item) : Nat := field i.args 8 6
def Item.nRoi (i : Item) : Nat := field i.args 14 1

/-- The entries of a frame; none with ROI_ADDR 0. -/
def State.rois (s : State) (i : Item) : List Roi :=
  if i.roiAddr == 0 then [] else (List.range i.nRoi).map fun k => roiOf (s.hbmReadN i.tenant (i.roiAddr + 12 * k) 12)

/-- A region covers every 16 × 16 block that it touches. -/
def Roi.touches (r : Roi) (bx by' : Nat) : Bool :=
  r.w != 0 && r.h != 0 && decide (r.x < 16 * (bx + 1)) && decide (16 * bx < r.x + r.w) && decide (r.y < 16 * (by' + 1)) && decide (16 * by' < r.y + r.h)

/-- The region that applies to a block: of those that touch it the lowest-indexed. -/
def roiAt (rs : List Roi) (bx by' : Nat) : Option Roi := List.find? (fun r : Roi => r.touches bx by') rs

def Codec.qpI (x : Codec) (k : Nat) : Nat := x.qp.getD k 0
def Codec.qpMin (x : Codec) : Nat := x.qpI 3
def Codec.qpMax (x : Codec) : Nat := x.qpI 4

/-- A block's QP: the frame's plus its region's offset, clamped to QP_MIN to QP_MAX and then to 0 to 51. -/
def Codec.blockQp (x : Codec) (frame : Nat) (r : Option Roi) : Nat :=
  match r with
  | none => frame
  | some r => (clampI (clampI ((frame : Int) + r.off) x.qpMin x.qpMax) 0 51).toNat

/-- Something of each 16 × 16 block, in raster order. -/
def Codec.blocks {α : Type} (x : Codec) (f : Nat → Nat → α) : List α :=
  let cols := ceilDiv x.maxW 16
  (List.range (cols * ceilDiv x.maxH 16)).map fun i => f (i % cols) (i / cols)

def Codec.offsets (x : Codec) (rs : List Roi) : List Int := x.blocks fun bx by' => ((roiAt rs bx by').map (·.off)).getD 0

/-! ## Rate control (R180) -/

/-- The configuration on which the output depends. -/
def Codec.settings (x : Codec) : List Nat := [x.codec, x.rc, x.maxW, x.maxH, x.fpsNum, x.fpsDen, x.bitrate, x.maxKbps, x.hrdMs] ++ x.qp ++ [x.bFrames, x.gop, x.refs]

/-- Frame QP: QP_I, QP_P or QP_B under CQP, the chosen one within QP_MIN to QP_MAX otherwise. -/
def Codec.frameQp (x : Codec) (type chosen : Nat) : Nat := if x.rc == 2 then x.qpI type else min (max chosen x.qpMin) x.qpMax

/-- Rate of the HRD buffer in kbit/s: BITRATE under CBR, MAX_KBPS under VBR. -/
def Codec.hrdRate (x : Codec) : Nat := if x.rc == 1 then x.maxKbps else x.bitrate

def Codec.hrdSize (x : Codec) : Nat := x.hrdRate * x.hrdMs

/-- Bits that enter the buffer per frame. -/
def Codec.frameBits (x : Codec) : Nat := x.hrdRate * 1000 * x.fpsDen / max 1 x.fpsNum

/-- The buffer holds a rate-times-HRD_MS of bits, full at first; a unit that takes more than it holds breaks the model. -/
def Codec.hrdHeld (x : Codec) : Nat := x.hrdBits.getD x.hrdSize

def Codec.hrdBreaks (x : Codec) (bits : Nat) : Bool := x.rc != 2 && decide (x.hrdHeld < bits)

/-- Filler bytes under CBR: what would otherwise overflow the buffer. -/
def Codec.fillerBytes (x : Codec) (bits : Nat) : Nat := if x.rc == 0 then ceilDiv (x.hrdHeld - bits + x.frameBits - x.hrdSize) 8 else 0

def Codec.hrdAfter (x : Codec) (bits : Nat) : Nat := min x.hrdSize (x.hrdHeld - bits + x.frameBits)

/-! ## A frame -/

/-- What coding a frame gives: the access unit with its filler, and what its record says. -/
structure Coded where
  unit : List Byte
  type : Nat
  idr : Bool
  order : Nat
  pts : W64
  avgQp : Nat
  hrd : Bool
  /-- the context after it -/
  next : Codec

/-- How many pictures back of the newest the one coded is: none at an IDR, and no more than B_FRAMES let wait. -/
def Codec.codedAgo (x : Codec) (idr : Bool) (ago : Nat) : Nat := if idr then 0 else ago % (min x.nextOrder x.bFrames + 1)

/-- Picture type: I where nothing can be predicted from, B only with B_FRAMES. -/
def Codec.codedType (x : Codec) (idr : Bool) (type : Nat) : Nat := if idr then 0 else if type % 3 == 2 && x.bFrames == 0 then 1 else type % 3

/-- References: none over an IDR, at most REFS, and a B picture is none. -/
def Codec.refsAfter (x : Codec) (idr : Bool) (type : Nat) (recon : List Byte) : List (List Byte) :=
  if type == 2 then x.encRefs else (recon :: (if idr then [] else x.encRefs)).take x.refs

/-- Codes the frame whose source picture and PTS come now. -/
def Codec.codeFrame (x : Codec) (force : Bool) (rs : List Roi) (pts : W64) (src : List Byte) : Coded :=
  let p := Config.encPlan x.settings x.stream force (x.offsets rs) src
  let idr := force || p.idr || x.encRefs.isEmpty
  let type := x.codedType idr p.picType
  let srcs := ((pts, src) :: x.srcs).take (x.bFrames + 1)
  let cur := srcs.getD (x.codedAgo idr p.ago) (pts, src)
  let frame := x.frameQp type p.qp
  let qps := x.blocks fun bx by' => x.blockQp frame (roiAt rs bx by')
  let mvs := if type == 0 then [] else searchPic x.codec x.maxW x.maxH cur.2 x.encRefs
  let out := Config.encode x.settings x.stream ⟨type, idr, x.codedAgo idr p.ago, frame⟩ qps mvs cur.2
  let bits := 8 * out.unit.length
  let fill := x.fillerBytes bits
  { unit := out.unit ++ padTo fill (Config.filler x.codec fill), type, idr, order := x.nextOrder - x.codedAgo idr p.ago, pts := cur.1, avgQp := min 51 (sumNat qps / max 1 qps.length), hrd := x.hrdBreaks bits
    next := { x with nextOrder := x.nextOrder + 1, srcs, stream := out.stream, encRefs := x.refsAfter idr type out.recon, hrdBits := some (x.hrdAfter (bits + 8 * fill)) } }

end Sys2Proof.Machine
end

