-- ==== Sys2Proof/Machine/Video.lean ====
section
/-! DEFINITION. The Trowel cores and codec contexts (R167-R180, R183, R184): choice of pictures, codec frame boundaries with their records,
and the video commands. What the codec standards compute from a unit is the operand of CODEC_FRAME_BOUNDARY. -/

namespace Sys2Proof.Machine

/-! ## The pool of cores (R168, R171, R223) -/

def Item.fromDecode (i : Item) : Bool := i.kind == 0x0602 && bitOf i.dflags 1

/-- Cores that run a context's picture. -/
def State.coresOf (s : State) (cn : Nat) : List Nat :=
  (List.range 16).filter fun k => match (s.core k).busy with | some (n, _) => n == cn | none => false

/-- A context's picture waits to restart from its codec frame boundary. -/
def State.restarts (s : State) (cn : Nat) : Bool := s.trowel.again.any fun a => a.1 == cn

/-- The picture that an encode frame under FROM_DECODE takes: the oldest that awaits it, of the decode context that names this one. -/
def State.encSource (s : State) (cn tenant : Nat) : Option (Nat × Pic) :=
  s.ctxs.findSome? fun d =>
    if d.2.group == 6 && d.2.tenant == tenant && d.2.codec.state == 1 && bitOf d.2.codec.consumers 1 && d.2.codec.encCtx == cn then
      (List.find? (fun p : Pic => p.needEncode && !p.dropped) d.2.codec.pics).map fun p => (d.1, p)
    else none

/-- The next thing a codec context runs: its oldest queued item, or a flush that no earlier item precedes. -/
def Ctx.nextVideo (c : Ctx) (cn : Nat) : Option Item :=
  let flush (n : Nat) : Item :=
    { ctx := cn, tenant := c.tenant, cls := c.cls, excess := false, order := n, kind := flushKind, dflags := 0, seq := 0, addr := 0, length := 0, deadlineUs := 0xFFFFFFFF, userTag := 0, args := [], index := 0, count := 1, decided := 0, holdAt := 0, displaced := 0, bad := false, cancelled := false, leadPseq := none, displacing := false }
  match c.codec.flushAt, c.queue.head? with
  | some n, some i => if n ≤ i.order then some (flush n) else some i
  | some n, none => some (flush n)
  | none, h => h

/-- A descriptor whose work cannot start: kind against direction, reserved flags and bytes, a unit of no bytes, a source picture of another
length (its height is rounded as in R174: log 122), regions out of range. -/
def State.badVideo (s : State) (c : Ctx) (i : Item) : Bool :=
  if i.kind == flushKind then false
  else if i.kind == 0x0601 then c.codec.state != 1 || decide (2 ≤ i.dflags) || i.length == 0 || decide (2 ^ 22 < i.length) || field i.args 8 8 != 0
  else
    c.codec.state != 2 || decide (8 ≤ i.dflags) || decide (64 < i.nRoi) || field i.args 15 1 != 0 ||
      (if i.fromDecode then i.addr != 0 || i.length != 0 else i.length != picBytes c.codec.maxW c.codec.maxH 8) || (s.rois i).any Roi.bad

/-- R171: the bytes are in HBM, the source picture is there, and no earlier picture of the context is on a core or waits to restart. -/
def State.readyVideo (s : State) (cn : Nat) (c : Ctx) (i : Item) : Bool :=
  !c.removing && (s.coresOf cn).isEmpty && !s.restarts cn &&
    (s.badVideo c i || i.kind == flushKind ||
      (if i.kind == 0x0601 then bitOf i.dflags 0 || c.codec.copied.contains i.order else !i.fromDecode || (s.encSource cn c.tenant).isSome))

/-- Ready pictures of all codec contexts, in order of class and then of admission. -/
def State.readyPics (s : State) : List Item :=
  let l := (s.ctxsOn none).filterMap fun c => (c.2.nextVideo c.1).bind fun i => if s.readyVideo c.1 c.2 i then some i else none
  sortBy (fun a b : Item => decide (a.eff < b.eff) || (a.eff == b.eff && decide (a.order ≤ b.order))) l

/-- The pool takes pictures: as a partition takes jobs, and not while its cores load a new image (R309). -/
def State.trowelRuns (s : State) : Bool :=
  s.up && (s.power.phase == 1 || (s.power.phase == 3 && s.power.shutStep == 1)) && !s.power.hold && !s.therm.stage2 && s.power.safeHoldReq.isNone && !s.restarting 2

/-- Free cores gate when no picture is ready. -/
def State.regate (s : State) : State :=
  if s.readyPics.isEmpty && s.trowel.again.isEmpty then
    { (List.range 16).foldl (fun s k => if s.coreFree k && !(s.core k).gated then s.updCore k fun x => { x with gated := true } else s) s with trowel.idleAt := s.now }
  else s

/-- R171: the picture a free core takes, and its run count. -/
def State.pickPic (s : State) (k : Nat) : Option (Item × Nat) :=
  match s.readyPics with
  | [] => none
  | p :: t =>
    let w := (p :: t).filter fun i => i.eff == p.eff
    let x := s.core k
    match List.find? (fun i : Item => some i.ctx == x.lastCtx) w with
    | some i => if x.run < 4 then some (i, x.run + 1) else some (p, 1)
    | none => some (p, 1)

/-! ## Division (R172) -/

/-- What divides a picture of a codec: tiles HEVC and AV1, wavefront HEVC, independent slices HEVC and H.264; one of them divides nothing. -/
def divFor (codec : Nat) (d : Division) : Division :=
  match d with
  | .tiles n => if codec == 1 || n < 2 then .whole else d
  | .wavefront n => if codec != 0 || n < 2 then .whole else d
  | .slices n => if codec == 2 || n < 2 then .whole else d
  | .whole => .whole

/-- Tiles, CTU rows or slices of a divided picture. -/
def divShares (d : Division) : Nat :=
  match d with
  | .tiles n => n
  | .wavefront n => n
  | .slices n => n
  | .whole => 1

/-- Under a wavefront on `n` cores, CTU row `r` goes to core `r mod n` of them. -/
def rowCore (n r : Nat) : Nat := r % n

/-- The core that filters across a division edge: that of the later tile, row or slice. -/
def edgeOwner (a b : Nat) : Nat := max a b

/-- A core takes a picture or a share of one, and loads the context's stream state; another context than its last costs a switch (R170). -/
def Core.take (x : Core) (i : Item) (start : Tick) (nth run : Nat) (div : Division) (share : Nat) (st : Option StreamState) : Core :=
  { x with
    busy := some (i.ctx, i, start, nth), gated := false, switched := x.lastCtx != some i.ctx
    switches := if x.lastCtx == some i.ctx then x.switches else sat32 x.switches 1
    lastCtx := some i.ctx, run, div, share, stream := st }

def State.streamOf (s : State) (cn : Nat) : Option StreamState := (s.ctx? cn).map (·.codec.stream)

/-- How an item's picture divides: a decode unit's as its codec lets it, any other not at all. -/
def State.divOf (s : State) (i : Item) (d : Division) : Division :=
  if i.kind == 0x0601 then divFor (((s.ctx? i.ctx).map (·.codec.codec)).getD 0) d else .whole

/-- Starts a picture: it leaves its queue; a forced IDR and the source picture are settled here (R177, R183). -/
def State.takePic (s : State) (k : Nat) (i : Item) (run : Nat) (d : Division) : State :=
  let src := if i.fromDecode then (s.encSource i.ctx i.tenant).map fun x => x.2.order else none
  let force := i.kind == 0x0602 && (((s.ctx? i.ctx).map (·.codec.forceIdr)).getD false) && !bitOf i.dflags 2
  let i' := { i with pic := src, dflags := if force then i.dflags + 4 else i.dflags }
  let s := if i.kind == flushKind then s.updCtx i.ctx fun c => { c with codec.flushAt := none } else s.unqueue i
  let s := if i.kind == 0x0602 then s.updCtx i.ctx fun c => { c with codec.forceIdr := false } else s
  { s.updCore k fun x => x.take i' s.now 1 run (s.divOf i d) 0 (s.streamOf i.ctx) with trowel.pllOn := true }.regate

/-- A picture that an error touched starts anew on a core, before others (R176, R262). -/
def State.takeAgain (s : State) (k : Nat) (a : Nat × Item × Nat) (d : Division) : State :=
  { s.updCore k fun x => x.take a.2.1 s.now a.2.2 1 (s.divOf a.2.1 d) 0 (s.streamOf a.1) with
    trowel.again := s.trowel.again.drop 1, trowel.pllOn := true }.regate

/-- A descriptor that fails its checks ends with one BAD_ARG record. -/
def State.failVideo (s : State) (i : Item) : State :=
  ((s.unqueue i).setPseq i.ctx i.leadPseq).release (s.plainRec i St.badArg true) []

/-- The core's next picture on a Solo or Primary; a Primary leads it (R281). -/
def State.startPic (s : State) (k : Nat) (d : Division) : State :=
  let (s, shedEs) := s.shedLed none
  match s.pickPic k with
  | none => (if s.leadsTrowel && !shedEs.isEmpty then s.sendLead 0xFFFF 0 shedEs else s).regate
  | some (i, run) =>
    let s := if s.leadsTrowel && i.kind != flushKind then s.sendLead 0xFFFF 0 (shedEs ++ s.itemEntries [] [i]) else s
    match s.ctx? i.ctx with
    | some c => if s.badVideo c i then s.failVideo i else s.takePic k i run d
    | none => s

/-- A lead of the pool that a Standby can act on: the first whose context has no earlier lead and no running picture, and whose item is
absent or ready. -/
def State.nextTrowelLead (s : State) : List (Nat × Nat × Nat × Nat) → List Nat → Option (Nat × Nat × Nat × Nat)
  | [], _ => none
  | e :: t, seen =>
    let go := match s.ctx? e.1 with
      | none => true
      | some c =>
        match List.find? (fun i : Item => i.seq == e.2.2.1) c.queue with
        | none => true
        | some i => s.readyVideo e.1 { c with queue := [i] } i
    if !seen.contains e.1 && (s.coresOf e.1).isEmpty && !s.restarts e.1 && go then some e else s.nextTrowelLead t (e.1 :: seen)

/-- R281 for the pool: the Standby runs the led picture; an absent one is counted, older queued ones are skipped. A new Primary runs what had been led
before anything else (R283). -/
def State.startTrowelLead (s : State) (k : Nat) (d : Division) : State :=
  match s.nextTrowelLead s.twin.trowel [] with
  | none =>
    (match List.find? (fun i : Item => i.kind == flushKind) s.readyPics with
      | some i => s.takePic k i 1 d
      | none => s)
  | some e =>
    let s := { s with twin.trowel := dropFirst (fun x => x == e) s.twin.trowel }
    let le : LeadEntry := ⟨e.1, e.2.1, 0, e.2.2.1, e.2.2.2, 0⟩
    let s := s.skipOlder [le]
    match s.ledItem le, s.ctx? e.1 with
    | some i, some c => if s.badVideo c i then s.failVideo i else s.takePic k i (if (s.core k).lastCtx == some i.ctx && decide ((s.core k).run < 4) then (s.core k).run + 1 else 1) d
    | _, _ => s.countAbsent

/-- Cores that a divided picture of a context may still take: MAX_CORES, and no more than it has shares. -/
def State.mayJoin (s : State) (k : Nat) : Option (Item × Core) :=
  let x := s.core k
  match x.busy with
  | some (n, i, _) =>
    (match s.ctx? n with
      | some c => if decide ((s.coresOf n).length < min c.codec.maxCores (divShares x.div)) then some (i, x) else none
      | none => none)
  | none => none

/-- A divided picture that one more core may join (R172): of the highest class, then the oldest. -/
def State.joinPic (s : State) : Option (Item × Core) :=
  let l := (List.range 16).filterMap s.mayJoin
  (sortBy (fun a b : Item × Core => decide (a.1.eff < b.1.eff) || (a.1.eff == b.1.eff && decide (a.1.order ≤ b.1.order))) l).head?

/-- A core joins a picture: it takes the next share. -/
def State.joinCore (s : State) (k : Nat) (i : Item) (x : Core) : State :=
  match x.busy with
  | some (_, _, t, r) => s.updCore k fun y => y.take i t r 1 x.div (s.coresOf i.ctx).length x.stream
  | none => s

/-- A free core takes a picture that restarts or else the next ready picture, or joins a picture that its codec divides. -/
def execTrowelPictureStart (core : Nat) (how : PicStart) (s : State) : Out :=
  .next (if !s.trowelRuns || !decide (core < 16) || !s.coreFree core then s
    else match how with
    | .join =>
      match s.joinPic with
      | some (i, x) => s.joinCore core i x
      | none => s
    | .take div =>
      match s.trowel.again with
      | a :: _ => s.takeAgain core a div
      | [] => if s.twin.role == 2 || (s.nextTrowelLead s.twin.trowel []).isSome then s.startTrowelLead core div else s.startPic core div)

/-- The PLL stops after 2 ms with no core and no Facing unit ungated (R223). -/
def execTrowelPllStop (s : State) : Out :=
  .next (if s.up && s.trowel.pllOn && (List.range 16).all (fun k => (s.core k).gated) && (List.range 4).all (fun p => (s.pier p).facing.isEmpty) && decide (tMs 2 ≤ s.since s.trowel.idleAt) then
      { s with trowel.pllOn := false }
    else s)

/-! ## Core time (R168, R170, R248) -/

/-- Pixels that count: each side rounded up to a multiple of 16. -/
def pixels (w h : Nat) : Nat := up w 16 * up h 16

/-- Core time of a picture in ns, rounded down: 2.1 Gpixel/s to decode, 0.5 Gpixel/s to encode, twice that with the PLL divided for heat, and 18 µs
for each core that switched. -/
def coreTime (encode halved : Bool) (px switches : Nat) : Nat := (if encode then 2 * px else px * 10 / 21) * (if halved then 2 else 1) + 18000 * switches

/-- Cores of a context's picture that began it with a switch. -/
def State.switchesOf (s : State) (cn : Nat) : Nat := ((s.coresOf cn).filter fun k => (s.core k).switched).length

/-! ## Bitstreams (R173) -/

/-- Writes a unit into the context's ring. -/
def State.ringBytes (s : State) (c : Ctx) (bs : List Byte) : State :=
  let room := 2 ^ 22 - c.codec.ringPos
  (s.hbmWriteN c.tenant (c.codec.poolOff + c.codec.ringPos) (bs.take room)).hbmWriteN c.tenant c.codec.poolOff (bs.drop room)

/-- A copy ends. What becomes of a unit whose host read fails is not stated: it ends with one BAD_ARG record. -/
def execBitstreamCopyDone (ctx : Nat) (rd : HostRead) (s : State) : Out :=
  .next (match s.ctx? ctx with
    | none => s
    | some c =>
      match c.toCopy with
      | none => s
      | some i =>
        let ks := s.spanStacks c.tenant c.codec.poolOff (2 ^ 22)
        if c.codec.state != 1 || !s.hbmServes ks then s
        else s.intDone (.unit ctx i.order) fun s =>
          match rd with
          | .ok =>
            ((s.touchStacks ks).ringBytes c (s.hostReadN i.addr i.length)).updCtx ctx fun c =>
              { c with codec.copied := c.codec.copied ++ [i.order], codec.ringPos := (c.codec.ringPos + i.length) % 2 ^ 22 }
          | .err e => ({ s with host.aer := e :: s.host.aer }).failVideo i)

/-! ## The stream against the codec and the context (R167, R175) -/

/-- Profile, level and tools that the table Codec support names; a level outside it is OVER_LIMIT. -/
def supported (x : StreamInfo) (codec : Nat) : Bool :=
  !x.otherTool && x.yuv420 &&
    match codec with
    | 0 => (x.profile == .main || x.profile == .main10) && !x.mono
    | 1 => (x.profile == .constrainedBaseline || x.profile == .main || x.profile == .high) && !x.mono && x.depth == 8
    | _ => x.profile == .main

def topLevel (codec : Nat) : Nat := if codec == 1 then 52 else 51

/-- Size, depth and level that the context can hold. -/
def Codec.fits (x : Codec) (i : StreamInfo) : Bool :=
  decide (i.width ≤ x.maxW) && decide (i.height ≤ x.maxH) && decide (i.depth ≤ x.bitDepth) && decide (i.level10 ≤ topLevel x.codec)

/-- A picture that fits the pool. -/
def Codec.holds (x : Codec) (p : PicOut) : Bool := decide (p.width ≤ x.maxW) && decide (p.height ≤ x.maxH) && decide (p.bitDepth ≤ x.bitDepth)

/-- A unit that is passed over: one without a parameter set after NO_PARAM_SETS, one that is no random-access point after UNSUPPORTED or
OVER_LIMIT. It is not decoded, so no error arises (log 129). -/
def Codec.skips (x : Codec) (res : CodecResult) : Bool := (x.needParams && res.stream.paramSets.isEmpty) || (x.skipping && res.picType != 0)

/-- The stream error of a unit by the table Stream error codes; 1 to 3 are concealed, 4 to 6 yield no picture. -/
def Codec.unitError (x : Codec) (res : CodecResult) : Nat :=
  if x.skips res then 0
  else if res.stream.paramSets.isEmpty then 6
  else if !supported res.info x.codec then 4
  else if !x.fits res.info then 5
  else res.streamError % 4

/-- The unit yields no picture of its own. -/
def Codec.blocks' (x : Codec) (res : CodecResult) : Bool := x.skips res || decide (4 ≤ x.unitError res)

/-- The picture of the unit predicts, directly or through others, from a concealed one; the marking stops at a random-access point that decodes
without error (R176). -/
def Codec.refMarked (x : Codec) (refs : List Nat) : Bool :=
  refs.any fun k => decide (k < x.sinceRap) && match x.unitHist[k]? with | some u => !u.conc.isEmpty || u.refConcealed | none => false

def cleanRap (err : Nat) (res : CodecResult) : Bool := res.picType == 0 && err == 0 && res.conc.isEmpty

/-- What is remembered of a unit for the pictures that it makes outputable, now or later. -/
def Codec.unitRec (x : Codec) (i : Item) (res : CodecResult) (cores ns : Nat) : UnitRec :=
  let err := x.unitError res
  let dec := !x.blocks' res
  { pts := BitVec.ofNat 64 (field i.args 0 8), picType := res.picType % 4, cores, ns, error := err, concUnits := if dec then res.concUnits else 0, refConcealed := dec && !cleanRap err res && x.refMarked res.refs, grain := res.grain && x.codec == 2, conc := if dec then res.conc else [] }

/-- The unit that carried a picture: 0 back is the one under way. -/
def Codec.carrier (x : Codec) (u : UnitRec) (ago : Nat) : UnitRec := (u :: x.unitHist).getD ago u

/-! ## Concealment (R176) -/

/-- Mid-grey of a plane's byte: 128 at 8 bits; at 10 bits 512 in [15:6]. -/
def grey (depth k : Nat) : Byte := if depth == 8 then 0x80 else if k % 2 == 0 then 0x00 else 0x80

/-- The replacement of a byte: the co-located one of the previous picture in output order, else mid-grey. -/
def concealed (prev : Option (List Byte)) (depth k : Nat) : Byte :=
  match prev with
  | some b => (b[k]?).getD (grey depth k)
  | none => grey depth k

/-- The planes with every byte of the concealed ranges (first byte and length) replaced. -/
def concealPlanes (prev : Option (List Byte)) (depth : Nat) (conc : List (Nat × Nat)) (data : List Byte) : List Byte :=
  data.zipIdx.map fun b => if conc.any fun r => decide (r.1 ≤ b.2) && decide (b.2 < r.1 + r.2) then concealed prev depth b.2 else b.1

/-! ## Decoded units (R174-R176) -/

def UnitRec.isConc (u : UnitRec) : Bool := !u.conc.isEmpty

/-- DETAIL: CORES is that of the picture, 1 to 8. -/
def videoDetail (ev : Nat) (u : UnitRec) (flags : Bool) (err : Nat) : Nat :=
  ev + (if flags then boolN u.isConc * 2 ^ 4 + boolN u.refConcealed * 2 ^ 5 + boolN u.grain * 2 ^ 6 else 0) + min 8 (max 1 u.cores) * 2 ^ 7 + err * 2 ^ 16

def videoBody (u : UnitRec) (off slot width height depth order : Nat) : List Byte :=
  leBytes 8 u.pts.toNat ++ leBytes 6 off ++ leBytes 1 slot ++ leBytes 1 u.picType ++ leBytes 2 width ++ leBytes 2 height ++ leBytes 4 order ++ leBytes 2 u.concUnits ++
    leBytes 1 depth ++ [0] ++ leBytes 4 u.ns

/-- An encode frame reads the picture now (R26). -/
def State.encReads (s : State) (c : Ctx) (p : Pic) : Bool :=
  bitOf c.codec.consumers 1 &&
    (((s.coresOf c.codec.encCtx).any fun k => match (s.core k).busy with | some (_, i, _) => i.pic == some p.order | none => false) ||
      s.trowel.again.any fun a => a.1 == c.codec.encCtx && a.2.1.pic == some p.order)

/-- What a dropped picture leaves: its samples, for the batch and the frame that read it. -/
def State.dropPic (s : State) (cn : Nat) (c : Ctx) (p : Pic) : List Pic :=
  [{ p with dropped := true, needVision := (s.picsTaken cn).contains p.order, needEncode := s.encReads c p }].filter fun q => q.needVision || q.needEncode

/-- A decode unit under way: its context, item and what is remembered of it. -/
structure Unit' where
  cn : Nat
  item : Item
  u : UnitRec

def State.videoRec (s : State) (u : Unit') (detail : Nat) (body : List Byte) : Rec := s.itemRec u.item 3 St.ok detail false body

/-- Pictures that await consumers. -/
def Codec.awaiting (x : Codec) : List Pic := x.pics.filter fun p => !p.dropped

/-- R174: where OUT_QUEUE pictures await consumers, the oldest of them is dropped; its samples stay while a batch or a frame reads them. -/
def State.poolRoom (s : State) (u : Unit') : State × List Rec :=
  match s.ctx? u.cn with
  | none => (s, [])
  | some c =>
    match c.codec.awaiting with
    | [] => (s, [])
    | p :: _ =>
      if c.codec.awaiting.length < c.codec.outQueue then (s, [])
      else
        (s.updCtx u.cn fun c => { c with codec.pics := (c.codec.pics.map fun q => if q.order == p.order then s.dropPic u.cn c p else [q]).flatten },
          [s.videoRec u (videoDetail 2 p.unit true p.unit.error) (videoBody p.unit (c.codec.slotOff p.slot) p.slot p.width p.height p.bitDepth p.order)])

/-- Puts an output picture into the pool, and gives its PICTURE record. With CONSUMERS 0 the pictures output form a ring of OUT_QUEUE slots. -/
def State.keepPic (s : State) (u : Unit') (p : PicOut) (r : UnitRec) (data : List Byte) : State × List Rec :=
  match s.ctx? u.cn with
  | none => (s, [])
  | some c =>
    let x := c.codec
    let slot := if x.consumers == 0 then x.outN % max 1 x.outQueue else (leastBelow 64 fun n => !(x.pics.any fun q => q.slot == n)).getD 0
    let pic : Pic := { slot, order := x.nextOrder, width := p.width, height := p.height, bitDepth := p.bitDepth, needVision := bitOf x.consumers 0, needEncode := bitOf x.consumers 1, unit := r, matrix := p.matrix, range := p.range, mono := p.mono }
    let s := s.hbmWriteN c.tenant (x.slotOff slot) (data.take (picBytes x.maxW x.maxH x.bitDepth))
    (s.updCtx u.cn fun c => { c with codec.nextOrder := x.nextOrder + 1, codec.outN := x.outN + 1, codec.pics := if x.consumers == 0 then [] else x.pics ++ [pic] },
      [s.videoRec u (videoDetail 0 r true r.error) (videoBody r (x.slotOff slot) slot p.width p.height p.bitDepth x.nextOrder)])

/-- One picture that the unit makes outputable: FORMAT_CHANGE before a new size, then PICTURE, or DROPPED under CONCEAL 1. -/
def State.outPic (s : State) (u : Unit') (p : PicOut) : State × List Rec :=
  match s.ctx? u.cn with
  | none => (s, [])
  | some c =>
    let x := c.codec
    let size := (p.width, p.height, p.bitDepth)
    let r := x.carrier u.u p.unitsAgo
    let data := concealPlanes x.prevOut p.bitDepth r.conc p.data
    let fc := if x.lastSize != (0, 0, 0) && x.lastSize != size then [s.videoRec u (videoDetail 4 r false 0) (videoBody r 0 0 p.width p.height p.bitDepth x.nextOrder)] else []
    let s := s.updCtx u.cn fun c => { c with codec.lastSize := size, codec.prevOut := some data }
    if x.conceal == 1 && (r.isConc || r.refConcealed) then
      (s.updCtx u.cn fun c => { c with codec.nextOrder := x.nextOrder + 1 }, fc ++ [s.videoRec u (videoDetail 2 r true r.error) (videoBody r 0 0 p.width p.height p.bitDepth x.nextOrder)])
    else
      let (s, dropped) := if x.consumers == 0 then (s, []) else s.poolRoom u
      let (s, pic) := s.keepPic u p r data
      (s, fc ++ dropped ++ pic)

def State.outPics (s : State) (u : Unit') : List PicOut → State × List Rec
  | [] => (s, [])
  | p :: t =>
    let (s1, a) := s.outPic u p
    let (s2, b) := s1.outPics u t
    (s2, a ++ b)

/-- Groups of records become releases: the first is judged by its deadline and takes a lead's PSEQ. -/
def videoRels (i : Item) (rs : List Rec) : List Rel :=
  rs.zipIdx.map fun r => { r := r.1, item := i, judge := r.2 == 0, lead := if r.2 == 0 then i.leadPseq else none }

/-- What a unit leaves in its context: stream state, history, skipping, core time. A flush carries no picture. -/
def Codec.afterUnit (x : Codec) (i : Item) (res : CodecResult) (r : UnitRec) : Codec :=
  let x := { x with coreNs := sat64 x.coreNs r.ns }
  if i.kind == flushKind then { x with stream := res.stream }
  else
    let err := x.unitError res
    let y := { x with stream := res.stream, unitHist := (r :: x.unitHist).take 64 }
    if x.skips res then { y with sinceRap := x.sinceRap + 1 }
    else { y with needParams := err == 6, skipping := err == 4 || err == 5, sinceRap := if cleanRap err res then 1 else x.sinceRap + 1 }

/-- Outputs of a unit that come: pictures that fit; of a unit that yields none of its own, those of earlier units. -/
def Codec.outputs (x : Codec) (i : Item) (res : CodecResult) : List PicOut :=
  res.outputs.filter fun p => x.holds p && (i.kind == flushKind || !x.blocks' res || decide (0 < p.unitsAgo))

/-- A picture of an earlier unit, as a flush sees it: nothing of it is the flush's own. -/
def flushAgo (i : Item) (p : PicOut) : PicOut := if i.kind == flushKind then { p with unitsAgo := max 1 p.unitsAgo } else p

/-- The records of a decode unit, or of a flush (R175). -/
def State.decodeUnit (s : State) (cn : Nat) (i : Item) (res : CodecResult) (cores ns : Nat) : State × List Rel :=
  match s.ctx? cn with
  | none => (s, [])
  | some c =>
    let x := c.codec
    let flush := i.kind == flushKind
    let err := if flush then 0 else x.unitError res
    let r := if flush then ({ cores, ns } : UnitRec) else x.unitRec i res cores ns
    let u : Unit' := ⟨cn, i, r⟩
    let own (ev e : Nat) : Rec := s.videoRec u (videoDetail ev r false e) (videoBody r 0 0 0 0 0 0)
    let (s, pics) := s.outPics u ((x.outputs i res).map (flushAgo i))
    let es := (if err == 0 then [] else [own 3 err]) ++ if res.eos || flush then [own 5 0] else []
    let rs := if (pics ++ es).isEmpty then [own 1 0] else pics ++ es
    (s.updCtx cn fun c => { c with codec := c.codec.afterUnit i res r }, videoRels i rs)

/-! ## Encoded units (R177-R180) -/

/-- The decoded picture that a frame under FROM_DECODE took, with its tenant offset. -/
def State.encPic (s : State) (cn : Nat) (i : Item) : Option (Nat × Pic) :=
  i.pic.bind fun o => s.ctxs.findSome? fun d =>
    if d.2.group == 6 && d.2.codec.encCtx == cn && d.2.tenant == i.tenant then (List.find? (fun p : Pic => p.order == o) d.2.codec.pics).map fun p => (d.2.codec.slotOff p.slot, p)
    else none

/-- PTS and samples of the source picture: a decoded picture's, or those at ADDR, for which no PTS is named. -/
def State.encInput (s : State) (cn : Nat) (i : Item) : W64 × List Byte :=
  if i.fromDecode then
    match s.encPic cn i with
    | some (off, p) => (p.unit.pts, s.hbmReadN i.tenant off (picBytes p.width p.height p.bitDepth))
    | none => (0, [])
  else (0, s.hbmReadN i.tenant i.addr i.length)

/-- The encode consumer takes its picture (R174). -/
def State.encTaken (s : State) (cn : Nat) (i : Item) : State :=
  match i.pic with
  | none => s
  | some o =>
    { s with ctxs := s.ctxs.mapVals fun _ d =>
        if d.group == 6 && d.codec.encCtx == cn && d.tenant == i.tenant && bitOf d.codec.consumers 1 then
          { d with codec.pics := (d.codec.pics.map fun p => if p.order == o then { p with needEncode := false } else p).filter fun p => p.needVision || p.needEncode }
        else d }

def encDetail (k : Coded) (big : Bool) : Nat :=
  k.type + boolN k.idr * 2 ^ 2 + boolN big * 2 ^ 3 + boolN k.hrd * 2 ^ 4 + k.avgQp * 2 ^ 5

def encBody (k : Coded) (written regions ns : Nat) : List Byte :=
  leBytes 4 written ++ leBytes 4 k.unit.length ++ leBytes 8 k.pts.toNat ++ leBytes 4 k.order ++ leBytes 1 regions ++ leBytes 3 0 ++ leBytes 4 ns

/-- An encoded unit: written up to OUT_CAP; an oversize unit makes the next frame an IDR. With OUT_HOST its record waits for the copy. -/
def State.encodeUnit (s : State) (cn : Nat) (i : Item) (ns : Nat) : State × List Rel :=
  match s.ctx? cn with
  | none => (s, [])
  | some c =>
    let src := s.encInput cn i
    let k := c.codec.codeFrame (bitOf i.dflags 2) (s.rois i) src.1 src.2
    let out := k.unit.take c.codec.outCap
    let big := decide (c.codec.outCap < k.unit.length)
    let r := s.itemRec i 4 St.ok (encDetail k big) true (encBody k out.length (s.rois i).length ns)
    let s := (s.encTaken cn i).updCtx cn fun c => { c with codec := { k.next with forceIdr := c.codec.forceIdr || big } }
    if i.outHost then
      ({ s with mem.copies := s.mem.copies ++ [⟨s.mem.nextCopy, c.tenant, [r], out, i.outAddr, out, i.due, 0, 0, i.leadPseq⟩], mem.nextCopy := s.mem.nextCopy + 1 }, [])
    else (s.hbmWriteN c.tenant i.outAddr out, [{ r, item := i, judge := true, att := out, lead := i.leadPseq }])

/-! ## The codec frame boundary -/

/-- Reference lines fetched stay in a core's 256 KiB cache, tagged by tenant and physical address, the newest first. -/
def State.cacheLines (s : State) (tenant : Nat) (lines : List Nat) : List (Nat × Nat) :=
  lines.filterMap fun o => (s.physAddr tenant o).map fun a => (tenant, a / 64)

/-- A line is in the cache of a core for a tenant only under its own tag. -/
def Core.hits (x : Core) (tenant line : Nat) : Bool := x.cache.contains (tenant, line)

/-- The core writes its stream state back and is free (R170). -/
def Core.free (x : Core) (lines : List (Nat × Nat)) : Core :=
  { x with busy := none, switched := false, div := .whole, share := 0, stream := none, cache := (lines ++ x.cache.filter fun l => !lines.contains l).take 4096 }

/-- The cores of a picture become free and their time counts (R183, R186). -/
def State.freeCores (s : State) (cn ns : Nat) (lines : List (Nat × Nat)) : State :=
  let s := (s.coresOf cn).foldl (fun s k => s.updCore k fun x => x.free lines) s
  { s with trowel.busyNs := sat64 s.trowel.busyNs ns, trowel.recent := (s.now, ns) :: s.trowel.recent.filter fun p => decide (s.now ≤ p.1 + tMs 100) }

/-- End of stream of a flush whose picture was lost: its EOS record with the status. -/
def State.eosRec (s : State) (i : Item) (status : Nat) : Rec := s.itemRec i 3 status 5 false (leBytes 8 0)

/-- An error touched the picture: it waits to restart from its codec frame boundary, on any core in service, or its fourth run ends it
(R184, R262, R263). -/
def State.errorPic (s : State) (core cn : Nat) (i : Item) (run : Nat) : State × List Rel :=
  if run < 4 then
    let s := { s with flt.restarts := sat32 s.flt.restarts 1 }.postT 0x0A05 6 core (leBytes 2 0xFFFF ++ leBytes 1 (run + 1) ++ [0] ++ leBytes 4 i.seq) { action := 1, ctx := cn }
    ({ s with trowel.again := s.trowel.again ++ [(cn, i, run + 1)] }, [])
  else
    let s := { s with flt.aborted := sat32 s.flt.aborted 1 }.postT 0x0A06 6 core (leBytes 2 0xFFFF ++ [0, 0] ++ leBytes 4 i.seq) { ctx := cn }
    let decode := (((s.ctx? cn).map (·.codec.state)).getD 0) == 1
    (s, if i.kind == flushKind then (if decode then [{ r := s.eosRec i St.abortedFault, item := i }] else [])
      else [{ r := s.plainRec i St.abortedFault false, item := i, lead := i.leadPseq }])

/-- A decode unit that came after a shed one is shed up to the next random-access point; Guard items never are (R193). -/
def State.shedNow (s : State) (cn : Nat) (i : Item) (res : CodecResult) : Bool :=
  i.kind == 0x0601 && i.eff != 0 && res.picType != 0 &&
    match s.ctx? cn with
    | some c => (match c.codec.shedFrom with | some o => decide (o < i.order) | none => false)
    | none => false

/-- A random-access point after the shed unit ends the shedding. -/
def Codec.resume (x : Codec) (i : Item) (res : CodecResult) : Codec :=
  match x.shedFrom with
  | some o => if o < i.order && res.picType == 0 && i.kind != flushKind then { x with shedFrom := none } else x
  | none => x

/-- What the picture yields where its context still receives records. -/
def State.finishPic (s : State) (core cn : Nat) (i : Item) (run : Nat) (res : CodecResult) (hw : Bool) (cores ns : Nat) : State × List Rel :=
  if !s.tenantOpen i.tenant then (s, if i.kind == flushKind then [] else [{ r := s.plainRec i St.tenantClosed false, item := i, lead := i.leadPseq }])
  else if hw then s.errorPic core cn i run
  else if s.shedNow cn i res then ((s.setPseq cn i.leadPseq).shedItem i 1, [])
  else if i.kind == 0x0602 then s.encodeUnit cn i ns
  else if i.kind == flushKind && (((s.ctx? cn).map (·.codec.state)).getD 0) == 2 then (s, [])
  else (s.updCtx cn fun c => { c with codec := c.codec.resume i res }).decodeUnit cn i res cores ns

/-- After a picture: its bytes leave the ring, a flush ends, a removed context goes. -/
def State.picOver (s : State) (cn : Nat) (i : Item) : State :=
  if s.restarts cn then s
  else
    let s := s.updCtx cn fun c => { c with codec.copied := removeNat c.codec.copied i.order }
    let s := if i.kind == flushKind then s.flushOver cn else s
    match s.ctx? cn with
    | some c => if c.removing then s.dropCtx cn else s
    | none => s

/-- Core time of the picture that ends on a context's cores. A unit that yields no picture of its own, and a flush, decode no pixels. -/
def State.picNs (s : State) (cn : Nat) (i : Item) (res : CodecResult) : Nat :=
  match s.ctx? cn with
  | none => 0
  | some c =>
    let px := if i.kind == 0x0602 then pixels c.codec.maxW c.codec.maxH else if i.kind == flushKind || c.codec.blocks' res then 0 else pixels res.info.width res.info.height
    coreTime (i.kind == 0x0602) s.trowel.halved px (s.switchesOf cn)

/-- HBM stacks of a context's ring and pool. -/
def State.poolStacks (s : State) (cn : Nat) : List Nat :=
  match s.ctx? cn with
  | some c => s.spanStacks c.tenant c.codec.poolOff (c.codec.poolPages * 2 ^ 21)
  | none => []

/-- CODEC_FRAME_BOUNDARY on any core of a picture; `hw` is the part of the core that reported an error (R258). The picture stalls while its HBM
serves no request (R184, R249). -/
def execCodecFrameBoundary (core : Nat) (res : CodecResult) (hw : Option Nat) (s : State) : Out :=
  .next (match (s.core core).busy with
    | none => s
    | some (cn, i, _, run) =>
      if !s.up || s.power.hold || !s.hbmServes (s.poolStacks cn) then s
      else
        let cores := (s.coresOf cn).length
        let ns := s.picNs cn i res
        let s := (s.touchStacks (s.poolStacks cn)).freeCores cn ns (s.cacheLines i.tenant res.lines)
        let s := match hw with
          | some p => (s.errorEvent 6 core 3 p i.seq true).wantTest 6 core 0
          | none => s
        let (s, rels) := if s.live cn then s.finishPic core cn i run res hw.isSome cores ns else (s, [])
        ((((s.releaseGroup rels).picOver cn i).regate.guardRecheckAll none).trySafeHold).landDue)

/-! ## Commands (R183) -/

def decodeOpenOk (s : State) (q : Req) (tenant : Nat) : Bool :=
  decide (q.u8 2 ≤ 2) && btw 1 (q.u8 3) 8 && btw 16 (q.u16 4) 8192 && btw 16 (q.u16 6) 8192 && (q.u8 8 == 8 || q.u8 8 == 10) && btw 2 (q.u8 9) 32 && decide (q.u8 0xA ≤ 1) &&
    decide (q.u8 0xB ≤ 3) && (!bitOf (q.u8 0xB) 1 || (match s.ctx? (q.u16 0xC) with | some c => c.group == 6 && c.tenant == tenant | none => false))

/-- An opened context keeps nothing of an earlier configuration; its counters are cleared. -/
def decodeCodec (q : Req) (off pages : Nat) : Codec :=
  { codec := q.u8 2, maxCores := q.u8 3, maxW := q.u16 4, maxH := q.u16 6, bitDepth := q.u8 8, outQueue := q.u8 9, conceal := q.u8 0xA, consumers := q.u8 0xB, encCtx := q.u16 0xC, poolOff := off, poolPages := pages }

def encodeCodec (q : Req) (off pages : Nat) : Codec :=
  { codec := q.u8 2, rc := q.u8 3, maxCores := 1, maxW := q.u16 4, maxH := q.u16 6, fpsNum := q.u16 8, fpsDen := q.u16 0xA, bitrate := q.u32 0xC, maxKbps := q.u32 0x10, hrdMs := q.u16 0x14, qp := (List.range 5).map fun i => q.u8 (0x16 + i), bFrames := q.u8 0x1B, gop := q.u16 0x1C, refs := q.u8 0x1E, outCap := q.u32 0x20, poolOff := off, poolPages := pages }

def encodeOpenOk (q : Req) : Bool :=
  decide (q.u8 2 ≤ 1) && decide (q.u8 3 ≤ 2) && decide (1 ≤ q.u16 4) && decide (1 ≤ q.u16 6) && decide (1 ≤ q.u16 8) && decide (1 ≤ q.u16 0xA) && btw 10 (q.u32 0xC) 200000 &&
    btw 100 (q.u16 0x14) 10000 && (List.range 5).all (fun i => decide (q.u8 (0x16 + i) ≤ 51)) && decide (q.u8 0x19 ≤ q.u8 0x1A) && decide (q.u8 0x1B ≤ 3) && btw 1 (q.u16 0x1C) 1024 && btw 1 (q.u8 0x1E) 4

/-- Opens a New codec context over `pics` pool pictures and `ring` pages of bitstream ring. -/
def State.openVideo (s : State) (q : Req) (c : Ctx) (pics each ring newState : Nat) (mk : Nat → Nat → Codec) : State × Resp :=
  let n := q.u16 0
  let bytes := pics * each
  let pages := ring + pagesOf bytes
  let pay := leBytes 2 pics ++ [0, 0] ++ leBytes 8 bytes
  if s.held (2, n) then (s, failR St.busy)
  else if s.quotaLeft c.tenant < pages * 2 ^ 21 then (s, failR St.noResource)
  else
    match s.allocPages c.tenant pages (fun _ => none) with
    | none => (s, failR St.noResource)
    | some (pg, s1) =>
      if c.codec.state != 0 then (s, failR St.refused 1)
      else
        let s2 := (s1.useQuota c.tenant (pages * 2 ^ 21)).updCtx n fun c => { c with codec := mk (pg * 2 ^ 21) pages }
        if pages == 0 then (s2.updCtx n fun c => { c with codec.state := newState }, okR pay)
        else
          let (s3, a) := s2.accept q (.mapFrames n)
          (s3, { a with payload := pay })

def State.vidDecodeOpen (s : State) (q : Req) : State × Resp :=
  match s.ctxFor q 6 with
  | none => (s, failR St.badArg)
  | some c =>
    if !decodeOpenOk s q c.tenant then (s, failR St.badArg)
    else s.openVideo q c (17 + q.u8 9) (picBytes (q.u16 4) (q.u16 6) (q.u8 8)) 2 1 (decodeCodec q)

def execVidDecodeOpen (m : Mb) (s : State) : Out := .next (s.mbRun m 0x0601 true (lenIs 16 [(0xE, 2)]) State.vidDecodeOpen)

/-- The number of pool pictures of an encode context is not stated. -/
def encPoolPics (refs bFrames : Nat) : Nat := Config.unstated 7 [refs, bFrames] % 64

def State.vidEncodeOpen (s : State) (q : Req) : State × Resp :=
  match s.ctxFor q 6 with
  | none => (s, failR St.badArg)
  | some c =>
    if !encodeOpenOk q then (s, failR St.badArg)
    else s.openVideo q c (encPoolPics (q.u8 0x1E) (q.u8 0x1B)) (picBytes (q.u16 4) (q.u16 6) 8) 0 2 (encodeCodec q)

def execVidEncodeOpen (m : Mb) (s : State) : Out := .next (s.mbRun m 0x0602 true (lenIs 36 [(0x1F, 1)]) State.vidEncodeOpen)

/-- OUT_FMT: UINT8, FP16, BF16 or FP8 E4M3. -/
def facingOk (q : Req) : Bool :=
  (List.range 4).all (fun i => q.u16 (2 + 2 * i) % 2 == 0) && decide (1 ≤ q.u16 6) && decide (1 ≤ q.u16 8) && decide (1 ≤ q.u16 0xA) && decide (1 ≤ q.u16 0xC) && decide (q.u8 0xE ≤ 1) &&
    decide (q.u8 0xF ≤ 2) && decide (q.u8 0x10 ≤ 2) && decide (q.u8 0x11 ≤ 2) && ctrlOk (q.u8 0x12) && [0x10, 0x04, 0x03, 0x05].contains (ctrlFmt (q.u8 0x12)) && decide (q.u8 0x13 ≤ 1)

def facingOf (q : Req) : Facing :=
  { cropX := q.u16 2, cropY := q.u16 4, cropW := q.u16 6, cropH := q.u16 8, outW := q.u16 0xA, outH := q.u16 0xC, filter := q.u8 0xE, matrix := q.u8 0xF, range := q.u8 0x10, chOrder := q.u8 0x11, outFmt := q.u8 0x12, layout := q.u8 0x13, mean := (List.range 3).map fun i => q.w32 (0x14 + 4 * i), scale := (List.range 3).map fun i => q.w32 (0x20 + 4 * i) }

def State.vidFacing (s : State) (q : Req) : State × Resp :=
  match s.ctxFor q 6 with
  | none => (s, failR St.badArg)
  | some c =>
    if c.codec.state != 1 || !facingOk q then (s, failR St.badArg)
    else if s.held (2, q.u16 0) then (s, failR St.busy)
    else (s.updCtx (q.u16 0) fun c => { c with codec.facing := some (facingOf q) }, okR [])

def execVidFacing (m : Mb) (s : State) : Out := .next (s.mbRun m 0x0603 true (lenIs 44 []) State.vidFacing)

def State.vidForceIdr (s : State) (q : Req) : State × Resp :=
  match s.ctxFor q 6 with
  | none => (s, failR St.badArg)
  | some c =>
    if c.codec.state != 2 then (s, failR St.badArg)
    else if s.held (2, q.u16 0) then (s, failR St.busy)
    else (s.updCtx (q.u16 0) fun c => { c with codec.forceIdr := true }, okR [])

def execVidForceIdr (m : Mb) (s : State) : Out := .next (s.mbRun m 0x0604 true (lenIs 4 [(2, 2)]) State.vidForceIdr)

/-- Units queued by now run first; the flush then takes a core as they do. A New context has nothing to drain and answers BAD_ARG. -/
def State.vidFlush (s : State) (q : Req) : State × Resp :=
  match s.ctxFor q 6 with
  | none => (s, failR St.badArg)
  | some c =>
    if c.codec.state == 0 then (s, failR St.badArg)
    else if s.held (2, q.u16 0) then (s, failR St.busy)
    else (s.updCtx (q.u16 0) fun c => { c with codec.flushAt := some s.nextOrder }).accept q (.vidFlush (q.u16 0))

def execVidFlush (m : Mb) (s : State) : Out := .next (s.mbRun m 0x0605 true (lenIs 4 [(2, 2)]) State.vidFlush)

def State.vidQuery (s : State) (q : Req) : State × Resp :=
  match s.ctxFor q 6 with
  | none => (s, failR St.badArg)
  | some c =>
    let x := c.codec
    (s, okR (leBytes 1 x.state ++ leBytes 1 x.codec ++ leBytes 1 x.maxCores ++ [0] ++ leBytes 2 x.maxW ++ leBytes 2 x.maxH ++ leBytes 8 x.units ++ leBytes 8 x.pictures ++ leBytes 4 x.concealedN ++
      leBytes 4 x.dropped ++ leBytes 4 x.streamErrors ++ leBytes 4 x.oversize ++ leBytes 4 x.hrdViol ++ leBytes 4 0 ++ leBytes 8 x.coreNs))

def execVidQuery (m : Mb) (s : State) : Out := .next (s.mbRun m 0x0606 true (lenIs 4 [(2, 2)]) State.vidQuery)

/-- STATE of a core: 0 gated, 1 idle, 2 decoding, 3 encoding, 4 retired. -/
def State.coreState (s : State) (k : Nat) : Nat :=
  let x := s.core k
  if x.retired then 4
  else
    match x.busy with
    | some (n, _) => if (((s.ctx? n).map (·.codec.state)).getD 1) == 2 then 3 else 2
    | none => if x.gated then 0 else 1

def State.vidCores (s : State) (_q : Req) : State × Resp :=
  (s, okR (((List.range 16).map fun k =>
    leBytes 1 (s.coreState k) ++ leBytes 1 0 ++ leBytes 2 (match (s.core k).busy with | some (n, _) => n | none => 0) ++ leBytes 4 (s.core k).switches).flatten ++ leBytes 8 s.trowel.busyNs))

def execVidCores (m : Mb) (s : State) : Out := .next (s.mbRun m 0x0607 false (lenIs 0 []) State.vidCores)

end Sys2Proof.Machine
end

