-- ==== Sys2Proof/Machine/Power.lean ====
section
/-! DEFINITION. Power (11_power_clocks.md): the budget B and its governor (R224-R227), PWR_ALERT_N (R228), the cap's lease (R229), the supply
Hold (R230), the power commands (R237) and the orderly shutdown up to its CMD_DONE (R236). Power in watts arrives as operands. -/

namespace Sys2Proof.Machine

/-! ## The budget (R224, R225) -/

/-- Limit of a profile in watts. -/
def profileLimit (p : Nat) : Nat := if p == 0 then 1500 else if p == 1 then 900 else 300

/-- Fallback cap of the cabinet profile (R229, R320). -/
def State.fallbackW (s : State) : Nat := (s.fw.profile.map (·.fallbackW)).getD 900

/-- B in 1/16 W: the least of the cap in force, the profile limit and P_flow. -/
def State.budget16 (s : State) : Int := min (min (16 * s.power.capW : Int) (16 * profileLimit s.profile)) s.therm.pFlow

/-- BUDGET_W. -/
def State.budgetW (s : State) : Nat := (s.budget16 / 16).toNat

/-- LIMIT_SRC: which of the three gives B, the first named where several do. -/
def State.limitSrc (s : State) : Nat :=
  if s.budget16 == (16 * s.power.capW : Int) then 0 else if s.budget16 == (16 * profileLimit s.profile : Int) then 1 else 2

/-- Measured power is above B. -/
def State.overBudget (s : State) (watts : Nat) : Bool := decide (s.budget16 < 16 * watts)

/-- PROFILE_CHANGE, where the profile in force is not `old` (R225). -/
def State.noteProfile (s : State) (old : Nat) : State :=
  if s.profile == old then s else s.post 0x0803 0 0 (leBytes 1 s.profile ++ leBytes 1 s.safeCauses)

/-! ## Rate levels and the floor step (R226, R227) -/

/-- Sets every Course's rate level by a function of the level. -/
def State.mapRates (s : State) (f : Nat → Nat) : State := (List.range 16).foldl (fun s c => s.updCourse c fun k => { k with r := f k.r }) s

def State.lowestRate (s : State) : Nat := (List.range 16).foldl (fun a c => min a (s.course c).r) 16

/-- A floor step, a Hold or a Quench aborts a periodic BIST slice (R268). -/
def State.abortSlices (s : State) : State :=
  { s with courses := s.courses.mapVals fun _ k => { k with occupied := k.occupied.filter fun o => o.1 != 0 } }

def State.postFloor (s : State) : State := s.post 0x0804 0 0 (leBytes 2 s.budgetW ++ leBytes 1 s.lowestRate)

/-- Step 1 of the floor step: every rate level above 8 falls to 8. -/
def State.floorStep (s : State) : State :=
  let s := s.mapRates (min 8)
  { s with power.floor := true, power.floorAt := s.now, power.climbing := false, power.floorSteps := sat32 s.power.floorSteps 1 }.abortSlices.postFloor

/-- The governor acts: not in a Hold or a Quench (R238). A floor step under way that has not begun to climb goes on by its own steps. -/
def State.floorIfOver (s : State) (watts : Nat) : State :=
  if s.overBudget watts && !s.power.hold && !s.therm.quench && (!s.power.floor || s.power.climbing) then s.floorStep else s

/-- A governor sample: the 10 µs average, and the averages of the last 1 ms. -/
def State.measure (s : State) (watts : Nat) : State := { s with power.pinW := watts, power.samples := (watts :: s.power.samples).take 100 }

/-- PIN_W: the 1 ms average, rounded down. -/
def State.pinMean (s : State) : Nat := sumNat s.power.samples / max 1 s.power.samples.length

/-- Tile clock of a level in MHz, by the table Rate levels. -/
def tileClock (level : Nat) : Nat := if 9 ≤ level then 1500 else if 5 ≤ level then 750 else 375

/-- A Course's tiles run at the clock of min(r, t), its Pier at that of the highest r of its Courses (R223, R247). -/
def State.courseClock (s : State) (c : Nat) : Nat := tileClock (s.course c).level
def State.pierClock (s : State) (p : Nat) : Nat := tileClock ((List.range 4).foldl (fun a i => max a (s.course (4 * p + i)).r) 0)

/-- A change of B: the floor step where the measured draw is above it (R227, R238). -/
def State.review (s : State) : State := s.floorIfOver s.power.pinW

def State.quietCourses (s : State) : State := (List.range 16).foldl (fun s c => s.updCourse c fun k => { k with busyAt := s.now }) s

/-- Keep-warm holds again for every partition (R94). -/
def State.rewarm (s : State) : State := s.parts.keys.foldl (fun s p => s.warmCourses p) s

/-- Step 3 stops: the floor step is over, and the time it lasted counts toward no gating (R93, R94). -/
def State.floorEnd (s : State) : State := ({ s with power.floor := false, power.climbing := false }.quietCourses).rewarm

/-- Every 10 µs: the measured average against B. -/
def execGovernorSample (watts : Nat) (s : State) : Out :=
  .next (if s.up then (s.measure watts).floorIfOver watts else s)

/-- 40 µs after step 1 the power is still over B: r above 4 falls to 4, or to the highest level `fit` predicted to fit. -/
def execFloorStepSecondStage (watts fit : Nat) (s : State) : Out :=
  .next (if s.up && s.power.floor && !s.power.climbing && !s.power.hold && !s.therm.quench && decide (tUs 40 ≤ s.since s.power.floorAt) && s.overBudget watts then
      ({ s with power.pinW := watts }.mapRates (min (min 4 (max 1 fit)))).postFloor
    else s)

/-- Raises every Course at the lowest level by one. -/
def State.raiseRates (s : State) : State :=
  let lo := s.lowestRate
  s.mapRates fun r => if r == lo then min 16 (r + 1) else r

/-- Every 1 ms: `watts` measured, `predicted` at the next level. A draw above B starts the floor step; a climb that does not fit ends one in
force. After a floor step has ended, a risen B lets r climb on (R227 "from then on", R242). -/
def execRateClimb (watts predicted : Nat) (s : State) : Out :=
  .next (if s.up && !s.power.hold && !s.therm.quench && s.power.pwrAlertN && decide (tMs 1 ≤ s.since s.power.floorAt) then
      let s := { s with power.pinW := watts }
      if s.overBudget watts then (if s.power.floor && !s.power.climbing then s else s.floorStep)
      else if s.lowestRate < 16 && decide (1600 * (predicted : Int) ≤ 99 * s.budget16) then
        let s := s.raiseRates
        let s := { s with power.floorAt := s.now, power.climbing := s.power.floor }
        if s.power.floor && s.lowestRate == 16 then s.floorEnd else s
      else if s.power.floor then s.floorEnd else s
    else s)

/-! ## PWR_ALERT_N (R228) -/

/-- R18 names PWR_ALERT_N as a trigger of the floor step, so it is one in force until its climb stops. -/
def execPwrAlertNAssert (s : State) : Out :=
  .next (if s.power.pwrAlertN then
      let s := { s with power.pwrAlertN := false }
      if s.up then
        let s := s.mapRates (min 4)
        ({ s with power.floor := true, power.floorAt := s.now, power.climbing := false, power.alerts := sat32 s.power.alerts 1 }.abortSlices).post 0x0809 0 0 (leBytes 1 1)
      else s
    else s)

def execPwrAlertNRelease (s : State) : Out :=
  .next (if s.power.pwrAlertN then s
    else
      let s := { s with power.pwrAlertN := true }
      if s.up then { s with power.floorAt := s.now }.post 0x0809 0 0 (leBytes 1 0) else s)

/-! ## Cap and lease (R227, R229) -/

/-- A cap comes into force: a rise at once, a fall by the floor step (R18, R227). In a Hold the floor step runs when the Hold ends, if the draw
is above B; after a Quench r climbs from the level in force (R238). -/
def State.setCap (s : State) (w : Nat) : State :=
  let s1 := { s with power.capW := w }
  if w < s.power.capW && !s.power.hold && !s.therm.quench then s1.floorStep else s1.review

def State.pwrCap (s : State) (q : Req) : State × Resp :=
  if q.u16 0 < 300 || 1500 < q.u16 0 then (s, failR St.badArg)
  else
    let s := { s with power.lease := 0, power.leaseAt := s.now }.setCap (q.u16 0)
    (s, okR (leBytes 2 s.budgetW ++ leBytes 1 s.limitSrc ++ [0]))

def execPwrCap (m : Mb) (s : State) : Out := .next (s.mbRun m 0x0801 false (lenIs 4 [(2, 2)]) State.pwrCap)

/-- No PWR_CAP for 5 s. -/
def execLeaseLapsed (s : State) : Out :=
  .next (if s.up && s.power.lease == 0 && decide (tS 5 ≤ s.since s.power.leaseAt) then
      { s with power.lease := 1, power.leaseAt := s.now }.post 0x0805 0 0 (leBytes 2 s.power.capW)
    else s)

/-- 60 s after the lapse. -/
def execFallbackCap (s : State) : Out :=
  .next (if s.up && s.power.lease == 1 && decide (tS 60 ≤ s.since s.power.leaseAt) then
      ({ s with power.lease := 2 }.setCap s.fallbackW).post 0x0806 0 0 (leBytes 2 s.fallbackW)
    else s)

/-! ## The 54 V input (R230) -/

/-- What the comparators, with 0.3 V of hysteresis, note of an input voltage. -/
def State.seeInput (s : State) (mv : Nat) : State :=
  { s with
    power.vinMv := mv
    power.lowAt := if mv < 43000 then s.power.lowAt.orElse fun _ => some s.now else if 43300 ≤ mv then none else s.power.lowAt
    power.highAt := if 58000 < mv then s.power.highAt.orElse fun _ => some s.now else if mv < 57700 then none else s.power.highAt
    power.okAt := if 44000 < mv then s.power.okAt.orElse fun _ => some s.now else if mv < 43700 then none else s.power.okAt
    power.recoverAt := if 44000 < mv then s.power.recoverAt.orElse fun _ => some s.now else if mv < 43700 then none else s.power.recoverAt
    power.holdMin := if s.power.hold then min s.power.holdMin mv else s.power.holdMin }

/-- The input is below 43.0 V: the Hold begins, or goes on; during the start-up too (R235). -/
def execSupplyHold (mv : Nat) (s : State) : Out :=
  .next (if s.power.stages && decide (40000 ≤ mv) && decide (mv < 43000) then
      let s := s.seeInput mv
      if s.power.hold then s
      else
        ({ s with power.hold := true, power.holdAt := s.now, power.holdMin := mv, power.holds := sat32 s.power.holds 1 }.abortSlices).post 0x0801 0 0 (leBytes 2 mv)
    else s)

/-- The input is above 43.0 V again; above 44 V the 1 ms before work resumes begins. -/
def execSupplyRecovered (mv : Nat) (s : State) : Out :=
  .next (if s.power.stages && decide (43000 ≤ mv) && decide (mv ≤ 58000) then s.seeInput mv else s)

/-- Control requests that waited for the Hold take effect where no batch runs (R17, R20). -/
def State.applyAll (s : State) : State := (List.range 16).foldl (fun s c => s.applyDue c false) s

/-- Steps 7 and 8 of the start-up; step 7 waits for PERST_N and for the end of a Hold (R235, R340). A SCRAPPED module never starts PCIe. -/
def State.step7 (s : State) : State :=
  if s.sec.life == 4 then s
  else if !s.power.perstN || s.power.hold then { s with power.heldStep7 := true }
  else { s with host.linkUp := true, power.heldStep7 := false, power.phase := if s.power.phase == 2 then 2 else 1 }

/-- Work resumes 1 ms after the input rose above 44 V; a start-up that waited goes on. -/
def execHoldEnd (s : State) : Out :=
  .next (if s.power.stages && s.power.hold && s.passed s.power.recoverAt (tMs 1) then
      let s1 := { s with power.hold := false }.exportHeld.post 0x0802 0 0 (leBytes 8 (40 * s.since s.power.holdAt) ++ leBytes 2 s.power.holdMin)
      let s2 := (s1.quietCourses.rewarm.applyAll).review
      if s2.power.heldStep7 then s2.step7 else s2
    else s)

/-- Below 43.0 V for 20 ms (R225); in the start-up too, which then ends in Safe (R235). -/
def execLongDip (s : State) : Out :=
  .next (if s.power.stages && !s.power.safeSupply && s.passed s.power.lowAt (tMs 20) then
      ({ s with power.safeSupply := true }.noteProfile s.profile).review
    else s)

/-- Above 58.0 V for 1 ms: posted once per minute. -/
def execSupplyHigh (mv : Nat) (s : State) : Out :=
  .next (if s.up && decide (58000 < mv) && decide (mv ≤ 59500) then
      let s := s.seeInput mv
      if s.passed s.power.highAt (tMs 1) && (s.power.highPost.isNone || s.passed s.power.highPost (tS 60)) then
        { s with power.highPost := some s.now }.post 0x0808 0 0 (leBytes 2 mv)
      else s
    else s)

/-! ## Commands (R237) -/

/-- PWR_PROFILE Full while in Safe is stored (R238). -/
def State.pwrProfile (s : State) (q : Req) : State × Resp :=
  if 1 < q.u8 0 then (s, failR St.badArg)
  else
    let s := ({ s with power.eco := q.u8 0 == 1 }.noteProfile s.profile).review
    (s, okR (leBytes 1 s.profile ++ [0, 0, 0]))

def execPwrProfile (m : Mb) (s : State) : Out := .next (s.mbRun m 0x0802 false (lenIs 4 [(1, 3)]) State.pwrProfile)

def State.pwrStatus (s : State) (_q : Req) : State × Resp :=
  (s, okR (leBytes 2 s.power.vinMv ++ leBytes 2 s.pinMean ++ leBytes 2 s.budgetW ++ leBytes 2 s.power.capW ++ leBytes 2 s.fallbackW ++ leBytes 1 s.power.lease ++
    leBytes 1 s.safeCauses ++ ((List.range 16).map fun c => leBytes 1 (s.course c).r).flatten ++ leBytes 4 s.power.holds ++ leBytes 4 s.power.floorSteps ++
    leBytes 4 s.power.alerts ++ leBytes 8 (min s.power.holdNs 0xFFFFFFFFFFFFFFFF)))

def execPwrStatus (m : Mb) (s : State) : Out := .next (s.mbRun m 0x0803 false (lenIs 0 []) State.pwrStatus)

/-! ## Orderly shutdown (R236) -/

def State.isActivating (s : State) : Bool := s.fw.act.isSome

/-- Time that counts toward DRAIN_MS: the AON counter less the Hold time passed. -/
def State.workTime (s : State) : Tick := s.now - s.power.holdTicks

/-- Step 1; a Twin Primary hands over (R283). BUSY during an activation (R317). -/
def State.pwrShutdown (s : State) (q : Req) : State × Resp :=
  if 60000 < q.u32 0 then (s, failR St.badArg)
  else if s.held (11, 0) || s.isActivating then (s, failR St.busy)
  else
    let (s, a) := s.accept q .shutdown
    ({ s with power.phase := 3, power.drain := some (q.u32 0, s.workTime), power.shutStep := 1 }.handover 1, a)

def execPwrShutdown (m : Mb) (s : State) : Out := .next (s.mbRun m 0x0804 false (lenIs 4 []) State.pwrShutdown)

/-- No admitted item is left to run. -/
def State.allDone (s : State) : Bool :=
  !s.anyJob && s.trowel.again.isEmpty && s.ctxs.all (fun c => c.2.queue.isEmpty && c.2.codec.flushAt.isNone) && s.parts.all fun p => p.2.running.isEmpty && p.2.again.isNone

/-- Step 2 ends when DRAIN_MS has passed, Hold time not counted, or nothing is left: items not started receive CANCELLED. -/
def State.drainPast (s : State) (ms t : Nat) : Bool := !s.power.hold && (decide (tMs ms ≤ s.workTime - t) || s.allDone)

/-- SHUTDOWN_DRAIN_TIMEOUT. -/
def execShutdownDrainTimeout (s : State) : Out :=
  .next (match s.power.drain with
    | none => s
    | some (ms, t) =>
      if s.up && s.power.shutStep == 1 && s.drainPast ms t then
        { s.endAllQueued (fun _ => true) St.cancelled with power.shutStep := 2 }
      else s)

/-- Digest of the verified cabinet profile; zero where none is (R303). -/
def State.profileDigest (s : State) : List Byte := padTo 48 ((s.fw.profile.map (·.digest)).getD [])

/-- Step 4, once no job runs: lasting faults that the BIST `found` are repaired (R269), the signed record is written (R270), and step 5
posts CMD_DONE. -/
def execShutdownBistDone (found : List (Nat × Nat × Nat)) (results : Nat) (s : State) : Out :=
  .next (if s.up && s.power.shutStep == 2 && !s.anyJob && !s.power.hold then
      let s := found.foldl (fun s f => s.lasting f.1 f.2.1 f.2.2) s
      let r : ShutRec := ⟨s.fw.boot, results % 8, s.now, (s.activeImage 0).version, found.length, s.ledgerDigest, s.profileDigest⟩
      let s := { s with fw.shutRec := some r, power.shutStep := 4, power.shutAt := s.now }
      s.finishOps (fun k => match k with | .shutdown => true | _ => false) St.ok
    else s)

end Sys2Proof.Machine
end

