-- ==== Sys2Proof/Machine/Thermal.lean ====
section
/-! DEFINITION. Cooling and thermal control (12_thermal.md): the coolant readings and their states (R239-R242), Quench (R251, R252), the diodes
and their tests (R243-R245), prediction, rotation and throttle (R91, R246-R248), the HBM stacks (R249), the thermal commands (R253).
Temperatures are in 1/16 °C, as the registers give them. -/

namespace Sys2Proof.Machine

def degC (n : Int) : Int := 16 * n

/-! ## Coolant sensors (R239, R240) -/

/-- One read of a sensor: silent after three failed reads in a row, back after three answered ones. -/
def Sensor.read (q : Sensor) (ok : Bool) (now : Tick) : Sensor :=
  if ok then
    if q.silent then (if q.oks + 1 < 3 then { q with oks := q.oks + 1, fails := 0 } else { fails := 0, oks := 0, silent := false, backAt := some now })
    else { q with fails := 0 }
  else
    if !q.silent && 3 ≤ q.fails + 1 then { fails := 0, oks := 0, silent := true, backAt := none } else { q with fails := q.fails + 1, oks := 0 }

/-- SENSOR_SILENT where the state of a sensor changed. -/
def State.noteSensor (s : State) (i : Nat) (was is : Bool) : State :=
  if was == is then s else s.post 0x0909 7 i (leBytes 1 i ++ leBytes 1 (boolN is))

/-- While the I3C bus is stuck every profile sensor counts as silent (R341), and without a verified profile so do the three (R321). -/
def State.answered (s : State) (r : Reading) : Option Int :=
  match r with
  | .val v => if s.therm.i3cStuck.isSome || s.fw.profile.isNone then none else some v
  | .fail => none

/-! ## Coolant states (R242) -/

/-- A row's dwell: since when the condition holds that would flip it. -/
def Dwell.track (d : Dwell) (set clear : Bool) (now : Tick) : Dwell :=
  if (if d.on then clear else set) then { d with since := some (d.since.getD now) } else { d with since := none }

def State.flowMl (s : State) : Nat := s.therm.fMean

/-- Every hot spot measured below 97 °C. -/
def State.allCool (s : State) : Bool :=
  (s.tiles.all fun t => decide (t.2.meas < degC 97)) && s.therm.plinth.all fun t => decide (t.2.meas < degC 97)

/-- The rows follow the readings. -/
def State.trackRows (s : State) : State :=
  let t := s.therm
  let f := s.flowMl
  let d := fun (r : Dwell) a b => r.track a b s.now
  { s with
    therm.flowLow := d t.flowLow (decide (f < 1600)) (decide (1700 ≤ f))
    therm.safeFlow := d t.safeFlow (decide (f < 1200)) (decide (1300 ≤ f))
    therm.safeInlet := d t.safeInlet (decide (degC 45 < t.inlet)) (decide (t.inlet ≤ degC 44))
    therm.safeOutlet := d t.safeOutlet (decide (degC 62 < t.outlet)) (decide (t.outlet ≤ degC 60))
    therm.safeJunction := { t.safeJunction with since := if t.safeJunction.on && s.allCool then some (t.safeJunction.since.getD s.now) else none }
    therm.inletCold := d t.inletCold (decide (t.inlet < degC 15)) (decide (degC 16 ≤ t.inlet)) }

/-- Set and clear times of the rows, in the order of the table *Coolant states*. -/
def dwellTime (row : Nat) (on : Bool) : Tick :=
  match row with
  | 0 => if on then tS 1 else 0
  | 1 => if on then tS 10 else 0
  | 2 | 3 => if on then tS 10 else tS 1
  | 4 => if on then tS 10 else tMs 1
  | _ => if on then 0 else tS 1

def Thermal.row (t : Thermal) : Nat → Dwell
  | 0 => t.flowLow
  | 1 => t.safeFlow
  | 2 => t.safeInlet
  | 3 => t.safeOutlet
  | 4 => t.safeJunction
  | _ => t.inletCold

def Thermal.setRow (t : Thermal) (row : Nat) (d : Dwell) : Thermal :=
  match row with
  | 0 => { t with flowLow := d }
  | 1 => { t with safeFlow := d }
  | 2 => { t with safeInlet := d }
  | 3 => { t with safeOutlet := d }
  | 4 => { t with safeJunction := d }
  | _ => { t with inletCold := d }

def temp16 (t : Int) : List Byte := leBytes 2 (unsigned 16 t)

/-- The event of a row that has flipped. -/
def State.rowEvent (s : State) (row : Nat) (on : Bool) : State :=
  match row with
  | 0 => s.post 0x0901 7 0 (leBytes 2 s.flowMl ++ leBytes 1 (boolN on))
  | 2 => if on then s.post 0x090D 7 1 ([0, 0] ++ temp16 s.therm.inlet) else s
  | 3 => if on then s.post 0x090D 7 2 ([1, 0] ++ temp16 s.therm.outlet) else s
  | 5 => s.post 0x090E 7 1 (leBytes 1 (boolN on) ++ [0] ++ temp16 s.therm.inlet)
  | _ => s

/-- A row whose condition has held for its time is set or cleared. -/
def State.rowDue (s : State) (row : Nat) : State :=
  let d := s.therm.row row
  if decide (row < 6) && s.passed d.since (dwellTime row d.on) then
    let old := s.profile
    let s := { s with therm := s.therm.setRow row { on := !d.on, since := none } }
    ((s.rowEvent row (!d.on)).noteProfile old).review
  else s

/-- After a reading: rows without a dwell flip at once. -/
def State.rowsNow (s : State) : State :=
  let s := s.trackRows
  (List.range 6).foldl (fun s row => if dwellTime row (s.therm.row row).on == 0 then s.rowDue row else s) s

def execCoolantStateDwell (row : Nat) (s : State) : Out := .next (if s.up then s.rowDue row else s)

/-- A Safe cause by its bit of SAFE_CAUSES: supply 10 s above 44 V, a sensor 10 s after it is back, flow and thermal by their rows. -/
def execSafeCauseClear (cause : Nat) (s : State) : Out :=
  .next (if !s.up then s
    else
      match cause with
      | 0 =>
        if s.power.safeSupply && s.passed s.power.okAt (tS 10) then ({ s with power.safeSupply := false }.noteProfile s.profile).review else s
      | 1 => s.rowDue 1
      | 2 =>
        let f := fun (q : Sensor) => if s.passed q.backAt (tS 10) then { q with backAt := none } else q
        ({ s with therm.flow := f s.therm.flow, therm.inletS := f s.therm.inletS, therm.outletS := f s.therm.outletS }.noteProfile s.profile).review
      | 3 => ((s.rowDue 2).rowDue 3).rowDue 4
      | _ => s)

/-! ## Quench (R251, R252) -/

def isLow (f peak : Nat) : Nat → Bool
  | 0 => decide (f < 300)
  | _ => decide (2 * f < peak)

def peakOf (l : List (Option Nat)) : Nat := (l.take 100).foldl (fun a x => max a (x.getD 0)) 0

/-- The trigger, where one condition holds on the two newest reads. -/
def quenchTrigger : List (Option Nat) → Option Nat
  | some f :: some g :: t =>
    if isLow f (peakOf (some g :: t)) 0 && isLow g (peakOf t) 0 then some 0
    else if isLow f (peakOf (some g :: t)) 1 && isLow g (peakOf t) 1 then some 1
    else none
  | _ => none

/-- Beds and tile DMA stop, partitions are emptied, HBM enters self-refresh, Courses stay stopped; a Primary hands over (R283). -/
def State.quenchBegin (s : State) (trig before at' : Nat) : State :=
  let s := { s with therm.quench := true, therm.quenchAt := s.now, therm.stage2 := false, therm.okAt := none, therm.quenches := sat32 s.therm.quenches 1 }
  let s := (s.abortSlices.emptyParts (fun _ => true) .quench).post 0x0902 0 0 (leBytes 1 trig ++ [0] ++ leBytes 2 before ++ leBytes 2 at')
  let s := (List.range 16).foldl (fun s c => s.updCourse c fun k => { k with power := 0, waking := none, gatedAt := if k.power == 0 then k.gatedAt else s.now }) s
  { s with piers := s.piers.mapVals fun _ p => { p with selfRefresh := true } }.handover 5

/-- Partitions with work wake their Courses again (R252); pictures in flight start anew from their codec frame boundary (R184). -/
def State.quenchOver (s : State) : State :=
  let cores : Tbl Core := s.trowel.cores.mapVals fun _ c => { c with busy := c.busy.map fun (b : Nat × Item × Tick × Nat) => (b.1, b.2.1, s.now, b.2.2.2) }
  let s : State := { s with therm.quench := false, therm.stage2 := false, trowel.cores := cores }
  let s := s.flushLoss.post 0x0903 0 0 (leBytes 8 (40 * s.since s.therm.quenchAt))
  ((s.parts.filter fun (q : Nat × Part) => s.partWork q.1 q.2).foldl (fun (s : State) (q : Nat × Part) => s.wakeCourses q.1) s.rewarm).review

def execQuenchEnd (s : State) : Out :=
  .next (if s.up && s.therm.quench && s.passed s.therm.okAt (tS 10) then s.quenchOver else s)

/-- f is still below 0.3 L/min 30 s after Quench began: Trowel cores and Facing units are gated. -/
def execQuenchStage2 (s : State) : Out :=
  .next (if s.up && s.therm.quench && !s.therm.stage2 && decide (tS 30 ≤ s.since s.therm.quenchAt) &&
      (match s.therm.flows.head? with | some (some f) => decide (f < 300) | _ => false) then
      { s with therm.stage2 := true, trowel.cores := s.trowel.cores.mapVals fun _ c => { c with gated := true } }.post 0x0904 0 0 []
    else s)

/-! ## Samples of the coolant -/

/-- F: the mean of the last 10 samples, 1.19 L/min while FLOW is silent. -/
def flowMean (silent : Bool) (l : List (Option Nat)) : Nat :=
  let x := (l.filterMap id).take 10
  if silent then 1190 else if x.isEmpty then 0 else sumNat x / x.length

/-- The profile's gain and offset of a coolant sensor (0 FLOW, 1 INLET, 2 OUTLET), and whether its raw format is signed (log 46). -/
def sensorEntry (b : List Byte) (k : Nat) : W32 × W32 × Bool :=
  (BitVec.ofNat 32 (field b (12 * k + 4) 4), BitVec.ofNat 32 (field b (12 * k + 8) 4), bitOf (field b (12 * k + 2) 2) 0)

/-- value = raw × gain + offset (R239), in mL/min of FLOW's L/min and 1/16 °C of a temperature, rounded down. -/
def sensorValue (b : List Byte) (k raw : Nat) : Int :=
  let e := sensorEntry b k
  let r : Int := if e.2.2 then signed 16 raw else (raw % 2 ^ 16 : Nat)
  let scale := if k == 0 then 1000 else 16
  dyInt (valDy (valMul (valAdd (valMul (.fin (decide (r < 0)) r.natAbs 0) (f32Val e.1)) (f32Val e.2.1)) (.fin false scale 0)))

/-- A coolant sensor's value; a raw value of 0xFFFF is a failed read (R240). -/
def State.sensed (s : State) (k : Nat) (r : Reading) : Option Int :=
  match s.answered r, s.fw.profile with
  | some v, some p => if v.toNat % 2 ^ 16 == 0xFFFF then none else some (sensorValue p.sensors k v.toNat)
  | _, _ => none

def State.flowSample (s : State) (r : Reading) : State :=
  let v := (s.sensed 0 r).map Int.toNat
  let q := s.therm.flow.read v.isSome s.now
  let flows := ((if q.silent then none else v) :: s.therm.flows).take 102
  let m := flowMean q.silent flows
  let ok := match v with
    | some f => if q.silent || f < 1200 then none else some (s.therm.okAt.getD s.now)
    | none => if q.silent then none else s.therm.okAt
  let s1 := ({ s with therm.flow := q, therm.flows := flows, therm.fMean := if m == 0 && (flows.filterMap id).isEmpty then s.therm.fMean else m, therm.okAt := ok }.noteSensor 0 s.therm.flow.silent q.silent)
  let s2 := ((s1.noteProfile s.profile).review).rowsNow
  match quenchTrigger flows, flows.head? with
  | some k, some (some f) => if s2.therm.quench then s2 else s2.quenchBegin k (peakOf (flows.drop 1)) f
  | _, _ => s2

def execFlowSample (f : Reading) (s : State) : Out := .next (if s.up then s.flowSample f else s)

/-- Every 10 ms; while INLET is silent 40 °C, while OUTLET is silent inlet + 14 °C. -/
def State.tempSample (s : State) (i o : Reading) : State :=
  let vi := s.sensed 1 i
  let vo := s.sensed 2 o
  let qi := s.therm.inletS.read vi.isSome s.now
  let qo := s.therm.outletS.read vo.isSome s.now
  let inlet := if qi.silent then degC 40 else vi.getD s.therm.inlet
  let outlet := if qo.silent then inlet + degC 14 else vo.getD s.therm.outlet
  let s1 := { s with therm.inletS := qi, therm.outletS := qo, therm.inlet := inlet, therm.outlet := outlet }
  let s2 := (s1.noteSensor 1 s.therm.inletS.silent qi.silent).noteSensor 2 s.therm.outletS.silent qo.silent
  ((s2.noteProfile s.profile).review).rowsNow

def execTempSample (i o : Reading) (s : State) : Out := .next (if s.up then s.tempSample i o else s)

/-- R241 in 1/16 W: 937.5 W per L/min up to 1,500 W, 60 W less for each °C of inlet above 40 °C. -/
def pFlowTarget (f : Nat) (inlet : Int) : Int :=
  let p : Int := min 24000 (15 * f)
  if degC 40 < inlet then p - 60 * (inlet - degC 40) else p

def pFlowStep (force p : Int) : Int := if p ≤ force - 400 then p else if force + 800 ≤ p then p else force

def execPflowUpdate (s : State) : Out :=
  .next (if s.up then { s with therm.pFlow := pFlowStep s.therm.pFlow (pFlowTarget s.flowMl s.therm.inlet) }.review else s)

/-! ## Diodes (R243-R245) -/

/-- Event source of a pair (R350): its Ashlar, or the module. -/
def pairKind (n : Nat) : Nat × Nat := if n < 144 then (3, n) else (0, 0)

/-- T and band of the table *Diode disagreement*; `ref` tells that the Course's reference is retired and the disagreement has lasted 100 ms. -/
def hotSpot (a b : Int) (long ref : Bool) : Int × Nat :=
  let d := (a - b).natAbs
  if d ≤ 48 then (max a b, 0)
  else if d ≤ 160 then (max a b + 32, 1)
  else if long then (max a b + (if ref then 80 else 32), 3)
  else (max a b + 32, 2)

/-- A diode is retired and fused (R244). -/
def State.retireDiode (s : State) (n d : Nat) (dev : Int) : State :=
  let (k, i) := pairKind n
  let s := s.updPair n fun x => if d == 0 then { x with aRetired := true } else { x with bRetired := true }
  let s := { s with therm.sensorsRetired := satAdd 0xFFFF s.therm.sensorsRetired 1 }
  (s.postT 0x0908 k i (leBytes 1 d ++ [0] ++ temp16 dev) { cls := 2, action := 6 }).burn 0x0D 1 k i d s.flt.logNext n

/-- A disagreement above 3 °C is posted at most once per minute per tile. -/
def State.noteDisagree (s : State) (n band : Nat) (a b : Int) : State :=
  let x := s.pair n
  let s := s.updPair n fun x => { x with disagreeAt := if band < 2 then none else some (x.disagreeAt.getD s.now) }
  if band == 0 || (x.disagreePost.isSome && !s.passed x.disagreePost (tS 60)) then s
  else (s.updPair n fun x => { x with disagreePost := some s.now }).post 0x0907 (pairKind n).1 (pairKind n).2 (temp16 a ++ temp16 b)

/-- A hot spot at 105 °C or more: the Course is asked for t = 1, and THERM_LIMIT is posted, once per excursion (R248). -/
def State.noteLimit (s : State) (n : Nat) (t : Int) : State :=
  let was := (s.pair n).hotAt
  let s := s.updPair n fun x => { x with hotAt := if t < degC 105 then none else some (x.hotAt.getD s.now) }
  if t < degC 105 || was.isSome || 144 ≤ n then s
  else ((s.updCourse (n / 9) fun k => { k with tNext := 1 }).postReq (n / 9) (.throttle 1)).post 0x0906 3 n (temp16 t)

/-- T is formed from the diodes in service; without one it stays. -/
def State.setMeas (s : State) (n : Nat) (t : Int) (band : Nat) : State :=
  ((s.updPair n fun x => { x with meas := t, pred := max x.pred t, band }).noteLimit n t).rowsNow

/-- The last readings of both diodes; a read that fails leaves the one before. -/
def State.takeReading (s : State) (n : Nat) (a b : Reading) : State :=
  s.updPair n fun x => { x with dA := (match a with | .val v => v | .fail => x.dA), dB := (match b with | .val v => v | .fail => x.dB) }

def State.diodeSample (s : State) (n : Nat) (a b : Reading) : State :=
  let s := if a == .fail && !(s.pair n).aRetired then s.retireDiode n 0 0 else s
  let s := if b == .fail && !(s.pair n).bRetired then s.retireDiode n 1 0 else s
  let s := s.takeReading n a b
  let x := s.pair n
  if x.aRetired && x.bRetired then (if n < 144 then s.postReq (n / 9) (.repair (n % 9)) else s)
  else if x.aRetired then (s.updPair n fun x => { x with disagreeAt := none }).setMeas n (x.dB + 48) 0
  else if x.bRetired then (s.updPair n fun x => { x with disagreeAt := none }).setMeas n (x.dA + 48) 0
  else
    let q := hotSpot x.dA x.dB (s.passed x.disagreeAt (tMs 100)) (decide (n < 144) && (s.course (n / 9)).refRetired)
    (s.noteDisagree n q.2 x.dA x.dB).setMeas n q.1 q.2

/-- The Foreman of the tile's Pier runs; the Plinth's own logic reads its pairs. -/
def State.pairRead (s : State) (n : Nat) : Bool :=
  s.up && decide (n < 152) && (decide (144 ≤ n) || ((s.pier (n / 36)).powered && !(s.pier (n / 36)).resetting))

def execDiodeSample (tile : Nat) (a b : Reading) (s : State) : Out := .next (if s.pairRead tile then s.diodeSample tile a b else s)

/-- More than 10 °C apart for 100 ms: a sensor test is queued, unless the Course's reference is retired. -/
def execDisagreeDwell (tile : Nat) (s : State) : Out :=
  .next (if s.pairRead tile && s.passed (s.pair tile).disagreeAt (tMs 100) then
      s.updPair tile fun x => { x with band := 3, testQueued := x.testQueued || !(decide (tile < 144) && (s.course (tile / 9)).refRetired) }
    else s)

/-- 105 °C or more for 1 ms sets the junction Safe condition. -/
def execJunctionDwell (tile : Nat) (s : State) : Out :=
  .next (if s.pairRead tile && !s.therm.safeJunction.on && s.passed (s.pair tile).hotAt (tMs 1) then
      ({ s with therm.safeJunction := { on := true, since := none } }.noteProfile s.profile).review
    else s)

/-- The test takes the idle tile; no slice runs on it. -/
def execSensorTest (tile : Nat) (s : State) : Out :=
  .next (let k := s.course (tile / 9)
    if decide (tile < 144) && s.pairRead tile && (s.pair tile).testQueued && k.idle == some (tile % 9) && k.occupied.isNone && !k.refRetired then
      s.updCourse (tile / 9) fun k => { k with occupied := some (1, s.now) }
    else s)

/-- A transient class is counted for a unit of the history table (R261); answers whether it is the eighth within 24 h. -/
def State.noteTransient (s : State) (kind id : Nat) : State × Bool :=
  let s := { s with flt.transient := sat32 s.flt.transient 1 }
  let s := s.updUnit kind id fun u =>
    { u with total := sat32 u.total 1, transient := s.now :: u.transient.filter fun t => decide (s.now < t + tS 86400) }
  (s, decide (8 ≤ (s.unit kind id).transient.length))

def offsetUnit : Int := 15625000

/-- The model offset now, in fixed point. -/
def Tile.offsetNow (x : Tile) (now : Tick) : Int := max 0 (x.offset - (now - x.offsetAt : Nat))

/-- OFFSET, in 1/16 °C. -/
def Tile.offset16 (x : Tile) (now : Tick) : Int := x.offsetNow now / offsetUnit

/-- Deviation of a diode from the reference and the model's offset for the tile, at most 1 °C. -/
def State.diodeDev (s : State) (tile : Nat) (x ref : Int) : Int := x - (ref + min 16 ((s.tile tile).offset16 s.now))

/-- After 3 ms the readings of both diodes and of the Course reference are compared. -/
def execSensorTestDone (tile : Nat) (diodes : Int × Int) (ref : Int) (s : State) : Out :=
  .next (match (s.course (tile / 9)).occupied with
    | some (1, t) =>
      if decide (tile < 144) && s.pairRead tile && (s.pair tile).testQueued && (s.course (tile / 9)).idle == some (tile % 9) && decide (tMs 3 ≤ s.since t) then
        let s := (s.updCourse (tile / 9) fun k => { k with occupied := none }).updPair tile fun x => { x with testQueued := false, disagreeAt := none }
        let devA := s.diodeDev tile diodes.1 ref
        let devB := s.diodeDev tile diodes.2 ref
        let badA := decide (80 < devA.natAbs)
        let badB := decide (80 < devB.natAbs)
        let s := if badA then s.retireDiode tile 0 devA else s
        let s := if badB then s.retireDiode tile 1 devB else s
        let s := if badA && badB then { s with flt.lasting := sat32 s.flt.lasting 1 }.postReq (tile / 9) (.repair (tile % 9)) else s
        let s := if badA || badB then s else (s.noteTransient 7 (16 + tile)).1
        s.applyDue (tile / 9) false
      else s
    | _ => s)

/-! ## Prediction, rotation, throttle (R91, R246-R248) -/

/-- The newest prediction that is at least 20 ms old. -/
def Tile.oldPred (x : Tile) (now : Tick) : Option Int := (List.find? (fun p : Tick × Int => decide (p.1 + tMs 20 ≤ now)) x.predHist).map Prod.snd

/-- One update of a tile: `raw` is the model's output without the offset. A measured T more than 3 °C above the prediction of 20 ms before
adds the excess to the offset; the prediction is at least the measured T. -/
def Tile.model (x : Tile) (raw : Int) (now : Tick) : Tile × Bool :=
  let off := x.offsetNow now
  let ex := match x.oldPred now with
    | some p => if p + 48 < x.meas then x.meas - p else 0
    | none => 0
  let off := off + ex * offsetUnit
  let pred := max x.meas (raw + off / offsetUnit)
  ({ x with offset := off, offsetAt := now, pred, predHist := (now, pred) :: x.predHist.filter fun p => decide (now < p.1 + tMs 21) }, ex != 0)

def State.modelTile (s : State) (n : Nat) (raw : Int) : State :=
  let q := (s.pair n).model raw s.now
  let s := s.updPair n fun _ => q.1
  if q.2 then { s with therm.drift := satAdd 0xFFFF s.therm.drift 1 } else s

def theta (k : Course) : Int := if k.idle.isSome then degC 97 else degC 94

/-- A stack of the Pier throttles its Courses to t ≤ 8 (R249); a silent one is taken as 91 °C (R245). -/
def State.hbmHot (s : State) (pier : Nat) : Bool :=
  (List.range 2).any fun i => 2 ≤ (s.stack (pier * 2 + i)).state

/-- R247 for one Course. -/
def State.throttleCourse (s : State) (c : Nat) : State :=
  let k := s.course c
  let h := s.courseHot c
  let apart := (List.range 9).any fun t => 2 ≤ (s.tile (c * 9 + t)).band
  let n := if theta k ≤ h then max 1 (k.tNext - 1) else if h ≤ theta k - degC 4 && !apart then min 16 (k.tNext + 1) else k.tNext
  let n := if s.hbmHot (c / 4) then min 8 n else n
  let s := s.updCourse c fun k => { k with tNext := n }
  let s := if k.t < 16 then { s with therm.throttleMs := sat32 s.therm.throttleMs 1 } else s
  if n == k.t then s else s.postReq c (.throttle n)

/-- R91: a slot whose tile is predicted 6 °C or more above the Course median is due for rotation. -/
def State.rotateCourse (s : State) (c : Nat) : State :=
  let k := s.course c
  if k.idle.isNone then s
  else
    let m := s.courseMedian c
    (List.range 8).foldl (fun s slot =>
      let t := k.map.getD slot 15
      if t < 9 && decide (m + degC 6 ≤ (s.tile (c * 9 + t)).pred) && !k.reqs.contains (.rotate slot true) then s.postReq c (.rotate slot true) else s) s

/-- The Plinth's prediction divides the Trowel PLL at 97 °C, until 93 °C (R248). -/
def State.plinthHeat (s : State) : State :=
  let h := s.therm.plinth.foldl (fun a x => max a x.2.pred) (-32768)
  { s with trowel.halved := if s.trowel.halved then decide (degC 93 < h) else decide (degC 97 ≤ h) }

def State.readRefs (s : State) (pier : Nat) (ref : List Int) : State :=
  (ref.take 4).zipIdx.foldl (fun s r => s.updCourse (pier * 4 + r.2) fun k => { k with refTemp := r.1 }) s

/-- Every 1 ms: the model's outputs for the 36 tiles of a Pier and its Course references; `pier` 4 is the Plinth's own eight pairs. -/
def execThermalModelUpdate (pier : Nat) (pred ref : List Int) (s : State) : Out :=
  .next (if !s.up then s
    else if pier == 4 then ((pred.take 8).zipIdx.foldl (fun s p => s.modelTile (144 + p.2) p.1) s).plinthHeat
    else if decide (pier < 4) && (s.pier pier).powered && !(s.pier pier).resetting then
      let s := ((pred.take 36).zipIdx.foldl (fun s p => s.modelTile (pier * 36 + p.2) p.1) s).readRefs pier ref
      (List.range 4).foldl (fun s c => (s.throttleCourse (pier * 4 + c)).rotateCourse (pier * 4 + c)) s
    else s)

/-! ## HBM stacks (R245, R249) -/

/-- State by temperature in °C, with 2 °C of hysteresis downward. -/
def stackState (old : Nat) (t : Int) : Nat :=
  if 95 ≤ t || (old == 3 && 93 < t) then 3
  else if 90 < t || ((old == 2 || old == 3) && 88 < t) then 2
  else if 85 < t || ((old == 1 || old == 2 || old == 3) && 83 < t) then 1
  else 0

/-- Throttle requests of t ≤ 8 for the Courses of a Pier. -/
def State.throttlePier (s : State) (pier : Nat) : State :=
  (List.range 4).foldl (fun s i =>
    let c := pier * 4 + i
    let n := min 8 (s.course c).tNext
    let s := s.updCourse c fun k => { k with tNext := n }
    if n == (s.course c).t then s else s.postReq c (.throttle n)) s

def State.stackTemp (s : State) (n : Nat) (t : Int) : State :=
  let old := (s.stack n).state
  let st := stackState (if old == 4 then 2 else old) t
  let s := s.updStack n fun _ => { temp := t, state := st, fails := 0 }
  let s := if old < st || (old == 4 && 2 < st) then s.post 0x090B 4 n (temp16 (degC t) ++ leBytes 1 st) else s
  if 2 ≤ st && (old < 2) then s.throttlePier (n / 2) else s

def State.stackFail (s : State) (n : Nat) : State :=
  let q := s.stack n
  if q.state == 4 || q.fails + 1 < 3 then s.updStack n fun q => { q with fails := q.fails + 1 }
  else ((s.updStack n fun q => { q with temp := 91, state := 4, fails := 0 }).post 0x090C 4 n []).throttlePier (n / 2)

def execHbmTempSample (n : Nat) (t : Reading) (s : State) : Out :=
  .next (if s.up && decide (n < 8) && (s.pier (n / 2)).powered then
      match t with
      | .val v => s.stackTemp n v
      | .fail => s.stackFail n
    else s)

/-! ## Commands (R253) -/

/-- The hottest measured tile: its temperature and id, the lowest id of several. -/
def State.hottest (s : State) : Int × Nat :=
  (List.range 144).foldl (fun a i => if a.1 < (s.tile i).meas then ((s.tile i).meas, i) else a) ((s.tile 0).meas, 0)

def State.thermStatus (s : State) (_q : Req) : State × Resp :=
  let t := s.therm
  (s, okR (temp16 t.inlet ++ temp16 t.outlet ++ leBytes 2 t.fMean ++ leBytes 2 (t.pFlow / 16).toNat ++
    leBytes 1 (boolN t.flowLow.on + 2 * boolN t.safeFlow.on + 4 * boolN t.quench + 8 * boolN t.stage2 + 16 * boolN t.inletCold.on) ++
    leBytes 1 (boolN t.safeInlet.on + 2 * boolN t.safeOutlet.on + 4 * boolN t.safeJunction.on) ++
    leBytes 1 (boolN t.flow.silent + 2 * boolN t.inletS.silent + 4 * boolN t.outletS.silent) ++ [0] ++ temp16 s.hottest.1 ++ leBytes 2 s.hottest.2 ++
    leBytes 4 t.quenches ++ leBytes 4 t.rotations ++ leBytes 4 t.throttleMs ++ leBytes 2 t.drift ++ leBytes 2 t.sensorsRetired))

def execThermStatus (m : Mb) (s : State) : Out := .next (s.mbRun m 0x0901 false (lenIs 0 []) State.thermStatus)

/-- ROLE of a physical tile: its logical slot, idle 8, retired 9. -/
def tileRole (k : Course) (t : Nat) : Nat := if k.retired.contains t then 9 else (k.slotOfTile t).getD 8

def State.tileEntry (s : State) (c t : Nat) : List Byte :=
  let x := s.tile (c * 9 + t)
  temp16 x.meas ++ temp16 x.pred ++ leBytes 1 (boolN x.aRetired + 2 * boolN x.bRetired + 4 * x.band + 16 * boolN x.testQueued) ++
    leBytes 1 (tileRole (s.course c) t) ++ temp16 (x.offset16 s.now)

def State.thermCourse (s : State) (q : Req) : State × Resp :=
  if 3 < q.u8 0 || 3 < q.u8 1 then (s, failR St.badArg)
  else
    let c := q.u8 0 * 4 + q.u8 1
    let k := s.course c
    (s, okR (leBytes 1 k.t ++ leBytes 1 k.tNext ++ leBytes 1 (theta k / 16).toNat ++ leBytes 1 (boolN k.refRetired) ++ temp16 k.refTemp ++ temp16 (s.courseMedian c) ++
      ((List.range 9).map (s.tileEntry c)).flatten))

def execThermCourse (m : Mb) (s : State) : Out := .next (s.mbRun m 0x0902 false (lenIs 4 [(2, 2)]) State.thermCourse)

/-- TEMP in the units of R253. -/
def State.thermHbm (s : State) (_q : Req) : State × Resp :=
  (s, okR ((List.range 8).map fun i => temp16 (degC (s.stack i).temp) ++ leBytes 1 (s.stack i).state ++ [0]).flatten)

def execThermHbm (m : Mb) (s : State) : Out := .next (s.mbRun m 0x0903 false (lenIs 0 []) State.thermHbm)

end Sys2Proof.Machine
end

