-- ==== Sys2Proof/Machine/Faults.lean ====
section
/-! DEFINITION. Errors, self-test and self-repair (13_faults.md): targeted tests (R259-R261, R271), periodic BIST (R266-R268), what Foreman,
Setter and Mason errors set off (R258, R39), the end of a Pier reset (R273), and the fault and log commands (R274, R275). -/

namespace Sys2Proof.Machine

/-- A unit of the history table as an event source: an Ashlar part is named as its Ashlar, with the slice apart (R350). -/
def unitSrc (kind key : Nat) : Nat × Nat := if kind == 3 then (key / 64, key % 64) else (key, 0)

/-- Partitions and jobs leave a Pier's units alone: it is powered and not in reset. -/
def State.pierServes (s : State) (p : Nat) : Bool := decide (p < 4) && (s.pier p).powered && !(s.pier p).resetting && !(s.pier p).retired

/-! ## Targeted tests (R259-R261) -/

/-- How an Ashlar's test may start: on the idle tile, or on a held tile of a Course with no idle tile, whose partition has no admitted work
or has waited 10 s (R260). -/
def State.tileTestable (s : State) (key : Nat) : Bool :=
  let t := key / 64
  let c := t / 9
  let k := s.course c
  s.pierServes (t / 36) && !s.power.hold && !s.therm.quench && k.occupied.isNone && !k.retired.contains (t % 9) &&
    (k.idle == some (t % 9) ||
      (k.idle.isNone &&
        match (k.slotOfTile (t % 9)).bind (s.partAt c) with
        | none => true
        | some (n, p) => !s.partWork n p || (p.job.isNone && decide (tS 10 ≤ s.since (s.unit 3 key).pendingAt))))

/-- The unit is free for its test. -/
def State.testable (s : State) (kind key : Nat) : Bool :=
  match kind with
  | 3 => s.tileTestable key
  | 12 => decide (64 ≤ key) || (!s.courseRunning (key / 4) && s.pierServes (key / 16))
  | 10 => s.pierServes (key / 64)
  | 11 => s.pierServes (key / 64)
  | 6 => (s.core key).busy.isNone && !(s.core key).retired
  | 5 => decide (12 ≤ key) || (s.port key).testing.isNone
  | _ => true

/-- What a test that starts takes: an Ashlar's contents and its Course's idle place, a core out of the pool. -/
def State.beginTest (s : State) (kind key : Nat) : State :=
  let s := s.updUnit kind key fun u => { u with testing := true }
  match kind with
  | 3 =>
    let t := key / 64
    let s := (s.updTile t fun x => { x with sram.valid := [] }).updCourse (t / 9) fun k => { k with occupied := some (2, s.now) }
    match ((s.course (t / 9)).slotOfTile (t % 9)).bind (s.partAt (t / 9)) with
    | some (n, _) => s.updPart n fun p => { p with heldUntil := some (s.now + tMs 2) }
    | none => s
  | 6 => s.updCore key fun c => { c with testing := true }
  | 5 => s.updPort key fun f => { f with testing := some 0 }
  | _ => s

def execTargetedSelfTestStart (kind key : Nat) (s : State) : Out :=
  .next (let u := s.unit kind key
    if s.up && u.pending.isSome && !u.testing && !u.retired && s.testable kind key then s.beginTest kind key else s)

/-- What a test that ends gives back. -/
def State.endTest (s : State) (kind key : Nat) : State :=
  match kind with
  | 3 => s.updCourse (key / 64 / 9) fun k => { k with occupied := k.occupied.filter fun o => o.1 != 2 }
  | 6 => s.updCore key fun c => { c with testing := false }
  | _ => s

def State.testResult (s : State) (kind id cls slice : Nat) (req : Bool) : State :=
  s.postT 0x0A02 kind id (leBytes 1 cls ++ leBytes 1 slice ++ leBytes 1 (boolN req)) { cls }

/-- Rows used over all bank sets of a unit: a row repair makes the test run again (R264). -/
def State.rowsOf (s : State) (kind id : Nat) : Nat := sumNat (((s.unit kind (unitId kind id 0)).rows).map Prod.snd)

/-- A lasting class: TEST_RESULT, then repair or retirement; after a row repair the test is called for again. -/
def State.classLasting (s : State) (kind id slice : Nat) (req : Bool) : State :=
  let n := s.rowsOf kind id
  let s := (s.testResult kind id 2 slice req).lasting kind id slice
  if n < s.rowsOf kind id then s.updUnit kind (unitId kind id slice) fun u => { u with pending := some (slice, none), pendingAt := s.now } else s

/-- Classifies a test's outcome (R261). -/
def State.classify (s : State) (kind id slice : Nat) (pass req : Bool) : State :=
  if pass then
    let (s, eighth) := s.noteTransient kind (unitId kind id slice)
    if eighth then s.classLasting kind id slice req else s.testResult kind id 1 slice req
  else s.classLasting kind id slice req

/-- The outcome of a running test; a port's lanes report one by one under LANE_TEST_DONE. -/
def execTargetedSelfTestDone (kind key : Nat) (pass : Bool) (s : State) : Out :=
  .next (let u := s.unit kind key
    if s.up && u.testing && kind != 5 then
      let req := u.pending.bind Prod.snd
      let (id, slice) := unitSrc kind key
      let s := (s.updUnit kind key fun u => { u with testing := false, pending := none }).endTest kind key
      let s := s.classify kind id slice pass req.isSome
      let s := match req with | some n => s.finishOp n St.ok | none => s
      if kind == 3 then s.applyDue (id / 9) false else s
    else s)

/-! ## Periodic BIST (R266-R268) -/

/-- The tile may take a slice: it is idle, or, in a Course with no idle tile, holds no partition's slot. -/
def State.sliceTile (s : State) (t : Nat) : Bool :=
  let c := t / 9
  let k := s.course c
  decide (t < 144) && s.pierServes (t / 36) && !k.retired.contains (t % 9) &&
    (k.idle == some (t % 9) || (k.idle.isNone && match k.slotOfTile (t % 9) with | some n => (s.partAt c n).isNone | none => true))

def nextSlice (x : Tile) : Nat := (leastBelow 64 fun k => !x.slices.contains k).getD 0

/-- A sensor test queued for the tile goes first (R244). -/
def execBistSliceStart (t : Nat) (s : State) : Out :=
  .next (let k := s.course (t / 9)
    if s.up && s.sliceTile t && k.occupied.isNone && !(s.pair t).testQueued && !s.power.hold && !s.power.floor && !s.therm.quench &&
        (k.lastSlice.isNone || s.passed k.lastSlice (tMs 100)) then
      (s.updTile t fun x => { x with sram.valid := [] }).updCourse (t / 9) fun k => { k with occupied := some (0, s.now), lastSlice := some s.now }
    else s)

def Tile.slicePassed (x : Tile) (now : Tick) : Tile :=
  let l := insertNat x.slices (nextSlice x)
  if l.length == 64 then { x with slices := [], covered := now } else { x with slices := l }

def execBistSliceDone (t : Nat) (pass : Bool) (s : State) : Out :=
  .next (match (s.course (t / 9)).occupied with
    | some (0, _) =>
      if s.up && s.sliceTile t then
        let k := nextSlice (s.tile t)
        let s := s.updCourse (t / 9) fun k => { k with occupied := none }
        let s := if pass then s.updTile t fun x => x.slicePassed s.now else s.classLasting 3 t k false
        s.applyDue (t / 9) false
      else s
    | _ => s)

/-- A slot-holding tile whose last completion is 20 h old is posted for an ordinary rotation. -/
def execCoverageRotation (t : Nat) (s : State) : Out :=
  .next (match (s.course (t / 9)).slotOfTile (t % 9) with
    | some slot =>
      if s.up && decide (t < 144) && s.pierServes (t / 36) && decide (tS 72000 ≤ s.since (s.tile t).covered) && (s.course (t / 9)).idle.isSome then s.postReq (t / 9) (.rotate slot false)
      else s
    | none => s)

/-- Once per day for a tile not covered within 24 h. -/
def execBistCoverageLapsed (t : Nat) (s : State) : Out :=
  .next (let x := s.tile t
    if s.up && decide (t < 144) && !(s.course (t / 9)).retired.contains (t % 9) && decide (tS 86400 ≤ s.since x.covered) && (x.lapsedAt.isNone || s.passed x.lapsedAt (tS 86400)) then
      (s.updTile t fun x => { x with lapsedAt := some s.now }).post 0x0A09 3 t (leBytes 2 (min 0xFFFF (s.since x.covered / tS 3600)))
    else s)

/-! ## Corrections and the log -/

/-- A unit counted `count` corrections in the hour that ends (R258). -/
def execCorrectedSummary (kind id count : Nat) (s : State) : Out :=
  .next (let u := s.unit kind id
    if s.up && count != 0 && (u.hourAt.isNone || s.passed u.hourAt (tS 3600)) then
      let s := s.updUnit kind id fun u => { u with hourAt := some s.now }
      { s with flt.corrected := sat64 s.flt.corrected count }.postT 0x0A0A kind id (leBytes 4 (min count 0xFFFFFFFF)) { cls := 0 }
    else s)

/-- Waiting entries reach module flash. -/
def execErrorLogFlush (s : State) : Out := .next (if s.up then { s with flt.unflushed := [] } else s)

/-! ## Foreman, Setter, Mason (R258, R273) -/

/-- Every job on the Pier is emptied and restarts uncounted after the reset. -/
def execForemanWatchdog (pier : Nat) (what : PierFault) (s : State) : Out :=
  .next (if s.up && s.pierServes pier then
      let s := (s.errorEvent 1 pier (if what == .watchdog then 6 else 4) 0 0 false).pierReset pier (if what == .setterParity then 1 else 0)
      s.emptyParts (fun p => p.piers.contains pier) .pierReset
    else s)

/-- N and T that Mason keeps through its pause: of the Trowel pool (key 0) and of serving partitions (R195). -/
def State.keptCapacity (s : State) : Tbl (Nat × Nat) :=
  (0, s.capacityNow none) :: s.parts.filterMap fun p => if (s.serveOf p.2).isSome then some (p.1 + 1, s.capacityNow (some p.1)) else none

/-- Mason stops answering (R39): what waits in its input buffer is answered RETRY_AFTER. -/
def State.pauseMason (s : State) (cause us : Nat) : State :=
  let waiting := s.mason.inputs
  let s := { s with mason.paused := true, mason.pauseCause := cause, mason.pauseAt := s.now, mason.pauseUs := us, mason.inputs := [], mason.kept := s.keptCapacity }
  waiting.foldl (fun s q => if q.discard then s else s.respond q.mb (reqCode s.broup q.bytes) (reqTag s.broup q.bytes) { status := St.retryAfter, arg := s.retryUs }) s

/-- Mason runs again; removals that waited for it go on (R307). -/
def State.resumeMason (s : State) : State :=
  let s := { s with mason.paused := false, mason.kept := [] }.post 0x0104 0 0 (leBytes 4 (min 0xFFFFFFFF (s.since s.mason.pauseAt / 25)) ++ leBytes 1 s.mason.pauseCause)
  s.sec.tenants.keys.foldl (fun s t => s.tearDue t) s

/-- A lockstep difference restarts Mason; the third within 24 h ends in SAFE_HOLD (R264). The length of the restart is not stated. -/
def execMasonLockstepError (s : State) : Out :=
  .next (if s.up && s.power.phase != 0 then
      let ts := s.now :: s.mason.lockstep.filter fun t => decide (s.now < t + tS 86400)
      let s := { s with mason.lockstep := ts }.errorEvent 0 0 5 0 0 true
      let s := if s.mason.paused then s else s.pauseMason 1 (Config.unstated 8 [] % 2 ^ 32)
      if 3 ≤ ts.length then s.wantSafeHold 0 0 else s
    else s)

def execMasonRestartDone (s : State) : Out :=
  .next (if s.up && s.mason.paused && s.mason.pauseCause == 1 then s.resumeMason else s)

/-! ## The end of a Pier reset (R273) -/

/-- The Pier's thermal model restarts from measured values with t = 16, and its Courses are gated until work (R254). -/
def State.freshPier (s : State) (p : Nat) : State :=
  let s := (List.range 36).foldl (fun s i => s.updTile (p * 36 + i) fun x => { x with pred := x.meas, predHist := [], offset := 0, offsetAt := s.now }) s
  (List.range 4).foldl (fun s i => (s.setThrottle (p * 4 + i) 16).updCourse (p * 4 + i) fun k => { k with t := 16, tNext := 16, power := 0, waking := none, gatedAt := s.now, occupied := none, reqs := k.reqs.filter fun r => match r with | .throttle _ => false | _ => true }) s

/-- Tests that the reset abandoned run again. -/
def State.redoTests (s : State) (p : Nat) : State :=
  { s with flt.units := s.flt.units.mapVals fun k u => if k / 2 ^ 20 == 3 && k % 2 ^ 20 / 2304 == p then { u with testing := false } else u }

def State.pierBack (s : State) (p : Nat) : State :=
  let s := ((s.updPier p fun q => { q with resetting := false, powered := true, powering := false, selfRefresh := true, hbmBusyAt := s.now }).freshPier p).redoTests p
  let s := s.postT 0x0A07 1 p (leBytes 1 (s.pier p).resetCause ++ leBytes 1 1) { action := 7 }
  let s := ((s.parts.filter fun q => q.2.piers.contains p && s.partWork q.1 q.2).foldl (fun s q => s.wakeCourses q.1) s).powerParts
  s.parts.keys.foldl (fun s n => match s.part? n with | some r => if r.piers.contains p then s.warmCourses n else s | none => s) s

/-- A Foreman that fails its self-test, or a Mortar link still below 48 groups, retires the Pier. -/
def State.pierGone (s : State) (p : Nat) : State :=
  let s := (s.updPier p fun q => { q with resetting := false, retired := true, powered := false, powering := false }).retireUnit 1 p
  let s := s.postT 0x0A07 1 p (leBytes 1 (s.pier p).resetCause ++ leBytes 1 2) { cls := 2, action := 6 }
  let s := (s.retiredEvent 1 p).burn 0x0E 1 1 p 0 s.flt.logNext
  s.loseParts fun r => r.piers.contains p

def State.pierQuiet (s : State) (p : Nat) : Bool := s.parts.all fun q => !(q.2.piers.contains p && q.2.job.isSome)

/-- The reset ends; that of a Foreman activation ends with its processor (R315). -/
def State.endReset (s : State) (p : Nat) (pass : Bool) : State :=
  let ok := pass && (s.pier p).mortarOff.length ≤ 16
  let s := (if ok then s.pierBack p else s.pierGone p).flushLoss
  s.finishOps (fun k => match k with | .pierReset q => q == p | _ => false) (if ok then St.ok else St.abortedFault)

def execPierResetComplete (p : Nat) (pass : Bool) (s : State) : Out :=
  .next (if s.up && decide (p < 4) && (s.pier p).resetting && s.pierQuiet p && !((s.pier p).resetCause == 4 && s.isActivating) then s.endReset p pass else s)

/-! ## Commands (R271, R275) -/

/-- Unit kind and id of FLT_TEST and FLT_UNIT: KIND 4 names a pseudo-channel. -/
def fltUnit (kind id : Nat) : Option (Nat × Nat) :=
  match kind with
  | 3 => if id < 144 then some (3, id) else none
  | 4 => if id < 256 then some (10, id) else none
  | 5 => if id < 12 then some (5, id) else none
  | 6 => if id < 16 then some (6, id) else none
  | 7 => if id < 3 then some (7, id) else none
  | _ => none

def State.unitGone (s : State) (kind id : Nat) : Bool :=
  match kind with
  | 3 => (s.course (id / 9)).retired.contains (id % 9)
  | 6 => (s.core id).retired
  | _ => (s.unit kind id).retired

/-- A requested test joins a pending one, or is called for as a targeted test is (R271). No part is named for an Ashlar, so its slice is
not stated. -/
def State.requestTest (s : State) (kind id op : Nat) : State :=
  let slice := if kind == 3 then Config.unstated 9 [id] % 64 else 0
  let k := unitId kind id slice
  if (s.unit kind k).pending.isSome then s.updUnit kind k fun u => { u with pending := u.pending.map fun p => (p.1, some op) }
  else s.wantTest kind id slice (some op)

def State.fltTest (s : State) (q : Req) : State × Resp :=
  match fltUnit (q.u8 0) (q.u32 4) with
  | none => (s, failR St.badArg)
  | some (k, id) =>
    let t := q.u8 1
    if 2 < t || (t == 1 && q.u8 0 != 4) || (t == 2 && q.u8 0 != 5) then (s, failR St.badArg)
    else if s.held (6, q.u8 0 * 2 ^ 20 + id) then (s, failR St.busy)
    else if k == 3 && t == 0 && !s.unitGone k id && (s.course (id / 9)).idle.isNone then (s, failR St.noSlot)
    else if s.unitGone k id then (s, failR St.refused 1)
    else
      let (s, a) := s.accept q (.fltTest (q.u8 0) id t)
      (if t == 0 then s.requestTest k id a.arg else s, a)

def execFltTest (m : Mb) (s : State) : Out := .next (s.mbRun m 0x0A02 false (lenIs 8 [(2, 2)]) State.fltTest)

/-- A calibration ends: TEST_RESULT tells its outcome, and the command is OK. -/
def execCalibrationDone (op : Nat) (ok : Bool) (s : State) : Out :=
  .next (match (s.op? op).map PendingOp.kind with
    | some (.fltTest k id t) =>
      if s.up && t != 0 then (s.testResult (if k == 4 then 10 else k) id (if ok then 1 else 2) 0 true).finishOp op St.ok else s
    | _ => s)

def State.fltSummary (s : State) (_q : Req) : State × Resp :=
  let bits := fun (f : Nat → Bool) n => sumNat ((List.range n).map fun i => boolN (f i) * 2 ^ i)
  let cov := ((List.range 144).filter fun t => !(s.course (t / 9)).retired.contains (t % 9)).map fun t => (s.tile t).covered
  (s, okR (leBytes 8 s.flt.corrected ++ leBytes 8 s.flt.errors ++ leBytes 4 s.flt.transient ++ leBytes 4 s.flt.lasting ++ leBytes 4 s.flt.restarts ++
    leBytes 4 s.flt.aborted ++ leBytes 2 (bits (fun c => !(s.course c).spareUsed) 16) ++ leBytes 2 (bits (fun c => decide (9 ≤ (s.course c).map.getD 7 15)) 16) ++
    leBytes 1 (bits (fun p => (s.pier p).retired) 4) ++ leBytes 1 ((List.range 16).filter fun c => (s.core c).retired).length ++
    ((List.range 4).map fun p => leBytes 1 (64 - (s.pier p).mortarOff.length)).flatten ++ [0, 0] ++ leBytes 4 s.flt.pierResets ++ leBytes 8 (cov.foldl min (cov.headD 0))))

def execFltSummary (m : Mb) (s : State) : Out := .next (s.mbRun m 0x0A01 false (lenIs 0 []) State.fltSummary)

/-- History of a unit; an Ashlar's is that of its 64 parts. -/
def State.histories (s : State) (k id : Nat) : List Unit :=
  if k == 3 then (List.range 64).map fun i => s.unit 3 (id * 64 + i) else [s.unit k id]

def State.unitState (s : State) (k id : Nat) : Nat :=
  if s.unitGone k id then 2 else if (s.histories k id).any fun u => u.pending.isSome then 3 else if k == 3 && (s.course (id / 9)).idle == some (id % 9) then 1 else 0

def State.repairsLeft (s : State) (k id : Nat) : List Byte :=
  match k with
  | 3 => (List.range 8).map fun i => BitVec.ofNat 8 (16 - rowsUsed (s.unit 3 (id * 64)) i)
  | 10 => (List.range 8).map fun i => BitVec.ofNat 8 (1 - rowsUsed (s.unit 10 id) i)
  | 5 => leBytes 8 (s.port id).remaps
  | _ => leBytes 8 0

def State.fltUnitQ (s : State) (q : Req) : State × Resp :=
  match fltUnit (q.u8 0) (q.u32 4) with
  | none => (s, failR St.badArg)
  | some (k, id) =>
    let h := s.histories k id
    let day := sumNat (h.map fun u => (u.transient.filter fun t => decide (s.now < t + tS 86400)).length)
    let x := if k == 3 then s.tile id else {}
    (s, okR (leBytes 1 (s.unitState k id) ++ [0] ++ leBytes 2 (min day 0xFFFF) ++ leBytes 4 (min (sumNat (h.map (·.total))) 0xFFFFFFFF) ++ s.repairsLeft k id ++
      leBytes 8 x.covered ++ leBytes 1 x.slices.length ++ List.replicate 7 0))

def execFltUnit (m : Mb) (s : State) : Out := .next (s.mbRun m 0x0A03 false (lenIs 8 [(2, 2)]) State.fltUnitQ)

def State.fltPierReset (s : State) (q : Req) : State × Resp :=
  if 3 < q.u8 0 then (s, failR St.badArg)
  else if (s.pier (q.u8 0)).retired || (s.pier (q.u8 0)).resetting then (s, failR St.refused 1)
  else
    let (s, a) := s.accept q (.pierReset (q.u8 0))
    (s.pierReset (q.u8 0) 2, a)

def execFltPierReset (m : Mb) (s : State) : Out := .next (s.mbRun m 0x0A04 false (lenIs 4 [(1, 3)]) State.fltPierReset)

/-- The 64 bytes of an error-log entry (R274). -/
def logBytes (e : LogEntry) : List Byte :=
  let h := leBytes 8 e.number ++ leBytes 2 e.code ++ leBytes 1 e.severity ++ leBytes 1 e.kind ++ leBytes 4 e.id ++ leBytes 8 e.time ++ leBytes 2 e.boot ++ leBytes 1 e.cls ++
    leBytes 1 e.action ++ leBytes 2 e.part ++ leBytes 2 e.ctx ++ padTo 16 e.detail ++ List.replicate 12 0
  h ++ leBytes 4 (crc32 h).toNat

/-- FIRST: the oldest entry of the main area. -/
def State.logFirst (s : State) : Nat := match s.flt.log.getLast? with | some e => e.number | none => s.flt.logNext

def State.logInfo (s : State) (_q : Req) : State × Resp :=
  (s, okR (leBytes 8 s.logFirst ++ leBytes 8 s.flt.logNext ++ leBytes 4 s.flt.kept.length ++ leBytes 1 (boolN (decide (keptCap ≤ s.flt.kept.length))) ++ [0, 0, 0]))

def execLogInfo (m : Mb) (s : State) : Out := .next (s.mbRun m 0x0E01 false (lenIs 0 []) State.logInfo)

/-- Up to three entries from START on; NEXT is the number to go on from. -/
def State.logRead (s : State) (q : Req) : State × Resp :=
  if 1 < q.u8 8 then (s, failR St.badArg)
  else
    let area := if q.u8 8 == 0 then s.flt.log else s.flt.kept
    let es := (area.reverse.filter fun e => decide (q.u64 0 ≤ e.number)).take 3
    let next := match es.getLast? with | some e => e.number + 1 | none => s.flt.logNext
    (s, okR (leBytes 1 es.length ++ List.replicate 7 0 ++ leBytes 8 next ++ (es.map logBytes).flatten))

def execLogRead (m : Mb) (s : State) : Out := .next (s.mbRun m 0x0E02 false (lenIs 12 [(9, 3)]) State.logRead)

end Sys2Proof.Machine
end

