-- ==== Sys2Proof/Machine/Tenant.lean ====
section
/-! DEFINITION. Tenants and keys (15_security.md): opening a tenant (R297), the removal's first, fifth and sixth steps (R299), quotas, key
retirement (R293, R294), the life cycle (R289, R290), the fabric key binding (R295), the configuration epoch (R304). -/

namespace Sys2Proof.Machine

/-! ## Tenants -/

/-- Pool of tenant HBM in GiB (R297). -/
def poolGib : Nat := 287

/-- Quotas of every tenant but one; a tenant that is being removed keeps its own until its frames are scrubbed. -/
def State.quotaOthers (s : State) (t : Nat) : Nat := sumNat ((s.sec.tenants.filter fun r => r.1 != t).map fun r => r.2.quotaGib)

def State.keyGen (s : State) (t : Nat) : Nat := boolN (s.sec.slotB.contains t)

/-- R301: a new tenant unbinds the closed slots of its VF. -/
def State.unbindClosed (s : State) (t : Nat) : State :=
  { s with host.slotBind := s.host.slotBind.filter fun b => !(b.1 / 768 == t && b.2 == 16384) }

/-- Conditions in the order of R351. A tenant that is open already answers REFUSED (log 40). -/
def State.tenantCreate (s : State) (q : Req) : State × Resp :=
  let t := q.u8 0
  let g := q.u16 4
  if 63 < t || g == 0 || poolGib < g then (s, failR St.badArg)
  else if (match s.sec.tenants.find? t with | some r => r.state == 2 | none => false) then (s, failR St.busy)
  else if poolGib < s.quotaOthers t + g then (s, failR St.noResource)
  else if t != 0 && (!s.multi || s.sec.life == 0) then (s, failR St.refused 1)
  else if 3 ≤ s.sec.life then (s, failR St.refused 2)
  else if s.sec.tenants.has t then (s, failR St.refused)
  else
    let s := { s with sec.tenants := s.sec.tenants.set t { quotaGib := g } }.unbindClosed t
    (s.post 0x0B01 9 t (leBytes 2 g), okR (leBytes 1 (s.keyGen t) ++ [0, 0, 0]))

def execSecTenantCreate (m : Mb) (s : State) : Out := .next (s.mbRun m 0x0B01 false (lenIs 8 [(1, 3), (6, 2)]) State.tenantCreate)

/-- Serving requests of a tenant's partitions that no step carries end at once; a job that waits to run again does too. -/
def State.endIdleJobs (s : State) (t : Nat) : State :=
  (s.parts.filter fun p => p.2.tenant == t && p.2.job.isNone).foldl (fun (s : State) (q : Nat × Part) =>
    match q.2.again with
    | some j => (s.updPart q.1 fun p => { p with again := none }).abortJob q.1 j St.tenantClosed false
    | none =>
      let (s, rels) := gather (fun s c => s.abortReq St.tenantClosed false c) s q.2.running
      s.releaseGroup (rels.filter fun x => s.live x.item.ctx)) s

/-- Step 1: running work ends TENANT_CLOSED, queued items receive their records, flushes and leads of the tenant's contexts end. -/
def State.closeTenant (s : State) (t : Nat) : State :=
  let mine (n : Nat) : Bool := match s.ctx? n with | some c => c.tenant == t | none => false
  let s := s.updTenant t fun r => { r with state := 2, step := 2, startAt := s.now }
  let s := { s with
    parts := s.parts.mapVals fun _ p => if p.tenant == t then { p with job := p.job.map (fun (j : Job) => { j with closed := true }), leads := [] } else p
    twin.trowel := s.twin.trowel.filter fun e => !mine e.1 }
  let s := (s.requeuePics fun i => i.tenant == t).endAllQueued (fun i => i.tenant == t) St.tenantClosed
  let flushing := (s.ctxs.filter fun (c : Nat × Ctx) => c.2.tenant == t && c.2.codec.flushAt.isSome && (s.coresOf c.1).isEmpty).map Prod.fst
  let s := flushing.foldl (fun (s : State) n => (s.updCtx n fun c => { c with codec.flushAt := none }).finishOps (fun k => match k with | .vidFlush m => m == n | _ => false) St.tenantClosed) s
  s.endIdleJobs t

/-- Closes the tenant; removal goes on as its running work ends. -/
def State.tenantRemove (s : State) (q : Req) : State × Resp :=
  let t := q.u8 0
  if 63 < t || !s.tenantOpen t then (s, failR St.badArg)
  else
    let (s, a) := s.accept q (.tenantRemove t)
    ((s.closeTenant t).landDue, a)

def execSecTenantRemove (m : Mb) (s : State) : Out := .next (s.mbRun m 0x0B02 false (lenIs 4 [(1, 3)]) State.tenantRemove)

/-- Frames mapped to a tenant. -/
def State.framesOf (s : State) (t : Nat) : List (Nat × Nat) := s.mem.frames.filter fun p => p.1 / 2 ^ 28 == t

/-- Every frame that was mapped to the tenant is zeroed and free, and the slot is released. -/
def State.scrubbed (s : State) (t : Nat) (r : Tenant) : State :=
  let hbm := (s.framesOf t).foldl (fun m p => memClear m (p.2 * 2 ^ 21) (2 ^ 21)) s.mem.hbm
  let s := { s with
    mem.hbm := hbm
    mem.frames := s.mem.frames.filter fun p => p.1 / 2 ^ 28 != t
    mem.kvFrames := s.mem.kvFrames.filter fun p => p.1 != t
    sec.tenants := s.sec.tenants.del t }
  (s.post 0x0B02 9 t (leBytes 4 r.scrubMib ++ leBytes 8 (40 * s.since r.startAt))).finishOps (fun k => match k with | .tenantRemove n => n == t | _ => false) St.ok

/-- Steps 5 and 6. The scrub waits as HBM does in a Hold or a Quench, for Piers in reset, and for Mason (R307, R308). -/
def execTenantScrubDone (t : Nat) (s : State) : Out :=
  .next (match s.sec.tenants.find? t with
    | some r =>
      if s.up && r.state == 2 && r.step == 5 && !s.mason.paused && !s.power.hold && !s.therm.quench &&
          (s.framesOf t).all (fun p => !(s.pier (p.2 / pierFrames)).resetting) then s.scrubbed t r
      else s
    | none => s)

def State.tenantQuery (s : State) (q : Req) : State × Resp :=
  let t := q.vf.getD (q.u8 0)
  if 63 < t then (s, failR St.badArg)
  else
    let r := s.sec.tenants.find? t
    let st := (r.map (·.state)).getD 0
    (s, okR (leBytes 1 st ++ leBytes 1 (if st == 2 then (r.map (·.step)).getD 0 else 0) ++ leBytes 1 (s.keyGen t) ++ [0] ++ leBytes 2 ((r.map (·.quotaGib)).getD 0) ++ [0, 0] ++
      leBytes 4 (2 * (s.framesOf t).length) ++ leBytes 2 (s.ctxs.filter fun c => c.2.tenant == t).length ++ leBytes 1 (s.parts.filter fun p => p.2.tenant == t).length ++
      leBytes 1 (min 255 (s.plans.filter fun p => p.2.tenant == t).length)))

def execSecTenantQuery (m : Mb) (s : State) : Out := .next (s.mbRun m 0x0B03 true (lenIs 4 [(1, 3)]) State.tenantQuery)

def State.secQuota (s : State) (q : Req) : State × Resp :=
  let t := q.u8 0
  let g := q.u16 2
  if 63 < t || !s.tenantOpen t || g == 0 || poolGib < g then (s, failR St.badArg)
  else if poolGib < s.quotaOthers t + g then (s, failR St.noResource)
  else if 1024 * g < 2 * (s.framesOf t).length then (s, failR St.refused 3)
  else (s.updTenant t fun r => { r with quotaGib := g }, okR [])

def execSecQuota (m : Mb) (s : State) : Out := .next (s.mbRun m 0x0B04 false (lenIs 4 [(1, 1)]) State.secQuota)

/-! ## The configuration epoch (R304) -/

def State.bumpEpoch (s : State) (cause : Nat) : State :=
  { s with sec.epoch := s.sec.epoch + 1 }.post 0x0B05 0 0 (leBytes 8 (s.sec.epoch + 1) ++ leBytes 1 cause)

/-! ## Keys and life cycle -/

def State.retireKey (s : State) (kind i : Nat) : State × Resp :=
  ((s.burnCmd (if kind == 0 then 0x09 else 0x0A) 2 0 0 i).post 0x0B03 0 0 (leBytes 1 kind ++ leBytes 1 i) |>.bumpEpoch 3, okR [])

/-- A slot is retired once while no tenant is bound to it; a fabric key once. -/
def State.keyRetire (s : State) (q : Req) : State × Resp :=
  let i := q.u8 1
  if 1 < q.u8 0 || (q.u8 0 == 0 && 63 < i) || (q.u8 0 == 1 && 3 < i) then (s, failR St.badArg)
  else if q.u8 0 == 0 then
    if s.sec.tenants.has i then (s, failR St.refused 1)
    else if s.sec.slotB.contains i then (s, failR St.refused 2)
    else { s with sec.slotB := insertNat s.sec.slotB i }.retireKey 0 i
  else if s.sec.fabRetired.contains i then (s, failR St.refused 2)
  else { s with sec.fabRetired := insertNat s.sec.fabRetired i }.retireKey 1 i

def execSecKeyRetire (m : Mb) (s : State) : Out := .next (s.mbRun m 0x0B05 false (lenIs 4 [(2, 2)]) State.keyRetire)

def State.slotGens (s : State) : Nat := sumNat ((List.range 64).map fun t => (if s.sec.killed then 3 else s.keyGen t) * 4 ^ t)

def State.keyStatus (s : State) (_q : Req) : State × Resp :=
  (s, okR (leBytes 16 s.slotGens ++ leBytes 1 (doneWord s.sec.fabRetired + 16 * boolN s.sec.fabBound + 32 * boolN s.sec.killed) ++ [0, 0, 0] ++ leBytes 8 s.sec.order))

def execSecKeyStatus (m : Mb) (s : State) : Out := .next (s.mbRun m 0x0B06 false (lenIs 0 []) State.keyStatus)

/-- Digest that an authorisation signs: SERIAL, BOOT and, for RMA and SCRAPPED, the target state (R290; log 14). -/
def State.authDigest (s : State) (target : Option Nat) : List Byte :=
  sha384 (leBytes 8 s.sec.serial ++ leBytes 2 s.fw.boot ++ match target with | some t => leBytes 1 t | none => [])

/-- Preconditions of a transition: the DETAIL of the first that fails. -/
def State.lifeRefusal (s : State) (target : Nat) (auth : List Byte) : Option Nat :=
  if target == 1 then (if Config.sigOk 2 (s.authDigest none) auth then none else some 1)
  else if target == 2 then (if s.sec.fabBound && s.fw.stored.isSome && !(s.sec.tenants.any fun r => r.2.state == 1) then none else some 2)
  else if !Config.sigOk 3 (s.authDigest (some target)) auth then some 1
  else if target == 3 && !s.sec.tenants.isEmpty then some 3
  else none

/-- Transitions forward by one state, and from INTEGRATION straight to RMA (R289). -/
def lifeForward (src target : Nat) : Bool := (target == src + 1 && decide (target ≤ 4)) || (src == 1 && target == 3)

/-- The state fused last is the one a transition starts from; it takes effect at the next start. -/
def State.lifecycle (s : State) (q : Req) : State × Resp :=
  let t := q.u8 0
  let auth := slice q.pay 4 96
  if !lifeForward s.sec.lifeFused t || (t == 2 && !allZero auth) then (s, failR St.badArg)
  else
    match s.lifeRefusal t auth with
    | some d => (s, failR St.refused d)
    | none =>
      let was := s.sec.lifeFused
      (({ s with sec.lifeFused := t }.burnCmd 0x01 4 0 0 t).post 0x0B04 0 0 (leBytes 1 was ++ leBytes 1 t) |>.bumpEpoch 2, okR [])

def execSecLifecycle (m : Mb) (s : State) : Out := .next (s.mbRun m 0x0B07 false (lenIs 100 [(1, 3)]) State.lifecycle)

def State.fabricBind (s : State) (q : Req) : State × Resp :=
  if s.sec.life != 1 || s.sec.fabBound then (s, failR St.refused 1)
  else if q.u64 0 != s.sec.order || (s.fw.stored.map (·.order)) != some (q.u64 0) then (s, failR St.refused 2)
  else ({ s with sec.fabBound := true }.burnCmd 0x0B 2 0 0 0, okR [])

def execSecFabricBind (m : Mb) (s : State) : Out := .next (s.mbRun m 0x0B08 false (lenIs 8 []) State.fabricBind)

/-! ## Debug access (R291) -/

/-- In MANUFACTURE and RMA every way is open; in INTEGRATION and FIELD the pins are gated by fuse and answer nothing, in SCRAPPED none is. No
command, image or profile changes it. -/
def debugOpen (life : Nat) (_ : DebugPath) : Bool := life == 0 || life == 3

/-- A fuse through debug; key fuses read as zero in RMA. -/
def State.debugFuse (s : State) (isKey : Bool) (bytes : List Byte) : Option (List Byte) :=
  if !debugOpen s.sec.life .fuses then none else some (if isKey && s.sec.life == 3 then List.replicate bytes.length 0 else bytes)

/-- A byte of HBM through debug; in RMA tenant HBM reads as ciphertext under dead keys (log 111). -/
def State.debugHbm (s : State) (a : Nat) : Option Byte :=
  if !debugOpen s.sec.life .memory then none
  else some (if s.sec.life == 3 && decide (sysFrames ≤ a / 2 ^ 21 % pierFrames) then BitVec.ofNat 8 (Config.unstated 22 [a]) else memRead s.mem.hbm a)

end Sys2Proof.Machine
end

