-- ==== Sys2Proof/Machine/Attest.lean ====
section
/-! DEFINITION. Attestation (R302-R306): the measurement blocks, SEC_ATTEST, and SPDM 1.2 over DOE. The manual names the SPDM requests and
their rules; message layouts are those of DSP0274 (log 41). -/

namespace Sys2Proof.Machine

/-! ## Measurement blocks (R303) -/

/-- A block of 64 bytes: INDEX, STATE, VERSION, VALUE. -/
def mBlock (index state version : Nat) (value : List Byte) : List Byte :=
  leBytes 1 index ++ leBytes 1 state ++ [0, 0] ++ leBytes 4 version ++ padTo 48 value ++ List.replicate 8 0

/-- The image that unit `u` of a role runs: during an activation, units from the one in turn on still run the image it replaces. -/
def State.runningImage (s : State) (role u : Nat) : Image :=
  match s.fw.act with
  | some a => if a.role == role && (a.phase == 0 || a.unit ≤ u) then a.old else s.activeImage role
  | none => s.activeImage role

/-- The unit of a role is down for its activation. -/
def State.unitDown (s : State) (role u : Nat) : Bool :=
  match s.fw.act with
  | some a => a.role == role && a.phase == 1 && a.unit == u
  | none => false

def State.imageBlock (s : State) (index state role u : Nat) : List Byte :=
  mBlock index state (s.runningImage role u).version (s.runningImage role u).digest

/-- Block of the Foreman image on a Pier: a Pier that is not powered runs none. -/
def State.foremanBlock (s : State) (p : Nat) : List Byte :=
  let q := s.pier p
  s.imageBlock (2 + p) (if q.retired then 2 else if q.resetting || !q.powered then 1 else 0) 1 p

/-- Staged images, one block a role: the lower area where both hold the role. -/
def State.stagedBlocks (s : State) : List (List Byte) :=
  (List.range 5).filterMap fun r =>
    (List.find? (fun a : Nat × Image => a.2.role == r && a.2.verified) s.fw.staged).map fun a => mBlock (0x20 + r) 3 a.2.version a.2.digest

def State.lockCode (s : State) : Nat := match s.fw.lock with | some v => v + 1 | none => 0

def State.mBlocks (s : State) : List (List Byte) :=
  [s.imageBlock 1 0 0 0] ++ (List.range 4).map s.foremanBlock ++
    [s.imageBlock 6 (if s.unitDown 2 0 || s.power.phase == 2 then 1 else 0) 2 0] ++
    ((List.range 6).map fun e => s.imageBlock (7 + e) (boolN (s.unitDown 3 e)) 3 e) ++
    [s.imageBlock 0x0D (boolN (s.unitDown 4 0)) 4 0, mBlock 0x10 0 0 s.profileDigest, mBlock 0x11 0 0 s.ledgerDigest, mBlock 0x12 0 0 (leBytes 1 s.sec.life),
      mBlock 0x13 0 0 (leBytes 8 s.sec.epoch), mBlock 0x14 0 0 (leBytes 1 s.fw.iface ++ leBytes 1 s.fw.tenancy ++ leBytes 1 s.lockCode)] ++ s.stagedBlocks

/-! ## SEC_ATTEST (R306) -/

/-- The bytes that are signed: 0 to 0x03F + 64 N. -/
def State.reportBody (s : State) (nonce : List Byte) (vf : Option Nat) : List Byte :=
  let blocks := s.mBlocks ++ match vf with | some t => [mBlock 0x30 0 0 (leBytes 1 t ++ leBytes 1 (s.keyGen t))] | none => []
  [0x41, 0x4D, 0x5A, 0x41] ++ leBytes 2 1 ++ leBytes 2 (0x40 + 64 * blocks.length + 96) ++ leBytes 8 s.sec.epoch ++ leBytes 8 s.now ++ leBytes 8 s.sec.serial ++ padTo 32 nonce ++
    blocks.flatten

def State.report (s : State) (nonce : List Byte) (vf : Option Nat) : List Byte :=
  let b := s.reportBody nonce vf
  padTo 4096 (b ++ padTo 96 (Config.attestSign (sha384 b)))

/-- The snapshot is taken when the command is accepted. -/
def State.secAttest (s : State) (q : Req) : State × Resp :=
  if q.u64 32 % 4096 != 0 then (s, failR St.badArg)
  else if 3 ≤ s.sec.life then (s, failR St.refused 4)
  else s.accept q (.attest (q.u64 32) q.vf (slice q.pay 0 32) (s.report (slice q.pay 0 32) q.vf))

def execSecAttest (m : Mb) (s : State) : Out := .next (s.mbRun m 0x0B09 true (lenIs 40 []) State.secAttest)

def execAttestReportLanded (op : Nat) (s : State) : Out :=
  .next (match (s.op? op).map PendingOp.kind with
    | some (.attest addr _ _ report) => if s.up && !s.power.hold then (s.hostWriteN addr report).finishOp op St.ok else s
    | _ => s)

/-! ## SPDM over DOE (R302, R305) -/

def spdmMsg (code p1 p2 : Nat) (body : List Byte) : List Byte := leBytes 1 0x12 ++ leBytes 1 code ++ leBytes 1 p1 ++ leBytes 1 p2 ++ body

def spdmBusy : Nat := 0x03
def spdmUnexpected : Nat := 0x04
def spdmUnsupported : Nat := 0x07
def spdmResynch : Nat := 0x43

/-- A response is given and joins the transcript with its request. -/
def State.spdmReply (s : State) (req resp : List Byte) : State := { s with sec.doe := resp, sec.transcript := s.sec.transcript ++ req ++ resp }

/-- ERROR leaves the transcript. -/
def State.spdmError (s : State) (code : Nat) : State := { s with sec.doe := spdmMsg 0x7F code 0 [] }

def spdmBytes (r : SpdmReq) (code : Nat) : List Byte := spdmMsg code r.param1 r.param2 r.body

/-- A request over the PF's DOE: Busy while Mason pauses, UnexpectedRequest before the negotiation it needs. -/
def State.spdmRun (s : State) (need : Nat) (body : State → State) : State :=
  if !s.up || !s.fnThere .pf then s
  else if s.mason.paused then s.spdmError spdmBusy
  else if s.sec.spdm < need then s.spdmError spdmUnexpected
  else body s

/-- GET_VERSION starts a transcript. -/
def execGetVersion (r : SpdmReq) (s : State) : Out :=
  .next (s.spdmRun 0 fun s =>
    { s with sec.spdm := 1, sec.transcript := [], sec.measEpoch := none }.spdmReply (spdmBytes r 0x84) (spdmMsg 0x04 0 0 ([0, 1] ++ leBytes 2 0x1200)))

/-- Certificates, challenge and signed measurements; data size of one message. -/
def execGetCapabilities (r : SpdmReq) (s : State) : Out :=
  .next (s.spdmRun 1 fun s =>
    { s with sec.spdm := max 2 s.sec.spdm }.spdmReply (spdmBytes r 0xE1) (spdmMsg 0x61 0 0 ([0, 0, 0, 0] ++ leBytes 4 0x16 ++ leBytes 4 4096 ++ leBytes 4 4096)))

/-- TPM_ALG_ECDSA_ECC_NIST_P384 and TPM_ALG_SHA_384 alone. -/
def execNegotiateAlgorithms (r : SpdmReq) (s : State) : Out :=
  .next (s.spdmRun 2 fun s =>
    { s with sec.spdm := 3 }.spdmReply (spdmBytes r 0xE3) (spdmMsg 0x63 0 0 (leBytes 2 36 ++ [1, 0] ++ leBytes 4 0x2 ++ leBytes 4 0x80 ++ leBytes 4 0x2 ++ List.replicate 12 0 ++ [0, 0, 0, 0])))

def execGetDigests (r : SpdmReq) (s : State) : Out :=
  .next (s.spdmRun 3 fun s => s.spdmReply (spdmBytes r 0x81) (spdmMsg 0x01 0 1 (padTo 48 Config.certDigest)))

/-- A portion of the chain of slot 0, by offset and length. -/
def execGetCertificate (r : SpdmReq) (s : State) : Out :=
  .next (s.spdmRun 3 fun s =>
    if r.param1 % 16 != 0 then s.spdmError 0x01
    else
      let part := (Config.certChain.drop (field r.body 0 2)).take (field r.body 2 2)
      s.spdmReply (spdmBytes r 0x82) (spdmMsg 0x02 0 0 (leBytes 2 part.length ++ leBytes 2 (Config.certChain.length - field r.body 0 2 - part.length) ++ part)))

/-- Four free words for the responder's nonce (log 11). -/
def State.nonce (s : State) : List Byte × State :=
  let (a, s) := s.free
  let (b, s) := s.free
  let (c, s) := s.free
  let (d, s) := s.free
  (leBytes 8 a.toNat ++ leBytes 8 b.toNat ++ leBytes 8 c.toNat ++ leBytes 8 d.toNat, s)

/-- R302 signs with the attestation key; a killed key signs nothing (R296). -/
def State.spdmSigned (s : State) (req head : List Byte) : State :=
  s.spdmReply req (head ++ padTo 96 (Config.attestSign (sha384 (s.sec.transcript ++ req ++ head))))

def execChallenge (r : SpdmReq) (s : State) : Out :=
  .next (s.spdmRun 3 fun s =>
    if s.sec.killed || r.param1 != 0 then s.spdmError spdmUnsupported
    else
      let (n, s) := s.nonce
      let summary := if r.param2 == 0 then [] else sha384 s.mBlocks.flatten
      s.spdmSigned (spdmBytes r 0x83) (spdmMsg 0x03 0 1 (padTo 48 Config.certDigest ++ n ++ summary ++ [0, 0])))

/-- Blocks that a request names: their number, one, or all. -/
def State.measAnswer (s : State) (index : Nat) : Nat × List Byte :=
  if index == 0 then (s.mBlocks.length, [])
  else (0, (if index == 0xFF then s.mBlocks else s.mBlocks.filter fun b => field b 0 1 == index).flatten)

/-- A signature is refused with RequestResynch when the epoch has changed since the transcript's first GET_MEASUREMENTS (R305). -/
def execGetMeasurements (r : SpdmReq) (s : State) : Out :=
  .next (s.spdmRun 3 fun s =>
    let sign := bitOf r.param1 0
    if bitOf r.param1 1 || (sign && s.sec.killed) then s.spdmError spdmUnsupported
    else if sign && (match s.sec.measEpoch with | some e => e != s.sec.epoch | none => false) then
      { s with sec.spdm := 0, sec.transcript := [], sec.measEpoch := none }.spdmError spdmResynch
    else
      let (n, s) := s.nonce
      let (count, rec') := s.measAnswer r.param2
      let head := spdmMsg 0x60 count 0 (leBytes 1 (rec'.length / 64) ++ leBytes 3 rec'.length ++ rec' ++ n ++ [0, 0])
      if sign then { s.spdmSigned (spdmBytes r 0xE0) head with sec.transcript := [], sec.measEpoch := none }
      else { s with sec.measEpoch := s.sec.measEpoch.orElse fun _ => some s.sec.epoch }.spdmReply (spdmBytes r 0xE0) head)

/-- Codes of the seven requests that are supported. -/
def spdmCodes : List Nat := [0x84, 0xE1, 0xE3, 0x81, 0x82, 0x83, 0xE0]

def execSpdmUnsupportedRequest (code : Nat) (s : State) : Out :=
  .next (if spdmCodes.contains code then s else s.spdmRun 0 fun s => s.spdmError spdmUnsupported)

end Sys2Proof.Machine
end

