-- ==== Sys2Proof/Machine/Info.lean ====
section
/-! DEFINITION. The information commands (R41) and the mode commands (R323-R326, R330). -/

namespace Sys2Proof.Machine

/-! ## Information (R41) -/

/-- PART: ASCII "AMZ-4P8H-A", zero-padded. -/
def partName : List Byte := [0x41, 0x4D, 0x5A, 0x2D, 0x34, 0x50, 0x38, 0x48, 0x2D, 0x41, 0, 0, 0, 0, 0, 0]

def State.infoIdentity (s : State) (q : Req) : State × Resp :=
  (s, okR (partName ++ leBytes 8 s.sec.serial ++ [0xB1, 0x43] ++ leBytes 1 s.sec.life ++ leBytes 1 s.fw.iface ++ leBytes 2 s.moduleIdWord ++ leBytes 1 s.twin.role ++ leBytes 1 (q.vf.getD 0xFF)))

def execInfoIdentity (m : Mb) (s : State) : Out := .next (s.mbRun m 0x0101 true (lenIs 0 []) State.infoIdentity)

/-- The staged image of a role: that of the lower area where both hold one. -/
def State.stagedOf (s : State) (role : Nat) : Option Image := (List.find? (fun a : Nat × Image => a.2.role == role) s.fw.staged).map Prod.snd

def State.firmwareEntry (s : State) (role : Nat) : List Byte :=
  let a := s.activeImage role
  let st := s.stagedOf role
  leBytes 1 role ++ leBytes 1 (match st with | some i => 1 + 2 * boolN i.verified | none => 0) ++ [0, 0] ++ leBytes 4 a.version ++ leBytes 4 ((st.map (·.version)).getD 0) ++ leBytes 1 a.epoch ++ [0, 0, 0]

def State.infoFirmware (s : State) (_q : Req) : State × Resp := (s, okR ((List.range 5).map s.firmwareEntry).flatten)

def execInfoFirmware (m : Mb) (s : State) : Out := .next (s.mbRun m 0x0102 false (lenIs 0 []) State.infoFirmware)

def State.freeContexts (s : State) : Nat := 16384 - s.ctxs.length

/-- On a VF the slots and the memory are the tenant's own. -/
def State.infoCapacity (s : State) (q : Req) : State × Resp :=
  let slots := match q.vf with | some v => 768 - s.slotsBound v | none => s.freeContexts
  let mib := match q.vf with | some v => s.quotaLeft v / 2 ^ 20 | none => 2 * s.freeFrames
  (s, okR ((List.range 16).map (fun c => BitVec.ofNat 8 (s.course c).active) ++ leBytes 2 (128 - s.parts.length) ++ leBytes 2 s.freeContexts ++
    leBytes 2 (4096 - (s.ctxs.filter fun c => c.2.group == 6).length) ++ leBytes 2 slots ++ leBytes 4 mib))

def execInfoCapacity (m : Mb) (s : State) : Out := .next (s.mbRun m 0x0103 true (lenIs 0 []) State.infoCapacity)

/-- Milliseconds left of a live lease (R229). -/
def State.leaseMs (s : State) : Nat := if s.power.lease == 0 then (tS 5 - s.since s.power.leaseAt) / 25000 else 0

def State.infoStatus (s : State) (_q : Req) : State × Resp :=
  (s, okR (leBytes 4 s.modState ++ leBytes 2 s.power.capW ++ leBytes 2 s.leaseMs ++ leBytes 1 s.fw.tenancy ++ leBytes 1 (s.sec.tenants.filter fun r => r.2.state == 1).length ++ [0, 0] ++
    leBytes 8 (s.since s.power.resetAt)))

def execInfoStatus (m : Mb) (s : State) : Out := .next (s.mbRun m 0x0104 false (lenIs 0 []) State.infoStatus)

/-- UNCERTAINTY_NS (R217): in a Holdover the last bound and 1 ns per ms since the loss. -/
def State.uncertaintyNs (s : State) : Nat :=
  match s.fab.timeState, s.fab.holdoverAt with
  | 1, _ => s.fab.uncertainty
  | 2, some t => min 0xFFFF (s.fab.uncertainty + s.since t / 25000)
  | _, _ => 0xFFFF

def State.vaultSync (s : State) : Bool := s.fab.timeState == 1 || (s.fab.timeState == 2 && !s.fab.unsynced && decide (s.uncertaintyNs ≤ 1000))

def State.infoTime (s : State) (_q : Req) : State × Resp :=
  (s, okR (leBytes 8 s.now ++ leBytes 1 (boolN s.vaultSync) ++ [0] ++ leBytes 2 s.uncertaintyNs))

def execInfoTime (m : Mb) (s : State) : Out := .next (s.mbRun m 0x0105 true (lenIs 0 []) State.infoTime)

/-! ## Modes (R330) -/

def State.modeQuery (s : State) (_q : Req) : State × Resp :=
  (s, okR (leBytes 1 s.fw.iface ++ leBytes 1 s.fw.ifaceBit ++ leBytes 1 (boolN s.fw.selSampled) ++ leBytes 1 s.lockCode ++ leBytes 1 s.fw.tenancy ++ leBytes 1 s.fw.tenancyBit ++
    leBytes 1 s.twin.role ++ leBytes 1 s.profile))

def execModeQuery (m : Mb) (s : State) : Out := .next (s.mbRun m 0x0F01 false (lenIs 0 []) State.modeQuery)

/-- Stored for the next start; the interface not after the lock. -/
def State.modeSet (s : State) (q : Req) : State × Resp :=
  let bit := q.u8 0
  let ten := q.u8 1
  if (1 < bit && bit != 0xFF) || (1 < ten && ten != 0xFF) then (s, failR St.badArg)
  else if bit != 0xFF && s.fw.lock.isSome then (s, failR St.refused 1)
  else if 3 ≤ s.sec.life then (s, failR St.refused 4)
  else ({ s with fw.ifaceBit := if bit == 0xFF then s.fw.ifaceBit else bit, fw.tenancyBit := if ten == 0xFF then s.fw.tenancyBit else ten }, okR [])

def execModeSet (m : Mb) (s : State) : Out := .next (s.mbRun m 0x0F02 false (lenIs 4 [(2, 2)]) State.modeSet)

def State.compatLock (s : State) (q : Req) : State × Resp :=
  let v := q.u8 0
  if 1 < v then (s, failR St.badArg)
  else if s.fw.lock.isSome then (s, failR St.refused 1)
  else if v != s.fw.iface then (s, failR St.refused 3)
  else if 3 ≤ s.sec.life then (s, failR St.refused 4)
  else (({ s with fw.lock := some v }.burnCmd 0x0C 2 0 0 v).post 0x0F02 0 0 (leBytes 1 v), okR [])

def execModeCompatLock (m : Mb) (s : State) : Out := .next (s.mbRun m 0x0F03 false (lenIs 4 [(1, 3)]) State.compatLock)

end Sys2Proof.Machine
end

