-- ==== Sys2Proof/Machine/Link.lean ====
section
/-! DEFINITION. Fabric ports (10_fabric.md): bring-up and HELLO (R205), the link layer's frames, replays and retrains (R201, R202), lane tests
and the spare (R203, R204), connector inspection and cleaning (R219, R220, R336). -/

namespace Sys2Proof.Machine

/-! ## The port and its lanes -/

/-- The profile's entry of a port: port, neighbour module, neighbour port. -/
def State.topo (s : State) (p : Nat) : Option (Nat × Nat × Nat) := s.fw.profile.bind fun f => List.find? (fun t => t.1 == p) f.topology

/-- Ports are brought up: a verified profile, a bound key set with a key in use, BOOT not exhausted, no SAFE_HOLD (R205, R208, R294, R295, R272). -/
def State.fabricOn (s : State) : Bool :=
  s.up && s.fw.profile.isSome && !s.fab.exhausted && s.sec.fabBound && !s.sec.killed && decide (s.sec.fabRetired.length < 4) && s.power.phase != 2

/-- The port is in use, and its optical engine does not restart (R222). -/
def State.portOn (s : State) (p : Nat) : Bool := s.fabricOn && decide (p < 12) && (s.topo p).isSome && !s.unitDown 3 (p / 2)

/-- Ports whose spare fibre lies in the same row as that of `p` (R334). -/
def spareRow (p : Nat) : List Nat := (List.range 12).filter fun q => q / 6 == p / 6

/-- The row that holds the port's spare is being cleaned for another port whose spare is in service (R336). -/
def State.spareCleaned (s : State) (p : Nat) : Bool := (spareRow p).any fun q => q != p && (s.port q).state == 5 && (s.port q).spareFor != 15

/-- A lane carries traffic: itself, or by the spare. While lane `test` is under test its traffic is on the free spare, or nowhere. -/
def State.laneWhole (s : State) (p : Nat) (test : Option Nat) (l : Nat) : Bool :=
  let f := s.port p
  let spareOk := !f.badLanes.contains 8 && !s.spareCleaned p
  if f.spareFor == l then spareOk && test != some 8
  else !f.badLanes.contains l && (test != some l || (f.spareFor == 15 && spareOk))

/-- Lanes of the width in use: 8, 4 on the half that is whole, or 0. -/
def State.widthUnder (s : State) (p : Nat) (test : Option Nat) : Nat :=
  let half (o : Nat) : Bool := (List.range 4).all fun i => s.laneWhole p test (o + i)
  if half 0 && half 4 then 8 else if half 0 || half 4 then 4 else 0

/-- The width in use (R203); a test never stops traffic, so it cannot take the last whole half. -/
def State.portWidth (s : State) (p : Nat) : Nat :=
  if s.widthUnder p (s.port p).testing == 0 then s.widthUnder p none else s.widthUnder p (s.port p).testing

/-! ## State changes -/

/-- Modules of the profile (R211). -/
def State.vault (s : State) : List Nat := ((s.fw.profile.map fun f => f.routes.map Prod.fst).getD []).filter fun m => m != s.ownId

/-- A PORT_STATE packet of a port to every module of the profile. -/
def State.floodPort (s : State) (p : Nat) : State :=
  s.vault.foldl (fun s m => s.sendRouted { s.newPacket m 0x21 with payload := leBytes 1 p ++ leBytes 1 (s.port p).state ++ leBytes 1 (((s.topo p).map fun t => t.2.1).getD 0) }) s

/-- A port's state changes, and is flooded. -/
def State.setPort (s : State) (p st : Nat) : State :=
  if (s.port p).state == st then s else (s.updPort p fun f => { f with state := st }).floodPort p

def portOp (p : Nat) (k : OpKind) : Bool := match k with | .fabRetrain q => q == p | .fabClean q => q == p | _ => false

/-- A port leaves service (R202): its frames are discarded and counted. `st` is the state it takes; `fin` says that a retrain or cleaning
command ends with it (log 42). -/
def State.portDown (s : State) (p cause st : Nat) (fin : Bool) : State :=
  let f := s.port p
  let s := s.updPort p fun f => { f.dropFrames with retraining := false, inspectAt := [], testing := none }
  let s := if portUsable f.state || f.state == 1 then s.post 0x0D02 5 p (leBytes 1 cause) else s
  let s := s.setPort p st
  if fin then s.finishOps (portOp p) St.abortedFault else s

/-- UP or HALF by the lanes in service; a port in INSPECT stays so; with neither half whole it goes DOWN, a cause that no code names. -/
def State.setWidth (s : State) (p : Nat) : State :=
  if !portUsable (s.port p).state then s
  else
    match s.portWidth p with
    | 0 => s.portDown p (Config.unstated 10 [p] % 256) 0 true
    | w => if (s.port p).state == 4 then s else s.setPort p (if w == 8 then 2 else 3)

/-- HELLO starts the link anew: before it, the neighbour's receive buffer is empty (log 19). -/
def State.sendHello (s : State) (p : Nat) : State :=
  (s.updPort p fun f => { f with helloAt := s.now, credits := 256, unpaid := [], waiting := [] }).sendLocal p
    { s.newPacket (((s.topo p).map fun t => t.2.1).getD 0) 0x20 with payload := leBytes 1 s.ownId ++ leBytes 1 p }

/-- R335, in 0.1 nm: the module with the lower id transmits at 1,304.5 nm and receives at 1,324.5 nm, the other does the reverse. -/
def wavelengths (own neighbour : Nat) : Nat × Nat := if own < neighbour then (13045, 13245) else (13245, 13045)

/-- The wavelengths of a port, by the profile's topology. -/
def State.setWave (s : State) (p : Nat) : State := s.updPort p fun f => { f with wave := (s.topo p).map fun t => wavelengths s.ownId t.2.1 }

/-- Bring-up: wavelengths, equalisation, FEC lock and the HELLO exchange. -/
def State.bringUp (s : State) (p : Nat) : State := ((s.setWave p).setPort p 1).sendHello p

def execPortLightDetect (p : Nat) (s : State) : Out := .next (if s.portOn p && (s.port p).state == 0 then s.bringUp p else s)

def execLightLoss (p : Nat) (s : State) : Out :=
  .next (if s.portOn p && [1, 2, 3, 4, 6, 7].contains (s.port p).state then s.portDown p 0 0 true else s)

/-- The port comes into service. -/
def State.portUp (s : State) (p : Nat) : State :=
  match s.portWidth p with
  | 0 => s.setPort p 0
  | w =>
    let s := s.updPort p fun f => { f with retry := [], rx := [], txSeq := 0, rxSeq := 0, nak := none, credits := 256, unpaid := [], waiting := [], owed := 0, upAt := s.now, rebase := f.rebase || f.berBase.isEmpty }
    ((s.setPort p (if w == 8 then 2 else 3)).post 0x0D01 5 p (leBytes 1 w)).finishOps (portOp p) St.ok

/-- R205: the key first, then the neighbour against the topology; each wrong state posts its event when it is entered. -/
def execHello (p neighbour nport : Nat) (keyOk : Bool) (s : State) : Out :=
  .next (let f := s.port p
    if s.portOn p && ((f.state == 1 && !f.retraining) || f.state == 6 || f.state == 7) then
      let s := s.updPort p fun f => { f with helloAt := s.now }
      if !keyOk then (if f.state == 7 then s else (s.setPort p 7).post 0x0D09 5 p [])
      else if (s.topo p).map (fun t => t.2) != some (neighbour, nport) then
        (if f.state == 6 then s else (s.setPort p 6).post 0x0D08 5 p (leBytes 1 neighbour ++ leBytes 1 nport))
      else s.portUp p
    else s)

def execHelloRetry (p : Nat) (s : State) : Out :=
  .next (if s.portOn p && ((s.port p).state == 6 || (s.port p).state == 7) && decide (tS 10 ≤ s.since (s.port p).helloAt) then s.sendHello p else s)

/-! ## Lane tests (R202-R204) -/

/-- A lane's place in the fault histories. -/
def laneKey (p l : Nat) : Nat := 16 + 16 * p + l

/-- The spare takes a lane, or moves to it: one remap is fused. -/
def State.remap (s : State) (p l : Nat) : State :=
  let old := (s.port p).spareFor
  let s := (s.updPort p fun f => { f with spareFor := l, remaps := f.remaps - 1 }).burn 0x07 1 5 p l s.lastLog old
  s.post 0x0D03 5 p (leBytes 1 l ++ leBytes 1 (s.port p).remaps)

/-- A lower lane whose test was called for at the same instant still waits for its outcome (R222). -/
def State.lowerWaits (s : State) (p l : Nat) : Bool :=
  (List.range l).any fun k => (s.unit 5 (laneKey p k)).pending.isSome && (s.unit 5 (laneKey p k)).pendingAt == (s.unit 5 (laneKey p l)).pendingAt

/-- The free spare takes the first lane with a lasting fault, by lane number where two fail together. -/
def State.giveSpare (s : State) (p : Nat) : State :=
  let f := s.port p
  if f.spareFor == 15 && !f.badLanes.contains 8 && f.remaps != 0 then
    match List.find? (fun l => decide (l < 8) && !s.lowerWaits p l) f.badLanes with
    | some l => s.remap p l
    | none => s
  else s

/-- A lasting lane fault: the table Lane replacement. -/
def State.laneLasting (s : State) (p l : Nat) : State :=
  ({ s with flt.lasting := sat32 s.flt.lasting 1 }.updPort p fun f => { f with badLanes := insertNat f.badLanes l }).giveSpare p

/-- The next lane whose test waits begins it. -/
def State.nextLane (s : State) (p : Nat) : State :=
  if (s.port p).testing.isSome then s.setWidth p
  else
    match leastBelow 9 fun l => (s.unit 5 (laneKey p l)).pending.isSome with
    | some l => (s.updPort p fun f => { f with testing := some l }).setWidth p
    | none => s.setWidth p

/-- A lane's test is called for; a second event on a lane whose test is pending classes it lasting at once (R261). -/
def State.wantLane (s : State) (p l : Nat) : State :=
  let s := if (s.unit 5 (laneKey p l)).pending.isSome then (s.testResult 5 p 2 l false).laneLasting p l
    else s.updUnit 5 (laneKey p l) fun u => { u with pending := some (l, none), pendingAt := s.now }
  s.nextLane p

def execLaneBerCheck (p l : Nat) (high : Bool) (s : State) : Out :=
  .next (if s.portOn p && decide (l < 9) && high && portUsable (s.port p).state then s.wantLane p l else s)

/-- A lane that passes its retest: an unreplaced one carries again; a replaced one gives the spare to another lane with a lasting fault. -/
def State.lanePassed (s : State) (p l : Nat) : State :=
  let f := s.port p
  if !f.badLanes.contains l then s
  else if f.spareFor != l then (s.updPort p fun f => { f with badLanes := removeNat f.badLanes l }).giveSpare p
  else
    match f.badLanes.filter fun k => k != l && decide (k < 8) with
    | k :: _ => if f.remaps == 0 then s else (s.updPort p fun f => { f with badLanes := removeNat f.badLanes l }).remap p k
    | [] => s

/-- The test of the port's lanes, one after another (R207, R271), goes on or ends. -/
def State.wholeTest (s : State) (p l : Nat) : State :=
  let u := s.unit 5 p
  if !u.testing then s
  else if l < 8 then s.updPort p fun f => { f with testing := some (l + 1) }
  else
    let s := s.updUnit 5 p fun u => { u with testing := false, pending := none }
    match u.pending.bind Prod.snd with
    | some n => s.finishOp n St.ok
    | none => s

/-- PRBS31 on the lane under test has ended; fewer than 10 errored bits pass (R203). -/
def execLaneTestDone (p l errors : Nat) (s : State) : Out :=
  .next (if s.portOn p && (s.port p).testing == some l then
      let pass := decide (errors < 10)
      let req := (((s.unit 5 p).pending.bind Prod.snd).isSome) && (s.unit 5 p).testing
      let s := (s.updPort p fun f => { f with testing := none }).updUnit 5 (laneKey p l) fun u => { u with pending := none }
      let (s, eighth) := if pass then s.noteTransient 5 (laneKey p l) else (s, false)
      let s := if pass && !eighth then (s.testResult 5 p 1 l req).lanePassed p l else (s.testResult 5 p 2 l req).laneLasting p l
      (s.wholeTest p l).nextLane p
    else s)

/-! ## Frames (R201) -/

def rxRoom (f : FPort) (p : Packet) : Bool := decide (sumNat (f.rx.map creditsOf) + creditsOf p ≤ 256)

/-! ## The bytes of a packet (R206, R207) -/

/-- The 32-bit ROUTE word: hop h in bits [4h + 3:4h]. -/
def routeWord : List Nat → Nat
  | [] => 0
  | p :: t => p % 16 + 16 * routeWord t

/-- The 32-byte header; reserved bits are zero. -/
def packetHeader (p : Packet) (hop : Nat) : List Byte :=
  leBytes 1 p.dest ++ leBytes 1 p.src ++ leBytes 1 p.origin ++ leBytes 1 p.type ++ leBytes 1 (p.tenant % 64 + p.keyId % 4 * 64) ++ leBytes 1 p.epoch ++ leBytes 1 hop ++
    leBytes 1 (boolN p.first + 2 * boolN p.last + 4 * boolN p.twin) ++ leBytes 2 (p.context % 2 ^ 14) ++ leBytes 2 p.payload.length ++ leBytes 4 (routeWord p.route) ++
    leBytes 6 p.seq ++ leBytes 2 p.boot ++ leBytes 8 p.counter

def hopByte (p : Packet) : Nat := p.hop % 16 + p.hopCount % 16 * 16

/-- The packet that a received header spells, with its decrypted payload; reserved bits are ignored. -/
def packetOf (h payload : List Byte) (tagOk : Bool) : Packet :=
  let b (i : Nat) : Nat := field h i 1
  { dest := b 0, src := b 1, origin := b 2, type := b 3, tenant := b 4 % 64, keyId := b 4 / 64, epoch := b 5, hop := b 6 % 16, hopCount := b 6 / 16, first := bitOf (b 7) 0, last := bitOf (b 7) 1, twin := bitOf (b 7) 2, context := field h 8 2 % 2 ^ 14, route := (List.range 8).map fun k => field h 0xC 4 / 16 ^ k % 16, seq := field h 0x10 6, boot := field h 0x16 2, counter := field h 0x18 8, payload, tagOk }

/-- The 96-bit IV: zero, SRC, BOOT and COUNTER. -/
def packetIv (p : Packet) : List Byte := [0] ++ leBytes 1 p.src ++ leBytes 2 p.boot ++ leBytes 8 p.counter

/-- A packet on the link: header, encrypted payload and tag, whose additional data is the header with HOP as zero. -/
def packetBytes (p : Packet) : List Byte :=
  packetHeader p (hopByte p) ++ padTo (p.payload.length + 16) (Config.aesGcm p.keyId (packetIv p) (packetHeader p 0) p.payload)

/-- The 4-byte link sequence and credit word of a frame; how it divides is not stated (log 19). -/
def linkWord (f : Frame) : List Byte := leBytes 4 (Config.unstated 21 [f.seq, f.credits])

/-- The bytes of a link frame: the word, the packet, and the CRC-32 over both. -/
def Frame.bytes (f : Frame) : List Byte := linkWord f ++ packetBytes f.pkt ++ leBytes 4 (crc32 (linkWord f ++ packetBytes f.pkt)).toNat

/-- Corrected symbols count on the port and on their lanes, and start nothing (R202). -/
def FPort.noteFec (f : FPort) (fec : List Nat) : FPort :=
  { f.count 2 (sumNat fec) with fecLane := fec.zipIdx.foldl (fun t x => t.set x.2 (sat64 (t.get 0 x.2) x.1)) f.fecLane }

/-- A frame that is not passed on: a NAK names the frame expected, and the lane that the symbol errors name is tested. -/
def State.rejectFrame (s : State) (p lane codewords : Nat) : State := (s.updPort p fun f => { f.count 3 codewords with nak := some f.rxSeq }).wantLane p (lane % 9)

/-- A whole frame: its credits come back, and what waited for them is sent; in order it enters the receive buffer. Frames after a gap, and copies,
are not passed on. -/
def State.acceptFrame (s : State) (p linkSeq credits : Nat) (pkt : Packet) : State :=
  if linkSeq == (s.port p).rxSeq && rxRoom (s.port p) pkt then
    let s := s.updPort p fun f => { ((FPort.repay credits f.unpaid f).count 1 1).count 10 (frameBytes pkt) with rx := f.rx ++ [pkt], rxSeq := f.rxSeq + 1, nak := none }
    s.pumpPort p (s.port p).waiting
  else s

def execLinkFrameReceive (p : Nat) (word : LinkWord) (got : FrameGot) (fec : List Nat) (pkt : Packet) (s : State) : Out :=
  .next (if !s.portOn p || !portUsable (s.port p).state then s
    else
      let s := s.updPort p fun f => f.noteFec fec
      match got with
      | .uncorrectable lane => s.rejectFrame p lane 1
      | .badCrc lane => s.rejectFrame p lane 0
      | .whole => s.acceptFrame p word.seq word.credits pkt)

/-- Equalisation and FEC lock start again with the retry buffer kept. -/
def State.retrain (s : State) (p : Nat) : State :=
  (s.updPort p fun f => { f.count 5 1 with retraining := true, retry := f.retry.map fun x => { x with replays := 0 }, replayTimes := [] }).setPort p 1

/-- Every frame of the retry buffer is sent again, in order. -/
def State.resend (s : State) (p : Nat) : State := { s with fab.sent := ((s.port p).retry.reverse.map fun f => (p, f)) ++ s.fab.sent }

/-- The frames before the one that the NAK names have arrived; it and those after it are sent again. -/
def execLinkNak (p linkSeq : Nat) (s : State) : Out :=
  .next (let f := s.port p
    if !s.portOn p || !portUsable f.state then s
    else
      let left := (f.retry.filter fun x => decide (linkSeq ≤ x.seq)).map fun x => { x with replays := x.replays + 1 }
      if left.isEmpty then s.updPort p fun f => { f with retry := [] }
      else
        let s := (s.updPort p fun f => { f.count 4 1 with retry := left, replayTimes := s.now :: f.replayTimes.filter fun t => decide (s.now < t + tMs 1) }).resend p
        if left.any (fun x => decide (8 ≤ x.replays)) || 64 ≤ (s.port p).replayTimes.length then s.retrain p else s)

/-- A retrain that succeeds resumes replay with nothing lost; one that fails ends in DOWN. -/
def execLinkRetrainDone (p : Nat) (ok : Bool) (s : State) : Out :=
  .next (if s.portOn p && (s.port p).state == 1 && (s.port p).retraining then
      if ok then
        let s := s.updPort p fun f => { f with retraining := false }
        match s.portWidth p with
        | 0 => s.portDown p (Config.unstated 10 [p] % 256) 0 true
        | w => ((s.setPort p (if w == 8 then 2 else 3)).resend p).finishOps (portOp p) St.ok
      else s.portDown p 1 0 true
    else s)

/-! ## Inspection and cleaning (R219, R220) -/

def State.cartridge (s : State) : Bool := (s.fw.profile.map (·.cartridge)).getD false

def State.widthsInRow (s : State) (p : Nat) : State := (spareRow p).foldl (fun s q => if q == p then s else s.setWidth q) s

/-- CLEAN_REQ: 0x01, the port, the request id. -/
def cleanReqBytes (p id : Nat) : List Byte := leBytes 1 1 ++ leBytes 1 p ++ leBytes 1 id

/-- The retry buffer drains, the port goes down and CLEAN_REQ is written to the cartridge. -/
def State.startClean (s : State) (p : Nat) : State :=
  let s := s.updPort p fun f => { f.count 11 1 with retry := [], cleanAt := some s.now, reqId := (f.reqId + 1) % 256, cleanReq := cleanReqBytes p ((f.reqId + 1) % 256), cartFails := 0 }
  (s.portDown p 3 5 false).widthsInRow p

def hourPassed (s : State) (t : Option Tick) : Bool := t.isNone || s.passed t (tS 3600)

/-- Cleanings of the last 24 h that left the port in INSPECT. -/
def State.uselessCleans (s : State) (p : Nat) : Nat := ((s.port p).cleanings.filter fun t => decide (s.now < t + tS 86400)).length

/-- BER_LOG: -100 × log10 of a ratio of errored bits, rounded down; 0 before a measurement, the largest value without an error (log 6). -/
def berLog (r : Nat × Nat) : Nat := if r.2 == 0 then 0 else if r.1 == 0 then 0xFFFF else ((List.range 2000).filter fun n => decide (r.1 ^ 100 * 10 ^ (n + 1) ≤ r.2 ^ 100)).length

def State.postInspect (s : State) (p l : Nat) : State :=
  let f := s.port p
  (s.updPort p fun f => { f with inspectPost := some s.now }).post 0x0D04 5 p
    (leBytes 1 l ++ [0] ++ leBytes 2 (unsigned 16 (f.oma.get 0 l)) ++ leBytes 2 (berLog (f.ber.get (0, 0) l)))

def State.postIneffective (s : State) (p : Nat) : State :=
  (s.updPort p fun f => { f with inspectPost := some s.now }).post 0x0D06 5 p []

/-- A port in INSPECT is cleaned, at most once an hour and not after three cleanings in 24 h that left it there. -/
def State.cleanDue (s : State) (p : Nat) : State :=
  if s.cartridge && hourPassed s (s.port p).cleanAt && s.uselessCleans p < 3 then s.startClean p
  else if 3 ≤ s.uselessCleans p then s.postIneffective p
  else s

/-- The last cleaning has left the port in INSPECT. -/
def FPort.noteUseless (f : FPort) (now : Tick) : FPort :=
  let l := match f.cleanAt with
    | some t => if f.cleanings.contains t then f.cleanings else t :: f.cleanings
    | none => f.cleanings
  { f with cleanings := l.filter fun t => decide (now < t + tS 86400) }

/-- The port enters INSPECT. -/
def State.enterInspect (s : State) (p l : Nat) : State :=
  let s := s.updPort p fun f => f.noteUseless s.now
  ((s.setPort p 4).postInspect p l).cleanDue p

/-- An error ratio at least four times a baseline; without a baseline there is none. -/
def fourfold (base now : Nat × Nat) : Bool := base.2 != 0 && now.2 != 0 && decide (4 * base.1 * now.2 ≤ now.1 * base.2)

/-- Both conditions of R219 on a lane: OMA down by more than 1.5 dB or back-reflection up by more than 3 dB, and an error ratio at least four
times its baseline. -/
def FPort.foul (f : FPort) (l : Nat) : Bool :=
  (decide (f.oma.get 0 l < -150) || decide (300 < f.br.get 0 l)) && fourfold (f.berBase.get (0, 0) l) (f.ber.get (0, 0) l)

/-- The last measurements of a lane (R219). -/
def FPort.measure (f : FPort) (m : LaneMeas) : FPort := { f with oma := f.oma.set m.lane m.oma, br := f.br.set m.lane m.br, ber := f.ber.set m.lane m.ber }

/-- A lane's measurements against its baseline, the error ratio as errored bits and bits of the last 10 s; 10 s without a break on one lane put the port in
INSPECT. -/
def execInspectEntry (p l : Nat) (omaDelta brDelta : Int) (ber : Nat × Nat) (s : State) : Out :=
  .next (if !s.portOn p || 8 < l then s
    else
      let s := s.updPort p fun f => f.measure ⟨l, omaDelta, brDelta, ber⟩
      let f := s.port p
      if !(f.state == 2 || f.state == 3) then s
      else if f.foul l then
        match f.inspectAt.find? l with
        | none => s.updPort p fun f => { f with inspectAt := f.inspectAt.set l s.now }
        | some t => if tS 10 ≤ s.since t then s.enterInspect p l else s
      else s.updPort p fun f => { f with inspectAt := f.inspectAt.del l })

/-- CLEAN_DONE: 0 done, 1 failed, 2 timeout; the port is brought up again. -/
def State.cleanEnd (s : State) (p result : Nat) : State :=
  let s := s.updPort p fun f => { f with rebase := true }
  (((s.post 0x0D05 5 p (leBytes 1 result)).bringUp p).widthsInRow p)

/-- STATUS of the cartridge for the request under way; three failed reads, or a stuck bus, make it a silent device (R240, R341). -/
def execCartridgePoll (p : Nat) (st : CartStatus) (s : State) : Out :=
  .next (if s.up && (s.port p).state == 5 then
      match s.answered st.state with
      | some v =>
        let s := s.updPort p fun f => { f with cartFails := 0 }
        if st.reqId != (s.port p).reqId then s else if v == 2 then s.cleanEnd p 0 else if v == 3 then s.cleanEnd p 1 else s
      | none =>
        let s := s.updPort p fun f => { f with cartFails := f.cartFails + 1 }
        if 3 ≤ (s.port p).cartFails || s.therm.i3cStuck.isSome then s.cleanEnd p 1 else s
    else s)

def execCartridgeTimeout (p : Nat) (s : State) : Out :=
  .next (if s.up && (s.port p).state == 5 && s.passed (s.port p).cleanAt (tS 120) then s.cleanEnd p 2 else s)

/-- How far a lane's new baseline lies below the integration baseline, which the port's first one is. -/
def FPort.below (f : FPort) (l : Nat) : Int := if f.berBase.isEmpty then 0 else f.aged.get 0 l - f.oma.get 0 l

/-- A new baseline: deltas are zero against it. -/
def State.newBaseline (s : State) (p : Nat) : State :=
  let below := (s.port p).below
  let s := s.updPort p fun f => { f with oma := [], br := [], berBase := (List.range 9).foldl (fun t l => t.set l (f.ber.get (0, 0) l)) f.berBase, aged := (List.range 9).foldl (fun t l => t.set l (below l)) f.aged, inspectAt := [], rebase := false }
  (List.range 9).foldl (fun s l => if 300 < below l then s.post 0x0D07 5 p (leBytes 1 l ++ [0] ++ leBytes 2 (unsigned 16 (below l))) else s) s

/-- Replaced and unserved lanes are retested (R204, R222), and a new baseline is taken; a port that has none takes its first (log 10). -/
def State.rebaseline (s : State) (p : Nat) : State :=
  let again := (s.port p).badLanes
  (again.foldl (fun s l => s.updUnit 5 (laneKey p l) fun u => { u with pending := u.pending.orElse fun _ => some (l, none), pendingAt := s.now }) (s.newBaseline p)).nextLane p

/-- 10 s after a cleaned port is UP; `lanes` are what it then measures. -/
def execRebaseline (p : Nat) (lanes : List LaneMeas) (s : State) : Out :=
  .next (let f := s.port p
    if s.portOn p && portUsable f.state && f.rebase && decide (tS 10 ≤ s.since f.upAt) then
      (s.updPort p fun f => lanes.foldl FPort.measure f).rebaseline p
    else s)

/-- An hour later a port still in INSPECT may be cleaned again, or is posted again. -/
def execCleanReqInterval (p : Nat) (s : State) : Out :=
  .next (let f := s.port p
    if s.portOn p && f.state == 4 && hourPassed s f.inspectPost then
      if s.uselessCleans p < 3 then
        let l := (leastBelow 9 fun l => f.foul l).getD 0
        (s.postInspect p l).cleanDue p
      else s.postIneffective p
    else s)

end Sys2Proof.Machine
end

