-- ==== Sys2Proof/Machine/Sett.lean ====
section
/-! DEFINITION. Sett packets (10_fabric.md): forwarding and delivery (R207, R210), result streams into landing rings (R213, R214), drain markers
(R215, R216), PORT_STATE (R211) and Vault time (R217, R218). -/

namespace Sys2Proof.Machine

/-! ## Forwarding and delivery -/

/-- Sequence and epoch comparisons of a width: a is newer than b. -/
def newer (w a b : Nat) : Bool := let d := (a + 2 ^ w - b % 2 ^ w) % 2 ^ w; decide (1 ≤ d) && decide (d < 2 ^ (w - 1))

/-- A result packet of a tenant whose epoch has been drained (rule 1 of R215); control packets belong to no tenant (log 39). -/
def State.isDrained (s : State) (p : Packet) : Bool :=
  (p.type == 1 || p.type == 2) && s.fab.drained.any fun d => d.1 == p.src && d.2.1 == p.tenant && !newer 8 p.epoch d.2.2

def State.importOf (s : State) (p : Packet) : Option (Nat × Import) :=
  List.find? (fun i : Nat × Import => i.2.key == (p.origin, p.context, p.tenant)) s.fab.imports

def State.setImport (s : State) (n : Nat) (i : Import) : State := { s with fab.imports := s.fab.imports.set n i }

/-- DRAIN_DISCARD counts on the arrival port, and in the import that the packet is for. -/
def State.drainCount (s : State) (port : Nat) (p : Packet) : State :=
  let s := s.updPort port fun f => f.count 8 1
  match s.importOf p with
  | some (n, i) => s.setImport n { i with drainDiscard := sat32 i.drainDiscard 1 }
  | none => s

/-- The destination acts on packets to its own id, and on the markers and exchanges that go hop by hop. -/
def State.delivers (s : State) (p : Packet) : Bool := p.dest == s.ownId || [0x10, 0x20, 0x22].contains p.type

/-- Packets whose events bring their content as operands: HELLO and TIME (log 43). -/
def linkOnly (p : Packet) : Bool := p.type == 0x20 || p.type == 0x22

/-- Ports to the primary and the alternate parent; the root has none. -/
def State.parents (s : State) : Option (Nat × Nat) :=
  match s.fw.profile.bind (·.timeRoot) with
  | some (root, a, b) => if root == s.ownId then none else some (a, b)
  | none => none

def State.parentPort (s : State) : Option Nat := s.parents.map fun q => if s.fab.alternate then q.2 else q.1

/-- A child's TIME request is answered with the times of its arrival and of the answer; an answer acts through its own row (R217; log 43). -/
def State.answerTime (s : State) (port : Nat) (p : Packet) : State :=
  if allZero (p.payload.drop 8) && s.parentPort != some port then
    s.sendLocal port { s.newPacket p.src 0x22 with payload := p.payload.take 8 ++ leBytes 8 (40 * s.now) ++ leBytes 8 (40 * s.now) ++ leBytes 8 0 }
  else s

/-- A tag that fails, or one under a retired key: dropped, counted, posted, and the arrival port's lanes are tested. -/
def State.tagFail (s : State) (port : Nat) (p : Packet) : State :=
  let s := (s.updPort port fun f => f.count 7 1).post 0x0D0A 5 port (leBytes 1 p.src ++ leBytes 1 p.type)
  let s := (List.range 9).foldl (fun s l => s.updUnit 5 (laneKey port l) fun u => if u.pending.isSome then u else { u with pending := some (l, none), pendingAt := s.now }) s
  s.nextLane port

def State.deliver (s : State) (port : Nat) (p : Packet) : State :=
  if !p.tagOk || s.sec.fabRetired.contains p.keyId then s.tagFail port p
  else if s.isDrained p then s.drainCount port p
  else if p.type == 0x22 then s.answerTime port p
  else if linkOnly p then s
  else { s with fab.inbox := s.fab.inbox ++ [(port, p)] }

/-- R210 for a packet on its way; a drop counts on the arrival port (log 38). -/
def State.forward (s : State) (port : Nat) (p : Packet) : State :=
  let out := p.route.getD p.hop 0
  if s.isDrained p then s.drainCount port p
  else if p.hopCount < p.hop + 1 || !portUsable (s.port out).state then s.updPort port fun f => f.count 6 1
  else s.sendOn out { p with hop := p.hop + 1 }

/-- The oldest packet of a port's receive buffer leaves it. -/
def execSettPacketReceive (port : Nat) (s : State) : Out :=
  .next (match (s.port port).rx with
    | [] => s
    | p :: t =>
      if s.portOn port then
        let s := s.updPort port fun f => { f with rx := t, owed := f.owed + creditsOf p }
        if s.delivers p then s.deliver port p else s.forward port p
      else s)

/-- Takes a delivered packet of a type; the port it came by. -/
def State.take (s : State) (p : Packet) (types : Nat → Bool) : Option (Nat × State) :=
  match List.find? (fun x : Nat × Packet => x.2 == p) s.fab.inbox with
  | some (port, _) => if s.up && types p.type then some (port, { s with fab.inbox := dropFirst (fun x : Nat × Packet => x.2 == p) s.fab.inbox }) else none
  | none => none

/-! ## Result streams (R213, R214) -/

def seqAdd (h n : Nat) : Nat := (h + n) % 2 ^ 48
def seqDist (s h : Nat) : Nat := (s + 2 ^ 48 - h) % 2 ^ 48

def Import.slots (i : Import) : Nat := 2 ^ i.slotsLog2
def Import.slotAddr (i : Import) (seq : Nat) : Nat := i.ringAddr + 8192 * ((seq + 2 ^ 48 - 1) % 2 ^ 48 % i.slots)

/-- A landing entry's 64-byte header. -/
def landHeader (seq flags len type src origin time : Nat) : List Byte :=
  leBytes 6 seq ++ leBytes 2 flags ++ leBytes 2 len ++ leBytes 1 type ++ leBytes 1 src ++ leBytes 1 origin ++ [0, 0, 0] ++ leBytes 8 time ++ List.replicate 40 0

/-- A LOST entry for a number; the member that failed to send it is not known, so SRC is 0. -/
def State.landLost (s : State) (i : Import) (seq : Nat) : State :=
  s.hostWriteN (i.slotAddr seq) (landHeader seq 1 0 0 0 i.origin s.now)

/-- The numbers H + 1 to H + n that have not arrived. -/
def Import.gone (i : Import) (n : Nat) : List Nat := ((List.range n).map fun k => seqAdd i.h (k + 1)).filter fun q => !(i.window.any fun w => w.1 == q)

/-- The window begins at H + n, and what had not arrived is counted. -/
def Import.slid (i : Import) (n : Nat) : Import :=
  { i with h := seqAdd i.h n, lost := sat64 i.lost (i.gone n).length, window := i.window.filter fun w => decide (n < seqDist w.1 i.h) && decide (seqDist w.1 i.h ≤ n + 64) }

/-- LOST entries for the numbers H + 1 to H + n that have not arrived; the window then begins at H + n. -/
def State.slide (s : State) (i : Import) (n : Nat) : State × Import := ((i.gone n).foldl (fun s q => s.landLost i q) s, i.slid n)

/-- While bit 1 is set, H advances. -/
def Import.advance (i : Import) : Nat → Import
  | 0 => i
  | n + 1 =>
    if i.window.any fun w => w.1 == seqAdd i.h 1 then
      Import.advance { i with h := seqAdd i.h 1, window := i.window.filter fun w => w.1 != seqAdd i.h 1 } n
    else i

/-- Attachment bytes that a record names (R212): BOXES × 16 of a VISION_RESULT, BYTES of an ENCODE_OUTPUT, else none. -/
def namedBytes (broup : Bool) (r : List Byte) : Nat :=
  if field r 0 1 == 2 then 16 * (field r (if broup then 20 else 12) 4 % 2 ^ 11) else if field r 0 1 == 4 then field r 32 4 else 0

/-- Attachment bytes sent up to the last packet of a record, `k` packets after its first. -/
def sentBytes (k : Nat) (p : Packet) : Nat := 4096 * k + p.payload.length - 64

/-- TRUNCATED, on a record's last entry: its record names more bytes than were sent. Where the first packet has not landed it is not known
(log 130). -/
def truncFlag (broup : Bool) (i : Import) (p : Packet) : Nat :=
  if !p.last then 0
  else if p.type == 1 then boolN (decide (sentBytes 0 p < namedBytes broup p.payload))
  else
    match List.find? (fun h => decide (seqDist p.seq h.1 < 257) && decide (4096 * seqDist p.seq h.1 < h.2 + 64)) i.heads with
    | some h => boolN (decide (sentBytes (seqDist p.seq h.1) p < h.2))
    | none => Config.unstated 11 [p.origin, p.context, p.seq] % 2

/-- The import remembers the record that a RECORD packet begins. -/
def Import.noteHead (i : Import) (broup : Bool) (p : Packet) : Import :=
  if p.type == 1 then { i with heads := ((p.seq, namedBytes broup p.payload) :: i.heads).take 64 } else i

/-- Writes the entry of a packet. -/
def State.landEntry (s : State) (i : Import) (p : Packet) : State :=
  let flags := 2 * boolN p.first + 4 * boolN p.last + 8 * truncFlag s.broup i p
  s.hostWriteN (i.slotAddr p.seq) (landHeader p.seq flags p.payload.length p.type p.src p.origin s.now ++ p.payload)

/-- The window slides as far as a number beyond it needs. -/
def State.slideFor (s : State) (i : Import) (seq : Nat) : State × Import :=
  if 64 < seqDist seq i.h then s.slide i (seqDist seq i.h - 64) else (s, i)

/-- The import after the entry of a number has landed at a time: its bit is set, it is counted, and H advances. -/
def Import.landed (i : Import) (seq : Nat) (u : Tick) : Import :=
  Import.advance { i with window := insertBy (fun a b : Nat × Tick => decide (seqDist a.1 i.h ≤ seqDist b.1 i.h)) (seq, u) i.window, delivered := sat64 i.delivered 1 } 65

/-- A packet that has room in its ring lands. -/
def State.landIn (s : State) (n : Nat) (i : Import) (p : Packet) : State :=
  ((s.slideFor i p.seq).1.landEntry (s.slideFor i p.seq).2 p).setImport n (((s.slideFor i p.seq).2.landed p.seq s.now).noteHead s.broup p)

/-- R213 for a packet of an import. -/
def State.landPacket (s : State) (n : Nat) (i : Import) (p : Packet) : State :=
  if !newer 48 p.seq i.h || i.window.any (fun w => w.1 == p.seq) then s.setImport n { i with duplicates := sat64 i.duplicates 1 }
  else if i.slots < seqDist p.seq (leNat (s.hostReadN i.consAddr 8) % 2 ^ 48) then s.setImport n { i with landFull := sat32 i.landFull 1 }
  else s.landIn n i p

/-- A result packet that has been delivered: landing waits in a Hold (R222); imports stopped by a PF FLR count LAND_FULL. -/
def State.landResult (s : State) (port : Nat) (p : Packet) : State :=
  match s.importOf p with
  | some (n, i) =>
    if !s.tenantOpen i.tenant then s.drainCount port p
    else if i.stopped then s.setImport n { i with landFull := sat32 i.landFull 1 }
    else s.landPacket n i p
  | none => if s.fab.closed.contains (p.origin, p.context, p.tenant) then s.drainCount port p else s

def State.landFrom (s : State) (p : Packet) (type : Nat) : State :=
  if s.power.hold then s
  else
    match s.take p fun t => t == type with
    | some (port, s) => s.landResult port p
    | none => s

def execRecord (p : Packet) (s : State) : Out := .next (s.landFrom p 1)
def execData (p : Packet) (s : State) : Out := .next (s.landFrom p 2)

/-- The greatest distance from H of a number that arrived at least 2 ms ago. -/
def Import.due (i : Import) (now : Tick) : Nat := ((i.window.filter fun w => decide (w.2 + tMs 2 ≤ now)).map fun w => seqDist w.1 i.h).foldl max 0

/-- Numbers missing 2 ms after a later one arrived are LOST, and the window advances over them. -/
def execLandingGapTimeout (n : Nat) (s : State) : Out :=
  .next (match s.fab.imports.find? n with
    | none => s
    | some i =>
      if s.up && !s.power.hold && !i.stopped && i.due s.now != 0 then
        (s.slide i (i.due s.now - 1)).1.setImport n ((s.slide i (i.due s.now - 1)).2.advance 65)
      else s)

/-! ## Drain markers (R215, R216) -/

/-- A DRAIN seen the first time: the epoch is drained, the marker goes on, and SRC is told. -/
def State.drainIn (s : State) (port id : Nat) (p : Packet) : State :=
  let s := { s with
    fab.seen := (p.src, id) :: s.fab.seen
    fab.drained := (p.src, p.tenant, p.epoch) :: s.fab.drained.filter fun d => !(d.1 == p.src && d.2.1 == p.tenant) }
  let s := (s.usablePorts.filter fun k => k != port).foldl (fun s k => s.sendOn k p) s
  s.sendRouted { s.newPacket p.src 0x11 with payload := leBytes 4 id }

def execDrain (p : Packet) (port : Nat) (s : State) : Out :=
  .next (match s.take p fun t => t == 0x10 with
    | some (q, t) =>
      if q != port then s
      else if t.fab.seen.contains (p.src, field p.payload 0 4) then t
      else t.drainIn port (field p.payload 0 4) p
    | none => s)

/-- A module has acknowledged; at the last one the fabric step ends. -/
def State.ackDrain (s : State) (src id : Nat) : State :=
  match List.find? (fun x : Nat × Nat × List Nat × Tick => x.2.1 == id) s.fab.steps with
  | none => s
  | some (t, _, wait, at') =>
    let left := wait.filter fun m => m != src
    if left.isEmpty then s.drainOver t else { s with fab.steps := s.fab.steps.set t (id, left, at') }

def execDrainAck (p : Packet) (s : State) : Out :=
  .next (match s.take p fun t => t == 0x11 with
    | some (_, s) => s.ackDrain p.src (field p.payload 0 4)
    | none => s)

/-- 10 ms after its DRAIN a step ends; the modules that did not answer are posted by number. -/
def execDrainTimeout (s : State) : Out :=
  .next (if s.up then
      (s.fab.steps.filter fun x => decide (x.2.2.2 + tMs 10 ≤ s.now)).foldl (fun (s : State) (x : Nat × Nat × List Nat × Tick) =>
        (s.post 0x0D0C 0 0 (leBytes 4 x.2.1 ++ leBytes 2 x.2.2.1.length)).drainOver x.1) s
    else s)

/-! ## PORT_STATE (R211) -/

def State.notePort (s : State) (p : Packet) : State :=
  let l : Link := ⟨p.src, field p.payload 0 1, field p.payload 1 1, field p.payload 2 1⟩
  { s with fab.links := l :: s.fab.links.filter fun x => !(x.module == l.module && x.port == l.port) }

def execPortState (p : Packet) (s : State) : Out :=
  .next (match s.take p fun t => t == 0x21 with
    | some (_, s) => s.notePort p
    | none => s)

/-- Every 1 s the full state of the ports that the profile uses. -/
def execPortStateFlood (s : State) : Out :=
  .next (if s.fabricOn && decide (tS 1 ≤ s.since s.fab.floodAt) then
      ((List.range 12).filter fun p => (s.topo p).isSome).foldl (fun s p => s.floodPort p) { s with fab.floodAt := s.now }
    else s)

/-! ## Vault time (R217, R218) -/

/-- Whether a TIME exchange on a port counts: with the parent in use, and in Local or Holdover with either. -/
def State.hearsTime (s : State) (port : Nat) : Bool :=
  match s.parents with
  | none => false
  | some (a, b) => portUsable (s.port port).state && (s.parentPort == some port || (s.fab.timeState != 1 && (port == a || port == b)))

def State.setTimeState (s : State) (st : Nat) : State :=
  if s.fab.timeState == st then s else { s with fab.timeState := st }.post 0x0D0E 0 0 (leBytes 1 st)

/-- The first lock steps the counter once to Vault time; later exchanges slew it. Timestamps are in ns: sent here, received there, sent there,
received here. The bound within 50 ns that it measures is not stated (log 11). -/
def execTime (port : Nat) (t1 t2 t3 t4 : Int) (s : State) : Out :=
  .next (if s.fabricOn && s.hearsTime port then
      let off := ((t2 - t1) + (t3 - t4)) / 2
      let (w, s) := s.free
      let s := { s with
        fab.timeAt := s.now, fab.holdoverAt := none, fab.unsynced := false, fab.uncertainty := w.toNat % 51
        fab.alternate := (match s.parents with | some (a, b) => port == b && a != b | none => false) }
      let s := if s.fab.stepped then { s with fab.slew := off }
        else
          let s := { s with fab.stepped := true, now := (s.now + off / 40).toNat, fab.timeAt := (s.now + off / 40).toNat }
          s.post 0x0D0D 0 0 (leBytes 8 (unsigned 64 (off / 40)))
      s.setTimeState 1
    else s)

/-- Every 1 ms a TIME goes to the parent with the time of sending. -/
def execTimeExchange (s : State) : Out :=
  .next (match s.parentPort with
    | some p =>
      if s.fabricOn && portUsable (s.port p).state && decide (tMs 1 ≤ s.since s.fab.timeSent) then
        let t : State := { s with fab.timeSent := s.now }
        t.sendLocal p { s.newPacket (((s.topo p).map fun t => t.2.1).getD 0) 0x22 with payload := leBytes 8 (40 * s.now) ++ List.replicate 24 0 }
      else s
    | none => s)

/-- Holdover begins, and the other parent is turned to. -/
def execTimeParentLoss (s : State) : Out :=
  .next (if s.up && s.fab.timeState == 1 && decide (tMs 5 ≤ s.since s.fab.timeAt) then
      { s with fab.holdoverAt := some s.now, fab.alternate := !s.fab.alternate, fab.slew := 0 }.setTimeState 2
    else s)

def execHoldoverLimit (s : State) : Out :=
  .next (if s.up && s.fab.timeState == 2 && s.passed s.fab.holdoverAt (tMs 950) then { s with fab.unsynced := true } else s)

end Sys2Proof.Machine
end

