-- ==== Sys2Proof/Machine/FabCmd.lean ====
section
/-! DEFINITION. The fabric commands (R221). -/

namespace Sys2Proof.Machine

/-! ## Ports -/

/-- STATE of FAB_PORT: a port that the profile names as unused is UNUSED. -/
def State.portCode (s : State) (p : Nat) : Nat := if (s.topo p).isSome then (s.port p).state else 9

/-- Neighbour of an unused port is not stated (log 15). -/
def State.fabPort (s : State) (q : Req) : State × Resp :=
  let p := q.u8 0
  if 11 < p then (s, failR St.badArg)
  else
    let f := s.port p
    let n := (s.topo p).getD (p, Config.unstated 12 [p, 0], Config.unstated 12 [p, 1])
    let lane (l : Nat) : List Byte := leBytes 2 (unsigned 16 (f.oma.get 0 l)) ++ leBytes 2 (unsigned 16 (f.br.get 0 l)) ++ leBytes 2 (berLog (f.ber.get (0, 0) l)) ++ [0, 0]
    (s, okR (leBytes 1 (s.portCode p) ++ leBytes 1 f.spareFor ++ leBytes 1 f.remaps ++ leBytes 1 n.2.2 ++ leBytes 1 n.2.1 ++ [0, 0, 0] ++ ((List.range 9).map lane).flatten))

def execFabPort (m : Mb) (s : State) : Out := .next (s.mbRun m 0x0D01 false (lenIs 4 [(1, 3)]) State.fabPort)

def State.fabCounters (s : State) (q : Req) : State × Resp :=
  let p := q.u8 0
  if 11 < p || 1 < q.u8 1 then (s, failR St.badArg)
  else
    let pay := ((List.range 12).map fun i => leBytes 8 ((s.port p).ctr.get 0 i)).flatten
    (if q.u8 1 == 1 then s.updPort p fun f => { f with ctr := [] } else s, okR pay)

def execFabCounters (m : Mb) (s : State) : Out := .next (s.mbRun m 0x0D02 false (lenIs 4 [(2, 2)]) State.fabCounters)

/-- An accepted port operation that finds the port out of use ends at once (log 42). -/
def State.portOpDown (s : State) (q : Req) (k : OpKind) : State × Resp :=
  let (s, a) := s.accept q k
  (s.finishOp a.arg St.abortedFault, a)

def State.portRetrain (s : State) (q : Req) (p : Nat) : State × Resp :=
  if portUsable (s.port p).state then
    let (s, a) := s.accept q (.fabRetrain p)
    (s.retrain p, a)
  else s.portOpDown q (.fabRetrain p)

/-- Cleaning needs the profile's cartridge: without one the command has nothing to clean with (log 42). -/
def State.portClean (s : State) (q : Req) (p : Nat) : State × Resp :=
  if !hourPassed s (s.port p).cleanAt then (s, failR St.refused 1)
  else if !s.cartridge || !portUsable (s.port p).state then s.portOpDown q (.fabClean p)
  else
    let (s, a) := s.accept q (.fabClean p)
    (s.startClean p, a)

def State.fabPortCtrl (s : State) (q : Req) : State × Resp :=
  let p := q.u8 0
  if 11 < p || 4 < q.u8 1 || (s.topo p).isNone then (s, failR St.badArg)
  else if s.held (7, p) then (s, failR St.busy)
  else
    match q.u8 1 with
    | 0 => (if (s.port p).state == 8 then s.setPort p 0 else s, okR [])
    | 1 => (if (s.port p).state == 8 then s else s.portDown p 2 8 true, okR [])
    | 2 => s.portRetrain q p
    | 3 => s.portClean q p
    | _ =>
      if (s.port p).state == 2 then (s.newBaseline p, okR [])
      else (s, failR St.refused 2)

def execFabPortCtrl (m : Mb) (s : State) : Out := .next (s.mbRun m 0x0D03 false (lenIs 4 [(2, 2)]) State.fabPortCtrl)

/-! ## Exports and imports -/

/-- A destination has a route that the profile check left valid (R209). -/
def State.hasRoute (s : State) (dest : Nat) : Bool := (s.routesTo dest).any fun r => !s.fab.badRoutes.contains (dest * 4 + r.1)

def State.fabExport (s : State) (q : Req) : State × Resp :=
  let n := q.u16 0
  match s.ctx? n with
  | none => (s, failR St.badArg)
  | some c =>
    if 1048576 < q.u32 4 then (s, failR St.badArg)
    else if s.held (2, n) then (s, failR St.busy)
    else
      match leastBelow 1024 fun i => !s.fab.exports.has i with
      | none => (s, failR St.noResource)
      | some id =>
        if !s.hasRoute (q.u8 2) then (s, failR St.refused 3)
        else if c.exportId.isSome then (s, failR St.refused 4)
        else
          let s := { s with fab.exports := s.fab.exports.set id { ctx := n, dest := q.u8 2, attachMax := q.u32 4, seq := 1 } }
          (s.updCtx n fun c => { c with exportId := some id }, okR (leBytes 2 id ++ leBytes 1 s.origin ++ [0]))

def execFabExport (m : Mb) (s : State) : Out := .next (s.mbRun m 0x0D04 false (lenIs 8 [(3, 1)]) State.fabExport)

def importArgs (q : Req) : Bool :=
  decide (q.u16 2 < 16384) && decide (q.u8 4 ≤ 63) && decide (4 ≤ q.u8 5) && decide (q.u8 5 ≤ 16) && q.u64 8 % 4096 == 0 && q.u64 16 % 8 == 0

def newImport (q : Req) : Import :=
  { tenant := q.u8 0, origin := q.u8 1, srcCtx := q.u16 2, srcTenant := q.u8 4, slotsLog2 := q.u8 5, ringAddr := q.u64 8, consAddr := q.u64 16, h := 0, window := [], delivered := 0, duplicates := 0, lost := 0, landFull := 0, drainDiscard := 0, heads := [], stopped := false }

def State.fabImport (s : State) (q : Req) : State × Resp :=
  match s.tenantErr (q.u8 0) with
  | some e => (s, failR e)
  | none =>
    if !importArgs q then (s, failR St.badArg)
    else
      match leastBelow 1024 fun i => !s.fab.imports.has i with
      | none => (s, failR St.noResource)
      | some id =>
        let i := newImport q
        if s.fab.imports.any fun x => x.2.key == i.key then (s, failR St.refused 4)
        else ({ s with fab.imports := s.fab.imports.set id i, fab.closed := s.fab.closed.filter fun k => k != i.key }, okR (leBytes 2 id ++ [0, 0]))

def execFabImport (m : Mb) (s : State) : Out := .next (s.mbRun m 0x0D05 false (lenIs 24 [(6, 2)]) State.fabImport)

def State.fabUnbind (s : State) (q : Req) : State × Resp :=
  let id := q.u16 2
  if q.u8 0 == 0 then
    match s.fab.exports.find? id with
    | none => (s, failR St.badArg)
    | some e => ({ s with fab.exports := s.fab.exports.del id }.updCtx e.ctx fun c => { c with exportId := none }, okR [])
  else if q.u8 0 == 1 && s.fab.imports.has id then ({ s with fab.imports := s.fab.imports.del id }, okR [])
  else (s, failR St.badArg)

def execFabUnbind (m : Mb) (s : State) : Out := .next (s.mbRun m 0x0D06 false (lenIs 4 [(1, 1)]) State.fabUnbind)

/-- WINDOW: bit k stands for H + 1 + k. -/
def Import.bits (i : Import) : Nat := sumNat (i.window.map fun w => 2 ^ (seqDist w.1 i.h - 1))

def State.fabStream (s : State) (q : Req) : State × Resp :=
  match s.fab.imports.find? (q.u16 0) with
  | none => (s, failR St.badArg)
  | some i => (s, okR (leBytes 8 i.h ++ leBytes 8 i.bits ++ leBytes 8 i.delivered ++ leBytes 8 i.duplicates ++ leBytes 8 i.lost ++ leBytes 4 i.landFull ++ leBytes 4 i.drainDiscard))

def execFabStream (m : Mb) (s : State) : Out := .next (s.mbRun m 0x0D07 false (lenIs 4 [(2, 2)]) State.fabStream)

/-! ## Routes -/

def State.routeEntry (s : State) (dest i : Nat) : List Byte :=
  match List.find? (fun r : Nat × Nat × List Nat => r.1 == i) (s.routesTo dest) with
  | none => List.replicate 8 0
  | some r =>
    leBytes 1 r.2.1 ++ leBytes 1 (if s.fab.badRoutes.contains (dest * 4 + i) then 2 else if s.routeOk dest r then 0 else 1) ++ [0, 0] ++ leBytes 4 (routeWord r.2.2)

def State.fabRoute (s : State) (q : Req) : State × Resp := (s, okR ((List.range 4).map (s.routeEntry (q.u8 0))).flatten)

def execFabRoute (m : Mb) (s : State) : Out := .next (s.mbRun m 0x0D08 false (lenIs 4 [(1, 3)]) State.fabRoute)

end Sys2Proof.Machine
end

