-- ==== Sys2Proof/Machine/Twin.lean ====
section
/-! DEFINITION. Twin pairs (14_twin.md): heartbeats and loss (R280, R283, R284), leads as they arrive (R281), joining (R282), the handover (R283),
and the twin commands (R287). Twin messages are Plinth hardware and go on through a Mason pause. -/

namespace Sys2Proof.Machine

/-- A twin message that has been delivered: it comes from the partner, and is heard. -/
def State.takeTwin (s : State) (p : Packet) (type : Nat) : Option State :=
  match s.take p fun t => t == type with
  | some (_, t) => if s.twin.role != 0 && s.partner == some p.src then some { t with twin.heardAt := s.now } else none
  | none => none

def State.partnerByte (s : State) : List Byte := leBytes 1 (s.partner.getD 0xFF)

/-- Grants end with the pairing that made them. -/
def State.ungrant (s : State) : State := { s with parts := s.parts.mapVals fun _ p => { p with granted := false } }

def isJoin (k : OpKind) : Bool := match k with | .twinJoin => true | _ => false
def isHandover (k : OpKind) : Bool := match k with | .twinHandover => true | _ => false

/-- A role is written to flash and posted: cause 0 loss, 1 handover, 2 split. -/
def State.setRole (s : State) (role cause : Nat) : State :=
  { s.ungrant with twin.role := role, twin.handing := false, fw.twinBit := some role }.post 0x0D80 0 0 (leBytes 1 role ++ leBytes 1 cause)

/-- The Standby takes the lead. Jobs already led run first; a join under way is abandoned (R288). -/
def State.takeLead (s : State) (cause : Nat) : State :=
  let s := (s.finishOps isJoin St.refused 2).setRole 1 cause
  { s with twin.primaryAt := s.now, twin.switchovers := sat32 s.twin.switchovers 1, twin.former := false }

/-! ## Heartbeats and loss -/

/-- Of two Primaries the later yields: the one that took the lead after it last heard its partner (R284; log 44). -/
def State.yields (s : State) (partnerRole : Nat) : Bool := s.twin.role == 1 && partnerRole == 1 && decide (s.twin.heardAt < s.twin.primaryAt)

/-- A heartbeat keeps the partner; one that was lost is heard again, not joined. -/
def execTwinHeartbeat (p : Packet) (s : State) : Out :=
  .next (match s.takeTwin p 0x30 with
    | none => s
    | some t =>
      let t := if t.twin.partner == 3 then { t with twin.partner := 0 } else t
      if s.yields (field p.payload 0 1) then
        { t.setRole 2 2 with twin.partner := 0, twin.former := true }.post 0x0D83 0 0 s.partnerByte
      else t)

def execTwinHeartbeatSend (s : State) : Out :=
  .next (if s.up && s.twin.role != 0 then
      s.sendTwin 0x30 (leBytes 1 s.twin.role ++ leBytes 1 s.twin.partner ++ leBytes 2 s.fw.boot ++ leBytes 8 s.twin.leads)
    else s)

/-- 5 ms without a twin message from a partner that had been heard (log 44). -/
def State.partnerGone (s : State) : State :=
  let s := ({ s with twin.partner := 3 }.post 0x0D81 0 0 s.partnerByte).finishOps (fun k => isJoin k || isHandover k) St.refused 2
  if s.twin.role == 2 then s.takeLead 0 else { s.ungrant with twin.handing := false }

def execPartnerLossTimeout (s : State) : Out :=
  .next (if s.up && s.twin.role != 0 && s.twin.partner != 3 && s.twin.heardAt != 0 && decide (tMs 5 ≤ s.since s.twin.heardAt) then s.partnerGone else s)

/-! ## Leads -/

/-- The 16 bytes of an entry (R280). -/
def readEntry (b : List Byte) : LeadEntry := ⟨field b 0 2, field b 2 1, field b 3 1, field b 4 4, field b 8 4, field b 12 4⟩

def readEntries (b : List Byte) (off n : Nat) : List LeadEntry := (List.range n).map fun i => readEntry (slice b (off + 16 * i) 16)

/-- A lead joins those that wait; packets of one JOB are one lead. -/
def addLead (l : List Lead) (job : Nat) (es : List LeadEntry) : List Lead :=
  match l.getLast? with
  | some x => if x.job == job then l.dropLast ++ [⟨job, x.entries ++ es⟩] else l ++ [⟨job, es⟩]
  | none => [⟨job, es⟩]

/-- A lead for the Trowel pool: what is shed goes at once, what runs waits for a core. -/
def State.trowelLead (s : State) (es : List LeadEntry) : State :=
  es.foldl (fun s e => if e.disp == 1 then s.ledShed e else { s with twin.trowel := s.twin.trowel ++ [(e.ctx, e.item, e.seq, e.pseq)] }) s

def State.takeLeadPacket (s : State) (b : List Byte) : State :=
  let part := field b 0 2
  let es := readEntries b 16 (field b 2 2)
  if s.twin.role != 2 then s
  else if part == 0xFFFF then (if s.twin.partner == 1 || s.twin.partner == 2 then s.trowelLead es else s)
  else s.updPart part fun p => if p.granted then { p with leads := addLead p.leads (field b 4 8) es } else p

def execTwinLead (p : Packet) (s : State) : Out :=
  .next (match s.takeTwin p 0x31 with
    | some t => t.takeLeadPacket p.payload
    | none => s)

/-! ## Joining (R282) -/

/-- Every bound plan is Deterministic: partition sizes may then differ (R279). -/
def State.allDeterministic (s : State) : Bool := s.parts.all fun p => match s.planOf p.2 with | some pl => bitOf pl.flags 0 | none => true

/-- LIST_DIGEST over the context list, the plan digests and the partition sizes (the bytes hashed are the model's choice, log 45). -/
def State.listDigest (s : State) : List Byte :=
  let ctxs := (s.ctxs.map fun c => leBytes 2 c.1 ++ leBytes 1 c.2.tenant ++ leBytes 1 c.2.group ++ leBytes 1 c.2.cls ++ leBytes 2 c.2.part).flatten
  let parts := (s.parts.map fun p => leBytes 2 p.1 ++ leBytes 1 (if s.allDeterministic then 0 else p.2.sizeLog2) ++ ((s.planOf p.2).map Plan.digest).getD []).flatten
  sha384 (ctxs ++ parts)

/-- The Primary grants the pool at once and partitions at their boundary points; one that runs nothing is at its boundary point. -/
def State.grantAll (s : State) : State :=
  let s := ({ s with twin.partner := 1 }.ungrant).sendGrant 0xFFFF (s.ctxsOn none)
  (((s.parts.filter fun p => p.2.job.isNone).map Prod.fst).foldl (fun s n => s.grantPart n) s).joinDone

def execTwinJoinReq (p : Packet) (s : State) : Out :=
  .next (match s.takeTwin p 0x32 with
    | none => s
    | some t =>
      if t.twin.role != 1 then t
      else if slice p.payload 0 48 == t.listDigest then t.grantAll
      else t.sendTwin 0x36 (leBytes 1 0))

/-- A context takes over its next PSEQ and its stream's next SEQ. -/
def State.takeGrant (s : State) (b : List Byte) : State :=
  let n := field b 0 2
  let s := s.setPseq n (some (field b 4 4))
  match (s.ctx? n).bind (·.exportId) with
  | some e =>
    match s.fab.exports.find? e with
    | some x => { s with fab.exports := s.fab.exports.set e { x with seq := field b 8 6 } }
    | none => s
  | none => s

/-- The join completes on the Standby when every partition has been granted. -/
def State.joinedNow (s : State) : State :=
  if s.twin.partner == 1 && s.parts.all (fun p => p.2.granted) then
    ({ s with twin.partner := 2 }.post 0x0D82 0 0 s.partnerByte).finishOps isJoin St.ok
  else s

def execTwinJoinGrant (p : Packet) (s : State) : Out :=
  .next (match s.takeTwin p 0x33 with
    | none => s
    | some t =>
      if t.twin.role != 2 || t.twin.partner != 1 then t
      else
        let b := p.payload
        let t := (List.range (field b 2 2)).foldl (fun t i => t.takeGrant (slice b (4 + 16 * i) 16)) t
        (t.updPart (field b 0 2) fun q => { q with granted := true }).joinedNow)

def execTwinJoinRefuse (p : Packet) (s : State) : Out :=
  .next (match s.takeTwin p 0x36 with
    | some t => if t.twin.role == 2 && t.twin.partner == 1 then { t with twin.partner := 0 }.finishOps isJoin St.incompatible else t
    | none => s)

/-! ## Handover (R283) -/

def execTwinHandoverPacket (p : Packet) (s : State) : Out :=
  .next (match s.takeTwin p 0x34 with
    | some t => if t.twin.role == 2 then { (t.takeLead 1).sendTwin 0x35 [] with twin.partner := 0 } else t
    | none => s)

/-- What the former Primary has not led ends without a record; requests in a running step release that step. -/
def State.stopLeading (s : State) : State :=
  let led (n : Nat) : Bool := s.parts.any fun p => match p.2.job with | some j => j.hasCtx n | none => false
  let s1 := { s with
    ctxs := s.ctxs.mapVals fun n c => { c with
      queue := []
      session := if led n then { c.session with joined := true } else { c.session with req := none, joined := false } }
    parts := s.parts.mapVals fun _ p => { p with running := p.running.filter led } }
  { s1.setRole 2 1 with twin.partner := 0, twin.former := true }

def execTwinHandoverAck (p : Packet) (s : State) : Out :=
  .next (match s.takeTwin p 0x35 with
    | some t => if t.twin.role == 1 && t.twin.handing then t.stopLeading.finishOps isHandover St.ok else t
    | none => s)

/-! ## Commands (R287) -/

/-- The partner of a module without one is not stated (log 15). -/
def State.twinStatus (s : State) (_q : Req) : State × Resp :=
  (s, okR (leBytes 1 s.twin.role ++ leBytes 1 (s.partner.getD (Config.unstated 14 [])) ++ leBytes 1 s.pairId ++ leBytes 1 s.twin.partner ++
    leBytes 4 (min 0xFFFFFFFF (s.since s.twin.heardAt / 25)) ++ leBytes 8 s.twin.leads ++ leBytes 4 s.twin.switchovers ++ leBytes 4 s.twin.absent ++ leBytes 4 s.twin.skipped ++ leBytes 4 s.twin.unjoined))

def execTwinStatus (m : Mb) (s : State) : Out := .next (s.mbRun m 0x0D80 false (lenIs 0 []) State.twinStatus)

/-- The partner has not been heard, or not for 5 ms. -/
def State.partnerAbsent (s : State) : Bool := s.partner.isNone || s.twin.heardAt == 0 || decide (tMs 5 ≤ s.since s.twin.heardAt)

def State.twinJoin (s : State) (q : Req) : State × Resp :=
  if s.held (10, 0) then (s, failR St.busy)
  else if s.twin.role != 2 then (s, failR St.refused 1)
  else if s.partnerAbsent then (s, failR St.refused 2)
  else
    let (s, a) := s.accept q .twinJoin
    let s := { s.ungrant with twin.partner := 1, twin.former := false, twin.trowel := [] }
    let s := { s with parts := s.parts.mapVals fun _ p => { p with leads := [] } }
    (s.sendTwin 0x32 s.listDigest, a)

def execTwinJoin (m : Mb) (s : State) : Out := .next (s.mbRun m 0x0D81 false (lenIs 0 []) State.twinJoin)

def State.twinHandover (s : State) (q : Req) : State × Resp :=
  if s.held (10, 0) then (s, failR St.busy)
  else if s.twin.role != 1 then (s, failR St.refused 1)
  else if s.twin.partner != 2 then (s, failR St.refused 2)
  else
    let (s, a) := s.accept q .twinHandover
    (s.handover 0, a)

def execTwinHandover (m : Mb) (s : State) : Out := .next (s.mbRun m 0x0D82 false (lenIs 0 []) State.twinHandover)

end Sys2Proof.Machine
end

