-- ==== Sys2Proof/Machine/Firmware.lean ====
section
/-! DEFINITION. Firmware staging and activation (R309-R317), and the cabinet profile's commands (R320-R322). Where the manual names a profile
section's fields without their places, the places are the model's (log 46). -/

namespace Sys2Proof.Machine

/-! ## The image header (R310, R311) -/

/-- Greatest payload of a role (R309). -/
def roleMax (role : Nat) : Nat := [16, 8, 8, 4, 2].getD role 0 * 2 ^ 20

def headerImage (h : List Byte) : Image :=
  { role := field h 6 1, version := field h 0x18 4, epoch := field h 0x1C 1, length := field h 0x20 8, digest := slice h 0x28 48
    compat := (List.range 5).map fun i => (field h (0x58 + 8 * i) 4, field h (0x5C + 8 * i) 4), verified := false }

def versionMajor (v : Nat) : Nat := v / 2 ^ 24

/-- ASCII "AMZF". -/
def imageMagic : List Byte := [0x41, 0x4D, 0x5A, 0x46]

/-- The first failing check of the table *Header checks*: status and DETAIL. -/
def State.headerCheck (s : State) (h : List Byte) (total : Nat) : Option (Nat × Nat) :=
  let i := headerImage h
  if slice h 0 4 != imageMagic || field h 4 2 != 1 || !allZero (slice h 0x1D 3) || !allZero (slice h 0x80 288) then some (St.headerRejected, 1)
  else if slice h 8 16 != partName then some (St.headerRejected, 2)
  else if 4 < i.role then some (St.headerRejected, 3)
  else if versionMajor i.version != versionMajor (s.activeImage i.role).version then some (St.headerRejected, 4)
  else if field h 7 1 != 1 then some (St.headerRejected, 5)
  else if i.length == 0 || roleMax i.role < i.length || 512 + i.length != total then some (St.headerRejected, 6)
  else if 64 < i.epoch || i.epoch < s.fw.counter then some (St.rollback, 0)
  else none

/-! ## Staging (R312, R317) -/

def State.emptyArea (s : State) (area : Nat) : State := { s with fw.staged := s.fw.staged.del area }

/-- The area is emptied, and holds the image unverified while its payload is read. A header read that fails ends the command by its
response (R354). -/
def State.fwStage (rd : HostRead) (s : State) (q : Req) : State × Resp :=
  let area := q.u8 0
  let addr := q.u64 8
  if 1 < area || addr % 4096 != 0 then (s, failR St.badArg)
  else if s.held (8, area) then (s, failR St.busy)
  else
    match rd with
    | .err c => ({ s.emptyArea area with host.aer := c :: s.host.aer }, failR St.badArg c)
    | .ok =>
      let h := s.hostReadN addr 512
      match s.headerCheck h (q.u64 16) with
      | some (st, d) => (s, failR st d)
      | none => { s with fw.staged := s.fw.staged.set area (headerImage h) }.accept q (.fwStage area addr h)

def execFwStage (m : StageCmd) (s : State) : Out :=
  match m with
  | ⟨mb, rd⟩ => .next (s.mbRun mb 0x0C01 false (lenIs 24 [(1, 7)]) (State.fwStage rd))

/-- The payload's digest and the header's signature. -/
def imageOk (h payload : List Byte) : Bool := sha384 payload == slice h 0x28 48 && Config.sigOk 0 (sha384 (h.take 0x1A0)) (slice h 0x1A0 96)

/-- The payload has been read: the area holds a verified image, or is empty. -/
def State.stageVerify (s : State) (op area addr : Nat) (h : List Byte) : State :=
  let i := headerImage h
  let ok := imageOk h (s.hostReadN (addr + 512) i.length)
  let st := if ok then St.ok else St.signatureFailed
  let s := if ok then { s with fw.staged := s.fw.staged.set area { i with verified := true } } else s.emptyArea area
  (s.post 0x0C01 0 0 (leBytes 1 area ++ leBytes 1 i.role ++ leBytes 1 st ++ [0] ++ leBytes 4 i.version)).finishOp op st

/-- Flash writes wait for the end of a Hold. -/
def execFwStageVerify (op : Nat) (rd : HostRead) (s : State) : Out :=
  .next (match (s.op? op).map PendingOp.kind with
    | some (.fwStage area addr h) =>
      s.intDone (.op op) fun s =>
        match rd with
        | .ok => s.stageVerify op area addr h
        | .err c => (s.emptyArea area).readFailed op c
    | _ => s)

def State.fwDiscard (s : State) (q : Req) : State × Resp :=
  if 1 < q.u8 0 then (s, failR St.badArg)
  else if s.held (8, q.u8 0) then (s, failR St.busy)
  else (s.emptyArea (q.u8 0), okR [])

def execFwDiscard (m : Mb) (s : State) : Out := .next (s.mbRun m 0x0C03 false (lenIs 4 [(1, 3)]) State.fwDiscard)

/-! ## Activation (R313-R316) -/

def inRange (r : Nat × Nat) (v : Nat) : Bool := decide (r.1 ≤ v) && decide (v ≤ r.2)

/-- The COMPAT range of an image for a role. -/
def Image.range (i : Image) (role : Nat) : Nat × Nat := i.compat.getD role (0, 0)

/-- The ranges of role `r` for a staged image hold (R314). -/
def State.rangesOk (s : State) (x : Image) (r : Nat) : Bool :=
  inRange (x.range r) (s.activeImage r).version && (r == x.role || inRange ((s.activeImage r).range x.role) x.version)

/-- DETAIL of the first failing condition of R314. -/
def State.compatFail (s : State) (x : Image) : Option Nat :=
  match leastBelow 5 fun r => !s.rangesOk x r with
  | some r => some (1 + r)
  | none => if x.role == 0 && s.plans.any (fun p => decide (x.version < p.2.minMason)) then some 0x10 else none

def State.fwActivate (s : State) (q : Req) : State × Resp :=
  let area := q.u8 0
  if 1 < area then (s, failR St.badArg)
  else if s.isActivating || s.held (8, area) then (s, failR St.busy)
  else
    match s.fw.staged.find? area with
    | none => (s, failR St.refused 1)
    | some x =>
      if !x.verified then (s, failR St.refused 1)
      else
        match s.compatFail x with
        | some d => (s, failR St.incompatible d)
        | none =>
          let (s1, a) := s.accept q (.fwActivate area)
          ({ s1 with fw.act := some ⟨area, x.role, 0, a.arg, s.activeImage x.role, 0⟩ }, a)

def execFwActivate (m : Mb) (s : State) : Out := .next (s.mbRun m 0x0C02 false (lenIs 4 [(1, 3)]) State.fwActivate)

/-- Five banks with that of a role replaced. -/
def State.setActive (s : State) (role : Nat) (i : Image) : State :=
  { s with fw.active := (List.range 5).map fun r => if r == role then i else s.activeImage r }

/-- Ports of an optical engine that are in service or coming up. -/
def State.enginePorts (s : State) (e : Nat) : List Nat := [2 * e, 2 * e + 1].filter fun p => [1, 2, 3, 4, 6, 7].contains (s.port p).state

/-- Both ports of an engine drain as for cleaning, and go down (R222). -/
def State.engineDown (s : State) (e : Nat) : State :=
  (s.enginePorts e).foldl (fun s p => (s.updPort p fun f => { f with retry := [] }).portDown p (Config.unstated 10 [p] % 256) 0 true) s

/-- The unit of a role from `u` on that restarts next. A Foreman runs only where its Pier is powered. -/
def State.nextUnit (s : State) (role u : Nat) : Option Nat :=
  match role with
  | 1 => leastBelow 4 fun p => decide (u ≤ p) && (s.pier p).powered && !(s.pier p).retired
  | 3 => if u < 6 then some u else none
  | _ => if u = 0 then some 0 else none

/-- A unit restarts: table *Images*, the column Work during the pause. -/
def State.restartUnit (s : State) (role u : Nat) : State :=
  match role with
  | 0 => s.pauseMason 0 150000
  | 1 => s.pierReset u 4
  | 2 => s.handover 4
  | 3 => s.engineDown u
  | _ => s

/-- Fuse steps up to the lowest active EPOCH, those not yet burned counted (R316). -/
def State.rollbackSteps (s : State) : State :=
  let c := (s.flt.burns.filter fun f => f.kind == 8).foldl (fun c f => max c f.value) s.fw.counter
  let e := (List.range 5).foldl (fun e r => min e (s.activeImage r).epoch) 64
  (List.range (e - c)).foldl (fun s k => s.burn 0x08 3 0 0 (c + 1 + k) 0) s

/-- The last processor of the role is in service. -/
def State.activated (s : State) (a : Activation) : State :=
  let s := { s.emptyArea a.area with fw.act := none }.post 0x0C02 0 0 (leBytes 1 a.role ++ [0, 0, 0] ++ leBytes 4 (s.activeImage a.role).version)
  (s.finishOp a.op St.ok).rollbackSteps

/-- The next unit of the role restarts, or the activation ends. -/
def State.goOn (s : State) (a : Activation) (u : Nat) : State :=
  match s.nextUnit a.role u with
  | some k => { s with fw.act := some { a with unit := k, phase := 1 } }.restartUnit a.role k
  | none => s.activated a

/-- The copy verifies and the pointer is written. Mason first answers every mailbox that is BUSY (R39). -/
def execActivationCopyDone (s : State) : Out :=
  .next (match s.fw.act with
    | none => s
    | some a =>
      match s.fw.staged.find? a.area with
      | none => s
      | some x =>
        if s.up && a.phase == 0 && !s.power.hold && (a.role != 0 || s.mason.inputs.isEmpty) then (s.setActive a.role x).goOn a 0 else s)

/-- The unit may be in service: no other Pier is in reset and its jobs have ended, or no core has a picture. -/
def State.unitReady (s : State) (a : Activation) : Bool :=
  match a.role with
  | 1 => s.pierQuiet a.unit && (List.range 4).all fun p => p == a.unit || !(s.pier p).resetting
  | 2 => (List.range 16).all fun c => (s.core c).busy.isNone
  | _ => true

/-- The unit runs the new image. The configuration epoch advances at the first of the role (R304, R313). -/
def State.inService (s : State) (a : Activation) : State :=
  let s := match a.role with
    | 0 => s.resumeMason
    | 1 => if (s.pier a.unit).resetting then s.endReset a.unit true else s
    | _ => s
  let first := s.nextUnit a.role 0 == some a.unit
  (if first then s.bumpEpoch 0 else s).goOn a (a.unit + 1)

/-- R315: the previous bank is active again; units already restarted restart once more, and the failing one restarts with the previous image:
Mason as after any restart, a Pier in its reset that still runs. -/
def State.fallBack (s : State) (a : Activation) : State :=
  let bad := (s.activeImage a.role).version
  let s := { s.setActive a.role a.old with fw.act := none }
  let s := match a.role with
    | 0 => { s with mason.pauseCause := 1 }
    | 1 => ((List.range a.unit).filter fun p => (s.pier p).powered && !(s.pier p).retired && !(s.pier p).resetting).foldl (fun s p => s.pierReset p 4) s
    | 3 => (List.range a.unit).foldl (fun s e => s.engineDown e) s
    | _ => s
  (s.post 0x0C03 0 0 (leBytes 1 a.role ++ [0, 0, 0] ++ leBytes 4 bad)).finishOp a.op St.refused 0x11

def execActivationProcessorInService (pass : Bool) (s : State) : Out :=
  .next (match s.fw.act with
    | none => s
    | some a => if s.up && a.phase == 1 && !s.power.hold && s.unitReady a then (if pass then s.inService a else s.fallBack a) else s)

/-! ## The cabinet profile (R320, R321) -/

/-- Five bytes for each destination's route: hop count and eight port nibbles (log 46). -/
def readRoute (b : List Byte) (off : Nat) : Nat × List Nat := (field b off 1, (List.range 8).map fun h => field b (off + 1) 4 / 16 ^ h % 16)

/-- Destinations of section ROUTES: number, count and routes. -/
def readRoutes : Nat → List Byte → Option (List (Nat × List (Nat × List Nat)))
  | _, [] => some []
  | 0, _ => none
  | n + 1, b =>
    let k := field b 1 1
    let rs := (List.range k).map fun i => readRoute b (2 + 5 * i)
    if b.length < 2 + 5 * k || 4 < k || rs.any (fun r => r.1 == 0 || 8 < r.1 || (r.2.take r.1).any fun p => decide (12 ≤ p)) then none
    else (readRoutes n (b.drop (2 + 5 * k))).map fun t => (field b 0 1, rs) :: t

/-- Ports of section TOPOLOGY: neighbour module and port, 0xFF as the port of an unused one. -/
def readTopology (b : List Byte) : Option (List (Nat × Nat × Nat)) :=
  let es := ((List.range 12).map fun p => (p, field b (2 * p) 1, field b (2 * p + 1) 1)).filter fun e => e.2.2 != 0xFF
  if b.length != 24 || es.any (fun e => decide (12 ≤ e.2.2)) then none else some es

/-- One section's fields into the profile; none for an unknown TYPE or a value outside its range. -/
def Profile.section (p : Profile) (type : Nat) (b : List Byte) : Option Profile :=
  match type with
  | 1 => if b.length == 37 && decide (field b 36 1 ≤ 1) then some { p with sensors := b.take 36, cartridge := field b 36 1 == 1 } else none
  | 2 => if b.length == 2 && decide (300 ≤ field b 0 2) && decide (field b 0 2 ≤ 1500) then some { p with fallbackW := field b 0 2 } else none
  | 3 => if b.length == 1 && decide (field b 0 1 ≤ 100) then some { p with guardCeiling := field b 0 1 } else none
  | 4 => (readTopology b).map fun t => { p with topology := t }
  | 5 => (readRoutes b.length b).map fun r => { p with routes := r }
  | 6 => if b.length == 3 && decide (field b 1 1 < 12) && decide (field b 2 1 < 12) then some { p with timeRoot := some (field b 0 1, field b 1 1, field b 2 1) } else none
  | 7 => if b.length == 2 && decide (field b 1 1 ≤ 2) then some { p with twin := some (field b 0 1, field b 1 1) } else none
  | _ => none

/-- Sections in order, `n` of them, of which SENSORS must be one. -/
def readSections : Nat → List Byte → Bool → Profile → Option Profile
  | 0, b, sensors, p => if b.isEmpty && sensors then some p else none
  | n + 1, b, sensors, p =>
    let len := field b 2 2
    if b.length < 4 + len then none
    else
      match p.section (field b 0 2) ((b.drop 4).take len) with
      | some q => readSections n (b.drop (4 + len)) (sensors || field b 0 2 == 1) q
      | none => none

/-- ASCII "AMZC". -/
def profileMagic : List Byte := [0x41, 0x4D, 0x5A, 0x43]

/-- The profile that a block spells, by its header, sections and reserved bytes. -/
def readProfile (b : List Byte) : Option Profile :=
  if slice b 0 4 != profileMagic || field b 4 2 != 1 || field b 7 1 != 0 || field b 20 4 != b.length || !allZero (slice b 26 38) then none
  else readSections (field b 24 2) ((b.take (b.length - 96)).drop 64) false { moduleId := field b 6 1, order := field b 8 8, seq := field b 16 4, digest := sha384 b }

def State.profileWrite (s : State) (q : Req) : State × Resp :=
  if q.u32 8 < 160 || 2 ^ 20 < q.u32 8 then (s, failR St.badArg)
  else if s.held (9, 0) then (s, failR St.busy)
  else if s.sec.life != 1 then (s, failR St.refused 1)
  else s.accept q (.profileWrite (q.u64 0) (q.u32 8))

def execProfileWrite (m : Mb) (s : State) : Out := .next (s.mbRun m 0x0C10 false (lenIs 12 []) State.profileWrite)

/-- The checks of R321 in order; a profile that passes is stored for the next start. -/
def State.profileVerify (s : State) (op : Nat) (b : List Byte) : State :=
  if !Config.sigOk 1 (sha384 (b.take (b.length - 96))) (b.drop (b.length - 96)) then s.finishOp op St.signatureFailed
  else if field b 8 8 != s.sec.order then s.finishOp op St.refused 2
  else
    match readProfile b with
    | none => s.finishOp op St.badArg
    | some p =>
      if (match s.fw.stored with | some o => decide (p.seq ≤ o.seq) | none => false) then s.finishOp op St.rollback
      else ({ s with fw.stored := some p }.bumpEpoch 1).finishOp op St.ok

def execProfileWriteDone (op : Nat) (rd : HostRead) (s : State) : Out :=
  .next (match (s.op? op).map PendingOp.kind with
    | some (.profileWrite addr len) =>
      s.intDone (.op op) fun s =>
        match rd with
        | .ok => s.profileVerify op (s.hostReadN addr len)
        | .err c => s.readFailed op c
    | _ => s)

/-- Of the profile stored; locked from FIELD on. Without one, MODULE_ID is the low byte of 0xFFFF. -/
def State.profileInfo (s : State) (_q : Req) : State × Resp :=
  (s, okR (match s.fw.stored with
    | some p => leBytes 1 (if 2 ≤ s.sec.life then 2 else 1) ++ leBytes 1 p.moduleId ++ [0, 0] ++ leBytes 4 p.seq ++ leBytes 8 p.order ++ padTo 48 p.digest
    | none => [0, 0xFF] ++ List.replicate 62 0))

def execProfileInfo (m : Mb) (s : State) : Out := .next (s.mbRun m 0x0C11 false (lenIs 0 []) State.profileInfo)

end Sys2Proof.Machine
end

