-- ==== Sys2Proof/Machine/Lintel.lean ====
section
/-! DEFINITION. The Lintel host channels (R112-R115, R117-R120, R123): registers, arm checks, transfers, completion and bus errors. The bytes
of a set land when it completes, stops or fails. -/

namespace Sys2Proof.Machine

/-! ## A set's transfer -/

def ShSet.dir (x : ShSet) : Nat := bitsOf x.ctrl.toNat 2 1
def ShSet.irq (x : ShSet) : Bool := bitOf x.ctrl.toNat 3
def ShSet.form (x : ShSet) : Nat := bitsOf x.ctrl.toNat 5 4
def ShSet.rows (x : ShSet) : Nat := if x.form == 0 then 1 else x.count.toNat % 65536 + 1
def ShSet.planes (x : ShSet) : Nat := if x.form == 2 then x.count.toNat / 65536 + 1 else 1
def ShSet.total (x : ShSet) : Nat := x.row.toNat * x.rows * x.planes

def ShSet.srcHbm (x : ShSet) : Bool := x.dir != 0
def ShSet.dstHbm (x : ShSet) : Bool := x.dir != 1

/-- First source and destination byte of row `r` of plane `p`, before any wrap. -/
def ShSet.srcAt (x : ShSet) (p r : Nat) : Int := x.src.toNat + r * signed 32 x.sstr.toNat + p * signed 48 x.spstr.toNat
def ShSet.dstAt (x : ShSet) (p r : Nat) : Int := x.dst.toNat + r * signed 32 x.dstr.toNat + p * signed 48 x.dpstr.toNat

/-- Least and greatest byte of one side of a transfer. -/
def sideSpan (at' : Nat → Nat → Int) (rows planes rowBytes : Nat) : Int × Int :=
  let cs := [at' 0 0, at' 0 (rows - 1), at' (planes - 1) 0, at' (planes - 1) (rows - 1)]
  (cs.foldl min (at' 0 0), cs.foldl max (at' 0 0) + rowBytes - 1)

def hbmSpan (q : Int × Int) : Bool := decide (0 ≤ q.1) && decide (q.2 < 2 ^ 48)

/-- Check 1 of R118. -/
def ShSet.formOk (x : ShSet) : Bool :=
  x.dir != 3 && (!x.dstHbm || hbmSpan (sideSpan x.dstAt x.rows x.planes x.row.toNat)) &&
    (!x.srcHbm || x.form == 3 || hbmSpan (sideSpan x.srcAt x.rows x.planes x.row.toNat)) &&
    decide (1 ≤ x.row.toNat) && (x.form == 0 || decide (x.row.toNat ≤ 2 ^ 24)) && decide (x.total ≤ 2 ^ 40)

/-- Every row of one side lies in mapped pages. -/
def State.rowsMapped (s : State) (t : Nat) (at' : Nat → Nat → Int) (x : ShSet) : Bool :=
  (List.range x.planes).all fun p => (List.range x.rows).all fun r => s.hbmMapped t (at' p r).toNat x.row.toNat

/-- Check 3 of R118. -/
def State.setMapped (s : State) (x : ShSet) : Bool :=
  (!x.dstHbm || s.rowsMapped x.tenant x.dstAt x) && (!x.srcHbm || x.form == 3 || s.rowsMapped x.tenant x.srcAt x)

/-- The error code of arming; none where the set arms. -/
def State.armCode (s : State) (x : ShSet) : Option Nat :=
  if !x.formOk then some 8 else if !s.tenantOpen x.tenant then some 7 else if !s.setMapped x then some 6 else none

def ShSet.readRow (x : ShSet) (s : State) (p r n : Nat) : List Byte :=
  if x.form == 3 then List.replicate n 0
  else if x.srcHbm then s.hbmReadN x.tenant (x.srcAt p r).toNat n
  else s.hostReadN (unsigned 64 (x.srcAt p r)) n

def ShSet.writeRow (x : ShSet) (s : State) (p r : Nat) (bs : List Byte) : State :=
  if x.dstHbm then s.hbmWriteN x.tenant (x.dstAt p r).toNat bs else s.hostWriteN (unsigned 64 (x.dstAt p r)) bs

/-- Moves the first `n` bytes of a set in row and plane order. -/
def State.moveSet (s : State) (x : ShSet) (n : Nat) : State :=
  (List.range (x.rows * x.planes)).foldl (fun s i =>
    let k := min x.row.toNat (n - i * x.row.toNat)
    if k == 0 then s else x.writeRow s (i / x.rows) (i % x.rows) (x.readRow s (i / x.rows) (i % x.rows) k)) s

/-- HBM stacks that the rows of one side lie in. -/
def State.sideStacks (s : State) (x : ShSet) (at' : Nat → Nat → Int) : List Nat :=
  ((List.range (x.rows * x.planes)).map fun i => s.spanStacks x.tenant (at' (i / x.rows) (i % x.rows)).toNat x.row.toNat).flatten.dedup

/-- HBM stacks that a set touches. -/
def State.setStacks (s : State) (x : ShSet) : List Nat :=
  (if x.dstHbm then s.sideStacks x x.dstAt else []) ++ (if x.srcHbm && x.form != 3 then s.sideStacks x x.srcAt else [])

/-! ## Registers (R117) -/

def Channel.setShadow (c : Channel) (x : ShSet) : Channel := if c.activeB then { c with setA := x } else { c with setB := x }

def putLo (a : W64) (v : Nat) : W64 := BitVec.ofNat 64 (a.toNat / 2 ^ 32 * 2 ^ 32 + v)
def putHi (a : W64) (v : Nat) : W64 := BitVec.ofNat 64 (a.toNat % 2 ^ 32 + v * 2 ^ 32)

/-- Bits of SH_CTRL that are stored: ARM is state of the channel, the rest is reserved. -/
def ctrlBits (v : Nat) : W32 := BitVec.ofNat 32 (bitsOf v 5 1 * 2 + bitsOf v 13 8 * 2 ^ 8)

/-- A dword written to the shadow window; reserved bits are not stored (R7). -/
def ShSet.put (x : ShSet) (off v : Nat) : ShSet :=
  match off with
  | 0x00 => { x with src := putLo x.src v }
  | 0x04 => { x with src := putHi x.src v }
  | 0x08 => { x with dst := putLo x.dst v }
  | 0x0C => { x with dst := putHi x.dst v }
  | 0x10 => { x with row := BitVec.ofNat 32 v }
  | 0x14 => { x with count := BitVec.ofNat 32 v }
  | 0x18 => { x with sstr := BitVec.ofNat 32 v }
  | 0x1C => { x with dstr := BitVec.ofNat 32 v }
  | 0x20 => { x with spstr := putLo x.spstr v }
  | 0x24 => { x with spstr := putHi x.spstr (v % 65536) }
  | 0x28 => { x with dpstr := putLo x.dpstr v }
  | 0x2C => { x with dpstr := putHi x.dpstr (v % 65536) }
  | 0x30 => { x with tag := BitVec.ofNat 32 v }
  | 0x34 => { x with ctrl := ctrlBits v }
  | _ => x

def chVector (ch : Nat) : Nat := 2 + ch

def State.raiseChan (s : State) (ch : Nat) (b : Bool) : State := if b then s.raiseVec .pf (chVector ch) else s

/-- R118: the shadow set arms, or the arm is refused and no byte moves. -/
def State.armSet (s : State) (ch : Nat) : State :=
  let x := (s.chan ch).shadowSet
  match s.armCode x with
  | none => s.updChan ch fun c => { c with armed := true }
  | some k =>
    (s.updChan ch fun c => { c with armRefused := true, badTag := x.tag, badCode := k, doneCount := (c.doneCount + 1) % 65536 }).raiseChan ch (s.chan ch).irqBad

/-- A dword written at an offset of the shadow window: ignored while armed, with OVERWRITE; while the former active set still lands there is
no shadow set, and the write has no effect. -/
def State.shadowWrite (s : State) (ch off v : Nat) : State :=
  let c := s.chan ch
  if c.armed then s.updChan ch fun c => { c with overwrite := true }
  else if c.landing.isSome then s
  else
    let s := s.updChan ch fun c => c.setShadow (c.shadowSet.put off v)
    if off == 0x34 && bitOf v 0 then s.armSet ch else s

def execShCtrlArm (ch : Nat) (v : W32) (s : State) : Out :=
  .next (if s.fnDecodes .pf && decide (ch < 16) && bitOf v.toNat 0 then s.shadowWrite ch 0x34 v.toNat else s)

/-- Offsets of the 64-bit registers of the window. -/
def shWide (off : Nat) : Bool := [0x00, 0x08, 0x20, 0x28].contains off

def execShadowWindowOverwrite (ch off : Nat) (v : W64) (s : State) : Out :=
  .next (if s.fnDecodes .pf && decide (ch < 16) && decide (off < 0x38) && off % 4 == 0 then
      let s := s.shadowWrite ch off (v.toNat % 2 ^ 32)
      if shWide off then s.shadowWrite ch (off + 4) (v.toNat / 2 ^ 32) else s
    else s)

/-! ## Running, completion, errors -/

/-- The armed shadow set becomes active. -/
def Channel.activate (c : Channel) : Channel :=
  { c with landing := if c.busy then some c.activeSet else none, activeB := !c.activeB, busy := true, armed := false, progress := 0 }

def Channel.mayActivate (c : Channel) : Bool := c.enable && !c.retired && c.armed && c.landing.isNone

def execDmaShadowActivate (ch : Nat) (s : State) : Out :=
  .next (if s.up && decide (ch < 16) && (s.chan ch).mayActivate && !s.power.hold then s.updChan ch Channel.activate else s)

/-- The set that ends next: the former active one while it lands, else the active one. -/
def Channel.ending (c : Channel) : Option ShSet :=
  match c.landing with
  | some x => some x
  | none => if c.busy then some c.activeSet else none

/-- The ending set is over, with `n` bytes landed. -/
def Channel.over' (c : Channel) (n : Nat) : Channel :=
  let c := { c with doneCount := (c.doneCount + 1) % 65536 }
  if c.landing.isSome then { c with landing := none } else { c with busy := false, progress := n }

/-- A set moves: no Hold pauses it, and the HBM stacks it touches serve requests (R111, R123, R249). -/
def State.chanMoves (s : State) (ch : Nat) (x : ShSet) : Bool :=
  let ks := s.setStacks x
  s.up && decide (ch < 16) && !s.power.hold && (ks.isEmpty || s.hbmServes ks)

def execChannelSetComplete (ch : Nat) (s : State) : Out :=
  .next (match (s.chan ch).ending with
    | none => s
    | some x =>
      if s.chanMoves ch x then
        (((((s.touchStacks (s.setStacks x)).moveSet x x.total).updChan ch fun c => c.over' x.total)).raiseChan ch x.irq).landDue
      else s)

/-- Number of a pseudo-channel unit by physical address (R106). -/
def pseudoChannel (a : Nat) : Nat := a / (pierFrames * 2 ^ 21) * 64 + a / 2 ^ 8 % 2 * 32 + (a / 2 ^ 9 % 32 ^^^ a / 2 ^ 18 % 32)

/-- Physical address of the byte at a position of one side of the transfer. -/
def State.sidePhys (s : State) (x : ShSet) (at' : Nat → Nat → Int) (offset : Nat) : Option Nat :=
  let i := offset / max 1 x.row.toNat
  s.physAddr x.tenant ((at' (i / x.rows) (i % x.rows)).toNat + offset % max 1 x.row.toNat)

/-- The host side is read: the source, or the last word of a host destination (R119). -/
def ShSet.hostReads (x : ShSet) : Bool := !x.srcHbm || !x.dstHbm

/-- An HBM unit is read as the source, or because it is written in part (R115). -/
def ShSet.srcReads (x : ShSet) : Bool := x.srcHbm && x.form != 3
def ShSet.dstReads (x : ShSet) : Bool :=
  x.dstHbm && (List.range (x.rows * x.planes)).any fun i =>
    let a := (x.dstAt (i / x.rows) (i % x.rows)).toNat
    a % 64 != 0 || (a + x.row.toNat) % 64 != 0

/-- An uncorrectable HBM error, found by the symbol code, calls for the test of its pseudo-channel (R120, R258, R275). Where both sides are
read, which one it is is a free choice. -/
def State.chanHbmError (s : State) (x : ShSet) (offset : Nat) : State :=
  let (w, s) := s.free
  let src := x.srcReads && (!x.dstReads || w.toNat % 2 == 0)
  match s.sidePhys x (if src then x.srcAt else x.dstAt) offset with
  | some a => ((s.errorEvent 10 (pseudoChannel a) 1 0 0 true).wantTest 10 (pseudoChannel a) 0)
  | none => s

/-- The code may arise in this set at this offset: codes 1 to 4 on a host read, 5 on a read of HBM. -/
def ShSet.codeFits (x : ShSet) (code offset : Nat) : Bool :=
  if code == 5 then (x.srcReads || x.dstReads) && decide (offset < x.total)
  else decide (1 ≤ code) && decide (code < 5) && x.hostReads && (if x.srcHbm then offset == x.total else decide (offset < x.total))

/-- A bus error in transfer: bytes before `offset` have landed; the armed shadow set starts. -/
def execChannelBusError (ch code offset : Nat) (s : State) : Out :=
  .next (match (s.chan ch).ending with
    | none => s
    | some x =>
      if !s.chanMoves ch x || !x.codeFits code offset then s
      else
        let s := (s.touchStacks (s.setStacks x)).moveSet x offset
        let s := s.updChan ch fun c => { c.over' offset with bad := true, badTag := x.tag, badCode := code, badOffset := offset }
        let s := s.raiseChan ch (s.chan ch).irqBad
        let s := if code < 5 then { s with host.aer := code :: s.host.aer } else s.chanHbmError x offset
        (if (s.chan ch).mayActivate then s.updChan ch Channel.activate else s).landDue)

/-! ## ENABLE (R117, R123) -/

/-- Bytes landed once the destination unit in flight is whole (R122, R123). -/
def ShSet.unitEnd (x : ShSet) (n : Nat) : Nat :=
  let r := max 1 x.row.toNat
  let i := n / r
  let a := (x.dstAt (i / x.rows) (i % x.rows)).toNat % 64
  if n % r == 0 then n else i * r + min r (ceilDiv (a + n % r) 64 * 64 - a)

/-- PF FLR or a cleared ENABLE: the active sets stop after the unit in flight, both disarm, registers take their reset values but for STOPPED.
Which unit that is is not stated. -/
def State.stopSet (s : State) (x : Option ShSet) : State :=
  match x with
  | none => s
  | some x => let (w, s) := s.free; s.moveSet x (x.unitEnd (w.toNat % (x.total + 1)))

def State.stopChan (s : State) (ch : Nat) : State :=
  let c := s.chan ch
  let s := (s.stopSet c.landing).stopSet (if c.busy then some c.activeSet else none)
  (s.updChan ch fun c => { retired := c.retired, stopped := true }).landDue

/-- A write of CH_CTRL. -/
def State.chCtrl (s : State) (ch v : Nat) : State :=
  if bitOf v 0 then s.updChan ch fun c => { c with irqBad := bitOf v 1, enable := !c.retired, stopped := c.retired }
  else if (s.chan ch).enable then s.stopChan ch
  else s.updChan ch fun c => { c with irqBad := bitOf v 1 }

def execChCtrlEnable (ch : Nat) (v : W32) (s : State) : Out :=
  .next (if s.fnDecodes .pf && decide (ch < 16) && bitOf v.toNat 0 then s.chCtrl ch v.toNat else s)

def execChCtrlDisable (ch : Nat) (v : W32) (s : State) : Out :=
  .next (if s.fnDecodes .pf && decide (ch < 16) && !bitOf v.toNat 0 then s.chCtrl ch v.toNat else s)

end Sys2Proof.Machine
end

