-- ==== Sys2Proof/Machine/Start.lean ====
section
/-! DEFINITION. Resets and start-up: power-fail, lockout, emergency off and thermal trip (R230, R232, R233, R250), the start (R234, R235, R340),
the end of an orderly shutdown (R236), I3C bus recovery (R341). One event runs a start from its first step to READY; what the BIST finds comes
as its operands. What lasts through a reset beside flash and fuses is the model's choice where the manual is silent (log 47). -/

namespace Sys2Proof.Machine

/-! ## What a reset drops (R232, R235) -/

/-- Tiles in service in ascending order take the slots (log 5). -/
def freshMap (retired : List Nat) : List Nat :=
  let ts := (List.range 9).filter fun t => !retired.contains t
  (List.range 8).map fun i => ts.getD i 15

def Course.fresh (k : Course) : Course :=
  { map := freshMap k.retired, retired := k.retired, spareUsed := k.spareUsed, refRetired := k.refRetired, refTemp := k.refTemp, gone := k.gone }

def Tile.fresh (x : Tile) : Tile :=
  { meas := x.meas, pred := x.meas, dA := x.dA, dB := x.dB, aRetired := x.aRetired, bRetired := x.bRetired, slices := x.slices, covered := x.covered, lapsedAt := x.lapsedAt }

def Pier.fresh (p : Pier) : Pier := { retired := p.retired, mortarOff := p.mortarOff, quoinRetired := p.quoinRetired, facingRetired := p.facingRetired }

def Channel.fresh (c : Channel) : Channel := { retired := c.retired, stopped := c.retired }

/-- The spare's place, remaps left, lane faults and baselines stay; frames and measurements go. -/
def FPort.fresh (f : FPort) : FPort :=
  { spareFor := f.spareFor, remaps := f.remaps, badLanes := f.badLanes, berBase := f.berBase, aged := f.aged, ctr := f.ctr }

/-- A module that had locked holds over; one that had not is Local (R217). -/
def State.freshTime (s : State) : Fabric :=
  let f := s.fab
  { f with
    ports := f.ports.mapVals fun _ p => p.fresh
    exports := [], imports := [], counter := 0, drained := [], seen := [], steps := [], closed := [], links := [], keeps := [], badRoutes := [], inbox := []
    timeState := if f.timeState = 0 then 0 else 2
    holdoverAt := if f.timeState = 1 then some s.now else f.holdoverAt
    alternate := false, exhausted := false }

/-- Flash while a reset interrupts it: an area being written is empty at the next start, an activation still copying is undone (R317). -/
def State.freshFlash (s : State) : Flash :=
  { s.fw with
    staged := s.fw.staged.filter fun a => a.2.verified
    act := s.fw.act.filter fun a => a.phase == 1
    profile := none }

/-- Contexts, partitions, plan images, tenants, rings and tenant HBM contents are lost, and every engine is idle. -/
def State.dropAll (s : State) : State :=
  { s with
    host := { lastRead := s.host.lastRead, msgs := s.host.msgs, aer := s.host.aer }
    mason := { lockstep := s.mason.lockstep }
    parts := [], plans := [], lastPlan := 0, ctxs := [], nextOrder := 0
    courses := s.courses.mapVals fun _ k => k.fresh
    tiles := s.tiles.mapVals fun _ x => x.fresh
    piers := s.piers.mapVals fun _ p => p.fresh
    mem := { host := s.mem.host, badFrames := s.mem.badFrames, ch := s.mem.ch.mapVals fun _ c => c.fresh, intRetired := s.mem.intRetired }
    trowel := { cores := s.trowel.cores.mapVals fun _ c => { retired := c.retired } }
    therm.plinth := s.therm.plinth.mapVals fun _ x => x.fresh
    flt.units := s.flt.units.mapVals fun _ u => { u with pending := none, testing := false }
    fab := s.freshTime
    twin.handing := false, twin.partner := 0, twin.heardAt := 0, twin.primaryAt := 0, twin.former := false, twin.trowel := []
    sec.tenants := [], sec.doe := [], sec.spdm := 0, sec.transcript := [], sec.measEpoch := none
    fw := s.freshFlash
    power.floor := false, power.climbing := false, power.eco := false, power.drain := none, power.shutStep := 0, power.safeHoldReq := none }

/-! ## Loss of power -/

/-- Takes back a repair whose burn did not complete (R265). -/
def State.undoBurn (s : State) (f : Fuse) : State :=
  match f.kind with
  | 0x02 => s.updCourse f.unitId fun k => { k with spareUsed := false, retired := removeNat k.retired f.value }
  | 0x03 => s.updUnit 3 (f.unitId * 64) fun u => { u with rows := u.rows.set f.aux (rowsUsed u f.aux - 1) }
  | 0x04 | 0x05 => s.updUnit 12 f.unitId fun u => { u with rows := u.rows.set f.aux (rowsUsed u f.aux - 1) }
  | 0x06 => s.updUnit 10 f.unitId fun u => { u with rows := u.rows.set f.aux (rowsUsed u f.aux - 1) }
  | 0x07 => s.updPort f.unitId fun p => { p with spareFor := f.aux, remaps := p.remaps + 1 }
  | 0x0D => s.updPair f.aux fun x => if f.value == 0 then { x with aRetired := false } else { x with bRetired := false }
  | 0x0E =>
    let s := s.updUnit f.unitKind f.unitId fun u => { u with retired := false }
    match f.unitKind with
    | 1 => s.updPier f.unitId fun p => { p with retired := false }
    | 3 => s.updCourse (f.unitId / 9) fun k => { k with retired := removeNat k.retired (f.unitId % 9) }
    | 6 => s.updCore f.unitId fun c => { c with retired := false }
    | 13 =>
      if f.unitId < 4 then s.updPier f.unitId fun p => { p with quoinRetired := false }
      else if f.unitId < 8 then s.updPier (f.unitId - 4) fun p => { p with facingRetired := false }
      else { s with flt.riddleRetired := removeNat s.flt.riddleRetired (f.unitId - 8) }
    | _ => s
  | _ => s

/-- The burn under way leaves an INVALID position; all that wait are unrecorded (R265, R319). -/
def State.loseBurns (s : State) : State :=
  if s.flt.burns.isEmpty then s
  else
    let l := if s.flt.ledger.length < ledgerCap then s.flt.ledger ++ [none] else s.flt.ledger
    s.flt.burns.foldl (fun s f => s.undoBurn f) { s with flt.ledger := l, flt.burns := [] }

/-- A log entry that has not reached flash: 10 ms are allowed for SEVERITY 2 and 3, 1 s for others; the hold-up of a power-fail reset saves
the former (R274). -/
def State.lostEntry (s : State) (heldUp : Bool) (e : LogEntry) : Bool :=
  if 2 ≤ e.severity then !heldUp && decide (s.now < e.time + tMs 10) else decide (s.now < e.time + tS 1)

def State.loseLog (s : State) (heldUp : Bool) : State :=
  let gone := (s.flt.unflushed.filter (s.lostEntry heldUp)).map (·.number)
  let keep := fun (l : List LogEntry) => l.filter fun e => !gone.contains e.number
  let log := keep s.flt.log
  { s with flt.log := log, flt.kept := keep s.flt.kept, flt.unflushed := [], flt.logNext := match log.head? with | some e => e.number + 1 | none => s.flt.logNext }

/-- What ends with the AON supply: its counter and everything timed by it, and the counters that AON power-up clears (R223, R237, R253, R287). -/
def State.coldDrop (s : State) : State :=
  let p := s.power
  { s with
    now := 0
    mason.lockstep := []
    courses := s.courses.mapVals fun _ k => { k with refRetired := false, refTemp := 0 }
    tiles := s.tiles.mapVals fun _ x => { aRetired := x.aRetired, bRetired := x.bRetired }
    power := { aon := p.aon, stages := p.stages, epoN := p.epoN, perstN := p.perstN, pwrAlertN := p.pwrAlertN, compatSel := p.compatSel, thermtrip := p.thermtrip, vinMv := p.vinMv }
    therm := { plinth := s.therm.plinth.mapVals fun _ x => { aRetired := x.aRetired, bRetired := x.bRetired }, i3cStuck := s.therm.i3cStuck.map fun _ => 0 }
    flt := { units := s.flt.units.mapVals fun _ u => { retired := u.retired, rows := u.rows }, logNext := s.flt.logNext, log := s.flt.log, kept := s.flt.kept, ledger := s.flt.ledger, riddleRetired := s.flt.riddleRetired }
    fab := { ports := s.fab.ports.mapVals fun _ f => { spareFor := f.spareFor, remaps := f.remaps, badLanes := if f.spareFor < 15 then [f.spareFor] else [], berBase := f.berBase, aged := f.aged }
             epochs := s.fab.epochs, drainId := s.fab.drainId, sent := s.fab.sent }
    twin := { role := s.twin.role } }

/-- Every power stage is off; `aon` tells whether the AON supply stays. -/
def State.stagesOff (s : State) (aon : Bool) : State := { s with power.stages := false, power.aon := aon, power.heldStep7 := false, power.phase := 0, power.hold := false, power.recoverAt := none }

/-- All power is lost, the AON supply included. -/
def State.powerLoss (s : State) (heldUp : Bool) : State := ((((s.loseLog heldUp).loseBurns).dropAll).coldDrop).stagesOff false

def State.partsRunning (s : State) : Nat := (s.parts.filter fun p => p.2.job.isSome).length

/-- The AON domain writes the power-fail record (R232); a module whose stages are off runs nothing that could fail (log 48). -/
def State.failNote (s : State) (cause : Nat) : State :=
  if s.power.stages then { s with fw.failRec := some (cause, s.partsRunning, s.now) } else s

def State.powerFail (s : State) (cause mv : Nat) : State := { (s.failNote cause).powerLoss true with power.vinMv := mv }

/-- The stages go off as by a reset; the AON supply, with its counter, stays (R223, R230). -/
def State.lockOut (s : State) (mv : Nat) : State :=
  { ((((s.failNote 1).loseLog true).loseBurns).dropAll).stagesOff true with power.vinMv := mv, power.lockout := true }

/-- An input below the reset level also ends the latch of THERMTRIP_N, as removing the 54 V does (R250). -/
def execPowerFailReset (mv : Nat) (s : State) : Out := .next (if mv < 40000 then { s.powerFail 0 mv with power.thermtrip := false } else s)

def execOverVoltageLockout (mv : Nat) (s : State) : Out := .next (if decide (59500 < mv) && s.power.stages then s.lockOut mv else s)

/-- In hardware, without a record; the latch of THERMTRIP_N clears (R233, R250, R254). -/
def execEpoNAssert (s : State) : Out :=
  .next (if s.power.epoN then { s.powerLoss false with power.epoN := false, power.thermtrip := false } else s)

/-- THERMTRIP_N is pulled (R250): comparators watch every in-service diode and the output of each HBM stack, and a retired diode is disconnected
from them (R244). They are faster than the readings, so a trip that no reading shows pulls too; where the only readings of 115 °C are those of
retired diodes, nothing pulls (log 48). -/
def State.tripPulls (s : State) : Bool :=
  let hotA := fun n => decide (degC 115 ≤ (s.pair n).dA)
  let hotB := fun n => decide (degC 115 ≤ (s.pair n).dB)
  let pairs := List.range 152
  let hotStack := (List.range 8).any fun n => decide (115 ≤ (s.stack n).temp)
  hotStack || (pairs.any fun n => (hotA n && !(s.pair n).aRetired) || (hotB n && !(s.pair n).bRetired)) || !(pairs.any fun n => hotA n || hotB n)

def execThermtrip (s : State) : Out :=
  .next (if s.power.stages && s.tripPulls then { s.powerLoss false with power.thermtrip := true } else s)

/-! ## Start-up, step by step (R234) -/

/-- Step 1: AON_CLK starts, with the counter at 0. -/
def State.step1 (s : State) : State := { s.powerLoss true with power.aon := true }

/-- Interface in force (R325). -/
def State.resolveIface (s : State) : Nat := match s.fw.lock with | some v => v | none => if s.fw.selSampled then 1 else s.fw.ifaceBit

def State.sampleSel (s : State) : State :=
  let s := { s with fw.selSampled := s.power.compatSel }
  { s with fw.iface := s.resolveIface }

/-- COMPAT_SEL_IGNORED, where the sampled level is not the locked interface. -/
def State.postSel (s : State) : State :=
  match s.fw.lock with
  | some v => if boolN s.fw.selSampled == v then s else s.post 0x0F01 0 0 (leBytes 1 (boolN s.fw.selSampled) ++ leBytes 1 v)
  | none => s

/-- At the first start in RMA the kill fuses are burned (R296). -/
def State.killKeys (s : State) : State := if s.sec.life == 3 && !s.sec.killed then { s with sec.killed := true }.burnCmd 0x0F 4 0 0 0 else s

/-- Step 2: the stages are on, fuses and straps are read, modes resolve. -/
def State.step2 (s : State) : State :=
  let s := { s with power.stages := true, power.phase := 0, power.shutStep := 0, power.resetAt := s.now, sec.life := s.sec.lifeFused, fw.tenancy := s.fw.tenancyBit }
  s.killKeys.sampleSel

/-- Step 3: an image whose pointer was written before the reset runs now, which ends its activation (R317). -/
def State.step3 (s : State) : State :=
  match s.fw.act with
  | some a => (s.activated a).bumpEpoch 0
  | none => s

/-- The module of a route's last hop, as far as the profile's topology, which names this module's ports, can follow it (R209). -/
def routeEnd (own : Nat) (topo : List (Nat × Nat × Nat)) : Nat → List Nat → Option Nat
  | m, [] => some m
  | m, p :: t =>
    if m == own then
      match List.find? (fun e => e.1 == p) topo with
      | some e => routeEnd own topo e.2.1 t
      | none => some own
    else none

def routeBad (own dest : Nat) (topo : List (Nat × Nat × Nat)) (r : Nat × List Nat) : Bool :=
  match routeEnd own topo own (r.2.take r.1) with
  | some m => m != dest
  | none => false

/-- Routes that fail the check are disabled and posted. -/
def State.checkRoutes (s : State) : State :=
  match s.fw.profile with
  | none => s
  | some f =>
    let bad := (f.routes.map fun d => (d.2.zipIdx.filter fun r => routeBad f.moduleId d.1 f.topology r.1).map fun r => (d.1, r.2)).flatten
    bad.foldl (fun s d => { s with fab.badRoutes := s.fab.badRoutes ++ [d.1 * 4 + d.2] }.post 0x0D0B 0 0 (leBytes 1 d.1 ++ leBytes 1 d.2)) s

/-- The three coolant sensors are silent at once: no verified profile (R321), or the bus is stuck (R341). -/
def State.sensorsSilent (s : State) : State :=
  let old := s.profile
  let q : Sensor := { silent := true }
  let s1 := { s with therm.flow := q, therm.inletS := q, therm.outletS := q, therm.fMean := 1190, therm.inlet := degC 40, therm.outlet := degC 54, therm.okAt := none }
  let s2 := ((s1.noteSensor 0 s.therm.flow.silent true).noteSensor 1 s.therm.inletS.silent true).noteSensor 2 s.therm.outletS.silent true
  ((s2.noteProfile old).review).rowsNow

/-- The profile is read from flash; not in MANUFACTURE and SCRAPPED (R289, R321). Without one the coolant sensors are silent. -/
def State.readVault (s : State) : State :=
  let s := { s with fw.profile := if s.sec.life == 0 || s.sec.life == 4 then none else s.fw.stored }
  let s := { s with twin.role := s.fw.twinBit.getD (((s.fw.profile.bind (·.twin)).map Prod.snd).getD 0), power.capW := if s.power.lease == 2 then s.fallbackW else s.power.capW }
  if s.fw.profile.isNone then s.sensorsSilent else s

/-- BOOT advances before any port is brought up; at 0xFFFF, or with four retired keys, none is (R208, R294). -/
def State.nextBoot (s : State) : State :=
  let b := min 0xFFFF (s.fw.boot + 1)
  let out := b == 0xFFFF || decide (4 ≤ s.sec.fabRetired.length)
  let s := { s with fw.boot := b, fab.exhausted := out }
  if out then s.post 0x0D0F 0 0 [] else s

/-- The shutdown record is valid (R270): its digests are those in force, and every unit passed. -/
def State.recordValid (s : State) : Bool :=
  match s.fw.shutRec with
  | some r => r.ledger == s.ledgerDigest && r.profile == s.profileDigest && r.results % 8 == 7
  | none => false

/-- POWER_FAIL from the record, or unrecorded where there is neither record (R232). -/
def State.postFail (s : State) : State :=
  let ev (cause parts t : Nat) (s : State) : State := s.postT 0x0807 0 0 (leBytes 1 St.abortedPower ++ leBytes 1 cause ++ leBytes 2 parts ++ leBytes 8 t) {}
  match s.fw.failRec with
  | some (c, n, t) => { ev c n t s with fw.failRec := none }
  | none => if s.fw.shutRec.isNone then ev 2 0 0 s else s

/-- Step 4: profile, sensors, BOOT, the records, and fuse steps that an interrupted burn left out (R265). The full BIST is due unless the shutdown
record is valid. -/
def State.step4 (s : State) : State × Bool :=
  let s := (s.readVault.nextBoot.checkRoutes).postSel.postFail
  let skip := s.recordValid
  ({ s with fw.shutRec := none }.rollbackSteps, !skip)

/-- Step 5: lasting faults found are repaired (R269), every Ashlar in service is covered. -/
def State.step5 (s : State) (found : List (Nat × Nat × Nat)) : State :=
  let s := found.foldl (fun s f => s.lasting f.1 f.2.1 f.2.2) s
  (List.range 144).foldl (fun s t => s.updTile t fun x => { x with covered := s.now, slices := [] }) s

/-- The power shelf's alert, where it stands at the start (R228). -/
def State.alertNow (s : State) : State :=
  if s.power.pwrAlertN then s else { s.mapRates (min 4) with power.floor := true, power.floorAt := s.now }

/-- Steps 2 to 8. `bist` asks for the full BIST whatever the record says; `warm` leaves it out. -/
def State.start (s : State) (warm bist plinthOk : Bool) (found : List (Nat × Nat × Nat)) : State :=
  let (s, due) := s.step2.step3.step4
  let s := if bist || (!warm && due) then
      let s := s.step5 found
      if plinthOk || s.power.phase == 2 then s else s.enterSafeHold 0 0
    else s
  s.alertNow.step7

/-! ## The pins and the supply -/

/-- The input is above 44 V and EPO_N is high: the start runs. After a shutdown this stands for an input cycle. -/
def execAonPowerUp (mv : Nat) (plinthOk : Bool) (found : List (Nat × Nat × Nat)) (s : State) : Out :=
  .next (if decide (44000 < mv) && decide (mv ≤ 59500) && !(s.power.lockout && decide (59200 < mv)) && s.power.epoN && !s.power.thermtrip && !s.power.stages then
      let s := if s.power.aon && s.power.shutStep != 4 then s else s.step1
      { s with power.vinMv := mv, power.lockout := false }.start false false plinthOk found
    else s)

/-- With 54 V present, step 1 runs; AON_POWER_UP tells what the rest of the start finds. -/
def execEpoNRelease (s : State) : Out :=
  .next (if s.power.epoN then s
    else
      let s := { s with power.epoN := true }
      if 44000 < s.power.vinMv then s.step1 else s)

/-- A warm reset where the module runs; before step 7 it only holds that step. SAFE_HOLD is remembered for the BIST (R272). -/
def execPerstNAssert (s : State) : Out :=
  .next (if !s.power.perstN then s
    else
      let s := { s with power.perstN := false }
      if s.power.stages && !s.power.heldStep7 then { s.dropAll with power.phase := if s.power.phase == 2 then 2 else 0 } else s)

/-- The release: a held step 7 goes on, a warm reset starts, or a module that was shut down starts at step 2. COMPAT_SEL is sampled. -/
def execPerstNRelease (plinthOk : Bool) (found : List (Nat × Nat × Nat)) (s : State) : Out :=
  .next (if s.power.perstN then s
    else
      let s := { s with power.perstN := true }
      if s.power.stages then
        if s.power.heldStep7 then s.sampleSel.step7 else s.start true (s.power.phase == 2) plinthOk found
      else if s.power.aon && s.power.shutStep == 4 then s.start false false plinthOk found
      else s)

/-- 10 ms after CMD_DONE the link goes down and every stage but AON is off (R236). -/
def execShutdownPowerOff (s : State) : Out :=
  .next (if s.up && s.power.shutStep == 4 && decide (tMs 10 ≤ s.since s.power.shutAt) && !s.power.hold then
      { s.dropAll.stagesOff true with power.shutStep := 4, flt.unflushed := [] }
    else s)

/-! ## I3C (R341) -/

/-- SDA held low: 16 recovery pulses, again every 100 ms; `freed` tells whether the bus recovers. -/
def execI3cBusRecovery (freed : Bool) (s : State) : Out :=
  .next (if s.up && (s.therm.i3cStuck.isNone || s.passed s.therm.i3cStuck (tMs 100)) then
      if freed then { s with therm.i3cStuck := none } else { s with therm.i3cStuck := some s.now }.sensorsSilent
    else s)

end Sys2Proof.Machine
end

