-- ==== Sys2Proof/Machine/Registers.lean ====
section
/-! DEFINITION. Host writes to BAR0 by offset (R7, R31-R34, R48, R52, R117), and the PF function-level reset (R53, R222, R317). A 4-byte or
8-byte access at a multiple of 4 writes registers, dword by dword; the byte areas take any size (log 50). -/

namespace Sys2Proof.Machine

/-! ## MSI-X table (R31, R32) -/

/-- A dword of a vector: address, data, control with its mask bit. -/
def State.vectorWrite (s : State) (f : Fn) (i o v : Nat) : State :=
  let x := s.vector f i
  match o with
  | 0x0 => s.setVector f i { x with addr := putLo x.addr v }
  | 0x4 => s.setVector f i { x with addr := putHi x.addr v }
  | 0x8 => s.setVector f i { x with data := BitVec.ofNat 32 v }
  | 0xC => if bitOf v 0 then s.setVector f i { x with masked := true } else s.unmask f i
  | _ => s

/-! ## Registers by block -/

/-- Bits of a done register that a write of 1 clears. -/
def clearDone (l : List Nat) (v : Nat) : List Nat := l.filter fun i => !bitOf v i

/-- MB_CTRL: INTR_EN is written, OVERRUN cleared by 1. -/
def Mailbox.ctrlWrite (b : Mailbox) (v : Nat) : Mailbox := { b with intrEn := bitOf v 0, overrun := b.overrun && !bitOf v 1 }

/-- A register of a mailbox. -/
def State.mbRegWrite (s : State) (m : Mb) (o v : Nat) : State :=
  match o with
  | 0x200 => s.doorbell m v
  | 0x208 => s.updMbox m fun b => b.ctrlWrite v
  | _ => s

/-- RING_BASE keeps bits [63:12]; it does not change while ENABLE is 1 (R48). -/
def State.ringRegWrite (s : State) (v i o w : Nat) : State :=
  match o with
  | 0x00 => if (s.ring v i).enable then s else s.updRing v i fun r => { r with base := r.base / 2 ^ 20 * 2 ^ 20 + w / 4096 }
  | 0x04 => if (s.ring v i).enable then s else s.updRing v i fun r => { r with base := r.base % 2 ^ 20 + w * 2 ^ 20 }
  | 0x08 => s.ringCfg v i w
  | 0x0C => s.updRing v i fun r => { r with modTime := w % 2 ^ 10 }
  | 0x10 => s.updRing v i fun r => { r with head := w % 2 ^ 16 }
  | 0x18 => s.updRing v i fun r => { r with overflow := r.overflow && !bitOf w 0, cfgErr := r.cfgErr && !bitOf w 2 }
  | _ => s

/-- CH_CTRL, CH_ERR and the shadow window. -/
def State.chRegWrite (s : State) (ch o v : Nat) : State :=
  if o == 0x000 then s.chCtrl ch v
  else if o == 0x008 then s.updChan ch fun c => { c with bad := c.bad && !bitOf v 0, armRefused := c.armRefused && !bitOf v 1, overwrite := c.overwrite && !bitOf v 2 }
  else if decide (0x100 ≤ o) && decide (o < 0x138) then s.shadowWrite ch (o - 0x100) v
  else s

def State.pfRegWrite (s : State) (o v : Nat) : State :=
  if o == 0x18 then { s with host.pfDone := clearDone s.host.pfDone v }
  else if o == 0x24 then { s with host.eq.cons := v % 512 }.eqSpace
  else if o == 0x28 then { s with host.eq.intrEn := bitOf v 0, host.eq.overflow := s.host.eq.overflow && !bitOf v 1 }
  else if decide (0x2000 ≤ o) && decide (o < 0x2200) then s.vectorWrite .pf ((o - 0x2000) / 16) (o % 16) v
  else if decide (0x8000 ≤ o) && decide (o < 0x10000) then s.mbRegWrite ⟨.pf, (o - 0x8000) / 0x400⟩ (o % 0x400) v
  else if decide (0x10000 ≤ o) && decide (o < 0x20000) then s.chRegWrite ((o - 0x10000) / 0x1000) (o % 0x1000) v
  else s

def State.vfRegWrite (s : State) (f o v : Nat) : State :=
  if o == 0x04 then s.updVf f fun x => { x with mbDone := clearDone x.mbDone v }
  else if decide (0x100 ≤ o) && decide (o < 0x200) then s.ringRegWrite f ((o - 0x100) / 64) (o % 64) v
  else if decide (0x1000 ≤ o) && decide (o < 0x2000) then s.mbRegWrite ⟨.vf f, (o - 0x1000) / 0x400⟩ (o % 0x400) v
  else if decide (0x2000 ≤ o) && decide (o < 0x2080) then s.vectorWrite (.vf f) ((o - 0x2000) / 16) (o % 16) v
  else s

def State.regWrite (s : State) (f : Fn) (o v : Nat) : State :=
  match f with
  | .pf => s.pfRegWrite o v
  | .vf n => s.vfRegWrite n o v

/-! ## Byte areas -/

/-- What an offset of a function's BAR0 reaches beside registers: a mailbox's request area, or an entry of the admission window, with the
offset there. -/
inductive ByteArea where
  | request (m : Mb) (o : Nat)
  | slot (n o : Nat)
  | none
  deriving DecidableEq, Repr

def byteArea (f : Fn) (o : Nat) : ByteArea :=
  match f with
  | .pf =>
    if decide (0x8000 ≤ o) && decide (o < 0x10000) && decide (o % 0x400 < 0x100) then .request ⟨.pf, (o - 0x8000) / 0x400⟩ (o % 0x400)
    else if decide (0x100000 ≤ o) && decide (o < 0x200000) then .slot ((o - 0x100000) / 64) (o % 64)
    else .none
  | .vf v =>
    if decide (0x1000 ≤ o) && decide (o < 0x2000) && decide (o % 0x400 < 0x100) then .request ⟨.vf v, (o - 0x1000) / 0x400⟩ (o % 0x400)
    else if decide (0x4000 ≤ o) && decide (o < 0x10000) then .slot ((o - 0x4000) / 64) (o % 64)
    else .none

/-- A host write of `size` bytes at an offset of a function's BAR0. -/
def State.barWrite (s : State) (f : Fn) (o size v : Nat) : State :=
  let bs := leBytes size v
  match byteArea f o with
  | .request m k => s.requestWrite m k bs
  | .slot n k => if k < 0x38 then s.slotWrite f n k bs else s
  | .none =>
    if o % 4 == 0 && (size == 4 || size == 8) then
      let s := s.regWrite f o (v % 2 ^ 32)
      if size == 8 then s.regWrite f (o + 4) (v / 2 ^ 32) else s
    else s

def execRegisterWrite (f : Fn) (o size : Nat) (v : W64) (s : State) : Out :=
  .next (if s.fnDecodes f && decide (1 ≤ size) && decide (size ≤ 8) then s.barWrite f o size v.toNat else s)

/-! ## PF function-level reset -/

/-- Staging stops, its area is emptied and its command has no end (R317). -/
def State.stopStaging (s : State) : State :=
  s.mason.ops.foldl (fun s o => match o.kind with
    | .fwStage area _ _ => (s.emptyArea area).dropOp o.opId
    | _ => s) s

/-- The management mailboxes go to IDLE, with their MB_CTRL, MB_STATUS, DONE_COUNT and MB_DONE at reset values; responses of commands
that are BUSY are discarded; the MSI-X table and the event queue with its EQ_CTRL and EQ_LOST are reset; functions are in D0
(log 22). -/
def State.pfReset (s : State) : State :=
  { s with
    host.pfMb := s.host.pfMb.mapVals fun _ b => { b with state := 0, status := 0, doneCount := 0, intrEn := false, overrun := false }
    host.pfDone := [], host.pfVec := [], host.eq := {}
    mason.inputs := s.mason.inputs.map fun r : MasonReq => if r.mb.fn == Fn.pf then { r with discard := true } else r
    host.vfEnable := false, host.d3 := [] }

/-- Imports stop landing; they are unbound as time passes (R222; log 49). -/
def State.stopImports (s : State) : State := { s with fab.imports := s.fab.imports.mapVals fun _ i => { i with stopped := true } }

/-- The effects of R53, with those of a VF's own reset for every VF that was enabled. -/
def State.pfFlr (s : State) : State :=
  let s := (if s.host.vfEnable then List.range s.vfCount else []).foldl (fun s v => s.vfReset v) s
  let s := (List.range 16).foldl (fun s c => s.stopChan c) s
  (s.pfReset.stopStaging).stopImports

def execPfFlr (s : State) : Out := .next (if s.host.linkUp then s.pfFlr else s)

end Sys2Proof.Machine
end

