-- ==== Sys2Proof/Machine/Dispatch.lean ====
section
/-! DEFINITION. One arm for each command of the table, each one direct call of its meaning. -/

namespace Sys2Proof.Machine

def exec (i : Instr) (s : State) : Host.Outcome State Fault Refusal :=
  match i with
  | .registerWrite fn off size v => Sys2Proof.Machine.execRegisterWrite fn off size v s
  | .msixUnmask fn vec => Sys2Proof.Machine.execMsixUnmask fn vec s
  | .sriovVfEnable => Sys2Proof.Machine.execSriovVfEnable s
  | .pciPmStateWrite fn d3 => Sys2Proof.Machine.execPciPmStateWrite fn d3 s
  | .vfFlr v => Sys2Proof.Machine.execVfFlr v s
  | .pfFlr => Sys2Proof.Machine.execPfFlr s
  | .submissionSlotWrite fn entry off bytes => Sys2Proof.Machine.execSubmissionSlotWrite fn entry off bytes s
  | .ticketRead fn entry => Sys2Proof.Machine.execTicketRead fn entry s
  | .eqConsWrite v => Sys2Proof.Machine.execEqConsWrite v s
  | .eqLostRead => Sys2Proof.Machine.execEqLostRead s
  | .ringDropRead vf ring => Sys2Proof.Machine.execRingDropRead vf ring s
  | .ringEnable vf ring cfg => Sys2Proof.Machine.execRingEnable vf ring cfg s
  | .ringRegistrationCheck vf ring => Sys2Proof.Machine.execRingRegistrationCheck vf ring s
  | .ringDisable vf ring cfg => Sys2Proof.Machine.execRingDisable vf ring cfg s
  | .ringHeadWrite vf ring v => Sys2Proof.Machine.execRingHeadWrite vf ring v s
  | .ringBacklogDrain vf => Sys2Proof.Machine.execRingBacklogDrain vf s
  | .ringModTimer vf ring => Sys2Proof.Machine.execRingModTimer vf ring s
  | .infoIdentity m => Sys2Proof.Machine.execInfoIdentity m s
  | .infoFirmware m => Sys2Proof.Machine.execInfoFirmware m s
  | .infoCapacity m => Sys2Proof.Machine.execInfoCapacity m s
  | .infoStatus m => Sys2Proof.Machine.execInfoStatus m s
  | .infoTime m => Sys2Proof.Machine.execInfoTime m s
  | .partCreate m => Sys2Proof.Machine.execPartCreate m s
  | .pierPowerUpDone pier => Sys2Proof.Machine.execPierPowerUpDone pier s
  | .partDestroy m => Sys2Proof.Machine.execPartDestroy m s
  | .partQuery m => Sys2Proof.Machine.execPartQuery m s
  | .partKeepwarm m => Sys2Proof.Machine.execPartKeepwarm m s
  | .partCounters m => Sys2Proof.Machine.execPartCounters m s
  | .planLoad m => Sys2Proof.Machine.execPlanLoad m s
  | .planLoadComplete op rd => Sys2Proof.Machine.execPlanLoadComplete op rd s
  | .planBind m => Sys2Proof.Machine.execPlanBind m s
  | .planUnload m => Sys2Proof.Machine.execPlanUnload m s
  | .planInfo m => Sys2Proof.Machine.execPlanInfo m s
  | .ctxCreate m => Sys2Proof.Machine.execCtxCreate m s
  | .ctxRemove m => Sys2Proof.Machine.execCtxRemove m s
  | .ctxSet m => Sys2Proof.Machine.execCtxSet m s
  | .ctxRebind m => Sys2Proof.Machine.execCtxRebind m s
  | .ctxQuery m => Sys2Proof.Machine.execCtxQuery m s
  | .ctxShedlog m => Sys2Proof.Machine.execCtxShedlog m s
  | .batchStart part => Sys2Proof.Machine.execBatchStart part s
  | .batchFillTimeout part => Sys2Proof.Machine.execBatchFillTimeout part s
  | .scalar a op rd rs rt => Sys2Proof.Machine.execScalar a op rd rs rt s
  | .branch a op target => Sys2Proof.Machine.execBranch a op target s
  | .addr a op => Sys2Proof.Machine.execAddr a op s
  | .template a port set => Sys2Proof.Machine.execTemplate a port set s
  | .bed a op err => Sys2Proof.Machine.execBed a op err s
  | .dress a op err => Sys2Proof.Machine.execDress a op err s
  | .dma a q d => Sys2Proof.Machine.execDma a q d s
  | .tileDmaShadowLoad a q => Sys2Proof.Machine.execTileDmaShadowLoad a q s
  | .tileDmaDescriptorDone a q err => Sys2Proof.Machine.execTileDmaDescriptorDone a q err s
  | .sig a sem n => Sys2Proof.Machine.execSig a sem n s
  | .wait a sem n => Sys2Proof.Machine.execWait a sem n s
  | .waitGrant part sem => Sys2Proof.Machine.execWaitGrant part sem s
  | .semrd a rd sem => Sys2Proof.Machine.execSemrd a rd sem s
  | .fenceL a => Sys2Proof.Machine.execFenceL a s
  | .fenceC a => Sys2Proof.Machine.execFenceC a s
  | .fenceP a => Sys2Proof.Machine.execFenceP a s
  | .fenceH a => Sys2Proof.Machine.execFenceH a s
  | .fenceRelease a => Sys2Proof.Machine.execFenceRelease a s
  | .handoff a op => Sys2Proof.Machine.execHandoff a op s
  | .quoinJob pier err => Sys2Proof.Machine.execQuoinJob pier err s
  | .emit a item bytes => Sys2Proof.Machine.execEmit a item bytes s
  | .bndry a => Sys2Proof.Machine.execBndry a s
  | .boundaryPoint part => Sys2Proof.Machine.execBoundaryPoint part s
  | .boundaryOverdue part => Sys2Proof.Machine.execBoundaryOverdue part s
  | .courseGate c => Sys2Proof.Machine.execCourseGate c s
  | .courseWake c ref => Sys2Proof.Machine.execCourseWake c ref s
  | .hbmSelfRefreshEntry pier => Sys2Proof.Machine.execHbmSelfRefreshEntry pier s
  | .shCtrlArm ch v => Sys2Proof.Machine.execShCtrlArm ch v s
  | .chCtrlEnable ch v => Sys2Proof.Machine.execChCtrlEnable ch v s
  | .chCtrlDisable ch v => Sys2Proof.Machine.execChCtrlDisable ch v s
  | .shadowWindowOverwrite ch off v => Sys2Proof.Machine.execShadowWindowOverwrite ch off v s
  | .dmaShadowActivate ch => Sys2Proof.Machine.execDmaShadowActivate ch s
  | .channelSetComplete ch => Sys2Proof.Machine.execChannelSetComplete ch s
  | .channelBusError ch code offset => Sys2Proof.Machine.execChannelBusError ch code offset s
  | .internalReadFail op code => Sys2Proof.Machine.execInternalReadFail op code s
  | .facingConvert pier => Sys2Proof.Machine.execFacingConvert pier s
  | .facingBandWrite pier => Sys2Proof.Machine.execFacingBandWrite pier s
  | .visParams m => Sys2Proof.Machine.execVisParams m s
  | .visCounters m => Sys2Proof.Machine.execVisCounters m s
  | .srvOpen m => Sys2Proof.Machine.execSrvOpen m s
  | .frameMappingDone op => Sys2Proof.Machine.execFrameMappingDone op s
  | .srvSampling m => Sys2Proof.Machine.execSrvSampling m s
  | .srvPause m => Sys2Proof.Machine.execSrvPause m s
  | .sessionPauseTimeout ctx => Sys2Proof.Machine.execSessionPauseTimeout ctx s
  | .srvCancel m => Sys2Proof.Machine.execSrvCancel m s
  | .srvQuery m => Sys2Proof.Machine.execSrvQuery m s
  | .specSuspend ctx => Sys2Proof.Machine.execSpecSuspend ctx s
  | .specResume ctx => Sys2Proof.Machine.execSpecResume ctx s
  | .vidDecodeOpen m => Sys2Proof.Machine.execVidDecodeOpen m s
  | .vidEncodeOpen m => Sys2Proof.Machine.execVidEncodeOpen m s
  | .vidFacing m => Sys2Proof.Machine.execVidFacing m s
  | .vidForceIdr m => Sys2Proof.Machine.execVidForceIdr m s
  | .vidFlush m => Sys2Proof.Machine.execVidFlush m s
  | .vidQuery m => Sys2Proof.Machine.execVidQuery m s
  | .vidCores m => Sys2Proof.Machine.execVidCores m s
  | .bitstreamCopyDone ctx rd => Sys2Proof.Machine.execBitstreamCopyDone ctx rd s
  | .trowelPictureStart core how => Sys2Proof.Machine.execTrowelPictureStart core how s
  | .codecFrameBoundary core res hw => Sys2Proof.Machine.execCodecFrameBoundary core res hw s
  | .trowelPllStop => Sys2Proof.Machine.execTrowelPllStop s
  | .pwrCap m => Sys2Proof.Machine.execPwrCap m s
  | .pwrProfile m => Sys2Proof.Machine.execPwrProfile m s
  | .pwrStatus m => Sys2Proof.Machine.execPwrStatus m s
  | .pwrShutdown m => Sys2Proof.Machine.execPwrShutdown m s
  | .shutdownDrainTimeout => Sys2Proof.Machine.execShutdownDrainTimeout s
  | .shutdownBistDone found results => Sys2Proof.Machine.execShutdownBistDone found results s
  | .shutdownPowerOff => Sys2Proof.Machine.execShutdownPowerOff s
  | .governorSample watts => Sys2Proof.Machine.execGovernorSample watts s
  | .floorStepSecondStage watts fit => Sys2Proof.Machine.execFloorStepSecondStage watts fit s
  | .rateClimb watts predicted => Sys2Proof.Machine.execRateClimb watts predicted s
  | .pwrAlertNAssert => Sys2Proof.Machine.execPwrAlertNAssert s
  | .pwrAlertNRelease => Sys2Proof.Machine.execPwrAlertNRelease s
  | .leaseLapsed => Sys2Proof.Machine.execLeaseLapsed s
  | .fallbackCap => Sys2Proof.Machine.execFallbackCap s
  | .supplyHold mv => Sys2Proof.Machine.execSupplyHold mv s
  | .supplyRecovered mv => Sys2Proof.Machine.execSupplyRecovered mv s
  | .holdEnd => Sys2Proof.Machine.execHoldEnd s
  | .longDip => Sys2Proof.Machine.execLongDip s
  | .safeCauseClear cause => Sys2Proof.Machine.execSafeCauseClear cause s
  | .supplyHigh mv => Sys2Proof.Machine.execSupplyHigh mv s
  | .overVoltageLockout mv => Sys2Proof.Machine.execOverVoltageLockout mv s
  | .powerFailReset mv => Sys2Proof.Machine.execPowerFailReset mv s
  | .epoNAssert => Sys2Proof.Machine.execEpoNAssert s
  | .epoNRelease => Sys2Proof.Machine.execEpoNRelease s
  | .thermtrip => Sys2Proof.Machine.execThermtrip s
  | .aonPowerUp mv plinthOk found => Sys2Proof.Machine.execAonPowerUp mv plinthOk found s
  | .perstNAssert => Sys2Proof.Machine.execPerstNAssert s
  | .perstNRelease plinthOk found => Sys2Proof.Machine.execPerstNRelease plinthOk found s
  | .flowSample f => Sys2Proof.Machine.execFlowSample f s
  | .tempSample inlet outlet => Sys2Proof.Machine.execTempSample inlet outlet s
  | .pflowUpdate => Sys2Proof.Machine.execPflowUpdate s
  | .coolantStateDwell row => Sys2Proof.Machine.execCoolantStateDwell row s
  | .quenchEnd => Sys2Proof.Machine.execQuenchEnd s
  | .quenchStage2 => Sys2Proof.Machine.execQuenchStage2 s
  | .diodeSample tile a b => Sys2Proof.Machine.execDiodeSample tile a b s
  | .disagreeDwell tile => Sys2Proof.Machine.execDisagreeDwell tile s
  | .junctionDwell tile => Sys2Proof.Machine.execJunctionDwell tile s
  | .sensorTest tile => Sys2Proof.Machine.execSensorTest tile s
  | .sensorTestDone tile diodes ref => Sys2Proof.Machine.execSensorTestDone tile diodes ref s
  | .thermalModelUpdate pier pred ref => Sys2Proof.Machine.execThermalModelUpdate pier pred ref s
  | .hbmTempSample stack t => Sys2Proof.Machine.execHbmTempSample stack t s
  | .thermStatus m => Sys2Proof.Machine.execThermStatus m s
  | .thermCourse m => Sys2Proof.Machine.execThermCourse m s
  | .thermHbm m => Sys2Proof.Machine.execThermHbm m s
  | .targetedSelfTestStart kind id => Sys2Proof.Machine.execTargetedSelfTestStart kind id s
  | .targetedSelfTestDone kind id pass => Sys2Proof.Machine.execTargetedSelfTestDone kind id pass s
  | .fuseBurnDone => Sys2Proof.Machine.execFuseBurnDone s
  | .bistSliceStart tile => Sys2Proof.Machine.execBistSliceStart tile s
  | .bistSliceDone tile pass => Sys2Proof.Machine.execBistSliceDone tile pass s
  | .coverageRotation tile => Sys2Proof.Machine.execCoverageRotation tile s
  | .bistCoverageLapsed tile => Sys2Proof.Machine.execBistCoverageLapsed tile s
  | .correctedSummary kind id count => Sys2Proof.Machine.execCorrectedSummary kind id count s
  | .errorLogFlush => Sys2Proof.Machine.execErrorLogFlush s
  | .foremanWatchdog pier what => Sys2Proof.Machine.execForemanWatchdog pier what s
  | .masonLockstepError => Sys2Proof.Machine.execMasonLockstepError s
  | .pierResetComplete pier pass => Sys2Proof.Machine.execPierResetComplete pier pass s
  | .fltSummary m => Sys2Proof.Machine.execFltSummary m s
  | .fltTest m => Sys2Proof.Machine.execFltTest m s
  | .fltUnit m => Sys2Proof.Machine.execFltUnit m s
  | .fltPierReset m => Sys2Proof.Machine.execFltPierReset m s
  | .logInfo m => Sys2Proof.Machine.execLogInfo m s
  | .logRead m => Sys2Proof.Machine.execLogRead m s
  | .portLightDetect port => Sys2Proof.Machine.execPortLightDetect port s
  | .lightLoss port => Sys2Proof.Machine.execLightLoss port s
  | .hello port neighbour nport keyOk => Sys2Proof.Machine.execHello port neighbour nport keyOk s
  | .helloRetry port => Sys2Proof.Machine.execHelloRetry port s
  | .linkFrameReceive port word got fec pkt => Sys2Proof.Machine.execLinkFrameReceive port word got fec pkt s
  | .linkNak port linkSeq => Sys2Proof.Machine.execLinkNak port linkSeq s
  | .linkRetrainDone port ok => Sys2Proof.Machine.execLinkRetrainDone port ok s
  | .laneBerCheck port lane berTooHigh => Sys2Proof.Machine.execLaneBerCheck port lane berTooHigh s
  | .laneTestDone port lane errors => Sys2Proof.Machine.execLaneTestDone port lane errors s
  | .settPacketReceive port => Sys2Proof.Machine.execSettPacketReceive port s
  | .record p => Sys2Proof.Machine.execRecord p s
  | .data p => Sys2Proof.Machine.execData p s
  | .landingGapTimeout imp => Sys2Proof.Machine.execLandingGapTimeout imp s
  | .drain p port => Sys2Proof.Machine.execDrain p port s
  | .drainAck p => Sys2Proof.Machine.execDrainAck p s
  | .drainTimeout => Sys2Proof.Machine.execDrainTimeout s
  | .portState p => Sys2Proof.Machine.execPortState p s
  | .portStateFlood => Sys2Proof.Machine.execPortStateFlood s
  | .time port t1 t2 t3 t4 => Sys2Proof.Machine.execTime port t1 t2 t3 t4 s
  | .timeExchange => Sys2Proof.Machine.execTimeExchange s
  | .timeParentLoss => Sys2Proof.Machine.execTimeParentLoss s
  | .holdoverLimit => Sys2Proof.Machine.execHoldoverLimit s
  | .inspectEntry port lane omaDelta brDelta ber => Sys2Proof.Machine.execInspectEntry port lane omaDelta brDelta ber s
  | .cartridgePoll port status => Sys2Proof.Machine.execCartridgePoll port status s
  | .cartridgeTimeout port => Sys2Proof.Machine.execCartridgeTimeout port s
  | .rebaseline port lanes => Sys2Proof.Machine.execRebaseline port lanes s
  | .fabPort m => Sys2Proof.Machine.execFabPort m s
  | .fabCounters m => Sys2Proof.Machine.execFabCounters m s
  | .fabPortCtrl m => Sys2Proof.Machine.execFabPortCtrl m s
  | .fabExport m => Sys2Proof.Machine.execFabExport m s
  | .fabImport m => Sys2Proof.Machine.execFabImport m s
  | .fabUnbind m => Sys2Proof.Machine.execFabUnbind m s
  | .fabStream m => Sys2Proof.Machine.execFabStream m s
  | .fabRoute m => Sys2Proof.Machine.execFabRoute m s
  | .twinHeartbeat p => Sys2Proof.Machine.execTwinHeartbeat p s
  | .twinHeartbeatSend => Sys2Proof.Machine.execTwinHeartbeatSend s
  | .twinLead p => Sys2Proof.Machine.execTwinLead p s
  | .twinJoinReq p => Sys2Proof.Machine.execTwinJoinReq p s
  | .twinJoinGrant p => Sys2Proof.Machine.execTwinJoinGrant p s
  | .twinJoinRefuse p => Sys2Proof.Machine.execTwinJoinRefuse p s
  | .twinHandoverPacket p => Sys2Proof.Machine.execTwinHandoverPacket p s
  | .twinHandoverAck p => Sys2Proof.Machine.execTwinHandoverAck p s
  | .partnerLossTimeout => Sys2Proof.Machine.execPartnerLossTimeout s
  | .twinStatus m => Sys2Proof.Machine.execTwinStatus m s
  | .twinJoin m => Sys2Proof.Machine.execTwinJoin m s
  | .twinHandover m => Sys2Proof.Machine.execTwinHandover m s
  | .secTenantCreate m => Sys2Proof.Machine.execSecTenantCreate m s
  | .secTenantRemove m => Sys2Proof.Machine.execSecTenantRemove m s
  | .tenantScrubDone t => Sys2Proof.Machine.execTenantScrubDone t s
  | .secTenantQuery m => Sys2Proof.Machine.execSecTenantQuery m s
  | .secQuota m => Sys2Proof.Machine.execSecQuota m s
  | .secKeyRetire m => Sys2Proof.Machine.execSecKeyRetire m s
  | .secKeyStatus m => Sys2Proof.Machine.execSecKeyStatus m s
  | .secLifecycle m => Sys2Proof.Machine.execSecLifecycle m s
  | .secFabricBind m => Sys2Proof.Machine.execSecFabricBind m s
  | .secAttest m => Sys2Proof.Machine.execSecAttest m s
  | .attestReportLanded op => Sys2Proof.Machine.execAttestReportLanded op s
  | .getVersion r => Sys2Proof.Machine.execGetVersion r s
  | .getCapabilities r => Sys2Proof.Machine.execGetCapabilities r s
  | .negotiateAlgorithms r => Sys2Proof.Machine.execNegotiateAlgorithms r s
  | .getDigests r => Sys2Proof.Machine.execGetDigests r s
  | .getCertificate r => Sys2Proof.Machine.execGetCertificate r s
  | .challenge r => Sys2Proof.Machine.execChallenge r s
  | .getMeasurements r => Sys2Proof.Machine.execGetMeasurements r s
  | .spdmUnsupportedRequest code => Sys2Proof.Machine.execSpdmUnsupportedRequest code s
  | .fwStage m => Sys2Proof.Machine.execFwStage m s
  | .fwStageVerify op rd => Sys2Proof.Machine.execFwStageVerify op rd s
  | .fwActivate m => Sys2Proof.Machine.execFwActivate m s
  | .activationProcessorInService pass => Sys2Proof.Machine.execActivationProcessorInService pass s
  | .fwDiscard m => Sys2Proof.Machine.execFwDiscard m s
  | .profileWrite m => Sys2Proof.Machine.execProfileWrite m s
  | .profileInfo m => Sys2Proof.Machine.execProfileInfo m s
  | .fuseInfo m => Sys2Proof.Machine.execFuseInfo m s
  | .fuseRead m => Sys2Proof.Machine.execFuseRead m s
  | .modeQuery m => Sys2Proof.Machine.execModeQuery m s
  | .modeSet m => Sys2Proof.Machine.execModeSet m s
  | .modeCompatLock m => Sys2Proof.Machine.execModeCompatLock m s
  | .i3cBusRecovery freed => Sys2Proof.Machine.execI3cBusRecovery freed s
  | .mbDoorbell m v => Sys2Proof.Machine.execMbDoorbell m v s
  | .mailboxRequestWrite m off bytes => Sys2Proof.Machine.execMailboxRequestWrite m off bytes s
  | .masonRestartDone => Sys2Proof.Machine.execMasonRestartDone s
  | .outHostCopyDone copy rd => Sys2Proof.Machine.execOutHostCopyDone copy rd s
  | .profileWriteDone op rd => Sys2Proof.Machine.execProfileWriteDone op rd s
  | .activationCopyDone => Sys2Proof.Machine.execActivationCopyDone s
  | .calibrationDone op ok => Sys2Proof.Machine.execCalibrationDone op ok s
  | .cleanReqInterval port => Sys2Proof.Machine.execCleanReqInterval port s

end Sys2Proof.Machine
end

