-- ==== Sys2Proof/Machine/Reads.lean ====
section
/-! DEFINITION. Host reads of BAR0 by offset (R7, R30-R34, R43, R45, R48, R52, R117): the value that each byte of a function's BAR0 reads as.
Reading has no effect beside those of TICKET_READ, EQ_LOST_READ and RING_DROP_READ. Reserved offsets and write-only registers read
as zero; a function that is absent or does not decode its BAR answers nothing, and software reads all ones (R29, R30). -/

namespace Sys2Proof.Machine

/-! ## Configuration space (R30) -/

def pciVendor : Nat := 0x1F3C
def pciClass : Nat := 0x120000

def pciDevice : Fn → Nat
  | .pf => 0x0A40
  | .vf _ => 0x0A41

/-! ## Register words -/

/-- EQ_CTRL (R52). -/
def EventQueue.ctrlWord (q : EventQueue) : Nat := boolN q.intrEn + 2 * boolN q.overflow

/-- RING_STAT (R48); BACKLOG while a record waits for the ring. -/
def State.ringStat (s : State) (v i : Nat) : Nat :=
  boolN (s.ring v i).overflow + 2 * boolN ((s.vf v).backlog.any fun q => q.1 == i) + 4 * boolN (s.ring v i).cfgErr

/-- The pending bits of a function's vectors (R31). -/
def State.pba (s : State) (f : Fn) : Nat := ((List.range (fnVectors f)).filter fun i => (s.vector f i).pending).foldl (fun n i => n + 2 ^ i) 0

def Channel.ctrlWord (c : Channel) : Nat := boolN c.enable + 2 * boolN c.irqBad
def Channel.errWord (c : Channel) : Nat := boolN c.bad + 2 * boolN c.armRefused + 4 * boolN c.overwrite
def Channel.badInfo (c : Channel) : Nat := c.badTag.toNat + c.badCode * 2 ^ 32

/-- SH_CTRL of the shadow window: ARM reads 1 while armed. -/
def Channel.shCtrl (c : Channel) : Nat := boolN c.armed + c.shadowSet.ctrl.toNat

/-! ## Bytes of a block of registers: an association of offset, width and value -/

/-- A register in a block. -/
structure RegWord where
  off : Nat
  size : Nat
  value : Nat

/-- The byte at an offset; zero where no register stands. -/
def regByte (l : List RegWord) (o : Nat) : Byte :=
  match List.find? (fun r => decide (r.off ≤ o) && decide (o < r.off + r.size)) l with
  | some r => (leBytes r.size r.value).getD (o - r.off) 0
  | none => 0

def Vector.regs (x : Vector) : List RegWord := [⟨0, 8, x.addr.toNat⟩, ⟨8, 4, x.data.toNat⟩, ⟨0xC, 4, boolN x.masked⟩]

/-- A mailbox: request area, response area, MB_DOORBELL (write-only), MB_STATUS and MB_CTRL. -/
def Mailbox.readByte (b : Mailbox) (o : Nat) : Byte :=
  if o < 0x100 then memRead b.req o
  else if o < 0x200 then b.resp.getD (o - 0x100) 0
  else regByte [⟨0x204, 4, b.statusWord⟩, ⟨0x208, 4, b.ctrlWord⟩] o

/-- RING_BASE, RING_CFG, RING_MOD, RING_HEAD, RING_TAIL, RING_STAT and RING_DROP. -/
def State.ringRegs (s : State) (v i : Nat) : List RegWord :=
  let r := s.ring v i
  [⟨0x00, 8, r.base * 4096⟩, ⟨0x08, 4, r.cfgWord⟩, ⟨0x0C, 4, r.modTime⟩, ⟨0x10, 4, r.head⟩, ⟨0x14, 4, r.tail⟩, ⟨0x18, 4, s.ringStat v i⟩, ⟨0x1C, 4, r.drop⟩]

/-- The registers of a host channel and the shadow window, which shows the set that is shadow. -/
def Channel.regs (c : Channel) : List RegWord :=
  let x := c.shadowSet
  [⟨0x000, 4, c.ctrlWord⟩, ⟨0x004, 4, c.statusWord⟩, ⟨0x008, 4, c.errWord⟩, ⟨0x010, 8, c.badInfo⟩, ⟨0x018, 8, c.badOffset⟩, ⟨0x020, 8, c.progress⟩,
   ⟨0x100, 8, x.src.toNat⟩, ⟨0x108, 8, x.dst.toNat⟩, ⟨0x110, 4, x.row.toNat⟩, ⟨0x114, 4, x.count.toNat⟩, ⟨0x118, 4, x.sstr.toNat⟩, ⟨0x11C, 4, x.dstr.toNat⟩,
   ⟨0x120, 8, x.spstr.toNat⟩, ⟨0x128, 8, x.dpstr.toNat⟩, ⟨0x130, 4, x.tag.toNat⟩, ⟨0x134, 4, c.shCtrl⟩]

/-- An entry of the admission window: bytes +0x00 to +0x37 read as zero, +0x38 gives the latched word (R43, R45). -/
def Entry.readByte (e : Entry) (o : Nat) : Byte := if o < 0x38 then 0 else (leBytes 8 e.ticket.toNat).getD (o - 0x38) 0

/-! ## BAR0 -/

def State.pfByte (s : State) (o : Nat) : Byte :=
  if o < 0x30 then
    regByte [⟨0x00, 8, s.modId⟩, ⟨0x08, 4, s.modState⟩, ⟨0x10, 8, s.now⟩, ⟨0x18, 4, doneWord s.host.pfDone⟩, ⟨0x20, 4, s.host.eq.prod⟩, ⟨0x24, 4, s.host.eq.cons⟩,
      ⟨0x28, 4, s.host.eq.ctrlWord⟩, ⟨0x2C, 4, s.host.eq.lost⟩] o
  else if decide (0x2000 ≤ o) && decide (o < 0x2200) then regByte (s.vector .pf ((o - 0x2000) / 16)).regs (o % 16)
  else if decide (0x3000 ≤ o) && decide (o < 0x3008) then regByte [⟨0, 8, s.pba .pf⟩] (o - 0x3000)
  else if decide (0x4000 ≤ o) && decide (o < 0x8000) then (s.host.eq.entries.get [] ((o - 0x4000) / 32)).getD (o % 32) 0
  else if decide (0x8000 ≤ o) && decide (o < 0x10000) then (s.mbox ⟨.pf, (o - 0x8000) / 0x400⟩).readByte (o % 0x400)
  else if decide (0x10000 ≤ o) && decide (o < 0x20000) then regByte (s.chan ((o - 0x10000) / 0x1000)).regs (o % 0x1000)
  else if decide (0x100000 ≤ o) && decide (o < 0x200000) then (s.entry .pf ((o - 0x100000) / 64)).readByte (o % 64)
  else 0

def State.vfByte (s : State) (v o : Nat) : Byte :=
  if o < 0x18 then regByte [⟨0x00, 4, s.vfId v⟩, ⟨0x04, 4, doneWord (s.vf v).mbDone⟩, ⟨0x10, 8, s.now⟩] o
  else if decide (0x100 ≤ o) && decide (o < 0x200) then regByte (s.ringRegs v ((o - 0x100) / 64)) (o % 64)
  else if decide (0x1000 ≤ o) && decide (o < 0x2000) then (s.mbox ⟨.vf v, (o - 0x1000) / 0x400⟩).readByte (o % 0x400)
  else if decide (0x2000 ≤ o) && decide (o < 0x2080) then regByte (s.vector (.vf v) ((o - 0x2000) / 16)).regs (o % 16)
  else if decide (0x3000 ≤ o) && decide (o < 0x3008) then regByte [⟨0, 8, s.pba (.vf v)⟩] (o - 0x3000)
  else if decide (0x4000 ≤ o) && decide (o < 0x10000) then (s.entry (.vf v) ((o - 0x4000) / 64)).readByte (o % 64)
  else 0

/-- The byte that an offset of a function's BAR0 reads as. -/
def State.barByte (s : State) (f : Fn) (o : Nat) : Byte :=
  if !s.fnDecodes f then 0xFF else match f with | .pf => s.pfByte o | .vf v => s.vfByte v o

/-- The value of a read of `size` bytes. The read itself changes nothing, but for the commands named above. -/
def State.barRead (s : State) (f : Fn) (o size : Nat) : Nat := leNat ((List.range size).map fun i => s.barByte f (o + i))

end Sys2Proof.Machine
end

