-- ==== Sys2Proof/Safety.lean ====
section
/-! DEFINITION. What counts as a safe run (every step answers a next state), and the terms in which statements speak of a mailbox
request that Mason may execute now. -/

namespace Sys2Proof.Machine

/-- The outcome is a next state. -/
def isNext : Host.Outcome State Fault Refusal → Prop
  | .next _ => True
  | _ => False

/-- A state from which `k` steps run without a fault or a refusal. -/
def SafeFor : Nat → State → Prop
  | 0, _ => True
  | k + 1, s =>
    match step s with
    | .next t => SafeFor k t
    | _ => False

/-- The memories of the machine are in their one canonical form: HBM, host memory, every tile's SRAM and every combiner buffer. -/
def State.canonical (s : State) : Prop :=
  Memory.wf s.mem.hbm = true ∧ Memory.wf s.mem.host = true ∧ (∀ n, (s.tile n).sram.wf = true) ∧ ∀ c, (s.cbuf c).wf = true

/-- The state once the oldest request of mailbox `m` has left Mason's input buffer. -/
def State.taken (s : State) (m : Mb) : State := { s with mason.inputs := dropFirst (fun x => x.mb == m) s.mason.inputs }

/-- The request of mailbox `m` that Mason takes next (R37), where it carries `code`, was not discarded by a reset (R53) and
passes checks 3 to 5 of R36: a VF may issue it (`vfOk`), its tenant is open, and the power state admits it. -/
def State.runs (s : State) (m : Mb) (code : Nat) (vfOk : Bool) : Option Req :=
  match takeReq s.broup m [] s.mason.inputs with
  | none => none
  | some q =>
    let r := mkReq s.broup q
    if r.code == code && s.masonRuns && !q.discard && ((s.taken m).reqCheck r vfOk fun _ => true).isNone then some r else none

/-- As `runs`, for a request that fails check 3, 4 or 5 of R36: with the status of the first that fails. -/
def State.stopped (s : State) (m : Mb) (code : Nat) (vfOk : Bool) : Option (Req × Nat) :=
  match takeReq s.broup m [] s.mason.inputs with
  | none => none
  | some q =>
    let r := mkReq s.broup q
    if r.code == code && s.masonRuns && !q.discard then ((s.taken m).reqCheck r vfOk fun _ => true).map fun st => (r, st) else none

/-- The Chisel of an Ashlar may issue an instruction of class `k` next (R79, R83, R84): its partition runs a batch without a plan error,
its tiles run, it is not stalled, it has not retired its boundary marker, and the instruction word at its pc is of that class. Answers the
partition and the Chisel's registers. -/
def State.issues (s : State) (a : Ash) (k : Nat) : Option (Part × Chisel) :=
  match s.chiselAt a with
  | some (p, c) => if c.stall == .run && !c.bndry && s.codeClass p c.pc == some k then some (p, c) else none
  | none => none

end Sys2Proof.Machine
end

