-- ==== Sys2Proof/Certificates/Slice0/Obligations.lean ====
section
/-! DEFINITION. The statements for the provers. Each docstring names the rules of spec/ that its statement rests on. A statement
about a mailbox command takes the request that Mason runs next as `s.runs m code vfOk = some r` (Safety.lean) and gives the whole
state after the command: the state with the request taken, the command's effect, and the answer written (`respond`). -/

open Sys2Proof Sys2Proof.Machine

/-- R52: between `s` and `t` one event was posted: where the queue of `s` has room, its entry stands at EQ_PROD, and the queue advances by one. -/
def eventPosted (s t : State) (code kind id : Nat) (detail : List Byte) : Prop :=
  s.host.eq.full = false → t.host.eq.entries.find? s.host.eq.prod = some (eventBytes code (severityOf code detail) kind id s.now detail) ∧
    t.host.eq.prod = (s.host.eq.prod + 1) % 512 ∧ t.host.eq.lost = s.host.eq.lost

/-- The block's rule for a step: with command `c` at the front of the queue, a step is `exec c` on the state with the queue's rest. -/
def Obligations.StepRunsTheFrontCommand : Prop :=
  ∀ (s : State) (c : Instr) (rest : List Instr), s.pending = c :: rest → step s = exec c { s with pending := rest }

/-- With an empty queue the block idles (log 1): `idleTicks` ticks of the AON clock pass where the AON supply is on (R33, R223), and
without it nothing changes. Memory, contexts, mailboxes, registers of the host interface, plans and the queue stay. -/
def Obligations.IdleStepPassesTime : Prop :=
  ∀ (s : State), s.pending = [] →
    (s.power.aon = false → step s = .next s) ∧
    (s.power.aon = true → s.fab.slew = 0 →
      ∃ t, step s = .next t ∧ t.now = s.now + s.idleTicks ∧ t.pending = [] ∧ t.host = s.host ∧ t.mem = s.mem ∧ t.tiles = s.tiles ∧
        t.ctxs = s.ctxs ∧ t.plans = s.plans ∧ t.mason = s.mason ∧ t.sec = s.sec ∧ t.fw = s.fw ∧ t.therm = s.therm ∧ t.flt = s.flt)

/-- What reset leaves in the host interface and the module's registers (R31, R33, R34, R46, R48, R52): the values of the register
tables, for every vector, mailbox, ring and window entry. -/
def Obligations.ResetLeavesTheStatedValues : Prop :=
  State.reset.pending = [] ∧ State.reset.now = 0 ∧ State.reset.modId = 0x0000FFFF000243B1 ∧ State.reset.modState = 0 ∧
  (∀ f i, State.reset.vector f i = ⟨0, 0, true, false⟩) ∧
  (∀ m, (State.reset.mbox m).statusWord = 0 ∧ (State.reset.mbox m).ctrlWord = 0) ∧
  (∀ v i, (State.reset.ring v i).cfgWord = 0 ∧ (State.reset.ring v i).base = 0 ∧ (State.reset.ring v i).head = 0 ∧
    (State.reset.ring v i).tail = 0 ∧ (State.reset.ring v i).drop = 0) ∧
  (∀ f n, (State.reset.entry f n).armed = false ∧ (State.reset.entry f n).ticket = ticketWord { dec := 3, reason := 0x34 } 0) ∧
  State.reset.host.eq.prod = 0 ∧ State.reset.host.eq.cons = 0 ∧ State.reset.host.eq.lost = 0 ∧
  (∀ c, (State.reset.chan c).statusWord = 0 ∧ (State.reset.chan c).enable = false)

/-- R44 and R45. A write to bytes +0x00 to +0x37 of an entry arms it and leaves its latched word and its other bytes. A ticket read of
an entry that is not armed returns the latched word and changes nothing else. A ticket read of an armed entry disarms it, latches one
word and returns that word; on a VF slot bound to no context it decides INVALID with SLOT_UNBOUND and ticket 0. No other entry of
the function changes. -/
def Obligations.WindowWritesArmAndReadsDecide : Prop :=
  (∀ (s : State) (f : Fn) (n off : Nat) (bs : List Byte),
    s.fnDecodes f = true → n < fnEntries f → off < 0x38 → bs ≠ [] → Memory.wf (s.entry f n).bytes = true →
    ∃ t, exec (.submissionSlotWrite f n off bs) s = .next t ∧ (t.entry f n).armed = true ∧ (t.entry f n).ticket = (s.entry f n).ticket ∧
      (∀ k, k < 0x38 → memRead (t.entry f n).bytes k =
        if off ≤ k ∧ k < off + bs.length then bs.getD (k - off) 0 else memRead (s.entry f n).bytes k) ∧
      (∀ n', n' ≠ n → t.entry f n' = s.entry f n') ∧ t.ctxs = s.ctxs ∧ t.mem = s.mem) ∧
  (∀ (s : State) (f : Fn) (n : Nat), s.fnDecodes f = true → n < fnEntries f → (s.entry f n).armed = false →
    exec (.ticketRead f n) s = .next { s with host.lastRead := (s.entry f n).ticket }) ∧
  (∀ (s : State) (v n : Nat), s.fnDecodes (.vf v) = true → n < 768 → (s.entry (.vf v) n).armed = true →
    s.host.slotBind.find? (v * 768 + n) = none →
    ∃ t, exec (.ticketRead (.vf v) n) s = .next t ∧ t.host.lastRead = ticketWord { dec := 3, reason := 0x30 } 0 ∧
      t.entry (.vf v) n = { s.entry (.vf v) n with armed := false, ticket := ticketWord { dec := 3, reason := 0x30 } 0 } ∧
      (∀ n', n' ≠ n → t.entry (.vf v) n' = s.entry (.vf v) n') ∧ t.ctxs = s.ctxs) ∧
  (∀ (s : State) (f : Fn) (n : Nat), s.fnDecodes f = true → n < fnEntries f → (s.entry f n).armed = true →
    ∃ t, exec (.ticketRead f n) s = .next t ∧ (t.entry f n).armed = false ∧ (t.entry f n).ticket = t.host.lastRead)

/-- R51, R52, R53 and R29: unmasking a vector sends its pending message once; EQ_CONS takes the index written, and where events were
lost and space has returned the next entry is EVENTS_LOST with their count; reading EQ_LOST returns the count and clears it; VF
Enable and the power state of a function take the value written, and nothing else changes. -/
def Obligations.HostAccessesTakeEffect : Prop :=
  (∀ (s : State) (f : Fn) (i : Nat), s.fnDecodes f = true → i < fnVectors f →
    ∃ t, exec (.msixUnmask f i) s = .next t ∧ (t.vector f i).masked = false ∧ (t.vector f i).pending = false ∧
      (t.vector f i).addr = (s.vector f i).addr ∧ (t.vector f i).data = (s.vector f i).data ∧
      t.host.msgs = (if (s.vector f i).pending then [⟨f, i, (s.vector f i).addr, (s.vector f i).data⟩] else []) ++ s.host.msgs ∧
      (∀ j, j ≠ i → t.vector f j = s.vector f j) ∧ t.host.eq = s.host.eq) ∧
  (∀ (s : State) (w : W32), s.fnDecodes .pf = true → s.host.eq.lostRun = 0 →
    exec (.eqConsWrite w) s = .next { s with host.eq.cons := w.toNat % 512 }) ∧
  (∀ (s : State) (w : W32), s.fnDecodes .pf = true → 0 < s.host.eq.lostRun → (s.host.eq.prod + 1) % 512 ≠ w.toNat % 512 →
    s.host.eq.intrEn = false →
    ∃ t, exec (.eqConsWrite w) s = .next t ∧ t.host.eq.cons = w.toNat % 512 ∧ t.host.eq.prod = (s.host.eq.prod + 1) % 512 ∧
      t.host.eq.lostRun = 0 ∧ t.host.eq.lost = s.host.eq.lost ∧
      t.host.eq.entries.find? s.host.eq.prod =
        some (eventBytes 0x0102 1 0 0 s.now (leBytes 4 (min s.host.eq.lostRun 0xFFFFFFFF))) ∧ t.host.msgs = s.host.msgs) ∧
  (∀ (s : State), s.fnDecodes .pf = true →
    exec .eqLostRead s = .next { s with host.lastRead := BitVec.ofNat 64 s.host.eq.lost, host.eq.lost := 0 }) ∧
  (∀ (s : State), s.host.linkUp = true → exec .sriovVfEnable s = .next { s with host.vfEnable := true }) ∧
  (∀ (s : State) (f : Fn), s.fnThere f = true →
    (∃ t, exec (.pciPmStateWrite f true) s = .next t ∧ t.fnDecodes f = false ∧ (∀ g, g ≠ f → t.fnDecodes g = s.fnDecodes g) ∧
      t.parts = s.parts ∧ t.ctxs = s.ctxs ∧ t.power = s.power) ∧
    (∃ t, exec (.pciPmStateWrite f false) s = .next t ∧ t.fnDecodes f = true ∧ (∀ g, g ≠ f → t.fnDecodes g = s.fnDecodes g)))

/-- R48, R49, R51: the ring registers. RING_CFG with ENABLE asks for registration and does not register; the check registers a ring with
a base and a size of at most 8 with HEAD and TAIL 0 and PHASE 1, and else clears ENABLE and sets CFG_ERR; clearing ENABLE clears
REGISTERED and counts the ring's backlog as dropped; HEAD takes its index; RING_DROP reads and clears; a record waits no longer
once its ring has room; the moderation timer announces. -/
def Obligations.RingRegistersAndTimers : Prop :=
  (∀ (s : State) (v i : Nat) (w : W32), s.fnDecodes (.vf v) = true → i < 4 → bitOf w.toNat 0 = true → (s.ring v i).enable = false →
    exec (.ringEnable v i w) s = .next (s.updRing v i fun r =>
      { r with enable := true, size := bitsOf w.toNat 7 4, vector := bitsOf w.toNat 10 8, modCount := bitsOf w.toNat 23 16 })) ∧
  (∀ (s : State) (v i : Nat), s.masonRuns = true → (s.ring v i).enable = true → (s.ring v i).registered = false →
    exec (.ringRegistrationCheck v i) s = .next (s.updRing v i fun r =>
      if r.base ≠ 0 ∧ r.size ≤ 8 then { r with registered := true, head := 0, tail := 0, phase := true, unannounced := 0 }
      else { r with enable := false, cfgErr := true })) ∧
  (∀ (s : State) (v i : Nat) (w : W32), s.fnDecodes (.vf v) = true → i < 4 → bitOf w.toNat 0 = false → (s.ring v i).enable = true →
    ∃ t, exec (.ringDisable v i w) s = .next t ∧ (t.ring v i).registered = false ∧ (t.ring v i).enable = false ∧
      (t.ring v i).drop = sat32 (s.ring v i).drop ((s.vf v).backlog.filter fun q => q.1 == i).length ∧
      (t.vf v).backlog = (s.vf v).backlog.filter (fun q => q.1 != i) ∧ (t.ring v i).size = (s.ring v i).size ∧
      (∀ j, j ≠ i → t.ring v j = s.ring v j)) ∧
  (∀ (s : State) (v i : Nat) (w : W32), s.fnDecodes (.vf v) = true → i < 4 →
    exec (.ringHeadWrite v i w) s = .next (s.updRing v i fun r => { r with head := w.toNat % 65536 })) ∧
  (∀ (s : State) (v i : Nat), s.fnDecodes (.vf v) = true → i < 4 →
    ∃ t, exec (.ringDropRead v i) s = .next t ∧ t.host.lastRead = BitVec.ofNat 64 (s.ring v i).drop ∧
      t.ring v i = { s.ring v i with drop := 0 } ∧ (∀ j, j ≠ i → t.ring v j = s.ring v j)) ∧
  (∀ (s : State) (v i : Nat) (x : Rec), s.up = true → (s.vf v).backlog = [(i, x)] → (s.ring v i).full = false →
    ∃ t, exec (.ringBacklogDrain v) s = .next t ∧ (t.vf v).backlog = [] ∧
      (t.ring v i).tail = ((s.ring v i).tail + 1) % (s.ring v i).records ∧
      t.mem.host = memWriteN s.mem.host ((s.ring v i).base * 4096 + 64 * (s.ring v i).tail) (recBytes s.broup (s.ring v i).phase x)) ∧
  (∀ (s : State) (v i : Nat), s.up = true → (s.ring v i).registered = true → (s.ring v i).modTime ≠ 0 → (s.ring v i).unannounced ≠ 0 →
    25 * (s.ring v i).modTime ≤ s.now - (s.ring v i).oldestAt →
    exec (.ringModTimer v i) s =
      .next ((s.updRing v i fun r => { r with unannounced := 0 }).raiseVec (.vf v) (s.ring v i).vector))

/-- R53, R222: a function-level reset. A VF's mailboxes go to IDLE, its rings are unregistered, its vectors are reset, the responses of
its waiting requests are discarded and VF_RESET is posted; its slots, contexts, partitions, plans and memory stay. A PF reset idles
every management mailbox, disables the VFs, empties the event queue, resets the PF's vectors and stops every import; while no tenant is
being removed, contexts, partitions, plans and tenants stay. -/
def Obligations.FunctionLevelResetKeepsWork : Prop :=
  (∀ (s : State) (v : Nat), s.fnThere (.vf v) = true →
    ∃ t, exec (.vfFlr v) s = .next t ∧ (∀ i, i < 4 → (t.mbox ⟨.vf v, i⟩).state = 0) ∧
      (∀ i, i < 4 → (t.ring v i).registered = false ∧ (t.ring v i).enable = false) ∧
      (∀ i, i < 8 → t.vector (.vf v) i = {}) ∧ (∀ r ∈ t.mason.inputs, r.mb.fn = .vf v → r.discard = true) ∧
      t.host.slotBind = s.host.slotBind ∧ t.host.vfWin = s.host.vfWin ∧ t.ctxs = s.ctxs ∧ t.parts = s.parts ∧ t.plans = s.plans ∧
      t.mem = s.mem ∧ t.sec = s.sec ∧ t.host.pfMb = s.host.pfMb) ∧
  (∀ (s : State), s.host.linkUp = true →
    ∃ t, exec .pfFlr s = .next t ∧ (∀ i, (t.mbox ⟨.pf, i⟩).state = 0) ∧ t.host.vfEnable = false ∧ t.host.eq = {} ∧
      (∀ i, t.vector .pf i = {}) ∧ (∀ r ∈ t.mason.inputs, r.mb.fn = .pf → r.discard = true) ∧ (∀ i ∈ t.fab.imports, i.2.stopped = true) ∧
      ((∀ r ∈ s.sec.tenants, r.2.state ≠ 2) → t.ctxs = s.ctxs ∧ t.parts = s.parts ∧ t.plans = s.plans ∧ t.sec = s.sec))

/-- R7, R30, R31, R32, R33, R34, R43, R45, R48, R52: register accesses by offset. REGISTER_WRITE: the done bits written with 1 are cleared; EQ_CTRL takes INTR_EN and clears
OVERFLOW on a 1; RING_BASE takes its 52 bits while ENABLE is 0 and is unchanged while ENABLE is 1; a reserved offset changes nothing.
Reads: MOD_ID, MOD_STATE, AON_COUNT, EQ_CTRL, VF_ID and RING_STAT read as their words; MB_DOORBELL, reserved offsets and bytes +0x00 to +0x37 of a
window entry read as zero; bytes +0x38 of one read as its latched word; a function that does not decode answers all ones. -/
def Obligations.RegisterWritesByOffset : Prop :=
  (∀ (s : State) (v : W64), s.fnDecodes .pf = true →
    exec (.registerWrite .pf 0x18 4 v) s =
      .next { s with host.pfDone := s.host.pfDone.filter fun i => !bitOf (v.toNat % 2 ^ 32) i }) ∧
  (∀ (s : State) (v : W64), s.fnDecodes .pf = true →
    exec (.registerWrite .pf 0x28 4 v) s =
      .next { s with host.eq.intrEn := bitOf (v.toNat % 2 ^ 32) 0, host.eq.overflow := s.host.eq.overflow && !bitOf (v.toNat % 2 ^ 32) 1 }) ∧
  (∀ (s : State) (f i : Nat) (v : W64), s.fnDecodes (.vf f) = true → i < 4 → (s.ring f i).enable = false →
    ∃ t, exec (.registerWrite (.vf f) (0x100 + 64 * i) 8 v) s = .next t ∧
      t.ring f i = { s.ring f i with base := v.toNat / 4096 } ∧ (∀ j, j ≠ i → t.ring f j = s.ring f j) ∧ t.mem = s.mem ∧ t.ctxs = s.ctxs) ∧
  (∀ (s : State) (f i : Nat) (v : W64), s.fnDecodes (.vf f) = true → i < 4 → (s.ring f i).enable = true →
    exec (.registerWrite (.vf f) (0x100 + 64 * i) 8 v) s = .next s) ∧
  (∀ (s : State) (v : W64), s.fnDecodes .pf = true → exec (.registerWrite .pf 0x40 4 v) s = .next s) ∧
  (∀ s : State, s.fnDecodes .pf = true →
    s.barRead .pf 0x00 8 = s.modId % 2 ^ 64 ∧ s.barRead .pf 0x08 4 = s.modState % 2 ^ 32 ∧ s.barRead .pf 0x10 8 = s.now % 2 ^ 64 ∧
    s.barRead .pf 0x28 4 = (if s.host.eq.intrEn then 1 else 0) + (if s.host.eq.overflow then 2 else 0) ∧
    (∀ o, 0x30 ≤ o → o < 0x2000 → s.barByte .pf o = 0) ∧ (∀ i k, i < 32 → k < 4 → s.barByte .pf (0x8200 + 0x400 * i + k) = 0) ∧
    (∀ n k, n < 0x4000 → k < 0x38 → s.barByte .pf (0x100000 + 64 * n + k) = 0) ∧
    (∀ n, n < 0x4000 → s.barRead .pf (0x100038 + 64 * n) 8 = (s.entry .pf n).ticket.toNat)) ∧
  (∀ (s : State) (v : Nat), s.fnDecodes (.vf v) = true →
    s.barRead (.vf v) 0x00 4 = s.vfId v % 2 ^ 32 ∧ s.barRead (.vf v) 0x10 8 = s.now % 2 ^ 64 ∧
    (∀ i, i < 4 → s.barRead (.vf v) (0x118 + 64 * i) 4 = (if (s.ring v i).overflow then 1 else 0) +
      (if (s.vf v).backlog.any (fun q => q.1 == i) then 2 else 0) + (if (s.ring v i).cfgErr then 4 else 0)) ∧
    (∀ n k, n < 768 → k < 0x38 → s.barByte (.vf v) (0x4000 + 64 * n + k) = 0)) ∧
  (∀ (s : State) (f : Fn) (o : Nat), s.fnDecodes f = false → s.barByte f o = 0xFF)

/-- R34, R36 and R39: writing the request area and ringing the doorbell. Bytes land in the request area unless the mailbox is BUSY; a
well-formed request with a defined code makes the mailbox BUSY and waits for Mason; a malformed header or an unknown code is answered
BAD_COMMAND; a doorbell or a write while BUSY is dropped and sets OVERRUN; during a Mason pause the Plinth answers RETRY_AFTER with at
least 1,000 µs. The end of a Mason restart ends the pause and posts MASON_RESUMED with the pause's length and cause; no tenant's removal
waits for it here. -/
def Obligations.DoorbellSubmitsOrAnswers : Prop :=
  (∀ (s : State) (m : Mb) (off : Nat) (bs : List Byte), s.fnDecodes m.fn = true → mbExists m = true → off < 256 → bs ≠ [] →
    (s.mbox m).state ≠ 1 →
    exec (.mailboxRequestWrite m off bs) s =
      .next (s.updMbox m fun b => { b with req := memWriteN b.req off (bs.take (256 - off)) })) ∧
  (∀ (s : State) (m : Mb) (off : Nat) (bs : List Byte), s.fnDecodes m.fn = true → mbExists m = true → off < 256 → bs ≠ [] →
    (s.mbox m).state = 1 →
    exec (.mailboxRequestWrite m off bs) s = .next (s.updMbox m fun b => { b with overrun := true })) ∧
  (∀ (s : State) (m : Mb) (w : W32), s.fnDecodes m.fn = true → mbExists m = true → bitOf w.toNat 0 = true → (s.mbox m).state = 1 →
    exec (.mbDoorbell m w) s = .next (s.updMbox m fun b => { b with overrun := true })) ∧
  (∀ (s : State) (m : Mb) (w : W32), s.fnDecodes m.fn = true → mbExists m = true → bitOf w.toNat 0 = true → (s.mbox m).state ≠ 1 →
    s.mason.paused = false → reqHeaderOk s.broup (memReadN (s.mbox m).req 0 256) = true →
    codeDefined (reqCode s.broup (memReadN (s.mbox m).req 0 256)) = true →
    exec (.mbDoorbell m w) s = .next { s.updMbox m (fun b => { b with state := 1 }) with
      mason.inputs := s.mason.inputs ++ [⟨m, memReadN (s.mbox m).req 0 256, false⟩] }) ∧
  (∀ (s : State) (m : Mb) (w : W32), s.fnDecodes m.fn = true → mbExists m = true → bitOf w.toNat 0 = true → (s.mbox m).state ≠ 1 →
    s.mason.paused = false →
    (reqHeaderOk s.broup (memReadN (s.mbox m).req 0 256) && codeDefined (reqCode s.broup (memReadN (s.mbox m).req 0 256))) = false →
    ∃ t, exec (.mbDoorbell m w) s = .next t ∧ (t.mbox m).state = 2 ∧ (t.mbox m).status = 0x05 ∧ t.mason = s.mason) ∧
  (∀ (s : State) (m : Mb) (w : W32), s.fnDecodes m.fn = true → mbExists m = true → bitOf w.toNat 0 = true → (s.mbox m).state ≠ 1 →
    s.mason.paused = true →
    ∃ t us, exec (.mbDoorbell m w) s = .next t ∧ 1000 ≤ us ∧ (t.mbox m).state = 2 ∧ (t.mbox m).status = 0x03 ∧
      (t.mbox m).doneCount = ((s.mbox m).doneCount + 1) % 65536 ∧ t.mason = s.mason ∧
      (t.mbox m).resp = respBytes s.broup (reqCode s.broup (memReadN (s.mbox m).req 0 256)) (reqTag s.broup (memReadN (s.mbox m).req 0 256))
        { status := 0x03, arg := us }) ∧
  (∀ (s : State), s.up = true → s.mason.paused = true → s.mason.pauseCause = 1 →
    (∀ r ∈ s.sec.tenants, r.2.step ≠ 4) → (s.host.eq.prod + 1) % 512 ≠ s.host.eq.cons →
    ∃ t, exec .masonRestartDone s = .next t ∧ t.mason = { s.mason with paused := false, kept := [] } ∧ t.ctxs = s.ctxs ∧ t.sec = s.sec ∧ t.mem = s.mem ∧
      t.host.eq.entries.find? s.host.eq.prod =
        some (eventBytes 0x0104 0 0 0 s.now (leBytes 4 (min 0xFFFFFFFF ((s.now - s.mason.pauseAt) / 25)) ++ [1])))

/-- Every mailbox command of the table with its code and whether a VF may issue it (R36 and the defining chapters). -/
def mailboxCommands (rd : HostRead) : List ((Mb → Instr) × Nat × Bool) :=
  [(Instr.infoIdentity, 0x0101, true), (Instr.infoFirmware, 0x0102, false), (Instr.infoCapacity, 0x0103, true), (Instr.infoStatus, 0x0104, false), (Instr.infoTime, 0x0105, true)] ++
  [(Instr.partCreate, 0x0201, false), (Instr.partDestroy, 0x0202, false), (Instr.partQuery, 0x0203, false), (Instr.partKeepwarm, 0x0204, false), (Instr.partCounters, 0x0205, false)] ++
  [(Instr.ctxCreate, 0x0301, true), (Instr.ctxRemove, 0x0302, true), (Instr.ctxSet, 0x0303, true), (Instr.ctxRebind, 0x0304, true), (Instr.ctxQuery, 0x0305, true),
   (Instr.ctxShedlog, 0x0306, true)] ++
  [(Instr.planLoad, 0x0401, false), (Instr.planBind, 0x0402, false), (Instr.planUnload, 0x0403, false), (Instr.planInfo, 0x0404, false)] ++
  [(Instr.visParams, 0x0501, true), (Instr.visCounters, 0x0502, true)] ++
  [(Instr.vidDecodeOpen, 0x0601, true), (Instr.vidEncodeOpen, 0x0602, true), (Instr.vidFacing, 0x0603, true), (Instr.vidForceIdr, 0x0604, true), (Instr.vidFlush, 0x0605, true),
   (Instr.vidQuery, 0x0606, true), (Instr.vidCores, 0x0607, false)] ++
  [(Instr.srvOpen, 0x0701, true), (Instr.srvSampling, 0x0702, true), (Instr.srvPause, 0x0703, true), (Instr.srvCancel, 0x0704, true), (Instr.srvQuery, 0x0705, true)] ++
  [(Instr.pwrCap, 0x0801, false), (Instr.pwrProfile, 0x0802, false), (Instr.pwrStatus, 0x0803, false), (Instr.pwrShutdown, 0x0804, false)] ++
  [(Instr.thermStatus, 0x0901, false), (Instr.thermCourse, 0x0902, false), (Instr.thermHbm, 0x0903, false)] ++
  [(Instr.fltSummary, 0x0A01, false), (Instr.fltTest, 0x0A02, false), (Instr.fltUnit, 0x0A03, false), (Instr.fltPierReset, 0x0A04, false)] ++
  [(Instr.secTenantCreate, 0x0B01, false), (Instr.secTenantRemove, 0x0B02, false), (Instr.secTenantQuery, 0x0B03, true), (Instr.secQuota, 0x0B04, false), (Instr.secKeyRetire, 0x0B05, false),
   (Instr.secKeyStatus, 0x0B06, false), (Instr.secLifecycle, 0x0B07, false), (Instr.secFabricBind, 0x0B08, false), (Instr.secAttest, 0x0B09, true)] ++
  [((fun m => .fwStage ⟨m, rd⟩), 0x0C01, false), (Instr.fwActivate, 0x0C02, false), (Instr.fwDiscard, 0x0C03, false), (Instr.profileWrite, 0x0C10, false), (Instr.profileInfo, 0x0C11, false)] ++
  [(Instr.fabPort, 0x0D01, false), (Instr.fabCounters, 0x0D02, false), (Instr.fabPortCtrl, 0x0D03, false), (Instr.fabExport, 0x0D04, false), (Instr.fabImport, 0x0D05, false),
   (Instr.fabUnbind, 0x0D06, false), (Instr.fabStream, 0x0D07, false), (Instr.fabRoute, 0x0D08, false), (Instr.twinStatus, 0x0D80, false), (Instr.twinJoin, 0x0D81, false),
   (Instr.twinHandover, 0x0D82, false)] ++
  [(Instr.logInfo, 0x0E01, false), (Instr.logRead, 0x0E02, false), (Instr.fuseInfo, 0x0E40, false), (Instr.fuseRead, 0x0E41, false)] ++
  [(Instr.modeQuery, 0x0F01, false), (Instr.modeSet, 0x0F02, false), (Instr.modeCompatLock, 0x0F03, false)]

/-- R36, checks 3 to 5, for every mailbox command: a request that fails one is answered with the status of the first that fails, and
nothing else changes. -/
def Obligations.FailedChecksAnswerTheFirst : Prop :=
  ∀ rd, ∀ e ∈ mailboxCommands rd, ∀ (s : State) (m : Mb) (r : Req) (st : Nat), s.stopped m e.2.1 e.2.2 = some (r, st) →
    exec (e.1 m) s = .next ((s.taken m).respond m e.2.1 r.tag { status := st })

/-- R41: the information commands answer OK with the fields of their table and have no effect beside the answer; any LEN other than 0
is answered BAD_ARG. -/
def Obligations.InformationCommandsAnswer : Prop :=
  ∀ (s : State) (m : Mb) (r : Req),
    (s.runs m 0x0101 true = some r → r.len = 0 → ∃ x, exec (.infoIdentity m) s = .next ((s.taken m).respond m 0x0101 r.tag (okR x)) ∧
      x.length = 32 ∧ slice x 0 16 = [0x41, 0x4D, 0x5A, 0x2D, 0x34, 0x50, 0x38, 0x48, 0x2D, 0x41, 0, 0, 0, 0, 0, 0] ∧
      slice x 16 8 = leBytes 8 s.sec.serial ∧ slice x 0x18 3 = [0xB1, 0x43, BitVec.ofNat 8 s.sec.life] ∧
      slice x 0x1B 5 = leBytes 1 s.fw.iface ++ leBytes 2 s.moduleIdWord ++ leBytes 1 s.twin.role ++ leBytes 1 (r.vf.getD 0xFF)) ∧
    (s.runs m 0x0102 false = some r → r.len = 0 → ∃ x, exec (.infoFirmware m) s = .next ((s.taken m).respond m 0x0102 r.tag (okR x)) ∧
      x.length = 80 ∧ ∀ k, k < 5 → field x (16 * k) 1 = k ∧ slice x (16 * k + 4) 4 = leBytes 4 (s.activeImage k).version ∧
        slice x (16 * k + 12) 1 = leBytes 1 (s.activeImage k).epoch) ∧
    (s.runs m 0x0103 true = some r → r.len = 0 → ∃ x, exec (.infoCapacity m) s = .next ((s.taken m).respond m 0x0103 r.tag (okR x)) ∧
      x.length = 28 ∧ (∀ c, c < 16 → x.getD c 0 = BitVec.ofNat 8 (s.course c).active) ∧ slice x 0x10 2 = leBytes 2 (128 - s.parts.length) ∧
      (∀ v, r.vf = some v → slice x 0x16 2 = leBytes 2 (768 - s.slotsBound v) ∧ slice x 0x18 4 = leBytes 4 (s.quotaLeft v / 2 ^ 20)) ∧
      (r.vf = none → slice x 0x16 2 = slice x 0x12 2 ∧ slice x 0x18 4 = leBytes 4 (2 * s.freeFrames))) ∧
    (s.runs m 0x0104 false = some r → r.len = 0 → ∃ x, exec (.infoStatus m) s = .next ((s.taken m).respond m 0x0104 r.tag (okR x)) ∧
      x.length = 20 ∧ slice x 0 4 = leBytes 4 s.modState ∧ slice x 4 2 = leBytes 2 s.power.capW ∧ slice x 8 1 = leBytes 1 s.fw.tenancy ∧
      slice x 12 8 = leBytes 8 (s.now - s.power.resetAt)) ∧
    (s.runs m 0x0105 true = some r → r.len = 0 → ∃ x, exec (.infoTime m) s = .next ((s.taken m).respond m 0x0105 r.tag (okR x)) ∧
      x.length = 12 ∧ slice x 0 8 = leBytes 8 s.now ∧ (s.fab.timeState = 0 → slice x 8 4 = [0, 0, 0xFF, 0xFF])) ∧
    (∀ e ∈ [((fun m => .infoIdentity m : Mb → Instr), 0x0101, true), (fun m => .infoFirmware m, 0x0102, false), (fun m => .infoCapacity m, 0x0103, true),
        (fun m => .infoStatus m, 0x0104, false), (fun m => .infoTime m, 0x0105, true)],
      s.runs m e.2.1 e.2.2 = some r → r.len ≠ 0 → exec (e.1 m) s = .next ((s.taken m).respond m e.2.1 r.tag { status := St.badArg }))

/-- R22, R94, R99, R100: creating a partition. On powered Piers it takes the first free legal place and the lowest free number and is
EMPTY at once; on an unpowered Pier the command is ACCEPTED and the Pier powers up; the end of the power-up makes the Pier powered. -/
def Obligations.PartitionsAreCreatedInPlace : Prop :=
  (∀ (s : State) (m : Mb) (r : Req) (x : Part) (id : Nat), s.runs m 0x0201 false = some r → r.len = 8 → r.u16 6 = 0 →
    r.u8 0 < 64 → s.tenantOpen (r.u8 0) = true → r.u8 1 < 8 → r.u8 5 = 0 → placeLegal (r.u8 1) (r.u8 2) (r.u8 3) (r.u8 4) = true →
    s.findPlace (r.u8 0) (r.u8 1) (r.u8 2) (r.u8 3) (r.u8 4) = some x → leastBelow 128 (fun i => !s.parts.has i) = some id →
    (∀ p ∈ x.piers, (s.pier p).powered = true ∧ (s.pier p).powering = false) →
    exec (.partCreate m) s = .next ((({ s.taken m with
      parts := s.parts.set id { x with keepwarm := false, powering := false, busyAt := s.now } }).respond m 0x0201 r.tag
        (okR (leBytes 2 id ++ leBytes 1 x.pier ++ leBytes 1 x.course ++ leBytes 1 x.slot ++ leBytes 1 (boolN (decide (8 < x.size))) ++ [0, 0]))))) ∧
  (∀ (s : State) (m : Mb) (r : Req) (x : Part) (id : Nat), s.runs m 0x0201 false = some r → r.len = 8 → r.u16 6 = 0 →
    r.u8 0 < 64 → s.tenantOpen (r.u8 0) = true → r.u8 1 < 8 → r.u8 5 < 2 → placeLegal (r.u8 1) (r.u8 2) (r.u8 3) (r.u8 4) = true →
    s.findPlace (r.u8 0) (r.u8 1) (r.u8 2) (r.u8 3) (r.u8 4) = some x → leastBelow 128 (fun i => !s.parts.has i) = some id →
    (∀ p ∈ x.piers, (s.pier p).powering = false) → (∃ p ∈ x.piers, (s.pier p).powered = false) → s.mason.lastOp + 1 < 2 ^ 32 →
    ∃ t : State, exec (.partCreate m) s = .next (t.respond m 0x0201 r.tag { status := 0x01, arg := s.mason.lastOp + 1, payload := partReply id x }) ∧
      t.parts = s.parts.set id { x with keepwarm := r.u8 5 == 1, powering := true, busyAt := s.now } ∧
      t.mason.lastOp = s.mason.lastOp + 1 ∧ t.mason.ops = s.mason.ops ++ [⟨s.mason.lastOp + 1, r.mb, r.code, r.tag, .partCreate id x.pier⟩]) ∧
  (∀ (s : State) (p : Nat), s.up = true → (s.pier p).powering = true → (∀ q ∈ s.parts, q.2.powering = false) →
    exec (.pierPowerUpDone p) s = .next (s.updPier p fun x => { x with powering := false, powered := true, hbmBusyAt := s.now }))

/-- R94, R99, R100, R101: the other partition commands. A partition with a context bound is not destroyed; one with a running batch is
CLOSING and the command ACCEPTED; an idle one is gone at once, and every other partition stays. PART_QUERY and PART_COUNTERS report
and change nothing; PART_KEEPWARM turns keep-warm off from now. A number that names no partition is BAD_ARG. -/
def Obligations.PartitionCommandsAct : Prop :=
  ∀ (s : State) (m : Mb) (r : Req), r.len = 4 →
    (s.runs m 0x0202 false = some r → r.u16 2 = 0 → ∀ x, s.part? (r.u16 0) = some x → s.held (1, r.u16 0) = false → s.boundCtxs (r.u16 0) ≠ [] →
      exec (.partDestroy m) s = .next ((s.taken m).respond m 0x0202 r.tag { status := 0x04, detail := 1 })) ∧
    (s.runs m 0x0202 false = some r → r.u16 2 = 0 → ∀ x, s.part? (r.u16 0) = some x → s.held (1, r.u16 0) = false → s.boundCtxs (r.u16 0) = [] →
      x.job ≠ none → s.mason.lastOp + 1 < 2 ^ 32 →
      ∃ t : State, exec (.partDestroy m) s = .next (t.respond m 0x0202 r.tag { status := 0x01, arg := s.mason.lastOp + 1 }) ∧
        t.part? (r.u16 0) = some { x with state := 3 } ∧ t.mem = s.mem ∧ t.ctxs = s.ctxs) ∧
    (s.runs m 0x0202 false = some r → r.u16 2 = 0 → ∀ x, s.part? (r.u16 0) = some x → s.held (1, r.u16 0) = false → s.boundCtxs (r.u16 0) = [] →
      x.job = none → (∀ k ∈ x.courses, (s.course k).reqs = []) →
      ∃ t : State, exec (.partDestroy m) s = .next (t.respond m 0x0202 r.tag (okR [])) ∧ t.part? (r.u16 0) = none ∧
        (∀ p, p ≠ r.u16 0 → t.part? p = s.part? p) ∧ t.ctxs = s.ctxs ∧ t.plans = s.plans ∧ t.mem.hbm = s.mem.hbm) ∧
    (s.runs m 0x0203 false = some r → r.u16 2 = 0 → ∀ x, s.part? (r.u16 0) = some x →
      exec (.partQuery m) s = .next ((s.taken m).respond m 0x0203 r.tag (okR (leBytes 1 x.tenant ++ leBytes 1 x.sizeLog2 ++ leBytes 1 x.state ++
        leBytes 1 (boolN x.keepwarm) ++ leBytes 1 (boolN (decide (8 < x.size))) ++ leBytes 1 (match s.planOf x with | some pl => pl.flags % 2 | none => 0) ++
        [0, 0] ++ leBytes 4 (x.plan.getD 0) ++ leBytes 4 0 ++ leBytes 8 x.ctr.boundaries ++ s.partMap x)))) ∧
    (s.runs m 0x0204 false = some r → field r.pay 3 1 = 0 → ∀ x, s.part? (r.u16 0) = some x → r.u8 2 = 0 → s.held (1, r.u16 0) = false → x.keepwarm = false →
      exec (.partKeepwarm m) s = .next (((s.taken m).updPart (r.u16 0) fun x => { x with keepwarm := false }).respond m 0x0204 r.tag (okR []))) ∧
    (s.runs m 0x0204 false = some r → field r.pay 3 1 = 0 → ∀ x, s.part? (r.u16 0) = some x → r.u8 2 = 1 → s.held (1, r.u16 0) = false →
      ∃ t : State, exec (.partKeepwarm m) s = .next (t.respond m 0x0204 r.tag (okR [])) ∧ t.part? (r.u16 0) = some { x with keepwarm := true } ∧
        (x.powering = false → s.therm.quench = false → s.power.hold = false → s.power.floor = false → (∀ k ∈ x.courses, (s.pier (k / 4)).resetting = false) →
          ∀ k ∈ x.courses, 1 ≤ (t.course k).power)) ∧
    (s.runs m 0x0205 false = some r → r.u16 2 = 0 → ∀ x, s.part? (r.u16 0) = some x →
      exec (.partCounters m) s = .next ((s.taken m).respond m 0x0205 r.tag (okR (leBytes 4 x.ctr.convSat ++ leBytes 4 x.ctr.convNonfinite ++
        leBytes 4 x.ctr.nanFlush ++ leBytes 4 x.ctr.underflow ++ leBytes 4 x.ctr.accSat ++ leBytes 4 x.ctr.accWrap ++ leBytes 4 x.ctr.accNonfinite ++
        leBytes 4 0 ++ leBytes 8 x.ctr.boundaries ++ leBytes 4 x.ctr.restarts ++ leBytes 4 x.ctr.planErrors ++ leBytes 4 x.ctr.rotations ++
        leBytes 4 x.ctr.wakes ++ leBytes 8 x.ctr.tapsElided ++ leBytes 8 x.ctr.rowcolSkipped)))) ∧
    (s.runs m 0x0203 false = some r → r.u16 2 = 0 → s.part? (r.u16 0) = none →
      exec (.partQuery m) s = .next ((s.taken m).respond m 0x0203 r.tag { status := St.badArg }))

/-- R98, R100, R101, R112, R123, R354: the plan-image commands. PLAN_LOAD is ACCEPTED and gives the next PLAN_ID; it holds a set of an internal
channel, which runs it while no Hold pauses it (log 124). A complete read of an image that passes every check places it and ends the command with OK; a failed read ends it with BAD_ARG and the channel's error code and is
reported by AER, and no image is kept; PLAN_BIND makes an EMPTY partition IDLE with the plan; PLAN_UNLOAD refuses while a partition
holds the plan and else removes it; PLAN_INFO reports the header. -/
def Obligations.PlanImageCommandsAct : Prop :=
  (∀ (s : State) (m : Mb) (r : Req), s.runs m 0x0401 false = some r → r.len = 24 → field r.pay 1 7 = 0 → r.u8 0 < 64 → s.tenantOpen (r.u8 0) = true →
    r.u64 8 % 4096 = 0 → 128 ≤ r.u64 0x10 → r.u64 0x10 ≤ 2 ^ 40 → s.mason.lastOp + 1 < 2 ^ 32 → s.lastPlan + 1 < 2 ^ 32 →
    ∃ t : State, exec (.planLoad m) s = .next (t.respond m 0x0401 r.tag { status := 0x01, arg := s.mason.lastOp + 1, payload := leBytes 4 (s.lastPlan + 1) }) ∧
      t.lastPlan = s.lastPlan + 1 ∧ t.mason.lastOp = s.mason.lastOp + 1 ∧
      t.mason.ops = s.mason.ops ++ [⟨s.mason.lastOp + 1, r.mb, r.code, r.tag, .planLoad (s.lastPlan + 1) (r.u8 0) (r.u64 8) (r.u64 0x10)⟩] ∧
      t.plans = s.plans ∧ t.mem = s.mem ∧ t.sec = s.sec) ∧
  (∀ (s u s1 w : State) (op : Nat) (o : PendingOp) (id t a n : Nat) (pl : Plan), s.op? op = some o → o.kind = .planLoad id t a n →
    s.therm.quench = false → u = s.syncSets → u.intRuns (.op op) = true → s.tenantOpen t = true → checkImage s.masonVersion s.broup (s.hostReadN a n) = none →
    u.placePlan (mkPlan t (s.hostReadN a n) ((secEnts (s.hostReadN a n)).map (secOf (s.hostReadN a n)))) (s.hostReadN a n) = some (pl, s1) →
    s.hbmServes ((s.loadImage op id t (s.hostReadN a n)).planStacks id) = true → w = ({ s1 with plans := s1.plans.set id pl } : State).finishOp op 0x00 →
    exec (.planLoadComplete op .ok) s = .next (w.touchStacks (w.planStacks id)).syncSets) ∧
  (∀ (s u : State) (op : Nat) (o : PendingOp) (id t a n c i : Nat), s.op? op = some o → o.kind = .planLoad id t a n → s.therm.quench = false →
    u = s.syncSets → u.intRuns (.op op) = true → o.mb = ⟨.pf, i⟩ →
    ∃ v : State, exec (.planLoadComplete op (.err c)) s = .next v ∧ exec (.internalReadFail op c) s = .next v ∧ v.plans = s.plans ∧ v.mem.hbm = s.mem.hbm ∧
      v.mem.frames = s.mem.frames ∧ v.host.aer = c :: s.host.aer ∧ v.mason.ops = s.mason.ops.filter (fun p => p.opId != op) ∧
      (s.host.eq.full = false → v.host.eq.entries.find? s.host.eq.prod =
        some (eventBytes 0x0101 0 8 i s.now (leBytes 2 o.code ++ leBytes 1 0x06 ++ leBytes 1 c ++ leBytes 4 o.tag ++ leBytes 4 op)))) ∧
  (∀ (s : State) (op : Nat) (f : State → State), (s.syncSets.intRuns (.op op) = true → s.intDone (.op op) f = (f s.syncSets).syncSets) ∧
    (s.syncSets.intRuns (.op op) = false → s.intDone (.op op) f = s) ∧
    (∀ o ∈ s.mason.ops, o.opId = op → o.intJob = some (.op op) → s.up = true → s.power.hold = false → s.intJobs = [.op op] →
      (∃ k, k < 32 ∧ s.mem.intRetired.contains k = false) → s.syncSets.intRuns (.op op) = true)) ∧
  (∀ (s : State) (m : Mb) (r : Req) (x : Part) (pl : Plan), s.runs m 0x0402 false = some r → r.len = 8 → r.u16 2 = 0 → s.part? (r.u16 0) = some x →
    s.plan? (r.u32 4) = some pl → x.tenant = pl.tenant → s.held (1, r.u16 0) = false → s.boundCtxs (r.u16 0) = [] → (∀ c ∈ s.ctxs, c.2.rebind ≠ some (r.u16 0)) → bitOf pl.sizeMask x.sizeLog2 = true →
    sizeFits pl.sramBytes pl.cbufBytes pl.semaphores x.sizeLog2 = true →
    exec (.planBind m) s = .next (((s.taken m).updPart (r.u16 0) fun y => { y with plan := some (r.u32 4), state := 1, ordinal := 0 }).respond m 0x0402 r.tag (okR []))) ∧
  (∀ (s : State) (m : Mb) (r : Req), s.runs m 0x0403 false = some r → r.len = 4 → s.plans.has (r.u32 0) = true → s.planBound (r.u32 0) ≠ 0 →
    exec (.planUnload m) s = .next ((s.taken m).respond m 0x0403 r.tag { status := 0x04, detail := 3 })) ∧
  (∀ (s : State) (m : Mb) (r : Req), s.runs m 0x0403 false = some r → r.len = 4 → s.plans.has (r.u32 0) = true → s.planBound (r.u32 0) = 0 →
    ∃ t : State, exec (.planUnload m) s = .next (t.respond m 0x0403 r.tag (okR [])) ∧ t.plan? (r.u32 0) = none ∧ (∀ k, k ≠ r.u32 0 → t.plan? k = s.plan? k) ∧
      t.parts = s.parts ∧ t.ctxs = s.ctxs) ∧
  (∀ (s : State) (m : Mb) (r : Req) (pl : Plan), s.runs m 0x0404 false = some r → r.len = 4 → s.plan? (r.u32 0) = some pl →
    exec (.planInfo m) s = .next ((s.taken m).respond m 0x0404 r.tag
      (okR (slice pl.header 0 64 ++ slice pl.header 0x40 48 ++ leBytes 1 pl.tenant ++ leBytes 1 (s.planBound (r.u32 0)) ++ [0, 0]))))

/-- R93, R111, R245: Course power and HBM self-refresh. A Course with no work and no keep-warm for 2 ms is gated; a wake leaves it Warm,
with the reference stored, and counts in WAKES of the partition that caused it; a Pier idle for 1 ms enters self-refresh. -/
def Obligations.CoursesGateAndWake : Prop :=
  (∀ (s : State) (c : Nat), s.up = true → c < 16 → (s.course c).power ≠ 0 → (s.course c).waking = none → (∀ q ∈ s.parts, q.2.hasCourse c = false) →
    s.power.hold = false → s.power.floor = false → 50000 ≤ s.now - (s.course c).busyAt →
    exec (.courseGate c) s = .next (s.updCourse c fun k => { k with power := 0, gatedAt := s.now })) ∧
  (∀ (s : State) (c p : Nat) (ref : Int) (x : Part), s.up = true → (s.course c).waking = some p → s.part? p = some x → s.therm.quench = false → s.power.hold = false →
    (s.pier (c / 4)).powered = true → (s.pier (c / 4)).resetting = false →
    ∃ t, exec (.courseWake c ref) s = .next t ∧ (t.course c).power = max 1 (s.course c).power ∧ (t.course c).waking = none ∧ (t.course c).refTemp = ref ∧
      t.part? p = some { x with ctr := { x.ctr with wakes := min 0xFFFFFFFF (x.ctr.wakes + 1) } } ∧ (∀ k, k ≠ c → t.course k = s.course k)) ∧
  (∀ (s : State) (p : Nat), s.up = true → p < 4 → (s.pier p).selfRefresh = false →
    (s.parts.any fun r => r.2.piers.contains p && r.2.job.isSome) = false → 25000 ≤ s.now - (s.pier p).hbmBusyAt →
    exec (.hbmSelfRefreshEntry p) s = .next (s.updPier p fun q => { q with selfRefresh := true }))

/-- R79, R80, R83: an instruction that issues writes its result and moves the pc by 8. SCALAR computes on 64-bit G registers, ADDR on
48-bit A registers. TEMPLATE joins its unit's queue of 16, stalls while that is full and the oldest may not run, and loads its port when it
runs. G0 reads as zero and ignores writes. Nothing else changes, but for the error codes of R85. -/
def Obligations.ScalarAndAddressInstructionsRetire : Prop :=
  (∀ (s : State) (a : Ash) (p : Part) (c : Chisel) (op : ScalarOp) (rd rs rt : Nat) (v : W64), s.issues a 0 = some (p, c) → rd < 32 → rs < 32 → rt < 32 →
    (op = .add ∧ v = c.gr rs + c.gr rt) ∨ (op = .sub ∧ v = c.gr rs - c.gr rt) ∨ (op = .mul ∧ v = c.gr rs * c.gr rt) ∨
      (op = .and ∧ v = c.gr rs &&& c.gr rt) ∨ (op = .or ∧ v = c.gr rs ||| c.gr rt) ∨ (op = .xor ∧ v = c.gr rs ^^^ c.gr rt) ∨
      (op = .shl ∧ (c.gr rt).toNat < 64 ∧ v = c.gr rs <<< (c.gr rt).toNat) ∨ (op = .shr ∧ (c.gr rt).toNat < 64 ∧ v = c.gr rs >>> (c.gr rt).toNat) ∨
      (op = .sar ∧ (c.gr rt).toNat < 64 ∧ v = (c.gr rs).sshiftRight (c.gr rt).toNat) ∨ (op = .eq ∧ v = if c.gr rs = c.gr rt then 1 else 0) ∨
      (op = .lt ∧ v = if (c.gr rs).toInt < (c.gr rt).toInt then 1 else 0) ∨ (op = .ltu ∧ v = if (c.gr rs).toNat < (c.gr rt).toNat then 1 else 0) →
    exec (.scalar a op rd rs rt) s = .next (s.updChisel a.part a.slot fun c => { c.setG rd v with pc := c.pc + 8 })) ∧
  (∀ (s : State) (a : Ash) (p : Part) (c : Chisel) (rd rs rt : Nat), s.issues a 0 = some (p, c) → rd < 32 → rs < 32 → rt < 32 → 64 ≤ (c.gr rt).toNat →
    ∀ op ∈ [ScalarOp.shl, .shr, .sar], ∃ v, exec (.scalar a op rd rs rt) s = .next (s.updChisel a.part a.slot fun c => { c.setG rd v with pc := c.pc + 8 })) ∧
  (∀ (s : State) (a : Ash) (p : Part) (c : Chisel) (i j k : Nat), s.issues a 2 = some (p, c) → i < 16 → j < 16 → k < 32 →
    exec (.addr a (.addG i j k)) s = .next (s.updChisel a.part a.slot fun _ => { c.setA i (c.ar j + (c.gr k).toNat) with pc := c.pc + 8 }) ∧
    exec (.addr a (.subG i j k)) s = .next (s.updChisel a.part a.slot fun _ => { c.setA i (c.ar j + 2 ^ 64 - (c.gr k).toNat) with pc := c.pc + 8 }) ∧
    exec (.addr a (.toA i k)) s = .next (s.updChisel a.part a.slot fun _ => { c.setA i (c.gr k).toNat with pc := c.pc + 8 }) ∧
    exec (.addr a (.toG k j)) s = .next (s.updChisel a.part a.slot fun _ => { c.setG k (BitVec.ofNat 64 (c.ar j)) with pc := c.pc + 8 })) ∧
  (∀ (s : State) (a : Ash) (p : Part) (c : Chisel) (port base : Nat) (loops : List Loop) (err : Option HwErr), s.issues a 3 = some (p, c) →
    port < 3 → base < 16 → loops.length ≤ 8 →
    ((c.queueOf 2).length < 16 → exec (.template a port ⟨.nest base loops, err⟩) s = .next (s.updChisel a.part a.slot fun c =>
      { c with units := c.units ++ [⟨c.nextDesc, c.pc, c.a, .template port (.nest base loops) err⟩], nextDesc := c.nextDesc + 1, pc := c.pc + 8 })) ∧
    (16 ≤ (c.queueOf 2).length → s.unitStep a 2 = none → exec (.template a port ⟨.nest base loops, err⟩) s = .next s)) ∧
  (∀ (s : State) (a : Ash) (p : Part) (c : Chisel) (j : UnitJob) (port : Nat) (prog : TemplateProg), s.chiselAt a = some (p, c) →
    (c.queueOf 2).head? = some j → j.op = .template port prog none → s.mayRun p a.slot c j = true →
    ∃ (t : State) (p' : Part), s.unitStep a 2 = some t ∧ t.part? a.part = some p' ∧
      p'.chisel a.slot = { c with units := dropFirst (fun k => k == j) c.units, ports := c.ports.set port ⟨prog⟩ } ∧ t.mem = s.mem ∧ t.tiles = s.tiles) ∧
  (∀ (c : Chisel) (i : Nat) (v : W64), (c.setG i v).gr 0 = 0 ∧ (i ≠ 0 → (c.setG i v).gr i = v) ∧ (∀ k, k ≠ i → (c.setG i v).gr k = c.gr k) ∧
    (c.setG i v).a = c.a ∧ (c.setG i v).acc = c.acc ∧ (c.setG i v).ports = c.ports ∧ c.setG 0 v = c) ∧
  (∀ (c : Chisel) (i v : Nat), (c.setA i v).ar i = v % 2 ^ 48 ∧ (∀ k, k ≠ i → (c.setA i v).ar k = c.ar k) ∧ (c.setA i v).g = c.g)

/-- R83, R85: BRANCH moves the pc to its target where its condition holds and past the instruction where not; a counted branch takes 1
from its counter first (log 30). A target outside the code section is plan error PE_CODE. -/
def Obligations.BranchesMoveThePc : Prop :=
  ∀ (s : State) (a : Ash) (p : Part) (c : Chisel) (i j t : Nat), s.issues a 1 = some (p, c) → i < 32 → j < 32 → t % 8 = 0 →
    (t < s.codeLen p →
      exec (.branch a (.eq i j) t) s = .next (s.updChisel a.part a.slot fun _ => { c with pc := if c.gr i = c.gr j then t else c.pc + 8 }) ∧
      exec (.branch a (.ne i j) t) s = .next (s.updChisel a.part a.slot fun _ => { c with pc := if c.gr i = c.gr j then c.pc + 8 else t }) ∧
      exec (.branch a (.lt i j) t) s = .next (s.updChisel a.part a.slot fun _ => { c with pc := if (c.gr i).toInt < (c.gr j).toInt then t else c.pc + 8 }) ∧
      exec (.branch a (.ge i j) t) s = .next (s.updChisel a.part a.slot fun _ => { c with pc := if (c.gr i).toInt < (c.gr j).toInt then c.pc + 8 else t }) ∧
      exec (.branch a (.counted i) t) s =
        .next (s.updChisel a.part a.slot fun _ => { c.setG i (c.gr i - 1) with pc := if c.gr i - 1 = 0 then c.pc + 8 else t })) ∧
    (s.codeLen p ≤ t → exec (.branch a (.eq i j) t) s = .next (s.planError a.part a.slot 4 c.pc)) ∧
    exec (.branch a .illegal t) s = .next (s.planError a.part a.slot 1 c.pc)

/-- R85: a plan error ends the batch: its code is kept with the job, PLAN_ERROR names partition, code, Ashlar, code offset and job,
the partition's counter rises, and no instruction of the batch issues any more. The first of a batch counts (log 24). Memory, contexts
and fault histories stay: it is no hardware error. -/
def Obligations.PlanErrorsEndTheBatch : Prop :=
  ∀ (s : State) (pid l code off : Nat) (p : Part) (j : Job), s.part? pid = some p → p.job = some j →
    (j.planErr = none →
      ∃ (p' : Part) (e : LogEntry), (s.planError pid l code off).part? pid = some p' ∧ p'.job = some { j with planErr := some code } ∧
        p'.ctr = { p.ctr with planErrors := sat32 p.ctr.planErrors 1 } ∧ p'.chisels = p.chisels ∧ p'.sems = p.sems ∧
        (s.planError pid l code off).flt.log.head? = some e ∧ e.code = 0x0201 ∧ e.part = pid ∧
        e.detail = leBytes 2 pid ++ leBytes 1 code ++ leBytes 1 l ++ leBytes 4 off ++ leBytes 4 j.seq ++ [0, 0, 0, 0] ∧
        (s.planError pid l code off).flt.units = s.flt.units ∧ (s.planError pid l code off).mem = s.mem ∧
        (s.planError pid l code off).tiles = s.tiles ∧ (s.planError pid l code off).ctxs = s.ctxs ∧
        (∀ k, k ≠ pid → (s.planError pid l code off).part? k = s.part? k)) ∧
    (j.planErr ≠ none → s.planError pid l code off = s ∧ ∀ k n, s.issues ⟨pid, k⟩ n = none)

/-- R82, R86: SIG adds to a semaphore, in Coursed ordering once the Ashlar's earlier writes to the semaphore's Course have landed, in Loose at
once or later; WAIT takes from it once it holds enough and stalls until then, WAITs on one semaphore are granted in
their order, SEMRD reads it. An index at or above the partition's count and a count above 0xFFFF are plan error PE_SEM. -/
def Obligations.SemaphoresCountAndStall : Prop :=
  (∀ (s : State) (a : Ash) (p : Part) (c : Chisel) (k n : Nat), s.issues a 7 = some (p, c) →
    (p.semCount ≤ k → 1 ≤ n → n ≤ 255 → exec (.sig a k n) s = .next (s.planError a.part a.slot 3 c.pc)) ∧
    (p.semCount ≤ k → exec (.wait a k n) s = .next (s.planError a.part a.slot 3 c.pc)) ∧
    (k < p.semCount → 1 ≤ n → n ≤ 255 → p.sems.get 0 k + n ≤ 0xFFFF →
      ∃ (t : State) (p' : Part) (later : Bool) (aft : List Nat), exec (.sig a k n) s = .next t ∧ t.part? a.part = some p' ∧
        p'.sems = (if later then p.sems else p.sems.set k (p.sems.get 0 k + n)) ∧
        p'.chisel a.slot = { c with pc := c.pc + 8, held := c.held ++ if later then [⟨k, n, aft⟩] else [] } ∧
        (p.coursed = true → aft = (c.outstanding.filter fun d => (s.descDests p a.slot d.2).contains (p.semCourse k)).map Prod.fst ∧ (later = true ↔ aft ≠ [])) ∧
        (p.coursed = false → aft = []) ∧
        p'.job = p.job ∧ p'.waits = p.waits ∧ t.mem = s.mem ∧ t.tiles = s.tiles ∧ (∀ q, q ≠ a.part → t.part? q = s.part? q)) ∧
    (k < p.semCount → n ≤ p.sems.get 0 k → (∀ w ∈ p.waits, w.1 ≠ k) →
      ∃ (t : State) (p' : Part), exec (.wait a k n) s = .next t ∧ t.part? a.part = some p' ∧ p'.sems = p.sems.set k (p.sems.get 0 k - n) ∧
        p'.chisel a.slot = { c with pc := c.pc + 8 } ∧ p'.waits = p.waits ∧ p'.job = p.job ∧ (∀ q, q ≠ a.part → t.part? q = s.part? q)) ∧
    (k < p.semCount → (p.sems.get 0 k < n ∨ ∃ w ∈ p.waits, w.1 = k) →
      ∃ (t : State) (p' : Part), exec (.wait a k n) s = .next t ∧ t.part? a.part = some p' ∧ p'.sems = p.sems ∧
        p'.chisel a.slot = { c with stall := .onSem k n } ∧ p'.waits = p.waits ++ [(k, a.slot, n)] ∧ ∀ m, t.issues a m = none) ∧
    (∀ rd, rd < 32 → k < p.semCount → exec (.semrd a rd k) s =
      .next (s.updChisel a.part a.slot fun c => { c.setG rd (BitVec.ofNat 64 (p.sems.get 0 k)) with pc := c.pc + 8 }))) ∧
  (∀ (s u : State) (pid : Nat) (p0 p : Part) (j : Job) (k l n : Nat) (rest : List (Nat × Nat × Nat)), s.part? pid = some p0 → p0.job = some j →
    j.planErr = none → s.tilesRun p0 = true → u = s.landAll pid k → u.part? pid = some p → p.waits = (k, l, n) :: rest → n ≤ p.sems.get 0 k →
    ∃ (t : State) (p' : Part), exec (.waitGrant pid k) s = .next t ∧ t.part? pid = some p' ∧ p'.sems = p.sems.set k (p.sems.get 0 k - n) ∧
      p'.waits = rest ∧ p'.chisel l = { p.chisel l with stall := .run, pc := (p.chisel l).pc + 8 } ∧ (∀ i, i ≠ l → p'.chisel i = p.chisel i) ∧
      p'.job = p.job) ∧
  (∀ (s : State) (pid k : Nat) (p : Part), s.part? pid = some p → (∀ l, (p.chisel l).held = []) →
    ∃ p', (s.landAll pid k).part? pid = some p' ∧ p'.sems = p.sems ∧ p'.waits = p.waits ∧ p'.job = p.job ∧ ∀ l, p'.chisel l = p.chisel l)

/-- R84, R87: a fence whose condition holds lets the Chisel go on, and one whose condition does not stalls it until its units have run their
queues, its SIGs have landed and the condition holds. A fence's condition holds where those below it hold and no access is outstanding. BNDRY
retires once the Ashlar's units, handoffs and SIGs have completed, and the Chisel then issues nothing; a second BNDRY is PE_DOUBLE. EMIT
stages its bytes for an image. -/
def Obligations.FencesAndBoundaryMarkers : Prop :=
  (∀ (s : State) (a : Ash) (p : Part) (c : Chisel), s.issues a 8 = some (p, c) → ∀ e ∈ [((fun a => .fenceL a : Ash → Instr), 0), (fun a => .fenceC a, 1), (fun a => .fenceP a, 2), (fun a => .fenceH a, 3)],
    (s.fenceHolds p a.slot e.2 c = true → exec (e.1 a) s = .next (s.updChisel a.part a.slot fun c => { c with pc := c.pc + 8 })) ∧
    (s.fenceHolds p a.slot e.2 c = false → exec (e.1 a) s = .next (s.updChisel a.part a.slot fun c => { c with stall := .onFence e.2 }))) ∧
  (∀ (s : State) (p : Part) (l f : Nat) (c : Chisel), (c.units = [] → c.outstanding = [] → c.held = [] → s.fenceHolds p l f c = true) ∧
    (s.fenceHolds p l (f + 1) c = true → s.fenceHolds p l f c = true) ∧ (s.fenceHolds p l f c = true → c.units = []) ∧
    (2 ≤ f → s.fenceHolds p l f c = true → c.outstanding = [] ∧ c.held = [])) ∧
  (∀ (s u : State) (a : Ash) (p0 p : Part) (c0 c : Chisel) (f : Nat), s.chiselAt a = some (p0, c0) → c0.stall = .onFence f →
    u = (s.drainUnits a).landLoose a none → u.chiselAt a = some (p, c) →
    (u.fenceHolds p a.slot f c = true → exec (.fenceRelease a) s = .next (u.updChisel a.part a.slot fun c => { c with stall := .run, pc := c.pc + 8 })) ∧
    (u.fenceHolds p a.slot f c = false → exec (.fenceRelease a) s = .next u)) ∧
  (∀ (s u : State) (a : Ash) (p0 p : Part) (c0 c : Chisel), s.chiselAt a = some (p0, c0) → c0.stall = .run → c0.bndry = false →
    u = (s.drainUnits a).landLoose a none → u.issues a 11 = some (p, c) → c.units = [] → c.handoffs = 0 → c.held = [] →
    ∃ t : State, exec (.bndry a) s = .next t ∧ t = u.updChisel a.part a.slot (fun c => { c with bndry := true, pc := c.pc + 8 }) ∧ ∀ k, t.issues a k = none) ∧
  (∀ (s : State) (a : Ash) (p : Part) (c : Chisel), s.chiselAt a = some (p, c) → c.bndry = true →
    exec (.bndry a) s = .next (s.planError a.part a.slot 5 c.pc)) ∧
  (∀ (s : State) (a : Ash) (p : Part) (c : Chisel), s.chiselAt a = some (p, c) → c.units = [] →
    s.drainUnits a = s ∧ s.pumpAsh a = s ∧ (c.held = [] → (s.landLoose a none).mem = s.mem ∧ (s.landLoose a none).tiles = s.tiles ∧
      ∃ p', (s.landLoose a none).part? a.part = some p' ∧ p'.sems = p.sems ∧ p'.job = p.job ∧ ∀ l, p'.chisel l = p.chisel l)) ∧
  (∀ (s : State) (a : Ash) (p : Part) (c : Chisel) (j : Job) (i : Nat) (bs : List Byte), s.issues a 10 = some (p, c) → p.job = some j → bs.length ≤ 32 →
    ∃ (t : State) (p' : Part) (j' : Job), exec (.emit a i bs) s = .next t ∧ t.part? a.part = some p' ∧ p'.job = some j' ∧
      j'.outs = j.outs.upd {} i (fun o => { o with emitted := bs }) ∧ j'.slots = j.slots ∧ j'.planErr = j.planErr ∧
      p'.chisel a.slot = { c with pc := c.pc + 8 } ∧ t.mem = s.mem ∧ t.ctxs = s.ctxs)

/-- R79, R140, R159: a handoff finds what the units have run by then (`pumpAsh`). A Quoin handoff within the Ashlar's reach joins its Pier's queue, waits while that queue holds 64, and the oldest of the
queue runs and leaves its results in the batch. A Riddle handoff leaves the session's logits, which replace those of the same position. -/
def Obligations.HandoffsReachQuoinAndRiddle : Prop :=
  (∀ (s0 s : State) (a : Ash) (p : Part) (c : Chisel) (reg count r image q : Nat) (v : VisionRec) (k : QuoinRec), s = s0.pumpAsh a →
    s.issues a 9 = some (p, c) → (s.geoOf p)[r]? = some (.quoin k) → reg < 16 → s.visionOf p = some v → image < v.batch →
    s.rangeOk p a.slot (c.ar reg) (16 * min count 4096) = true → q = s.quoinPier (p.courseOf a.slot / 4) →
    ((s.pier q).quoin.length < 64 →
      exec (.handoff a (.quoin reg count r image)) s0 =
        .next ((s.updChisel a.part a.slot fun c => { c with handoffs := c.handoffs + 1, pc := c.pc + 8 }).updPier q fun x =>
          { x with quoin := x.quoin ++ [⟨a.part, a.slot, c.ar reg, count, r, image⟩] })) ∧
    (64 ≤ (s.pier q).quoin.length → exec (.handoff a (.quoin reg count r image)) s0 = .next s)) ∧
  (∀ (s0 s : State) (a : Ash) (p : Part) (c : Chisel) (j : Job) (q : ServeRec) (n k reg : Nat) (draft : Bool) (st : StepSlot), s = s0.pumpAsh a →
    s.issues a 9 = some (p, c) →
    p.job = some j → s.serveOf p = some q → reg < 16 → j.steps[n]? = some st → s.rangeOk p a.slot (c.ar reg) (4 * q.vocab) = true →
    ∃ (t : State) (p' : Part) (j' : Job), exec (.handoff a (.riddle n draft k reg)) s0 = .next t ∧ t.part? a.part = some p' ∧ p'.job = some j' ∧
      j'.steps[n]? = some (st.addLogits draft k (s.leWords p a.slot (c.ar reg) q.vocab)) ∧ (∀ i, i ≠ n → j'.steps[i]? = j.steps[i]?) ∧
      p'.chisel a.slot = { c with pc := c.pc + 8 } ∧ t.mem = s.mem) ∧
  (∀ (s0 s : State) (pier : Nat) (h : QuoinJob) (rest : List QuoinJob) (p : Part) (j : Job) (k : QuoinRec), (s0.pier pier).quoin = h :: rest →
    (s0.pier pier).quoinRetired = false → s = s0.pumpPart h.part → s.part? h.part = some p → s.tilesRun p = true → p.job = some j → j.slots[h.image]? = some none →
    (s.geoOf p)[h.qrec]? = some (.quoin k) →
    ∃ (t : State) (p' : Part) (j' : Job) (o : ImageOut), exec (.quoinJob pier none) s0 = .next t ∧ (t.pier pier).quoin = rest ∧
      o = quoinRun (quoinSet k {}) h.count (s.readRange p h.slot h.list (16 * min h.count 4096)) ∧ t.part? h.part = some p' ∧ p'.job = some j' ∧
      j'.outs.get {} h.image = { o with emitted := (j.outs.get {} h.image).emitted } ∧
      p'.chisel h.slot = { p.chisel h.slot with handoffs := (p.chisel h.slot).handoffs - 1 } ∧ t.mem = s.mem) ∧
  (∀ (s : State) (n : Nat) (p : Part), s.part? n = some p → (∀ l, (p.chisel l).units = []) → s.pumpPart n = s)

/-- R63: the integer formats are two's complement, INT16 from -32,768 to 32,767, INT8 from -128 to 127 and INT4 from -8 to 7; UINT8 is
unsigned, from 0 to 255. -/
def Obligations.IntegerFormatsAreTwosComplement : Prop :=
  (∀ n, n < 2 ^ 16 → valDy (elemVal 0x0E (leBytes 2 n) [] 0) = ⟨if n < 2 ^ 15 then (n : Int) else (n : Int) - 2 ^ 16, 0⟩) ∧
  (∀ n, n < 2 ^ 8 → valDy (elemVal 0x0F (leBytes 1 n) [] 0) = ⟨if n < 2 ^ 7 then (n : Int) else (n : Int) - 2 ^ 8, 0⟩) ∧
  (∀ n, n < 2 ^ 8 → valDy (elemVal 0x10 (leBytes 1 n) [] 0) = ⟨(n : Int), 0⟩) ∧
  (∀ n m, n < 2 ^ 4 → m < 2 ^ 4 → valDy (elemVal 0x11 (leBytes 1 (n + 16 * m)) [] 0) = ⟨if n < 8 then (n : Int) else (n : Int) - 16, 0⟩ ∧
    valDy (elemVal 0x11 (leBytes 1 (n + 16 * m)) [] 1) = ⟨if m < 8 then (m : Int) else (m : Int) - 16, 0⟩)

/-- R59: an E8M10 element is bits [31:13] of its 32-bit container, at the positions of FP32; bits [12:0] are ignored when read and zero when
written, so that each value is the FP32 value of the container with bits [12:0] zero. -/
def Obligations.E8M10IsTheTopOfAnFP32Word : Prop :=
  (∀ w, w < 2 ^ 32 →
    (∀ n m e, elemVal 0x02 (leBytes 4 w) [] 0 = .fin n m e → f32Val (BitVec.ofNat 32 (w / 2 ^ 13 * 2 ^ 13)) = .fin n (m * 2 ^ 13) (e - 13)) ∧
    (∀ n, elemVal 0x02 (leBytes 4 w) [] 0 = .inf n → f32Val (BitVec.ofNat 32 (w / 2 ^ 13 * 2 ^ 13)) = .inf n) ∧
    (elemVal 0x02 (leBytes 4 w) [] 0 = .nan → f32Val (BitVec.ofNat 32 (w / 2 ^ 13 * 2 ^ 13)) = .nan)) ∧
  (∀ v, ∃ k, (convRun 0x02 [v]).1 = leBytes 4 (k * 2 ^ 13))

/-- R104: a write of any byte of a line sets the line's tag, a read of a line whose tag is clear gives zero, a write of part of such a line makes
its unwritten bytes zero; clearing tags leaves the array. The boundary point of a partition clears every tag of its tiles and leaves their
arrays, and the Chisels' registers, the semaphores and the waits (R25). -/
def Obligations.SramLinesFollowTheirTags : Prop :=
  (∀ (x : Sram) (a : Nat) (bs : List Byte), Memory.wf x.bytes = true → Memory.wf (sramWriteN x a bs).bytes = true ∧
    (∀ k, sramRead (sramWriteN x a bs) k = if a ≤ k ∧ k < a + bs.length then bs.getD (k - a) 0 else sramRead x k)) ∧
  (∀ (x : Sram) (a : Nat) (b : Byte), (sramWrite x a b).valid.contains (a / 64) = true ∧
    ∀ n, n ≠ a / 64 → (sramWrite x a b).valid.contains n = x.valid.contains n) ∧
  (∀ (x : Sram) (a : Nat), x.valid.contains (a / 64) = false → sramRead x a = 0) ∧
  (∀ (x : Sram) (lo hi a : Nat), (sramInvalidate x lo hi).bytes = x.bytes ∧
    sramRead (sramInvalidate x lo hi) a = if lo ≤ a / 64 ∧ a / 64 < hi then 0 else sramRead x a) ∧
  (∀ (s : State) (pid : Nat) (p : Part), s.part? pid = some p →
    (∃ p', (s.clearPart pid).part? pid = some p' ∧ p'.chisels = [] ∧ p'.sems = [] ∧ p'.waits = [] ∧ p'.job = p.job) ∧
    (∀ l t, l < p.size → s.tileOf p l = some t →
      ((s.clearPart pid).tile t).sram.bytes = (s.tile t).sram.bytes ∧ ∀ a, sramRead ((s.clearPart pid).tile t).sram a = 0) ∧
    (s.clearPart pid).mem.hbm = s.mem.hbm ∧ (s.clearPart pid).ctxs = s.ctxs)

/-- R83, R112, R113, R116: DMA puts a descriptor at the end of its queue, or waits while that holds 32. An active set that has issued its
last request goes on landing while the armed one becomes active (R113); the head enters the free shadow set, and a bad form or address
there is a plan error that moves no byte; a set that is armed while the queue is idle starts. -/
def Obligations.TileDmaQueuesInOrder : Prop :=
  (∀ (s : State) (a : Ash) (p : Part) (c : Chisel) (q : Nat) (d : TileDesc), s.issues a 6 = some (p, c) → q < 2 →
    ((c.queue q).fifo.length < 32 →
      ∃ (t : State) (p' : Part), exec (.dma a q d) s = .next t ∧ t.part? a.part = some p' ∧
        (p'.chisel a.slot).queue q = { c.queue q with fifo := (c.queue q).fifo ++ [(descTag c.nextDesc c.pc, d)] } ∧
        (p'.chisel a.slot).queue (1 - q) = c.queue (1 - q) ∧
        (p'.chisel a.slot).pc = c.pc + 8 ∧ (p'.chisel a.slot).nextDesc = c.nextDesc + 1 ∧ t.mem = s.mem ∧ t.tiles = s.tiles) ∧
    (32 ≤ (c.queue q).fifo.length → exec (.dma a q d) s = .next s)) ∧
  (∀ (x : DmaQueue) (d e : Nat × TileDesc), (x.shadow = some d → x.active = some e → x.landing = none →
      x.turn = { x with landing := some e, active := some d, shadow := none }) ∧
    (x.shadow = none ∨ x.active = none ∨ x.landing ≠ none → x.turn = x)) ∧
  (∀ (s : State) (a : Ash) (p : Part) (c : Chisel) (q g : Nat) (d : TileDesc) (x : DmaQueue) (rest : List (Nat × TileDesc)), s.drainAt a = some (p, c) →
    q < 2 → x = (c.queue q).turn → x.shadow = none → x.fifo = (g, d) :: rest →
    (descLegal d = true → s.descOk p a.slot d = true →
      ∃ (t : State) (p' : Part), exec (.tileDmaShadowLoad a q) s = .next t ∧ t.part? a.part = some p' ∧
        (x.active = none → (p'.chisel a.slot).queue q = { x with fifo := rest, active := some (g, d), shadow := none }) ∧
        (x.active ≠ none → (p'.chisel a.slot).queue q = { x with fifo := rest, shadow := some (g, d) }) ∧
        t.mem = s.mem ∧ t.tiles = s.tiles) ∧
    (descLegal d = false → exec (.tileDmaShadowLoad a q) s =
      .next ((s.updChisel a.part a.slot fun c => c.setQueue q { x with fifo := rest }).planError a.part a.slot 1 (g % 2 ^ 32))) ∧
    (descLegal d = true → s.descOk p a.slot d = false → exec (.tileDmaShadowLoad a q) s =
      .next ((s.updChisel a.part a.slot fun c => c.setQueue q { x with fifo := rest }).planError a.part a.slot 2 (g % 2 ^ 32)))) ∧
  (∀ d : TileDesc, descLegal d = true ↔ d.rsvd = 0 ∧ 1 ≤ d.rowBytes ∧ 1 ≤ d.rows ∧ d.rows ≤ 65536 ∧ d.rowBytes * d.rows ≤ 2 ^ 40 ∧
    ((d.form = 0 ∧ d.rows = 1 ∧ d.rowBytes < 2 ^ 32) ∨ ((d.form = 1 ∨ d.form = 3) ∧ d.rowBytes ≤ 2 ^ 24)))

/-- R86, R114, R116: a descriptor of one row whose source and destination lie in the Ashlar's own SRAM has, at its end, moved each byte of its
row, read whole before it is written, and no other byte; a fill writes zeros. It finds what the units of the partition have run by then
(`pumpPart`), and in Coursed ordering the Ashlar's earlier entries and descriptors to its addresses have completed. Its SEM, where it has one,
is signalled; the armed set of its queue starts. Other tiles, HBM and host memory stay. -/
def Obligations.TileDmaMovesItsBytes : Prop :=
  ∀ (s0 s : State) (a : Ash) (p0 p : Part) (c0 c : Chisel) (q g tt : Nat) (d : TileDesc), s0.drainAt a = some (p0, c0) → q < 2 →
    (c0.queue q).active = some (g, d) → (c0.queue q).landing = none → s0.therm.quench = false → s0.mayLand p0 a.slot c0 g d = true →
    s0.tileOf p0 a.slot = some tt → tt < 144 → s = s0.pumpPart a.part → s.drainAt a = some (p, c) → s.afterUnits p a.slot c g d = true → c.queue q = c0.queue q →
    s.tileOf p a.slot = some tt → Memory.wf (s.tile tt).sram.bytes = true → d.rows = 1 → d.dst + d.rowBytes ≤ 0x300000 → (d.form = 3 ∨ d.src + d.rowBytes ≤ 0x300000) →
    c.held = [] → 0 < d.rowBytes →
    (d.sem = 0xFFFF ∨ (d.sem < p.semCount ∧ p.sems.get 0 d.sem < 0xFFFF)) →
    ∃ (t : State) (p' : Part), exec (.tileDmaDescriptorDone a q none) s0 = .next t ∧
      (∀ k, sramRead (t.tile tt).sram k = if d.dst ≤ k ∧ k < d.dst + d.rowBytes then (if d.form = 3 then 0 else sramRead (s.tile tt).sram (d.src + (k - d.dst)))
        else sramRead (s.tile tt).sram k) ∧
      (∀ u, u ≠ tt → t.tile u = s.tile u) ∧ t.mem = s.mem ∧ t.part? a.part = some p' ∧
      p'.sems = (if d.sem = 0xFFFF then p.sems else p.sems.set d.sem (p.sems.get 0 d.sem + 1)) ∧
      (p'.chisel a.slot).queue q = { c.queue q with active := (c.queue q).shadow, shadow := none } ∧ p'.job = p.job

/-- R65 to R76, R79, R83, R86: BED and DRESS. An instruction joins its unit's queue of 16, with the A registers as they stand, and the Chisel
goes on; while the queue is full it stalls until the unit has run its oldest entry. A unit runs its entries in their order: one whose operands
are legal and within the Ashlar's reach leaves what it computes and counts; one whose operands are not is a plan error, PE_ILLEGAL or PE_ADDR.
Among them: a readout without conversion stores the accumulators as little-endian words, loading initial values sets them, and a row sum
stores one FP32 word. An error that the unit reports marks the job (R255, R258). -/
def Obligations.BedAndDressingOperations : Prop :=
  (∀ (s : State) (a : Ash) (p : Part) (c : Chisel), (∀ op err, s.issues a 4 = some (p, c) →
      ((c.queueOf 0).length < 16 → exec (.bed a op err) s = .next (s.updChisel a.part a.slot fun c =>
        { c with units := c.units ++ [⟨c.nextDesc, c.pc, c.a, .bed op err⟩], nextDesc := c.nextDesc + 1, pc := c.pc + 8 })) ∧
      (16 ≤ (c.queueOf 0).length → s.unitStep a 0 = none → exec (.bed a op err) s = .next s)) ∧
    (∀ op err, s.issues a 5 = some (p, c) →
      ((c.queueOf 1).length < 16 → exec (.dress a op err) s = .next (s.updChisel a.part a.slot fun c =>
        { c with units := c.units ++ [⟨c.nextDesc, c.pc, c.a, .dress op err⟩], nextDesc := c.nextDesc + 1, pc := c.pc + 8 })) ∧
      (16 ≤ (c.queueOf 1).length → s.unitStep a 1 = none → exec (.dress a op err) s = .next s))) ∧
  (∀ (s u : State) (a : Ash) (p : Part) (c : Chisel) (j : UnitJob), s.chiselAt a = some (p, c) → s.mayRun p a.slot c j = true →
    u = s.updChisel a.part a.slot (fun x => { x with units := dropFirst (fun k => k == j) x.units }) →
    (∀ op s1 c1 f, (c.queueOf 0).head? = some j → u.bedOp p a.slot { c with a := j.a } op = .ok (s1, c1, f) →
      (j.op = .bed op none → s.unitStep a 0 =
        some ((s1.updChisel a.part a.slot fun x => { x with acc := c1.acc, stat := c1.stat }).updPartCtr a.part f)) ∧
      ∀ n, j.op = .bed op (some (.residue n)) → s.unitStep a 0 =
        some (((s1.updChisel a.part a.slot fun x => { x with acc := c1.acc, stat := c1.stat }).updPartCtr a.part f).ashlarError a.part p a.slot 3 n (32 + n % 128 / 8))) ∧
    (∀ op e, (c.queueOf 0).head? = some j → j.op = .bed op none → u.bedOp p a.slot { c with a := j.a } op = .error e →
      s.unitStep a 0 = some (u.planError a.part a.slot e j.pc)) ∧
    (∀ op s1 f, (c.queueOf 1).head? = some j → u.dressOp p a.slot { c with a := j.a } op = .ok (s1, f) →
      (j.op = .dress op none → s.unitStep a 1 = some (s1.updPartCtr a.part f)) ∧
      ∀ n, j.op = .dress op (some (.residue n)) → s.unitStep a 1 =
        some ((s1.updPartCtr a.part f).ashlarError a.part p a.slot 3 n (48 + n % 256 / 32))) ∧
    (∀ op e, (c.queueOf 1).head? = some j → j.op = .dress op none → u.dressOp p a.slot { c with a := j.a } op = .error e →
      s.unitStep a 1 = some (u.planError a.part a.slot e j.pc))) ∧
  (∀ (s : State) (p : Part) (l : Nat) (c : Chisel),
    (∀ int entry cols r sc, entry < 64 → 1 ≤ cols → cols ≤ 128 → r < 16 → sc < 16 → s.unitOk p l false (c.ar r) (4 * cols) = true →
      s.bedOp p l c (.readout int entry cols 0 r sc) =
        .ok (s.writeRange p l (c.ar r) ((List.range cols).map fun j => leBytes 4 (c.accAt j entry).toNat).flatten, c, id)) ∧
    (∀ int entry r, entry < 64 → r < 16 → s.unitOk p l false (c.ar r) 4 = true →
      s.bedOp p l c (.start int entry 1 r none) =
        .ok (s, c.setAcc 0 entry (match s.planOf p with | some pl => if bitOf pl.flags 0 then 0 else word32 (s.readRange p l (c.ar r) 4) 0 | none => word32 (s.readRange p l (c.ar r) 4) 0),
          accEvents int (match s.planOf p with | some pl => bitOf pl.flags 2 | none => false) 0)) ∧
    (∀ n r dst, 1 ≤ n → n ≤ 262144 → r < 16 → dst < 16 → s.unitOk p l false (c.ar r) (4 * n) = true → s.unitOk p l false (c.ar dst) 4 = true →
      s.dressOp p l c (.rowSum n r dst) = .ok (s.writeRange p l (c.ar dst)
        (leBytes 4 (rowSum ((List.range n).map fun i => word32 (s.readRange p l (c.ar r) (4 * n)) (4 * i))).toNat), id)) ∧
    (∀ ctrl src entry, c.stat = none → ∃ e, s.bedOp p l c (.stream ctrl src entry) = .error e))

/-- R80, R145, R154, R262: BATCH_START and BATCH_FILL_TIMEOUT form and start the next job of a partition that may start one and has no lead and no
restart waiting; on a module in no pair with nothing to shed, a vision batch takes the next job ordinal, has BATCH slots, and every Chisel takes
its preload: G1 its slot, G2 the partition's size, G3 the SEQ of the first item, pc 0, no semaphore counts and no waits. While the oldest image has not waited its FILL_US the
timeout has no effect. A job marked by an error starts again before any other, with the same items. -/
def Obligations.BatchesStartWithPreloadedChisels : Prop :=
  ∀ (s : State) (pid : Nat) (p : Part) (pl : Plan) (v : VisionRec), s.part? pid = some p → s.planOf p = some pl → s.visionOf p = some v → s.canStart p = true →
    (p.again = none → p.leads = [] → s.twin.role = 0 → (∀ i ∈ s.queuedOn (some pid), ∀ c, s.ctx? i.ctx = some c → s.sheddable c i = false) →
      (s.formLoop v (s.guardSlots pid pl.boundaryUs (s.partD p)) ((s.readyItems [] [] (s.queuedOn (some pid))).length + 1) (s.readyItems [] [] (s.queuedOn (some pid))) []).1 ≠ [] →
      ∀ e ∈ [(Instr.batchStart pid, s.visionDue pid v), (.batchFillTimeout pid, s.fillDue (s.readyItems [] [] (s.queuedOn (some pid))))], e.2 = true →
        ∃ (t : State) (p' : Part) (j : Job), exec e.1 s = .next t ∧ t.part? pid = some p' ∧ p'.job = some j ∧ j.ordinal = p.ordinal + 1 ∧ p'.ordinal = p.ordinal + 1 ∧
          j.slots.length = v.batch ∧ j.run = 1 ∧ j.marked = false ∧ j.planErr = none ∧ j.start = s.now ∧ p'.state = 2 ∧ p'.sems = [] ∧ p'.waits = [] ∧
          (∀ n, n < p.size → (p'.chisel n).gr 1 = BitVec.ofNat 64 n ∧ (p'.chisel n).gr 2 = BitVec.ofNat 64 p.size ∧ (p'.chisel n).gr 3 = BitVec.ofNat 64 j.seq ∧
            (p'.chisel n).pc = 0 ∧ (p'.chisel n).acc = [] ∧ (p'.chisel n).stall = .run ∧ (p'.chisel n).bndry = false) ∧
          (∀ c ∈ p.courses, (t.course c).power = 2) ∧ (∀ k, k ≠ pid → t.part? k = s.part? k) ∧ t.plans = s.plans ∧ t.now = s.now) ∧
    (p.again = none → p.leads = [] → s.fillDue (s.readyItems [] [] (s.queuedOn (some pid))) = false → exec (.batchFillTimeout pid) s = .next s) ∧
    (∀ j, p.again = some j → exec (.batchStart pid) s = .next (s.restartJob pid p pl j) ∧
      ∃ (p' : Part) (j' : Job), (s.restartJob pid p pl j).part? pid = some p' ∧ p'.job = some j' ∧ j'.slots = j.slots ∧ j'.run = j.run ∧ j'.marked = false ∧
        j'.ordinal = j.ordinal ∧ p'.again = none ∧ p'.ctr.restarts = sat32 p.ctr.restarts 1 ∧ (s.restartJob pid p pl j).flt.restarts = sat32 s.flt.restarts 1)

/-- R21, R25, R26, R85, R262, R263: BOUNDARY_POINT completes wherever a running partition has drained: the partition is emptied, the job ends in
the way its marks say, what waited for the boundary point takes effect and the next job starts where it may. BOUNDARY_OVERDUE completes 40 ms after the last
boundary point, with the job marked. A plan error ends a job with ABORTED_FAULT, a marked job is kept to run again with the next run number, the
fourth marked run ends it with ABORTED_FAULT, and else its results are released. So where no context, request or removal waits, a drained
partition without an error is then Warm and empty and has counted its boundary point, and a marked or overdue job runs again. A partition that
has not drained stays, and before its 40 ms BOUNDARY_OVERDUE does nothing. -/
def Obligations.BoundaryPointsEndJobs : Prop :=
  (∀ (s : State) (pid : Nat) (p : Part) (j : Job), s.part? pid = some p → p.job = some j → s.tilesRun p = true → p.drained j = true →
    (j.steps = [] ∨ s.restarting 4 = false) →
    ∃ t : State, exec (.boundaryPoint pid) s = .next t ∧ t = (s.reachBoundary pid .drained).startDue pid) ∧
  (∀ (s : State) (pid : Nat) (p : Part) (j : Job), s.part? pid = some p → p.job = some j → s.tilesRun p = true → 1000000 ≤ p.sinceBoundary →
    ∃ t : State, exec (.boundaryOverdue pid) s = .next t ∧ t = (((s.touchPart pid).overdueErrors pid p j).reachBoundary pid .drained).startDue pid) ∧
  (∀ (s : State) (pid : Nat) (p : Part) (j : Job), s.part? pid = some p → p.job = some j → s.tilesRun p = true →
    j.closed = false → j.planErr = none → p.state = 2 → p.leads = [] → p.again = none → s.ctxs = [] → s.twin.role = 0 → s.sec.tenants = [] →
    s.power.safeHoldReq = none → (∀ c ∈ p.courses, (s.course c).reqs = []) →
    (p.drained j = true → j.steps = [] → j.marked = false → ∀ v, s.visionOf p = some v → 1 ≤ v.batch → ∃ (t : State) (p' : Part), exec (.boundaryPoint pid) s = .next t ∧ t.part? pid = some p' ∧
      p'.job = none ∧ p'.again = none ∧ p'.state = 1 ∧ p'.chisels = [] ∧ p'.sems = [] ∧ p'.waits = [] ∧
      p'.ctr.boundaries = sat64 p.ctr.boundaries 1 ∧ t.mem.hbm = s.mem.hbm ∧ t.now = s.now) ∧
    (j.run < 4 → ∀ e ∈ [(Instr.boundaryPoint pid, p.drained j && j.marked && (j.steps.isEmpty || !s.restarting 4)),
        (.boundaryOverdue pid, decide (1000000 ≤ p.sinceBoundary) && (List.range p.size).all fun l => (p.chisel l).bndry)], e.2 = true →
      ∃ (t : State) (p' : Part), exec e.1 s = .next t ∧ t.part? pid = some p' ∧ p'.ctr.boundaries = sat64 p.ctr.boundaries 1 ∧ t.now = s.now ∧
        ((p'.job = none ∧ p'.again = some { j with marked := true, run := j.run + 1 }) ∨
          ∃ j', p'.job = some j' ∧ p'.again = none ∧ j'.run = j.run + 1 ∧ j'.slots = j.slots ∧ j'.marked = false ∧ j'.ordinal = j.ordinal))) ∧
  (∀ (s : State) (pid : Nat) (p : Part) (j : Job), s.part? pid = some p → p.job = some j →
    (p.drained j = false → exec (.boundaryPoint pid) s = .next s) ∧
    (p.sinceBoundary < 1000000 → exec (.boundaryOverdue pid) s = .next s) ∧
    (∃ p', (s.touchPart pid).part? pid = some p' ∧ p'.job = some { j with marked := true } ∧ p'.chisels = p.chisels) ∧
    (j.closed = false → j.planErr ≠ none → s.finishJob pid p j .drained = s.abortJob pid j 0x10 false) ∧
    (j.closed = false → j.planErr = none → j.marked = true → j.run < 4 → s.finishJob pid p j .drained =
      (s.countTaps pid (j.slots.filter Option.isSome).length).updPart pid fun p => { p with again := some { j with run := j.run + 1 } }) ∧
    (j.closed = false → j.planErr = none → j.marked = true → 4 ≤ j.run →
      s.finishJob pid p j .drained = (s.countTaps pid (j.slots.filter Option.isSome).length).abortFault pid p j) ∧
    (j.closed = false → j.planErr = none → j.marked = false →
      s.finishJob pid p j .drained = (s.countTaps pid (j.slots.filter Option.isSome).length).completeJob pid j))

/-- R112, R117, R118, R123: arming and stopping a host channel. SH_CTRL with ARM arms the shadow set where it passes the checks, and else
refuses it with its code and moves no byte; a write to the shadow window of an armed channel is dropped and sets OVERWRITE, and else
stores its register; the armed set of an enabled channel becomes active; CH_CTRL enables a channel, and clearing ENABLE with no set
under way leaves every register at reset but STOPPED. -/
def Obligations.ChannelsArmAndStop : Prop :=
  ∀ (s : State) (ch : Nat), ch < 16 →
    (∀ (v : W32) (x : ShSet), s.fnDecodes .pf = true → bitOf v.toNat 0 = true → (s.chan ch).armed = false → (s.chan ch).landing = none →
      x = (s.chan ch).shadowSet.put 0x34 v.toNat →
      (s.armCode x = none → ∃ t : State, exec (.shCtrlArm ch v) s = .next t ∧ t.chan ch = { (s.chan ch).setShadow x with armed := true } ∧
        (∀ k, k ≠ ch → t.chan k = s.chan k) ∧ t.mem.hbm = s.mem.hbm ∧ t.mem.host = s.mem.host) ∧
      (∀ k, s.armCode x = some k → ∃ t : State, exec (.shCtrlArm ch v) s = .next t ∧
        t.chan ch = { (s.chan ch).setShadow x with armRefused := true, badTag := x.tag, badCode := k, doneCount := ((s.chan ch).doneCount + 1) % 65536 } ∧
        (∀ k, k ≠ ch → t.chan k = s.chan k) ∧ t.mem.hbm = s.mem.hbm ∧ t.mem.host = s.mem.host)) ∧
    (∀ (v : W32), s.fnDecodes .pf = true → bitOf v.toNat 0 = true → (s.chan ch).armed = true →
      exec (.shCtrlArm ch v) s = .next (s.updChan ch fun c => { c with overwrite := true })) ∧
    (∀ (off : Nat) (v : W64), s.fnDecodes .pf = true → off < 0x34 → off % 4 = 0 → shWide off = false →
      ((s.chan ch).armed = true → exec (.shadowWindowOverwrite ch off v) s = .next (s.updChan ch fun c => { c with overwrite := true })) ∧
      ((s.chan ch).armed = false → (s.chan ch).landing = none →
        exec (.shadowWindowOverwrite ch off v) s = .next (s.updChan ch fun c => c.setShadow (c.shadowSet.put off (v.toNat % 2 ^ 32))))) ∧
    (s.up = true → s.power.hold = false → (s.chan ch).enable = true → (s.chan ch).retired = false → (s.chan ch).armed = true → (s.chan ch).landing = none →
      ∃ t : State, exec (.dmaShadowActivate ch) s = .next t ∧ (t.chan ch).busy = true ∧ (t.chan ch).armed = false ∧ (t.chan ch).progress = 0 ∧
        (t.chan ch).activeB = !(s.chan ch).activeB ∧ (t.chan ch).activeSet = (s.chan ch).shadowSet ∧
        (t.chan ch).landing = (if (s.chan ch).busy then some (s.chan ch).activeSet else none) ∧ (∀ k, k ≠ ch → t.chan k = s.chan k)) ∧
    (∀ (v : W32), s.fnDecodes .pf = true → bitOf v.toNat 0 = true → (s.chan ch).retired = false →
      exec (.chCtrlEnable ch v) s = .next (s.updChan ch fun c => { c with enable := true, stopped := false, irqBad := bitOf v.toNat 1 })) ∧
    (∀ (v : W32), s.fnDecodes .pf = true → bitOf v.toNat 0 = false →
      ((s.chan ch).enable = false → exec (.chCtrlDisable ch v) s = .next (s.updChan ch fun c => { c with irqBad := bitOf v.toNat 1 })) ∧
      ((s.chan ch).enable = true → (s.chan ch).busy = false → (s.chan ch).landing = none → (∀ r ∈ s.sec.tenants, r.2.state ≠ 2) →
        exec (.chCtrlDisable ch v) s = .next (s.updChan ch fun c => { retired := c.retired, stopped := true })))

/-- R114, R115, R119, R120, R249: the end of a set of one row whose HBM stacks serve requests. A completed host read lands its bytes at the destination in HBM and a completed
HBM read lands them in host memory, DONE_COUNT counts, BYTES is the set's total and the channel is no longer busy. A bus error at an
offset ends the set with its code and offset, with the bytes before it landed, and reports by AER; no other channel changes. -/
def Obligations.ChannelSetsMoveTheirBytes : Prop :=
  ∀ (s : State) (ch : Nat) (x : ShSet), ch < 16 → s.up = true → s.power.hold = false → s.therm.quench = false → (s.chan ch).landing = none →
    (s.chan ch).busy = true → x = (s.chan ch).activeSet → (∀ k ∈ s.setStacks x, (s.stack k).state ≠ 3) → x.form = 0 → 1 ≤ x.row.toNat → (∀ r ∈ s.sec.tenants, r.2.state ≠ 2) →
    (x.dir = 0 → ∃ t : State, exec (.channelSetComplete ch) s = .next t ∧
      t.mem.hbm = (s.hbmWriteN x.tenant x.dst.toNat (s.hostReadN x.src.toNat x.row.toNat)).mem.hbm ∧ t.mem.host = s.mem.host ∧
      t.chan ch = { s.chan ch with doneCount := ((s.chan ch).doneCount + 1) % 65536, busy := false, progress := x.row.toNat } ∧
      (∀ k, k ≠ ch → t.chan k = s.chan k) ∧ t.ctxs = s.ctxs) ∧
    (x.dir = 1 → ∃ t : State, exec (.channelSetComplete ch) s = .next t ∧ t.mem.hbm = s.mem.hbm ∧
      t.mem.host = memWriteN s.mem.host x.dst.toNat (s.hbmReadN x.tenant x.src.toNat x.row.toNat) ∧
      t.chan ch = { s.chan ch with doneCount := ((s.chan ch).doneCount + 1) % 65536, busy := false, progress := x.row.toNat } ∧
      (∀ k, k ≠ ch → t.chan k = s.chan k)) ∧
    (∀ code offset, x.dir = 0 → 1 ≤ code → code < 5 → offset < x.row.toNat → (s.chan ch).armed = false →
      ∃ t : State, exec (.channelBusError ch code offset) s = .next t ∧ t.host.aer = code :: s.host.aer ∧
        t.mem.hbm = (s.hbmWriteN x.tenant x.dst.toNat (s.hostReadN x.src.toNat offset)).mem.hbm ∧ t.mem.host = s.mem.host ∧
        t.chan ch = { s.chan ch with doneCount := ((s.chan ch).doneCount + 1) % 65536, busy := false, progress := offset, bad := true, badTag := x.tag, badCode := code, badOffset := offset } ∧
        (∀ k, k ≠ ch → t.chan k = s.chan k))

/-- R44, R46, R189: the order in which a ticket read of a PF entry decides, for an existing context. Each decision adds 1 to the context's
ticket counter. A context that is gone or paused, a malformed descriptor and a stale SEQ are INVALID and leave the last decided SEQ; a
closed tenant, the Safe profile for Bulk and Idle, and a partition without a plan REFUSE; a Guard descriptor within its reservation on a
resource without a vision batch is ADMITted and queued in order. -/
def Obligations.TicketsFollowTheDecisionOrder : Prop :=
  ∀ (s : State) (n k : Nat) (c : Ctx) (d : List Byte), s.fnDecodes .pf = true → n < 16384 → (s.entry .pf n).armed = true → s.ctx? n = some c →
    c.ticket + 1 < 2 ^ 40 → d = memReadN (s.entry .pf n).bytes 0 0x38 → k = descItems (field d 0 2) d →
    (s.ctxGone c = true →
      ∃ t : State, exec (.ticketRead .pf n) s = .next t ∧ t.host.lastRead = ticketWord { dec := 3, reason := 0x32 } (c.ticket + 1) ∧
        t.ctx? n = some { c with ticket := c.ticket + 1 }) ∧
    (s.ctxGone c = false → (kindOk c.group (field d 0 2) = false ∨ field d 0x30 8 ≠ 0 ∨ (c.group = 5 ∧ (k = 0 ∨ 256 < k))) →
      ∃ t : State, exec (.ticketRead .pf n) s = .next t ∧ t.host.lastRead = ticketWord { dec := 3, reason := 0x31 } (c.ticket + 1) ∧
        t.ctx? n = some { c with ticket := c.ticket + 1 }) ∧
    (s.ctxGone c = false → kindOk c.group (field d 0 2) = true → field d 0x30 8 = 0 → (c.group = 5 → 1 ≤ k ∧ k ≤ 256) →
      (seqNewer c.lastSeq (field d 4 4) = false →
        ∃ t : State, exec (.ticketRead .pf n) s = .next t ∧ t.host.lastRead = ticketWord { dec := 3, reason := 0x33 } (c.ticket + 1) ∧
          t.ctx? n = some { c with ticket := c.ticket + 1 }) ∧
      (seqNewer c.lastSeq (field d 4 4) = true → s.tenantOpen c.tenant = false →
        ∃ (t : State) (c' : Ctx), exec (.ticketRead .pf n) s = .next t ∧ t.host.lastRead = ticketWord { dec := 2, reason := 0x24 } (c.ticket + 1) ∧
          t.ctx? n = some c' ∧ c'.lastSeq = some (field d 4 4) ∧ c'.refused = sat64 c.refused k ∧ c'.queue = c.queue ∧
          c'.lossTotal = sat32 c.lossTotal 1 ∧
          c'.losses = (if s.logBlocked (n % 4) then c.losses else (⟨field d 4 4, 0, 0x24, 0, s.now⟩ :: c.losses).take 256)) ∧
      (seqNewer c.lastSeq (field d 4 4) = true → s.tenantOpen c.tenant = true → s.profile = 2 → 2 ≤ c.cls →
        ∃ (t : State) (c' : Ctx), exec (.ticketRead .pf n) s = .next t ∧ t.host.lastRead = ticketWord { dec := 2, reason := 0x23 } (c.ticket + 1) ∧
          t.ctx? n = some c' ∧ c'.refused = sat64 c.refused k ∧ c'.queue = c.queue) ∧
      (seqNewer c.lastSeq (field d 4 4) = true → s.tenantOpen c.tenant = true → (s.profile ≠ 2 ∨ c.cls < 2) →
        (∀ x, s.part? c.part = some x → x.plan = none) → c.group ≠ 6 →
        ∃ (t : State) (c' : Ctx), exec (.ticketRead .pf n) s = .next t ∧ t.host.lastRead = ticketWord { dec := 2, reason := 0x25 } (c.ticket + 1) ∧
          t.ctx? n = some c' ∧ c'.refused = sat64 c.refused k ∧ c'.queue = c.queue) ∧
      (seqNewer c.lastSeq (field d 4 4) = true → s.tenantOpen c.tenant = true → c.cls = 0 → c.group = 6 → s.ringFull n c d = false →
        (k : Int) * tokenUnit ≤ c.tokens s.now →
        ∃ (t : State) (c' : Ctx), exec (.ticketRead .pf n) s = .next t ∧ t.host.lastRead = ticketWord { dec := 0, reason := 0x01 } (c.ticket + 1) ∧
          t.ctx? n = some c' ∧ c'.admitted = sat64 c.admitted k ∧ c'.queue = c.queue ++ s.mkItems n c d k 0 false false ∧
          c'.bucket = c.tokens s.now - k * tokenUnit ∧ t.nextOrder = s.nextOrder + k))

/-- R42, R185, R187, R197: contexts. On the PF the lowest free number, on a VF also the lowest free slot, which is bound to it; a new
context has an empty queue, a full bucket, ticket 0 and no decided SEQ; G is 0 where its group is not vision. Removing an idle vision or serving context takes it and its
bindings away and leaves every other context; while its item runs the command is ACCEPTED, its queue goes and it takes no more work.
CTX_SET of a context that is and stays below Guard changes its values. A VF asks for no Guard context. -/
def Obligations.ContextsAreCreatedSetAndRemoved : Prop :=
  ∀ (s : State) (m : Mb) (r : Req),
    (∀ n, s.runs m 0x0301 true = some r → r.len = 28 → r.u16 0xE = 0 → r.vf = none → r.u8 0 < 64 → s.tenantOpen (r.u8 0) = true → createOk r = true →
      s.partFits r (r.u8 0) = true → r.u8 1 ≠ 6 → s.held (1, r.u16 4) = false → r.u8 2 ≠ 0 → leastBelow 16384 (fun n => !s.ctxs.has n) = some n →
      ∃ (t : State) (c : Ctx) (g : Nat), exec (.ctxCreate m) s = .next (t.respond m 0x0301 r.tag (okR (leBytes 2 n ++ leBytes 2 0xFFFF ++ leBytes 2 g ++ [0, 0]))) ∧
        (r.u8 1 = 7 → g = 0) ∧ t.ctx? n = some c ∧ c.tenant = r.u8 0 ∧ c.group = r.u8 1 ∧ c.cls = r.u8 2 ∧ c.ring = r.u8 3 ∧ c.part = r.u16 4 ∧ c.queueMax = r.u16 6 ∧
        c.rate = r.u32 8 ∧ c.burst = r.u16 0xC ∧ c.deadlineUs = r.u32 0x10 ∧ c.shedAgeUs = r.u32 0x14 ∧ c.queue = [] ∧ c.ticket = 0 ∧ c.lastSeq = none ∧
        c.tokens s.now = c.burst * tokenUnit ∧ (∀ k, k ≠ n → t.ctx? k = s.ctx? k) ∧ t.host.slotBind = s.host.slotBind) ∧
    (∀ n v k, s.runs m 0x0301 true = some r → r.len = 28 → r.u16 0xE = 0 → r.vf = some v → v < 64 → s.tenantOpen v = true → createOk r = true →
      s.partFits r v = true → r.u8 1 ≠ 6 → s.held (1, r.u16 4) = false → r.u8 2 ≠ 0 → leastBelow 16384 (fun n => !s.ctxs.has n) = some n →
      leastBelow 768 (fun k => !s.host.slotBind.has (v * 768 + k)) = some k → k ≠ 0xFFFF →
      ∃ (t : State) (c : Ctx) (g : Nat), exec (.ctxCreate m) s = .next (t.respond m 0x0301 r.tag (okR (leBytes 2 n ++ leBytes 2 k ++ leBytes 2 g ++ [0, 0]))) ∧
        (r.u8 1 = 7 → g = 0) ∧ t.ctx? n = some c ∧ c.tenant = v ∧ c.slot = k ∧ t.host.slotBind.find? (v * 768 + k) = some n ∧ (∀ j, j ≠ n → t.ctx? j = s.ctx? j)) ∧
    (s.runs m 0x0301 true = some r → r.len = 28 → r.u16 0xE = 0 → r.vf.isSome = true → r.u8 2 = 0 →
      exec (.ctxCreate m) s = .next ((s.taken m).respond m 0x0301 r.tag { status := 0x0A })) ∧
    (∀ c, s.runs m 0x0302 true = some r → r.len = 4 → r.u16 2 = 0 → s.ownCtx r = some c → s.ctx? (r.u16 0) = some c → s.heldFor (2, r.u16 0) = false →
      c.group ≠ 6 → s.ctxRunning (r.u16 0) = false →
      ∃ t : State, exec (.ctxRemove m) s = .next (t.respond m 0x0302 r.tag (okR [])) ∧ t.ctx? (r.u16 0) = none ∧
        (∀ k, k ≠ r.u16 0 → t.ctx? k = s.ctx? k) ∧ (∀ b ∈ t.host.slotBind, b.2 ≠ r.u16 0) ∧ t.plans = s.plans ∧ t.mem.hbm = s.mem.hbm) ∧
    (∀ c, s.runs m 0x0302 true = some r → r.len = 4 → r.u16 2 = 0 → s.ownCtx r = some c → s.ctx? (r.u16 0) = some c → s.heldFor (2, r.u16 0) = false →
      s.ctxRunning (r.u16 0) = true → s.mason.lastOp + 1 < 2 ^ 32 →
      ∃ t : State, exec (.ctxRemove m) s = .next (t.respond m 0x0302 r.tag { status := 0x01, arg := s.mason.lastOp + 1 }) ∧
        t.ctx? (r.u16 0) = some (if c.group = 7 then { c with queue := [], removing := true, session.idleAt := s.now } else { c with queue := [], removing := true }) ∧ (∀ k, k ≠ r.u16 0 → t.ctx? k = s.ctx? k)) ∧
    (∀ c, s.runs m 0x0303 true = some r → r.len = 20 → field r.pay 3 1 = 0 → s.ownCtx r = some c → s.ctx? (r.u16 0) = some c → setOk r = true →
      s.held (2, r.u16 0) = false → r.u8 2 ≠ 0 → c.cls ≠ 0 →
      ∃ (t : State) (c' : Ctx), exec (.ctxSet m) s = .next (t.respond m 0x0303 r.tag (okR [])) ∧ t.ctx? (r.u16 0) = some c' ∧
        c'.cls = (if r.u8 2 = 0xFF then c.cls else r.u8 2) ∧ c'.rate = (if r.u32 4 = 0 then c.rate else r.u32 4) ∧
        c'.burst = (if r.u16 8 = 0 then c.burst else r.u16 8) ∧ c'.queueMax = (if r.u16 0xA = 0 then c.queueMax else r.u16 0xA) ∧
        c'.bucket ≤ c'.burst * tokenUnit ∧ c'.queue = c.queue ∧ c'.ticket = c.ticket ∧ (∀ k, k ≠ r.u16 0 → t.ctx? k = s.ctx? k))

/-- R194, R197, R198: CTX_QUERY and CTX_SHEDLOG report a context and change nothing; CTX_REBIND to a partition with the same plan image is
ACCEPTED and keeps its destination until the source's boundary point; to one with another image it answers INCOMPATIBLE. -/
def Obligations.ContextReportsAndRebinding : Prop :=
  ∀ (s : State) (m : Mb) (r : Req) (c : Ctx), r.len = 4 → s.ownCtx r = some c →
    (s.runs m 0x0305 true = some r → r.u16 2 = 0 →
      exec (.ctxQuery m) s = .next ((s.taken m).respond m 0x0305 r.tag (okR (leBytes 1 c.group ++ leBytes 1 c.cls ++ leBytes 2 c.part ++ leBytes 2 c.queue.length ++
        leBytes 1 (boolN (match c.res.bind s.part? with | some p => p.lost | none => false)) ++ [0] ++ leBytes 4 (unsigned 32 (c.tokens s.now / 25000000)) ++ leBytes 4 0 ++
        leBytes 8 c.admitted ++ leBytes 8 c.deferred ++ leBytes 8 c.refused ++ leBytes 4 c.late ++ leBytes 4 c.shed ++ leBytes 4 c.displaced ++ leBytes 4 c.guardExcess)))) ∧
    (s.runs m 0x0306 true = some r → field r.pay 3 1 = 0 →
      exec (.ctxShedlog m) s = .next ((s.taken m).respond m 0x0306 r.tag (okR (leBytes 4 c.lossTotal ++ leBytes 1 ((c.losses.drop (r.u8 2)).take 14).length ++ leBytes 3 0 ++
        (((c.losses.drop (r.u8 2)).take 14).map lossBytes).flatten)))) ∧
    (∀ d x pd px, s.runs m 0x0304 true = some r → s.part? (r.u16 2) = some d → s.part? c.part = some x → c.group ≠ 6 → d.tenant = c.tenant →
      s.held (2, r.u16 0) = false → s.held (1, r.u16 2) = false → s.planOf d = some pd → s.planOf x = some px →
      (pd.digest ≠ px.digest → exec (.ctxRebind m) s = .next ((s.taken m).respond m 0x0304 r.tag { status := 0x0E })) ∧
      (pd.digest = px.digest → c.cls ≠ 0 → x.lost = false → x.job ≠ none → s.ctx? (r.u16 0) = some c → s.mason.lastOp + 1 < 2 ^ 32 →
        ∃ t : State, exec (.ctxRebind m) s = .next (t.respond m 0x0304 r.tag { status := 0x01, arg := s.mason.lastOp + 1 }) ∧
          t.ctx? (r.u16 0) = some { c with rebind := some (r.u16 2) } ∧ t.parts = s.parts ∧ (∀ k, k ≠ r.u16 0 → t.ctx? k = s.ctx? k)))

/-- R146 and R147: the vision commands. VIS_PARAMS with values in their ranges changes the settings it gives and keeps the others, a value
outside its range is BAD_ARG, and a context that is no vision context of the issuer is BAD_ARG; VIS_COUNTERS reports. R123, R146, R177: the end
of a host copy, whose channel runs it and no Quench holds, writes its bytes to host memory and takes the copy away; a failed copy is reported by AER and its record carries BAD_ARG. -/
def Obligations.VisionCommandsAndCopiesAct : Prop :=
  (∀ (s : State) (m : Mb) (r : Req) (c : Ctx), s.runs m 0x0501 true = some r → r.len = 20 → field r.pay 3 1 = 0 → r.u16 0xE = 0 → s.ctxFor r 5 = some c →
    (r.u8 2 ≤ 2 → (r.u32 4 = 0x7FC00000 ∨ f32Finite (r.w32 4) = true) → (r.u32 8 = 0x7FC00000 ∨ f32In 0 fone (r.w32 8) = true) → r.u16 0xC ≤ 1024 →
      (r.u32 0x10 ≤ 1000000 ∨ r.u32 0x10 = 0xFFFFFFFF) → s.held (2, r.u16 0) = false →
      ∃ (t : State) (c' : Ctx), exec (.visParams m) s = .next (t.respond m 0x0501 r.tag (okR [])) ∧ t.ctx? (r.u16 0) = some c' ∧
        c'.vision.mode = (if r.u8 2 = 0 then c.vision.mode else r.u8 2) ∧ c'.vision.scoreThr = (if r.u32 4 = 0x7FC00000 then c.vision.scoreThr else some (r.w32 4)) ∧
        c'.vision.iouThr = (if r.u32 8 = 0x7FC00000 then c.vision.iouThr else some (r.w32 8)) ∧ c'.vision.maxOut = (if r.u16 0xC = 0 then c.vision.maxOut else r.u16 0xC) ∧
        c'.vision.fillUs = (if r.u32 0x10 = 0xFFFFFFFF then c.vision.fillUs else r.u32 0x10) ∧ c'.queue = c.queue ∧ (∀ k, k ≠ r.u16 0 → t.ctx? k = s.ctx? k)) ∧
    ((2 < r.u8 2 ∨ 1024 < r.u16 0xC) → exec (.visParams m) s = .next ((s.taken m).respond m 0x0501 r.tag { status := St.badArg }))) ∧
  (∀ (s : State) (m : Mb) (r : Req), s.runs m 0x0502 true = some r → r.len = 4 → r.u16 2 = 0 →
    (∀ c, s.ctxFor r 5 = some c → exec (.visCounters m) s = .next ((s.taken m).respond m 0x0502 r.tag (okR (leBytes 8 c.vision.images ++ leBytes 8 c.vision.boxes ++
      leBytes 4 c.vision.candTruncated ++ leBytes 4 c.vision.candInvalid ++ leBytes 4 c.vision.maxOutHits ++ leBytes 4 c.vision.partialBatches)))) ∧
    (s.ctxFor r 5 = none → exec (.visCounters m) s = .next ((s.taken m).respond m 0x0502 r.tag { status := St.badArg }))) ∧
  (∀ (s : State) (n : Nat) (h : HostCopy), s.mem.copies.find? (fun x => x.id == n) = some h → (∀ r ∈ s.sec.tenants, r.2.state ≠ 2) →
    ((s.therm.quench = true ∨ s.syncSets.intRuns (.copy n) = false) → ∀ rd, exec (.outHostCopyDone n rd) s = .next s) ∧
    (s.therm.quench = false → s.syncSets.intRuns (.copy n) = true → (∀ c ∈ s.ctxs, c.2.codec.flushed = false) →
      (h.recs = [] → ∃ t : State, exec (.outHostCopyDone n .ok) s = .next t ∧ t.mem.host = memWriteN s.mem.host h.hostAddr h.bytes ∧
        t.mem.copies = s.mem.copies.filter (fun x => x.id != n) ∧ t.mem.hbm = s.mem.hbm ∧ t.ctxs = s.ctxs) ∧
      (∀ c, h.recs = [] → ∃ t : State, exec (.outHostCopyDone n (.err c)) s = .next t ∧ t.mem.host = s.mem.host ∧ t.host.aer = c :: s.host.aer ∧
        t.mem.copies = s.mem.copies.filter (fun x => x.id != n))) ∧
    (s.therm.quench = false → s.syncSets.intRuns (.copy n) = true → ∀ x, h.recs = [x] →
      ∃ u : State, u.mem.host = memWriteN s.mem.host h.hostAddr h.bytes ∧ exec (.outHostCopyDone n .ok) s = .next ((u.releaseCopy h .ok x).flushesDue.landDue).syncSets)) ∧
  (∀ (x : Rec) (c : Nat) (late : Bool) (now : Tick), (copyRec x (.err c) late now).status = 0x06 ∧
    ((copyRec x .ok late now).status = (if late = true ∧ x.status = 0 then 0x15 else x.status) ∧ (copyRec x .ok late now).detail = x.detail))

/-- R111, R139, R145, R181, R223, R249: a Facing unit, which runs without a Hold and, in a Quench, until its second stage. Where the HBM of the
slot and of the picture serves it, the conversion of the oldest job of a unit writes the picture's pixels to the slot's place in the batch
input area and, where the image goes out at once, takes the job off; the PLL runs, and the Piers of that HBM leave self-refresh. A row
band, of a converted job or the zero band of an unfilled slot, goes into the ring of every Course that takes it, takes one credit of each
ring, adds 1 to the band semaphore, and the last band takes the job off; the band is written into what the partition's units, which run
what is queued first, have left. -/
def Obligations.FacingUnitsConvertAndBand : Prop :=
  (∀ (s : State) (pier : Nat) (j : FacingJob) (rest : List FacingJob) (p : Part) (pl : Plan) (v : VisionRec) (t : Nat) (pic : Pic) (f : Facing) (off : Nat),
    s.up = true → s.power.hold = false → s.therm.stage2 = false → (s.pier pier).facing = j :: rest → s.part? j.part = some p → s.planOf p = some pl → s.visionOf p = some v →
    s.facingPic j = some (t, pic, f, off) → j.conv = false → s.hbmServes (s.facingStacks p pl v j) = true →
    ∃ u : State, exec (.facingConvert pier) s = .next u ∧ u.trowel.pllOn = true ∧ u.trowel.idleAt = s.now ∧
      u.piers = ((s.touchStacks (s.facingStacks p pl v j)).updPier pier fun q => q.setFacing (if s.bandJob p j then { j with conv := true } :: rest else rest)).piers ∧
      u.mem.hbm = (s.hbmWriteN p.tenant (pl.regionOff + s.inputBase p pl + j.slot * imgBytes v) (padTo (imgBytes v) (facingBytes f pic.bitDepth (s.plane t off pic)))).mem.hbm ∧
      u.parts = s.parts ∧ u.ctxs = s.ctxs ∧ u.mem.host = s.mem.host) ∧
  (∀ (s0 s : State) (pier : Nat) (j : FacingJob) (rest : List FacingJob) (p : Part) (pl : Plan) (v : VisionRec) (b rows : Nat) (data : List Byte) (ks ts : List Nat),
    s0.up = true → s0.power.hold = false → s0.therm.stage2 = false → (s0.pier pier).facing = j :: rest → j.conv = true → s = s0.pumpPart j.part →
    s.part? j.part = some p → s.planOf p = some pl → s.visionOf p = some v → b = p.nextBand - s.bandsBefore p j → s.bandData p pl v j b = some (rows, data) →
    ts = (if j.zero then [] else s.facingStacks p pl v j) → (ts = [] ∨ s.hbmServes ts = true) → ks = (List.range p.nCourses).filter (fun k => s.courseHolds p pl v k b) →
    (∀ k ∈ ks, p.credits.get 0 k ≠ 0) → v.bandSem < p.semCount → p.sems.get 0 v.bandSem + 1 ≤ 0xFFFF →
    ∃ (u : State) (q : Part), exec (.facingBandWrite pier) s0 = .next u ∧ u.part? j.part = some q ∧ q.nextBand = p.nextBand + 1 ∧ q.sems.get 0 v.bandSem = p.sems.get 0 v.bandSem + 1 ∧
      (∀ k, q.credits.get 0 k = if k ∈ ks then p.credits.get 0 k - 1 else p.credits.get 0 k) ∧
      (∀ k ∈ ks, u.cbuf (p.pier * 4 + p.course + k) = sramWriteN (s.cbuf (p.pier * 4 + p.course + k))
        (p.cbufBase + v.ringOffset + p.nextBand % v.ringDepth * (v.bandRows * runBytes v.inFmt (v.inW * v.inC))) data) ∧
      u.piers = (if rows ≤ (b + 1) * v.bandRows then ((s.touchStacks ts).updPier pier fun q => q.setFacing rest).piers else (s.touchStacks ts).piers) ∧
      u.trowel.pllOn = true ∧ u.trowel.idleAt = s.now ∧ u.mem.hbm = s.mem.hbm ∧ u.ctxs = s.ctxs) ∧
  (∀ (s : State) (p : Part) (pl : Plan) (v : VisionRec) (j : FacingJob) (b : Nat),
    (j.zero = true → s.bandData p pl v j b = some (v.inH, List.replicate (min v.bandRows (v.inH - b * v.bandRows) * runBytes v.inFmt (v.inW * v.inC)) 0)) ∧
    (∀ t pic f off, j.zero = false → s.facingPic j = some (t, pic, f, off) → s.bandData p pl v j b = some (f.outH, s.bandBytes p pl v f j.slot b))) ∧
  (∀ (s : State) (ks : List Nat) (k : Nat), ((s.touchStacks ks).pier k).facing = (s.pier k).facing ∧ (k ∉ ks.map (· / 2) → (s.touchStacks ks).pier k = s.pier k) ∧
    (k ∈ ks.map (· / 2) → ((s.touchStacks ks).pier k).selfRefresh = false ∧ ((s.touchStacks ks).pier k).hbmBusyAt = s.now))

/-- R110, R151, R157, R165: opening and pausing a session. SRV_OPEN that reserves its pages without mapping a frame opens the session with an empty
context, and one that must map frames is ACCEPTED and opens when the zeros are written; where the reservation fails it is NO_RESOURCE, a
MAX_CONTEXT outside 64 to the plan's is BAD_ARG, and an Open or Pausing session REFUSES with DETAIL 0x01. SRV_PAUSE and the idle
timeout pause a session without work at once: its pages return and its context length becomes 0; with work it is Pausing. -/
def Obligations.SessionsOpenAndPause : Prop :=
  (∀ (s s1 : State) (m : Mb) (r : Req) (c : Ctx) (p : Part) (v : ServeRec) (pages : List Nat) (n : Nat), s.runs m 0x0701 true = some r → r.len = 24 → field r.pay 0xC 4 = 0 →
    s.ctxFor r 7 = some c → s.part? c.part = some p → s.serveOf p = some v → s.held (2, r.u16 0) = false → r.u8 2 ≤ 2 → (r.u8 2 = 0 ∨ (1 ≤ r.u8 3 ∧ r.u8 3 ≤ v.draftMax)) →
    r.u32 8 ≤ 86400000 →
    ((r.u32 4 < 64 ∨ v.maxContext < r.u32 4) → exec (.srvOpen m) s = .next ((s.taken m).respond m 0x0701 r.tag { status := St.badArg })) ∧
    (64 ≤ r.u32 4 → r.u32 4 ≤ v.maxContext →
      ((s.taken m).kvReserve c.tenant (v.pagePiers p (r.u32 4)) = none → exec (.srvOpen m) s = .next ((s.taken m).respond m 0x0701 r.tag { status := St.noResource })) ∧
      ((s.taken m).kvReserve c.tenant (v.pagePiers p (r.u32 4)) = some (s1, pages, n) →
        ((c.session.state = 1 ∨ c.session.state = 2) → exec (.srvOpen m) s = .next ((s.taken m).respond m 0x0701 r.tag { status := St.refused, detail := 1 })) ∧
        (c.session.state ≠ 1 → c.session.state ≠ 2 → n = 0 →
          ∃ (t : State) (c' : Ctx), exec (.srvOpen m) s = .next (t.respond m 0x0701 r.tag (okR (leBytes 4 pages.length ++ leBytes 4 0))) ∧ t.ctx? (r.u16 0) = some c' ∧
            c'.session.state = 1 ∧ c'.session.pages = pages ∧ c'.session.specMode = r.u8 2 ∧ c'.session.draftLen = r.u8 3 ∧ c'.session.maxContext = r.u32 4 ∧ c'.session.pauseMs = r.u32 8 ∧
            c'.session.seed = BitVec.ofNat 64 (r.u64 0x10) ∧ c'.session.length = 0 ∧ c'.session.tokens = [] ∧ c'.session.sampling = c.session.sampling ∧ c'.queue = c.queue ∧
            (∀ k, k ≠ r.u16 0 → t.ctx? k = s.ctx? k)) ∧
        (c.session.state ≠ 1 → c.session.state ≠ 2 → n ≠ 0 → s.mason.lastOp + 1 < 2 ^ 32 →
          ∃ (t : State) (c' : Ctx), exec (.srvOpen m) s = .next (t.respond m 0x0701 r.tag { status := 0x01, arg := s.mason.lastOp + 1, payload := leBytes 4 pages.length ++ leBytes 4 0 }) ∧
            t.ctx? (r.u16 0) = some c' ∧ c'.session.state = c.session.state ∧ c'.session.pages = pages ∧
            t.mason.ops = s.mason.ops ++ [⟨s.mason.lastOp + 1, r.mb, r.code, r.tag, .mapFrames (r.u16 0)⟩])))) ∧
  (∀ (s : State) (op ctx : Nat) (o : PendingOp) (c : Ctx), s.op? op = some o → o.kind = .mapFrames ctx → o.code = 0x0701 → s.up = true → s.ctx? ctx = some c →
    ∃ t : State, exec (.frameMappingDone op) s = .next (t.finishOp op 0x00) ∧ (∀ k, k ≠ ctx → t.ctx? k = s.ctx? k) ∧ t.mason = s.mason ∧
      ∃ c', t.ctx? ctx = some c' ∧ c'.session.state = 1 ∧ c'.session.idleAt = s.now ∧ c'.session.pages = c.session.pages) ∧
  (∀ (s : State) (m : Mb) (r : Req) (c : Ctx), s.runs m 0x0703 true = some r → r.len = 4 → r.u16 2 = 0 → s.ctxFor r 7 = some c → s.held (2, r.u16 0) = false →
    (c.session.state ≠ 1 → exec (.srvPause m) s = .next ((s.taken m).respond m 0x0703 r.tag { status := St.refused, detail := 1 })) ∧
    (c.session.state = 1 → c.session.req = none → c.queue = [] →
      ∃ (t : State) (x : Session), exec (.srvPause m) s = .next (t.respond m 0x0703 r.tag (okR [])) ∧ (t.ctx? (r.u16 0)).map Ctx.session = some x ∧ x.state = 3 ∧ x.pages = [] ∧
        x.length = 0 ∧ x.tokens = [] ∧ x.timeoutPauses = c.session.timeoutPauses ∧ (∀ k, k ≠ r.u16 0 → t.ctx? k = s.ctx? k)) ∧
    (c.session.state = 1 → c.queue ≠ [] → s.mason.lastOp + 1 < 2 ^ 32 →
      ∃ (t : State) (c' : Ctx), exec (.srvPause m) s = .next (t.respond m 0x0703 r.tag { status := 0x01, arg := s.mason.lastOp + 1 }) ∧ t.ctx? (r.u16 0) = some c' ∧
        c'.session.state = 2 ∧ c'.session.pages = c.session.pages ∧ c'.queue = c.queue)) ∧
  (∀ (s : State) (ctx : Nat) (c : Ctx), s.ctx? ctx = some c → s.up = true → c.group = 7 → c.session.state = 1 → c.session.pauseMs ≠ 0 → c.session.req = none → c.queue = [] →
    (25000 * c.session.pauseMs ≤ s.now - c.session.idleAt →
      ∃ (t : State) (x : Session), exec (.sessionPauseTimeout ctx) s = .next t ∧ (t.ctx? ctx).map Ctx.session = some x ∧ x.state = 3 ∧ x.pages = [] ∧ x.length = 0 ∧
        x.timeoutPauses = sat32 c.session.timeoutPauses 1 ∧ (∀ k, k ≠ ctx → t.ctx? k = s.ctx? k) ∧ t.parts = s.parts ∧ t.mem.hbm = s.mem.hbm) ∧
    (s.now - c.session.idleAt < 25000 * c.session.pauseMs → exec (.sessionPauseTimeout ctx) s = .next s))

/-- R159, R164, R165: the other serving commands and the speculation events. SRV_SAMPLING with values in range sets the sampling values, from the
next request on, and one out of range is BAD_ARG; SRV_CANCEL marks the requests it names and answers their number, and none named
by SEQ is BAD_ARG; SRV_QUERY reports. Auto speculation suspends for 256 steps after 32 drafting steps with less than 0.15 accepted, and
resumes after them with half the draft length, at least 1. -/
def Obligations.ServingCommandsAct : Prop :=
  (∀ (s : State) (m : Mb) (r : Req) (c : Ctx), s.ctxFor r 7 = some c → s.held (2, r.u16 0) = false →
    (s.runs m 0x0702 true = some r → r.len = 64 → field r.pay 0x1B 5 = 0 →
      (samplingOk r = true → ∃ (t : State) (c' : Ctx), exec (.srvSampling m) s = .next (t.respond m 0x0702 r.tag (okR [])) ∧ t.ctx? (r.u16 0) = some c' ∧
        c'.session.sampling = samplingOf r ∧ c'.session.req = c.session.req ∧ c'.session.seed = c.session.seed ∧ c'.queue = c.queue ∧ (∀ k, k ≠ r.u16 0 → t.ctx? k = s.ctx? k)) ∧
      ((1024 < r.u16 2 ∨ 4096 < r.u16 0x18 ∨ 8 < r.u8 0x1A) → exec (.srvSampling m) s = .next ((s.taken m).respond m 0x0702 r.tag { status := St.badArg }))) ∧
    (s.runs m 0x0704 true = some r → r.len = 8 → field r.pay 3 1 = 0 →
      (r.u8 2 = 1 → ∃ (t : State) (c' : Ctx), exec (.srvCancel m) s = .next (t.respond m 0x0704 r.tag (okR (leBytes 2 c.requests.length ++ [0, 0]))) ∧ t.ctx? (r.u16 0) = some c' ∧
        (∀ i ∈ c'.requests, i.cancelled = true) ∧ c'.requests.map Item.seq = c.requests.map Item.seq ∧ (∀ k, k ≠ r.u16 0 → t.ctx? k = s.ctx? k)) ∧
      (r.u8 2 = 0 → (∃ i ∈ c.requests, i.seq = r.u32 4) → ∃ (t : State) (c' : Ctx) (n : Nat), 1 ≤ n ∧ exec (.srvCancel m) s = .next (t.respond m 0x0704 r.tag (okR (leBytes 2 n ++ [0, 0]))) ∧
        t.ctx? (r.u16 0) = some c' ∧ (∀ i ∈ c'.requests, i.seq = r.u32 4 → i.cancelled = true) ∧ c'.requests.map Item.seq = c.requests.map Item.seq) ∧
      (r.u8 2 = 0 → (∀ i ∈ c.requests, i.seq ≠ r.u32 4) → exec (.srvCancel m) s = .next ((s.taken m).respond m 0x0704 r.tag { status := St.badArg })))) ∧
  (∀ (s : State) (m : Mb) (r : Req) (c : Ctx), s.ctxFor r 7 = some c → s.runs m 0x0705 true = some r → r.len = 4 → r.u16 2 = 0 →
    ∃ u, exec (.srvQuery m) s = .next ((s.taken m).respond m 0x0705 r.tag (okR (leBytes 1 c.session.state ++ leBytes 1 c.session.specMode ++ leBytes 1 c.session.draftNow ++ [0] ++
      leBytes 2 c.session.suspendLeft ++ [0, 0] ++ leBytes 4 c.session.length ++ leBytes 4 c.session.pages.length ++ leBytes 4 u ++ leBytes 4 c.session.cancelled ++
      leBytes 8 c.session.steps ++ leBytes 8 c.session.tokensOut ++ leBytes 8 c.session.drafted ++ leBytes 8 c.session.accepted ++ leBytes 4 c.session.suspensions ++
      leBytes 4 c.session.timeoutPauses)))) ∧
  (∀ (s : State) (ctx : Nat) (c : Ctx), s.up = true → s.ctx? ctx = some c →
    (c.session.specMode = 1 → c.session.suspended = false → 32 ≤ c.session.window.length →
      100 * sumNat (c.session.window.map Prod.snd) < 15 * sumNat (c.session.window.map Prod.fst) →
      ∃ t c', exec (.specSuspend ctx) s = .next t ∧ t.ctx? ctx = some c' ∧ c'.session.suspended = true ∧ c'.session.suspendLeft = 256 ∧ c'.session.window = [] ∧
        c'.session.suspensions = sat32 c.session.suspensions 1 ∧ c'.session.draftNow = 0 ∧ c'.session.k = c.session.k ∧ (∀ k, k ≠ ctx → t.ctx? k = s.ctx? k)) ∧
    (c.session.suspended = true → c.session.suspendLeft = 0 →
      ∃ t c', exec (.specResume ctx) s = .next t ∧ t.ctx? ctx = some c' ∧ c'.session.suspended = false ∧ c'.session.k = max 1 (c.session.k / 2) ∧ c'.session.window = [] ∧
        (c.session.specMode = 1 → c'.session.draftNow = max 1 (c.session.k / 2)) ∧ (∀ k, k ≠ ctx → t.ctx? k = s.ctx? k)))

/-- R167, R174, R177, R183: opening a codec context. VID_DECODE_OPEN and VID_ENCODE_OPEN with values in range and a New context take the pages of the
ring and the picture pool and are ACCEPTED; the context decodes or encodes once the zeros are written. A spent quota is NO_RESOURCE, a
context that is open REFUSES with DETAIL 0x01, and a value out of range is BAD_ARG. The number of pool pictures of an encode context
is a free value (log 15). -/
def Obligations.CodecContextsOpen : Prop :=
  (∀ (s : State) (m : Mb) (r : Req) (c : Ctx), s.ctxFor r 6 = some c → s.held (2, r.u16 0) = false →
    (s.runs m 0x0601 true = some r → r.len = 16 → r.u16 0xE = 0 →
      ((r.u8 3 = 0 ∨ 8 < r.u8 3 ∨ 2 < r.u8 2) → exec (.vidDecodeOpen m) s = .next ((s.taken m).respond m 0x0601 r.tag { status := St.badArg })) ∧
      (∀ b, decodeOpenOk s r c.tenant = true → b = (17 + r.u8 9) * picBytes (r.u16 4) (r.u16 6) (r.u8 8) →
        (s.quotaLeft c.tenant < (2 + pagesOf b) * 2 ^ 21 → exec (.vidDecodeOpen m) s = .next ((s.taken m).respond m 0x0601 r.tag { status := St.noResource })) ∧
        (∀ pg s1, (2 + pagesOf b) * 2 ^ 21 ≤ s.quotaLeft c.tenant → (s.taken m).allocPages c.tenant (2 + pagesOf b) (fun _ => none) = some (pg, s1) →
          (c.codec.state ≠ 0 → exec (.vidDecodeOpen m) s = .next ((s.taken m).respond m 0x0601 r.tag { status := St.refused, detail := 1 })) ∧
          (c.codec.state = 0 → s.mason.lastOp + 1 < 2 ^ 32 → ∃ (t : State) (c' : Ctx), t.ctx? (r.u16 0) = some c' ∧ (∀ k, k ≠ r.u16 0 → t.ctx? k = s.ctx? k) ∧
            exec (.vidDecodeOpen m) s = .next (t.respond m 0x0601 r.tag { status := 0x01, arg := s.mason.lastOp + 1, payload := leBytes 2 (17 + r.u8 9) ++ [0, 0] ++ leBytes 8 b }) ∧
            c'.codec.codec = r.u8 2 ∧ c'.codec.maxCores = r.u8 3 ∧ c'.codec.maxW = r.u16 4 ∧ c'.codec.maxH = r.u16 6 ∧ c'.codec.bitDepth = r.u8 8 ∧ c'.codec.outQueue = r.u8 9 ∧
            c'.codec.conceal = r.u8 0xA ∧ c'.codec.consumers = r.u8 0xB ∧ c'.codec.encCtx = r.u16 0xC ∧ c'.codec.poolOff = pg * 2 ^ 21 ∧ c'.codec.pictures = 0 ∧
            t.mason.ops = s.mason.ops ++ [⟨s.mason.lastOp + 1, r.mb, r.code, r.tag, .mapFrames (r.u16 0)⟩])))) ∧
    (s.runs m 0x0602 true = some r → r.len = 36 → field r.pay 0x1F 1 = 0 →
      ((1 < r.u8 2 ∨ 2 < r.u8 3 ∨ r.u32 0xC < 10) → exec (.vidEncodeOpen m) s = .next ((s.taken m).respond m 0x0602 r.tag { status := St.badArg })) ∧
      (∀ n b pg s1, encodeOpenOk r = true → n = encPoolPics (r.u8 0x1E) (r.u8 0x1B) → b = n * picBytes (r.u16 4) (r.u16 6) 8 → pagesOf b * 2 ^ 21 ≤ s.quotaLeft c.tenant →
        (s.taken m).allocPages c.tenant (pagesOf b) (fun _ => none) = some (pg, s1) → c.codec.state = 0 → s.mason.lastOp + 1 < 2 ^ 32 →
        ∃ (t : State) (c' : Ctx) (st arg : Nat), exec (.vidEncodeOpen m) s = .next (t.respond m 0x0602 r.tag { status := st, arg := arg, payload := leBytes 2 n ++ [0, 0] ++ leBytes 8 b }) ∧
          st = (if pagesOf b = 0 then 0x00 else 0x01) ∧ t.ctx? (r.u16 0) = some c' ∧ c'.codec.state = (if pagesOf b = 0 then 2 else c'.codec.state) ∧ c'.codec.codec = r.u8 2 ∧ c'.codec.rc = r.u8 3 ∧
          c'.codec.bitrate = r.u32 0xC ∧ c'.codec.gop = r.u16 0x1C ∧ c'.codec.outCap = r.u32 0x20 ∧ c'.codec.poolOff = pg * 2 ^ 21))) ∧
  (∀ (s : State) (op ctx : Nat) (o : PendingOp) (c : Ctx), s.op? op = some o → o.kind = .mapFrames ctx → (o.code = 0x0601 ∨ o.code = 0x0602) → s.up = true → s.ctx? ctx = some c →
    ∃ (t : State) (c' : Ctx), exec (.frameMappingDone op) s = .next (t.finishOp op 0x00) ∧ t.ctx? ctx = some c' ∧ c'.codec.state = (if o.code = 0x0601 then 1 else 2) ∧ c'.codec.codec = c.codec.codec)

/-- R177, R181, R183: the commands of an open codec context. VID_FACING sets the conversion of a decode context, VID_FORCE_IDR asks that the next
frame of an encode context be an IDR, VID_FLUSH is ACCEPTED and runs after the units admitted by now, VID_QUERY and VID_CORES report.
The wrong direction is BAD_ARG. -/
def Obligations.VideoCommandsAct : Prop :=
  (∀ (s : State) (m : Mb) (r : Req) (c : Ctx), s.ctxFor r 6 = some c → s.held (2, r.u16 0) = false →
    (s.runs m 0x0603 true = some r → r.len = 44 →
      (c.codec.state ≠ 1 → exec (.vidFacing m) s = .next ((s.taken m).respond m 0x0603 r.tag { status := St.badArg })) ∧
      (c.codec.state = 1 → facingOk r = true → ∃ (t : State) (c' : Ctx) (f : Facing), exec (.vidFacing m) s = .next (t.respond m 0x0603 r.tag (okR [])) ∧ t.ctx? (r.u16 0) = some c' ∧
        c'.codec.facing = some f ∧ f.cropX = r.u16 2 ∧ f.cropY = r.u16 4 ∧ f.cropW = r.u16 6 ∧ f.cropH = r.u16 8 ∧ f.outW = r.u16 0xA ∧ f.outH = r.u16 0xC ∧ f.filter = r.u8 0xE ∧
        f.matrix = r.u8 0xF ∧ f.range = r.u8 0x10 ∧ f.chOrder = r.u8 0x11 ∧ f.outFmt = r.u8 0x12 ∧ f.layout = r.u8 0x13 ∧ c'.codec.facingRun = c.codec.facingRun ∧
        (∀ k, k ≠ r.u16 0 → t.ctx? k = s.ctx? k))) ∧
    (s.runs m 0x0604 true = some r → r.len = 4 → r.u16 2 = 0 →
      (c.codec.state ≠ 2 → exec (.vidForceIdr m) s = .next ((s.taken m).respond m 0x0604 r.tag { status := St.badArg })) ∧
      (c.codec.state = 2 → exec (.vidForceIdr m) s =
        .next (((s.taken m).updCtx (r.u16 0) fun c => { c with codec.forceIdr := true }).respond m 0x0604 r.tag (okR [])))) ∧
    (s.runs m 0x0605 true = some r → r.len = 4 → r.u16 2 = 0 → c.codec.state ≠ 0 → s.mason.lastOp + 1 < 2 ^ 32 →
      ∃ (t : State) (c' : Ctx), exec (.vidFlush m) s = .next (t.respond m 0x0605 r.tag { status := 0x01, arg := s.mason.lastOp + 1 }) ∧ t.ctx? (r.u16 0) = some c' ∧
        c'.codec.flushAt = some s.nextOrder ∧ c'.queue = c.queue ∧ t.mason.ops = s.mason.ops ++ [⟨s.mason.lastOp + 1, r.mb, r.code, r.tag, .vidFlush (r.u16 0)⟩])) ∧
  (∀ (s : State) (m : Mb) (r : Req) (c : Ctx), s.ctxFor r 6 = some c → s.runs m 0x0606 true = some r → r.len = 4 → r.u16 2 = 0 →
    exec (.vidQuery m) s = .next ((s.taken m).respond m 0x0606 r.tag (okR (leBytes 1 c.codec.state ++ leBytes 1 c.codec.codec ++ leBytes 1 c.codec.maxCores ++ [0] ++
      leBytes 2 c.codec.maxW ++ leBytes 2 c.codec.maxH ++ leBytes 8 c.codec.units ++ leBytes 8 c.codec.pictures ++ leBytes 4 c.codec.concealedN ++ leBytes 4 c.codec.dropped ++
      leBytes 4 c.codec.streamErrors ++ leBytes 4 c.codec.oversize ++ leBytes 4 c.codec.hrdViol ++ leBytes 4 0 ++ leBytes 8 c.codec.coreNs)))) ∧
  (∀ (s : State) (m : Mb) (r : Req), s.runs m 0x0607 false = some r → r.len = 0 →
    ∃ x, exec (.vidCores m) s = .next ((s.taken m).respond m 0x0607 r.tag (okR x)) ∧ x.length = 136 ∧ slice x 128 8 = leBytes 8 s.trowel.busyNs ∧
      (∀ k, k < 16 → slice x (8 * k) 1 = leBytes 1 (s.coreState k) ∧ slice x (8 * k + 4) 4 = leBytes 4 (s.core k).switches))

/-- R168, R170 to R173, R175, R176, R178, R179, R184, R223, R262, R263: the Trowel cores. A unit's bytes enter the context's ring where its copy's channel
runs and the ring's HBM serves it; a free core takes the picture that waits to restart, else the one that the run rule picks, and
another context than its last costs a switch; it loads the context's stream state, and a picture divides as its codec lets it; a free
core that joins takes the next share. The PLL starts with a picture. A codec frame boundary frees every core of the picture and adds its
core time, the pixels at their rate and 18 µs for each switch; an error lets the picture restart with the next run number, and a fourth
run ends it with ABORTED_FAULT; a decode unit that yields nothing gives one record with NO_PICTURE; the PLL stops after 2 ms with
everything gated. Motion search never leaves its window and settles ties by the stated order; a block's QP keeps its bounds. -/
def Obligations.TrowelCoresRunPictures : Prop :=
  (∀ (s : State) (ctx : Nat) (c : Ctx) (i : Item), s.ctx? ctx = some c → c.codec.state = 1 → c.toCopy = some i →
    s.hbmServes (s.spanStacks c.tenant c.codec.poolOff (2 ^ 22)) = true → s.syncSets.intRuns (.unit ctx i.order) = true →
    ∃ (t : State) (c' : Ctx), exec (.bitstreamCopyDone ctx .ok) s = .next t ∧ t.mem.hbm = (s.ringBytes c (s.hostReadN i.addr i.length)).mem.hbm ∧ t.ctx? ctx = some c' ∧
      c'.codec.copied = c.codec.copied ++ [i.order] ∧ c'.codec.ringPos = (c.codec.ringPos + i.length) % 2 ^ 22 ∧ c'.queue = c.queue ∧ t.mem.host = s.mem.host ∧
      (∀ k, k ≠ ctx → t.ctx? k = s.ctx? k)) ∧
  (∀ (s : State) (k : Nat) (i : Item) (run : Nat) (c : Ctx) (d : Division), s.trowelRuns = true → k < 16 → s.coreFree k = true → s.trowel.again = [] → s.twin.role = 0 → s.twin.trowel = [] →
    (∀ i ∈ s.queuedOn none, ∀ c, s.ctx? i.ctx = some c → s.sheddable c i = false) → s.pickPic k = some (i, run) → s.ctx? i.ctx = some c → s.badVideo c i = false → i.kind ≠ flushKind →
    ∃ (t : State) (i' : Item), exec (.trowelPictureStart k (.take d)) s = .next t ∧ (t.core k).busy = some (i.ctx, i', s.now, 1) ∧ i'.seq = i.seq ∧ i'.order = i.order ∧
      (t.core k).gated = false ∧ (t.core k).lastCtx = some i.ctx ∧ (t.core k).run = run ∧ (t.core k).share = 0 ∧
      (t.core k).switches = (if (s.core k).lastCtx = some i.ctx then (s.core k).switches else sat32 (s.core k).switches 1) ∧
      ((t.core k).switched = true ↔ (s.core k).lastCtx ≠ some i.ctx) ∧ (t.core k).stream = some c.codec.stream ∧
      (t.core k).div = (if i.kind = 0x0601 then divFor c.codec.codec d else .whole) ∧ t.trowel.pllOn = true ∧
      (∀ j, j ≠ k → (t.core j).busy = (s.core j).busy) ∧ (∀ c', t.ctx? i.ctx = some c' → ∀ x ∈ c'.queue, x.order ≠ i.order)) ∧
  (∀ (s : State) (k : Nat) (a : Nat × Item × Nat) (l : List (Nat × Item × Nat)) (d : Division), s.trowelRuns = true → k < 16 → s.coreFree k = true → s.trowel.again = a :: l →
    ∃ t : State, exec (.trowelPictureStart k (.take d)) s = .next t ∧ (t.core k).busy = some (a.2.1.ctx, a.2.1, s.now, a.2.2) ∧ t.trowel.again = l ∧ t.trowel.pllOn = true ∧
      (∀ j, j ≠ k → (t.core j).busy = (s.core j).busy) ∧ t.ctxs = s.ctxs) ∧
  (∀ (s : State) (k : Nat) (i : Item) (x : Core) (n : Nat) (b : Tick) (r : Nat), s.trowelRuns = true → k < 16 → s.coreFree k = true → s.joinPic = some (i, x) → x.busy = some (n, i, b, r) →
    ∃ t : State, exec (.trowelPictureStart k .join) s = .next t ∧ (t.core k).busy = some (i.ctx, i, b, r) ∧ (t.core k).div = x.div ∧ (t.core k).share = (s.coresOf i.ctx).length ∧
      (∀ j, j ≠ k → t.core j = s.core j) ∧ t.ctxs = s.ctxs) ∧
  (∀ (codec n : Nat), divFor 1 (.tiles n) = .whole ∧ (codec ≠ 0 → divFor codec (.wavefront n) = .whole) ∧ divFor 2 (.slices n) = .whole ∧ divFor codec .whole = .whole ∧
    (2 ≤ n → divFor 0 (.tiles n) = .tiles n ∧ divFor 2 (.tiles n) = .tiles n ∧ divFor 0 (.wavefront n) = .wavefront n ∧ divFor 0 (.slices n) = .slices n ∧ divFor 1 (.slices n) = .slices n)) ∧
  (∀ (s : State) (k cn : Nat) (i : Item) (at' : Tick) (run : Nat) (res : CodecResult), s.up = true → s.power.hold = false → s.hbmServes (s.poolStacks cn) = true → s.power.safeHoldReq = none →
    (∀ r ∈ s.sec.tenants, r.2.state ≠ 2) → (s.core k).busy = some (cn, i, at', run) → k < 16 →
    ∃ t : State, exec (.codecFrameBoundary k res none) s = .next t ∧ (∀ j ∈ s.coresOf cn, (t.core j).busy = none) ∧ (∀ j, j ∉ s.coresOf cn → (t.core j).busy = (s.core j).busy) ∧
      t.trowel.busyNs = sat64 s.trowel.busyNs (s.picNs cn i res)) ∧
  (∀ (s : State) (cn : Nat) (i : Item) (res : CodecResult) (c : Ctx), s.ctx? cn = some c →
    (i.kind = 0x0602 → s.trowel.halved = false → s.picNs cn i res = 2 * pixels c.codec.maxW c.codec.maxH + 18000 * s.switchesOf cn) ∧
    (i.kind = 0x0601 → c.codec.blocks' res = false → s.trowel.halved = false → s.picNs cn i res = pixels res.info.width res.info.height * 10 / 21 + 18000 * s.switchesOf cn) ∧
    (i.kind = 0x0601 → c.codec.blocks' res = false → s.trowel.halved = true → s.picNs cn i res = pixels res.info.width res.info.height * 10 / 21 * 2 + 18000 * s.switchesOf cn)) ∧
  (∀ (s : State) (k cn : Nat) (i : Item) (run : Nat) (res : CodecResult) (cores ns : Nat), s.tenantOpen i.tenant = true →
    (run < 4 → ∃ t : State, s.finishPic k cn i run res true cores ns = (t, []) ∧ t.trowel.again = s.trowel.again ++ [(cn, i, run + 1)] ∧ t.flt.restarts = sat32 s.flt.restarts 1) ∧
    (4 ≤ run → i.kind ≠ flushKind → ∃ (t : State) (r : Rel), s.finishPic k cn i run res true cores ns = (t, [r]) ∧ r.r.status = 0x10 ∧ r.r.seq = i.seq ∧
      t.trowel.again = s.trowel.again ∧ t.flt.aborted = sat32 s.flt.aborted 1)) ∧
  (∀ (s : State) (cn : Nat) (i : Item) (res : CodecResult) (cores ns : Nat) (c : Ctx), s.ctx? cn = some c → i.kind = 0x0601 → c.codec.unitError res = 0 → res.outputs = [] → res.eos = false →
    (s.decodeUnit cn i res cores ns).2.map (fun x => (x.r.type, x.r.status, x.r.detail % 16)) = [(3, 0, 1)]) ∧
  (∀ (s : State), s.up = true → s.trowel.pllOn = true → (∀ k, k < 16 → (s.core k).gated = true) → (∀ p, p < 4 → (s.pier p).facing = []) → 50000 ≤ s.now - s.trowel.idleAt →
    exec .trowelPllStop s = .next { s with trowel.pllOn := false }) ∧
  (windowBytes 0 = 98400 ∧ windowBytes 1 = 63840 ∧ columnBytes 0 = 19200 ∧ columnBytes 1 = 3648) ∧
  (∀ (codec : Nat) (cur ref : Luma) (bx by' : Nat), -512 ≤ (searchUnit codec cur ref bx by').1 ∧ (searchUnit codec cur ref bx by').1 ≤ 512 ∧
    -256 ≤ (searchUnit codec cur ref bx by').2 ∧ (searchUnit codec cur ref bx by').2 ≤ 256) ∧
  (∀ (l : List Mv) (b : Mv), (bestMv l b = b ∨ bestMv l b ∈ l) ∧ (∀ c ∈ l, (bestMv l b).cost ≤ c.cost ∧
    (c.cost = (bestMv l b).cost → (bestMv l b).x * (bestMv l b).x + (bestMv l b).y * (bestMv l b).y ≤ c.x * c.x + c.y * c.y) ∧
    (c.cost = (bestMv l b).cost → c.x * c.x + c.y * c.y = (bestMv l b).x * (bestMv l b).x + (bestMv l b).y * (bestMv l b).y →
      (bestMv l b).y ≤ c.y ∧ (c.y = (bestMv l b).y → (bestMv l b).x ≤ c.x)))) ∧
  (∀ (x : Codec) (frame : Nat) (r : Roi), x.qpMin ≤ x.qpMax → x.qpMax ≤ 51 → x.qpMin ≤ x.blockQp frame (some r) ∧ x.blockQp frame (some r) ≤ x.qpMax ∧
    ((x.qpMin : Int) ≤ frame + r.off → (frame : Int) + r.off ≤ x.qpMax → (x.blockQp frame (some r) : Int) = frame + r.off) ∧ x.blockQp frame none = frame)

/-- R223, R224, R227, R228: the governor. A draw above B starts the floor step: every rate level above 8 falls to 8 and FLOOR_STEP is posted; 40 µs later,
still above B, to 4 or a higher level that fits is not exceeded; every 1 ms the lowest levels rise by one while the prediction stays within 99 % of B. PWR_ALERT_N sets every
level to at most 4 and posts PWR_ALERT; while it is asserted no level rises; its release posts PWR_ALERT and the climb goes on from there. A
draw within B outside a floor step changes only the measured draw, whose 1 ms mean PWR_STATUS gives. A Pier runs at the clock of the highest
rate level of its four Courses, whatever their thermal limits. -/
def Obligations.GovernorKeepsTheBudget : Prop :=
  ∀ (s : State), s.up = true → s.power.hold = false → s.therm.quench = false →
    (∀ w : Nat, s.budget16 < 16 * (w : Int) → s.power.floor = false →
      ∃ t : State, exec (.governorSample w) s = .next t ∧ t.power.pinW = w ∧ t.power.samples = (w :: s.power.samples).take 100 ∧ t.power.floor = true ∧ t.power.floorAt = s.now ∧ t.power.floorSteps = sat32 s.power.floorSteps 1 ∧
        (∀ c, c < 16 → (t.course c).r = min 8 (s.course c).r) ∧ eventPosted s t 0x0804 0 0 (leBytes 2 s.budgetW ++ leBytes 1 t.lowestRate) ∧ t.parts = s.parts ∧ t.ctxs = s.ctxs) ∧
    (∀ w : Nat, 16 * (w : Int) ≤ s.budget16 → exec (.governorSample w) s = .next { s with power.pinW := w, power.samples := (w :: s.power.samples).take 100 }) ∧
    (∀ w fit : Nat, s.budget16 < 16 * (w : Int) → s.power.floor = true → s.power.climbing = false → 1000 ≤ s.now - s.power.floorAt → 1 ≤ fit →
      ∃ t : State, exec (.floorStepSecondStage w fit) s = .next t ∧ (∀ c, c < 16 → (t.course c).r = min (min 4 fit) (s.course c).r) ∧ t.parts = s.parts ∧ t.power.floor = true) ∧
    (∀ w q : Nat, 16 * (w : Int) ≤ s.budget16 → s.power.floor = true → s.power.pwrAlertN = true → 25000 ≤ s.now - s.power.floorAt →
      (s.lowestRate < 15 → 1600 * (q : Int) ≤ 99 * s.budget16 →
        ∃ t : State, exec (.rateClimb w q) s = .next t ∧ (∀ c, c < 16 → (t.course c).r = if (s.course c).r = s.lowestRate then (s.course c).r + 1 else (s.course c).r) ∧
          t.power.floorAt = s.now ∧ t.power.climbing = true ∧ t.power.floor = true) ∧
      (99 * s.budget16 < 1600 * (q : Int) → ∃ t : State, exec (.rateClimb w q) s = .next t ∧ (∀ c, c < 16 → (t.course c).r = (s.course c).r) ∧ t.power.floor = false)) ∧
    (∀ w q : Nat, s.power.pwrAlertN = false → exec (.rateClimb w q) s = .next s) ∧
    (s.power.pwrAlertN = true →
      ∃ t : State, exec .pwrAlertNAssert s = .next t ∧ t.power.pwrAlertN = false ∧ (∀ c, c < 16 → (t.course c).r = min 4 (s.course c).r) ∧ t.power.floor = true ∧
        t.power.alerts = sat32 s.power.alerts 1 ∧ eventPosted s t 0x0809 0 0 [1] ∧ t.parts = s.parts) ∧
    (s.power.pwrAlertN = false →
      ∃ t : State, exec .pwrAlertNRelease s = .next t ∧ t.power.pwrAlertN = true ∧ t.power.floorAt = s.now ∧ t.power.floor = s.power.floor ∧ t.courses = s.courses ∧ eventPosted s t 0x0809 0 0 [0]) ∧
    (∀ p hi : Nat, (∀ i, i < 4 → (s.course (4 * p + i)).r ≤ hi) → (∃ i, i < 4 ∧ (s.course (4 * p + i)).r = hi) →
      s.pierClock p = if 9 ≤ hi then 1500 else if 5 ≤ hi then 750 else 375)

/-- R227, R229, R236, R237: the power commands, the cap's lease and the orderly shutdown. PWR_CAP from 300 to 1,500 W puts the cap in force, renews the
lease and answers B; a cap below the one in force starts the floor step; outside it is BAD_ARG; after 5 s the lease lapses and after 60 s more the fallback cap applies, each posted. PWR_PROFILE
stores the profile. PWR_SHUTDOWN is ACCEPTED and drains for DRAIN_MS, Hold time not counted; then, not in a Hold, what has not started ends CANCELLED, the BIST record is written
and the command ends with OK, and 10 ms later every stage but the AON supply is off. -/
def Obligations.PowerCommandsAct : Prop :=
  (∀ (s : State) (m : Mb) (r : Req), s.runs m 0x0801 false = some r → r.len = 4 → r.u16 2 = 0 →
    ((r.u16 0 < 300 ∨ 1500 < r.u16 0) → exec (.pwrCap m) s = .next ((s.taken m).respond m 0x0801 r.tag { status := St.badArg })) ∧
    (300 ≤ r.u16 0 → r.u16 0 ≤ 1500 → ∃ t : State, exec (.pwrCap m) s = .next (t.respond m 0x0801 r.tag (okR (leBytes 2 t.budgetW ++ leBytes 1 t.limitSrc ++ [0]))) ∧
      t.power.capW = r.u16 0 ∧ t.power.lease = 0 ∧ t.power.leaseAt = s.now ∧ t.ctxs = s.ctxs ∧ t.parts = s.parts ∧
      (r.u16 0 < s.power.capW → s.power.hold = false → s.therm.quench = false → t.power.floor = true ∧ t.power.floorAt = s.now ∧ t.power.floorSteps = sat32 s.power.floorSteps 1 ∧
        ∀ c, c < 16 → (t.course c).r = min 8 (s.course c).r))) ∧
  (∀ (s : State), s.up = true → s.power.lease = 0 → 125000000 ≤ s.now - s.power.leaseAt →
    ∃ t : State, exec .leaseLapsed s = .next t ∧ t.power.lease = 1 ∧ t.power.leaseAt = s.now ∧ t.power.capW = s.power.capW ∧ eventPosted s t 0x0805 0 0 (leBytes 2 s.power.capW)) ∧
  (∀ (s : State), s.up = true → s.power.lease = 1 → 1500000000 ≤ s.now - s.power.leaseAt →
    ∃ t : State, exec .fallbackCap s = .next t ∧ t.power.lease = 2 ∧ t.power.capW = s.fallbackW ∧ t.parts = s.parts) ∧
  (∀ (s : State) (m : Mb) (r : Req), s.runs m 0x0802 false = some r → r.len = 4 → field r.pay 1 3 = 0 →
    (1 < r.u8 0 → exec (.pwrProfile m) s = .next ((s.taken m).respond m 0x0802 r.tag { status := St.badArg })) ∧
    (r.u8 0 ≤ 1 → ∃ t : State, exec (.pwrProfile m) s = .next (t.respond m 0x0802 r.tag (okR (leBytes 1 t.profile ++ [0, 0, 0]))) ∧ t.power.eco = (r.u8 0 == 1) ∧
      (t.safeCauses ≠ 0 → t.profile = 2) ∧ (t.safeCauses = 0 → t.profile = r.u8 0) ∧ t.power.capW = s.power.capW)) ∧
  (∀ (s : State) (m : Mb) (r : Req), s.runs m 0x0803 false = some r → r.len = 0 →
    ∃ x, exec (.pwrStatus m) s = .next ((s.taken m).respond m 0x0803 r.tag (okR (leBytes 2 s.power.vinMv ++ leBytes 2 (sumNat s.power.samples / max 1 s.power.samples.length) ++ leBytes 2 s.budgetW ++ leBytes 2 s.power.capW ++
      leBytes 2 s.fallbackW ++ leBytes 1 s.power.lease ++ leBytes 1 s.safeCauses ++ x ++ leBytes 4 s.power.holds ++ leBytes 4 s.power.floorSteps ++ leBytes 4 s.power.alerts ++
      leBytes 8 (min s.power.holdNs 0xFFFFFFFFFFFFFFFF)))) ∧ x = ((List.range 16).map fun c => leBytes 1 (s.course c).r).flatten) ∧
  (∀ (s : State) (m : Mb) (r : Req), s.runs m 0x0804 false = some r → r.len = 4 →
    (60000 < r.u32 0 → exec (.pwrShutdown m) s = .next ((s.taken m).respond m 0x0804 r.tag { status := St.badArg })) ∧
    (r.u32 0 ≤ 60000 → s.held (11, 0) = false → s.fw.act = none → s.mason.lastOp + 1 < 2 ^ 32 →
      ∃ t : State, exec (.pwrShutdown m) s = .next (t.respond m 0x0804 r.tag { status := 0x01, arg := s.mason.lastOp + 1 }) ∧ t.power.phase = 3 ∧ t.power.drain = some (r.u32 0, s.now - s.power.holdTicks) ∧
        t.power.shutStep = 1 ∧ t.ctxs = s.ctxs ∧ t.parts = s.parts ∧ t.mason.ops = s.mason.ops ++ [⟨s.mason.lastOp + 1, r.mb, r.code, r.tag, .shutdown⟩])) ∧
  (∀ (s : State) (ms : Nat) (at' : Tick), s.power.drain = some (ms, at') → s.up = true → s.power.shutStep = 1 →
    (s.power.hold = false → (25000 * ms ≤ s.now - s.power.holdTicks - at' ∨ s.allDone = true) →
      exec .shutdownDrainTimeout s = .next { s.endAllQueued (fun _ => true) St.cancelled with power.shutStep := 2 }) ∧
    (s.power.hold = true → exec .shutdownDrainTimeout s = .next s)) ∧
  (∀ (s : State) (n : Nat), s.up = true → s.power.shutStep = 2 → s.anyJob = false → s.power.hold = false →
    ∃ t : State, exec (.shutdownBistDone [] n) s = .next t ∧ t.power.shutStep = 4 ∧ t.power.shutAt = s.now ∧ (∃ r, t.fw.shutRec = some r ∧ r.results = n % 8 ∧ r.ledger = s.ledgerDigest) ∧
      (∀ o ∈ t.mason.ops, o.kind ≠ .shutdown)) ∧
  (∀ (s : State), s.up = true → s.power.shutStep = 4 → 250000 ≤ s.now - s.power.shutAt → s.power.hold = false →
    ∃ t : State, exec .shutdownPowerOff s = .next t ∧ t.power.stages = false ∧ t.power.aon = true ∧ t.host.linkUp = false ∧ t.parts = [] ∧ t.ctxs = [] ∧ t.power.shutStep = 4 ∧
      t.now = s.now ∧ t.fw.shutRec = s.fw.shutRec ∧ t.flt.ledger = s.flt.ledger)

/-- R225, R230: the input comparators. Below 43.0 V a Hold begins and is posted, its count rises and periodic tests are aborted; above 44 V the 1 ms
before work resumes begins, and the end of the Hold is posted with its length and least voltage; 20 ms below 43.0 V give the Safe cause and
10 s above 44 V clear it; 1 ms above 58.0 V is posted once per minute. No context changes, and a Hold ends no job. During the start-up, with PERST_N
asserted, the Hold and the Safe cause act too, and a held step 7 brings the link up when the Hold ends. -/
def Obligations.SupplyVoltageHoldsAndSafe : Prop :=
  ∀ (s : State), s.power.stages = true →
    (∀ mv, 40000 ≤ mv → mv < 43000 → s.power.hold = false →
      ∃ t : State, exec (.supplyHold mv) s = .next t ∧ t.power.hold = true ∧ t.power.holdAt = s.now ∧ t.power.holdMin = mv ∧ t.power.holds = sat32 s.power.holds 1 ∧ t.power.vinMv = mv ∧
        eventPosted s t 0x0801 0 0 (leBytes 2 mv) ∧ t.parts = s.parts ∧ t.ctxs = s.ctxs ∧ (∀ c, (t.course c).r = (s.course c).r)) ∧
    (∀ mv, 40000 ≤ mv → mv < 43000 → s.power.hold = true →
      ∃ t : State, exec (.supplyHold mv) s = .next t ∧ t.power.hold = true ∧ t.power.holdAt = s.power.holdAt ∧ t.power.holdMin = min s.power.holdMin mv ∧ t.parts = s.parts) ∧
    (∀ mv, 44000 < mv → mv ≤ 58000 →
      ∃ t : State, exec (.supplyRecovered mv) s = .next t ∧ t.power.vinMv = mv ∧ t.power.lowAt = none ∧ (s.power.recoverAt = none → t.power.recoverAt = some s.now) ∧
        (∀ u, s.power.recoverAt = some u → t.power.recoverAt = some u) ∧ t.power.hold = s.power.hold ∧ t.parts = s.parts ∧ t.ctxs = s.ctxs) ∧
    (∀ u, s.power.hold = true → s.power.recoverAt = some u → 25000 ≤ s.now - u → (∀ c, (s.course c).reqs = []) → s.fab.heldOut = [] →
      ∃ t : State, exec .holdEnd s = .next t ∧ t.power.hold = false ∧ t.parts = s.parts ∧ t.ctxs = s.ctxs ∧ t.mem = s.mem ∧
        (s.power.heldStep7 = true → s.power.perstN = true → s.sec.life ≠ 4 → t.host.linkUp = true ∧ t.power.heldStep7 = false)) ∧
    (∀ u, s.power.safeSupply = false → s.power.lowAt = some u → 500000 ≤ s.now - u →
      ∃ t : State, exec .longDip s = .next t ∧ t.power.safeSupply = true ∧ t.profile = 2 ∧ t.parts = s.parts ∧ t.ctxs = s.ctxs) ∧
    (∀ u, s.up = true → s.power.safeSupply = true → s.power.okAt = some u → 250000000 ≤ s.now - u →
      ∃ t : State, exec (.safeCauseClear 0) s = .next t ∧ t.power.safeSupply = false ∧ t.parts = s.parts ∧ t.ctxs = s.ctxs ∧ t.therm = s.therm) ∧
    (∀ mv u, s.up = true → 58000 < mv → mv ≤ 59500 → s.power.highAt = some u → 25000 ≤ s.now - u → s.power.highPost = none →
      ∃ t : State, exec (.supplyHigh mv) s = .next t ∧ t.power.highPost = some s.now ∧ t.power.vinMv = mv ∧ eventPosted s t 0x0808 0 0 (leBytes 2 mv) ∧ t.parts = s.parts) ∧
    (∀ mv, s.up = true → 58000 < mv → mv ≤ 59500 → s.power.highAt = none →
      ∃ t : State, exec (.supplyHigh mv) s = .next t ∧ t.power.highAt = some s.now ∧ t.power.highPost = s.power.highPost ∧ t.host.eq = s.host.eq) ∧
    (∀ mv u, s.up = true → 58000 < mv → mv ≤ 59500 → s.power.highPost = some u → s.now - u < 1500000000 →
      ∃ t : State, exec (.supplyHigh mv) s = .next t ∧ t.power.highPost = some u ∧ t.host.eq = s.host.eq)

/-- R223, R230, R232 to R235, R244, R250, R340: the resets and the start. A power-fail reset and an over-voltage lockout keep a record with the cause and the
partitions RUNNING; EPO_N and THERMTRIP_N keep none; each turns every stage off, all but the lockout also the AON supply with its counter, and contexts, partitions, plan images, tenants, rings
and frames are lost. Where only retired diodes read 115 °C nothing trips (log 48), and a lockout ends only 0.3 V below its level. Releasing EPO_N with 54 V present starts the AON supply; AON power-up turns the stages on and holds step 7 while PERST_N is
asserted; its release then brings the link up. PERST_N asserted while the module runs is a warm reset, which keeps the AON counter and the fuse
ledger, and its release runs the start again with BOOT advanced. -/
def Obligations.ResetsLoseWorkAndStart : Prop :=
  (∀ (s : State) (mv : Nat), s.power.stages = true →
    (mv < 40000 → ∃ t : State, exec (.powerFailReset mv) s = .next t ∧ t.power.stages = false ∧ t.power.aon = false ∧ t.now = 0 ∧
      t.fw.failRec = some (0, (s.parts.filter fun p => p.2.job.isSome).length, s.now) ∧
      t.parts = [] ∧ t.ctxs = [] ∧ t.plans = [] ∧ t.sec.tenants = [] ∧ t.mem.frames = [] ∧ t.host.vfs = [] ∧ t.power.vinMv = mv) ∧
    (59500 < mv → ∃ t : State, exec (.overVoltageLockout mv) s = .next t ∧ t.power.stages = false ∧ t.power.aon = true ∧ t.now = s.now ∧ t.power.lockout = true ∧
      t.fw.failRec = some (1, (s.parts.filter fun p => p.2.job.isSome).length, s.now) ∧
      t.parts = [] ∧ t.ctxs = [] ∧ t.plans = [] ∧ t.sec.tenants = [] ∧ t.mem.frames = [] ∧ t.host.vfs = [] ∧ t.power.vinMv = mv)) ∧
  (∀ (s : State) (i : Instr) (tt ep : Bool), ((i = .epoNAssert ∧ s.power.epoN = true ∧ tt = false ∧ ep = false) ∨ (i = .thermtrip ∧ s.power.stages = true ∧ ((∃ n, n < 152 ∧ ((1840 ≤ (s.pair n).dA ∧ (s.pair n).aRetired = false) ∨ (1840 ≤ (s.pair n).dB ∧ (s.pair n).bRetired = false))) ∨ (∃ n, n < 8 ∧ 115 ≤ (s.stack n).temp) ∨
      ∀ n, n < 152 → (s.pair n).dA < 1840 ∧ (s.pair n).dB < 1840) ∧ tt = true ∧ ep = s.power.epoN)) →
    ∃ t : State, exec i s = .next t ∧ t.power.stages = false ∧ t.power.aon = false ∧ t.now = 0 ∧ t.fw.failRec = s.fw.failRec ∧ t.power.thermtrip = tt ∧ t.power.epoN = ep ∧ t.parts = [] ∧ t.ctxs = [] ∧
      t.plans = [] ∧ t.sec.tenants = [] ∧ t.mem.frames = []) ∧
  (∀ (s : State), (∀ n, n < 8 → (s.stack n).temp < 115) → (∃ n, n < 152 ∧ (1840 ≤ (s.pair n).dA ∨ 1840 ≤ (s.pair n).dB)) →
    (∀ n, n < 152 → (1840 ≤ (s.pair n).dA → (s.pair n).aRetired = true) ∧ (1840 ≤ (s.pair n).dB → (s.pair n).bRetired = true)) → exec .thermtrip s = .next s) ∧
  (∀ (s : State), s.power.epoN = false → (s.power.vinMv ≤ 44000 → exec .epoNRelease s = .next { s with power.epoN := true }) ∧
    (44000 < s.power.vinMv → ∃ t : State, exec .epoNRelease s = .next t ∧ t.power.epoN = true ∧ t.power.aon = true ∧ t.power.stages = false ∧ t.now = 0)) ∧
  (∀ (s : State), s.power.perstN = true → s.power.stages = true → s.power.heldStep7 = false →
    ∃ t : State, exec .perstNAssert s = .next t ∧ t.power.perstN = false ∧ t.up = false ∧ t.host.linkUp = false ∧ t.parts = [] ∧ t.ctxs = [] ∧ t.plans = [] ∧ t.sec.tenants = [] ∧ t.mem.frames = [] ∧
      t.now = s.now ∧ t.flt.ledger = s.flt.ledger ∧ t.fw.boot = s.fw.boot ∧ t.power.aon = s.power.aon ∧ t.power.stages = true) ∧
  (∀ (s : State) (ok : Bool) (f : List (Nat × Nat × Nat)), s.power.perstN = false → s.power.stages = true → s.power.heldStep7 = true → s.power.hold = false → s.sec.life ≠ 4 → s.power.phase ≠ 2 →
    ∃ t : State, exec (.perstNRelease ok f) s = .next t ∧ t.power.perstN = true ∧ t.host.linkUp = true ∧ t.power.phase = 1 ∧ t.power.heldStep7 = false ∧ t.fw.selSampled = s.power.compatSel ∧ t.now = s.now) ∧
  (∀ (s : State), s.fw.act = none → s.fw.stored.isSome = true → (s.sec.lifeFused = 1 ∨ s.sec.lifeFused = 2) →
    (∀ mv, 44000 < mv → mv ≤ 59500 → (s.power.lockout = true → mv ≤ 59200) → s.power.epoN = true → s.power.thermtrip = false → s.power.stages = false → s.power.perstN = false → s.host.linkUp = false →
      ∃ t : State, exec (.aonPowerUp mv true []) s = .next t ∧ t.power.vinMv = mv ∧ t.power.aon = true ∧ t.power.stages = true ∧ t.power.heldStep7 = true ∧ t.host.linkUp = false ∧
        t.fw.boot = min 0xFFFF (s.fw.boot + 1) ∧ t.fw.shutRec = none) ∧
    (s.power.perstN = false → s.power.stages = true → s.power.heldStep7 = false → s.power.hold = false → s.power.phase ≠ 2 →
      ∃ t : State, exec (.perstNRelease true []) s = .next t ∧ t.power.perstN = true ∧ t.host.linkUp = true ∧ t.power.phase = 1 ∧ t.fw.boot = min 0xFFFF (s.fw.boot + 1) ∧ t.now = s.now)) ∧
  (∀ (s : State) (mv : Nat) (ok : Bool) (f : List (Nat × Nat × Nat)), (s.power.epoN = false ∨ (s.power.lockout = true ∧ 59200 < mv)) → exec (.aonPowerUp mv ok f) s = .next s)

/-- R239 to R242, R251 to R253, R341: the coolant. A raw value of 0xFFFF, no answer and a stuck bus are failed reads, any other raw value is raw × gain + offset by the calibration record; an answered read of FLOW enters the readings and F is the mean of the newest ten; the third failed read in a
row makes a sensor silent, with 1.19 L/min, 40 °C, or the inlet and 14 °C in its place. P_FLOW falls by steps of at least 25 W and rises by steps of at least 50 W. A row whose
condition has held for its time is set or cleared. Two reads below 0.3 L/min begin Quench: Courses are off, HBM refreshes itself; 30 s later, still below, the
second stage gates the Trowel cores; 10 s of flow end it. A stuck I3C bus makes the sensors silent and a freed one is noted. The thermal commands report. -/
def Obligations.CoolantReadingsAndQuench : Prop :=
  (∀ (s : State) (k : Nat) (raw : Int), s.sensed k .fail = none ∧ (s.therm.i3cStuck.isSome = true → s.sensed k (.val raw) = none) ∧ (raw.toNat % 65536 = 65535 → s.sensed k (.val raw) = none) ∧
    (∀ p, s.fw.profile = some p → s.therm.i3cStuck = none → raw.toNat % 65536 ≠ 65535 → s.sensed k (.val raw) = some (sensorValue p.sensors k raw.toNat))) ∧
  (∀ (s : State) (v : Nat) (raw : Int), s.up = true → s.sensed 0 (.val raw) = some (v : Int) → s.therm.flow.silent = false → 1200 ≤ v → (∀ x ∈ s.therm.flows, x.getD 0 ≤ 2 * v) →
    ∃ t : State, exec (.flowSample (.val raw)) s = .next t ∧ t.therm.flows = ((some v :: s.therm.flows).take 102) ∧ t.therm.flow.fails = 0 ∧ t.therm.flow.silent = false ∧
      t.therm.fMean = sumNat ((t.therm.flows.filterMap id).take 10) / ((t.therm.flows.filterMap id).take 10).length ∧ t.therm.quench = s.therm.quench ∧ t.parts = s.parts ∧ t.ctxs = s.ctxs) ∧
  (∀ (s : State), s.up = true → s.therm.flow.silent = false → s.therm.flow.fails = 2 →
    ∃ t : State, exec (.flowSample .fail) s = .next t ∧ t.therm.flow.silent = true ∧ t.therm.fMean = 1190 ∧ t.safeCauses ≠ 0 ∧ t.profile = 2 ∧ t.therm.quench = s.therm.quench ∧ t.parts = s.parts ∧ t.ctxs = s.ctxs) ∧
  (∀ (s : State) (v g : Nat) (raw : Int) (rest : List (Option Nat)), s.up = true → s.sensed 0 (.val raw) = some (v : Int) → s.therm.flow.silent = false → s.therm.quench = false → v < 300 → g < 300 →
    s.therm.flows = some g :: rest → (∀ q ∈ s.parts, q.2.job = none) →
    ∃ t : State, exec (.flowSample (.val raw)) s = .next t ∧ t.therm.quench = true ∧ t.therm.quenchAt = s.now ∧ t.therm.stage2 = false ∧ t.therm.quenches = sat32 s.therm.quenches 1 ∧
      (∀ c, c < 16 → (t.course c).power = 0) ∧ (∀ p ∈ t.piers, p.2.selfRefresh = true) ∧ t.parts = s.parts ∧ t.ctxs = s.ctxs) ∧
  (∀ (s : State) (ri ro i o : Int), s.up = true → s.sensed 1 (.val ri) = some i → s.sensed 2 (.val ro) = some o → s.therm.inletS.silent = false → s.therm.outletS.silent = false →
    ∃ t : State, exec (.tempSample (.val ri) (.val ro)) s = .next t ∧ t.therm.inlet = i ∧ t.therm.outlet = o ∧ t.therm.fMean = s.therm.fMean ∧ t.parts = s.parts ∧ t.ctxs = s.ctxs) ∧
  (∀ (s : State), s.up = true → s.therm.inletS.silent = false → s.therm.inletS.fails = 2 → s.therm.outletS.silent = false → s.therm.outletS.fails = 2 →
    ∃ t : State, exec (.tempSample .fail .fail) s = .next t ∧ t.therm.inletS.silent = true ∧ t.therm.outletS.silent = true ∧ t.therm.inlet = 640 ∧ t.therm.outlet = 864 ∧ t.parts = s.parts ∧ t.ctxs = s.ctxs) ∧
  (∀ (s : State) (p : Int), s.up = true → p = min 24000 (15 * (s.therm.fMean : Int)) - (if 640 < s.therm.inlet then 60 * (s.therm.inlet - 640) else 0) →
    ∃ t : State, exec .pflowUpdate s = .next t ∧ t.therm.pFlow = (if p ≤ s.therm.pFlow - 400 ∨ s.therm.pFlow + 800 ≤ p then p else s.therm.pFlow) ∧ t.therm.inlet = s.therm.inlet ∧ t.parts = s.parts ∧ t.ctxs = s.ctxs) ∧
  (∀ (s : State) (row : Nat) (u : Tick), s.up = true → row < 6 → (s.therm.row row).since = some u → dwellTime row (s.therm.row row).on ≤ s.now - u →
    ∃ t : State, exec (.coolantStateDwell row) s = .next t ∧ t.therm = s.therm.setRow row { on := !(s.therm.row row).on, since := none } ∧ t.parts = s.parts ∧ t.ctxs = s.ctxs) ∧
  (∀ (s : State) (cause : Nat) (u : Tick), s.up = true → cause = 1 → s.therm.safeFlow.on = true → s.therm.safeFlow.since = some u → 250000000 ≤ s.now - u →
    ∃ t : State, exec (.safeCauseClear cause) s = .next t ∧ t.therm = { s.therm with safeFlow := { on := false, since := none } } ∧ t.parts = s.parts) ∧
  (∀ (s : State) (u : Tick), s.up = true → s.therm.quench = true → s.therm.okAt = some u → 250000000 ≤ s.now - u → (∀ q ∈ s.parts, s.partWork q.1 q.2 = false) → s.mem.lossBuf = [] →
    ∃ t : State, exec .quenchEnd s = .next t ∧ t.therm = { s.therm with quench := false, stage2 := false } ∧ t.parts = s.parts ∧ t.ctxs = s.ctxs) ∧
  (∀ (s : State) (f : Nat) (rest : List (Option Nat)), s.up = true → s.therm.quench = true → s.therm.stage2 = false → 750000000 ≤ s.now - s.therm.quenchAt → s.therm.flows = some f :: rest → f < 300 →
    ∃ t : State, exec .quenchStage2 s = .next t ∧ t.therm = { s.therm with stage2 := true } ∧ (∀ c ∈ t.trowel.cores, c.2.gated = true) ∧ t.parts = s.parts ∧ eventPosted s t 0x0904 0 0 []) ∧
  (∀ (s : State), s.up = true → (s.therm.i3cStuck = none ∨ ∃ u, s.therm.i3cStuck = some u ∧ 2500000 ≤ s.now - u) →
    exec (.i3cBusRecovery true) s = .next { s with therm.i3cStuck := none } ∧
    ∃ t : State, exec (.i3cBusRecovery false) s = .next t ∧ t.therm.i3cStuck = some s.now ∧ t.therm.flow.silent = true ∧ t.therm.inletS.silent = true ∧ t.therm.outletS.silent = true ∧ t.parts = s.parts ∧ t.ctxs = s.ctxs) ∧
  (∀ (s : State) (m : Mb) (r : Req), s.runs m 0x0901 false = some r → r.len = 0 →
    ∃ x, exec (.thermStatus m) s = .next ((s.taken m).respond m 0x0901 r.tag (okR (temp16 s.therm.inlet ++ temp16 s.therm.outlet ++ leBytes 2 s.therm.fMean ++ leBytes 2 (s.therm.pFlow / 16).toNat ++ x ++
      temp16 s.hottest.1 ++ leBytes 2 s.hottest.2 ++ leBytes 4 s.therm.quenches ++ leBytes 4 s.therm.rotations ++ leBytes 4 s.therm.throttleMs ++ leBytes 2 s.therm.drift ++ leBytes 2 s.therm.sensorsRetired))) ∧ x.length = 4) ∧
  (∀ (s : State) (m : Mb) (r : Req), s.runs m 0x0902 false = some r → r.len = 4 → r.u16 2 = 0 →
    ((3 < r.u8 0 ∨ 3 < r.u8 1) → exec (.thermCourse m) s = .next ((s.taken m).respond m 0x0902 r.tag { status := St.badArg })) ∧
    (r.u8 0 ≤ 3 → r.u8 1 ≤ 3 → ∀ c, c = r.u8 0 * 4 + r.u8 1 →
      exec (.thermCourse m) s = .next ((s.taken m).respond m 0x0902 r.tag (okR (leBytes 1 (s.course c).t ++ leBytes 1 (s.course c).tNext ++ (if (s.course c).idle.isSome then [97] else [94]) ++
        leBytes 1 (boolN (s.course c).refRetired) ++ temp16 (s.course c).refTemp ++ temp16 (s.courseMedian c) ++ ((List.range 9).map (s.tileEntry c)).flatten))))) ∧
  (∀ (s : State) (m : Mb) (r : Req), s.runs m 0x0903 false = some r → r.len = 0 →
    exec (.thermHbm m) s = .next ((s.taken m).respond m 0x0903 r.tag (okR ((List.range 8).map fun i => temp16 (16 * (s.stack i).temp) ++ leBytes 1 (s.stack i).state ++ [0]).flatten)))

/-- R91, R243 to R249: the diodes and stacks. Two diodes within 3 °C give the higher, up to 10 °C and beyond it for less than 100 ms the higher and 2 °C; a failed read retires the
diode and the hot spot is the other's and 3 °C; a disagreement above 10 °C for 100 ms queues a sensor test, which runs on the idle tile for 3 ms and retires a diode more
than 5 °C off the Course reference plus the model's offset, at most 1 °C; 105 °C for 1 ms is a Safe cause. A model update predicts at least the measured hot spot, adds the offset, and divides the Trowel PLL by the Plinth's
heat. A Course whose level leaves or regains 16 posts THERM_THROTTLE. A stack's sample gives its state with 2 °C of hysteresis, and three failed reads are state 4 at 91 °C. -/
def Obligations.DiodesAndStacks : Prop :=
  (∀ (s : State) (c n : Nat), ((s.setThrottle c n).course c).t = n ∧ (s.setThrottle c n).parts = s.parts ∧
    ((s.course c).t = 16 → n < 16 → eventPosted s (s.setThrottle c n) 0x0905 2 c (leBytes 1 n ++ [0] ++ leBytes 2 (unsigned 16 (s.courseHot c)))) ∧
    ((s.course c).t < 16 → n = 16 → eventPosted s (s.setThrottle c n) 0x0905 2 c (leBytes 1 16 ++ [0] ++ leBytes 2 (unsigned 16 (s.courseHot c)))) ∧
    ((s.course c).t < 16 → n < 16 → s.setThrottle c n = s.updCourse c fun k => { k with t := n })) ∧
  (∀ (s : State) (n : Nat) (a b v : Int) (band : Nat), s.pairRead n = true → (s.pair n).aRetired = false → (s.pair n).bRetired = false → v < 1680 →
    ((-48 ≤ a - b ∧ a - b ≤ 48 ∧ v = max a b ∧ band = 0) ∨ ((a - b < -48 ∨ 48 < a - b) ∧ -160 ≤ a - b ∧ a - b ≤ 160 ∧ v = max a b + 32 ∧ band = 1) ∨
      ((a - b < -160 ∨ 160 < a - b) ∧ (s.pair n).disagreeAt = none ∧ v = max a b + 32 ∧ band = 2)) →
    ∃ t : State, exec (.diodeSample n (.val a) (.val b)) s = .next t ∧ (t.pair n).meas = v ∧ (t.pair n).pred = max (s.pair n).pred v ∧ (t.pair n).band = band ∧ (t.pair n).dA = a ∧ (t.pair n).dB = b ∧
      (band = 2 → (t.pair n).disagreeAt = some s.now) ∧ t.parts = s.parts ∧ t.ctxs = s.ctxs) ∧
  (∀ (s : State) (n : Nat) (u : Tick), s.pairRead n = true → (s.pair n).disagreeAt = some u → 2500000 ≤ s.now - u →
    exec (.disagreeDwell n) s = .next (s.updPair n fun x => { x with band := 3, testQueued := x.testQueued || !(decide (n < 144) && (s.course (n / 9)).refRetired) })) ∧
  (∀ (s : State) (n : Nat) (u : Tick), s.pairRead n = true → s.therm.safeJunction.on = false → (s.pair n).hotAt = some u → 25000 ≤ s.now - u →
    ∃ t : State, exec (.junctionDwell n) s = .next t ∧ t.therm = { s.therm with safeJunction := { on := true, since := none } } ∧ t.safeCauses ≠ 0 ∧ t.profile = 2 ∧ t.parts = s.parts ∧ t.ctxs = s.ctxs) ∧
  (∀ (s : State) (n : Nat), n < 144 → s.pairRead n = true → (s.pair n).testQueued = true → (s.course (n / 9)).idle = some (n % 9) → (s.course (n / 9)).occupied = none → (s.course (n / 9)).refRetired = false →
    exec (.sensorTest n) s = .next (s.updCourse (n / 9) fun k => { k with occupied := some (1, s.now) })) ∧
  (∀ (s : State) (n : Nat) (u : Tick) (a b ref dA dB : Int), dA = a - (ref + min 16 ((s.tile n).offset16 s.now)) → dB = b - (ref + min 16 ((s.tile n).offset16 s.now)) → n < 144 → s.pairRead n = true → (s.pair n).testQueued = true → (s.course (n / 9)).idle = some (n % 9) → (s.course (n / 9)).occupied = some (1, u) →
    75000 ≤ s.now - u → (s.course (n / 9)).reqs = [] → dB.natAbs ≤ 80 → (s.pair n).aRetired = false → (s.pair n).bRetired = false →
    (dA.natAbs ≤ 80 → ∃ t : State, exec (.sensorTestDone n (a, b) ref) s = .next t ∧ (t.pair n).testQueued = false ∧ (t.pair n).aRetired = false ∧ (t.pair n).bRetired = false ∧
      (t.course (n / 9)).occupied = none ∧ t.flt.transient = sat32 s.flt.transient 1 ∧ t.parts = s.parts) ∧
    (80 < dA.natAbs → ∃ t : State, exec (.sensorTestDone n (a, b) ref) s = .next t ∧ (t.pair n).testQueued = false ∧ (t.pair n).aRetired = true ∧ (t.pair n).bRetired = false ∧
      (t.course (n / 9)).occupied = none ∧ t.therm.sensorsRetired = satAdd 0xFFFF s.therm.sensorsRetired 1 ∧ t.parts = s.parts)) ∧
  (∀ (s : State) (raw : Int) (n pier : Nat), s.up = true → ((pier = 4 ∧ n = 144) ∨ (pier < 4 ∧ n = 36 * pier ∧ (s.pier pier).powered = true ∧ (s.pier pier).resetting = false ∧ (∀ c, (s.course c).reqs = []))) →
    ∃ t : State, exec (.thermalModelUpdate pier [raw] []) s = .next t ∧ (t.pair n).meas = (s.pair n).meas ∧ (t.pair n).offsetAt = s.now ∧
      (t.pair n).pred = max (s.pair n).meas (raw + (t.pair n).offset / offsetUnit) ∧ (s.pair n).offsetNow s.now ≤ (t.pair n).offset ∧
      ((∀ p, (s.pair n).oldPred s.now = some p → (s.pair n).meas ≤ p + 48) → (t.pair n).offset = (s.pair n).offsetNow s.now) ∧ t.ctxs = s.ctxs ∧ t.mem = s.mem ∧
      (pier = 4 → t.parts = s.parts ∧ t.courses = s.courses)) ∧
  (∀ (s : State) (n : Nat) (v : Int), s.up = true → n < 8 → (s.pier (n / 2)).powered = true → v ≤ 85 → (s.stack n).state = 0 →
    exec (.hbmTempSample n (.val v)) s = .next (s.updStack n fun _ => { temp := v, state := 0, fails := 0 })) ∧
  (∀ (s : State) (n : Nat) (v : Int), s.up = true → n < 8 → (s.pier (n / 2)).powered = true → 85 < v → v ≤ 90 → (s.stack n).state < 2 →
    ∃ t : State, exec (.hbmTempSample n (.val v)) s = .next t ∧ t.stack n = { temp := v, state := 1, fails := 0 } ∧ t.parts = s.parts ∧ t.courses = s.courses) ∧
  (∀ (s : State) (n : Nat), s.up = true → n < 8 → (s.pier (n / 2)).powered = true → (s.stack n).state < 4 → (∀ c, (s.course c).reqs = []) →
    ((s.stack n).fails < 2 → exec (.hbmTempSample n .fail) s = .next (s.updStack n fun q => { q with fails := q.fails + 1 })) ∧
    (2 ≤ (s.stack n).fails → ∃ t : State, exec (.hbmTempSample n .fail) s = .next t ∧ t.stack n = { temp := 91, state := 4, fails := 0 } ∧ (∀ i, i < 4 → (t.course (n / 2 * 4 + i)).tNext = min 8 (s.course (n / 2 * 4 + i)).tNext) ∧
      t.ctxs = s.ctxs))

/-- R258 to R261, R266 to R268: tests. A called test begins once its unit may be tested; a pass is classed transient, counted and posted as TEST_RESULT, and ends the request that asked
for it; a failure of an Ashlar slice below 32 with rows left burns a row repair and the test is called for again. A periodic slice takes the idle tile of a Course, 100 ms after the last, and
a passed slice is noted; the 64th completes the tile's coverage. A tile covered 20 h ago is posted for rotation, and one not covered for 24 h is posted once a day. -/
def Obligations.TestsRunAndClassify : Prop :=
  (∀ (s : State) (kind key : Nat), s.up = true → (s.unit kind key).pending.isSome = true → (s.unit kind key).testing = false → (s.unit kind key).retired = false → s.testable kind key = true →
    ∃ t : State, exec (.targetedSelfTestStart kind key) s = .next t ∧ t.unit kind key = { s.unit kind key with testing := true } ∧ (kind = 3 → t.course (key / 64 / 9) = { s.course (key / 64 / 9) with occupied := some (2, s.now) }) ∧
      (kind = 6 → t.core key = { s.core key with testing := true }) ∧ t.ctxs = s.ctxs ∧ t.mem = s.mem) ∧
  (∀ (s : State) (kind key slice : Nat), s.up = true → (s.unit kind key).testing = true → (s.unit kind key).pending = some (slice, none) → kind ≠ 5 → (∀ c, (s.course c).reqs = []) →
    ((s.unit kind key).transient.filter fun u => decide (s.now < u + 2160000000000)).length < 7 →
    ∃ t : State, exec (.targetedSelfTestDone kind key true) s = .next t ∧ (t.unit kind key).testing = false ∧ (t.unit kind key).pending = none ∧ (t.unit kind key).total = sat32 (s.unit kind key).total 1 ∧
      t.flt.transient = sat32 s.flt.transient 1 ∧ t.flt.lasting = s.flt.lasting ∧ (kind = 3 → eventPosted s t 0x0A02 3 (key / 64) [1, BitVec.ofNat 8 (key % 64), 0]) ∧ (kind = 6 → eventPosted s t 0x0A02 6 key [1, 0, 0]) ∧ t.parts = s.parts) ∧
  (∀ (s : State) (kind key slice n : Nat), s.up = true → (s.unit kind key).testing = true → (s.unit kind key).pending = some (slice, some n) → kind ≠ 5 → kind ≠ 3 →
    ((s.unit kind key).transient.filter fun u => decide (s.now < u + 2160000000000)).length < 7 →
    ∃ t : State, exec (.targetedSelfTestDone kind key true) s = .next (t.finishOp n 0x00) ∧ (t.unit kind key).pending = none ∧ eventPosted s t 0x0A02 kind key [1, 0, 1] ∧ t.mason = s.mason) ∧
  (∀ (s : State) (key slice : Nat), s.up = true → (s.unit 3 key).testing = true → (s.unit 3 key).pending = some (slice, none) → (∀ c, (s.course c).reqs = []) → key % 64 < 32 → rowsUsed (s.unit 3 (key / 64 * 64)) (key % 64 / 4) < 16 → key % 64 ≠ 0 →
    ∃ t : State, exec (.targetedSelfTestDone 3 key false) s = .next t ∧ rowsUsed (t.unit 3 (key / 64 * 64)) (key % 64 / 4) = rowsUsed (s.unit 3 (key / 64 * 64)) (key % 64 / 4) + 1 ∧ (t.unit 3 key).testing = false ∧
      t.flt.lasting = sat32 s.flt.lasting 1 ∧ (∃ b, t.flt.burns = s.flt.burns ++ [b] ∧ b.kind = 3) ∧ eventPosted s t 0x0A02 3 (key / 64) [2, BitVec.ofNat 8 (key % 64), 0] ∧ t.parts = s.parts) ∧
  (∀ (s : State) (n : Nat), s.up = true → s.sliceTile n = true → (s.course (n / 9)).occupied = none → (s.pair n).testQueued = false → s.power.hold = false → s.power.floor = false → s.therm.quench = false →
    ((s.course (n / 9)).lastSlice = none ∨ ∃ u, (s.course (n / 9)).lastSlice = some u ∧ 2500000 ≤ s.now - u) →
    exec (.bistSliceStart n) s = .next ((s.updTile n fun x => { x with sram.valid := [] }).updCourse (n / 9) fun k => { k with occupied := some (0, s.now), lastSlice := some s.now })) ∧
  (∀ (s : State) (n : Nat) (u : Tick), s.up = true → s.sliceTile n = true → (s.course (n / 9)).occupied = some (0, u) → (s.course (n / 9)).reqs = [] →
    exec (.bistSliceDone n true) s = .next ((s.updCourse (n / 9) fun k => { k with occupied := none }).updTile n fun x =>
      if (insertNat x.slices (nextSlice x)).length = 64 then { x with slices := [], covered := s.now } else { x with slices := insertNat x.slices (nextSlice x) })) ∧
  (∀ (s : State) (n slot : Nat), s.up = true → n < 144 → (s.course (n / 9)).slotOfTile (n % 9) = some slot → s.pierServes (n / 36) = true → 1800000000000 ≤ s.now - (s.tile n).covered → (s.course (n / 9)).idle.isSome = true →
    (s.power.hold = true ∨ s.slotBusy (n / 9) slot = true) → (s.course (n / 9)).reqs = [] →
    exec (.coverageRotation n) s = .next (s.updCourse (n / 9) fun k => { k with reqs := [.rotate slot false] })) ∧
  (∀ (s : State) (n slot : Nat), s.up = true → n < 144 → (s.course (n / 9)).slotOfTile (n % 9) = some slot → s.pierServes (n / 36) = true → 1800000000000 ≤ s.now - (s.tile n).covered → (s.course (n / 9)).idle.isSome = true →
    s.power.hold = false → s.slotBusy (n / 9) slot = false → (s.course (n / 9)).occupied = none → (s.course (n / 9)).reqs = [] →
    ∃ t i, exec (.coverageRotation n) s = .next t ∧ (s.course (n / 9)).idle = some i ∧ (t.course (n / 9)).map = setAt (s.course (n / 9)).map slot i ∧ (t.course (n / 9)).reqs = [] ∧ t.therm.rotations = sat32 s.therm.rotations 1 ∧ t.ctxs = s.ctxs) ∧
  (∀ (s : State) (n : Nat), s.up = true → n < 144 → (s.course (n / 9)).retired.contains (n % 9) = false → 2160000000000 ≤ s.now - (s.tile n).covered → (s.tile n).lapsedAt = none →
    ∃ t : State, exec (.bistCoverageLapsed n) s = .next t ∧ t.tile n = { s.tile n with lapsedAt := some s.now } ∧ t.parts = s.parts ∧ eventPosted s t 0x0A09 3 n (leBytes 2 (min 0xFFFF ((s.now - (s.tile n).covered) / 90000000000))))

/-- R258, R273, R274, R318: corrections of the hour that ends are added and posted; log entries and burned fuses reach their stores; a Foreman that times out or shows a parity error resets its Pier, a Setter error too, with the Courses
without a job gated, and the end of the reset gives the Pier back, its Courses gated at level 16, or retires it; a lockstep difference pauses Mason for its restart. -/
def Obligations.ErrorsResetTheirUnits : Prop :=
  (∀ (s : State) (kind id n : Nat), s.up = true → 0 < n → ((s.unit kind id).hourAt = none ∨ ∃ u, (s.unit kind id).hourAt = some u ∧ 90000000000 ≤ s.now - u) →
    ∃ t : State, exec (.correctedSummary kind id n) s = .next t ∧ (t.unit kind id) = { s.unit kind id with hourAt := some s.now } ∧ t.flt.corrected = sat64 s.flt.corrected n ∧ t.flt.errors = s.flt.errors ∧
      eventPosted s t 0x0A0A kind id (leBytes 4 (min n 0xFFFFFFFF)) ∧ t.parts = s.parts) ∧
  (∀ (s : State) (f : Fuse) (rest : List Fuse), s.up = true → s.mason.paused = false → s.flt.burns = f :: rest → s.flt.ledger.length < 24576 →
    ∃ t : State, exec .fuseBurnDone s = .next t ∧ t.flt.burns = rest ∧ t.flt.ledger = s.flt.ledger ++ [some { f with boot := s.fw.boot, time := s.now }] ∧ t.fw.counter = (if f.kind = 8 then max s.fw.counter f.value else s.fw.counter) ∧
      t.parts = s.parts ∧ t.ctxs = s.ctxs) ∧
  (∀ (s : State), s.up = true → exec .errorLogFlush s = .next { s with flt.unflushed := [] }) ∧
  (∀ (s : State) (p : Nat) (what : PierFault), s.up = true → s.pierServes p = true → (∀ q ∈ s.parts, q.2.piers.contains p = true → q.2.job = none) →
    ∃ t : State, exec (.foremanWatchdog p what) s = .next t ∧ t.pier p = { s.pier p with resetting := true, resetCause := if what = .setterParity then 1 else 0, resetAt := s.now } ∧
      (∀ i, i < 4 → s.courseRunning (p * 4 + i) = false → (t.course (p * 4 + i)).power = 0) ∧ t.flt.pierResets = sat32 s.flt.pierResets 1 ∧
      t.flt.errors = sat64 s.flt.errors 1 ∧ t.parts = s.parts ∧ (∀ q, q ≠ p → t.pier q = s.pier q)) ∧
  (∀ (s : State), s.up = true → s.power.phase = 1 → s.mason.paused = false → (s.mason.lockstep.filter fun u => decide (s.now < u + 2160000000000)).length < 2 →
    ∃ t : State, exec .masonLockstepError s = .next t ∧ t.mason.paused = true ∧ t.mason.pauseCause = 1 ∧ t.mason.pauseAt = s.now ∧ t.mason.inputs = [] ∧ t.mason.ops = s.mason.ops ∧
      t.mason.lockstep = s.now :: (s.mason.lockstep.filter fun u => decide (s.now < u + 2160000000000)) ∧ t.flt.errors = sat64 s.flt.errors 1 ∧ t.power.phase = 1 ∧ t.parts = s.parts) ∧
  (∀ (s : State) (p : Nat) (pass : Bool), s.up = true → p < 4 → (s.pier p).resetting = true → (s.pier p).resetCause ≠ 4 → (∀ q ∈ s.parts, q.2.piers.contains p = false ∧ q.2.powering = false) → s.mem.lossBuf = [] →
    ((pass = true ∧ (s.pier p).mortarOff.length ≤ 16) →
      ∃ t : State, exec (.pierResetComplete p pass) s = .next (t.finishOps (fun k => match k with | .pierReset q => q == p | _ => false) 0x00) ∧ (t.pier p).resetting = false ∧ (t.pier p).powered = true ∧ (t.pier p).retired = (s.pier p).retired ∧
        (∀ i, i < 4 → (t.course (4 * p + i)).t = 16 ∧ (t.course (4 * p + i)).power = 0) ∧
        ((∀ i, i < 4 → (s.course (4 * p + i)).t = 16) → eventPosted s t 0x0A07 1 p [BitVec.ofNat 8 (s.pier p).resetCause, 1]) ∧ t.parts = s.parts ∧ t.mason = s.mason) ∧
    ((pass = false ∨ 16 < (s.pier p).mortarOff.length) →
      ∃ t : State, exec (.pierResetComplete p pass) s = .next (t.finishOps (fun k => match k with | .pierReset q => q == p | _ => false) 0x10) ∧ (t.pier p).resetting = false ∧ (t.pier p).powered = false ∧ (t.pier p).retired = true ∧
        t.parts = s.parts ∧ t.mason = s.mason))

/-- R271, R274, R275: the fault and log commands. FLT_TEST names a unit there is and one test it has, else BAD_ARG; a retired unit is REFUSED; a test is ACCEPTED and called for, a calibration is ACCEPTED
and ends with OK. FLT_PIER_RESET resets a Pier in service. FLT_SUMMARY, FLT_UNIT, LOG_INFO and LOG_READ report without changing anything else. -/
def Obligations.FaultAndLogCommandsAct : Prop :=
  (∀ (s : State) (m : Mb) (r : Req), s.runs m 0x0A01 false = some r → r.len = 0 →
    ∃ x, exec (.fltSummary m) s = .next ((s.taken m).respond m 0x0A01 r.tag (okR (leBytes 8 s.flt.corrected ++ leBytes 8 s.flt.errors ++ leBytes 4 s.flt.transient ++ leBytes 4 s.flt.lasting ++ leBytes 4 s.flt.restarts ++
      leBytes 4 s.flt.aborted ++ x))) ∧ x.length = 24) ∧
  (∀ (s : State) (m : Mb) (r : Req), s.runs m 0x0A02 false = some r → r.len = 8 → r.u16 2 = 0 →
    (fltUnit (r.u8 0) (r.u32 4) = none → exec (.fltTest m) s = .next ((s.taken m).respond m 0x0A02 r.tag { status := St.badArg })) ∧
    (∀ k id, fltUnit (r.u8 0) (r.u32 4) = some (k, id) →
      ((2 < r.u8 1 ∨ (r.u8 1 = 1 ∧ r.u8 0 ≠ 4) ∨ (r.u8 1 = 2 ∧ r.u8 0 ≠ 5)) → exec (.fltTest m) s = .next ((s.taken m).respond m 0x0A02 r.tag { status := St.badArg })) ∧
      ((r.u8 1 = 1 ∧ r.u8 0 = 4) ∨ (r.u8 1 = 2 ∧ r.u8 0 = 5) → s.held (6, r.u8 0 * 2 ^ 20 + id) = false → s.unitGone k id = true → exec (.fltTest m) s = .next ((s.taken m).respond m 0x0A02 r.tag { status := St.refused, detail := 1 })) ∧
      ((r.u8 1 = 1 ∧ r.u8 0 = 4) ∨ (r.u8 1 = 2 ∧ r.u8 0 = 5) → s.held (6, r.u8 0 * 2 ^ 20 + id) = false → s.unitGone k id = false → s.mason.lastOp + 1 < 2 ^ 32 →
        ∃ t : State, exec (.fltTest m) s = .next (t.respond m 0x0A02 r.tag { status := 0x01, arg := s.mason.lastOp + 1 }) ∧
          t.mason.ops = s.mason.ops ++ [⟨s.mason.lastOp + 1, r.mb, r.code, r.tag, .fltTest (r.u8 0) id (r.u8 1)⟩] ∧ t.flt = s.flt ∧ t.parts = s.parts) ∧
      (r.u8 1 = 0 → k ≠ 3 → s.held (6, r.u8 0 * 2 ^ 20 + id) = false → s.unitGone k id = false → s.mason.lastOp + 1 < 2 ^ 32 → (s.unit k id).pending = none →
        ∃ t : State, exec (.fltTest m) s = .next (t.respond m 0x0A02 r.tag { status := 0x01, arg := s.mason.lastOp + 1 }) ∧
          t.mason.ops = s.mason.ops ++ [⟨s.mason.lastOp + 1, r.mb, r.code, r.tag, .fltTest (r.u8 0) id 0⟩] ∧ (t.unit k id).pending = some (0, some (s.mason.lastOp + 1)) ∧ (t.unit k id).pendingAt = s.now ∧ t.parts = s.parts))) ∧
  (∀ (s : State) (op k id c : Nat) (o : PendingOp) (ok : Bool), s.up = true → s.op? op = some o → o.kind = .fltTest k id c → c ≠ 0 →
    ∃ t : State, exec (.calibrationDone op ok) s = .next (t.finishOp op 0x00) ∧ eventPosted s t 0x0A02 (if k = 4 then 10 else k) id [if ok then 1 else 2, 0, 1] ∧ t.mason = s.mason ∧ t.parts = s.parts) ∧
  (∀ (s : State) (m : Mb) (r : Req), s.runs m 0x0A03 false = some r → r.len = 8 → r.u16 2 = 0 →
    (fltUnit (r.u8 0) (r.u32 4) = none → exec (.fltUnit m) s = .next ((s.taken m).respond m 0x0A03 r.tag { status := St.badArg })) ∧
    (∀ k id, fltUnit (r.u8 0) (r.u32 4) = some (k, id) →
      ∃ d n, exec (.fltUnit m) s = .next ((s.taken m).respond m 0x0A03 r.tag (okR (leBytes 1 (s.unitState k id) ++ [0] ++ leBytes 2 (min d 0xFFFF) ++ leBytes 4 (min n 0xFFFFFFFF) ++ s.repairsLeft k id ++
        (if k = 3 then leBytes 8 (s.tile id).covered ++ leBytes 1 (s.tile id).slices.length else List.replicate 9 0) ++ List.replicate 7 0))) ∧ n = sumNat ((s.histories k id).map (·.total)))) ∧
  (∀ (s : State) (m : Mb) (r : Req), s.runs m 0x0A04 false = some r → r.len = 4 → field r.pay 1 3 = 0 →
    (3 < r.u8 0 → exec (.fltPierReset m) s = .next ((s.taken m).respond m 0x0A04 r.tag { status := St.badArg })) ∧
    (r.u8 0 ≤ 3 → ((s.pier (r.u8 0)).retired = true ∨ (s.pier (r.u8 0)).resetting = true) → exec (.fltPierReset m) s = .next ((s.taken m).respond m 0x0A04 r.tag { status := St.refused, detail := 1 })) ∧
    (r.u8 0 ≤ 3 → (s.pier (r.u8 0)).retired = false → (s.pier (r.u8 0)).resetting = false → s.mason.lastOp + 1 < 2 ^ 32 →
      ∃ t : State, exec (.fltPierReset m) s = .next (t.respond m 0x0A04 r.tag { status := 0x01, arg := s.mason.lastOp + 1 }) ∧ t.pier (r.u8 0) = { s.pier (r.u8 0) with resetting := true, resetCause := 2, resetAt := s.now } ∧
        t.mason.ops = s.mason.ops ++ [⟨s.mason.lastOp + 1, r.mb, r.code, r.tag, .pierReset (r.u8 0)⟩] ∧ t.parts = s.parts)) ∧
  (∀ (s : State) (m : Mb) (r : Req), s.runs m 0x0E01 false = some r → r.len = 0 →
    exec (.logInfo m) s = .next ((s.taken m).respond m 0x0E01 r.tag (okR (leBytes 8 s.logFirst ++ leBytes 8 s.flt.logNext ++ leBytes 4 s.flt.kept.length ++ leBytes 1 (boolN (decide (keptCap ≤ s.flt.kept.length))) ++ [0, 0, 0])))) ∧
  (∀ (s : State) (m : Mb) (r : Req), s.runs m 0x0E02 false = some r → r.len = 12 → field r.pay 9 3 = 0 →
    (1 < r.u8 8 → exec (.logRead m) s = .next ((s.taken m).respond m 0x0E02 r.tag { status := St.badArg })) ∧
    (r.u8 8 ≤ 1 → ∀ es, es = (((if r.u8 8 = 0 then s.flt.log else s.flt.kept).reverse.filter fun e => decide (r.u64 0 ≤ e.number)).take 3) →
      ∃ n, exec (.logRead m) s = .next ((s.taken m).respond m 0x0E02 r.tag (okR (leBytes 1 es.length ++ List.replicate 7 0 ++ leBytes 8 n ++ (es.map logBytes).flatten))) ∧
        (∀ e, es.getLast? = some e → n = e.number + 1) ∧ (es = [] → n = s.flt.logNext)))

/-- R201 to R205, R335: ports and frames. Light trains a dark port on the wavelengths that the ids of the two ends give, and HELLO is sent; its loss, or a failed retrain, takes the port DOWN, and ends what waited for it with
ABORTED_FAULT. A HELLO with the key and the profile's neighbour brings the port UP; a wrong key or neighbour is a state of its own, and HELLO is sent again after 10 s. A packet is sent while there is credit for it, else it waits. A whole frame
in order enters the buffer, its credits come back, and what they allow is sent; corrected symbols are counted; a bad frame is answered with a NAK and its lane's test is called for; any other changes nothing else. A NAK drops what has arrived and
sends the rest again, the eighth time with a retrain. A retrain that succeeds sends the retry buffer again. -/
def Obligations.PortsTrainAndCarryFrames : Prop :=
  ∀ (s : State) (p : Nat), s.portOn p = true →
    ((s.port p).state = 0 → ∃ t : State, exec (.portLightDetect p) s = .next t ∧ (t.port p).state = 1 ∧ (t.port p).helloAt = s.now ∧ (∀ q, q ≠ p → (t.port q).state = (s.port q).state) ∧ t.parts = s.parts ∧
      (∀ k n np, s.topo p = some (k, n, np) → (t.port p).wave = some (if s.ownId < n then (13045, 13245) else (13245, 13045))) ∧
      ∃ x l, t.fab.sent = (p, x) :: l ∧ x.pkt.type = 0x20 ∧ x.pkt.payload = [BitVec.ofNat 8 s.ownId, BitVec.ofNat 8 p]) ∧
    (([1, 2, 3, 4, 6, 7].contains (s.port p).state) = true → ∃ t : State, exec (.lightLoss p) s = .next (t.finishOps (portOp p) 0x10) ∧ (t.port p).state = 0 ∧ (t.port p).rx = [] ∧ (∀ q, q ≠ p → (t.port q).state = (s.port q).state) ∧
      t.mason = s.mason ∧ t.parts = s.parts) ∧
    ((s.port p).dropFrames.retry = [] ∧ (s.port p).dropFrames.rx = [] ∧ (s.port p).dropFrames.waiting = [] ∧
      (s.port p).dropFrames.ctr.get 0 6 = sat64 ((s.port p).ctr.get 0 6) ((s.port p).retry.length + (s.port p).rx.length + (s.port p).waiting.length)) ∧
    (∀ n np k, ((s.port p).state = 6 ∨ (s.port p).state = 7 ∨ ((s.port p).state = 1 ∧ (s.port p).retraining = false)) → s.topo p = some (k, n, np) → s.portWidth p = 8 →
      ∃ t : State, exec (.hello p n np true) s = .next (t.finishOps (portOp p) 0x00) ∧ (t.port p).state = 2 ∧ (t.port p).rxSeq = 0 ∧ (t.port p).rx = [] ∧ (t.port p).upAt = s.now ∧ eventPosted s t 0x0D01 5 p [8] ∧ t.mason = s.mason) ∧
    (∀ n np, (s.port p).state = 1 → (s.port p).retraining = false →
      (∃ t : State, exec (.hello p n np false) s = .next t ∧ (t.port p).state = 7 ∧ eventPosted s t 0x0D09 5 p []) ∧
      ((s.topo p).map (fun t => t.2) ≠ some (n, np) → ∃ t : State, exec (.hello p n np true) s = .next t ∧ (t.port p).state = 6 ∧ eventPosted s t 0x0D08 5 p [BitVec.ofNat 8 n, BitVec.ofNat 8 np])) ∧
    (((s.port p).state = 6 ∨ (s.port p).state = 7) → 250000000 ≤ s.now - (s.port p).helloAt →
      ∃ t : State, exec (.helloRetry p) s = .next t ∧ (t.port p).state = (s.port p).state ∧ (t.port p).helloAt = s.now ∧ ∃ x, t.fab.sent = (p, x) :: s.fab.sent ∧ x.pkt.type = 0x20) ∧
    (∀ (x : Packet), ((s.port p).waiting = [] → creditsOf x ≤ (s.port p).credits →
        (s.sendOn p x).fab.sent = (p, { seq := (s.port p).txSeq, credits := (s.port p).owed, pkt := x }) :: s.fab.sent ∧ ((s.sendOn p x).port p).credits = (s.port p).credits - creditsOf x ∧
          ((s.sendOn p x).port p).txSeq = (s.port p).txSeq + 1 ∧ ((s.sendOn p x).port p).waiting = []) ∧
      (∀ y l, (s.port p).waiting ++ [x] = y :: l → (s.port p).credits < creditsOf y → s.sendOn p x = s.updPort p fun f => { f with waiting := (s.port p).waiting ++ [x] })) ∧
    (∀ (x : Packet) (fec : List Nat) (cr : Nat), portUsable (s.port p).state = true → rxRoom (s.port p) x = true → (s.port p).waiting = [] →
      ∃ t : State, exec (.linkFrameReceive p ⟨(s.port p).rxSeq, cr⟩ .whole fec x) s = .next t ∧ (t.port p).rx = (s.port p).rx ++ [x] ∧ (t.port p).rxSeq = (s.port p).rxSeq + 1 ∧ (t.port p).nak = none ∧
        (t.port p).ctr.get 0 2 = sat64 ((s.port p).ctr.get 0 2) (sumNat fec) ∧ (∀ n k l, (s.port p).unpaid = (n, k) :: l → cr = k → 0 < k → (∀ u ∈ l, 0 < u.2) → (t.port p).credits = (s.port p).credits + k ∧ (t.port p).unpaid = l ∧
          (t.port p).retry = (s.port p).retry.filter fun y => decide (n < y.seq)) ∧
        (∀ q, q ≠ p → t.port q = s.port q) ∧ t.fab.sent = s.fab.sent) ∧
    (∀ (x : Packet) (fec : List Nat) (cr n : Nat), portUsable (s.port p).state = true → n ≠ (s.port p).rxSeq → exec (.linkFrameReceive p ⟨n, cr⟩ .whole fec x) s = .next (s.updPort p fun f => f.noteFec fec)) ∧
    (∀ (x : Packet) (got : FrameGot) (fec : List Nat) (cr lane n : Nat), (got = .badCrc lane ∨ got = .uncorrectable lane) → (s.unit 5 (laneKey p (lane % 9))).pending = none → (s.port p).testing.isSome = true →
      (s.portWidth p ≠ 0 ∧ ((s.port p).state = 4 ∨ (s.port p).state = if s.portWidth p = 8 then 2 else 3)) →
      ∃ t : State, exec (.linkFrameReceive p ⟨n, cr⟩ got fec x) s = .next t ∧ (t.port p).nak = some (s.port p).rxSeq ∧ (t.port p).rx = (s.port p).rx ∧ (t.unit 5 (laneKey p (lane % 9))).pending = some (lane % 9, none) ∧
        (t.port p).state = (s.port p).state ∧ (t.port p).ctr.get 0 3 = sat64 ((s.port p).ctr.get 0 3) (if got = .badCrc lane then 0 else 1)) ∧
    (∀ n left, portUsable (s.port p).state = true → left = ((s.port p).retry.filter fun x => decide (n ≤ x.seq)).map (fun x => { x with replays := x.replays + 1 }) →
      (left = [] → exec (.linkNak p n) s = .next (s.updPort p fun f => { f with retry := [] })) ∧
      (left ≠ [] → (∀ x ∈ left, x.replays < 8) → ((s.port p).replayTimes.filter fun u => decide (s.now < u + 25000)).length < 63 →
        ∃ t : State, exec (.linkNak p n) s = .next t ∧ (t.port p).retry = left ∧ t.fab.sent = (left.reverse.map fun f => (p, f)) ++ s.fab.sent ∧ (t.port p).state = (s.port p).state) ∧
      ((∃ x ∈ left, 8 ≤ x.replays) → ∃ t : State, exec (.linkNak p n) s = .next t ∧ (t.port p).state = 1 ∧ (t.port p).retraining = true ∧ (t.port p).retry.map (fun x => x.pkt) = left.map (fun x => x.pkt))) ∧
    ((s.port p).state = 1 → (s.port p).retraining = true →
      (s.portWidth p = 8 → ∃ t : State, exec (.linkRetrainDone p true) s = .next (t.finishOps (portOp p) 0x00) ∧ (t.port p).state = 2 ∧ (t.port p).retraining = false ∧ t.mason = s.mason) ∧
      (∃ t : State, exec (.linkRetrainDone p false) s = .next (t.finishOps (portOp p) 0x10) ∧ (t.port p).state = 0 ∧ (t.port p).rx = [] ∧ t.mason = s.mason))

/-- R203, R204, R219 to R221: lanes, inspection, cleaning and the port commands. A lane over its error ratio is tested; fewer than 10 errored bits are transient, more give the lane to the spare and burn a remap. A lane with worse light and an
error ratio at least four times its baseline begins the 10 s to INSPECT, where the port is posted, or cleaned by the cartridge with CLEAN_REQ; a cartridge that is done with this request, or silent for 120 s, ends the cleaning and the port
trains again; 10 s after, a new baseline is taken, and a lane more than 3 dB below the integration baseline is posted as aged. A port with three cleanings in vain is posted once an hour. FAB_PORT and FAB_COUNTERS report, FAB_PORT_CTRL enables, disables, retrains and refuses. -/
def Obligations.LanesAreTestedAndPortsCleaned : Prop :=
  (∀ (s : State) (p l : Nat), s.portOn p = true → l < 9 → portUsable (s.port p).state = true → (s.unit 5 (laneKey p l)).pending = none → (s.port p).testing.isSome = true →
    (s.portWidth p ≠ 0 ∧ ((s.port p).state = 4 ∨ (s.port p).state = if s.portWidth p = 8 then 2 else 3)) →
    exec (.laneBerCheck p l true) s = .next (s.updUnit 5 (laneKey p l) fun u => { u with pending := some (l, none), pendingAt := s.now })) ∧
  (∀ (s : State) (p l e : Nat), s.portOn p = true → (s.port p).testing = some l → p < 12 → l < 9 → (s.unit 5 p).testing = false → ((s.unit 5 (laneKey p l)).transient.filter fun u => decide (s.now < u + 2160000000000)).length < 7 → e < 10 →
    ∃ t : State, exec (.laneTestDone p l e) s = .next t ∧ (t.unit 5 (laneKey p l)).pending = none ∧ (t.unit 5 (laneKey p l)).total = sat32 (s.unit 5 (laneKey p l)).total 1 ∧ t.flt.transient = sat32 s.flt.transient 1 ∧ t.flt.lasting = s.flt.lasting ∧ t.parts = s.parts) ∧
  (∀ (s : State) (p l e : Nat), s.portOn p = true → (s.port p).testing = some l → p < 12 → l < 8 → (s.unit 5 p).testing = false → 10 ≤ e → (s.port p).spareFor = 15 → (s.port p).badLanes = [] → 0 < (s.port p).remaps →
    (∀ k, k < l → (s.unit 5 (laneKey p k)).pending = none) →
    ∃ t : State, exec (.laneTestDone p l e) s = .next t ∧ (t.port p).spareFor = l ∧ (t.port p).badLanes = [l] ∧ (t.port p).remaps = (s.port p).remaps - 1 ∧ t.flt.lasting = sat32 s.flt.lasting 1 ∧ t.flt.transient = s.flt.transient ∧
      (∃ b, t.flt.burns = s.flt.burns ++ [b] ∧ b.kind = 7 ∧ b.unitId = p ∧ b.value = l) ∧ t.parts = s.parts) ∧
  (∀ (s : State) (p l : Nat) (o b : Int) (e n : Nat), s.portOn p = true → l ≤ 8 → ((s.port p).state = 2 ∨ (s.port p).state = 3) → (o < -150 ∨ 300 < b) → 0 < n → 0 < ((s.port p).berBase.get (0, 0) l).2 →
    4 * ((s.port p).berBase.get (0, 0) l).1 * n ≤ e * ((s.port p).berBase.get (0, 0) l).2 →
    ((s.port p).inspectAt.find? l = none →
      ∃ t : State, exec (.inspectEntry p l o b (e, n)) s = .next t ∧ (t.port p).inspectAt.find? l = some s.now ∧ (t.port p).oma.get 0 l = o ∧ (t.port p).br.get 0 l = b ∧ (t.port p).ber.get (0, 0) l = (e, n) ∧ (t.port p).state = (s.port p).state ∧ t.fab.sent = s.fab.sent) ∧
    (∀ u, (s.port p).inspectAt.find? l = some u → s.now - u < 250000000 → ∃ t : State, exec (.inspectEntry p l o b (e, n)) s = .next t ∧ (t.port p).state = (s.port p).state ∧ t.fab.sent = s.fab.sent) ∧
    (∀ u, (s.port p).inspectAt.find? l = some u → 250000000 ≤ s.now - u → (s.port p).cleanAt = none → (s.port p).cleanings = [] →
      (s.cartridge = false → ∃ t : State, exec (.inspectEntry p l o b (e, n)) s = .next t ∧ (t.port p).state = 4 ∧ (t.port p).inspectPost = some s.now ∧
        eventPosted s t 0x0D04 5 p (leBytes 1 l ++ [0] ++ leBytes 2 (unsigned 16 o) ++ leBytes 2 (berLog (e, n)))) ∧
      (s.cartridge = true → ∃ t : State, exec (.inspectEntry p l o b (e, n)) s = .next t ∧ (t.port p).state = 5 ∧ (t.port p).cleanAt = some s.now ∧ (t.port p).reqId = ((s.port p).reqId + 1) % 256 ∧
        (t.port p).cleanReq = [1, BitVec.ofNat 8 p, BitVec.ofNat 8 (((s.port p).reqId + 1) % 256)]))) ∧
  (∀ (s : State) (p id : Nat), s.up = true → (s.port p).state = 5 → s.therm.i3cStuck = none → s.fw.profile.isSome = true →
    (id = (s.port p).reqId → ∃ t : State, exec (.cartridgePoll p ⟨.val 2, id⟩) s = .next t ∧ (t.port p).state = 1 ∧ (t.port p).rebase = true ∧ (t.port p).helloAt = s.now) ∧
    (∀ v, id ≠ (s.port p).reqId ∨ v = 0 ∨ v = 1 → exec (.cartridgePoll p ⟨.val v, id⟩) s = .next (s.updPort p fun f => { f with cartFails := 0 })) ∧
    ((s.port p).cartFails < 2 → exec (.cartridgePoll p ⟨.fail, id⟩) s = .next (s.updPort p fun f => { f with cartFails := f.cartFails + 1 })) ∧
    (∀ u, (s.port p).cleanAt = some u → 3000000000 ≤ s.now - u → ∃ t : State, exec (.cartridgeTimeout p) s = .next t ∧ (t.port p).state = 1 ∧ (t.port p).rebase = true)) ∧
  (∀ (s : State) (p : Nat) (lanes : List LaneMeas) (f : FPort) (below : Nat → Int), f = lanes.foldl FPort.measure (s.port p) → s.portOn p = true → portUsable (s.port p).state = true → (s.port p).rebase = true → 250000000 ≤ s.now - (s.port p).upAt →
    (∀ l, below l = if f.berBase.isEmpty then 0 else f.aged.get 0 l - f.oma.get 0 l) →
    ∃ t : State, exec (.rebaseline p lanes) s = .next t ∧ (t.port p).rebase = false ∧ (t.port p).oma = [] ∧ (t.port p).br = [] ∧ t.parts = s.parts ∧
      (∀ l, l < 9 → (t.port p).berBase.get (0, 0) l = f.ber.get (0, 0) l ∧ (t.port p).aged.get 0 l = below l) ∧
      ((s.port p).badLanes = [] → (∀ l, l < 9 → (s.unit 5 (laneKey p l)).pending = none) → (s.portWidth p ≠ 0 ∧ ((s.port p).state = 4 ∨ (s.port p).state = if s.portWidth p = 8 then 2 else 3)) →
        ∀ l, l < 9 → 300 < below l → (∀ k, k < 9 → k ≠ l → below k ≤ 300) → eventPosted s t 0x0D07 5 p (leBytes 1 l ++ [0] ++ leBytes 2 (unsigned 16 (below l))))) ∧
  (∀ (s : State) (p : Nat), s.portOn p = true → (s.port p).state = 4 → (s.port p).inspectPost = none → 3 ≤ s.uselessCleans p →
    ∃ t : State, exec (.cleanReqInterval p) s = .next t ∧ (t.port p).inspectPost = some s.now ∧ (t.port p).state = 4 ∧ eventPosted s t 0x0D06 5 p []) ∧
  (∀ (s : State) (m : Mb) (r : Req), s.runs m 0x0D01 false = some r → r.len = 4 → field r.pay 1 3 = 0 →
    (11 < r.u8 0 → exec (.fabPort m) s = .next ((s.taken m).respond m 0x0D01 r.tag { status := St.badArg })) ∧
    (∀ k n np, r.u8 0 ≤ 11 → s.topo (r.u8 0) = some (k, n, np) → ∃ x, exec (.fabPort m) s = .next ((s.taken m).respond m 0x0D01 r.tag
      (okR (leBytes 1 (s.port (r.u8 0)).state ++ leBytes 1 (s.port (r.u8 0)).spareFor ++ leBytes 1 (s.port (r.u8 0)).remaps ++ leBytes 1 np ++ leBytes 1 n ++ [0, 0, 0] ++ x))) ∧ x.length = 72 ∧
      x = ((List.range 9).map fun l => leBytes 2 (unsigned 16 ((s.port (r.u8 0)).oma.get 0 l)) ++ leBytes 2 (unsigned 16 ((s.port (r.u8 0)).br.get 0 l)) ++ leBytes 2 (berLog ((s.port (r.u8 0)).ber.get (0, 0) l)) ++ [0, 0]).flatten)) ∧
  (∀ (s : State) (m : Mb) (r : Req), s.runs m 0x0D02 false = some r → r.len = 4 → r.u16 2 = 0 →
    ((11 < r.u8 0 ∨ 1 < r.u8 1) → exec (.fabCounters m) s = .next ((s.taken m).respond m 0x0D02 r.tag { status := St.badArg })) ∧
    (r.u8 0 ≤ 11 → r.u8 1 ≤ 1 → ∃ t : State, exec (.fabCounters m) s = .next (t.respond m 0x0D02 r.tag (okR ((List.range 12).map fun i => leBytes 8 ((s.port (r.u8 0)).ctr.get 0 i)).flatten)) ∧
      (r.u8 1 = 0 → t = s.taken m) ∧ (r.u8 1 = 1 → t.port (r.u8 0) = { s.port (r.u8 0) with ctr := [] } ∧ (∀ q, q ≠ r.u8 0 → t.port q = s.port q)))) ∧
  (∀ (s : State) (m : Mb) (r : Req), s.runs m 0x0D03 false = some r → r.len = 4 → r.u16 2 = 0 →
    ((11 < r.u8 0 ∨ 4 < r.u8 1 ∨ s.topo (r.u8 0) = none) → exec (.fabPortCtrl m) s = .next ((s.taken m).respond m 0x0D03 r.tag { status := St.badArg })) ∧
    (r.u8 0 ≤ 11 → (s.topo (r.u8 0)).isSome = true → s.held (7, r.u8 0) = false →
      (r.u8 1 = 0 → (s.port (r.u8 0)).state = 8 → ∃ t : State, exec (.fabPortCtrl m) s = .next (t.respond m 0x0D03 r.tag (okR [])) ∧ (t.port (r.u8 0)).state = 0 ∧ t.mason.ops = s.mason.ops) ∧
      (r.u8 1 = 1 → (s.port (r.u8 0)).state ≠ 8 → ∃ t : State, exec (.fabPortCtrl m) s = .next ((t.finishOps (portOp (r.u8 0)) 0x10).respond m 0x0D03 r.tag (okR [])) ∧ (t.port (r.u8 0)).state = 8 ∧ (t.port (r.u8 0)).rx = []) ∧
      (r.u8 1 = 2 → portUsable (s.port (r.u8 0)).state = true → s.mason.lastOp + 1 < 2 ^ 32 →
        ∃ t : State, exec (.fabPortCtrl m) s = .next (t.respond m 0x0D03 r.tag { status := 0x01, arg := s.mason.lastOp + 1 }) ∧ (t.port (r.u8 0)).state = 1 ∧ (t.port (r.u8 0)).retraining = true ∧
          t.mason.ops = s.mason.ops ++ [⟨s.mason.lastOp + 1, r.mb, r.code, r.tag, .fabRetrain (r.u8 0)⟩]) ∧
      (∀ u, r.u8 1 = 3 → (s.port (r.u8 0)).cleanAt = some u → s.now - u < 90000000000 → exec (.fabPortCtrl m) s = .next ((s.taken m).respond m 0x0D03 r.tag { status := St.refused, detail := 1 })) ∧
      (r.u8 1 = 4 → (s.port (r.u8 0)).state ≠ 2 → exec (.fabPortCtrl m) s = .next ((s.taken m).respond m 0x0D03 r.tag { status := St.refused, detail := 2 }))))

/-- R200, R206, R207, R210, R213 to R218, R221: packets, streams, drain markers, port states and Vault time. The header's bytes spell the packet. A packet for this module is delivered, one on its way leaves by its next hop, or is dropped and
counted where there is none; one of a drained epoch and one whose tag fails are dropped and counted, the last with an event and lane tests; a child's TIME is answered. A result packet with the next number of its import lands at its
slot and advances H; an old one is a duplicate; 2 ms after a later number arrived the missing ones are lost. A DRAIN not seen before drains its epoch; acknowledgements are counted off. The first TIME steps the counter once, later ones slew it,
5 ms without one is Holdover and 950 ms of that unsynchronised. The stream commands bind, unbind and report. -/
def Obligations.StreamsLandAndTimeLocks : Prop :=
  (∀ (s : State) (p : Nat) (x : Packet) (rest : List Packet), s.portOn p = true → (s.port p).rx = x :: rest →
    (s.delivers x = true → x.tagOk = true → s.sec.fabRetired.contains x.keyId = false → s.isDrained x = false → x.type ≠ 0x20 → x.type ≠ 0x22 →
      exec (.settPacketReceive p) s = .next { s.updPort p fun f => { f with rx := rest, owed := f.owed + creditsOf x } with fab.inbox := s.fab.inbox ++ [(p, x)] }) ∧
    (∀ out, out = x.route.getD x.hop 0 → s.delivers x = false → s.isDrained x = false → x.hop < x.hopCount → portUsable (s.port out).state = true → (s.port out).waiting = [] → creditsOf x ≤ (s.port out).credits →
      ∃ t : State, exec (.settPacketReceive p) s = .next t ∧ (t.port p).rx = rest ∧ (t.port p).owed = (if out = p then 0 else (s.port p).owed + creditsOf x) ∧
        t.fab.sent = (out, { seq := (s.port out).txSeq, credits := (if out = p then (s.port p).owed + creditsOf x else (s.port out).owed), pkt := { x with hop := x.hop + 1 } }) :: s.fab.sent ∧ t.fab.inbox = s.fab.inbox) ∧
    (s.delivers x = false → s.isDrained x = false → (x.hopCount ≤ x.hop ∨ portUsable (s.port (x.route.getD x.hop 0)).state = false) →
      exec (.settPacketReceive p) s = .next ((s.updPort p fun f => { f with rx := rest, owed := f.owed + creditsOf x }).updPort p fun f => f.count 6 1)) ∧
    (s.isDrained x = true → x.tagOk = true → s.sec.fabRetired.contains x.keyId = false → s.importOf x = none →
      exec (.settPacketReceive p) s = .next ((s.updPort p fun f => { f with rx := rest, owed := f.owed + creditsOf x }).updPort p fun f => f.count 8 1)) ∧
    (s.delivers x = true → (x.tagOk = false ∨ s.sec.fabRetired.contains x.keyId = true) → (s.port p).testing.isSome = true → (s.portWidth p ≠ 0 ∧ ((s.port p).state = 4 ∨ (s.port p).state = if s.portWidth p = 8 then 2 else 3)) →
      ∃ t : State, exec (.settPacketReceive p) s = .next t ∧ (t.port p).rx = rest ∧ (t.port p).ctr.get 0 7 = sat64 ((s.port p).ctr.get 0 7) 1 ∧ t.fab.inbox = s.fab.inbox ∧ (∀ l, l < 9 → (t.unit 5 (laneKey p l)).pending ≠ none) ∧
        eventPosted s t 0x0D0A 5 p [BitVec.ofNat 8 x.src, BitVec.ofNat 8 x.type]) ∧
    (x.type = 0x22 → x.tagOk = true → s.sec.fabRetired.contains x.keyId = false → allZero (x.payload.drop 8) = true → s.parentPort ≠ some p → (s.port p).waiting = [] → 1 ≤ (s.port p).credits →
      ∃ (t : State) (y : Frame), exec (.settPacketReceive p) s = .next t ∧ t.fab.sent = (p, y) :: s.fab.sent ∧ y.pkt.type = 0x22 ∧ y.pkt.dest = x.src ∧ y.pkt.payload = x.payload.take 8 ++ leBytes 8 (40 * s.now) ++ leBytes 8 (40 * s.now) ++ leBytes 8 0)) ∧
  (∀ (x : Packet) (f : Frame), (∀ n, (packetHeader x n).length = 32) ∧ (packetBytes f.pkt).length = f.pkt.payload.length + 48 ∧ f.bytes.length = f.pkt.payload.length + 56 ∧
    (x.dest < 256 → x.src < 256 → x.origin < 256 → x.type < 256 → x.tenant < 64 → x.keyId < 4 → x.epoch < 256 → x.hop < 16 → x.hopCount < 16 → x.context < 2 ^ 14 → x.route.length = 8 → (∀ n ∈ x.route, n < 16) → x.seq < 2 ^ 48 → x.boot < 2 ^ 16 → x.counter < 2 ^ 64 →
      packetOf (packetHeader x (hopByte x)) x.payload x.tagOk = x)) ∧
  (∀ (s : State) (c : Instr) (x : Packet) (port n : Nat) (i : Import), s.up = true → s.power.hold = false → ((c = .record x ∧ x.type = 1) ∨ (c = .data x ∧ x.type = 2)) → List.find? (fun y : Nat × Packet => y.2 == x) s.fab.inbox = some (port, x) →
    s.importOf x = some (n, i) → s.tenantOpen i.tenant = true → i.stopped = false → i.h < 2 ^ 48 → x.seq < 2 ^ 48 →
    (x.seq = i.h → ∃ t : State, exec c s = .next t ∧ t.fab.imports.find? n = some { i with duplicates := sat64 i.duplicates 1 } ∧ t.mem = s.mem) ∧
    (x.seq = (i.h + 1) % 2 ^ 48 → i.window = [] → seqDist x.seq (leNat (s.hostReadN i.consAddr 8) % 2 ^ 48) ≤ 2 ^ i.slotsLog2 →
      ∃ (t : State) (f : Nat), exec c s = .next t ∧ f < 2 ∧ (x.last = false → f = 0) ∧ (x.last = true → x.type = 1 → (f = 1 ↔ x.payload.length - 64 < namedBytes s.broup x.payload)) ∧
        t.fab.imports.find? n = some ({ i with h := x.seq, delivered := sat64 i.delivered 1 }.noteHead s.broup x) ∧
        t.mem.host = memWriteN s.mem.host (i.slotAddr x.seq) (landHeader x.seq (2 * boolN x.first + 4 * boolN x.last + 8 * f) x.payload.length x.type x.src x.origin s.now ++ x.payload) ∧
        t.fab.inbox = dropFirst (fun y : Nat × Packet => y.2 == x) s.fab.inbox)) ∧
  (∀ (s : State) (n : Nat) (i : Import) (q : Nat) (u : Tick), s.up = true → s.power.hold = false → s.fab.imports.find? n = some i → i.stopped = false → i.window = [(q, u)] → u + 50000 ≤ s.now → i.h < 2 ^ 48 → q < 2 ^ 48 →
    2 ≤ seqDist q i.h → seqDist q i.h ≤ 64 →
    ∃ t : State, exec (.landingGapTimeout n) s = .next t ∧ t.fab.imports.find? n = some { i with h := q, window := [], lost := sat64 i.lost (seqDist q i.h - 1) } ∧ t.parts = s.parts) ∧
  (∀ (s : State) (x : Packet) (port : Nat), s.up = true → x.type = 0x10 → List.find? (fun y : Nat × Packet => y.2 == x) s.fab.inbox = some (port, x) →
    (s.fab.seen.contains (x.src, field x.payload 0 4) = true → exec (.drain x port) s = .next { s with fab.inbox := dropFirst (fun y : Nat × Packet => y.2 == x) s.fab.inbox }) ∧
    (s.fab.seen.contains (x.src, field x.payload 0 4) = false → ∃ t : State, exec (.drain x port) s = .next t ∧ t.fab.seen = (x.src, field x.payload 0 4) :: s.fab.seen ∧ (x.src, x.tenant, x.epoch) ∈ t.fab.drained ∧ t.fab.imports = s.fab.imports ∧ t.mem = s.mem)) ∧
  (∀ (s : State) (x : Packet) (port tn id : Nat) (w : List Nat) (u : Tick), s.up = true → x.type = 0x11 → List.find? (fun y : Nat × Packet => y.2 == x) s.fab.inbox = some (port, x) →
    List.find? (fun y : Nat × Nat × List Nat × Tick => y.2.1 == field x.payload 0 4) s.fab.steps = some (tn, id, w, u) → (w.filter fun m => m != x.src) ≠ [] →
    exec (.drainAck x) s = .next { s with fab.inbox := dropFirst (fun y : Nat × Packet => y.2 == x) s.fab.inbox, fab.steps := s.fab.steps.set tn (field x.payload 0 4, w.filter fun m => m != x.src, u) }) ∧
  (∀ (s : State) (tn id : Nat) (w : List Nat) (u : Tick), s.up = true → s.fab.steps = [(tn, id, w, u)] → u + 250000 ≤ s.now →
    exec .drainTimeout s = .next ((s.post 0x0D0C 0 0 (leBytes 4 id ++ leBytes 2 w.length)).drainOver tn)) ∧
  (∀ (s : State) (x : Packet) (port : Nat), s.up = true → x.type = 0x21 → List.find? (fun y : Nat × Packet => y.2 == x) s.fab.inbox = some (port, x) →
    ∃ t : State, exec (.portState x) s = .next t ∧ (⟨x.src, field x.payload 0 1, field x.payload 1 1, field x.payload 2 1⟩ : Link) ∈ t.fab.links ∧ t.fab.inbox = dropFirst (fun y : Nat × Packet => y.2 == x) s.fab.inbox) ∧
  (∀ (s : State), s.fabricOn = true → (s.now - s.fab.floodAt < 25000000 → exec .portStateFlood s = .next s) ∧ (25000000 ≤ s.now - s.fab.floodAt → ∃ t : State, exec .portStateFlood s = .next t ∧ t.fab.floodAt = s.now ∧ (∀ p, (t.port p).state = (s.port p).state) ∧ t.mem = s.mem ∧ ((∀ p, ∀ w ∈ (s.port p).waiting, w.type = 0x21) → ∃ l, t.fab.sent = l ++ s.fab.sent ∧ ∀ y ∈ l, y.2.pkt.type = 0x21))) ∧
  (∀ (s : State) (port : Nat) (a b c d : Int), s.fabricOn = true → s.hearsTime port = true →
    (s.fab.stepped = true → ∃ t : State, exec (.time port a b c d) s = .next t ∧ t.fab.slew = ((b - a) + (c - d)) / 2 ∧ t.now = s.now ∧ t.fab.timeState = 1 ∧ t.fab.uncertainty ≤ 50 ∧ t.fab.holdoverAt = none ∧ t.fab.unsynced = false) ∧
    (s.fab.stepped = false → ∃ t : State, exec (.time port a b c d) s = .next t ∧ t.now = (s.now + ((b - a) + (c - d)) / 2 / 40).toNat ∧ t.fab.stepped = true ∧ t.fab.timeState = 1 ∧ t.fab.uncertainty ≤ 50)) ∧
  (∀ (s : State) (port : Nat), s.fabricOn = true → s.parentPort = some port → portUsable (s.port port).state = true → 25000 ≤ s.now - s.fab.timeSent → (s.port port).waiting = [] → 1 ≤ (s.port port).credits →
    ∃ t : State, exec .timeExchange s = .next t ∧ t.now = s.now ∧ ∃ x, t.fab.sent = (port, x) :: s.fab.sent ∧ x.pkt.type = 0x22 ∧ x.pkt.payload = leBytes 8 (40 * s.now) ++ List.replicate 24 0) ∧
  (∀ (s : State), s.up = true → s.fab.timeState = 1 → 125000 ≤ s.now - s.fab.timeAt →
    ∃ t : State, exec .timeParentLoss s = .next t ∧ t.fab.timeState = 2 ∧ t.fab.holdoverAt = some s.now ∧ t.fab.alternate = !s.fab.alternate ∧ eventPosted s t 0x0D0E 0 0 [2]) ∧
  (∀ (s : State) (u : Tick), s.up = true → s.fab.timeState = 2 → s.fab.holdoverAt = some u → 23750000 ≤ s.now - u → exec .holdoverLimit s = .next { s with fab.unsynced := true }) ∧
  (∀ (s : State) (m : Mb) (r : Req) (c : Ctx) (id : Nat), s.runs m 0x0D04 false = some r → r.len = 8 → r.u8 3 = 0 → s.ctx? (r.u16 0) = some c → r.u32 4 ≤ 1048576 → s.held (2, r.u16 0) = false → (leastBelow 1024 fun i => !s.fab.exports.has i) = some id →
    (s.hasRoute (r.u8 2) = false → exec (.fabExport m) s = .next ((s.taken m).respond m 0x0D04 r.tag { status := St.refused, detail := 3 })) ∧
    (s.hasRoute (r.u8 2) = true → c.exportId = none → ∃ t : State, exec (.fabExport m) s = .next (t.respond m 0x0D04 r.tag (okR (leBytes 2 id ++ leBytes 1 s.origin ++ [0]))) ∧
      t.fab.exports.find? id = some { ctx := r.u16 0, dest := r.u8 2, attachMax := r.u32 4, seq := 1 } ∧ t.ctx? (r.u16 0) = some { c with exportId := some id } ∧ (∀ k, k ≠ r.u16 0 → t.ctx? k = s.ctx? k))) ∧
  (∀ (s : State) (m : Mb) (r : Req) (id : Nat), s.runs m 0x0D05 false = some r → r.len = 24 → r.u16 6 = 0 → s.tenantErr (r.u8 0) = none → (leastBelow 1024 fun i => !s.fab.imports.has i) = some id →
    (importArgs r = false → exec (.fabImport m) s = .next ((s.taken m).respond m 0x0D05 r.tag { status := St.badArg })) ∧
    (importArgs r = true → (s.fab.imports.any fun x => x.2.key == (newImport r).key) = false →
      ∃ t : State, exec (.fabImport m) s = .next (t.respond m 0x0D05 r.tag (okR (leBytes 2 id ++ [0, 0]))) ∧ t.fab.imports.find? id = some (newImport r) ∧ (newImport r).key ∉ t.fab.closed ∧ t.fab.exports = s.fab.exports)) ∧
  (∀ (s : State) (m : Mb) (r : Req), s.runs m 0x0D06 false = some r → r.len = 4 → r.u8 1 = 0 →
    (r.u8 0 = 1 → s.fab.imports.has (r.u16 2) = true → exec (.fabUnbind m) s = .next (({ s.taken m with fab.imports := s.fab.imports.del (r.u16 2) } : State).respond m 0x0D06 r.tag (okR []))) ∧
    (∀ e, r.u8 0 = 0 → s.fab.exports.find? (r.u16 2) = some e → exec (.fabUnbind m) s = .next ((({ s.taken m with fab.exports := s.fab.exports.del (r.u16 2) } : State).updCtx e.ctx fun c => { c with exportId := none }).respond m 0x0D06 r.tag (okR []))) ∧
    (1 < r.u8 0 → exec (.fabUnbind m) s = .next ((s.taken m).respond m 0x0D06 r.tag { status := St.badArg }))) ∧
  (∀ (s : State) (m : Mb) (r : Req), s.runs m 0x0D07 false = some r → r.len = 4 → r.u16 2 = 0 →
    (s.fab.imports.find? (r.u16 0) = none → exec (.fabStream m) s = .next ((s.taken m).respond m 0x0D07 r.tag { status := St.badArg })) ∧
    (∀ i, s.fab.imports.find? (r.u16 0) = some i → exec (.fabStream m) s = .next ((s.taken m).respond m 0x0D07 r.tag
      (okR (leBytes 8 i.h ++ leBytes 8 i.bits ++ leBytes 8 i.delivered ++ leBytes 8 i.duplicates ++ leBytes 8 i.lost ++ leBytes 4 i.landFull ++ leBytes 4 i.drainDiscard))))) ∧
  (∀ (s : State) (m : Mb) (r : Req), s.runs m 0x0D08 false = some r → r.len = 4 → field r.pay 1 3 = 0 →
    exec (.fabRoute m) s = .next ((s.taken m).respond m 0x0D08 r.tag (okR ((List.range 4).map (s.routeEntry (r.u8 0))).flatten)))

/-- A twin message of a type has been delivered from the partner (R280). -/
def twinMessage (s : State) (x : Packet) (type : Nat) : Prop :=
  s.up = true ∧ s.twin.role ≠ 0 ∧ s.partner = some x.src ∧ x.type = type ∧ ∃ port, List.find? (fun y : Nat × Packet => y.2 == x) s.fab.inbox = some (port, x)

/-- The state once that message has been taken: the partner has been heard. -/
def heardState (s : State) (x : Packet) : State :=
  { s with fab.inbox := dropFirst (fun y : Nat × Packet => y.2 == x) s.fab.inbox, twin.heardAt := s.now }

/-- R280 to R284, R287: twin pairs. A heartbeat keeps the partner, and of two Primaries the later yields. A lead waits at a granted partition of the Standby. A join request with another digest is refused; a grant makes the partition led, and with
the last one the partner is joined. On the handover message the Standby is the Primary and acknowledges; on the acknowledgement the former Primary is the Standby and drops what was not led. 5 ms without a message the partner is lost,
and a Standby takes the lead. TWIN_STATUS reports; TWIN_JOIN and TWIN_HANDOVER are accepted or refused. -/
def Obligations.TwinsLeadJoinAndTakeOver : Prop :=
  (∀ (s : State) (x : Packet), twinMessage s x 0x30 →
    ((s.twin.role ≠ 1 ∨ field x.payload 0 1 ≠ 1 ∨ s.twin.primaryAt ≤ s.twin.heardAt) →
      (s.twin.partner ≠ 3 → exec (.twinHeartbeat x) s = .next (heardState s x)) ∧ (s.twin.partner = 3 → exec (.twinHeartbeat x) s = .next { heardState s x with twin.partner := 0 })) ∧
    (s.twin.role = 1 → field x.payload 0 1 = 1 → s.twin.heardAt < s.twin.primaryAt →
      ∃ t : State, exec (.twinHeartbeat x) s = .next t ∧ t.twin.role = 2 ∧ t.twin.partner = 0 ∧ t.twin.former = true ∧ t.fw.twinBit = some 2 ∧ t.ctxs = s.ctxs)) ∧
  (∀ (s : State) (q : Nat) (rt : Nat × Nat × List Nat), s.up = true → s.twin.role ≠ 0 → s.partner = some q → s.pickRoute q s.origin (s.newPacket q 0x30).context = some rt →
    (s.port (rt.2.2.getD 0 0)).waiting = [] → 1 ≤ (s.port (rt.2.2.getD 0 0)).credits →
    ∃ (t : State) (x : Frame), exec .twinHeartbeatSend s = .next t ∧ t.fab.sent = (rt.2.2.getD 0 0, x) :: s.fab.sent ∧ x.pkt.type = 0x30 ∧ x.pkt.dest = q ∧ x.pkt.twin = true ∧
      x.pkt.payload = leBytes 1 s.twin.role ++ leBytes 1 s.twin.partner ++ leBytes 2 s.fw.boot ++ leBytes 8 s.twin.leads ∧ t.twin = s.twin) ∧
  (∀ (s : State) (x : Packet) (p : Part), twinMessage s x 0x31 → s.twin.role = 2 → field x.payload 0 2 ≠ 0xFFFF → s.part? (field x.payload 0 2) = some p →
    ∃ t : State, exec (.twinLead x) s = .next t ∧ t.ctxs = s.ctxs ∧ (∀ k, k ≠ field x.payload 0 2 → t.part? k = s.part? k) ∧
      t.part? (field x.payload 0 2) = some (if p.granted then { p with leads := addLead p.leads (field x.payload 4 8) (readEntries x.payload 16 (field x.payload 2 2)) } else p)) ∧
  (∀ (s : State) (x : Packet), twinMessage s x 0x32 →
    (s.twin.role ≠ 1 → exec (.twinJoinReq x) s = .next (heardState s x)) ∧
    (s.twin.role = 1 → slice x.payload 0 48 ≠ s.listDigest → ∃ t : State, exec (.twinJoinReq x) s = .next t ∧ t.twin = (heardState s x).twin ∧ t.parts = s.parts) ∧
    (s.twin.role = 1 → slice x.payload 0 48 = s.listDigest → s.parts = [] → ∃ t : State, exec (.twinJoinReq x) s = .next t ∧ t.twin.partner = 2 ∧ t.twin.role = 1 ∧ eventPosted s t 0x0D82 0 0 (leBytes 1 x.src))) ∧
  (∀ (s : State) (x : Packet) (p : Part), twinMessage s x 0x33 →
    ((s.twin.role ≠ 2 ∨ s.twin.partner ≠ 1) → exec (.twinJoinGrant x) s = .next (heardState s x)) ∧
    (s.twin.role = 2 → s.twin.partner = 1 → field x.payload 2 2 = 0 → s.part? (field x.payload 0 2) = some p → s.parts.Pairwise (fun a b => a.1 < b.1) → (∀ y ∈ s.parts, y.1 ≠ field x.payload 0 2 → y.2.granted = true) →
      ∃ t : State, exec (.twinJoinGrant x) s = .next (t.finishOps isJoin 0x00) ∧ t.twin.partner = 2 ∧ t.part? (field x.payload 0 2) = some { p with granted := true } ∧ t.ctxs = s.ctxs ∧ eventPosted s t 0x0D82 0 0 (leBytes 1 x.src))) ∧
  (∀ (s : State) (x : Packet), twinMessage s x 0x36 → s.twin.role = 2 → s.twin.partner = 1 → exec (.twinJoinRefuse x) s = .next (State.finishOps { heardState s x with twin.partner := 0 } isJoin St.incompatible)) ∧
  (∀ (s : State) (x : Packet), twinMessage s x 0x34 →
    (s.twin.role ≠ 2 → exec (.twinHandoverPacket x) s = .next (heardState s x)) ∧
    (s.twin.role = 2 → ∃ t : State, exec (.twinHandoverPacket x) s = .next t ∧ t.twin.role = 1 ∧ t.twin.partner = 0 ∧ t.twin.former = false ∧ t.twin.primaryAt = s.now ∧ t.twin.switchovers = sat32 s.twin.switchovers 1 ∧ t.fw.twinBit = some 1)) ∧
  (∀ (s : State) (x : Packet), twinMessage s x 0x35 →
    ((s.twin.role ≠ 1 ∨ s.twin.handing = false) → exec (.twinHandoverAck x) s = .next (heardState s x)) ∧
    (s.twin.role = 1 → s.twin.handing = true → ∃ t : State, exec (.twinHandoverAck x) s = .next (t.finishOps isHandover 0x00) ∧ t.twin.role = 2 ∧ t.twin.partner = 0 ∧ t.twin.former = true ∧ t.twin.handing = false ∧ t.fw.twinBit = some 2 ∧
      (∀ n c, s.ctx? n = some c → ∃ d, t.ctx? n = some d ∧ d.queue = [] ∧ d.pseq = c.pseq) ∧ (∀ n p, s.part? n = some p → ∃ q, t.part? n = some q ∧ q.job = p.job ∧ q.granted = false))) ∧
  (∀ (s : State), s.up = true → s.twin.partner ≠ 3 → s.twin.heardAt ≠ 0 → 125000 ≤ s.now - s.twin.heardAt →
    (s.twin.role = 2 → ∃ t : State, exec .partnerLossTimeout s = .next t ∧ t.twin.role = 1 ∧ t.twin.partner = 3 ∧ t.twin.switchovers = sat32 s.twin.switchovers 1 ∧ t.fw.twinBit = some 1) ∧
    (s.twin.role = 1 → ∃ t : State, exec .partnerLossTimeout s = .next t ∧ t.twin.role = 1 ∧ t.twin.partner = 3 ∧ t.twin.handing = false ∧ (∀ n p, s.part? n = some p → ∃ q, t.part? n = some q ∧ q.granted = false ∧ q.job = p.job))) ∧
  (∀ (s : State) (m : Mb) (r : Req) (q : Nat), s.runs m 0x0D80 false = some r → r.len = 0 → s.partner = some q →
    exec (.twinStatus m) s = .next ((s.taken m).respond m 0x0D80 r.tag (okR (leBytes 1 s.twin.role ++ leBytes 1 q ++ leBytes 1 s.pairId ++ leBytes 1 s.twin.partner ++ leBytes 4 (min 0xFFFFFFFF ((s.now - s.twin.heardAt) / 25)) ++
      leBytes 8 s.twin.leads ++ leBytes 4 s.twin.switchovers ++ leBytes 4 s.twin.absent ++ leBytes 4 s.twin.skipped ++ leBytes 4 s.twin.unjoined)))) ∧
  (∀ (s : State) (m : Mb) (r : Req) (q : Nat), s.runs m 0x0D81 false = some r → r.len = 0 → s.held (10, 0) = false →
    (s.twin.role ≠ 2 → exec (.twinJoin m) s = .next ((s.taken m).respond m 0x0D81 r.tag { status := St.refused, detail := 1 })) ∧
    (s.twin.role = 2 → s.partner = some q → s.twin.heardAt ≠ 0 → s.now - s.twin.heardAt < 125000 → s.mason.lastOp + 1 < 2 ^ 32 →
      ∃ t : State, exec (.twinJoin m) s = .next (t.respond m 0x0D81 r.tag { status := 0x01, arg := s.mason.lastOp + 1 }) ∧ t.twin.partner = 1 ∧ t.twin.former = false ∧ t.twin.trowel = [] ∧
        t.mason.ops = s.mason.ops ++ [⟨s.mason.lastOp + 1, r.mb, r.code, r.tag, .twinJoin⟩])) ∧
  (∀ (s : State) (m : Mb) (r : Req) (q : Nat), s.runs m 0x0D82 false = some r → r.len = 0 → s.held (10, 0) = false →
    (s.twin.role ≠ 1 → exec (.twinHandover m) s = .next ((s.taken m).respond m 0x0D82 r.tag { status := St.refused, detail := 1 })) ∧
    (s.twin.role = 1 → s.twin.partner ≠ 2 → exec (.twinHandover m) s = .next ((s.taken m).respond m 0x0D82 r.tag { status := St.refused, detail := 2 })) ∧
    (s.twin.role = 1 → s.twin.partner = 2 → s.twin.handing = false → s.partner = some q → s.mason.lastOp + 1 < 2 ^ 32 →
      ∃ t : State, exec (.twinHandover m) s = .next (t.respond m 0x0D82 r.tag { status := 0x01, arg := s.mason.lastOp + 1 }) ∧ t.twin.handing = true ∧ t.twin.handCause = 0 ∧ t.twin.role = 1 ∧
        t.mason.ops = s.mason.ops ++ [⟨s.mason.lastOp + 1, r.mb, r.code, r.tag, .twinHandover⟩]))

/-- R297 to R301, R307, R351: tenants. SEC_TENANT_CREATE opens a tenant within the pool of 287 GiB, unbinds the closed slots of its VF and posts the event; it refuses by tenancy and pool. SEC_TENANT_REMOVE is accepted,
closes the tenant and marks its jobs. The scrub's end zeroes its frames, frees them and closes the removal. SEC_TENANT_QUERY reports; SEC_QUOTA sets a quota that pool and mapped frames allow. -/
def Obligations.TenantsOpenAndAreRemoved : Prop :=
  (∀ (s : State) (m : Mb) (r : Req), s.runs m 0x0B01 false = some r → r.len = 8 → field r.pay 1 3 = 0 → r.u16 6 = 0 →
    ((63 < r.u8 0 ∨ r.u16 4 = 0 ∨ 287 < r.u16 4) → exec (.secTenantCreate m) s = .next ((s.taken m).respond m 0x0B01 r.tag { status := St.badArg })) ∧
    (r.u8 0 ≤ 63 → 0 < r.u16 4 → r.u16 4 ≤ 287 → s.sec.tenants.find? (r.u8 0) = none →
      (287 < s.quotaOthers (r.u8 0) + r.u16 4 → exec (.secTenantCreate m) s = .next ((s.taken m).respond m 0x0B01 r.tag { status := St.noResource })) ∧
      (s.quotaOthers (r.u8 0) + r.u16 4 ≤ 287 → r.u8 0 ≠ 0 → (s.multi = false ∨ s.sec.life = 0) → exec (.secTenantCreate m) s = .next ((s.taken m).respond m 0x0B01 r.tag { status := St.refused, detail := 1 })) ∧
      (s.quotaOthers (r.u8 0) + r.u16 4 ≤ 287 → (r.u8 0 = 0 ∨ (s.multi = true ∧ s.sec.life ≠ 0)) → s.sec.life < 3 →
        ∃ t : State, exec (.secTenantCreate m) s = .next (t.respond m 0x0B01 r.tag (okR (leBytes 1 (boolN (s.sec.slotB.contains (r.u8 0))) ++ [0, 0, 0]))) ∧
          t.sec.tenants.find? (r.u8 0) = some { quotaGib := r.u16 4 } ∧ (∀ k, k ≠ r.u8 0 → t.sec.tenants.find? k = s.sec.tenants.find? k) ∧
          (∀ k, k / 768 = r.u8 0 → t.host.slotBind.find? k ≠ some 16384) ∧ eventPosted s t 0x0B01 9 (r.u8 0) (leBytes 2 (r.u16 4)) ∧ t.ctxs = s.ctxs ∧ t.parts = s.parts ∧ t.mem = s.mem))) ∧
  (∀ (s : State) (m : Mb) (r : Req), s.runs m 0x0B02 false = some r → r.len = 4 → field r.pay 1 3 = 0 →
    ((63 < r.u8 0 ∨ s.tenantOpen (r.u8 0) = false) → exec (.secTenantRemove m) s = .next ((s.taken m).respond m 0x0B02 r.tag { status := St.badArg })) ∧
    (∀ w, r.u8 0 ≤ 63 → s.tenantOpen (r.u8 0) = true → s.sec.tenants.find? (r.u8 0) = some w → s.mason.lastOp + 1 < 2 ^ 32 →
      (∀ y ∈ s.sec.tenants, y.1 ≠ r.u8 0 → y.2.state ≠ 2) → (∃ y ∈ s.parts, y.2.tenant = r.u8 0) → (∀ y ∈ s.parts, y.2.tenant = r.u8 0 → y.2.job.isSome = true) → (∀ o ∈ s.mason.ops, ∀ n, o.kind ≠ .vidFlush n) →
      ∃ t : State, exec (.secTenantRemove m) s = .next (t.respond m 0x0B02 r.tag { status := 0x01, arg := s.mason.lastOp + 1 }) ∧
        t.sec.tenants.find? (r.u8 0) = some { w with state := 2, step := 2, startAt := s.now } ∧ t.mason.ops = s.mason.ops ++ [⟨s.mason.lastOp + 1, r.mb, r.code, r.tag, .tenantRemove (r.u8 0)⟩] ∧
        (∀ n p j, s.part? n = some p → p.tenant = r.u8 0 → p.job = some j → ∃ q, t.part? n = some q ∧ q.job = some { j with closed := true }) ∧ t.mem.frames = s.mem.frames)) ∧
  (∀ (s : State) (n : Nat) (w : Tenant), s.sec.tenants.find? n = some w → w.state = 2 → w.step = 5 → s.up = true → s.mason.paused = false → s.power.hold = false → s.therm.quench = false → (∀ p, (s.pier p).resetting = false) →
    ∃ t : State, exec (.tenantScrubDone n) s = .next (t.finishOps (fun k => match k with | .tenantRemove k => k == n | _ => false) 0x00) ∧ t.sec.tenants.find? n = none ∧ (∀ k, k ≠ n → t.sec.tenants.find? k = s.sec.tenants.find? k) ∧
      t.framesOf n = [] ∧ (∀ f ∈ s.framesOf n, ∀ a, f.2 * 2 ^ 21 ≤ a → a < (f.2 + 1) * 2 ^ 21 → memRead t.mem.hbm a = 0) ∧
      eventPosted s t 0x0B02 9 n (leBytes 4 w.scrubMib ++ leBytes 8 (40 * (s.now - w.startAt))) ∧ t.mem.host = s.mem.host ∧ t.mason = s.mason) ∧
  (∀ (s : State) (m : Mb) (r : Req) (n : Nat), s.runs m 0x0B03 true = some r → r.len = 4 → field r.pay 1 3 = 0 → n = r.vf.getD (r.u8 0) →
    (63 < n → exec (.secTenantQuery m) s = .next ((s.taken m).respond m 0x0B03 r.tag { status := St.badArg })) ∧
    (∀ w, n ≤ 63 → s.sec.tenants.find? n = some w → w.state = 1 → exec (.secTenantQuery m) s = .next ((s.taken m).respond m 0x0B03 r.tag
      (okR (leBytes 1 1 ++ leBytes 1 0 ++ leBytes 1 (boolN (s.sec.slotB.contains n)) ++ [0] ++ leBytes 2 w.quotaGib ++ [0, 0] ++ leBytes 4 (2 * (s.framesOf n).length) ++
        leBytes 2 (s.ctxs.filter fun c => c.2.tenant == n).length ++ leBytes 1 (s.parts.filter fun p => p.2.tenant == n).length ++ leBytes 1 (min 255 (s.plans.filter fun p => p.2.tenant == n).length)))))) ∧
  (∀ (s : State) (m : Mb) (r : Req), s.runs m 0x0B04 false = some r → r.len = 4 → field r.pay 1 1 = 0 →
    ((63 < r.u8 0 ∨ s.tenantOpen (r.u8 0) = false ∨ r.u16 2 = 0 ∨ 287 < r.u16 2) → exec (.secQuota m) s = .next ((s.taken m).respond m 0x0B04 r.tag { status := St.badArg })) ∧
    (∀ w, r.u8 0 ≤ 63 → s.tenantOpen (r.u8 0) = true → s.sec.tenants.find? (r.u8 0) = some w → 0 < r.u16 2 → r.u16 2 ≤ 287 →
      (287 < s.quotaOthers (r.u8 0) + r.u16 2 → exec (.secQuota m) s = .next ((s.taken m).respond m 0x0B04 r.tag { status := St.noResource })) ∧
      (s.quotaOthers (r.u8 0) + r.u16 2 ≤ 287 → 1024 * r.u16 2 < 2 * (s.framesOf (r.u8 0)).length → exec (.secQuota m) s = .next ((s.taken m).respond m 0x0B04 r.tag { status := St.refused, detail := 3 })) ∧
      (s.quotaOthers (r.u8 0) + r.u16 2 ≤ 287 → 2 * (s.framesOf (r.u8 0)).length ≤ 1024 * r.u16 2 →
        exec (.secQuota m) s = .next (({ s.taken m with sec.tenants := s.sec.tenants.set (r.u8 0) { w with quotaGib := r.u16 2 } } : State).respond m 0x0B04 r.tag (okR [])))))

/-- R289 to R296, R304: keys and the life cycle. SEC_KEY_RETIRE retires a slot that no tenant holds, or a fabric key, once, and advances the configuration epoch; SEC_KEY_STATUS reports. SEC_LIFECYCLE fuses a state one step ahead (or RMA from
INTEGRATION) with its authorisation; SEC_FABRIC_BIND binds the order number once, in INTEGRATION.
R291: the debug ways are open in MANUFACTURE and RMA only, and key fuses read as zero in RMA. -/
def Obligations.KeysAndLifeCycleGoForward : Prop :=
  (∀ (s : State) (m : Mb) (r : Req), s.runs m 0x0B05 false = some r → r.len = 4 → r.u16 2 = 0 →
    ((1 < r.u8 0 ∨ (r.u8 0 = 0 ∧ 63 < r.u8 1) ∨ (r.u8 0 = 1 ∧ 3 < r.u8 1)) → exec (.secKeyRetire m) s = .next ((s.taken m).respond m 0x0B05 r.tag { status := St.badArg })) ∧
    (r.u8 0 = 0 → r.u8 1 ≤ 63 →
      (s.sec.tenants.has (r.u8 1) = true → exec (.secKeyRetire m) s = .next ((s.taken m).respond m 0x0B05 r.tag { status := St.refused, detail := 1 })) ∧
      (s.sec.tenants.has (r.u8 1) = false → s.sec.slotB.contains (r.u8 1) = true → exec (.secKeyRetire m) s = .next ((s.taken m).respond m 0x0B05 r.tag { status := St.refused, detail := 2 })) ∧
      (s.sec.tenants.has (r.u8 1) = false → s.sec.slotB.contains (r.u8 1) = false →
        ∃ t : State, exec (.secKeyRetire m) s = .next (t.respond m 0x0B05 r.tag (okR [])) ∧ t.sec.slotB.contains (r.u8 1) = true ∧ t.sec.epoch = s.sec.epoch + 1 ∧ t.sec.tenants = s.sec.tenants ∧ t.sec.fabRetired = s.sec.fabRetired)) ∧
    (r.u8 0 = 1 → r.u8 1 ≤ 3 →
      (s.sec.fabRetired.contains (r.u8 1) = true → exec (.secKeyRetire m) s = .next ((s.taken m).respond m 0x0B05 r.tag { status := St.refused, detail := 2 })) ∧
      (s.sec.fabRetired.contains (r.u8 1) = false →
        ∃ t : State, exec (.secKeyRetire m) s = .next (t.respond m 0x0B05 r.tag (okR [])) ∧ t.sec.fabRetired.contains (r.u8 1) = true ∧ t.sec.epoch = s.sec.epoch + 1 ∧ t.sec.slotB = s.sec.slotB))) ∧
  (∀ (s : State) (m : Mb) (r : Req), s.runs m 0x0B06 false = some r → r.len = 0 → ∃ g, g.length = 16 ∧
    exec (.secKeyStatus m) s = .next ((s.taken m).respond m 0x0B06 r.tag (okR (g ++ leBytes 1 (doneWord s.sec.fabRetired + 16 * boolN s.sec.fabBound + 32 * boolN s.sec.killed) ++ [0, 0, 0] ++ leBytes 8 s.sec.order)))) ∧
  (∀ (s : State) (m : Mb) (r : Req), s.runs m 0x0B07 false = some r → r.len = 100 → field r.pay 1 3 = 0 →
    (r.u8 0 ≠ s.sec.lifeFused + 1 → ¬ (s.sec.lifeFused = 1 ∧ r.u8 0 = 3) → exec (.secLifecycle m) s = .next ((s.taken m).respond m 0x0B07 r.tag { status := St.badArg })) ∧
    (s.sec.lifeFused = 0 → r.u8 0 = 1 → Config.sigOk 2 (s.authDigest none) (slice r.pay 4 96) = false → exec (.secLifecycle m) s = .next ((s.taken m).respond m 0x0B07 r.tag { status := St.refused, detail := 1 })) ∧
    (s.sec.lifeFused = 1 → r.u8 0 = 2 → allZero (slice r.pay 4 96) = true →
      (s.sec.fabBound = false → exec (.secLifecycle m) s = .next ((s.taken m).respond m 0x0B07 r.tag { status := St.refused, detail := 2 })) ∧
      (s.sec.fabBound = true → s.fw.stored.isSome = true → (∀ y ∈ s.sec.tenants, y.2.state ≠ 1) →
        ∃ t : State, exec (.secLifecycle m) s = .next (t.respond m 0x0B07 r.tag (okR [])) ∧ t.sec.lifeFused = 2 ∧ t.sec.life = s.sec.life ∧ t.sec.epoch = s.sec.epoch + 1 ∧ t.sec.tenants = s.sec.tenants)) ∧
    ((r.u8 0 = 3 ∧ (s.sec.lifeFused = 1 ∨ s.sec.lifeFused = 2)) → Config.sigOk 3 (s.authDigest (some 3)) (slice r.pay 4 96) = true →
      (s.sec.tenants ≠ [] → exec (.secLifecycle m) s = .next ((s.taken m).respond m 0x0B07 r.tag { status := St.refused, detail := 3 })) ∧
      (s.sec.tenants = [] → ∃ t : State, exec (.secLifecycle m) s = .next (t.respond m 0x0B07 r.tag (okR [])) ∧ t.sec.lifeFused = 3 ∧ t.sec.life = s.sec.life ∧ t.sec.epoch = s.sec.epoch + 1))) ∧
  (∀ (s : State) (m : Mb) (r : Req), s.runs m 0x0B08 false = some r → r.len = 8 →
    ((s.sec.life ≠ 1 ∨ s.sec.fabBound = true) → exec (.secFabricBind m) s = .next ((s.taken m).respond m 0x0B08 r.tag { status := St.refused, detail := 1 })) ∧
    (s.sec.life = 1 → s.sec.fabBound = false →
      (r.u64 0 ≠ s.sec.order → exec (.secFabricBind m) s = .next ((s.taken m).respond m 0x0B08 r.tag { status := St.refused, detail := 2 })) ∧
      (∀ p, r.u64 0 = s.sec.order → s.fw.stored = some p → p.order = r.u64 0 → ∃ t : State, exec (.secFabricBind m) s = .next (t.respond m 0x0B08 r.tag (okR [])) ∧ t.sec.fabBound = true ∧ t.sec.epoch = s.sec.epoch ∧ t.sec.lifeFused = s.sec.lifeFused))) ∧
  (∀ (s : State) (way : DebugPath) (isKey : Bool) (bytes : List Byte) (a : Nat),
    (debugOpen s.sec.life way = true ↔ s.sec.life = 0 ∨ s.sec.life = 3) ∧ (s.sec.life ≠ 0 → s.sec.life ≠ 3 → s.debugFuse isKey bytes = none ∧ s.debugHbm a = none) ∧
    (s.sec.life = 3 → s.debugFuse true bytes = some (List.replicate bytes.length 0)) ∧ (s.sec.life = 0 → s.debugFuse isKey bytes = some bytes ∧ s.debugHbm a = some (memRead s.mem.hbm a)))

/-- R302 to R306: attestation. SEC_ATTEST takes its snapshot when it is accepted and lands 4,096 bytes; it is refused from RMA on. Over DOE, GET_VERSION starts a transcript, without it any other request and before the algorithms are negotiated the last four are answered UnexpectedRequest, an answer joins the transcript with its
request, an error does not, and a Mason pause answers Busy. A signature over measurements after the epoch has changed is answered RequestResynch. -/
def Obligations.ModulesAttest : Prop :=
  (∀ (s : State) (m : Mb) (r : Req), s.runs m 0x0B09 true = some r → r.len = 40 →
    (r.u64 32 % 4096 ≠ 0 → exec (.secAttest m) s = .next ((s.taken m).respond m 0x0B09 r.tag { status := St.badArg })) ∧
    (r.u64 32 % 4096 = 0 → 3 ≤ s.sec.life → exec (.secAttest m) s = .next ((s.taken m).respond m 0x0B09 r.tag { status := St.refused, detail := 4 })) ∧
    (r.u64 32 % 4096 = 0 → s.sec.life < 3 → s.mason.lastOp + 1 < 2 ^ 32 → ∃ rep : List Byte, rep.length = 4096 ∧ rep.take 6 = [0x41, 0x4D, 0x5A, 0x41, 1, 0] ∧
      slice rep 8 24 = leBytes 8 s.sec.epoch ++ leBytes 8 s.now ++ leBytes 8 s.sec.serial ∧
      exec (.secAttest m) s = .next (({ s.taken m with mason.lastOp := s.mason.lastOp + 1, mason.ops := s.mason.ops ++ [⟨s.mason.lastOp + 1, r.mb, r.code, r.tag, .attest (r.u64 32) r.vf (slice r.pay 0 32) rep⟩] } : State).respond
        m 0x0B09 r.tag { status := 0x01, arg := s.mason.lastOp + 1 }))) ∧
  (∀ (s : State) (op addr : Nat) (v : Option Nat) (nonce rep : List Byte), (s.op? op).map PendingOp.kind = some (.attest addr v nonce rep) → s.up = true → s.power.hold = false →
    exec (.attestReportLanded op) s = .next ((s.hostWriteN addr rep).finishOp op 0x00)) ∧
  (∀ (s : State) (c : Instr) (r : SpdmReq), s.up = true → s.host.linkUp = true → c ∈ [.getVersion r, .getCapabilities r, .negotiateAlgorithms r, .getDigests r, .getCertificate r, .challenge r, .getMeasurements r] →
    (s.mason.paused = true → exec c s = .next { s with sec.doe := [0x12, 0x7F, 3, 0] }) ∧
    (s.mason.paused = false → (s.sec.spdm = 0 → c ≠ .getVersion r → exec c s = .next { s with sec.doe := [0x12, 0x7F, 4, 0] }) ∧
      (s.sec.spdm < 3 → c ∈ [.getDigests r, .getCertificate r, .challenge r, .getMeasurements r] → exec c s = .next { s with sec.doe := [0x12, 0x7F, 4, 0] }))) ∧
  (∀ (s : State) (r : SpdmReq), s.up = true → s.host.linkUp = true → s.mason.paused = false →
    (exec (.getVersion r) s = .next { s with sec.spdm := 1, sec.measEpoch := none, sec.doe := [0x12, 0x04, 0, 0, 0, 1, 0x00, 0x12], sec.transcript := spdmBytes r 0x84 ++ [0x12, 0x04, 0, 0, 0, 1, 0x00, 0x12] }) ∧
    (∀ c code, ((c = .getCapabilities r ∧ code = 0xE1 ∧ 1 ≤ s.sec.spdm) ∨ (c = .negotiateAlgorithms r ∧ code = 0xE3 ∧ 2 ≤ s.sec.spdm) ∨ (c = .getDigests r ∧ code = 0x81 ∧ 3 ≤ s.sec.spdm) ∨
        (c = .getCertificate r ∧ code = 0x82 ∧ 3 ≤ s.sec.spdm ∧ r.param1 % 16 = 0)) →
      ∃ t : State, exec c s = .next t ∧ t.sec.transcript = s.sec.transcript ++ spdmBytes r code ++ t.sec.doe ∧ t.sec.doe.take 2 = [0x12, BitVec.ofNat 8 (code - 0x80)] ∧ s.sec.spdm ≤ t.sec.spdm + (if code = 0xE3 then s.sec.spdm else 0) ∧ t.mason = s.mason) ∧
    (3 ≤ s.sec.spdm → r.param1 = 0 → s.sec.killed = false → ∃ (t : State) (head : List Byte), exec (.challenge r) s = .next t ∧ t.sec.doe = head ++ padTo 96 (Config.attestSign (sha384 (s.sec.transcript ++ spdmBytes r 0x83 ++ head))) ∧
      head.take 2 = [0x12, 0x03] ∧ t.sec.transcript = s.sec.transcript ++ spdmBytes r 0x83 ++ t.sec.doe) ∧
    (3 ≤ s.sec.spdm → s.sec.killed = true → exec (.challenge r) s = .next { s with sec.doe := [0x12, 0x7F, 7, 0] }) ∧
    (3 ≤ s.sec.spdm → bitOf r.param1 1 = false →
      (∀ e, bitOf r.param1 0 = true → s.sec.killed = false → s.sec.measEpoch = some e → e ≠ s.sec.epoch → exec (.getMeasurements r) s = .next { s with sec.spdm := 0, sec.transcript := [], sec.measEpoch := none, sec.doe := [0x12, 0x7F, 0x43, 0] }) ∧
      (bitOf r.param1 0 = false → ∃ t : State, exec (.getMeasurements r) s = .next t ∧ t.sec.doe.take 2 = [0x12, 0x60] ∧ t.sec.transcript = s.sec.transcript ++ spdmBytes r 0xE0 ++ t.sec.doe ∧ t.sec.spdm = s.sec.spdm ∧
        t.sec.measEpoch = some (s.sec.measEpoch.getD s.sec.epoch)) ∧
      (bitOf r.param1 0 = true → s.sec.killed = false → (s.sec.measEpoch = none ∨ s.sec.measEpoch = some s.sec.epoch) → ∃ (t : State) (head : List Byte), exec (.getMeasurements r) s = .next t ∧ head.take 2 = [0x12, 0x60] ∧
        t.sec.doe = head ++ padTo 96 (Config.attestSign (sha384 (s.sec.transcript ++ spdmBytes r 0xE0 ++ head))) ∧ t.sec.transcript = [] ∧ t.sec.measEpoch = none))) ∧
  (∀ (s : State) (code : Nat), s.up = true → s.host.linkUp = true → s.mason.paused = false → code ∉ [0x84, 0xE1, 0xE3, 0x81, 0x82, 0x83, 0xE0] → exec (.spdmUnsupportedRequest code) s = .next { s with sec.doe := [0x12, 0x7F, 7, 0] })

/-- R309 to R317, R354, R320 to R322, R330, R345: firmware, the cabinet profile, fuses and modes. FW_STAGE reads and checks a header and is accepted; a read that fails ends it BAD_ARG with its channel error code; the payload's check leaves a verified image, or an empty area with SIGNATURE_FAILED. FW_ACTIVATE is
accepted for a verified, compatible image; after the copy the role's first unit restarts, and at its last unit in service the activation and its operation end; a unit that does not come into service brings the previous image back. PROFILE_WRITE stores a profile that
passes the checks of R321 and advances the configuration epoch. The queries report; MODE_SET stores the bits for the next start; MODE_COMPAT_LOCK fuses the interface once. -/
def Obligations.FirmwareProfileFusesAndModes : Prop :=
  (∀ (s : State) (m : Mb) (r : Req), s.runs m 0x0C01 false = some r → r.len = 24 → field r.pay 1 7 = 0 →
    (∀ rd, (1 < r.u8 0 ∨ r.u64 8 % 4096 ≠ 0) → exec (.fwStage ⟨m, rd⟩) s = .next ((s.taken m).respond m 0x0C01 r.tag { status := St.badArg })) ∧
    (∀ rd, r.u8 0 ≤ 1 → r.u64 8 % 4096 = 0 → s.held (8, r.u8 0) = true → exec (.fwStage ⟨m, rd⟩) s = .next ((s.taken m).respond m 0x0C01 r.tag { status := St.busy })) ∧
    (∀ c, r.u8 0 ≤ 1 → r.u64 8 % 4096 = 0 → s.held (8, r.u8 0) = false →
      exec (.fwStage ⟨m, .err c⟩) s = .next (({ s.taken m with fw.staged := s.fw.staged.del (r.u8 0), host.aer := c :: s.host.aer } : State).respond m 0x0C01 r.tag { status := St.badArg, detail := c })) ∧
    (∀ st d, r.u8 0 ≤ 1 → r.u64 8 % 4096 = 0 → s.held (8, r.u8 0) = false → s.headerCheck (s.hostReadN (r.u64 8) 512) (r.u64 16) = some (st, d) →
      exec (.fwStage ⟨m, .ok⟩) s = .next ((s.taken m).respond m 0x0C01 r.tag { status := st, detail := d })) ∧
    (r.u8 0 ≤ 1 → r.u64 8 % 4096 = 0 → s.held (8, r.u8 0) = false → s.headerCheck (s.hostReadN (r.u64 8) 512) (r.u64 16) = none → s.mason.lastOp + 1 < 2 ^ 32 →
      exec (.fwStage ⟨m, .ok⟩) s = .next (({ s.taken m with fw.staged := s.fw.staged.set (r.u8 0) (headerImage (s.hostReadN (r.u64 8) 512)), mason.lastOp := s.mason.lastOp + 1, mason.ops := s.mason.ops ++ [⟨s.mason.lastOp + 1, r.mb, r.code, r.tag, .fwStage (r.u8 0) (r.u64 8) (s.hostReadN (r.u64 8) 512)⟩] } : State).respond m 0x0C01 r.tag { status := 0x01, arg := s.mason.lastOp + 1 }))) ∧
  (∀ (s0 s : State) (op area addr : Nat) (h : List Byte), (s0.op? op).map PendingOp.kind = some (.fwStage area addr h) → s = s0.syncSets → s.intRuns (.op op) = true →
    (imageOk h (s.hostReadN (addr + 512) (headerImage h).length) = true → ∃ t : State, exec (.fwStageVerify op .ok) s0 = .next (t.finishOp op 0x00).syncSets ∧ t.fw.staged.find? area = some { headerImage h with verified := true } ∧
      (∀ k, k ≠ area → t.fw.staged.find? k = s.fw.staged.find? k) ∧ t.fw.active = s.fw.active ∧ eventPosted s t 0x0C01 0 0 (leBytes 1 area ++ leBytes 1 (headerImage h).role ++ [0, 0] ++ leBytes 4 (headerImage h).version)) ∧
    (imageOk h (s.hostReadN (addr + 512) (headerImage h).length) = false → ∃ t : State, exec (.fwStageVerify op .ok) s0 = .next (t.finishOp op St.signatureFailed).syncSets ∧ t.fw.staged.find? area = none ∧ t.fw.active = s.fw.active) ∧
    (∀ c, exec (.fwStageVerify op (.err c)) s0 = .next (State.finishOp { s with fw.staged := s.fw.staged.del area, host.aer := c :: s.host.aer } op St.badArg c).syncSets)) ∧
  (∀ (s : State) (m : Mb) (r : Req), s.runs m 0x0C03 false = some r → r.len = 4 → field r.pay 1 3 = 0 →
    (1 < r.u8 0 → exec (.fwDiscard m) s = .next ((s.taken m).respond m 0x0C03 r.tag { status := St.badArg })) ∧
    (r.u8 0 ≤ 1 → s.held (8, r.u8 0) = false → exec (.fwDiscard m) s = .next (({ s.taken m with fw.staged := s.fw.staged.del (r.u8 0) } : State).respond m 0x0C03 r.tag (okR [])))) ∧
  (∀ (s : State) (m : Mb) (r : Req), s.runs m 0x0C02 false = some r → r.len = 4 → field r.pay 1 3 = 0 →
    (1 < r.u8 0 → exec (.fwActivate m) s = .next ((s.taken m).respond m 0x0C02 r.tag { status := St.badArg })) ∧
    (r.u8 0 ≤ 1 → s.fw.act.isSome = true → exec (.fwActivate m) s = .next ((s.taken m).respond m 0x0C02 r.tag { status := St.busy })) ∧
    (r.u8 0 ≤ 1 → s.fw.act = none → s.held (8, r.u8 0) = false →
      (s.fw.staged.find? (r.u8 0) = none → exec (.fwActivate m) s = .next ((s.taken m).respond m 0x0C02 r.tag { status := St.refused, detail := 1 })) ∧
      (∀ x, s.fw.staged.find? (r.u8 0) = some x → x.verified = true →
        (∀ d, s.compatFail x = some d → exec (.fwActivate m) s = .next ((s.taken m).respond m 0x0C02 r.tag { status := St.incompatible, detail := d })) ∧
        (s.compatFail x = none → s.mason.lastOp + 1 < 2 ^ 32 → exec (.fwActivate m) s = .next (({ s.taken m with fw.act := some ⟨r.u8 0, x.role, 0, s.mason.lastOp + 1, s.activeImage x.role, 0⟩, mason.lastOp := s.mason.lastOp + 1, mason.ops := s.mason.ops ++ [⟨s.mason.lastOp + 1, r.mb, r.code, r.tag, .fwActivate (r.u8 0)⟩] } : State).respond m 0x0C02 r.tag { status := 0x01, arg := s.mason.lastOp + 1 }))))) ∧
  (∀ (s : State) (a : Activation) (x : Image), s.fw.act = some a → s.fw.staged.find? a.area = some x → s.up = true → a.phase = 0 → s.power.hold = false →
    (a.role = 0 → s.mason.inputs = [] → ∃ t : State, exec .activationCopyDone s = .next t ∧ t.fw.act = some { a with unit := 0, phase := 1 } ∧ t.activeImage 0 = x ∧ t.mason.paused = true ∧ (∀ r, r ≠ 0 → r < 5 → t.activeImage r = s.activeImage r)) ∧
    (a.role = 4 → ∃ t : State, exec .activationCopyDone s = .next t ∧ t.fw.act = some { a with unit := 0, phase := 1 } ∧ t.activeImage 4 = x ∧ t.mason = s.mason)) ∧
  (∀ (s : State) (a : Activation), s.fw.act = some a → s.up = true → a.phase = 1 → s.power.hold = false → a.role = 4 → a.unit = 0 →
    (∃ t : State, exec (.activationProcessorInService true) s = .next t ∧ t.fw.act = none ∧ t.fw.staged = s.fw.staged.del a.area ∧ t.sec.epoch = s.sec.epoch + 1 ∧ t.fw.active = s.fw.active ∧ t.mason.ops = s.mason.ops.filter fun o => o.opId != a.op) ∧
    (∃ t : State, exec (.activationProcessorInService false) s = .next (t.finishOp a.op St.refused 0x11) ∧ t.fw.act = none ∧ t.activeImage 4 = a.old ∧ t.fw.staged = s.fw.staged ∧
      eventPosted s t 0x0C03 0 0 ([4, 0, 0, 0] ++ leBytes 4 (s.activeImage 4).version))) ∧
  (∀ (s : State) (m : Mb) (r : Req), s.runs m 0x0C10 false = some r → r.len = 12 →
    ((r.u32 8 < 160 ∨ 1048576 < r.u32 8) → exec (.profileWrite m) s = .next ((s.taken m).respond m 0x0C10 r.tag { status := St.badArg })) ∧
    (160 ≤ r.u32 8 → r.u32 8 ≤ 1048576 → s.held (9, 0) = false →
      (s.sec.life ≠ 1 → exec (.profileWrite m) s = .next ((s.taken m).respond m 0x0C10 r.tag { status := St.refused, detail := 1 })) ∧
      (s.sec.life = 1 → s.mason.lastOp + 1 < 2 ^ 32 → exec (.profileWrite m) s = .next (({ s.taken m with mason.lastOp := s.mason.lastOp + 1, mason.ops := s.mason.ops ++ [⟨s.mason.lastOp + 1, r.mb, r.code, r.tag, .profileWrite (r.u64 0) (r.u32 8)⟩] } : State).respond m 0x0C10 r.tag { status := 0x01, arg := s.mason.lastOp + 1 })))) ∧
  (∀ (s0 s : State) (op addr len : Nat) (b : List Byte), (s0.op? op).map PendingOp.kind = some (.profileWrite addr len) → s = s0.syncSets → s.intRuns (.op op) = true → b = s.hostReadN addr len →
    (∀ c, exec (.profileWriteDone op (.err c)) s0 = .next (State.finishOp { s with host.aer := c :: s.host.aer } op St.badArg c).syncSets) ∧
    (Config.sigOk 1 (sha384 (b.take (b.length - 96))) (b.drop (b.length - 96)) = false → exec (.profileWriteDone op .ok) s0 = .next (s.finishOp op St.signatureFailed).syncSets) ∧
    (Config.sigOk 1 (sha384 (b.take (b.length - 96))) (b.drop (b.length - 96)) = true →
      (field b 8 8 ≠ s.sec.order → exec (.profileWriteDone op .ok) s0 = .next (s.finishOp op St.refused 2).syncSets) ∧
      (∀ p, field b 8 8 = s.sec.order → readProfile b = some p →
        (∀ o, s.fw.stored = some o → p.seq ≤ o.seq → exec (.profileWriteDone op .ok) s0 = .next (s.finishOp op St.rollback).syncSets) ∧
        ((∀ o, s.fw.stored = some o → o.seq < p.seq) → ∃ t : State, exec (.profileWriteDone op .ok) s0 = .next (t.finishOp op 0x00).syncSets ∧ t.fw.stored = some p ∧ t.fw.profile = s.fw.profile ∧ t.sec.epoch = s.sec.epoch + 1)))) ∧
  (∀ (s : State) (m : Mb) (r : Req) (p : Profile), s.runs m 0x0C11 false = some r → r.len = 0 → s.fw.stored = some p →
    exec (.profileInfo m) s = .next ((s.taken m).respond m 0x0C11 r.tag (okR ((if 2 ≤ s.sec.life then [2] else [1]) ++ leBytes 1 p.moduleId ++ [0, 0] ++ leBytes 4 p.seq ++ leBytes 8 p.order ++ padTo 48 p.digest)))) ∧
  (∀ (s : State) (m : Mb) (r : Req), s.runs m 0x0E40 false = some r → r.len = 0 →
    exec (.fuseInfo m) s = .next ((s.taken m).respond m 0x0E40 r.tag (okR (leBytes 2 s.flt.ledger.length ++ leBytes 2 (s.flt.ledger.filter fun x => x.isNone).length ++ leBytes 1 s.fw.counter ++ [0, 0, 0] ++ s.ledgerDigest)))) ∧
  (∀ (s : State) (m : Mb) (r : Req), s.runs m 0x0E41 false = some r → r.len = 4 → r.u16 2 = 0 →
    (24576 ≤ r.u16 0 → exec (.fuseRead m) s = .next ((s.taken m).respond m 0x0E41 r.tag { status := St.badArg })) ∧
    (r.u16 0 < 24576 → ∃ x : List Byte, exec (.fuseRead m) s = .next ((s.taken m).respond m 0x0E41 r.tag (okR (leBytes 1 (min 7 (s.flt.ledger.length - r.u16 0)) ++ List.replicate 7 0 ++ x))) ∧
      x = (((s.flt.ledger.zipIdx.drop (r.u16 0)).take 7).map fuseBytes).flatten)) ∧
  (∀ (s : State) (m : Mb) (r : Req), s.runs m 0x0F01 false = some r → r.len = 0 →
    exec (.modeQuery m) s = .next ((s.taken m).respond m 0x0F01 r.tag (okR (leBytes 1 s.fw.iface ++ leBytes 1 s.fw.ifaceBit ++ leBytes 1 (boolN s.fw.selSampled) ++
      leBytes 1 (match s.fw.lock with | some v => v + 1 | none => 0) ++ leBytes 1 s.fw.tenancy ++ leBytes 1 s.fw.tenancyBit ++ leBytes 1 s.twin.role ++ leBytes 1 s.profile)))) ∧
  (∀ (s : State) (m : Mb) (r : Req), s.runs m 0x0F02 false = some r → r.len = 4 → r.u16 2 = 0 →
    (((1 < r.u8 0 ∧ r.u8 0 ≠ 0xFF) ∨ (1 < r.u8 1 ∧ r.u8 1 ≠ 0xFF)) → exec (.modeSet m) s = .next ((s.taken m).respond m 0x0F02 r.tag { status := St.badArg })) ∧
    ((r.u8 0 ≤ 1 ∨ r.u8 0 = 0xFF) → (r.u8 1 ≤ 1 ∨ r.u8 1 = 0xFF) →
      (r.u8 0 ≠ 0xFF → s.fw.lock.isSome = true → exec (.modeSet m) s = .next ((s.taken m).respond m 0x0F02 r.tag { status := St.refused, detail := 1 })) ∧
      ((r.u8 0 = 0xFF ∨ s.fw.lock = none) → 3 ≤ s.sec.life → exec (.modeSet m) s = .next ((s.taken m).respond m 0x0F02 r.tag { status := St.refused, detail := 4 })) ∧
      ((r.u8 0 = 0xFF ∨ s.fw.lock = none) → s.sec.life < 3 → exec (.modeSet m) s = .next (({ s.taken m with fw.ifaceBit := if r.u8 0 = 0xFF then s.fw.ifaceBit else r.u8 0, fw.tenancyBit := if r.u8 1 = 0xFF then s.fw.tenancyBit else r.u8 1 } : State).respond
        m 0x0F02 r.tag (okR []))))) ∧
  (∀ (s : State) (m : Mb) (r : Req), s.runs m 0x0F03 false = some r → r.len = 4 → field r.pay 1 3 = 0 →
    (1 < r.u8 0 → exec (.modeCompatLock m) s = .next ((s.taken m).respond m 0x0F03 r.tag { status := St.badArg })) ∧
    (r.u8 0 ≤ 1 → s.fw.lock.isSome = true → exec (.modeCompatLock m) s = .next ((s.taken m).respond m 0x0F03 r.tag { status := St.refused, detail := 1 })) ∧
    (r.u8 0 ≤ 1 → s.fw.lock = none → r.u8 0 ≠ s.fw.iface → exec (.modeCompatLock m) s = .next ((s.taken m).respond m 0x0F03 r.tag { status := St.refused, detail := 3 })) ∧
    (r.u8 0 ≤ 1 → s.fw.lock = none → r.u8 0 = s.fw.iface → s.sec.life < 3 → ∃ t : State, exec (.modeCompatLock m) s = .next (t.respond m 0x0F03 r.tag (okR [])) ∧ t.fw.lock = some (r.u8 0) ∧ t.fw.iface = s.fw.iface ∧ t.fw.ifaceBit = s.fw.ifaceBit))

/-- The machine after reset lists nothing in its memories, so each is in its canonical form (logs 4 and 8 say what an unlisted byte reads as). -/
def Obligations.ResetMemoriesAreCanonical : Prop :=
  State.reset.canonical ∧ (∀ a, memRead State.reset.mem.hbm a = 0 ∧ memRead State.reset.mem.host a = 0)

/-- Every step completes: from every state, whatever command is in front (or none), the step answers a next state, takes exactly the front command off the queue, and keeps every memory (HBM, host memory, tile SRAM, combiner
buffers) in its canonical form, in which equal memories are equal data. The queue is the model's own (first in, first out). -/
def Obligations.EveryStepCompletesAndKeepsTheMemories : Prop :=
  ∀ s : State, ∃ t : State, step s = .next t ∧ t.pending = s.pending.tail ∧ (s.canonical → t.canonical)
end

