-- ==== Sys2Proof/Laws/State.lean ====
section
/-! SUPPORT. What each update of the state leaves as it was: one lemma for each field and update, true by definition. -/

namespace Sys2Proof.Machine

variable (s : State)

@[simp] theorem State.updPart_pending (p : Nat) (f : Part → Part) : (s.updPart p f).pending = s.pending := by unfold State.updPart; split <;> rfl
@[simp] theorem State.updPart_now (p : Nat) (f : Part → Part) : (s.updPart p f).now = s.now := by unfold State.updPart; split <;> rfl
@[simp] theorem State.updPart_idleTicks (p : Nat) (f : Part → Part) : (s.updPart p f).idleTicks = s.idleTicks := by unfold State.updPart; split <;> rfl
@[simp] theorem State.updPart_freeIdx (p : Nat) (f : Part → Part) : (s.updPart p f).freeIdx = s.freeIdx := by unfold State.updPart; split <;> rfl
@[simp] theorem State.updPart_host (p : Nat) (f : Part → Part) : (s.updPart p f).host = s.host := by unfold State.updPart; split <;> rfl
@[simp] theorem State.updPart_mason (p : Nat) (f : Part → Part) : (s.updPart p f).mason = s.mason := by unfold State.updPart; split <;> rfl
@[simp] theorem State.updPart_plans (p : Nat) (f : Part → Part) : (s.updPart p f).plans = s.plans := by unfold State.updPart; split <;> rfl
@[simp] theorem State.updPart_lastPlan (p : Nat) (f : Part → Part) : (s.updPart p f).lastPlan = s.lastPlan := by unfold State.updPart; split <;> rfl
@[simp] theorem State.updPart_courses (p : Nat) (f : Part → Part) : (s.updPart p f).courses = s.courses := by unfold State.updPart; split <;> rfl
@[simp] theorem State.updPart_tiles (p : Nat) (f : Part → Part) : (s.updPart p f).tiles = s.tiles := by unfold State.updPart; split <;> rfl
@[simp] theorem State.updPart_piers (p : Nat) (f : Part → Part) : (s.updPart p f).piers = s.piers := by unfold State.updPart; split <;> rfl
@[simp] theorem State.updPart_mem (p : Nat) (f : Part → Part) : (s.updPart p f).mem = s.mem := by unfold State.updPart; split <;> rfl
@[simp] theorem State.updPart_ctxs (p : Nat) (f : Part → Part) : (s.updPart p f).ctxs = s.ctxs := by unfold State.updPart; split <;> rfl
@[simp] theorem State.updPart_nextOrder (p : Nat) (f : Part → Part) : (s.updPart p f).nextOrder = s.nextOrder := by unfold State.updPart; split <;> rfl
@[simp] theorem State.updPart_trowel (p : Nat) (f : Part → Part) : (s.updPart p f).trowel = s.trowel := by unfold State.updPart; split <;> rfl
@[simp] theorem State.updPart_power (p : Nat) (f : Part → Part) : (s.updPart p f).power = s.power := by unfold State.updPart; split <;> rfl
@[simp] theorem State.updPart_therm (p : Nat) (f : Part → Part) : (s.updPart p f).therm = s.therm := by unfold State.updPart; split <;> rfl
@[simp] theorem State.updPart_flt (p : Nat) (f : Part → Part) : (s.updPart p f).flt = s.flt := by unfold State.updPart; split <;> rfl
@[simp] theorem State.updPart_fab (p : Nat) (f : Part → Part) : (s.updPart p f).fab = s.fab := by unfold State.updPart; split <;> rfl
@[simp] theorem State.updPart_twin (p : Nat) (f : Part → Part) : (s.updPart p f).twin = s.twin := by unfold State.updPart; split <;> rfl
@[simp] theorem State.updPart_sec (p : Nat) (f : Part → Part) : (s.updPart p f).sec = s.sec := by unfold State.updPart; split <;> rfl
@[simp] theorem State.updPart_fw (p : Nat) (f : Part → Part) : (s.updPart p f).fw = s.fw := by unfold State.updPart; split <;> rfl

@[simp] theorem State.updCtx_pending (c : Nat) (f : Ctx → Ctx) : (s.updCtx c f).pending = s.pending := by unfold State.updCtx; split <;> rfl
@[simp] theorem State.updCtx_now (c : Nat) (f : Ctx → Ctx) : (s.updCtx c f).now = s.now := by unfold State.updCtx; split <;> rfl
@[simp] theorem State.updCtx_idleTicks (c : Nat) (f : Ctx → Ctx) : (s.updCtx c f).idleTicks = s.idleTicks := by unfold State.updCtx; split <;> rfl
@[simp] theorem State.updCtx_freeIdx (c : Nat) (f : Ctx → Ctx) : (s.updCtx c f).freeIdx = s.freeIdx := by unfold State.updCtx; split <;> rfl
@[simp] theorem State.updCtx_host (c : Nat) (f : Ctx → Ctx) : (s.updCtx c f).host = s.host := by unfold State.updCtx; split <;> rfl
@[simp] theorem State.updCtx_mason (c : Nat) (f : Ctx → Ctx) : (s.updCtx c f).mason = s.mason := by unfold State.updCtx; split <;> rfl
@[simp] theorem State.updCtx_parts (c : Nat) (f : Ctx → Ctx) : (s.updCtx c f).parts = s.parts := by unfold State.updCtx; split <;> rfl
@[simp] theorem State.updCtx_plans (c : Nat) (f : Ctx → Ctx) : (s.updCtx c f).plans = s.plans := by unfold State.updCtx; split <;> rfl
@[simp] theorem State.updCtx_lastPlan (c : Nat) (f : Ctx → Ctx) : (s.updCtx c f).lastPlan = s.lastPlan := by unfold State.updCtx; split <;> rfl
@[simp] theorem State.updCtx_courses (c : Nat) (f : Ctx → Ctx) : (s.updCtx c f).courses = s.courses := by unfold State.updCtx; split <;> rfl
@[simp] theorem State.updCtx_tiles (c : Nat) (f : Ctx → Ctx) : (s.updCtx c f).tiles = s.tiles := by unfold State.updCtx; split <;> rfl
@[simp] theorem State.updCtx_piers (c : Nat) (f : Ctx → Ctx) : (s.updCtx c f).piers = s.piers := by unfold State.updCtx; split <;> rfl
@[simp] theorem State.updCtx_mem (c : Nat) (f : Ctx → Ctx) : (s.updCtx c f).mem = s.mem := by unfold State.updCtx; split <;> rfl
@[simp] theorem State.updCtx_nextOrder (c : Nat) (f : Ctx → Ctx) : (s.updCtx c f).nextOrder = s.nextOrder := by unfold State.updCtx; split <;> rfl
@[simp] theorem State.updCtx_trowel (c : Nat) (f : Ctx → Ctx) : (s.updCtx c f).trowel = s.trowel := by unfold State.updCtx; split <;> rfl
@[simp] theorem State.updCtx_power (c : Nat) (f : Ctx → Ctx) : (s.updCtx c f).power = s.power := by unfold State.updCtx; split <;> rfl
@[simp] theorem State.updCtx_therm (c : Nat) (f : Ctx → Ctx) : (s.updCtx c f).therm = s.therm := by unfold State.updCtx; split <;> rfl
@[simp] theorem State.updCtx_flt (c : Nat) (f : Ctx → Ctx) : (s.updCtx c f).flt = s.flt := by unfold State.updCtx; split <;> rfl
@[simp] theorem State.updCtx_fab (c : Nat) (f : Ctx → Ctx) : (s.updCtx c f).fab = s.fab := by unfold State.updCtx; split <;> rfl
@[simp] theorem State.updCtx_twin (c : Nat) (f : Ctx → Ctx) : (s.updCtx c f).twin = s.twin := by unfold State.updCtx; split <;> rfl
@[simp] theorem State.updCtx_sec (c : Nat) (f : Ctx → Ctx) : (s.updCtx c f).sec = s.sec := by unfold State.updCtx; split <;> rfl
@[simp] theorem State.updCtx_fw (c : Nat) (f : Ctx → Ctx) : (s.updCtx c f).fw = s.fw := by unfold State.updCtx; split <;> rfl

@[simp] theorem State.updCourse_pending (c : Nat) (f : Course → Course) : (s.updCourse c f).pending = s.pending := rfl
@[simp] theorem State.updCourse_now (c : Nat) (f : Course → Course) : (s.updCourse c f).now = s.now := rfl
@[simp] theorem State.updCourse_idleTicks (c : Nat) (f : Course → Course) : (s.updCourse c f).idleTicks = s.idleTicks := rfl
@[simp] theorem State.updCourse_freeIdx (c : Nat) (f : Course → Course) : (s.updCourse c f).freeIdx = s.freeIdx := rfl
@[simp] theorem State.updCourse_host (c : Nat) (f : Course → Course) : (s.updCourse c f).host = s.host := rfl
@[simp] theorem State.updCourse_mason (c : Nat) (f : Course → Course) : (s.updCourse c f).mason = s.mason := rfl
@[simp] theorem State.updCourse_parts (c : Nat) (f : Course → Course) : (s.updCourse c f).parts = s.parts := rfl
@[simp] theorem State.updCourse_plans (c : Nat) (f : Course → Course) : (s.updCourse c f).plans = s.plans := rfl
@[simp] theorem State.updCourse_lastPlan (c : Nat) (f : Course → Course) : (s.updCourse c f).lastPlan = s.lastPlan := rfl
@[simp] theorem State.updCourse_tiles (c : Nat) (f : Course → Course) : (s.updCourse c f).tiles = s.tiles := rfl
@[simp] theorem State.updCourse_piers (c : Nat) (f : Course → Course) : (s.updCourse c f).piers = s.piers := rfl
@[simp] theorem State.updCourse_mem (c : Nat) (f : Course → Course) : (s.updCourse c f).mem = s.mem := rfl
@[simp] theorem State.updCourse_ctxs (c : Nat) (f : Course → Course) : (s.updCourse c f).ctxs = s.ctxs := rfl
@[simp] theorem State.updCourse_nextOrder (c : Nat) (f : Course → Course) : (s.updCourse c f).nextOrder = s.nextOrder := rfl
@[simp] theorem State.updCourse_trowel (c : Nat) (f : Course → Course) : (s.updCourse c f).trowel = s.trowel := rfl
@[simp] theorem State.updCourse_power (c : Nat) (f : Course → Course) : (s.updCourse c f).power = s.power := rfl
@[simp] theorem State.updCourse_therm (c : Nat) (f : Course → Course) : (s.updCourse c f).therm = s.therm := rfl
@[simp] theorem State.updCourse_flt (c : Nat) (f : Course → Course) : (s.updCourse c f).flt = s.flt := rfl
@[simp] theorem State.updCourse_fab (c : Nat) (f : Course → Course) : (s.updCourse c f).fab = s.fab := rfl
@[simp] theorem State.updCourse_twin (c : Nat) (f : Course → Course) : (s.updCourse c f).twin = s.twin := rfl
@[simp] theorem State.updCourse_sec (c : Nat) (f : Course → Course) : (s.updCourse c f).sec = s.sec := rfl
@[simp] theorem State.updCourse_fw (c : Nat) (f : Course → Course) : (s.updCourse c f).fw = s.fw := rfl

@[simp] theorem State.updTile_pending (t : Nat) (f : Tile → Tile) : (s.updTile t f).pending = s.pending := rfl
@[simp] theorem State.updTile_now (t : Nat) (f : Tile → Tile) : (s.updTile t f).now = s.now := rfl
@[simp] theorem State.updTile_idleTicks (t : Nat) (f : Tile → Tile) : (s.updTile t f).idleTicks = s.idleTicks := rfl
@[simp] theorem State.updTile_freeIdx (t : Nat) (f : Tile → Tile) : (s.updTile t f).freeIdx = s.freeIdx := rfl
@[simp] theorem State.updTile_host (t : Nat) (f : Tile → Tile) : (s.updTile t f).host = s.host := rfl
@[simp] theorem State.updTile_mason (t : Nat) (f : Tile → Tile) : (s.updTile t f).mason = s.mason := rfl
@[simp] theorem State.updTile_parts (t : Nat) (f : Tile → Tile) : (s.updTile t f).parts = s.parts := rfl
@[simp] theorem State.updTile_plans (t : Nat) (f : Tile → Tile) : (s.updTile t f).plans = s.plans := rfl
@[simp] theorem State.updTile_lastPlan (t : Nat) (f : Tile → Tile) : (s.updTile t f).lastPlan = s.lastPlan := rfl
@[simp] theorem State.updTile_courses (t : Nat) (f : Tile → Tile) : (s.updTile t f).courses = s.courses := rfl
@[simp] theorem State.updTile_piers (t : Nat) (f : Tile → Tile) : (s.updTile t f).piers = s.piers := rfl
@[simp] theorem State.updTile_mem (t : Nat) (f : Tile → Tile) : (s.updTile t f).mem = s.mem := rfl
@[simp] theorem State.updTile_ctxs (t : Nat) (f : Tile → Tile) : (s.updTile t f).ctxs = s.ctxs := rfl
@[simp] theorem State.updTile_nextOrder (t : Nat) (f : Tile → Tile) : (s.updTile t f).nextOrder = s.nextOrder := rfl
@[simp] theorem State.updTile_trowel (t : Nat) (f : Tile → Tile) : (s.updTile t f).trowel = s.trowel := rfl
@[simp] theorem State.updTile_power (t : Nat) (f : Tile → Tile) : (s.updTile t f).power = s.power := rfl
@[simp] theorem State.updTile_therm (t : Nat) (f : Tile → Tile) : (s.updTile t f).therm = s.therm := rfl
@[simp] theorem State.updTile_flt (t : Nat) (f : Tile → Tile) : (s.updTile t f).flt = s.flt := rfl
@[simp] theorem State.updTile_fab (t : Nat) (f : Tile → Tile) : (s.updTile t f).fab = s.fab := rfl
@[simp] theorem State.updTile_twin (t : Nat) (f : Tile → Tile) : (s.updTile t f).twin = s.twin := rfl
@[simp] theorem State.updTile_sec (t : Nat) (f : Tile → Tile) : (s.updTile t f).sec = s.sec := rfl
@[simp] theorem State.updTile_fw (t : Nat) (f : Tile → Tile) : (s.updTile t f).fw = s.fw := rfl

@[simp] theorem State.updPier_pending (p : Nat) (f : Pier → Pier) : (s.updPier p f).pending = s.pending := rfl
@[simp] theorem State.updPier_now (p : Nat) (f : Pier → Pier) : (s.updPier p f).now = s.now := rfl
@[simp] theorem State.updPier_idleTicks (p : Nat) (f : Pier → Pier) : (s.updPier p f).idleTicks = s.idleTicks := rfl
@[simp] theorem State.updPier_freeIdx (p : Nat) (f : Pier → Pier) : (s.updPier p f).freeIdx = s.freeIdx := rfl
@[simp] theorem State.updPier_host (p : Nat) (f : Pier → Pier) : (s.updPier p f).host = s.host := rfl
@[simp] theorem State.updPier_mason (p : Nat) (f : Pier → Pier) : (s.updPier p f).mason = s.mason := rfl
@[simp] theorem State.updPier_parts (p : Nat) (f : Pier → Pier) : (s.updPier p f).parts = s.parts := rfl
@[simp] theorem State.updPier_plans (p : Nat) (f : Pier → Pier) : (s.updPier p f).plans = s.plans := rfl
@[simp] theorem State.updPier_lastPlan (p : Nat) (f : Pier → Pier) : (s.updPier p f).lastPlan = s.lastPlan := rfl
@[simp] theorem State.updPier_courses (p : Nat) (f : Pier → Pier) : (s.updPier p f).courses = s.courses := rfl
@[simp] theorem State.updPier_tiles (p : Nat) (f : Pier → Pier) : (s.updPier p f).tiles = s.tiles := rfl
@[simp] theorem State.updPier_mem (p : Nat) (f : Pier → Pier) : (s.updPier p f).mem = s.mem := rfl
@[simp] theorem State.updPier_ctxs (p : Nat) (f : Pier → Pier) : (s.updPier p f).ctxs = s.ctxs := rfl
@[simp] theorem State.updPier_nextOrder (p : Nat) (f : Pier → Pier) : (s.updPier p f).nextOrder = s.nextOrder := rfl
@[simp] theorem State.updPier_trowel (p : Nat) (f : Pier → Pier) : (s.updPier p f).trowel = s.trowel := rfl
@[simp] theorem State.updPier_power (p : Nat) (f : Pier → Pier) : (s.updPier p f).power = s.power := rfl
@[simp] theorem State.updPier_therm (p : Nat) (f : Pier → Pier) : (s.updPier p f).therm = s.therm := rfl
@[simp] theorem State.updPier_flt (p : Nat) (f : Pier → Pier) : (s.updPier p f).flt = s.flt := rfl
@[simp] theorem State.updPier_fab (p : Nat) (f : Pier → Pier) : (s.updPier p f).fab = s.fab := rfl
@[simp] theorem State.updPier_twin (p : Nat) (f : Pier → Pier) : (s.updPier p f).twin = s.twin := rfl
@[simp] theorem State.updPier_sec (p : Nat) (f : Pier → Pier) : (s.updPier p f).sec = s.sec := rfl
@[simp] theorem State.updPier_fw (p : Nat) (f : Pier → Pier) : (s.updPier p f).fw = s.fw := rfl

@[simp] theorem State.updChan_pending (c : Nat) (f : Channel → Channel) : (s.updChan c f).pending = s.pending := rfl
@[simp] theorem State.updChan_now (c : Nat) (f : Channel → Channel) : (s.updChan c f).now = s.now := rfl
@[simp] theorem State.updChan_idleTicks (c : Nat) (f : Channel → Channel) : (s.updChan c f).idleTicks = s.idleTicks := rfl
@[simp] theorem State.updChan_freeIdx (c : Nat) (f : Channel → Channel) : (s.updChan c f).freeIdx = s.freeIdx := rfl
@[simp] theorem State.updChan_host (c : Nat) (f : Channel → Channel) : (s.updChan c f).host = s.host := rfl
@[simp] theorem State.updChan_mason (c : Nat) (f : Channel → Channel) : (s.updChan c f).mason = s.mason := rfl
@[simp] theorem State.updChan_parts (c : Nat) (f : Channel → Channel) : (s.updChan c f).parts = s.parts := rfl
@[simp] theorem State.updChan_plans (c : Nat) (f : Channel → Channel) : (s.updChan c f).plans = s.plans := rfl
@[simp] theorem State.updChan_lastPlan (c : Nat) (f : Channel → Channel) : (s.updChan c f).lastPlan = s.lastPlan := rfl
@[simp] theorem State.updChan_courses (c : Nat) (f : Channel → Channel) : (s.updChan c f).courses = s.courses := rfl
@[simp] theorem State.updChan_tiles (c : Nat) (f : Channel → Channel) : (s.updChan c f).tiles = s.tiles := rfl
@[simp] theorem State.updChan_piers (c : Nat) (f : Channel → Channel) : (s.updChan c f).piers = s.piers := rfl
@[simp] theorem State.updChan_ctxs (c : Nat) (f : Channel → Channel) : (s.updChan c f).ctxs = s.ctxs := rfl
@[simp] theorem State.updChan_nextOrder (c : Nat) (f : Channel → Channel) : (s.updChan c f).nextOrder = s.nextOrder := rfl
@[simp] theorem State.updChan_trowel (c : Nat) (f : Channel → Channel) : (s.updChan c f).trowel = s.trowel := rfl
@[simp] theorem State.updChan_power (c : Nat) (f : Channel → Channel) : (s.updChan c f).power = s.power := rfl
@[simp] theorem State.updChan_therm (c : Nat) (f : Channel → Channel) : (s.updChan c f).therm = s.therm := rfl
@[simp] theorem State.updChan_flt (c : Nat) (f : Channel → Channel) : (s.updChan c f).flt = s.flt := rfl
@[simp] theorem State.updChan_fab (c : Nat) (f : Channel → Channel) : (s.updChan c f).fab = s.fab := rfl
@[simp] theorem State.updChan_twin (c : Nat) (f : Channel → Channel) : (s.updChan c f).twin = s.twin := rfl
@[simp] theorem State.updChan_sec (c : Nat) (f : Channel → Channel) : (s.updChan c f).sec = s.sec := rfl
@[simp] theorem State.updChan_fw (c : Nat) (f : Channel → Channel) : (s.updChan c f).fw = s.fw := rfl
@[simp] theorem State.updChan_mem_hbm (c : Nat) (f : Channel → Channel) : (s.updChan c f).mem.hbm = s.mem.hbm := rfl
@[simp] theorem State.updChan_mem_host (c : Nat) (f : Channel → Channel) : (s.updChan c f).mem.host = s.mem.host := rfl
@[simp] theorem State.updChan_mem_frames (c : Nat) (f : Channel → Channel) : (s.updChan c f).mem.frames = s.mem.frames := rfl
@[simp] theorem State.updChan_mem_badFrames (c : Nat) (f : Channel → Channel) : (s.updChan c f).mem.badFrames = s.mem.badFrames := rfl
@[simp] theorem State.updChan_mem_nextPier (c : Nat) (f : Channel → Channel) : (s.updChan c f).mem.nextPier = s.mem.nextPier := rfl
@[simp] theorem State.updChan_mem_kvFrames (c : Nat) (f : Channel → Channel) : (s.updChan c f).mem.kvFrames = s.mem.kvFrames := rfl
@[simp] theorem State.updChan_mem_intRetired (c : Nat) (f : Channel → Channel) : (s.updChan c f).mem.intRetired = s.mem.intRetired := rfl
@[simp] theorem State.updChan_mem_copies (c : Nat) (f : Channel → Channel) : (s.updChan c f).mem.copies = s.mem.copies := rfl
@[simp] theorem State.updChan_mem_nextCopy (c : Nat) (f : Channel → Channel) : (s.updChan c f).mem.nextCopy = s.mem.nextCopy := rfl
@[simp] theorem State.updChan_mem_cbuf (c : Nat) (f : Channel → Channel) : (s.updChan c f).mem.cbuf = s.mem.cbuf := rfl

@[simp] theorem State.updVf_pending (v : Nat) (f : Vf → Vf) : (s.updVf v f).pending = s.pending := rfl
@[simp] theorem State.updVf_now (v : Nat) (f : Vf → Vf) : (s.updVf v f).now = s.now := rfl
@[simp] theorem State.updVf_idleTicks (v : Nat) (f : Vf → Vf) : (s.updVf v f).idleTicks = s.idleTicks := rfl
@[simp] theorem State.updVf_freeIdx (v : Nat) (f : Vf → Vf) : (s.updVf v f).freeIdx = s.freeIdx := rfl
@[simp] theorem State.updVf_mason (v : Nat) (f : Vf → Vf) : (s.updVf v f).mason = s.mason := rfl
@[simp] theorem State.updVf_parts (v : Nat) (f : Vf → Vf) : (s.updVf v f).parts = s.parts := rfl
@[simp] theorem State.updVf_plans (v : Nat) (f : Vf → Vf) : (s.updVf v f).plans = s.plans := rfl
@[simp] theorem State.updVf_lastPlan (v : Nat) (f : Vf → Vf) : (s.updVf v f).lastPlan = s.lastPlan := rfl
@[simp] theorem State.updVf_courses (v : Nat) (f : Vf → Vf) : (s.updVf v f).courses = s.courses := rfl
@[simp] theorem State.updVf_tiles (v : Nat) (f : Vf → Vf) : (s.updVf v f).tiles = s.tiles := rfl
@[simp] theorem State.updVf_piers (v : Nat) (f : Vf → Vf) : (s.updVf v f).piers = s.piers := rfl
@[simp] theorem State.updVf_mem (v : Nat) (f : Vf → Vf) : (s.updVf v f).mem = s.mem := rfl
@[simp] theorem State.updVf_ctxs (v : Nat) (f : Vf → Vf) : (s.updVf v f).ctxs = s.ctxs := rfl
@[simp] theorem State.updVf_nextOrder (v : Nat) (f : Vf → Vf) : (s.updVf v f).nextOrder = s.nextOrder := rfl
@[simp] theorem State.updVf_trowel (v : Nat) (f : Vf → Vf) : (s.updVf v f).trowel = s.trowel := rfl
@[simp] theorem State.updVf_power (v : Nat) (f : Vf → Vf) : (s.updVf v f).power = s.power := rfl
@[simp] theorem State.updVf_therm (v : Nat) (f : Vf → Vf) : (s.updVf v f).therm = s.therm := rfl
@[simp] theorem State.updVf_flt (v : Nat) (f : Vf → Vf) : (s.updVf v f).flt = s.flt := rfl
@[simp] theorem State.updVf_fab (v : Nat) (f : Vf → Vf) : (s.updVf v f).fab = s.fab := rfl
@[simp] theorem State.updVf_twin (v : Nat) (f : Vf → Vf) : (s.updVf v f).twin = s.twin := rfl
@[simp] theorem State.updVf_sec (v : Nat) (f : Vf → Vf) : (s.updVf v f).sec = s.sec := rfl
@[simp] theorem State.updVf_fw (v : Nat) (f : Vf → Vf) : (s.updVf v f).fw = s.fw := rfl
@[simp] theorem State.updVf_host_linkUp (v : Nat) (f : Vf → Vf) : (s.updVf v f).host.linkUp = s.host.linkUp := rfl
@[simp] theorem State.updVf_host_d3 (v : Nat) (f : Vf → Vf) : (s.updVf v f).host.d3 = s.host.d3 := rfl
@[simp] theorem State.updVf_host_vfEnable (v : Nat) (f : Vf → Vf) : (s.updVf v f).host.vfEnable = s.host.vfEnable := rfl
@[simp] theorem State.updVf_host_pfMb (v : Nat) (f : Vf → Vf) : (s.updVf v f).host.pfMb = s.host.pfMb := rfl
@[simp] theorem State.updVf_host_vfMb (v : Nat) (f : Vf → Vf) : (s.updVf v f).host.vfMb = s.host.vfMb := rfl
@[simp] theorem State.updVf_host_pfDone (v : Nat) (f : Vf → Vf) : (s.updVf v f).host.pfDone = s.host.pfDone := rfl
@[simp] theorem State.updVf_host_pfVec (v : Nat) (f : Vf → Vf) : (s.updVf v f).host.pfVec = s.host.pfVec := rfl
@[simp] theorem State.updVf_host_vfVec (v : Nat) (f : Vf → Vf) : (s.updVf v f).host.vfVec = s.host.vfVec := rfl
@[simp] theorem State.updVf_host_pfWin (v : Nat) (f : Vf → Vf) : (s.updVf v f).host.pfWin = s.host.pfWin := rfl
@[simp] theorem State.updVf_host_vfWin (v : Nat) (f : Vf → Vf) : (s.updVf v f).host.vfWin = s.host.vfWin := rfl
@[simp] theorem State.updVf_host_slotBind (v : Nat) (f : Vf → Vf) : (s.updVf v f).host.slotBind = s.host.slotBind := rfl
@[simp] theorem State.updVf_host_eq (v : Nat) (f : Vf → Vf) : (s.updVf v f).host.eq = s.host.eq := rfl
@[simp] theorem State.updVf_host_lastRead (v : Nat) (f : Vf → Vf) : (s.updVf v f).host.lastRead = s.host.lastRead := rfl
@[simp] theorem State.updVf_host_msgs (v : Nat) (f : Vf → Vf) : (s.updVf v f).host.msgs = s.host.msgs := rfl
@[simp] theorem State.updVf_host_aer (v : Nat) (f : Vf → Vf) : (s.updVf v f).host.aer = s.host.aer := rfl

@[simp] theorem State.updRing_pending (v i : Nat) (f : Ring → Ring) : (s.updRing v i f).pending = s.pending := rfl
@[simp] theorem State.updRing_now (v i : Nat) (f : Ring → Ring) : (s.updRing v i f).now = s.now := rfl
@[simp] theorem State.updRing_idleTicks (v i : Nat) (f : Ring → Ring) : (s.updRing v i f).idleTicks = s.idleTicks := rfl
@[simp] theorem State.updRing_freeIdx (v i : Nat) (f : Ring → Ring) : (s.updRing v i f).freeIdx = s.freeIdx := rfl
@[simp] theorem State.updRing_mason (v i : Nat) (f : Ring → Ring) : (s.updRing v i f).mason = s.mason := rfl
@[simp] theorem State.updRing_parts (v i : Nat) (f : Ring → Ring) : (s.updRing v i f).parts = s.parts := rfl
@[simp] theorem State.updRing_plans (v i : Nat) (f : Ring → Ring) : (s.updRing v i f).plans = s.plans := rfl
@[simp] theorem State.updRing_lastPlan (v i : Nat) (f : Ring → Ring) : (s.updRing v i f).lastPlan = s.lastPlan := rfl
@[simp] theorem State.updRing_courses (v i : Nat) (f : Ring → Ring) : (s.updRing v i f).courses = s.courses := rfl
@[simp] theorem State.updRing_tiles (v i : Nat) (f : Ring → Ring) : (s.updRing v i f).tiles = s.tiles := rfl
@[simp] theorem State.updRing_piers (v i : Nat) (f : Ring → Ring) : (s.updRing v i f).piers = s.piers := rfl
@[simp] theorem State.updRing_mem (v i : Nat) (f : Ring → Ring) : (s.updRing v i f).mem = s.mem := rfl
@[simp] theorem State.updRing_ctxs (v i : Nat) (f : Ring → Ring) : (s.updRing v i f).ctxs = s.ctxs := rfl
@[simp] theorem State.updRing_nextOrder (v i : Nat) (f : Ring → Ring) : (s.updRing v i f).nextOrder = s.nextOrder := rfl
@[simp] theorem State.updRing_trowel (v i : Nat) (f : Ring → Ring) : (s.updRing v i f).trowel = s.trowel := rfl
@[simp] theorem State.updRing_power (v i : Nat) (f : Ring → Ring) : (s.updRing v i f).power = s.power := rfl
@[simp] theorem State.updRing_therm (v i : Nat) (f : Ring → Ring) : (s.updRing v i f).therm = s.therm := rfl
@[simp] theorem State.updRing_flt (v i : Nat) (f : Ring → Ring) : (s.updRing v i f).flt = s.flt := rfl
@[simp] theorem State.updRing_fab (v i : Nat) (f : Ring → Ring) : (s.updRing v i f).fab = s.fab := rfl
@[simp] theorem State.updRing_twin (v i : Nat) (f : Ring → Ring) : (s.updRing v i f).twin = s.twin := rfl
@[simp] theorem State.updRing_sec (v i : Nat) (f : Ring → Ring) : (s.updRing v i f).sec = s.sec := rfl
@[simp] theorem State.updRing_fw (v i : Nat) (f : Ring → Ring) : (s.updRing v i f).fw = s.fw := rfl
@[simp] theorem State.updRing_host_linkUp (v i : Nat) (f : Ring → Ring) : (s.updRing v i f).host.linkUp = s.host.linkUp := rfl
@[simp] theorem State.updRing_host_d3 (v i : Nat) (f : Ring → Ring) : (s.updRing v i f).host.d3 = s.host.d3 := rfl
@[simp] theorem State.updRing_host_vfEnable (v i : Nat) (f : Ring → Ring) : (s.updRing v i f).host.vfEnable = s.host.vfEnable := rfl
@[simp] theorem State.updRing_host_pfMb (v i : Nat) (f : Ring → Ring) : (s.updRing v i f).host.pfMb = s.host.pfMb := rfl
@[simp] theorem State.updRing_host_vfMb (v i : Nat) (f : Ring → Ring) : (s.updRing v i f).host.vfMb = s.host.vfMb := rfl
@[simp] theorem State.updRing_host_pfDone (v i : Nat) (f : Ring → Ring) : (s.updRing v i f).host.pfDone = s.host.pfDone := rfl
@[simp] theorem State.updRing_host_pfVec (v i : Nat) (f : Ring → Ring) : (s.updRing v i f).host.pfVec = s.host.pfVec := rfl
@[simp] theorem State.updRing_host_vfVec (v i : Nat) (f : Ring → Ring) : (s.updRing v i f).host.vfVec = s.host.vfVec := rfl
@[simp] theorem State.updRing_host_pfWin (v i : Nat) (f : Ring → Ring) : (s.updRing v i f).host.pfWin = s.host.pfWin := rfl
@[simp] theorem State.updRing_host_vfWin (v i : Nat) (f : Ring → Ring) : (s.updRing v i f).host.vfWin = s.host.vfWin := rfl
@[simp] theorem State.updRing_host_slotBind (v i : Nat) (f : Ring → Ring) : (s.updRing v i f).host.slotBind = s.host.slotBind := rfl
@[simp] theorem State.updRing_host_eq (v i : Nat) (f : Ring → Ring) : (s.updRing v i f).host.eq = s.host.eq := rfl
@[simp] theorem State.updRing_host_lastRead (v i : Nat) (f : Ring → Ring) : (s.updRing v i f).host.lastRead = s.host.lastRead := rfl
@[simp] theorem State.updRing_host_msgs (v i : Nat) (f : Ring → Ring) : (s.updRing v i f).host.msgs = s.host.msgs := rfl
@[simp] theorem State.updRing_host_aer (v i : Nat) (f : Ring → Ring) : (s.updRing v i f).host.aer = s.host.aer := rfl

@[simp] theorem State.updCore_pending (c : Nat) (f : Core → Core) : (s.updCore c f).pending = s.pending := rfl
@[simp] theorem State.updCore_now (c : Nat) (f : Core → Core) : (s.updCore c f).now = s.now := rfl
@[simp] theorem State.updCore_idleTicks (c : Nat) (f : Core → Core) : (s.updCore c f).idleTicks = s.idleTicks := rfl
@[simp] theorem State.updCore_freeIdx (c : Nat) (f : Core → Core) : (s.updCore c f).freeIdx = s.freeIdx := rfl
@[simp] theorem State.updCore_host (c : Nat) (f : Core → Core) : (s.updCore c f).host = s.host := rfl
@[simp] theorem State.updCore_mason (c : Nat) (f : Core → Core) : (s.updCore c f).mason = s.mason := rfl
@[simp] theorem State.updCore_parts (c : Nat) (f : Core → Core) : (s.updCore c f).parts = s.parts := rfl
@[simp] theorem State.updCore_plans (c : Nat) (f : Core → Core) : (s.updCore c f).plans = s.plans := rfl
@[simp] theorem State.updCore_lastPlan (c : Nat) (f : Core → Core) : (s.updCore c f).lastPlan = s.lastPlan := rfl
@[simp] theorem State.updCore_courses (c : Nat) (f : Core → Core) : (s.updCore c f).courses = s.courses := rfl
@[simp] theorem State.updCore_tiles (c : Nat) (f : Core → Core) : (s.updCore c f).tiles = s.tiles := rfl
@[simp] theorem State.updCore_piers (c : Nat) (f : Core → Core) : (s.updCore c f).piers = s.piers := rfl
@[simp] theorem State.updCore_mem (c : Nat) (f : Core → Core) : (s.updCore c f).mem = s.mem := rfl
@[simp] theorem State.updCore_ctxs (c : Nat) (f : Core → Core) : (s.updCore c f).ctxs = s.ctxs := rfl
@[simp] theorem State.updCore_nextOrder (c : Nat) (f : Core → Core) : (s.updCore c f).nextOrder = s.nextOrder := rfl
@[simp] theorem State.updCore_power (c : Nat) (f : Core → Core) : (s.updCore c f).power = s.power := rfl
@[simp] theorem State.updCore_therm (c : Nat) (f : Core → Core) : (s.updCore c f).therm = s.therm := rfl
@[simp] theorem State.updCore_flt (c : Nat) (f : Core → Core) : (s.updCore c f).flt = s.flt := rfl
@[simp] theorem State.updCore_fab (c : Nat) (f : Core → Core) : (s.updCore c f).fab = s.fab := rfl
@[simp] theorem State.updCore_twin (c : Nat) (f : Core → Core) : (s.updCore c f).twin = s.twin := rfl
@[simp] theorem State.updCore_sec (c : Nat) (f : Core → Core) : (s.updCore c f).sec = s.sec := rfl
@[simp] theorem State.updCore_fw (c : Nat) (f : Core → Core) : (s.updCore c f).fw = s.fw := rfl
@[simp] theorem State.updCore_trowel_pllOn (c : Nat) (f : Core → Core) : (s.updCore c f).trowel.pllOn = s.trowel.pllOn := rfl
@[simp] theorem State.updCore_trowel_idleAt (c : Nat) (f : Core → Core) : (s.updCore c f).trowel.idleAt = s.trowel.idleAt := rfl
@[simp] theorem State.updCore_trowel_busyNs (c : Nat) (f : Core → Core) : (s.updCore c f).trowel.busyNs = s.trowel.busyNs := rfl
@[simp] theorem State.updCore_trowel_halved (c : Nat) (f : Core → Core) : (s.updCore c f).trowel.halved = s.trowel.halved := rfl
@[simp] theorem State.updCore_trowel_recent (c : Nat) (f : Core → Core) : (s.updCore c f).trowel.recent = s.trowel.recent := rfl

@[simp] theorem State.updPort_pending (p : Nat) (f : FPort → FPort) : (s.updPort p f).pending = s.pending := rfl
@[simp] theorem State.updPort_now (p : Nat) (f : FPort → FPort) : (s.updPort p f).now = s.now := rfl
@[simp] theorem State.updPort_idleTicks (p : Nat) (f : FPort → FPort) : (s.updPort p f).idleTicks = s.idleTicks := rfl
@[simp] theorem State.updPort_freeIdx (p : Nat) (f : FPort → FPort) : (s.updPort p f).freeIdx = s.freeIdx := rfl
@[simp] theorem State.updPort_host (p : Nat) (f : FPort → FPort) : (s.updPort p f).host = s.host := rfl
@[simp] theorem State.updPort_mason (p : Nat) (f : FPort → FPort) : (s.updPort p f).mason = s.mason := rfl
@[simp] theorem State.updPort_parts (p : Nat) (f : FPort → FPort) : (s.updPort p f).parts = s.parts := rfl
@[simp] theorem State.updPort_plans (p : Nat) (f : FPort → FPort) : (s.updPort p f).plans = s.plans := rfl
@[simp] theorem State.updPort_lastPlan (p : Nat) (f : FPort → FPort) : (s.updPort p f).lastPlan = s.lastPlan := rfl
@[simp] theorem State.updPort_courses (p : Nat) (f : FPort → FPort) : (s.updPort p f).courses = s.courses := rfl
@[simp] theorem State.updPort_tiles (p : Nat) (f : FPort → FPort) : (s.updPort p f).tiles = s.tiles := rfl
@[simp] theorem State.updPort_piers (p : Nat) (f : FPort → FPort) : (s.updPort p f).piers = s.piers := rfl
@[simp] theorem State.updPort_mem (p : Nat) (f : FPort → FPort) : (s.updPort p f).mem = s.mem := rfl
@[simp] theorem State.updPort_ctxs (p : Nat) (f : FPort → FPort) : (s.updPort p f).ctxs = s.ctxs := rfl
@[simp] theorem State.updPort_nextOrder (p : Nat) (f : FPort → FPort) : (s.updPort p f).nextOrder = s.nextOrder := rfl
@[simp] theorem State.updPort_trowel (p : Nat) (f : FPort → FPort) : (s.updPort p f).trowel = s.trowel := rfl
@[simp] theorem State.updPort_power (p : Nat) (f : FPort → FPort) : (s.updPort p f).power = s.power := rfl
@[simp] theorem State.updPort_therm (p : Nat) (f : FPort → FPort) : (s.updPort p f).therm = s.therm := rfl
@[simp] theorem State.updPort_flt (p : Nat) (f : FPort → FPort) : (s.updPort p f).flt = s.flt := rfl
@[simp] theorem State.updPort_twin (p : Nat) (f : FPort → FPort) : (s.updPort p f).twin = s.twin := rfl
@[simp] theorem State.updPort_sec (p : Nat) (f : FPort → FPort) : (s.updPort p f).sec = s.sec := rfl
@[simp] theorem State.updPort_fw (p : Nat) (f : FPort → FPort) : (s.updPort p f).fw = s.fw := rfl
@[simp] theorem State.updPort_fab_exports (p : Nat) (f : FPort → FPort) : (s.updPort p f).fab.exports = s.fab.exports := rfl
@[simp] theorem State.updPort_fab_imports (p : Nat) (f : FPort → FPort) : (s.updPort p f).fab.imports = s.fab.imports := rfl
@[simp] theorem State.updPort_fab_counter (p : Nat) (f : FPort → FPort) : (s.updPort p f).fab.counter = s.fab.counter := rfl
@[simp] theorem State.updPort_fab_epochs (p : Nat) (f : FPort → FPort) : (s.updPort p f).fab.epochs = s.fab.epochs := rfl
@[simp] theorem State.updPort_fab_drained (p : Nat) (f : FPort → FPort) : (s.updPort p f).fab.drained = s.fab.drained := rfl
@[simp] theorem State.updPort_fab_seen (p : Nat) (f : FPort → FPort) : (s.updPort p f).fab.seen = s.fab.seen := rfl
@[simp] theorem State.updPort_fab_drainId (p : Nat) (f : FPort → FPort) : (s.updPort p f).fab.drainId = s.fab.drainId := rfl
@[simp] theorem State.updPort_fab_steps (p : Nat) (f : FPort → FPort) : (s.updPort p f).fab.steps = s.fab.steps := rfl
@[simp] theorem State.updPort_fab_closed (p : Nat) (f : FPort → FPort) : (s.updPort p f).fab.closed = s.fab.closed := rfl
@[simp] theorem State.updPort_fab_links (p : Nat) (f : FPort → FPort) : (s.updPort p f).fab.links = s.fab.links := rfl
@[simp] theorem State.updPort_fab_keeps (p : Nat) (f : FPort → FPort) : (s.updPort p f).fab.keeps = s.fab.keeps := rfl
@[simp] theorem State.updPort_fab_badRoutes (p : Nat) (f : FPort → FPort) : (s.updPort p f).fab.badRoutes = s.fab.badRoutes := rfl
@[simp] theorem State.updPort_fab_timeState (p : Nat) (f : FPort → FPort) : (s.updPort p f).fab.timeState = s.fab.timeState := rfl
@[simp] theorem State.updPort_fab_stepped (p : Nat) (f : FPort → FPort) : (s.updPort p f).fab.stepped = s.fab.stepped := rfl
@[simp] theorem State.updPort_fab_uncertainty (p : Nat) (f : FPort → FPort) : (s.updPort p f).fab.uncertainty = s.fab.uncertainty := rfl
@[simp] theorem State.updPort_fab_timeAt (p : Nat) (f : FPort → FPort) : (s.updPort p f).fab.timeAt = s.fab.timeAt := rfl
@[simp] theorem State.updPort_fab_alternate (p : Nat) (f : FPort → FPort) : (s.updPort p f).fab.alternate = s.fab.alternate := rfl
@[simp] theorem State.updPort_fab_holdoverAt (p : Nat) (f : FPort → FPort) : (s.updPort p f).fab.holdoverAt = s.fab.holdoverAt := rfl
@[simp] theorem State.updPort_fab_slew (p : Nat) (f : FPort → FPort) : (s.updPort p f).fab.slew = s.fab.slew := rfl
@[simp] theorem State.updPort_fab_slewPhase (p : Nat) (f : FPort → FPort) : (s.updPort p f).fab.slewPhase = s.fab.slewPhase := rfl
@[simp] theorem State.updPort_fab_exhausted (p : Nat) (f : FPort → FPort) : (s.updPort p f).fab.exhausted = s.fab.exhausted := rfl
@[simp] theorem State.updPort_fab_inbox (p : Nat) (f : FPort → FPort) : (s.updPort p f).fab.inbox = s.fab.inbox := rfl
@[simp] theorem State.updPort_fab_sent (p : Nat) (f : FPort → FPort) : (s.updPort p f).fab.sent = s.fab.sent := rfl
@[simp] theorem State.updPort_fab_unsynced (p : Nat) (f : FPort → FPort) : (s.updPort p f).fab.unsynced = s.fab.unsynced := rfl

@[simp] theorem State.updStack_pending (k : Nat) (f : Stack → Stack) : (s.updStack k f).pending = s.pending := rfl
@[simp] theorem State.updStack_now (k : Nat) (f : Stack → Stack) : (s.updStack k f).now = s.now := rfl
@[simp] theorem State.updStack_idleTicks (k : Nat) (f : Stack → Stack) : (s.updStack k f).idleTicks = s.idleTicks := rfl
@[simp] theorem State.updStack_freeIdx (k : Nat) (f : Stack → Stack) : (s.updStack k f).freeIdx = s.freeIdx := rfl
@[simp] theorem State.updStack_host (k : Nat) (f : Stack → Stack) : (s.updStack k f).host = s.host := rfl
@[simp] theorem State.updStack_mason (k : Nat) (f : Stack → Stack) : (s.updStack k f).mason = s.mason := rfl
@[simp] theorem State.updStack_parts (k : Nat) (f : Stack → Stack) : (s.updStack k f).parts = s.parts := rfl
@[simp] theorem State.updStack_plans (k : Nat) (f : Stack → Stack) : (s.updStack k f).plans = s.plans := rfl
@[simp] theorem State.updStack_lastPlan (k : Nat) (f : Stack → Stack) : (s.updStack k f).lastPlan = s.lastPlan := rfl
@[simp] theorem State.updStack_courses (k : Nat) (f : Stack → Stack) : (s.updStack k f).courses = s.courses := rfl
@[simp] theorem State.updStack_tiles (k : Nat) (f : Stack → Stack) : (s.updStack k f).tiles = s.tiles := rfl
@[simp] theorem State.updStack_piers (k : Nat) (f : Stack → Stack) : (s.updStack k f).piers = s.piers := rfl
@[simp] theorem State.updStack_mem (k : Nat) (f : Stack → Stack) : (s.updStack k f).mem = s.mem := rfl
@[simp] theorem State.updStack_ctxs (k : Nat) (f : Stack → Stack) : (s.updStack k f).ctxs = s.ctxs := rfl
@[simp] theorem State.updStack_nextOrder (k : Nat) (f : Stack → Stack) : (s.updStack k f).nextOrder = s.nextOrder := rfl
@[simp] theorem State.updStack_trowel (k : Nat) (f : Stack → Stack) : (s.updStack k f).trowel = s.trowel := rfl
@[simp] theorem State.updStack_power (k : Nat) (f : Stack → Stack) : (s.updStack k f).power = s.power := rfl
@[simp] theorem State.updStack_flt (k : Nat) (f : Stack → Stack) : (s.updStack k f).flt = s.flt := rfl
@[simp] theorem State.updStack_fab (k : Nat) (f : Stack → Stack) : (s.updStack k f).fab = s.fab := rfl
@[simp] theorem State.updStack_twin (k : Nat) (f : Stack → Stack) : (s.updStack k f).twin = s.twin := rfl
@[simp] theorem State.updStack_sec (k : Nat) (f : Stack → Stack) : (s.updStack k f).sec = s.sec := rfl
@[simp] theorem State.updStack_fw (k : Nat) (f : Stack → Stack) : (s.updStack k f).fw = s.fw := rfl
@[simp] theorem State.updStack_therm_flow (k : Nat) (f : Stack → Stack) : (s.updStack k f).therm.flow = s.therm.flow := rfl
@[simp] theorem State.updStack_therm_inletS (k : Nat) (f : Stack → Stack) : (s.updStack k f).therm.inletS = s.therm.inletS := rfl
@[simp] theorem State.updStack_therm_outletS (k : Nat) (f : Stack → Stack) : (s.updStack k f).therm.outletS = s.therm.outletS := rfl
@[simp] theorem State.updStack_therm_flows (k : Nat) (f : Stack → Stack) : (s.updStack k f).therm.flows = s.therm.flows := rfl
@[simp] theorem State.updStack_therm_fMean (k : Nat) (f : Stack → Stack) : (s.updStack k f).therm.fMean = s.therm.fMean := rfl
@[simp] theorem State.updStack_therm_inlet (k : Nat) (f : Stack → Stack) : (s.updStack k f).therm.inlet = s.therm.inlet := rfl
@[simp] theorem State.updStack_therm_outlet (k : Nat) (f : Stack → Stack) : (s.updStack k f).therm.outlet = s.therm.outlet := rfl
@[simp] theorem State.updStack_therm_pFlow (k : Nat) (f : Stack → Stack) : (s.updStack k f).therm.pFlow = s.therm.pFlow := rfl
@[simp] theorem State.updStack_therm_flowLow (k : Nat) (f : Stack → Stack) : (s.updStack k f).therm.flowLow = s.therm.flowLow := rfl
@[simp] theorem State.updStack_therm_safeFlow (k : Nat) (f : Stack → Stack) : (s.updStack k f).therm.safeFlow = s.therm.safeFlow := rfl
@[simp] theorem State.updStack_therm_safeInlet (k : Nat) (f : Stack → Stack) : (s.updStack k f).therm.safeInlet = s.therm.safeInlet := rfl
@[simp] theorem State.updStack_therm_safeOutlet (k : Nat) (f : Stack → Stack) : (s.updStack k f).therm.safeOutlet = s.therm.safeOutlet := rfl
@[simp] theorem State.updStack_therm_safeJunction (k : Nat) (f : Stack → Stack) : (s.updStack k f).therm.safeJunction = s.therm.safeJunction := rfl
@[simp] theorem State.updStack_therm_inletCold (k : Nat) (f : Stack → Stack) : (s.updStack k f).therm.inletCold = s.therm.inletCold := rfl
@[simp] theorem State.updStack_therm_quench (k : Nat) (f : Stack → Stack) : (s.updStack k f).therm.quench = s.therm.quench := rfl
@[simp] theorem State.updStack_therm_quenchAt (k : Nat) (f : Stack → Stack) : (s.updStack k f).therm.quenchAt = s.therm.quenchAt := rfl
@[simp] theorem State.updStack_therm_stage2 (k : Nat) (f : Stack → Stack) : (s.updStack k f).therm.stage2 = s.therm.stage2 := rfl
@[simp] theorem State.updStack_therm_okAt (k : Nat) (f : Stack → Stack) : (s.updStack k f).therm.okAt = s.therm.okAt := rfl
@[simp] theorem State.updStack_therm_quenches (k : Nat) (f : Stack → Stack) : (s.updStack k f).therm.quenches = s.therm.quenches := rfl
@[simp] theorem State.updStack_therm_rotations (k : Nat) (f : Stack → Stack) : (s.updStack k f).therm.rotations = s.therm.rotations := rfl
@[simp] theorem State.updStack_therm_throttleMs (k : Nat) (f : Stack → Stack) : (s.updStack k f).therm.throttleMs = s.therm.throttleMs := rfl
@[simp] theorem State.updStack_therm_drift (k : Nat) (f : Stack → Stack) : (s.updStack k f).therm.drift = s.therm.drift := rfl
@[simp] theorem State.updStack_therm_sensorsRetired (k : Nat) (f : Stack → Stack) : (s.updStack k f).therm.sensorsRetired = s.therm.sensorsRetired := rfl
@[simp] theorem State.updStack_therm_plinth (k : Nat) (f : Stack → Stack) : (s.updStack k f).therm.plinth = s.therm.plinth := rfl
@[simp] theorem State.updStack_therm_i3cStuck (k : Nat) (f : Stack → Stack) : (s.updStack k f).therm.i3cStuck = s.therm.i3cStuck := rfl

@[simp] theorem State.updUnit_pending (k i : Nat) (f : Unit → Unit) : (s.updUnit k i f).pending = s.pending := rfl
@[simp] theorem State.updUnit_now (k i : Nat) (f : Unit → Unit) : (s.updUnit k i f).now = s.now := rfl
@[simp] theorem State.updUnit_idleTicks (k i : Nat) (f : Unit → Unit) : (s.updUnit k i f).idleTicks = s.idleTicks := rfl
@[simp] theorem State.updUnit_freeIdx (k i : Nat) (f : Unit → Unit) : (s.updUnit k i f).freeIdx = s.freeIdx := rfl
@[simp] theorem State.updUnit_host (k i : Nat) (f : Unit → Unit) : (s.updUnit k i f).host = s.host := rfl
@[simp] theorem State.updUnit_mason (k i : Nat) (f : Unit → Unit) : (s.updUnit k i f).mason = s.mason := rfl
@[simp] theorem State.updUnit_parts (k i : Nat) (f : Unit → Unit) : (s.updUnit k i f).parts = s.parts := rfl
@[simp] theorem State.updUnit_plans (k i : Nat) (f : Unit → Unit) : (s.updUnit k i f).plans = s.plans := rfl
@[simp] theorem State.updUnit_lastPlan (k i : Nat) (f : Unit → Unit) : (s.updUnit k i f).lastPlan = s.lastPlan := rfl
@[simp] theorem State.updUnit_courses (k i : Nat) (f : Unit → Unit) : (s.updUnit k i f).courses = s.courses := rfl
@[simp] theorem State.updUnit_tiles (k i : Nat) (f : Unit → Unit) : (s.updUnit k i f).tiles = s.tiles := rfl
@[simp] theorem State.updUnit_piers (k i : Nat) (f : Unit → Unit) : (s.updUnit k i f).piers = s.piers := rfl
@[simp] theorem State.updUnit_mem (k i : Nat) (f : Unit → Unit) : (s.updUnit k i f).mem = s.mem := rfl
@[simp] theorem State.updUnit_ctxs (k i : Nat) (f : Unit → Unit) : (s.updUnit k i f).ctxs = s.ctxs := rfl
@[simp] theorem State.updUnit_nextOrder (k i : Nat) (f : Unit → Unit) : (s.updUnit k i f).nextOrder = s.nextOrder := rfl
@[simp] theorem State.updUnit_trowel (k i : Nat) (f : Unit → Unit) : (s.updUnit k i f).trowel = s.trowel := rfl
@[simp] theorem State.updUnit_power (k i : Nat) (f : Unit → Unit) : (s.updUnit k i f).power = s.power := rfl
@[simp] theorem State.updUnit_therm (k i : Nat) (f : Unit → Unit) : (s.updUnit k i f).therm = s.therm := rfl
@[simp] theorem State.updUnit_fab (k i : Nat) (f : Unit → Unit) : (s.updUnit k i f).fab = s.fab := rfl
@[simp] theorem State.updUnit_twin (k i : Nat) (f : Unit → Unit) : (s.updUnit k i f).twin = s.twin := rfl
@[simp] theorem State.updUnit_sec (k i : Nat) (f : Unit → Unit) : (s.updUnit k i f).sec = s.sec := rfl
@[simp] theorem State.updUnit_fw (k i : Nat) (f : Unit → Unit) : (s.updUnit k i f).fw = s.fw := rfl
@[simp] theorem State.updUnit_flt_corrected (k i : Nat) (f : Unit → Unit) : (s.updUnit k i f).flt.corrected = s.flt.corrected := rfl
@[simp] theorem State.updUnit_flt_errors (k i : Nat) (f : Unit → Unit) : (s.updUnit k i f).flt.errors = s.flt.errors := rfl
@[simp] theorem State.updUnit_flt_transient (k i : Nat) (f : Unit → Unit) : (s.updUnit k i f).flt.transient = s.flt.transient := rfl
@[simp] theorem State.updUnit_flt_lasting (k i : Nat) (f : Unit → Unit) : (s.updUnit k i f).flt.lasting = s.flt.lasting := rfl
@[simp] theorem State.updUnit_flt_restarts (k i : Nat) (f : Unit → Unit) : (s.updUnit k i f).flt.restarts = s.flt.restarts := rfl
@[simp] theorem State.updUnit_flt_aborted (k i : Nat) (f : Unit → Unit) : (s.updUnit k i f).flt.aborted = s.flt.aborted := rfl
@[simp] theorem State.updUnit_flt_pierResets (k i : Nat) (f : Unit → Unit) : (s.updUnit k i f).flt.pierResets = s.flt.pierResets := rfl
@[simp] theorem State.updUnit_flt_logNext (k i : Nat) (f : Unit → Unit) : (s.updUnit k i f).flt.logNext = s.flt.logNext := rfl
@[simp] theorem State.updUnit_flt_log (k i : Nat) (f : Unit → Unit) : (s.updUnit k i f).flt.log = s.flt.log := rfl
@[simp] theorem State.updUnit_flt_kept (k i : Nat) (f : Unit → Unit) : (s.updUnit k i f).flt.kept = s.flt.kept := rfl
@[simp] theorem State.updUnit_flt_unflushed (k i : Nat) (f : Unit → Unit) : (s.updUnit k i f).flt.unflushed = s.flt.unflushed := rfl
@[simp] theorem State.updUnit_flt_ledger (k i : Nat) (f : Unit → Unit) : (s.updUnit k i f).flt.ledger = s.flt.ledger := rfl
@[simp] theorem State.updUnit_flt_burns (k i : Nat) (f : Unit → Unit) : (s.updUnit k i f).flt.burns = s.flt.burns := rfl
@[simp] theorem State.updUnit_flt_riddleRetired (k i : Nat) (f : Unit → Unit) : (s.updUnit k i f).flt.riddleRetired = s.flt.riddleRetired := rfl

@[simp] theorem State.updCbuf_pending (c : Nat) (f : Sram → Sram) : (s.updCbuf c f).pending = s.pending := rfl
@[simp] theorem State.updCbuf_now (c : Nat) (f : Sram → Sram) : (s.updCbuf c f).now = s.now := rfl
@[simp] theorem State.updCbuf_idleTicks (c : Nat) (f : Sram → Sram) : (s.updCbuf c f).idleTicks = s.idleTicks := rfl
@[simp] theorem State.updCbuf_freeIdx (c : Nat) (f : Sram → Sram) : (s.updCbuf c f).freeIdx = s.freeIdx := rfl
@[simp] theorem State.updCbuf_host (c : Nat) (f : Sram → Sram) : (s.updCbuf c f).host = s.host := rfl
@[simp] theorem State.updCbuf_mason (c : Nat) (f : Sram → Sram) : (s.updCbuf c f).mason = s.mason := rfl
@[simp] theorem State.updCbuf_parts (c : Nat) (f : Sram → Sram) : (s.updCbuf c f).parts = s.parts := rfl
@[simp] theorem State.updCbuf_plans (c : Nat) (f : Sram → Sram) : (s.updCbuf c f).plans = s.plans := rfl
@[simp] theorem State.updCbuf_lastPlan (c : Nat) (f : Sram → Sram) : (s.updCbuf c f).lastPlan = s.lastPlan := rfl
@[simp] theorem State.updCbuf_courses (c : Nat) (f : Sram → Sram) : (s.updCbuf c f).courses = s.courses := rfl
@[simp] theorem State.updCbuf_tiles (c : Nat) (f : Sram → Sram) : (s.updCbuf c f).tiles = s.tiles := rfl
@[simp] theorem State.updCbuf_piers (c : Nat) (f : Sram → Sram) : (s.updCbuf c f).piers = s.piers := rfl
@[simp] theorem State.updCbuf_ctxs (c : Nat) (f : Sram → Sram) : (s.updCbuf c f).ctxs = s.ctxs := rfl
@[simp] theorem State.updCbuf_nextOrder (c : Nat) (f : Sram → Sram) : (s.updCbuf c f).nextOrder = s.nextOrder := rfl
@[simp] theorem State.updCbuf_trowel (c : Nat) (f : Sram → Sram) : (s.updCbuf c f).trowel = s.trowel := rfl
@[simp] theorem State.updCbuf_power (c : Nat) (f : Sram → Sram) : (s.updCbuf c f).power = s.power := rfl
@[simp] theorem State.updCbuf_therm (c : Nat) (f : Sram → Sram) : (s.updCbuf c f).therm = s.therm := rfl
@[simp] theorem State.updCbuf_flt (c : Nat) (f : Sram → Sram) : (s.updCbuf c f).flt = s.flt := rfl
@[simp] theorem State.updCbuf_fab (c : Nat) (f : Sram → Sram) : (s.updCbuf c f).fab = s.fab := rfl
@[simp] theorem State.updCbuf_twin (c : Nat) (f : Sram → Sram) : (s.updCbuf c f).twin = s.twin := rfl
@[simp] theorem State.updCbuf_sec (c : Nat) (f : Sram → Sram) : (s.updCbuf c f).sec = s.sec := rfl
@[simp] theorem State.updCbuf_fw (c : Nat) (f : Sram → Sram) : (s.updCbuf c f).fw = s.fw := rfl
@[simp] theorem State.updCbuf_mem_hbm (c : Nat) (f : Sram → Sram) : (s.updCbuf c f).mem.hbm = s.mem.hbm := rfl
@[simp] theorem State.updCbuf_mem_host (c : Nat) (f : Sram → Sram) : (s.updCbuf c f).mem.host = s.mem.host := rfl
@[simp] theorem State.updCbuf_mem_frames (c : Nat) (f : Sram → Sram) : (s.updCbuf c f).mem.frames = s.mem.frames := rfl
@[simp] theorem State.updCbuf_mem_badFrames (c : Nat) (f : Sram → Sram) : (s.updCbuf c f).mem.badFrames = s.mem.badFrames := rfl
@[simp] theorem State.updCbuf_mem_nextPier (c : Nat) (f : Sram → Sram) : (s.updCbuf c f).mem.nextPier = s.mem.nextPier := rfl
@[simp] theorem State.updCbuf_mem_kvFrames (c : Nat) (f : Sram → Sram) : (s.updCbuf c f).mem.kvFrames = s.mem.kvFrames := rfl
@[simp] theorem State.updCbuf_mem_ch (c : Nat) (f : Sram → Sram) : (s.updCbuf c f).mem.ch = s.mem.ch := rfl
@[simp] theorem State.updCbuf_mem_intRetired (c : Nat) (f : Sram → Sram) : (s.updCbuf c f).mem.intRetired = s.mem.intRetired := rfl
@[simp] theorem State.updCbuf_mem_copies (c : Nat) (f : Sram → Sram) : (s.updCbuf c f).mem.copies = s.mem.copies := rfl
@[simp] theorem State.updCbuf_mem_nextCopy (c : Nat) (f : Sram → Sram) : (s.updCbuf c f).mem.nextCopy = s.mem.nextCopy := rfl

@[simp] theorem State.updTenant_pending (t : Nat) (f : Tenant → Tenant) : (s.updTenant t f).pending = s.pending := by unfold State.updTenant; split <;> rfl
@[simp] theorem State.updTenant_now (t : Nat) (f : Tenant → Tenant) : (s.updTenant t f).now = s.now := by unfold State.updTenant; split <;> rfl
@[simp] theorem State.updTenant_idleTicks (t : Nat) (f : Tenant → Tenant) : (s.updTenant t f).idleTicks = s.idleTicks := by unfold State.updTenant; split <;> rfl
@[simp] theorem State.updTenant_freeIdx (t : Nat) (f : Tenant → Tenant) : (s.updTenant t f).freeIdx = s.freeIdx := by unfold State.updTenant; split <;> rfl
@[simp] theorem State.updTenant_host (t : Nat) (f : Tenant → Tenant) : (s.updTenant t f).host = s.host := by unfold State.updTenant; split <;> rfl
@[simp] theorem State.updTenant_mason (t : Nat) (f : Tenant → Tenant) : (s.updTenant t f).mason = s.mason := by unfold State.updTenant; split <;> rfl
@[simp] theorem State.updTenant_parts (t : Nat) (f : Tenant → Tenant) : (s.updTenant t f).parts = s.parts := by unfold State.updTenant; split <;> rfl
@[simp] theorem State.updTenant_plans (t : Nat) (f : Tenant → Tenant) : (s.updTenant t f).plans = s.plans := by unfold State.updTenant; split <;> rfl
@[simp] theorem State.updTenant_lastPlan (t : Nat) (f : Tenant → Tenant) : (s.updTenant t f).lastPlan = s.lastPlan := by unfold State.updTenant; split <;> rfl
@[simp] theorem State.updTenant_courses (t : Nat) (f : Tenant → Tenant) : (s.updTenant t f).courses = s.courses := by unfold State.updTenant; split <;> rfl
@[simp] theorem State.updTenant_tiles (t : Nat) (f : Tenant → Tenant) : (s.updTenant t f).tiles = s.tiles := by unfold State.updTenant; split <;> rfl
@[simp] theorem State.updTenant_piers (t : Nat) (f : Tenant → Tenant) : (s.updTenant t f).piers = s.piers := by unfold State.updTenant; split <;> rfl
@[simp] theorem State.updTenant_mem (t : Nat) (f : Tenant → Tenant) : (s.updTenant t f).mem = s.mem := by unfold State.updTenant; split <;> rfl
@[simp] theorem State.updTenant_ctxs (t : Nat) (f : Tenant → Tenant) : (s.updTenant t f).ctxs = s.ctxs := by unfold State.updTenant; split <;> rfl
@[simp] theorem State.updTenant_nextOrder (t : Nat) (f : Tenant → Tenant) : (s.updTenant t f).nextOrder = s.nextOrder := by unfold State.updTenant; split <;> rfl
@[simp] theorem State.updTenant_trowel (t : Nat) (f : Tenant → Tenant) : (s.updTenant t f).trowel = s.trowel := by unfold State.updTenant; split <;> rfl
@[simp] theorem State.updTenant_power (t : Nat) (f : Tenant → Tenant) : (s.updTenant t f).power = s.power := by unfold State.updTenant; split <;> rfl
@[simp] theorem State.updTenant_therm (t : Nat) (f : Tenant → Tenant) : (s.updTenant t f).therm = s.therm := by unfold State.updTenant; split <;> rfl
@[simp] theorem State.updTenant_flt (t : Nat) (f : Tenant → Tenant) : (s.updTenant t f).flt = s.flt := by unfold State.updTenant; split <;> rfl
@[simp] theorem State.updTenant_fab (t : Nat) (f : Tenant → Tenant) : (s.updTenant t f).fab = s.fab := by unfold State.updTenant; split <;> rfl
@[simp] theorem State.updTenant_twin (t : Nat) (f : Tenant → Tenant) : (s.updTenant t f).twin = s.twin := by unfold State.updTenant; split <;> rfl
@[simp] theorem State.updTenant_fw (t : Nat) (f : Tenant → Tenant) : (s.updTenant t f).fw = s.fw := by unfold State.updTenant; split <;> rfl
@[simp] theorem State.updTenant_sec_life (t : Nat) (f : Tenant → Tenant) : (s.updTenant t f).sec.life = s.sec.life := by unfold State.updTenant; split <;> rfl
@[simp] theorem State.updTenant_sec_lifeFused (t : Nat) (f : Tenant → Tenant) : (s.updTenant t f).sec.lifeFused = s.sec.lifeFused := by unfold State.updTenant; split <;> rfl
@[simp] theorem State.updTenant_sec_serial (t : Nat) (f : Tenant → Tenant) : (s.updTenant t f).sec.serial = s.sec.serial := by unfold State.updTenant; split <;> rfl
@[simp] theorem State.updTenant_sec_order (t : Nat) (f : Tenant → Tenant) : (s.updTenant t f).sec.order = s.sec.order := by unfold State.updTenant; split <;> rfl
@[simp] theorem State.updTenant_sec_slotB (t : Nat) (f : Tenant → Tenant) : (s.updTenant t f).sec.slotB = s.sec.slotB := by unfold State.updTenant; split <;> rfl
@[simp] theorem State.updTenant_sec_fabRetired (t : Nat) (f : Tenant → Tenant) : (s.updTenant t f).sec.fabRetired = s.sec.fabRetired := by unfold State.updTenant; split <;> rfl
@[simp] theorem State.updTenant_sec_fabBound (t : Nat) (f : Tenant → Tenant) : (s.updTenant t f).sec.fabBound = s.sec.fabBound := by unfold State.updTenant; split <;> rfl
@[simp] theorem State.updTenant_sec_killed (t : Nat) (f : Tenant → Tenant) : (s.updTenant t f).sec.killed = s.sec.killed := by unfold State.updTenant; split <;> rfl
@[simp] theorem State.updTenant_sec_epoch (t : Nat) (f : Tenant → Tenant) : (s.updTenant t f).sec.epoch = s.sec.epoch := by unfold State.updTenant; split <;> rfl
@[simp] theorem State.updTenant_sec_doe (t : Nat) (f : Tenant → Tenant) : (s.updTenant t f).sec.doe = s.sec.doe := by unfold State.updTenant; split <;> rfl
@[simp] theorem State.updTenant_sec_spdm (t : Nat) (f : Tenant → Tenant) : (s.updTenant t f).sec.spdm = s.sec.spdm := by unfold State.updTenant; split <;> rfl
@[simp] theorem State.updTenant_sec_transcript (t : Nat) (f : Tenant → Tenant) : (s.updTenant t f).sec.transcript = s.sec.transcript := by unfold State.updTenant; split <;> rfl
@[simp] theorem State.updTenant_sec_measEpoch (t : Nat) (f : Tenant → Tenant) : (s.updTenant t f).sec.measEpoch = s.sec.measEpoch := by unfold State.updTenant; split <;> rfl

@[simp] theorem State.updChisel_pending (p l : Nat) (f : Chisel → Chisel) : (s.updChisel p l f).pending = s.pending := State.updPart_pending ..
@[simp] theorem State.updChisel_now (p l : Nat) (f : Chisel → Chisel) : (s.updChisel p l f).now = s.now := State.updPart_now ..
@[simp] theorem State.updChisel_idleTicks (p l : Nat) (f : Chisel → Chisel) : (s.updChisel p l f).idleTicks = s.idleTicks := State.updPart_idleTicks ..
@[simp] theorem State.updChisel_freeIdx (p l : Nat) (f : Chisel → Chisel) : (s.updChisel p l f).freeIdx = s.freeIdx := State.updPart_freeIdx ..
@[simp] theorem State.updChisel_host (p l : Nat) (f : Chisel → Chisel) : (s.updChisel p l f).host = s.host := State.updPart_host ..
@[simp] theorem State.updChisel_mason (p l : Nat) (f : Chisel → Chisel) : (s.updChisel p l f).mason = s.mason := State.updPart_mason ..
@[simp] theorem State.updChisel_plans (p l : Nat) (f : Chisel → Chisel) : (s.updChisel p l f).plans = s.plans := State.updPart_plans ..
@[simp] theorem State.updChisel_lastPlan (p l : Nat) (f : Chisel → Chisel) : (s.updChisel p l f).lastPlan = s.lastPlan := State.updPart_lastPlan ..
@[simp] theorem State.updChisel_courses (p l : Nat) (f : Chisel → Chisel) : (s.updChisel p l f).courses = s.courses := State.updPart_courses ..
@[simp] theorem State.updChisel_tiles (p l : Nat) (f : Chisel → Chisel) : (s.updChisel p l f).tiles = s.tiles := State.updPart_tiles ..
@[simp] theorem State.updChisel_piers (p l : Nat) (f : Chisel → Chisel) : (s.updChisel p l f).piers = s.piers := State.updPart_piers ..
@[simp] theorem State.updChisel_mem (p l : Nat) (f : Chisel → Chisel) : (s.updChisel p l f).mem = s.mem := State.updPart_mem ..
@[simp] theorem State.updChisel_ctxs (p l : Nat) (f : Chisel → Chisel) : (s.updChisel p l f).ctxs = s.ctxs := State.updPart_ctxs ..
@[simp] theorem State.updChisel_nextOrder (p l : Nat) (f : Chisel → Chisel) : (s.updChisel p l f).nextOrder = s.nextOrder := State.updPart_nextOrder ..
@[simp] theorem State.updChisel_trowel (p l : Nat) (f : Chisel → Chisel) : (s.updChisel p l f).trowel = s.trowel := State.updPart_trowel ..
@[simp] theorem State.updChisel_power (p l : Nat) (f : Chisel → Chisel) : (s.updChisel p l f).power = s.power := State.updPart_power ..
@[simp] theorem State.updChisel_therm (p l : Nat) (f : Chisel → Chisel) : (s.updChisel p l f).therm = s.therm := State.updPart_therm ..
@[simp] theorem State.updChisel_flt (p l : Nat) (f : Chisel → Chisel) : (s.updChisel p l f).flt = s.flt := State.updPart_flt ..
@[simp] theorem State.updChisel_fab (p l : Nat) (f : Chisel → Chisel) : (s.updChisel p l f).fab = s.fab := State.updPart_fab ..
@[simp] theorem State.updChisel_twin (p l : Nat) (f : Chisel → Chisel) : (s.updChisel p l f).twin = s.twin := State.updPart_twin ..
@[simp] theorem State.updChisel_sec (p l : Nat) (f : Chisel → Chisel) : (s.updChisel p l f).sec = s.sec := State.updPart_sec ..
@[simp] theorem State.updChisel_fw (p l : Nat) (f : Chisel → Chisel) : (s.updChisel p l f).fw = s.fw := State.updPart_fw ..

@[simp] theorem State.updPartCtr_pending (p : Nat) (f : PartCounters → PartCounters) : (s.updPartCtr p f).pending = s.pending := State.updPart_pending ..
@[simp] theorem State.updPartCtr_now (p : Nat) (f : PartCounters → PartCounters) : (s.updPartCtr p f).now = s.now := State.updPart_now ..
@[simp] theorem State.updPartCtr_idleTicks (p : Nat) (f : PartCounters → PartCounters) : (s.updPartCtr p f).idleTicks = s.idleTicks := State.updPart_idleTicks ..
@[simp] theorem State.updPartCtr_freeIdx (p : Nat) (f : PartCounters → PartCounters) : (s.updPartCtr p f).freeIdx = s.freeIdx := State.updPart_freeIdx ..
@[simp] theorem State.updPartCtr_host (p : Nat) (f : PartCounters → PartCounters) : (s.updPartCtr p f).host = s.host := State.updPart_host ..
@[simp] theorem State.updPartCtr_mason (p : Nat) (f : PartCounters → PartCounters) : (s.updPartCtr p f).mason = s.mason := State.updPart_mason ..
@[simp] theorem State.updPartCtr_plans (p : Nat) (f : PartCounters → PartCounters) : (s.updPartCtr p f).plans = s.plans := State.updPart_plans ..
@[simp] theorem State.updPartCtr_lastPlan (p : Nat) (f : PartCounters → PartCounters) : (s.updPartCtr p f).lastPlan = s.lastPlan := State.updPart_lastPlan ..
@[simp] theorem State.updPartCtr_courses (p : Nat) (f : PartCounters → PartCounters) : (s.updPartCtr p f).courses = s.courses := State.updPart_courses ..
@[simp] theorem State.updPartCtr_tiles (p : Nat) (f : PartCounters → PartCounters) : (s.updPartCtr p f).tiles = s.tiles := State.updPart_tiles ..
@[simp] theorem State.updPartCtr_piers (p : Nat) (f : PartCounters → PartCounters) : (s.updPartCtr p f).piers = s.piers := State.updPart_piers ..
@[simp] theorem State.updPartCtr_mem (p : Nat) (f : PartCounters → PartCounters) : (s.updPartCtr p f).mem = s.mem := State.updPart_mem ..
@[simp] theorem State.updPartCtr_ctxs (p : Nat) (f : PartCounters → PartCounters) : (s.updPartCtr p f).ctxs = s.ctxs := State.updPart_ctxs ..
@[simp] theorem State.updPartCtr_nextOrder (p : Nat) (f : PartCounters → PartCounters) : (s.updPartCtr p f).nextOrder = s.nextOrder := State.updPart_nextOrder ..
@[simp] theorem State.updPartCtr_trowel (p : Nat) (f : PartCounters → PartCounters) : (s.updPartCtr p f).trowel = s.trowel := State.updPart_trowel ..
@[simp] theorem State.updPartCtr_power (p : Nat) (f : PartCounters → PartCounters) : (s.updPartCtr p f).power = s.power := State.updPart_power ..
@[simp] theorem State.updPartCtr_therm (p : Nat) (f : PartCounters → PartCounters) : (s.updPartCtr p f).therm = s.therm := State.updPart_therm ..
@[simp] theorem State.updPartCtr_flt (p : Nat) (f : PartCounters → PartCounters) : (s.updPartCtr p f).flt = s.flt := State.updPart_flt ..
@[simp] theorem State.updPartCtr_fab (p : Nat) (f : PartCounters → PartCounters) : (s.updPartCtr p f).fab = s.fab := State.updPart_fab ..
@[simp] theorem State.updPartCtr_twin (p : Nat) (f : PartCounters → PartCounters) : (s.updPartCtr p f).twin = s.twin := State.updPart_twin ..
@[simp] theorem State.updPartCtr_sec (p : Nat) (f : PartCounters → PartCounters) : (s.updPartCtr p f).sec = s.sec := State.updPart_sec ..
@[simp] theorem State.updPartCtr_fw (p : Nat) (f : PartCounters → PartCounters) : (s.updPartCtr p f).fw = s.fw := State.updPart_fw ..

@[simp] theorem State.updMbox_pending (m : Mb) (f : Mailbox → Mailbox) : (s.updMbox m f).pending = s.pending := by unfold State.updMbox; split <;> rfl
@[simp] theorem State.updMbox_now (m : Mb) (f : Mailbox → Mailbox) : (s.updMbox m f).now = s.now := by unfold State.updMbox; split <;> rfl
@[simp] theorem State.updMbox_idleTicks (m : Mb) (f : Mailbox → Mailbox) : (s.updMbox m f).idleTicks = s.idleTicks := by unfold State.updMbox; split <;> rfl
@[simp] theorem State.updMbox_freeIdx (m : Mb) (f : Mailbox → Mailbox) : (s.updMbox m f).freeIdx = s.freeIdx := by unfold State.updMbox; split <;> rfl
@[simp] theorem State.updMbox_mason (m : Mb) (f : Mailbox → Mailbox) : (s.updMbox m f).mason = s.mason := by unfold State.updMbox; split <;> rfl
@[simp] theorem State.updMbox_parts (m : Mb) (f : Mailbox → Mailbox) : (s.updMbox m f).parts = s.parts := by unfold State.updMbox; split <;> rfl
@[simp] theorem State.updMbox_plans (m : Mb) (f : Mailbox → Mailbox) : (s.updMbox m f).plans = s.plans := by unfold State.updMbox; split <;> rfl
@[simp] theorem State.updMbox_lastPlan (m : Mb) (f : Mailbox → Mailbox) : (s.updMbox m f).lastPlan = s.lastPlan := by unfold State.updMbox; split <;> rfl
@[simp] theorem State.updMbox_courses (m : Mb) (f : Mailbox → Mailbox) : (s.updMbox m f).courses = s.courses := by unfold State.updMbox; split <;> rfl
@[simp] theorem State.updMbox_tiles (m : Mb) (f : Mailbox → Mailbox) : (s.updMbox m f).tiles = s.tiles := by unfold State.updMbox; split <;> rfl
@[simp] theorem State.updMbox_piers (m : Mb) (f : Mailbox → Mailbox) : (s.updMbox m f).piers = s.piers := by unfold State.updMbox; split <;> rfl
@[simp] theorem State.updMbox_mem (m : Mb) (f : Mailbox → Mailbox) : (s.updMbox m f).mem = s.mem := by unfold State.updMbox; split <;> rfl
@[simp] theorem State.updMbox_ctxs (m : Mb) (f : Mailbox → Mailbox) : (s.updMbox m f).ctxs = s.ctxs := by unfold State.updMbox; split <;> rfl
@[simp] theorem State.updMbox_nextOrder (m : Mb) (f : Mailbox → Mailbox) : (s.updMbox m f).nextOrder = s.nextOrder := by unfold State.updMbox; split <;> rfl
@[simp] theorem State.updMbox_trowel (m : Mb) (f : Mailbox → Mailbox) : (s.updMbox m f).trowel = s.trowel := by unfold State.updMbox; split <;> rfl
@[simp] theorem State.updMbox_power (m : Mb) (f : Mailbox → Mailbox) : (s.updMbox m f).power = s.power := by unfold State.updMbox; split <;> rfl
@[simp] theorem State.updMbox_therm (m : Mb) (f : Mailbox → Mailbox) : (s.updMbox m f).therm = s.therm := by unfold State.updMbox; split <;> rfl
@[simp] theorem State.updMbox_flt (m : Mb) (f : Mailbox → Mailbox) : (s.updMbox m f).flt = s.flt := by unfold State.updMbox; split <;> rfl
@[simp] theorem State.updMbox_fab (m : Mb) (f : Mailbox → Mailbox) : (s.updMbox m f).fab = s.fab := by unfold State.updMbox; split <;> rfl
@[simp] theorem State.updMbox_twin (m : Mb) (f : Mailbox → Mailbox) : (s.updMbox m f).twin = s.twin := by unfold State.updMbox; split <;> rfl
@[simp] theorem State.updMbox_sec (m : Mb) (f : Mailbox → Mailbox) : (s.updMbox m f).sec = s.sec := by unfold State.updMbox; split <;> rfl
@[simp] theorem State.updMbox_fw (m : Mb) (f : Mailbox → Mailbox) : (s.updMbox m f).fw = s.fw := by unfold State.updMbox; split <;> rfl
@[simp] theorem State.updMbox_host_linkUp (m : Mb) (f : Mailbox → Mailbox) : (s.updMbox m f).host.linkUp = s.host.linkUp := by unfold State.updMbox; split <;> rfl
@[simp] theorem State.updMbox_host_d3 (m : Mb) (f : Mailbox → Mailbox) : (s.updMbox m f).host.d3 = s.host.d3 := by unfold State.updMbox; split <;> rfl
@[simp] theorem State.updMbox_host_vfEnable (m : Mb) (f : Mailbox → Mailbox) : (s.updMbox m f).host.vfEnable = s.host.vfEnable := by unfold State.updMbox; split <;> rfl
@[simp] theorem State.updMbox_host_pfDone (m : Mb) (f : Mailbox → Mailbox) : (s.updMbox m f).host.pfDone = s.host.pfDone := by unfold State.updMbox; split <;> rfl
@[simp] theorem State.updMbox_host_vfs (m : Mb) (f : Mailbox → Mailbox) : (s.updMbox m f).host.vfs = s.host.vfs := by unfold State.updMbox; split <;> rfl
@[simp] theorem State.updMbox_host_pfVec (m : Mb) (f : Mailbox → Mailbox) : (s.updMbox m f).host.pfVec = s.host.pfVec := by unfold State.updMbox; split <;> rfl
@[simp] theorem State.updMbox_host_vfVec (m : Mb) (f : Mailbox → Mailbox) : (s.updMbox m f).host.vfVec = s.host.vfVec := by unfold State.updMbox; split <;> rfl
@[simp] theorem State.updMbox_host_pfWin (m : Mb) (f : Mailbox → Mailbox) : (s.updMbox m f).host.pfWin = s.host.pfWin := by unfold State.updMbox; split <;> rfl
@[simp] theorem State.updMbox_host_vfWin (m : Mb) (f : Mailbox → Mailbox) : (s.updMbox m f).host.vfWin = s.host.vfWin := by unfold State.updMbox; split <;> rfl
@[simp] theorem State.updMbox_host_slotBind (m : Mb) (f : Mailbox → Mailbox) : (s.updMbox m f).host.slotBind = s.host.slotBind := by unfold State.updMbox; split <;> rfl
@[simp] theorem State.updMbox_host_eq (m : Mb) (f : Mailbox → Mailbox) : (s.updMbox m f).host.eq = s.host.eq := by unfold State.updMbox; split <;> rfl
@[simp] theorem State.updMbox_host_lastRead (m : Mb) (f : Mailbox → Mailbox) : (s.updMbox m f).host.lastRead = s.host.lastRead := by unfold State.updMbox; split <;> rfl
@[simp] theorem State.updMbox_host_msgs (m : Mb) (f : Mailbox → Mailbox) : (s.updMbox m f).host.msgs = s.host.msgs := by unfold State.updMbox; split <;> rfl
@[simp] theorem State.updMbox_host_aer (m : Mb) (f : Mailbox → Mailbox) : (s.updMbox m f).host.aer = s.host.aer := by unfold State.updMbox; split <;> rfl

@[simp] theorem State.hbmWrite_pending (t o : Nat) (b : Byte) : (s.hbmWrite t o b).pending = s.pending := by unfold State.hbmWrite; split <;> rfl
@[simp] theorem State.hbmWrite_now (t o : Nat) (b : Byte) : (s.hbmWrite t o b).now = s.now := by unfold State.hbmWrite; split <;> rfl
@[simp] theorem State.hbmWrite_idleTicks (t o : Nat) (b : Byte) : (s.hbmWrite t o b).idleTicks = s.idleTicks := by unfold State.hbmWrite; split <;> rfl
@[simp] theorem State.hbmWrite_freeIdx (t o : Nat) (b : Byte) : (s.hbmWrite t o b).freeIdx = s.freeIdx := by unfold State.hbmWrite; split <;> rfl
@[simp] theorem State.hbmWrite_host (t o : Nat) (b : Byte) : (s.hbmWrite t o b).host = s.host := by unfold State.hbmWrite; split <;> rfl
@[simp] theorem State.hbmWrite_mason (t o : Nat) (b : Byte) : (s.hbmWrite t o b).mason = s.mason := by unfold State.hbmWrite; split <;> rfl
@[simp] theorem State.hbmWrite_parts (t o : Nat) (b : Byte) : (s.hbmWrite t o b).parts = s.parts := by unfold State.hbmWrite; split <;> rfl
@[simp] theorem State.hbmWrite_plans (t o : Nat) (b : Byte) : (s.hbmWrite t o b).plans = s.plans := by unfold State.hbmWrite; split <;> rfl
@[simp] theorem State.hbmWrite_lastPlan (t o : Nat) (b : Byte) : (s.hbmWrite t o b).lastPlan = s.lastPlan := by unfold State.hbmWrite; split <;> rfl
@[simp] theorem State.hbmWrite_courses (t o : Nat) (b : Byte) : (s.hbmWrite t o b).courses = s.courses := by unfold State.hbmWrite; split <;> rfl
@[simp] theorem State.hbmWrite_tiles (t o : Nat) (b : Byte) : (s.hbmWrite t o b).tiles = s.tiles := by unfold State.hbmWrite; split <;> rfl
@[simp] theorem State.hbmWrite_piers (t o : Nat) (b : Byte) : (s.hbmWrite t o b).piers = s.piers := by unfold State.hbmWrite; split <;> rfl
@[simp] theorem State.hbmWrite_ctxs (t o : Nat) (b : Byte) : (s.hbmWrite t o b).ctxs = s.ctxs := by unfold State.hbmWrite; split <;> rfl
@[simp] theorem State.hbmWrite_nextOrder (t o : Nat) (b : Byte) : (s.hbmWrite t o b).nextOrder = s.nextOrder := by unfold State.hbmWrite; split <;> rfl
@[simp] theorem State.hbmWrite_trowel (t o : Nat) (b : Byte) : (s.hbmWrite t o b).trowel = s.trowel := by unfold State.hbmWrite; split <;> rfl
@[simp] theorem State.hbmWrite_power (t o : Nat) (b : Byte) : (s.hbmWrite t o b).power = s.power := by unfold State.hbmWrite; split <;> rfl
@[simp] theorem State.hbmWrite_therm (t o : Nat) (b : Byte) : (s.hbmWrite t o b).therm = s.therm := by unfold State.hbmWrite; split <;> rfl
@[simp] theorem State.hbmWrite_flt (t o : Nat) (b : Byte) : (s.hbmWrite t o b).flt = s.flt := by unfold State.hbmWrite; split <;> rfl
@[simp] theorem State.hbmWrite_fab (t o : Nat) (b : Byte) : (s.hbmWrite t o b).fab = s.fab := by unfold State.hbmWrite; split <;> rfl
@[simp] theorem State.hbmWrite_twin (t o : Nat) (b : Byte) : (s.hbmWrite t o b).twin = s.twin := by unfold State.hbmWrite; split <;> rfl
@[simp] theorem State.hbmWrite_sec (t o : Nat) (b : Byte) : (s.hbmWrite t o b).sec = s.sec := by unfold State.hbmWrite; split <;> rfl
@[simp] theorem State.hbmWrite_fw (t o : Nat) (b : Byte) : (s.hbmWrite t o b).fw = s.fw := by unfold State.hbmWrite; split <;> rfl
@[simp] theorem State.hbmWrite_mem_host (t o : Nat) (b : Byte) : (s.hbmWrite t o b).mem.host = s.mem.host := by unfold State.hbmWrite; split <;> rfl
@[simp] theorem State.hbmWrite_mem_frames (t o : Nat) (b : Byte) : (s.hbmWrite t o b).mem.frames = s.mem.frames := by unfold State.hbmWrite; split <;> rfl
@[simp] theorem State.hbmWrite_mem_badFrames (t o : Nat) (b : Byte) : (s.hbmWrite t o b).mem.badFrames = s.mem.badFrames := by unfold State.hbmWrite; split <;> rfl
@[simp] theorem State.hbmWrite_mem_nextPier (t o : Nat) (b : Byte) : (s.hbmWrite t o b).mem.nextPier = s.mem.nextPier := by unfold State.hbmWrite; split <;> rfl
@[simp] theorem State.hbmWrite_mem_kvFrames (t o : Nat) (b : Byte) : (s.hbmWrite t o b).mem.kvFrames = s.mem.kvFrames := by unfold State.hbmWrite; split <;> rfl
@[simp] theorem State.hbmWrite_mem_ch (t o : Nat) (b : Byte) : (s.hbmWrite t o b).mem.ch = s.mem.ch := by unfold State.hbmWrite; split <;> rfl
@[simp] theorem State.hbmWrite_mem_intRetired (t o : Nat) (b : Byte) : (s.hbmWrite t o b).mem.intRetired = s.mem.intRetired := by unfold State.hbmWrite; split <;> rfl
@[simp] theorem State.hbmWrite_mem_copies (t o : Nat) (b : Byte) : (s.hbmWrite t o b).mem.copies = s.mem.copies := by unfold State.hbmWrite; split <;> rfl
@[simp] theorem State.hbmWrite_mem_nextCopy (t o : Nat) (b : Byte) : (s.hbmWrite t o b).mem.nextCopy = s.mem.nextCopy := by unfold State.hbmWrite; split <;> rfl
@[simp] theorem State.hbmWrite_mem_cbuf (t o : Nat) (b : Byte) : (s.hbmWrite t o b).mem.cbuf = s.mem.cbuf := by unfold State.hbmWrite; split <;> rfl

@[simp] theorem State.hostWriteN_pending (a : Nat) (bs : List Byte) : (s.hostWriteN a bs).pending = s.pending := rfl
@[simp] theorem State.hostWriteN_now (a : Nat) (bs : List Byte) : (s.hostWriteN a bs).now = s.now := rfl
@[simp] theorem State.hostWriteN_idleTicks (a : Nat) (bs : List Byte) : (s.hostWriteN a bs).idleTicks = s.idleTicks := rfl
@[simp] theorem State.hostWriteN_freeIdx (a : Nat) (bs : List Byte) : (s.hostWriteN a bs).freeIdx = s.freeIdx := rfl
@[simp] theorem State.hostWriteN_host (a : Nat) (bs : List Byte) : (s.hostWriteN a bs).host = s.host := rfl
@[simp] theorem State.hostWriteN_mason (a : Nat) (bs : List Byte) : (s.hostWriteN a bs).mason = s.mason := rfl
@[simp] theorem State.hostWriteN_parts (a : Nat) (bs : List Byte) : (s.hostWriteN a bs).parts = s.parts := rfl
@[simp] theorem State.hostWriteN_plans (a : Nat) (bs : List Byte) : (s.hostWriteN a bs).plans = s.plans := rfl
@[simp] theorem State.hostWriteN_lastPlan (a : Nat) (bs : List Byte) : (s.hostWriteN a bs).lastPlan = s.lastPlan := rfl
@[simp] theorem State.hostWriteN_courses (a : Nat) (bs : List Byte) : (s.hostWriteN a bs).courses = s.courses := rfl
@[simp] theorem State.hostWriteN_tiles (a : Nat) (bs : List Byte) : (s.hostWriteN a bs).tiles = s.tiles := rfl
@[simp] theorem State.hostWriteN_piers (a : Nat) (bs : List Byte) : (s.hostWriteN a bs).piers = s.piers := rfl
@[simp] theorem State.hostWriteN_ctxs (a : Nat) (bs : List Byte) : (s.hostWriteN a bs).ctxs = s.ctxs := rfl
@[simp] theorem State.hostWriteN_nextOrder (a : Nat) (bs : List Byte) : (s.hostWriteN a bs).nextOrder = s.nextOrder := rfl
@[simp] theorem State.hostWriteN_trowel (a : Nat) (bs : List Byte) : (s.hostWriteN a bs).trowel = s.trowel := rfl
@[simp] theorem State.hostWriteN_power (a : Nat) (bs : List Byte) : (s.hostWriteN a bs).power = s.power := rfl
@[simp] theorem State.hostWriteN_therm (a : Nat) (bs : List Byte) : (s.hostWriteN a bs).therm = s.therm := rfl
@[simp] theorem State.hostWriteN_flt (a : Nat) (bs : List Byte) : (s.hostWriteN a bs).flt = s.flt := rfl
@[simp] theorem State.hostWriteN_fab (a : Nat) (bs : List Byte) : (s.hostWriteN a bs).fab = s.fab := rfl
@[simp] theorem State.hostWriteN_twin (a : Nat) (bs : List Byte) : (s.hostWriteN a bs).twin = s.twin := rfl
@[simp] theorem State.hostWriteN_sec (a : Nat) (bs : List Byte) : (s.hostWriteN a bs).sec = s.sec := rfl
@[simp] theorem State.hostWriteN_fw (a : Nat) (bs : List Byte) : (s.hostWriteN a bs).fw = s.fw := rfl
@[simp] theorem State.hostWriteN_mem_hbm (a : Nat) (bs : List Byte) : (s.hostWriteN a bs).mem.hbm = s.mem.hbm := rfl
@[simp] theorem State.hostWriteN_mem_frames (a : Nat) (bs : List Byte) : (s.hostWriteN a bs).mem.frames = s.mem.frames := rfl
@[simp] theorem State.hostWriteN_mem_badFrames (a : Nat) (bs : List Byte) : (s.hostWriteN a bs).mem.badFrames = s.mem.badFrames := rfl
@[simp] theorem State.hostWriteN_mem_nextPier (a : Nat) (bs : List Byte) : (s.hostWriteN a bs).mem.nextPier = s.mem.nextPier := rfl
@[simp] theorem State.hostWriteN_mem_kvFrames (a : Nat) (bs : List Byte) : (s.hostWriteN a bs).mem.kvFrames = s.mem.kvFrames := rfl
@[simp] theorem State.hostWriteN_mem_ch (a : Nat) (bs : List Byte) : (s.hostWriteN a bs).mem.ch = s.mem.ch := rfl
@[simp] theorem State.hostWriteN_mem_intRetired (a : Nat) (bs : List Byte) : (s.hostWriteN a bs).mem.intRetired = s.mem.intRetired := rfl
@[simp] theorem State.hostWriteN_mem_copies (a : Nat) (bs : List Byte) : (s.hostWriteN a bs).mem.copies = s.mem.copies := rfl
@[simp] theorem State.hostWriteN_mem_nextCopy (a : Nat) (bs : List Byte) : (s.hostWriteN a bs).mem.nextCopy = s.mem.nextCopy := rfl
@[simp] theorem State.hostWriteN_mem_cbuf (a : Nat) (bs : List Byte) : (s.hostWriteN a bs).mem.cbuf = s.mem.cbuf := rfl

@[simp] theorem State.setVector_pending (g : Fn) (i : Nat) (x : Vector) : (s.setVector g i x).pending = s.pending := by cases g <;> rfl
@[simp] theorem State.setVector_now (g : Fn) (i : Nat) (x : Vector) : (s.setVector g i x).now = s.now := by cases g <;> rfl
@[simp] theorem State.setVector_idleTicks (g : Fn) (i : Nat) (x : Vector) : (s.setVector g i x).idleTicks = s.idleTicks := by cases g <;> rfl
@[simp] theorem State.setVector_freeIdx (g : Fn) (i : Nat) (x : Vector) : (s.setVector g i x).freeIdx = s.freeIdx := by cases g <;> rfl
@[simp] theorem State.setVector_mason (g : Fn) (i : Nat) (x : Vector) : (s.setVector g i x).mason = s.mason := by cases g <;> rfl
@[simp] theorem State.setVector_parts (g : Fn) (i : Nat) (x : Vector) : (s.setVector g i x).parts = s.parts := by cases g <;> rfl
@[simp] theorem State.setVector_plans (g : Fn) (i : Nat) (x : Vector) : (s.setVector g i x).plans = s.plans := by cases g <;> rfl
@[simp] theorem State.setVector_lastPlan (g : Fn) (i : Nat) (x : Vector) : (s.setVector g i x).lastPlan = s.lastPlan := by cases g <;> rfl
@[simp] theorem State.setVector_courses (g : Fn) (i : Nat) (x : Vector) : (s.setVector g i x).courses = s.courses := by cases g <;> rfl
@[simp] theorem State.setVector_tiles (g : Fn) (i : Nat) (x : Vector) : (s.setVector g i x).tiles = s.tiles := by cases g <;> rfl
@[simp] theorem State.setVector_piers (g : Fn) (i : Nat) (x : Vector) : (s.setVector g i x).piers = s.piers := by cases g <;> rfl
@[simp] theorem State.setVector_mem (g : Fn) (i : Nat) (x : Vector) : (s.setVector g i x).mem = s.mem := by cases g <;> rfl
@[simp] theorem State.setVector_ctxs (g : Fn) (i : Nat) (x : Vector) : (s.setVector g i x).ctxs = s.ctxs := by cases g <;> rfl
@[simp] theorem State.setVector_nextOrder (g : Fn) (i : Nat) (x : Vector) : (s.setVector g i x).nextOrder = s.nextOrder := by cases g <;> rfl
@[simp] theorem State.setVector_trowel (g : Fn) (i : Nat) (x : Vector) : (s.setVector g i x).trowel = s.trowel := by cases g <;> rfl
@[simp] theorem State.setVector_power (g : Fn) (i : Nat) (x : Vector) : (s.setVector g i x).power = s.power := by cases g <;> rfl
@[simp] theorem State.setVector_therm (g : Fn) (i : Nat) (x : Vector) : (s.setVector g i x).therm = s.therm := by cases g <;> rfl
@[simp] theorem State.setVector_flt (g : Fn) (i : Nat) (x : Vector) : (s.setVector g i x).flt = s.flt := by cases g <;> rfl
@[simp] theorem State.setVector_fab (g : Fn) (i : Nat) (x : Vector) : (s.setVector g i x).fab = s.fab := by cases g <;> rfl
@[simp] theorem State.setVector_twin (g : Fn) (i : Nat) (x : Vector) : (s.setVector g i x).twin = s.twin := by cases g <;> rfl
@[simp] theorem State.setVector_sec (g : Fn) (i : Nat) (x : Vector) : (s.setVector g i x).sec = s.sec := by cases g <;> rfl
@[simp] theorem State.setVector_fw (g : Fn) (i : Nat) (x : Vector) : (s.setVector g i x).fw = s.fw := by cases g <;> rfl
@[simp] theorem State.setVector_host_linkUp (g : Fn) (i : Nat) (x : Vector) : (s.setVector g i x).host.linkUp = s.host.linkUp := by cases g <;> rfl
@[simp] theorem State.setVector_host_d3 (g : Fn) (i : Nat) (x : Vector) : (s.setVector g i x).host.d3 = s.host.d3 := by cases g <;> rfl
@[simp] theorem State.setVector_host_vfEnable (g : Fn) (i : Nat) (x : Vector) : (s.setVector g i x).host.vfEnable = s.host.vfEnable := by cases g <;> rfl
@[simp] theorem State.setVector_host_pfMb (g : Fn) (i : Nat) (x : Vector) : (s.setVector g i x).host.pfMb = s.host.pfMb := by cases g <;> rfl
@[simp] theorem State.setVector_host_vfMb (g : Fn) (i : Nat) (x : Vector) : (s.setVector g i x).host.vfMb = s.host.vfMb := by cases g <;> rfl
@[simp] theorem State.setVector_host_pfDone (g : Fn) (i : Nat) (x : Vector) : (s.setVector g i x).host.pfDone = s.host.pfDone := by cases g <;> rfl
@[simp] theorem State.setVector_host_vfs (g : Fn) (i : Nat) (x : Vector) : (s.setVector g i x).host.vfs = s.host.vfs := by cases g <;> rfl
@[simp] theorem State.setVector_host_pfWin (g : Fn) (i : Nat) (x : Vector) : (s.setVector g i x).host.pfWin = s.host.pfWin := by cases g <;> rfl
@[simp] theorem State.setVector_host_vfWin (g : Fn) (i : Nat) (x : Vector) : (s.setVector g i x).host.vfWin = s.host.vfWin := by cases g <;> rfl
@[simp] theorem State.setVector_host_slotBind (g : Fn) (i : Nat) (x : Vector) : (s.setVector g i x).host.slotBind = s.host.slotBind := by cases g <;> rfl
@[simp] theorem State.setVector_host_eq (g : Fn) (i : Nat) (x : Vector) : (s.setVector g i x).host.eq = s.host.eq := by cases g <;> rfl
@[simp] theorem State.setVector_host_lastRead (g : Fn) (i : Nat) (x : Vector) : (s.setVector g i x).host.lastRead = s.host.lastRead := by cases g <;> rfl
@[simp] theorem State.setVector_host_msgs (g : Fn) (i : Nat) (x : Vector) : (s.setVector g i x).host.msgs = s.host.msgs := by cases g <;> rfl
@[simp] theorem State.setVector_host_aer (g : Fn) (i : Nat) (x : Vector) : (s.setVector g i x).host.aer = s.host.aer := by cases g <;> rfl

@[simp] theorem State.sendMsg_pending (g : Fn) (i : Nat) : (s.sendMsg g i).pending = s.pending := rfl
@[simp] theorem State.sendMsg_now (g : Fn) (i : Nat) : (s.sendMsg g i).now = s.now := rfl
@[simp] theorem State.sendMsg_idleTicks (g : Fn) (i : Nat) : (s.sendMsg g i).idleTicks = s.idleTicks := rfl
@[simp] theorem State.sendMsg_freeIdx (g : Fn) (i : Nat) : (s.sendMsg g i).freeIdx = s.freeIdx := rfl
@[simp] theorem State.sendMsg_mason (g : Fn) (i : Nat) : (s.sendMsg g i).mason = s.mason := rfl
@[simp] theorem State.sendMsg_parts (g : Fn) (i : Nat) : (s.sendMsg g i).parts = s.parts := rfl
@[simp] theorem State.sendMsg_plans (g : Fn) (i : Nat) : (s.sendMsg g i).plans = s.plans := rfl
@[simp] theorem State.sendMsg_lastPlan (g : Fn) (i : Nat) : (s.sendMsg g i).lastPlan = s.lastPlan := rfl
@[simp] theorem State.sendMsg_courses (g : Fn) (i : Nat) : (s.sendMsg g i).courses = s.courses := rfl
@[simp] theorem State.sendMsg_tiles (g : Fn) (i : Nat) : (s.sendMsg g i).tiles = s.tiles := rfl
@[simp] theorem State.sendMsg_piers (g : Fn) (i : Nat) : (s.sendMsg g i).piers = s.piers := rfl
@[simp] theorem State.sendMsg_mem (g : Fn) (i : Nat) : (s.sendMsg g i).mem = s.mem := rfl
@[simp] theorem State.sendMsg_ctxs (g : Fn) (i : Nat) : (s.sendMsg g i).ctxs = s.ctxs := rfl
@[simp] theorem State.sendMsg_nextOrder (g : Fn) (i : Nat) : (s.sendMsg g i).nextOrder = s.nextOrder := rfl
@[simp] theorem State.sendMsg_trowel (g : Fn) (i : Nat) : (s.sendMsg g i).trowel = s.trowel := rfl
@[simp] theorem State.sendMsg_power (g : Fn) (i : Nat) : (s.sendMsg g i).power = s.power := rfl
@[simp] theorem State.sendMsg_therm (g : Fn) (i : Nat) : (s.sendMsg g i).therm = s.therm := rfl
@[simp] theorem State.sendMsg_flt (g : Fn) (i : Nat) : (s.sendMsg g i).flt = s.flt := rfl
@[simp] theorem State.sendMsg_fab (g : Fn) (i : Nat) : (s.sendMsg g i).fab = s.fab := rfl
@[simp] theorem State.sendMsg_twin (g : Fn) (i : Nat) : (s.sendMsg g i).twin = s.twin := rfl
@[simp] theorem State.sendMsg_sec (g : Fn) (i : Nat) : (s.sendMsg g i).sec = s.sec := rfl
@[simp] theorem State.sendMsg_fw (g : Fn) (i : Nat) : (s.sendMsg g i).fw = s.fw := rfl
@[simp] theorem State.sendMsg_host_linkUp (g : Fn) (i : Nat) : (s.sendMsg g i).host.linkUp = s.host.linkUp := rfl
@[simp] theorem State.sendMsg_host_d3 (g : Fn) (i : Nat) : (s.sendMsg g i).host.d3 = s.host.d3 := rfl
@[simp] theorem State.sendMsg_host_vfEnable (g : Fn) (i : Nat) : (s.sendMsg g i).host.vfEnable = s.host.vfEnable := rfl
@[simp] theorem State.sendMsg_host_pfMb (g : Fn) (i : Nat) : (s.sendMsg g i).host.pfMb = s.host.pfMb := rfl
@[simp] theorem State.sendMsg_host_vfMb (g : Fn) (i : Nat) : (s.sendMsg g i).host.vfMb = s.host.vfMb := rfl
@[simp] theorem State.sendMsg_host_pfDone (g : Fn) (i : Nat) : (s.sendMsg g i).host.pfDone = s.host.pfDone := rfl
@[simp] theorem State.sendMsg_host_vfs (g : Fn) (i : Nat) : (s.sendMsg g i).host.vfs = s.host.vfs := rfl
@[simp] theorem State.sendMsg_host_pfVec (g : Fn) (i : Nat) : (s.sendMsg g i).host.pfVec = s.host.pfVec := rfl
@[simp] theorem State.sendMsg_host_vfVec (g : Fn) (i : Nat) : (s.sendMsg g i).host.vfVec = s.host.vfVec := rfl
@[simp] theorem State.sendMsg_host_pfWin (g : Fn) (i : Nat) : (s.sendMsg g i).host.pfWin = s.host.pfWin := rfl
@[simp] theorem State.sendMsg_host_vfWin (g : Fn) (i : Nat) : (s.sendMsg g i).host.vfWin = s.host.vfWin := rfl
@[simp] theorem State.sendMsg_host_slotBind (g : Fn) (i : Nat) : (s.sendMsg g i).host.slotBind = s.host.slotBind := rfl
@[simp] theorem State.sendMsg_host_eq (g : Fn) (i : Nat) : (s.sendMsg g i).host.eq = s.host.eq := rfl
@[simp] theorem State.sendMsg_host_lastRead (g : Fn) (i : Nat) : (s.sendMsg g i).host.lastRead = s.host.lastRead := rfl
@[simp] theorem State.sendMsg_host_aer (g : Fn) (i : Nat) : (s.sendMsg g i).host.aer = s.host.aer := rfl

@[simp] theorem State.raiseVec_pending (g : Fn) (i : Nat) : (s.raiseVec g i).pending = s.pending := by unfold State.raiseVec; split <;> simp
@[simp] theorem State.raiseVec_now (g : Fn) (i : Nat) : (s.raiseVec g i).now = s.now := by unfold State.raiseVec; split <;> simp
@[simp] theorem State.raiseVec_idleTicks (g : Fn) (i : Nat) : (s.raiseVec g i).idleTicks = s.idleTicks := by unfold State.raiseVec; split <;> simp
@[simp] theorem State.raiseVec_freeIdx (g : Fn) (i : Nat) : (s.raiseVec g i).freeIdx = s.freeIdx := by unfold State.raiseVec; split <;> simp
@[simp] theorem State.raiseVec_mason (g : Fn) (i : Nat) : (s.raiseVec g i).mason = s.mason := by unfold State.raiseVec; split <;> simp
@[simp] theorem State.raiseVec_parts (g : Fn) (i : Nat) : (s.raiseVec g i).parts = s.parts := by unfold State.raiseVec; split <;> simp
@[simp] theorem State.raiseVec_plans (g : Fn) (i : Nat) : (s.raiseVec g i).plans = s.plans := by unfold State.raiseVec; split <;> simp
@[simp] theorem State.raiseVec_lastPlan (g : Fn) (i : Nat) : (s.raiseVec g i).lastPlan = s.lastPlan := by unfold State.raiseVec; split <;> simp
@[simp] theorem State.raiseVec_courses (g : Fn) (i : Nat) : (s.raiseVec g i).courses = s.courses := by unfold State.raiseVec; split <;> simp
@[simp] theorem State.raiseVec_tiles (g : Fn) (i : Nat) : (s.raiseVec g i).tiles = s.tiles := by unfold State.raiseVec; split <;> simp
@[simp] theorem State.raiseVec_piers (g : Fn) (i : Nat) : (s.raiseVec g i).piers = s.piers := by unfold State.raiseVec; split <;> simp
@[simp] theorem State.raiseVec_mem (g : Fn) (i : Nat) : (s.raiseVec g i).mem = s.mem := by unfold State.raiseVec; split <;> simp
@[simp] theorem State.raiseVec_ctxs (g : Fn) (i : Nat) : (s.raiseVec g i).ctxs = s.ctxs := by unfold State.raiseVec; split <;> simp
@[simp] theorem State.raiseVec_nextOrder (g : Fn) (i : Nat) : (s.raiseVec g i).nextOrder = s.nextOrder := by unfold State.raiseVec; split <;> simp
@[simp] theorem State.raiseVec_trowel (g : Fn) (i : Nat) : (s.raiseVec g i).trowel = s.trowel := by unfold State.raiseVec; split <;> simp
@[simp] theorem State.raiseVec_power (g : Fn) (i : Nat) : (s.raiseVec g i).power = s.power := by unfold State.raiseVec; split <;> simp
@[simp] theorem State.raiseVec_therm (g : Fn) (i : Nat) : (s.raiseVec g i).therm = s.therm := by unfold State.raiseVec; split <;> simp
@[simp] theorem State.raiseVec_flt (g : Fn) (i : Nat) : (s.raiseVec g i).flt = s.flt := by unfold State.raiseVec; split <;> simp
@[simp] theorem State.raiseVec_fab (g : Fn) (i : Nat) : (s.raiseVec g i).fab = s.fab := by unfold State.raiseVec; split <;> simp
@[simp] theorem State.raiseVec_twin (g : Fn) (i : Nat) : (s.raiseVec g i).twin = s.twin := by unfold State.raiseVec; split <;> simp
@[simp] theorem State.raiseVec_sec (g : Fn) (i : Nat) : (s.raiseVec g i).sec = s.sec := by unfold State.raiseVec; split <;> simp
@[simp] theorem State.raiseVec_fw (g : Fn) (i : Nat) : (s.raiseVec g i).fw = s.fw := by unfold State.raiseVec; split <;> simp
@[simp] theorem State.raiseVec_host_linkUp (g : Fn) (i : Nat) : (s.raiseVec g i).host.linkUp = s.host.linkUp := by unfold State.raiseVec; split <;> simp
@[simp] theorem State.raiseVec_host_d3 (g : Fn) (i : Nat) : (s.raiseVec g i).host.d3 = s.host.d3 := by unfold State.raiseVec; split <;> simp
@[simp] theorem State.raiseVec_host_vfEnable (g : Fn) (i : Nat) : (s.raiseVec g i).host.vfEnable = s.host.vfEnable := by unfold State.raiseVec; split <;> simp
@[simp] theorem State.raiseVec_host_pfMb (g : Fn) (i : Nat) : (s.raiseVec g i).host.pfMb = s.host.pfMb := by unfold State.raiseVec; split <;> simp
@[simp] theorem State.raiseVec_host_vfMb (g : Fn) (i : Nat) : (s.raiseVec g i).host.vfMb = s.host.vfMb := by unfold State.raiseVec; split <;> simp
@[simp] theorem State.raiseVec_host_pfDone (g : Fn) (i : Nat) : (s.raiseVec g i).host.pfDone = s.host.pfDone := by unfold State.raiseVec; split <;> simp
@[simp] theorem State.raiseVec_host_vfs (g : Fn) (i : Nat) : (s.raiseVec g i).host.vfs = s.host.vfs := by unfold State.raiseVec; split <;> simp
@[simp] theorem State.raiseVec_host_pfWin (g : Fn) (i : Nat) : (s.raiseVec g i).host.pfWin = s.host.pfWin := by unfold State.raiseVec; split <;> simp
@[simp] theorem State.raiseVec_host_vfWin (g : Fn) (i : Nat) : (s.raiseVec g i).host.vfWin = s.host.vfWin := by unfold State.raiseVec; split <;> simp
@[simp] theorem State.raiseVec_host_slotBind (g : Fn) (i : Nat) : (s.raiseVec g i).host.slotBind = s.host.slotBind := by unfold State.raiseVec; split <;> simp
@[simp] theorem State.raiseVec_host_eq (g : Fn) (i : Nat) : (s.raiseVec g i).host.eq = s.host.eq := by unfold State.raiseVec; split <;> simp
@[simp] theorem State.raiseVec_host_lastRead (g : Fn) (i : Nat) : (s.raiseVec g i).host.lastRead = s.host.lastRead := by unfold State.raiseVec; split <;> simp
@[simp] theorem State.raiseVec_host_aer (g : Fn) (i : Nat) : (s.raiseVec g i).host.aer = s.host.aer := by unfold State.raiseVec; split <;> simp

@[simp] theorem State.logWrite_pending (code kind id : Nat) (d : List Byte) (t : LogTag) : (s.logWrite code kind id d t).pending = s.pending := rfl
@[simp] theorem State.logWrite_now (code kind id : Nat) (d : List Byte) (t : LogTag) : (s.logWrite code kind id d t).now = s.now := rfl
@[simp] theorem State.logWrite_idleTicks (code kind id : Nat) (d : List Byte) (t : LogTag) : (s.logWrite code kind id d t).idleTicks = s.idleTicks := rfl
@[simp] theorem State.logWrite_freeIdx (code kind id : Nat) (d : List Byte) (t : LogTag) : (s.logWrite code kind id d t).freeIdx = s.freeIdx := rfl
@[simp] theorem State.logWrite_host (code kind id : Nat) (d : List Byte) (t : LogTag) : (s.logWrite code kind id d t).host = s.host := rfl
@[simp] theorem State.logWrite_mason (code kind id : Nat) (d : List Byte) (t : LogTag) : (s.logWrite code kind id d t).mason = s.mason := rfl
@[simp] theorem State.logWrite_parts (code kind id : Nat) (d : List Byte) (t : LogTag) : (s.logWrite code kind id d t).parts = s.parts := rfl
@[simp] theorem State.logWrite_plans (code kind id : Nat) (d : List Byte) (t : LogTag) : (s.logWrite code kind id d t).plans = s.plans := rfl
@[simp] theorem State.logWrite_lastPlan (code kind id : Nat) (d : List Byte) (t : LogTag) : (s.logWrite code kind id d t).lastPlan = s.lastPlan := rfl
@[simp] theorem State.logWrite_courses (code kind id : Nat) (d : List Byte) (t : LogTag) : (s.logWrite code kind id d t).courses = s.courses := rfl
@[simp] theorem State.logWrite_tiles (code kind id : Nat) (d : List Byte) (t : LogTag) : (s.logWrite code kind id d t).tiles = s.tiles := rfl
@[simp] theorem State.logWrite_piers (code kind id : Nat) (d : List Byte) (t : LogTag) : (s.logWrite code kind id d t).piers = s.piers := rfl
@[simp] theorem State.logWrite_mem (code kind id : Nat) (d : List Byte) (t : LogTag) : (s.logWrite code kind id d t).mem = s.mem := rfl
@[simp] theorem State.logWrite_ctxs (code kind id : Nat) (d : List Byte) (t : LogTag) : (s.logWrite code kind id d t).ctxs = s.ctxs := rfl
@[simp] theorem State.logWrite_nextOrder (code kind id : Nat) (d : List Byte) (t : LogTag) : (s.logWrite code kind id d t).nextOrder = s.nextOrder := rfl
@[simp] theorem State.logWrite_trowel (code kind id : Nat) (d : List Byte) (t : LogTag) : (s.logWrite code kind id d t).trowel = s.trowel := rfl
@[simp] theorem State.logWrite_power (code kind id : Nat) (d : List Byte) (t : LogTag) : (s.logWrite code kind id d t).power = s.power := rfl
@[simp] theorem State.logWrite_therm (code kind id : Nat) (d : List Byte) (t : LogTag) : (s.logWrite code kind id d t).therm = s.therm := rfl
@[simp] theorem State.logWrite_fab (code kind id : Nat) (d : List Byte) (t : LogTag) : (s.logWrite code kind id d t).fab = s.fab := rfl
@[simp] theorem State.logWrite_twin (code kind id : Nat) (d : List Byte) (t : LogTag) : (s.logWrite code kind id d t).twin = s.twin := rfl
@[simp] theorem State.logWrite_sec (code kind id : Nat) (d : List Byte) (t : LogTag) : (s.logWrite code kind id d t).sec = s.sec := rfl
@[simp] theorem State.logWrite_fw (code kind id : Nat) (d : List Byte) (t : LogTag) : (s.logWrite code kind id d t).fw = s.fw := rfl
@[simp] theorem State.logWrite_flt_units (code kind id : Nat) (d : List Byte) (t : LogTag) : (s.logWrite code kind id d t).flt.units = s.flt.units := rfl
@[simp] theorem State.logWrite_flt_corrected (code kind id : Nat) (d : List Byte) (t : LogTag) : (s.logWrite code kind id d t).flt.corrected = s.flt.corrected := rfl
@[simp] theorem State.logWrite_flt_errors (code kind id : Nat) (d : List Byte) (t : LogTag) : (s.logWrite code kind id d t).flt.errors = s.flt.errors := rfl
@[simp] theorem State.logWrite_flt_transient (code kind id : Nat) (d : List Byte) (t : LogTag) : (s.logWrite code kind id d t).flt.transient = s.flt.transient := rfl
@[simp] theorem State.logWrite_flt_lasting (code kind id : Nat) (d : List Byte) (t : LogTag) : (s.logWrite code kind id d t).flt.lasting = s.flt.lasting := rfl
@[simp] theorem State.logWrite_flt_restarts (code kind id : Nat) (d : List Byte) (t : LogTag) : (s.logWrite code kind id d t).flt.restarts = s.flt.restarts := rfl
@[simp] theorem State.logWrite_flt_aborted (code kind id : Nat) (d : List Byte) (t : LogTag) : (s.logWrite code kind id d t).flt.aborted = s.flt.aborted := rfl
@[simp] theorem State.logWrite_flt_pierResets (code kind id : Nat) (d : List Byte) (t : LogTag) : (s.logWrite code kind id d t).flt.pierResets = s.flt.pierResets := rfl
@[simp] theorem State.logWrite_flt_ledger (code kind id : Nat) (d : List Byte) (t : LogTag) : (s.logWrite code kind id d t).flt.ledger = s.flt.ledger := rfl
@[simp] theorem State.logWrite_flt_burns (code kind id : Nat) (d : List Byte) (t : LogTag) : (s.logWrite code kind id d t).flt.burns = s.flt.burns := rfl
@[simp] theorem State.logWrite_flt_riddleRetired (code kind id : Nat) (d : List Byte) (t : LogTag) : (s.logWrite code kind id d t).flt.riddleRetired = s.flt.riddleRetired := rfl

@[simp] theorem State.eqPut_pending (b : List Byte) : (s.eqPut b).pending = s.pending := by unfold State.eqPut; dsimp only; split <;> simp
@[simp] theorem State.eqPut_now (b : List Byte) : (s.eqPut b).now = s.now := by unfold State.eqPut; dsimp only; split <;> simp
@[simp] theorem State.eqPut_idleTicks (b : List Byte) : (s.eqPut b).idleTicks = s.idleTicks := by unfold State.eqPut; dsimp only; split <;> simp
@[simp] theorem State.eqPut_freeIdx (b : List Byte) : (s.eqPut b).freeIdx = s.freeIdx := by unfold State.eqPut; dsimp only; split <;> simp
@[simp] theorem State.eqPut_mason (b : List Byte) : (s.eqPut b).mason = s.mason := by unfold State.eqPut; dsimp only; split <;> simp
@[simp] theorem State.eqPut_parts (b : List Byte) : (s.eqPut b).parts = s.parts := by unfold State.eqPut; dsimp only; split <;> simp
@[simp] theorem State.eqPut_plans (b : List Byte) : (s.eqPut b).plans = s.plans := by unfold State.eqPut; dsimp only; split <;> simp
@[simp] theorem State.eqPut_lastPlan (b : List Byte) : (s.eqPut b).lastPlan = s.lastPlan := by unfold State.eqPut; dsimp only; split <;> simp
@[simp] theorem State.eqPut_courses (b : List Byte) : (s.eqPut b).courses = s.courses := by unfold State.eqPut; dsimp only; split <;> simp
@[simp] theorem State.eqPut_tiles (b : List Byte) : (s.eqPut b).tiles = s.tiles := by unfold State.eqPut; dsimp only; split <;> simp
@[simp] theorem State.eqPut_piers (b : List Byte) : (s.eqPut b).piers = s.piers := by unfold State.eqPut; dsimp only; split <;> simp
@[simp] theorem State.eqPut_mem (b : List Byte) : (s.eqPut b).mem = s.mem := by unfold State.eqPut; dsimp only; split <;> simp
@[simp] theorem State.eqPut_ctxs (b : List Byte) : (s.eqPut b).ctxs = s.ctxs := by unfold State.eqPut; dsimp only; split <;> simp
@[simp] theorem State.eqPut_nextOrder (b : List Byte) : (s.eqPut b).nextOrder = s.nextOrder := by unfold State.eqPut; dsimp only; split <;> simp
@[simp] theorem State.eqPut_trowel (b : List Byte) : (s.eqPut b).trowel = s.trowel := by unfold State.eqPut; dsimp only; split <;> simp
@[simp] theorem State.eqPut_power (b : List Byte) : (s.eqPut b).power = s.power := by unfold State.eqPut; dsimp only; split <;> simp
@[simp] theorem State.eqPut_therm (b : List Byte) : (s.eqPut b).therm = s.therm := by unfold State.eqPut; dsimp only; split <;> simp
@[simp] theorem State.eqPut_flt (b : List Byte) : (s.eqPut b).flt = s.flt := by unfold State.eqPut; dsimp only; split <;> simp
@[simp] theorem State.eqPut_fab (b : List Byte) : (s.eqPut b).fab = s.fab := by unfold State.eqPut; dsimp only; split <;> simp
@[simp] theorem State.eqPut_twin (b : List Byte) : (s.eqPut b).twin = s.twin := by unfold State.eqPut; dsimp only; split <;> simp
@[simp] theorem State.eqPut_sec (b : List Byte) : (s.eqPut b).sec = s.sec := by unfold State.eqPut; dsimp only; split <;> simp
@[simp] theorem State.eqPut_fw (b : List Byte) : (s.eqPut b).fw = s.fw := by unfold State.eqPut; dsimp only; split <;> simp
@[simp] theorem State.eqPut_host_linkUp (b : List Byte) : (s.eqPut b).host.linkUp = s.host.linkUp := by unfold State.eqPut; dsimp only; split <;> simp
@[simp] theorem State.eqPut_host_d3 (b : List Byte) : (s.eqPut b).host.d3 = s.host.d3 := by unfold State.eqPut; dsimp only; split <;> simp
@[simp] theorem State.eqPut_host_vfEnable (b : List Byte) : (s.eqPut b).host.vfEnable = s.host.vfEnable := by unfold State.eqPut; dsimp only; split <;> simp
@[simp] theorem State.eqPut_host_pfMb (b : List Byte) : (s.eqPut b).host.pfMb = s.host.pfMb := by unfold State.eqPut; dsimp only; split <;> simp
@[simp] theorem State.eqPut_host_vfMb (b : List Byte) : (s.eqPut b).host.vfMb = s.host.vfMb := by unfold State.eqPut; dsimp only; split <;> simp
@[simp] theorem State.eqPut_host_pfDone (b : List Byte) : (s.eqPut b).host.pfDone = s.host.pfDone := by unfold State.eqPut; dsimp only; split <;> simp
@[simp] theorem State.eqPut_host_vfs (b : List Byte) : (s.eqPut b).host.vfs = s.host.vfs := by unfold State.eqPut; dsimp only; split <;> simp
@[simp] theorem State.eqPut_host_pfWin (b : List Byte) : (s.eqPut b).host.pfWin = s.host.pfWin := by unfold State.eqPut; dsimp only; split <;> simp
@[simp] theorem State.eqPut_host_vfWin (b : List Byte) : (s.eqPut b).host.vfWin = s.host.vfWin := by unfold State.eqPut; dsimp only; split <;> simp
@[simp] theorem State.eqPut_host_slotBind (b : List Byte) : (s.eqPut b).host.slotBind = s.host.slotBind := by unfold State.eqPut; dsimp only; split <;> simp
@[simp] theorem State.eqPut_host_lastRead (b : List Byte) : (s.eqPut b).host.lastRead = s.host.lastRead := by unfold State.eqPut; dsimp only; split <;> simp
@[simp] theorem State.eqPut_host_aer (b : List Byte) : (s.eqPut b).host.aer = s.host.aer := by unfold State.eqPut; dsimp only; split <;> simp

@[simp] theorem State.eqEvent_pending (code kind id : Nat) (d : List Byte) : (s.eqEvent code kind id d).pending = s.pending := by unfold State.eqEvent; split <;> simp
@[simp] theorem State.eqEvent_now (code kind id : Nat) (d : List Byte) : (s.eqEvent code kind id d).now = s.now := by unfold State.eqEvent; split <;> simp
@[simp] theorem State.eqEvent_idleTicks (code kind id : Nat) (d : List Byte) : (s.eqEvent code kind id d).idleTicks = s.idleTicks := by unfold State.eqEvent; split <;> simp
@[simp] theorem State.eqEvent_freeIdx (code kind id : Nat) (d : List Byte) : (s.eqEvent code kind id d).freeIdx = s.freeIdx := by unfold State.eqEvent; split <;> simp
@[simp] theorem State.eqEvent_mason (code kind id : Nat) (d : List Byte) : (s.eqEvent code kind id d).mason = s.mason := by unfold State.eqEvent; split <;> simp
@[simp] theorem State.eqEvent_parts (code kind id : Nat) (d : List Byte) : (s.eqEvent code kind id d).parts = s.parts := by unfold State.eqEvent; split <;> simp
@[simp] theorem State.eqEvent_plans (code kind id : Nat) (d : List Byte) : (s.eqEvent code kind id d).plans = s.plans := by unfold State.eqEvent; split <;> simp
@[simp] theorem State.eqEvent_lastPlan (code kind id : Nat) (d : List Byte) : (s.eqEvent code kind id d).lastPlan = s.lastPlan := by unfold State.eqEvent; split <;> simp
@[simp] theorem State.eqEvent_courses (code kind id : Nat) (d : List Byte) : (s.eqEvent code kind id d).courses = s.courses := by unfold State.eqEvent; split <;> simp
@[simp] theorem State.eqEvent_tiles (code kind id : Nat) (d : List Byte) : (s.eqEvent code kind id d).tiles = s.tiles := by unfold State.eqEvent; split <;> simp
@[simp] theorem State.eqEvent_piers (code kind id : Nat) (d : List Byte) : (s.eqEvent code kind id d).piers = s.piers := by unfold State.eqEvent; split <;> simp
@[simp] theorem State.eqEvent_mem (code kind id : Nat) (d : List Byte) : (s.eqEvent code kind id d).mem = s.mem := by unfold State.eqEvent; split <;> simp
@[simp] theorem State.eqEvent_ctxs (code kind id : Nat) (d : List Byte) : (s.eqEvent code kind id d).ctxs = s.ctxs := by unfold State.eqEvent; split <;> simp
@[simp] theorem State.eqEvent_nextOrder (code kind id : Nat) (d : List Byte) : (s.eqEvent code kind id d).nextOrder = s.nextOrder := by unfold State.eqEvent; split <;> simp
@[simp] theorem State.eqEvent_trowel (code kind id : Nat) (d : List Byte) : (s.eqEvent code kind id d).trowel = s.trowel := by unfold State.eqEvent; split <;> simp
@[simp] theorem State.eqEvent_power (code kind id : Nat) (d : List Byte) : (s.eqEvent code kind id d).power = s.power := by unfold State.eqEvent; split <;> simp
@[simp] theorem State.eqEvent_therm (code kind id : Nat) (d : List Byte) : (s.eqEvent code kind id d).therm = s.therm := by unfold State.eqEvent; split <;> simp
@[simp] theorem State.eqEvent_flt (code kind id : Nat) (d : List Byte) : (s.eqEvent code kind id d).flt = s.flt := by unfold State.eqEvent; split <;> simp
@[simp] theorem State.eqEvent_fab (code kind id : Nat) (d : List Byte) : (s.eqEvent code kind id d).fab = s.fab := by unfold State.eqEvent; split <;> simp
@[simp] theorem State.eqEvent_twin (code kind id : Nat) (d : List Byte) : (s.eqEvent code kind id d).twin = s.twin := by unfold State.eqEvent; split <;> simp
@[simp] theorem State.eqEvent_sec (code kind id : Nat) (d : List Byte) : (s.eqEvent code kind id d).sec = s.sec := by unfold State.eqEvent; split <;> simp
@[simp] theorem State.eqEvent_fw (code kind id : Nat) (d : List Byte) : (s.eqEvent code kind id d).fw = s.fw := by unfold State.eqEvent; split <;> simp
@[simp] theorem State.eqEvent_host_linkUp (code kind id : Nat) (d : List Byte) : (s.eqEvent code kind id d).host.linkUp = s.host.linkUp := by unfold State.eqEvent; split <;> simp
@[simp] theorem State.eqEvent_host_d3 (code kind id : Nat) (d : List Byte) : (s.eqEvent code kind id d).host.d3 = s.host.d3 := by unfold State.eqEvent; split <;> simp
@[simp] theorem State.eqEvent_host_vfEnable (code kind id : Nat) (d : List Byte) : (s.eqEvent code kind id d).host.vfEnable = s.host.vfEnable := by unfold State.eqEvent; split <;> simp
@[simp] theorem State.eqEvent_host_pfMb (code kind id : Nat) (d : List Byte) : (s.eqEvent code kind id d).host.pfMb = s.host.pfMb := by unfold State.eqEvent; split <;> simp
@[simp] theorem State.eqEvent_host_vfMb (code kind id : Nat) (d : List Byte) : (s.eqEvent code kind id d).host.vfMb = s.host.vfMb := by unfold State.eqEvent; split <;> simp
@[simp] theorem State.eqEvent_host_pfDone (code kind id : Nat) (d : List Byte) : (s.eqEvent code kind id d).host.pfDone = s.host.pfDone := by unfold State.eqEvent; split <;> simp
@[simp] theorem State.eqEvent_host_vfs (code kind id : Nat) (d : List Byte) : (s.eqEvent code kind id d).host.vfs = s.host.vfs := by unfold State.eqEvent; split <;> simp
@[simp] theorem State.eqEvent_host_pfWin (code kind id : Nat) (d : List Byte) : (s.eqEvent code kind id d).host.pfWin = s.host.pfWin := by unfold State.eqEvent; split <;> simp
@[simp] theorem State.eqEvent_host_vfWin (code kind id : Nat) (d : List Byte) : (s.eqEvent code kind id d).host.vfWin = s.host.vfWin := by unfold State.eqEvent; split <;> simp
@[simp] theorem State.eqEvent_host_slotBind (code kind id : Nat) (d : List Byte) : (s.eqEvent code kind id d).host.slotBind = s.host.slotBind := by unfold State.eqEvent; split <;> simp
@[simp] theorem State.eqEvent_host_lastRead (code kind id : Nat) (d : List Byte) : (s.eqEvent code kind id d).host.lastRead = s.host.lastRead := by unfold State.eqEvent; split <;> simp
@[simp] theorem State.eqEvent_host_aer (code kind id : Nat) (d : List Byte) : (s.eqEvent code kind id d).host.aer = s.host.aer := by unfold State.eqEvent; split <;> simp

@[simp] theorem State.dropOp_pending (i : Nat) : (s.dropOp i).pending = s.pending := rfl
@[simp] theorem State.dropOp_now (i : Nat) : (s.dropOp i).now = s.now := rfl
@[simp] theorem State.dropOp_idleTicks (i : Nat) : (s.dropOp i).idleTicks = s.idleTicks := rfl
@[simp] theorem State.dropOp_freeIdx (i : Nat) : (s.dropOp i).freeIdx = s.freeIdx := rfl
@[simp] theorem State.dropOp_host (i : Nat) : (s.dropOp i).host = s.host := rfl
@[simp] theorem State.dropOp_parts (i : Nat) : (s.dropOp i).parts = s.parts := rfl
@[simp] theorem State.dropOp_plans (i : Nat) : (s.dropOp i).plans = s.plans := rfl
@[simp] theorem State.dropOp_lastPlan (i : Nat) : (s.dropOp i).lastPlan = s.lastPlan := rfl
@[simp] theorem State.dropOp_courses (i : Nat) : (s.dropOp i).courses = s.courses := rfl
@[simp] theorem State.dropOp_tiles (i : Nat) : (s.dropOp i).tiles = s.tiles := rfl
@[simp] theorem State.dropOp_piers (i : Nat) : (s.dropOp i).piers = s.piers := rfl
@[simp] theorem State.dropOp_mem (i : Nat) : (s.dropOp i).mem = s.mem := rfl
@[simp] theorem State.dropOp_ctxs (i : Nat) : (s.dropOp i).ctxs = s.ctxs := rfl
@[simp] theorem State.dropOp_nextOrder (i : Nat) : (s.dropOp i).nextOrder = s.nextOrder := rfl
@[simp] theorem State.dropOp_trowel (i : Nat) : (s.dropOp i).trowel = s.trowel := rfl
@[simp] theorem State.dropOp_power (i : Nat) : (s.dropOp i).power = s.power := rfl
@[simp] theorem State.dropOp_therm (i : Nat) : (s.dropOp i).therm = s.therm := rfl
@[simp] theorem State.dropOp_flt (i : Nat) : (s.dropOp i).flt = s.flt := rfl
@[simp] theorem State.dropOp_fab (i : Nat) : (s.dropOp i).fab = s.fab := rfl
@[simp] theorem State.dropOp_twin (i : Nat) : (s.dropOp i).twin = s.twin := rfl
@[simp] theorem State.dropOp_sec (i : Nat) : (s.dropOp i).sec = s.sec := rfl
@[simp] theorem State.dropOp_fw (i : Nat) : (s.dropOp i).fw = s.fw := rfl
@[simp] theorem State.dropOp_mason_inputs (i : Nat) : (s.dropOp i).mason.inputs = s.mason.inputs := rfl
@[simp] theorem State.dropOp_mason_lastOp (i : Nat) : (s.dropOp i).mason.lastOp = s.mason.lastOp := rfl
@[simp] theorem State.dropOp_mason_paused (i : Nat) : (s.dropOp i).mason.paused = s.mason.paused := rfl
@[simp] theorem State.dropOp_mason_pauseCause (i : Nat) : (s.dropOp i).mason.pauseCause = s.mason.pauseCause := rfl
@[simp] theorem State.dropOp_mason_pauseAt (i : Nat) : (s.dropOp i).mason.pauseAt = s.mason.pauseAt := rfl
@[simp] theorem State.dropOp_mason_pauseUs (i : Nat) : (s.dropOp i).mason.pauseUs = s.mason.pauseUs := rfl
@[simp] theorem State.dropOp_mason_lockstep (i : Nat) : (s.dropOp i).mason.lockstep = s.mason.lockstep := rfl

@[simp] theorem State.postT_pending (code kind id : Nat) (d : List Byte) (t : LogTag) : (s.postT code kind id d t).pending = s.pending := by simp [State.postT]
@[simp] theorem State.postT_now (code kind id : Nat) (d : List Byte) (t : LogTag) : (s.postT code kind id d t).now = s.now := by simp [State.postT]
@[simp] theorem State.postT_idleTicks (code kind id : Nat) (d : List Byte) (t : LogTag) : (s.postT code kind id d t).idleTicks = s.idleTicks := by simp [State.postT]
@[simp] theorem State.postT_freeIdx (code kind id : Nat) (d : List Byte) (t : LogTag) : (s.postT code kind id d t).freeIdx = s.freeIdx := by simp [State.postT]
@[simp] theorem State.postT_mason (code kind id : Nat) (d : List Byte) (t : LogTag) : (s.postT code kind id d t).mason = s.mason := by simp [State.postT]
@[simp] theorem State.postT_parts (code kind id : Nat) (d : List Byte) (t : LogTag) : (s.postT code kind id d t).parts = s.parts := by simp [State.postT]
@[simp] theorem State.postT_plans (code kind id : Nat) (d : List Byte) (t : LogTag) : (s.postT code kind id d t).plans = s.plans := by simp [State.postT]
@[simp] theorem State.postT_lastPlan (code kind id : Nat) (d : List Byte) (t : LogTag) : (s.postT code kind id d t).lastPlan = s.lastPlan := by simp [State.postT]
@[simp] theorem State.postT_courses (code kind id : Nat) (d : List Byte) (t : LogTag) : (s.postT code kind id d t).courses = s.courses := by simp [State.postT]
@[simp] theorem State.postT_tiles (code kind id : Nat) (d : List Byte) (t : LogTag) : (s.postT code kind id d t).tiles = s.tiles := by simp [State.postT]
@[simp] theorem State.postT_piers (code kind id : Nat) (d : List Byte) (t : LogTag) : (s.postT code kind id d t).piers = s.piers := by simp [State.postT]
@[simp] theorem State.postT_mem (code kind id : Nat) (d : List Byte) (t : LogTag) : (s.postT code kind id d t).mem = s.mem := by simp [State.postT]
@[simp] theorem State.postT_ctxs (code kind id : Nat) (d : List Byte) (t : LogTag) : (s.postT code kind id d t).ctxs = s.ctxs := by simp [State.postT]
@[simp] theorem State.postT_nextOrder (code kind id : Nat) (d : List Byte) (t : LogTag) : (s.postT code kind id d t).nextOrder = s.nextOrder := by simp [State.postT]
@[simp] theorem State.postT_trowel (code kind id : Nat) (d : List Byte) (t : LogTag) : (s.postT code kind id d t).trowel = s.trowel := by simp [State.postT]
@[simp] theorem State.postT_power (code kind id : Nat) (d : List Byte) (t : LogTag) : (s.postT code kind id d t).power = s.power := by simp [State.postT]
@[simp] theorem State.postT_therm (code kind id : Nat) (d : List Byte) (t : LogTag) : (s.postT code kind id d t).therm = s.therm := by simp [State.postT]
@[simp] theorem State.postT_fab (code kind id : Nat) (d : List Byte) (t : LogTag) : (s.postT code kind id d t).fab = s.fab := by simp [State.postT]
@[simp] theorem State.postT_twin (code kind id : Nat) (d : List Byte) (t : LogTag) : (s.postT code kind id d t).twin = s.twin := by simp [State.postT]
@[simp] theorem State.postT_sec (code kind id : Nat) (d : List Byte) (t : LogTag) : (s.postT code kind id d t).sec = s.sec := by simp [State.postT]
@[simp] theorem State.postT_fw (code kind id : Nat) (d : List Byte) (t : LogTag) : (s.postT code kind id d t).fw = s.fw := by simp [State.postT]
@[simp] theorem State.postT_host_linkUp (code kind id : Nat) (d : List Byte) (t : LogTag) : (s.postT code kind id d t).host.linkUp = s.host.linkUp := by simp [State.postT]
@[simp] theorem State.postT_host_d3 (code kind id : Nat) (d : List Byte) (t : LogTag) : (s.postT code kind id d t).host.d3 = s.host.d3 := by simp [State.postT]
@[simp] theorem State.postT_host_vfEnable (code kind id : Nat) (d : List Byte) (t : LogTag) : (s.postT code kind id d t).host.vfEnable = s.host.vfEnable := by simp [State.postT]
@[simp] theorem State.postT_host_pfMb (code kind id : Nat) (d : List Byte) (t : LogTag) : (s.postT code kind id d t).host.pfMb = s.host.pfMb := by simp [State.postT]
@[simp] theorem State.postT_host_vfMb (code kind id : Nat) (d : List Byte) (t : LogTag) : (s.postT code kind id d t).host.vfMb = s.host.vfMb := by simp [State.postT]
@[simp] theorem State.postT_host_pfDone (code kind id : Nat) (d : List Byte) (t : LogTag) : (s.postT code kind id d t).host.pfDone = s.host.pfDone := by simp [State.postT]
@[simp] theorem State.postT_host_vfs (code kind id : Nat) (d : List Byte) (t : LogTag) : (s.postT code kind id d t).host.vfs = s.host.vfs := by simp [State.postT]
@[simp] theorem State.postT_host_pfWin (code kind id : Nat) (d : List Byte) (t : LogTag) : (s.postT code kind id d t).host.pfWin = s.host.pfWin := by simp [State.postT]
@[simp] theorem State.postT_host_vfWin (code kind id : Nat) (d : List Byte) (t : LogTag) : (s.postT code kind id d t).host.vfWin = s.host.vfWin := by simp [State.postT]
@[simp] theorem State.postT_host_slotBind (code kind id : Nat) (d : List Byte) (t : LogTag) : (s.postT code kind id d t).host.slotBind = s.host.slotBind := by simp [State.postT]
@[simp] theorem State.postT_host_lastRead (code kind id : Nat) (d : List Byte) (t : LogTag) : (s.postT code kind id d t).host.lastRead = s.host.lastRead := by simp [State.postT]
@[simp] theorem State.postT_host_aer (code kind id : Nat) (d : List Byte) (t : LogTag) : (s.postT code kind id d t).host.aer = s.host.aer := by simp [State.postT]
@[simp] theorem State.postT_flt_units (code kind id : Nat) (d : List Byte) (t : LogTag) : (s.postT code kind id d t).flt.units = s.flt.units := by simp [State.postT]
@[simp] theorem State.postT_flt_corrected (code kind id : Nat) (d : List Byte) (t : LogTag) : (s.postT code kind id d t).flt.corrected = s.flt.corrected := by simp [State.postT]
@[simp] theorem State.postT_flt_errors (code kind id : Nat) (d : List Byte) (t : LogTag) : (s.postT code kind id d t).flt.errors = s.flt.errors := by simp [State.postT]
@[simp] theorem State.postT_flt_transient (code kind id : Nat) (d : List Byte) (t : LogTag) : (s.postT code kind id d t).flt.transient = s.flt.transient := by simp [State.postT]
@[simp] theorem State.postT_flt_lasting (code kind id : Nat) (d : List Byte) (t : LogTag) : (s.postT code kind id d t).flt.lasting = s.flt.lasting := by simp [State.postT]
@[simp] theorem State.postT_flt_restarts (code kind id : Nat) (d : List Byte) (t : LogTag) : (s.postT code kind id d t).flt.restarts = s.flt.restarts := by simp [State.postT]
@[simp] theorem State.postT_flt_aborted (code kind id : Nat) (d : List Byte) (t : LogTag) : (s.postT code kind id d t).flt.aborted = s.flt.aborted := by simp [State.postT]
@[simp] theorem State.postT_flt_pierResets (code kind id : Nat) (d : List Byte) (t : LogTag) : (s.postT code kind id d t).flt.pierResets = s.flt.pierResets := by simp [State.postT]
@[simp] theorem State.postT_flt_ledger (code kind id : Nat) (d : List Byte) (t : LogTag) : (s.postT code kind id d t).flt.ledger = s.flt.ledger := by simp [State.postT]
@[simp] theorem State.postT_flt_burns (code kind id : Nat) (d : List Byte) (t : LogTag) : (s.postT code kind id d t).flt.burns = s.flt.burns := by simp [State.postT]
@[simp] theorem State.postT_flt_riddleRetired (code kind id : Nat) (d : List Byte) (t : LogTag) : (s.postT code kind id d t).flt.riddleRetired = s.flt.riddleRetired := by simp [State.postT]

@[simp] theorem State.post_pending (code kind id : Nat) (d : List Byte) : (s.post code kind id d).pending = s.pending := by simp [State.post]
@[simp] theorem State.post_now (code kind id : Nat) (d : List Byte) : (s.post code kind id d).now = s.now := by simp [State.post]
@[simp] theorem State.post_idleTicks (code kind id : Nat) (d : List Byte) : (s.post code kind id d).idleTicks = s.idleTicks := by simp [State.post]
@[simp] theorem State.post_freeIdx (code kind id : Nat) (d : List Byte) : (s.post code kind id d).freeIdx = s.freeIdx := by simp [State.post]
@[simp] theorem State.post_mason (code kind id : Nat) (d : List Byte) : (s.post code kind id d).mason = s.mason := by simp [State.post]
@[simp] theorem State.post_parts (code kind id : Nat) (d : List Byte) : (s.post code kind id d).parts = s.parts := by simp [State.post]
@[simp] theorem State.post_plans (code kind id : Nat) (d : List Byte) : (s.post code kind id d).plans = s.plans := by simp [State.post]
@[simp] theorem State.post_lastPlan (code kind id : Nat) (d : List Byte) : (s.post code kind id d).lastPlan = s.lastPlan := by simp [State.post]
@[simp] theorem State.post_courses (code kind id : Nat) (d : List Byte) : (s.post code kind id d).courses = s.courses := by simp [State.post]
@[simp] theorem State.post_tiles (code kind id : Nat) (d : List Byte) : (s.post code kind id d).tiles = s.tiles := by simp [State.post]
@[simp] theorem State.post_piers (code kind id : Nat) (d : List Byte) : (s.post code kind id d).piers = s.piers := by simp [State.post]
@[simp] theorem State.post_mem (code kind id : Nat) (d : List Byte) : (s.post code kind id d).mem = s.mem := by simp [State.post]
@[simp] theorem State.post_ctxs (code kind id : Nat) (d : List Byte) : (s.post code kind id d).ctxs = s.ctxs := by simp [State.post]
@[simp] theorem State.post_nextOrder (code kind id : Nat) (d : List Byte) : (s.post code kind id d).nextOrder = s.nextOrder := by simp [State.post]
@[simp] theorem State.post_trowel (code kind id : Nat) (d : List Byte) : (s.post code kind id d).trowel = s.trowel := by simp [State.post]
@[simp] theorem State.post_power (code kind id : Nat) (d : List Byte) : (s.post code kind id d).power = s.power := by simp [State.post]
@[simp] theorem State.post_therm (code kind id : Nat) (d : List Byte) : (s.post code kind id d).therm = s.therm := by simp [State.post]
@[simp] theorem State.post_fab (code kind id : Nat) (d : List Byte) : (s.post code kind id d).fab = s.fab := by simp [State.post]
@[simp] theorem State.post_twin (code kind id : Nat) (d : List Byte) : (s.post code kind id d).twin = s.twin := by simp [State.post]
@[simp] theorem State.post_sec (code kind id : Nat) (d : List Byte) : (s.post code kind id d).sec = s.sec := by simp [State.post]
@[simp] theorem State.post_fw (code kind id : Nat) (d : List Byte) : (s.post code kind id d).fw = s.fw := by simp [State.post]
@[simp] theorem State.post_host_linkUp (code kind id : Nat) (d : List Byte) : (s.post code kind id d).host.linkUp = s.host.linkUp := by simp [State.post]
@[simp] theorem State.post_host_d3 (code kind id : Nat) (d : List Byte) : (s.post code kind id d).host.d3 = s.host.d3 := by simp [State.post]
@[simp] theorem State.post_host_vfEnable (code kind id : Nat) (d : List Byte) : (s.post code kind id d).host.vfEnable = s.host.vfEnable := by simp [State.post]
@[simp] theorem State.post_host_pfMb (code kind id : Nat) (d : List Byte) : (s.post code kind id d).host.pfMb = s.host.pfMb := by simp [State.post]
@[simp] theorem State.post_host_vfMb (code kind id : Nat) (d : List Byte) : (s.post code kind id d).host.vfMb = s.host.vfMb := by simp [State.post]
@[simp] theorem State.post_host_pfDone (code kind id : Nat) (d : List Byte) : (s.post code kind id d).host.pfDone = s.host.pfDone := by simp [State.post]
@[simp] theorem State.post_host_vfs (code kind id : Nat) (d : List Byte) : (s.post code kind id d).host.vfs = s.host.vfs := by simp [State.post]
@[simp] theorem State.post_host_pfWin (code kind id : Nat) (d : List Byte) : (s.post code kind id d).host.pfWin = s.host.pfWin := by simp [State.post]
@[simp] theorem State.post_host_vfWin (code kind id : Nat) (d : List Byte) : (s.post code kind id d).host.vfWin = s.host.vfWin := by simp [State.post]
@[simp] theorem State.post_host_slotBind (code kind id : Nat) (d : List Byte) : (s.post code kind id d).host.slotBind = s.host.slotBind := by simp [State.post]
@[simp] theorem State.post_host_lastRead (code kind id : Nat) (d : List Byte) : (s.post code kind id d).host.lastRead = s.host.lastRead := by simp [State.post]
@[simp] theorem State.post_host_aer (code kind id : Nat) (d : List Byte) : (s.post code kind id d).host.aer = s.host.aer := by simp [State.post]
@[simp] theorem State.post_flt_units (code kind id : Nat) (d : List Byte) : (s.post code kind id d).flt.units = s.flt.units := by simp [State.post]
@[simp] theorem State.post_flt_corrected (code kind id : Nat) (d : List Byte) : (s.post code kind id d).flt.corrected = s.flt.corrected := by simp [State.post]
@[simp] theorem State.post_flt_errors (code kind id : Nat) (d : List Byte) : (s.post code kind id d).flt.errors = s.flt.errors := by simp [State.post]
@[simp] theorem State.post_flt_transient (code kind id : Nat) (d : List Byte) : (s.post code kind id d).flt.transient = s.flt.transient := by simp [State.post]
@[simp] theorem State.post_flt_lasting (code kind id : Nat) (d : List Byte) : (s.post code kind id d).flt.lasting = s.flt.lasting := by simp [State.post]
@[simp] theorem State.post_flt_restarts (code kind id : Nat) (d : List Byte) : (s.post code kind id d).flt.restarts = s.flt.restarts := by simp [State.post]
@[simp] theorem State.post_flt_aborted (code kind id : Nat) (d : List Byte) : (s.post code kind id d).flt.aborted = s.flt.aborted := by simp [State.post]
@[simp] theorem State.post_flt_pierResets (code kind id : Nat) (d : List Byte) : (s.post code kind id d).flt.pierResets = s.flt.pierResets := by simp [State.post]
@[simp] theorem State.post_flt_ledger (code kind id : Nat) (d : List Byte) : (s.post code kind id d).flt.ledger = s.flt.ledger := by simp [State.post]
@[simp] theorem State.post_flt_burns (code kind id : Nat) (d : List Byte) : (s.post code kind id d).flt.burns = s.flt.burns := by simp [State.post]
@[simp] theorem State.post_flt_riddleRetired (code kind id : Nat) (d : List Byte) : (s.post code kind id d).flt.riddleRetired = s.flt.riddleRetired := by simp [State.post]

end Sys2Proof.Machine
end

