-- ==== Sys2Proof/Laws/Tables.lean ====
section
/-! SUPPORT. Laws of tables by number: what a lookup gives after an update. -/

namespace Sys2Proof.Tbl
variable {α : Type}

@[simp] theorem find?_nil (i : Nat) : find? ([] : Tbl α) i = none := rfl

@[simp] theorem find?_set_self (t : Tbl α) (i : Nat) (v : α) : find? (set t i v) i = some v := by
  induction t with
  | nil => simp [set, find?]
  | cons p t ih =>
    obtain ⟨k, w⟩ := p
    unfold set
    split
    · simp [find?]
    · split
      · simp [find?]
      · simp [find?, *]

theorem find?_set_ne (t : Tbl α) {i j : Nat} (v : α) (h : i ≠ j) : find? (set t i v) j = find? t j := by
  induction t with
  | nil => simp [set, find?, h]
  | cons p t ih =>
    obtain ⟨k, w⟩ := p
    unfold set
    split
    · subst_vars; simp [find?, h]
    · split
      · simp [find?, h]
      · simp [find?, ih]

@[simp] theorem get_nil (d : α) (i : Nat) : get d ([] : Tbl α) i = d := rfl

@[simp] theorem get_set_self (d : α) (t : Tbl α) (i : Nat) (v : α) : get d (set t i v) i = v := by simp [get]

theorem get_set_ne (d : α) (t : Tbl α) {i j : Nat} (v : α) (h : i ≠ j) : get d (set t i v) j = get d t j := by
  simp [get, find?_set_ne t v h]

@[simp] theorem get_upd_self (d : α) (t : Tbl α) (i : Nat) (f : α → α) : get d (upd d t i f) i = f (get d t i) := by simp [upd]

theorem get_upd_ne (d : α) (t : Tbl α) {i j : Nat} (f : α → α) (h : i ≠ j) : get d (upd d t i f) j = get d t j := by
  simp [upd, get_set_ne d t _ h]

theorem find?_upd_ne (d : α) (t : Tbl α) {i j : Nat} (f : α → α) (h : i ≠ j) : find? (upd d t i f) j = find? t j := by
  simp [upd, find?_set_ne t _ h]

@[simp] theorem set_set (t : Tbl α) (i : Nat) (v w : α) : set (set t i v) i w = set t i w := by
  induction t with
  | nil => simp [set]
  | cons p t ih =>
    obtain ⟨k, x⟩ := p
    by_cases h : k = i
    · simp [set, h]
    · by_cases h2 : i < k
      · simp [set, h, h2]
      · simp [set, h, h2, ih]

@[simp] theorem upd_upd (d : α) (t : Tbl α) (i : Nat) (f g : α → α) : upd d (upd d t i f) i g = upd d t i (fun x => g (f x)) := by
  simp [upd]

theorem upd_congr (d : α) (t : Tbl α) (i : Nat) {f g : α → α} (h : f (get d t i) = g (get d t i)) : upd d t i f = upd d t i g := by
  simp [upd, h]

@[simp] theorem find?_del_self (t : Tbl α) (i : Nat) : find? (del t i) i = none := by
  induction t with
  | nil => rfl
  | cons p t ih =>
    obtain ⟨k, w⟩ := p
    unfold del
    split
    · exact ih
    · simp [find?, *]

theorem find?_del_ne (t : Tbl α) {i j : Nat} (h : i ≠ j) : find? (del t i) j = find? t j := by
  induction t with
  | nil => rfl
  | cons p t ih =>
    obtain ⟨k, w⟩ := p
    unfold del
    split
    · subst_vars; simp [find?, h, ih]
    · simp [find?, ih]

theorem find?_mapVals (t : Tbl α) (f : Nat → α → α) (i : Nat) : find? (mapVals t f) i = (find? t i).map (f i) := by
  induction t with
  | nil => rfl
  | cons p t ih =>
    obtain ⟨k, w⟩ := p
    have e : mapVals ((k, w) :: t) f = (k, f k w) :: mapVals t f := rfl
    rw [e]
    unfold find?
    split
    · subst_vars; simp
    · exact ih

end Sys2Proof.Tbl
end

