-- ==== Sys2Proof/Laws/Events.lean ====
section
/-! SUPPORT. What posting an event does (R52, R274): the event queue's entry or the count of a lost event, and the log entry. -/

namespace Sys2Proof.Machine

@[simp] theorem State.eqPut_entries (s : State) (b : List Byte) : (s.eqPut b).host.eq.entries = s.host.eq.entries.set s.host.eq.prod b := by
  unfold State.eqPut; dsimp only; split <;> simp
@[simp] theorem State.eqPut_prod (s : State) (b : List Byte) : (s.eqPut b).host.eq.prod = (s.host.eq.prod + 1) % 512 := by
  unfold State.eqPut; dsimp only; split <;> simp
@[simp] theorem State.eqPut_cons (s : State) (b : List Byte) : (s.eqPut b).host.eq.cons = s.host.eq.cons := by
  unfold State.eqPut; dsimp only; split <;> simp
@[simp] theorem State.eqPut_intrEn (s : State) (b : List Byte) : (s.eqPut b).host.eq.intrEn = s.host.eq.intrEn := by
  unfold State.eqPut; dsimp only; split <;> simp
@[simp] theorem State.eqPut_lost (s : State) (b : List Byte) : (s.eqPut b).host.eq.lost = s.host.eq.lost := by
  unfold State.eqPut; dsimp only; split <;> simp
@[simp] theorem State.eqPut_lostRun (s : State) (b : List Byte) : (s.eqPut b).host.eq.lostRun = s.host.eq.lostRun := by
  unfold State.eqPut; dsimp only; split <;> simp
@[simp] theorem State.eqPut_overflow (s : State) (b : List Byte) : (s.eqPut b).host.eq.overflow = s.host.eq.overflow := by
  unfold State.eqPut; dsimp only; split <;> simp

/-- The event queue after an event. -/
theorem State.postT_eq (s : State) (code kind id : Nat) (d : List Byte) (t : LogTag) :
    (s.postT code kind id d t).host.eq = (s.eqEvent code kind id d).host.eq := rfl
theorem State.post_eq (s : State) (code kind id : Nat) (d : List Byte) :
    (s.post code kind id d).host.eq = (s.eqEvent code kind id d).host.eq := rfl

/-- The queue has room: the entry stands at EQ_PROD, which advances; nothing is lost. -/
theorem State.eqEvent_room (s : State) (code kind id : Nat) (d : List Byte) (h : s.host.eq.full = false) :
    (s.eqEvent code kind id d).host.eq =
      { s.host.eq with entries := s.host.eq.entries.set s.host.eq.prod (eventBytes code (severityOf code d) kind id s.now d), prod := (s.host.eq.prod + 1) % 512 } := by
  unfold State.eqEvent State.eqPut
  simp only [h, Bool.false_eq_true, if_false]
  split <;> simp

/-- The queue is full: the event is counted. -/
theorem State.eqEvent_full (s : State) (code kind id : Nat) (d : List Byte) (h : s.host.eq.full = true) :
    (s.eqEvent code kind id d).host.eq =
      { s.host.eq with lost := sat32 s.host.eq.lost 1, overflow := true, lostRun := s.host.eq.lostRun + 1 } := by
  unfold State.eqEvent; simp [h]

/-- The log entry of an event. -/
theorem State.postT_log (s : State) (code kind id : Nat) (d : List Byte) (t : LogTag) :
    (s.postT code kind id d t).flt.logNext = s.flt.logNext + 1 ∧
    ∃ e, (s.postT code kind id d t).flt.log = (e :: s.flt.log).take mainCap ∧ e.number = s.flt.logNext ∧ e.code = code ∧ e.kind = kind ∧ e.id = id ∧
      e.time = s.now ∧ e.detail = padTo 16 d ∧ e.cls = t.cls ∧ e.action = t.action ∧ e.part = t.part := by
  unfold State.postT State.logWrite
  simp only [State.eqEvent_flt, State.eqEvent_now, State.eqEvent_fw]
  exact ⟨trivial, _, rfl, rfl, rfl, rfl, rfl, rfl, rfl, rfl, rfl, rfl⟩

theorem State.post_log (s : State) (code kind id : Nat) (d : List Byte) :
    (s.post code kind id d).flt.logNext = s.flt.logNext + 1 ∧
    ∃ e, (s.post code kind id d).flt.log = (e :: s.flt.log).take mainCap ∧ e.number = s.flt.logNext ∧ e.code = code ∧ e.kind = kind ∧ e.id = id ∧
      e.time = s.now ∧ e.detail = padTo 16 d := by
  obtain ⟨h1, e, h2, h3, h4, h5, h6, h7, h8, _⟩ := s.postT_log code kind id d {}
  exact ⟨h1, e, h2, h3, h4, h5, h6, h7, h8⟩

end Sys2Proof.Machine
end

