-- ==== Sys2Proof/Laws/Mail.lean ====
section
/-! SUPPORT. Laws of the mailbox transport (R34-R36): what one run of a mailbox command does, and what an answer leaves in the
mailbox. -/

namespace Sys2Proof.Machine

theorem State.reqCheck_layout (s : State) (r : Req) (vfOk : Bool) (layout : Req → Bool)
    (h : s.reqCheck r vfOk (fun _ => true) = none) :
    s.reqCheck r vfOk layout = if layout r then none else some St.badArg := by
  unfold State.reqCheck at *
  cases hp : (s.power.phase == 2 && r.code / 256 != 1 && r.code / 256 != 0x0E) <;> cases hl : layout r <;> cases hv : r.vf with
  | none => simp_all
  | some v => cases ht : s.tenantOpen v <;> cases vfOk <;> simp_all

theorem State.reqCheck_early (s : State) (r : Req) (vfOk : Bool) (layout : Req → Bool) (st : Nat)
    (h : s.reqCheck r vfOk (fun _ => true) = some st) : s.reqCheck r vfOk layout = some st := by
  unfold State.reqCheck at *
  repeat' split at h <;> simp_all

/-- A run of a command whose request passes every check: the body's answer is written. -/
theorem State.mbRun_ok {s : State} {m : Mb} {code : Nat} {vfOk : Bool} {r : Req} (layout : Req → Bool) (body : State → Req → State × Resp)
    (h : s.runs m code vfOk = some r) (hl : layout r = true) :
    s.mbRun m code vfOk layout body = (body (s.taken m) r).1.respond m code r.tag (body (s.taken m) r).2 := by
  unfold State.runs at h
  split at h
  · cases h
  · rename_i q hq
    simp only [Bool.and_eq_true, Option.ite_none_right_eq_some, Option.some.injEq] at h
    obtain ⟨⟨⟨⟨hc, hm⟩, hd⟩, hk⟩, rfl⟩ := h
    have hk := Option.isNone_iff_eq_none.1 hk
    have h2 := State.reqCheck_layout _ _ vfOk layout hk
    simp only [hl, if_true] at h2
    unfold State.mbRun
    simp only [hq]
    have hc' := eq_of_beq hc
    have hd' : q.discard = false := by simpa using hd
    have h3 := h2
    unfold State.taken at h3
    simp [hm, hd', State.taken, h3, hc']

/-- A run of a command whose request fails check 6 of R36. -/
theorem State.mbRun_layout {s : State} {m : Mb} {code : Nat} {vfOk : Bool} {r : Req} (layout : Req → Bool) (body : State → Req → State × Resp)
    (h : s.runs m code vfOk = some r) (hl : layout r = false) :
    s.mbRun m code vfOk layout body = (s.taken m).respond m code r.tag { status := St.badArg } := by
  unfold State.runs at h
  split at h
  · cases h
  · rename_i q hq
    simp only [Bool.and_eq_true, Option.ite_none_right_eq_some, Option.some.injEq] at h
    obtain ⟨⟨⟨⟨hc, hm⟩, hd⟩, hk⟩, rfl⟩ := h
    have hk := Option.isNone_iff_eq_none.1 hk
    have h2 := State.reqCheck_layout _ _ vfOk layout hk
    simp only [hl] at h2
    unfold State.mbRun
    simp only [hq]
    have hc' := eq_of_beq hc
    have hd' : q.discard = false := by simpa using hd
    have h3 := h2
    unfold State.taken at h3
    simp [hm, hd', State.taken, h3, hc']

/-- A run of a command whose request fails check 3, 4 or 5 of R36. -/
theorem State.mbRun_stopped {s : State} {m : Mb} {code : Nat} {vfOk : Bool} {r : Req} {st : Nat} (layout : Req → Bool)
    (body : State → Req → State × Resp) (h : s.stopped m code vfOk = some (r, st)) :
    s.mbRun m code vfOk layout body = (s.taken m).respond m code r.tag { status := st } := by
  unfold State.stopped at h
  split at h
  · cases h
  · rename_i q hq
    simp only [Bool.and_eq_true, Option.ite_none_right_eq_some, Option.map_eq_some_iff, Prod.mk.injEq] at h
    obtain ⟨⟨⟨hc, hm⟩, hd⟩, a, hk, rfl, rfl⟩ := h
    have h2 := State.reqCheck_early _ _ vfOk layout _ hk
    unfold State.mbRun
    simp only [hq]
    have hc' := eq_of_beq hc
    have hd' : q.discard = false := by simpa using hd
    have h3 := h2
    unfold State.taken at h3
    simp [hm, hd', State.taken, h3, hc']

@[simp] theorem State.mbox_updMbox (s : State) (m : Mb) (f : Mailbox → Mailbox) : (s.updMbox m f).mbox m = f (s.mbox m) := by
  obtain ⟨g, i⟩ := m
  cases g <;> simp [State.updMbox, State.mbox]

@[simp] theorem State.mbox_raiseVec (s : State) (g : Fn) (i : Nat) (m : Mb) : (s.raiseVec g i).mbox m = s.mbox m := by
  obtain ⟨f, j⟩ := m
  cases f <;> simp [State.mbox]

@[simp] theorem State.mbox_updVf (s : State) (v : Nat) (f : Vf → Vf) (m : Mb) : (s.updVf v f).mbox m = s.mbox m := rfl

/-- An answer before its interrupt: response area, status and done bit (rule 4 of R34). -/
def State.answerIn (s : State) (m : Mb) (code tag : Nat) (x : Resp) : State :=
  let s1 := s.updMbox m fun b =>
    { b with resp := respBytes s.broup code tag x, state := 2, status := x.status, doneCount := (b.doneCount + 1) % 65536 }
  match m.fn with
  | .pf => { s1 with host.pfDone := insertNat s1.host.pfDone m.idx }
  | .vf v => s1.updVf v fun y => { y with mbDone := insertNat y.mbDone m.idx }

theorem State.respond_eq (s : State) (m : Mb) (code tag : Nat) (x : Resp) :
    s.respond m code tag x =
      if ((s.answerIn m code tag x).mbox m).intrEn then (s.answerIn m code tag x).raiseVec m.fn 0 else s.answerIn m code tag x := rfl

theorem State.answerIn_mbox (s : State) (m : Mb) (code tag : Nat) (x : Resp) :
    (s.answerIn m code tag x).mbox m = { s.mbox m with resp := respBytes s.broup code tag x, state := 2, status := x.status, doneCount := ((s.mbox m).doneCount + 1) % 65536 } := by
  obtain ⟨g, i⟩ := m
  cases g <;> simp [State.answerIn, State.mbox, State.updMbox, State.updVf]

/-- Rule 4 of R34: the mailbox after an answer. -/
theorem State.respond_mbox (s : State) (m : Mb) (code tag : Nat) (x : Resp) :
    (s.respond m code tag x).mbox m = { s.mbox m with resp := respBytes s.broup code tag x, state := 2, status := x.status, doneCount := ((s.mbox m).doneCount + 1) % 65536 } := by
  rw [State.respond_eq]
  split <;> simp [State.answerIn_mbox]

/-! Taking a request changes Mason's input buffer alone. -/

@[simp] theorem State.taken_pending (s : State) (m : Mb) : (s.taken m).pending = s.pending := rfl
@[simp] theorem State.taken_now (s : State) (m : Mb) : (s.taken m).now = s.now := rfl
@[simp] theorem State.taken_idleTicks (s : State) (m : Mb) : (s.taken m).idleTicks = s.idleTicks := rfl
@[simp] theorem State.taken_freeIdx (s : State) (m : Mb) : (s.taken m).freeIdx = s.freeIdx := rfl
@[simp] theorem State.taken_host (s : State) (m : Mb) : (s.taken m).host = s.host := rfl
@[simp] theorem State.taken_parts (s : State) (m : Mb) : (s.taken m).parts = s.parts := rfl
@[simp] theorem State.taken_plans (s : State) (m : Mb) : (s.taken m).plans = s.plans := rfl
@[simp] theorem State.taken_lastPlan (s : State) (m : Mb) : (s.taken m).lastPlan = s.lastPlan := rfl
@[simp] theorem State.taken_courses (s : State) (m : Mb) : (s.taken m).courses = s.courses := rfl
@[simp] theorem State.taken_tiles (s : State) (m : Mb) : (s.taken m).tiles = s.tiles := rfl
@[simp] theorem State.taken_piers (s : State) (m : Mb) : (s.taken m).piers = s.piers := rfl
@[simp] theorem State.taken_mem (s : State) (m : Mb) : (s.taken m).mem = s.mem := rfl
@[simp] theorem State.taken_ctxs (s : State) (m : Mb) : (s.taken m).ctxs = s.ctxs := rfl
@[simp] theorem State.taken_nextOrder (s : State) (m : Mb) : (s.taken m).nextOrder = s.nextOrder := rfl
@[simp] theorem State.taken_trowel (s : State) (m : Mb) : (s.taken m).trowel = s.trowel := rfl
@[simp] theorem State.taken_power (s : State) (m : Mb) : (s.taken m).power = s.power := rfl
@[simp] theorem State.taken_therm (s : State) (m : Mb) : (s.taken m).therm = s.therm := rfl
@[simp] theorem State.taken_flt (s : State) (m : Mb) : (s.taken m).flt = s.flt := rfl
@[simp] theorem State.taken_fab (s : State) (m : Mb) : (s.taken m).fab = s.fab := rfl
@[simp] theorem State.taken_twin (s : State) (m : Mb) : (s.taken m).twin = s.twin := rfl
@[simp] theorem State.taken_sec (s : State) (m : Mb) : (s.taken m).sec = s.sec := rfl
@[simp] theorem State.taken_fw (s : State) (m : Mb) : (s.taken m).fw = s.fw := rfl
@[simp] theorem State.taken_mason_lastOp (s : State) (m : Mb) : (s.taken m).mason.lastOp = s.mason.lastOp := rfl
@[simp] theorem State.taken_mason_ops (s : State) (m : Mb) : (s.taken m).mason.ops = s.mason.ops := rfl
@[simp] theorem State.taken_mason_paused (s : State) (m : Mb) : (s.taken m).mason.paused = s.mason.paused := rfl

/-! What is read of the state after a request is taken. -/

@[simp] theorem State.taken_get_part (s : State) (m : Mb) (i : Nat) : (s.taken m).part? i = s.part? i := rfl
@[simp] theorem State.taken_get_ctx (s : State) (m : Mb) (i : Nat) : (s.taken m).ctx? i = s.ctx? i := rfl
@[simp] theorem State.taken_get_plan (s : State) (m : Mb) (i : Nat) : (s.taken m).plan? i = s.plan? i := rfl
@[simp] theorem State.taken_get_course (s : State) (m : Mb) (i : Nat) : (s.taken m).course i = s.course i := rfl
@[simp] theorem State.taken_get_tile (s : State) (m : Mb) (i : Nat) : (s.taken m).tile i = s.tile i := rfl
@[simp] theorem State.taken_get_pier (s : State) (m : Mb) (i : Nat) : (s.taken m).pier i = s.pier i := rfl
@[simp] theorem State.taken_get_chan (s : State) (m : Mb) (i : Nat) : (s.taken m).chan i = s.chan i := rfl
@[simp] theorem State.taken_get_vf (s : State) (m : Mb) (i : Nat) : (s.taken m).vf i = s.vf i := rfl
@[simp] theorem State.taken_get_ring (s : State) (m : Mb) (i j : Nat) : (s.taken m).ring i j = s.ring i j := rfl
@[simp] theorem State.taken_get_core (s : State) (m : Mb) (i : Nat) : (s.taken m).core i = s.core i := rfl
@[simp] theorem State.taken_get_port (s : State) (m : Mb) (i : Nat) : (s.taken m).port i = s.port i := rfl
@[simp] theorem State.taken_get_stack (s : State) (m : Mb) (i : Nat) : (s.taken m).stack i = s.stack i := rfl
@[simp] theorem State.taken_get_unit (s : State) (m : Mb) (i j : Nat) : (s.taken m).unit i j = s.unit i j := rfl
@[simp] theorem State.taken_get_cbuf (s : State) (m : Mb) (i : Nat) : (s.taken m).cbuf i = s.cbuf i := rfl
@[simp] theorem State.taken_get_held (s : State) (m : Mb) (o : Obj) : (s.taken m).held o = s.held o := rfl
@[simp] theorem State.taken_get_tenantOpen (s : State) (m : Mb) (i : Nat) : (s.taken m).tenantOpen i = s.tenantOpen i := rfl
@[simp] theorem State.taken_get_broup (s : State) (m : Mb) : (s.taken m).broup = s.broup := rfl
@[simp] theorem State.taken_get_multi (s : State) (m : Mb) : (s.taken m).multi = s.multi := rfl
@[simp] theorem State.taken_get_profile (s : State) (m : Mb) : (s.taken m).profile = s.profile := rfl
@[simp] theorem State.taken_get_safeCauses (s : State) (m : Mb) : (s.taken m).safeCauses = s.safeCauses := rfl
@[simp] theorem State.taken_get_up (s : State) (m : Mb) : (s.taken m).up = s.up := rfl
@[simp] theorem State.taken_get_ready (s : State) (m : Mb) : (s.taken m).ready = s.ready := rfl
@[simp] theorem State.taken_get_working (s : State) (m : Mb) : (s.taken m).working = s.working := rfl
@[simp] theorem State.taken_get_masonRuns (s : State) (m : Mb) : (s.taken m).masonRuns = s.masonRuns := rfl
@[simp] theorem State.taken_get_moduleIdWord (s : State) (m : Mb) : (s.taken m).moduleIdWord = s.moduleIdWord := rfl
@[simp] theorem State.taken_get_op (s : State) (m : Mb) (i : Nat) : (s.taken m).op? i = s.op? i := rfl
@[simp] theorem State.taken_get_since (s : State) (m : Mb) (t : Tick) : (s.taken m).since t = s.since t := rfl
@[simp] theorem State.taken_get_physAddr (s : State) (m : Mb) (i o : Nat) : (s.taken m).physAddr i o = s.physAddr i o := rfl
@[simp] theorem State.taken_get_frameOf (s : State) (m : Mb) (i o : Nat) : (s.taken m).frameOf i o = s.frameOf i o := rfl
@[simp] theorem State.taken_get_mbox (s : State) (m : Mb) (k : Mb) : (s.taken m).mbox k = s.mbox k := rfl
@[simp] theorem State.taken_get_vector (s : State) (m : Mb) (f : Fn) (i : Nat) : (s.taken m).vector f i = s.vector f i := rfl
@[simp] theorem State.taken_get_modState (s : State) (m : Mb) : (s.taken m).modState = s.modState := rfl
@[simp] theorem State.taken_get_slotsBound (s : State) (m : Mb) (i : Nat) : (s.taken m).slotsBound i = s.slotsBound i := rfl
@[simp] theorem State.taken_get_ownId (s : State) (m : Mb) : (s.taken m).ownId = s.ownId := rfl
@[simp] theorem State.taken_get_hostReadN (s : State) (m : Mb) (a n : Nat) : (s.taken m).hostReadN a n = s.hostReadN a n := rfl

/-- The answer of a run, from what the command's body answers. -/
theorem State.mbRun_answer {s t : State} {m : Mb} {code : Nat} {vfOk : Bool} {r : Req} {layout : Req → Bool} {body : State → Req → State × Resp}
    {x : Resp} (h : s.runs m code vfOk = some r) (hl : layout r = true) (hb : body (s.taken m) r = (t, x)) :
    (Host.Outcome.next (s.mbRun m code vfOk layout body) : Out) = .next (t.respond m code r.tag x) := by
  rw [State.mbRun_ok layout body h hl, hb]

/-! An answer leaves all but the host interface as it was. -/

@[simp] theorem State.answerIn_pending (s : State) (m : Mb) (c g : Nat) (x : Resp) : (s.answerIn m c g x).pending = s.pending := by
  obtain ⟨f, i⟩ := m
  cases f <;> rfl
@[simp] theorem State.respond_pending (s : State) (m : Mb) (c g : Nat) (x : Resp) : (s.respond m c g x).pending = s.pending := by
  rw [State.respond_eq]
  split <;> simp
@[simp] theorem State.answerIn_now (s : State) (m : Mb) (c g : Nat) (x : Resp) : (s.answerIn m c g x).now = s.now := by
  obtain ⟨f, i⟩ := m
  cases f <;> rfl
@[simp] theorem State.respond_now (s : State) (m : Mb) (c g : Nat) (x : Resp) : (s.respond m c g x).now = s.now := by
  rw [State.respond_eq]
  split <;> simp
@[simp] theorem State.answerIn_idleTicks (s : State) (m : Mb) (c g : Nat) (x : Resp) : (s.answerIn m c g x).idleTicks = s.idleTicks := by
  obtain ⟨f, i⟩ := m
  cases f <;> rfl
@[simp] theorem State.respond_idleTicks (s : State) (m : Mb) (c g : Nat) (x : Resp) : (s.respond m c g x).idleTicks = s.idleTicks := by
  rw [State.respond_eq]
  split <;> simp
@[simp] theorem State.answerIn_freeIdx (s : State) (m : Mb) (c g : Nat) (x : Resp) : (s.answerIn m c g x).freeIdx = s.freeIdx := by
  obtain ⟨f, i⟩ := m
  cases f <;> rfl
@[simp] theorem State.respond_freeIdx (s : State) (m : Mb) (c g : Nat) (x : Resp) : (s.respond m c g x).freeIdx = s.freeIdx := by
  rw [State.respond_eq]
  split <;> simp
@[simp] theorem State.answerIn_mason (s : State) (m : Mb) (c g : Nat) (x : Resp) : (s.answerIn m c g x).mason = s.mason := by
  obtain ⟨f, i⟩ := m
  cases f <;> rfl
@[simp] theorem State.respond_mason (s : State) (m : Mb) (c g : Nat) (x : Resp) : (s.respond m c g x).mason = s.mason := by
  rw [State.respond_eq]
  split <;> simp
@[simp] theorem State.answerIn_parts (s : State) (m : Mb) (c g : Nat) (x : Resp) : (s.answerIn m c g x).parts = s.parts := by
  obtain ⟨f, i⟩ := m
  cases f <;> rfl
@[simp] theorem State.respond_parts (s : State) (m : Mb) (c g : Nat) (x : Resp) : (s.respond m c g x).parts = s.parts := by
  rw [State.respond_eq]
  split <;> simp
@[simp] theorem State.answerIn_plans (s : State) (m : Mb) (c g : Nat) (x : Resp) : (s.answerIn m c g x).plans = s.plans := by
  obtain ⟨f, i⟩ := m
  cases f <;> rfl
@[simp] theorem State.respond_plans (s : State) (m : Mb) (c g : Nat) (x : Resp) : (s.respond m c g x).plans = s.plans := by
  rw [State.respond_eq]
  split <;> simp
@[simp] theorem State.answerIn_lastPlan (s : State) (m : Mb) (c g : Nat) (x : Resp) : (s.answerIn m c g x).lastPlan = s.lastPlan := by
  obtain ⟨f, i⟩ := m
  cases f <;> rfl
@[simp] theorem State.respond_lastPlan (s : State) (m : Mb) (c g : Nat) (x : Resp) : (s.respond m c g x).lastPlan = s.lastPlan := by
  rw [State.respond_eq]
  split <;> simp
@[simp] theorem State.answerIn_courses (s : State) (m : Mb) (c g : Nat) (x : Resp) : (s.answerIn m c g x).courses = s.courses := by
  obtain ⟨f, i⟩ := m
  cases f <;> rfl
@[simp] theorem State.respond_courses (s : State) (m : Mb) (c g : Nat) (x : Resp) : (s.respond m c g x).courses = s.courses := by
  rw [State.respond_eq]
  split <;> simp
@[simp] theorem State.answerIn_tiles (s : State) (m : Mb) (c g : Nat) (x : Resp) : (s.answerIn m c g x).tiles = s.tiles := by
  obtain ⟨f, i⟩ := m
  cases f <;> rfl
@[simp] theorem State.respond_tiles (s : State) (m : Mb) (c g : Nat) (x : Resp) : (s.respond m c g x).tiles = s.tiles := by
  rw [State.respond_eq]
  split <;> simp
@[simp] theorem State.answerIn_piers (s : State) (m : Mb) (c g : Nat) (x : Resp) : (s.answerIn m c g x).piers = s.piers := by
  obtain ⟨f, i⟩ := m
  cases f <;> rfl
@[simp] theorem State.respond_piers (s : State) (m : Mb) (c g : Nat) (x : Resp) : (s.respond m c g x).piers = s.piers := by
  rw [State.respond_eq]
  split <;> simp
@[simp] theorem State.answerIn_mem (s : State) (m : Mb) (c g : Nat) (x : Resp) : (s.answerIn m c g x).mem = s.mem := by
  obtain ⟨f, i⟩ := m
  cases f <;> rfl
@[simp] theorem State.respond_mem (s : State) (m : Mb) (c g : Nat) (x : Resp) : (s.respond m c g x).mem = s.mem := by
  rw [State.respond_eq]
  split <;> simp
@[simp] theorem State.answerIn_ctxs (s : State) (m : Mb) (c g : Nat) (x : Resp) : (s.answerIn m c g x).ctxs = s.ctxs := by
  obtain ⟨f, i⟩ := m
  cases f <;> rfl
@[simp] theorem State.respond_ctxs (s : State) (m : Mb) (c g : Nat) (x : Resp) : (s.respond m c g x).ctxs = s.ctxs := by
  rw [State.respond_eq]
  split <;> simp
@[simp] theorem State.answerIn_nextOrder (s : State) (m : Mb) (c g : Nat) (x : Resp) : (s.answerIn m c g x).nextOrder = s.nextOrder := by
  obtain ⟨f, i⟩ := m
  cases f <;> rfl
@[simp] theorem State.respond_nextOrder (s : State) (m : Mb) (c g : Nat) (x : Resp) : (s.respond m c g x).nextOrder = s.nextOrder := by
  rw [State.respond_eq]
  split <;> simp
@[simp] theorem State.answerIn_trowel (s : State) (m : Mb) (c g : Nat) (x : Resp) : (s.answerIn m c g x).trowel = s.trowel := by
  obtain ⟨f, i⟩ := m
  cases f <;> rfl
@[simp] theorem State.respond_trowel (s : State) (m : Mb) (c g : Nat) (x : Resp) : (s.respond m c g x).trowel = s.trowel := by
  rw [State.respond_eq]
  split <;> simp
@[simp] theorem State.answerIn_power (s : State) (m : Mb) (c g : Nat) (x : Resp) : (s.answerIn m c g x).power = s.power := by
  obtain ⟨f, i⟩ := m
  cases f <;> rfl
@[simp] theorem State.respond_power (s : State) (m : Mb) (c g : Nat) (x : Resp) : (s.respond m c g x).power = s.power := by
  rw [State.respond_eq]
  split <;> simp
@[simp] theorem State.answerIn_therm (s : State) (m : Mb) (c g : Nat) (x : Resp) : (s.answerIn m c g x).therm = s.therm := by
  obtain ⟨f, i⟩ := m
  cases f <;> rfl
@[simp] theorem State.respond_therm (s : State) (m : Mb) (c g : Nat) (x : Resp) : (s.respond m c g x).therm = s.therm := by
  rw [State.respond_eq]
  split <;> simp
@[simp] theorem State.answerIn_flt (s : State) (m : Mb) (c g : Nat) (x : Resp) : (s.answerIn m c g x).flt = s.flt := by
  obtain ⟨f, i⟩ := m
  cases f <;> rfl
@[simp] theorem State.respond_flt (s : State) (m : Mb) (c g : Nat) (x : Resp) : (s.respond m c g x).flt = s.flt := by
  rw [State.respond_eq]
  split <;> simp
@[simp] theorem State.answerIn_fab (s : State) (m : Mb) (c g : Nat) (x : Resp) : (s.answerIn m c g x).fab = s.fab := by
  obtain ⟨f, i⟩ := m
  cases f <;> rfl
@[simp] theorem State.respond_fab (s : State) (m : Mb) (c g : Nat) (x : Resp) : (s.respond m c g x).fab = s.fab := by
  rw [State.respond_eq]
  split <;> simp
@[simp] theorem State.answerIn_twin (s : State) (m : Mb) (c g : Nat) (x : Resp) : (s.answerIn m c g x).twin = s.twin := by
  obtain ⟨f, i⟩ := m
  cases f <;> rfl
@[simp] theorem State.respond_twin (s : State) (m : Mb) (c g : Nat) (x : Resp) : (s.respond m c g x).twin = s.twin := by
  rw [State.respond_eq]
  split <;> simp
@[simp] theorem State.answerIn_sec (s : State) (m : Mb) (c g : Nat) (x : Resp) : (s.answerIn m c g x).sec = s.sec := by
  obtain ⟨f, i⟩ := m
  cases f <;> rfl
@[simp] theorem State.respond_sec (s : State) (m : Mb) (c g : Nat) (x : Resp) : (s.respond m c g x).sec = s.sec := by
  rw [State.respond_eq]
  split <;> simp
@[simp] theorem State.answerIn_fw (s : State) (m : Mb) (c g : Nat) (x : Resp) : (s.answerIn m c g x).fw = s.fw := by
  obtain ⟨f, i⟩ := m
  cases f <;> rfl
@[simp] theorem State.respond_fw (s : State) (m : Mb) (c g : Nat) (x : Resp) : (s.respond m c g x).fw = s.fw := by
  rw [State.respond_eq]
  split <;> simp

end Sys2Proof.Machine
end

