-- ==== Sys2Proof/Laws/Objects.lean ====
section
/-! SUPPORT. Reading a record after it, or another, was changed; and what a fold of changes keeps. -/

namespace Sys2Proof.Machine

/-- What each change keeps, a fold of changes keeps. -/
theorem foldl_keeps {β γ : Type} (g : State → β → State) (φ : State → γ) (h : ∀ s x, φ (g s x) = φ s) (l : List β) :
    ∀ s, φ (l.foldl g s) = φ s := by
  induction l with
  | nil => intro s; rfl
  | cons x l ih => intro s; rw [List.foldl_cons, ih, h]

/-- As `foldl_keeps`, under a condition that the changes keep. -/
theorem foldl_keeps_if {β γ : Type} (g : State → β → State) (φ : State → γ) (P : State → Prop) (h : ∀ s x, P s → φ (g s x) = φ s)
    (h2 : ∀ s x, P s → P (g s x)) (l : List β) : ∀ s, P s → φ (l.foldl g s) = φ s := by
  induction l with
  | nil => intro s _; rfl
  | cons x l ih => intro s hs; rw [List.foldl_cons, ih _ (h2 s x hs), h s x hs]

@[simp] theorem State.updCourse_course_self (s : State) (i : Nat) (f : Course → Course) : (s.updCourse i f).course i = f (s.course i) := by
  simp [State.updCourse, State.course]
theorem State.updCourse_course_ne (s : State) {i j : Nat} (f : Course → Course) (h : j ≠ i) : (s.updCourse i f).course j = s.course j := by
  simp [State.updCourse, State.course, Tbl.get_upd_ne _ _ _ (Ne.symm h)]
@[simp] theorem State.updTile_tile_self (s : State) (i : Nat) (f : Tile → Tile) : (s.updTile i f).tile i = f (s.tile i) := by
  simp [State.updTile, State.tile]
theorem State.updTile_tile_ne (s : State) {i j : Nat} (f : Tile → Tile) (h : j ≠ i) : (s.updTile i f).tile j = s.tile j := by
  simp [State.updTile, State.tile, Tbl.get_upd_ne _ _ _ (Ne.symm h)]
@[simp] theorem State.updPier_pier_self (s : State) (i : Nat) (f : Pier → Pier) : (s.updPier i f).pier i = f (s.pier i) := by
  simp [State.updPier, State.pier]
theorem State.updPier_pier_ne (s : State) {i j : Nat} (f : Pier → Pier) (h : j ≠ i) : (s.updPier i f).pier j = s.pier j := by
  simp [State.updPier, State.pier, Tbl.get_upd_ne _ _ _ (Ne.symm h)]
@[simp] theorem State.updChan_chan_self (s : State) (i : Nat) (f : Channel → Channel) : (s.updChan i f).chan i = f (s.chan i) := by
  simp [State.updChan, State.chan]
theorem State.updChan_chan_ne (s : State) {i j : Nat} (f : Channel → Channel) (h : j ≠ i) : (s.updChan i f).chan j = s.chan j := by
  simp [State.updChan, State.chan, Tbl.get_upd_ne _ _ _ (Ne.symm h)]
@[simp] theorem State.updVf_vf_self (s : State) (i : Nat) (f : Vf → Vf) : (s.updVf i f).vf i = f (s.vf i) := by
  simp [State.updVf, State.vf]
theorem State.updVf_vf_ne (s : State) {i j : Nat} (f : Vf → Vf) (h : j ≠ i) : (s.updVf i f).vf j = s.vf j := by
  simp [State.updVf, State.vf, Tbl.get_upd_ne _ _ _ (Ne.symm h)]
@[simp] theorem State.updCore_core_self (s : State) (i : Nat) (f : Core → Core) : (s.updCore i f).core i = f (s.core i) := by
  simp [State.updCore, State.core]
theorem State.updCore_core_ne (s : State) {i j : Nat} (f : Core → Core) (h : j ≠ i) : (s.updCore i f).core j = s.core j := by
  simp [State.updCore, State.core, Tbl.get_upd_ne _ _ _ (Ne.symm h)]
@[simp] theorem State.updPort_port_self (s : State) (i : Nat) (f : FPort → FPort) : (s.updPort i f).port i = f (s.port i) := by
  simp [State.updPort, State.port]
theorem State.updPort_port_ne (s : State) {i j : Nat} (f : FPort → FPort) (h : j ≠ i) : (s.updPort i f).port j = s.port j := by
  simp [State.updPort, State.port, Tbl.get_upd_ne _ _ _ (Ne.symm h)]
@[simp] theorem State.updStack_stack_self (s : State) (i : Nat) (f : Stack → Stack) : (s.updStack i f).stack i = f (s.stack i) := by
  simp [State.updStack, State.stack]
theorem State.updStack_stack_ne (s : State) {i j : Nat} (f : Stack → Stack) (h : j ≠ i) : (s.updStack i f).stack j = s.stack j := by
  simp [State.updStack, State.stack, Tbl.get_upd_ne _ _ _ (Ne.symm h)]
@[simp] theorem State.updCbuf_cbuf_self (s : State) (i : Nat) (f : Sram → Sram) : (s.updCbuf i f).cbuf i = f (s.cbuf i) := by
  simp [State.updCbuf, State.cbuf]
theorem State.updCbuf_cbuf_ne (s : State) {i j : Nat} (f : Sram → Sram) (h : j ≠ i) : (s.updCbuf i f).cbuf j = s.cbuf j := by
  simp [State.updCbuf, State.cbuf, Tbl.get_upd_ne _ _ _ (Ne.symm h)]
@[simp] theorem State.updPart_part_self (s : State) (i : Nat) (f : Part → Part) : (s.updPart i f).part? i = (s.part? i).map f := by
  unfold State.updPart State.part?
  split <;> rename_i h <;> simp [h]
theorem State.updPart_part_ne (s : State) {i j : Nat} (f : Part → Part) (h : j ≠ i) : (s.updPart i f).part? j = s.part? j := by
  unfold State.updPart State.part?
  split
  · exact Tbl.find?_set_ne _ _ (Ne.symm h)
  · rfl
@[simp] theorem State.updCtx_ctx_self (s : State) (i : Nat) (f : Ctx → Ctx) : (s.updCtx i f).ctx? i = (s.ctx? i).map f := by
  unfold State.updCtx State.ctx?
  split <;> rename_i h <;> simp [h]
theorem State.updCtx_ctx_ne (s : State) {i j : Nat} (f : Ctx → Ctx) (h : j ≠ i) : (s.updCtx i f).ctx? j = s.ctx? j := by
  unfold State.updCtx State.ctx?
  split
  · exact Tbl.find?_set_ne _ _ (Ne.symm h)
  · rfl

@[simp] theorem State.updUnit_unit_self (s : State) (k i : Nat) (f : Unit → Unit) : (s.updUnit k i f).unit k i = f (s.unit k i) := by
  simp [State.updUnit, State.unit]
@[simp] theorem State.updRing_ring_self (s : State) (v i : Nat) (f : Ring → Ring) : (s.updRing v i f).ring v i = f (s.ring v i) := by
  simp [State.updRing, State.ring, State.vf, State.updVf]
theorem State.updRing_ring_ne (s : State) (v : Nat) {i j : Nat} (f : Ring → Ring) (h : j ≠ i) : (s.updRing v i f).ring v j = s.ring v j := by
  simp [State.updRing, State.ring, State.vf, State.updVf, Tbl.get_upd_ne _ _ _ (Ne.symm h)]
@[simp] theorem State.updEntry_entry_self (s : State) (f : Fn) (n : Nat) (g : Entry → Entry) : (s.updEntry f n g).entry f n = g (s.entry f n) := by
  cases f <;> simp [State.updEntry, State.entry]
theorem State.updEntry_entry_ne (s : State) (f : Fn) {n k : Nat} (g : Entry → Entry) (h : k ≠ n) : (s.updEntry f n g).entry f k = s.entry f k := by
  cases f with
  | pf => simp [State.updEntry, State.entry, Tbl.get_upd_ne _ _ _ (Ne.symm h)]
  | vf v => simp [State.updEntry, State.entry, Tbl.get_upd_ne _ _ _ (show v * 768 + n ≠ v * 768 + k by omega)]

/-- A request whose length and zero fields are as its table says passes its layout check. -/
theorem lenIs_ok {n : Nat} {l : List (Nat × Nat)} {r : Req} (h : r.len = n) (h2 : ∀ p ∈ l, field r.pay p.1 p.2 = 0) : lenIs n l r = true := by
  simp only [lenIs, h, beq_self_eq_true, Bool.true_and, List.all_eq_true, beq_iff_eq]; exact h2

/-- A power request that is due finds nothing to apply on a Course without requests. -/
theorem State.applyDue_nil (s : State) (c : Nat) (bp : Bool) (h : (s.course c).reqs = []) : s.applyDue c bp = s := by
  unfold State.applyDue; simp [h, sortBy]
theorem State.foldl_applyDue_nil (bp : Bool) (l : List Nat) (s : State) (h : ∀ k ∈ l, (s.course k).reqs = []) :
    l.foldl (fun s k => s.applyDue k bp) s = s := by
  induction l with
  | nil => rfl
  | cons k l ih => rw [List.foldl_cons, State.applyDue_nil _ _ _ (h k (by simp))]; exact ih (fun j hj => h j (by simp [hj]))

/-- Freeing pages changes the frame tables and HBM alone. -/
theorem State.freePages_keeps {γ : Type} (φ : State → γ) (h : ∀ s x y, φ { s with mem.frames := x, mem.hbm := y } = φ s) (t : Nat) (n : Nat) :
    ∀ (s : State) (pg : Nat), φ (s.freePages t pg n) = φ s := by
  induction n with
  | zero => intro s pg; rfl
  | succ n ih =>
    intro s pg; unfold State.freePages; dsimp only; rw [ih]
    split
    · exact h ..
    · rfl

/-- Writing bytes of a tenant's space changes HBM alone. -/
theorem State.hbmWriteN_keeps {γ : Type} (φ : State → γ) (hφ : ∀ s x, φ { s with mem.hbm := x } = φ s) (t : Nat) (bs : List Byte) :
    ∀ (s : State) (o : Nat), φ (s.hbmWriteN t o bs) = φ s := by
  induction bs with
  | nil => intro s o; rfl
  | cons b bs ih =>
    intro s o; unfold State.hbmWriteN; rw [ih]
    unfold State.hbmWrite
    split
    · exact hφ ..
    · rfl

/-- The end of a waiting management operation (R39): it leaves the list and COMMAND_DONE carries its status. -/
theorem State.finishOp_pf (s : State) (op : Nat) (o : PendingOp) (st d i : Nat) (h : s.op? op = some o) (hm : o.mb = ⟨.pf, i⟩) :
    s.finishOp op st d = (s.dropOp op).post 0x0101 8 i (leBytes 2 o.code ++ leBytes 1 st ++ leBytes 1 d ++ leBytes 4 o.tag ++ leBytes 4 op) := by
  unfold State.finishOp
  simp only [h, hm]

end Sys2Proof.Machine
end

