-- ==== Sys2Proof/Laws/Emit.lean ====
section
/-! SUPPORT. What the emission of records, events and packets changes: the rings and vectors of the functions, the messages sent, the
event queue, host memory, the error log, the fabric's ports and the counters of contexts. Every operation that emits is shown once to
change nothing else; what it keeps then follows by rewriting. -/

namespace Sys2Proof.Machine

/-- The state an emission may change. -/
structure Emission where
  vfs : Tbl Vf
  pfVec : Tbl Vector
  vfVec : Tbl Vector
  msgs : List Msg
  eq : EventQueue
  hostMem : Memory
  logNext : Nat
  log : List LogEntry
  kept : List LogEntry
  unflushed : List LogEntry
  ctxs : Tbl Ctx
  fab : Fabric

/-- The state with an emission's part replaced. -/
def State.emitted (s : State) (x : Emission) : State :=
  { s with host.vfs := x.vfs, host.pfVec := x.pfVec, host.vfVec := x.vfVec, host.msgs := x.msgs, host.eq := x.eq, mem.host := x.hostMem, flt.logNext := x.logNext, flt.log := x.log, flt.kept := x.kept, flt.unflushed := x.unflushed, ctxs := x.ctxs, fab := x.fab }

/-- The part of the state that an emission may change. -/
def State.emission (s : State) : Emission := ⟨s.host.vfs, s.host.pfVec, s.host.vfVec, s.host.msgs, s.host.eq, s.mem.host, s.flt.logNext, s.flt.log, s.flt.kept, s.flt.unflushed, s.ctxs, s.fab⟩

@[simp] theorem State.emitted_emitted (s : State) (x y : Emission) : (s.emitted x).emitted y = s.emitted y := rfl
theorem State.emitted_self (s : State) : s.emitted s.emission = s := rfl

@[simp] theorem State.emitted_pending (s : State) (x : Emission) : (s.emitted x).pending = s.pending := rfl
@[simp] theorem State.emitted_now (s : State) (x : Emission) : (s.emitted x).now = s.now := rfl
@[simp] theorem State.emitted_idleTicks (s : State) (x : Emission) : (s.emitted x).idleTicks = s.idleTicks := rfl
@[simp] theorem State.emitted_freeIdx (s : State) (x : Emission) : (s.emitted x).freeIdx = s.freeIdx := rfl
@[simp] theorem State.emitted_host_linkUp (s : State) (x : Emission) : (s.emitted x).host.linkUp = s.host.linkUp := rfl
@[simp] theorem State.emitted_host_d3 (s : State) (x : Emission) : (s.emitted x).host.d3 = s.host.d3 := rfl
@[simp] theorem State.emitted_host_vfEnable (s : State) (x : Emission) : (s.emitted x).host.vfEnable = s.host.vfEnable := rfl
@[simp] theorem State.emitted_host_pfMb (s : State) (x : Emission) : (s.emitted x).host.pfMb = s.host.pfMb := rfl
@[simp] theorem State.emitted_host_vfMb (s : State) (x : Emission) : (s.emitted x).host.vfMb = s.host.vfMb := rfl
@[simp] theorem State.emitted_host_pfDone (s : State) (x : Emission) : (s.emitted x).host.pfDone = s.host.pfDone := rfl
@[simp] theorem State.emitted_host_pfWin (s : State) (x : Emission) : (s.emitted x).host.pfWin = s.host.pfWin := rfl
@[simp] theorem State.emitted_host_vfWin (s : State) (x : Emission) : (s.emitted x).host.vfWin = s.host.vfWin := rfl
@[simp] theorem State.emitted_host_slotBind (s : State) (x : Emission) : (s.emitted x).host.slotBind = s.host.slotBind := rfl
@[simp] theorem State.emitted_host_lastRead (s : State) (x : Emission) : (s.emitted x).host.lastRead = s.host.lastRead := rfl
@[simp] theorem State.emitted_host_aer (s : State) (x : Emission) : (s.emitted x).host.aer = s.host.aer := rfl
@[simp] theorem State.emitted_mason (s : State) (x : Emission) : (s.emitted x).mason = s.mason := rfl
@[simp] theorem State.emitted_parts (s : State) (x : Emission) : (s.emitted x).parts = s.parts := rfl
@[simp] theorem State.emitted_plans (s : State) (x : Emission) : (s.emitted x).plans = s.plans := rfl
@[simp] theorem State.emitted_lastPlan (s : State) (x : Emission) : (s.emitted x).lastPlan = s.lastPlan := rfl
@[simp] theorem State.emitted_courses (s : State) (x : Emission) : (s.emitted x).courses = s.courses := rfl
@[simp] theorem State.emitted_tiles (s : State) (x : Emission) : (s.emitted x).tiles = s.tiles := rfl
@[simp] theorem State.emitted_piers (s : State) (x : Emission) : (s.emitted x).piers = s.piers := rfl
@[simp] theorem State.emitted_mem_hbm (s : State) (x : Emission) : (s.emitted x).mem.hbm = s.mem.hbm := rfl
@[simp] theorem State.emitted_mem_frames (s : State) (x : Emission) : (s.emitted x).mem.frames = s.mem.frames := rfl
@[simp] theorem State.emitted_mem_badFrames (s : State) (x : Emission) : (s.emitted x).mem.badFrames = s.mem.badFrames := rfl
@[simp] theorem State.emitted_mem_nextPier (s : State) (x : Emission) : (s.emitted x).mem.nextPier = s.mem.nextPier := rfl
@[simp] theorem State.emitted_mem_kvFrames (s : State) (x : Emission) : (s.emitted x).mem.kvFrames = s.mem.kvFrames := rfl
@[simp] theorem State.emitted_mem_ch (s : State) (x : Emission) : (s.emitted x).mem.ch = s.mem.ch := rfl
@[simp] theorem State.emitted_mem_intRetired (s : State) (x : Emission) : (s.emitted x).mem.intRetired = s.mem.intRetired := rfl
@[simp] theorem State.emitted_mem_copies (s : State) (x : Emission) : (s.emitted x).mem.copies = s.mem.copies := rfl
@[simp] theorem State.emitted_mem_nextCopy (s : State) (x : Emission) : (s.emitted x).mem.nextCopy = s.mem.nextCopy := rfl
@[simp] theorem State.emitted_mem_cbuf (s : State) (x : Emission) : (s.emitted x).mem.cbuf = s.mem.cbuf := rfl
@[simp] theorem State.emitted_nextOrder (s : State) (x : Emission) : (s.emitted x).nextOrder = s.nextOrder := rfl
@[simp] theorem State.emitted_trowel (s : State) (x : Emission) : (s.emitted x).trowel = s.trowel := rfl
@[simp] theorem State.emitted_power (s : State) (x : Emission) : (s.emitted x).power = s.power := rfl
@[simp] theorem State.emitted_therm (s : State) (x : Emission) : (s.emitted x).therm = s.therm := rfl
@[simp] theorem State.emitted_flt_units (s : State) (x : Emission) : (s.emitted x).flt.units = s.flt.units := rfl
@[simp] theorem State.emitted_flt_corrected (s : State) (x : Emission) : (s.emitted x).flt.corrected = s.flt.corrected := rfl
@[simp] theorem State.emitted_flt_errors (s : State) (x : Emission) : (s.emitted x).flt.errors = s.flt.errors := rfl
@[simp] theorem State.emitted_flt_transient (s : State) (x : Emission) : (s.emitted x).flt.transient = s.flt.transient := rfl
@[simp] theorem State.emitted_flt_lasting (s : State) (x : Emission) : (s.emitted x).flt.lasting = s.flt.lasting := rfl
@[simp] theorem State.emitted_flt_restarts (s : State) (x : Emission) : (s.emitted x).flt.restarts = s.flt.restarts := rfl
@[simp] theorem State.emitted_flt_aborted (s : State) (x : Emission) : (s.emitted x).flt.aborted = s.flt.aborted := rfl
@[simp] theorem State.emitted_flt_pierResets (s : State) (x : Emission) : (s.emitted x).flt.pierResets = s.flt.pierResets := rfl
@[simp] theorem State.emitted_flt_ledger (s : State) (x : Emission) : (s.emitted x).flt.ledger = s.flt.ledger := rfl
@[simp] theorem State.emitted_flt_burns (s : State) (x : Emission) : (s.emitted x).flt.burns = s.flt.burns := rfl
@[simp] theorem State.emitted_flt_riddleRetired (s : State) (x : Emission) : (s.emitted x).flt.riddleRetired = s.flt.riddleRetired := rfl
@[simp] theorem State.emitted_twin (s : State) (x : Emission) : (s.emitted x).twin = s.twin := rfl
@[simp] theorem State.emitted_sec (s : State) (x : Emission) : (s.emitted x).sec = s.sec := rfl
@[simp] theorem State.emitted_mem_intCh (s : State) (x : Emission) : (s.emitted x).mem.intCh = s.mem.intCh := rfl
@[simp] theorem State.emitted_mem_lossBuf (s : State) (x : Emission) : (s.emitted x).mem.lossBuf = s.mem.lossBuf := rfl
@[simp] theorem State.emitted_fw (s : State) (x : Emission) : (s.emitted x).fw = s.fw := rfl

/-- `t` is `s` but for an emission. -/
def State.Emits (s t : State) : Prop := ∃ x, t = s.emitted x

theorem State.Emits.of_eq {s t : State} (h : t = s.emitted t.emission) : s.Emits t := ⟨_, h⟩
theorem State.Emits.refl (s : State) : s.Emits s := ⟨s.emission, rfl⟩
theorem State.Emits.trans {s t u : State} (h1 : s.Emits t) (h2 : t.Emits u) : s.Emits u := by
  obtain ⟨x, rfl⟩ := h1
  obtain ⟨y, rfl⟩ := h2
  exact ⟨y, rfl⟩
theorem State.Emits.of_fold {β : Type} {g : State → β → State} (h : ∀ s x, State.Emits s (g s x)) (l : List β) : ∀ s, State.Emits s (l.foldl g s) := by
  induction l with
  | nil => intro s; exact .refl s
  | cons x l ih => intro s; exact (h s x).trans (ih _)

/-- What an emission keeps, read through any function of the kept part. -/
theorem State.Emits.keeps {γ : Type} {s t : State} (h : s.Emits t) (φ : State → γ) (hφ : ∀ x, φ (s.emitted x) = φ s) : φ t = φ s := by
  obtain ⟨x, rfl⟩ := h
  exact hφ x

theorem State.updVf_emits (s : State) (v : Nat) (f : Vf → Vf) : s.Emits (s.updVf v f) := .of_eq rfl
theorem State.updRing_emits (s : State) (v i : Nat) (f : Ring → Ring) : s.Emits (s.updRing v i f) := .of_eq rfl
theorem State.updCtx_emits (s : State) (n : Nat) (f : Ctx → Ctx) : s.Emits (s.updCtx n f) := by
  unfold State.updCtx
  split
  · exact .of_eq rfl
  · exact .refl s
theorem State.updPort_emits (s : State) (p : Nat) (f : FPort → FPort) : s.Emits (s.updPort p f) := .of_eq rfl
theorem State.setVector_emits (s : State) (f : Fn) (i : Nat) (x : Vector) : s.Emits (s.setVector f i x) := by
  cases f <;> exact .of_eq rfl
theorem State.raiseVec_emits (s : State) (f : Fn) (i : Nat) : s.Emits (s.raiseVec f i) := by
  unfold State.raiseVec
  split
  · exact s.setVector_emits ..
  · exact .of_eq rfl
theorem State.eqPut_emits (s : State) (b : List Byte) : s.Emits (s.eqPut b) := by
  unfold State.eqPut
  dsimp only
  split
  · refine .trans ?_ (State.raiseVec_emits ..)
    exact .of_eq rfl
  · exact .of_eq rfl
theorem State.postT_emits (s : State) (c k i : Nat) (d : List Byte) (g : LogTag) : s.Emits (s.postT c k i d g) := by
  unfold State.postT
  refine .trans (t := s.eqEvent c k i d) ?_ (.of_eq rfl)
  unfold State.eqEvent
  split
  · exact .of_eq rfl
  · exact State.eqPut_emits ..
theorem State.post_emits (s : State) (c k i : Nat) (d : List Byte) : s.Emits (s.post c k i d) := State.postT_emits ..
theorem State.hostWriteN_emits (s : State) (a : Nat) (b : List Byte) : s.Emits (s.hostWriteN a b) := .of_eq rfl
theorem State.ringAnnounce_emits (s : State) (v i : Nat) : s.Emits (s.ringAnnounce v i) := by
  unfold State.ringAnnounce
  dsimp only
  split
  · exact (State.updRing_emits ..).trans (State.raiseVec_emits ..)
  · exact .refl _
theorem State.ringWrite_emits (s : State) (v i : Nat) (x : Rec) : s.Emits (s.ringWrite v i x) := by
  unfold State.ringWrite
  exact ((State.hostWriteN_emits ..).trans (State.updRing_emits ..)).trans (State.ringAnnounce_emits ..)
theorem State.ringPush_emits (s : State) (v i : Nat) (x : Rec) : s.Emits (s.ringPush v i x) := by
  unfold State.ringPush
  dsimp only
  split
  · exact State.updRing_emits ..
  · split
    · exact State.ringWrite_emits ..
    · split
      · exact State.updVf_emits ..
      · split
        · exact (State.updRing_emits ..).trans (State.updRing_emits ..)
        · exact ((State.updRing_emits ..).trans (State.updRing_emits ..)).trans (State.post_emits ..)
theorem State.pumpPort_emits (p : Nat) (l : List Packet) : ∀ s : State, s.Emits (s.pumpPort p l) := by
  induction l with
  | nil => intro s; exact State.updPort_emits ..
  | cons x l ih =>
    intro s
    unfold State.pumpPort
    split
    · refine .trans ?_ (ih _)
      exact .of_eq rfl
    · exact State.updPort_emits ..
theorem State.sendOn_emits (s : State) (p : Nat) (x : Packet) : s.Emits (s.sendOn p x) := State.pumpPort_emits ..
/-- Sending on a port changes the ports and what was sent, nothing else. -/
theorem State.pumpPort_keeps {γ : Type} (φ : State → γ) (h : ∀ (s : State) x y, φ { s with fab.ports := x, fab.sent := y } = φ s) (p : Nat) (l : List Packet) : ∀ s : State, φ (s.pumpPort p l) = φ s := by
  induction l with
  | nil => intro s; exact h s _ s.fab.sent
  | cons x l ih =>
    intro s; unfold State.pumpPort; split
    · exact (ih _).trans (h s _ _)
    · exact h s _ s.fab.sent
/-- With credit for it and none before it, a packet leaves as the next frame. -/
theorem State.sendOn_sends (s : State) (p : Nat) (x : Packet) (hw : (s.port p).waiting = []) (hc : creditsOf x ≤ (s.port p).credits) :
    (s.sendOn p x).fab.sent = (p, (s.port p).frame x) :: s.fab.sent ∧ (s.sendOn p x).port p = { (s.port p).send x with waiting := [] } := by
  have e : s.sendOn p x = State.updPort { s.updPort p (fun f => f.send x) with fab.sent := (p, (s.port p).frame x) :: s.fab.sent } p fun f => { f with waiting := [] } := by
    unfold State.sendOn; rw [hw]; exact if_pos hc
  rw [e, State.updPort_port_self]
  exact ⟨rfl, congrArg (fun f : FPort => { f with waiting := [] }) (State.updPort_port_self s p fun f => f.send x)⟩
/-- Without credit for the first that waits, the packet waits behind it. -/
theorem State.sendOn_waits (s : State) (p : Nat) (x y : Packet) (l : List Packet) (hw : (s.port p).waiting ++ [x] = y :: l) (hc : (s.port p).credits < creditsOf y) :
    s.sendOn p x = s.updPort p fun f => { f with waiting := (s.port p).waiting ++ [x] } := by
  unfold State.sendOn; rw [hw]; exact if_neg (Nat.not_le_of_lt hc)
/-- Originating a packet by route changes the fabric only. -/
theorem State.sendRouted_keeps {γ : Type} (φ : State → γ) (h : ∀ (s : State) x, φ { s with fab := x } = φ s) (s : State) (x : Packet) : φ (s.sendRouted x) = φ s := by
  unfold State.sendRouted; split
  · exact h s _
  · exact (State.pumpPort_keeps φ (fun s _ _ => h s _) ..).trans (h s _)
theorem State.sendRouted_emits (s : State) (x : Packet) : s.Emits (s.sendRouted x) := by
  unfold State.sendRouted
  split
  · exact State.updPort_emits ..
  · refine .trans ?_ (State.sendOn_emits ..)
    exact .of_eq rfl
theorem State.sendLocal_emits (s : State) (p : Nat) (x : Packet) : s.Emits (s.sendLocal p x) := by
  unfold State.sendLocal
  refine .trans ?_ (State.sendOn_emits ..)
  exact .of_eq rfl
theorem State.exportSend_emits (id tenant ctx n : Nat) (l : List (List Byte)) : ∀ (s : State) (i : Nat), s.Emits (s.exportSend id tenant ctx n i l) := by
  induction l with
  | nil => intro s i; exact .refl s
  | cons c l ih =>
    intro s i
    unfold State.exportSend
    split
    · exact .refl s
    · dsimp only
      generalize hA : s.sendRouted _ = A
      have hA' : s.Emits A := hA ▸ State.sendRouted_emits ..
      refine hA'.trans (.trans ?_ (ih _ _))
      exact .of_eq rfl
theorem State.exportRec_emits (s : State) (c : Ctx) (x : Rec) (p : Bool) (a : List Byte) : s.Emits (s.exportRec c x p a) := by
  unfold State.exportRec
  split
  · exact .refl s
  · split
    · exact .refl s
    · dsimp only
      split
      · exact .of_eq rfl
      · exact State.exportSend_emits ..
theorem State.release_emits (s : State) (x : Rec) (a : List Byte) (p : Bool) : s.Emits (s.release x a p) := by
  unfold State.release
  split
  · exact .refl s
  · exact ((State.updCtx_emits ..).trans (State.ringPush_emits ..)).trans (State.exportRec_emits ..)
theorem State.contextEvent_emits (s : State) (n d : Nat) (b : List Byte) : s.Emits (s.contextEvent n d b) := by
  unfold State.contextEvent
  split
  · exact .refl s
  · exact State.release_emits ..

/-- `t` is `s` but for an emission, the activity of Piers and Courses and the buffer of the loss log: what a logged loss and a shed item
change. -/
def State.Sheds (s t : State) : Prop := ∃ x ps cs b, t = { s.emitted x with piers := ps, courses := cs, mem.lossBuf := b }

theorem State.Emits.sheds {s t : State} (h : s.Emits t) : s.Sheds t := by
  obtain ⟨x, rfl⟩ := h
  exact ⟨x, s.piers, s.courses, s.mem.lossBuf, rfl⟩
theorem State.Sheds.refl (s : State) : s.Sheds s := (State.Emits.refl s).sheds
theorem State.Sheds.trans {s t u : State} (h1 : s.Sheds t) (h2 : t.Sheds u) : s.Sheds u := by
  obtain ⟨x, ps, cs, b, rfl⟩ := h1
  obtain ⟨y, ps', cs', b', rfl⟩ := h2
  exact ⟨y, ps', cs', b', rfl⟩
theorem State.Sheds.of_fold {β : Type} {g : State → β → State} (h : ∀ s x, State.Sheds s (g s x)) (l : List β) : ∀ s, State.Sheds s (l.foldl g s) := by
  induction l with
  | nil => intro s; exact .refl s
  | cons x l ih => intro s; exact (h s x).trans (ih _)
theorem State.Sheds.keeps {γ : Type} {s t : State} (h : s.Sheds t) (φ : State → γ) (hφ : ∀ x ps cs b, φ { s.emitted x with piers := ps, courses := cs, mem.lossBuf := b } = φ s) : φ t = φ s := by
  obtain ⟨x, ps, cs, b, rfl⟩ := h
  exact hφ x ps cs b

theorem State.updCourse_sheds (s : State) (k : Nat) (f : Course → Course) : s.Sheds (s.updCourse k f) := ⟨s.emission, s.piers, (s.updCourse k f).courses, s.mem.lossBuf, rfl⟩
theorem State.hbmTouch_sheds (s : State) (k : Nat) : s.Sheds (s.hbmTouch k) := ⟨s.emission, (s.hbmTouch k).piers, s.courses, s.mem.lossBuf, rfl⟩
/-- HBM traffic ends the self-refresh of the Piers it meets, and changes nothing else (R111). -/
theorem State.touchStacks_eq (s : State) (ks : List Nat) : ∃ ps, s.touchStacks ks = { s with piers := ps } ∧ ∀ k, (ps.get {} k).facing = (s.pier k).facing ∧
    (k ∉ ks.map (· / 2) → ps.get {} k = s.pier k) ∧ (k ∈ ks.map (· / 2) → (ps.get {} k).selfRefresh = false ∧ (ps.get {} k).hbmBusyAt = s.now) := by
  have go : ∀ (l : List Nat) (s : State), ∃ ps, l.foldl (fun s k => s.hbmTouch k) s = { s with piers := ps } ∧ ∀ k, (ps.get {} k).facing = (s.pier k).facing ∧
      (k ∉ l → ps.get {} k = s.pier k) ∧ (k ∈ l → (ps.get {} k).selfRefresh = false ∧ (ps.get {} k).hbmBusyAt = s.now) := by
    intro l
    induction l with
    | nil => intro s; exact ⟨s.piers, rfl, fun k => ⟨rfl, fun _ => rfl, fun h => absurd h (List.not_mem_nil)⟩⟩
    | cons a l ih =>
      intro s
      obtain ⟨ps, e, f⟩ := ih (s.hbmTouch a)
      refine ⟨ps, by rw [List.foldl_cons, e]; rfl, fun k => ?_⟩
      obtain ⟨f1, f2, f3⟩ := f k
      by_cases hk : k = a
      · subst hk
        have hp : (s.hbmTouch k).pier k = { s.pier k with selfRefresh := false, hbmBusyAt := s.now } := State.updPier_pier_self ..
        refine ⟨by rw [f1, hp], fun h => absurd (List.mem_cons_self ..) h, fun _ => ?_⟩
        by_cases hl : k ∈ l
        · exact f3 hl
        · rw [f2 hl, hp]; exact ⟨rfl, rfl⟩
      · have hp : (s.hbmTouch a).pier k = s.pier k := State.updPier_pier_ne _ _ hk
        refine ⟨by rw [f1, hp], fun h => by rw [f2 (fun hl => h (List.mem_cons_of_mem _ hl)), hp], fun h => ?_⟩
        exact f3 ((List.mem_cons.1 h).resolve_left hk)
  obtain ⟨ps, e, f⟩ := go ((ks.map (· / 2)).dedup) s
  exact ⟨ps, e, fun k => by have := f k; rwa [List.mem_dedup] at this⟩
theorem State.loss_sheds (s : State) (a b c d e : Nat) : s.Sheds (s.loss a b c d e) := by
  unfold State.loss
  dsimp only
  generalize hA : s.updCtx a _ = A
  have hA' : s.Sheds A := hA ▸ (State.updCtx_emits ..).sheds
  refine hA'.trans ?_
  split
  · split
    · exact ⟨A.emission, A.piers, A.courses, A.mem.lossBuf ++ [(a, ⟨b, c, d, e, s.now⟩)], rfl⟩
    · exact .refl _
  · exact (State.hbmTouch_sheds ..).trans (State.updCtx_emits ..).sheds
/-- What a logged loss leaves in its context: the total counts it, and the log holds it unless HBM cannot be written. -/
theorem State.loss_ctx (s : State) (n q k r i : Nat) (c : Ctx) (h : s.ctx? n = some c) : (s.loss n q k r i).ctx? n =
    some { c with lossTotal := sat32 c.lossTotal 1, losses := if s.logBlocked (n % 4) then c.losses else (⟨q, k, r, i, s.now⟩ :: c.losses).take 256 } := by
  have b : ∀ f, (s.updCtx n f).logBlocked (n % 4) = s.logBlocked (n % 4) := by intro f; simp [State.logBlocked, State.pier]
  have e : ∀ (u : State) (k : Nat), (u.hbmTouch k).ctx? n = u.ctx? n := fun _ _ => rfl
  have e2 : ∀ (u : State) (l : List (Nat × Loss)), ({ u with mem.lossBuf := l } : State).ctx? n = u.ctx? n := fun _ _ => rfl
  unfold State.loss
  simp only [b]
  cases hb : s.logBlocked (n % 4)
  · simp only [Bool.false_eq_true, if_false, State.writeLoss, State.updCtx_ctx_self, e, h, Option.map_some, State.updCtx_now]
  · simp only [if_true]
    split
    · rw [e2]; simp [h]
    · simp [h]
theorem State.noteLate_sheds (s : State) (i : Item) : s.Sheds (s.noteLate i) := (State.updCtx_emits ..).sheds.trans (State.loss_sheds ..)
theorem State.quietFrom_sheds (s : State) (n : Nat) : s.Sheds (s.quietFrom n) := by
  unfold State.quietFrom
  split
  · exact .refl s
  · dsimp only
    rename_i c _
    have h : s.Sheds (match s.part? c.part with | some p => p.courses.foldl (fun s k => s.updCourse k fun x => { x with busyAt := s.now }) s | none => s) := by
      split
      · exact .of_fold (fun _ _ => State.updCourse_sheds ..) _ _
      · exact .refl s
    split
    · exact h.trans (State.updCtx_emits ..).sheds
    · exact h
/-- Work leaving a queue unrun touches the Courses of its partition, and a session's idle time. -/
theorem State.quietFrom_eq (s : State) (n : Nat) (c : Ctx) (h : s.ctx? n = some c) : ∃ cs, s.quietFrom n =
    { s with courses := cs, ctxs := if c.group = 7 then (s.updCtx n fun x => { x with session.idleAt := s.now }).ctxs else s.ctxs } := by
  unfold State.quietFrom
  simp only [h]
  have hc : ∀ (l : List Nat) (u : State), ∃ cs, l.foldl (fun u k => u.updCourse k fun x => { x with busyAt := u.now }) u = { u with courses := cs } := by
    intro l
    induction l with
    | nil => intro u; exact ⟨u.courses, rfl⟩
    | cons k l ih => intro u; obtain ⟨cs, e⟩ := ih (u.updCourse k fun x => { x with busyAt := u.now }); exact ⟨cs, e⟩
  have fin : ∀ u : State, (∃ cs, u = { s with courses := cs }) → ∃ cs, (if c.group == 7 then u.updCtx n fun x => { x with session.idleAt := u.now } else u) =
      { s with courses := cs, ctxs := if c.group = 7 then (s.updCtx n fun x => { x with session.idleAt := s.now }).ctxs else s.ctxs } := by
    rintro u ⟨cs, rfl⟩
    by_cases h7 : c.group = 7
    · refine ⟨cs, ?_⟩
      rw [if_pos (by simp [h7])]
      simp only [if_pos h7, State.updCtx]
      cases s.ctxs.find? n <;> rfl
    · refine ⟨cs, ?_⟩
      rw [if_neg (by simp [h7])]
      simp only [if_neg h7]
  cases s.part? c.part with
  | none => exact fin s ⟨s.courses, rfl⟩
  | some p => exact fin _ (hc _ _)
theorem State.closeMarked_emits (s : State) (i : Item) : s.Emits (s.closeMarked i) := (State.updCtx_emits ..).trans (State.release_emits ..)
theorem State.shedItem_sheds (s : State) (i : Item) (c : Nat) : s.Sheds (s.shedItem i c) := by
  unfold State.shedItem
  split
  · exact .refl s
  · dsimp only
    generalize hA : State.quietFrom _ _ = A
    have hA' : s.Sheds A := hA ▸ ((State.updCtx_emits ..).sheds.trans (State.loss_sheds ..)).trans (State.quietFrom_sheds ..)
    refine hA'.trans ?_
    split
    · exact (State.closeMarked_emits ..).sheds
    · exact (State.release_emits ..).sheds
theorem State.shedOld_sheds (s : State) (r : Res) : s.Sheds (s.shedOld r) := by
  unfold State.shedOld
  split
  · exact .refl s
  · exact State.Sheds.of_fold (fun _ _ => State.shedItem_sheds ..) _ _

/-- The end of a waiting operation: an emission, and the operation leaves the list. -/
theorem State.finishOp_shape (s : State) (op st d : Nat) : ∃ x l, s.finishOp op st d = { s.emitted x with mason.ops := l } := by
  unfold State.finishOp
  split
  · exact ⟨s.emission, s.mason.ops, rfl⟩
  · dsimp only
    split
    · obtain ⟨x, e⟩ := State.post_emits (s.dropOp op) 0x0101 8 _ _
      exact ⟨x, (s.dropOp op).mason.ops, e⟩
    · obtain ⟨x, e⟩ := State.ringPush_emits (s.dropOp op) _ 0 _
      exact ⟨x, (s.dropOp op).mason.ops, e⟩
theorem State.finishOps_shape (s : State) (p : OpKind → Bool) (st d : Nat) : ∃ x l, s.finishOps p st d = { s.emitted x with mason.ops := l } := by
  unfold State.finishOps
  generalize s.mason.ops.filter _ = l
  revert s
  induction l with
  | nil => intro s; exact ⟨s.emission, s.mason.ops, rfl⟩
  | cons a l ih =>
    intro s
    obtain ⟨x, k, e⟩ := s.finishOp_shape a.opId st d
    rw [List.foldl_cons, e]
    obtain ⟨x', k', e'⟩ := ih ({ s.emitted x with mason.ops := k })
    exact ⟨x', k', e'.trans rfl⟩


@[simp] theorem State.ringAnnounce_ctxs (s : State) (v i : Nat) : (s.ringAnnounce v i).ctxs = s.ctxs := by
  unfold State.ringAnnounce
  dsimp only
  split <;> simp
@[simp] theorem State.ringWrite_ctxs (s : State) (v i : Nat) (x : Rec) : (s.ringWrite v i x).ctxs = s.ctxs := by
  unfold State.ringWrite
  rw [State.ringAnnounce_ctxs]
  simp
@[simp] theorem State.ringPush_ctxs (s : State) (v i : Nat) (x : Rec) : (s.ringPush v i x).ctxs = s.ctxs := by
  unfold State.ringPush State.ringDropOne
  dsimp only
  split
  · simp
  · split
    · simp
    · split
      · simp
      · split <;> simp
@[simp] theorem State.finishOp_ctxs (s : State) (op st d : Nat) : (s.finishOp op st d).ctxs = s.ctxs := by
  unfold State.finishOp
  split
  · rfl
  · dsimp only
    split <;> simp
@[simp] theorem State.finishOps_ctxs (s : State) (p : OpKind → Bool) (st d : Nat) : (s.finishOps p st d).ctxs = s.ctxs := by
  unfold State.finishOps
  exact foldl_keeps (fun (s : State) (o : PendingOp) => s.finishOp o.opId st d) (fun s => s.ctxs) (fun _ _ => State.finishOp_ctxs ..) _ _
@[simp] theorem State.ringAnnounce_fab (s : State) (v i : Nat) : (s.ringAnnounce v i).fab = s.fab := by
  unfold State.ringAnnounce
  dsimp only
  split <;> simp
@[simp] theorem State.ringWrite_fab (s : State) (v i : Nat) (x : Rec) : (s.ringWrite v i x).fab = s.fab := by
  unfold State.ringWrite
  rw [State.ringAnnounce_fab]
  simp
@[simp] theorem State.ringPush_fab (s : State) (v i : Nat) (x : Rec) : (s.ringPush v i x).fab = s.fab := by
  unfold State.ringPush State.ringDropOne
  dsimp only
  split
  · simp
  · split
    · simp
    · split
      · simp
      · split <;> simp
@[simp] theorem State.finishOp_fab (s : State) (op st d : Nat) : (s.finishOp op st d).fab = s.fab := by
  unfold State.finishOp
  split
  · rfl
  · dsimp only
    split <;> simp
@[simp] theorem State.finishOps_fab (s : State) (p : OpKind → Bool) (st d : Nat) : (s.finishOps p st d).fab = s.fab := by
  unfold State.finishOps
  exact foldl_keeps (fun (s : State) (o : PendingOp) => s.finishOp o.opId st d) (fun s => s.fab) (fun _ _ => State.finishOp_fab ..) _ _
@[simp] theorem State.finishOp_pending (s : State) (op st d : Nat) : (s.finishOp op st d).pending = s.pending := by
  obtain ⟨x, l, e⟩ := s.finishOp_shape op st d
  rw [e]; rfl
@[simp] theorem State.finishOps_pending (s : State) (p : OpKind → Bool) (st d : Nat) : (s.finishOps p st d).pending = s.pending := by
  obtain ⟨x, l, e⟩ := s.finishOps_shape p st d
  rw [e]; rfl
@[simp] theorem State.finishOp_now (s : State) (op st d : Nat) : (s.finishOp op st d).now = s.now := by
  obtain ⟨x, l, e⟩ := s.finishOp_shape op st d
  rw [e]; rfl
@[simp] theorem State.finishOps_now (s : State) (p : OpKind → Bool) (st d : Nat) : (s.finishOps p st d).now = s.now := by
  obtain ⟨x, l, e⟩ := s.finishOps_shape p st d
  rw [e]; rfl
@[simp] theorem State.finishOp_idleTicks (s : State) (op st d : Nat) : (s.finishOp op st d).idleTicks = s.idleTicks := by
  obtain ⟨x, l, e⟩ := s.finishOp_shape op st d
  rw [e]; rfl
@[simp] theorem State.finishOps_idleTicks (s : State) (p : OpKind → Bool) (st d : Nat) : (s.finishOps p st d).idleTicks = s.idleTicks := by
  obtain ⟨x, l, e⟩ := s.finishOps_shape p st d
  rw [e]; rfl
@[simp] theorem State.finishOp_freeIdx (s : State) (op st d : Nat) : (s.finishOp op st d).freeIdx = s.freeIdx := by
  obtain ⟨x, l, e⟩ := s.finishOp_shape op st d
  rw [e]; rfl
@[simp] theorem State.finishOps_freeIdx (s : State) (p : OpKind → Bool) (st d : Nat) : (s.finishOps p st d).freeIdx = s.freeIdx := by
  obtain ⟨x, l, e⟩ := s.finishOps_shape p st d
  rw [e]; rfl
@[simp] theorem State.finishOp_parts (s : State) (op st d : Nat) : (s.finishOp op st d).parts = s.parts := by
  obtain ⟨x, l, e⟩ := s.finishOp_shape op st d
  rw [e]; rfl
@[simp] theorem State.finishOps_parts (s : State) (p : OpKind → Bool) (st d : Nat) : (s.finishOps p st d).parts = s.parts := by
  obtain ⟨x, l, e⟩ := s.finishOps_shape p st d
  rw [e]; rfl
@[simp] theorem State.finishOp_plans (s : State) (op st d : Nat) : (s.finishOp op st d).plans = s.plans := by
  obtain ⟨x, l, e⟩ := s.finishOp_shape op st d
  rw [e]; rfl
@[simp] theorem State.finishOps_plans (s : State) (p : OpKind → Bool) (st d : Nat) : (s.finishOps p st d).plans = s.plans := by
  obtain ⟨x, l, e⟩ := s.finishOps_shape p st d
  rw [e]; rfl
@[simp] theorem State.finishOp_lastPlan (s : State) (op st d : Nat) : (s.finishOp op st d).lastPlan = s.lastPlan := by
  obtain ⟨x, l, e⟩ := s.finishOp_shape op st d
  rw [e]; rfl
@[simp] theorem State.finishOps_lastPlan (s : State) (p : OpKind → Bool) (st d : Nat) : (s.finishOps p st d).lastPlan = s.lastPlan := by
  obtain ⟨x, l, e⟩ := s.finishOps_shape p st d
  rw [e]; rfl
@[simp] theorem State.finishOp_courses (s : State) (op st d : Nat) : (s.finishOp op st d).courses = s.courses := by
  obtain ⟨x, l, e⟩ := s.finishOp_shape op st d
  rw [e]; rfl
@[simp] theorem State.finishOps_courses (s : State) (p : OpKind → Bool) (st d : Nat) : (s.finishOps p st d).courses = s.courses := by
  obtain ⟨x, l, e⟩ := s.finishOps_shape p st d
  rw [e]; rfl
@[simp] theorem State.finishOp_tiles (s : State) (op st d : Nat) : (s.finishOp op st d).tiles = s.tiles := by
  obtain ⟨x, l, e⟩ := s.finishOp_shape op st d
  rw [e]; rfl
@[simp] theorem State.finishOps_tiles (s : State) (p : OpKind → Bool) (st d : Nat) : (s.finishOps p st d).tiles = s.tiles := by
  obtain ⟨x, l, e⟩ := s.finishOps_shape p st d
  rw [e]; rfl
@[simp] theorem State.finishOp_piers (s : State) (op st d : Nat) : (s.finishOp op st d).piers = s.piers := by
  obtain ⟨x, l, e⟩ := s.finishOp_shape op st d
  rw [e]; rfl
@[simp] theorem State.finishOps_piers (s : State) (p : OpKind → Bool) (st d : Nat) : (s.finishOps p st d).piers = s.piers := by
  obtain ⟨x, l, e⟩ := s.finishOps_shape p st d
  rw [e]; rfl
@[simp] theorem State.finishOp_nextOrder (s : State) (op st d : Nat) : (s.finishOp op st d).nextOrder = s.nextOrder := by
  obtain ⟨x, l, e⟩ := s.finishOp_shape op st d
  rw [e]; rfl
@[simp] theorem State.finishOps_nextOrder (s : State) (p : OpKind → Bool) (st d : Nat) : (s.finishOps p st d).nextOrder = s.nextOrder := by
  obtain ⟨x, l, e⟩ := s.finishOps_shape p st d
  rw [e]; rfl
@[simp] theorem State.finishOp_trowel (s : State) (op st d : Nat) : (s.finishOp op st d).trowel = s.trowel := by
  obtain ⟨x, l, e⟩ := s.finishOp_shape op st d
  rw [e]; rfl
@[simp] theorem State.finishOps_trowel (s : State) (p : OpKind → Bool) (st d : Nat) : (s.finishOps p st d).trowel = s.trowel := by
  obtain ⟨x, l, e⟩ := s.finishOps_shape p st d
  rw [e]; rfl
@[simp] theorem State.finishOp_power (s : State) (op st d : Nat) : (s.finishOp op st d).power = s.power := by
  obtain ⟨x, l, e⟩ := s.finishOp_shape op st d
  rw [e]; rfl
@[simp] theorem State.finishOps_power (s : State) (p : OpKind → Bool) (st d : Nat) : (s.finishOps p st d).power = s.power := by
  obtain ⟨x, l, e⟩ := s.finishOps_shape p st d
  rw [e]; rfl
@[simp] theorem State.finishOp_therm (s : State) (op st d : Nat) : (s.finishOp op st d).therm = s.therm := by
  obtain ⟨x, l, e⟩ := s.finishOp_shape op st d
  rw [e]; rfl
@[simp] theorem State.finishOps_therm (s : State) (p : OpKind → Bool) (st d : Nat) : (s.finishOps p st d).therm = s.therm := by
  obtain ⟨x, l, e⟩ := s.finishOps_shape p st d
  rw [e]; rfl
@[simp] theorem State.finishOp_twin (s : State) (op st d : Nat) : (s.finishOp op st d).twin = s.twin := by
  obtain ⟨x, l, e⟩ := s.finishOp_shape op st d
  rw [e]; rfl
@[simp] theorem State.finishOps_twin (s : State) (p : OpKind → Bool) (st d : Nat) : (s.finishOps p st d).twin = s.twin := by
  obtain ⟨x, l, e⟩ := s.finishOps_shape p st d
  rw [e]; rfl
@[simp] theorem State.finishOp_sec (s : State) (op st d : Nat) : (s.finishOp op st d).sec = s.sec := by
  obtain ⟨x, l, e⟩ := s.finishOp_shape op st d
  rw [e]; rfl
@[simp] theorem State.finishOps_sec (s : State) (p : OpKind → Bool) (st d : Nat) : (s.finishOps p st d).sec = s.sec := by
  obtain ⟨x, l, e⟩ := s.finishOps_shape p st d
  rw [e]; rfl
@[simp] theorem State.finishOp_fw (s : State) (op st d : Nat) : (s.finishOp op st d).fw = s.fw := by
  obtain ⟨x, l, e⟩ := s.finishOp_shape op st d
  rw [e]; rfl
@[simp] theorem State.finishOps_fw (s : State) (p : OpKind → Bool) (st d : Nat) : (s.finishOps p st d).fw = s.fw := by
  obtain ⟨x, l, e⟩ := s.finishOps_shape p st d
  rw [e]; rfl
@[simp] theorem State.finishOp_host_linkUp (s : State) (op st d : Nat) : (s.finishOp op st d).host.linkUp = s.host.linkUp := by
  obtain ⟨x, l, e⟩ := s.finishOp_shape op st d
  rw [e]; rfl
@[simp] theorem State.finishOps_host_linkUp (s : State) (p : OpKind → Bool) (st d : Nat) : (s.finishOps p st d).host.linkUp = s.host.linkUp := by
  obtain ⟨x, l, e⟩ := s.finishOps_shape p st d
  rw [e]; rfl
@[simp] theorem State.finishOp_host_d3 (s : State) (op st d : Nat) : (s.finishOp op st d).host.d3 = s.host.d3 := by
  obtain ⟨x, l, e⟩ := s.finishOp_shape op st d
  rw [e]; rfl
@[simp] theorem State.finishOps_host_d3 (s : State) (p : OpKind → Bool) (st d : Nat) : (s.finishOps p st d).host.d3 = s.host.d3 := by
  obtain ⟨x, l, e⟩ := s.finishOps_shape p st d
  rw [e]; rfl
@[simp] theorem State.finishOp_host_vfEnable (s : State) (op st d : Nat) : (s.finishOp op st d).host.vfEnable = s.host.vfEnable := by
  obtain ⟨x, l, e⟩ := s.finishOp_shape op st d
  rw [e]; rfl
@[simp] theorem State.finishOps_host_vfEnable (s : State) (p : OpKind → Bool) (st d : Nat) : (s.finishOps p st d).host.vfEnable = s.host.vfEnable := by
  obtain ⟨x, l, e⟩ := s.finishOps_shape p st d
  rw [e]; rfl
@[simp] theorem State.finishOp_host_pfMb (s : State) (op st d : Nat) : (s.finishOp op st d).host.pfMb = s.host.pfMb := by
  obtain ⟨x, l, e⟩ := s.finishOp_shape op st d
  rw [e]; rfl
@[simp] theorem State.finishOps_host_pfMb (s : State) (p : OpKind → Bool) (st d : Nat) : (s.finishOps p st d).host.pfMb = s.host.pfMb := by
  obtain ⟨x, l, e⟩ := s.finishOps_shape p st d
  rw [e]; rfl
@[simp] theorem State.finishOp_host_vfMb (s : State) (op st d : Nat) : (s.finishOp op st d).host.vfMb = s.host.vfMb := by
  obtain ⟨x, l, e⟩ := s.finishOp_shape op st d
  rw [e]; rfl
@[simp] theorem State.finishOps_host_vfMb (s : State) (p : OpKind → Bool) (st d : Nat) : (s.finishOps p st d).host.vfMb = s.host.vfMb := by
  obtain ⟨x, l, e⟩ := s.finishOps_shape p st d
  rw [e]; rfl
@[simp] theorem State.finishOp_host_pfDone (s : State) (op st d : Nat) : (s.finishOp op st d).host.pfDone = s.host.pfDone := by
  obtain ⟨x, l, e⟩ := s.finishOp_shape op st d
  rw [e]; rfl
@[simp] theorem State.finishOps_host_pfDone (s : State) (p : OpKind → Bool) (st d : Nat) : (s.finishOps p st d).host.pfDone = s.host.pfDone := by
  obtain ⟨x, l, e⟩ := s.finishOps_shape p st d
  rw [e]; rfl
@[simp] theorem State.finishOp_host_pfWin (s : State) (op st d : Nat) : (s.finishOp op st d).host.pfWin = s.host.pfWin := by
  obtain ⟨x, l, e⟩ := s.finishOp_shape op st d
  rw [e]; rfl
@[simp] theorem State.finishOps_host_pfWin (s : State) (p : OpKind → Bool) (st d : Nat) : (s.finishOps p st d).host.pfWin = s.host.pfWin := by
  obtain ⟨x, l, e⟩ := s.finishOps_shape p st d
  rw [e]; rfl
@[simp] theorem State.finishOp_host_vfWin (s : State) (op st d : Nat) : (s.finishOp op st d).host.vfWin = s.host.vfWin := by
  obtain ⟨x, l, e⟩ := s.finishOp_shape op st d
  rw [e]; rfl
@[simp] theorem State.finishOps_host_vfWin (s : State) (p : OpKind → Bool) (st d : Nat) : (s.finishOps p st d).host.vfWin = s.host.vfWin := by
  obtain ⟨x, l, e⟩ := s.finishOps_shape p st d
  rw [e]; rfl
@[simp] theorem State.finishOp_host_slotBind (s : State) (op st d : Nat) : (s.finishOp op st d).host.slotBind = s.host.slotBind := by
  obtain ⟨x, l, e⟩ := s.finishOp_shape op st d
  rw [e]; rfl
@[simp] theorem State.finishOps_host_slotBind (s : State) (p : OpKind → Bool) (st d : Nat) : (s.finishOps p st d).host.slotBind = s.host.slotBind := by
  obtain ⟨x, l, e⟩ := s.finishOps_shape p st d
  rw [e]; rfl
@[simp] theorem State.finishOp_host_lastRead (s : State) (op st d : Nat) : (s.finishOp op st d).host.lastRead = s.host.lastRead := by
  obtain ⟨x, l, e⟩ := s.finishOp_shape op st d
  rw [e]; rfl
@[simp] theorem State.finishOps_host_lastRead (s : State) (p : OpKind → Bool) (st d : Nat) : (s.finishOps p st d).host.lastRead = s.host.lastRead := by
  obtain ⟨x, l, e⟩ := s.finishOps_shape p st d
  rw [e]; rfl
@[simp] theorem State.finishOp_host_aer (s : State) (op st d : Nat) : (s.finishOp op st d).host.aer = s.host.aer := by
  obtain ⟨x, l, e⟩ := s.finishOp_shape op st d
  rw [e]; rfl
@[simp] theorem State.finishOps_host_aer (s : State) (p : OpKind → Bool) (st d : Nat) : (s.finishOps p st d).host.aer = s.host.aer := by
  obtain ⟨x, l, e⟩ := s.finishOps_shape p st d
  rw [e]; rfl
@[simp] theorem State.finishOp_mem_hbm (s : State) (op st d : Nat) : (s.finishOp op st d).mem.hbm = s.mem.hbm := by
  obtain ⟨x, l, e⟩ := s.finishOp_shape op st d
  rw [e]; rfl
@[simp] theorem State.finishOps_mem_hbm (s : State) (p : OpKind → Bool) (st d : Nat) : (s.finishOps p st d).mem.hbm = s.mem.hbm := by
  obtain ⟨x, l, e⟩ := s.finishOps_shape p st d
  rw [e]; rfl
@[simp] theorem State.finishOp_mem_frames (s : State) (op st d : Nat) : (s.finishOp op st d).mem.frames = s.mem.frames := by
  obtain ⟨x, l, e⟩ := s.finishOp_shape op st d
  rw [e]; rfl
@[simp] theorem State.finishOps_mem_frames (s : State) (p : OpKind → Bool) (st d : Nat) : (s.finishOps p st d).mem.frames = s.mem.frames := by
  obtain ⟨x, l, e⟩ := s.finishOps_shape p st d
  rw [e]; rfl
@[simp] theorem State.finishOp_mem_badFrames (s : State) (op st d : Nat) : (s.finishOp op st d).mem.badFrames = s.mem.badFrames := by
  obtain ⟨x, l, e⟩ := s.finishOp_shape op st d
  rw [e]; rfl
@[simp] theorem State.finishOps_mem_badFrames (s : State) (p : OpKind → Bool) (st d : Nat) : (s.finishOps p st d).mem.badFrames = s.mem.badFrames := by
  obtain ⟨x, l, e⟩ := s.finishOps_shape p st d
  rw [e]; rfl
@[simp] theorem State.finishOp_mem_nextPier (s : State) (op st d : Nat) : (s.finishOp op st d).mem.nextPier = s.mem.nextPier := by
  obtain ⟨x, l, e⟩ := s.finishOp_shape op st d
  rw [e]; rfl
@[simp] theorem State.finishOps_mem_nextPier (s : State) (p : OpKind → Bool) (st d : Nat) : (s.finishOps p st d).mem.nextPier = s.mem.nextPier := by
  obtain ⟨x, l, e⟩ := s.finishOps_shape p st d
  rw [e]; rfl
@[simp] theorem State.finishOp_mem_kvFrames (s : State) (op st d : Nat) : (s.finishOp op st d).mem.kvFrames = s.mem.kvFrames := by
  obtain ⟨x, l, e⟩ := s.finishOp_shape op st d
  rw [e]; rfl
@[simp] theorem State.finishOps_mem_kvFrames (s : State) (p : OpKind → Bool) (st d : Nat) : (s.finishOps p st d).mem.kvFrames = s.mem.kvFrames := by
  obtain ⟨x, l, e⟩ := s.finishOps_shape p st d
  rw [e]; rfl
@[simp] theorem State.finishOp_mem_ch (s : State) (op st d : Nat) : (s.finishOp op st d).mem.ch = s.mem.ch := by
  obtain ⟨x, l, e⟩ := s.finishOp_shape op st d
  rw [e]; rfl
@[simp] theorem State.finishOps_mem_ch (s : State) (p : OpKind → Bool) (st d : Nat) : (s.finishOps p st d).mem.ch = s.mem.ch := by
  obtain ⟨x, l, e⟩ := s.finishOps_shape p st d
  rw [e]; rfl
@[simp] theorem State.finishOp_mem_intRetired (s : State) (op st d : Nat) : (s.finishOp op st d).mem.intRetired = s.mem.intRetired := by
  obtain ⟨x, l, e⟩ := s.finishOp_shape op st d
  rw [e]; rfl
@[simp] theorem State.finishOps_mem_intRetired (s : State) (p : OpKind → Bool) (st d : Nat) : (s.finishOps p st d).mem.intRetired = s.mem.intRetired := by
  obtain ⟨x, l, e⟩ := s.finishOps_shape p st d
  rw [e]; rfl
@[simp] theorem State.finishOp_mem_copies (s : State) (op st d : Nat) : (s.finishOp op st d).mem.copies = s.mem.copies := by
  obtain ⟨x, l, e⟩ := s.finishOp_shape op st d
  rw [e]; rfl
@[simp] theorem State.finishOps_mem_copies (s : State) (p : OpKind → Bool) (st d : Nat) : (s.finishOps p st d).mem.copies = s.mem.copies := by
  obtain ⟨x, l, e⟩ := s.finishOps_shape p st d
  rw [e]; rfl
@[simp] theorem State.finishOp_mem_nextCopy (s : State) (op st d : Nat) : (s.finishOp op st d).mem.nextCopy = s.mem.nextCopy := by
  obtain ⟨x, l, e⟩ := s.finishOp_shape op st d
  rw [e]; rfl
@[simp] theorem State.finishOps_mem_nextCopy (s : State) (p : OpKind → Bool) (st d : Nat) : (s.finishOps p st d).mem.nextCopy = s.mem.nextCopy := by
  obtain ⟨x, l, e⟩ := s.finishOps_shape p st d
  rw [e]; rfl
@[simp] theorem State.finishOp_mem_cbuf (s : State) (op st d : Nat) : (s.finishOp op st d).mem.cbuf = s.mem.cbuf := by
  obtain ⟨x, l, e⟩ := s.finishOp_shape op st d
  rw [e]; rfl
@[simp] theorem State.finishOps_mem_cbuf (s : State) (p : OpKind → Bool) (st d : Nat) : (s.finishOps p st d).mem.cbuf = s.mem.cbuf := by
  obtain ⟨x, l, e⟩ := s.finishOps_shape p st d
  rw [e]; rfl
@[simp] theorem State.finishOp_flt_units (s : State) (op st d : Nat) : (s.finishOp op st d).flt.units = s.flt.units := by
  obtain ⟨x, l, e⟩ := s.finishOp_shape op st d
  rw [e]; rfl
@[simp] theorem State.finishOps_flt_units (s : State) (p : OpKind → Bool) (st d : Nat) : (s.finishOps p st d).flt.units = s.flt.units := by
  obtain ⟨x, l, e⟩ := s.finishOps_shape p st d
  rw [e]; rfl
@[simp] theorem State.finishOp_flt_corrected (s : State) (op st d : Nat) : (s.finishOp op st d).flt.corrected = s.flt.corrected := by
  obtain ⟨x, l, e⟩ := s.finishOp_shape op st d
  rw [e]; rfl
@[simp] theorem State.finishOps_flt_corrected (s : State) (p : OpKind → Bool) (st d : Nat) : (s.finishOps p st d).flt.corrected = s.flt.corrected := by
  obtain ⟨x, l, e⟩ := s.finishOps_shape p st d
  rw [e]; rfl
@[simp] theorem State.finishOp_flt_errors (s : State) (op st d : Nat) : (s.finishOp op st d).flt.errors = s.flt.errors := by
  obtain ⟨x, l, e⟩ := s.finishOp_shape op st d
  rw [e]; rfl
@[simp] theorem State.finishOps_flt_errors (s : State) (p : OpKind → Bool) (st d : Nat) : (s.finishOps p st d).flt.errors = s.flt.errors := by
  obtain ⟨x, l, e⟩ := s.finishOps_shape p st d
  rw [e]; rfl
@[simp] theorem State.finishOp_flt_transient (s : State) (op st d : Nat) : (s.finishOp op st d).flt.transient = s.flt.transient := by
  obtain ⟨x, l, e⟩ := s.finishOp_shape op st d
  rw [e]; rfl
@[simp] theorem State.finishOps_flt_transient (s : State) (p : OpKind → Bool) (st d : Nat) : (s.finishOps p st d).flt.transient = s.flt.transient := by
  obtain ⟨x, l, e⟩ := s.finishOps_shape p st d
  rw [e]; rfl
@[simp] theorem State.finishOp_flt_lasting (s : State) (op st d : Nat) : (s.finishOp op st d).flt.lasting = s.flt.lasting := by
  obtain ⟨x, l, e⟩ := s.finishOp_shape op st d
  rw [e]; rfl
@[simp] theorem State.finishOps_flt_lasting (s : State) (p : OpKind → Bool) (st d : Nat) : (s.finishOps p st d).flt.lasting = s.flt.lasting := by
  obtain ⟨x, l, e⟩ := s.finishOps_shape p st d
  rw [e]; rfl
@[simp] theorem State.finishOp_flt_restarts (s : State) (op st d : Nat) : (s.finishOp op st d).flt.restarts = s.flt.restarts := by
  obtain ⟨x, l, e⟩ := s.finishOp_shape op st d
  rw [e]; rfl
@[simp] theorem State.finishOps_flt_restarts (s : State) (p : OpKind → Bool) (st d : Nat) : (s.finishOps p st d).flt.restarts = s.flt.restarts := by
  obtain ⟨x, l, e⟩ := s.finishOps_shape p st d
  rw [e]; rfl
@[simp] theorem State.finishOp_flt_aborted (s : State) (op st d : Nat) : (s.finishOp op st d).flt.aborted = s.flt.aborted := by
  obtain ⟨x, l, e⟩ := s.finishOp_shape op st d
  rw [e]; rfl
@[simp] theorem State.finishOps_flt_aborted (s : State) (p : OpKind → Bool) (st d : Nat) : (s.finishOps p st d).flt.aborted = s.flt.aborted := by
  obtain ⟨x, l, e⟩ := s.finishOps_shape p st d
  rw [e]; rfl
@[simp] theorem State.finishOp_flt_pierResets (s : State) (op st d : Nat) : (s.finishOp op st d).flt.pierResets = s.flt.pierResets := by
  obtain ⟨x, l, e⟩ := s.finishOp_shape op st d
  rw [e]; rfl
@[simp] theorem State.finishOps_flt_pierResets (s : State) (p : OpKind → Bool) (st d : Nat) : (s.finishOps p st d).flt.pierResets = s.flt.pierResets := by
  obtain ⟨x, l, e⟩ := s.finishOps_shape p st d
  rw [e]; rfl
@[simp] theorem State.finishOp_flt_ledger (s : State) (op st d : Nat) : (s.finishOp op st d).flt.ledger = s.flt.ledger := by
  obtain ⟨x, l, e⟩ := s.finishOp_shape op st d
  rw [e]; rfl
@[simp] theorem State.finishOps_flt_ledger (s : State) (p : OpKind → Bool) (st d : Nat) : (s.finishOps p st d).flt.ledger = s.flt.ledger := by
  obtain ⟨x, l, e⟩ := s.finishOps_shape p st d
  rw [e]; rfl
@[simp] theorem State.finishOp_flt_burns (s : State) (op st d : Nat) : (s.finishOp op st d).flt.burns = s.flt.burns := by
  obtain ⟨x, l, e⟩ := s.finishOp_shape op st d
  rw [e]; rfl
@[simp] theorem State.finishOps_flt_burns (s : State) (p : OpKind → Bool) (st d : Nat) : (s.finishOps p st d).flt.burns = s.flt.burns := by
  obtain ⟨x, l, e⟩ := s.finishOps_shape p st d
  rw [e]; rfl
@[simp] theorem State.finishOp_flt_riddleRetired (s : State) (op st d : Nat) : (s.finishOp op st d).flt.riddleRetired = s.flt.riddleRetired := by
  obtain ⟨x, l, e⟩ := s.finishOp_shape op st d
  rw [e]; rfl
@[simp] theorem State.finishOps_flt_riddleRetired (s : State) (p : OpKind → Bool) (st d : Nat) : (s.finishOps p st d).flt.riddleRetired = s.flt.riddleRetired := by
  obtain ⟨x, l, e⟩ := s.finishOps_shape p st d
  rw [e]; rfl
@[simp] theorem State.finishOp_mem_intCh (s : State) (op st d : Nat) : (s.finishOp op st d).mem.intCh = s.mem.intCh := by
  obtain ⟨x, l, e⟩ := s.finishOp_shape op st d
  rw [e]; rfl
@[simp] theorem State.finishOps_mem_intCh (s : State) (p : OpKind → Bool) (st d : Nat) : (s.finishOps p st d).mem.intCh = s.mem.intCh := by
  obtain ⟨x, l, e⟩ := s.finishOps_shape p st d
  rw [e]; rfl
@[simp] theorem State.finishOp_mem_lossBuf (s : State) (op st d : Nat) : (s.finishOp op st d).mem.lossBuf = s.mem.lossBuf := by
  obtain ⟨x, l, e⟩ := s.finishOp_shape op st d
  rw [e]; rfl
@[simp] theorem State.finishOps_mem_lossBuf (s : State) (p : OpKind → Bool) (st d : Nat) : (s.finishOps p st d).mem.lossBuf = s.mem.lossBuf := by
  obtain ⟨x, l, e⟩ := s.finishOps_shape p st d
  rw [e]; rfl
@[simp] theorem State.ringPush_pending (s : State) (v i : Nat) (x : Rec) : (s.ringPush v i x).pending = s.pending := (State.ringPush_emits s v i x).keeps (fun s => s.pending) fun _ => rfl
@[simp] theorem State.ringPush_now (s : State) (v i : Nat) (x : Rec) : (s.ringPush v i x).now = s.now := (State.ringPush_emits s v i x).keeps (fun s => s.now) fun _ => rfl
@[simp] theorem State.ringPush_idleTicks (s : State) (v i : Nat) (x : Rec) : (s.ringPush v i x).idleTicks = s.idleTicks := (State.ringPush_emits s v i x).keeps (fun s => s.idleTicks) fun _ => rfl
@[simp] theorem State.ringPush_freeIdx (s : State) (v i : Nat) (x : Rec) : (s.ringPush v i x).freeIdx = s.freeIdx := (State.ringPush_emits s v i x).keeps (fun s => s.freeIdx) fun _ => rfl
@[simp] theorem State.ringPush_mason (s : State) (v i : Nat) (x : Rec) : (s.ringPush v i x).mason = s.mason := (State.ringPush_emits s v i x).keeps (fun s => s.mason) fun _ => rfl
@[simp] theorem State.ringPush_parts (s : State) (v i : Nat) (x : Rec) : (s.ringPush v i x).parts = s.parts := (State.ringPush_emits s v i x).keeps (fun s => s.parts) fun _ => rfl
@[simp] theorem State.ringPush_plans (s : State) (v i : Nat) (x : Rec) : (s.ringPush v i x).plans = s.plans := (State.ringPush_emits s v i x).keeps (fun s => s.plans) fun _ => rfl
@[simp] theorem State.ringPush_lastPlan (s : State) (v i : Nat) (x : Rec) : (s.ringPush v i x).lastPlan = s.lastPlan := (State.ringPush_emits s v i x).keeps (fun s => s.lastPlan) fun _ => rfl
@[simp] theorem State.ringPush_courses (s : State) (v i : Nat) (x : Rec) : (s.ringPush v i x).courses = s.courses := (State.ringPush_emits s v i x).keeps (fun s => s.courses) fun _ => rfl
@[simp] theorem State.ringPush_tiles (s : State) (v i : Nat) (x : Rec) : (s.ringPush v i x).tiles = s.tiles := (State.ringPush_emits s v i x).keeps (fun s => s.tiles) fun _ => rfl
@[simp] theorem State.ringPush_piers (s : State) (v i : Nat) (x : Rec) : (s.ringPush v i x).piers = s.piers := (State.ringPush_emits s v i x).keeps (fun s => s.piers) fun _ => rfl
@[simp] theorem State.ringPush_nextOrder (s : State) (v i : Nat) (x : Rec) : (s.ringPush v i x).nextOrder = s.nextOrder := (State.ringPush_emits s v i x).keeps (fun s => s.nextOrder) fun _ => rfl
@[simp] theorem State.ringPush_trowel (s : State) (v i : Nat) (x : Rec) : (s.ringPush v i x).trowel = s.trowel := (State.ringPush_emits s v i x).keeps (fun s => s.trowel) fun _ => rfl
@[simp] theorem State.ringPush_power (s : State) (v i : Nat) (x : Rec) : (s.ringPush v i x).power = s.power := (State.ringPush_emits s v i x).keeps (fun s => s.power) fun _ => rfl
@[simp] theorem State.ringPush_therm (s : State) (v i : Nat) (x : Rec) : (s.ringPush v i x).therm = s.therm := (State.ringPush_emits s v i x).keeps (fun s => s.therm) fun _ => rfl
@[simp] theorem State.ringPush_twin (s : State) (v i : Nat) (x : Rec) : (s.ringPush v i x).twin = s.twin := (State.ringPush_emits s v i x).keeps (fun s => s.twin) fun _ => rfl
@[simp] theorem State.ringPush_sec (s : State) (v i : Nat) (x : Rec) : (s.ringPush v i x).sec = s.sec := (State.ringPush_emits s v i x).keeps (fun s => s.sec) fun _ => rfl
@[simp] theorem State.ringPush_mem_intCh (s : State) (v i : Nat) (x : Rec) : (s.ringPush v i x).mem.intCh = s.mem.intCh := (State.ringPush_emits s v i x).keeps (fun s => s.mem.intCh) fun _ => rfl
@[simp] theorem State.ringPush_mem_lossBuf (s : State) (v i : Nat) (x : Rec) : (s.ringPush v i x).mem.lossBuf = s.mem.lossBuf := (State.ringPush_emits s v i x).keeps (fun s => s.mem.lossBuf) fun _ => rfl
@[simp] theorem State.ringPush_fw (s : State) (v i : Nat) (x : Rec) : (s.ringPush v i x).fw = s.fw := (State.ringPush_emits s v i x).keeps (fun s => s.fw) fun _ => rfl
@[simp] theorem State.ringPush_host_pfMb (s : State) (v i : Nat) (x : Rec) : (s.ringPush v i x).host.pfMb = s.host.pfMb := (State.ringPush_emits s v i x).keeps (fun s => s.host.pfMb) fun _ => rfl
@[simp] theorem State.ringPush_host_vfMb (s : State) (v i : Nat) (x : Rec) : (s.ringPush v i x).host.vfMb = s.host.vfMb := (State.ringPush_emits s v i x).keeps (fun s => s.host.vfMb) fun _ => rfl
@[simp] theorem State.ringPush_host_slotBind (s : State) (v i : Nat) (x : Rec) : (s.ringPush v i x).host.slotBind = s.host.slotBind := (State.ringPush_emits s v i x).keeps (fun s => s.host.slotBind) fun _ => rfl
@[simp] theorem State.ringPush_host_lastRead (s : State) (v i : Nat) (x : Rec) : (s.ringPush v i x).host.lastRead = s.host.lastRead := (State.ringPush_emits s v i x).keeps (fun s => s.host.lastRead) fun _ => rfl
@[simp] theorem State.ringPush_mem_hbm (s : State) (v i : Nat) (x : Rec) : (s.ringPush v i x).mem.hbm = s.mem.hbm := (State.ringPush_emits s v i x).keeps (fun s => s.mem.hbm) fun _ => rfl
@[simp] theorem State.ringPush_mem_frames (s : State) (v i : Nat) (x : Rec) : (s.ringPush v i x).mem.frames = s.mem.frames := (State.ringPush_emits s v i x).keeps (fun s => s.mem.frames) fun _ => rfl
@[simp] theorem State.ringPush_mem_badFrames (s : State) (v i : Nat) (x : Rec) : (s.ringPush v i x).mem.badFrames = s.mem.badFrames := (State.ringPush_emits s v i x).keeps (fun s => s.mem.badFrames) fun _ => rfl
@[simp] theorem State.ringPush_mem_nextPier (s : State) (v i : Nat) (x : Rec) : (s.ringPush v i x).mem.nextPier = s.mem.nextPier := (State.ringPush_emits s v i x).keeps (fun s => s.mem.nextPier) fun _ => rfl
@[simp] theorem State.ringPush_mem_kvFrames (s : State) (v i : Nat) (x : Rec) : (s.ringPush v i x).mem.kvFrames = s.mem.kvFrames := (State.ringPush_emits s v i x).keeps (fun s => s.mem.kvFrames) fun _ => rfl
@[simp] theorem State.ringPush_mem_ch (s : State) (v i : Nat) (x : Rec) : (s.ringPush v i x).mem.ch = s.mem.ch := (State.ringPush_emits s v i x).keeps (fun s => s.mem.ch) fun _ => rfl
@[simp] theorem State.ringPush_mem_intRetired (s : State) (v i : Nat) (x : Rec) : (s.ringPush v i x).mem.intRetired = s.mem.intRetired := (State.ringPush_emits s v i x).keeps (fun s => s.mem.intRetired) fun _ => rfl
@[simp] theorem State.ringPush_mem_copies (s : State) (v i : Nat) (x : Rec) : (s.ringPush v i x).mem.copies = s.mem.copies := (State.ringPush_emits s v i x).keeps (fun s => s.mem.copies) fun _ => rfl
@[simp] theorem State.ringPush_mem_nextCopy (s : State) (v i : Nat) (x : Rec) : (s.ringPush v i x).mem.nextCopy = s.mem.nextCopy := (State.ringPush_emits s v i x).keeps (fun s => s.mem.nextCopy) fun _ => rfl
@[simp] theorem State.ringPush_mem_cbuf (s : State) (v i : Nat) (x : Rec) : (s.ringPush v i x).mem.cbuf = s.mem.cbuf := (State.ringPush_emits s v i x).keeps (fun s => s.mem.cbuf) fun _ => rfl
@[simp] theorem State.ringPush_flt_units (s : State) (v i : Nat) (x : Rec) : (s.ringPush v i x).flt.units = s.flt.units := (State.ringPush_emits s v i x).keeps (fun s => s.flt.units) fun _ => rfl
@[simp] theorem State.ringPush_flt_corrected (s : State) (v i : Nat) (x : Rec) : (s.ringPush v i x).flt.corrected = s.flt.corrected := (State.ringPush_emits s v i x).keeps (fun s => s.flt.corrected) fun _ => rfl
@[simp] theorem State.ringPush_flt_errors (s : State) (v i : Nat) (x : Rec) : (s.ringPush v i x).flt.errors = s.flt.errors := (State.ringPush_emits s v i x).keeps (fun s => s.flt.errors) fun _ => rfl
@[simp] theorem State.ringPush_flt_transient (s : State) (v i : Nat) (x : Rec) : (s.ringPush v i x).flt.transient = s.flt.transient := (State.ringPush_emits s v i x).keeps (fun s => s.flt.transient) fun _ => rfl
@[simp] theorem State.ringPush_flt_lasting (s : State) (v i : Nat) (x : Rec) : (s.ringPush v i x).flt.lasting = s.flt.lasting := (State.ringPush_emits s v i x).keeps (fun s => s.flt.lasting) fun _ => rfl
@[simp] theorem State.ringPush_flt_restarts (s : State) (v i : Nat) (x : Rec) : (s.ringPush v i x).flt.restarts = s.flt.restarts := (State.ringPush_emits s v i x).keeps (fun s => s.flt.restarts) fun _ => rfl
@[simp] theorem State.ringPush_flt_aborted (s : State) (v i : Nat) (x : Rec) : (s.ringPush v i x).flt.aborted = s.flt.aborted := (State.ringPush_emits s v i x).keeps (fun s => s.flt.aborted) fun _ => rfl
@[simp] theorem State.ringPush_flt_pierResets (s : State) (v i : Nat) (x : Rec) : (s.ringPush v i x).flt.pierResets = s.flt.pierResets := (State.ringPush_emits s v i x).keeps (fun s => s.flt.pierResets) fun _ => rfl
@[simp] theorem State.ringPush_flt_ledger (s : State) (v i : Nat) (x : Rec) : (s.ringPush v i x).flt.ledger = s.flt.ledger := (State.ringPush_emits s v i x).keeps (fun s => s.flt.ledger) fun _ => rfl
@[simp] theorem State.ringPush_flt_burns (s : State) (v i : Nat) (x : Rec) : (s.ringPush v i x).flt.burns = s.flt.burns := (State.ringPush_emits s v i x).keeps (fun s => s.flt.burns) fun _ => rfl
@[simp] theorem State.ringPush_flt_riddleRetired (s : State) (v i : Nat) (x : Rec) : (s.ringPush v i x).flt.riddleRetired = s.flt.riddleRetired := (State.ringPush_emits s v i x).keeps (fun s => s.flt.riddleRetired) fun _ => rfl
@[simp] theorem State.release_pending (s : State) (x : Rec) (a : List Byte) (p : Bool) : (s.release x a p).pending = s.pending := (State.release_emits s x a p).keeps (fun s => s.pending) fun _ => rfl
@[simp] theorem State.release_now (s : State) (x : Rec) (a : List Byte) (p : Bool) : (s.release x a p).now = s.now := (State.release_emits s x a p).keeps (fun s => s.now) fun _ => rfl
@[simp] theorem State.release_idleTicks (s : State) (x : Rec) (a : List Byte) (p : Bool) : (s.release x a p).idleTicks = s.idleTicks := (State.release_emits s x a p).keeps (fun s => s.idleTicks) fun _ => rfl
@[simp] theorem State.release_freeIdx (s : State) (x : Rec) (a : List Byte) (p : Bool) : (s.release x a p).freeIdx = s.freeIdx := (State.release_emits s x a p).keeps (fun s => s.freeIdx) fun _ => rfl
@[simp] theorem State.release_mason (s : State) (x : Rec) (a : List Byte) (p : Bool) : (s.release x a p).mason = s.mason := (State.release_emits s x a p).keeps (fun s => s.mason) fun _ => rfl
@[simp] theorem State.release_parts (s : State) (x : Rec) (a : List Byte) (p : Bool) : (s.release x a p).parts = s.parts := (State.release_emits s x a p).keeps (fun s => s.parts) fun _ => rfl
@[simp] theorem State.release_plans (s : State) (x : Rec) (a : List Byte) (p : Bool) : (s.release x a p).plans = s.plans := (State.release_emits s x a p).keeps (fun s => s.plans) fun _ => rfl
@[simp] theorem State.release_lastPlan (s : State) (x : Rec) (a : List Byte) (p : Bool) : (s.release x a p).lastPlan = s.lastPlan := (State.release_emits s x a p).keeps (fun s => s.lastPlan) fun _ => rfl
@[simp] theorem State.release_courses (s : State) (x : Rec) (a : List Byte) (p : Bool) : (s.release x a p).courses = s.courses := (State.release_emits s x a p).keeps (fun s => s.courses) fun _ => rfl
@[simp] theorem State.release_tiles (s : State) (x : Rec) (a : List Byte) (p : Bool) : (s.release x a p).tiles = s.tiles := (State.release_emits s x a p).keeps (fun s => s.tiles) fun _ => rfl
@[simp] theorem State.release_piers (s : State) (x : Rec) (a : List Byte) (p : Bool) : (s.release x a p).piers = s.piers := (State.release_emits s x a p).keeps (fun s => s.piers) fun _ => rfl
@[simp] theorem State.release_nextOrder (s : State) (x : Rec) (a : List Byte) (p : Bool) : (s.release x a p).nextOrder = s.nextOrder := (State.release_emits s x a p).keeps (fun s => s.nextOrder) fun _ => rfl
@[simp] theorem State.release_trowel (s : State) (x : Rec) (a : List Byte) (p : Bool) : (s.release x a p).trowel = s.trowel := (State.release_emits s x a p).keeps (fun s => s.trowel) fun _ => rfl
@[simp] theorem State.release_power (s : State) (x : Rec) (a : List Byte) (p : Bool) : (s.release x a p).power = s.power := (State.release_emits s x a p).keeps (fun s => s.power) fun _ => rfl
@[simp] theorem State.release_therm (s : State) (x : Rec) (a : List Byte) (p : Bool) : (s.release x a p).therm = s.therm := (State.release_emits s x a p).keeps (fun s => s.therm) fun _ => rfl
@[simp] theorem State.release_twin (s : State) (x : Rec) (a : List Byte) (p : Bool) : (s.release x a p).twin = s.twin := (State.release_emits s x a p).keeps (fun s => s.twin) fun _ => rfl
@[simp] theorem State.release_sec (s : State) (x : Rec) (a : List Byte) (p : Bool) : (s.release x a p).sec = s.sec := (State.release_emits s x a p).keeps (fun s => s.sec) fun _ => rfl
@[simp] theorem State.release_mem_intCh (s : State) (x : Rec) (a : List Byte) (p : Bool) : (s.release x a p).mem.intCh = s.mem.intCh := (State.release_emits s x a p).keeps (fun s => s.mem.intCh) fun _ => rfl
@[simp] theorem State.release_mem_lossBuf (s : State) (x : Rec) (a : List Byte) (p : Bool) : (s.release x a p).mem.lossBuf = s.mem.lossBuf := (State.release_emits s x a p).keeps (fun s => s.mem.lossBuf) fun _ => rfl
@[simp] theorem State.release_fw (s : State) (x : Rec) (a : List Byte) (p : Bool) : (s.release x a p).fw = s.fw := (State.release_emits s x a p).keeps (fun s => s.fw) fun _ => rfl
@[simp] theorem State.release_host_pfMb (s : State) (x : Rec) (a : List Byte) (p : Bool) : (s.release x a p).host.pfMb = s.host.pfMb := (State.release_emits s x a p).keeps (fun s => s.host.pfMb) fun _ => rfl
@[simp] theorem State.release_host_vfMb (s : State) (x : Rec) (a : List Byte) (p : Bool) : (s.release x a p).host.vfMb = s.host.vfMb := (State.release_emits s x a p).keeps (fun s => s.host.vfMb) fun _ => rfl
@[simp] theorem State.release_host_slotBind (s : State) (x : Rec) (a : List Byte) (p : Bool) : (s.release x a p).host.slotBind = s.host.slotBind := (State.release_emits s x a p).keeps (fun s => s.host.slotBind) fun _ => rfl
@[simp] theorem State.release_host_lastRead (s : State) (x : Rec) (a : List Byte) (p : Bool) : (s.release x a p).host.lastRead = s.host.lastRead := (State.release_emits s x a p).keeps (fun s => s.host.lastRead) fun _ => rfl
@[simp] theorem State.release_mem_hbm (s : State) (x : Rec) (a : List Byte) (p : Bool) : (s.release x a p).mem.hbm = s.mem.hbm := (State.release_emits s x a p).keeps (fun s => s.mem.hbm) fun _ => rfl
@[simp] theorem State.release_mem_frames (s : State) (x : Rec) (a : List Byte) (p : Bool) : (s.release x a p).mem.frames = s.mem.frames := (State.release_emits s x a p).keeps (fun s => s.mem.frames) fun _ => rfl
@[simp] theorem State.release_mem_badFrames (s : State) (x : Rec) (a : List Byte) (p : Bool) : (s.release x a p).mem.badFrames = s.mem.badFrames := (State.release_emits s x a p).keeps (fun s => s.mem.badFrames) fun _ => rfl
@[simp] theorem State.release_mem_nextPier (s : State) (x : Rec) (a : List Byte) (p : Bool) : (s.release x a p).mem.nextPier = s.mem.nextPier := (State.release_emits s x a p).keeps (fun s => s.mem.nextPier) fun _ => rfl
@[simp] theorem State.release_mem_kvFrames (s : State) (x : Rec) (a : List Byte) (p : Bool) : (s.release x a p).mem.kvFrames = s.mem.kvFrames := (State.release_emits s x a p).keeps (fun s => s.mem.kvFrames) fun _ => rfl
@[simp] theorem State.release_mem_ch (s : State) (x : Rec) (a : List Byte) (p : Bool) : (s.release x a p).mem.ch = s.mem.ch := (State.release_emits s x a p).keeps (fun s => s.mem.ch) fun _ => rfl
@[simp] theorem State.release_mem_intRetired (s : State) (x : Rec) (a : List Byte) (p : Bool) : (s.release x a p).mem.intRetired = s.mem.intRetired := (State.release_emits s x a p).keeps (fun s => s.mem.intRetired) fun _ => rfl
@[simp] theorem State.release_mem_copies (s : State) (x : Rec) (a : List Byte) (p : Bool) : (s.release x a p).mem.copies = s.mem.copies := (State.release_emits s x a p).keeps (fun s => s.mem.copies) fun _ => rfl
@[simp] theorem State.release_mem_nextCopy (s : State) (x : Rec) (a : List Byte) (p : Bool) : (s.release x a p).mem.nextCopy = s.mem.nextCopy := (State.release_emits s x a p).keeps (fun s => s.mem.nextCopy) fun _ => rfl
@[simp] theorem State.release_mem_cbuf (s : State) (x : Rec) (a : List Byte) (p : Bool) : (s.release x a p).mem.cbuf = s.mem.cbuf := (State.release_emits s x a p).keeps (fun s => s.mem.cbuf) fun _ => rfl
@[simp] theorem State.release_flt_units (s : State) (x : Rec) (a : List Byte) (p : Bool) : (s.release x a p).flt.units = s.flt.units := (State.release_emits s x a p).keeps (fun s => s.flt.units) fun _ => rfl
@[simp] theorem State.release_flt_corrected (s : State) (x : Rec) (a : List Byte) (p : Bool) : (s.release x a p).flt.corrected = s.flt.corrected := (State.release_emits s x a p).keeps (fun s => s.flt.corrected) fun _ => rfl
@[simp] theorem State.release_flt_errors (s : State) (x : Rec) (a : List Byte) (p : Bool) : (s.release x a p).flt.errors = s.flt.errors := (State.release_emits s x a p).keeps (fun s => s.flt.errors) fun _ => rfl
@[simp] theorem State.release_flt_transient (s : State) (x : Rec) (a : List Byte) (p : Bool) : (s.release x a p).flt.transient = s.flt.transient := (State.release_emits s x a p).keeps (fun s => s.flt.transient) fun _ => rfl
@[simp] theorem State.release_flt_lasting (s : State) (x : Rec) (a : List Byte) (p : Bool) : (s.release x a p).flt.lasting = s.flt.lasting := (State.release_emits s x a p).keeps (fun s => s.flt.lasting) fun _ => rfl
@[simp] theorem State.release_flt_restarts (s : State) (x : Rec) (a : List Byte) (p : Bool) : (s.release x a p).flt.restarts = s.flt.restarts := (State.release_emits s x a p).keeps (fun s => s.flt.restarts) fun _ => rfl
@[simp] theorem State.release_flt_aborted (s : State) (x : Rec) (a : List Byte) (p : Bool) : (s.release x a p).flt.aborted = s.flt.aborted := (State.release_emits s x a p).keeps (fun s => s.flt.aborted) fun _ => rfl
@[simp] theorem State.release_flt_pierResets (s : State) (x : Rec) (a : List Byte) (p : Bool) : (s.release x a p).flt.pierResets = s.flt.pierResets := (State.release_emits s x a p).keeps (fun s => s.flt.pierResets) fun _ => rfl
@[simp] theorem State.release_flt_ledger (s : State) (x : Rec) (a : List Byte) (p : Bool) : (s.release x a p).flt.ledger = s.flt.ledger := (State.release_emits s x a p).keeps (fun s => s.flt.ledger) fun _ => rfl
@[simp] theorem State.release_flt_burns (s : State) (x : Rec) (a : List Byte) (p : Bool) : (s.release x a p).flt.burns = s.flt.burns := (State.release_emits s x a p).keeps (fun s => s.flt.burns) fun _ => rfl
@[simp] theorem State.release_flt_riddleRetired (s : State) (x : Rec) (a : List Byte) (p : Bool) : (s.release x a p).flt.riddleRetired = s.flt.riddleRetired := (State.release_emits s x a p).keeps (fun s => s.flt.riddleRetired) fun _ => rfl
@[simp] theorem State.contextEvent_pending (s : State) (n d : Nat) (b : List Byte) : (s.contextEvent n d b).pending = s.pending := (State.contextEvent_emits s n d b).keeps (fun s => s.pending) fun _ => rfl
@[simp] theorem State.contextEvent_now (s : State) (n d : Nat) (b : List Byte) : (s.contextEvent n d b).now = s.now := (State.contextEvent_emits s n d b).keeps (fun s => s.now) fun _ => rfl
@[simp] theorem State.contextEvent_idleTicks (s : State) (n d : Nat) (b : List Byte) : (s.contextEvent n d b).idleTicks = s.idleTicks := (State.contextEvent_emits s n d b).keeps (fun s => s.idleTicks) fun _ => rfl
@[simp] theorem State.contextEvent_freeIdx (s : State) (n d : Nat) (b : List Byte) : (s.contextEvent n d b).freeIdx = s.freeIdx := (State.contextEvent_emits s n d b).keeps (fun s => s.freeIdx) fun _ => rfl
@[simp] theorem State.contextEvent_mason (s : State) (n d : Nat) (b : List Byte) : (s.contextEvent n d b).mason = s.mason := (State.contextEvent_emits s n d b).keeps (fun s => s.mason) fun _ => rfl
@[simp] theorem State.contextEvent_parts (s : State) (n d : Nat) (b : List Byte) : (s.contextEvent n d b).parts = s.parts := (State.contextEvent_emits s n d b).keeps (fun s => s.parts) fun _ => rfl
@[simp] theorem State.contextEvent_plans (s : State) (n d : Nat) (b : List Byte) : (s.contextEvent n d b).plans = s.plans := (State.contextEvent_emits s n d b).keeps (fun s => s.plans) fun _ => rfl
@[simp] theorem State.contextEvent_lastPlan (s : State) (n d : Nat) (b : List Byte) : (s.contextEvent n d b).lastPlan = s.lastPlan := (State.contextEvent_emits s n d b).keeps (fun s => s.lastPlan) fun _ => rfl
@[simp] theorem State.contextEvent_courses (s : State) (n d : Nat) (b : List Byte) : (s.contextEvent n d b).courses = s.courses := (State.contextEvent_emits s n d b).keeps (fun s => s.courses) fun _ => rfl
@[simp] theorem State.contextEvent_tiles (s : State) (n d : Nat) (b : List Byte) : (s.contextEvent n d b).tiles = s.tiles := (State.contextEvent_emits s n d b).keeps (fun s => s.tiles) fun _ => rfl
@[simp] theorem State.contextEvent_piers (s : State) (n d : Nat) (b : List Byte) : (s.contextEvent n d b).piers = s.piers := (State.contextEvent_emits s n d b).keeps (fun s => s.piers) fun _ => rfl
@[simp] theorem State.contextEvent_nextOrder (s : State) (n d : Nat) (b : List Byte) : (s.contextEvent n d b).nextOrder = s.nextOrder := (State.contextEvent_emits s n d b).keeps (fun s => s.nextOrder) fun _ => rfl
@[simp] theorem State.contextEvent_trowel (s : State) (n d : Nat) (b : List Byte) : (s.contextEvent n d b).trowel = s.trowel := (State.contextEvent_emits s n d b).keeps (fun s => s.trowel) fun _ => rfl
@[simp] theorem State.contextEvent_power (s : State) (n d : Nat) (b : List Byte) : (s.contextEvent n d b).power = s.power := (State.contextEvent_emits s n d b).keeps (fun s => s.power) fun _ => rfl
@[simp] theorem State.contextEvent_therm (s : State) (n d : Nat) (b : List Byte) : (s.contextEvent n d b).therm = s.therm := (State.contextEvent_emits s n d b).keeps (fun s => s.therm) fun _ => rfl
@[simp] theorem State.contextEvent_twin (s : State) (n d : Nat) (b : List Byte) : (s.contextEvent n d b).twin = s.twin := (State.contextEvent_emits s n d b).keeps (fun s => s.twin) fun _ => rfl
@[simp] theorem State.contextEvent_sec (s : State) (n d : Nat) (b : List Byte) : (s.contextEvent n d b).sec = s.sec := (State.contextEvent_emits s n d b).keeps (fun s => s.sec) fun _ => rfl
@[simp] theorem State.contextEvent_mem_intCh (s : State) (n d : Nat) (b : List Byte) : (s.contextEvent n d b).mem.intCh = s.mem.intCh := (State.contextEvent_emits s n d b).keeps (fun s => s.mem.intCh) fun _ => rfl
@[simp] theorem State.contextEvent_mem_lossBuf (s : State) (n d : Nat) (b : List Byte) : (s.contextEvent n d b).mem.lossBuf = s.mem.lossBuf := (State.contextEvent_emits s n d b).keeps (fun s => s.mem.lossBuf) fun _ => rfl
@[simp] theorem State.contextEvent_fw (s : State) (n d : Nat) (b : List Byte) : (s.contextEvent n d b).fw = s.fw := (State.contextEvent_emits s n d b).keeps (fun s => s.fw) fun _ => rfl
@[simp] theorem State.contextEvent_host_pfMb (s : State) (n d : Nat) (b : List Byte) : (s.contextEvent n d b).host.pfMb = s.host.pfMb := (State.contextEvent_emits s n d b).keeps (fun s => s.host.pfMb) fun _ => rfl
@[simp] theorem State.contextEvent_host_vfMb (s : State) (n d : Nat) (b : List Byte) : (s.contextEvent n d b).host.vfMb = s.host.vfMb := (State.contextEvent_emits s n d b).keeps (fun s => s.host.vfMb) fun _ => rfl
@[simp] theorem State.contextEvent_host_slotBind (s : State) (n d : Nat) (b : List Byte) : (s.contextEvent n d b).host.slotBind = s.host.slotBind := (State.contextEvent_emits s n d b).keeps (fun s => s.host.slotBind) fun _ => rfl
@[simp] theorem State.contextEvent_host_lastRead (s : State) (n d : Nat) (b : List Byte) : (s.contextEvent n d b).host.lastRead = s.host.lastRead := (State.contextEvent_emits s n d b).keeps (fun s => s.host.lastRead) fun _ => rfl
@[simp] theorem State.contextEvent_mem_hbm (s : State) (n d : Nat) (b : List Byte) : (s.contextEvent n d b).mem.hbm = s.mem.hbm := (State.contextEvent_emits s n d b).keeps (fun s => s.mem.hbm) fun _ => rfl
@[simp] theorem State.contextEvent_mem_frames (s : State) (n d : Nat) (b : List Byte) : (s.contextEvent n d b).mem.frames = s.mem.frames := (State.contextEvent_emits s n d b).keeps (fun s => s.mem.frames) fun _ => rfl
@[simp] theorem State.contextEvent_mem_badFrames (s : State) (n d : Nat) (b : List Byte) : (s.contextEvent n d b).mem.badFrames = s.mem.badFrames := (State.contextEvent_emits s n d b).keeps (fun s => s.mem.badFrames) fun _ => rfl
@[simp] theorem State.contextEvent_mem_nextPier (s : State) (n d : Nat) (b : List Byte) : (s.contextEvent n d b).mem.nextPier = s.mem.nextPier := (State.contextEvent_emits s n d b).keeps (fun s => s.mem.nextPier) fun _ => rfl
@[simp] theorem State.contextEvent_mem_kvFrames (s : State) (n d : Nat) (b : List Byte) : (s.contextEvent n d b).mem.kvFrames = s.mem.kvFrames := (State.contextEvent_emits s n d b).keeps (fun s => s.mem.kvFrames) fun _ => rfl
@[simp] theorem State.contextEvent_mem_ch (s : State) (n d : Nat) (b : List Byte) : (s.contextEvent n d b).mem.ch = s.mem.ch := (State.contextEvent_emits s n d b).keeps (fun s => s.mem.ch) fun _ => rfl
@[simp] theorem State.contextEvent_mem_intRetired (s : State) (n d : Nat) (b : List Byte) : (s.contextEvent n d b).mem.intRetired = s.mem.intRetired := (State.contextEvent_emits s n d b).keeps (fun s => s.mem.intRetired) fun _ => rfl
@[simp] theorem State.contextEvent_mem_copies (s : State) (n d : Nat) (b : List Byte) : (s.contextEvent n d b).mem.copies = s.mem.copies := (State.contextEvent_emits s n d b).keeps (fun s => s.mem.copies) fun _ => rfl
@[simp] theorem State.contextEvent_mem_nextCopy (s : State) (n d : Nat) (b : List Byte) : (s.contextEvent n d b).mem.nextCopy = s.mem.nextCopy := (State.contextEvent_emits s n d b).keeps (fun s => s.mem.nextCopy) fun _ => rfl
@[simp] theorem State.contextEvent_mem_cbuf (s : State) (n d : Nat) (b : List Byte) : (s.contextEvent n d b).mem.cbuf = s.mem.cbuf := (State.contextEvent_emits s n d b).keeps (fun s => s.mem.cbuf) fun _ => rfl
@[simp] theorem State.contextEvent_flt_units (s : State) (n d : Nat) (b : List Byte) : (s.contextEvent n d b).flt.units = s.flt.units := (State.contextEvent_emits s n d b).keeps (fun s => s.flt.units) fun _ => rfl
@[simp] theorem State.contextEvent_flt_corrected (s : State) (n d : Nat) (b : List Byte) : (s.contextEvent n d b).flt.corrected = s.flt.corrected := (State.contextEvent_emits s n d b).keeps (fun s => s.flt.corrected) fun _ => rfl
@[simp] theorem State.contextEvent_flt_errors (s : State) (n d : Nat) (b : List Byte) : (s.contextEvent n d b).flt.errors = s.flt.errors := (State.contextEvent_emits s n d b).keeps (fun s => s.flt.errors) fun _ => rfl
@[simp] theorem State.contextEvent_flt_transient (s : State) (n d : Nat) (b : List Byte) : (s.contextEvent n d b).flt.transient = s.flt.transient := (State.contextEvent_emits s n d b).keeps (fun s => s.flt.transient) fun _ => rfl
@[simp] theorem State.contextEvent_flt_lasting (s : State) (n d : Nat) (b : List Byte) : (s.contextEvent n d b).flt.lasting = s.flt.lasting := (State.contextEvent_emits s n d b).keeps (fun s => s.flt.lasting) fun _ => rfl
@[simp] theorem State.contextEvent_flt_restarts (s : State) (n d : Nat) (b : List Byte) : (s.contextEvent n d b).flt.restarts = s.flt.restarts := (State.contextEvent_emits s n d b).keeps (fun s => s.flt.restarts) fun _ => rfl
@[simp] theorem State.contextEvent_flt_aborted (s : State) (n d : Nat) (b : List Byte) : (s.contextEvent n d b).flt.aborted = s.flt.aborted := (State.contextEvent_emits s n d b).keeps (fun s => s.flt.aborted) fun _ => rfl
@[simp] theorem State.contextEvent_flt_pierResets (s : State) (n d : Nat) (b : List Byte) : (s.contextEvent n d b).flt.pierResets = s.flt.pierResets := (State.contextEvent_emits s n d b).keeps (fun s => s.flt.pierResets) fun _ => rfl
@[simp] theorem State.contextEvent_flt_ledger (s : State) (n d : Nat) (b : List Byte) : (s.contextEvent n d b).flt.ledger = s.flt.ledger := (State.contextEvent_emits s n d b).keeps (fun s => s.flt.ledger) fun _ => rfl
@[simp] theorem State.contextEvent_flt_burns (s : State) (n d : Nat) (b : List Byte) : (s.contextEvent n d b).flt.burns = s.flt.burns := (State.contextEvent_emits s n d b).keeps (fun s => s.flt.burns) fun _ => rfl
@[simp] theorem State.contextEvent_flt_riddleRetired (s : State) (n d : Nat) (b : List Byte) : (s.contextEvent n d b).flt.riddleRetired = s.flt.riddleRetired := (State.contextEvent_emits s n d b).keeps (fun s => s.flt.riddleRetired) fun _ => rfl
@[simp] theorem State.shedItem_mem_intCh (s : State) (i : Item) (c : Nat) : (s.shedItem i c).mem.intCh = s.mem.intCh := (State.shedItem_sheds s i c).keeps (fun s => s.mem.intCh) fun _ _ _ _ => rfl
@[simp] theorem State.shedOld_mem_intCh (s : State) (r : Res) : (s.shedOld r).mem.intCh = s.mem.intCh := (State.shedOld_sheds s r).keeps (fun s => s.mem.intCh) fun _ _ _ _ => rfl
@[simp] theorem State.shedItem_pending (s : State) (i : Item) (c : Nat) : (s.shedItem i c).pending = s.pending := (State.shedItem_sheds s i c).keeps (fun s => s.pending) fun _ _ _ _ => rfl
@[simp] theorem State.shedItem_now (s : State) (i : Item) (c : Nat) : (s.shedItem i c).now = s.now := (State.shedItem_sheds s i c).keeps (fun s => s.now) fun _ _ _ _ => rfl
@[simp] theorem State.shedItem_idleTicks (s : State) (i : Item) (c : Nat) : (s.shedItem i c).idleTicks = s.idleTicks := (State.shedItem_sheds s i c).keeps (fun s => s.idleTicks) fun _ _ _ _ => rfl
@[simp] theorem State.shedItem_freeIdx (s : State) (i : Item) (c : Nat) : (s.shedItem i c).freeIdx = s.freeIdx := (State.shedItem_sheds s i c).keeps (fun s => s.freeIdx) fun _ _ _ _ => rfl
@[simp] theorem State.shedItem_mason (s : State) (i : Item) (c : Nat) : (s.shedItem i c).mason = s.mason := (State.shedItem_sheds s i c).keeps (fun s => s.mason) fun _ _ _ _ => rfl
@[simp] theorem State.shedItem_parts (s : State) (i : Item) (c : Nat) : (s.shedItem i c).parts = s.parts := (State.shedItem_sheds s i c).keeps (fun s => s.parts) fun _ _ _ _ => rfl
@[simp] theorem State.shedItem_plans (s : State) (i : Item) (c : Nat) : (s.shedItem i c).plans = s.plans := (State.shedItem_sheds s i c).keeps (fun s => s.plans) fun _ _ _ _ => rfl
@[simp] theorem State.shedItem_lastPlan (s : State) (i : Item) (c : Nat) : (s.shedItem i c).lastPlan = s.lastPlan := (State.shedItem_sheds s i c).keeps (fun s => s.lastPlan) fun _ _ _ _ => rfl
@[simp] theorem State.shedItem_tiles (s : State) (i : Item) (c : Nat) : (s.shedItem i c).tiles = s.tiles := (State.shedItem_sheds s i c).keeps (fun s => s.tiles) fun _ _ _ _ => rfl
@[simp] theorem State.shedItem_nextOrder (s : State) (i : Item) (c : Nat) : (s.shedItem i c).nextOrder = s.nextOrder := (State.shedItem_sheds s i c).keeps (fun s => s.nextOrder) fun _ _ _ _ => rfl
@[simp] theorem State.shedItem_trowel (s : State) (i : Item) (c : Nat) : (s.shedItem i c).trowel = s.trowel := (State.shedItem_sheds s i c).keeps (fun s => s.trowel) fun _ _ _ _ => rfl
@[simp] theorem State.shedItem_power (s : State) (i : Item) (c : Nat) : (s.shedItem i c).power = s.power := (State.shedItem_sheds s i c).keeps (fun s => s.power) fun _ _ _ _ => rfl
@[simp] theorem State.shedItem_therm (s : State) (i : Item) (c : Nat) : (s.shedItem i c).therm = s.therm := (State.shedItem_sheds s i c).keeps (fun s => s.therm) fun _ _ _ _ => rfl
@[simp] theorem State.shedItem_twin (s : State) (i : Item) (c : Nat) : (s.shedItem i c).twin = s.twin := (State.shedItem_sheds s i c).keeps (fun s => s.twin) fun _ _ _ _ => rfl
@[simp] theorem State.shedItem_sec (s : State) (i : Item) (c : Nat) : (s.shedItem i c).sec = s.sec := (State.shedItem_sheds s i c).keeps (fun s => s.sec) fun _ _ _ _ => rfl
@[simp] theorem State.shedItem_fw (s : State) (i : Item) (c : Nat) : (s.shedItem i c).fw = s.fw := (State.shedItem_sheds s i c).keeps (fun s => s.fw) fun _ _ _ _ => rfl
@[simp] theorem State.shedItem_host_pfMb (s : State) (i : Item) (c : Nat) : (s.shedItem i c).host.pfMb = s.host.pfMb := (State.shedItem_sheds s i c).keeps (fun s => s.host.pfMb) fun _ _ _ _ => rfl
@[simp] theorem State.shedItem_host_vfMb (s : State) (i : Item) (c : Nat) : (s.shedItem i c).host.vfMb = s.host.vfMb := (State.shedItem_sheds s i c).keeps (fun s => s.host.vfMb) fun _ _ _ _ => rfl
@[simp] theorem State.shedItem_host_slotBind (s : State) (i : Item) (c : Nat) : (s.shedItem i c).host.slotBind = s.host.slotBind := (State.shedItem_sheds s i c).keeps (fun s => s.host.slotBind) fun _ _ _ _ => rfl
@[simp] theorem State.shedItem_host_lastRead (s : State) (i : Item) (c : Nat) : (s.shedItem i c).host.lastRead = s.host.lastRead := (State.shedItem_sheds s i c).keeps (fun s => s.host.lastRead) fun _ _ _ _ => rfl
@[simp] theorem State.shedItem_mem_hbm (s : State) (i : Item) (c : Nat) : (s.shedItem i c).mem.hbm = s.mem.hbm := (State.shedItem_sheds s i c).keeps (fun s => s.mem.hbm) fun _ _ _ _ => rfl
@[simp] theorem State.shedItem_mem_frames (s : State) (i : Item) (c : Nat) : (s.shedItem i c).mem.frames = s.mem.frames := (State.shedItem_sheds s i c).keeps (fun s => s.mem.frames) fun _ _ _ _ => rfl
@[simp] theorem State.shedItem_mem_badFrames (s : State) (i : Item) (c : Nat) : (s.shedItem i c).mem.badFrames = s.mem.badFrames := (State.shedItem_sheds s i c).keeps (fun s => s.mem.badFrames) fun _ _ _ _ => rfl
@[simp] theorem State.shedItem_mem_nextPier (s : State) (i : Item) (c : Nat) : (s.shedItem i c).mem.nextPier = s.mem.nextPier := (State.shedItem_sheds s i c).keeps (fun s => s.mem.nextPier) fun _ _ _ _ => rfl
@[simp] theorem State.shedItem_mem_kvFrames (s : State) (i : Item) (c : Nat) : (s.shedItem i c).mem.kvFrames = s.mem.kvFrames := (State.shedItem_sheds s i c).keeps (fun s => s.mem.kvFrames) fun _ _ _ _ => rfl
@[simp] theorem State.shedItem_mem_ch (s : State) (i : Item) (c : Nat) : (s.shedItem i c).mem.ch = s.mem.ch := (State.shedItem_sheds s i c).keeps (fun s => s.mem.ch) fun _ _ _ _ => rfl
@[simp] theorem State.shedItem_mem_intRetired (s : State) (i : Item) (c : Nat) : (s.shedItem i c).mem.intRetired = s.mem.intRetired := (State.shedItem_sheds s i c).keeps (fun s => s.mem.intRetired) fun _ _ _ _ => rfl
@[simp] theorem State.shedItem_mem_copies (s : State) (i : Item) (c : Nat) : (s.shedItem i c).mem.copies = s.mem.copies := (State.shedItem_sheds s i c).keeps (fun s => s.mem.copies) fun _ _ _ _ => rfl
@[simp] theorem State.shedItem_mem_nextCopy (s : State) (i : Item) (c : Nat) : (s.shedItem i c).mem.nextCopy = s.mem.nextCopy := (State.shedItem_sheds s i c).keeps (fun s => s.mem.nextCopy) fun _ _ _ _ => rfl
@[simp] theorem State.shedItem_mem_cbuf (s : State) (i : Item) (c : Nat) : (s.shedItem i c).mem.cbuf = s.mem.cbuf := (State.shedItem_sheds s i c).keeps (fun s => s.mem.cbuf) fun _ _ _ _ => rfl
@[simp] theorem State.shedItem_flt_units (s : State) (i : Item) (c : Nat) : (s.shedItem i c).flt.units = s.flt.units := (State.shedItem_sheds s i c).keeps (fun s => s.flt.units) fun _ _ _ _ => rfl
@[simp] theorem State.shedItem_flt_corrected (s : State) (i : Item) (c : Nat) : (s.shedItem i c).flt.corrected = s.flt.corrected := (State.shedItem_sheds s i c).keeps (fun s => s.flt.corrected) fun _ _ _ _ => rfl
@[simp] theorem State.shedItem_flt_errors (s : State) (i : Item) (c : Nat) : (s.shedItem i c).flt.errors = s.flt.errors := (State.shedItem_sheds s i c).keeps (fun s => s.flt.errors) fun _ _ _ _ => rfl
@[simp] theorem State.shedItem_flt_transient (s : State) (i : Item) (c : Nat) : (s.shedItem i c).flt.transient = s.flt.transient := (State.shedItem_sheds s i c).keeps (fun s => s.flt.transient) fun _ _ _ _ => rfl
@[simp] theorem State.shedItem_flt_lasting (s : State) (i : Item) (c : Nat) : (s.shedItem i c).flt.lasting = s.flt.lasting := (State.shedItem_sheds s i c).keeps (fun s => s.flt.lasting) fun _ _ _ _ => rfl
@[simp] theorem State.shedItem_flt_restarts (s : State) (i : Item) (c : Nat) : (s.shedItem i c).flt.restarts = s.flt.restarts := (State.shedItem_sheds s i c).keeps (fun s => s.flt.restarts) fun _ _ _ _ => rfl
@[simp] theorem State.shedItem_flt_aborted (s : State) (i : Item) (c : Nat) : (s.shedItem i c).flt.aborted = s.flt.aborted := (State.shedItem_sheds s i c).keeps (fun s => s.flt.aborted) fun _ _ _ _ => rfl
@[simp] theorem State.shedItem_flt_pierResets (s : State) (i : Item) (c : Nat) : (s.shedItem i c).flt.pierResets = s.flt.pierResets := (State.shedItem_sheds s i c).keeps (fun s => s.flt.pierResets) fun _ _ _ _ => rfl
@[simp] theorem State.shedItem_flt_ledger (s : State) (i : Item) (c : Nat) : (s.shedItem i c).flt.ledger = s.flt.ledger := (State.shedItem_sheds s i c).keeps (fun s => s.flt.ledger) fun _ _ _ _ => rfl
@[simp] theorem State.shedItem_flt_burns (s : State) (i : Item) (c : Nat) : (s.shedItem i c).flt.burns = s.flt.burns := (State.shedItem_sheds s i c).keeps (fun s => s.flt.burns) fun _ _ _ _ => rfl
@[simp] theorem State.shedItem_flt_riddleRetired (s : State) (i : Item) (c : Nat) : (s.shedItem i c).flt.riddleRetired = s.flt.riddleRetired := (State.shedItem_sheds s i c).keeps (fun s => s.flt.riddleRetired) fun _ _ _ _ => rfl
@[simp] theorem State.shedOld_pending (s : State) (r : Res) : (s.shedOld r).pending = s.pending := (State.shedOld_sheds s r).keeps (fun s => s.pending) fun _ _ _ _ => rfl
@[simp] theorem State.shedOld_now (s : State) (r : Res) : (s.shedOld r).now = s.now := (State.shedOld_sheds s r).keeps (fun s => s.now) fun _ _ _ _ => rfl
@[simp] theorem State.shedOld_idleTicks (s : State) (r : Res) : (s.shedOld r).idleTicks = s.idleTicks := (State.shedOld_sheds s r).keeps (fun s => s.idleTicks) fun _ _ _ _ => rfl
@[simp] theorem State.shedOld_freeIdx (s : State) (r : Res) : (s.shedOld r).freeIdx = s.freeIdx := (State.shedOld_sheds s r).keeps (fun s => s.freeIdx) fun _ _ _ _ => rfl
@[simp] theorem State.shedOld_mason (s : State) (r : Res) : (s.shedOld r).mason = s.mason := (State.shedOld_sheds s r).keeps (fun s => s.mason) fun _ _ _ _ => rfl
@[simp] theorem State.shedOld_parts (s : State) (r : Res) : (s.shedOld r).parts = s.parts := (State.shedOld_sheds s r).keeps (fun s => s.parts) fun _ _ _ _ => rfl
@[simp] theorem State.shedOld_plans (s : State) (r : Res) : (s.shedOld r).plans = s.plans := (State.shedOld_sheds s r).keeps (fun s => s.plans) fun _ _ _ _ => rfl
@[simp] theorem State.shedOld_lastPlan (s : State) (r : Res) : (s.shedOld r).lastPlan = s.lastPlan := (State.shedOld_sheds s r).keeps (fun s => s.lastPlan) fun _ _ _ _ => rfl
@[simp] theorem State.shedOld_tiles (s : State) (r : Res) : (s.shedOld r).tiles = s.tiles := (State.shedOld_sheds s r).keeps (fun s => s.tiles) fun _ _ _ _ => rfl
@[simp] theorem State.shedOld_nextOrder (s : State) (r : Res) : (s.shedOld r).nextOrder = s.nextOrder := (State.shedOld_sheds s r).keeps (fun s => s.nextOrder) fun _ _ _ _ => rfl
@[simp] theorem State.shedOld_trowel (s : State) (r : Res) : (s.shedOld r).trowel = s.trowel := (State.shedOld_sheds s r).keeps (fun s => s.trowel) fun _ _ _ _ => rfl
@[simp] theorem State.shedOld_power (s : State) (r : Res) : (s.shedOld r).power = s.power := (State.shedOld_sheds s r).keeps (fun s => s.power) fun _ _ _ _ => rfl
@[simp] theorem State.shedOld_therm (s : State) (r : Res) : (s.shedOld r).therm = s.therm := (State.shedOld_sheds s r).keeps (fun s => s.therm) fun _ _ _ _ => rfl
@[simp] theorem State.shedOld_twin (s : State) (r : Res) : (s.shedOld r).twin = s.twin := (State.shedOld_sheds s r).keeps (fun s => s.twin) fun _ _ _ _ => rfl
@[simp] theorem State.shedOld_sec (s : State) (r : Res) : (s.shedOld r).sec = s.sec := (State.shedOld_sheds s r).keeps (fun s => s.sec) fun _ _ _ _ => rfl
@[simp] theorem State.shedOld_fw (s : State) (r : Res) : (s.shedOld r).fw = s.fw := (State.shedOld_sheds s r).keeps (fun s => s.fw) fun _ _ _ _ => rfl
@[simp] theorem State.shedOld_host_pfMb (s : State) (r : Res) : (s.shedOld r).host.pfMb = s.host.pfMb := (State.shedOld_sheds s r).keeps (fun s => s.host.pfMb) fun _ _ _ _ => rfl
@[simp] theorem State.shedOld_host_vfMb (s : State) (r : Res) : (s.shedOld r).host.vfMb = s.host.vfMb := (State.shedOld_sheds s r).keeps (fun s => s.host.vfMb) fun _ _ _ _ => rfl
@[simp] theorem State.shedOld_host_slotBind (s : State) (r : Res) : (s.shedOld r).host.slotBind = s.host.slotBind := (State.shedOld_sheds s r).keeps (fun s => s.host.slotBind) fun _ _ _ _ => rfl
@[simp] theorem State.shedOld_host_lastRead (s : State) (r : Res) : (s.shedOld r).host.lastRead = s.host.lastRead := (State.shedOld_sheds s r).keeps (fun s => s.host.lastRead) fun _ _ _ _ => rfl
@[simp] theorem State.shedOld_mem_hbm (s : State) (r : Res) : (s.shedOld r).mem.hbm = s.mem.hbm := (State.shedOld_sheds s r).keeps (fun s => s.mem.hbm) fun _ _ _ _ => rfl
@[simp] theorem State.shedOld_mem_frames (s : State) (r : Res) : (s.shedOld r).mem.frames = s.mem.frames := (State.shedOld_sheds s r).keeps (fun s => s.mem.frames) fun _ _ _ _ => rfl
@[simp] theorem State.shedOld_mem_badFrames (s : State) (r : Res) : (s.shedOld r).mem.badFrames = s.mem.badFrames := (State.shedOld_sheds s r).keeps (fun s => s.mem.badFrames) fun _ _ _ _ => rfl
@[simp] theorem State.shedOld_mem_nextPier (s : State) (r : Res) : (s.shedOld r).mem.nextPier = s.mem.nextPier := (State.shedOld_sheds s r).keeps (fun s => s.mem.nextPier) fun _ _ _ _ => rfl
@[simp] theorem State.shedOld_mem_kvFrames (s : State) (r : Res) : (s.shedOld r).mem.kvFrames = s.mem.kvFrames := (State.shedOld_sheds s r).keeps (fun s => s.mem.kvFrames) fun _ _ _ _ => rfl
@[simp] theorem State.shedOld_mem_ch (s : State) (r : Res) : (s.shedOld r).mem.ch = s.mem.ch := (State.shedOld_sheds s r).keeps (fun s => s.mem.ch) fun _ _ _ _ => rfl
@[simp] theorem State.shedOld_mem_intRetired (s : State) (r : Res) : (s.shedOld r).mem.intRetired = s.mem.intRetired := (State.shedOld_sheds s r).keeps (fun s => s.mem.intRetired) fun _ _ _ _ => rfl
@[simp] theorem State.shedOld_mem_copies (s : State) (r : Res) : (s.shedOld r).mem.copies = s.mem.copies := (State.shedOld_sheds s r).keeps (fun s => s.mem.copies) fun _ _ _ _ => rfl
@[simp] theorem State.shedOld_mem_nextCopy (s : State) (r : Res) : (s.shedOld r).mem.nextCopy = s.mem.nextCopy := (State.shedOld_sheds s r).keeps (fun s => s.mem.nextCopy) fun _ _ _ _ => rfl
@[simp] theorem State.shedOld_mem_cbuf (s : State) (r : Res) : (s.shedOld r).mem.cbuf = s.mem.cbuf := (State.shedOld_sheds s r).keeps (fun s => s.mem.cbuf) fun _ _ _ _ => rfl
@[simp] theorem State.shedOld_flt_units (s : State) (r : Res) : (s.shedOld r).flt.units = s.flt.units := (State.shedOld_sheds s r).keeps (fun s => s.flt.units) fun _ _ _ _ => rfl
@[simp] theorem State.shedOld_flt_corrected (s : State) (r : Res) : (s.shedOld r).flt.corrected = s.flt.corrected := (State.shedOld_sheds s r).keeps (fun s => s.flt.corrected) fun _ _ _ _ => rfl
@[simp] theorem State.shedOld_flt_errors (s : State) (r : Res) : (s.shedOld r).flt.errors = s.flt.errors := (State.shedOld_sheds s r).keeps (fun s => s.flt.errors) fun _ _ _ _ => rfl
@[simp] theorem State.shedOld_flt_transient (s : State) (r : Res) : (s.shedOld r).flt.transient = s.flt.transient := (State.shedOld_sheds s r).keeps (fun s => s.flt.transient) fun _ _ _ _ => rfl
@[simp] theorem State.shedOld_flt_lasting (s : State) (r : Res) : (s.shedOld r).flt.lasting = s.flt.lasting := (State.shedOld_sheds s r).keeps (fun s => s.flt.lasting) fun _ _ _ _ => rfl
@[simp] theorem State.shedOld_flt_restarts (s : State) (r : Res) : (s.shedOld r).flt.restarts = s.flt.restarts := (State.shedOld_sheds s r).keeps (fun s => s.flt.restarts) fun _ _ _ _ => rfl
@[simp] theorem State.shedOld_flt_aborted (s : State) (r : Res) : (s.shedOld r).flt.aborted = s.flt.aborted := (State.shedOld_sheds s r).keeps (fun s => s.flt.aborted) fun _ _ _ _ => rfl
@[simp] theorem State.shedOld_flt_pierResets (s : State) (r : Res) : (s.shedOld r).flt.pierResets = s.flt.pierResets := (State.shedOld_sheds s r).keeps (fun s => s.flt.pierResets) fun _ _ _ _ => rfl
@[simp] theorem State.shedOld_flt_ledger (s : State) (r : Res) : (s.shedOld r).flt.ledger = s.flt.ledger := (State.shedOld_sheds s r).keeps (fun s => s.flt.ledger) fun _ _ _ _ => rfl
@[simp] theorem State.shedOld_flt_burns (s : State) (r : Res) : (s.shedOld r).flt.burns = s.flt.burns := (State.shedOld_sheds s r).keeps (fun s => s.flt.burns) fun _ _ _ _ => rfl
@[simp] theorem State.shedOld_flt_riddleRetired (s : State) (r : Res) : (s.shedOld r).flt.riddleRetired = s.flt.riddleRetired := (State.shedOld_sheds s r).keeps (fun s => s.flt.riddleRetired) fun _ _ _ _ => rfl
@[simp] theorem State.sendRouted_pending (s : State) (x : Packet) : (s.sendRouted x).pending = s.pending := (State.sendRouted_emits s x).keeps (fun s => s.pending) fun _ => rfl
@[simp] theorem State.sendRouted_now (s : State) (x : Packet) : (s.sendRouted x).now = s.now := (State.sendRouted_emits s x).keeps (fun s => s.now) fun _ => rfl
@[simp] theorem State.sendRouted_idleTicks (s : State) (x : Packet) : (s.sendRouted x).idleTicks = s.idleTicks := (State.sendRouted_emits s x).keeps (fun s => s.idleTicks) fun _ => rfl
@[simp] theorem State.sendRouted_freeIdx (s : State) (x : Packet) : (s.sendRouted x).freeIdx = s.freeIdx := (State.sendRouted_emits s x).keeps (fun s => s.freeIdx) fun _ => rfl
@[simp] theorem State.sendRouted_mason (s : State) (x : Packet) : (s.sendRouted x).mason = s.mason := (State.sendRouted_emits s x).keeps (fun s => s.mason) fun _ => rfl
@[simp] theorem State.sendRouted_parts (s : State) (x : Packet) : (s.sendRouted x).parts = s.parts := (State.sendRouted_emits s x).keeps (fun s => s.parts) fun _ => rfl
@[simp] theorem State.sendRouted_plans (s : State) (x : Packet) : (s.sendRouted x).plans = s.plans := (State.sendRouted_emits s x).keeps (fun s => s.plans) fun _ => rfl
@[simp] theorem State.sendRouted_lastPlan (s : State) (x : Packet) : (s.sendRouted x).lastPlan = s.lastPlan := (State.sendRouted_emits s x).keeps (fun s => s.lastPlan) fun _ => rfl
@[simp] theorem State.sendRouted_courses (s : State) (x : Packet) : (s.sendRouted x).courses = s.courses := (State.sendRouted_emits s x).keeps (fun s => s.courses) fun _ => rfl
@[simp] theorem State.sendRouted_tiles (s : State) (x : Packet) : (s.sendRouted x).tiles = s.tiles := (State.sendRouted_emits s x).keeps (fun s => s.tiles) fun _ => rfl
@[simp] theorem State.sendRouted_piers (s : State) (x : Packet) : (s.sendRouted x).piers = s.piers := (State.sendRouted_emits s x).keeps (fun s => s.piers) fun _ => rfl
@[simp] theorem State.sendRouted_nextOrder (s : State) (x : Packet) : (s.sendRouted x).nextOrder = s.nextOrder := (State.sendRouted_emits s x).keeps (fun s => s.nextOrder) fun _ => rfl
@[simp] theorem State.sendRouted_trowel (s : State) (x : Packet) : (s.sendRouted x).trowel = s.trowel := (State.sendRouted_emits s x).keeps (fun s => s.trowel) fun _ => rfl
@[simp] theorem State.sendRouted_power (s : State) (x : Packet) : (s.sendRouted x).power = s.power := (State.sendRouted_emits s x).keeps (fun s => s.power) fun _ => rfl
@[simp] theorem State.sendRouted_therm (s : State) (x : Packet) : (s.sendRouted x).therm = s.therm := (State.sendRouted_emits s x).keeps (fun s => s.therm) fun _ => rfl
@[simp] theorem State.sendRouted_twin (s : State) (x : Packet) : (s.sendRouted x).twin = s.twin := (State.sendRouted_emits s x).keeps (fun s => s.twin) fun _ => rfl
@[simp] theorem State.sendRouted_sec (s : State) (x : Packet) : (s.sendRouted x).sec = s.sec := (State.sendRouted_emits s x).keeps (fun s => s.sec) fun _ => rfl
@[simp] theorem State.sendRouted_mem_intCh (s : State) (x : Packet) : (s.sendRouted x).mem.intCh = s.mem.intCh := (State.sendRouted_emits s x).keeps (fun s => s.mem.intCh) fun _ => rfl
@[simp] theorem State.sendRouted_mem_lossBuf (s : State) (x : Packet) : (s.sendRouted x).mem.lossBuf = s.mem.lossBuf := (State.sendRouted_emits s x).keeps (fun s => s.mem.lossBuf) fun _ => rfl
@[simp] theorem State.sendRouted_fw (s : State) (x : Packet) : (s.sendRouted x).fw = s.fw := (State.sendRouted_emits s x).keeps (fun s => s.fw) fun _ => rfl
@[simp] theorem State.sendRouted_host_pfMb (s : State) (x : Packet) : (s.sendRouted x).host.pfMb = s.host.pfMb := (State.sendRouted_emits s x).keeps (fun s => s.host.pfMb) fun _ => rfl
@[simp] theorem State.sendRouted_host_vfMb (s : State) (x : Packet) : (s.sendRouted x).host.vfMb = s.host.vfMb := (State.sendRouted_emits s x).keeps (fun s => s.host.vfMb) fun _ => rfl
@[simp] theorem State.sendRouted_host_slotBind (s : State) (x : Packet) : (s.sendRouted x).host.slotBind = s.host.slotBind := (State.sendRouted_emits s x).keeps (fun s => s.host.slotBind) fun _ => rfl
@[simp] theorem State.sendRouted_host_lastRead (s : State) (x : Packet) : (s.sendRouted x).host.lastRead = s.host.lastRead := (State.sendRouted_emits s x).keeps (fun s => s.host.lastRead) fun _ => rfl
@[simp] theorem State.sendRouted_mem_hbm (s : State) (x : Packet) : (s.sendRouted x).mem.hbm = s.mem.hbm := (State.sendRouted_emits s x).keeps (fun s => s.mem.hbm) fun _ => rfl
@[simp] theorem State.sendRouted_mem_frames (s : State) (x : Packet) : (s.sendRouted x).mem.frames = s.mem.frames := (State.sendRouted_emits s x).keeps (fun s => s.mem.frames) fun _ => rfl
@[simp] theorem State.sendRouted_mem_badFrames (s : State) (x : Packet) : (s.sendRouted x).mem.badFrames = s.mem.badFrames := (State.sendRouted_emits s x).keeps (fun s => s.mem.badFrames) fun _ => rfl
@[simp] theorem State.sendRouted_mem_nextPier (s : State) (x : Packet) : (s.sendRouted x).mem.nextPier = s.mem.nextPier := (State.sendRouted_emits s x).keeps (fun s => s.mem.nextPier) fun _ => rfl
@[simp] theorem State.sendRouted_mem_kvFrames (s : State) (x : Packet) : (s.sendRouted x).mem.kvFrames = s.mem.kvFrames := (State.sendRouted_emits s x).keeps (fun s => s.mem.kvFrames) fun _ => rfl
@[simp] theorem State.sendRouted_mem_ch (s : State) (x : Packet) : (s.sendRouted x).mem.ch = s.mem.ch := (State.sendRouted_emits s x).keeps (fun s => s.mem.ch) fun _ => rfl
@[simp] theorem State.sendRouted_mem_intRetired (s : State) (x : Packet) : (s.sendRouted x).mem.intRetired = s.mem.intRetired := (State.sendRouted_emits s x).keeps (fun s => s.mem.intRetired) fun _ => rfl
@[simp] theorem State.sendRouted_mem_copies (s : State) (x : Packet) : (s.sendRouted x).mem.copies = s.mem.copies := (State.sendRouted_emits s x).keeps (fun s => s.mem.copies) fun _ => rfl
@[simp] theorem State.sendRouted_mem_nextCopy (s : State) (x : Packet) : (s.sendRouted x).mem.nextCopy = s.mem.nextCopy := (State.sendRouted_emits s x).keeps (fun s => s.mem.nextCopy) fun _ => rfl
@[simp] theorem State.sendRouted_mem_cbuf (s : State) (x : Packet) : (s.sendRouted x).mem.cbuf = s.mem.cbuf := (State.sendRouted_emits s x).keeps (fun s => s.mem.cbuf) fun _ => rfl
@[simp] theorem State.sendRouted_flt_units (s : State) (x : Packet) : (s.sendRouted x).flt.units = s.flt.units := (State.sendRouted_emits s x).keeps (fun s => s.flt.units) fun _ => rfl
@[simp] theorem State.sendRouted_flt_corrected (s : State) (x : Packet) : (s.sendRouted x).flt.corrected = s.flt.corrected := (State.sendRouted_emits s x).keeps (fun s => s.flt.corrected) fun _ => rfl
@[simp] theorem State.sendRouted_flt_errors (s : State) (x : Packet) : (s.sendRouted x).flt.errors = s.flt.errors := (State.sendRouted_emits s x).keeps (fun s => s.flt.errors) fun _ => rfl
@[simp] theorem State.sendRouted_flt_transient (s : State) (x : Packet) : (s.sendRouted x).flt.transient = s.flt.transient := (State.sendRouted_emits s x).keeps (fun s => s.flt.transient) fun _ => rfl
@[simp] theorem State.sendRouted_flt_lasting (s : State) (x : Packet) : (s.sendRouted x).flt.lasting = s.flt.lasting := (State.sendRouted_emits s x).keeps (fun s => s.flt.lasting) fun _ => rfl
@[simp] theorem State.sendRouted_flt_restarts (s : State) (x : Packet) : (s.sendRouted x).flt.restarts = s.flt.restarts := (State.sendRouted_emits s x).keeps (fun s => s.flt.restarts) fun _ => rfl
@[simp] theorem State.sendRouted_flt_aborted (s : State) (x : Packet) : (s.sendRouted x).flt.aborted = s.flt.aborted := (State.sendRouted_emits s x).keeps (fun s => s.flt.aborted) fun _ => rfl
@[simp] theorem State.sendRouted_flt_pierResets (s : State) (x : Packet) : (s.sendRouted x).flt.pierResets = s.flt.pierResets := (State.sendRouted_emits s x).keeps (fun s => s.flt.pierResets) fun _ => rfl
@[simp] theorem State.sendRouted_flt_ledger (s : State) (x : Packet) : (s.sendRouted x).flt.ledger = s.flt.ledger := (State.sendRouted_emits s x).keeps (fun s => s.flt.ledger) fun _ => rfl
@[simp] theorem State.sendRouted_flt_burns (s : State) (x : Packet) : (s.sendRouted x).flt.burns = s.flt.burns := (State.sendRouted_emits s x).keeps (fun s => s.flt.burns) fun _ => rfl
@[simp] theorem State.sendRouted_flt_riddleRetired (s : State) (x : Packet) : (s.sendRouted x).flt.riddleRetired = s.flt.riddleRetired := (State.sendRouted_emits s x).keeps (fun s => s.flt.riddleRetired) fun _ => rfl


end Sys2Proof.Machine
end

