-- ==== Sys2Proof/Laws/Memory.lean ====
section
/-! SUPPORT. Laws of sparse memory: every operation keeps the canonical form, and a read after a write. -/

namespace Sys2Proof.Machine

/-- Every listed address is at or above `a`. -/
def Memory.above (a : Nat) (m : Memory) : Prop := ∀ c ∈ m, a ≤ c.1

theorem Memory.wf_cons {a : Nat} {b : Byte} {m : Memory} :
    Memory.wf ((a, b) :: m) = true ↔ b ≠ 0 ∧ Memory.above (a + 1) m ∧ Memory.wf m = true := by
  induction m generalizing a b with
  | nil => simp [Memory.wf, Memory.above]
  | cons c t ih =>
    obtain ⟨a', b'⟩ := c
    have e : Memory.wf ((a, b) :: (a', b') :: t) = (b != 0 && decide (a < a') && Memory.wf ((a', b') :: t)) := rfl
    rw [e]
    simp only [Bool.and_eq_true, bne_iff_ne, decide_eq_true_eq, Memory.above, List.mem_cons, forall_eq_or_imp]
    constructor
    · rintro ⟨⟨hb, ha⟩, hw⟩
      refine ⟨hb, ⟨ha, ?_⟩, hw⟩
      intro x hx
      have := (ih.1 hw).2.1 x hx
      omega
    · rintro ⟨hb, ⟨ha, _⟩, hw⟩
      exact ⟨⟨hb, ha⟩, hw⟩

theorem memRead_above {m : Memory} {a k : Nat} (h : Memory.above a m) (hk : k < a) : memRead m k = 0 := by
  cases m with
  | nil => rfl
  | cons c t =>
    obtain ⟨x, b⟩ := c
    have := h (x, b) (by simp)
    simp only at this
    unfold memRead
    rw [if_neg (by omega), if_pos (by omega)]

theorem memWrite_above {m : Memory} {a k : Nat} {b : Byte} (h : Memory.above k m) (ha : k ≤ a) : Memory.above k (memWrite m a b) := by
  induction m with
  | nil =>
    unfold memWrite; split
    · simp [Memory.above]
    · simp [Memory.above, ha]
  | cons c t ih =>
    obtain ⟨x, y⟩ := c
    have hx : k ≤ x := h (x, y) (by simp)
    have ht : Memory.above k t := fun c hc => h c (by simp [hc])
    have hi := ih ht
    unfold memWrite
    repeat' split
    · exact ht
    · intro c hc; simp at hc; rcases hc with rfl | hc; exact ha; exact ht c hc
    · exact h
    · intro c hc; simp at hc; rcases hc with rfl | rfl | hc; exact ha; exact hx; exact ht c hc
    · intro c hc; simp at hc; rcases hc with rfl | hc; exact hx; exact hi c hc

/-- A write keeps the canonical form. -/
theorem memWrite_wf {m : Memory} (a : Nat) (b : Byte) (h : Memory.wf m = true) : Memory.wf (memWrite m a b) = true := by
  induction m with
  | nil => unfold memWrite; split <;> simp_all [Memory.wf]
  | cons c t ih =>
    obtain ⟨x, y⟩ := c
    obtain ⟨hy, hab, ht⟩ := Memory.wf_cons.1 h
    unfold memWrite
    repeat' split
    · exact ht
    · subst_vars; exact Memory.wf_cons.2 ⟨by assumption, hab, ht⟩
    · exact h
    · refine Memory.wf_cons.2 ⟨by assumption, ?_, h⟩
      intro c hc; simp at hc; rcases hc with rfl | hc
      · simp; omega
      · have := hab c hc; omega
    · exact Memory.wf_cons.2 ⟨hy, memWrite_above hab (by omega), ih ht⟩

/-- A read after a write: the byte written, and every other byte as it was. -/
theorem memRead_memWrite {m : Memory} (a : Nat) (b : Byte) (k : Nat) (h : Memory.wf m = true) :
    memRead (memWrite m a b) k = if k = a then b else memRead m k := by
  induction m with
  | nil =>
    unfold memWrite
    split
    · split <;> simp_all [memRead]
    · simp only [memRead]; split <;> split <;> first | rfl | omega | (split <;> first | rfl | omega)
  | cons c t ih =>
    obtain ⟨x, y⟩ := c
    obtain ⟨hy, hab, ht⟩ := Memory.wf_cons.1 h
    have ih := ih ht
    unfold memWrite
    by_cases hxa : x = a
    · subst hxa
      rw [if_pos rfl]
      split
      · subst_vars
        by_cases hk : k = x
        · subst hk; simp [memRead_above hab (Nat.lt_succ_self _)]
        · rw [if_neg hk]
          conv_rhs => unfold memRead
          rw [if_neg (Ne.symm hk)]
          split
          · exact memRead_above hab (by omega)
          · rfl
      · by_cases hk : k = x
        · subst hk; simp [memRead]
        · simp only [memRead, if_neg hk, if_neg (Ne.symm hk)]
    · rw [if_neg hxa]
      split
      · split
        · subst_vars
          by_cases hk : k = a
          · subst hk; rw [if_pos rfl]; unfold memRead; rw [if_neg hxa, if_pos (by omega)]
          · rw [if_neg hk]
        · by_cases hk : k = a
          · subst hk; simp [memRead]
          · rw [if_neg hk]
            conv_lhs => unfold memRead
            rw [if_neg (Ne.symm hk)]
            split
            · unfold memRead; rw [if_neg (by omega), if_pos (by omega)]
            · rfl
      · by_cases hk : k = a
        · subst hk
          unfold memRead; rw [if_neg hxa, if_neg (by omega), ih, if_pos rfl]; simp
        · unfold memRead
          rw [ih]
          simp [if_neg hk]

theorem memWriteN_wf (bs : List Byte) : ∀ {m : Memory} (a : Nat), Memory.wf m = true → Memory.wf (memWriteN m a bs) = true := by
  induction bs with
  | nil => intro m a h; exact h
  | cons b t ih => intro m a h; exact ih (a + 1) (memWrite_wf a b h)

/-- A read after a write of a run of bytes. -/
theorem memRead_memWriteN (bs : List Byte) : ∀ {m : Memory} (a k : Nat), Memory.wf m = true →
    memRead (memWriteN m a bs) k = if a ≤ k ∧ k < a + bs.length then bs.getD (k - a) 0 else memRead m k := by
  induction bs with
  | nil => intro m a k _; simp [memWriteN, show ¬(a ≤ k ∧ k < a) by omega]
  | cons b t ih =>
    intro m a k h
    unfold memWriteN
    rw [ih (a + 1) k (memWrite_wf a b h), memRead_memWrite a b k h]
    by_cases h1 : a + 1 ≤ k ∧ k < a + 1 + t.length
    · rw [if_pos h1, if_pos (by simp; omega)]
      obtain ⟨j, rfl⟩ : ∃ j, k = a + 1 + j := ⟨k - (a + 1), by omega⟩
      simp [show a + 1 + j - a = j + 1 by omega]
    · rw [if_neg h1]
      by_cases h2 : k = a
      · subst h2; simp
      · rw [if_neg h2, if_neg (by simp; omega)]

theorem Memory.above_filter {m : Memory} {a : Nat} (p : Host.Cell → Bool) (h : Memory.above a m) : Memory.above a (m.filter p) :=
  fun c hc => h c (List.mem_of_mem_filter hc)

theorem filter_wf (p : Host.Cell → Bool) {m : Memory} (h : Memory.wf m = true) : Memory.wf (m.filter p) = true := by
  induction m with
  | nil => rfl
  | cons c t ih =>
    obtain ⟨x, y⟩ := c
    obtain ⟨hy, hab, ht⟩ := Memory.wf_cons.1 h
    rw [List.filter_cons]
    split
    · exact Memory.wf_cons.2 ⟨hy, Memory.above_filter p hab, ih ht⟩
    · exact ih ht

/-- Clearing a range keeps the canonical form. -/
theorem memClear_wf {m : Memory} (lo n : Nat) (h : Memory.wf m = true) : Memory.wf (memClear m lo n) = true := filter_wf _ h

/-- A read after a range is cleared. -/
theorem memRead_memClear {m : Memory} (lo n k : Nat) (h : Memory.wf m = true) :
    memRead (memClear m lo n) k = if lo ≤ k ∧ k < lo + n then 0 else memRead m k := by
  induction m with
  | nil => simp [memClear, memRead]
  | cons c t ih =>
    obtain ⟨x, y⟩ := c
    obtain ⟨hy, hab, ht⟩ := Memory.wf_cons.1 h
    have ih := ih ht
    unfold memClear at ih ⊢
    rw [List.filter_cons]
    split
    · rename_i hc
      simp only [Bool.or_eq_true, decide_eq_true_eq] at hc
      unfold memRead
      by_cases hk : x = k
      · subst hk; simp; omega
      · rw [if_neg hk, if_neg hk]
        split
        · simp
        · exact ih
    · rename_i hc
      simp only [Bool.or_eq_true, decide_eq_true_eq, not_or] at hc
      rw [ih]
      split
      · rfl
      · rename_i h2
        conv_rhs => unfold memRead
        rw [if_neg (by omega)]
        split
        · exact memRead_above hab (by omega)
        · rfl

theorem sramWrite_wf {s : Sram} (a : Nat) (b : Byte) (h : s.wf = true) : (sramWrite s a b).wf = true := by
  unfold sramWrite
  split
  · exact memWrite_wf a b h
  · exact memWrite_wf a b (memClear_wf _ _ h)

theorem sramWriteN_wf (bs : List Byte) : ∀ {s : Sram} (a : Nat), s.wf = true → (sramWriteN s a bs).wf = true := by
  induction bs with
  | nil => intro s a h; exact h
  | cons b t ih => intro s a h; exact ih (a + 1) (sramWrite_wf a b h)

theorem sramInvalidate_wf {s : Sram} (lo hi : Nat) (h : s.wf = true) : (sramInvalidate s lo hi).wf = true := h

theorem insertNat_contains (l : List Nat) (n k : Nat) : (insertNat l n).contains k = (k == n || l.contains k) := by
  induction l with
  | nil => simp [insertNat]; rfl
  | cons m l ih =>
    unfold insertNat
    split
    · rename_i h; subst h; simp only [List.contains_cons]; cases k == m <;> simp
    · split
      · simp only [List.contains_cons]
      · simp only [List.contains_cons, ih]; cases k == m <;> cases k == n <;> simp

/-- Rules 1 to 3 of R104: what a line reads as after a byte of SRAM is written. -/
theorem sramRead_sramWrite {s : Sram} (a : Nat) (b : Byte) (k : Nat) (h : s.wf = true) :
    sramRead (sramWrite s a b) k = if k = a then b else sramRead s k := by
  unfold sramWrite
  split
  · rename_i hv
    unfold sramRead
    dsimp only
    rw [memRead_memWrite a b k h]
    by_cases e : k = a
    · subst e; simp only [if_true, hv]
    · simp only [e, if_false]
  · rename_i hv
    unfold sramRead
    dsimp only
    rw [insertNat_contains, memRead_memWrite a b k (memClear_wf _ _ h), memRead_memClear _ _ k h]
    by_cases e : k = a
    · subst e; simp
    · simp only [e, if_false]
      by_cases e2 : k / 64 = a / 64
      · have h1 : a / 64 * 64 ≤ k ∧ k < a / 64 * 64 + 64 := by omega
        rw [e2, Bool.eq_false_iff.2 hv]
        simp only [if_pos h1, ite_self, Bool.false_eq_true, if_false]
      · have h1 : ¬ (a / 64 * 64 ≤ k ∧ k < a / 64 * 64 + 64) := by omega
        simp only [h1, if_false, beq_eq_false_iff_ne.2 e2, Bool.false_or]

/-- A read after bytes of SRAM are written. -/
theorem sramRead_sramWriteN (bs : List Byte) : ∀ {s : Sram} (a k : Nat), s.wf = true →
    sramRead (sramWriteN s a bs) k = if a ≤ k ∧ k < a + bs.length then bs.getD (k - a) 0 else sramRead s k := by
  induction bs with
  | nil => intro s a k _; simp [sramWriteN, show ¬(a ≤ k ∧ k < a) by omega]
  | cons b t ih =>
    intro s a k h
    show sramRead (sramWriteN (sramWrite s a b) (a + 1) t) k = _
    rw [ih (a + 1) k (sramWrite_wf a b h), sramRead_sramWrite a b k h]
    simp only [List.length_cons]
    by_cases h1 : a + 1 ≤ k ∧ k < a + 1 + t.length
    · have h2 : a ≤ k ∧ k < a + (t.length + 1) := by omega
      have h3 : k - a = (k - (a + 1)) + 1 := by omega
      simp [h1, h2, h3]
    · by_cases h4 : k = a
      · subst h4; simp
      · have h2 : ¬ (a ≤ k ∧ k < a + (t.length + 1)) := by omega
        simp only [if_neg h1, if_neg h2, if_neg h4]

end Sys2Proof.Machine
end

