-- ==== Sys2Proof/Laws/Records.lean ====
section
/-! SUPPORT. What releasing a record does to contexts (its own context's counters and PSEQ, nothing else), and what a module without a
tenant under removal does when work ends: nothing more. -/

namespace Sys2Proof.Machine

theorem State.updCtx_some {s : State} {n : Nat} {c : Ctx} (h : s.ctx? n = some c) (f : Ctx → Ctx) : (s.updCtx n f).ctx? n = some (f c) := by
  rw [State.updCtx_ctx_self, h]; rfl

theorem State.updChan_congr (s : State) (ch : Nat) {f g : Channel → Channel} (h : f (s.chan ch) = g (s.chan ch)) : s.updChan ch f = s.updChan ch g := by
  have h' : f (s.mem.ch.get {} ch) = g (s.mem.ch.get {} ch) := h
  unfold State.updChan Tbl.upd; rw [h']

theorem State.landDue_quiet (s : State) (h : ∀ r ∈ s.sec.tenants, r.2.state ≠ 2) : s.landDue = s := by
  unfold State.landDue
  have : (List.filter (fun r : Nat × Tenant => r.2.state == 2 && r.2.step == 2) s.sec.tenants) = [] := by
    rw [List.filter_eq_nil_iff]; intro r hr; simp [h r hr]
  simp only [this, List.foldl_nil]

theorem State.exportSend_ctxs (id tenant ctx n : Nat) (l : List (List Byte)) : ∀ (s : State) (i : Nat), (s.exportSend id tenant ctx n i l).ctxs = s.ctxs := by
  induction l with
  | nil => intro s i; rfl
  | cons c l ih =>
    intro s i
    unfold State.exportSend
    split
    · rfl
    · dsimp only
      rw [ih]
      exact State.sendRouted_keeps (·.ctxs) (fun _ _ => rfl) ..

theorem State.exportRec_ctxs (s : State) (c : Ctx) (x : Rec) (p : Bool) (a : List Byte) : (s.exportRec c x p a).ctxs = s.ctxs := by
  unfold State.exportRec
  split
  · rfl
  · split
    · rfl
    · dsimp only; split
      · rfl
      · exact State.exportSend_ctxs ..

/-- The record's own context: its counters, and its PSEQ where the record is paired. -/
theorem State.release_ctx_self {s : State} {x : Rec} {c : Ctx} (h : s.ctx? x.ctx = some c) (a : List Byte) (p : Bool) :
    ∃ y : Rec, y.type = x.type ∧ y.status = x.status ∧ y.seq = x.seq ∧ (s.release x a p).ctx? x.ctx =
      some { c.countRec y with pseq := if (s.twin.role != 0 && recPaired x.type && !p) then nextPseq c.pseq else c.pseq } := by
  unfold State.release
  simp only [h]
  cases hb : (s.twin.role != 0 && recPaired x.type && !p)
  · refine ⟨{ x with pseq := 0 }, rfl, rfl, rfl, ?_⟩
    simp only [Bool.false_eq_true, if_false]
    unfold State.ctx?
    rw [State.exportRec_ctxs, State.ringPush_ctxs]
    exact State.updCtx_some h _
  · refine ⟨{ x with pseq := nextPseq c.pseq }, rfl, rfl, rfl, ?_⟩
    simp only [if_true]
    unfold State.ctx?
    rw [State.exportRec_ctxs, State.ringPush_ctxs]
    exact State.updCtx_some h _

/-- Every other context stays as it is. -/
theorem State.release_ctx_ne {s : State} {x : Rec} {k : Nat} (h : k ≠ x.ctx) (a : List Byte) (p : Bool) : (s.release x a p).ctx? k = s.ctx? k := by
  unfold State.release
  split
  · rfl
  · dsimp only
    unfold State.ctx?
    rw [State.exportRec_ctxs, State.ringPush_ctxs]
    split <;> exact State.updCtx_ctx_ne _ _ h

theorem Ctx.countRec_session (c : Ctx) (x : Rec) : (c.countRec x).session = c.session := by
  unfold Ctx.countRec; dsimp only; repeat' split
  all_goals rfl
theorem Ctx.countRec_queue (c : Ctx) (x : Rec) : (c.countRec x).queue = c.queue := by
  unfold Ctx.countRec; dsimp only; repeat' split
  all_goals rfl

/-- Releasing a record changes no session. -/
theorem State.release_session (s : State) (x : Rec) (a : List Byte) (p : Bool) (k : Nat) :
    ((s.release x a p).ctx? k).map Ctx.session = (s.ctx? k).map Ctx.session := by
  by_cases h : k = x.ctx
  · subst h
    cases hc : s.ctx? x.ctx with
    | none => unfold State.release; rw [hc]; simp [hc]
    | some c =>
      obtain ⟨y, -, -, -, e⟩ := State.release_ctx_self hc a p
      rw [e]; simp [Ctx.countRec_session]
  · rw [State.release_ctx_ne h]

/-- Finishing an operation takes it, and no other, from the list of accepted ones. -/
theorem State.finishOp_ops (s : State) (id st d : Nat) : (s.finishOp id st d).mason.ops = s.mason.ops.filter fun p => p.opId != id := by
  unfold State.finishOp
  split
  · rename_i h
    have h' : List.find? (fun p : PendingOp => p.opId == id) s.mason.ops = none := h
    rw [List.find?_eq_none] at h'
    symm; rw [List.filter_eq_self]; intro o ho; simpa using h' o ho
  · dsimp only
    split
    · rw [State.post_mason]; rfl
    · rw [State.ringPush_mason]; rfl

theorem State.finishOps_mem (s : State) (p : OpKind → Bool) (st d : Nat) : ∀ o ∈ (s.finishOps p st d).mason.ops, o ∈ s.mason.ops ∧ p o.kind = false := by
  have key : ∀ (l : List PendingOp) (s : State), ∀ o ∈ (l.foldl (fun s o => s.finishOp o.opId st d) s).mason.ops, o ∈ s.mason.ops ∧ ∀ q ∈ l, q.opId ≠ o.opId := by
    intro l
    induction l with
    | nil => intro s o ho; exact ⟨ho, fun q hq => by cases hq⟩
    | cons a l ih =>
      intro s o ho
      obtain ⟨h1, h2⟩ := ih _ o ho
      rw [State.finishOp_ops] at h1
      obtain ⟨h1, h3⟩ := List.mem_filter.1 h1
      refine ⟨h1, ?_⟩
      intro q hq
      rcases List.mem_cons.1 hq with rfl | hq
      · exact fun e => by simp [e] at h3
      · exact h2 q hq
  intro o ho
  obtain ⟨h1, h2⟩ := key _ s o ho
  refine ⟨h1, ?_⟩
  cases hp : p o.kind with
  | false => rfl
  | true => exact absurd rfl (h2 o (List.mem_filter.2 ⟨h1, hp⟩))

end Sys2Proof.Machine
end

