-- ==== Sys2Proof/Laws/Tile.lean ====
section
/-! SUPPORT. What it means that a Chisel issues, and the record of its partition after a change of its registers. -/

namespace Sys2Proof.Machine

/-- The partition and the Chisel of an Ashlar that can act at all. -/
theorem State.chiselAt_some {s : State} {a : Ash} {p : Part} {c : Chisel} (h : s.chiselAt a = some (p, c)) :
    s.part? a.part = some p ∧ c = p.chisel a.slot ∧ (∃ j, p.job = some j ∧ j.planErr = none) ∧ a.slot < p.size ∧ s.tilesRun p = true := by
  unfold State.chiselAt at h
  split at h
  · cases h
  · rename_i q hq
    split at h
    · cases h
    · rename_i j hj
      split at h
      · rename_i hc
        simp only [Bool.and_eq_true, decide_eq_true_eq, Option.isNone_iff_eq_none] at hc
        cases h
        exact ⟨hq, rfl, ⟨j, hj, hc.1.1⟩, hc.1.2, hc.2⟩
      · cases h

theorem State.issues_some {s : State} {a : Ash} {k : Nat} {p : Part} {c : Chisel} (h : s.issues a k = some (p, c)) :
    s.chiselAt a = some (p, c) ∧ c.stall = .run ∧ c.bndry = false ∧ s.codeClass p c.pc = some k := by
  unfold State.issues at h
  split at h
  · split at h
    · rename_i h2; cases h; simp at h2; exact ⟨‹_›, h2.1.1, h2.1.2, h2.2⟩
    · cases h
  · cases h

/-- An instruction that issues has the effect of its class. -/
theorem State.issue_run {s : State} {a : Ash} {k : Nat} {p : Part} {c : Chisel} (h : s.issues a k = some (p, c)) (body : Part → Chisel → State) :
    s.issue a k body = body p c := by
  obtain ⟨h1, h2, h3, h4⟩ := State.issues_some h
  unfold State.issue
  simp [h1, h2, h3, h4]

/-- The partition's record after a change of one Chisel's registers. -/
theorem State.updChisel_part {s : State} {p : Part} {i : Nat} (h : s.part? i = some p) (l : Nat) (f : Chisel → Chisel) :
    (s.updChisel i l f).part? i = some { p with chisels := p.chisels.upd {} l f } := by
  unfold State.updChisel
  rw [State.updPart_part_self, h]; rfl

theorem State.updPart_part {s : State} {p : Part} {i : Nat} (h : s.part? i = some p) (f : Part → Part) : (s.updPart i f).part? i = some (f p) := by
  rw [State.updPart_part_self, h]; rfl

@[simp] theorem Part.chisel_upd (p : Part) (l : Nat) (f : Chisel → Chisel) : Part.chisel { p with chisels := p.chisels.upd {} l f } l = f (p.chisel l) := by
  simp [Part.chisel]

theorem State.updPart_congr {s : State} {p : Part} {i : Nat} (h : s.part? i = some p) {f g : Part → Part} (e : f p = g p) :
    s.updPart i f = s.updPart i g := by
  unfold State.updPart
  have h' : s.parts.find? i = some p := h
  simp only [h', e]

theorem State.updPart_updPart (s : State) (i : Nat) (f g : Part → Part) : (s.updPart i f).updPart i g = s.updPart i fun p => g (f p) := by
  unfold State.updPart
  cases h : s.parts.find? i with
  | none => simp [h]
  | some p => simp

/-- Changing a Chisel's registers to what a function gives for the registers they hold. -/
theorem State.updChisel_congr {s : State} {p : Part} {i : Nat} (h : s.part? i = some p) (l : Nat) {f g : Chisel → Chisel} (e : f (p.chisel l) = g (p.chisel l)) :
    s.updChisel i l f = s.updChisel i l g := by
  unfold State.updChisel
  refine State.updPart_congr h ?_
  have : Tbl.upd {} p.chisels l f = Tbl.upd {} p.chisels l g := Tbl.upd_congr _ _ _ e
  simp only [this]

/-- A boundary marker, a stall or a plan error keeps the Chisel from issuing. -/
theorem State.issues_none {s : State} {a : Ash} {p : Part} (k : Nat) (h : s.part? a.part = some p)
    (h2 : (p.chisel a.slot).bndry = true ∨ (p.chisel a.slot).stall ≠ .run ∨ (∀ j, p.job = some j → j.planErr ≠ none)) : s.issues a k = none := by
  cases e : s.issues a k with
  | none => rfl
  | some x =>
    obtain ⟨q, c⟩ := x
    obtain ⟨h3, h4, h5, -⟩ := State.issues_some e
    obtain ⟨h6, h7, ⟨j, h8, h9⟩, -, -⟩ := State.chiselAt_some h3
    rw [h] at h6
    cases h6
    subst h7
    rcases h2 with h2 | h2 | h2
    · rw [h5] at h2; cases h2
    · exact absurd h4 h2
    · exact absurd h9 (h2 j h8)

end Sys2Proof.Machine
end

