-- ==== Sys2Proof/WellFormed.lean ====
section
/-! DEFINITION. The commands whose operands name things that exist: functions, mailboxes, entries, partitions, contexts, tiles, ports and the
other units of the ranges that the manual gives. The meanings are defined on every command; on one that names nothing they change
nothing. -/

namespace Sys2Proof

/-- R30: virtual functions 0 to 63. -/
def fnOk : Fn → Bool
  | .pf => true
  | .vf v => decide (v < 64)

/-- R31, R32: 32 mailboxes on the PF, 4 on a VF. -/
def mbOk (m : Mb) : Bool :=
  match m.fn with
  | .pf => decide (m.idx < 32)
  | .vf v => decide (v < 64) && decide (m.idx < 4)

/-- Bytes of a function's BAR0 (R31, R32). -/
def fnBar : Fn → Nat
  | .pf => 0x200000
  | .vf _ => 0x10000

/-- MSI-X vectors of a function (R51). -/
def fnVecs : Fn → Nat
  | .pf => 32
  | .vf _ => 8

/-- Entries of a function's admission window (R31, R32). -/
def fnSlots : Fn → Nat
  | .pf => 16384
  | .vf _ => 768

/-- A logical Ashlar of a partition (R22): at most 128 of either. -/
def ashOk (a : Ash) : Bool := decide (a.part < 128) && decide (a.slot < 128)

/-- A failed host read carries a PCIe code of the table *Channel error codes* (R354). -/
def readOk : HostRead → Bool
  | .ok => true
  | .err c => decide (1 ≤ c) && decide (c ≤ 4)

def gotOk : FrameGot → Bool
  | .whole => true
  | .uncorrectable lane => decide (lane < 9)
  | .badCrc lane => decide (lane < 9)

/-- The ranges of a Sett packet's fields (R206). -/
def pktOk (p : Packet) : Bool :=
  decide (p.dest < 256) && decide (p.src < 256) && decide (p.tenant < 64) && decide (p.keyId < 4) && decide (p.epoch < 256) && decide (p.context < 16384) &&
    decide (p.payload.length ≤ 4096) && decide (p.route.length ≤ 8) && decide (p.seq < 2 ^ 48)

/-- The command is well formed. -/
def Instr.wf : Instr → Bool
  | .registerWrite fn off size _ => fnOk fn && decide (off < fnBar fn) && decide (1 ≤ size) && decide (size ≤ 8)
  | .msixUnmask fn vec => fnOk fn && decide (vec < fnVecs fn)
  | .sriovVfEnable | .pfFlr | .eqConsWrite _ | .eqLostRead | .internalReadFail _ _ | .frameMappingDone _ | .trowelPllStop | .shutdownDrainTimeout 
  | .shutdownBistDone _ _ | .shutdownPowerOff | .governorSample _ | .floorStepSecondStage _ _ | .rateClimb _ _ | .pwrAlertNAssert | .pwrAlertNRelease 
  | .leaseLapsed | .fallbackCap | .supplyHold _ | .supplyRecovered _ | .holdEnd | .longDip | .supplyHigh _ | .overVoltageLockout _ | .powerFailReset _ 
  | .epoNAssert | .epoNRelease | .thermtrip | .aonPowerUp _ _ _ | .perstNAssert | .perstNRelease _ _ | .flowSample _ | .tempSample _ _ | .pflowUpdate 
  | .quenchEnd | .quenchStage2 | .targetedSelfTestStart _ _ | .targetedSelfTestDone _ _ _ | .fuseBurnDone | .correctedSummary _ _ _ | .errorLogFlush 
  | .masonLockstepError | .landingGapTimeout _ | .drainTimeout | .portStateFlood | .timeExchange | .timeParentLoss | .holdoverLimit | .twinHeartbeatSend 
  | .partnerLossTimeout | .attestReportLanded _ | .getVersion _ | .getCapabilities _ | .negotiateAlgorithms _ | .getDigests _ | .getCertificate _ 
  | .challenge _ | .getMeasurements _ | .spdmUnsupportedRequest _ | .activationProcessorInService _ | .i3cBusRecovery _ | .masonRestartDone 
  | .activationCopyDone | .calibrationDone _ _ => true
  | .pciPmStateWrite fn _ => fnOk fn
  | .vfFlr v => decide (v < 64)
  | .submissionSlotWrite fn entry off bytes => fnOk fn && decide (entry < fnSlots fn) && decide (off < 0x38) && decide (off + bytes.length ≤ 64)
  | .ticketRead fn entry => fnOk fn && decide (entry < fnSlots fn)
  | .ringDropRead vf ring | .ringEnable vf ring _ | .ringRegistrationCheck vf ring | .ringDisable vf ring _ | .ringHeadWrite vf ring _ 
  | .ringModTimer vf ring => decide (vf < 64) && decide (ring < 4)
  | .ringBacklogDrain vf => decide (vf < 64)
  | .infoIdentity m | .infoFirmware m | .infoCapacity m | .infoStatus m | .infoTime m | .partCreate m | .partDestroy m | .partQuery m | .partKeepwarm m 
  | .partCounters m | .planLoad m | .planBind m | .planUnload m | .planInfo m | .ctxCreate m | .ctxRemove m | .ctxSet m | .ctxRebind m | .ctxQuery m 
  | .ctxShedlog m | .visParams m | .visCounters m | .srvOpen m | .srvSampling m | .srvPause m | .srvCancel m | .srvQuery m | .vidDecodeOpen m 
  | .vidEncodeOpen m | .vidFacing m | .vidForceIdr m | .vidFlush m | .vidQuery m | .vidCores m | .pwrCap m | .pwrProfile m | .pwrStatus m 
  | .pwrShutdown m | .thermStatus m | .thermCourse m | .thermHbm m | .fltSummary m | .fltTest m | .fltUnit m | .fltPierReset m | .logInfo m | .logRead m 
  | .fabPort m | .fabCounters m | .fabPortCtrl m | .fabExport m | .fabImport m | .fabUnbind m | .fabStream m | .fabRoute m | .twinStatus m | .twinJoin m 
  | .twinHandover m | .secTenantCreate m | .secTenantRemove m | .secTenantQuery m | .secQuota m | .secKeyRetire m | .secKeyStatus m | .secLifecycle m 
  | .secFabricBind m | .secAttest m | .fwActivate m | .fwDiscard m | .profileWrite m | .profileInfo m | .fuseInfo m | .fuseRead m 
  | .modeQuery m | .modeSet m | .modeCompatLock m | .mbDoorbell m _ => mbOk m
  | .pierPowerUpDone pier | .quoinJob pier _ | .hbmSelfRefreshEntry pier | .facingConvert pier | .facingBandWrite pier | .thermalModelUpdate pier _ _ 
  | .foremanWatchdog pier _ | .pierResetComplete pier _ => decide (pier < 4)
  | .planLoadComplete _ rd | .fwStageVerify _ rd | .outHostCopyDone _ rd | .profileWriteDone _ rd => readOk rd
  | .batchStart part | .batchFillTimeout part | .waitGrant part _ | .boundaryPoint part | .boundaryOverdue part => decide (part < 128)
  | .scalar a _ rd rs rt => ashOk a && decide (rd < 32) && decide (rs < 32) && decide (rt < 32)
  | .branch a _ _ | .addr a _ | .bed a _ _ | .dress a _ _ | .sig a _ _ | .wait a _ _ | .fenceL a | .fenceC a | .fenceP a | .fenceH a | .fenceRelease a 
  | .handoff a _ | .emit a _ _ | .bndry a => ashOk a
  | .template a port _ => ashOk a && decide (port < 3)
  | .dma a q _ | .tileDmaShadowLoad a q | .tileDmaDescriptorDone a q _ => ashOk a && decide (q < 2)
  | .semrd a rd _ => ashOk a && decide (rd < 32)
  | .courseGate c | .courseWake c _ => decide (c < 16)
  | .shCtrlArm ch _ | .chCtrlEnable ch _ | .chCtrlDisable ch _ | .dmaShadowActivate ch | .channelSetComplete ch => decide (ch < 16)
  | .shadowWindowOverwrite ch off _ => decide (ch < 16) && decide (off < 0x38)
  | .channelBusError ch code _ => decide (ch < 16) && decide (1 ≤ code) && decide (code ≤ 5)
  | .sessionPauseTimeout ctx | .specSuspend ctx | .specResume ctx => decide (ctx < 16384)
  | .fwStage m => mbOk m.mb && readOk m.rd
  | .bitstreamCopyDone ctx rd => decide (ctx < 16384) && readOk rd
  | .trowelPictureStart core _ | .codecFrameBoundary core _ _ => decide (core < 16)
  | .safeCauseClear cause => decide (cause < 4)
  | .coolantStateDwell row => decide (row < 6)
  | .diodeSample tile _ _ | .disagreeDwell tile => decide (tile < 152)
  | .junctionDwell tile | .sensorTest tile | .sensorTestDone tile _ _ | .bistSliceStart tile | .bistSliceDone tile _ | .coverageRotation tile 
  | .bistCoverageLapsed tile => decide (tile < 144)
  | .hbmTempSample stack _ => decide (stack < 8)
  | .portLightDetect port | .lightLoss port | .hello port _ _ _ | .helloRetry port | .linkNak port _ | .linkRetrainDone port _ | .settPacketReceive port 
  | .time port _ _ _ _ | .cartridgePoll port _ | .cartridgeTimeout port | .cleanReqInterval port => decide (port < 12)
  | .linkFrameReceive port _ got fec pkt => decide (port < 12) && gotOk got && decide (fec.length ≤ 9) && pktOk pkt
  | .rebaseline port lanes => decide (port < 12) && lanes.all fun x => decide (x.lane < 9)
  | .laneBerCheck port lane _ | .laneTestDone port lane _ | .inspectEntry port lane _ _ _ => decide (port < 12) && decide (lane < 9)
  | .record p | .data p | .drainAck p | .portState p | .twinHeartbeat p | .twinLead p | .twinJoinReq p | .twinJoinGrant p | .twinJoinRefuse p 
  | .twinHandoverPacket p | .twinHandoverAck p => pktOk p
  | .drain p port => pktOk p && decide (port < 12)
  | .tenantScrubDone t => decide (t < 64)
  | .mailboxRequestWrite m off bytes => mbOk m && decide (off < 256) && decide (off + bytes.length ≤ 256)

end Sys2Proof
end

