-- ==== Sys2Proof/Tests/Slice0.lean ====
section
/-! SUPPORT. The author's tests: ill-formed commands that the check refuses, the manual's worked examples, one step of commands of every family,
and for each statement of the certificate states and operands that meet its premises (`test_hyp_<Name>`; where a premise rests on an opaque
function, the others are met whatever its value). -/

namespace Sys2Proof.Tests
open Sys2Proof.Machine
set_option Elab.async false

/-! ## Small states -/

/-- A module that has started: stages on, out of reset, Mason running, link up. -/
def on : State := { State.reset with power.aon := true, power.stages := true, power.epoN := true, power.perstN := true, power.phase := 1, host.linkUp := true, host.vfEnable := true, fw.tenancy := 1, now := 1000 }

def pf (i : Nat) : Mb := ⟨.pf, i⟩
def vf (v i : Nat) : Mb := ⟨.vf v, i⟩

/-- A request waits in Mason's input buffer. -/
def ask (s : State) (m : Mb) (code : Nat) (pay : List Byte) (len : Nat := pay.length) : State :=
  { s with mason.inputs := s.mason.inputs ++ [⟨m, leBytes 2 code ++ [1, 0] ++ leBytes 4 7 ++ leBytes 2 len ++ [0, 0, 0, 0, 0, 0] ++ pay, false⟩] }

/-- The request that runs next meets a premise. -/
def meets (o : Option Req) (p : Req → Bool) : Bool := match o with | some r => p r | none => false

/-- Some value is there and meets a premise. -/
def has {α : Type} (o : Option α) (p : α → Bool) : Bool := match o with | some x => p x | none => false

/-- The state after a command. -/
def after (c : Instr) (s : State) : State := match exec c s with | .next t => t | _ => State.reset

/-- Every premise of the list is met. -/
def all (l : List Bool) : Bool := l.all id

def open63 : State := { on with sec.tenants := [(63, { quotaGib := 287 })] }
def pwr : State := open63.updPier 0 fun p => { p with powered := true }
def part0 : Part := { tenant := 63, sizeLog2 := 0, pier := 0, course := 0, slot := 0, state := 1 }
def part7 : Part := { tenant := 63, sizeLog2 := 7, pier := 0, course := 0, slot := 0, state := 1 }
def idle : State := { pwr with parts := [(127, part0)] }
def someItem : Item := { ctx := 5, tenant := 63, cls := 0, excess := false, order := 1, kind := 0, dflags := 0, seq := 1, addr := 0, length := 4, deadlineUs := 0, userTag := 0, args := [], index := 0, count := 1, decided := 0, holdAt := 0, displaced := 0, bad := false, cancelled := false, leadPseq := none, displacing := false }
def someJob : Job := { slots := [], steps := [], failed := [], outs := [], run := 1, marked := false, planErr := none, closed := false, ordinal := 0, start := 900 }
def ctxOf (group part : Nat) : Ctx := { tenant := 63, group := group, cls := 0, ring := 3, part := part, queueMax := 4, rate := 1, burst := 1, deadlineUs := 0, shedAgeUs := 0, coreUs := 0, slot := 767, bucket := 0, bucketAt := 0 }

/-- An image of work group 6 for one Ashlar: a code, a preload and a Template section. -/
def imgBody : List Byte :=
  leBytes 4 1 ++ leBytes 4 64 ++ leBytes 8 192 ++ leBytes 4 2 ++ leBytes 4 208 ++ leBytes 8 256 ++ leBytes 4 4 ++ leBytes 4 64 ++ leBytes 8 512 ++
    List.replicate 400 0
def img : List Byte :=
  [0x41, 0x4D, 0x5A, 0x50, 2, 0, 0, 0, 1, 6, 3, 0] ++ leBytes 4 20000 ++ leBytes 4 0x300000 ++ leBytes 4 131072 ++ leBytes 2 32 ++ [0, 0] ++ leBytes 8 1 ++ leBytes 4 0 ++
    List.replicate 24 0 ++ sha384 imgBody ++ List.replicate 16 0 ++ imgBody
def plan0 : Plan := { mkPlan 63 img [] with tenant := 63 }
def planned : State := { idle with plans := [(3, plan0)] }

/-- A partition whose code section holds eight instructions of one class, with geometry records and a running job. -/
def planOf (cls : Nat) (geo : List GeoRec) : Plan := { plan0 with sections := [⟨1, 0, List.replicate 7 0 ++ [BitVec.ofNat 8 (16 * cls)] ++ List.replicate 56 0⟩], geo := [(0, geo)], hbmBytes := 0x200000, regionOff := 0x200000, length := 576 }
def run (cls : Nat) (f : Part → Part) (geo : List GeoRec := []) : State :=
  { idle with parts := [(127, f { part0 with state := 2, plan := some 3, job := some someJob })], plans := [(3, planOf cls geo)] }
def ash : Ash := ⟨127, 0⟩
def withChisel (c : Chisel) (p : Part) : Part := { p with chisels := [(0, c)] }

def vrec : VisionRec := { inFmt := 0, batch := 256, inW := 16, inH := 16, inC := 3, ringDepth := 0, bandRows := 0, ringOffset := 0, bandSem := 0, freeSem := 0 }
def qrec : QuoinRec := { mode := 0, form := 0, scoreFn := 0, numClasses := 80, maxOut := 300, scoreThr := 0, iouThr := 0, modelW := 16, modelH := 16, scaleX := 0, scaleY := 0, offX := 0, offY := 0, srcW := 16, srcH := 16 }
def srec : ServeRec := { draftMax := 8, maxBatch := 4, vocab := 2, kvUnit := 64, kvStreams := 1, dkvStreams := 0, dkvUnit := 0, chunk := 16, stepTokens := 16, maxContext := 1024 }
def aRec : Rec := { type := 1, status := 0, last := false, ctx := 0, tenant := 63, seq := 1, detail := 0, userTag := 0, time := 0, body := [], pseq := 0 }
def batch4 : VisionRec := { vrec with batch := 4 }
def slotOf (c : Nat) : StepSlot := { ctx := c, item := someItem, kStep := 0, chunk := 1, logits := [] }
def ctxed (c : Ctx) (s : State := idle) : State := { s with ctxs := [(5, c)] }

/-- FLOW 0.25 L/min a count; INLET and OUTLET signed, 1 °C a count, OUTLET from 0.5 °C on. -/
def sens : List Byte := [1, 0, 0, 0] ++ leBytes 4 0x3E800000 ++ leBytes 4 0 ++ [2, 0, 1, 0] ++ leBytes 4 0x3F800000 ++ leBytes 4 0 ++ [3, 0, 1, 0] ++ leBytes 4 0x3F800000 ++ leBytes 4 0x3F000000
/-! ## Premises: the host interface (02_mailbox.md) -/

/-- a pending command in front; an empty queue with the AON supply off and on -/
theorem test_hyp_StepRunsTheFrontCommand : ({ on with pending := [.sriovVfEnable, .pfFlr] }).pending = .sriovVfEnable :: [.pfFlr] := by decide +kernel
theorem test_hyp_IdleStepPassesTime : all [decide (State.reset.pending = []), State.reset.power.aon == false, on.power.aon, decide (on.fab.slew = 0), decide (on.pending = [])] = true := by decide +kernel

def armed : State := { on with host.pfWin := [(0, { armed := true })], host.vfWin := [(767, { armed := true })] }
theorem test_hyp_WindowWritesArmAndReadsDecide : all [on.fnDecodes .pf, decide (16383 < fnEntries .pf), decide (0x37 < 0x38), Memory.wf (on.entry .pf 16383).bytes, decide ([(1 : Byte)] ≠ []),
    !(on.entry (.vf 63) 767).armed, on.fnDecodes (.vf 63), armed.fnDecodes (.vf 0), (armed.entry (.vf 0) 767).armed, (armed.host.slotBind.find? (0 * 768 + 767)).isNone, (armed.entry .pf 0).armed] = true := by decide +kernel

theorem test_hyp_HostAccessesTakeEffect : all [on.fnDecodes .pf, decide (31 < fnVectors .pf), decide (on.host.eq.lostRun = 0), on.host.linkUp, on.fnThere (.vf 63),
    (let s := { on with host.eq.lostRun := 3, host.eq.prod := 510 }; s.fnDecodes .pf && decide (0 < s.host.eq.lostRun) && decide ((s.host.eq.prod + 1) % 512 ≠ (4 : W32).toNat % 512) && !s.host.eq.intrEn)] = true := by decide +kernel

def ringOn (r : Ring) : State := on.updRing 63 3 fun _ => r
theorem test_hyp_RingRegistersAndTimers : all [on.fnDecodes (.vf 63), bitOf (1 : W32).toNat 0, !(on.ring 63 3).enable, !bitOf (0 : W32).toNat 0,
    (let s := ringOn { enable := true, base := 1, size := 8 }; s.masonRuns && (s.ring 63 3).enable && !(s.ring 63 3).registered && decide ((s.ring 63 3).size ≤ 8)),
    (let s := ringOn { enable := true, registered := true, base := 1, size := 0, modTime := 2, unannounced := 1, oldestAt := 950 };
      s.up && (s.ring 63 3).registered && decide (25 * (s.ring 63 3).modTime ≤ s.now - (s.ring 63 3).oldestAt)),
    (let s := (ringOn { enable := true, registered := true, base := 1, size := 0 }).updVf 63 fun v => { v with backlog := [(3, aRec)] };
      decide ((s.vf 63).backlog = [(3, aRec)]) && !(s.ring 63 3).full)] = true := by decide +kernel

theorem test_hyp_FunctionLevelResetKeepsWork : all [on.fnThere (.vf 63), on.host.linkUp, on.sec.tenants.all fun r => r.2.state != 2] = true := by decide +kernel

theorem test_hyp_RegisterWritesByOffset : all [on.fnDecodes .pf, on.fnDecodes (.vf 63), !(on.ring 63 3).enable, ((ringOn { enable := true }).ring 63 3).enable,
    !({ on with host.linkUp := false }).fnDecodes .pf] = true := by decide +kernel

def infoReq : Memory := memWriteN [] 0 (leBytes 2 0x0101 ++ [1, 0] ++ leBytes 4 7 ++ leBytes 8 0)
def written (st : Nat) (b : Memory) : State := on.updMbox (pf 31) fun x => { x with state := st, req := b }
theorem test_hyp_DoorbellSubmitsOrAnswers : all [on.fnDecodes (pf 31).fn, mbExists (pf 31), mbExists (vf 63 3), decide ((on.mbox (pf 31)).state ≠ 1), decide (((written 1 []).mbox (pf 31)).state = 1), !on.mason.paused,
    (let b := memReadN ((written 0 infoReq).mbox (pf 31)).req 0 256; reqHeaderOk on.broup b && codeDefined (reqCode on.broup b)),
    (let b := memReadN ((written 0 []).mbox (pf 31)).req 0 256; !(reqHeaderOk on.broup b && codeDefined (reqCode on.broup b))),
    (let s := { on with mason.paused := true, mason.pauseCause := 1 }; s.up && s.mason.paused && decide (s.mason.pauseCause = 1) && s.sec.tenants.all (fun r => r.2.step != 4) && decide ((s.host.eq.prod + 1) % 512 ≠ s.host.eq.cons))] = true := by decide +kernel

/-- check 3: a VF may not issue PART_CREATE; check 4: its tenant is not open; check 5: Safe refuses CTX_CREATE -/
theorem test_hyp_FailedChecksAnswerTheFirst : all [has ((ask on (vf 63 3) 0x0201 []).stopped (vf 63 3) 0x0201 false) (fun x => x.2 == St.notPermitted),
    has ((ask on (vf 63 3) 0x0301 []).stopped (vf 63 3) 0x0301 true) (fun x => x.2 == St.tenantClosed),
    has ((ask { on with power.phase := 2 } (pf 0) 0x0301 []).stopped (pf 0) 0x0301 true) (fun x => x.2 == St.safeState)] = true := by decide +kernel

theorem test_hyp_InformationCommandsAnswer : all [meets ((ask open63 (vf 63 3) 0x0101 []).runs (vf 63 3) 0x0101 true) (fun r => r.len == 0 && r.vf == some 63),
    meets ((ask on (pf 0) 0x0102 []).runs (pf 0) 0x0102 false) (fun r => r.len == 0), meets ((ask on (pf 0) 0x0103 []).runs (pf 0) 0x0103 true) (fun r => r.len == 0 && r.vf == none),
    meets ((ask on (pf 0) 0x0104 []).runs (pf 0) 0x0104 false) (fun r => r.len == 0), meets ((ask on (pf 0) 0x0105 []).runs (pf 0) 0x0105 true) (fun r => r.len == 0), decide (on.fab.timeState = 0),
    meets ((ask on (pf 0) 0x0105 [0]).runs (pf 0) 0x0105 true) (fun r => r.len == 1)] = true := by decide +kernel

/-! ## Premises: partitions, plan images, Course power (04_ashlar.md) -/

theorem test_hyp_PartitionsAreCreatedInPlace : all [meets ((ask pwr (pf 31) 0x0201 [63, 7, 255, 255, 255, 0, 0, 0]).runs (pf 31) 0x0201 false) (fun r => r.len == 8 && r.u16 6 == 0 && r.u8 0 == 63 && r.u8 5 == 0 && placeLegal (r.u8 1) (r.u8 2) (r.u8 3) (r.u8 4)),
    pwr.tenantOpen 63, has (pwr.findPlace 63 3 0 3 0) (fun x => x.piers.all fun p => (pwr.pier p).powered && !(pwr.pier p).powering), has (leastBelow 128 fun i => !pwr.parts.has i) (· == 0),
    has (pwr.findPlace 63 7 255 255 255) (fun x => (x.piers.all fun p => !(pwr.pier p).powering) && x.piers.any fun p => !(pwr.pier p).powered), decide (pwr.mason.lastOp + 1 < 2 ^ 32),
    (let s := pwr.updPier 3 fun p => { p with powering := true }; s.up && (s.pier 3).powering && s.parts.all fun q => !q.2.powering)] = true := by decide +kernel

theorem test_hyp_PartitionCommandsAct : all [meets ((ask idle (pf 0) 0x0202 [127, 0, 0, 0]).runs (pf 0) 0x0202 false) (fun r => r.len == 4 && r.u16 2 == 0 && idle.part? (r.u16 0) == some part0), !idle.held (1, 127), (idle.boundCtxs 127).isEmpty,
    decide (({ idle with ctxs := [(5, ctxOf 5 127)] } : State).boundCtxs 127 ≠ []), decide ((idle.course 0).reqs = []), has (({ idle with parts := [(127, { part0 with job := some someJob })] } : State).part? 127) (·.job.isSome),
    meets ((ask idle (pf 0) 0x0203 [127, 0, 0, 0]).runs (pf 0) 0x0203 false) (fun r => r.len == 4), (idle.part? 126).isNone,
    meets ((ask idle (pf 0) 0x0204 [127, 0, 1, 0]).runs (pf 0) 0x0204 false) (fun r => r.u8 2 == 1 && field r.pay 3 1 == 0),
    meets ((ask idle (pf 0) 0x0204 [127, 0, 0, 0]).runs (pf 0) 0x0204 false) (fun r => r.u8 2 == 0), !part0.powering, !idle.therm.quench, !idle.power.hold, !idle.power.floor, !(idle.pier 0).resetting,
    meets ((ask idle (pf 0) 0x0205 [127, 0, 0, 0]).runs (pf 0) 0x0205 false) (fun r => r.u16 2 == 0)] = true := by decide +kernel

def loadOp : PendingOp := ⟨9, pf 31, 0x0401, 7, .planLoad 3 63 0x1000 576⟩
def loading : State := { pwr with mason.ops := [loadOp], mem.host := memWriteN [] 0x1000 img }

theorem test_hyp_PlanImageCommandsAct : all [meets ((ask pwr (pf 0) 0x0401 ([63, 0, 0, 0, 0, 0, 0, 0] ++ leBytes 8 0x1000 ++ leBytes 8 (2 ^ 40))).runs (pf 0) 0x0401 false) (fun r => r.len == 24 && field r.pay 1 7 == 0 && r.u8 0 == 63 && r.u64 8 % 4096 == 0 && r.u64 0x10 == 2 ^ 40),
    decide (pwr.lastPlan + 1 < 2 ^ 32), has (loading.op? 9) (fun o => o.kind == .planLoad 3 63 0x1000 576 && o.mb == ⟨.pf, 31⟩), !loading.therm.quench, loading.syncSets.intRuns (.op 9), loading.tenantOpen 63,
    (checkImage loading.masonVersion loading.broup (loading.hostReadN 0x1000 576)).isNone, !(checkImage 0 false (img.set 0 0)).isNone,
    (loading.syncSets.placePlan (mkPlan 63 (loading.hostReadN 0x1000 576) ((secEnts (loading.hostReadN 0x1000 576)).map (secOf (loading.hostReadN 0x1000 576)))) (loading.hostReadN 0x1000 576)).isSome,
    loading.hbmServes ((loading.loadImage 9 3 63 (loading.hostReadN 0x1000 576)).planStacks 3), !loading.host.eq.full, loading.intJobs == [.op 9], loadOp.intJob == some (.op 9), loading.up, !loading.power.hold, !loading.mem.intRetired.contains 31,
    !({ loading with power.hold := true } : State).syncSets.intRuns (.op 9),
    meets ((ask planned (pf 0) 0x0402 [127, 0, 0, 0, 3, 0, 0, 0]).runs (pf 0) 0x0402 false) (fun r => r.len == 8 && r.u16 2 == 0 && r.u16 0 == 127 && (planned.plan? (r.u32 4)).isSome), plan0.tenant == 63, !planned.held (1, 127), (planned.boundCtxs 127).isEmpty, planned.ctxs.isEmpty,
    bitOf plan0.sizeMask 0, sizeFits plan0.sramBytes plan0.cbufBytes plan0.semaphores 0,
    meets ((ask planned (pf 0) 0x0403 [3, 0, 0, 0]).runs (pf 0) 0x0403 false) (fun r => r.len == 4 && planned.plans.has (r.u32 0)), planned.planBound 3 == 0,
    ({ planned with parts := [(127, { part0 with plan := some 3 })] } : State).planBound 3 != 0,
    meets ((ask planned (pf 0) 0x0404 [3, 0, 0, 0]).runs (pf 0) 0x0404 false) (fun r => r.len == 4 && planned.plan? (r.u32 0) == some plan0)] = true := by decide +kernel

def warm : State := { open63 with now := 51000 }.updCourse 15 fun c => { c with power := 1, busyAt := 1000 }
def woken : State := idle.updCourse 0 fun c => { c with waking := some 127 }
theorem test_hyp_CoursesGateAndWake : all [warm.up, (warm.course 15).power != 0, (warm.course 15).waking.isNone, warm.parts.all (fun q => !q.2.hasCourse 15), !warm.power.hold, !warm.power.floor, decide (50000 ≤ warm.now - (warm.course 15).busyAt),
    woken.up, (woken.course 0).waking == some 127, woken.part? 127 == some part0, !woken.therm.quench, (woken.pier 0).powered, !(woken.pier 0).resetting,
    (let s := { warm with now := 25000 }.updPier 3 fun p => { p with selfRefresh := false }; s.up && !(s.pier 3).selfRefresh && (s.parts.any fun r => r.2.piers.contains 3 && r.2.job.isSome) == false && decide (25000 ≤ s.now - (s.pier 3).hbmBusyAt))] = true := by decide +kernel
/-! ## Premises: the tiles (04_ashlar.md) -/

def g64 : Chisel := { g := [(1, 64), (31, 63)] }
def tmplJob (n : Nat) : UnitJob := ⟨n, 0, [], .template 2 (.nest 15 []) none⟩
def sixteen : Chisel := { units := (List.range 16).map tmplJob }
theorem test_hyp_ScalarAndAddressInstructionsRetire : all [has ((run 0 (withChisel g64)).issues ash 0) (fun x => (x.2.gr 1).toNat == 64 && (x.2.gr 31).toNat == 63 && x.2.gr 0 == 0),
    ((run 2 id).issues ash 2).isSome, has ((run 3 id).issues ash 3) (fun x => decide ((x.2.queueOf 2).length < 16)), has ((run 3 (withChisel sixteen)).issues ash 3) (fun x => decide (16 ≤ (x.2.queueOf 2).length)),
    has ((run 3 (withChisel sixteen)).chiselAt ash) (fun x => (x.2.queueOf 2).head? == some (tmplJob 0) && (run 3 (withChisel sixteen)).mayRun x.1 0 x.2 (tmplJob 0)),
    -- a Coursed entry that waits for an earlier write to the Ashlar's own SRAM: the full queue stalls
    (let d : TileDesc := ⟨0x200000000, 0, 0xFFFF, 1, 0, 64, 1, 0, 0⟩
     let p : Part := { part7 with plan := some 3, job := some someJob, chisels := [(0, { q0 := { active := some (0, d) }, units := ⟨5, 0, [], .dress (.rowSum 1 0 0) none⟩ :: sixteen.units })] }
     let s : State := { run 3 id with parts := [(127, p)] }
     (s.unitStep ash 1).isNone)] = true := by decide +kernel

theorem test_hyp_BranchesMoveThePc : all [has ((run 1 id).issues ash 1) (fun x => (run 1 id).codeLen x.1 == 64), decide (56 % 8 = 0 ∧ 56 < 64 ∧ 64 % 8 = 0 ∧ 64 ≤ 64)] = true := by decide +kernel

theorem test_hyp_PlanErrorsEndTheBatch : all [has ((run 0 id).part? 127) (fun p => p.job == some someJob && someJob.planErr.isNone),
    has ((run 0 fun p => { p with job := some { someJob with planErr := some 1 } }).part? 127) (fun p => has p.job (·.planErr.isSome))] = true := by decide +kernel

def sems (l : List (Nat × Nat)) (p : Part) : Part := { p with sems := l }
def waiting : State := run 7 fun p => { p with sems := [(31, 1)], waits := [(31, 0, 1)], chisels := [(0, { stall := .onSem 31 1 })] }
theorem test_hyp_SemaphoresCountAndStall : all [has ((run 7 id).issues ash 7) (fun x => x.1.semCount == 32 && x.1.waits.isEmpty && !x.1.coursed),
    has ((run 7 (sems [(31, 0xFF00)])).issues ash 7) (fun x => x.1.sems.get 0 31 + 255 == 0xFFFF), decide ((part0.sems.get 0 31) < 1),
    ({ part7 with state := 2 } : Part).coursed, has ((run 7 fun p => { p with waits := [(31, 1, 1)] }).issues ash 7) (fun x => x.1.waits.any fun w => w.1 == 31),
    has (waiting.part? 127) (fun p => p.job.isSome && waiting.tilesRun p), has ((waiting.landAll 127 31).part? 127) (fun p => p.waits == [(31, 0, 1)] && decide (1 ≤ p.sems.get 0 31))] = true := by decide +kernel
theorem test_nothing_is_held (l : Nat) : (part0.chisel l).held = [] := rfl

def fenced : State := run 8 (withChisel { stall := .onFence 3 })
def ownLoad : TileDesc := ⟨0x200000000, 0, 0xFFFF, 0, 0, 64, 1, 0, 0⟩
theorem test_hyp_FencesAndBoundaryMarkers : all [has ((run 8 id).issues ash 8) (fun x => (run 8 id).fenceHolds x.1 0 3 x.2),
    has ((run 8 (withChisel { q0 := { active := some (0, ownLoad) } })).issues ash 8) (fun x => !(run 8 id).fenceHolds x.1 0 0 x.2),
    has (fenced.chiselAt ash) (fun x => x.2.stall == .onFence 3), has (((fenced.drainUnits ash).landLoose ash none).chiselAt ash) (fun x => x.2.stall == .onFence 3),
    (let s := run 8 (withChisel { stall := .onFence 2, q0 := { active := some (0, ownLoad) } }); let u := (s.drainUnits ash).landLoose ash none; has (u.chiselAt ash) fun x => !u.fenceHolds x.1 0 2 x.2),
    has ((run 11 id).chiselAt ash) (fun x => x.2.stall == .run && !x.2.bndry),
    has ((((run 11 id).drainUnits ash).landLoose ash none).issues ash 11) (fun x => x.2.units.isEmpty && x.2.handoffs == 0 && x.2.held.isEmpty),
    has ((run 11 (withChisel { bndry := true })).chiselAt ash) (fun x => x.2.bndry), has ((run 10 id).issues ash 10) (fun x => x.1.job == some someJob)] = true := by decide +kernel

def handed (n : Nat) : State := (run 9 (withChisel { a := [(15, 0x2F0000)], handoffs := 1 }) [.vision vrec, .quoin qrec]).updPier 0 fun x => { x with quoin := List.replicate n ⟨127, 0, 0, 5000, 1, 0⟩ }
def lots : State := handed 64
def riddling : State := run 9 (withChisel { a := [(15, 0x2FFFF8)] } ∘ fun p => { p with job := some { someJob with steps := [slotOf 4, slotOf 5] } }) [.serve srec]
def empties : State := { handed 2 with parts := [(127, { part0 with plan := some 3, job := some { someJob with slots := [none] } })] }
theorem test_hyp_HandoffsReachQuoinAndRiddle : all [has (((handed 63).pumpAsh ash).issues ash 9) (fun x => has ((handed 63).geoOf x.1)[1]? (· == .quoin qrec) && has ((handed 63).visionOf x.1) (·.batch == 256) && (handed 63).rangeOk x.1 0 (x.2.ar 15) (16 * 4096)),
    (handed 63).quoinPier 0 == 0, (((handed 63).pumpAsh ash).pier 0).quoin.length == 63, ((lots.pumpAsh ash).issues ash 9).isSome, ((lots.pumpAsh ash).pier 0).quoin.length == 64,
    has ((riddling.pumpAsh ash).issues ash 9) (fun x => has x.1.job (fun j => j.steps[1]? == some (slotOf 5)) && has (riddling.serveOf x.1) (fun q => riddling.rangeOk x.1 0 (x.2.ar 15) (4 * q.vocab))),
    (empties.pier 0).quoin.length == 2, !(empties.pier 0).quoinRetired, has ((empties.pumpPart 127).part? 127) (fun p => empties.tilesRun p && has p.job (fun j => j.slots[0]? == some none) && has (empties.geoOf p)[1]? (· == .quoin qrec))] = true := by decide +kernel
theorem test_units_empty (l : Nat) : (part0.chisel l).units = [] := rfl
/-! ## Premises: numbers, SRAM, tile DMA, units, batches and host channels (03, 04, 05) -/

theorem test_hyp_E8M10IsTheTopOfAnFP32Word : all [(match elemVal 0x02 (leBytes 4 0xFF7FFFFF) [] 0 with | .fin .. => true | _ => false), (match elemVal 0x02 (leBytes 4 0x7F801FFF) [] 0 with | .inf _ => true | _ => false),
    elemVal 0x02 (leBytes 4 0xFFFFFFFF) [] 0 == .nan] = true := by decide +kernel
theorem test_hyp_IntegerFormatsAreTwosComplement : all [decide (65535 < 2 ^ 16), decide (255 < 2 ^ 8), decide (15 < 2 ^ 4)] = true := by decide +kernel

theorem test_hyp_SramLinesFollowTheirTags : all [Memory.wf ({} : Sram).bytes, !({} : Sram).valid.contains 49151, has (idle.part? 127) (fun p => decide (0 < p.size) && (idle.tileOf p 0).isSome)] = true := by decide +kernel

def copy (form : Nat) : TileDesc := ⟨0x2FFFC0, 0x2FFF80, 31, form, 0, 64, 1, 0, 0⟩
def queued (n : Nat) : Chisel := { q1 := { fifo := List.replicate n (5, copy 0) } }
def bad : TileDesc := { copy 0 with rsvd := 1 }
def far : TileDesc := { copy 0 with dst := 0x300000 }
theorem test_hyp_TileDmaQueuesInOrder : all [has ((run 6 (withChisel (queued 31))).issues ash 6) (fun x => (x.2.queue 1).fifo.length == 31), has ((run 6 (withChisel (queued 32))).issues ash 6) (fun x => (x.2.queue 1).fifo.length == 32),
    has ((run 6 (withChisel (queued 1))).drainAt ash) (fun x => (x.2.queue 1).turn.shadow.isNone && (x.2.queue 1).turn.fifo == [(5, copy 0)] && (x.2.queue 1).turn.active.isNone && descLegal (copy 0) && (run 6 id).descOk x.1 0 (copy 0)),
    has ((run 6 (withChisel { q0 := { fifo := [(5, copy 0)], active := some (4, copy 0) } })).drainAt ash) (fun x => (x.2.queue 0).turn.shadow.isNone && (x.2.queue 0).turn.active.isSome),
    has ((run 6 (withChisel { q0 := { fifo := [(5, bad)] } })).drainAt ash) (fun x => (x.2.queue 0).turn.fifo == [(5, bad)] && !descLegal bad),
    has ((run 6 (withChisel { q0 := { fifo := [(5, far)] } })).drainAt ash) (fun x => descLegal far && !(run 6 id).descOk x.1 0 far),
    (let x : DmaQueue := { shadow := some (5, bad), active := some (4, far) }; x.landing.isNone && x.shadow.isSome && x.active.isSome)] = true := by decide +kernel

def landing (form sem : Nat) : State := run 6 fun p => { p with sems := [(31, 0xFFFE)], chisels := [(0, { q1 := { active := some (5, { copy form with sem := sem }) } })] }
def lands (s : State) (d : TileDesc) : Bool :=
  has (s.drainAt ash) fun x => (x.2.queue 1).active == some (5, d) && (x.2.queue 1).landing.isNone && !s.therm.quench && s.mayLand x.1 0 x.2 5 d && s.tileOf x.1 0 == some 0 &&
    has ((s.pumpPart 127).drainAt ash) fun y => (s.pumpPart 127).afterUnits y.1 0 y.2 5 d && y.2.queue 1 == x.2.queue 1 && (s.pumpPart 127).tileOf y.1 0 == some 0 && Memory.wf ((s.pumpPart 127).tile 0).sram.bytes &&
      d.rows == 1 && decide (d.dst + d.rowBytes ≤ 0x300000) && (d.form == 3 || decide (d.src + d.rowBytes ≤ 0x300000)) && y.2.held.isEmpty && decide (0 < d.rowBytes) &&
      (d.sem == 0xFFFF || (decide (d.sem < y.1.semCount) && decide (y.1.sems.get 0 d.sem < 0xFFFF)))
theorem test_hyp_TileDmaMovesItsBytes : all [lands (landing 0 31) (copy 0), lands (landing 3 0xFFFF) { copy 3 with sem := 0xFFFF }] = true := by decide +kernel

def bedJob (op : BedOp) (e : Option HwErr) : UnitJob := ⟨0, 8, [(15, 0x2FFE00)], .bed op e⟩
def dressJob (op : DressOp) (e : Option HwErr) : UnitJob := ⟨0, 8, [(15, 0x2FFE00)], .dress op e⟩
def unit1 (j : UnitJob) (n : Nat := 1) : State := run 4 (withChisel { a := [(15, 0x2FFE00)], units := List.replicate n j })
def readAll : BedOp := .readout true 63 128 0 15 15
def sumOne : DressOp := .rowSum 1 15 15
/-- the oldest entry may run, and its operation ends in the way `f` says -/
def bedEnds (j : UnitJob) (op : BedOp) (f : Bool) : Bool :=
  has ((unit1 j).chiselAt ash) fun x => (unit1 j).mayRun x.1 0 x.2 j && (x.2.queueOf 0).head? == some j && (match (unit1 j).bedOp x.1 0 { x.2 with a := j.a } op with | .ok _ => f | .error _ => !f)
def dressEnds (j : UnitJob) (op : DressOp) (f : Bool) : Bool :=
  has ((unit1 j).chiselAt ash) fun x => (unit1 j).mayRun x.1 0 x.2 j && (x.2.queueOf 1).head? == some j && (match (unit1 j).dressOp x.1 0 { x.2 with a := j.a } op with | .ok _ => f | .error _ => !f)
theorem test_hyp_BedAndDressingOperations : all [has ((run 4 id).issues ash 4) (fun x => decide ((x.2.queueOf 0).length < 16)), has ((unit1 (bedJob readAll none) 16).issues ash 4) (fun x => (x.2.queueOf 0).length == 16),
    has ((run 5 id).issues ash 5) (fun x => decide ((x.2.queueOf 1).length < 16)),
    bedEnds (bedJob readAll none) readAll true, bedEnds (bedJob readAll (some (.residue 127))) readAll true, bedEnds (bedJob .illegal none) .illegal false,
    dressEnds (dressJob sumOne none) sumOne true, dressEnds (dressJob sumOne (some (.residue 255))) sumOne true, dressEnds (dressJob .illegal none) .illegal false,
    has ((unit1 (bedJob readAll none)).chiselAt ash) (fun x => (unit1 (bedJob readAll none)).unitOk x.1 0 false (x.2.ar 15) (4 * 128) && x.2.stat.isNone)] = true := by decide +kernel

def image : Item := { someItem with kind := 0x0501, dflags := 1, args := leBytes 8 0 ++ [0, 0] ++ leBytes 2 16 ++ leBytes 2 16 ++ [0, 0], length := imgBytes batch4, decided := 0 }
def ctx5 (fill : Nat) : Ctx := { ctxOf 5 127 with queue := [image], vision := { fillUs := fill } }
/-- The partition may start; its context holds one image that has waited 40 µs. -/
def formed (fill : Nat) (p : Part → Part := id) : State :=
  { run 0 (fun x => p { x with job := none, state := 1 }) [.vision batch4] with ctxs := [(5, ctx5 fill)] }.updCourse 0 fun c => { c with power := 1 }
theorem test_hyp_BatchesStartWithPreloadedChisels : all [has ((formed 40).part? 127) (fun p => (formed 40).canStart p && p.again.isNone && p.leads.isEmpty && has ((formed 40).planOf p) (fun pl =>
      !((formed 40).formLoop batch4 ((formed 40).guardSlots 127 pl.boundaryUs ((formed 40).partD p)) 2 ((formed 40).readyItems [] [] ((formed 40).queuedOn (some 127))) []).1.isEmpty)),
    has ((formed 40).part? 127) (fun p => (formed 40).visionOf p == some batch4), (formed 40).twin.role == 0, ((formed 40).queuedOn (some 127)) == [image], !(formed 40).sheddable (ctx5 40) image,
    (formed 41).visionDue 127 batch4, (formed 40).fillDue ((formed 40).readyItems [] [] ((formed 40).queuedOn (some 127))), !(formed 41).fillDue ((formed 41).readyItems [] [] ((formed 41).queuedOn (some 127))),
    has ((formed 40 fun p => { p with again := some someJob }).part? 127) (fun p => p.again.isSome && (formed 40).canStart p)] = true := by decide +kernel

def ended (m : Bool) (n : Nat) (since : Nat := 1000000) (e : Option Nat := none) : State :=
  { run 11 (fun p => { p with sinceBoundary := since, job := some { someJob with marked := m, run := n, planErr := e, slots := [none] }, chisels := [(0, { bndry := true })] }) [.vision batch4] with sec.tenants := [] }
def ends (s : State) (f : Part → Job → Bool) : Bool := has (s.part? 127) fun p => has p.job fun j => s.tilesRun p && p.drained j && f p j
theorem test_hyp_BoundaryPointsEndJobs : all [ends (ended false 1) (fun p j => j.steps.isEmpty && decide (1000000 ≤ p.sinceBoundary) && !j.closed && j.planErr.isNone && p.state == 2 && p.leads.isEmpty && p.again.isNone && !j.marked && (ended false 1).visionOf p == some batch4),
    (ended false 1).ctxs.isEmpty, (ended false 1).twin.role == 0, (ended false 1).sec.tenants.isEmpty, (ended false 1).power.safeHoldReq.isNone, ((ended false 1).course 0).reqs.isEmpty, !(ended false 1).restarting 4,
    ends (ended true 3) (fun _ j => j.marked && decide (j.run < 4)), ends (ended true 4) (fun _ j => decide (4 ≤ j.run)), ends (ended false 1 0 (some 1)) (fun _ j => j.planErr.isSome),
    has ((run 11 fun p => { p with sinceBoundary := 999999 }).part? 127) (fun p => decide (p.sinceBoundary < 1000000) && has p.job (fun j => !p.drained j))] = true := by decide +kernel

def setOf (ctrl row : Nat) : ShSet := { ctrl := BitVec.ofNat 32 ctrl, row := BitVec.ofNat 32 row, dst := 0x200000, src := 0x200000 }
def mapped (c : Channel) : State := { open63 with mem.frames := [(63 * 2 ^ 28 + 1, 5)], mem.ch := [(15, c)] }
def ctrlOf (dir : Nat) : Nat := 63 * 2 ^ 8 + dir * 2
def armable (ctrl row : Nat) : Channel := { enable := true, setB := setOf ctrl row }
theorem test_hyp_ChannelsArmAndStop : all [(mapped (armable (ctrlOf 0) 64)).fnDecodes .pf, (let x := ((mapped (armable 0 64)).chan 15).shadowSet.put 0x34 (ctrlOf 0 + 1); ((mapped (armable 0 64)).armCode x).isNone && x.tenant == 63),
    (let x := ((mapped (armable 0 0)).chan 15).shadowSet.put 0x34 (ctrlOf 0 + 1); (mapped (armable 0 0)).armCode x == some 8), bitOf (BitVec.ofNat 32 (ctrlOf 0 + 1)).toNat 0,
    !((mapped (armable 0 64)).chan 15).armed, ((mapped (armable 0 64)).chan 15).landing.isNone, ((mapped { armed := true }).chan 15).armed, decide (0x30 < 0x34 ∧ 0x30 % 4 = 0), !shWide 0x30,
    (let s := mapped { armable 0 64 with armed := true, busy := true }; s.up && !s.power.hold && (s.chan 15).enable && !(s.chan 15).retired && (s.chan 15).armed && (s.chan 15).landing.isNone),
    !((mapped {}).chan 15).enable, ((mapped (armable 0 64)).chan 15).enable, (mapped {}).sec.tenants.all (fun r => r.2.state != 2)] = true := by decide +kernel

def moving (dir : Nat) : State := mapped { enable := true, busy := true, setA := setOf (ctrlOf dir) 64 }
def moves (s : State) : Bool :=
  s.up && !s.power.hold && !s.therm.quench && (s.chan 15).landing.isNone && (s.chan 15).busy && (s.setStacks (s.chan 15).activeSet).all (fun k => (s.stack k).state != 3) &&
    (s.chan 15).activeSet.form == 0 && decide (1 ≤ (s.chan 15).activeSet.row.toNat) && s.sec.tenants.all (fun r => r.2.state != 2) && !(s.chan 15).armed
theorem test_hyp_ChannelSetsMoveTheirBytes : all [moves (moving 0), ((moving 0).chan 15).activeSet.dir == 0, moves (moving 1), ((moving 1).chan 15).activeSet.dir == 1, decide (63 < ((moving 0).chan 15).activeSet.row.toNat)] = true := by decide +kernel
/-! ## Premises: admission, vision, Facing units, serving (06, 07, 08, 09) -/

def desc (kind seq n : Nat) : List Byte := leBytes 2 kind ++ [0, 0] ++ leBytes 4 seq ++ List.replicate 32 0 ++ leBytes 2 n ++ List.replicate 14 0
def slotted (c : Ctx) (d : List Byte) (s : State := planned) : State := { s with ctxs := [(16383, c)], host.pfWin := [(16383, { armed := true, bytes := memWriteN [] 0 d })] }
/-- a read of PF entry 16,383 decides; `f` tells its context, kind, items and SEQ -/
def decides (s : State) (f : Ctx → Nat → Nat → Nat → Bool) : Bool :=
  s.fnDecodes .pf && (s.entry .pf 16383).armed && has (s.ctx? 16383) fun c => decide (c.ticket + 1 < 2 ^ 40) &&
    let d := memReadN (s.entry .pf 16383).bytes 0 0x38; field d 0x30 8 == 0 && f c (field d 0 2) (descItems (field d 0 2) d) (field d 4 4)
def passes (s : State) (c : Ctx) (kind k seq : Nat) : Bool := !s.ctxGone c && kindOk c.group kind && (c.group != 5 || (decide (1 ≤ k) && decide (k ≤ 256))) && seqNewer c.lastSeq seq
def c5 : Ctx := { ctxOf 5 127 with lastSeq := some 1 }
def c6 : Ctx := { ctxOf 6 0xFFFF with bucket := 25000000000, bucketAt := 1000, codec := { state := 1 } }
theorem test_hyp_TicketsFollowTheDecisionOrder : all [decides (slotted { c5 with removing := true } (desc 0x0501 2 1)) (fun c _ _ _ => planned.ctxGone c),
    decides (slotted c5 (desc 0x0701 2 1)) (fun c kind _ _ => !planned.ctxGone c && !kindOk c.group kind), decides (slotted c5 (desc 0x0501 2 0)) (fun c _ k _ => !planned.ctxGone c && c.group == 5 && k == 0),
    decides (slotted c5 (desc 0x0501 2 257)) (fun c _ k _ => !planned.ctxGone c && c.group == 5 && decide (256 < k)),
    decides (slotted c5 (desc 0x0503 (2 ^ 31 + 1) 256)) (fun c kind k seq => !planned.ctxGone c && kindOk c.group kind && k == 256 && !seqNewer c.lastSeq seq),
    decides (slotted c5 (desc 0x0503 (2 ^ 31) 256) { planned with sec.tenants := [(63, { quotaGib := 287, state := 2 })] }) (fun c kind k seq => passes planned c kind k seq),
    (let s := slotted { c5 with cls := 2 } (desc 0x0502 2 1) { planned with power.safeSupply := true }; decides s (fun c kind k seq => passes s c kind k seq && s.tenantOpen c.tenant && s.profile == 2 && decide (2 ≤ c.cls))),
    (let s := slotted c5 (desc 0x0501 2 1) idle; decides s (fun c kind k seq => passes s c kind k seq && s.tenantOpen c.tenant && s.profile != 2 && has (s.part? c.part) (·.plan.isNone) && c.group != 6)),
    (let s := slotted c6 (desc 0x0601 0 0); decides s (fun c kind k seq => passes s c kind k seq && s.tenantOpen c.tenant && c.cls == 0 && c.group == 6 && !s.ringFull 16383 c (desc 0x0601 0 0) && decide ((k : Int) * tokenUnit ≤ c.tokens s.now)))] = true := by decide +kernel

def createPay (cls : Byte) (group : Byte := 7) : List Byte := [63, group, cls, 3] ++ leBytes 2 127 ++ leBytes 2 4096 ++ leBytes 4 1000000000 ++ leBytes 2 4096 ++ [0, 0] ++ leBytes 4 60000000 ++ leBytes 4 0 ++ leBytes 4 0
def creates (s : State) (m : Mb) (cls : Byte) (f : Req → Bool) : Bool :=
  meets ((ask s m 0x0301 (createPay cls)).runs m 0x0301 true) fun r => r.len == 28 && r.u16 0xE == 0 && s.tenantOpen 63 && createOk r && s.partFits r 63 && r.u8 1 != 6 && !s.held (1, r.u16 4) && f r
def inJob (c : Nat) (p : Part) : Part := { p with job := some { someJob with steps := [slotOf c] } }
theorem test_hyp_ContextsAreCreatedSetAndRemoved : all [creates idle (pf 0) 3 (fun r => r.vf.isNone && r.u8 0 == 63 && r.u8 2 != 0), has (leastBelow 16384 fun n => !idle.ctxs.has n) (· == 0),
    creates idle (vf 63 3) 1 (fun r => r.vf == some 63 && r.u8 2 != 0), has (leastBelow 768 fun k => !idle.host.slotBind.has (63 * 768 + k)) (· != 0xFFFF), creates idle (vf 63 3) 0 (fun r => r.vf.isSome && r.u8 2 == 0),
    (let s := ctxed (ctxOf 7 127); meets ((ask s (vf 63 0) 0x0302 [5, 0, 0, 0]).runs (vf 63 0) 0x0302 true) (fun r => r.len == 4 && (s.ownCtx r).isSome && !s.heldFor (2, 5) && !s.ctxRunning 5)),
    (let s := ctxed (ctxOf 7 127) (run 0 (inJob 5)); meets ((ask s (vf 63 0) 0x0302 [5, 0, 0, 0]).runs (vf 63 0) 0x0302 true) (fun r => (s.ownCtx r).isSome && !s.heldFor (2, 5) && s.ctxRunning 5 && decide (s.mason.lastOp + 1 < 2 ^ 32))),
    (let s := ctxed { ctxOf 5 127 with cls := 3 }; meets ((ask s (vf 63 0) 0x0303 ([5, 0, 255, 0] ++ leBytes 4 0 ++ leBytes 2 0 ++ leBytes 2 4096 ++ leBytes 4 0xFFFFFFFF ++ leBytes 4 0)).runs (vf 63 0) 0x0303 true)
      (fun r => r.len == 20 && field r.pay 3 1 == 0 && (s.ownCtx r).isSome && setOk r && !s.held (2, 5) && r.u8 2 != 0))] = true := by decide +kernel

def twoParts (d : Byte) (f : Part → Part := id) : State :=
  let s := run 0 f
  { s with parts := s.parts ++ [(128, { part0 with slot := 1, plan := some 4 })], plans := s.plans ++ [(4, { plan0 with header := List.replicate 128 d })], ctxs := [(5, { ctxOf 5 127 with cls := 1 })] }
theorem test_hyp_ContextReportsAndRebinding : all [(let s := ctxed (ctxOf 5 127); meets ((ask s (vf 63 0) 0x0305 [5, 0, 0, 0]).runs (vf 63 0) 0x0305 true) (fun r => r.len == 4 && r.u16 2 == 0 && (s.ownCtx r).isSome)),
    (let s := ctxed (ctxOf 5 127); meets ((ask s (pf 0) 0x0306 [5, 0, 242, 0]).runs (pf 0) 0x0306 true) (fun r => r.len == 4 && field r.pay 3 1 == 0 && (s.ownCtx r).isSome)),
    (let s := twoParts 1; meets ((ask s (pf 0) 0x0304 [5, 0, 128, 0]).runs (pf 0) 0x0304 true) (fun r => r.len == 4 && has (s.part? (r.u16 2)) (fun d => d.tenant == 63 && (s.planOf d).isSome) && (s.part? 127).isSome && !s.held (2, 5) && !s.held (1, 128)))
    ] = true := by decide +kernel
theorem test_digests : all [decide ((plan0.digest) = (planOf 0 []).digest), decide ((plan0.digest) ≠ ({ plan0 with header := List.replicate 128 1 } : Plan).digest),
    has ((run 0 id).part? 127) (fun p => !p.lost && p.job.isSome)] = true := by decide +kernel

def hcopy (rs : List Rec) : HostCopy := { id := 9, tenant := 63, recs := rs, bytes := [1], hostAddr := 2 ^ 48, attach := [], due := none, item := 0, candInvalid := 0, lead := none }
def copying (rs : List Rec) : State := { open63 with mem.copies := [hcopy rs] }
theorem test_hyp_VisionCommandsAndCopiesAct : all [
    (let s := ctxed (ctxOf 5 127); meets ((ask s (vf 63 0) 0x0501 ([5, 0, 2, 0] ++ leBytes 4 0x7FC00000 ++ leBytes 4 0x3F800000 ++ leBytes 2 1024 ++ [0, 0] ++ leBytes 4 1000000)).runs (vf 63 0) 0x0501 true)
      (fun r => r.len == 20 && (s.ctxFor r 5).isSome && r.u8 2 == 2 && r.u32 4 == 0x7FC00000 && f32In 0 fone (r.w32 8) && r.u16 0xC == 1024 && r.u32 0x10 == 1000000 && !s.held (2, r.u16 0))),
    (let s := ctxed (ctxOf 5 127); meets ((ask s (vf 63 0) 0x0501 ([5, 0, 3, 0] ++ leBytes 4 0 ++ leBytes 4 0 ++ leBytes 2 1025 ++ [0, 0] ++ leBytes 4 0)).runs (vf 63 0) 0x0501 true) (fun r => decide (2 < r.u8 2) && decide (1024 < r.u16 0xC))),
    (let s := ctxed (ctxOf 5 127); meets ((ask s (pf 0) 0x0502 [5, 0, 0, 0]).runs (pf 0) 0x0502 true) (fun r => r.len == 4 && r.u16 2 == 0 && (s.ctxFor r 5).isSome)),
    (let s := ctxed (ctxOf 7 127); meets ((ask s (pf 0) 0x0502 [5, 0, 0, 0]).runs (pf 0) 0x0502 true) (fun r => (s.ctxFor r 5).isNone)),
    decide ((copying []).mem.copies.find? (fun x => x.id == 9) = some (hcopy [])), (copying []).sec.tenants.all (fun r => r.2.state != 2), (copying []).syncSets.intRuns (.copy 9), !(copying []).therm.quench, (copying []).ctxs.isEmpty,
    (copying [aRec]).syncSets.intRuns (.copy 9), !({ copying [] with power.hold := true } : State).syncSets.intRuns (.copy 9)] = true := by decide +kernel

def ring4 : VisionRec := { batch4 with ringDepth := 2, bandRows := 15, bandSem := 31, freeSem := 30 }
def pic0 : Pic := { slot := 0, order := 0, width := 16, height := 16, bitDepth := 8, needVision := true, needEncode := false, unit := {}, matrix := 0, range := 0, mono := false }
def c9 : Ctx := { ctxOf 6 0xFFFF with codec := { state := 1, pics := [pic0], facingRun := [(127, none)] } }
def fjob (conv zero : Bool) : FacingJob := ⟨127, 0, 9, 0, conv, zero⟩
def faced (j : FacingJob) : State :=
  { run 0 (fun p => { p with sems := [(31, 0xFFFE)], credits := [(0, 1)], nextBand := 1, job := some { someJob with slots := [none] } }) [.vision ring4] with ctxs := [(9, c9)] }.updPier 0 fun q => { q with facing := [j] }
def faces (s : State) (j : FacingJob) : Bool := s.up && !s.power.hold && !s.therm.stage2 && (s.pier 0).facing == [j] && has (s.part? 127) fun p => (s.planOf p).isSome && s.visionOf p == some ring4
theorem test_every_stack_serves (j : FacingJob) (ks : List Nat) : (faced j).hbmServes ks = true := by
  rw [State.hbmServes, Bool.and_eq_true, List.all_eq_true]
  exact ⟨rfl, fun k _ => rfl⟩
theorem test_hyp_FacingUnitsConvertAndBand : all [faces (faced (fjob false false)) (fjob false false), ((faced (fjob false false)).facingPic (fjob false false)).isSome,
    (let s := (faced (fjob true true)).pumpPart 127; faces s (fjob true true) && has (s.part? 127) fun p => has (s.planOf p) fun pl => p.nextBand - s.bandsBefore p (fjob true true) == 1 && (s.bandData p pl ring4 (fjob true true) 1).isSome &&
      (List.range p.nCourses).filter (fun k => s.courseHolds p pl ring4 k 1) == [0] && p.credits.get 0 0 != 0 && decide (ring4.bandSem < p.semCount) && decide (p.sems.get 0 31 + 1 ≤ 0xFFFF)),
    (let s := (faced (fjob true false)).pumpPart 127; faces s (fjob true false) && (s.facingPic (fjob true false)).isSome), ([0, 1].map (· / 2)).contains 0] = true := by decide +kernel

def serving (st : Nat) (f : Ctx → Ctx := id) (s0 : State := run 0 id [.serve srec]) : State := ctxed (f { ctxOf 7 127 with session := { state := st } }) s0
def openPay (m : Nat) : List Byte := [5, 0, 2, 8] ++ leBytes 4 m ++ leBytes 4 86400000 ++ leBytes 4 0 ++ leBytes 8 1
def opens (s : State) (m : Nat) : Bool :=
  meets ((ask s (vf 63 0) 0x0701 (openPay m)).runs (vf 63 0) 0x0701 true) fun r => r.len == 24 && field r.pay 0xC 4 == 0 && has (s.ctxFor r 7) (fun c => has (s.part? c.part) fun p => has (s.serveOf p) fun v => v.draftMax == 8 && v.maxContext == 1024) &&
    !s.held (2, 5) && r.u8 2 == 2 && r.u8 3 == 8 && r.u32 8 == 86400000 && r.u32 4 == m
def reserves (s : State) (m : Nat) (f : Nat → Bool) : Bool := has (s.kvReserve 63 (srec.pagePiers part0 m)) fun x => f x.2.2
def kvReady : State := { run 0 id [.serve srec] with mem.frames := [(63 * 2 ^ 28 + 1, 5)], mem.kvFrames := [(63, 1)] }
def mapping : State := { serving 0 with mason.ops := [⟨9, vf 63 0, 0x0701, 7, .mapFrames 5⟩] }
def timed : State := { serving 1 (fun c => { c with session := { state := 1, pauseMs := 1, idleAt := 0 } }) with now := 25000 }
theorem test_hyp_SessionsOpenAndPause : all [opens (serving 0) 63, opens (serving 0) 1025, opens (serving 3) 64, opens (serving 3) 1024, reserves (serving 0) 1024 (· != 0),
    ({ serving 0 with sec.tenants := [(63, { quotaGib := 0 })] } : State).kvReserve 63 (srec.pagePiers part0 64) |>.isNone, reserves (serving 0 id kvReady) 64 (· == 0), opens (serving 2) 64, opens (serving 1) 64,
    has (mapping.op? 9) (fun o => o.kind == .mapFrames 5 && o.code == 0x0701), mapping.up, (mapping.ctx? 5).isSome,
    meets ((ask (serving 1) (vf 63 0) 0x0703 [5, 0, 0, 0]).runs (vf 63 0) 0x0703 true) (fun r => r.len == 4 && r.u16 2 == 0 && has ((serving 1).ctxFor r 7) (fun c => c.session.state == 1 && c.session.req.isNone && c.queue.isEmpty)),
    has ((serving 0).ctx? 5) (fun c => c.session.state != 1), has ((serving 1 fun c => { c with queue := [someItem] }).ctx? 5) (fun c => c.session.state == 1 && !c.queue.isEmpty),
    has (timed.ctx? 5) (fun c => c.group == 7 && c.session.state == 1 && c.session.pauseMs != 0 && c.session.req.isNone && c.queue.isEmpty && decide (25000 * c.session.pauseMs ≤ timed.now - c.session.idleAt)), timed.up,
    decide (24999 - 0 < 25000 * 1)] = true := by decide +kernel

def samplePay (k w n : Nat) : List Byte := [5, 0] ++ leBytes 2 k ++ leBytes 4 0x42C80000 ++ leBytes 4 0x3F800000 ++ leBytes 4 0 ++ leBytes 4 0x41200000 ++ leBytes 4 0xC1200000 ++ leBytes 2 w ++ leBytes 1 n ++ List.replicate 37 0
def spec (l : List (Nat × Nat)) (sus : Bool) : State := serving 1 fun c => { c with session := { state := 1, specMode := 1, window := l, suspended := sus } }
theorem test_hyp_ServingCommandsAct : all [meets ((ask (serving 1) (vf 63 0) 0x0702 (samplePay 1024 4096 8)).runs (vf 63 0) 0x0702 true) (fun r => r.len == 64 && field r.pay 0x1B 5 == 0 && samplingOk r && ((serving 1).ctxFor r 7).isSome && !(serving 1).held (2, 5)),
    meets ((ask (serving 1) (vf 63 0) 0x0702 (samplePay 1025 4097 9)).runs (vf 63 0) 0x0702 true) (fun r => decide (1024 < r.u16 2) && decide (4096 < r.u16 0x18) && decide (8 < r.u8 0x1A)),
    meets ((ask (serving 1) (vf 63 0) 0x0704 ([5, 0, 1, 0] ++ leBytes 4 0)).runs (vf 63 0) 0x0704 true) (fun r => r.len == 8 && field r.pay 3 1 == 0 && r.u8 2 == 1),
    (let s := serving 1 fun c => { c with queue := [someItem] }; meets ((ask s (vf 63 0) 0x0704 ([5, 0, 0, 0] ++ leBytes 4 1)).runs (vf 63 0) 0x0704 true) (fun r => r.u8 2 == 0 && has (s.ctxFor r 7) fun c => c.requests.any fun i => i.seq == r.u32 4)),
    (let s := serving 1 fun c => { c with queue := [someItem] }; meets ((ask s (vf 63 0) 0x0704 ([5, 0, 0, 0] ++ leBytes 4 2)).runs (vf 63 0) 0x0704 true) (fun r => r.u8 2 == 0 && has (s.ctxFor r 7) fun c => c.requests.all fun i => i.seq != r.u32 4)),
    meets ((ask (serving 1) (pf 0) 0x0705 [5, 0, 0, 0]).runs (pf 0) 0x0705 true) (fun r => r.len == 4 && r.u16 2 == 0 && ((serving 1).ctxFor r 7).isSome),
    has ((spec (List.replicate 32 (100, 14)) false).ctx? 5) (fun c => c.session.specMode == 1 && !c.session.suspended && decide (32 ≤ c.session.window.length) && decide (100 * sumNat (c.session.window.map Prod.snd) < 15 * sumNat (c.session.window.map Prod.fst))),
    has ((spec [] true).ctx? 5) (fun c => c.session.suspended && c.session.suspendLeft == 0 && c.session.specMode == 1)] = true := by decide +kernel
/-! ## Premises: video and power (08, 11) -/

def cq (st : Nat) (f : Codec → Codec := id) (q : List Item := []) : Ctx := { ctxOf 6 0xFFFF with codec := f { state := st, outQueue := 2 }, queue := q }
def video (c : Ctx) (s : State := open63) : State := ctxed c s
def vruns (s : State) (code : Nat) (pay : List Byte) (f : Req → Ctx → Bool) : Bool :=
  meets ((ask s (vf 63 0) code pay).runs (vf 63 0) code true) fun r => has (s.ctxFor r 6) fun c => !s.held (2, r.u16 0) && f r c
def decPay (cores w depth : Nat) : List Byte := [5, 0, 2] ++ leBytes 1 cores ++ leBytes 2 w ++ leBytes 2 16 ++ leBytes 1 depth ++ [2, 1, 3, 5, 0, 0, 0]
def encPay (codec : Nat) : List Byte := [5, 0] ++ leBytes 1 codec ++ [2, 2, 0, 2, 0, 1, 0, 1, 0] ++ leBytes 4 200000 ++ leBytes 4 0 ++ leBytes 2 100 ++ [51, 51, 51, 51, 51, 3] ++ leBytes 2 1024 ++ [4, 0] ++ leBytes 4 64
def rings : Nat := (17 + 2) * picBytes 16 16 8
def mapsFor (code : Nat) : State := { video (cq 0) with mason.ops := [⟨9, vf 63 0, code, 7, .mapFrames 5⟩] }
theorem test_hyp_CodecContextsOpen : all [vruns (video (cq 0)) 0x0601 (decPay 0 16 8) (fun r _ => r.len == 16 && r.u16 0xE == 0 && r.u8 3 == 0), vruns (video (cq 0)) 0x0601 (decPay 9 16 8) (fun r _ => decide (8 < r.u8 3)),
    vruns (video (cq 0)) 0x0601 (decPay 8 16 8) (fun r c => decodeOpenOk (video (cq 0)) r c.tenant && (17 + r.u8 9) * picBytes (r.u16 4) (r.u16 6) (r.u8 8) == rings && c.codec.state == 0),
    decide ((2 + pagesOf rings) * 2 ^ 21 ≤ (video (cq 0)).quotaLeft 63), ((video (cq 0)).allocPages 63 (2 + pagesOf rings) fun _ => none).isSome, decide ((open63.quotaLeft 62) < (2 + pagesOf rings) * 2 ^ 21),
    vruns (video (cq 2)) 0x0601 (decPay 8 16 8) (fun r c => decodeOpenOk (video (cq 2)) r c.tenant && c.codec.state != 0),
    vruns (video (cq 0)) 0x0602 (encPay 2) (fun r _ => r.len == 36 && field r.pay 0x1F 1 == 0 && decide (1 < r.u8 2)),
    vruns (video (cq 0)) 0x0602 (encPay 1) (fun r c => encodeOpenOk r && c.codec.state == 0 && r.u16 4 == 2 && r.u16 6 == 2),
    (List.range 64).all (fun n => decide (pagesOf (n * picBytes 2 2 8) * 2 ^ 21 ≤ (video (cq 0)).quotaLeft 63)), ((video (cq 0)).allocPages 63 0 fun _ => none).isSome, ((video (cq 0)).allocPages 63 1 fun _ => none).isSome,
    has ((mapsFor 0x0601).op? 9) (fun o => o.kind == .mapFrames 5 && o.code == 0x0601), has ((mapsFor 0x0602).op? 9) (fun o => o.code == 0x0602), (mapsFor 0x0602).up, ((mapsFor 0x0602).ctx? 5).isSome] = true := by decide +kernel
theorem test_pool_pictures (r b : Nat) : encPoolPics r b < 64 := Nat.mod_lt _ (by decide)

def facePay : List Byte := [5, 0] ++ List.replicate 4 0 ++ leBytes 2 16 ++ leBytes 2 16 ++ leBytes 2 1 ++ leBytes 2 1 ++ [1, 2, 2, 2, 0x10, 1] ++ List.replicate 24 0
theorem test_hyp_VideoCommandsAct : all [vruns (video (cq 1)) 0x0603 facePay (fun r c => r.len == 44 && c.codec.state == 1 && facingOk r), vruns (video (cq 2)) 0x0603 facePay (fun _ c => c.codec.state != 1),
    vruns (video (cq 1)) 0x0604 [5, 0, 0, 0] (fun r c => r.len == 4 && r.u16 2 == 0 && c.codec.state != 2), vruns (video (cq 2)) 0x0604 [5, 0, 0, 0] (fun _ c => c.codec.state == 2),
    vruns (video (cq 2)) 0x0605 [5, 0, 0, 0] (fun r c => r.len == 4 && c.codec.state != 0 && decide ((video (cq 2)).mason.lastOp + 1 < 2 ^ 32)), vruns (video (cq 0)) 0x0606 [5, 0, 0, 0] (fun r _ => r.len == 4 && r.u16 2 == 0),
    meets ((ask open63 (pf 31) 0x0607 []).runs (pf 31) 0x0607 false) (fun r => r.len == 0)] = true := by decide +kernel

def au : Item := { someItem with kind := 0x0601, addr := 0x1000, length := 4, args := List.replicate 16 0 }
def toCopy : State := video (cq 1 (fun x => { x with poolPages := 4 }) [au])
def ready : State := video (cq 1 (fun x => { x with poolPages := 4, copied := [1] }) [au])
def busyCore (d : Division) (run : Nat := 1) : Core := { gated := false, busy := some (5, au, 900, run), lastCtx := some 5, div := d }
def coding (d : Division) (run : Nat := 1) : State := { video (cq 1 fun x => { x with poolPages := 4, maxCores := 2 }) with trowel.cores := [(0, busyCore d run)] }
def info0 : StreamInfo := { profile := .main, level10 := 10, yuv420 := true, mono := false, depth := 8, width := 16, height := 16, otherTool := false }
def res0 : CodecResult := { outputs := [], streamError := 0, eos := false, picType := 0, info := info0, conc := [], concUnits := 0, refs := [], grain := false, stream := { paramSets := [[1]] }, lines := [] }
def takes (s : State) (k : Nat) : Bool := s.trowelRuns && decide (k < 16) && s.coreFree k
theorem test_hyp_TrowelCoresRunPictures : all [has (toCopy.ctx? 5) (fun c => c.codec.state == 1 && c.toCopy == some au && toCopy.hbmServes (toCopy.spanStacks c.tenant c.codec.poolOff (2 ^ 22))), toCopy.syncSets.intRuns (.unit 5 1),
    takes ready 15, ready.trowel.again.isEmpty, ready.twin.role == 0, ready.twin.trowel.isEmpty, ready.queuedOn none == [au], has (ready.ctx? 5) (fun c => !ready.sheddable c au && !ready.badVideo c au), ready.pickPic 15 == some (au, 1), au.kind != flushKind,
    takes { ready with trowel.again := [(5, au, 2)] } 15,
    takes (coding (.tiles 4)) 15, has (coding (.tiles 4)).joinPic (fun x => x.1 == au && x.2.busy == some (5, au, 900, 1)),
    (coding .whole).up, !(coding .whole).power.hold, (coding .whole).hbmServes ((coding .whole).poolStacks 5), (coding .whole).power.safeHoldReq.isNone, (coding .whole).sec.tenants.all (fun r => r.2.state != 2), ((coding .whole).core 0).busy == some (5, au, 900, 1),
    !(coding .whole).trowel.halved, (coding .whole).tenantOpen au.tenant,
    has ((video (cq 1 fun x => { x with maxW := 16, maxH := 16 })).ctx? 5) (fun c => !c.codec.blocks' res0 && c.codec.unitError res0 == 0), res0.outputs.isEmpty, !res0.eos, ({ someItem with kind := 0x0602 } : Item).kind == 0x0602,
    (let s := { open63 with trowel.pllOn := true, now := 50000 }; s.up && (List.range 16).all (fun k => (s.core k).gated) && (List.range 4).all (fun p => (s.pier p).facing.isEmpty) && decide (50000 ≤ s.now - s.trowel.idleAt)),
    (let x : Codec := { qp := [0, 0, 0, 51, 51] }; decide (x.qpMin ≤ x.qpMax ∧ x.qpMax ≤ 51))] = true := by decide +kernel

def hot (f : Power → Power) : State := { open63 with power := f { open63.power with floorAt := 0 } }
theorem test_hyp_GovernorKeepsTheBudget : all [on.up, !on.power.hold, !on.therm.quench, decide (on.budget16 < 16 * 901), decide (16 * 900 ≤ on.budget16), !on.power.floor,
    (let s := hot fun p => { p with floor := true }; s.power.floor && !s.power.climbing && decide (1000 ≤ s.now - s.power.floorAt)),
    (let s := { hot (fun p => { p with floor := true }) with now := 25000 }.updCourse 3 fun c => { c with r := 14 }; s.power.pwrAlertN && decide (25000 ≤ s.now - s.power.floorAt) && decide (s.lowestRate < 15) && decide (1600 * 891 ≤ 99 * s.budget16) && decide (99 * s.budget16 < 1600 * 892)),
    on.power.pwrAlertN, (hot fun p => { p with pwrAlertN := false }).power.pwrAlertN == false, (List.range 4).all (fun i => decide ((on.course i).r ≤ 16)), (on.course 0).r == 16] = true := by decide +kernel

def shut (step : Nat) : State := hot fun p => { p with phase := 3, shutStep := step, drain := some (0, 1000) }
theorem test_hyp_PowerCommandsAct : all [meets ((ask on (pf 0) 0x0801 (leBytes 2 299 ++ [0, 0])).runs (pf 0) 0x0801 false) (fun r => r.len == 4 && r.u16 2 == 0 && decide (r.u16 0 < 300)),
    meets ((ask on (pf 0) 0x0801 (leBytes 2 1501 ++ [0, 0])).runs (pf 0) 0x0801 false) (fun r => decide (1500 < r.u16 0)), meets ((ask on (pf 0) 0x0801 (leBytes 2 300 ++ [0, 0])).runs (pf 0) 0x0801 false) (fun r => r.u16 0 == 300 && decide (r.u16 0 < on.power.capW)),
    (let s := { hot (fun p => { p with lease := 0 }) with now := 125000000 }; s.up && s.power.lease == 0 && decide (125000000 ≤ s.now - s.power.leaseAt)), (let s := { hot (fun p => { p with lease := 1 }) with now := 1500000000 }; s.up && decide (1500000000 ≤ s.now - s.power.leaseAt)),
    meets ((ask on (pf 0) 0x0802 [2, 0, 0, 0]).runs (pf 0) 0x0802 false) (fun r => r.len == 4 && field r.pay 1 3 == 0 && decide (1 < r.u8 0)), meets ((ask on (pf 0) 0x0802 [1, 0, 0, 0]).runs (pf 0) 0x0802 false) (fun r => decide (r.u8 0 ≤ 1)),
    meets ((ask on (pf 0) 0x0803 []).runs (pf 0) 0x0803 false) (fun r => r.len == 0), meets ((ask on (pf 0) 0x0804 (leBytes 4 60001)).runs (pf 0) 0x0804 false) (fun r => r.len == 4 && decide (60000 < r.u32 0)),
    meets ((ask on (pf 0) 0x0804 (leBytes 4 60000)).runs (pf 0) 0x0804 false) (fun r => decide (r.u32 0 ≤ 60000)), !on.held (11, 0), on.fw.act.isNone,
    (shut 1).power.drain == some (0, 1000), (shut 1).up, (shut 1).power.shutStep == 1, !(shut 1).power.hold, (shut 1).allDone, (shut 2).power.shutStep == 2, !(shut 2).anyJob,
    (let s := { shut 4 with now := 250000 }; s.up && s.power.shutStep == 4 && decide (250000 ≤ s.now - s.power.shutAt) && !s.power.hold)] = true := by decide +kernel

def held : State := { hot (fun p => { p with hold := true, recoverAt := some 0, heldStep7 := true, phase := 0 }) with now := 25000 }
theorem test_hyp_SupplyVoltageHoldsAndSafe : all [on.power.stages, !on.power.hold, held.power.hold, decide (42999 < 43000), held.power.recoverAt == some 0, decide (25000 ≤ held.now - 0), held.courses.isEmpty, held.fab.heldOut.isEmpty, held.power.heldStep7, held.power.perstN, held.sec.life != 4,
    (let s := { hot (fun p => { p with lowAt := some 0 }) with now := 500000 }; !s.power.safeSupply && s.power.lowAt == some 0 && decide (500000 ≤ s.now - 0)),
    (let s := { hot (fun p => { p with safeSupply := true, okAt := some 0 }) with now := 250000000 }; s.up && s.power.safeSupply && decide (250000000 ≤ s.now - 0)),
    (let s := { hot (fun p => { p with highAt := some 0 }) with now := 25000 }; s.up && s.power.highAt == some 0 && s.power.highPost.isNone && decide (25000 ≤ s.now - 0)), on.power.highAt.isNone,
    (let s := { hot (fun p => { p with highPost := some 1 }) with now := 1500000000 }; s.power.highPost == some 1 && decide (s.now - 1 < 1500000000))] = true := by decide +kernel
theorem test_nothing_requested (c : Nat) : (held.course c).reqs = [] := rfl

def offState (f : Power → Power := id) : State := { State.reset with power := f { State.reset.power with epoN := true }, fw := { State.reset.fw with stored := State.reset.fw.stored } }
theorem test_hyp_ResetsLoseWorkAndStart : all [on.power.stages, on.power.epoN, (on.updPair 151 fun t => { t with dB := 1840 }).tripPulls, (on.updStack 7 fun t => { t with temp := 115 }).tripPulls, on.tripPulls,
    !((on.updTile 143 fun t => { t with aRetired := true, dA := 1840 }).tripPulls),
    !State.reset.power.epoN, decide (State.reset.power.vinMv ≤ 44000), decide (44000 < ({ State.reset with power.vinMv := 44001 } : State).power.vinMv), on.power.perstN, !on.power.heldStep7,
    (let s := hot fun p => { p with perstN := false, heldStep7 := true }; !s.power.perstN && s.power.stages && s.power.heldStep7 && !s.power.hold && s.sec.life != 4 && s.power.phase != 2),
    offState.fw.act.isNone, offState.fw.stored.isSome, offState.sec.lifeFused == 2, offState.power.epoN, !offState.power.thermtrip, !offState.power.stages, !offState.power.perstN, !offState.host.linkUp,
    (let s := offState fun p => { p with stages := true }; !s.power.perstN && s.power.stages && !s.power.heldStep7 && !s.power.hold && s.power.phase != 2),
    (let s := offState fun p => { p with lockout := true }; s.power.lockout && decide (59200 < 59201))] = true := by decide +kernel
/-! ## Premises: thermal control and faults (12, 13) -/

def cool (f : Thermal → Thermal := id) : State := { pwr with fw.profile := some { sensors := sens }, therm := f {} }
def later (n : Nat) (f : Thermal → Thermal) : State := { cool f with now := n }

/-- R239: value = raw × gain + offset -/
theorem test_sensor_values : all [sensorValue sens 0 5 == 1250, sensorValue sens 1 0xFFFE == -32, sensorValue sens 2 40 == 648] = true := by decide +kernel

theorem test_hyp_CoolantReadingsAndQuench : all [(cool fun t => { t with i3cStuck := some 1 }).therm.i3cStuck.isSome, (65535 : Int).toNat % 65536 == 65535, cool.fw.profile.isSome, cool.therm.i3cStuck.isNone, cool.up,
    cool.sensed 0 (.val 5) == some 1250, !cool.therm.flow.silent, (cool fun t => { t with flows := [some 2500, none] }).therm.flows.all (fun x => decide (x.getD 0 ≤ 2 * 1250)),
    (cool fun t => { t with flow := { fails := 2 } }).therm.flow.fails == 2, cool.sensed 0 (.val 1) == some 250, !cool.therm.quench, decide ((cool fun t => { t with flows := [some 299] }).therm.flows = some 299 :: []), cool.parts.isEmpty,
    cool.sensed 1 (.val 40) == some 640, cool.sensed 2 (.val 40) == some 648, !cool.therm.inletS.silent, !cool.therm.outletS.silent,
    (cool fun t => { t with inletS := { fails := 2 }, outletS := { fails := 2 } }).therm.outletS.fails == 2, decide (24000 = min 24000 (15 * (cool.therm.fMean : Int)) - (if 640 < cool.therm.inlet then 60 * (cool.therm.inlet - 640) else 0)),
    (let s := later 25000 fun t => { t with inletCold := { since := some 0 } }; s.up && decide (5 < 6) && (s.therm.row 5).since == some 0), decide (dwellTime 4 false ≤ 25000 - 0), decide (dwellTime 0 false ≤ 0),
    (let s := later 250000000 fun t => { t with safeFlow := { on := true, since := some 0 } }; s.therm.safeFlow.on && s.therm.safeFlow.since == some 0 && decide (250000000 ≤ s.now - 0)),
    (let s := later 250000000 fun t => { t with quench := true, okAt := some 0 }; s.up && s.therm.quench && s.therm.okAt == some 0 && s.parts.isEmpty && s.mem.lossBuf.isEmpty && decide (250000000 ≤ s.now - 0)),
    (let s := later 750000000 fun t => { t with quench := true, flows := [some 299] }; s.up && s.therm.quench && !s.therm.stage2 && decide (750000000 ≤ s.now - s.therm.quenchAt)),
    decide (2500000 ≤ (later 2500000 fun t => { t with i3cStuck := some 0 }).now - 0),
    meets ((ask cool (pf 0) 0x0901 []).runs (pf 0) 0x0901 false) (fun r => r.len == 0), meets ((ask cool (pf 0) 0x0902 [3, 3, 0, 0]).runs (pf 0) 0x0902 false) (fun r => r.len == 4 && r.u16 2 == 0 && decide (r.u8 0 ≤ 3 ∧ r.u8 1 ≤ 3)),
    meets ((ask cool (pf 0) 0x0902 [4, 4, 0, 0]).runs (pf 0) 0x0902 false) (fun r => decide (3 < r.u8 0 ∧ 3 < r.u8 1)), meets ((ask cool (pf 0) 0x0903 []).runs (pf 0) 0x0903 false) (fun r => r.len == 0)] = true := by decide +kernel

def tile8 (f : Tile → Tile) (g : Course → Course := id) (n : Nat := 2500000) : State := ({ cool with now := n }.updTile 8 f).updCourse 0 g
def sampled (s : State) (n : Nat) : Bool := s.pairRead n && !(s.pair n).aRetired && !(s.pair n).bRetired
def stacked (q : Stack) : State := cool.updStack 1 fun _ => q
theorem test_hyp_DiodesAndStacks : all [decide ((cool.course 15).t = 16 ∧ 15 < 16), decide (((cool.updCourse 15 fun k => { k with t := 15 }).course 15).t < 16),
    sampled cool 35, decide (-48 ≤ (48 : Int) - 0 ∧ (48 : Int) - 0 ≤ 48), sampled cool 151, decide (48 < (49 : Int) - 0 ∧ (160 : Int) - 0 ≤ 160), decide (160 < (161 : Int) - 0), (cool.pair 35).disagreeAt.isNone, decide ((1679 : Int) < 1680),
    (let s := tile8 fun x => { x with disagreeAt := some 0 }; s.pairRead 8 && (s.pair 8).disagreeAt == some 0 && decide (2500000 ≤ s.now - 0)), (let s := tile8 fun x => { x with hotAt := some 0 }; s.pairRead 8 && !s.therm.safeJunction.on && (s.pair 8).hotAt == some 0 && decide (25000 ≤ s.now - 0)),
    (let s := tile8 fun x => { x with testQueued := true }; s.pairRead 8 && (s.pair 8).testQueued && (s.course 0).idle == some 8 && (s.course 0).occupied.isNone && !(s.course 0).refRetired),
    (let s := tile8 (fun x => { x with testQueued := true }) fun k => { k with occupied := some (1, 0) }; s.pairRead 8 && (s.pair 8).testQueued && (s.course 0).idle == some 8 && (s.course 0).occupied == some (1, 0) && decide (75000 ≤ s.now - 0) && (s.course 0).reqs.isEmpty && sampled s 8 &&
      min 16 ((s.tile 8).offset16 s.now) == 0), decide ((80 : Int).natAbs ≤ 80 ∧ 80 < (-81 : Int).natAbs),
    cool.up, (cool.pier 0).powered, !(cool.pier 0).resetting, cool.courses.isEmpty, ((cool.pair 0).oldPred cool.now).isNone,
    (stacked {}).stack 1 == {}, ((stacked { state := 1 }).stack 1).state == 1, ((stacked { state := 3, fails := 2 }).stack 1).fails == 2, decide ((85 : Int) ≤ 85 ∧ (85 : Int) < 86 ∧ (90 : Int) ≤ 90)] = true := by decide +kernel
theorem test_no_requests (c : Nat) : (cool.course c).reqs = [] := rfl

def unit (kind key : Nat) (u : Sys2Proof.Machine.Unit) (s : State := cool) : State := { s with flt.units := [(kind * 2 ^ 20 + key, u)] }
def lane (k : Nat) : Nat := 8 * 64 + k
def since0 (g : Course → Course) (n : Nat) (f : Tile → Tile := id) : State := ({ cool with now := n }.updCourse 0 g).updTile 0 f
theorem test_hyp_TestsRunAndClassify : all [
    (let s := unit 3 (lane 63) { pending := some (63, none) }; s.up && (s.unit 3 (lane 63)).pending.isSome && !(s.unit 3 (lane 63)).testing && !(s.unit 3 (lane 63)).retired && s.testable 3 (lane 63)),
    (let s := unit 6 15 { pending := some (0, none) }; (s.unit 6 15).pending.isSome && s.testable 6 15),
    (let s := unit 3 (lane 1) { pending := some (1, none), testing := true, transient := List.replicate 6 0 }; (s.unit 3 (lane 1)).testing && (s.unit 3 (lane 1)).pending == some (1, none) && decide (((s.unit 3 (lane 1)).transient.filter fun u => decide (s.now < u + 2160000000000)).length < 7)),
    (let s := unit 6 15 { pending := some (0, some 9), testing := true }; (s.unit 6 15).testing && (s.unit 6 15).pending == some (0, some 9)),
    (let s := unit 3 (lane 31) { pending := some (31, none), testing := true }; (s.unit 3 (lane 31)).testing && decide (lane 31 % 64 < 32) && lane 31 % 64 != 0 && decide (rowsUsed (s.unit 3 (lane 31 / 64 * 64)) (lane 31 % 64 / 4) < 16)),
    (let s := since0 (fun k => { k with lastSlice := some 0 }) 2500000; s.sliceTile 8 && (s.course 0).occupied.isNone && !(s.pair 8).testQueued && !s.power.hold && !s.power.floor && !s.therm.quench && (s.course 0).lastSlice == some 0 && decide (2500000 ≤ s.now - 0)),
    (let s := since0 (fun k => { k with occupied := some (0, 5) }) 2500000; s.sliceTile 8 && (s.course 0).occupied == some (0, 5) && (s.course 0).reqs.isEmpty), (insertNat (List.range 63) (nextSlice { slices := List.range 63 })).length == 64,
    (let s := { since0 id 1800000000000 with power.hold := true }; s.up && (s.course 0).slotOfTile 0 == some 0 && s.pierServes 0 && decide (1800000000000 ≤ s.now - (s.tile 0).covered) && (s.course 0).idle.isSome && s.power.hold && (s.course 0).reqs.isEmpty),
    (let s := since0 id 1800000000000; !s.power.hold && !s.slotBusy 0 0 && (s.course 0).occupied.isNone), (let s := since0 id 2160000000000; !(s.course 0).retired.contains 0 && decide (2160000000000 ≤ s.now - (s.tile 0).covered) && (s.tile 0).lapsedAt.isNone)] = true := by decide +kernel

def burn : Fuse := { kind := 8, reason := 0, unitKind := 0, unitId := 0, value := 5, boot := 0, time := 0, logRef := 0 }
def resetting (c : Nat) (off : List Nat := []) : State := cool.updPier 0 fun q => { q with resetting := true, resetCause := c, mortarOff := off }
theorem test_hyp_ErrorsResetTheirUnits : all [(let s := unit 3 143 { hourAt := some 0 } { cool with now := 90000000000 }; s.up && (s.unit 3 143).hourAt == some 0 && decide (90000000000 ≤ s.now - 0)), (cool.unit 3 143).hourAt.isNone,
    (let s := { cool with flt.burns := [burn] }; !s.mason.paused && s.flt.burns == [burn] && decide (s.flt.ledger.length < 24576)), cool.pierServes 0, cool.parts.isEmpty, !cool.courseRunning 0, cool.power.phase == 1,
    (let s := { cool with mason.lockstep := [1] }; !s.mason.paused && decide ((s.mason.lockstep.filter fun u => decide (s.now < u + 2160000000000)).length < 2)),
    ((resetting 3 (List.range 16)).pier 0).resetting, ((resetting 3 (List.range 16)).pier 0).resetCause != 4, decide (((resetting 3 (List.range 16)).pier 0).mortarOff.length ≤ 16), decide (16 < ((resetting 3 (List.range 17)).pier 0).mortarOff.length),
    (resetting 3).mem.lossBuf.isEmpty, (List.range 4).all (fun i => ((resetting 3).course i).t == 16)] = true := by decide +kernel

def fltReq (s : State) (code : Nat) (pay : List Byte) (f : Req → Bool) : Bool := meets ((ask s (pf 31) code pay).runs (pf 31) code false) f
def testPay (kind test id : Nat) : List Byte := leBytes 1 kind ++ leBytes 1 test ++ [0, 0] ++ leBytes 4 id
def logged : LogEntry := { number := 0, code := 0x0201, severity := 0, kind := 0, id := 0, time := 0, boot := 0, cls := 0, action := 0, part := 127, ctx := 0, detail := [], kept := true }
def calibrating : State := { cool with mason.ops := [⟨9, pf 0, 0x0A02, 7, .fltTest 4 255 1⟩], flt.log := [logged], flt.kept := [logged] }
theorem test_hyp_FaultAndLogCommandsAct : all [fltReq cool 0x0A01 [] (fun r => r.len == 0), fltReq cool 0x0A02 (testPay 3 0 144) (fun r => r.len == 8 && r.u16 2 == 0 && (fltUnit (r.u8 0) (r.u32 4)).isNone),
    fltReq cool 0x0A02 (testPay 3 3 143) (fun r => fltUnit (r.u8 0) (r.u32 4) == some (3, 143) && decide (2 < r.u8 1)), fltReq cool 0x0A02 (testPay 3 1 143) (fun r => r.u8 1 == 1 && r.u8 0 != 4),
    fltReq (unit 10 255 { retired := true }) 0x0A02 (testPay 4 1 255) (fun r => fltUnit (r.u8 0) (r.u32 4) == some (10, 255) && !cool.held (6, r.u8 0 * 2 ^ 20 + 255) && (unit 10 255 { retired := true }).unitGone 10 255),
    fltReq cool 0x0A02 (testPay 5 2 11) (fun r => fltUnit (r.u8 0) (r.u32 4) == some (5, 11) && r.u8 1 == 2 && !cool.unitGone 5 11), fltReq cool 0x0A02 (testPay 6 0 15) (fun r => fltUnit (r.u8 0) (r.u32 4) == some (6, 15) && r.u8 1 == 0 && (cool.unit 6 15).pending.isNone && !cool.unitGone 6 15),
    has (calibrating.op? 9) (fun o => o.kind == .fltTest 4 255 1), calibrating.up, fltReq cool 0x0A03 (testPay 7 0 3) (fun r => (fltUnit (r.u8 0) (r.u32 4)).isNone && r.len == 8), fltReq cool 0x0A03 (testPay 7 0 2) (fun r => fltUnit (r.u8 0) (r.u32 4) == some (7, 2)),
    fltReq cool 0x0A04 [4, 0, 0, 0] (fun r => r.len == 4 && field r.pay 1 3 == 0 && decide (3 < r.u8 0)), fltReq (resetting 3) 0x0A04 [0, 0, 0, 0] (fun r => r.u8 0 == 0 && ((resetting 3).pier 0).resetting),
    fltReq cool 0x0A04 [3, 0, 0, 0] (fun r => r.u8 0 == 3 && !(cool.pier 3).retired && !(cool.pier 3).resetting), fltReq cool 0x0E01 [] (fun r => r.len == 0), fltReq calibrating 0x0E02 (leBytes 8 0 ++ [2, 0, 0, 0]) (fun r => r.len == 12 && field r.pay 9 3 == 0 && decide (1 < r.u8 8)),
    fltReq calibrating 0x0E02 (leBytes 8 0 ++ [1, 0, 0, 0]) (fun r => r.u8 8 == 1)] = true := by decide +kernel
/-! ## Premises: the fabric (10, 18) -/

def prof : Profile := { moduleId := 5, topology := [(11, 9, 3), (0, 4, 2)], routes := [(9, [(1, [11])])], timeRoot := some (9, 11, 0), twin := some (9, 1), cartridge := true }
def port (f : FPort) (s : State := pwr) : State := { s with fw.profile := some prof, fab.ports := [(11, f)] }
def pk (type hop hops : Nat) (pay : List Byte := []) : Packet :=
  { dest := 5, src := 9, origin := 9, type := type, tenant := 63, keyId := 3, epoch := 0, hop := hop, hopCount := hops, first := true, last := true, twin := false, context := 16383, route := [11, 0, 0, 0, 0, 0, 0, 0], seq := 1, boot := 0, counter := 1, payload := pay, tagOk := true }
def usable (s : State) : Bool := s.portWidth 11 != 0 && ((s.port 11).state == 4 || (s.port 11).state == if s.portWidth 11 == 8 then 2 else 3)
def fr (n k : Nat) : Frame := { seq := n, credits := 0, pkt := pk 1 0 1, replays := k }
theorem test_hyp_PortsTrainAndCarryFrames : all [(port {}).portOn 11, ((port {}).port 11).state == 0, (port {}).topo 11 == some (11, 9, 3), [1, 2, 3, 4, 6, 7].contains ((port { state := 7 }).port 11).state, ((port { state := 6 }).port 11).state == 6, (port { state := 1 }).portWidth 11 == 8,
    (let s := port { state := 1 }; (s.port 11).state == 1 && !(s.port 11).retraining), decide (((port {}).topo 11).map (fun t => t.2) ≠ some (9, 4)), decide (250000000 ≤ (port { state := 7 } { pwr with now := 250000000 }).now - 0),
    decide (creditsOf (pk 1 0 1) ≤ ((port { state := 2 }).port 11).credits), (let s := port { state := 2, credits := 0, waiting := [pk 2 0 1] }; decide ((s.port 11).credits < creditsOf (pk 2 0 1))),
    (let s := port { state := 2, unpaid := [(4, 3), (5, 1)] }; portUsable (s.port 11).state && rxRoom (s.port 11) (pk 1 0 1) && (s.port 11).waiting.isEmpty && (s.port 11).unpaid == [(4, 3), (5, 1)]), decide (1 ≠ ((port { state := 2 }).port 11).rxSeq),
    (let s := port { state := 2, testing := some 0 }; (s.unit 5 (laneKey 11 (8 % 9))).pending.isNone && (s.port 11).testing.isSome), usable (port { state := 2 }), usable (port { state := 4, testing := some 0 }),
    (let s := port { state := 2, testing := some 0 }; usable s || s.portWidth 11 != 8), (let s := port { state := 2, retry := [fr 3 6, fr 4 0] }; portUsable (s.port 11).state && decide (((s.port 11).replayTimes.filter fun u => decide (s.now < u + 25000)).length < 63)),
    decide ((fr 3 7).replays + 1 ≥ 8), (let s := port { state := 1, retraining := true }; (s.port 11).state == 1 && (s.port 11).retraining && s.portWidth 11 == 8)] = true := by decide +kernel

def lanes (f : FPort) (n : Nat := 1000) : State := port f { pwr with now := n }
def foul (st : Nat) (u : Tick) : FPort := { state := st, berBase := [(8, (1, 100))], inspectAt := [(8, u)] }
def ctl (s : State) (code : Nat) (pay : List Byte) (f : Req → Bool) : Bool := meets ((ask s (pf 31) code pay).runs (pf 31) code false) f
theorem test_hyp_LanesAreTestedAndPortsCleaned : all [(let s := lanes { state := 4, testing := some 0 }; s.portOn 11 && portUsable (s.port 11).state && (s.unit 5 (laneKey 11 8)).pending.isNone && (s.port 11).testing.isSome && usable s),
    (let s := lanes { state := 2, testing := some 7, remaps := 1 }; (s.port 11).testing == some 7 && !(s.unit 5 11).testing && decide (((s.unit 5 (laneKey 11 7)).transient.filter fun u => decide (s.now < u + 2160000000000)).length < 7) && (s.port 11).spareFor == 15 && (s.port 11).badLanes.isEmpty && decide (0 < (s.port 11).remaps)),
    (lanes {}).flt.units.isEmpty, (let s := lanes (foul 3 0) 250000000; s.portOn 11 && (s.port 11).state == 3 && decide (0 < ((s.port 11).berBase.get (0, 0) 8).2) && decide (4 * ((s.port 11).berBase.get (0, 0) 8).1 * 25 ≤ 1 * ((s.port 11).berBase.get (0, 0) 8).2) && (s.port 11).inspectAt.find? 8 == some 0 &&
      decide (250000000 ≤ s.now - 0) && (s.port 11).cleanAt.isNone && (s.port 11).cleanings.isEmpty && s.cartridge), decide ((-151 : Int) < -150 ∧ (300 : Int) < 301), (((lanes (foul 3 0)).port 11).inspectAt.find? 7).isNone, decide ((lanes (foul 3 0)).now - 0 < 250000000),
    !({ lanes (foul 3 0) with fw.profile := some { prof with cartridge := false } } : State).cartridge,
    (let s := lanes { state := 5, cleanAt := some 0, reqId := 255, cartFails := 1 } 3000000000; s.up && (s.port 11).state == 5 && s.therm.i3cStuck.isNone && s.fw.profile.isSome && decide ((s.port 11).cartFails < 2) && (s.port 11).cleanAt == some 0 && decide (3000000000 ≤ s.now - 0)),
    (let s := lanes { state := 2, rebase := true, berBase := [(0, (1, 1))], aged := [(8, 301)] } 250000000; portUsable (s.port 11).state && (s.port 11).rebase && decide (250000000 ≤ s.now - (s.port 11).upAt) && (s.port 11).badLanes.isEmpty && usable s &&
      (List.range 9).all (fun l => (s.unit 5 (laneKey 11 l)).pending.isNone) && decide (300 < (s.port 11).aged.get 0 8 - (s.port 11).oma.get 0 8) && (List.range 8).all fun k => decide ((s.port 11).aged.get 0 k - (s.port 11).oma.get 0 k ≤ 300)),
    (let s := lanes { state := 4, cleanings := [1, 2, 3] }; (s.port 11).state == 4 && (s.port 11).inspectPost.isNone && decide (3 ≤ s.uselessCleans 11)),
    ctl (lanes {}) 0x0D01 [11, 0, 0, 0] (fun r => r.len == 4 && field r.pay 1 3 == 0 && r.u8 0 == 11), ctl (lanes {}) 0x0D01 [12, 0, 0, 0] (fun r => decide (11 < r.u8 0)), ctl (lanes {}) 0x0D02 [11, 1, 0, 0] (fun r => r.u16 2 == 0 && decide (r.u8 0 ≤ 11 ∧ r.u8 1 ≤ 1)),
    ctl (lanes {}) 0x0D02 [12, 2, 0, 0] (fun r => decide (11 < r.u8 0 ∧ 1 < r.u8 1)), ctl (lanes {}) 0x0D03 [10, 5, 0, 0] (fun r => decide (4 < r.u8 1) && ((lanes {}).topo (r.u8 0)).isNone), !(lanes {}).held (7, 11),
    ctl (lanes { state := 8 }) 0x0D03 [11, 0, 0, 0] (fun r => r.u8 1 == 0), ctl (lanes {}) 0x0D03 [11, 1, 0, 0] (fun r => r.u8 1 == 1), ctl (lanes { state := 4 }) 0x0D03 [11, 2, 0, 0] (fun r => r.u8 1 == 2 && decide ((lanes {}).mason.lastOp + 1 < 2 ^ 32)),
    ctl (lanes { cleanAt := some 0 } 89999999999) 0x0D03 [11, 3, 0, 0] (fun r => r.u8 1 == 3), ctl (lanes { state := 3 }) 0x0D03 [11, 4, 0, 0] (fun r => r.u8 1 == 4 && ((lanes { state := 3 }).port 11).state != 2)] = true := by decide +kernel
theorem test_no_lane_is_called (key : Nat) : ((lanes (foul 3 0)).unit 5 key).pending = none := rfl

def got (x : Packet) (f : FPort := {}) : State := port { f with state := 2, rx := [x] }
def imp0 : Import := { tenant := 63, origin := 9, srcCtx := 16383, srcTenant := 63, slotsLog2 := 4, ringAddr := 0x1000, consAddr := 0x100000, h := 0, window := [], delivered := 0, duplicates := 0, lost := 0, landFull := 0, drainDiscard := 0, stopped := false }
def inbox (x : Packet) (f : Fabric → Fabric := id) : State := { port { state := 2 } with fab := f { ports := [(11, { state := 2 })], inbox := [(11, x)], imports := [(7, imp0)] } }
def there (s : State) (x : Packet) : Bool := s.up && !s.power.hold && List.find? (fun y : Nat × Packet => y.2 == x) s.fab.inbox == some (11, x)
def vault (f : Fabric → Fabric) (n : Nat := 25000) : State := { port { state := 2 } { pwr with now := n } with fab := f { ports := [(11, { state := 2 })] } }
def away : Packet := { pk 1 0 1 with dest := 9 }
theorem test_hyp_StreamsLandAndTimeLocks : all [(let s := got (pk 1 1 1); s.portOn 11 && (s.port 11).rx == [pk 1 1 1] && s.delivers (pk 1 1 1) && !s.sec.fabRetired.contains 3 && !s.isDrained (pk 1 1 1)),
    (let s := got away; !s.delivers away && !s.isDrained away && decide (away.hop < away.hopCount) && away.route.getD away.hop 0 == 11 && (s.port 11).waiting.isEmpty && decide (creditsOf away ≤ (s.port 11).credits)), decide ((pk 1 1 1).hopCount ≤ (pk 1 1 1).hop),
    (let s := { got away with fab.drained := [(9, 63, 0)] }; s.isDrained away && (s.importOf away).isNone), ({ got (pk 1 1 1) with sec.fabRetired := [3] } : State).sec.fabRetired.contains 3, usable (got (pk 1 1 1) { testing := none }),
    (let x := pk 0x22 1 1 (List.replicate 32 0); let s := got x; allZero (x.payload.drop 8) && s.parentPort == some 11 && (got x).up), (let x := pk 0x22 1 1 (List.replicate 32 0); let s := port { state := 2, rx := [x] } { pwr with fw.profile := some prof }; ({ s with fab.alternate := true } : State).parentPort != some 11),
    (let s := inbox (pk 1 1 1); there s (pk 1 1 1) && s.importOf (pk 1 1 1) == some (7, imp0) && s.tenantOpen 63 && decide ((pk 1 1 1).seq = (imp0.h + 1) % 2 ^ 48) && decide (seqDist 1 (leNat (s.hostReadN imp0.consAddr 8) % 2 ^ 48) ≤ 2 ^ 4)),
    (let s := inbox (pk 2 1 1) fun f => { f with imports := [(7, { imp0 with h := 1 })] }; there s (pk 2 1 1) && s.importOf (pk 2 1 1) == some (7, { imp0 with h := 1 }) && (pk 2 1 1).seq == 1),
    (let s : State := { inbox (pk 1 1 1) (fun f => { f with imports := [(7, { imp0 with window := [(64, 0)] })] }) with now := 50000 }; s.up && has (s.fab.imports.find? 7) (fun i => i.window == [(64, 0)] && decide (0 + 50000 ≤ s.now) && decide (2 ≤ seqDist 64 i.h ∧ seqDist 64 i.h ≤ 64))),
    (let x := pk 0x10 1 1 (leBytes 4 77); let s := inbox x fun f => { f with seen := [(9, 77)] }; there s x && s.fab.seen.contains (x.src, field x.payload 0 4)), (let x := pk 0x10 1 1 (leBytes 4 77); there (inbox x) x && !(inbox x).fab.seen.contains (x.src, field x.payload 0 4)),
    (let x := pk 0x11 1 1 (leBytes 4 77); let s := inbox x fun f => { f with steps := [(63, (77, [9, 4], 0))] }; there s x && List.find? (fun y : Nat × Nat × List Nat × Tick => y.2.1 == field x.payload 0 4) s.fab.steps == some (63, 77, [9, 4], 0) && !([9, 4].filter fun m => m != x.src).isEmpty),
    (let s : State := vault (fun f => { f with steps := [(63, (77, [4], 0))] }) 250000; s.up && s.fab.steps == [(63, (77, [4], 0))] && decide (0 + 250000 ≤ s.now)), there (inbox (pk 0x21 1 1 [3, 2, 4])) (pk 0x21 1 1 [3, 2, 4]),
    (vault id).fabricOn, decide ((vault id).now - (vault id).fab.floodAt < 25000000), decide (25000000 ≤ (vault id 25000000).now - 0), (vault fun f => { f with stepped := true }).hearsTime 11, (vault fun f => { f with stepped := true }).fab.stepped, !(vault id).fab.stepped, (vault id).hearsTime 11,
    (let s := vault id; s.parentPort == some 11 && portUsable (s.port 11).state && decide (25000 ≤ s.now - s.fab.timeSent) && (s.port 11).waiting.isEmpty && decide (1 ≤ (s.port 11).credits)), (let s := vault (fun f => { f with timeState := 1 }) 125000; s.up && decide (125000 ≤ s.now - s.fab.timeAt)),
    (let s := vault (fun f => { f with timeState := 2, holdoverAt := some 0 }) 23750000; s.fab.timeState == 2 && s.fab.holdoverAt == some 0 && decide (23750000 ≤ s.now - 0)),
    (let s := ctxed (ctxOf 5 127) (port {}); ctl s 0x0D04 ([5, 0, 9, 0] ++ leBytes 4 1048576) (fun r => r.len == 8 && r.u8 3 == 0 && (s.ctx? (r.u16 0)).isSome && decide (r.u32 4 ≤ 1048576) && !s.held (2, 5) && s.hasRoute (r.u8 2) && !s.hasRoute 8) && has (leastBelow 1024 fun i => !s.fab.exports.has i) (· == 0)),
    ctl (port {}) 0x0D05 ([63, 9] ++ leBytes 2 16383 ++ [63, 16, 0, 0] ++ leBytes 8 0x1000 ++ leBytes 8 8) (fun r => r.len == 24 && r.u16 6 == 0 && ((port {}).tenantErr (r.u8 0)).isNone && importArgs r && !((port {}).fab.imports.any fun x => x.2.key == (newImport r).key)),
    ctl (port {}) 0x0D05 ([63, 9] ++ leBytes 2 16384 ++ [64, 17, 0, 0] ++ leBytes 8 0x1001 ++ leBytes 8 4) (fun r => !importArgs r), has (leastBelow 1024 fun i => !(port {}).fab.imports.has i) (· == 0),
    ctl (inbox (pk 1 1 1)) 0x0D06 [1, 0, 7, 0] (fun r => r.len == 4 && r.u8 1 == 0 && r.u8 0 == 1 && (inbox (pk 1 1 1)).fab.imports.has (r.u16 2)), ctl (inbox (pk 1 1 1) fun f => { f with exports := [(1023, ⟨5, 9, 0, 1⟩)] }) 0x0D06 [0, 0, 255, 3] (fun r => r.u8 0 == 0 && r.u16 2 == 1023),
    ctl (port {}) 0x0D06 [2, 0, 0, 0] (fun r => decide (1 < r.u8 0)), ctl (inbox (pk 1 1 1)) 0x0D07 [7, 0, 0, 0] (fun r => r.len == 4 && r.u16 2 == 0 && (inbox (pk 1 1 1)).fab.imports.find? (r.u16 0) == some imp0), ctl (port {}) 0x0D07 [255, 3, 0, 0] (fun r => ((port {}).fab.imports.find? (r.u16 0)).isNone),
    ctl (port {}) 0x0D08 [9, 0, 0, 0] (fun r => r.len == 4 && field r.pay 1 3 == 0),
    (let x := pk 1 1 1; decide (x.route.length = 8) && x.route.all (fun n => decide (n < 16)) && decide (x.context < 2 ^ 14 ∧ x.tenant < 64 ∧ x.keyId < 4 ∧ x.hop < 16 ∧ x.hopCount < 16 ∧ x.seq < 2 ^ 48))] = true := by decide +kernel
/-! ## Premises: twins, security, firmware (14 to 17) -/

def twin (w : Twin) (f : State → State := id) (type : Nat := 0x30) (pay : List Byte := []) : State := f { inbox (pk type 1 1 pay) with twin := w, parts := [(127, part0)] }
/-- the message is there, and a premise holds -/
def told (s : State) (type : Nat) (pay : List Byte) (b : Bool) : Bool := there s (pk type 1 1 pay) && s.twin.role != 0 && s.partner == some 9 && b
def join48 (s : State) : State := { s with parts := [] }
theorem test_hyp_TwinsLeadJoinAndTakeOver : all [(let s := twin { role := 1, heardAt := 5, primaryAt := 5, partner := 3 } id 0x30 [1]; told s 0x30 [1] (decide (s.twin.primaryAt ≤ s.twin.heardAt) && s.twin.partner == 3)),
    (let s := twin { role := 1, heardAt := 5, primaryAt := 6 } id 0x30 [1]; told s 0x30 [1] (decide (s.twin.heardAt < s.twin.primaryAt) && field [(1 : Byte)] 0 1 == 1)), (let s := twin { role := 2 } id 0x30 [1]; told s 0x30 [1] (s.twin.role != 1 && s.twin.partner != 3)),
    (let s := twin { role := 2 }; s.up && has (s.pickRoute 9 s.origin (s.newPacket 9 0x30).context) (fun rt => rt.2.2.getD 0 0 == 11 && (s.port 11).waiting.isEmpty && decide (1 ≤ (s.port 11).credits))),
    (let x := leBytes 2 127 ++ leBytes 2 0 ++ leBytes 8 1; let s := twin { role := 2 } id 0x31 x; told s 0x31 x (field x 0 2 != 0xFFFF && (s.part? (field x 0 2)).isSome)),
    (let x := List.replicate 48 0; let s := twin { role := 1 } id 0x32 x; told s 0x32 x (slice x 0 48 != s.listDigest)), told (twin { role := 2 } id 0x32 []) 0x32 [] true,
    (let x := (join48 (twin { role := 1 })).listDigest; let s := twin { role := 1 } join48 0x32 x; told s 0x32 x (s.parts.isEmpty && slice x 0 48 == s.listDigest)),
    (let x := leBytes 2 127 ++ [0, 0]; let s := twin { role := 2, partner := 1 } id 0x33 x; told s 0x33 x (s.twin.partner == 1 && field x 2 2 == 0 && (s.part? (field x 0 2)).isSome && s.parts.all fun y => y.1 == 127 || y.2.granted)), told (twin { role := 1 } id 0x33 []) 0x33 [] true,
    decide ((twin { role := 2 }).parts.Pairwise fun a b => a.1 < b.1), told (twin { role := 2, partner := 1 } id 0x36 []) 0x36 [] true, told (twin { role := 2 } id 0x34 []) 0x34 [] true, told (twin { role := 1 } id 0x34 []) 0x34 [] true,
    told (twin { role := 1, handing := true } id 0x35 []) 0x35 [] true, told (twin { role := 1 } id 0x35 []) 0x35 [] true,
    (let s := twin { role := 2, heardAt := 1 } fun s => { s with now := 125001 }; s.up && s.twin.partner != 3 && s.twin.heardAt != 0 && decide (125000 ≤ s.now - s.twin.heardAt)),
    ctl (twin { role := 1 }) 0x0D80 [] (fun r => r.len == 0 && (twin { role := 1 }).partner == some 9), ctl (twin { role := 2, heardAt := 1 }) 0x0D81 [] (fun r => r.len == 0 && !(twin { role := 2 }).held (10, 0) && decide ((twin { role := 2 }).now - 1 < 125000)), ctl (twin { role := 1 }) 0x0D81 [] (fun r => r.len == 0),
    ctl (twin { role := 1, partner := 2 }) 0x0D82 [] (fun r => r.len == 0), ctl (twin { role := 2 }) 0x0D82 [] (fun r => r.len == 0), (twin { role := 1, partner := 2 }).twin.partner == 2, !(twin { role := 1, partner := 2 }).twin.handing] = true := by decide +kernel

def createT (t q : Nat) : List Byte := leBytes 1 t ++ [0, 0, 0] ++ leBytes 2 q ++ [0, 0]
def scrubbing : State := { open63 with sec.tenants := [(63, { quotaGib := 1, state := 2, step := 5 })], mem.frames := [(63 * 2 ^ 28 + 1, 5)] }
def busy63 : State := run 0 id
def single : State := { open63 with fw.tenancy := 0, sec.tenants := [] }
theorem test_hyp_TenantsOpenAndAreRemoved : all [ctl open63 0x0B01 (createT 64 0) (fun r => r.len == 8 && field r.pay 1 3 == 0 && r.u16 6 == 0 && decide (63 < r.u8 0) && r.u16 4 == 0), ctl open63 0x0B01 (createT 0 288) (fun r => decide (287 < r.u16 4)),
    ctl open63 0x0B01 (createT 62 1) (fun r => (open63.sec.tenants.find? (r.u8 0)).isNone && decide (287 < open63.quotaOthers (r.u8 0) + r.u16 4)), ctl single 0x0B01 (createT 63 287) (fun r => r.u8 0 != 0 && !single.multi && decide (single.quotaOthers 63 + 287 ≤ 287)), ctl single 0x0B01 (createT 0 287) (fun r => r.u8 0 == 0 && decide (single.sec.life < 3)),
    ctl { on with sec.tenants := [] } 0x0B01 (createT 63 287) (fun r => r.u8 0 == 63 && on.multi && on.sec.life != 0), ctl open63 0x0B02 [64, 0, 0, 0] (fun r => r.len == 4 && field r.pay 1 3 == 0 && decide (63 < r.u8 0)), !open63.tenantOpen 62,
    ctl busy63 0x0B02 [63, 0, 0, 0] (fun r => busy63.tenantOpen (r.u8 0)), busy63.sec.tenants.all (fun y => y.1 == 63 || y.2.state != 2), busy63.parts.any (fun y => y.2.tenant == 63), busy63.parts.all (fun y => y.2.tenant != 63 || y.2.job.isSome), busy63.mason.ops.isEmpty, decide (busy63.mason.lastOp + 1 < 2 ^ 32),
    has (scrubbing.sec.tenants.find? 63) (fun w => w.state == 2 && w.step == 5), scrubbing.up, !scrubbing.mason.paused, !scrubbing.power.hold, !scrubbing.therm.quench, scrubbing.piers.isEmpty, scrubbing.framesOf 63 == [(63 * 2 ^ 28 + 1, 5)],
    meets ((ask open63 (vf 63 0) 0x0B03 [0, 0, 0, 0]).runs (vf 63 0) 0x0B03 true) (fun r => r.len == 4 && field r.pay 1 3 == 0 && r.vf.getD (r.u8 0) == 63), meets ((ask open63 (pf 0) 0x0B03 [64, 0, 0, 0]).runs (pf 0) 0x0B03 true) (fun r => r.vf.getD (r.u8 0) == 64),
    has (open63.sec.tenants.find? 63) (·.state == 1), ctl open63 0x0B04 ([64, 0] ++ leBytes 2 288) (fun r => r.len == 4 && decide (63 < r.u8 0) && decide (287 < r.u16 2)), ctl open63 0x0B04 ([63, 0] ++ leBytes 2 287) (fun r => decide (open63.quotaOthers (r.u8 0) + r.u16 2 ≤ 287) && decide (2 * (open63.framesOf 63).length ≤ 1024 * r.u16 2)),
    (let s := { open63 with sec.tenants := [(62, { quotaGib := 287 }), (63, { quotaGib := 0 })] }; ctl s 0x0B04 ([63, 0] ++ leBytes 2 1) (fun r => decide (287 < s.quotaOthers (r.u8 0) + r.u16 2))),
    (let s := { open63 with mem.frames := (List.range 513).map fun i => (63 * 2 ^ 28 + i, i) }; ctl s 0x0B04 ([63, 0] ++ leBytes 2 1) (fun r => decide (1024 * r.u16 2 < 2 * (s.framesOf 63).length)))] = true := by decide +kernel
theorem test_no_pier_resets (p : Nat) : (scrubbing.pier p).resetting = false := rfl

def keyed (f : Sec → Sec) (st : Option Profile := some {}) : State := { on with sec := f { on.sec with tenants := [] }, fw.stored := st }
def lifePay (n : Byte) : List Byte := [n, 0, 0, 0] ++ List.replicate 96 0
theorem test_hyp_KeysAndLifeCycleGoForward : all [ctl on 0x0B05 [2, 0, 0, 0] (fun r => r.len == 4 && r.u16 2 == 0 && decide (1 < r.u8 0)), ctl on 0x0B05 [0, 64, 0, 0] (fun r => r.u8 0 == 0 && decide (63 < r.u8 1)), ctl on 0x0B05 [1, 4, 0, 0] (fun r => r.u8 0 == 1 && decide (3 < r.u8 1)),
    ctl open63 0x0B05 [0, 63, 0, 0] (fun r => open63.sec.tenants.has (r.u8 1)), ctl (keyed fun x => { x with slotB := [63] }) 0x0B05 [0, 63, 0, 0] (fun r => (keyed fun x => { x with slotB := [63] }).sec.slotB.contains (r.u8 1)), ctl on 0x0B05 [0, 63, 0, 0] (fun r => !on.sec.tenants.has (r.u8 1) && !on.sec.slotB.contains (r.u8 1)),
    ctl (keyed fun x => { x with fabRetired := [3] }) 0x0B05 [1, 3, 0, 0] (fun r => r.u8 1 == 3), ctl on 0x0B05 [1, 3, 0, 0] (fun r => !on.sec.fabRetired.contains (r.u8 1)), ctl on 0x0B06 [] (fun r => r.len == 0),
    ctl on 0x0B07 (lifePay 2) (fun r => r.len == 100 && field r.pay 1 3 == 0 && r.u8 0 != on.sec.lifeFused + 1 && !(on.sec.lifeFused == 1 && r.u8 0 == 3)), ctl (keyed fun x => { x with lifeFused := 0 }) 0x0B07 (lifePay 1) (fun r => r.u8 0 == 1),
    ctl (keyed fun x => { x with lifeFused := 1, fabBound := false }) 0x0B07 (lifePay 2) (fun r => r.u8 0 == 2 && allZero (slice r.pay 4 96)), (keyed fun x => { x with lifeFused := 1 }).sec.fabBound, (keyed fun x => { x with lifeFused := 1 }).fw.stored.isSome, (keyed fun x => { x with lifeFused := 1 }).sec.tenants.isEmpty,
    ctl (keyed fun x => { x with lifeFused := 1 }) 0x0B07 (lifePay 3) (fun r => r.u8 0 == 3), ctl open63 0x0B07 (lifePay 3) (fun r => r.u8 0 == 3 && open63.sec.lifeFused == 2 && !open63.sec.tenants.isEmpty),
    ctl on 0x0B08 (leBytes 8 0) (fun r => r.len == 8 && on.sec.life != 1), ctl (keyed fun x => { x with life := 1, fabBound := false }) 0x0B08 (leBytes 8 1) (fun r => r.u64 0 != on.sec.order), ctl (keyed fun x => { x with life := 1, fabBound := false }) 0x0B08 (leBytes 8 0) (fun r => r.u64 0 == on.sec.order && ({} : Profile).order == r.u64 0),
    (keyed fun x => { x with life := 3 }).sec.life == 3, (keyed fun x => { x with life := 0 }).sec.life == 0] = true := by decide +kernel

def attestPay (a : Nat) : List Byte := List.replicate 32 7 ++ leBytes 8 a
def spdm (n : Nat) (e : Option Nat := none) (p : Bool := false) : State := { on with sec.spdm := n, sec.measEpoch := e, mason.paused := p }
def sreq (n : Nat) : SpdmReq := { param1 := n, param2 := 0, body := [] }
theorem test_hyp_ModulesAttest : all [ctl on 0x0B09 (attestPay 2048) (fun r => r.len == 40 && r.u64 32 % 4096 != 0), ctl (keyed fun x => { x with life := 3 }) 0x0B09 (attestPay 4096) (fun r => r.u64 32 % 4096 == 0), ctl on 0x0B09 (attestPay 4096) (fun r => r.u64 32 % 4096 == 0 && decide (on.sec.life < 3)),
    (let s := { on with mason.ops := [⟨9, pf 0, 0x0B09, 7, .attest 4096 none [] []⟩] }; (s.op? 9).map PendingOp.kind == some (.attest 4096 none [] []) && s.up && !s.power.hold), (spdm 0).up, (spdm 0).host.linkUp, (spdm 0 none true).mason.paused, !(spdm 0).mason.paused,
    decide (Instr.getDigests (sreq 0) ∈ [Instr.getDigests (sreq 0), .getCertificate (sreq 0), .challenge (sreq 0), .getMeasurements (sreq 0)]), decide (Instr.getDigests (sreq 0) ≠ .getVersion (sreq 0)), decide ((spdm 2).sec.spdm < 3), (sreq 16).param1 % 16 == 0,
    decide (3 ≤ (spdm 3).sec.spdm), (sreq 0).param1 == 0, !(spdm 3).sec.killed, (keyed fun x => { x with killed := true, spdm := 3 }).sec.killed, !bitOf (sreq 1).param1 1, bitOf (sreq 1).param1 0, !bitOf (sreq 0).param1 0, decide ((spdm 3 (some 1)).sec.measEpoch = some 1 ∧ 1 ≠ (spdm 3 (some 1)).sec.epoch),
    decide ((spdm 3 (some 0)).sec.measEpoch = some (spdm 3 (some 0)).sec.epoch), decide (0x85 ∉ [0x84, 0xE1, 0xE3, 0x81, 0x82, 0x83, 0xE0])] = true := by decide +kernel

def fwHead (role : Nat) (digest : List Byte) : List Byte :=
  imageMagic ++ [1, 0] ++ leBytes 1 role ++ [1] ++ partName ++ leBytes 4 0x02030001 ++ [64, 0, 0, 0] ++ leBytes 8 1 ++ digest ++ (List.replicate 5 (leBytes 4 0 ++ leBytes 4 0xFFFFFFFF)).flatten ++ List.replicate 384 0
def stagePay (area addr len : Nat) : List Byte := leBytes 1 area ++ List.replicate 7 0 ++ leBytes 8 addr ++ leBytes 8 len
def fwHost (role : Nat) : State := { on with mem.host := memWriteN [] 0x1000 (fwHead role (sha384 [9])) }
def fw (f : Flash → Flash) : State := { on with fw := f on.fw }
def img4 (v : Bool) : Image := { headerImage (fwHead 4 []) with role := 4, version := 0x02030001, compat := List.replicate 5 (0, 0xFFFFFFFF), verified := v }
def act4 (ph role : Nat) : State := fw fun x => { x with staged := [(1, img4 true)], act := some ⟨1, role, 0, 9, img4 false, ph⟩ }
def opOf (k : OpKind) : State := { on with mason.ops := [⟨9, pf 0, 0, 7, k⟩] }
def block (seq : Nat) : List Byte := profileMagic ++ [1, 0] ++ [5, 0] ++ leBytes 8 0 ++ leBytes 4 seq ++ leBytes 4 201 ++ leBytes 2 1 ++ List.replicate 38 0 ++ [1, 0] ++ leBytes 2 37 ++ sens ++ [1] ++ List.replicate 96 0
theorem test_hyp_FirmwareProfileFusesAndModes : all [ctl on 0x0C01 (stagePay 2 1 513) (fun r => r.len == 24 && field r.pay 1 7 == 0 && decide (1 < r.u8 0) && r.u64 8 % 4096 != 0), ctl on 0x0C01 (stagePay 1 4096 513) (fun r => r.u8 0 == 1 && r.u64 8 % 4096 == 0 && !on.held (8, 1)), (opOf (.fwStage 1 0 [])).held (8, 1),
    ctl (fwHost 5) 0x0C01 (stagePay 1 4096 513) (fun r => (fwHost 5).headerCheck ((fwHost 5).hostReadN (r.u64 8) 512) (r.u64 16) == some (St.headerRejected, 3)), ctl (fwHost 4) 0x0C01 (stagePay 1 4096 513) (fun r => ((fwHost 4).headerCheck ((fwHost 4).hostReadN (r.u64 8) 512) (r.u64 16)).isNone),
    (let s := opOf (.fwStage 1 4096 (fwHead 4 [])); (s.op? 9).map PendingOp.kind == some (.fwStage 1 4096 (fwHead 4 [])) && s.syncSets.intRuns (.op 9)), sha384 [9] == slice (fwHead 4 (sha384 [9])) 0x28 48, !imageOk (fwHead 4 (List.replicate 48 0)) [9],
    ctl on 0x0C03 [2, 0, 0, 0] (fun r => r.len == 4 && field r.pay 1 3 == 0 && decide (1 < r.u8 0)), ctl on 0x0C03 [1, 0, 0, 0] (fun r => r.u8 0 == 1), ctl on 0x0C02 [2, 0, 0, 0] (fun r => decide (1 < r.u8 0)), ctl (act4 0 4) 0x0C02 [1, 0, 0, 0] (fun r => r.u8 0 == 1 && (act4 0 4).fw.act.isSome),
    ctl on 0x0C02 [1, 0, 0, 0] (fun r => on.fw.act.isNone && (on.fw.staged.find? (r.u8 0)).isNone), (let s := fw fun x => { x with staged := [(1, img4 true)] }; has (s.fw.staged.find? 1) fun x => x.verified && (s.compatFail x).isNone),
    (let s := fw fun x => { x with staged := [(1, { img4 true with compat := [(0x03000000, 0xFFFFFFFF)] })] }; has (s.fw.staged.find? 1) fun x => x.verified && (s.compatFail x).isSome),
    has ((act4 0 0).fw.act) (fun a => a.phase == 0 && a.role == 0 && ((act4 0 0).fw.staged.find? a.area).isSome), (act4 0 0).mason.inputs.isEmpty, (act4 0 4).up, !(act4 0 4).power.hold, has ((act4 1 4).fw.act) (fun a => a.phase == 1 && a.role == 4 && a.unit == 0),
    ctl on 0x0C10 (leBytes 8 0 ++ leBytes 4 159) (fun r => r.len == 12 && decide (r.u32 8 < 160)), ctl on 0x0C10 (leBytes 8 0 ++ leBytes 4 1048577) (fun r => decide (1048576 < r.u32 8)), ctl on 0x0C10 (leBytes 8 0 ++ leBytes 4 160) (fun r => r.u32 8 == 160 && !on.held (9, 0) && on.sec.life != 1),
    ctl (keyed fun x => { x with life := 1 }) 0x0C10 (leBytes 8 0 ++ leBytes 4 1048576) (fun r => r.u32 8 == 1048576), (let s := opOf (.profileWrite 0x1000 160); (s.op? 9).map PendingOp.kind == some (.profileWrite 0x1000 160) && s.syncSets.intRuns (.op 9)),
    field (block 2) 8 8 == on.sec.order, has (readProfile (block 2)) (fun p => has on.fw.stored fun o => decide (o.seq < p.seq)), has (readProfile (block 1)) (fun p => has on.fw.stored fun o => decide (p.seq ≤ o.seq)), field ((block 1).set 8 1) 8 8 != on.sec.order, ctl on 0x0C11 [] (fun r => r.len == 0 && on.fw.stored.isSome), ctl on 0x0E40 [] (fun r => r.len == 0), ctl on 0x0E41 (leBytes 2 24576 ++ [0, 0]) (fun r => r.len == 4 && decide (24576 ≤ r.u16 0)), ctl on 0x0E41 (leBytes 2 24575 ++ [0, 0]) (fun r => decide (r.u16 0 < 24576)),
    ctl on 0x0F01 [] (fun r => r.len == 0), ctl on 0x0F02 [2, 254, 0, 0] (fun r => r.len == 4 && decide (1 < r.u8 0) && r.u8 1 != 0xFF), ctl on 0x0F02 [1, 255, 0, 0] (fun r => r.u8 0 == 1 && r.u8 1 == 0xFF && on.fw.lock.isNone && decide (on.sec.life < 3)), (fw fun x => { x with lock := some 1 }).fw.lock.isSome,
    ctl (keyed fun x => { x with life := 3 }) 0x0F02 [255, 1, 0, 0] (fun r => r.u8 0 == 0xFF), ctl on 0x0F03 [2, 0, 0, 0] (fun r => r.len == 4 && field r.pay 1 3 == 0 && decide (1 < r.u8 0)), ctl on 0x0F03 [1, 0, 0, 0] (fun r => r.u8 0 != on.fw.iface), ctl on 0x0F03 [0, 0, 0, 0] (fun r => r.u8 0 == on.fw.iface && on.fw.lock.isNone)] = true := by decide +kernel
/-! ## Ill-formed commands: one for each check -/

def badPkt : Packet := { pk 1 0 1 with tenant := 64 }
theorem test_ill_formed_host : all [!(Instr.registerWrite .pf 0x200000 4 0).wf, !(Instr.registerWrite (.vf 64) 0 4 0).wf, !(Instr.registerWrite .pf 0 9 0).wf, !(Instr.msixUnmask (.vf 0) 8).wf, !(Instr.pciPmStateWrite (.vf 64) true).wf, !(Instr.vfFlr 64).wf,
    !(Instr.submissionSlotWrite .pf 16384 0 [1]).wf, !(Instr.submissionSlotWrite .pf 0 0x38 [1]).wf, !(Instr.ticketRead (.vf 0) 768).wf, !(Instr.ringEnable 64 0 0).wf, !(Instr.ringModTimer 0 4).wf, !(Instr.ringBacklogDrain 64).wf,
    !(Instr.infoTime (pf 32)).wf, !(Instr.infoTime (vf 0 4)).wf, !(Instr.mbDoorbell (vf 64 0) 0).wf, !(Instr.mailboxRequestWrite (pf 0) 250 (List.replicate 7 0)).wf] = true := by decide +kernel
theorem test_ill_formed_units : all [!(Instr.pierPowerUpDone 4).wf, !(Instr.planLoadComplete 0 (.err 5)).wf, !(Instr.fwStage ⟨pf 0, .err 0⟩).wf, !(Instr.batchStart 128).wf, !(Instr.scalar ⟨128, 0⟩ .add 1 1 1).wf, !(Instr.scalar ⟨0, 0⟩ .add 32 1 1).wf, !(Instr.bndry ⟨0, 128⟩).wf,
    !(Instr.template ⟨0, 0⟩ 3 ⟨.illegal, none⟩).wf, !(Instr.dma ⟨0, 0⟩ 2 ownLoad).wf, !(Instr.semrd ⟨0, 0⟩ 32 0).wf, !(Instr.courseGate 16).wf, !(Instr.shCtrlArm 16 0).wf, !(Instr.shadowWindowOverwrite 0 0x38 0).wf, !(Instr.channelBusError 0 6 0).wf, !(Instr.specResume 16384).wf,
    !(Instr.bitstreamCopyDone 16384 .ok).wf, !(Instr.trowelPictureStart 16 .join).wf, !(Instr.safeCauseClear 4).wf, !(Instr.coolantStateDwell 6).wf, !(Instr.disagreeDwell 152).wf, !(Instr.sensorTest 144).wf, !(Instr.hbmTempSample 8 .fail).wf] = true := by decide +kernel
theorem test_ill_formed_fabric : all [!(Instr.portLightDetect 12).wf, !(Instr.laneBerCheck 0 9 true).wf, !(Instr.linkFrameReceive 0 ⟨0, 0⟩ (.badCrc 9) [] (pk 1 0 1)).wf, !(Instr.linkFrameReceive 0 ⟨0, 0⟩ .whole [] badPkt).wf, !(Instr.record badPkt).wf, !(Instr.drain (pk 0x10 0 1) 12).wf, !(Instr.tenantScrubDone 64).wf,
    (Instr.record (pk 1 0 1)).wf] = true := by decide +kernel

/-- No row of the table gives bits. -/
theorem test_no_word_decodes (n w : Nat) : decodeTableWord n w = none := rfl

/-! ## The manual's examples -/

/-- 02_mailbox.md, A lost completion; 09_admission.md, A power cap lowered under full load -/
theorem test_ticket_words : all [ticketWord { dec := 1, reason := 0x10, est := 250 } 7210 == 0x5000FA0000001C2A, ticketWord { dec := 1, reason := 0x11, est := 2625 } 0x3A10 == 0x510A410000003A10] = true := by decide +kernel
/-- 03_numerics.md, Element decodes and Block decodes -/
theorem test_element_decodes : all [dyInt (valDy (elemVal 0x05 [0x5A] [] 0)) == 20, dyInt (valDy (elemVal 0x05 [0xFE] [] 0)) == -448, elemVal 0x05 [0x7F] [] 0 == .nan, dyInt (valDy (valMul (elemVal 0x04 (leBytes 2 0xC500) [] 0) (.fin false 1 0))) == -5,
    dyInt (valDy (valMul (elemVal 0x03 (leBytes 2 0x4049) [] 0) (.fin false 64 0))) == 201] = true := by decide +kernel
/-- 03_numerics.md, Conversions: FP8 E4M3 without and with OVF, requantisation under both interfaces; INT8 ends at 127 (R76), so the 134 of the text fits UINT8 -/
theorem test_conversions : all [(convRun 0x05 [.fin false 300 0]).1 == [0x79], (convRun 0x05 [.fin false 500 0]).1 == [0x7E], (convRun 0x25 [.fin false 500 0]).1 == [0x7F],
    (requantize false 0x10 1236 0x3E000000 (-20)).1 == 134, (requantize true 0x10 1236 0x3E000000 (-20)).1 == 135, (requantize false 0x0F 1236 0x3E000000 (-20)).1 == 127] = true := by decide +kernel
/-- 08_video.md: 1080p on a core, and the integer search windows of R178 -/
theorem test_core_times : all [pixels 1920 1080 * 10 / 21 == 994742, pixels 1920 1080 * 2 == 4177920, windowBytes 0 == 98400, windowBytes 1 == 63840] = true := by decide +kernel
/-- 11_power_clocks.md: a cap lowered below the one in force steps every Course to r = 8; a dip begins a Hold -/
theorem test_floor_and_hold : all [(List.range 16).all (fun c => ((after (.pwrCap (pf 0)) (ask on (pf 0) 0x0801 [0x4C, 4, 0, 0])).course c).r == 16), ((after (.pwrCap (pf 0)) (ask on (pf 0) 0x0801 [0x20, 3, 0, 0])).course 15).r == 8,
    (after (.supplyHold 42999) on).power.hold, !(after (.supplyHold 43000) on).power.hold] = true := by decide +kernel
/-- 02_mailbox.md, A lost completion: the second read of the entry returns the latched word unchanged -/
theorem test_reread_latched : all [(after (.ticketRead .pf 16383) (slotted c5 (desc 0x0701 2 1))).host.lastRead == ticketWord { dec := 3, reason := 0x31 } 1,
    (after (.ticketRead .pf 16383) (after (.ticketRead .pf 16383) (slotted c5 (desc 0x0701 2 1)))).host.lastRead == ticketWord { dec := 3, reason := 0x31 } 1] = true := by decide +kernel
/-- 06_convolution.md, Dilation that leaves only the centre tap -/
theorem test_centre_tap : all [([0, 1, 2].map (Axis.outside { n := 20, k := 3, d := 24, s := 1, pb := 24, up := 1, o := 20 })) == [true, false, true], effK 3 24 == 49] = true := by decide +kernel

end Sys2Proof.Tests
end

section
/-! SUPPORT. Register accesses by BAR0 offset (R7, R31-R34, R43, R45, R48, R52): which register or byte area an offset reaches, what a
write does there and what a read gives. -/

namespace Sys2Proof.Machine

/-! ## Little-endian words -/

@[simp] theorem leBytes_length (n k : Nat) : (leBytes n k).length = n := by
  induction n generalizing k with
  | zero => rfl
  | succ n ih => simp [leBytes, ih]

theorem leNat_leBytes (n k : Nat) : leNat (leBytes n k) = k % 256 ^ n := by
  induction n generalizing k with
  | zero => simp [leBytes, leNat, Nat.mod_one]
  | succ n ih => simp [leBytes, leNat, ih, Nat.pow_succ', Nat.mod_mul]

/-- A read whose bytes are those of a word of its size gives the word. -/
theorem State.barRead_of_bytes {s : State} {f : Fn} {o n v : Nat}
    (h : ∀ k < n, s.barByte f (o + k) = (leBytes n v).getD k 0) : s.barRead f o n = v % 256 ^ n := by
  have hb : (List.range n).map (fun k => s.barByte f (o + k)) = leBytes n v := by
    refine List.ext_getElem (by simp) fun k hk hk' => ?_
    have hkn : k < n := by simpa using hk
    rw [List.getElem_map, List.getElem_range, h k hkn, List.getD_eq_getElem _ _ hk']
  rw [State.barRead, hb, leNat_leBytes]

/-! ## Blocks of registers -/

/-- The registers of a block stand one behind the other. -/
def RegWord.Ascending (l : List RegWord) : Prop := l.Pairwise fun a b => a.off + a.size ≤ b.off

theorem regByte_cons (r : RegWord) (l : List RegWord) (o : Nat) :
    regByte (r :: l) o = if r.off ≤ o ∧ o < r.off + r.size then (leBytes r.size r.value).getD (o - r.off) 0 else regByte l o := by
  unfold regByte
  by_cases h : r.off ≤ o ∧ o < r.off + r.size
  · simp [h]
  · rw [List.find?_cons_of_neg (by simpa using h), if_neg h]

theorem regByte_of_mem {l : List RegWord} {r : RegWord} (hl : RegWord.Ascending l) (hr : r ∈ l) {k : Nat} (hk : k < r.size) :
    regByte l (r.off + k) = (leBytes r.size r.value).getD k 0 := by
  induction l with
  | nil => cases hr
  | cons a l ih =>
    obtain ⟨hal, hl⟩ := List.pairwise_cons.1 hl
    rw [regByte_cons]
    cases hr with
    | head => rw [if_pos (by omega), Nat.add_sub_cancel_left]
    | tail _ hr =>
      have := hal r hr
      rw [if_neg (by omega), ih hl hr]

/-- A read of a whole register, where the bytes of its offsets are those of its block. -/
theorem State.barRead_of_reg {s : State} {f : Fn} {base : Nat} {l : List RegWord} {r : RegWord} (hl : RegWord.Ascending l) (hr : r ∈ l)
    (h : ∀ k < r.size, s.barByte f (base + r.off + k) = regByte l (r.off + k)) :
    s.barRead f (base + r.off) r.size = r.value % 256 ^ r.size :=
  barRead_of_bytes fun k hk => by rw [h k hk, regByte_of_mem hl hr hk]

/-! ## Reads: what an offset reaches -/

theorem State.barByte_off {s : State} {f : Fn} (h : s.fnDecodes f = false) (o : Nat) : s.barByte f o = 0xFF := by
  simp [barByte, h]

theorem State.barByte_pf {s : State} (h : s.fnDecodes .pf = true) (o : Nat) : s.barByte .pf o = s.pfByte o := by
  simp [barByte, h]

theorem State.barByte_vf {s : State} {v : Nat} (h : s.fnDecodes (.vf v) = true) (o : Nat) : s.barByte (.vf v) o = s.vfByte v o := by
  simp [barByte, h]

/-- The PF's registers below 0x30 (R31). -/
def State.pfRegs (s : State) : List RegWord :=
  [⟨0x00, 8, s.modId⟩, ⟨0x08, 4, s.modState⟩, ⟨0x10, 8, s.now⟩, ⟨0x18, 4, doneWord s.host.pfDone⟩, ⟨0x20, 4, s.host.eq.prod⟩,
   ⟨0x24, 4, s.host.eq.cons⟩, ⟨0x28, 4, s.host.eq.ctrlWord⟩, ⟨0x2C, 4, s.host.eq.lost⟩]

/-- A VF's registers below 0x18 (R32). -/
def State.vfRegs (s : State) (v : Nat) : List RegWord :=
  [⟨0x00, 4, s.vfId v⟩, ⟨0x04, 4, doneWord (s.vf v).mbDone⟩, ⟨0x10, 8, s.now⟩]

theorem State.pfRegs_ascending (s : State) : RegWord.Ascending s.pfRegs := by simp [RegWord.Ascending, pfRegs]

theorem State.vfRegs_ascending (s : State) (v : Nat) : RegWord.Ascending (s.vfRegs v) := by simp [RegWord.Ascending, vfRegs]

theorem State.ringRegs_ascending (s : State) (v i : Nat) : RegWord.Ascending (s.ringRegs v i) := by
  simp [RegWord.Ascending, ringRegs]

theorem State.pfRegs_bound {s : State} {r : RegWord} (hr : r ∈ s.pfRegs) : r.off + r.size ≤ 0x30 := by
  revert r; simp [pfRegs]

theorem State.vfRegs_bound {s : State} {v : Nat} {r : RegWord} (hr : r ∈ s.vfRegs v) : r.off + r.size ≤ 0x18 := by
  revert r; simp [vfRegs]

theorem State.ringRegs_bound {s : State} {v i : Nat} {r : RegWord} (hr : r ∈ s.ringRegs v i) : r.off + r.size ≤ 0x20 := by
  revert r; simp [ringRegs]

theorem State.pfByte_reg (s : State) {o : Nat} (h : o < 0x30) : s.pfByte o = regByte s.pfRegs o := by
  rw [pfByte, if_pos h, pfRegs]

theorem State.vfByte_reg (s : State) (v : Nat) {o : Nat} (h : o < 0x18) : s.vfByte v o = regByte (s.vfRegs v) o := by
  rw [vfByte, if_pos h, vfRegs]

theorem State.vfByte_ring (s : State) (v : Nat) {i k : Nat} (hi : i < 4) (hk : k < 64) :
    s.vfByte v (0x100 + 64 * i + k) = regByte (s.ringRegs v i) k := by
  simp only [vfByte, Bool.and_eq_true, decide_eq_true_eq]
  rw [if_neg (by omega), if_pos (by omega), show (0x100 + 64 * i + k - 0x100) / 64 = i by omega,
    show (0x100 + 64 * i + k) % 64 = k by omega]

theorem State.pfByte_reserved (s : State) {o : Nat} (h : 0x30 ≤ o) (h' : o < 0x2000) : s.pfByte o = 0 := by
  simp only [pfByte, Bool.and_eq_true, decide_eq_true_eq]
  iterate 7 rw [if_neg (by omega)]

theorem State.pfByte_mbox (s : State) {i k : Nat} (hi : i < 32) (hk : k < 0x400) :
    s.pfByte (0x8000 + 0x400 * i + k) = (s.mbox ⟨.pf, i⟩).readByte k := by
  simp only [pfByte, Bool.and_eq_true, decide_eq_true_eq]
  iterate 4 rw [if_neg (by omega)]
  rw [if_pos (by omega), show (0x8000 + 0x400 * i + k - 0x8000) / 0x400 = i by omega, show (0x8000 + 0x400 * i + k) % 0x400 = k by omega]

theorem State.pfByte_slot (s : State) {n k : Nat} (hn : n < 0x4000) (hk : k < 64) :
    s.pfByte (0x100000 + 64 * n + k) = (s.entry .pf n).readByte k := by
  simp only [pfByte, Bool.and_eq_true, decide_eq_true_eq]
  iterate 6 rw [if_neg (by omega)]
  rw [if_pos (by omega), show (0x100000 + 64 * n + k - 0x100000) / 64 = n by omega, show (0x100000 + 64 * n + k) % 64 = k by omega]

theorem State.vfByte_slot (s : State) (v : Nat) {n k : Nat} (hn : n < 768) (hk : k < 64) :
    s.vfByte v (0x4000 + 64 * n + k) = (s.entry (.vf v) n).readByte k := by
  simp only [vfByte, Bool.and_eq_true, decide_eq_true_eq]
  iterate 5 rw [if_neg (by omega)]
  rw [if_pos (by omega), show (0x4000 + 64 * n + k - 0x4000) / 64 = n by omega, show (0x4000 + 64 * n + k) % 64 = k by omega]

/-! ## Register words -/

theorem boolN_le (b : Bool) : boolN b ≤ 1 := by cases b <;> decide

theorem mul_boolN (n : Nat) (b : Bool) : n * boolN b = if b = true then n else 0 := by cases b <;> simp [boolN]

theorem EventQueue.ctrlWord_lt (q : EventQueue) : q.ctrlWord < 4 := by
  have h0 := boolN_le q.intrEn
  have h1 := boolN_le q.overflow
  rw [ctrlWord]; omega

theorem State.ringStat_lt (s : State) (v i : Nat) : s.ringStat v i < 8 := by
  have h0 := boolN_le (s.ring v i).overflow
  have h1 := boolN_le ((s.vf v).backlog.any fun q => q.1 == i)
  have h2 := boolN_le (s.ring v i).cfgErr
  rw [ringStat]; omega

/-! ## Reads: what stands there -/

/-- MB_DOORBELL is write-only (R34). -/
theorem Mailbox.readByte_doorbell (b : Mailbox) {k : Nat} (hk : k < 4) : b.readByte (0x200 + k) = 0 := by
  rw [readByte, if_neg (by omega), if_neg (by omega), regByte_cons, if_neg (by simp; omega), regByte_cons, if_neg (by simp; omega)]
  rfl

theorem Entry.readByte_slot (e : Entry) {k : Nat} (hk : k < 0x38) : e.readByte k = 0 := if_pos hk

theorem Entry.readByte_ticket (e : Entry) (k : Nat) : e.readByte (0x38 + k) = (leBytes 8 e.ticket.toNat).getD k 0 := by
  rw [readByte, if_neg (by omega), Nat.add_sub_cancel_left]

theorem State.barRead_pfReg {s : State} (h : s.fnDecodes .pf = true) {r : RegWord} (hr : r ∈ s.pfRegs) :
    s.barRead .pf r.off r.size = r.value % 256 ^ r.size := by
  have hb := pfRegs_bound hr
  simpa using barRead_of_reg (base := 0) s.pfRegs_ascending hr fun k hk => by
    rw [barByte_pf h, Nat.zero_add, pfByte_reg s (by omega)]

theorem State.barRead_vfReg {s : State} {v : Nat} (h : s.fnDecodes (.vf v) = true) {r : RegWord} (hr : r ∈ s.vfRegs v) :
    s.barRead (.vf v) r.off r.size = r.value % 256 ^ r.size := by
  have hb := vfRegs_bound hr
  simpa using barRead_of_reg (base := 0) (s.vfRegs_ascending v) hr fun k hk => by
    rw [barByte_vf h, Nat.zero_add, vfByte_reg s v (by omega)]

theorem State.barRead_ringReg {s : State} {v i : Nat} (h : s.fnDecodes (.vf v) = true) (hi : i < 4) {r : RegWord}
    (hr : r ∈ s.ringRegs v i) : s.barRead (.vf v) (0x100 + 64 * i + r.off) r.size = r.value % 256 ^ r.size := by
  have hb := ringRegs_bound hr
  exact barRead_of_reg (s.ringRegs_ascending v i) hr fun k hk => by
    rw [barByte_vf h, Nat.add_assoc (0x100 + 64 * i), vfByte_ring s v hi (by omega)]

theorem State.barRead_pfTicket {s : State} (h : s.fnDecodes .pf = true) {n : Nat} (hn : n < 0x4000) :
    s.barRead .pf (0x100038 + 64 * n) 8 = (s.entry .pf n).ticket.toNat := by
  have hr : s.barRead .pf (0x100038 + 64 * n) 8 = (s.entry .pf n).ticket.toNat % 256 ^ 8 := barRead_of_bytes fun k hk => by
    rw [barByte_pf h, show 0x100038 + 64 * n + k = 0x100000 + 64 * n + (0x38 + k) by omega, pfByte_slot s hn (by omega),
      Entry.readByte_ticket]
  exact hr.trans (Nat.mod_eq_of_lt (s.entry .pf n).ticket.isLt)

theorem State.barRead_eqCtrl {s : State} (h : s.fnDecodes .pf = true) :
    s.barRead .pf 0x28 4 = (if s.host.eq.intrEn then 1 else 0) + (if s.host.eq.overflow then 2 else 0) := by
  have hr := barRead_pfReg h (r := ⟨0x28, 4, s.host.eq.ctrlWord⟩) (by simp [pfRegs])
  have hw := s.host.eq.ctrlWord_lt
  rw [hr, Nat.mod_eq_of_lt (by simp only; omega), EventQueue.ctrlWord, mul_boolN, boolN]

theorem State.barRead_ringStat {s : State} {v i : Nat} (h : s.fnDecodes (.vf v) = true) (hi : i < 4) :
    s.barRead (.vf v) (0x118 + 64 * i) 4 = (if (s.ring v i).overflow then 1 else 0) +
      (if (s.vf v).backlog.any (fun q => q.1 == i) then 2 else 0) + (if (s.ring v i).cfgErr then 4 else 0) := by
  have hr := barRead_ringReg h hi (r := ⟨0x18, 4, s.ringStat v i⟩) (by simp [ringRegs])
  have hw := s.ringStat_lt v i
  rw [show 0x118 + 64 * i = 0x100 + 64 * i + 0x18 by omega, hr, Nat.mod_eq_of_lt (by simp only; omega), ringStat, mul_boolN, mul_boolN, boolN]

/-! ## Writes: what an offset reaches -/

theorem byteArea_pf_reg {o : Nat} (h : o < 0x8000) : byteArea .pf o = .none := by
  simp only [byteArea, Bool.and_eq_true, decide_eq_true_eq]
  rw [if_neg (by omega), if_neg (by omega)]

theorem byteArea_vf_reg (v : Nat) {o : Nat} (h : o < 0x1000) : byteArea (.vf v) o = .none := by
  simp only [byteArea, Bool.and_eq_true, decide_eq_true_eq]
  rw [if_neg (by omega), if_neg (by omega)]

/-- A 4-byte write outside the byte areas writes the register of its offset (log 50). -/
theorem exec_registerWrite_dword {s : State} {f : Fn} {o : Nat} (v : W64) (h : s.fnDecodes f = true) (ha : byteArea f o = .none)
    (ho : o % 4 = 0) : exec (.registerWrite f o 4 v) s = .next (s.regWrite f o (v.toNat % 2 ^ 32)) := by
  have hx : exec (.registerWrite f o 4 v) s = execRegisterWrite f o 4 v s := rfl
  simp [hx, execRegisterWrite, h, State.barWrite, ha, ho]

/-- An 8-byte write outside the byte areas writes the low dword and then the high one (log 50). -/
theorem exec_registerWrite_qword {s : State} {f : Fn} {o : Nat} (v : W64) (h : s.fnDecodes f = true) (ha : byteArea f o = .none)
    (ho : o % 4 = 0) : exec (.registerWrite f o 8 v) s =
      .next ((s.regWrite f o (v.toNat % 2 ^ 32)).regWrite f (o + 4) (v.toNat / 2 ^ 32)) := by
  have hx : exec (.registerWrite f o 8 v) s = execRegisterWrite f o 8 v s := rfl
  simp [hx, execRegisterWrite, h, State.barWrite, ha, ho]

theorem State.regWrite_pfDone (s : State) (v : Nat) :
    s.regWrite .pf 0x18 v = { s with host.pfDone := s.host.pfDone.filter fun i => !bitOf v i } := rfl

theorem State.regWrite_eqCtrl (s : State) (v : Nat) : s.regWrite .pf 0x28 v =
    { s with host.eq.intrEn := bitOf v 0, host.eq.overflow := s.host.eq.overflow && !bitOf v 1 } := rfl

theorem State.regWrite_pfReserved (s : State) {o : Nat} (v : Nat) (h : 0x30 ≤ o) (h' : o < 0x2000) : s.regWrite .pf o v = s := by
  simp only [regWrite, pfRegWrite, Bool.and_eq_true, decide_eq_true_eq, beq_iff_eq]
  iterate 6 rw [if_neg (by omega)]

theorem State.regWrite_ring (s : State) (f : Nat) {i k : Nat} (w : Nat) (hi : i < 4) (hk : k < 64) :
    s.regWrite (.vf f) (0x100 + 64 * i + k) w = s.ringRegWrite f i k w := by
  simp only [regWrite, vfRegWrite, Bool.and_eq_true, decide_eq_true_eq, beq_iff_eq]
  rw [if_neg (by omega), if_pos (by omega), show (0x100 + 64 * i + k - 0x100) / 64 = i by omega,
    show (0x100 + 64 * i + k) % 64 = k by omega]

/-- An 8-byte write of RING_BASE: both dwords reach the ring's base. -/
theorem exec_registerWrite_ringBase {s : State} {f i : Nat} (v : W64) (h : s.fnDecodes (.vf f) = true) (hi : i < 4) :
    exec (.registerWrite (.vf f) (0x100 + 64 * i) 8 v) s =
      .next ((s.ringRegWrite f i 0x00 (v.toNat % 2 ^ 32)).ringRegWrite f i 0x04 (v.toNat / 2 ^ 32)) := by
  rw [exec_registerWrite_qword v h (byteArea_vf_reg f (by omega)) (by omega), State.regWrite_ring _ f _ hi (by omega)]
  have hlo := s.regWrite_ring f (v.toNat % 2 ^ 32) hi (show 0 < 64 by omega)
  rw [Nat.add_zero] at hlo
  rw [hlo]

/-! ## Writes: RING_BASE (R48) -/

/-- RING_BASE of an enabled ring does not change. -/
theorem State.ringRegWrite_base_enabled {s : State} {v i : Nat} (h : (s.ring v i).enable = true) (w : Nat) :
    s.ringRegWrite v i 0x00 w = s ∧ s.ringRegWrite v i 0x04 w = s := by
  simp [ringRegWrite, h]

theorem State.updRing_updRing (s : State) (v i : Nat) (f g : Ring → Ring) :
    (s.updRing v i f).updRing v i g = s.updRing v i fun r => g (f r) := by
  simp [updRing, updVf]

/-- The two dwords of RING_BASE, written one after the other, give bits [63:12] of the value. -/
theorem State.ringRegWrite_base {s : State} {v i : Nat} (h : (s.ring v i).enable = false) (w : Nat) :
    (s.ringRegWrite v i 0x00 (w % 2 ^ 32)).ringRegWrite v i 0x04 (w / 2 ^ 32) = s.updRing v i fun r => { r with base := w / 4096 } := by
  have hb (b : Nat) : (b / 2 ^ 20 * 2 ^ 20 + w % 2 ^ 32 / 4096) % 2 ^ 20 + w / 2 ^ 32 * 2 ^ 20 = w / 4096 := by omega
  have hlo : s.ringRegWrite v i 0x00 (w % 2 ^ 32) =
      s.updRing v i fun r => { r with base := r.base / 2 ^ 20 * 2 ^ 20 + w % 2 ^ 32 / 4096 } := by
    simp [ringRegWrite, h]
  have hhi (t : State) (ht : (t.ring v i).enable = false) : t.ringRegWrite v i 0x04 (w / 2 ^ 32) =
      t.updRing v i fun r => { r with base := r.base % 2 ^ 20 + w / 2 ^ 32 * 2 ^ 20 } := by
    simp [ringRegWrite, ht]
  rw [hlo, hhi _ (by simpa using h), updRing_updRing]
  simp only [hb]

theorem exec_registerWrite_ringBase_disabled {s : State} {f i : Nat} (v : W64) (h : s.fnDecodes (.vf f) = true) (hi : i < 4)
    (he : (s.ring f i).enable = false) : exec (.registerWrite (.vf f) (0x100 + 64 * i) 8 v) s =
      .next (s.updRing f i fun r => { r with base := v.toNat / 4096 }) := by
  rw [exec_registerWrite_ringBase v h hi, State.ringRegWrite_base he]

theorem exec_registerWrite_ringBase_enabled {s : State} {f i : Nat} (v : W64) (h : s.fnDecodes (.vf f) = true) (hi : i < 4)
    (he : (s.ring f i).enable = true) : exec (.registerWrite (.vf f) (0x100 + 64 * i) 8 v) s = .next s := by
  rw [exec_registerWrite_ringBase v h hi, (State.ringRegWrite_base_enabled he _).1, (State.ringRegWrite_base_enabled he _).2]

/-! ## The obligation -/

/-- Settles O8: each clause by the lemma of the register or byte area that its offset reaches. -/
theorem registerWritesByOffset : Obligations.RegisterWritesByOffset := by
  unfold Obligations.RegisterWritesByOffset
  refine ⟨?mbDone, ?eqCtrl, ?ringBase, ?ringBaseEnabled, ?reserved, ?pfReads, ?vfReads, ?off⟩
  case mbDone => exact fun s v h => by rw [exec_registerWrite_dword v h (byteArea_pf_reg (by decide)) rfl, s.regWrite_pfDone]
  case eqCtrl => exact fun s v h => by rw [exec_registerWrite_dword v h (byteArea_pf_reg (by decide)) rfl, s.regWrite_eqCtrl]
  case reserved =>
    exact fun s v h => by
      rw [exec_registerWrite_dword v h (byteArea_pf_reg (by decide)) rfl, s.regWrite_pfReserved _ (by decide) (by decide)]
  case ringBase =>
    intro s f i v h hi he
    exact ⟨_, exec_registerWrite_ringBase_disabled v h hi he, State.updRing_ring_self .., fun j hj => State.updRing_ring_ne s f _ hj, rfl, rfl⟩
  case ringBaseEnabled => exact fun s f i v h hi he => exec_registerWrite_ringBase_enabled v h hi he
  case pfReads =>
    intro s h
    refine ⟨?modId, ?modState, ?aonCount, State.barRead_eqCtrl h, ?reserved, ?doorbell, ?slot, fun n hn => State.barRead_pfTicket h hn⟩
    case modId => exact State.barRead_pfReg h (r := ⟨0x00, 8, s.modId⟩) (by simp [State.pfRegs])
    case modState => exact State.barRead_pfReg h (r := ⟨0x08, 4, s.modState⟩) (by simp [State.pfRegs])
    case aonCount => exact State.barRead_pfReg h (r := ⟨0x10, 8, s.now⟩) (by simp [State.pfRegs])
    case reserved => exact fun o ho ho' => by rw [State.barByte_pf h, s.pfByte_reserved ho ho']
    case doorbell =>
      intro i k hi hk
      rw [State.barByte_pf h, show 0x8200 + 0x400 * i + k = 0x8000 + 0x400 * i + (0x200 + k) by omega,
        s.pfByte_mbox hi (by omega), Mailbox.readByte_doorbell _ hk]
    case slot => exact fun n k hn hk => by rw [State.barByte_pf h, s.pfByte_slot hn (by omega), Entry.readByte_slot _ hk]
  case vfReads =>
    intro s v h
    refine ⟨?vfId, ?aonCount, fun i hi => State.barRead_ringStat h hi, ?slot⟩
    case vfId => exact State.barRead_vfReg h (r := ⟨0x00, 4, s.vfId v⟩) (by simp [State.vfRegs])
    case aonCount => exact State.barRead_vfReg h (r := ⟨0x10, 8, s.now⟩) (by simp [State.vfRegs])
    case slot => exact fun n k hn hk => by rw [State.barByte_vf h, s.vfByte_slot v hn (by omega), Entry.readByte_slot _ hk]
  case off => exact fun s f o h => State.barByte_off h o

end Sys2Proof.Machine
end

section
/-! SUPPORT. Creating a partition (R22, R94, R99, R353): the checks of PART_CREATE that a request passes, the two ways a place is taken
(its Piers powered, or one of them cold), and the end of a Pier's power-up. -/

namespace Sys2Proof.Machine

/-! ## The request and its checks -/

/-- A request that passes the layout check of PART_CREATE is answered by the command's own rule. -/
theorem exec_partCreate {s : State} {m : Mb} {r : Req} (h : s.runs m 0x0201 false = some r) (hlen : r.len = 8) (hrsv : r.u16 6 = 0) :
    exec (.partCreate m) s = .next (((s.taken m).partCreate r).1.respond m 0x0201 r.tag ((s.taken m).partCreate r).2) := by
  have hl : lenIs 8 [(6, 2)] r = true := lenIs_ok hlen fun p hp => by rw [List.mem_singleton.1 hp]; exact hrsv
  have hx : exec (.partCreate m) s = execPartCreate m s := rfl
  rw [hx, execPartCreate, State.mbRun_ok _ _ h hl]

theorem State.tenantErr_open {s : State} {t : Nat} (ht : t < 64) (ho : s.tenantOpen t = true) : s.tenantErr t = none := by
  simp [tenantErr, ho, show ¬ 63 < t by omega]

/-- PART_CREATE of an open tenant with a legal size and placement, where there is a free place and a free number and no Pier of the
place is powering up. -/
theorem State.partCreate_placed {s : State} {r : Req} {x : Part} {id : Nat} (ht : r.u8 0 < 64) (ho : s.tenantOpen (r.u8 0) = true)
    (hsize : r.u8 1 < 8) (hwarm : r.u8 5 < 2) (hplace : placeLegal (r.u8 1) (r.u8 2) (r.u8 3) (r.u8 4) = true)
    (hx : s.findPlace (r.u8 0) (r.u8 1) (r.u8 2) (r.u8 3) (r.u8 4) = some x) (hid : leastBelow 128 (fun i => !s.parts.has i) = some id)
    (hp : ∀ p ∈ x.piers, (s.pier p).powering = false) : s.partCreate r = s.addPart r id x := by
  have hany : (x.piers.any fun p => (s.pier p).powering) = false := List.any_eq_false.2 fun p hm => by simp [hp p hm]
  simp [partCreate, tenantErr_open ht ho, show ¬ 7 < r.u8 1 by omega, show ¬ 1 < r.u8 5 by omega, hplace, hx, hid, hany]

/-! ## Taking the place (R94) -/

/-- A partition without keep-warm leaves the power of its Courses alone. -/
theorem State.warmCourses_off {s : State} {p : Nat} {x : Part} (h : s.part? p = some x) (hk : x.keepwarm = false) :
    s.warmCourses p = s := by
  simp [warmCourses, h, hk]

/-- On powered Piers, without keep-warm, the partition stands at once. -/
theorem State.addPart_powered {s : State} {r : Req} {x : Part} (id : Nat) (hwarm : r.u8 5 = 0)
    (h : ∀ p ∈ x.piers, (s.pier p).powered = true) : s.addPart r id x =
      ({ s with parts := s.parts.set id { x with keepwarm := false, powering := false, busyAt := s.now } }, okR (partReply id x)) := by
  have hc : (x.piers.filter fun p => !(s.pier p).powered) = [] := List.filter_eq_nil_iff.2 fun p hp => by simp [h p hp]
  simp only [addPart, hc, hwarm, List.isEmpty_nil, if_true, Bool.not_true, Nat.reduceBEq]
  exact Prod.ext (State.warmCourses_off (Tbl.find?_set_self ..) rfl) rfl

/-- Starting the power-up of Piers changes nothing but the Piers. -/
theorem State.foldl_powering_keeps {γ : Type} (φ : State → γ) (hφ : ∀ (s : State) ps, φ { s with piers := ps } = φ s) (l : List Nat)
    (s : State) : φ (l.foldl (fun s p => s.updPier p fun x => { x with powering := true }) s) = φ s :=
  foldl_keeps _ φ (fun s _ => hφ s _) l s

/-- On a cold Pier the partition waits for it, under the next operation number. -/
theorem State.addPart_cold {s : State} {r : Req} {x : Part} (id : Nat) (h : ∃ p ∈ x.piers, (s.pier p).powered = false)
    (hop : s.mason.lastOp + 1 < 2 ^ 32) : ∃ t : State, s.addPart r id x =
        (t, { status := St.accepted, arg := s.mason.lastOp + 1, payload := partReply id x }) ∧
      t.parts = s.parts.set id { x with keepwarm := r.u8 5 == 1, powering := true, busyAt := s.now } ∧
      t.mason.lastOp = s.mason.lastOp + 1 ∧
      t.mason.ops = s.mason.ops ++ [⟨s.mason.lastOp + 1, r.mb, r.code, r.tag, .partCreate id x.pier⟩] := by
  obtain ⟨p, hp, hcold⟩ := h
  have hc : (x.piers.filter fun p => !(s.pier p).powered).isEmpty = false :=
    List.isEmpty_eq_false_iff.2 (List.ne_nil_of_mem (List.mem_filter.2 ⟨hp, by simp [hcold]⟩))
  simp only [addPart, hc, accept, State.foldl_powering_keeps State.mason (fun _ _ => rfl),
    State.foldl_powering_keeps State.parts (fun _ _ => rfl), hop, if_true, Bool.not_false, Bool.false_eq_true, if_false]
  exact ⟨_, rfl, rfl, rfl, rfl⟩

/-! ## The end of a Pier's power-up -/

/-- No partition waits for a Pier: its power-up concerns none. -/
theorem State.powerParts_none {s : State} (h : ∀ q ∈ s.parts, q.2.powering = false) : s.powerParts = s := by
  have hn : (s.parts.filter fun q => q.2.powering && q.2.piers.all fun p => (s.pier p).powered) = [] :=
    List.filter_eq_nil_iff.2 fun q hq => by simp [h q hq]
  rw [powerParts, hn, List.foldl_nil]

theorem exec_pierPowerUpDone {s : State} {p : Nat} (hup : s.up = true) (hp : (s.pier p).powering = true)
    (h : ∀ q ∈ s.parts, q.2.powering = false) :
    exec (.pierPowerUpDone p) s = .next (s.updPier p fun x => { x with powering := false, powered := true, hbmBusyAt := s.now }) := by
  have hx : exec (.pierPowerUpDone p) s = execPierPowerUpDone p s := rfl
  rw [hx, execPierPowerUpDone, hup, hp, Bool.and_self, if_pos rfl, State.powerParts_none (by simpa using h)]

/-! ## The obligation -/

/-- Settles O12: the request passes its checks and takes the place that is found, at once on powered Piers and as an accepted operation
on a cold one; a power-up that no partition waits for makes the Pier powered. -/
theorem partitionsAreCreatedInPlace : Obligations.PartitionsAreCreatedInPlace := by
  unfold Obligations.PartitionsAreCreatedInPlace
  refine ⟨?powered, ?cold, fun s p => exec_pierPowerUpDone⟩
  case powered =>
    intro s m r x id hr hlen hrsv ht ho hsize hwarm hplace hx hid hp
    have hs : (s.taken m).partCreate r = (s.taken m).addPart r id x :=
      State.partCreate_placed ht ho hsize (by omega) hplace hx hid fun p hm => (hp p hm).2
    have ha := State.addPart_powered (s := s.taken m) id hwarm fun p hm => (hp p hm).1
    rw [exec_partCreate hr hlen hrsv, hs, ha]
    rfl
  case cold =>
    intro s m r x id hr hlen hrsv ht ho hsize hwarm hplace hx hid hp hc hop
    have hs : (s.taken m).partCreate r = (s.taken m).addPart r id x :=
      State.partCreate_placed ht ho hsize hwarm hplace hx hid hp
    obtain ⟨t, ha, hadded⟩ := State.addPart_cold (s := s.taken m) (r := r) id hc hop
    refine ⟨t, ?_, hadded⟩
    rw [exec_partCreate hr hlen hrsv, hs, ha]
    rfl

end Sys2Proof.Machine
end

section
/-! SUPPORT. Boundary points where nothing waits (R21, R25, R26, R262, R263): the partition is emptied and its job ends, which changes
nothing beside the partition's record, the tiles, the Piers, the Courses and the CBUFs; a job that is to run again starts where it may. -/

namespace Sys2Proof.Machine

/-! ## What the emptying of a partition can change -/

/-- `t` is `s` but for partitions, tiles, Piers, Courses and CBUFs. -/
def State.Empties (s t : State) : Prop :=
  ∃ ps ts pi cs cb, t = { s with parts := ps, tiles := ts, piers := pi, courses := cs, mem.cbuf := cb }

theorem State.Empties.refl (s : State) : s.Empties s := ⟨s.parts, s.tiles, s.piers, s.courses, s.mem.cbuf, rfl⟩

theorem State.Empties.trans {s t u : State} (h1 : s.Empties t) (h2 : t.Empties u) : s.Empties u := by
  obtain ⟨_, _, _, _, _, rfl⟩ := h1
  obtain ⟨ps, ts, pi, cs, cb, rfl⟩ := h2
  exact ⟨ps, ts, pi, cs, cb, rfl⟩

theorem State.Empties.of_fold {β : Type} {g : State → β → State} (h : ∀ s x, State.Empties s (g s x)) (l : List β) :
    ∀ s, State.Empties s (l.foldl g s) := by
  induction l with
  | nil => exact State.Empties.refl
  | cons x l ih => exact fun s => (h s x).trans (ih _)

theorem State.Empties.keeps {γ : Type} {s t : State} (h : s.Empties t) (φ : State → γ)
    (hφ : ∀ ps ts pi cs cb, φ { s with parts := ps, tiles := ts, piers := pi, courses := cs, mem.cbuf := cb } = φ s) : φ t = φ s := by
  obtain ⟨ps, ts, pi, cs, cb, rfl⟩ := h
  exact hφ ps ts pi cs cb

theorem State.updPart_empties (s : State) (pid : Nat) (f : Part → Part) : s.Empties (s.updPart pid f) := by
  unfold updPart
  split
  · exact ⟨_, s.tiles, s.piers, s.courses, s.mem.cbuf, rfl⟩
  · exact .refl s

theorem State.updCourse_empties (s : State) (c : Nat) (f : Course → Course) : s.Empties (s.updCourse c f) :=
  ⟨s.parts, s.tiles, s.piers, (s.updCourse c f).courses, s.mem.cbuf, rfl⟩

/-! ## Nothing waits for the boundary point -/

/-- No context, no Twin, no tenant and no SAFE_HOLD request: nothing waits for a boundary point but requests at Courses. -/
structure State.NothingWaits (s : State) : Prop where
  ctxs : s.ctxs = []
  role : s.twin.role = 0
  tenants : s.sec.tenants = []
  safeHold : s.power.safeHoldReq = none

theorem State.NothingWaits.empties {s t : State} (hs : s.NothingWaits) (h : s.Empties t) : t.NothingWaits := by
  obtain ⟨_, _, _, _, _, rfl⟩ := h
  exact ⟨hs.ctxs, hs.role, hs.tenants, hs.safeHold⟩

theorem State.updCtx_absent {s : State} (h : s.ctxs = []) (n : Nat) (f : Ctx → Ctx) : s.updCtx n f = s := by
  simp [updCtx, h]

theorem State.takePics_absent {s : State} (h : s.ctxs = []) (j : Job) : s.takePics j = s := by
  unfold takePics
  refine List.foldl_fixed' (fun x => ?_) j.slots
  split
  · split
    · exact State.updCtx_absent h ..
    · rfl
  · rfl

/-- Without contexts no image of the job has a record to receive. -/
theorem State.jobImages_absent {s : State} (h : s.ctxs = []) (j : Job) : s.jobImages j = [] := by
  have hlive (n : Nat) : s.live n = false := by simp [live, ctx?, h]
  simp [jobImages, hlive]

theorem State.completeJob_absent {s : State} (h : s.ctxs = []) (pid : Nat) {j : Job} (hj : j.steps = []) : s.completeJob pid j = s := by
  simp [completeJob, State.takePics_absent h, hj, State.jobImages_absent h, imagesDone]

theorem State.ctxsDue_absent {s : State} (h : s.ctxs = []) (pid : Nat) : s.ctxsDue pid = s := by
  simp [ctxsDue, ctxNums, ctxsOn, leaving, h]

theorem State.queuedOn_absent {s : State} (h : s.ctxs = []) (r : Res) : s.queuedOn r = [] := by
  simp [queuedOn, ctxsOn, h, sortBy]

theorem State.guardRecheckAll_absent {s : State} (h : s.ctxs = []) (r : Res) : s.guardRecheckAll r = s := by
  simp [guardRecheckAll, h, guardRecheck]

theorem State.grantPart_single {s : State} (h : s.twin.role = 0) (pid : Nat) : s.grantPart pid = s := by
  unfold grantPart
  split <;> simp [h]

theorem State.trySafeHold_none {s : State} (h : s.power.safeHoldReq = none) : s.trySafeHold = s := by
  simp [trySafeHold, h]

/-! ## Emptying the partition (R25) -/

/-- A partition's record after its boundary point. -/
def Part.emptied (p : Part) (now : Tick) : Part :=
  { p with chisels := [], sems := [], waits := [], credits := [], nextBand := 0, sinceBoundary := 0, progress4 := 0, job := none,
           state := if p.state == 3 then 3 else 1, busyAt := now, ctr.boundaries := sat64 p.ctr.boundaries 1 }

/-- The emptied partition and its Piers' time of last traffic: what `State.reachBoundary` does before it applies requests and ends the job. -/
def State.emptyPart (s : State) (pid : Nat) (p : Part) : State :=
  p.piers.foldl (fun s q => s.updPier q fun x => { x with hbmBusyAt := s.now })
    ((s.clearPart pid).updPart pid fun p =>
      { p with job := none, state := if p.state == 3 then 3 else 1, busyAt := s.now, ctr.boundaries := sat64 p.ctr.boundaries 1 })

theorem State.foldl_updTile (f : Tile → Tile) (l : List Nat) :
    ∀ s : State, ∃ ts, l.foldl (fun s t => s.updTile t f) s = { s with tiles := ts } := by
  induction l with
  | nil => exact fun s => ⟨s.tiles, rfl⟩
  | cons t l ih => exact fun s => ih (s.updTile t f)

theorem State.foldl_updCbuf (f : Sram → Sram) (l : List Nat) :
    ∀ s : State, ∃ cb, l.foldl (fun s c => s.updCbuf c f) s = { s with mem.cbuf := cb } := by
  induction l with
  | nil => exact fun s => ⟨s.mem.cbuf, rfl⟩
  | cons c l ih => exact fun s => ih (s.updCbuf c f)

/-- Changes of Piers come to a change of Piers. -/
theorem State.foldl_piers {β : Type} {g : State → β → State} (h : ∀ s x, ∃ ps, g s x = { s with piers := ps }) (l : List β) :
    ∀ s : State, ∃ ps, l.foldl g s = { s with piers := ps } := by
  induction l with
  | nil => exact fun s => ⟨s.piers, rfl⟩
  | cons x l ih =>
    intro s
    obtain ⟨ps, hx⟩ := h s x
    rw [List.foldl_cons, hx]
    exact ih { s with piers := ps }

/-- Clearing a partition: tags, CBUFs and queues of units, and what its record holds of the batch. -/
theorem State.clearPart_eq {s : State} {pid : Nat} {p : Part} (h : s.part? pid = some p) : ∃ ts ps cb, s.clearPart pid =
    State.updPart { s with tiles := ts, piers := ps, mem.cbuf := cb } pid fun r =>
      { r with chisels := [], sems := [], waits := [], credits := [], nextBand := 0, sinceBoundary := 0, progress4 := 0 } := by
  unfold clearPart
  simp only [h]
  obtain ⟨ts, hts⟩ := State.foldl_updTile (fun x => { x with sram.valid := [] }) ((List.range p.size).filterMap (s.tileOf p)) s
  obtain ⟨cb, hcb⟩ := State.foldl_updCbuf (fun b => if p.coursed then sramInvalidate b 0 16384
    else sramInvalidate b (2048 * p.slot) (2048 * (p.slot + p.size))) p.courses { s with tiles := ts }
  rw [hts, hcb]
  exact ⟨ts, _, cb, rfl⟩

/-- What emptying the partition comes to: its record, and nothing of a Course. -/
theorem State.emptyPart_spec {s : State} {pid : Nat} {p : Part} (h : s.part? pid = some p) : s.Empties (s.emptyPart pid p) ∧
    (s.emptyPart pid p).courses = s.courses ∧ (s.emptyPart pid p).part? pid = some (p.emptied s.now) := by
  obtain ⟨ts, ps, cb, hc⟩ := State.clearPart_eq h
  unfold emptyPart
  rw [hc, State.updPart_updPart]
  generalize hs0 : ({ s with tiles := ts, piers := ps, mem.cbuf := cb } : State) = s0
  have h0 : s.Empties s0 := ⟨s.parts, ts, ps, s.courses, cb, hs0.symm⟩
  have hcourses : s0.courses = s.courses := by rw [← hs0]
  have hpart : s0.part? pid = some p := by rw [← hs0]; exact h
  generalize hs1 : s0.updPart pid _ = s1
  obtain ⟨ps', hp⟩ := State.foldl_piers (g := fun s q => s.updPier q fun x => { x with hbmBusyAt := s.now }) (fun _ _ => ⟨_, rfl⟩) p.piers s1
  rw [hp, ← hs1]
  exact ⟨(h0.trans (State.updPart_empties ..)).trans ⟨_, _, ps', _, _, rfl⟩, (State.updPart_courses ..).trans hcourses,
    State.updPart_part hpart _⟩

/-! ## The end of a job without a record (R26, R262, R263) -/

/-- TAPS_ELIDED and ROWCOL_SKIPPED are counters of their own: the count of boundary points stays. -/
theorem State.countTaps_eq (s : State) (pid n : Nat) :
    ∃ f : PartCounters → PartCounters, s.countTaps pid n = s.updPartCtr pid f ∧ ∀ k, (f k).boundaries = k.boundaries := by
  unfold countTaps
  cases h : s.part? pid with
  | none =>
    refine ⟨id, ?_, fun _ => rfl⟩
    have h' : s.parts.find? pid = none := h
    simp [updPartCtr, updPart, h']
  | some p => exact ⟨_, rfl, fun _ => rfl⟩

section
variable (s : State) (pid : Nat) (p : Part) {j : Job} (hclosed : j.closed = false)
include hclosed

theorem State.finishJob_planErr (he : j.planErr ≠ none) : s.finishJob pid p j .drained = s.abortJob pid j St.abortedFault false := by
  simp [finishJob, hclosed, Option.isSome_iff_ne_none.2 he]

theorem State.finishJob_again (he : j.planErr = none) (hm : j.marked = true) (hr : j.run < 4) : s.finishJob pid p j .drained =
    (s.countTaps pid (j.slots.filter Option.isSome).length).updPart pid fun p => { p with again := some { j with run := j.run + 1 } } := by
  simp [finishJob, hclosed, he, hm, hr]

theorem State.finishJob_fourth (he : j.planErr = none) (hm : j.marked = true) (hr : 4 ≤ j.run) : s.finishJob pid p j .drained =
    (s.countTaps pid (j.slots.filter Option.isSome).length).abortFault pid p j := by
  simp [finishJob, hclosed, he, hm, Nat.not_lt.2 hr]

theorem State.finishJob_complete (he : j.planErr = none) (hm : j.marked = false) : s.finishJob pid p j .drained =
    (s.countTaps pid (j.slots.filter Option.isSome).length).completeJob pid j := by
  simp [finishJob, hclosed, he, hm]

end

/-! ## The boundary point where nothing waits -/

theorem State.restCourses_empties (s : State) (cs : List Nat) : s.Empties (s.restCourses cs) := by
  refine State.Empties.of_fold (fun s c => ?_) cs s
  split
  · exact .refl s
  · split <;> exact State.updCourse_empties ..

theorem State.restCourses_parts (s : State) (cs : List Nat) : (s.restCourses cs).parts = s.parts := by
  refine foldl_keeps _ State.parts (fun s c => ?_) cs s
  split
  · rfl
  · split <;> rfl

/-- The state after the due requests at the partition's Courses and its job's end. -/
def State.endJob (s : State) (pid : Nat) (p : Part) (j : Job) (how : Fin) : State :=
  (p.courses.foldl (fun s c => s.applyDue c true) (s.emptyPart pid p)).finishJob pid p j how

/-- The boundary point of a partition that is not under removal. -/
theorem State.reachBoundary_stays {s : State} {pid : Nat} {p : Part} {j : Job} (how : Fin) (h : s.part? pid = some p)
    (hj : p.job = some j) (hstate : p.state ≠ 3) : s.reachBoundary pid how =
      (((((if (s.endJob pid p j how).twin.role == 2 && (s.endJob pid p j how).twin.former then (s.endJob pid p j how).dropUnled pid
        else s.endJob pid p j how).ctxsDue pid).restCourses p.courses).guardRecheckAll (some pid)).grantPart pid).trySafeHold.landDue := by
  unfold reachBoundary
  simp only [h, hj, beq_eq_false_iff_ne.2 hstate, Bool.false_eq_true, if_false]
  rfl

/-- Where nothing waits, the partition is emptied, its job ends and its Courses rest. -/
theorem State.reachBoundary_quiet {s : State} {pid : Nat} {p : Part} {j : Job} {how : Fin} (h : s.part? pid = some p) (hj : p.job = some j)
    (hstate : p.state ≠ 3) (hreqs : ∀ c ∈ p.courses, (s.course c).reqs = [])
    (hq : ((s.emptyPart pid p).finishJob pid p j how).NothingWaits) :
    s.reachBoundary pid how = ((s.emptyPart pid p).finishJob pid p j how).restCourses p.courses := by
  obtain ⟨-, hcourses, -⟩ := State.emptyPart_spec h
  have he : s.endJob pid p j how = (s.emptyPart pid p).finishJob pid p j how := by
    rw [endJob, State.foldl_applyDue_nil true _ _ fun c hc => by rw [course, hcourses]; exact hreqs c hc]
  have hr := hq.empties (State.restCourses_empties _ p.courses)
  rw [State.reachBoundary_stays how h hj hstate, he, hq.role, if_neg (by simp), State.ctxsDue_absent hq.ctxs,
    State.guardRecheckAll_absent hr.ctxs, State.grantPart_single hr.role, State.trySafeHold_none hr.safeHold,
    State.landDue_quiet _ (by simp [hr.tenants])]

/-! ## The next job -/

/-- A vision partition without a lead, a restart or a queued image starts nothing. -/
theorem State.startDue_idle {s : State} {pid : Nat} {p : Part} {v : VisionRec} (h : s.part? pid = some p) (ha : p.again = none)
    (hl : p.leads = []) (hv : s.visionOf p = some v) (hb : 1 ≤ v.batch) (hc : s.ctxs = []) : s.startDue pid = s := by
  have hdue : s.visionDue pid v = false := by
    simp [visionDue, State.queuedOn_absent hc, readyItems, fillDue, show v.batch ≠ 0 by omega]
  unfold startDue
  simp only [h]
  split
  · rfl
  · simp [ha, hl, hv, hdue]

/-- A job that is to run again starts before any other, or waits where the partition may not start one. -/
theorem State.startDue_again {s : State} {pid : Nat} {p : Part} {j : Job} (h : s.part? pid = some p) (ha : p.again = some j) :
    s.startDue pid = s ∨ ∃ pl, s.planOf p = some pl ∧ s.startDue pid = s.restartJob pid p pl j := by
  unfold startDue
  simp only [h]
  split
  · exact .inl rfl
  · rename_i pl hpl
    cases hs : s.canStart p with
    | false => exact .inl (by simp)
    | true => exact .inr ⟨pl, hpl, by simp [ha]⟩

/-- A job that starts runs from now, as the partition's only job. -/
theorem State.startJob_part {s : State} {pid : Nat} {p : Part} {pl : Plan} (h : s.part? pid = some p) (hpl : s.planOf p = some pl) (j : Job) :
    (s.startJob pid j).now = s.now ∧ ∃ q, (s.startJob pid j).part? pid = some q ∧ q.job = some { j with start := s.now } ∧
      q.again = none ∧ q.ctr = p.ctr := by
  unfold startJob
  simp only [h, Option.bind_some, hpl]
  refine ⟨Eq.trans (foldl_keeps _ State.now (by intros; rfl) _ _) (State.updPart_now ..), _,
    Eq.trans (foldl_keeps _ (State.part? · pid) (by intros; rfl) _ _) (State.updPart_part h _), ?_⟩
  exact ⟨rfl, rfl, rfl⟩

/-- At a restart the images are in place already: only conversions are asked for again. -/
theorem State.placeImages_restart (s : State) (pid : Nat) (p : Part) (pl : Plan) (v : VisionRec) (slots : List (Option Item)) :
    ∃ ps, s.placeImages pid p pl v false slots = { s with piers := ps } := by
  refine State.foldl_piers (fun s x => ?_) _ s
  obtain ⟨x, k⟩ := x
  unfold placeImage
  cases x with
  | none =>
    cases ringFed v slots with
    | false => exact ⟨s.piers, rfl⟩
    | true => exact ⟨_, rfl⟩
  | some i =>
    cases hk : i.kind == 0x0503 with
    | false => exact ⟨s.piers, by simp [hk]⟩
    | true => exact ⟨_, by simp only [hk, if_true]; rfl⟩

/-- What a restarted job becomes: unmarked and without a plan error, its results dropped. -/
def Job.fresh (j : Job) : Job :=
  { j with marked := false, planErr := none, outs := [], steps := j.steps.map fun x => { x with logits := [] } }

/-- A restart counts in the partition and in the module, posts its event, and starts the fresh job. -/
theorem State.restartJob_eq {s : State} {pid : Nat} {p : Part} (h : s.part? pid = some p) (pl : Plan) (j : Job) :
    ∃ t : State, s.restartJob pid p pl j = t.startJob pid j.fresh ∧ t.now = s.now ∧ t.plans = s.plans ∧
      t.part? pid = some { p with ctr.restarts := sat32 p.ctr.restarts 1 } := by
  have hcount : (s.updPartCtr pid fun k => { k with restarts := sat32 k.restarts 1 }).part? pid =
      some { p with ctr.restarts := sat32 p.ctr.restarts 1 } := State.updPart_part h _
  unfold restartJob
  dsimp only
  split
  · rename_i v hv
    obtain ⟨ps, hps⟩ := State.placeImages_restart _ pid p pl v j.slots
    rw [hps]
    refine ⟨_, rfl, by simp, by simp, ?_⟩
    simpa [part?] using hcount
  · refine ⟨_, rfl, by simp, by simp, ?_⟩
    simpa [part?] using hcount

/-- A restart runs the same items under the same run, unmarked, as the partition's only job. -/
theorem State.restartJob_part {s : State} {pid : Nat} {p : Part} {pl : Plan} (h : s.part? pid = some p) (hpl : s.planOf p = some pl)
    (j : Job) : (s.restartJob pid p pl j).now = s.now ∧ ∃ q, (s.restartJob pid p pl j).part? pid = some q ∧
      q.job = some { j.fresh with start := s.now } ∧ q.again = none ∧ q.ctr.boundaries = p.ctr.boundaries := by
  obtain ⟨t, heq, hnow, hplans, hpart⟩ := State.restartJob_eq h pl j
  have hplan : t.planOf { p with ctr.restarts := sat32 p.ctr.restarts 1 } = some pl := by
    unfold planOf plan? at *
    rw [hplans]; exact hpl
  obtain ⟨hnow', q, hq, hjob, hagain, hctr⟩ := State.startJob_part hpart hplan j.fresh
  rw [heq]
  exact ⟨hnow'.trans hnow, q, hq, by rw [hjob, hnow], hagain, by rw [hctr]⟩

/-! ## The two ends of a drained job -/

section
variable {s : State} {pid : Nat} {p : Part} {j : Job} (h : s.part? pid = some p) (hj : p.job = some j) (hclosed : j.closed = false)
  (herr : j.planErr = none) (hstate : p.state = 2) (hs : s.NothingWaits) (hreqs : ∀ c ∈ p.courses, (s.course c).reqs = [])
include h hj hclosed herr hstate hs hreqs

/-- An unmarked job ends: the partition is Warm, empty and without a job. -/
theorem State.reachBoundary_complete (hm : j.marked = false) (hsteps : j.steps = []) :
    s.Empties (s.reachBoundary pid .drained) ∧ ∃ f : PartCounters → PartCounters, (∀ k, (f k).boundaries = k.boundaries) ∧
      (s.reachBoundary pid .drained).part? pid = some { p.emptied s.now with ctr := f (p.emptied s.now).ctr } := by
  obtain ⟨hempty, -, hpart⟩ := State.emptyPart_spec h
  obtain ⟨f, hf, hb⟩ := (s.emptyPart pid p).countTaps_eq pid (j.slots.filter Option.isSome).length
  have hkept : s.Empties ((s.emptyPart pid p).updPartCtr pid f) := hempty.trans (State.updPart_empties ..)
  have hend : (s.emptyPart pid p).finishJob pid p j .drained = (s.emptyPart pid p).updPartCtr pid f := by
    rw [State.finishJob_complete _ _ _ hclosed herr hm, hf, State.completeJob_absent (hs.empties hkept).ctxs _ hsteps]
  rw [State.reachBoundary_quiet h hj (by simp [hstate]) hreqs (by rw [hend]; exact hs.empties hkept), hend]
  refine ⟨hkept.trans (State.restCourses_empties ..), f, hb, ?_⟩
  rw [part?, State.restCourses_parts]
  exact State.updPart_part hpart _

/-- A marked job is kept to run again, with the next run number. -/
theorem State.reachBoundary_again (hm : j.marked = true) (hr : j.run < 4) :
    s.Empties (s.reachBoundary pid .drained) ∧ ∃ f : PartCounters → PartCounters, (∀ k, (f k).boundaries = k.boundaries) ∧
      (s.reachBoundary pid .drained).part? pid =
        some { p.emptied s.now with ctr := f (p.emptied s.now).ctr, again := some { j with run := j.run + 1 } } := by
  obtain ⟨hempty, -, hpart⟩ := State.emptyPart_spec h
  obtain ⟨f, hf, hb⟩ := (s.emptyPart pid p).countTaps_eq pid (j.slots.filter Option.isSome).length
  have hend : (s.emptyPart pid p).finishJob pid p j .drained =
      ((s.emptyPart pid p).updPartCtr pid f).updPart pid fun p => { p with again := some { j with run := j.run + 1 } } := by
    rw [State.finishJob_again _ _ _ hclosed herr hm hr, hf]
  have hkept : s.Empties ((s.emptyPart pid p).finishJob pid p j .drained) := by
    rw [hend]
    exact (hempty.trans (State.updPart_empties ..)).trans (State.updPart_empties ..)
  rw [State.reachBoundary_quiet h hj (by simp [hstate]) hreqs (hs.empties hkept)]
  refine ⟨hkept.trans (State.restCourses_empties ..), f, hb, ?_⟩
  rw [part?, State.restCourses_parts, hend]
  exact State.updPart_part (State.updPart_part hpart _) _

/-- The kept job waits, or starts at once. -/
theorem State.boundary_runs_again (hm : j.marked = true) (hr : j.run < 4) :
    ∃ p', ((s.reachBoundary pid .drained).startDue pid).part? pid = some p' ∧ p'.ctr.boundaries = sat64 p.ctr.boundaries 1 ∧
      ((s.reachBoundary pid .drained).startDue pid).now = s.now ∧
      ((p'.job = none ∧ p'.again = some { j with marked := true, run := j.run + 1 }) ∨
        ∃ j', p'.job = some j' ∧ p'.again = none ∧ j'.run = j.run + 1 ∧ j'.slots = j.slots ∧ j'.marked = false ∧ j'.ordinal = j.ordinal) := by
  obtain ⟨hkept, f, hb, hpart⟩ := State.reachBoundary_again h hj hclosed herr hstate hs hreqs hm hr
  have hnow : (s.reachBoundary pid .drained).now = s.now := hkept.keeps State.now fun _ _ _ _ _ => rfl
  rcases State.startDue_again hpart rfl with hwait | ⟨pl, hpl, hstart⟩
  · rw [hwait]
    exact ⟨_, hpart, hb _, hnow, .inl ⟨rfl, by simp only [hm]⟩⟩
  · obtain ⟨hnow', q, hq, hjob, hagain, hbound⟩ := State.restartJob_part hpart hpl { j with run := j.run + 1 }
    rw [hstart]
    exact ⟨q, hq, hbound.trans (hb _), hnow'.trans hnow, .inr ⟨_, hjob, hagain, rfl, rfl, rfl, rfl⟩⟩

end

/-! ## The events BOUNDARY_POINT and BOUNDARY_OVERDUE -/

theorem exec_boundaryPoint {s : State} {pid : Nat} {p : Part} {j : Job} (h : s.part? pid = some p) (hj : p.job = some j) :
    exec (.boundaryPoint pid) s = .next (if s.tilesRun p && p.drained j && (j.steps.isEmpty || !s.restarting 4) then
      (s.reachBoundary pid .drained).startDue pid else s) := by
  have hx : exec (.boundaryPoint pid) s = execBoundaryPoint pid s := rfl
  simp only [hx, execBoundaryPoint, h, hj]

theorem exec_boundaryOverdue {s : State} {pid : Nat} {p : Part} {j : Job} (h : s.part? pid = some p) (hj : p.job = some j) :
    exec (.boundaryOverdue pid) s = .next (if s.tilesRun p && decide (1000000 ≤ p.sinceBoundary) then
      (((s.touchPart pid).overdueErrors pid p j).reachBoundary pid .drained).startDue pid else s) := by
  have hx : exec (.boundaryOverdue pid) s = execBoundaryOverdue pid s := rfl
  simp only [hx, execBoundaryOverdue, h, hj]
  rfl

/-- Every Ashlar has retired its marker: no error of a Chisel is posted. -/
theorem State.overdueErrors_retired (s : State) (pid : Nat) {p : Part} (j : Job) (h : (List.range p.size).all (fun l => (p.chisel l).bndry) = true) :
    s.overdueErrors pid p j = s := by
  have hn : (List.range p.size).filter (fun l => !(p.chisel l).bndry) = [] :=
    List.filter_eq_nil_iff.2 fun l hl => by simp [List.all_eq_true.1 h l hl]
  rw [overdueErrors, hn, List.foldl_nil]

theorem State.touchPart_part {s : State} {pid : Nat} {p : Part} {j : Job} (h : s.part? pid = some p) (hj : p.job = some j) :
    (s.touchPart pid).part? pid = some { p with job := some { j with marked := true } } := by
  rw [touchPart, State.updPart_part h, hj]
  rfl

/-! ## The obligation -/

/-- Settles O29: each event by its equation; where nothing waits, what the boundary point leaves is read off the emptied partition, the
end of its job and the start of the next one. -/
theorem boundaryPointsEndJobs : Obligations.BoundaryPointsEndJobs := by
  unfold Obligations.BoundaryPointsEndJobs
  refine ⟨?point, ?overdue, ?quiet, ?ends⟩
  case point =>
    intro s pid p j h hj hrun hdrained hsteps
    refine ⟨_, ?_, rfl⟩
    rw [exec_boundaryPoint h hj, if_pos (by rcases hsteps with hs | hs <;> simp [hrun, hdrained, hs])]
  case overdue =>
    intro s pid p j h hj hrun hsince
    refine ⟨_, ?_, rfl⟩
    rw [exec_boundaryOverdue h hj, if_pos (by simp [hrun, hsince])]
  case quiet =>
    intro s pid p j h hj hrun hclosed herr hstate hleads hagain hctxs hrole htenants hhold hreqs
    have hs : s.NothingWaits := ⟨hctxs, hrole, htenants, hhold⟩
    refine ⟨?complete, ?again⟩
    case complete =>
      intro hdrained hsteps hm v hv hbatch
      obtain ⟨hkept, f, hb, hpart⟩ := State.reachBoundary_complete h hj hclosed herr hstate hs hreqs hm hsteps
      have hvision : (s.reachBoundary pid .drained).visionOf { p.emptied s.now with ctr := f (p.emptied s.now).ctr } = some v :=
        (hkept.keeps (State.visionOf · p) fun _ _ _ _ _ => rfl).trans hv
      have hidle := State.startDue_idle hpart hagain hleads hvision hbatch (hs.empties hkept).ctxs
      have hexec : exec (.boundaryPoint pid) s = .next (s.reachBoundary pid .drained) := by
        rw [exec_boundaryPoint h hj, if_pos (by simp [hrun, hdrained, hsteps]), hidle]
      exact ⟨_, _, hexec, hpart, rfl, hagain, by simp [Part.emptied, hstate], rfl, rfl, rfl, hb _,
        hkept.keeps (·.mem.hbm) fun _ _ _ _ _ => rfl, hkept.keeps (·.now) fun _ _ _ _ _ => rfl⟩
    case again =>
      intro hr e he hdue
      simp only [List.mem_cons, List.not_mem_nil, or_false] at he
      rcases he with rfl | rfl
      · simp only [Bool.and_eq_true] at hdue
        obtain ⟨⟨hdrained, hm⟩, hsteps⟩ := hdue
        obtain ⟨p', hp'⟩ := State.boundary_runs_again h hj hclosed herr hstate hs hreqs hm hr
        exact ⟨_, p', by rw [exec_boundaryPoint h hj, if_pos (by simp [hrun, hdrained, hsteps])], hp'⟩
      · simp only [Bool.and_eq_true, decide_eq_true_eq] at hdue
        obtain ⟨hsince, hretired⟩ := hdue
        have hreqs' : ∀ c ∈ p.courses, ((s.touchPart pid).course c).reqs = [] := by simpa [State.touchPart, State.course] using hreqs
        obtain ⟨p', hp', hb, hnow, hnext⟩ := State.boundary_runs_again (State.touchPart_part h hj) rfl hclosed herr hstate
          (hs.empties (State.updPart_empties ..)) hreqs' rfl hr
        refine ⟨_, p', ?_, hp', hb, hnow.trans (State.updPart_now ..), hnext⟩
        rw [exec_boundaryOverdue h hj, if_pos (by simp [hrun, hsince]), State.overdueErrors_retired _ _ _ hretired]
  case ends =>
    intro s pid p j h hj
    refine ⟨?notDrained, ?early, ⟨_, State.touchPart_part h hj, rfl, rfl⟩, s.finishJob_planErr pid p, s.finishJob_again pid p,
      s.finishJob_fourth pid p, s.finishJob_complete pid p⟩
    case notDrained => exact fun hd => by rw [exec_boundaryPoint h hj, if_neg (by simp [hd])]
    case early => exact fun hlt => by rw [exec_boundaryOverdue h hj, if_neg (by simp [hlt])]

end Sys2Proof.Machine
end

section
/-! SUPPORT. The idle step (log 1) and the values of the register tables at reset (R31, R33, R34, R46, R48, R52). -/

namespace Sys2Proof.Machine

/-! ## The idle step -/

theorem step_idle {s : State} (h : s.pending = []) : step s = .next (s.advance s.idleTicks) := by
  simp [step, h]

/-- Without the AON supply there is no clock (R223). -/
theorem State.advance_off {s : State} (h : s.power.aon = false) (n : Tick) : s.advance n = s := by
  simp [advance, h]

theorem State.slewTicks_none {s : State} (h : s.fab.slew = 0) (n : Tick) : s.slewTicks n = 0 := if_pos h

/-- Without slew the AON counter advances by the ticks that pass (R33). -/
theorem State.advance_now {s : State} (ha : s.power.aon = true) (hs : s.fab.slew = 0) (n : Tick) : (s.advance n).now = s.now + n := by
  simp only [advance, ha, State.slewTicks_none hs, Bool.not_true, Bool.false_eq_true, if_false, Int.add_zero, Int.toNat_natCast]

/-- What a passing of time changes beside the AON counter: the fabric's slew and imports, the time in a Hold, the progress of partitions. -/
theorem State.advance_eq {s : State} (ha : s.power.aon = true) (n : Tick) :
    ∃ now fab power parts, s.advance n = { s with now := now, fab := fab, power := power, parts := parts } := by
  rw [advance, ha, Bool.not_true, if_neg Bool.false_ne_true]
  exact ⟨_, _, _, _, rfl⟩

/-- Settles O2: the step is the passing of `idleTicks` ticks. -/
theorem idleStepPassesTime : Obligations.IdleStepPassesTime := by
  unfold Obligations.IdleStepPassesTime
  refine fun s hp => ⟨fun ha => by rw [step_idle hp, State.advance_off ha], fun ha hs => ⟨_, step_idle hp, State.advance_now ha hs _, ?_⟩⟩
  obtain ⟨now, fab, power, parts, he⟩ := State.advance_eq ha s.idleTicks
  rw [he]
  exact ⟨hp, rfl, rfl, rfl, rfl, rfl, rfl, rfl, rfl, rfl, rfl⟩

/-! ## The reset values -/

theorem State.reset_mbox (m : Mb) : State.reset.mbox m = {} := by
  obtain ⟨f, i⟩ := m
  cases f <;> rfl

theorem State.reset_vector (f : Fn) (i : Nat) : State.reset.vector f i = {} := by cases f <;> rfl

theorem State.reset_entry (f : Fn) (n : Nat) : State.reset.entry f n = {} := by cases f <;> rfl

theorem Ring.cfgWord_default : ({} : Ring).cfgWord = 0 := by simp [cfgWord, boolN]

theorem Mailbox.statusWord_default : ({} : Mailbox).statusWord = 0 := by simp [statusWord]

theorem Channel.statusWord_default : ({} : Channel).statusWord = 0 := by simp [statusWord, boolN]

/-- R46: an entry that has never been read holds NOT_DECIDED. -/
theorem Entry.ticket_default : ({} : Entry).ticket = ticketWord { dec := 3, reason := 0x34 } 0 := rfl

/-- Settles O3: every table of the reset state is empty, so each register stands at the default of its record. -/
theorem resetLeavesTheStatedValues : Obligations.ResetLeavesTheStatedValues := by
  unfold Obligations.ResetLeavesTheStatedValues
  refine ⟨rfl, rfl, rfl, rfl, State.reset_vector, fun m => ?mbox, fun v i => ⟨Ring.cfgWord_default, rfl, rfl, rfl, rfl⟩, fun f n => ?entry,
    rfl, rfl, rfl, fun c => ⟨Channel.statusWord_default, rfl⟩⟩
  case mbox => rw [State.reset_mbox]; exact ⟨Mailbox.statusWord_default, rfl⟩
  case entry => rw [State.reset_entry]; exact ⟨rfl, Entry.ticket_default⟩

end Sys2Proof.Machine
end

section
/-! SUPPORT. The mailbox commands share one operation (R36): each is `mbRun` with its code, its layout and its body. -/

namespace Sys2Proof.Machine

/-- The command runs `mbRun` with this code and permission, under some layout check and body of its own. -/
def RunsAs (c : Mb → Instr) (code : Nat) (vfOk : Bool) : Prop :=
  ∃ (layout : Req → Bool) (body : State → Req → State × Resp), ∀ m s, exec (c m) s = .next (s.mbRun m code vfOk layout body)

theorem mailboxCommands_runAs (rd : HostRead) : ∀ e ∈ mailboxCommands rd, RunsAs e.1 e.2.1 e.2.2 := by
  simp only [mailboxCommands, List.forall_mem_append, List.forall_mem_cons, List.not_mem_nil, false_implies, implies_true, and_true]
  repeat' apply And.intro
  all_goals exact ⟨_, _, fun _ _ => rfl⟩

/-- Settles O10: a request that fails one of the checks 3 to 5 is answered by `mbRun` before the command's own rule. -/
theorem failedChecksAnswerTheFirst : Obligations.FailedChecksAnswerTheFirst := by
  unfold Obligations.FailedChecksAnswerTheFirst
  intro rd e he s m r st hst
  obtain ⟨layout, body, hrun⟩ := mailboxCommands_runAs rd e he
  rw [hrun, State.mbRun_stopped layout body hst]

end Sys2Proof.Machine
end

section
/-! SUPPORT. The information commands (R41): each answers the bytes of its table, laid out field by field, and does nothing else. -/

namespace Sys2Proof.Machine

/-! ## The five commands run their bodies -/

/-- A request without a payload passes the layout check of the information commands. -/
theorem lenIs_zero_ok {r : Req} (h : r.len = 0) : lenIs 0 [] r = true := lenIs_ok h fun _ hp => absurd hp List.not_mem_nil

theorem lenIs_zero_fails {r : Req} (h : r.len ≠ 0) : lenIs 0 [] r = false := by simp [lenIs, h]

theorem exec_infoIdentity (m : Mb) (s : State) :
    exec (.infoIdentity m) s = .next (s.mbRun m 0x0101 true (lenIs 0 []) State.infoIdentity) := rfl

theorem exec_infoFirmware (m : Mb) (s : State) :
    exec (.infoFirmware m) s = .next (s.mbRun m 0x0102 false (lenIs 0 []) State.infoFirmware) := rfl

theorem exec_infoCapacity (m : Mb) (s : State) :
    exec (.infoCapacity m) s = .next (s.mbRun m 0x0103 true (lenIs 0 []) State.infoCapacity) := rfl

theorem exec_infoStatus (m : Mb) (s : State) :
    exec (.infoStatus m) s = .next (s.mbRun m 0x0104 false (lenIs 0 []) State.infoStatus) := rfl

theorem exec_infoTime (m : Mb) (s : State) :
    exec (.infoTime m) s = .next (s.mbRun m 0x0105 true (lenIs 0 []) State.infoTime) := rfl

/-- A command that only reports: with LEN 0 it answers OK with its payload. -/
theorem State.mbRun_report {s : State} {m : Mb} {code : Nat} {vfOk : Bool} {r : Req} {body : State → Req → State × Resp} {x : List Byte}
    (h : s.runs m code vfOk = some r) (hl : r.len = 0) (hb : body (s.taken m) r = (s.taken m, okR x)) :
    s.mbRun m code vfOk (lenIs 0 []) body = (s.taken m).respond m code r.tag (okR x) := by
  rw [State.mbRun_ok _ _ h (lenIs_zero_ok hl), hb]

/-! ## Firmware roles (R309) -/

/-- A slice that lies within the middle one of three parts. -/
theorem slice_append_mid (a b c : List Byte) {o n : Nat} (h : o + n ≤ b.length) : slice (a ++ (b ++ c)) (a.length + o) n = slice b o n := by
  have hp : ((a ++ (b ++ c)).drop (a.length + o)).take n = (b.drop o).take n := by
    rw [List.drop_length_add_append, List.drop_append_of_le_length (by omega), List.take_append_of_le_length (by simp; omega)]
  rw [slice, slice, hp]

/-- A slice that lies within one of several blocks of the same length. -/
theorem slice_flatten_blocks {f : Nat → List Byte} {w m k o n : Nat} (hw : ∀ i, (f i).length = w) (hk : k < m) (h : o + n ≤ w) :
    slice ((List.range m).map f).flatten (w * k + o) n = slice (f k) o n := by
  obtain ⟨d, rfl⟩ : ∃ d, m = k + (1 + d) := ⟨m - (k + 1), by omega⟩
  have hlen : ((List.range k).map f).flatten.length = w * k := by
    simp [List.length_flatten, List.map_map, Function.comp_def, hw, Nat.mul_comm]
  have hsplit : ((List.range (k + (1 + d))).map f).flatten =
      ((List.range k).map f).flatten ++ (f k ++ ((List.range d).map fun i => f (k + (1 + i))).flatten) := by
    simp [List.range_add, Function.comp_def]
  rw [hsplit, ← hlen, slice_append_mid _ _ _ (by rw [hw]; exact h)]

theorem State.firmwareEntry_length (s : State) (k : Nat) : (s.firmwareEntry k).length = 16 := rfl

/-- The 16 bytes of a role, one of five: ROLE, the active version and its epoch at their offsets. -/
theorem State.firmwareEntry_fields (s : State) {k : Nat} (hk : k < 5) :
    field ((List.range 5).map s.firmwareEntry).flatten (16 * k) 1 = k ∧
      slice ((List.range 5).map s.firmwareEntry).flatten (16 * k + 4) 4 = leBytes 4 (s.activeImage k).version ∧
      slice ((List.range 5).map s.firmwareEntry).flatten (16 * k + 12) 1 = leBytes 1 (s.activeImage k).epoch := by
  have hslice {o n : Nat} (h : o + n ≤ 16) := slice_flatten_blocks s.firmwareEntry_length hk h
  refine ⟨?_, (hslice (by omega)).trans rfl, (hslice (by omega)).trans rfl⟩
  have hrole : slice (s.firmwareEntry k) 0 1 = leBytes 1 k := rfl
  rw [field, ← Nat.add_zero (16 * k), hslice (by omega), hrole, leNat_leBytes]
  omega

/-! ## The obligation -/

/-- Settles O11: each payload is read off its layout; a LEN other than 0 fails the layout check of all five. -/
theorem informationCommandsAnswer : Obligations.InformationCommandsAnswer := by
  unfold Obligations.InformationCommandsAnswer
  intro s m r
  refine ⟨?identity, ?firmware, ?capacity, ?status, ?time, ?badLen⟩
  case identity =>
    intro h hl
    exact ⟨_, by rw [exec_infoIdentity, State.mbRun_report h hl rfl], rfl, rfl, rfl, rfl, rfl⟩
  case firmware =>
    intro h hl
    exact ⟨_, by rw [exec_infoFirmware, State.mbRun_report h hl rfl], rfl, fun k hk => State.firmwareEntry_fields (s.taken m) hk⟩
  case capacity =>
    intro h hl
    refine ⟨_, by rw [exec_infoCapacity, State.mbRun_report h hl rfl], rfl, fun c hc => ?course, rfl, fun v hv => ?vf, fun hv => ?pf⟩
    case course => interval_cases c <;> rfl
    case vf => simp only [hv]; exact ⟨rfl, rfl⟩
    case pf => simp only [hv]; exact ⟨rfl, rfl⟩
  case status =>
    intro h hl
    exact ⟨_, by rw [exec_infoStatus, State.mbRun_report h hl rfl], rfl, rfl, rfl, rfl, rfl⟩
  case time =>
    intro h hl
    refine ⟨_, by rw [exec_infoTime, State.mbRun_report h hl rfl], rfl, rfl, fun ht => ?_⟩
    have hu : (s.taken m).uncertaintyNs = 0xFFFF := by simp [State.uncertaintyNs, ht]
    have hv : (s.taken m).vaultSync = false := by simp [State.vaultSync, ht]
    rw [hu, hv]
    rfl
  case badLen =>
    simp only [List.forall_mem_cons, List.not_mem_nil, false_implies, implies_true, and_true]
    refine ⟨?_, ?_, ?_, ?_, ?_⟩
    all_goals
      intro h hl
      exact congrArg _ (State.mbRun_layout _ _ h (lenIs_zero_fails hl))

end Sys2Proof.Machine
end

section
/-! SUPPORT. The admission window (R43-R46): what a slot write and a ticket read leave in the entries. -/

namespace Sys2Proof.Machine

@[simp] theorem State.updEntry_ctxs (s : State) (f : Fn) (n : Nat) (g : Entry → Entry) : (s.updEntry f n g).ctxs = s.ctxs := by
  cases f <;> rfl

@[simp] theorem State.updEntry_mem (s : State) (f : Fn) (n : Nat) (g : Entry → Entry) : (s.updEntry f n g).mem = s.mem := by
  cases f <;> rfl

/-- A write to bytes +0x00 to +0x37 of an entry that the function has. -/
theorem exec_submissionSlotWrite {s : State} {f : Fn} {n off : Nat} {bs : List Byte} (hf : s.fnDecodes f = true) (hn : n < fnEntries f)
    (ho : off < 0x38) (hb : bs ≠ []) : exec (.submissionSlotWrite f n off bs) s = .next (s.slotWrite f n off bs) := by
  have hx : exec (.submissionSlotWrite f n off bs) s = execSubmissionSlotWrite f n off bs s := rfl
  simp [hx, execSubmissionSlotWrite, hf, hn, ho, hb]

/-- Bytes of a slot after a write: those written that lie below +0x38, and the others as they were. -/
theorem memRead_slotBytes {e : Entry} {off k : Nat} (bs : List Byte) (hk : k < 0x38) (hw : Memory.wf e.bytes = true) :
    memRead (memWriteN e.bytes off (bs.take (0x38 - off))) k =
      if off ≤ k ∧ k < off + bs.length then bs.getD (k - off) 0 else memRead e.bytes k := by
  rw [memRead_memWriteN _ _ _ hw, List.length_take]
  by_cases h : off ≤ k ∧ k < off + bs.length
  · rw [if_pos (by omega), if_pos h, List.getD_eq_getElem?_getD, List.getElem?_take_of_lt (by omega), List.getD_eq_getElem?_getD]
  · rw [if_neg (by omega), if_neg h]

/-- A ticket read of an entry that is not armed returns the latched word (R45). -/
theorem exec_ticketRead_latched {s : State} {f : Fn} {n : Nat} (hf : s.fnDecodes f = true) (hn : n < fnEntries f)
    (ha : (s.entry f n).armed = false) : exec (.ticketRead f n) s = .next { s with host.lastRead := (s.entry f n).ticket } := by
  have hx : exec (.ticketRead f n) s = execTicketRead f n s := rfl
  simp [hx, execTicketRead, hf, hn, ha]

/-- The state after a deciding read: the decision's state `t`, with the entry disarmed and the word `w` latched and returned. -/
def State.latch (t : State) (f : Fn) (n : Nat) (w : W64) : State :=
  { t.updEntry f n (fun e => { e with armed := false, ticket := w }) with host.lastRead := w }

@[simp] theorem State.latch_ctxs (t : State) (f : Fn) (n : Nat) (w : W64) : (t.latch f n w).ctxs = t.ctxs := State.updEntry_ctxs ..

@[simp] theorem State.latch_ctx (t : State) (f : Fn) (n : Nat) (w : W64) (k : Nat) : (t.latch f n w).ctx? k = t.ctx? k :=
  congrArg (Tbl.find? · k) (State.latch_ctxs ..)

@[simp] theorem State.latch_lastRead (t : State) (f : Fn) (n : Nat) (w : W64) : (t.latch f n w).host.lastRead = w := rfl

theorem State.latch_entry (t : State) (f : Fn) (n : Nat) (w : W64) (k : Nat) :
    (t.latch f n w).entry f k = (t.updEntry f n fun e => { e with armed := false, ticket := w }).entry f k := by
  cases f <;> rfl

theorem State.latch_entry_self (t : State) (f : Fn) (n : Nat) (w : W64) :
    (t.latch f n w).entry f n = { t.entry f n with armed := false, ticket := w } := by
  rw [State.latch_entry, State.updEntry_entry_self]

theorem State.latch_entry_ne (t : State) (f : Fn) {n k : Nat} (w : W64) (h : k ≠ n) : (t.latch f n w).entry f k = t.entry f k := by
  rw [State.latch_entry, State.updEntry_entry_ne _ _ _ h]

/-- A ticket read of an armed entry decides (R44). -/
theorem exec_ticketRead_armed {s : State} {f : Fn} {n : Nat} (hf : s.fnDecodes f = true) (hn : n < fnEntries f)
    (ha : (s.entry f n).armed = true) :
    exec (.ticketRead f n) s = .next ((s.decideEntry f n).1.latch f n (s.decideEntry f n).2) := by
  have hx : exec (.ticketRead f n) s = execTicketRead f n s := rfl
  simp only [hx, execTicketRead, hf, hn, ha, decide_true, Bool.and_self, if_true]
  rfl

/-- R44: a VF slot that no context is bound to. -/
theorem State.decideEntry_unbound {s : State} {v n : Nat} (h : s.host.slotBind.find? (v * 768 + n) = none) :
    s.decideEntry (.vf v) n = (s, ticketWord { dec := 3, reason := 0x30 } 0) := by
  have hr : s.reach (.vf v) n = .unbound := by simp [reach, h]
  simp only [decideEntry, hr]

/-- Settles O4: a slot write by the bytes it stores, a ticket read by the entry it latches. -/
theorem windowWritesArmAndReadsDecide : Obligations.WindowWritesArmAndReadsDecide := by
  unfold Obligations.WindowWritesArmAndReadsDecide
  refine ⟨?write, fun s f n hf hn ha => exec_ticketRead_latched hf hn ha, ?unbound, ?armed⟩
  case write =>
    intro s f n off bs hf hn ho hb hw
    have he : (s.slotWrite f n off bs).entry f n =
        { s.entry f n with bytes := memWriteN (s.entry f n).bytes off (bs.take (0x38 - off)), armed := true } :=
      State.updEntry_entry_self ..
    refine ⟨_, exec_submissionSlotWrite hf hn ho hb, by rw [he], by rw [he], fun k hk => ?_,
      fun n' hn' => State.updEntry_entry_ne _ _ _ hn', State.updEntry_ctxs .., State.updEntry_mem ..⟩
    rw [he]
    exact memRead_slotBytes bs hk hw
  case unbound =>
    intro s v n hf hn ha hu
    refine ⟨_, exec_ticketRead_armed hf hn ha, ?_⟩
    rw [State.decideEntry_unbound hu]
    exact ⟨rfl, State.latch_entry_self .., fun n' hn' => State.latch_entry_ne _ _ _ hn', State.latch_ctxs ..⟩
  case armed =>
    intro s f n hf hn ha
    exact ⟨_, exec_ticketRead_armed hf hn ha, by rw [State.latch_entry_self], by rw [State.latch_entry_self, State.latch_lastRead]⟩

end Sys2Proof.Machine
end

section
/-! SUPPORT. Further laws of tables: records that a lookup finds, and lookups after a filter and a change of every record. -/

namespace Sys2Proof.Tbl
variable {α : Type}

theorem mem_of_find? {t : Tbl α} {i : Nat} {v : α} (h : find? t i = some v) : (i, v) ∈ t := by
  induction t with
  | nil => cases h
  | cons p t ih =>
    obtain ⟨k, w⟩ := p
    unfold find? at h
    split at h
    · rename_i hk
      cases h
      exact hk ▸ List.mem_cons_self ..
    · exact List.mem_cons_of_mem _ (ih h)

theorem find?_filter_out {t : Tbl α} {keep : Nat × α → Bool} {i : Nat} (h : ∀ v, keep (i, v) = false) :
    find? (t.filter keep) i = none :=
  Option.eq_none_iff_forall_ne_some.2 fun v hv => by
    have hm := (List.mem_filter.1 (mem_of_find? hv)).2
    rw [h v] at hm
    cases hm

/-- A property of the default and of every changed record is one of every record read. -/
theorem get_mapVals {P : α → Prop} {d : α} (hd : P d) (t : Tbl α) {f : Nat → α → α} {i : Nat} (hf : ∀ x, P (f i x)) :
    P (get d (mapVals t f) i) := by
  rw [get, find?_mapVals]
  cases find? t i with
  | none => exact hd
  | some x => exact hf x

end Sys2Proof.Tbl
end

section
/-! SUPPORT. Vectors, the event queue's registers, VF Enable and power states (R29, R51-R53): what each access leaves. -/

namespace Sys2Proof.Machine

/-! ## Vectors (R51) -/

@[simp] theorem State.setVector_vector_self (s : State) (f : Fn) (i : Nat) (x : Vector) : (s.setVector f i x).vector f i = x := by
  cases f <;> simp [setVector, vector]

theorem State.setVector_vector_ne (s : State) (f : Fn) {i j : Nat} (x : Vector) (h : j ≠ i) :
    (s.setVector f i x).vector f j = s.vector f j := by
  cases f with
  | pf => exact Tbl.get_set_ne _ _ _ h.symm
  | vf v => exact Tbl.get_set_ne _ _ _ (by omega)

@[simp] theorem State.sendMsg_vector (s : State) (f : Fn) (i : Nat) (g : Fn) (j : Nat) : (s.sendMsg f i).vector g j = s.vector g j := by
  cases g <;> rfl

theorem State.sendMsg_msgs (s : State) (f : Fn) (i : Nat) :
    (s.sendMsg f i).host.msgs = ⟨f, i, (s.vector f i).addr, (s.vector f i).data⟩ :: s.host.msgs := rfl

/-- The state with a vector's mask and pending bit cleared. -/
def State.unmasked (s : State) (f : Fn) (i : Nat) : State := s.setVector f i { s.vector f i with masked := false, pending := false }

theorem State.unmask_eq (s : State) (f : Fn) (i : Nat) :
    s.unmask f i = if (s.vector f i).pending then (s.unmasked f i).sendMsg f i else s.unmasked f i := rfl

theorem State.unmask_vector (s : State) (f : Fn) (i : Nat) (j : Nat) : (s.unmask f i).vector f j = (s.unmasked f i).vector f j := by
  rw [unmask_eq]
  split
  · rw [sendMsg_vector]
  · rfl

theorem State.unmask_vector_self (s : State) (f : Fn) (i : Nat) :
    (s.unmask f i).vector f i = { s.vector f i with masked := false, pending := false } := by
  rw [unmask_vector, unmasked, setVector_vector_self]

theorem State.unmask_vector_ne (s : State) (f : Fn) {i j : Nat} (h : j ≠ i) : (s.unmask f i).vector f j = s.vector f j := by
  rw [unmask_vector, unmasked, setVector_vector_ne _ _ _ h]

theorem State.unmask_msgs (s : State) (f : Fn) (i : Nat) : (s.unmask f i).host.msgs =
    (if (s.vector f i).pending then [⟨f, i, (s.vector f i).addr, (s.vector f i).data⟩] else []) ++ s.host.msgs := by
  rw [unmask_eq]
  cases (s.vector f i).pending with
  | true => simp [sendMsg_msgs, unmasked]
  | false => simp [unmasked]

theorem State.unmask_eventQueue (s : State) (f : Fn) (i : Nat) : (s.unmask f i).host.eq = s.host.eq := by
  rw [unmask_eq]
  split <;> simp [unmasked]

theorem exec_msixUnmask {s : State} {f : Fn} {i : Nat} (hf : s.fnDecodes f = true) (hi : i < fnVectors f) :
    exec (.msixUnmask f i) s = .next (s.unmask f i) := by
  have hx : exec (.msixUnmask f i) s = execMsixUnmask f i s := rfl
  simp [hx, execMsixUnmask, hf, hi]

/-! ## The event queue (R52) -/

theorem exec_eqConsWrite {s : State} (hf : s.fnDecodes .pf = true) (w : W32) :
    exec (.eqConsWrite w) s = .next ({ s with host.eq.cons := w.toNat % 512 } : State).eqSpace := by
  have hx : exec (.eqConsWrite w) s = execEqConsWrite w s := rfl
  rw [hx, execEqConsWrite, if_pos hf]

/-- No event was lost: returned space changes nothing. -/
theorem State.eqSpace_none {s : State} (h : s.host.eq.lostRun = 0) : s.eqSpace = s := by simp [eqSpace, h]

/-- Events were lost and there is room: EVENTS_LOST is posted with their count. -/
theorem State.eqSpace_room {s : State} (h : 0 < s.host.eq.lostRun) (hr : s.host.eq.full = false) :
    s.eqSpace = ({ s with host.eq.lostRun := 0 } : State).post 0x0102 0 0 (leBytes 4 (min s.host.eq.lostRun 0xFFFFFFFF)) := by
  simp [eqSpace, hr, show s.host.eq.lostRun ≠ 0 by omega]

/-- R52: with INTR_EN 0 an event sends no message. -/
theorem State.post_msgs {s : State} (h : s.host.eq.intrEn = false) (code kind id : Nat) (d : List Byte) :
    (s.post code kind id d).host.msgs = s.host.msgs := by
  have hput (b : List Byte) : (s.eqPut b).host.msgs = s.host.msgs := by simp [eqPut, h]
  have hx : (s.post code kind id d).host.msgs = (s.eqEvent code kind id d).host.msgs := rfl
  rw [hx, eqEvent]
  split
  · rfl
  · exact hput _

/-- Where the queue has room an event takes the entry at EQ_PROD, and nothing is lost. -/
theorem State.post_room {s : State} (h : s.host.eq.full = false) (code kind id : Nat) (d : List Byte) :
    (s.post code kind id d).host.eq.entries.find? s.host.eq.prod = some (eventBytes code (severityOf code d) kind id s.now d) ∧
      (s.post code kind id d).host.eq.prod = (s.host.eq.prod + 1) % 512 ∧ (s.post code kind id d).host.eq.cons = s.host.eq.cons ∧
      (s.post code kind id d).host.eq.lost = s.host.eq.lost ∧ (s.post code kind id d).host.eq.lostRun = s.host.eq.lostRun := by
  rw [State.post_eq, State.eqEvent_room _ _ _ _ _ h]
  exact ⟨Tbl.find?_set_self .., rfl, rfl, rfl, rfl⟩

theorem exec_eqLostRead {s : State} (hf : s.fnDecodes .pf = true) :
    exec .eqLostRead s = .next { s with host.lastRead := BitVec.ofNat 64 s.host.eq.lost, host.eq.lost := 0 } := by
  have hx : exec .eqLostRead s = execEqLostRead s := rfl
  rw [hx, execEqLostRead, if_pos hf]

/-! ## VF Enable and power states (R29, R53) -/

theorem exec_sriovVfEnable {s : State} (h : s.host.linkUp = true) : exec .sriovVfEnable s = .next { s with host.vfEnable := true } := by
  have hx : exec .sriovVfEnable s = execSriovVfEnable s := rfl
  rw [hx, execSriovVfEnable, if_pos h]

/-- The functions in D3hot once one takes a power state. -/
def State.d3After (s : State) (f : Fn) (d3 : Bool) : List Fn :=
  if d3 then (if s.host.d3.contains f then s.host.d3 else f :: s.host.d3) else s.host.d3.filter (· != f)

theorem State.d3After_contains_self (s : State) (f : Fn) (d3 : Bool) : (s.d3After f d3).contains f = d3 := by
  cases d3 with
  | false => simp [d3After]
  | true =>
    simp only [d3After, if_true]
    split
    · assumption
    · simp

theorem State.d3After_contains_ne (s : State) {f g : Fn} (d3 : Bool) (h : g ≠ f) :
    (s.d3After f d3).contains g = s.host.d3.contains g := by
  cases d3 with
  | false => simp [d3After, h]
  | true =>
    simp only [d3After, if_true]
    split
    · rfl
    · simp [h]

theorem exec_pciPmStateWrite {s : State} {f : Fn} (h : s.fnThere f = true) (d3 : Bool) :
    exec (.pciPmStateWrite f d3) s = .next { s with host.d3 := s.d3After f d3 } := by
  have hx : exec (.pciPmStateWrite f d3) s = execPciPmStateWrite f d3 s := rfl
  rw [hx, execPciPmStateWrite, if_pos h, State.d3After]

/-- A function decodes after its power state is written where it is in D0; any other as before. -/
theorem State.fnDecodes_d3After {s : State} {f : Fn} (h : s.fnThere f = true) (d3 : Bool) :
    ({ s with host.d3 := s.d3After f d3 } : State).fnDecodes f = !d3 ∧
      ∀ g, g ≠ f → ({ s with host.d3 := s.d3After f d3 } : State).fnDecodes g = s.fnDecodes g := by
  have ht (g : Fn) : ({ s with host.d3 := s.d3After f d3 } : State).fnThere g = s.fnThere g := by cases g <;> rfl
  refine ⟨?_, fun g hg => ?_⟩
  · simp only [fnDecodes, ht, h, State.d3After_contains_self, Bool.true_and]
  · simp only [fnDecodes, ht, State.d3After_contains_ne s d3 hg]

/-- Settles O5: one equation for each access, and for EVENTS_LOST what a posted event leaves in the queue. -/
theorem hostAccessesTakeEffect : Obligations.HostAccessesTakeEffect := by
  unfold Obligations.HostAccessesTakeEffect
  refine ⟨?unmask, ?cons, ?lostEvents, fun s hf => exec_eqLostRead hf, fun s h => exec_sriovVfEnable h, ?power⟩
  case unmask =>
    intro s f i hf hi
    refine ⟨_, exec_msixUnmask hf hi, ?_⟩
    rw [State.unmask_vector_self]
    exact ⟨rfl, rfl, rfl, rfl, State.unmask_msgs .., fun j hj => State.unmask_vector_ne _ _ hj, State.unmask_eventQueue ..⟩
  case cons =>
    intro s w hf hl
    rw [exec_eqConsWrite hf, State.eqSpace_none (by exact hl)]
  case lostEvents =>
    intro s w hf hl hroom hintr
    have hfull : ({ s with host.eq.cons := w.toNat % 512, host.eq.lostRun := 0 } : State).host.eq.full = false := beq_eq_false_iff_ne.2 hroom
    have hmsgs := State.post_msgs (s := { s with host.eq.cons := w.toNat % 512, host.eq.lostRun := 0 }) hintr 0x0102 0 0
      (leBytes 4 (min s.host.eq.lostRun 0xFFFFFFFF))
    obtain ⟨hentry, hprod, hcons, hlost, hrun⟩ := State.post_room hfull 0x0102 0 0 (leBytes 4 (min s.host.eq.lostRun 0xFFFFFFFF))
    exact ⟨_, (exec_eqConsWrite hf w).trans (congrArg _ (State.eqSpace_room hl hfull)), hcons, hprod, hrun, hlost, hentry,
      hmsgs⟩
  case power =>
    intro s f h
    obtain ⟨hself, hother⟩ := State.fnDecodes_d3After h true
    exact ⟨⟨_, exec_pciPmStateWrite h true, hself, hother, rfl, rfl, rfl⟩, ⟨_, exec_pciPmStateWrite h false, State.fnDecodes_d3After h false⟩⟩

end Sys2Proof.Machine
end

section
/-! SUPPORT. The ring registers (R48, R49, R51): RING_CFG, the registration check, the end of a ring, the backlog's drain and the
moderation timer. -/

namespace Sys2Proof.Machine

/-! ## Rings of a VF -/

theorem State.updRing_congr {s : State} {v i : Nat} {f g : Ring → Ring} (h : f (s.ring v i) = g (s.ring v i)) :
    s.updRing v i f = s.updRing v i g := by
  have hr : (s.host.vfs.get {} v).rings.upd {} i f = (s.host.vfs.get {} v).rings.upd {} i g := Tbl.upd_congr _ _ _ h
  exact congrArg (fun t => ({ s with host.vfs := t } : State)) (Tbl.upd_congr _ s.host.vfs v (by rw [hr]))

@[simp] theorem State.updRing_backlog (s : State) (v i : Nat) (f : Ring → Ring) (w : Nat) :
    ((s.updRing v i f).vf w).backlog = (s.vf w).backlog := by
  by_cases h : w = v
  · subst h; rw [updRing, updVf_vf_self]
  · rw [updRing, updVf_vf_ne _ _ h]

/-- A change of a VF's backlog changes no ring. -/
theorem State.setBacklog_ring (s : State) (v : Nat) (l : Vf → List (Nat × Rec)) (w j : Nat) :
    (s.updVf v fun f => { f with backlog := l f }).ring w j = s.ring w j := by
  by_cases h : w = v
  · subst h; rw [ring, updVf_vf_self, ring]
  · rw [ring, updVf_vf_ne _ _ h, ring]

theorem State.ring_of_vfs {s t : State} (h : t.host.vfs = s.host.vfs) (v i : Nat) : t.ring v i = s.ring v i := by
  rw [ring, vf, h, ring, vf]

@[simp] theorem State.raiseVec_ring (s : State) (f : Fn) (k v i : Nat) : (s.raiseVec f k).ring v i = s.ring v i :=
  State.ring_of_vfs (by simp) v i

/-! ## RING_CFG (R48) -/

/-- ENABLE written to a ring that is off: registration is asked for, with the values of the word. -/
theorem State.ringCfg_enable {s : State} {v i w : Nat} (hw : bitOf w 0 = true) (he : (s.ring v i).enable = false) :
    s.ringCfg v i w = s.updRing v i fun r =>
      { r with enable := true, size := bitsOf w 7 4, vector := bitsOf w 10 8, modCount := bitsOf w 23 16 } := by
  rw [ringCfg, if_pos hw, State.updRing_updRing]
  exact State.updRing_congr (by simp [he, cfgSize, cfgVector, cfgModCount])

/-- The state with VECTOR and MOD_COUNT of a ring written; SIZE is kept while ENABLE is 1. -/
def State.ringWord (s : State) (v i w : Nat) : State :=
  s.updRing v i fun r => { r with size := if r.enable then r.size else cfgSize w, vector := cfgVector w, modCount := cfgModCount w }

theorem State.ringCfg_disable {s : State} {v i w : Nat} (hw : bitOf w 0 = false) (he : (s.ring v i).enable = true) :
    s.ringCfg v i w = (s.ringWord v i w).ringOff v i := by
  simp [ringCfg, hw, he, ringWord]

/-- The state with a ring's records taken out of its VF's backlog. -/
def State.backlogWithout (s : State) (v i : Nat) : State := s.updVf v fun f => { f with backlog := f.backlog.filter fun q => q.1 != i }

theorem State.ringOff_eq (s : State) (v i : Nat) : s.ringOff v i = (s.backlogWithout v i).updRing v i fun r =>
    { r with enable := false, registered := false, drop := sat32 r.drop ((s.vf v).backlog.filter fun q => q.1 == i).length,
             unannounced := 0 } := rfl

/-- Rule 4 of R48: the ring is off, and what its backlog held is counted. -/
theorem State.ringOff_ring_self (s : State) (v i : Nat) : (s.ringOff v i).ring v i =
    { s.ring v i with enable := false, registered := false, unannounced := 0,
                      drop := sat32 (s.ring v i).drop ((s.vf v).backlog.filter fun q => q.1 == i).length } := by
  have hr : (s.backlogWithout v i).ring v i = s.ring v i := State.setBacklog_ring ..
  rw [ringOff_eq, State.updRing_ring_self, hr]

theorem State.ringOff_ring_ne (s : State) (v : Nat) {i j : Nat} (h : j ≠ i) : (s.ringOff v i).ring v j = s.ring v j := by
  rw [ringOff_eq, State.updRing_ring_ne _ _ _ h]
  exact State.setBacklog_ring ..

theorem State.ringOff_backlog (s : State) (v i : Nat) : ((s.ringOff v i).vf v).backlog = (s.vf v).backlog.filter fun q => q.1 != i := by
  rw [ringOff_eq, State.updRing_backlog, backlogWithout, State.updVf_vf_self]

/-! ## The backlog (R49) -/

/-- Writing a record: its bytes at TAIL, and TAIL advances. -/
theorem State.ringWrite_writes (s : State) (v i : Nat) (x : Rec) :
    ((s.ringWrite v i x).ring v i).tail = ((s.ring v i).tail + 1) % (s.ring v i).records ∧
      (s.ringWrite v i x).mem.host =
        memWriteN s.mem.host ((s.ring v i).base * 4096 + 64 * (s.ring v i).tail) (recBytes s.broup (s.ring v i).phase x) := by
  have htail (t : State) : ((t.ringAnnounce v i).ring v i).tail = (t.ring v i).tail := by
    unfold ringAnnounce
    dsimp only
    split
    · rw [State.raiseVec_ring, State.updRing_ring_self]
    · rfl
  have hmem (t : State) : (t.ringAnnounce v i).mem = t.mem := by
    unfold ringAnnounce
    dsimp only
    split <;> simp
  unfold ringWrite
  exact ⟨by rw [htail, State.updRing_ring_self], by rw [hmem]; rfl⟩

/-- A record that waits alone, whose ring has room, is written, and the backlog is empty. -/
theorem State.drainBacklog_single {s : State} {v i : Nat} (x : Rec) (h : (s.ring v i).full = false) :
    s.drainBacklog v [(i, x)] [] = (s.ringWrite v i x).updVf v fun f => { f with backlog := [] } := by
  simp [drainBacklog, h]

/-! ## The commands and events of the rings -/

section
variable {s : State} {v i : Nat} (hf : s.fnDecodes (.vf v) = true) (hi : i < 4)
include hf hi

theorem exec_ringEnable (w : W32) (hw : bitOf w.toNat 0 = true) : exec (.ringEnable v i w) s = .next (s.ringCfg v i w.toNat) := by
  have hx : exec (.ringEnable v i w) s = execRingEnable v i w s := rfl
  simp [hx, execRingEnable, hf, hi, hw]

theorem exec_ringDisable (w : W32) (hw : bitOf w.toNat 0 = false) : exec (.ringDisable v i w) s = .next (s.ringCfg v i w.toNat) := by
  have hx : exec (.ringDisable v i w) s = execRingDisable v i w s := rfl
  simp [hx, execRingDisable, hf, hi, hw]

theorem exec_ringHeadWrite (w : W32) :
    exec (.ringHeadWrite v i w) s = .next (s.updRing v i fun r => { r with head := w.toNat % 65536 }) := by
  have hx : exec (.ringHeadWrite v i w) s = execRingHeadWrite v i w s := rfl
  simp [hx, execRingHeadWrite, hf, hi]

theorem exec_ringDropRead : exec (.ringDropRead v i) s =
    .next { s.updRing v i (fun r => { r with drop := 0 }) with host.lastRead := BitVec.ofNat 64 (s.ring v i).drop } := by
  have hx : exec (.ringDropRead v i) s = execRingDropRead v i s := rfl
  simp [hx, execRingDropRead, hf, hi]

end

/-- Rule 2 of R48. -/
theorem exec_ringRegistrationCheck {s : State} {v i : Nat} (hm : s.masonRuns = true) (he : (s.ring v i).enable = true)
    (hr : (s.ring v i).registered = false) : exec (.ringRegistrationCheck v i) s = .next (s.updRing v i fun r =>
      if r.base ≠ 0 ∧ r.size ≤ 8 then { r with registered := true, head := 0, tail := 0, phase := true, unannounced := 0 }
      else { r with enable := false, cfgErr := true }) := by
  have hx : exec (.ringRegistrationCheck v i) s = execRingRegistrationCheck v i s := rfl
  simp only [hx, execRingRegistrationCheck, hm, he, hr, Bool.not_false, Bool.and_self, if_true]
  congr 1
  by_cases hok : (s.ring v i).base ≠ 0 ∧ (s.ring v i).size ≤ 8
  · rw [if_pos (by simpa using hok)]
    exact State.updRing_congr (by rw [if_pos hok])
  · rw [if_neg (by simpa using hok)]
    exact State.updRing_congr (by rw [if_neg hok])

theorem exec_ringBacklogDrain {s : State} {v : Nat} (h : s.up = true) :
    exec (.ringBacklogDrain v) s = .next (s.drainBacklog v (s.vf v).backlog []) := by
  have hx : exec (.ringBacklogDrain v) s = execRingBacklogDrain v s := rfl
  rw [hx, execRingBacklogDrain, if_pos h]

/-- R51: the oldest unannounced record has waited MOD_TIME µs of 25 ticks. -/
theorem exec_ringModTimer {s : State} {v i : Nat} (hup : s.up = true) (hr : (s.ring v i).registered = true) (ht : (s.ring v i).modTime ≠ 0)
    (hu : (s.ring v i).unannounced ≠ 0) (hage : 25 * (s.ring v i).modTime ≤ s.now - (s.ring v i).oldestAt) :
    exec (.ringModTimer v i) s =
      .next ((s.updRing v i fun r => { r with unannounced := 0 }).raiseVec (.vf v) (s.ring v i).vector) := by
  have hx : exec (.ringModTimer v i) s = execRingModTimer v i s := rfl
  simp [hx, execRingModTimer, hup, hr, ht, hu, tUs, State.since, hage]

/-- Settles O6: the equation of each command, and what the end of a ring and the write of a record leave in it. -/
theorem ringRegistersAndTimers : Obligations.RingRegistersAndTimers := by
  unfold Obligations.RingRegistersAndTimers
  refine ⟨?enable, fun s v i => exec_ringRegistrationCheck, ?disable, fun s v i w hf hi => exec_ringHeadWrite hf hi w, ?drop, ?drain,
    fun s v i => exec_ringModTimer⟩
  case enable => exact fun s v i w hf hi hw he => by rw [exec_ringEnable hf hi w hw, State.ringCfg_enable hw he]
  case disable =>
    intro s v i w hf hi hw he
    refine ⟨_, by rw [exec_ringDisable hf hi w hw, State.ringCfg_disable hw he], ?_⟩
    have hring : (s.ringWord v i w.toNat).ring v i =
        { s.ring v i with vector := cfgVector w.toNat, modCount := cfgModCount w.toNat } := by
      simp [State.ringWord, he]
    have hlog : ((s.ringWord v i w.toNat).vf v).backlog = (s.vf v).backlog := State.updRing_backlog ..
    rw [State.ringOff_ring_self, State.ringOff_backlog, hring, hlog]
    exact ⟨rfl, rfl, rfl, rfl, rfl, fun j hj => (State.ringOff_ring_ne _ _ hj).trans (State.updRing_ring_ne _ _ _ hj)⟩
  case drop =>
    intro s v i hf hi
    exact ⟨_, exec_ringDropRead hf hi, rfl, State.updRing_ring_self .., fun j hj => State.updRing_ring_ne _ _ _ hj⟩
  case drain =>
    intro s v i x hup hlog hroom
    refine ⟨_, by rw [exec_ringBacklogDrain hup, hlog, State.drainBacklog_single x hroom], ?_⟩
    obtain ⟨htail, hmem⟩ := s.ringWrite_writes v i x
    exact ⟨by rw [State.updVf_vf_self], by rw [State.setBacklog_ring, htail], hmem⟩

end Sys2Proof.Machine
end

section
/-! SUPPORT. Writes to a mailbox's request area, its doorbell (R34, R36), and the end of a Mason restart (R39). -/

namespace Sys2Proof.Machine

/-! ## The request area and the doorbell -/

section
variable {s : State} {m : Mb} (hf : s.fnDecodes m.fn = true) (hm : mbExists m = true)
include hf hm

theorem exec_mailboxRequestWrite {off : Nat} {bs : List Byte} (ho : off < 256) (hb : bs ≠ []) :
    exec (.mailboxRequestWrite m off bs) s = .next (s.requestWrite m off bs) := by
  have hx : exec (.mailboxRequestWrite m off bs) s = execMailboxRequestWrite m off bs s := rfl
  simp [hx, execMailboxRequestWrite, hf, hm, ho, hb]

theorem exec_mbDoorbell (w : W32) : exec (.mbDoorbell m w) s = .next (s.doorbell m w.toNat) := by
  have hx : exec (.mbDoorbell m w) s = execMbDoorbell m w s := rfl
  simp [hx, execMbDoorbell, hf, hm]

end

/-- Rule 3 of R34: a write while BUSY is dropped. -/
theorem State.requestWrite_busy {s : State} {m : Mb} (h : (s.mbox m).state = 1) (off : Nat) (bs : List Byte) :
    s.requestWrite m off bs = s.updMbox m fun b => { b with overrun := true } := by
  simp [requestWrite, h]

theorem State.requestWrite_idle {s : State} {m : Mb} (h : (s.mbox m).state ≠ 1) (off : Nat) (bs : List Byte) :
    s.requestWrite m off bs = s.updMbox m fun b => { b with req := memWriteN b.req off (bs.take (256 - off)) } := by
  simp [requestWrite, h]

theorem State.doorbell_busy {s : State} {m : Mb} {w : Nat} (hw : bitOf w 0 = true) (h : (s.mbox m).state = 1) :
    s.doorbell m w = s.updMbox m fun b => { b with overrun := true } := by
  simp [doorbell, hw, h]

theorem State.doorbell_idle {s : State} {m : Mb} {w : Nat} (hw : bitOf w 0 = true) (h : (s.mbox m).state ≠ 1) :
    s.doorbell m w = s.submit m := by
  simp [doorbell, hw, h]

/-! ## A submitted request: the three ways it goes (R36, R39) -/

/-- The bytes of a mailbox's request area. -/
def State.reqBytes (s : State) (m : Mb) : List Byte := memReadN (s.mbox m).req 0 256

/-- During a pause the Plinth answers. -/
theorem State.submit_paused {s : State} (m : Mb) (h : s.mason.paused = true) : s.submit m =
    s.respond m (reqCode s.broup (s.reqBytes m)) (reqTag s.broup (s.reqBytes m)) { status := St.retryAfter, arg := s.retryUs } := by
  simp [submit, h, reqBytes]

/-- Checks 1 and 2 of R36. -/
theorem State.submit_malformed {s : State} {m : Mb} (hp : s.mason.paused = false)
    (h : (reqHeaderOk s.broup (s.reqBytes m) && codeDefined (reqCode s.broup (s.reqBytes m))) = false) : s.submit m =
      s.respond m (reqCode s.broup (s.reqBytes m)) (reqTag s.broup (s.reqBytes m)) { status := St.badCommand } := by
  have hbad : (!reqHeaderOk s.broup (s.reqBytes m) || !codeDefined (reqCode s.broup (s.reqBytes m))) = true := by
    rw [← Bool.not_and, h, Bool.not_false]
  simp only [reqBytes] at hbad
  simp only [submit, hp, hbad, Bool.false_eq_true, if_false, if_true, reqBytes]

theorem State.submit_wellFormed {s : State} {m : Mb} (hp : s.mason.paused = false) (hh : reqHeaderOk s.broup (s.reqBytes m) = true)
    (hc : codeDefined (reqCode s.broup (s.reqBytes m)) = true) : s.submit m = { s.updMbox m (fun b => { b with state := 1 }) with
      mason.inputs := s.mason.inputs ++ [⟨m, s.reqBytes m, false⟩] } := by
  simp only [reqBytes] at hh hc
  simp only [submit, hp, hh, hc, Bool.not_true, Bool.or_self, Bool.false_eq_true, if_false, reqBytes]

theorem State.retryUs_ge (s : State) : 1000 ≤ s.retryUs := Nat.le_max_left ..

/-! ## The end of a Mason restart (R39, R307) -/

theorem exec_masonRestartDone {s : State} (hup : s.up = true) (hp : s.mason.paused = true) (hc : s.mason.pauseCause = 1) :
    exec .masonRestartDone s = .next s.resumeMason := by
  have hx : exec .masonRestartDone s = execMasonRestartDone s := rfl
  simp [hx, execMasonRestartDone, hup, hp, hc]

/-- A tenant whose removal has not reached its tear-down does not wait for Mason. -/
theorem State.tearDue_early {s : State} (h : ∀ r ∈ s.sec.tenants, r.2.step ≠ 4) (t : Nat) : s.tearDue t = s := by
  unfold tearDue
  split
  · rename_i r hr
    rw [if_neg (by simp [h _ (Tbl.mem_of_find? hr)])]
  · rfl

theorem State.foldl_tearDue_early (l : List Nat) {s : State} (h : ∀ r ∈ s.sec.tenants, r.2.step ≠ 4) :
    l.foldl (fun s t => s.tearDue t) s = s := by
  induction l with
  | nil => rfl
  | cons t l ih => rw [List.foldl_cons, State.tearDue_early h, ih]

/-- The state in which Mason answers again, before MASON_RESUMED is posted. -/
def State.unpaused (s : State) : State := { s with mason.paused := false, mason.kept := [] }

/-- Mason answers again, and MASON_RESUMED carries the length and the cause of the pause. -/
def State.masonResumed (s : State) : State :=
  s.unpaused.post 0x0104 0 0 (leBytes 4 (min 0xFFFFFFFF ((s.now - s.mason.pauseAt) / 25)) ++ leBytes 1 s.mason.pauseCause)

/-- Where no removal waits, the end of the pause is all that a resumed Mason does. -/
theorem State.resumeMason_quiet {s : State} (h : ∀ r ∈ s.sec.tenants, r.2.step ≠ 4) : s.resumeMason = s.masonResumed := by
  have hsec : s.masonResumed.sec = s.sec := State.post_sec ..
  exact State.foldl_tearDue_early (s := s.masonResumed) _ (by rw [hsec]; exact h)

/-! ## The obligation -/

/-- Settles O9: what the request area, the doorbell and a submitted request come to by the state of the mailbox and of Mason. -/
theorem doorbellSubmitsOrAnswers : Obligations.DoorbellSubmitsOrAnswers := by
  unfold Obligations.DoorbellSubmitsOrAnswers
  refine ⟨?write, ?writeBusy, ?bellBusy, ?wellFormed, ?malformed, ?paused, ?resumed⟩
  case write => exact fun s m off bs hf hm ho hb hi => by rw [exec_mailboxRequestWrite hf hm ho hb, State.requestWrite_idle hi]
  case writeBusy => exact fun s m off bs hf hm ho hb hi => by rw [exec_mailboxRequestWrite hf hm ho hb, State.requestWrite_busy hi]
  case bellBusy => exact fun s m w hf hm hw hi => by rw [exec_mbDoorbell hf hm, State.doorbell_busy hw hi]
  case wellFormed =>
    exact fun s m w hf hm hw hi hp hh hc => by
      rw [exec_mbDoorbell hf hm, State.doorbell_idle hw hi, State.submit_wellFormed hp hh hc, State.reqBytes]
  case malformed =>
    intro s m w hf hm hw hi hp hbad
    refine ⟨_, by rw [exec_mbDoorbell hf hm, State.doorbell_idle hw hi, State.submit_malformed hp hbad], ?_⟩
    rw [State.respond_mbox]
    exact ⟨rfl, rfl, State.respond_mason ..⟩
  case paused =>
    intro s m w hf hm hw hi hp
    refine ⟨_, s.retryUs, by rw [exec_mbDoorbell hf hm, State.doorbell_idle hw hi, State.submit_paused m hp], s.retryUs_ge, ?_⟩
    rw [State.respond_mbox]
    exact ⟨rfl, rfl, rfl, State.respond_mason .., rfl⟩
  case resumed =>
    intro s hup hp hc hsteps hroom
    have hfull : s.unpaused.host.eq.full = false := beq_eq_false_iff_ne.2 hroom
    obtain ⟨hentry, -⟩ := State.post_room hfull 0x0104 0 0
      (leBytes 4 (min 0xFFFFFFFF ((s.now - s.mason.pauseAt) / 25)) ++ leBytes 1 s.mason.pauseCause)
    rw [hc] at hentry
    refine ⟨s.masonResumed, by rw [exec_masonRestartDone hup hp hc, State.resumeMason_quiet hsteps], State.post_mason .., State.post_ctxs ..,
      State.post_sec .., State.post_mem .., ?_⟩
    rw [State.masonResumed, hc]
    exact hentry

end Sys2Proof.Machine
end

section
/-! SUPPORT. Function-level resets (R53, R222): what they reset in the host interface, and the work that they leave alone. -/

namespace Sys2Proof.Machine

/-! ## Rings that are off -/

/-- A ring without ENABLE and REGISTERED. -/
def State.RingIsOff (s : State) (v i : Nat) : Prop := (s.ring v i).registered = false ∧ (s.ring v i).enable = false

theorem State.ringOff_isOff (s : State) (v i : Nat) : (s.ringOff v i).RingIsOff v i := by
  rw [RingIsOff, State.ringOff_ring_self]
  exact ⟨rfl, rfl⟩

theorem State.RingIsOff.ringOff {s : State} {v i : Nat} (h : s.RingIsOff v i) (j : Nat) : (s.ringOff v j).RingIsOff v i := by
  by_cases hj : i = j
  · subst hj; exact State.ringOff_isOff ..
  · rw [RingIsOff, State.ringOff_ring_ne _ _ hj]; exact h

/-- Turning rings off one after another turns each of them off. -/
theorem State.foldl_ringOff_isOff (v i : Nat) (l : List Nat) : ∀ s : State, i ∈ l ∨ s.RingIsOff v i →
    (l.foldl (fun s i => s.ringOff v i) s).RingIsOff v i := by
  induction l with
  | nil => exact fun s h => h.resolve_left List.not_mem_nil
  | cons j l ih =>
    intro s h
    rw [List.foldl_cons]
    refine ih _ ?_
    rcases h with h | h
    · rcases List.mem_cons.1 h with rfl | hl
      · exact .inr (State.ringOff_isOff ..)
      · exact .inl hl
    · exact .inr (h.ringOff j)

theorem State.ringOff_emits (s : State) (v i : Nat) : s.Emits (s.ringOff v i) := .of_eq rfl

/-- An event raises a vector of the PF alone. -/
@[simp] theorem State.post_vfVec (s : State) (code kind id : Nat) (d : List Byte) : (s.post code kind id d).host.vfVec = s.host.vfVec := by
  have hput (b : List Byte) : (s.eqPut b).host.vfVec = s.host.vfVec := by
    unfold eqPut
    dsimp only
    split
    · unfold raiseVec
      split <;> rfl
    · rfl
  have hx : (s.post code kind id d).host.vfVec = (s.eqEvent code kind id d).host.vfVec := rfl
  rw [hx, eqEvent]
  split
  · rfl
  · exact hput _

/-! ## The reset of a VF -/

/-- A VF's mailboxes, vectors and waiting requests after its reset. -/
def State.vfIdle (s : State) (v : Nat) : State := { s with
  host.vfMb := s.host.vfMb.mapVals fun k b => if k / 4 == v then { b with state := 0, status := 0, doneCount := 0, intrEn := false, overrun := false } else b
  host.vfVec := s.host.vfVec.filter fun p => p.1 / 8 != v
  mason.inputs := s.mason.inputs.map fun r : MasonReq => if r.mb.fn == Fn.vf v then { r with discard := true } else r }

/-- As `vfIdle`, with the VF's rings off and its done bits clear. -/
def State.vfOff (s : State) (v : Nat) : State := ((List.range 4).foldl (fun s i => s.ringOff v i) (s.vfIdle v)).updVf v fun f => { f with mbDone := [] }

theorem State.vfReset_eq (s : State) (v : Nat) : s.vfReset v = (s.vfOff v).post 0x0105 9 v [] := rfl

theorem State.vfOff_keeps {γ : Type} (φ : State → γ) (hφ : ∀ (s : State) x, φ { s with host.vfs := x } = φ s) (s : State) (v : Nat) :
    φ (s.vfOff v) = φ (s.vfIdle v) :=
  (hφ _ _).trans (foldl_keeps (fun s i => s.ringOff v i) φ (fun s i => (hφ (s.backlogWithout v i) _).trans (hφ s _)) _ _)

/-- Beside what `vfIdle` changes, the reset of a VF is an emission. -/
theorem State.vfReset_emits (s : State) (v : Nat) : (s.vfIdle v).Emits (s.vfReset v) :=
  ((State.Emits.of_fold (fun s i => State.ringOff_emits s v i) _ _).trans (State.updVf_emits ..)).trans (State.post_emits ..)

theorem State.vfReset_mbox (s : State) {v i : Nat} (hi : i < 4) : ((s.vfReset v).mbox ⟨.vf v, i⟩).state = 0 := by
  have hmb : (s.vfReset v).host.vfMb = (s.vfIdle v).host.vfMb := (s.vfReset_emits v).keeps (·.host.vfMb) fun _ => rfl
  simp only [mbox, hmb, vfIdle]
  exact Tbl.get_mapVals (P := fun b : Mailbox => b.state = 0) rfl _ fun x => by
    rw [if_pos (beq_iff_eq.2 (by omega))]

theorem State.vfReset_ring (s : State) {v i : Nat} (hi : i < 4) : (s.vfReset v).RingIsOff v i := by
  have hoff := State.foldl_ringOff_isOff v i (List.range 4) (s.vfIdle v) (.inl (List.mem_range.2 hi))
  have hvf : (s.vfReset v).ring v i = (s.vfOff v).ring v i := State.ring_of_vfs (State.post_host_vfs ..) ..
  have hdone : (s.vfOff v).ring v i = ((List.range 4).foldl (fun s i => s.ringOff v i) (s.vfIdle v)).ring v i := by
    rw [vfOff, ring, State.updVf_vf_self, ring]
  rw [RingIsOff, hvf, hdone]
  exact hoff

theorem State.vfReset_vector (s : State) {v i : Nat} (hi : i < 8) : (s.vfReset v).vector (.vf v) i = {} := by
  have hvec : (s.vfReset v).host.vfVec = (s.vfIdle v).host.vfVec := by rw [vfReset_eq, State.post_vfVec, vfOff_keeps (·.host.vfVec) fun _ _ => rfl]
  have hgone : (s.vfIdle v).host.vfVec.find? (v * 8 + i) = none :=
    Tbl.find?_filter_out fun x => by simp; omega
  simp [vector, hvec, Tbl.get, hgone]

/-- Requests of a function that are marked as discarded. -/
theorem discard_of_mem_map {f : Fn} {l : List MasonReq} {r : MasonReq}
    (hr : r ∈ l.map fun r : MasonReq => if r.mb.fn == f then { r with discard := true } else r) (hf : r.mb.fn = f) : r.discard = true := by
  obtain ⟨q, -, rfl⟩ := List.mem_map.1 hr
  split at hf
  · rw [if_pos ‹_›]
  · rename_i hq
    exact absurd (beq_iff_eq.2 hf) hq

theorem State.vfReset_inputs (s : State) (v : Nat) : ∀ r ∈ (s.vfReset v).mason.inputs, r.mb.fn = .vf v → r.discard = true := by
  have hm : (s.vfReset v).mason = (s.vfIdle v).mason := (s.vfReset_emits v).keeps (·.mason) fun _ => rfl
  rw [hm]
  exact fun r => discard_of_mem_map

/-! ## The work that a reset leaves alone -/

/-- Contexts, partitions, plans and tenants. -/
def State.work (s : State) : Tbl Ctx × Tbl Part × Tbl Plan × Sec := (s.ctxs, s.parts, s.plans, s.sec)

/-- No tenant is being removed. -/
def State.NoRemoval (s : State) : Prop := ∀ r ∈ s.sec.tenants, r.2.state ≠ 2

theorem State.NoRemoval.of_work {s t : State} (hs : s.NoRemoval) (h : t.work = s.work) : t.NoRemoval := by
  have hsec : t.sec = s.sec := congrArg (fun w => w.2.2.2) h
  rw [NoRemoval, hsec]
  exact hs

theorem State.vfReset_ctxs (s : State) (v : Nat) : (s.vfReset v).ctxs = s.ctxs := by
  rw [vfReset_eq, State.post_ctxs, vfOff_keeps State.ctxs fun _ _ => rfl]
  rfl

theorem State.vfReset_mem (s : State) (v : Nat) : (s.vfReset v).mem = s.mem := by
  rw [vfReset_eq, State.post_mem, vfOff_keeps State.mem fun _ _ => rfl]
  rfl

/-- What an emission and `vfIdle` keep, the reset of a VF keeps. -/
theorem State.vfReset_keeps {γ : Type} (φ : State → γ) (hφ : ∀ (s : State) x, φ (s.emitted x) = φ s) (s : State) (v : Nat)
    (hv : φ (s.vfIdle v) = φ s) : φ (s.vfReset v) = φ s := ((s.vfReset_emits v).keeps φ (hφ _)).trans hv

theorem State.vfReset_work (s : State) (v : Nat) : (s.vfReset v).work = s.work := by
  have hk : ((s.vfReset v).parts, (s.vfReset v).plans, (s.vfReset v).sec) = (s.parts, s.plans, s.sec) :=
    State.vfReset_keeps (fun s => (s.parts, s.plans, s.sec)) (fun _ _ => rfl) s v rfl
  rw [work, State.vfReset_ctxs, hk, work]

theorem State.moveSet_work (s : State) (x : ShSet) (n : Nat) : (s.moveSet x n).work = s.work := by
  have hrow (s : State) (p r : Nat) (bs : List Byte) : (x.writeRow s p r bs).work = s.work := by
    unfold ShSet.writeRow
    split
    · exact State.hbmWriteN_keeps State.work (fun _ _ => rfl) ..
    · rfl
  refine foldl_keeps _ State.work (fun s i => ?_) _ s
  dsimp only
  split
  · rfl
  · exact hrow ..

theorem State.stopSet_work (s : State) (x : Option ShSet) : (s.stopSet x).work = s.work := by
  cases x with
  | none => rfl
  | some x => exact State.moveSet_work ..

/-- While no tenant is under removal, a channel that stops ends no work. -/
theorem State.stopChan_work {s : State} (h : s.NoRemoval) (ch : Nat) : (s.stopChan ch).work = s.work := by
  have hstop : (((s.stopSet (s.chan ch).landing).stopSet (if (s.chan ch).busy then some (s.chan ch).activeSet else none)).updChan ch
      fun c => { retired := c.retired, stopped := true }).work = s.work :=
    (State.stopSet_work ..).trans (State.stopSet_work ..)
  unfold stopChan
  rw [State.landDue_quiet _ (h.of_work hstop)]
  exact hstop

/-! ## The reset of the PF -/

/-- The state once the VFs that were enabled are reset and every host channel is stopped. -/
def State.pfQuiet (s : State) : State :=
  (List.range 16).foldl (fun s c => s.stopChan c) ((if s.host.vfEnable then List.range s.vfCount else []).foldl (fun s v => s.vfReset v) s)

theorem State.pfFlr_eq (s : State) : s.pfFlr = s.pfQuiet.pfReset.stopStaging.stopImports := rfl

theorem State.pfQuiet_work {s : State} (h : s.NoRemoval) : s.pfQuiet.work = s.work := by
  have hvfs (l : List Nat) : (l.foldl (fun s v => s.vfReset v) s).work = s.work := foldl_keeps _ State.work State.vfReset_work l s
  exact (foldl_keeps_if _ State.work State.NoRemoval (fun s c hs => State.stopChan_work hs c)
    (fun s c hs => hs.of_work (State.stopChan_work hs c)) _ _ (h.of_work (hvfs _))).trans (hvfs _)

/-- Staging that stops touches the staging areas and the operations alone. -/
theorem State.stopStaging_keeps {γ : Type} (φ : State → γ) (ha : ∀ (s : State) a, φ { s with fw.staged := a } = φ s)
    (ho : ∀ (s : State) o, φ { s with mason.ops := o } = φ s) (s : State) : φ s.stopStaging = φ s := by
  refine foldl_keeps _ φ (fun s o => ?_) _ s
  split
  · exact (ho _ _).trans (ha s _)
  · rfl

theorem State.stopStaging_host (s : State) : s.stopStaging.host = s.host :=
  State.stopStaging_keeps State.host (fun _ _ => rfl) (fun _ _ => rfl) s

theorem State.stopStaging_inputs (s : State) : s.stopStaging.mason.inputs = s.mason.inputs :=
  State.stopStaging_keeps (·.mason.inputs) (fun _ _ => rfl) (fun _ _ => rfl) s

theorem State.stopStaging_work (s : State) : s.stopStaging.work = s.work :=
  State.stopStaging_keeps State.work (fun _ _ => rfl) (fun _ _ => rfl) s

theorem State.stopImports_host (s : State) : s.stopImports.host = s.host := rfl

theorem State.stopImports_inputs (s : State) : s.stopImports.mason.inputs = s.mason.inputs := rfl

theorem State.stopImports_work (s : State) : s.stopImports.work = s.work := rfl

theorem State.stopImports_stopped (s : State) : ∀ i ∈ s.stopImports.fab.imports, i.2.stopped = true := by
  intro i hi
  obtain ⟨q, -, rfl⟩ := List.mem_map.1 hi
  rfl

theorem State.pfReset_mbox (s : State) (i : Nat) : (s.pfReset.mbox ⟨.pf, i⟩).state = 0 := by
  simp only [mbox, pfReset]
  exact Tbl.get_mapVals (P := fun b : Mailbox => b.state = 0) rfl _ fun _ => rfl

theorem State.pfReset_inputs (s : State) : ∀ r ∈ s.pfReset.mason.inputs, r.mb.fn = .pf → r.discard = true :=
  fun _ => discard_of_mem_map

theorem State.pfReset_registers (s : State) :
    s.pfReset.host.vfEnable = false ∧ s.pfReset.host.eq = {} ∧ ∀ i, s.pfReset.vector .pf i = {} := ⟨rfl, rfl, fun _ => rfl⟩

theorem State.pfReset_work (s : State) : s.pfReset.work = s.work := rfl

theorem State.pfFlr_host (s : State) : s.pfFlr.host = s.pfQuiet.pfReset.host := by
  rw [pfFlr_eq, stopImports_host, stopStaging_host]

theorem State.pfFlr_inputs (s : State) : s.pfFlr.mason.inputs = s.pfQuiet.pfReset.mason.inputs := by
  rw [pfFlr_eq, stopImports_inputs, stopStaging_inputs]

theorem State.pfFlr_work {s : State} (h : s.NoRemoval) : s.pfFlr.work = s.work := by
  rw [pfFlr_eq, stopImports_work, stopStaging_work, pfReset_work, pfQuiet_work h]

theorem State.pfFlr_imports (s : State) : ∀ i ∈ s.pfFlr.fab.imports, i.2.stopped = true := by
  rw [pfFlr_eq]
  exact State.stopImports_stopped _

theorem State.mbox_of_host {s t : State} (h : t.host = s.host) (m : Mb) : t.mbox m = s.mbox m := by
  rw [mbox, h, mbox]

theorem State.vector_of_host {s t : State} (h : t.host = s.host) (f : Fn) (i : Nat) : t.vector f i = s.vector f i := by
  cases f <;> simp only [vector, h]

/-! ## The obligation -/

/-- The state with other functions in D3hot. -/
def State.setD3 (s : State) (l : List Fn) : State := { s with host.d3 := l }

theorem State.setD3_mbox (s : State) (l : List Fn) (m : Mb) : (s.setD3 l).mbox m = s.mbox m := rfl

theorem State.setD3_ring (s : State) (l : List Fn) (v i : Nat) : (s.setD3 l).ring v i = s.ring v i := rfl

theorem State.setD3_vector (s : State) (l : List Fn) (f : Fn) (i : Nat) : (s.setD3 l).vector f i = s.vector f i := by
  cases f <;> rfl

theorem State.vfReset_setD3_keeps {γ : Type} (φ : State → γ) (hφ : ∀ (s : State) x, φ (s.emitted x) = φ s)
    (hd : ∀ (s : State) l, φ (s.setD3 l) = φ s) (s : State) (v : Nat) (l : List Fn) (hv : φ (s.vfIdle v) = φ s) :
    φ ((s.vfReset v).setD3 l) = φ s := (hd _ _).trans (State.vfReset_keeps φ hφ s v hv)

theorem exec_vfFlr {s : State} {v : Nat} (h : s.fnThere (.vf v) = true) :
    exec (.vfFlr v) s = .next ((s.vfReset v).setD3 (s.host.d3.filter (· != Fn.vf v))) := by
  have hx : exec (.vfFlr v) s = execVfFlr v s := rfl
  rw [hx, execVfFlr, if_pos h, State.setD3]

theorem exec_pfFlr {s : State} (h : s.host.linkUp = true) : exec .pfFlr s = .next s.pfFlr := by
  have hx : exec .pfFlr s = execPfFlr s := rfl
  rw [hx, execPfFlr, if_pos h]

/-- Settles O7: what each reset puts into the host interface, and, through `State.work`, what it leaves alone. -/
theorem functionLevelResetKeepsWork : Obligations.FunctionLevelResetKeepsWork := by
  unfold Obligations.FunctionLevelResetKeepsWork
  refine ⟨?vf, ?pf⟩
  case vf =>
    intro s v h
    refine ⟨_, exec_vfFlr h, fun i hi => ?mbox, fun i hi => ?ring, fun i hi => ?vector, s.vfReset_inputs v, ?slots, ?window, s.vfReset_ctxs v, ?parts, ?plans, s.vfReset_mem v, ?sec, ?pfMb⟩
    case mbox => rw [State.setD3_mbox, State.vfReset_mbox s hi]
    case ring => rw [State.setD3_ring]; exact s.vfReset_ring hi
    case vector => rw [State.setD3_vector, State.vfReset_vector s hi]
    case slots => exact State.vfReset_setD3_keeps (·.host.slotBind) (fun _ _ => rfl) (fun _ _ => rfl) s v _ rfl
    case window => exact State.vfReset_setD3_keeps (·.host.vfWin) (fun _ _ => rfl) (fun _ _ => rfl) s v _ rfl
    case parts => exact State.vfReset_setD3_keeps (·.parts) (fun _ _ => rfl) (fun _ _ => rfl) s v _ rfl
    case plans => exact State.vfReset_setD3_keeps (·.plans) (fun _ _ => rfl) (fun _ _ => rfl) s v _ rfl
    case sec => exact State.vfReset_setD3_keeps (·.sec) (fun _ _ => rfl) (fun _ _ => rfl) s v _ rfl
    case pfMb => exact State.vfReset_setD3_keeps (·.host.pfMb) (fun _ _ => rfl) (fun _ _ => rfl) s v _ rfl
  case pf =>
    intro s h
    obtain ⟨hvf, hq, hvec⟩ := s.pfQuiet.pfReset_registers
    refine ⟨_, exec_pfFlr h, fun i => ?mbox, by rw [State.pfFlr_host, hvf], by rw [State.pfFlr_host, hq], fun i => ?vector,
      by rw [State.pfFlr_inputs]; exact State.pfReset_inputs _, s.pfFlr_imports, fun hr => ?work⟩
    case mbox => rw [State.mbox_of_host s.pfFlr_host, State.pfReset_mbox]
    case vector => rw [State.vector_of_host s.pfFlr_host, hvec]
    case work => simpa [State.work] using State.pfFlr_work hr

end Sys2Proof.Machine
end

section
/-! SUPPORT. The decision of a ticket read (R44, R46, R189): a PF entry reaches its context, whose ticket counts; then the steps of R44
follow one another, up to a refusal, which the loss log records, or an admission under a Guard reservation. -/

namespace Sys2Proof.Machine

/-! ## What a change of a context leaves alone -/

theorem State.updCtx_keeps {γ : Type} (φ : State → γ) (hφ : ∀ (s : State) x, φ { s with ctxs := x } = φ s) (s : State) (n : Nat)
    (f : Ctx → Ctx) : φ (s.updCtx n f) = φ s := by
  unfold updCtx
  split
  · exact hφ ..
  · rfl

theorem State.updCtx_updCtx (s : State) (n : Nat) (f g : Ctx → Ctx) : (s.updCtx n f).updCtx n g = s.updCtx n fun c => g (f c) := by
  unfold updCtx
  cases h : s.ctxs.find? n with
  | none => simp only [h]
  | some c => simp only [Tbl.find?_set_self, Tbl.set_set]

/-! ## A deciding entry -/

/-- PF entry `n` is armed and reaches context `c`, whose ticket counter does not wrap. -/
structure State.Deciding (s : State) (n : Nat) (c : Ctx) : Prop where
  decodes : s.fnDecodes .pf = true
  entry : n < 16384
  armed : (s.entry .pf n).armed = true
  ctx : s.ctx? n = some c
  ticket : c.ticket + 1 < 2 ^ 40

/-- The descriptor bytes of a PF entry. -/
def State.descOf (s : State) (n : Nat) : List Byte := memReadN (s.entry .pf n).bytes 0 0x38

/-- The context with its ticket counted. -/
def Ctx.ticketed (c : Ctx) : Ctx := { c with ticket := c.ticket + 1 }

/-- The state with the ticket of context `n` counted. -/
def State.ticketed (s : State) (n : Nat) (c : Ctx) : State := s.updCtx n fun x => { x with ticket := c.ticket + 1 }

theorem State.ticketed_keeps {γ : Type} (φ : State → γ) (hφ : ∀ (s : State) x, φ { s with ctxs := x } = φ s) (s : State) (n : Nat) (c : Ctx) :
    φ (s.ticketed n c) = φ s := State.updCtx_keeps φ hφ ..

section
variable {s : State} {n : Nat} {c : Ctx} (h : s.Deciding n c)
include h

theorem State.Deciding.ticketed_ctx : (s.ticketed n c).ctx? n = some c.ticketed := State.updCtx_some h.ctx _

theorem State.Deciding.countTicket : s.countTicket n = (s.ticketed n c, c.ticket + 1) := by
  simp only [State.countTicket, h.ctx, if_pos h.ticket, State.ticketed]

/-- The read latches the word of the decision and leaves the decision's state; admitted and deferred work is noted. -/
theorem State.Deciding.exec {t : State} {x : Decision} (hd : (s.ticketed n c).decideTicket n c.ticketed (s.descOf n) = (t, x)) :
    exec (.ticketRead .pf n) s =
      .next ((if x.dec < 2 then t.noteAdmitted n c else t).latch .pf n (ticketWord x (c.ticket + 1))) := by
  have hr : s.reach .pf n = .ctx n c := by simp [State.reach, h.ctx]
  have he : s.decideEntry .pf n = (if x.dec < 2 then t.noteAdmitted n c else t, ticketWord x (c.ticket + 1)) := by
    unfold State.descOf at hd
    simp only [State.decideEntry, hr, h.countTicket, h.ticketed_ctx, Option.getD_some, hd]
  rw [exec_ticketRead_armed h.decodes h.entry h.armed, he]

/-- A decision that leaves the state as it is: the context keeps all but its ticket. -/
theorem State.Deciding.exec_invalid {x : Decision} (hx : 2 ≤ x.dec)
    (hd : (s.ticketed n c).decideTicket n c.ticketed (s.descOf n) = (s.ticketed n c, x)) :
    ∃ t : State, Machine.exec (.ticketRead .pf n) s = .next t ∧ t.host.lastRead = ticketWord x (c.ticket + 1) ∧
      t.ctx? n = some { c with ticket := c.ticket + 1 } := by
  refine ⟨_, h.exec hd, State.latch_lastRead .., ?_⟩
  rw [State.latch_ctx, if_neg (by omega), h.ticketed_ctx, Ctx.ticketed]

end

/-! ## Steps 1 to 3 of R44 -/

/-- R44 step 1, R185: the kind fits the group, the reserved bytes are zero, and a vision descriptor names 1 to 256 images. -/
structure DescOk (c : Ctx) (d : List Byte) : Prop where
  kind : kindOk c.group (field d 0 2) = true
  reserved : field d 0x30 8 = 0
  images : c.group = 5 → 1 ≤ descItems (field d 0 2) d ∧ descItems (field d 0 2) d ≤ 256

theorem descOk_iff (c : Ctx) (d : List Byte) : DescOk c d ↔
    (!kindOk c.group (field d 0 2) || field d 0x30 8 != 0 ||
      (c.group == 5 && (descItems (field d 0 2) d == 0 || decide (256 < descItems (field d 0 2) d)))) = false := by
  simp only [Bool.or_eq_false_iff, Bool.not_eq_false', bne_eq_false_iff_eq, Bool.and_eq_false_imp, beq_iff_eq, beq_eq_false_iff_ne,
    decide_eq_false_iff_not]
  constructor
  · rintro ⟨hk, hr, hi⟩
    exact ⟨⟨hk, hr⟩, fun h5 => by have := hi h5; omega⟩
  · rintro ⟨⟨hk, hr⟩, hi⟩
    exact ⟨hk, hr, fun h5 => by have := hi h5; omega⟩

theorem not_descOk {c : Ctx} {d : List Byte} (h : kindOk c.group (field d 0 2) = false ∨ field d 0x30 8 ≠ 0 ∨
    (c.group = 5 ∧ (descItems (field d 0 2) d = 0 ∨ 256 < descItems (field d 0 2) d))) : ¬ DescOk c d := by
  rintro ⟨hk, hr, hi⟩
  rcases h with h | h | ⟨h5, h⟩
  · rw [hk] at h; cases h
  · exact h hr
  · have := hi h5; omega

/-- The state once SEQ is the last decided. -/
def State.seqDecided (s : State) (n : Nat) (d : List Byte) : State := s.updCtx n fun c => { c with lastSeq := some (field d 4 4) }

section
variable {s : State} (n : Nat) {c : Ctx} {d : List Byte}

theorem State.decideTicket_gone (hg : s.ctxGone c = true) : s.decideTicket n c d = (s, { dec := 3, reason := 0x32 }) := by
  simp [decideTicket, hg]

theorem State.decideTicket_malformed (hg : s.ctxGone c = false) (hd : ¬ DescOk c d) :
    s.decideTicket n c d = (s, { dec := 3, reason := 0x31 }) := by
  rw [descOk_iff, Bool.not_eq_false] at hd
  simp only [decideTicket, hg, hd, Bool.false_eq_true, if_false, if_true]

theorem State.decideTicket_stale (hg : s.ctxGone c = false) (hd : DescOk c d) (hq : seqNewer c.lastSeq (field d 4 4) = false) :
    s.decideTicket n c d = (s, { dec := 3, reason := 0x33 }) := by
  rw [descOk_iff] at hd
  simp only [decideTicket, hg, hd, hq, Bool.false_eq_true, if_false, Bool.not_false, if_true]

/-- A fresh SEQ is decided: by the tenant's state, and then by the class. -/
theorem State.decideTicket_fresh (hg : s.ctxGone c = false) (hd : DescOk c d) (hq : seqNewer c.lastSeq (field d 4 4) = true) :
    s.decideTicket n c d = if s.tenantOpen c.tenant then (s.seqDecided n d).decideClass n c d (descItems (field d 0 2) d)
      else (s.seqDecided n d).refuse n (field d 4 4) (descItems (field d 0 2) d) 0x24 := by
  have ht : (s.seqDecided n d).tenantOpen c.tenant = s.tenantOpen c.tenant := State.updCtx_keeps (·.tenantOpen c.tenant) (fun _ _ => rfl) ..
  rw [descOk_iff] at hd
  rw [← ht]
  simp only [decideTicket, hg, hd, hq, Bool.false_eq_true, if_false, Bool.not_true]
  cases ho : (s.seqDecided n d).tenantOpen c.tenant with
  | true =>
    unfold seqDecided at ho
    simp only [ho, Bool.not_true, Bool.false_eq_true, if_false, if_true, seqDecided]
  | false =>
    unfold seqDecided at ho
    simp only [ho, Bool.not_false, Bool.false_eq_true, if_false, if_true, seqDecided]

end

/-! ## Step 4 of R44: refusals (R189, R196) -/

section
variable {s : State} (n : Nat) {c : Ctx} (d : List Byte) (k : Nat)

theorem State.decideClass_safe (hp : s.profile = 2) (hc : 2 ≤ c.cls) : s.decideClass n c d k = s.refuse n (field d 4 4) k 0x23 := by
  simp [decideClass, hp, hc]

theorem State.decideClass_noPlan (hp : s.profile ≠ 2 ∨ c.cls < 2) (hg : c.group ≠ 6)
    (hn : ∀ x, s.part? c.part = some x → x.plan = none) : s.decideClass n c d k = s.refuse n (field d 4 4) k 0x25 := by
  have hsafe : (s.profile == 2 && decide (2 ≤ c.cls)) = false := by
    rcases hp with hp | hp
    · simp [hp]
    · simp [Nat.not_le.2 hp]
  have hres : c.res = some c.part := by simp [Ctx.res, hg]
  simp only [decideClass, hsafe, hres, Bool.false_eq_true, if_false]
  cases hx : s.part? c.part with
  | none => rfl
  | some x => simp [hn x hx]

/-- A Guard context of the Trowel pool: no plan is asked for, and no partition can be lost. -/
theorem State.decideClass_trowelGuard (hc : c.cls = 0) (hg : c.group = 6) (hr : s.ringFull n c d = false) :
    s.decideClass n c d k = s.decideGuard n c d k := by
  have hres : c.res = none := by simp [Ctx.res, hg]
  simp [decideClass, hc, hres, hr]

/-- A refusal counts in the context and in its loss log. -/
theorem State.refuse_ctx (h : s.ctx? n = some c) (seq reason : Nat) : (s.refuse n seq k reason).1.ctx? n =
    some { c with refused := sat64 c.refused k, lossTotal := sat32 c.lossTotal 1,
                  losses := if s.logBlocked (n % 4) then c.losses else (⟨seq, 0, reason, 0, s.now⟩ :: c.losses).take 256 } := by
  have hb (f : Ctx → Ctx) : (s.updCtx n f).logBlocked (n % 4) = s.logBlocked (n % 4) := State.updCtx_keeps (·.logBlocked (n % 4)) (fun _ _ => rfl) ..
  rw [refuse, State.loss_ctx _ _ _ _ _ _ _ (State.updCtx_some h _), hb, State.updCtx_now]

end

/-- The context with its ticket counted and SEQ decided. -/
def Ctx.seqDecided (c : Ctx) (d : List Byte) : Ctx := { c.ticketed with lastSeq := some (field d 4 4) }

/-- The state with the ticket counted and SEQ decided, from which the class decides. -/
def State.fresh (s : State) (n : Nat) (c : Ctx) : State := (s.ticketed n c).seqDecided n (s.descOf n)

theorem State.fresh_keeps {γ : Type} (φ : State → γ) (hφ : ∀ (s : State) x, φ { s with ctxs := x } = φ s) (s : State) (n : Nat) (c : Ctx) :
    φ (s.fresh n c) = φ s := (State.updCtx_keeps φ hφ ..).trans (State.ticketed_keeps φ hφ ..)

section
variable {s : State} {n : Nat} {c : Ctx} (h : s.Deciding n c)
include h

theorem State.Deciding.fresh_ctx : (s.fresh n c).ctx? n = some (c.seqDecided (s.descOf n)) := State.updCtx_some h.ticketed_ctx _

/-- The decision is a refusal: what it leaves in the context. -/
theorem State.Deciding.exec_refused {reason k : Nat} (hd : (s.ticketed n c).decideTicket n c.ticketed (s.descOf n) =
    (s.fresh n c).refuse n (field (s.descOf n) 4 4) k reason) :
    ∃ (t : State) (c' : Ctx), Machine.exec (.ticketRead .pf n) s = .next t ∧
      t.host.lastRead = ticketWord { dec := 2, reason } (c.ticket + 1) ∧ t.ctx? n = some c' ∧
      c'.lastSeq = some (field (s.descOf n) 4 4) ∧ c'.refused = sat64 c.refused k ∧ c'.queue = c.queue ∧ c'.lossTotal = sat32 c.lossTotal 1 ∧
      c'.losses = (if s.logBlocked (n % 4) then c.losses else (⟨field (s.descOf n) 4 4, 0, reason, 0, s.now⟩ :: c.losses).take 256) := by
  have hblocked : (s.fresh n c).logBlocked (n % 4) = s.logBlocked (n % 4) := State.fresh_keeps (·.logBlocked (n % 4)) (fun _ _ => rfl) ..
  have hnow : (s.fresh n c).now = s.now := State.fresh_keeps State.now (fun _ _ => rfl) ..
  have hctx := State.refuse_ctx n k h.fresh_ctx (field (s.descOf n) 4 4) reason
  rw [hblocked, hnow] at hctx
  exact ⟨_, _, h.exec hd, State.latch_lastRead .., (State.latch_ctx ..).trans hctx, rfl, rfl, rfl, rfl, rfl⟩

end

/-! ## Step 4 of R44: admission under a Guard reservation -/

theorem State.mkItems_length (s : State) (n : Nat) (c : Ctx) (d : List Byte) (k cls : Nat) (excess disp : Bool) :
    (s.mkItems n c d k cls excess disp).length = k := by simp [mkItems]

/-- Items that displace nothing are so marked already. -/
theorem State.mkItems_map_displacing (s : State) (n : Nat) (c : Ctx) (d : List Byte) (k cls : Nat) (excess disp : Bool) :
    ((s.mkItems n c d k cls excess disp).map fun i => { i with displacing := disp }) = s.mkItems n c d k cls excess disp := by
  simp [mkItems]

/-- A context after `k` items were admitted within its reservation, with the tokens `b` before them. -/
def Ctx.guardAdmitted (c : Ctx) (now : Tick) (b : Int) (k : Nat) (items : List Item) : Ctx :=
  { c.settle now with bucket := b - k * tokenUnit, admitted := sat64 c.admitted k, queue := c.queue ++ items }

/-- The state after them; the items take the next orders. -/
def State.guardAdmitted (s : State) (n : Nat) (b : Int) (k : Nat) (items : List Item) : State :=
  { s.updCtx n (·.guardAdmitted s.now b k items) with nextOrder := s.nextOrder + k }

theorem State.guardAdmitted_ctx {s : State} {n : Nat} {c : Ctx} (h : s.ctx? n = some c) (b : Int) (k : Nat) (items : List Item) :
    (s.guardAdmitted n b k items).ctx? n = some (c.guardAdmitted s.now b k items) := State.updCtx_some h _

/-- Within the reservation, on the Trowel pool, the items are queued and displace nothing. -/
theorem State.decideGuard_trowel {s : State} {n : Nat} {c : Ctx} {d : List Byte} {k : Nat} (hg : c.group = 6)
    (hb : (k : Int) * tokenUnit ≤ c.tokens s.now) : s.decideGuard n c d k =
      (s.guardAdmitted n (c.tokens s.now) k (s.mkItems n c d k 0 false false), { dec := 0, reason := 1 }) := by
  have hres : c.res = none := by simp [Ctx.res, hg]
  simp only [decideGuard, hb, if_true, hres, Option.bind_none, State.mkItems_map_displacing, enqueue, State.updCtx_updCtx, State.updCtx_nextOrder,
    State.mkItems_length, Bool.false_eq_true, if_false]
  rfl

/-- A session's idle time ends with admitted work; the Trowel pool has no Course to wake. -/
theorem State.noteAdmitted_trowel {s : State} {n : Nat} {c : Ctx} (hg : c.group = 6) :
    s.noteAdmitted n c = s.updCtx n fun c => { c with session.idleAt := s.now } := by
  have hres : c.res = none := by simp [Ctx.res, hg]
  simp [noteAdmitted, hres]

theorem State.latch_nextOrder (t : State) (f : Fn) (n : Nat) (w : W64) : (t.latch f n w).nextOrder = t.nextOrder := by
  cases f <;> rfl

section
variable {s : State} {n : Nat} {c : Ctx} (h : s.Deciding n c)
include h

/-- The decision is an admission within the reservation: what it leaves in the context, and the orders it gives. -/
theorem State.Deciding.exec_guardAdmitted {k : Nat} (hg : c.group = 6) (hb : (k : Int) * tokenUnit ≤ c.tokens s.now)
    (hd : (s.ticketed n c).decideTicket n c.ticketed (s.descOf n) = (s.fresh n c).decideGuard n c.ticketed (s.descOf n) k) :
    ∃ (t : State) (c' : Ctx), Machine.exec (.ticketRead .pf n) s = .next t ∧ t.host.lastRead = ticketWord { dec := 0, reason := 1 } (c.ticket + 1) ∧
      t.ctx? n = some c' ∧ c'.admitted = sat64 c.admitted k ∧ c'.queue = c.queue ++ s.mkItems n c (s.descOf n) k 0 false false ∧
      c'.bucket = c.tokens s.now - k * tokenUnit ∧ t.nextOrder = s.nextOrder + k := by
  have horder : (s.fresh n c).nextOrder = s.nextOrder := State.fresh_keeps State.nextOrder (fun _ _ => rfl) ..
  have hitems : (s.fresh n c).mkItems n c.ticketed (s.descOf n) k 0 false false = s.mkItems n c (s.descOf n) k 0 false false :=
    State.fresh_keeps (fun s => s.mkItems n c.ticketed _ k 0 false false) (fun _ _ => rfl) ..
  have htokens : c.ticketed.tokens (s.fresh n c).now = c.tokens s.now := congrArg c.tokens (State.fresh_keeps State.now (fun _ _ => rfl) ..)
  rw [State.decideGuard_trowel (c := c.ticketed) hg (htokens ▸ hb), hitems, htokens] at hd
  have hctx := State.guardAdmitted_ctx h.fresh_ctx (c.tokens s.now) k (s.mkItems n c (s.descOf n) k 0 false false)
  have he := h.exec hd
  rw [if_pos (by decide), State.noteAdmitted_trowel hg] at he
  exact ⟨_, _, he, State.latch_lastRead .., (State.latch_ctx ..).trans (State.updCtx_some hctx _), rfl, rfl, rfl,
    ((State.latch_nextOrder ..).trans (State.updCtx_nextOrder ..)).trans (congrArg (· + k) horder)⟩

end

/-! ## The order of the checks -/

/-- Settles O32: each clause by the step of R44 at which its decision is made. -/
theorem ticketsFollowTheDecisionOrder : Obligations.TicketsFollowTheDecisionOrder := by
  rintro s n _ c _ hf hn ha hc ht rfl rfl
  have h : s.Deciding n c := ⟨hf, hn, ha, hc, ht⟩
  have hgone : (s.ticketed n c).ctxGone c.ticketed = s.ctxGone c := State.ticketed_keeps (·.ctxGone c) (fun _ _ => rfl) ..
  refine ⟨?gone, ?malformed, fun hng hk hr hi => ?wellFormed⟩
  case gone => exact fun hg => h.exec_invalid (by decide) (State.decideTicket_gone n (hgone.trans hg))
  case malformed => exact fun hng hbad => h.exec_invalid (by decide) (State.decideTicket_malformed n (hgone.trans hng) (not_descOk hbad))
  have hd : DescOk c.ticketed (s.descOf n) := ⟨hk, hr, hi⟩
  refine ⟨fun hq => h.exec_invalid (by decide) (State.decideTicket_stale n (hgone.trans hng) hd hq), ?closed, ?safe, ?noPlan, ?guard⟩
  all_goals
    intro hq ho
    have hopen : (s.ticketed n c).tenantOpen c.tenant = s.tenantOpen c.tenant := State.ticketed_keeps (·.tenantOpen c.tenant) (fun _ _ => rfl) ..
    have hfresh := State.decideTicket_fresh n (hgone.trans hng) hd hq
    rw [show (s.ticketed n c).tenantOpen c.ticketed.tenant = _ from hopen.trans ho] at hfresh
  case closed => exact h.exec_refused hfresh
  case safe =>
    intro hp hcls
    have hprofile : (s.fresh n c).profile = s.profile := State.fresh_keeps State.profile (fun _ _ => rfl) ..
    obtain ⟨t, c', he, hr, hc', -, hf, hq, -⟩ := h.exec_refused (hfresh.trans (State.decideClass_safe n _ _ (hprofile.trans hp) hcls))
    exact ⟨t, c', he, hr, hc', hf, hq⟩
  case noPlan =>
    intro hp hn6 hg
    have hprofile : (s.fresh n c).profile = s.profile := State.fresh_keeps State.profile (fun _ _ => rfl) ..
    have hpart : (s.fresh n c).part? c.part = s.part? c.part := State.fresh_keeps (·.part? c.part) (fun _ _ => rfl) ..
    obtain ⟨t, c', he, hr, hc', -, hf, hq, -⟩ := h.exec_refused (hfresh.trans
      (State.decideClass_noPlan n _ _ (hprofile.symm ▸ hp) hg fun x hx => hn6 x (hpart.symm.trans hx)))
    exact ⟨t, c', he, hr, hc', hf, hq⟩
  case guard =>
    intro hcls hg hring hb
    have hroom : (s.fresh n c).ringFull n c.ticketed (s.descOf n) = s.ringFull n c (s.descOf n) :=
      State.fresh_keeps (·.ringFull n c.ticketed _) (fun _ _ => rfl) ..
    exact h.exec_guardAdmitted hg hb (hfresh.trans (State.decideClass_trowelGuard n _ _ hcls hg (hroom.trans hring)))

end Sys2Proof.Machine
end

section
/-! SUPPORT. Ledger contexts: CTX_CREATE, CTX_REMOVE and CTX_SET (R42, R185, R187, R197). -/

namespace Sys2Proof.Machine

/-! ## CTX_CREATE -/

/-- The state with a new context `n`, and its slot bound where it has one. -/
def State.withCtx (s : State) (q : Req) (t n slot : Nat) : State :=
  { s with ctxs := s.ctxs.set n (newCtx q t slot ((s.ctxs.map fun c => c.2.born).foldl max 0 + 1) s.now),
           host.slotBind := if slot == 0xFFFF then s.host.slotBind else s.host.slotBind.set (t * 768 + slot) n }

theorem State.withCtx_ctx_self (s : State) (q : Req) (t n slot : Nat) :
    (s.withCtx q t n slot).ctx? n = some (newCtx q t slot ((s.ctxs.map fun c => c.2.born).foldl max 0 + 1) s.now) := Tbl.find?_set_self ..

theorem State.withCtx_ctx_ne (s : State) (q : Req) (t : Nat) {n k : Nat} (slot : Nat) (h : k ≠ n) : (s.withCtx q t n slot).ctx? k = s.ctx? k :=
  Tbl.find?_set_ne _ _ (Ne.symm h)

theorem State.withCtx_slotBind_vf (s : State) (q : Req) (t n : Nat) {slot : Nat} (h : slot ≠ 0xFFFF) :
    (s.withCtx q t n slot).host.slotBind.find? (t * 768 + slot) = some n := by
  simp [withCtx, h]

theorem newCtx_burst {q : Req} (h : q.u8 2 ≠ 0) (t slot born : Nat) (now : Tick) : (newCtx q t slot born now).burst = q.u16 0xC := by
  simp [newCtx, h]

/-- A new context's bucket is full. -/
theorem newCtx_tokens (q : Req) (t slot born : Nat) (now : Tick) :
    (newCtx q t slot born now).tokens now = (newCtx q t slot born now).burst * tokenUnit := by
  simp [newCtx, Ctx.tokens]

/-- Below Guard no Guard check is made; G is 0 where the group is not vision. -/
theorem State.addCtx_belowGuard (s : State) {q : Req} (h : q.u8 2 ≠ 0) (t n slot : Nat) : ∃ g, (q.u8 1 = 7 → g = 0) ∧
    s.addCtx q t n slot = (s.withCtx q t n slot, okR (leBytes 2 n ++ leBytes 2 slot ++ leBytes 2 g ++ [0, 0])) := by
  have hcls (born : Nat) (now : Tick) : ((newCtx q t slot born now).cls == 0) = false := by simpa [newCtx] using h
  simp only [addCtx, hcls, Bool.false_eq_true, if_false]
  refine ⟨_, fun h7 => ?_, rfl⟩
  split
  · exact if_neg (by simp [newCtx, h7])
  · rfl

/-- The bytes and the tenant, partition and objects of a CTX_CREATE below Guard pass its checks, and number `n` is the lowest free. -/
structure State.MayCreate (s : State) (q : Req) (n : Nat) : Prop where
  tenant : s.tenantErr q.tenant = none
  values : createOk q = true
  fits : s.partFits q q.tenant = true
  group : q.u8 1 ≠ 6
  free : s.held (1, q.u16 4) = false
  cls : q.u8 2 ≠ 0
  number : leastBelow 16384 (fun n => !s.ctxs.has n) = some n

section
variable {s : State} {q : Req} {n : Nat} (h : s.MayCreate q n)
include h

theorem State.MayCreate.ctxCreate_pf (hf : q.vf = none) : s.ctxCreate q = s.addCtx q q.tenant n 0xFFFF := by
  simp [ctxCreate, h.tenant, h.values, h.fits, h.group, h.free, h.number, hf]

theorem State.MayCreate.ctxCreate_vf {v k : Nat} (hf : q.vf = some v)
    (hk : leastBelow 768 (fun k => !s.host.slotBind.has (v * 768 + k)) = some k) : s.ctxCreate q = s.addCtx q q.tenant n k := by
  simp [ctxCreate, h.tenant, h.values, h.fits, h.group, h.free, h.cls, h.number, hf, hk]

end

/-- A VF asks for no Guard context. -/
theorem State.ctxCreate_vfGuard (s : State) {q : Req} (hf : q.vf.isSome = true) (hc : q.u8 2 = 0) : s.ctxCreate q = (s, failR St.notPermitted) := by
  simp [ctxCreate, hf, hc]

/-- CTX_CREATE of a request of its layout. -/
theorem exec_ctxCreate {s : State} {m : Mb} {r : Req} (h : s.runs m 0x0301 true = some r) (hl : r.len = 28) (hz : r.u16 0xE = 0) :
    exec (.ctxCreate m) s = .next (((s.taken m).ctxCreate r).1.respond m 0x0301 r.tag ((s.taken m).ctxCreate r).2) :=
  congrArg Host.Outcome.next (State.mbRun_ok (lenIs 28 [(0xE, 2)]) State.ctxCreate h (lenIs_ok hl fun _ hp => List.mem_singleton.1 hp ▸ hz))

/-! ## CTX_REMOVE -/

/-- The state of CTX_REMOVE before it looks for running work: the queue is gone, and no more work is taken. -/
def State.closing (s : State) (n : Nat) : State := (s.updCtx n fun c => { c with queue := [], removing := true }).quietFrom n

/-- A context without queue that takes no more work; a session's idle time counts from now. -/
def Ctx.closing (c : Ctx) (now : Tick) : Ctx :=
  if c.group = 7 then { c with queue := [], removing := true, session.idleAt := now } else { c with queue := [], removing := true }

section
variable {s : State} {n : Nat} {c : Ctx} (h : s.ctx? n = some c)
include h

/-- Closing changes the quiet times of Courses and the context. -/
theorem State.closing_eq : ∃ cs, s.closing n = { s with courses := cs, ctxs := s.ctxs.set n (c.closing s.now) } := by
  obtain ⟨cs, he⟩ := State.quietFrom_eq (s.updCtx n fun c => { c with queue := [], removing := true }) n _ (State.updCtx_some h _)
  refine ⟨cs, he.trans ?_⟩
  have hfind : s.ctxs.find? n = some c := h
  by_cases h7 : c.group = 7 <;> simp [updCtx, hfind, Ctx.closing, h7, Tbl.set_set]

theorem State.closing_keeps {γ : Type} (φ : State → γ) (hφ : ∀ (s : State) x y, φ { s with courses := x, ctxs := y } = φ s) :
    φ (s.closing n) = φ s := by
  obtain ⟨cs, he⟩ := State.closing_eq h
  rw [he, hφ]

theorem State.closing_ctx_self : (s.closing n).ctx? n = some (c.closing s.now) := by
  obtain ⟨cs, he⟩ := State.closing_eq h
  rw [he]
  exact Tbl.find?_set_self ..

theorem State.closing_ctx_ne {k : Nat} (hk : k ≠ n) : (s.closing n).ctx? k = s.ctx? k := by
  obtain ⟨cs, he⟩ := State.closing_eq h
  rw [he]
  exact Tbl.find?_set_ne _ _ (Ne.symm hk)

end

/-- What a removed vision or serving context leaves: no context, no binding; plans and memory stay. -/
theorem State.dropCtx_leaves {s : State} {n : Nat} {c : Ctx} (h : s.ctx? n = some c) (hg : c.group ≠ 6) :
    (s.dropCtx n).ctxs = s.ctxs.del n ∧ (s.dropCtx n).host.slotBind = s.host.slotBind.filter (fun b => b.2 != n) ∧
      (s.dropCtx n).plans = s.plans ∧ (s.dropCtx n).mem.hbm = s.mem.hbm := by
  simp only [dropCtx, h, hg, beq_iff_eq, if_false]
  cases c.exportId <;> simp [giveQuota]

section
variable {s : State} {q : Req} {c : Ctx} (ho : s.ownCtx q = some c) (hh : s.heldFor (2, q.u16 0) = false)
include ho hh

theorem State.ctxRemove_idle (h : s.ctx? (q.u16 0) = some c) (hr : s.ctxRunning (q.u16 0) = false) :
    s.ctxRemove q = ((s.closing (q.u16 0)).dropCtx (q.u16 0), okR []) := by
  have hr' : (s.closing (q.u16 0)).ctxRunning (q.u16 0) = false :=
    (State.closing_keeps h (·.ctxRunning (q.u16 0)) fun _ _ _ => rfl).trans hr
  unfold closing at *
  simp only [ctxRemove, ho, hh, hr', Bool.false_eq_true, if_false]

theorem State.ctxRemove_running (h : s.ctx? (q.u16 0) = some c) (hr : s.ctxRunning (q.u16 0) = true) :
    s.ctxRemove q = (s.closing (q.u16 0)).accept q (.ctxRemove (q.u16 0)) := by
  have hr' : (s.closing (q.u16 0)).ctxRunning (q.u16 0) = true :=
    (State.closing_keeps h (·.ctxRunning (q.u16 0)) fun _ _ _ => rfl).trans hr
  unfold closing at *
  simp only [ctxRemove, ho, hh, hr', Bool.false_eq_true, if_false, if_true]

end

/-- CTX_REMOVE of a request of its layout. -/
theorem exec_ctxRemove {s : State} {m : Mb} {r : Req} (h : s.runs m 0x0302 true = some r) (hl : r.len = 4) (hz : r.u16 2 = 0) :
    exec (.ctxRemove m) s = .next (((s.taken m).ctxRemove r).1.respond m 0x0302 r.tag ((s.taken m).ctxRemove r).2) :=
  congrArg Host.Outcome.next (State.mbRun_ok (lenIs 4 [(2, 2)]) State.ctxRemove h (lenIs_ok hl fun _ hp => List.mem_singleton.1 hp ▸ hz))

/-! ## CTX_SET -/

/-- A context below Guard that stays so: BURST is the value set, or stays. -/
theorem Ctx.setBy_belowGuard {c : Ctx} {q : Req} (hc : c.cls ≠ 0) (hq : q.u8 2 ≠ 0) (now : Tick) : (c.setBy q now).cls ≠ 0 ∧
    (c.setBy q now).burst = if q.u16 8 = 0 then c.burst else q.u16 8 := by
  have hcls : (if q.u8 2 = 0xFF then c.cls else q.u8 2) ≠ 0 := by split <;> assumption
  simp [setBy, settle, hcls]

/-- The bucket holds no more than its BURST. -/
theorem Ctx.setBy_bucket_le (c : Ctx) (q : Req) (now : Tick) : (c.setBy q now).bucket ≤ (c.setBy q now).burst * tokenUnit := min_le_right ..

/-- Below Guard no Guard check is made. -/
theorem State.ctxSet_belowGuard {s : State} {q : Req} {c : Ctx} (ho : s.ownCtx q = some c) (hv : setOk q = true)
    (hh : s.held (2, q.u16 0) = false) (hc : c.cls ≠ 0) (hq : q.u8 2 ≠ 0) :
    s.ctxSet q = (s.updCtx (q.u16 0) fun c => c.setBy q s.now, okR []) := by
  simp [ctxSet, hq, ho, hv, hh, (Ctx.setBy_belowGuard hc hq s.now).1]

/-- CTX_SET of a request of its layout. -/
theorem exec_ctxSet {s : State} {m : Mb} {r : Req} (h : s.runs m 0x0303 true = some r) (hl : r.len = 20) (hz : field r.pay 3 1 = 0) :
    exec (.ctxSet m) s = .next (((s.taken m).ctxSet r).1.respond m 0x0303 r.tag ((s.taken m).ctxSet r).2) :=
  congrArg Host.Outcome.next (State.mbRun_ok (lenIs 20 [(3, 1)]) State.ctxSet h (lenIs_ok hl fun _ hp => List.mem_singleton.1 hp ▸ hz))

/-- Settles O33: each clause by its command's body on the state whose request was taken. -/
theorem contextsAreCreatedSetAndRemoved : Obligations.ContextsAreCreatedSetAndRemoved := by
  intro s m r
  refine ⟨fun n h hl hz hf ht ho hv hp h6 hh hc hn => ?createPf, fun n v k h hl hz hf ht ho hv hp h6 hh hc hn hk hk' => ?createVf,
    fun h hl hz hf hc => ?vfGuard, fun c h hl hz ho hctx hh hg hr => ?removeIdle, fun c h hl hz ho hctx hh hr hop => ?removeRunning,
    fun c h hl hz ho hctx hv hh hq hc => ?set⟩
  case createPf =>
    have hten : r.tenant = r.u8 0 := by simp [Req.tenant, hf]
    have hmay : (s.taken m).MayCreate r n := ⟨by rw [hten]; exact State.tenantErr_open ht ho, hv, by rw [hten]; exact hp, h6, hh, hc, hn⟩
    obtain ⟨g, hg, hadd⟩ := State.addCtx_belowGuard (s.taken m) hc r.tenant n 0xFFFF
    refine ⟨(s.taken m).withCtx r r.tenant n 0xFFFF, _, g, ?_, hg, State.withCtx_ctx_self .., hten, rfl, rfl, rfl, rfl, rfl, rfl,
      newCtx_burst hc .., rfl, rfl, rfl, rfl, rfl, newCtx_tokens .., fun k hk => State.withCtx_ctx_ne _ _ _ _ hk, rfl⟩
    rw [exec_ctxCreate h hl hz, hmay.ctxCreate_pf hf, hadd]
  case createVf =>
    have hten : r.tenant = v := by simp [Req.tenant, hf]
    have hmay : (s.taken m).MayCreate r n := ⟨by rw [hten]; exact State.tenantErr_open ht ho, hv, by rw [hten]; exact hp, h6, hh, hc, hn⟩
    obtain ⟨g, hg, hadd⟩ := State.addCtx_belowGuard (s.taken m) hc r.tenant n k
    refine ⟨(s.taken m).withCtx r r.tenant n k, _, g, ?_, hg, State.withCtx_ctx_self .., hten, rfl,
      hten ▸ State.withCtx_slotBind_vf _ _ _ _ hk', fun j hj => State.withCtx_ctx_ne _ _ _ _ hj⟩
    rw [exec_ctxCreate h hl hz, hmay.ctxCreate_vf hf hk, hadd]
  case vfGuard => rw [exec_ctxCreate h hl hz, State.ctxCreate_vfGuard _ hf hc]; rfl
  case removeIdle =>
    have hctx' : (s.taken m).ctx? (r.u16 0) = some c := hctx
    obtain ⟨hctxs, hbind, hplans, hhbm⟩ := State.dropCtx_leaves (State.closing_ctx_self hctx') (by unfold Ctx.closing; split <;> exact hg)
    refine ⟨((s.taken m).closing (r.u16 0)).dropCtx (r.u16 0), ?_, ?_, fun k hk => ?_, ?_, ?_, ?_⟩
    · rw [exec_ctxRemove h hl hz, State.ctxRemove_idle (s := s.taken m) ho hh hctx' hr]
    · rw [State.ctx?, hctxs, Tbl.find?_del_self]
    · rw [State.ctx?, hctxs, Tbl.find?_del_ne _ (Ne.symm hk)]; exact State.closing_ctx_ne hctx' hk
    · rw [hbind]; exact fun b hb => by simpa using (List.mem_filter.1 hb).2
    · exact hplans.trans (State.closing_keeps hctx' State.plans fun _ _ _ => rfl)
    · exact hhbm.trans (State.closing_keeps hctx' (·.mem.hbm) fun _ _ _ => rfl)
  case removeRunning =>
    have hctx' : (s.taken m).ctx? (r.u16 0) = some c := hctx
    have hlast : ((s.taken m).closing (r.u16 0)).mason.lastOp = s.mason.lastOp := State.closing_keeps hctx' (·.mason.lastOp) fun _ _ _ => rfl
    refine ⟨(((s.taken m).closing (r.u16 0)).accept r (.ctxRemove (r.u16 0))).1, ?_, State.closing_ctx_self hctx', fun k hk => State.closing_ctx_ne hctx' hk⟩
    rw [exec_ctxRemove h hl hz, State.ctxRemove_running (s := s.taken m) ho hh hctx' hr, State.accept, hlast, if_pos hop]
  case set =>
    refine ⟨(s.taken m).updCtx (r.u16 0) fun c => c.setBy r s.now, c.setBy r s.now, ?_, State.updCtx_some (s := s.taken m) hctx _, ?_, ?_,
      (Ctx.setBy_belowGuard hc hq s.now).2, ?_, Ctx.setBy_bucket_le .., rfl, rfl, fun k hk => State.updCtx_ctx_ne _ _ hk⟩
    · rw [exec_ctxSet h hl hz, State.ctxSet_belowGuard (s := s.taken m) ho hv hh hc hq]; rfl
    all_goals simp [Ctx.setBy, Ctx.settle]

end Sys2Proof.Machine
end

section
/-! SUPPORT. The element formats: integers (R63) and E8M10 as the top of an FP32 word (R58, R59). -/

namespace Sys2Proof.Machine

/-! ## Words in a run -/

theorem slice_length_self (bs : List Byte) : slice bs 0 bs.length = bs := by simp [slice]

theorem field_leBytes (n k : Nat) : field (leBytes n k) 0 n = k % 256 ^ n := by
  have hs := slice_length_self (leBytes n k)
  rw [leBytes_length] at hs
  rw [field, hs, leNat_leBytes]

/-- The first element of a run of one whole word is the word. -/
theorem elemWord_leBytes {c n : Nat} (h4 : elemBits c ≠ 4) (h6 : elemBits c ≠ 6) (hn : n < 256 ^ (elemBits c / 8)) :
    elemWord c (leBytes (elemBits c / 8) n) 0 = n := by
  unfold elemWord
  split
  · exact absurd ‹_› h4
  · exact absurd ‹_› h6
  · rw [Nat.zero_mul, field_leBytes, Nat.mod_eq_of_lt hn]

/-- A byte of a format of 4 bits holds two elements, the first in its low half (R57). -/
theorem elemWord_nibbles {c : Nat} (h4 : elemBits c = 4) {n : Nat} (hn : n < 2 ^ 4) (m : Nat) :
    elemWord c (leBytes 1 (n + 16 * m)) 0 = n ∧ elemWord c (leBytes 1 (n + 16 * m)) 1 = m % 2 ^ 4 := by
  simp only [elemWord, h4, Nat.zero_div, Nat.reduceDiv, field_leBytes, bitsOf, Nat.zero_mod, Nat.one_mod, Nat.mul_zero, Nat.mul_one,
    Nat.reduceAdd, Nat.reduceSub, Nat.pow_zero, Nat.div_one]
  omega

/-! ## Integers (R63) -/

theorem valDy_dyVal_integer (x : Int) (z : Bool) : valDy (dyVal ⟨x, 0⟩ z) = ⟨x, 0⟩ := by
  unfold dyVal
  split
  next h0 =>
    obtain rfl : x = 0 := by simpa using h0
    cases z <;> rfl
  next =>
    by_cases hneg : x < 0
    · simp only [valDy, hneg, decide_true, if_true, Dy.mk.injEq, and_true]; omega
    · simp only [valDy, hneg, decide_false, Bool.false_eq_true, if_false, Dy.mk.injEq, and_true]; omega

theorem signed_of_lt {w n : Nat} (h : n < 2 ^ w) : signed w n = if n < 2 ^ (w - 1) then (n : Int) else (n : Int) - 2 ^ w := by
  rw [signed, Nat.mod_eq_of_lt h]

theorem valDy_elemVal_int16 (run : List Byte) (i : Nat) : valDy (elemVal 0x0E run [] i) = ⟨signed 16 (elemWord 0x0E run i), 0⟩ :=
  valDy_dyVal_integer ..

theorem valDy_elemVal_int8 (run : List Byte) (i : Nat) : valDy (elemVal 0x0F run [] i) = ⟨signed 8 (elemWord 0x0F run i), 0⟩ :=
  valDy_dyVal_integer ..

theorem valDy_elemVal_uint8 (run : List Byte) (i : Nat) : valDy (elemVal 0x10 run [] i) = ⟨(elemWord 0x10 run i : Int), 0⟩ := rfl

theorem valDy_elemVal_int4 (run : List Byte) (i : Nat) : valDy (elemVal 0x11 run [] i) = ⟨signed 4 (elemWord 0x11 run i), 0⟩ :=
  valDy_dyVal_integer ..

/-- Settles O22: each element word is read back whole, and taken as a number of its width. -/
theorem integerFormatsAreTwosComplement : Obligations.IntegerFormatsAreTwosComplement := by
  refine ⟨fun n hn => ?int16, fun n hn => ?int8, fun n hn => ?uint8, fun n m hn hm => ?int4⟩
  case int16 =>
    have hw : elemWord 0x0E (leBytes 2 n) 0 = n := elemWord_leBytes (c := 0x0E) (by decide) (by decide) hn
    rw [valDy_elemVal_int16, hw, signed_of_lt hn]
  case int8 =>
    have hw : elemWord 0x0F (leBytes 1 n) 0 = n := elemWord_leBytes (c := 0x0F) (by decide) (by decide) hn
    rw [valDy_elemVal_int8, hw, signed_of_lt hn]
  case uint8 =>
    have hw : elemWord 0x10 (leBytes 1 n) 0 = n := elemWord_leBytes (c := 0x10) (by decide) (by decide) hn
    rw [valDy_elemVal_uint8, hw]
  case int4 =>
    obtain ⟨hlow, hhigh⟩ := elemWord_nibbles (c := 0x11) rfl hn m
    rw [Nat.mod_eq_of_lt hm] at hhigh
    rw [valDy_elemVal_int4, valDy_elemVal_int4, hlow, hhigh, signed_of_lt hn, signed_of_lt hm]
    exact ⟨rfl, rfl⟩

/-! ## E8M10 (R58, R59) -/

/-- The same value with `k` more bits of mantissa. -/
def Val.finer (k : Nat) : Val → Val
  | .fin n m e => .fin n (m * 2 ^ k) (e - k)
  | v => v

/-- Sign, exponent and mantissa of a word of a format with infinities: one equation for its four kinds of value (R58, R60). -/
theorem decodeF_ieee {f : FFmt} (hf : f.kind = 0) (w : Nat) : decodeF f w =
    if bitsOf w (f.eb + f.mb - 1) f.mb = 2 ^ f.eb - 1 then (if w % 2 ^ f.mb = 0 then .inf (bitOf w (f.eb + f.mb)) else .nan)
    else if bitsOf w (f.eb + f.mb - 1) f.mb = 0 then .fin (bitOf w (f.eb + f.mb)) (w % 2 ^ f.mb) (1 - f.bias - f.mb)
    else .fin (bitOf w (f.eb + f.mb)) (2 ^ f.mb + w % 2 ^ f.mb) ((bitsOf w (f.eb + f.mb - 1) f.mb : Int) - f.bias - f.mb) := by
  simp [decodeF, hf]

/-- A word of a format with infinities, followed by `k` zero bits, has the same value in the format with `k` more bits of mantissa. -/
theorem decodeF_mul_two_pow {f : FFmt} (hf : f.kind = 0) (hpos : 0 < f.eb) (k maxM : Nat) (maxE : Int) (w : Nat) :
    decodeF ⟨f.eb, f.mb + k, f.bias, 0, maxM, maxE⟩ (w * 2 ^ k) = (decodeF f w).finer k := by
  have hk : 0 < 2 ^ k := Nat.two_pow_pos k
  have hsign : bitOf (w * 2 ^ k) (f.eb + (f.mb + k)) = bitOf w (f.eb + f.mb) := by
    rw [bitOf, bitOf, ← Nat.add_assoc, Nat.pow_add, Nat.mul_div_mul_right _ _ hk]
  have hexp : bitsOf (w * 2 ^ k) (f.eb + (f.mb + k) - 1) (f.mb + k) = bitsOf w (f.eb + f.mb - 1) f.mb := by
    rw [bitsOf, bitsOf, Nat.pow_add, Nat.mul_div_mul_right _ _ hk]
    congr 2; omega
  have hman : w * 2 ^ k % 2 ^ (f.mb + k) = w % 2 ^ f.mb * 2 ^ k := by rw [Nat.pow_add, Nat.mul_mod_mul_right]
  have hzero : w % 2 ^ f.mb * 2 ^ k = 0 ↔ w % 2 ^ f.mb = 0 := by simp
  have hlead : 2 ^ (f.mb + k) + w % 2 ^ f.mb * 2 ^ k = (2 ^ f.mb + w % 2 ^ f.mb) * 2 ^ k := by rw [Nat.pow_add, Nat.add_mul]
  rw [decodeF_ieee rfl, decodeF_ieee hf]
  simp only [hsign, hexp, hman, hzero, hlead, Nat.cast_add]
  split_ifs
  · rfl
  · rfl
  · simp only [Val.finer, Val.fin.injEq, true_and]; omega
  · simp only [Val.finer, Val.fin.injEq, true_and]; omega

theorem elemVal_e8m10 {w : Nat} (hw : w < 2 ^ 32) : elemVal 0x02 (leBytes 4 w) [] 0 = decodeF fmtE8M10 (w / 2 ^ 13) := by
  have hword : elemWord 0x02 (leBytes 4 w) 0 = w := elemWord_leBytes (c := 0x02) (by decide) (by decide) hw
  calc elemVal 0x02 (leBytes 4 w) [] 0 = decodeF fmtE8M10 (elemWord 0x02 (leBytes 4 w) 0 / 2 ^ 13) := rfl
    _ = decodeF fmtE8M10 (w / 2 ^ 13) := by rw [hword]

/-- The container with bits [12:0] zero holds as FP32 what the element holds. -/
theorem f32Val_e8m10 {w : Nat} (hw : w < 2 ^ 32) :
    f32Val (BitVec.ofNat 32 (w / 2 ^ 13 * 2 ^ 13)) = (elemVal 0x02 (leBytes 4 w) [] 0).finer 13 := by
  have hlt : w / 2 ^ 13 * 2 ^ 13 < 2 ^ 32 := (Nat.div_mul_le_self ..).trans_lt hw
  rw [elemVal_e8m10 hw, f32Val, BitVec.toNat_ofNat, Nat.mod_eq_of_lt hlt]
  exact decodeF_mul_two_pow (f := fmtE8M10) rfl (by decide) 13 _ _ _

theorem convRun_e8m10 (v : Val) : (convRun 0x02 [v]).1 = leBytes 4 ((convF fmtE8M10 false v).1 * 2 ^ 13) := by
  have hpack : (convRun 0x02 [v]).1 = packWords 32 [(convF fmtE8M10 false v).1 * 2 ^ 13] := rfl
  simp [hpack, packWords, ceilDiv]

/-- Settles O23: the top bits of the container followed by zeros are the FP32 word of the same value. -/
theorem e8M10IsTheTopOfAnFP32Word : Obligations.E8M10IsTheTopOfAnFP32Word := by
  refine ⟨fun w hw => ?_, fun v => ⟨_, convRun_e8m10 v⟩⟩
  rw [f32Val_e8m10 hw]
  exact ⟨fun n m e h => congrArg (Val.finer 13) h, fun n h => congrArg (Val.finer 13) h, congrArg (Val.finer 13)⟩

end Sys2Proof.Machine
end

section
/-! SUPPORT. BED and DRESS: joining a unit's queue, running its oldest entry, and what single operations compute (R65-R72, R79, R85). -/

namespace Sys2Proof.Machine

/-! ## Joining the queue (R79) -/

/-- A unit's queue with room takes the instruction, and the Chisel goes on. -/
theorem State.dispatch_room {s : State} {a : Ash} {k : Nat} {p : Part} {c : Chisel} (h : s.issues a k = some (p, c)) {op : UnitOp}
    (hq : (c.queueOf op.unit).length < 16) : s.dispatch a k op = s.updChisel a.part a.slot fun c =>
      { c with units := c.units ++ [⟨c.nextDesc, c.pc, c.a, op⟩], nextDesc := c.nextDesc + 1, pc := c.pc + 8 } := by
  obtain ⟨hat, -⟩ := State.issues_some h
  rw [State.dispatch, State.issue_run h]
  simp only [if_neg hq.not_ge, hat]
  rfl

/-- A full queue whose oldest entry may not run leaves the Chisel where it is. -/
theorem State.dispatch_full {s : State} {a : Ash} {k : Nat} {p : Part} {c : Chisel} (h : s.issues a k = some (p, c)) {op : UnitOp}
    (hq : 16 ≤ (c.queueOf op.unit).length) (hu : s.unitStep a op.unit = none) : s.dispatch a k op = s := by
  obtain ⟨hat, -⟩ := State.issues_some h
  rw [State.dispatch, State.issue_run h]
  simp only [if_pos hq, hu, Option.getD_none, hat]

/-! ## Running an entry (R79, R85, R255, R258) -/

/-- The state that an entry runs on: the entry has left its queue. -/
def State.taking (s : State) (a : Ash) (j : UnitJob) : State :=
  s.updChisel a.part a.slot fun x => { x with units := dropFirst (fun k => k == j) x.units }

/-- What a Bed operation leaves: its state, with the Chisel's accumulators and stationary block, and its counters. -/
def State.bedDone (s : State) (a : Ash) (c : Chisel) (f : PartCounters → PartCounters) : State :=
  (s.updChisel a.part a.slot fun x => { x with acc := c.acc, stat := c.stat }).updPartCtr a.part f

section
variable {s s1 : State} {a : Ash} {p : Part} {c c1 : Chisel} {j : UnitJob} {f : PartCounters → PartCounters} {e : Nat}

/-- The oldest entry of a unit, where it may run, runs. -/
theorem State.unitStep_head (hat : s.chiselAt a = some (p, c)) {u : Nat} (hj : (c.queueOf u).head? = some j) (hrun : s.mayRun p a.slot c j = true) :
    s.unitStep a u = some (s.runJob a.part a.slot p c j) := by
  simp [unitStep, hat, hj, hrun]

theorem State.runOp_bed_ok {op : BedOp} {err : Option HwErr} (hop : j.op = .bed op err) (h : s.bedOp p a.slot { c with a := j.a } op = .ok (s1, c1, f)) :
    s.runOp a.part a.slot p c j = s1.bedDone a c1 f := by
  simp only [runOp, hop, h, bedDone]

theorem State.runOp_bed_error {op : BedOp} {err : Option HwErr} (hop : j.op = .bed op err) (h : s.bedOp p a.slot { c with a := j.a } op = .error e) :
    s.runOp a.part a.slot p c j = s.planError a.part a.slot e j.pc := by
  simp only [runOp, hop, h]

theorem State.runOp_dress_ok {op : DressOp} {err : Option HwErr} (hop : j.op = .dress op err) (h : s.dressOp p a.slot { c with a := j.a } op = .ok (s1, f)) :
    s.runOp a.part a.slot p c j = s1.updPartCtr a.part f := by
  simp only [runOp, hop, h]

theorem State.runOp_dress_error {op : DressOp} {err : Option HwErr} (hop : j.op = .dress op err)
    (h : s.dressOp p a.slot { c with a := j.a } op = .error e) : s.runOp a.part a.slot p c j = s.planError a.part a.slot e j.pc := by
  simp only [runOp, hop, h]

/-- An entry that reports no hardware error has the effect of its operation. -/
theorem State.runJob_clean (herr : j.op.err = none) : s.runJob a.part a.slot p c j = (s.taking a j).runOp a.part a.slot p c j := by
  simp only [runJob, herr, taking]

/-- A residue error is reported after the operation, at the slice of its column or lane. -/
theorem State.runJob_residue {n : Nat} (herr : j.op.err = some (.residue n)) :
    s.runJob a.part a.slot p c j = ((s.taking a j).runOp a.part a.slot p c j).ashlarError a.part p a.slot 3 n (j.op.slice n) := by
  simp only [runJob, herr, taking, tileErr]

end

/-! ## Operands -/

theorem need_true {b : Bool} (h : b = true) : need b = .ok ⟨⟩ := if_pos h

section
variable {s : State} {p : Part} {l a n : Nat}

theorem State.unitRead_ok {cb : Bool} (h : s.unitOk p l cb a n = true) : s.unitRead p l cb a n = .ok (s.readRange p l a n) := if_pos h

theorem State.unitWrite_ok {bs : List Byte} (h : s.unitOk p l false a bs.length = true) : s.unitWrite p l a bs = .ok (s.writeRange p l a bs) := if_pos h

theorem State.fp32s_ok {c : Chisel} (ha : a < 16) (h : s.unitOk p l false (c.ar a) (4 * n) = true) :
    s.fp32s p l c a n = .ok ((List.range n).map fun i => word32 (s.readRange p l (c.ar a) (4 * n)) (4 * i)) := by
  rw [fp32s, need_true (decide_eq_true ha), unitRead_ok h]
  rfl

end

/-- `n` words take `4 n` bytes. -/
theorem flatten_words_length (n : Nat) (w : Nat → Nat) : ((List.range n).map fun j => leBytes 4 (w j)).flatten.length = 4 * n := by
  simp [List.length_flatten, Function.comp_def, Nat.mul_comm]

/-! ## Operations (R65-R72) -/

section
variable {s : State} {p : Part} {l : Nat} {c : Chisel}

/-- A readout without conversion stores the accumulators of its columns. -/
theorem State.bedOp_readoutWords {entry cols r sc : Nat} (int : Bool) (he : entry < 64) (h1 : 1 ≤ cols) (h2 : cols ≤ 128) (hr : r < 16) (hsc : sc < 16)
    (hok : s.unitOk p l false (c.ar r) (4 * cols) = true) : s.bedOp p l c (.readout int entry cols 0 r sc) =
      .ok (s.writeRange p l (c.ar r) ((List.range cols).map fun j => leBytes 4 (c.accAt j entry).toNat).flatten, c, id) := by
  have hlegal : ((ctrlOk 0 || (0 : Nat) == 0) && decide (entry < 64) && btw 1 cols 128 && decide (r < 16) && decide (sc < 16)) = true := by
    simp [btw, he, h1, h2, hr, hsc]
  rw [← flatten_words_length cols fun j => (c.accAt j entry).toNat] at hok
  simp only [bedOp]
  rw [need_true hlegal]
  simp only [List.map_map, Function.comp_def, beq_self_eq_true, if_true]
  rw [unitWrite_ok hok]
  rfl

/-- Loading initial values sets an accumulator to its word; in Deterministic mode to +0 (R70). -/
theorem State.bedOp_startOne {entry r : Nat} (int : Bool) (he : entry < 64) (hr : r < 16) (hok : s.unitOk p l false (c.ar r) 4 = true) :
    s.bedOp p l c (.start int entry 1 r none) =
      .ok (s, c.setAcc 0 entry (match s.planOf p with
          | some pl => if bitOf pl.flags 0 then 0 else word32 (s.readRange p l (c.ar r) 4) 0
          | none => word32 (s.readRange p l (c.ar r) 4) 0),
        accEvents int (match s.planOf p with | some pl => bitOf pl.flags 2 | none => false) 0) := by
  have hlegal : (decide (entry < 64) && btw 1 1 128 && decide (r < 16)) = true := by simp [btw, he, hr]
  simp only [bedOp, need_true hlegal]
  rw [unitRead_ok hok]
  cases s.planOf p with
  | none => rfl
  | some pl =>
    by_cases hdet : bitOf pl.flags 0 = true
    · simp only [if_pos hdet]; rfl
    · simp only [if_neg hdet]; rfl

/-- Nothing streams against a stationary block that was never loaded. -/
theorem State.bedOp_streamUnloaded (ctrl : Nat) (src : BedSrc) (entry : Nat) (hs : c.stat = none) :
    ∃ e, s.bedOp p l c (.stream ctrl src entry) = .error e := by
  refine ⟨1, ?_⟩
  simp only [bedOp, hs]
  cases hlegal : ctrlOk ctrl && decide (entry < 64) <;> rfl

/-- A row sum stores one word. -/
theorem State.dressOp_rowSum {n r dst : Nat} (h1 : 1 ≤ n) (h2 : n ≤ 262144) (hr : r < 16) (hd : dst < 16)
    (hsrc : s.unitOk p l false (c.ar r) (4 * n) = true) (hdst : s.unitOk p l false (c.ar dst) 4 = true) :
    s.dressOp p l c (.rowSum n r dst) = .ok (s.writeRange p l (c.ar dst)
      (leBytes 4 (rowSum ((List.range n).map fun i => word32 (s.readRange p l (c.ar r) (4 * n)) (4 * i))).toNat), id) := by
  have hlegal : (btw 1 n rowMax && decide (dst < 16)) = true := by simp [btw, rowMax, h1, h2, hd]
  simp only [dressOp, need_true hlegal, fp32s_ok hr hsrc]
  refine (congrArg (· >>= fun t : State => Except.ok (t, id)) (unitWrite_ok ?_)).trans rfl
  rwa [leBytes_length]

end

/-- Settles O27: joining a queue by `dispatch`, running an entry by `runJob`, and the operations by their equations. -/
theorem bedAndDressingOperations : Obligations.BedAndDressingOperations := by
  refine ⟨fun s a p c => ⟨fun op err h => ?bed, fun op err h => ?dress⟩, fun s u a p c j hat hrun hu => ?run, fun s p l c => ?operations⟩
  case bed =>
    exact ⟨fun hq => congrArg Host.Outcome.next (State.dispatch_room h (op := .bed op err) hq),
      fun hq hstep => congrArg Host.Outcome.next (State.dispatch_full h (op := .bed op err) hq hstep)⟩
  case dress =>
    exact ⟨fun hq => congrArg Host.Outcome.next (State.dispatch_room h (op := .dress op err) hq),
      fun hq hstep => congrArg Host.Outcome.next (State.dispatch_full h (op := .dress op err) hq hstep)⟩
  case run =>
    obtain rfl : u = s.taking a j := hu
    refine ⟨fun op s1 c1 f hj h => ⟨fun hop => ?bedOk, fun n hop => ?bedResidue⟩, fun op e hj hop h => ?bedError,
      fun op s1 f hj h => ⟨fun hop => ?dressOk, fun n hop => ?dressResidue⟩, fun op e hj hop h => ?dressError⟩
    all_goals rw [State.unitStep_head hat hj hrun]
    case bedOk => rw [State.runJob_clean (by rw [hop]; rfl), State.runOp_bed_ok hop h]; rfl
    case bedResidue => rw [State.runJob_residue (by rw [hop]; rfl), State.runOp_bed_ok hop h, hop]; rfl
    case bedError => rw [State.runJob_clean (by rw [hop]; rfl), State.runOp_bed_error hop h]
    case dressOk => rw [State.runJob_clean (by rw [hop]; rfl), State.runOp_dress_ok hop h]
    case dressResidue => rw [State.runJob_residue (by rw [hop]; rfl), State.runOp_dress_ok hop h, hop]; rfl
    case dressError => rw [State.runJob_clean (by rw [hop]; rfl), State.runOp_dress_error hop h]
  case operations =>
    exact ⟨fun int _ _ _ _ he h1 h2 hr hsc hok => State.bedOp_readoutWords int he h1 h2 hr hsc hok,
      fun int _ _ he hr hok => State.bedOp_startOne int he hr hok,
      fun _ _ _ h1 h2 hr hd hsrc hdst => State.dressOp_rowSum h1 h2 hr hd hsrc hdst,
      fun ctrl src entry hs => State.bedOp_streamUnloaded ctrl src entry hs⟩

end Sys2Proof.Machine
end

section
/-! SUPPORT. The Chisel's own computing instructions: SCALAR, ADDR, BRANCH and TEMPLATE (R79, R80, R83, R85). -/

namespace Sys2Proof.Machine

/-! ## Registers (R80) -/

namespace Chisel

variable (c : Chisel)

@[simp] theorem gr_setG_zero (i : Nat) (v : W64) : (c.setG i v).gr 0 = 0 := by simp [gr]

theorem gr_setG_self {i : Nat} (h : i ≠ 0) (v : W64) : (c.setG i v).gr i = v := by simp [gr, setG, h]

theorem gr_setG_ne {i k : Nat} (h : k ≠ i) (v : W64) : (c.setG i v).gr k = c.gr k := by
  by_cases hi : i = 0
  · simp [setG, hi]
  · simp only [gr, setG, if_neg hi]
    rw [Tbl.get_set_ne 0 c.g v h.symm]

@[simp] theorem setG_zero (v : W64) : c.setG 0 v = c := if_pos rfl

/-- A write of a G register leaves every other field. -/
theorem setG_keeps {γ : Type} (φ : Chisel → γ) (hφ : ∀ x, φ { c with g := x } = φ c) (i : Nat) (v : W64) : φ (c.setG i v) = φ c := by
  unfold setG
  split
  · rfl
  · exact hφ _

@[simp] theorem ar_setA_self (i v : Nat) : (c.setA i v).ar i = v % 2 ^ 48 := by simp [ar, setA]

theorem ar_setA_ne {i k : Nat} (h : k ≠ i) (v : Nat) : (c.setA i v).ar k = c.ar k := by
  simp [ar, setA, Tbl.get_set_ne 0 c.a _ h.symm]

end Chisel

/-! ## SCALAR (R83) -/

/-- A SCALAR instruction with a result writes it and retires. -/
theorem exec_scalar {s : State} {a : Ash} {p : Part} {c : Chisel} {op : ScalarOp} {rd rs rt : Nat} {v : W64} (h : s.issues a 0 = some (p, c))
    (hd : rd < 32) (hs : rs < 32) (ht : rt < 32) (hv : scalarVal op (c.gr rs) (c.gr rt) = some v) :
    exec (.scalar a op rd rs rt) s = .next (s.updChisel a.part a.slot fun c => { c.setG rd v with pc := c.pc + 8 }) := by
  have hx : exec (.scalar a op rd rs rt) s = execScalar a op rd rs rt s := rfl
  rw [hx, execScalar, State.issue_run h]
  simp [hv, hd, hs, ht, State.retire]

/-- A shift answers a value for every count. -/
theorem scalarVal_shift {op : ScalarOp} (h : op ∈ [ScalarOp.shl, .shr, .sar]) (x y : W64) : ∃ v, scalarVal op x y = some v := by
  simp only [List.mem_cons, List.not_mem_nil, or_false] at h
  rcases h with rfl | rfl | rfl <;> exact ⟨_, rfl⟩

/-! ## ADDR (R83) -/

/-- An ADDR instruction with a legal encoding writes its register and retires. -/
theorem exec_addr {s : State} {a : Ash} {p : Part} {c c' : Chisel} {op : AddrOp} (h : s.issues a 2 = some (p, c)) (hv : addrVal c op = some c') :
    exec (.addr a op) s = .next (s.updChisel a.part a.slot fun _ => { c' with pc := c.pc + 8 }) := by
  obtain ⟨hat, -⟩ := State.issues_some h
  obtain ⟨hp, rfl, -⟩ := State.chiselAt_some hat
  have hx : exec (.addr a op) s = execAddr a op s := rfl
  rw [hx, execAddr, State.issue_run h]
  simp only [hv]
  exact congrArg Host.Outcome.next (State.updChisel_congr hp _ rfl)

/-! ## BRANCH (R83, R85) -/

section
variable {s : State} {a : Ash} {p : Part} {c : Chisel} {op : BranchOp} {t : Nat} (h : s.issues a 1 = some (p, c))
include h

theorem exec_branch {taken : Bool} {c' : Chisel} (hb : branchTaken c op = some (taken, c')) (ht : t % 8 = 0) : exec (.branch a op t) s =
    .next (if s.codeLen p ≤ t then s.planError a.part a.slot 4 c.pc
      else s.updChisel a.part a.slot fun _ => { c' with pc := if taken then t else c.pc + 8 }) := by
  have hx : exec (.branch a op t) s = execBranch a op t s := rfl
  rw [hx, execBranch, State.issue_run h]
  simp [hb, ht, State.perr]

/-- A target within the code section: the pc moves there where the branch is taken. -/
theorem exec_branch_inside {taken : Bool} {c' : Chisel} (hb : branchTaken c op = some (taken, c')) (ht : t % 8 = 0) (hlt : t < s.codeLen p) :
    exec (.branch a op t) s = .next (s.updChisel a.part a.slot fun _ => { c' with pc := if taken then t else c.pc + 8 }) := by
  rw [exec_branch h hb ht, if_neg (by omega)]

/-- A target outside the code section is PE_CODE. -/
theorem exec_branch_outside {taken : Bool} {c' : Chisel} (hb : branchTaken c op = some (taken, c')) (ht : t % 8 = 0) (hle : s.codeLen p ≤ t) :
    exec (.branch a op t) s = .next (s.planError a.part a.slot 4 c.pc) := by
  rw [exec_branch h hb ht, if_pos hle]

theorem exec_branch_illegal : exec (.branch a .illegal t) s = .next (s.planError a.part a.slot 1 c.pc) := by
  have hx : exec (.branch a .illegal t) s = execBranch a .illegal t s := rfl
  rw [hx, execBranch, State.issue_run h]
  rfl

end

/-- Settles O17: each condition by what `branchTaken` answers, for a target inside the code section and for one outside. -/
theorem branchesMoveThePc : Obligations.BranchesMoveThePc := by
  intro s a p c i j t h hi hj ht
  have heq : branchTaken c (.eq i j) = some (c.gr i == c.gr j, c) := by simp [branchTaken, hi, hj]
  have hne : branchTaken c (.ne i j) = some (c.gr i != c.gr j, c) := by simp [branchTaken, hi, hj]
  have hlt : branchTaken c (.lt i j) = some ((c.gr i).slt (c.gr j), c) := by simp [branchTaken, hi, hj]
  have hge : branchTaken c (.ge i j) = some (!(c.gr i).slt (c.gr j), c) := by simp [branchTaken, hi, hj]
  have hcount : branchTaken c (.counted i) = some (c.gr i - 1 != 0, c.setG i (c.gr i - 1)) := by simp [branchTaken, hi]
  refine ⟨fun hin => ⟨?eq, ?ne, ?lt, ?ge, ?counted⟩, fun hout => exec_branch_outside h heq ht hout, exec_branch_illegal h⟩
  case eq => rw [exec_branch_inside h heq ht hin]; simp
  case ne => rw [exec_branch_inside h hne ht hin]; simp
  case lt => rw [exec_branch_inside h hlt ht hin]; simp [BitVec.slt]
  case ge => rw [exec_branch_inside h hge ht hin]; by_cases hl : (c.gr i).toInt < (c.gr j).toInt <;> simp [BitVec.slt, hl]
  case counted => rw [exec_branch_inside h hcount ht hin]; simp

/-! ## TEMPLATE (R79, R83) -/

/-- A loop nest that a port accepts joins the Template unit's queue. -/
theorem exec_template_nest {s : State} {a : Ash} {p : Part} {c : Chisel} {port base : Nat} {loops : List Loop} (err : Option HwErr)
    (hat : s.chiselAt a = some (p, c)) (hp : port < 3) (hb : base < 16) (hl : loops.length ≤ 8) :
    exec (.template a port ⟨.nest base loops, err⟩) s = .next (s.dispatch a 3 (.template port (.nest base loops) err)) := by
  have hx : exec (.template a port ⟨.nest base loops, err⟩) s = execTemplate a port ⟨.nest base loops, err⟩ s := rfl
  rw [hx, execTemplate]
  simp [hat, hp, hb, hl, State.templateOk]

/-- A template that runs loads its port. -/
theorem State.runJob_template {s : State} {a : Ash} {p : Part} {c : Chisel} {j : UnitJob} {port : Nat} {prog : TemplateProg}
    (hop : j.op = .template port prog none) : s.runJob a.part a.slot p c j = s.updChisel a.part a.slot fun x =>
      { x with units := dropFirst (fun k => k == j) x.units, ports := x.ports.set port ⟨prog⟩ } := by
  rw [State.runJob_clean (by rw [hop]; rfl), State.runOp, hop]
  simp [State.taking, State.updChisel, State.updPart_updPart]

/-- Settles O16: the value of each operation, the write and retirement shared by all, and for TEMPLATE the queue of its unit. -/
theorem scalarAndAddressInstructionsRetire : Obligations.ScalarAndAddressInstructionsRetire := by
  refine ⟨?scalar, ?wide, ?addr, ?template, ?port, fun c i v => ?setG, fun c i v => ?setA⟩
  case scalar =>
    intro s a p c op rd rs rt v h hd hs ht hop
    refine exec_scalar h hd hs ht ?_
    rcases hop with ⟨rfl, rfl⟩ | ⟨rfl, rfl⟩ | ⟨rfl, rfl⟩ | ⟨rfl, rfl⟩ | ⟨rfl, rfl⟩ | ⟨rfl, rfl⟩ | ⟨rfl, hlt, rfl⟩ | ⟨rfl, hlt, rfl⟩ |
      ⟨rfl, hlt, rfl⟩ | ⟨rfl, rfl⟩ | ⟨rfl, rfl⟩ | ⟨rfl, rfl⟩
    case _ | _ | _ | _ | _ | _ => rfl
    case _ | _ | _ => simp [scalarVal, hlt]
    case _ | _ | _ => simp [scalarVal, wordOf, BitVec.slt, BitVec.ult]
  case wide =>
    intro s a p c rd rs rt h hd hs ht _ op hop
    obtain ⟨v, hv⟩ := scalarVal_shift hop (c.gr rs) (c.gr rt)
    exact ⟨v, exec_scalar h hd hs ht hv⟩
  case addr =>
    intro s a p c i j k h hi hj hk
    exact ⟨exec_addr h (by simp [addrVal, hi, hj, hk]), exec_addr h (by simp [addrVal, hi, hj, hk]),
      exec_addr h (by simp [addrVal, hi, hk]), exec_addr h (by simp [addrVal, hj, hk])⟩
  case template =>
    intro s a p c port base loops err h hp hb hl
    obtain ⟨hat, -⟩ := State.issues_some h
    rw [exec_template_nest err hat hp hb hl]
    exact ⟨fun hq => congrArg Host.Outcome.next (State.dispatch_room h (op := .template port (.nest base loops) err) hq),
      fun hq hu => congrArg Host.Outcome.next (State.dispatch_full h (op := .template port (.nest base loops) err) hq hu)⟩
  case port =>
    intro s a p c j port prog hat hj hop hrun
    obtain ⟨hp, rfl, -⟩ := State.chiselAt_some hat
    rw [State.unitStep_head hat hj hrun, State.runJob_template hop]
    exact ⟨_, _, rfl, State.updChisel_part hp .., Part.chisel_upd .., State.updPart_mem .., State.updPart_tiles ..⟩
  case setG =>
    exact ⟨c.gr_setG_zero i v, fun h => c.gr_setG_self h v, fun k h => c.gr_setG_ne h v, c.setG_keeps Chisel.a (fun _ => rfl) i v,
      c.setG_keeps Chisel.acc (fun _ => rfl) i v, c.setG_keeps Chisel.ports (fun _ => rfl) i v, c.setG_zero v⟩
  case setA => exact ⟨c.ar_setA_self i v, fun k h => c.ar_setA_ne h v, rfl⟩

end Sys2Proof.Machine
end

section
/-! SUPPORT. Plan errors (R85). -/

namespace Sys2Proof.Machine

/-- Bytes that fit are filled up with zeros. -/
theorem padTo_of_le {n : Nat} {bs : List Byte} (h : bs.length ≤ n) : padTo n bs = bs ++ List.replicate (n - bs.length) 0 := by
  simp [padTo, slice, List.take_of_length_le h]

@[simp] theorem State.postT_part (s : State) (code kind id : Nat) (d : List Byte) (t : LogTag) (p : Nat) :
    (s.postT code kind id d t).part? p = s.part? p := by simp [part?]

@[simp] theorem State.post_part (s : State) (code kind id : Nat) (d : List Byte) (p : Nat) : (s.post code kind id d).part? p = s.part? p :=
  s.postT_part ..

/-- The partition's record after the first plan error of its batch `j`. -/
def Part.planFailed (p : Part) (j : Job) (code : Nat) : Part :=
  { p with job := some { j with planErr := some code }, ctr.planErrors := sat32 p.ctr.planErrors 1 }

/-- The detail of PLAN_ERROR: partition, code, Ashlar, code offset and job (R85). -/
def planErrorDetail (pid code l off seq : Nat) : List Byte := leBytes 2 pid ++ leBytes 1 code ++ leBytes 1 l ++ leBytes 4 off ++ leBytes 4 seq

section
variable {s : State} {pid : Nat} {p : Part} {j : Job} (h : s.part? pid = some p) (hj : p.job = some j)
include h hj

/-- The first plan error of a batch changes the partition's record and posts PLAN_ERROR. -/
theorem State.planError_first (l code off : Nat) (he : j.planErr = none) : ∃ id, s.planError pid l code off =
    (s.updPart pid fun r => r.planFailed j code).postT 0x0201 3 id (planErrorDetail pid code l off j.seq) { part := pid } := by
  simp only [planError, h, hj, he, Option.isSome_none, Bool.false_eq_true, if_false]
  exact ⟨_, rfl⟩

/-- A later plan error does nothing (log 24). -/
theorem State.planError_later (l code off : Nat) (he : j.planErr ≠ none) : s.planError pid l code off = s := by
  simp [planError, h, hj, Option.isSome_iff_ne_none.2 he]

end

/-- The newest log entry after an event is the event's. -/
theorem State.postT_log_head (s : State) (code kind id : Nat) (d : List Byte) (t : LogTag) :
    ∃ e, (s.postT code kind id d t).flt.log.head? = some e ∧ e.code = code ∧ e.part = t.part ∧ e.detail = padTo 16 d := by
  obtain ⟨-, e, hlog, -, hcode, -, -, -, hdetail, -, -, hpart⟩ := s.postT_log code kind id d t
  exact ⟨e, by rw [hlog]; rfl, hcode, hpart, hdetail⟩

/-- Settles O18: the first plan error by its equation, and what an event and a change of the record leave; a later one does nothing. -/
theorem planErrorsEndTheBatch : Obligations.PlanErrorsEndTheBatch := by
  intro s pid l code off p j h hj
  refine ⟨fun he => ?first, fun he => ⟨State.planError_later h hj l code off he, fun k n => ?stops⟩⟩
  case first =>
    obtain ⟨id, heq⟩ := State.planError_first h hj l code off he
    rw [heq]
    obtain ⟨e, hhead, hcode, hpart, hdetail⟩ := (s.updPart pid fun r => r.planFailed j code).postT_log_head 0x0201 3 id
      (planErrorDetail pid code l off j.seq) { part := pid }
    refine ⟨p.planFailed j code, e, by rw [State.postT_part, State.updPart_part h], rfl, rfl, rfl, rfl, hhead, hcode, hpart, ?_, by simp, by simp,
      by simp, by simp, fun k hk => by rw [State.postT_part, State.updPart_part_ne _ _ hk]⟩
    rw [hdetail, padTo_of_le (by simp [planErrorDetail])]
    simp [planErrorDetail]
  case stops => exact State.issues_none n h (.inr (.inr fun j' hj' => by rw [hj] at hj'; cases hj'; exact he))

end Sys2Proof.Machine
end

section
/-! SUPPORT. Semaphores (R82, R86): adding to one, SIGs that are held or land, WAIT and its grant. -/

namespace Sys2Proof.Machine

/-! ## Records of a partition and its Chisels -/

theorem State.updChisel_part_ne (s : State) {i k : Nat} (l : Nat) (f : Chisel → Chisel) (h : k ≠ i) : (s.updChisel i l f).part? k = s.part? k :=
  State.updPart_part_ne s _ h

/-- `q` is `p` but for how the table of Chisels is written: each of them is as it was. -/
structure Part.Alike (p q : Part) : Prop where
  rest : q = { p with chisels := q.chisels }
  chisel : ∀ l, q.chisel l = p.chisel l

theorem Part.Alike.refl (p : Part) : p.Alike p := ⟨rfl, fun _ => rfl⟩

theorem Part.Alike.trans {p q r : Part} (h : p.Alike q) (h' : q.Alike r) : p.Alike r :=
  ⟨by rw [h'.rest, h.rest], fun l => (h'.chisel l).trans (h.chisel l)⟩

/-- Writing a Chisel's registers as they are. -/
theorem Part.alike_upd {p : Part} {l : Nat} {f : Chisel → Chisel} (h : f (p.chisel l) = p.chisel l) :
    p.Alike { p with chisels := p.chisels.upd {} l f } := by
  refine ⟨rfl, fun i => ?_⟩
  by_cases hi : i = l
  · rw [hi, Part.chisel_upd, h]
  · exact Tbl.get_upd_ne _ _ _ (Ne.symm hi)

/-! ## Adding to a semaphore -/

section
variable {s : State} {pid : Nat} {p : Part} (h : s.part? pid = some p)
include h

/-- A semaphore of the partition whose count stays within 16 bits counts. -/
theorem State.addSem_counts {k n : Nat} (l off : Nat) (hk : k < p.semCount) (hn : p.sems.get 0 k + n ≤ 0xFFFF) :
    s.addSem pid l k n off = s.updPart pid fun r => { r with sems := r.sems.set k (r.sems.get 0 k + n) } := by
  simp only [addSem, h]
  rw [if_neg (by omega), if_neg (by omega)]

end

/-! ## SIG (R82, R86) -/

/-- The state once an instruction without a result has retired, with free values taken. -/
def State.retired (s : State) (a : Ash) (i : Nat) : State := { s.retire a fun c => c with freeIdx := i }

/-- The partition's record then. -/
def Part.retired (p : Part) (l : Nat) : Part := { p with chisels := p.chisels.upd {} l fun c => { c with pc := c.pc + 8 } }

theorem Part.retired_chisel (p : Part) (l : Nat) : (p.retired l).chisel l = { p.chisel l with pc := (p.chisel l).pc + 8 } :=
  Part.chisel_upd ..

theorem State.retired_part {s : State} {a : Ash} {p : Part} (h : s.part? a.part = some p) (i : Nat) :
    (s.retired a i).part? a.part = some (p.retired a.slot) := State.updChisel_part h ..

theorem State.retired_part_ne (s : State) {a : Ash} {k : Nat} (i : Nat) (h : k ≠ a.part) : (s.retired a i).part? k = s.part? k :=
  s.updChisel_part_ne _ _ h

@[simp] theorem State.retired_mem (s : State) (a : Ash) (i : Nat) : (s.retired a i).mem = s.mem := State.updPart_mem ..
@[simp] theorem State.retired_tiles (s : State) (a : Ash) (i : Nat) : (s.retired a i).tiles = s.tiles := State.updPart_tiles ..

/-- A SIG waits for the descriptors `aft` of its Ashlar. -/
def State.holdSig (s : State) (a : Ash) (k n : Nat) (aft : List Nat) : State :=
  s.updChisel a.part a.slot fun c => { c with held := c.held ++ [⟨k, n, aft⟩] }

/-- A count is added to a semaphore. -/
def State.landSig (s : State) (pid k n : Nat) : State := s.updPart pid fun r => { r with sems := r.sems.set k (r.sems.get 0 k + n) }

/-- Descriptors of an Ashlar that have yet to write to a semaphore's Course. -/
def State.writesBefore (s : State) (a : Ash) (p : Part) (c : Chisel) (k : Nat) : List Nat :=
  (c.outstanding.filter fun d => (s.descDests p a.slot d.2).contains (p.semCourse k)).map Prod.fst

section
variable {s : State} {a : Ash} {p : Part} {c : Chisel} {k n : Nat} (h : s.issues a 7 = some (p, c))
include h

theorem exec_sig_unknown (hn1 : 1 ≤ n) (hn2 : n ≤ 255) (hk : p.semCount ≤ k) : exec (.sig a k n) s = .next (s.planError a.part a.slot 3 c.pc) := by
  have hx : exec (.sig a k n) s = execSig a k n s := rfl
  rw [hx, execSig, State.issue_run h]
  simp [hk, show n ≠ 0 by omega, show ¬ 255 < n by omega, State.perr]

/-- SIG on a partition's semaphore retires and is held or has landed; in Coursed ordering it is held exactly where writes to the
semaphore's Course are under way. -/
theorem exec_sig_held_or_landed (hn1 : 1 ≤ n) (hn2 : n ≤ 255) (hk : k < p.semCount) (hc : p.sems.get 0 k + n ≤ 0xFFFF) :
    ∃ (i : Nat) (later : Bool) (aft : List Nat),
      exec (.sig a k n) s = .next (if later then (s.retired a i).holdSig a k n aft else (s.retired a i).landSig a.part k n) ∧
      (p.coursed = true → aft = s.writesBefore a p c k ∧ (later = true ↔ aft ≠ [])) ∧ (p.coursed = false → aft = []) := by
  obtain ⟨hat, -⟩ := State.issues_some h
  obtain ⟨hp, -⟩ := State.chiselAt_some hat
  have hland (i off : Nat) : (s.retired a i).addSem a.part a.slot k n off = (s.retired a i).landSig a.part k n :=
    State.addSem_counts (State.retired_part hp i) _ _ hk hc
  have hx : exec (.sig a k n) s = execSig a k n s := rfl
  rw [hx, execSig, State.issue_run h]
  simp only [show (n == 0 || decide (255 < n)) = false by simp; omega, if_neg (show ¬ p.semCount ≤ k by omega), Bool.false_eq_true, if_false]
  by_cases hcs : p.coursed = true
  · have hret : (s.retire a fun c => c) = s.retired a s.freeIdx :=
      congrArg (fun i => { s.retire a fun c => c with freeIdx := i }) (State.updPart_freeIdx ..)
    refine ⟨s.freeIdx, !(s.writesBefore a p c k).isEmpty, s.writesBefore a p c k, ?_, fun _ => ⟨rfl, by simp⟩, fun hn => by simp [hcs] at hn⟩
    simp only [if_pos hcs, hret, hland]
    cases hb : (s.writesBefore a p c k).isEmpty <;> rw [State.writesBefore] at hb <;> rw [hb] <;> rfl
  · have hfree : (s.retire a fun c => c).free.2 = s.retired a (s.freeIdx + 1) :=
      congrArg (fun i => { s.retire a fun c => c with freeIdx := i + 1 }) (State.updPart_freeIdx ..)
    refine ⟨s.freeIdx + 1, (s.retire a fun c => c).free.1.toNat % 2 == 1, [], ?_, fun hn => absurd hn hcs, fun _ => rfl⟩
    simp only [if_neg hcs, hfree, hland]
    rfl

/-! ## WAIT and SEMRD (R82) -/

theorem exec_wait_unknown (hk : p.semCount ≤ k) : exec (.wait a k n) s = .next (s.planError a.part a.slot 3 c.pc) := by
  have hx : exec (.wait a k n) s = execWait a k n s := rfl
  rw [hx, execWait, State.issue_run h, if_pos hk]
  rfl

/-- A WAIT that the count satisfies and that no other precedes takes its number. -/
theorem exec_wait_satisfied (hk : k < p.semCount) (hn : n ≤ p.sems.get 0 k) (hw : ∀ w ∈ p.waits, w.1 ≠ k) :
    exec (.wait a k n) s = .next ((s.retire a fun c => c).updPart a.part fun r => { r with sems := r.sems.set k (r.sems.get 0 k - n) }) := by
  have hnone : (p.waits.any fun w => w.1 == k) = false := List.any_eq_false.2 fun w hm => by simpa using hw w hm
  have hx : exec (.wait a k n) s = execWait a k n s := rfl
  rw [hx, execWait, State.issue_run h, if_neg (by omega), if_pos (by simp [hn, hnone])]

/-- Any other WAIT stalls its Chisel and stands behind the others. -/
theorem exec_wait_stalls (hk : k < p.semCount) (hw : p.sems.get 0 k < n ∨ ∃ w ∈ p.waits, w.1 = k) : exec (.wait a k n) s =
    .next ((s.updChisel a.part a.slot fun c => { c with stall := .onSem k n }).updPart a.part fun r => { r with waits := r.waits ++ [(k, a.slot, n)] }) := by
  have hcond : ¬ (decide (n ≤ p.sems.get 0 k) && !(p.waits.any fun w => w.1 == k)) = true := by
    rcases hw with hlt | ⟨w, hm, hwk⟩
    · simp [show ¬ n ≤ p.sems.get 0 k by omega]
    · have hany : (p.waits.any fun w => w.1 == k) = true := List.any_eq_true.2 ⟨w, hm, by simp [hwk]⟩
      simp [hany]
  have hx : exec (.wait a k n) s = execWait a k n s := rfl
  rw [hx, execWait, State.issue_run h, if_neg (by omega), if_neg hcond]

theorem exec_semrd {rd : Nat} (hrd : rd < 32) (hk : k < p.semCount) : exec (.semrd a rd k) s =
    .next (s.updChisel a.part a.slot fun c => { c.setG rd (BitVec.ofNat 64 (p.sems.get 0 k)) with pc := c.pc + 8 }) := by
  have hx : exec (.semrd a rd k) s = execSemrd a rd k s := rfl
  rw [hx, execSemrd, State.issue_run h, if_neg (by omega), if_neg (by omega)]
  rfl

end

/-! ## SIGs under way and the grant of a WAIT (R82, R86) -/

/-- Where a Chisel holds no SIG none lands. -/
theorem State.landLoose_nothing {s : State} {a : Ash} {p : Part} (h : s.part? a.part = some p) (hh : (p.chisel a.slot).held = [])
    (k : Option Nat) : s.landLoose a k = s.updChisel a.part a.slot id := by
  simp only [landLoose, h, hh, List.filter_nil, List.foldl_nil]
  refine State.updChisel_congr h _ ?_
  simp only [hh, List.filter_nil, id_eq]
  rw [← hh]

theorem State.foldl_landLoose_nothing {pid : Nat} (k : Option Nat) (ls : List Nat) : ∀ {s : State} {p : Part}, s.part? pid = some p →
    (∀ l, (p.chisel l).held = []) → ∃ q, (ls.foldl (fun s l => s.landLoose ⟨pid, l⟩ k) s).part? pid = some q ∧ p.Alike q := by
  induction ls with
  | nil => exact fun {s p} h _ => ⟨p, h, .refl p⟩
  | cons l ls ih =>
    intro s p h hh
    have halike : p.Alike { p with chisels := p.chisels.upd {} l id } := Part.alike_upd rfl
    have hpart : (s.landLoose ⟨pid, l⟩ k).part? pid = some { p with chisels := p.chisels.upd {} l id } := by
      rw [State.landLoose_nothing (a := ⟨pid, l⟩) h (hh l)]
      exact State.updChisel_part h ..
    obtain ⟨q, hq, hpq⟩ := ih hpart fun i => by rw [halike.chisel, hh]
    exact ⟨q, hq, halike.trans hpq⟩

theorem State.landAll_nothing {s : State} {pid : Nat} {p : Part} (h : s.part? pid = some p) (hh : ∀ l, (p.chisel l).held = []) (k : Nat) :
    ∃ q, (s.landAll pid k).part? pid = some q ∧ p.Alike q := by
  simp only [landAll, h]
  exact State.foldl_landLoose_nothing (some k) _ h hh

/-- The oldest WAIT of a semaphore is granted where the count suffices. -/
theorem exec_waitGrant_first {s : State} {pid : Nat} {p0 p : Part} {j : Job} {k l n : Nat} {rest : List (Nat × Nat × Nat)} (h0 : s.part? pid = some p0)
    (hj : p0.job = some j) (he : j.planErr = none) (hrun : s.tilesRun p0 = true) (h : (s.landAll pid k).part? pid = some p)
    (hw : p.waits = (k, l, n) :: rest) (hn : n ≤ p.sems.get 0 k) : exec (.waitGrant pid k) s =
      .next (((s.landAll pid k).updPart pid fun r => { r with sems := r.sems.set k (r.sems.get 0 k - n), waits := dropFirst (fun w => w.1 == k) r.waits }).retire
        ⟨pid, l⟩ fun c => { c with stall := .run }) := by
  have hx : exec (.waitGrant pid k) s = execWaitGrant pid k s := rfl
  rw [hx, execWaitGrant]
  simp [h0, hj, he, hrun, h, hw, hn]

/-- Settles O19: SIG by its two outcomes, WAIT by whether the count suffices and no other WAIT precedes, and what each leaves in the
partition's record. -/
theorem semaphoresCountAndStall : Obligations.SemaphoresCountAndStall := by
  refine ⟨fun s a p c k n h => ?instructions, ?grant, fun s pid k p h hh => ?quiet⟩
  case instructions =>
    obtain ⟨hat, -⟩ := State.issues_some h
    obtain ⟨hp, rfl, -⟩ := State.chiselAt_some hat
    refine ⟨fun hk h1 h2 => exec_sig_unknown h h1 h2 hk, exec_wait_unknown h, ?sig, ?wait, ?stall, fun rd hrd hk => exec_semrd h hrd hk⟩
    case sig =>
      intro hk h1 h2 hc
      obtain ⟨i, later, aft, hexec, hcoursed, hloose⟩ := exec_sig_held_or_landed h h1 h2 hk hc
      have hpart := State.retired_part hp i
      cases later with
      | true =>
        refine ⟨_, _, true, aft, hexec, State.updChisel_part hpart .., rfl, ?_, hcoursed, hloose, rfl, rfl, ?_, ?_, fun q hq => ?_⟩
        · rw [Part.chisel_upd, Part.retired_chisel]; rfl
        · exact (State.updPart_mem ..).trans (s.retired_mem a i)
        · exact (State.updPart_tiles ..).trans (s.retired_tiles a i)
        · exact (State.updChisel_part_ne _ _ _ hq).trans (s.retired_part_ne i hq)
      | false =>
        refine ⟨_, _, false, aft, hexec, State.updPart_part hpart .., rfl, ?_, hcoursed, hloose, rfl, rfl, ?_, ?_, fun q hq => ?_⟩
        · exact (p.retired_chisel a.slot).trans (by simp)
        · exact (State.updPart_mem ..).trans (s.retired_mem a i)
        · exact (State.updPart_tiles ..).trans (s.retired_tiles a i)
        · exact (State.updPart_part_ne _ _ hq).trans (s.retired_part_ne i hq)
    case wait =>
      intro hk hn hw
      refine ⟨_, _, exec_wait_satisfied h hk hn hw, State.updPart_part (State.updChisel_part hp ..) _, rfl, ?_, rfl, rfl,
        fun q hq => (State.updPart_part_ne _ _ hq).trans (s.updChisel_part_ne _ _ hq)⟩
      simp [Part.chisel]
    case stall =>
      intro hk hw
      have hpart := State.updPart_part (State.updChisel_part hp a.slot fun c => { c with stall := .onSem k n }) fun r =>
        { r with waits := r.waits ++ [(k, a.slot, n)] }
      exact ⟨_, _, exec_wait_stalls h hk hw, hpart, rfl, by simp [Part.chisel], rfl, fun m => State.issues_none m hpart
        (.inr (.inl (by simp [Part.chisel])))⟩
  case grant =>
    rintro s u pid p0 p j k l n rest h0 hj he hrun rfl h hw hn
    refine ⟨_, _, exec_waitGrant_first h0 hj he hrun h hw hn, State.updChisel_part (State.updPart_part h _) .., rfl, ?_, by simp [Part.chisel],
      fun i hi => by simp [Part.chisel, Tbl.get_upd_ne _ _ _ (Ne.symm hi)], rfl⟩
    simp [hw, dropFirst]
  case quiet =>
    obtain ⟨q, hq, hpq⟩ := State.landAll_nothing h hh k
    exact ⟨q, hq, by rw [hpq.rest], by rw [hpq.rest], by rw [hpq.rest], hpq.chisel⟩

end Sys2Proof.Machine
end

section
/-! SUPPORT. Fences (R87), the boundary marker (R84, R85) and EMIT (R83). -/

namespace Sys2Proof.Machine

/-! ## The condition of a fence (R87) -/

section
variable (s : State) (p : Part) (l f : Nat) (c : Chisel)

theorem State.fenceHolds_quiet (hu : c.units = []) (ho : c.outstanding = []) (hh : c.held = []) : s.fenceHolds p l f c = true := by
  simp [fenceHolds, hu, ho, hh]

theorem State.fenceHolds_units (h : s.fenceHolds p l f c = true) : c.units = [] := by
  simp only [fenceHolds, Bool.and_eq_true, List.isEmpty_iff] at h
  exact h.1.1.1

/-- From fence P on nothing is outstanding. -/
theorem State.fenceHolds_outstanding (hf : 2 ≤ f) (h : s.fenceHolds p l f c = true) : c.outstanding = [] ∧ c.held = [] := by
  simp only [fenceHolds, Bool.and_eq_true, Bool.or_eq_true, List.isEmpty_iff, decide_eq_true_eq] at h
  obtain ⟨-, hlt | hnone⟩ := h
  · omega
  · exact hnone

/-- A fence's condition holds where that of the next one does. -/
theorem State.fenceHolds_below (h : s.fenceHolds p l (f + 1) c = true) : s.fenceHolds p l f c = true := by
  simp only [fenceHolds, Bool.and_eq_true, Bool.or_eq_true, decide_eq_true_eq, beq_iff_eq] at h ⊢
  obtain ⟨⟨hbase, hcourse⟩, hpart⟩ := h
  exact ⟨⟨hbase, hcourse.elim (fun h0 => absurd h0 (by omega)) .inr⟩, hpart.imp (fun hlt => by omega) id⟩

end

/-! ## Fences (R87) -/

section
variable {s : State} {a : Ash} {p : Part} {c : Chisel}

/-- A fence whose condition holds retires; else its Chisel stalls. -/
theorem State.fence_eq (h : s.issues a 8 = some (p, c)) (f : Nat) : s.fence a f = if s.fenceHolds p a.slot f c then
    s.updChisel a.part a.slot fun c => { c with pc := c.pc + 8 } else s.updChisel a.part a.slot fun c => { c with stall := .onFence f } := by
  rw [fence, State.issue_run h]
  rfl

/-- A stalled fence asks for its condition again, once its units have run and its SIGs have landed. -/
theorem exec_fenceRelease {p0 : Part} {c0 : Chisel} {f : Nat} (h0 : s.chiselAt a = some (p0, c0)) (hf : c0.stall = .onFence f)
    (h : ((s.drainUnits a).landLoose a none).chiselAt a = some (p, c)) : exec (.fenceRelease a) s =
      .next (if ((s.drainUnits a).landLoose a none).fenceHolds p a.slot f c then
        ((s.drainUnits a).landLoose a none).updChisel a.part a.slot fun c => { c with stall := .run, pc := c.pc + 8 }
      else (s.drainUnits a).landLoose a none) := by
  have hx : exec (.fenceRelease a) s = execFenceRelease a s := rfl
  rw [hx, execFenceRelease]
  simp only [h0, hf, h]
  rfl

end

/-! ## Units without entries (R79) -/

section
variable {s : State} {a : Ash} {p : Part} {c : Chisel} (h : s.chiselAt a = some (p, c)) (hu : c.units = [])
include h hu

theorem State.queued_none : s.queued a = 0 := by simp [queued, h, hu]

theorem State.drainUnits_none : s.drainUnits a = s := by rw [drainUnits, State.queued_none h hu, drainQ]

theorem State.pumpAsh_none : s.pumpAsh a = s := by rw [pumpAsh, State.queued_none h hu, pump]

end

/-! ## BNDRY (R84, R85) -/

section
variable {s : State} {a : Ash} {p : Part} {c : Chisel}

/-- BNDRY retires where, after the units have run and the SIGs landed, nothing of the Ashlar is left. -/
theorem exec_bndry_retires {p0 : Part} {c0 : Chisel} (h0 : s.chiselAt a = some (p0, c0)) (hrun : c0.stall = .run) (hb : c0.bndry = false)
    (h : ((s.drainUnits a).landLoose a none).issues a 11 = some (p, c)) (hu : c.units = []) (hh : c.handoffs = 0) (hs : c.held = []) :
    exec (.bndry a) s = .next (((s.drainUnits a).landLoose a none).updChisel a.part a.slot fun c => { c with bndry := true, pc := c.pc + 8 }) := by
  have hx : exec (.bndry a) s = execBndry a s := rfl
  rw [hx, execBndry]
  simp only [h0, hrun, hb, Bool.false_eq_true, if_false, beq_self_eq_true, if_true]
  rw [State.issue_run h]
  simp only [hu, hh, hs, List.isEmpty_nil, beq_self_eq_true, Bool.and_self, if_true]
  rfl

theorem exec_bndry_second (h : s.chiselAt a = some (p, c)) (hb : c.bndry = true) :
    exec (.bndry a) s = .next (s.planError a.part a.slot 5 c.pc) := by
  have hx : exec (.bndry a) s = execBndry a s := rfl
  rw [hx, execBndry]
  simp only [h, hb, if_true]
  rfl

/-- A Chisel whose boundary marker has retired issues nothing. -/
theorem State.issues_after_bndry (hp : s.part? a.part = some p) (f : Chisel → Chisel) (hf : ∀ c, (f c).bndry = true) (k : Nat) :
    (s.updChisel a.part a.slot f).issues a k = none :=
  State.issues_none k (State.updChisel_part hp ..) (.inl (by rw [Part.chisel_upd, hf]))

end

/-! ## EMIT (R83) -/

/-- The job with bytes staged for an image. -/
def Job.emit (j : Job) (i : Nat) (bs : List Byte) : Job := { j with outs := j.outs.upd {} i fun o => { o with emitted := bs } }

theorem exec_emit {s : State} {a : Ash} {p : Part} {c : Chisel} {bs : List Byte} (h : s.issues a 10 = some (p, c)) (i : Nat) (hl : bs.length ≤ 32) :
    exec (.emit a i bs) s = .next ((s.updChisel a.part a.slot fun c => { c with pc := c.pc + 8 }).updPart a.part fun p =>
      { p with job := p.job.map fun j => j.emit i bs }) := by
  have hx : exec (.emit a i bs) s = execEmit a i bs s := rfl
  rw [hx, execEmit, State.issue_run h, if_neg (by omega)]
  rfl

/-- Settles O20: a fence by its condition, BNDRY and the release of a fence by what the units and SIGs leave, EMIT by its change of the job. -/
theorem fencesAndBoundaryMarkers : Obligations.FencesAndBoundaryMarkers := by
  refine ⟨?fence, fun s p l f c => ⟨s.fenceHolds_quiet p l f c, s.fenceHolds_below p l f c, s.fenceHolds_units p l f c,
    s.fenceHolds_outstanding p l f c⟩, ?release, ?bndry, fun s a p c => exec_bndry_second, ?idle, ?emit⟩
  case fence =>
    intro s a p c h e he
    have hexec : exec (e.1 a) s = .next (s.fence a e.2) := by
      simp only [List.mem_cons, List.not_mem_nil, or_false] at he
      rcases he with rfl | rfl | rfl | rfl <;> rfl
    rw [hexec, State.fence_eq h]
    exact ⟨fun hc => by rw [if_pos hc], fun hc => by rw [if_neg (by simp [hc])]⟩
  case release =>
    rintro s u a p0 p c0 c f h0 hf rfl h
    rw [exec_fenceRelease h0 hf h]
    exact ⟨fun hc => by rw [if_pos hc], fun hc => by rw [if_neg (by simp [hc])]⟩
  case bndry =>
    rintro s u a p0 p c0 c h0 hrun hb rfl h hu hh hs
    obtain ⟨hat, -⟩ := State.issues_some h
    obtain ⟨hp, -⟩ := State.chiselAt_some hat
    exact ⟨_, exec_bndry_retires h0 hrun hb h hu hh hs, rfl, State.issues_after_bndry hp _ fun _ => rfl⟩
  case idle =>
    intro s a p c h hu
    obtain ⟨hp, rfl, -⟩ := State.chiselAt_some h
    refine ⟨State.drainUnits_none h hu, State.pumpAsh_none h hu, fun hh => ?_⟩
    rw [State.landLoose_nothing hp hh]
    exact ⟨State.updPart_mem .., State.updPart_tiles .., _, State.updChisel_part hp .., rfl, rfl, (Part.alike_upd rfl).chisel⟩
  case emit =>
    intro s a p c j i bs h hj hl
    obtain ⟨hat, -⟩ := State.issues_some h
    obtain ⟨hp, rfl, -⟩ := State.chiselAt_some hat
    refine ⟨_, _, j.emit i bs, exec_emit h i hl, State.updPart_part (State.updChisel_part hp ..) _, ?_, rfl, rfl, rfl, ?_, ?_, ?_⟩
    · simp [hj]
    · simp [Part.chisel]
    · simp [State.updChisel]
    · simp [State.updChisel]

end Sys2Proof.Machine
end

section
/-! SUPPORT. Handoffs to Quoin and Riddle (R79, R140, R159) and Quoin's jobs (R140, R141). -/

namespace Sys2Proof.Machine

/-- A partition whose plan has geometry has a plan. -/
theorem State.planOf_of_geoOf {s : State} {p : Part} {i : Nat} {g : GeoRec} (h : (s.geoOf p)[i]? = some g) : ∃ pl, s.planOf p = some pl := by
  cases hpl : s.planOf p with
  | some pl => exact ⟨pl, rfl⟩
  | none => simp [geoOf, hpl] at h

/-! ## Handoffs to Quoin (R140) -/

section
variable {s : State} {a : Ash} {p : Part} {c : Chisel} {reg count r image : Nat} {v : VisionRec} {k : QuoinRec}

/-- A handoff within the Ashlar's reach joins the queue of its Pier, or waits while that is full. -/
theorem State.handoffQuoin_ok (hr : (s.geoOf p)[r]? = some (.quoin k)) (hreg : reg < 16) (hv : s.visionOf p = some v) (hi : image < v.batch)
    (hok : s.rangeOk p a.slot (c.ar reg) (16 * min count 4096) = true) : s.handoffQuoin a p c reg count r image =
      if 64 ≤ (s.pier (s.quoinPier (p.courseOf a.slot / 4))).quoin.length then s
      else (s.updChisel a.part a.slot fun c => { c with handoffs := c.handoffs + 1, pc := c.pc + 8 }).updPier (s.quoinPier (p.courseOf a.slot / 4)) fun x =>
        { x with quoin := x.quoin ++ [⟨a.part, a.slot, c.ar reg, count, r, image⟩] } := by
  obtain ⟨pl, hpl⟩ := State.planOf_of_geoOf hr
  simp only [handoffQuoin, hpl, hr, hv, hok]
  rw [if_neg (by simp; omega), if_neg (by simp)]
  rfl

theorem exec_handoff_quoin {s0 : State} (h : (s0.pumpAsh a).issues a 9 = some (p, c)) :
    exec (.handoff a (.quoin reg count r image)) s0 = .next ((s0.pumpAsh a).handoffQuoin a p c reg count r image) :=
  congrArg Host.Outcome.next (State.issue_run h _)

end

/-! ## Handoffs to Riddle (R159) -/

/-- The job with logits given to step `n`. -/
def Job.addLogits (j : Job) (n : Nat) (draft : Bool) (k : Nat) (ws : List W32) : Job :=
  { j with steps := j.steps.zipIdx.map fun x => if x.2 == n then x.1.addLogits draft k ws else x.1 }

theorem Job.addLogits_step (j : Job) (n i : Nat) (draft : Bool) (k : Nat) (ws : List W32) : (j.addLogits n draft k ws).steps[i]? =
    (j.steps[i]?).map fun x => if i == n then x.addLogits draft k ws else x := by
  simp [addLogits, List.getElem?_zipIdx, Function.comp_def]

/-- A handoff of logits within the Ashlar's reach gives them to its step. -/
theorem State.handoffRiddle_ok {s : State} {a : Ash} {p : Part} {c : Chisel} {j : Job} {q : ServeRec} {n reg : Nat} (draft : Bool) (k : Nat)
    (hj : p.job = some j) (hq : s.serveOf p = some q) (hreg : reg < 16) (hn : n < j.steps.length)
    (hok : s.rangeOk p a.slot (c.ar reg) (4 * q.vocab) = true) : s.handoffRiddle a p c n draft k reg =
      (s.updChisel a.part a.slot fun c => { c with pc := c.pc + 8 }).updPart a.part fun r =>
        { r with job := r.job.map fun j => j.addLogits n draft k (s.leWords p a.slot (c.ar reg) q.vocab) } := by
  simp only [handoffRiddle, hq, hj, hok]
  rw [if_neg (by simp; omega), if_neg (by simp)]
  rfl

theorem exec_handoff_riddle {s0 : State} {a : Ash} {p : Part} {c : Chisel} (h : (s0.pumpAsh a).issues a 9 = some (p, c)) (n : Nat) (draft : Bool)
    (k reg : Nat) : exec (.handoff a (.riddle n draft k reg)) s0 = .next ((s0.pumpAsh a).handoffRiddle a p c n draft k reg) :=
  congrArg Host.Outcome.next (State.issue_run h _)

/-! ## Quoin's jobs (R140, R141) -/

/-- The job with a handoff's result for an image; what EMIT staged stays. -/
def Job.quoinDone (j : Job) (image : Nat) (o : ImageOut) : Job := { j with outs := j.outs.upd {} image fun x => { o with emitted := x.emitted } }

/-- What is left of a Quoin job that ran for an unfilled slot: its result, and the Ashlar's count of handoffs. -/
def Part.quoinDone (p : Part) (h : QuoinJob) (o : ImageOut) : Part :=
  { p with job := p.job.map fun j => j.quoinDone h.image o
           chisels := p.chisels.upd {} h.slot fun c => { c with handoffs := c.handoffs - 1 } }

/-- The oldest handoff of a Pier's queue, for a slot without an image, runs. -/
theorem exec_quoinJob_unfilled {s0 s : State} {pier : Nat} {h : QuoinJob} {rest : List QuoinJob} {p : Part} {j : Job} {k : QuoinRec}
    (hq : (s0.pier pier).quoin = h :: rest) (hret : (s0.pier pier).quoinRetired = false) (hs : s = s0.pumpPart h.part) (hp : s.part? h.part = some p)
    (hrun : s.tilesRun p = true) (hj : p.job = some j) (hslot : j.slots[h.image]? = some none) (hk : (s.geoOf p)[h.qrec]? = some (.quoin k)) :
    exec (.quoinJob pier none) s0 = .next ((s.updPier pier fun q => { q with quoin := rest }).updPart h.part fun r =>
      r.quoinDone h (quoinRun (quoinSet k {}) h.count (s.readRange p h.slot h.list (16 * min h.count 4096)))) := by
  subst hs
  have hx : exec (.quoinJob pier none) s0 = execQuoinJob pier none s0 := rfl
  have hgeo : (((s0.pumpPart h.part).updPier pier fun q => { q with quoin := rest }).geoOf p)[h.qrec]? = some (.quoin k) := hk
  rw [hx, execQuoinJob]
  simp only [hq, hret, hp, hrun, hj, hslot, hk, Option.bind_some, Option.join_some, Option.bind_none, Option.map_none, Option.getD_none,
    State.quoinResult, State.updChisel, State.updPart_updPart]
  rfl

/-- Where no unit of a partition holds an entry, nothing runs. -/
theorem State.pumpPart_none {s : State} {n : Nat} {p : Part} (hp : s.part? n = some p) (hu : ∀ l, (p.chisel l).units = []) : s.pumpPart n = s := by
  have hash (l : Nat) : s.pumpAsh ⟨n, l⟩ = s := by
    cases hat : s.chiselAt ⟨n, l⟩ with
    | none => simp [pumpAsh, queued, hat, pump]
    | some x =>
      obtain ⟨hp', hc, -⟩ := State.chiselAt_some (p := x.1) (c := x.2) hat
      have hpx : p = x.1 := Option.some.inj (hp.symm.trans hp')
      exact State.pumpAsh_none hat (by rw [hc, ← hpx, hu])
  simp only [pumpPart, hp]
  induction List.range p.size with
  | nil => rfl
  | cons l ls ih => rw [List.foldl_cons, hash l, ih]

/-- Settles O21: a handoff within reach by its equation on what the units have left, and a Quoin job by what it changes. -/
theorem handoffsReachQuoinAndRiddle : Obligations.HandoffsReachQuoinAndRiddle := by
  refine ⟨?quoin, ?riddle, ?job, fun s n p hp hu => State.pumpPart_none hp hu⟩
  case quoin =>
    rintro s0 s a p c reg count r image q v k rfl h hr hreg hv hi hok rfl
    rw [exec_handoff_quoin h, State.handoffQuoin_ok hr hreg hv hi hok]
    exact ⟨fun hlt => by rw [if_neg (by omega)], fun hle => by rw [if_pos hle]⟩
  case riddle =>
    rintro s0 s a p c j q n k reg draft st rfl h hj hq hreg hst hok
    obtain ⟨hat, -⟩ := State.issues_some h
    obtain ⟨hp, rfl, -⟩ := State.chiselAt_some hat
    obtain ⟨hn, -⟩ := List.getElem?_eq_some_iff.1 hst
    have hexec := exec_handoff_riddle h n draft k reg
    rw [State.handoffRiddle_ok draft k hj hq hreg hn hok] at hexec
    refine ⟨_, _, Job.addLogits j n draft k _, hexec, State.updPart_part (State.updChisel_part hp ..) _, by rw [hj]; rfl, ?_, fun i hi => ?_, ?_, ?_⟩
    · simp [Job.addLogits_step, hst]
    · simp [Job.addLogits_step, hi]
    · simp [Part.chisel]
    · simp [State.updChisel]
  case job =>
    intro s0 s pier h rest p j k hq hret hs hp hrun hj hslot hk
    have hpart : (s.updPier pier fun q => { q with quoin := rest }).part? h.part = some p := hp
    refine ⟨_, _, _, _, exec_quoinJob_unfilled hq hret hs hp hrun hj hslot hk, ?_, rfl, State.updPart_part hpart _, congrArg (Option.map _) hj,
      ?_, ?_, ?_⟩
    · simp [State.pier, State.updPier]
    · simp [Job.quoinDone]
    · simp [Part.chisel, Part.quoinDone]
    · simp

end Sys2Proof.Machine
end

section
/-! SUPPORT. The tile DMA queues (R83, R112, R113, R116): entering a queue, the turn of its sets, and the load of the shadow set. -/

namespace Sys2Proof.Machine

/-! ## The queues of a Chisel -/

@[simp] theorem Chisel.queue_setQueue_self (c : Chisel) (q : Nat) (x : DmaQueue) : (c.setQueue q x).queue q = x := by
  by_cases h : q = 0 <;> simp [queue, setQueue, h]

theorem Chisel.queue_setQueue_other (c : Chisel) {q : Nat} (x : DmaQueue) (h : q < 2) : (c.setQueue q x).queue (1 - q) = c.queue (1 - q) := by
  obtain rfl | rfl : q = 0 ∨ q = 1 := by omega
  · simp [queue, setQueue]
  · simp [queue, setQueue]

/-- A change of a queue leaves every other field. -/
theorem Chisel.setQueue_keeps {γ : Type} (φ : Chisel → γ) (c : Chisel) (hφ : ∀ x y, φ { c with q0 := x, q1 := y } = φ c) (q : Nat) (x : DmaQueue) :
    φ (c.setQueue q x) = φ c := by
  unfold setQueue
  split
  · exact hφ x c.q1
  · exact hφ c.q0 x

/-! ## DMA (R83) -/

/-- The Chisel with a descriptor at the end of a queue. -/
def Chisel.enqueue (c : Chisel) (q : Nat) (d : TileDesc) : Chisel :=
  { c.setQueue q { c.queue q with fifo := (c.queue q).fifo ++ [(descTag c.nextDesc c.pc, d)] } with nextDesc := c.nextDesc + 1, pc := c.pc + 8 }

section
variable {s : State} {a : Ash} {p : Part} {c : Chisel} {q : Nat} (d : TileDesc) (h : s.issues a 6 = some (p, c)) (hq : q < 2)
include h hq

theorem exec_dma_room (hl : (c.queue q).fifo.length < 32) : exec (.dma a q d) s = .next (s.updChisel a.part a.slot fun c => c.enqueue q d) := by
  have hx : exec (.dma a q d) s = execDma a q d s := rfl
  rw [hx, execDma, State.issue_run h, if_neg (by omega), if_neg (by omega)]
  rfl

theorem exec_dma_full (hl : 32 ≤ (c.queue q).fifo.length) : exec (.dma a q d) s = .next s := by
  have hx : exec (.dma a q d) s = execDma a q d s := rfl
  rw [hx, execDma, State.issue_run h, if_neg (by omega), if_pos hl]

end

/-! ## The sets of a queue (R113) -/

theorem DmaQueue.turn_full {x : DmaQueue} {d e : Nat × TileDesc} (hs : x.shadow = some d) (ha : x.active = some e) (hl : x.landing = none) :
    x.turn = { x with landing := some e, active := some d, shadow := none } := by simp [turn, hs, ha, hl]

theorem DmaQueue.turn_none {x : DmaQueue} (h : x.shadow = none ∨ x.active = none ∨ x.landing ≠ none) : x.turn = x := by
  unfold turn
  split
  next hs ha hl => simp [hs, ha, hl] at h
  next => rfl

/-- An idle queue starts its armed set; one with an active set does not. -/
theorem DmaQueue.start_idle {x : DmaQueue} {d : Nat × TileDesc} (ha : x.active = none) (hs : x.shadow = some d) :
    x.start = { x with active := some d, shadow := none } := by simp [start, ha, hs]

theorem DmaQueue.start_busy {x : DmaQueue} (ha : x.active ≠ none) : x.start = x := by
  unfold start
  split
  next hn _ => exact absurd hn ha
  next => rfl

/-! ## The shadow set (R113, R116) -/

theorem State.drainAt_some {s : State} {a : Ash} {p : Part} {c : Chisel} (h : s.drainAt a = some (p, c)) :
    s.part? a.part = some p ∧ c = p.chisel a.slot ∧ p.job.isSome = true ∧ a.slot < p.size ∧ s.tilesRun p = true := by
  unfold drainAt at h
  split at h
  · cases h
  next q hq =>
    split at h
    next hc =>
      simp only [Bool.and_eq_true, decide_eq_true_eq] at hc
      cases h
      exact ⟨hq, rfl, hc.1.1, hc.1.2, hc.2⟩
    next => cases h

section
variable {s : State} {a : Ash} {p : Part} {c : Chisel} {q g : Nat} {d : TileDesc} {rest : List (Nat × TileDesc)} (h : s.drainAt a = some (p, c))
  (hq : q < 2) (hs : (c.queue q).turn.shadow = none) (hf : (c.queue q).turn.fifo = (g, d) :: rest)
include h hq hs hf

/-- The head of a queue enters the free shadow set where it passes its checks; else it leaves the queue with a plan error. -/
theorem exec_tileDmaShadowLoad : exec (.tileDmaShadowLoad a q) s = .next (
    if descLegal d then
      if s.descOk p a.slot d then s.updChisel a.part a.slot fun c' => c'.setQueue q { (c.queue q).turn with fifo := rest, shadow := some (g, d) }.start
      else (s.updChisel a.part a.slot fun c' => c'.setQueue q { (c.queue q).turn with fifo := rest }).planError a.part a.slot 2 (g % 2 ^ 32)
    else (s.updChisel a.part a.slot fun c' => c'.setQueue q { (c.queue q).turn with fifo := rest }).planError a.part a.slot 1 (g % 2 ^ 32)) := by
  have hx : exec (.tileDmaShadowLoad a q) s = execTileDmaShadowLoad a q s := rfl
  rw [hx, execTileDmaShadowLoad]
  simp only [h, if_neg (show ¬ 2 ≤ q by omega), hs, hf]
  cases descLegal d <;> cases s.descOk p a.slot d <;> rfl

end

/-- R114, R116: what a legal descriptor is. -/
theorem descLegal_iff (d : TileDesc) : descLegal d = true ↔ d.rsvd = 0 ∧ 1 ≤ d.rowBytes ∧ 1 ≤ d.rows ∧ d.rows ≤ 65536 ∧ d.rowBytes * d.rows ≤ 2 ^ 40 ∧
    ((d.form = 0 ∧ d.rows = 1 ∧ d.rowBytes < 2 ^ 32) ∨ ((d.form = 1 ∨ d.form = 3) ∧ d.rowBytes ≤ 2 ^ 24)) := by
  unfold descLegal
  by_cases h0 : d.form = 0
  · simp [h0, and_assoc]
  · simp [h0, and_assoc]

/-- Settles O25: DMA by whether its queue has room, the shadow set by the checks of the head descriptor. -/
theorem tileDmaQueuesInOrder : Obligations.TileDmaQueuesInOrder := by
  refine ⟨?enqueue, fun x d e => ⟨DmaQueue.turn_full, DmaQueue.turn_none⟩, ?load, descLegal_iff⟩
  case enqueue =>
    intro s a p c q d h hq
    obtain ⟨hat, -⟩ := State.issues_some h
    obtain ⟨hp, rfl, -⟩ := State.chiselAt_some hat
    refine ⟨fun hl => ⟨_, _, exec_dma_room d h hq hl, State.updChisel_part hp .., ?_, ?_, ?_, ?_, State.updPart_mem .., State.updPart_tiles ..⟩,
      exec_dma_full d h hq⟩
    all_goals rw [Part.chisel_upd]
    · exact Chisel.queue_setQueue_self ..
    · exact Chisel.queue_setQueue_other _ _ hq
    · rfl
    · rfl
  case load =>
    rintro s a p c q g d x rest h hq rfl hs hf
    rw [exec_tileDmaShadowLoad h hq hs hf]
    obtain ⟨hp, rfl, -⟩ := State.drainAt_some h
    refine ⟨fun hl hok => ?_, fun hl => by rw [if_neg (by simp [hl])], fun hl hok => by rw [if_pos hl, if_neg (by simp [hok])]⟩
    rw [if_pos hl, if_pos hok]
    refine ⟨_, _, rfl, State.updChisel_part hp .., fun ha => ?_, fun ha => ?_, State.updPart_mem .., State.updPart_tiles ..⟩
    · rw [Part.chisel_upd, Chisel.queue_setQueue_self]
      exact DmaQueue.start_idle (x := { (p.chisel a.slot |>.queue q).turn with fifo := rest, shadow := some (g, d) }) ha rfl
    · rw [Part.chisel_upd, Chisel.queue_setQueue_self]
      exact DmaQueue.start_busy (x := { (p.chisel a.slot |>.queue q).turn with fifo := rest, shadow := some (g, d) }) ha

end Sys2Proof.Machine
end

section
/-! SUPPORT. A tile descriptor whose rows lie in its Ashlar's own SRAM (R81, R86, R114, R116): what is read, what is written, and what its end
leaves. -/

namespace Sys2Proof.Machine

/-! ## The own SRAM (R81) -/

section
variable {s : State} {p : Part} {l t : Nat} (ht : s.tileOf p l = some t)
include ht

theorem State.resolve_own {a : Nat} (ha : a < 0x300000) : s.resolve p l a = some (0, .sram t a) := by
  have hkv : ¬ kvBase ≤ a := by simp only [kvBase]; omega
  simp [resolve, if_neg hkv, if_pos ha, ht]

theorem State.readRange_own (n : Nat) : ∀ {a : Nat}, a + n ≤ 0x300000 → s.readRange p l a n = sramReadN (s.tile t).sram a n := by
  induction n with
  | zero => intro a _; rfl
  | succ n ih =>
    intro a ha
    rw [readRange, ih (by omega), readAt, State.resolve_own ht (by omega)]
    rfl

end

/-- A run of bytes written to the own SRAM changes the array of its tile and nothing else. -/
theorem State.writeRange_own {p : Part} {l t : Nat} (bs : List Byte) : ∀ {s : State} {a : Nat}, s.tileOf p l = some t → a + bs.length ≤ 0x300000 →
    ∃ ts : Tbl Tile, s.writeRange p l a bs = { s with tiles := ts } ∧ (ts.get {} t).sram = sramWriteN (s.tile t).sram a bs ∧
      ∀ u, u ≠ t → ts.get {} u = s.tile u := by
  induction bs with
  | nil => exact fun {s a} _ _ => ⟨s.tiles, rfl, rfl, fun _ _ => rfl⟩
  | cons b bs ih =>
    intro s a ht ha
    simp only [List.length_cons] at ha
    have hw : s.writeAt p l a b = s.updTile t fun x => { x with sram := sramWrite x.sram a b } := by
      rw [writeAt, State.resolve_own ht (by omega)]
      rfl
    obtain ⟨ts, heq, hself, hother⟩ := ih (s := s.writeAt p l a b) (a := a + 1) (by rw [hw]; exact ht) (by omega)
    rw [hw] at heq hself hother
    refine ⟨ts, ?_, ?_, fun u hu => ?_⟩
    · rw [writeRange, hw, heq]
      rfl
    · rw [hself, State.updTile_tile_self]
      rfl
    · rw [hother u hu, State.updTile_tile_ne _ _ hu]

theorem sramReadN_length (x : Sram) (n : Nat) : ∀ a, (sramReadN x a n).length = n := by
  induction n with
  | zero => exact fun _ => rfl
  | succ n ih => exact fun a => congrArg (· + 1) (ih (a + 1))

theorem sramReadN_getD (x : Sram) (n : Nat) : ∀ {a k : Nat}, k < n → (sramReadN x a n).getD k 0 = sramRead x (a + k) := by
  induction n with
  | zero => exact fun h => absurd h (Nat.not_lt_zero _)
  | succ n ih =>
    intro a k hk
    cases k with
    | zero => rfl
    | succ k => rw [sramReadN, List.getD_cons_succ, ih (by omega), Nat.add_right_comm, Nat.add_assoc]

/-! ## A descriptor of one row (R114) -/

theorem rowAddr_zero (base : Nat) (stride : Int) : rowAddr base stride 0 = base := by simp [rowAddr]

/-- A descriptor of one row within the own SRAM of an Ashlar. -/
structure State.OwnRow (s : State) (p : Part) (l t : Nat) (d : TileDesc) : Prop where
  tile : s.tileOf p l = some t
  rows : d.rows = 1
  pos : 0 < d.rowBytes
  dst : d.dst + d.rowBytes ≤ 0x300000
  src : d.form = 3 ∨ d.src + d.rowBytes ≤ 0x300000

/-- The bytes of the row: zeros of a fill, or those of the source. -/
def rowOf (x : Sram) (d : TileDesc) : List Byte := if d.form = 3 then List.replicate d.rowBytes 0 else sramReadN x d.src d.rowBytes

theorem rowOf_length (x : Sram) (d : TileDesc) : (rowOf x d).length = d.rowBytes := by
  unfold rowOf
  split
  · exact List.length_replicate ..
  · exact sramReadN_length ..

theorem rowOf_getD (x : Sram) (d : TileDesc) {k : Nat} (hk : k < d.rowBytes) :
    (rowOf x d).getD k 0 = if d.form = 3 then 0 else sramRead x (d.src + k) := by
  unfold rowOf
  split
  · simp [hk]
  · exact sramReadN_getD x _ hk

section
variable {s : State} {p : Part} {l t : Nat} {d : TileDesc} (h : s.OwnRow p l t d)
include h

/-- It touches no HBM stack. -/
theorem State.OwnRow.descStacks (ht : t < 144) : s.descStacks p l d = [] := by
  have hdest {b : Nat} (hb : b < 0x300000) (stride : Int) : s.rowsDests p l b stride d.rowBytes d.rows = [t / 9] := by
    simp [rowsDests, h.rows, rowAddr_zero, spanDests, State.resolve_own h.tile hb]
  have hdst := h.dst
  have hpos := h.pos
  have hsrc : (if d.form == 3 then [] else s.rowsDests p l d.src d.srcStride d.rowBytes d.rows) ⊆ [t / 9] := by
    split
    · simp
    next h3 =>
      have hlt : d.src < 0x300000 := by
        rcases h.src with he | hle
        · simp [he] at h3
        · omega
      rw [hdest hlt]
      exact List.Subset.refl _
  rw [State.descStacks, State.descDests, hdest (by omega), List.map_eq_nil_iff, List.filter_eq_nil_iff]
  intro x hx
  have hx9 : x = t / 9 := by
    rcases List.mem_append.1 hx with hx | hx
    · exact List.mem_singleton.1 hx
    · exact List.mem_singleton.1 (hsrc hx)
  simp only [decide_eq_true_eq]
  omega

/-- Its one row is read whole and then written. -/
theorem State.OwnRow.moveRows : ∃ ts : Tbl Tile, s.moveRows p l d 0 d.rows = { s with tiles := ts } ∧
    (ts.get {} t).sram = sramWriteN (s.tile t).sram d.dst (rowOf (s.tile t).sram d) ∧ ∀ u, u ≠ t → ts.get {} u = s.tile u := by
  have hrow : (if d.form == 3 then List.replicate d.rowBytes 0 else s.readRange p l d.src d.rowBytes) = rowOf (s.tile t).sram d := by
    unfold rowOf
    by_cases h3 : d.form = 3
    · simp [h3]
    · simp [h3, State.readRange_own h.tile _ (h.src.resolve_left h3)]
  have hmove : s.moveRows p l d 0 d.rows = s.writeRange p l d.dst (rowOf (s.tile t).sram d) := by
    rw [h.rows, State.moveRows, State.moveRows, rowAddr_zero, rowAddr_zero, hrow]
  rw [hmove]
  exact State.writeRange_own _ h.tile (by rw [rowOf_length]; exact h.dst)

end

/-! ## The end of a descriptor (R113, R116) -/

theorem DmaQueue.ended_latter (x : DmaQueue) : x.ended false = { x with active := x.shadow, shadow := none } := by
  cases hs : x.shadow <;> simp [ended, start, hs]

/-- Where a Chisel holds no SIG, the end of a descriptor releases none. -/
theorem State.releaseHeld_nothing {s : State} {a : Ash} {p : Part} (h : s.part? a.part = some p) (hh : (p.chisel a.slot).held = []) (g : Nat) :
    s.releaseHeld a g = s.updChisel a.part a.slot id := by
  simp only [releaseHeld, h, hh, List.map_nil, List.filter_nil, landSigs]
  refine State.updChisel_congr h _ ?_
  rw [id, ← hh]

/-- The latter of a queue's sets ends where it may land and the units have run what comes before it. -/
theorem exec_tileDmaDescriptorDone {s0 : State} {a : Ash} {p0 p : Part} {c0 c : Chisel} {q g : Nat} {d : TileDesc} (h0 : s0.drainAt a = some (p0, c0))
    (hq : q < 2) (hact : (c0.queue q).active = some (g, d)) (hland : (c0.queue q).landing = none)
    (hserves : s0.hbmServes (s0.descStacks p0 a.slot d) = true) (hmay : s0.mayLand p0 a.slot c0 g d = true)
    (h : (s0.pumpPart a.part).drainAt a = some (p, c)) (hafter : (s0.pumpPart a.part).afterUnits p a.slot c g d = true) :
    exec (.tileDmaDescriptorDone a q none) s0 = .next ((s0.pumpPart a.part).descEnd a q p false g d none) := by
  have hx : exec (.tileDmaDescriptorDone a q none) s0 = execTileDmaDescriptorDone a q none s0 := rfl
  have hbefore : (s0.pumpPart a.part).unitsBefore a g d = s0.pumpPart a.part := by simp [State.unitsBefore, h, hafter]
  have hend : s0.endingSet p0 (c0.queue q) = (s0, some (false, g, d)) := by simp [State.endingSet, hact, hland]
  rw [hx, execTileDmaDescriptorDone]
  simp only [h0, if_neg (show ¬ 2 ≤ q by omega), hend, hserves, hmay, Bool.not_true, Bool.or_self, Bool.false_eq_true, if_false, hbefore, h, hafter,
    if_true]

/-- What the end of a good descriptor of its own Ashlar's row leaves: the row, the queue's next set, and its SEM where it has one. -/
theorem State.OwnRow.descEnd {s : State} {a : Ash} {p : Part} {q g t : Nat} {d : TileDesc} (h : s.OwnRow p a.slot t d) (hp : s.part? a.part = some p)
    (ht : t < 144) (hh : (p.chisel a.slot).held = []) (hsem : d.sem = 0xFFFF ∨ (d.sem < p.semCount ∧ p.sems.get 0 d.sem < 0xFFFF)) :
    ∃ (p' : Part), (s.descEnd a q p false g d none).part? a.part = some p' ∧ (s.descEnd a q p false g d none).mem = s.mem ∧
      ((s.descEnd a q p false g d none).tile t).sram = sramWriteN (s.tile t).sram d.dst (rowOf (s.tile t).sram d) ∧
      (∀ u, u ≠ t → (s.descEnd a q p false g d none).tile u = s.tile u) ∧ p'.job = p.job ∧
      p'.sems = (if d.sem = 0xFFFF then p.sems else p.sems.set d.sem (p.sems.get 0 d.sem + 1)) ∧
      (p'.chisel a.slot).queue q = ((p.chisel a.slot).queue q).ended false := by
  obtain ⟨ts, hmove, hself, hother⟩ := h.moveRows
  have hm : ({ s with tiles := ts } : State).part? a.part = some p := hp
  obtain ⟨u, hu⟩ : ∃ u, u = State.updChisel { s with tiles := ts } a.part a.slot fun c => c.setQueue q ((c.queue q).ended false) := ⟨_, rfl⟩
  have hset : u.part? a.part = _ := hu ▸ State.updChisel_part hm ..
  have hmem : u.mem = s.mem := hu ▸ State.updPart_mem ..
  have htiles : u.tiles = ts := hu ▸ State.updPart_tiles ..
  have hend : s.descEnd a q p false g d none =
      (if d.sem != 0xFFFF then u.addSem a.part a.slot d.sem 1 (g % 2 ^ 32) else u).releaseHeld a g := by
    simp [State.descEnd, h.descStacks ht, State.touchStacks, badDesc, hmove, hu]
  obtain ⟨v, r, hv, hr, hchisel, hjob, hsems, hvmem, hvtiles⟩ : ∃ (v : State) (r : Part),
      (if d.sem != 0xFFFF then u.addSem a.part a.slot d.sem 1 (g % 2 ^ 32) else u) = v ∧ v.part? a.part = some r ∧
      r.chisel a.slot = (p.chisel a.slot).setQueue q (((p.chisel a.slot).queue q).ended false) ∧ r.job = p.job ∧
      r.sems = (if d.sem = 0xFFFF then p.sems else p.sems.set d.sem (p.sems.get 0 d.sem + 1)) ∧ v.mem = u.mem ∧ v.tiles = u.tiles := by
    by_cases hs : d.sem = 0xFFFF
    · exact ⟨u, _, if_neg (by simp [hs]), hset, Part.chisel_upd .., rfl, by rw [if_pos hs], rfl, rfl⟩
    · obtain ⟨hlt, hcount⟩ := hsem.resolve_left hs
      have hadd := State.addSem_counts (k := d.sem) (n := 1) hset a.slot (g % 2 ^ 32) hlt hcount
      exact ⟨_, _, (if_pos (by simp [hs])).trans hadd, State.updPart_part hset _, by simp [Part.chisel], rfl, by rw [if_neg hs], State.updPart_mem ..,
        State.updPart_tiles ..⟩
  have hheld : (r.chisel a.slot).held = [] := by rw [hchisel, Chisel.setQueue_keeps Chisel.held _ fun _ _ => rfl, hh]
  have htile (n : Nat) : (v.updChisel a.part a.slot id).tile n = ts.get {} n := by simp [State.tile, State.updChisel, hvtiles, htiles]
  rw [hend, hv, State.releaseHeld_nothing hr hheld]
  refine ⟨_, State.updChisel_part hr .., ?_, by rw [htile, hself], fun n hn => by rw [htile, hother n hn], hjob, hsems, ?_⟩
  · simp [State.updChisel, hvmem, hmem]
  · rw [Part.chisel_upd, id, hchisel, Chisel.queue_setQueue_self]

/-- Settles O26: the descriptor ends where it stands, and a row of the own SRAM is read whole and then written. -/
theorem tileDmaMovesItsBytes : Obligations.TileDmaMovesItsBytes := by
  rintro s0 s a p0 p c0 c q g tt d h0 hq hact hland hquench hmay htile0 htt rfl h hafter hcq htile hwf hrows hdst hsrc hheld hpos hsem
  obtain ⟨hp, rfl, -⟩ := State.drainAt_some h
  have hserves : s0.hbmServes (s0.descStacks p0 a.slot d) = true := by
    simp [State.OwnRow.descStacks ⟨htile0, hrows, hpos, hdst, hsrc⟩ htt, State.hbmServes, hquench]
  obtain ⟨p', hp', hmem, hself, hother, hjob, hsems, hqueue⟩ :=
    State.OwnRow.descEnd (q := q) (g := g) ⟨htile, hrows, hpos, hdst, hsrc⟩ hp htt hheld hsem
  refine ⟨_, p', exec_tileDmaDescriptorDone h0 hq hact hland hserves hmay h hafter, fun k => ?_, hother, hmem, hp', hsems,
    hqueue.trans (DmaQueue.ended_latter _), hjob⟩
  rw [hself, sramRead_sramWriteN _ _ _ hwf, rowOf_length]
  split
  next hk => exact rowOf_getD _ _ (by omega)
  next => rfl

end Sys2Proof.Machine
end

section
/-! SUPPORT. Course power and HBM self-refresh (R93, R94, R111, R245). -/

namespace Sys2Proof.Machine

/-! ## The reference thermometer of a Course (R245) -/

@[simp] theorem State.emitted_course (s : State) (x : Emission) (k : Nat) : (s.emitted x).course k = s.course k := rfl

/-- A check of the reference takes its reading and may retire it, with an event. -/
theorem State.checkRef_eq (s : State) (c : Nat) (ref : Int) : ∃ x b, s.checkRef c ref =
    (s.updCourse c fun k => { k with refTemp := ref, refRetired := k.refRetired || b }).emitted x := by
  unfold checkRef
  dsimp only
  split
  · obtain ⟨x, hx⟩ := State.post_emits ((s.updCourse c fun k => { k with refTemp := ref }).updCourse c fun k => { k with refRetired := true }) 0x090A 2 c
      (leBytes 2 (unsigned 16 (ref - medianInt ((s.updCourse c fun k => { k with refTemp := ref }).courseDiodes c))))
    exact ⟨x, true, by rw [hx]; simp [State.updCourse]⟩
  · exact ⟨(s.updCourse c fun k => { k with refTemp := ref }).emission, false, by simp only [Bool.or_false]; rfl⟩

theorem State.checkRef_course_self (s : State) (c : Nat) (ref : Int) :
    ∃ b, (s.checkRef c ref).course c = { s.course c with refTemp := ref, refRetired := b } := by
  obtain ⟨x, b, heq⟩ := s.checkRef_eq c ref
  exact ⟨_, by rw [heq, State.emitted_course, State.updCourse_course_self]⟩

theorem State.checkRef_course_ne (s : State) {c k : Nat} (ref : Int) (h : k ≠ c) : (s.checkRef c ref).course k = s.course k := by
  obtain ⟨x, b, heq⟩ := s.checkRef_eq c ref
  rw [heq, State.emitted_course, State.updCourse_course_ne _ _ h]

@[simp] theorem State.checkRef_parts (s : State) (c : Nat) (ref : Int) : (s.checkRef c ref).parts = s.parts := by
  obtain ⟨x, b, heq⟩ := s.checkRef_eq c ref
  rw [heq]
  rfl

@[simp] theorem State.checkRef_piers (s : State) (c : Nat) (ref : Int) : (s.checkRef c ref).piers = s.piers := by
  obtain ⟨x, b, heq⟩ := s.checkRef_eq c ref
  rw [heq]
  rfl

/-! ## Gating, waking and self-refresh (R93, R111) -/

/-- A Course that no partition holds is gated 2 ms after it last was busy. -/
theorem exec_courseGate_unheld {s : State} {c : Nat} (hup : s.up = true) (hc : c < 16) (hpow : (s.course c).power ≠ 0) (hw : (s.course c).waking = none)
    (hheld : ∀ q ∈ s.parts, q.2.hasCourse c = false) (hhold : s.power.hold = false) (hfloor : s.power.floor = false)
    (hsince : 50000 ≤ s.now - (s.course c).busyAt) :
    exec (.courseGate c) s = .next (s.updCourse c fun k => { k with power := 0, gatedAt := s.now }) := by
  have hquiet : (s.parts.all fun q => !q.2.hasCourse c || (!q.2.keepwarm && !s.partWork q.1 q.2)) = true :=
    List.all_eq_true.2 fun q hq => by simp [hheld q hq]
  have hx : exec (.courseGate c) s = execCourseGate c s := rfl
  rw [hx, execCourseGate]
  simp [hup, hc, hpow, hw, hquiet, hhold, hfloor, tMs, State.since, hsince]

/-- The wake of a Course on a Pier that runs. -/
theorem exec_courseWake_done {s : State} {c p : Nat} (ref : Int) (hup : s.up = true) (hw : (s.course c).waking = some p) (hq : s.therm.quench = false)
    (hh : s.power.hold = false) (hp : (s.pier (c / 4)).powered = true) (hr : (s.pier (c / 4)).resetting = false) : exec (.courseWake c ref) s =
      .next (((s.checkRef c ref).updCourse c fun k => { k with power := max 1 k.power, waking := none, busyAt := s.now }).updPartCtr p fun k =>
        { k with wakes := sat32 k.wakes 1 }) := by
  have hx : exec (.courseWake c ref) s = execCourseWake c ref s := rfl
  rw [hx, execCourseWake]
  simp [hw, hup, hq, hh, hp, hr]

theorem exec_hbmSelfRefreshEntry_idle {s : State} {p : Nat} (hup : s.up = true) (hp : p < 4) (hsr : (s.pier p).selfRefresh = false)
    (hjobs : (s.parts.any fun r => r.2.piers.contains p && r.2.job.isSome) = false) (hsince : 25000 ≤ s.now - (s.pier p).hbmBusyAt) :
    exec (.hbmSelfRefreshEntry p) s = .next (s.updPier p fun q => { q with selfRefresh := true }) := by
  have hx : exec (.hbmSelfRefreshEntry p) s = execHbmSelfRefreshEntry p s := rfl
  rw [hx, execHbmSelfRefreshEntry]
  simp only [hup, hp, hsr, hjobs, tMs, State.since]
  rw [if_pos (by simpa using hsince)]

/-- Settles O15: each event by its equation; a wake leaves the Course Warm and counts for its partition. -/
theorem coursesGateAndWake : Obligations.CoursesGateAndWake := by
  refine ⟨fun s c => exec_courseGate_unheld, ?wake, fun s p => exec_hbmSelfRefreshEntry_idle⟩
  case wake =>
    intro s c p ref x hup hw hx hq hh hp hr
    obtain ⟨b, hself⟩ := s.checkRef_course_self c ref
    have hcourse (k : Nat) (u : State) (f : PartCounters → PartCounters) : (u.updPartCtr p f).course k = u.course k := by
      simp [State.course, State.updPartCtr]
    refine ⟨_, exec_courseWake_done ref hup hw hq hh hp hr, ?_, ?_, ?_, ?_, fun k hk => ?_⟩
    · rw [hcourse, State.updCourse_course_self, hself]
    · rw [hcourse, State.updCourse_course_self]
    · rw [hcourse, State.updCourse_course_self, hself]
    · have hpart : ((s.checkRef c ref).updCourse c fun k => { k with power := max 1 k.power, waking := none, busyAt := s.now }).part? p = some x := by
        simpa [State.part?] using hx
      exact State.updPart_part hpart _
    · rw [hcourse, State.updCourse_course_ne _ _ hk, State.checkRef_course_ne _ _ hk]

/-! ## Keep-warm (R94) -/

/-- Keep-warm at one Course of a partition: Warm or Running, unless its Pier is in reset. -/
def State.warmCourse (s : State) (k : Nat) : State :=
  if (s.pier (k / 4)).resetting then s else (s.checkRef k (s.course k).refTemp).updCourse k fun q => { q with power := max 1 q.power }

@[simp] theorem State.warmCourse_parts (s : State) (k : Nat) : (s.warmCourse k).parts = s.parts := by
  unfold warmCourse
  split <;> simp

@[simp] theorem State.warmCourse_piers (s : State) (k : Nat) : (s.warmCourse k).piers = s.piers := by
  unfold warmCourse
  split <;> simp

theorem State.warmCourse_course_self {s : State} {k : Nat} (h : (s.pier (k / 4)).resetting = false) : 1 ≤ ((s.warmCourse k).course k).power := by
  rw [warmCourse, if_neg (by simp [h]), State.updCourse_course_self]
  exact Nat.le_max_left ..

theorem State.warmCourse_course_ne (s : State) {k j : Nat} (h : j ≠ k) : (s.warmCourse k).course j = s.course j := by
  unfold warmCourse
  split
  · rfl
  · rw [State.updCourse_course_ne _ _ h, State.checkRef_course_ne _ _ h]

/-- A list of Courses on Piers that are not in reset is Warm afterwards, and a Course that was so stays so. -/
theorem State.foldl_warmCourse (ks : List Nat) : ∀ s : State, (∀ k ∈ ks, (s.pier (k / 4)).resetting = false) →
    (∀ k ∈ ks, 1 ≤ ((ks.foldl warmCourse s).course k).power) ∧
      ∀ j, 1 ≤ (s.course j).power → 1 ≤ ((ks.foldl warmCourse s).course j).power := by
  induction ks with
  | nil => exact fun s _ => ⟨nofun, fun j hj => hj⟩
  | cons k ks ih =>
    intro s h
    have hk := State.warmCourse_course_self (h k (List.mem_cons_self ..))
    obtain ⟨hwarm, hstay⟩ := ih (s.warmCourse k) fun j hj => by
      simpa [State.pier] using h j (List.mem_cons_of_mem _ hj)
    refine ⟨fun j hj => ?_, fun j hj => hstay j ?_⟩
    · rcases List.mem_cons.1 hj with rfl | hj
      · exact hstay _ hk
      · exact hwarm j hj
    · by_cases hjk : j = k
      · rw [hjk]
        exact hk
      · rw [State.warmCourse_course_ne _ hjk]
        exact hj

/-- Keep-warm is in force for a partition that no power-up, Quench, Hold or floor step holds off. -/
theorem State.warmCourses_on {s : State} {p : Nat} {x : Part} (h : s.part? p = some x) (hk : x.keepwarm = true) (hpow : x.powering = false)
    (hq : s.therm.quench = false) (hh : s.power.hold = false) (hf : s.power.floor = false) : s.warmCourses p = x.courses.foldl warmCourse s := by
  simp only [warmCourses, h, hk, hpow, hq, hh, hf, Bool.not_true, Bool.or_self, Bool.false_eq_true, if_false]
  rfl

@[simp] theorem State.warmCourses_parts (s : State) (p : Nat) : (s.warmCourses p).parts = s.parts := by
  unfold warmCourses
  split
  · rfl
  · split
    · rfl
    · exact foldl_keeps _ State.parts warmCourse_parts _ s

end Sys2Proof.Machine
end

section
/-! SUPPORT. PART_DESTROY, PART_QUERY, PART_KEEPWARM and PART_COUNTERS (R94, R99-R101). -/

namespace Sys2Proof.Machine

/-! ## Requests of their layout -/

section
variable {s : State} {m : Mb} {r : Req} (hl : r.len = 4)
include hl

theorem exec_partDestroy (h : s.runs m 0x0202 false = some r) (hz : r.u16 2 = 0) :
    exec (.partDestroy m) s = .next (((s.taken m).partDestroy r).1.respond m 0x0202 r.tag ((s.taken m).partDestroy r).2) :=
  congrArg Host.Outcome.next (State.mbRun_ok (lenIs 4 [(2, 2)]) State.partDestroy h (lenIs_ok hl fun _ hp => List.mem_singleton.1 hp ▸ hz))

theorem exec_partQuery (h : s.runs m 0x0203 false = some r) (hz : r.u16 2 = 0) :
    exec (.partQuery m) s = .next (((s.taken m).partQuery r).1.respond m 0x0203 r.tag ((s.taken m).partQuery r).2) :=
  congrArg Host.Outcome.next (State.mbRun_ok (lenIs 4 [(2, 2)]) State.partQuery h (lenIs_ok hl fun _ hp => List.mem_singleton.1 hp ▸ hz))

theorem exec_partKeepwarm (h : s.runs m 0x0204 false = some r) (hz : field r.pay 3 1 = 0) :
    exec (.partKeepwarm m) s = .next (((s.taken m).partKeepwarm r).1.respond m 0x0204 r.tag ((s.taken m).partKeepwarm r).2) :=
  congrArg Host.Outcome.next (State.mbRun_ok (lenIs 4 [(3, 1)]) State.partKeepwarm h (lenIs_ok hl fun _ hp => List.mem_singleton.1 hp ▸ hz))

theorem exec_partCounters (h : s.runs m 0x0205 false = some r) (hz : r.u16 2 = 0) :
    exec (.partCounters m) s = .next (((s.taken m).partCounters r).1.respond m 0x0205 r.tag ((s.taken m).partCounters r).2) :=
  congrArg Host.Outcome.next (State.mbRun_ok (lenIs 4 [(2, 2)]) State.partCounters h (lenIs_ok hl fun _ hp => List.mem_singleton.1 hp ▸ hz))

end

/-! ## PART_DESTROY (R94, R101) -/

theorem State.clearPart_empties {s : State} {pid : Nat} {p : Part} (h : s.part? pid = some p) : s.Empties (s.clearPart pid) := by
  obtain ⟨ts, ps, cb, heq⟩ := State.clearPart_eq h
  rw [heq]
  exact .trans ⟨s.parts, ts, ps, s.courses, cb, rfl⟩ (State.updPart_empties ..)

theorem State.gatePier_empties (s : State) (q : Nat) : s.Empties (s.gatePier q) := by
  unfold gatePier
  split
  · exact .refl s
  · exact .trans ⟨s.parts, s.tiles, _, s.courses, s.mem.cbuf, rfl⟩ (.of_fold (fun _ _ => State.updCourse_empties ..) _ _)

@[simp] theorem State.gatePier_parts (s : State) (q : Nat) : (s.gatePier q).parts = s.parts := by
  unfold gatePier
  split
  · rfl
  · exact foldl_keeps _ State.parts (by intros; rfl) _ _

/-- The Courses of a list are quiet from now on. -/
def State.settleCourses (s : State) (cs : List Nat) : State := cs.foldl (fun s k => s.updCourse k fun q => { q with busyAt := s.now }) s

theorem State.settleCourses_empties (s : State) (cs : List Nat) : s.Empties (s.settleCourses cs) :=
  .of_fold (fun _ _ => State.updCourse_empties ..) cs s

@[simp] theorem State.settleCourses_parts (s : State) (cs : List Nat) : (s.settleCourses cs).parts = s.parts :=
  foldl_keeps _ State.parts (by intros; rfl) cs s

theorem State.settleCourses_reqs (cs : List Nat) (k : Nat) : ∀ s : State, ((s.settleCourses cs).course k).reqs = (s.course k).reqs := by
  refine foldl_keeps _ (fun s => (s.course k).reqs) (fun s c => ?_) cs
  by_cases hk : k = c
  · rw [hk, State.updCourse_course_self]
  · rw [State.updCourse_course_ne _ _ hk]

/-- The state without a partition's record. -/
def State.dropPart (s : State) (pid : Nat) : State := { s with parts := s.parts.del pid }

section
variable {s : State} {pid : Nat} {p : Part} (h : s.part? pid = some p) (hr : ∀ k ∈ p.courses, (s.course k).reqs = [])
include h hr

/-- Where no request waits at its Courses, a removed partition is cleared and its record goes; its Courses are quiet and its Piers may be gated. -/
theorem State.removePart_eq : s.removePart pid = p.piers.foldl gatePier (((s.clearPart pid).dropPart pid).settleCourses p.courses) := by
  have hcourses : (s.clearPart pid).courses = s.courses := by
    obtain ⟨ts, ps, cb, heq⟩ := State.clearPart_eq h
    rw [heq, State.updPart_courses]
  have hreqs : ∀ k ∈ p.courses, ((((s.clearPart pid).dropPart pid).settleCourses p.courses).course k).reqs = [] := fun k hk => by
    rw [State.settleCourses_reqs]
    simpa [State.course, State.dropPart, hcourses] using hr k hk
  simp only [removePart, h]
  exact congrArg (p.piers.foldl gatePier) (State.foldl_applyDue_nil false p.courses _ hreqs)

theorem State.removePart_empties : s.Empties (s.removePart pid) := by
  rw [State.removePart_eq h hr]
  have hdrop : (s.clearPart pid).Empties ((s.clearPart pid).dropPart pid) := ⟨_, _, _, _, _, rfl⟩
  exact (((State.clearPart_empties h).trans hdrop).trans (State.settleCourses_empties ..)).trans (.of_fold State.gatePier_empties _ _)

theorem State.removePart_parts : (s.removePart pid).parts = (s.clearPart pid).parts.del pid := by
  rw [State.removePart_eq h hr, foldl_keeps gatePier State.parts State.gatePier_parts, State.settleCourses_parts]
  rfl

theorem State.removePart_part_self : (s.removePart pid).part? pid = none := by
  rw [part?, State.removePart_parts h hr, Tbl.find?_del_self]

theorem State.removePart_part_ne {k : Nat} (hk : k ≠ pid) : (s.removePart pid).part? k = s.part? k := by
  obtain ⟨ts, ps, cb, heq⟩ := State.clearPart_eq h
  rw [part?, State.removePart_parts h hr, Tbl.find?_del_ne _ hk.symm, heq]
  exact State.updPart_part_ne _ _ hk

end

section
variable {s : State} {r : Req} {x : Part} (hx : s.part? (r.u16 0) = some x) (hh : s.held (1, r.u16 0) = false)
include hx hh

theorem State.partDestroy_bound (hb : s.boundCtxs (r.u16 0) ≠ []) : s.partDestroy r = (s, failR St.refused 1) := by
  have he : (s.boundCtxs (r.u16 0)).isEmpty = false := List.isEmpty_eq_false_iff.2 hb
  simp only [partDestroy, hx, hh, he]
  rfl

theorem State.partDestroy_running (hb : s.boundCtxs (r.u16 0) = []) (hj : x.job ≠ none) (hop : s.mason.lastOp + 1 < 2 ^ 32) :
    ∃ t : State, s.partDestroy r = (t, { status := St.accepted, arg := s.mason.lastOp + 1 }) ∧ t.part? (r.u16 0) = some { x with state := 3 } ∧
      t.mem = s.mem ∧ t.ctxs = s.ctxs := by
  simp only [partDestroy, hx, hh, hb, Option.isSome_iff_ne_none.2 hj, List.isEmpty_nil, Bool.not_true, Bool.false_eq_true, if_false, if_true,
    accept, State.updPart_mason, if_pos hop]
  exact ⟨_, rfl, State.updPart_part hx _, State.updPart_mem .., State.updPart_ctxs ..⟩

theorem State.partDestroy_idle (hb : s.boundCtxs (r.u16 0) = []) (hj : x.job = none) : s.partDestroy r = (s.removePart (r.u16 0), okR []) := by
  simp [partDestroy, hx, hh, hb, hj]

/-! ## PART_KEEPWARM (R94) -/

theorem State.partKeepwarm_stays (hk : x.keepwarm = false) (h0 : r.u8 2 = 0) :
    s.partKeepwarm r = (s.updPart (r.u16 0) fun x => { x with keepwarm := false }, okR []) := by
  have hoff := State.warmCourses_off (State.updPart_part hx fun y => { y with keepwarm := false }) rfl
  simp only [partKeepwarm, hx, hh, hk, h0]
  exact Prod.ext hoff rfl

theorem State.partKeepwarm_on (h1 : r.u8 2 = 1) :
    s.partKeepwarm r = ((s.updPart (r.u16 0) fun x => { x with keepwarm := true }).warmCourses (r.u16 0), okR []) := by
  simp [partKeepwarm, hx, hh, h1]

end

/-- Settles O13: each command's body on the state whose request was taken. -/
theorem partitionCommandsAct : Obligations.PartitionCommandsAct := by
  intro s m r hl
  refine ⟨?bound, ?running, ?idle, ?query, ?stays, ?on, ?counters, ?unknown⟩
  case bound =>
    intro h hz x hx hh hb
    rw [exec_partDestroy hl h hz, State.partDestroy_bound (s := s.taken m) hx hh hb]
    rfl
  case running =>
    intro h hz x hx hh hb hj hop
    obtain ⟨t, heq, ht⟩ := State.partDestroy_running (s := s.taken m) hx hh hb hj hop
    exact ⟨t, by rw [exec_partDestroy hl h hz, heq]; rfl, ht⟩
  case idle =>
    intro h hz x hx hh hb hj hr
    have hx' : (s.taken m).part? (r.u16 0) = some x := hx
    have hkept := State.removePart_empties hx' hr
    refine ⟨_, by rw [exec_partDestroy hl h hz, State.partDestroy_idle hx' hh hb hj], State.removePart_part_self hx' hr,
      fun p hp => State.removePart_part_ne hx' hr hp, hkept.keeps State.ctxs fun _ _ _ _ _ => rfl, hkept.keeps State.plans fun _ _ _ _ _ => rfl,
      hkept.keeps (·.mem.hbm) fun _ _ _ _ _ => rfl⟩
  case query =>
    intro h hz x hx
    have hx' : (s.taken m).part? (r.u16 0) = some x := hx
    rw [exec_partQuery hl h hz]
    simp only [State.partQuery, hx']
    rfl
  case stays =>
    intro h hz x hx h0 hh hk
    rw [exec_partKeepwarm hl h hz, State.partKeepwarm_stays (s := s.taken m) hx hh hk h0]
  case on =>
    intro h hz x hx h1 hh
    have hx' : (s.taken m).part? (r.u16 0) = some x := hx
    have hpart := State.updPart_part hx' fun x => { x with keepwarm := true }
    refine ⟨_, by rw [exec_partKeepwarm hl h hz, State.partKeepwarm_on hx' hh h1], by rw [State.part?, State.warmCourses_parts]; exact hpart, ?_⟩
    intro hp hq hhold hf hreset k hk
    rw [State.warmCourses_on hpart rfl hp (by simpa using hq) (by simpa using hhold) (by simpa using hf)]
    exact (State.foldl_warmCourse x.courses _ fun j hj => by simpa [State.pier] using hreset j hj).1 k hk
  case counters =>
    intro h hz x hx
    have hx' : (s.taken m).part? (r.u16 0) = some x := hx
    rw [exec_partCounters hl h hz]
    simp only [State.partCounters, hx']
    rfl
  case unknown =>
    intro h hz hx
    have hx' : (s.taken m).part? (r.u16 0) = none := hx
    rw [exec_partQuery hl h hz]
    simp only [State.partQuery, hx']
    rfl

end Sys2Proof.Machine
end

section
/-! SUPPORT. The start of a batch (R80, R144, R145, R154, R262). -/

namespace Sys2Proof.Machine

/-! ## What forming a batch leaves unchanged -/

theorem State.planOf_of_plans {s t : State} (h : t.plans = s.plans) (p : Part) : t.planOf p = s.planOf p := by
  have hplan : t.plan? = s.plan? := funext fun k => by rw [plan?, h, plan?]
  rw [planOf, hplan, planOf]

/-- `t` has the partitions and plans of `s`, at the same time. -/
def State.SameJobs (s t : State) : Prop := t.parts = s.parts ∧ t.plans = s.plans ∧ t.now = s.now

theorem State.SameJobs.refl (s : State) : s.SameJobs s := ⟨rfl, rfl, rfl⟩

theorem State.SameJobs.trans {s t u : State} (h1 : s.SameJobs t) (h2 : t.SameJobs u) : s.SameJobs u := by
  obtain ⟨hparts, hplans, hnow⟩ := h1
  obtain ⟨hparts', hplans', hnow'⟩ := h2
  exact ⟨hparts'.trans hparts, hplans'.trans hplans, hnow'.trans hnow⟩

theorem State.SameJobs.of_fold {β : Type} {g : State → β → State} (h : ∀ s x, State.SameJobs s (g s x)) (l : List β) :
    ∀ s, State.SameJobs s (l.foldl g s) := by
  induction l with
  | nil => exact fun s => .refl s
  | cons x l ih => exact fun s => (h s x).trans (ih _)

theorem State.Sheds.sameJobs {s t : State} (h : s.Sheds t) : s.SameJobs t :=
  ⟨h.keeps State.parts fun _ _ _ _ => rfl, h.keeps State.plans fun _ _ _ _ => rfl, h.keeps State.now fun _ _ _ _ => rfl⟩

theorem State.updCtx_sameJobs (s : State) (n : Nat) (f : Ctx → Ctx) : s.SameJobs (s.updCtx n f) := (State.updCtx_emits ..).sheds.sameJobs

theorem State.displace_sheds (s : State) (i : Item) : s.Sheds (s.displace i) := (State.updCtx_emits ..).sheds.trans (State.loss_sheds ..)

theorem State.unqueue_sheds (s : State) (i : Item) : s.Sheds (s.unqueue i) := (State.updCtx_emits ..).sheds.trans (State.quietFrom_sheds ..)

theorem State.takeItems_sheds (s : State) (is : List Item) : s.Sheds (s.takeItems is) := .of_fold State.unqueue_sheds is s

theorem State.latchVision_sameJobs (s : State) (ctxs : List Nat) (b : Bool) : s.SameJobs (s.latchVision ctxs b) :=
  .of_fold (fun _ _ => State.updCtx_sameJobs ..) ctxs s

theorem State.latchFacing_sameJobs (s : State) (pid : Nat) (slots : List (Option Item)) : s.SameJobs (s.latchFacing pid slots) := by
  refine .of_fold (fun s x => ?_) slots s
  split
  · split
    · exact State.updCtx_sameJobs ..
    · exact .refl s
  · exact .refl s

theorem State.hbmWriteN_sameJobs (s : State) (tenant off : Nat) (bs : List Byte) : s.SameJobs (s.hbmWriteN tenant off bs) :=
  ⟨State.hbmWriteN_keeps State.parts (fun _ _ => rfl) .., State.hbmWriteN_keeps State.plans (fun _ _ => rfl) ..,
    State.hbmWriteN_keeps State.now (fun _ _ => rfl) ..⟩

theorem State.placeImage_sameJobs (s : State) (pid : Nat) (p : Part) (pl : Plan) (v : VisionRec) (fresh ring : Bool) (x : Option Item × Nat) :
    s.SameJobs (s.placeImage pid p pl v fresh ring x) := by
  have hpush (s : State) (j : FacingJob) : s.SameJobs (s.pushFacing p j) := ⟨rfl, rfl, rfl⟩
  unfold placeImage
  dsimp only
  split
  · have hwrite (u : State) (dst : Nat) (bs : List Byte) (hu : s.SameJobs u) : s.SameJobs (if fresh then u.hbmWriteN p.tenant dst bs else u) := by
      split
      · exact hu.trans (State.hbmWriteN_sameJobs ..)
      · exact hu
    cases ring with
    | false => exact hwrite s _ _ (.refl s)
    | true => exact hwrite _ _ _ (hpush ..)
  · split
    · exact hpush ..
    · split
      · exact .refl s
      · exact State.hbmWriteN_sameJobs ..

theorem State.placeImages_sameJobs (s : State) (pid : Nat) (p : Part) (pl : Plan) (v : VisionRec) (fresh : Bool) (slots : List (Option Item)) :
    s.SameJobs (s.placeImages pid p pl v fresh slots) :=
  .of_fold (fun _ _ => State.placeImage_sameJobs ..) _ s

/-! ## The start of a job (R80) -/

/-- The Courses of a starting job run from now. -/
def State.runCourses (s : State) (cs : List Nat) : State := cs.foldl (fun s c => s.updCourse c fun k => { k with power := 2, busyAt := s.now }) s

theorem State.runCourses_sameJobs (s : State) (cs : List Nat) : s.SameJobs (s.runCourses cs) :=
  .of_fold (g := fun s c => s.updCourse c fun k => { k with power := 2, busyAt := s.now }) (fun _ _ => ⟨rfl, rfl, rfl⟩) cs s

theorem State.runCourses_power (cs : List Nat) : ∀ (s : State) (c : Nat), (c ∈ cs ∨ (s.course c).power = 2) → ((s.runCourses cs).course c).power = 2 := by
  induction cs with
  | nil => exact fun s c h => h.resolve_left List.not_mem_nil
  | cons k cs ih =>
    intro s c h
    refine ih _ c ?_
    by_cases hck : c = k
    · exact .inr (by rw [hck, State.updCourse_course_self])
    · rw [State.updCourse_course_ne _ _ hck]
      exact h.imp_left fun hm => (List.mem_cons.1 hm).resolve_left hck

/-- A partition whose Chisels have their preloads and nothing else of a batch. -/
def Part.Preloaded (q p : Part) (j : Job) : Prop := q.job = some j ∧ q.ordinal = j.ordinal ∧ q.state = 2 ∧ q.sems = [] ∧ q.waits = [] ∧
  ∀ n, n < p.size → (q.chisel n).gr 1 = BitVec.ofNat 64 n ∧ (q.chisel n).gr 2 = BitVec.ofNat 64 p.size ∧ (q.chisel n).gr 3 = BitVec.ofNat 64 j.seq ∧
    (q.chisel n).pc = 0 ∧ (q.chisel n).acc = [] ∧ (q.chisel n).stall = .run ∧ (q.chisel n).bndry = false

theorem State.preload_regs (s : State) (p : Part) (pl : Plan) (seq n : Nat) : (s.preload p pl seq n).gr 1 = BitVec.ofNat 64 n ∧
    (s.preload p pl seq n).gr 2 = BitVec.ofNat 64 p.size ∧ (s.preload p pl seq n).gr 3 = BitVec.ofNat 64 seq ∧ (s.preload p pl seq n).pc = 0 ∧
    (s.preload p pl seq n).acc = [] ∧ (s.preload p pl seq n).stall = .run ∧ (s.preload p pl seq n).bndry = false :=
  ⟨rfl, rfl, rfl, rfl, rfl, rfl, rfl⟩

/-- A table made by a function over the first `n` numbers gives the function's values. -/
theorem get_map_range {α : Type} (d : α) (f : Nat → α) {n i : Nat} (h : i < n) : Tbl.get d ((List.range n).map fun k => (k, f k)) i = f i := by
  have hfind (l : List Nat) : i ∈ l → Tbl.find? (l.map fun k => (k, f k)) i = some (f i) := by
    induction l with
    | nil => exact (absurd · List.not_mem_nil)
    | cons k l ih =>
      intro hi
      rw [List.map_cons, Tbl.find?]
      split
      · next hk => rw [hk]
      · next hk => exact ih ((List.mem_cons.1 hi).resolve_left (Ne.symm hk))
  rw [Tbl.get, hfind _ (List.mem_range.2 h), Option.getD_some]

/-- What a starting job leaves: the partition preloaded, its Courses running, and every other partition as it was. -/
theorem State.startJob_preloads {s : State} {pid : Nat} {p : Part} {pl : Plan} (h : s.part? pid = some p) (hpl : s.planOf p = some pl) (j : Job) :
    (∃ q, (s.startJob pid j).part? pid = some q ∧ q.Preloaded p { j with start := s.now }) ∧
      (∀ c ∈ p.courses, ((s.startJob pid j).course c).power = 2) ∧ (∀ k, k ≠ pid → (s.startJob pid j).part? k = s.part? k) ∧
      (s.startJob pid j).plans = s.plans ∧ (s.startJob pid j).now = s.now := by
  unfold startJob
  simp only [h, Option.bind_some, hpl]
  generalize hf : s.updPart pid _ = u
  have hu : (p.courses.foldl _ u) = u.runCourses p.courses := rfl
  rw [hu]
  obtain ⟨hparts, hplans, hnow⟩ := u.runCourses_sameJobs p.courses
  have hpart (k : Nat) : (u.runCourses p.courses).part? k = u.part? k := by rw [part?, hparts, part?]
  refine ⟨⟨_, (hpart pid).trans (hf ▸ State.updPart_part h _), rfl, rfl, rfl, rfl, rfl, fun n hn => ?_⟩,
    fun c hc => State.runCourses_power _ _ _ (.inl hc), fun k hk => (hpart k).trans (hf ▸ State.updPart_part_ne _ _ hk),
    hplans.trans (hf ▸ State.updPart_plans ..), hnow.trans (hf ▸ State.updPart_now ..)⟩
  rw [Part.chisel, get_map_range _ (fun n => s.preload p pl _ n) hn]
  exact s.preload_regs p pl _ n

/-! ## A vision batch (R145) -/

/-- A vision batch starts as a fresh job of BATCH slots. -/
theorem State.startVision_preloads {s : State} {pid : Nat} {p : Part} {pl : Plan} (h : s.part? pid = some p) (hpl : s.planOf p = some pl)
    (v : VisionRec) (ordinal : Nat) (slots : List (Option Item)) (failed : List Item) : ∃ (q : Part) (j : Job),
      (s.startVision pid p pl v ordinal slots failed).part? pid = some q ∧ q.Preloaded p j ∧
      (j.ordinal = ordinal ∧ j.slots.length = v.batch ∧ j.run = 1 ∧ j.marked = false ∧ j.planErr = none ∧ j.start = s.now) ∧
      (∀ c ∈ p.courses, ((s.startVision pid p pl v ordinal slots failed).course c).power = 2) ∧
      (∀ k, k ≠ pid → (s.startVision pid p pl v ordinal slots failed).part? k = s.part? k) ∧
      (s.startVision pid p pl v ordinal slots failed).plans = s.plans ∧ (s.startVision pid p pl v ordinal slots failed).now = s.now := by
  unfold startVision
  dsimp only
  generalize hslots : (slots ++ List.replicate (v.batch - slots.length) none).take v.batch = full
  have hlen : full.length = v.batch := by
    rw [← hslots, List.length_take, List.length_append, List.length_replicate]
    omega
  generalize hlatched : s.latchVision _ _ = s1
  obtain ⟨hparts1, hplans1, hnow1⟩ : s.SameJobs s1 := hlatched ▸ State.latchVision_sameJobs ..
  have hpart1 (k : Nat) : s1.part? k = s.part? k := by rw [part?, hparts1, part?]
  generalize hu : State.hbmTouch _ (p.piers.headD 0) = u
  obtain ⟨hparts, hplans, hnow⟩ : (s1.updPart pid fun r => { r with results := [] }).SameJobs u :=
    hu ▸ ((State.latchFacing_sameJobs ..).trans (State.placeImages_sameJobs ..)).trans (State.hbmTouch_sheds ..).sameJobs
  have hpart (k : Nat) : u.part? k = (s1.updPart pid fun r => { r with results := [] }).part? k := by rw [part?, hparts, part?]
  have hself : u.part? pid = some { p with results := [] } := (hpart pid).trans (State.updPart_part ((hpart1 pid).trans h) _)
  replace hplans : u.plans = s.plans := by rw [hplans, State.updPart_plans, hplans1]
  replace hnow : u.now = s.now := by rw [hnow, State.updPart_now, hnow1]
  have hplan : u.planOf { p with results := [] } = some pl := (State.planOf_of_plans hplans p).trans hpl
  obtain ⟨⟨q, hq, hpre⟩, hpower, hother, hplans', hnow'⟩ := State.startJob_preloads hself hplan { emptyJob ordinal with slots := full, failed }
  exact ⟨q, _, hq, hpre, ⟨rfl, hlen, rfl, rfl, rfl, hnow⟩, hpower,
    fun k hk => by rw [hother k hk, hpart, State.updPart_part_ne _ _ hk, hpart1], hplans'.trans hplans, hnow'.trans hnow⟩

/-- Nothing to shed: the coming lead has no shed entries. -/
theorem State.shedLed_nothing {s : State} {r : Res} (h : ∀ i ∈ s.queuedOn r, ∀ c, s.ctx? i.ctx = some c → s.sheddable c i = false) :
    s.shedLed r = (s, []) := by
  unfold shedLed
  split
  · rfl
  · rw [List.filter_eq_nil_iff.2]
    · rfl
    · intro i hi
      cases hc : s.ctx? i.ctx with
      | none => simp
      | some c => simp [h i hi c hc]

/-- The batch of the items that are ready. -/
def State.readyBatch (s : State) (pid : Nat) (p : Part) (pl : Plan) (v : VisionRec) : List Item × List Item :=
  s.formLoop v (s.guardSlots pid pl.boundaryUs (s.partD p)) ((s.readyItems [] [] (s.queuedOn (some pid))).length + 1)
    (s.readyItems [] [] (s.queuedOn (some pid))) []

/-- On a module in no pair, with nothing to shed, a formed batch starts after its items left their queues. -/
theorem State.formVision_starts {s : State} {pid : Nat} {p : Part} {pl : Plan} {v : VisionRec} (hrole : s.twin.role = 0)
    (hshed : s.shedLed (some pid) = (s, [])) (hb : (s.readyBatch pid p pl v).1 ≠ []) : ∃ (t : State) (slots : List (Option Item)) (failed : List Item),
      s.SameJobs t ∧ s.formVision pid p pl v = t.startVision pid p pl v (p.ordinal + 1) slots failed := by
  unfold readyBatch at hb
  unfold formVision
  simp only [hshed]
  generalize hloop : s.formLoop v _ _ _ _ = bf at hb ⊢
  obtain ⟨b, failed⟩ := bf
  generalize ht : State.takeItems _ (b ++ failed) = t
  have hsheds : s.Sheds t := ht ▸ (State.Sheds.of_fold State.displace_sheds _ s).trans (State.takeItems_sheds ..)
  have hlead : t.leadsPart p = false := by
    rw [leadsPart, hsheds.keeps (fun s => s.twin) fun _ _ _ _ => rfl, hrole]
    rfl
  have hne : b.isEmpty = false := List.isEmpty_eq_false_iff.2 hb
  exact ⟨t, _, failed, hsheds.sameJobs, by rw [hlead, hne]; rfl⟩

/-! ## BATCH_START and BATCH_FILL_TIMEOUT -/

section
variable {s : State} {pid : Nat} {p : Part} {pl : Plan} {v : VisionRec} (h : s.part? pid = some p) (hpl : s.planOf p = some pl)
include h hpl

/-- A due batch of a partition with no restart and no lead waiting. -/
theorem exec_batchStart_due (hv : s.visionOf p = some v) (hcan : s.canStart p = true) (ha : p.again = none) (hl : p.leads = [])
    (hrole : s.twin.role = 0) (hdue : s.visionDue pid v = true) : exec (.batchStart pid) s = .next (s.formVision pid p pl v) := by
  have hx : exec (.batchStart pid) s = .next (s.startDue pid) := rfl
  rw [hx, State.startDue]
  simp [h, hpl, hcan, ha, hl, hv, hrole, hdue]

theorem exec_batchStart_again (hcan : s.canStart p = true) {j : Job} (ha : p.again = some j) :
    exec (.batchStart pid) s = .next (s.restartJob pid p pl j) := by
  have hx : exec (.batchStart pid) s = .next (s.startDue pid) := rfl
  rw [hx, State.startDue]
  simp [h, hpl, hcan, ha]

theorem exec_batchFillTimeout_due (hv : s.visionOf p = some v) (hcan : s.canStart p = true) (ha : p.again = none) (hl : p.leads = [])
    (hrole : s.twin.role = 0) (hdue : s.fillDue (s.readyItems [] [] (s.queuedOn (some pid))) = true) :
    exec (.batchFillTimeout pid) s = .next (s.formVision pid p pl v) := by
  have hx : exec (.batchFillTimeout pid) s = execBatchFillTimeout pid s := rfl
  rw [hx, execBatchFillTimeout]
  simp [h, hpl, hv, hcan, ha, hl, hrole, hdue]

theorem exec_batchFillTimeout_early (hv : s.visionOf p = some v)
    (hdue : s.fillDue (s.readyItems [] [] (s.queuedOn (some pid))) = false) : exec (.batchFillTimeout pid) s = .next s := by
  have hx : exec (.batchFillTimeout pid) s = execBatchFillTimeout pid s := rfl
  rw [hx, execBatchFillTimeout]
  simp [h, hpl, hv, hdue]

end

/-! ## A restart (R262) -/

theorem State.startJob_flt (s : State) (pid : Nat) (j : Job) : (s.startJob pid j).flt = s.flt := by
  unfold startJob
  split
  · exact (foldl_keeps _ State.flt (by intros; rfl) _ _).trans (State.updPart_flt ..)
  · rfl

/-- The module counts every restart. -/
theorem State.restartJob_flt_restarts (s : State) (pid : Nat) (p : Part) (pl : Plan) (j : Job) :
    (s.restartJob pid p pl j).flt.restarts = sat32 s.flt.restarts 1 := by
  unfold restartJob
  dsimp only
  rw [State.startJob_flt]
  split
  · rename_i v hv
    obtain ⟨ps, hps⟩ := State.placeImages_restart _ pid p pl v j.slots
    rw [hps]
    simp
  · simp

/-- The partition of a restarted job counts the restart. -/
theorem State.restartJob_ctr {s : State} {pid : Nat} {p q : Part} {pl : Plan} (h : s.part? pid = some p) (hpl : s.planOf p = some pl) (j : Job)
    (hq : (s.restartJob pid p pl j).part? pid = some q) : q.ctr.restarts = sat32 p.ctr.restarts 1 := by
  obtain ⟨t, heq, -, hplans, hpart⟩ := State.restartJob_eq h pl j
  have hplan : t.planOf { p with ctr.restarts := sat32 p.ctr.restarts 1 } = some pl :=
    (State.planOf_of_plans hplans p).trans hpl
  obtain ⟨-, q', hq', -, -, hctr⟩ := State.startJob_part hpart hplan j.fresh
  rw [heq, hq', Option.some.injEq] at hq
  rw [← hq, hctr]

/-- Settles O28: a due batch forms from the ready items and starts preloaded; before FILL_US nothing happens; a restart keeps its job's items. -/
theorem batchesStartWithPreloadedChisels : Obligations.BatchesStartWithPreloadedChisels := by
  intro s pid p pl v h hpl hv hcan
  refine ⟨fun ha hl hrole hshed hb e he hdue => ?start, fun _ _ hdue => exec_batchFillTimeout_early h hpl hv hdue,
    fun j hj => ⟨exec_batchStart_again h hpl hcan hj, ?restart⟩⟩
  case start =>
    have hform : exec e.1 s = .next (s.formVision pid p pl v) := by
      rcases List.mem_pair.1 he with rfl | rfl
      · exact exec_batchStart_due h hpl hv hcan ha hl hrole hdue
      · exact exec_batchFillTimeout_due h hpl hv hcan ha hl hrole hdue
    obtain ⟨t, slots, failed, ⟨hparts, hplans, hnow⟩, heq⟩ := State.formVision_starts hrole (State.shedLed_nothing hshed) hb
    have hpart (k : Nat) : t.part? k = s.part? k := by rw [State.part?, hparts, State.part?]
    have hplan : t.planOf p = some pl := (State.planOf_of_plans hplans p).trans hpl
    obtain ⟨q, j, hq, ⟨hjob, hord, hstate, hsems, hwaits, hchisels⟩, ⟨hj, hslots, hrun, hmarked, herr, hstart⟩, hpower, hother, hplans', hnow'⟩ :=
      State.startVision_preloads ((hpart pid).trans h) hplan v (p.ordinal + 1) slots failed
    exact ⟨_, q, j, hform, heq ▸ hq, hjob, hj, hord.trans hj, hslots, hrun, hmarked, herr, hstart.trans hnow, hstate, hsems, hwaits, hchisels,
      heq ▸ hpower, fun k hk => heq ▸ (hother k hk).trans (hpart k), heq ▸ hplans'.trans hplans, heq ▸ hnow'.trans hnow⟩
  case restart =>
    obtain ⟨-, q, hq, hjob, hagain, -⟩ := State.restartJob_part h hpl j
    exact ⟨q, _, hq, hjob, rfl, rfl, rfl, rfl, hagain, State.restartJob_ctr h hpl j hq, State.restartJob_flt_restarts ..⟩

end Sys2Proof.Machine
end

section
/-! SUPPORT. The plan-image commands and the sets of the internal channels (R98, R100, R101, R112, R123, R354). -/

namespace Sys2Proof.Machine

/-! ## Requests of their layout -/

section
variable {s : State} {m : Mb} {r : Req}

theorem exec_planLoad (h : s.runs m 0x0401 false = some r) (hl : r.len = 24) (hz : field r.pay 1 7 = 0) :
    exec (.planLoad m) s = .next (((s.taken m).planLoad r).1.respond m 0x0401 r.tag ((s.taken m).planLoad r).2) :=
  congrArg Host.Outcome.next (State.mbRun_ok (lenIs 24 [(1, 7)]) State.planLoad h (lenIs_ok hl fun _ hp => List.mem_singleton.1 hp ▸ hz))

theorem exec_planBind (h : s.runs m 0x0402 false = some r) (hl : r.len = 8) (hz : r.u16 2 = 0) :
    exec (.planBind m) s = .next (((s.taken m).planBind r).1.respond m 0x0402 r.tag ((s.taken m).planBind r).2) :=
  congrArg Host.Outcome.next (State.mbRun_ok (lenIs 8 [(2, 2)]) State.planBind h (lenIs_ok hl fun _ hp => List.mem_singleton.1 hp ▸ hz))

theorem exec_planUnload (h : s.runs m 0x0403 false = some r) (hl : r.len = 4) :
    exec (.planUnload m) s = .next (((s.taken m).planUnload r).1.respond m 0x0403 r.tag ((s.taken m).planUnload r).2) :=
  congrArg Host.Outcome.next (State.mbRun_ok (lenIs 4 []) State.planUnload h (lenIs_ok hl nofun))

theorem exec_planInfo (h : s.runs m 0x0404 false = some r) (hl : r.len = 4) :
    exec (.planInfo m) s = .next (((s.taken m).planInfo r).1.respond m 0x0404 r.tag ((s.taken m).planInfo r).2) :=
  congrArg Host.Outcome.next (State.mbRun_ok (lenIs 4 []) State.planInfo h (lenIs_ok hl nofun))

end

/-! ## PLAN_LOAD (R98) -/

/-- An accepted load takes the next PLAN_ID and the next operation number. -/
theorem State.planLoad_accepted {s : State} {r : Req} (ht : r.u8 0 < 64) (ho : s.tenantOpen (r.u8 0) = true) (halign : r.u64 8 % 4096 = 0)
    (hmin : 128 ≤ r.u64 0x10) (hmax : r.u64 0x10 ≤ 2 ^ 40) (hop : s.mason.lastOp + 1 < 2 ^ 32) (hid : s.lastPlan + 1 < 2 ^ 32) :
    s.planLoad r = ({ s with lastPlan := s.lastPlan + 1, mason.lastOp := s.mason.lastOp + 1, mason.ops :=
        s.mason.ops ++ [⟨s.mason.lastOp + 1, r.mb, r.code, r.tag, .planLoad (s.lastPlan + 1) (r.u8 0) (r.u64 8) (r.u64 0x10)⟩] },
      { status := St.accepted, arg := s.mason.lastOp + 1, payload := leBytes 4 (s.lastPlan + 1) }) := by
  have hmax' : r.u64 0x10 ≤ 1099511627776 := hmax
  have hbad : (r.u64 8 % 4096 != 0 || decide (r.u64 0x10 < 128) || decide (2 ^ 40 < r.u64 0x10)) = false := by
    simp [halign, Nat.not_lt.2 hmin, hmax']
  unfold planLoad
  rw [State.tenantErr_open ht ho]
  simp only [hbad, Bool.false_eq_true, if_false, nextPlan, hid, if_true, accept, hop]

/-! ## The end of a load (R98, R100, R354) -/

theorem State.intDone_runs {s : State} {j : IntJob} (f : State → State) (h : s.syncSets.intRuns j = true) : s.intDone j f = (f s.syncSets).syncSets := by
  unfold intDone
  dsimp only
  rw [if_pos h]

theorem State.intDone_waits {s : State} {j : IntJob} (f : State → State) (h : s.syncSets.intRuns j = false) : s.intDone j f = s := by
  unfold intDone
  dsimp only
  rw [if_neg (by simp [h])]

/-- An image that passes every check is placed, and ends its command with OK. -/
theorem State.loadImage_ok {s s1 : State} {op id t : Nat} {b : List Byte} {pl : Plan} (ho : s.tenantOpen t = true)
    (hcheck : checkImage s.masonVersion s.broup b = none) (hplace : s.placePlan (mkPlan t b ((secEnts b).map (secOf b))) b = some (pl, s1)) :
    s.loadImage op id t b = ({ s1 with plans := s1.plans.set id pl } : State).finishOp op 0x00 := by
  unfold loadImage
  rw [hplace, hcheck, ho]
  rfl

section
variable {s : State} {op : Nat} {o : PendingOp} {id t a n : Nat} (ho : s.op? op = some o) (hk : o.kind = .planLoad id t a n)
include ho hk

theorem exec_planLoadComplete_ok (hq : s.therm.quench = false) (hserves : s.hbmServes ((s.loadImage op id t (s.hostReadN a n)).planStacks id) = true) :
    exec (.planLoadComplete op .ok) s = .next (s.intDone (.op op) fun u =>
      (u.loadImage op id t (u.hostReadN a n)).touchStacks ((u.loadImage op id t (u.hostReadN a n)).planStacks id)) := by
  have hx : exec (.planLoadComplete op .ok) s = execPlanLoadComplete op .ok s := rfl
  rw [hx, execPlanLoadComplete]
  simp only [ho, hk, hq, hserves, Bool.not_true, Bool.false_eq_true, if_false]

theorem exec_planLoadComplete_err (hq : s.therm.quench = false) (c : Nat) :
    exec (.planLoadComplete op (.err c)) s = .next (s.intDone (.op op) fun u => u.readFailed op c) := by
  have hx : exec (.planLoadComplete op (.err c)) s = execPlanLoadComplete op (.err c) s := rfl
  rw [hx, execPlanLoadComplete]
  simp only [ho, hk, hq, Bool.false_eq_true, if_false]

theorem exec_internalReadFail_planLoad (c : Nat) :
    exec (.internalReadFail op c) s = .next (s.intDone (.op op) fun u => u.readFailed op c) := by
  have hx : exec (.internalReadFail op c) s = execInternalReadFail op c s := rfl
  rw [hx, execInternalReadFail]
  simp only [ho, hk]

end

/-- A failed read of an operation of the PF: AER has the code and COMMAND_DONE is posted with BAD_ARG. -/
theorem State.readFailed_pf {s : State} {op : Nat} {o : PendingOp} {i : Nat} (c : Nat) (ho : s.op? op = some o) (hm : o.mb = ⟨.pf, i⟩) :
    s.readFailed op c = (({ s with host.aer := c :: s.host.aer } : State).dropOp op).post 0x0101 8 i
      (leBytes 2 o.code ++ leBytes 1 St.badArg ++ leBytes 1 c ++ leBytes 4 o.tag ++ leBytes 4 op) :=
  State.finishOp_pf _ op o St.badArg c i ho hm

/-! ## Sets of the internal channels (log 124) -/

theorem mem_set_self {α : Type} (t : Tbl α) (i : Nat) (v : α) : (i, v) ∈ Tbl.set t i v := by
  induction t with
  | nil => exact List.mem_singleton.2 rfl
  | cons q t ih =>
    obtain ⟨k, w⟩ := q
    rw [Tbl.set]
    split
    · exact List.mem_cons_self ..
    · split
      · exact List.mem_cons_self ..
      · exact List.mem_cons_of_mem _ ih

theorem mem_of_find? {α : Type} {t : Tbl α} {i : Nat} {v : α} (h : Tbl.find? t i = some v) : (i, v) ∈ t := by
  induction t with
  | nil => exact absurd h (by simp [Tbl.find?])
  | cons q t ih =>
    obtain ⟨k, w⟩ := q
    rw [Tbl.find?] at h
    split at h
    · next hk => rw [hk, Option.some.inj h]; exact List.mem_cons_self ..
    · exact List.mem_cons_of_mem _ (ih h)

/-- After the turn to the only job a channel is free or runs it. -/
theorem IntChannel.turn_only (c : IntChannel) (j : IntJob) : (c.turn [j]).active = some j ∨ c.turn [j] = {} := by
  have hlive (x : Option IntJob) : x.filter [j].contains = some j ∨ x.filter [j].contains = none := by
    cases x with
    | none => exact .inr rfl
    | some k =>
      by_cases hkj : k = j
      · exact .inl (by simp [hkj])
      · exact .inr (by simp [hkj])
  unfold turn
  dsimp only
  rcases hlive c.active with ha | ha
  · rw [ha]; exact .inl rfl
  · rw [ha]
    rcases hlive c.shadow with hs | hs
    · rw [hs]; exact .inl rfl
    · rw [hs]; exact .inr rfl

/-- The only job takes an active set where each channel is free or runs it and one is in service. -/
theorem giveSet_only {retired : List Nat} {t : Tbl IntChannel} {j : IntJob} (ht : ∀ c ∈ t, c.2.active = some j ∨ c.2 = {})
    (hfree : ∃ k, k < 32 ∧ retired.contains k = false) : ((giveSet retired t j).any fun c => c.2.active == some j) = true := by
  unfold giveSet
  split
  · next hholds =>
    obtain ⟨c, hc, hh⟩ := List.any_eq_true.1 hholds
    rcases ht c hc with ha | he
    · exact List.any_eq_true.2 ⟨c, hc, by rw [ha]; exact beq_self_eq_true _⟩
    · rw [he] at hh
      exact absurd hh (by simp [IntChannel.holds])
  · next hholds =>
    have hidle (k : Nat) : (t.get {} k).active.isNone = true := by
      rw [Tbl.get]
      cases hk : Tbl.find? t k with
      | none => rfl
      | some c =>
        have hmem := mem_of_find? hk
        rcases ht _ hmem with ha | he
        · exact absurd (List.any_eq_true.2 ⟨_, hmem, by simp [IntChannel.holds, show c.active = some j from ha]⟩) hholds
        · rw [Option.getD_some, show c = {} from he]; rfl
    obtain ⟨k, hk, hr⟩ := hfree
    cases hl : leastBelow 32 fun k => !retired.contains k && (t.get {} k).active.isNone with
    | none => exact absurd (List.find?_eq_none.1 hl k (List.mem_range.2 hk)) (by rw [hr, hidle]; exact fun h => h rfl)
    | some k' => exact List.any_eq_true.2 ⟨_, mem_set_self .., beq_self_eq_true _⟩

/-- The only job of the internal channels runs while no Hold pauses it and a channel is in service. -/
theorem State.intRuns_only {s : State} {j : IntJob} (hup : s.up = true) (hh : s.power.hold = false) (hj : s.intJobs = [j])
    (hfree : ∃ k, k < 32 ∧ s.mem.intRetired.contains k = false) : s.syncSets.intRuns j = true := by
  have hsets : s.syncSets.mem.intCh = giveSet s.mem.intRetired
      (s.mem.intCh.mapVals fun k c => if s.mem.intRetired.contains k then {} else c.turn [j]) j := by
    unfold syncSets
    rw [hj]
    rfl
  have hrun : (s.syncSets.mem.intCh.any fun c => c.2.active == some j) = true := by
    rw [hsets]
    refine giveSet_only (fun c hc => ?_) hfree
    obtain ⟨q, -, rfl⟩ := List.mem_map.1 hc
    dsimp only
    split
    · exact .inr rfl
    · exact IntChannel.turn_only ..
  have hup' : s.syncSets.up = true := hup
  have hh' : s.syncSets.power.hold = false := hh
  rw [intRuns, hup', hh', hrun]
  rfl

/-! ## PLAN_BIND (R101) -/

/-- A partition without contexts and without a rebinding to it passes the Guard checks. -/
theorem State.guardCheck_unbound {s : State} {pid : Nat} (hb : s.boundCtxs pid = []) (hr : ∀ c ∈ s.ctxs, c.2.rebind ≠ some pid) :
    s.guardCheck (some pid) = none := by
  have hsame : s.rebound (some pid) = s := by
    have hctxs : (s.ctxs.mapVals fun _ c => if c.rebind == some pid then { c with part := pid } else c) = s.ctxs := by
      refine (List.map_congr_left fun c hc => ?_).trans (List.map_id _)
      dsimp only
      rw [beq_eq_false_iff_ne.2 (hr c hc)]
      rfl
    rw [rebound, hctxs]
  unfold guardCheck
  simp only [hsame, show s.ctxsOn (some pid) = [] from hb, List.filter_nil, List.isEmpty_nil, if_true]

/-- A plan that suits an unbound partition of its tenant is bound to it. -/
theorem State.planBind_ok {s : State} {r : Req} {x : Part} {pl : Plan} (hx : s.part? (r.u16 0) = some x) (hpl : s.plan? (r.u32 4) = some pl)
    (ht : x.tenant = pl.tenant) (hh : s.held (1, r.u16 0) = false) (hb : s.boundCtxs (r.u16 0) = []) (hr : ∀ c ∈ s.ctxs, c.2.rebind ≠ some (r.u16 0))
    (hsize : bitOf pl.sizeMask x.sizeLog2 = true) (hfits : sizeFits pl.sramBytes pl.cbufBytes pl.semaphores x.sizeLog2 = true) :
    s.planBind r = (s.updPart (r.u16 0) fun y => { y with plan := some (r.u32 4), state := 1, ordinal := 0 }, okR []) := by
  have hguard : (s.updPart (r.u16 0) fun y => { y with plan := some (r.u32 4), state := 1, ordinal := 0 }).guardCheck (some (r.u16 0)) = none :=
    State.guardCheck_unbound (by simpa [boundCtxs, ctxsOn] using hb) (by simpa using hr)
  unfold planBind
  simp [hx, hpl, ht, hh, hb, hsize, hfits, planBindGo, hguard]

/-! ## PLAN_UNLOAD (R100, R101) -/

theorem State.giveQuota_keeps {γ : Type} (φ : State → γ) (hφ : ∀ s x, φ { s with sec.tenants := x } = φ s) (s : State) (t n : Nat) :
    φ (s.giveQuota t n) = φ s := by
  unfold giveQuota updTenant
  split
  · exact hφ ..
  · rfl

/-- What neither the pages, nor the quota, nor the plans hold stays when an image leaves. -/
theorem State.dropPlan_keeps {γ : Type} (φ : State → γ) (hsec : ∀ s x, φ { s with sec.tenants := x } = φ s)
    (hpages : ∀ s x y, φ { s with mem.frames := x, mem.hbm := y } = φ s) (hplans : ∀ s x, φ { s with plans := x } = φ s) (s : State) (id : Nat) :
    φ (s.dropPlan id) = φ s := by
  unfold dropPlan
  split
  · rfl
  · exact (hplans ..).trans ((State.giveQuota_keeps φ hsec ..).trans ((State.freePages_keeps φ hpages ..).trans (State.freePages_keeps φ hpages ..)))

theorem State.dropPlan_plans {s : State} {id : Nat} (h : s.plans.has id = true) : (s.dropPlan id).plans = s.plans.del id := by
  obtain ⟨pl, hpl⟩ := Option.isSome_iff_exists.1 h
  unfold dropPlan
  rw [show s.plan? id = some pl from hpl]
  dsimp only
  rw [State.freePages_keeps State.plans fun _ _ _ => rfl, State.freePages_keeps State.plans fun _ _ _ => rfl]

theorem State.planUnload_bound {s : State} {r : Req} (h : s.plans.has (r.u32 0) = true) (hb : s.planBound (r.u32 0) ≠ 0) :
    s.planUnload r = (s, failR St.refused 3) := by
  simp [planUnload, h, hb]

theorem State.planUnload_free {s : State} {r : Req} (h : s.plans.has (r.u32 0) = true) (hb : s.planBound (r.u32 0) = 0) :
    s.planUnload r = (s.dropPlan (r.u32 0), okR []) := by
  simp [planUnload, h, hb]

/-- Settles O14: each command by its equation; the only job of the internal channels holds an active set. -/
theorem planImageCommandsAct : Obligations.PlanImageCommandsAct := by
  refine ⟨?load, ?complete, ?failed, ?sets, ?bind, ?refuse, ?unload, ?info⟩
  case load =>
    intro s m r h hl hz ht ho halign hmin hmax hop hid
    refine ⟨((s.taken m).planLoad r).1, ?_⟩
    have heq : (s.taken m).planLoad r = _ := State.planLoad_accepted ht ho halign hmin hmax hop hid
    rw [exec_planLoad h hl hz, heq]
    exact ⟨rfl, rfl, rfl, rfl, rfl, rfl, rfl⟩
  case complete =>
    intro s u s1 w op o id t a n pl hop hk hq hu hruns ho hcheck hplace hserves hw
    subst hu hw
    have hload : s.syncSets.loadImage op id t (s.syncSets.hostReadN a n) = _ := State.loadImage_ok ho hcheck hplace
    rw [exec_planLoadComplete_ok hop hk hq hserves, State.intDone_runs _ hruns, hload]
  case failed =>
    intro s u op o id t a n c i hop hk hq hu hruns hm
    subst hu
    refine ⟨(s.syncSets.readFailed op c).syncSets, ?_, ?_, ?_⟩
    · rw [exec_planLoadComplete_err hop hk hq, State.intDone_runs _ hruns]
    · rw [exec_internalReadFail_planLoad hop hk, State.intDone_runs _ hruns]
    · have hfail := State.readFailed_pf (s := s.syncSets) c hop hm
      have hemits := State.post_emits (({ s.syncSets with host.aer := c :: s.host.aer } : State).dropOp op) 0x0101 8 i
        (leBytes 2 o.code ++ leBytes 1 St.badArg ++ leBytes 1 c ++ leBytes 4 o.tag ++ leBytes 4 op)
      rw [hfail]
      refine ⟨State.post_plans .., hemits.keeps (fun s => s.mem.hbm) fun _ => rfl, hemits.keeps (fun s => s.mem.frames) fun _ => rfl,
        State.post_host_aer .., congrArg (·.ops) (State.post_mason ..), fun hroom => ?_⟩
      obtain ⟨hentry, -⟩ := State.post_room (s := ({ s.syncSets with host.aer := c :: s.host.aer } : State).dropOp op) hroom 0x0101 8 i
        (leBytes 2 o.code ++ leBytes 1 St.badArg ++ leBytes 1 c ++ leBytes 4 o.tag ++ leBytes 4 op)
      exact hentry
  case sets =>
    exact fun s op f => ⟨State.intDone_runs f, State.intDone_waits f, fun o _ _ _ hup hh hj hfree => State.intRuns_only hup hh hj hfree⟩
  case bind =>
    intro s m r x pl h hl hz hx hpl ht hh hb hr hsize hfits
    rw [exec_planBind h hl hz, State.planBind_ok (s := s.taken m) hx hpl ht hh hb hr hsize hfits]
  case refuse =>
    intro s m r h hl hhas hb
    rw [exec_planUnload h hl, State.planUnload_bound (s := s.taken m) hhas hb]
    rfl
  case unload =>
    intro s m r h hl hhas hb
    have hplans := State.dropPlan_plans (s := s.taken m) hhas
    refine ⟨(s.taken m).dropPlan (r.u32 0), ?_, ?_, fun k hk => ?_,
      State.dropPlan_keeps State.parts (fun _ _ => rfl) (fun _ _ _ => rfl) (fun _ _ => rfl) ..,
      State.dropPlan_keeps State.ctxs (fun _ _ => rfl) (fun _ _ _ => rfl) (fun _ _ => rfl) ..⟩
    · rw [exec_planUnload h hl, State.planUnload_free (s := s.taken m) hhas hb]
    · rw [State.plan?, hplans, Tbl.find?_del_self]
    · rw [State.plan?, hplans, Tbl.find?_del_ne _ (Ne.symm hk)]
      rfl
  case info =>
    intro s m r pl h hl hpl
    rw [exec_planInfo h hl, State.planInfo, State.taken_get_plan, hpl]
    rfl

end Sys2Proof.Machine
end

section
/-! SUPPORT. The diode pairs (R243-R245): their readings, their disagreement, the junction and the sensor test. -/

namespace Sys2Proof.Machine

/-! ## A pair's record -/

@[simp] theorem State.updPair_pair (s : State) (n : Nat) (f : Tile → Tile) : (s.updPair n f).pair n = f (s.pair n) := by
  unfold updPair pair
  split
  · exact State.updTile_tile_self ..
  · exact Tbl.get_upd_self ..

section
variable (s : State) (n : Nat) (f : Tile → Tile)

@[simp] theorem State.updPair_now : (s.updPair n f).now = s.now := by unfold updPair; split <;> rfl
@[simp] theorem State.updPair_parts : (s.updPair n f).parts = s.parts := by unfold updPair; split <;> rfl
@[simp] theorem State.updPair_ctxs : (s.updPair n f).ctxs = s.ctxs := by unfold updPair; split <;> rfl
@[simp] theorem State.updPair_mem : (s.updPair n f).mem = s.mem := by unfold updPair; split <;> rfl
@[simp] theorem State.updPair_courses : (s.updPair n f).courses = s.courses := by unfold updPair; split <;> rfl
@[simp] theorem State.updPair_flt : (s.updPair n f).flt = s.flt := by unfold updPair; split <;> rfl
@[simp] theorem State.updPair_sensorsRetired : (s.updPair n f).therm.sensorsRetired = s.therm.sensorsRetired := by unfold updPair; split <;> rfl

end

/-- What a diode's reading concerns: the pairs, and the partitions and contexts that it leaves alone. -/
def State.readings (s : State) : Tbl Tile × Tbl Tile × Tbl Part × Tbl Ctx := (s.tiles, s.therm.plinth, s.parts, s.ctxs)

theorem State.readings_eq {s t : State} (h : t.readings = s.readings) : (∀ n, t.pair n = s.pair n) ∧ t.parts = s.parts ∧ t.ctxs = s.ctxs := by
  obtain ⟨htiles, hplinth, hparts, hctxs⟩ : t.tiles = s.tiles ∧ t.therm.plinth = s.therm.plinth ∧ t.parts = s.parts ∧ t.ctxs = s.ctxs := by
    simpa [readings] using h
  exact ⟨fun n => by rw [pair, tile, htiles, hplinth, pair, tile], hparts, hctxs⟩

@[simp] theorem State.post_readings (s : State) (code kind id : Nat) (d : List Byte) : (s.post code kind id d).readings = s.readings := by
  simp [readings]

@[simp] theorem State.post_pair (s : State) (code kind id n : Nat) (d : List Byte) : (s.post code kind id d).pair n = s.pair n :=
  (State.readings_eq (State.post_readings ..)).1 n

/-! ## A change of the profile and of the budget (R225, R227) -/

/-- A change of the profile posts an event. -/
theorem State.noteProfile_keeps {γ : Type} (φ : State → γ) (hpost : ∀ (s : State) a b c d, φ (s.post a b c d) = φ s) (s : State) (old : Nat) :
    φ (s.noteProfile old) = φ s := by
  unfold noteProfile
  split
  · rfl
  · exact hpost ..

theorem State.mapRates_eq (s : State) (f : Nat → Nat) : ∃ cs, s.mapRates f = { s with courses := cs } := by
  unfold mapRates
  induction List.range 16 generalizing s with
  | nil => exact ⟨s.courses, rfl⟩
  | cons c l ih =>
    obtain ⟨cs, h⟩ := ih (s.updCourse c fun k => { k with r := f k.r })
    exact ⟨cs, h⟩

/-- A change of B changes the Courses and the governor's record, and posts an event. -/
theorem State.review_keeps {γ : Type} (φ : State → γ) (hpost : ∀ (s : State) a b c d, φ (s.post a b c d) = φ s)
    (hset : ∀ (s : State) cs pw, φ { s with courses := cs, power := pw } = φ s) (s : State) : φ s.review = φ s := by
  unfold review floorIfOver
  split
  · unfold floorStep postFloor
    obtain ⟨cs, hcs⟩ := s.mapRates_eq (min 8)
    rw [hcs]
    exact (hpost ..).trans (hset s _ _)
  · rfl

theorem State.rowEvent_keeps {γ : Type} (φ : State → γ) (hpost : ∀ (s : State) a b c d, φ (s.post a b c d) = φ s) (s : State) (row : Nat) (on : Bool) :
    φ (s.rowEvent row on) = φ s := by
  unfold rowEvent
  split
  · exact hpost ..
  · split
    · exact hpost ..
    · rfl
  · split
    · exact hpost ..
    · rfl
  · exact hpost ..
  · rfl

theorem Thermal.setRow_plinth (t : Thermal) (row : Nat) (d : Dwell) : (t.setRow row d).plinth = t.plinth := by
  unfold setRow
  split <;> rfl

theorem State.rowDue_readings (s : State) (row : Nat) : (s.rowDue row).readings = s.readings := by
  unfold rowDue
  dsimp only
  split
  · rw [State.review_keeps readings State.post_readings fun _ _ _ => rfl, State.noteProfile_keeps readings State.post_readings,
      State.rowEvent_keeps readings State.post_readings]
    simp [readings, Thermal.setRow_plinth]
  · rfl

theorem State.rowsNow_readings (s : State) : s.rowsNow.readings = s.readings := by
  refine Eq.trans (foldl_keeps _ readings (fun u row => ?_) _ _) (?_ : s.trackRows.readings = s.readings)
  · split
    · exact State.rowDue_readings ..
    · rfl
  · rfl

/-! ## A sample of both diodes (R243, R244) -/

/-- The three bands of two diodes, by how far apart they are. -/
theorem hotSpot_close {a b : Int} (hlo : -48 ≤ a - b) (hhi : a - b ≤ 48) (long ref : Bool) : hotSpot a b long ref = (max a b, 0) := by
  have hd : (a - b).natAbs ≤ 48 := by omega
  simp [hotSpot, hd]

theorem hotSpot_apart {a b : Int} (hfar : a - b < -48 ∨ 48 < a - b) (hlo : -160 ≤ a - b) (hhi : a - b ≤ 160) (long ref : Bool) :
    hotSpot a b long ref = (max a b + 32, 1) := by
  have hd : ¬ (a - b).natAbs ≤ 48 := by omega
  have hd' : (a - b).natAbs ≤ 160 := by omega
  simp [hotSpot, hd, hd']

theorem hotSpot_disagree {a b : Int} (hfar : a - b < -160 ∨ 160 < a - b) (ref : Bool) : hotSpot a b false ref = (max a b + 32, 2) := by
  have hd : ¬ (a - b).natAbs ≤ 48 := by omega
  have hd' : ¬ (a - b).natAbs ≤ 160 := by omega
  simp [hotSpot, hd, hd']

/-- A disagreement is noted in the pair, and perhaps posted. -/
theorem State.noteDisagree_spec (s : State) (n band : Nat) (a b : Int) : (∃ d, (s.noteDisagree n band a b).pair n =
      { s.pair n with disagreeAt := if band < 2 then none else some ((s.pair n).disagreeAt.getD s.now), disagreePost := d }) ∧
    (s.noteDisagree n band a b).parts = s.parts ∧ (s.noteDisagree n band a b).ctxs = s.ctxs := by
  unfold noteDisagree
  dsimp only
  generalize hu : s.updPair n _ = u
  have hpair : u.pair n = { s.pair n with disagreeAt := if band < 2 then none else some ((s.pair n).disagreeAt.getD s.now) } :=
    hu ▸ State.updPair_pair ..
  have hparts : u.parts = s.parts := hu ▸ State.updPair_parts ..
  have hctxs : u.ctxs = s.ctxs := hu ▸ State.updPair_ctxs ..
  split
  · exact ⟨⟨(s.pair n).disagreePost, hpair⟩, hparts, hctxs⟩
  · exact ⟨⟨some u.now, by simp [hpair]⟩, by simp [hparts], by simp [hctxs]⟩

/-- A hot spot below 105 °C is taken as it is; no excursion is under way. -/
theorem State.setMeas_cool (s : State) (n : Nat) {t : Int} (band : Nat) (h : t < 1680) : (s.setMeas n t band).pair n =
      { s.pair n with meas := t, pred := max (s.pair n).pred t, band, hotAt := none } ∧
    (s.setMeas n t band).parts = s.parts ∧ (s.setMeas n t band).ctxs = s.ctxs := by
  have hcool (u : State) : u.noteLimit n t = u.updPair n fun x => { x with hotAt := none } := by
    unfold noteLimit
    simp [degC, h]
  obtain ⟨hpair, hparts, hctxs⟩ := State.readings_eq (State.rowsNow_readings ((s.updPair n fun x => { x with meas := t, pred := max x.pred t, band }).noteLimit n t))
  refine ⟨(hpair n).trans ?_, hparts.trans ?_, hctxs.trans ?_⟩ <;> simp [hcool]

/-- A sample of a pair whose diodes are both in service. -/
theorem State.diodeSample_both {s : State} {n : Nat} (ha : (s.pair n).aRetired = false) (hb : (s.pair n).bRetired = false) (a b : Int) :
    ∃ ref, s.diodeSample n (.val a) (.val b) =
      ((s.takeReading n (.val a) (.val b)).noteDisagree n (hotSpot a b (s.passed (s.pair n).disagreeAt (tMs 100)) ref).2 a b).setMeas n
        (hotSpot a b (s.passed (s.pair n).disagreeAt (tMs 100)) ref).1 (hotSpot a b (s.passed (s.pair n).disagreeAt (tMs 100)) ref).2 := by
  refine ⟨decide (n < 144) && (s.course (n / 9)).refRetired, ?_⟩
  have hval (v : Int) : (Reading.val v == .fail) = false := rfl
  have hpair : (s.takeReading n (.val a) (.val b)).pair n = { s.pair n with dA := a, dB := b } := State.updPair_pair ..
  have hpassed (x : Option Tick) (d : Tick) : (s.takeReading n (.val a) (.val b)).passed x d = s.passed x d := by
    simp [passed, takeReading]
  have hcourse (k : Nat) : (s.takeReading n (.val a) (.val b)).course k = s.course k := by simp [course, takeReading]
  unfold diodeSample
  simp only [hval, Bool.false_and, Bool.false_eq_true, if_false, hpair, ha, hb, hpassed, hcourse]

theorem exec_diodeSample {s : State} {n : Nat} (h : s.pairRead n = true) (a b : Reading) : exec (.diodeSample n a b) s = .next (s.diodeSample n a b) := by
  have hx : exec (.diodeSample n a b) s = execDiodeSample n a b s := rfl
  rw [hx, execDiodeSample, if_pos h]

/-- The record of a sampled pair, by the hot spot and band of its diodes. -/
theorem State.diodeSample_spec {s : State} {n : Nat} {a b v : Int} {band : Nat} (ha : (s.pair n).aRetired = false) (hb : (s.pair n).bRetired = false)
    (hv : v < 1680) (hspot : ∀ ref, hotSpot a b (s.passed (s.pair n).disagreeAt (tMs 100)) ref = (v, band)) :
    (∃ d, (s.diodeSample n (.val a) (.val b)).pair n = { s.pair n with
      dA := a, dB := b, disagreeAt := if band < 2 then none else some ((s.pair n).disagreeAt.getD s.now), disagreePost := d, meas := v,
      pred := max (s.pair n).pred v, band, hotAt := none }) ∧
    (s.diodeSample n (.val a) (.val b)).parts = s.parts ∧ (s.diodeSample n (.val a) (.val b)).ctxs = s.ctxs := by
  obtain ⟨ref, heq⟩ := State.diodeSample_both ha hb a b
  rw [heq, hspot ref]
  obtain ⟨hmeas, hparts, hctxs⟩ := State.setMeas_cool ((s.takeReading n (.val a) (.val b)).noteDisagree n band a b) n band hv
  obtain ⟨⟨d, hnote⟩, hparts', hctxs'⟩ := (s.takeReading n (.val a) (.val b)).noteDisagree_spec n band a b
  exact ⟨⟨d, by rw [hmeas, hnote]; simp [takeReading]⟩, by rw [hparts, hparts']; simp [takeReading], by rw [hctxs, hctxs']; simp [takeReading]⟩

/-! ## What lasts: disagreement and junction (R244, R248) -/

theorem exec_disagreeDwell {s : State} {n : Nat} {u : Tick} (h : s.pairRead n = true) (hd : (s.pair n).disagreeAt = some u) (hu : 2500000 ≤ s.now - u) :
    exec (.disagreeDwell n) s = .next (s.updPair n fun x =>
      { x with band := 3, testQueued := x.testQueued || !(decide (n < 144) && (s.course (n / 9)).refRetired) }) := by
  have hx : exec (.disagreeDwell n) s = execDisagreeDwell n s := rfl
  rw [hx, execDisagreeDwell]
  have hlong : s.passed (s.pair n).disagreeAt (tMs 100) = true := by
    rw [hd]
    exact decide_eq_true hu
  rw [h, hlong]
  rfl

/-- The junction condition holds from now on, and the profile with it. -/
def State.junctionSafe (s : State) : State := (({ s with therm.safeJunction := { on := true, since := none } } : State).noteProfile s.profile).review

theorem exec_junctionDwell {s : State} {n : Nat} {u : Tick} (h : s.pairRead n = true) (hoff : s.therm.safeJunction.on = false)
    (hhot : (s.pair n).hotAt = some u) (hu : 25000 ≤ s.now - u) : exec (.junctionDwell n) s = .next s.junctionSafe := by
  have hx : exec (.junctionDwell n) s = execJunctionDwell n s := rfl
  rw [hx, execJunctionDwell]
  have hlong : s.passed (s.pair n).hotAt (tMs 1) = true := by
    rw [hhot]
    exact decide_eq_true hu
  rw [h, hoff, hlong]
  rfl

theorem State.junctionSafe_keeps {γ : Type} (φ : State → γ) (hpost : ∀ (s : State) a b c d, φ (s.post a b c d) = φ s)
    (hset : ∀ (s : State) cs pw, φ { s with courses := cs, power := pw } = φ s) (s : State) :
    φ s.junctionSafe = φ { s with therm.safeJunction := { on := true, since := none } } :=
  (State.review_keeps φ hpost hset _).trans (State.noteProfile_keeps φ hpost _ _)

/-- A junction condition is a Safe cause. -/
theorem State.safeCauses_junction {s : State} (h : s.therm.safeJunction.on = true) : s.safeCauses ≠ 0 := by
  have hthermal : boolN (s.therm.safeInlet.on || s.therm.safeOutlet.on || s.therm.safeJunction.on) = 1 := by
    rw [h, Bool.or_true]
    rfl
  unfold safeCauses
  omega

theorem State.profile_safe {s : State} (h : s.safeCauses ≠ 0) : s.profile = 2 := by
  simp [profile, safeCause, h]

/-! ## The sensor test (R244) -/

theorem exec_sensorTest {s : State} {n : Nat} (hn : n < 144) (h : s.pairRead n = true) (hq : (s.pair n).testQueued = true)
    (hidle : (s.course (n / 9)).idle = some (n % 9)) (hocc : (s.course (n / 9)).occupied = none) (href : (s.course (n / 9)).refRetired = false) :
    exec (.sensorTest n) s = .next (s.updCourse (n / 9) fun k => { k with occupied := some (1, s.now) }) := by
  have hx : exec (.sensorTest n) s = execSensorTest n s := rfl
  rw [hx, execSensorTest]
  simp [hn, h, hq, hidle, hocc, href]

theorem State.pair_tile (s : State) {n : Nat} (h : n < 144) : s.pair n = s.tile n := if_pos h

/-- A retired diode: its pair, the count of retired sensors, and what stays. -/
theorem State.retireDiode_spec (s : State) (n d : Nat) (dev : Int) :
    (s.retireDiode n d dev).pair n = (if d == 0 then { s.pair n with aRetired := true } else { s.pair n with bRetired := true }) ∧
    (s.retireDiode n d dev).therm.sensorsRetired = satAdd 0xFFFF s.therm.sensorsRetired 1 ∧ (s.retireDiode n d dev).parts = s.parts ∧
    (s.retireDiode n d dev).courses = s.courses := by
  generalize hu : (s.updPair n fun x => if d == 0 then { x with aRetired := true } else { x with bRetired := true }) = u
  have hread : (s.retireDiode n d dev).readings = u.readings := by
    unfold retireDiode
    rw [hu]
    simp [readings, burn]
  obtain ⟨hpair, hparts, -⟩ := State.readings_eq hread
  refine ⟨?_, ?_, ?_, ?_⟩
  · rw [hpair, ← hu, State.updPair_pair]
  · unfold retireDiode
    rw [hu]
    simp [burn, ← hu]
  · rw [hparts, ← hu, State.updPair_parts]
  · unfold retireDiode
    rw [hu]
    simp [burn, ← hu]

/-- A transient class is counted, and changes no pair, partition or Course. -/
theorem State.noteTransient_spec (s : State) (kind id : Nat) : (s.noteTransient kind id).1.flt.transient = sat32 s.flt.transient 1 ∧
    (∀ n, (s.noteTransient kind id).1.pair n = s.pair n) ∧ (s.noteTransient kind id).1.parts = s.parts ∧
    (s.noteTransient kind id).1.courses = s.courses :=
  ⟨rfl, fun _ => rfl, rfl, rfl⟩

/-- The test on the idle tile is over: the tile is free, and its pair asks for no other. -/
def State.testOver (s : State) (n : Nat) : State :=
  (s.updCourse (n / 9) fun k => { k with occupied := none }).updPair n fun x => { x with testQueued := false, disagreeAt := none }

theorem State.testOver_pair (s : State) (n : Nat) : (s.testOver n).pair n = { s.pair n with testQueued := false, disagreeAt := none } :=
  State.updPair_pair ..

theorem State.testOver_course (s : State) (n : Nat) : (s.testOver n).course (n / 9) = { s.course (n / 9) with occupied := none } := by
  rw [testOver, course, State.updPair_courses]
  exact State.updCourse_course_self ..

theorem State.testOver_parts (s : State) (n : Nat) : (s.testOver n).parts = s.parts := State.updPair_parts ..

theorem State.testOver_flt (s : State) (n : Nat) : (s.testOver n).flt = s.flt := State.updPair_flt ..

theorem State.testOver_sensorsRetired (s : State) (n : Nat) : (s.testOver n).therm.sensorsRetired = s.therm.sensorsRetired :=
  State.updPair_sensorsRetired ..

/-- The end of a test moves no diode away from the reference. -/
theorem State.testOver_diodeDev (s : State) {n : Nat} (h : n < 144) (x ref : Int) :
    (s.testOver n).diodeDev n x ref = x - (ref + min 16 ((s.tile n).offset16 s.now)) := by
  have hnow : (s.testOver n).now = s.now := State.updPair_now ..
  rw [diodeDev, hnow, ← State.pair_tile _ h, State.testOver_pair, State.pair_tile _ h]
  rfl

/-- The test has run its 3 ms on the idle tile. -/
theorem testReady {s : State} {n : Nat} {u : Tick} (hn : n < 144) (h : s.pairRead n = true) (hq : (s.pair n).testQueued = true)
    (hidle : (s.course (n / 9)).idle = some (n % 9)) (hu : 75000 ≤ s.now - u) : (decide (n < 144) && s.pairRead n && (s.pair n).testQueued &&
      (s.course (n / 9)).idle == some (n % 9) && decide (tMs 3 ≤ s.since u)) = true := by
  have hlong : decide (tMs 3 ≤ s.since u) = true := decide_eq_true hu
  rw [decide_eq_true hn, h, hq, hidle, beq_self_eq_true, hlong]
  rfl

section
variable {s : State} {n : Nat} {u : Tick} (hn : n < 144) (h : s.pairRead n = true) (hq : (s.pair n).testQueued = true)
  (hidle : (s.course (n / 9)).idle = some (n % 9)) (hocc : (s.course (n / 9)).occupied = some (1, u)) (hu : 75000 ≤ s.now - u)
  (hreqs : (s.course (n / 9)).reqs = []) (a b ref : Int) (hb : (b - (ref + min 16 ((s.tile n).offset16 s.now))).natAbs ≤ 80)
include hn h hq hidle hocc hu hreqs hb

/-- Both diodes agree with the reference: a transient class. -/
theorem exec_sensorTestDone_passed (ha : (a - (ref + min 16 ((s.tile n).offset16 s.now))).natAbs ≤ 80) :
    exec (.sensorTestDone n (a, b) ref) s = .next ((s.testOver n).noteTransient 7 (16 + n)).1 := by
  have hx : exec (.sensorTestDone n (a, b) ref) s = execSensorTestDone n (a, b) ref s := rfl
  have hdue : ((s.testOver n).noteTransient 7 (16 + n)).1.applyDue (n / 9) false = ((s.testOver n).noteTransient 7 (16 + n)).1 := by
    refine State.applyDue_nil _ _ _ ?_
    obtain ⟨-, -, -, hcourses⟩ := (s.testOver n).noteTransient_spec 7 (16 + n)
    rw [State.course, hcourses]
    exact (congrArg (·.reqs) (s.testOver_course n)).trans hreqs
  rw [hx, execSensorTestDone, hocc]
  have hdev (x : Int) := s.testOver_diodeDev hn x ref
  unfold State.testOver at hdev hdue
  simp only [testReady hn h hq hidle hu, hdev, Nat.not_lt.2 ha, Nat.not_lt.2 hb, decide_false, Bool.false_eq_true, if_false, if_true, Bool.and_false, Bool.or_self, hdue]
  rfl

/-- Diode A is off the reference: it is retired. -/
theorem exec_sensorTestDone_retired (ha : 80 < (a - (ref + min 16 ((s.tile n).offset16 s.now))).natAbs) :
    exec (.sensorTestDone n (a, b) ref) s = .next ((s.testOver n).retireDiode n 0 (a - (ref + min 16 ((s.tile n).offset16 s.now)))) := by
  have hx : exec (.sensorTestDone n (a, b) ref) s = execSensorTestDone n (a, b) ref s := rfl
  have hdue (dev : Int) : ((s.testOver n).retireDiode n 0 dev).applyDue (n / 9) false = (s.testOver n).retireDiode n 0 dev := by
    refine State.applyDue_nil _ _ _ ?_
    obtain ⟨-, -, -, hcourses⟩ := (s.testOver n).retireDiode_spec n 0 dev
    rw [State.course, hcourses]
    exact (congrArg (·.reqs) (s.testOver_course n)).trans hreqs
  rw [hx, execSensorTestDone, hocc]
  have hdev (x : Int) := s.testOver_diodeDev hn x ref
  unfold State.testOver at hdev hdue
  simp only [testReady hn h hq hidle hu, hdev, ha, Nat.not_lt.2 hb, decide_true, decide_false, Bool.false_eq_true, if_false, if_true, Bool.and_false, Bool.or_false, hdue]
  rfl

end

end Sys2Proof.Machine
end

section
/-! SUPPORT. Thermal control (R17, R91, R246-R249): throttle and rotation requests, the model's update, and the HBM stacks. -/

namespace Sys2Proof.Machine

/-! ## The thermal level of a Course (R247) -/

theorem State.updCourse_courseHot (s : State) (c : Nat) (f : Course → Course) (hf : ∀ k, (f k).map = k.map) (j : Nat) :
    (s.updCourse c f).courseHot j = s.courseHot j := by
  have hmap : ((s.updCourse c f).course j).map = (s.course j).map := by
    by_cases hj : j = c
    · rw [hj, State.updCourse_course_self, hf]
    · rw [State.updCourse_course_ne _ _ hj]
  have hpreds : (s.updCourse c f).slotPreds j = s.slotPreds j := by
    rw [slotPreds, hmap]
    rfl
  rw [courseHot, hpreds, courseHot]

/-- A level that leaves or regains 16 is posted. -/
theorem State.setThrottle_post {s : State} {c n : Nat} (h : ((s.course c).t = 16 ∧ n < 16) ∨ ((s.course c).t < 16 ∧ n = 16)) :
    s.setThrottle c n = (s.updCourse c fun k => { k with t := n }).post 0x0905 2 c
      (leBytes 1 n ++ [0] ++ leBytes 2 (unsigned 16 (s.courseHot c))) := by
  have hedge : ((s.course c).t == 16 && decide (n < 16) || decide ((s.course c).t < 16) && n == 16) = true := by
    rcases h with ⟨ht, hn⟩ | ⟨ht, hn⟩ <;> simp [ht, hn]
  have hhot := s.updCourse_courseHot c (fun k => { k with t := n }) (fun _ => rfl) c
  unfold setThrottle
  simp only [hedge, if_true, hhot]

theorem State.setThrottle_within {s : State} {c n : Nat} (ht : (s.course c).t < 16) (hn : n < 16) :
    s.setThrottle c n = s.updCourse c fun k => { k with t := n } := by
  unfold setThrottle
  simp [ht, hn, show (s.course c).t ≠ 16 by omega, show n ≠ 16 by omega]

/-- A new level changes its Course and posts at most an event. -/
theorem State.setThrottle_keeps {γ : Type} (φ : State → γ) (hpost : ∀ (s : State) a b c d, φ (s.post a b c d) = φ s) (s : State) (c n : Nat) :
    φ (s.setThrottle c n) = φ (s.updCourse c fun k => { k with t := n }) := by
  unfold setThrottle
  dsimp only
  split
  · exact hpost ..
  · rfl

theorem State.post_course (s : State) (code kind id k : Nat) (d : List Byte) : (s.post code kind id d).course k = s.course k := by
  simp [course]

theorem State.eventPosted_post {s u : State} (hhost : u.host = s.host) (hnow : u.now = s.now) (code kind id : Nat) (d : List Byte) :
    eventPosted s (u.post code kind id d) code kind id d := by
  intro hroom
  obtain ⟨hentry, hprod, -, hlost, -⟩ := State.post_room (s := u) (by rw [hhost]; exact hroom) code kind id d
  rw [hhost, hnow] at hentry
  rw [hhost] at hprod hlost
  exact ⟨hentry, hprod, hlost⟩

/-! ## Requests that steer a Course: throttle and rotation (R17, R91, R247) -/

/-- A request that steers its Course: a throttle or a rotation. -/
def CtlReq.steers : CtlReq → Prop
  | .throttle _ => True
  | .rotate _ _ => True
  | _ => False

/-- Only requests that steer are waiting. -/
def State.Steered (s : State) : Prop := ∀ k, ∀ r ∈ (s.course k).reqs, r.steers

/-- `t` is `s` after requests that steer: contexts, memory, the Plinth's pairs and the stacks stay, a tile may have left its slot, a Course has
its coming level still, and no request is new. -/
def State.Steers (s t : State) : Prop := t.ctxs = s.ctxs ∧ t.mem = s.mem ∧ t.therm.plinth = s.therm.plinth ∧ t.therm.hbmStacks = s.therm.hbmStacks ∧
  (∀ i, ∃ l, t.tile i = { s.tile i with leftAt := l }) ∧
  ∀ k, (t.course k).tNext = (s.course k).tNext ∧ ∀ r ∈ (t.course k).reqs, r ∈ (s.course k).reqs

theorem State.Steers.refl (s : State) : s.Steers s :=
  ⟨rfl, rfl, rfl, rfl, fun i => ⟨(s.tile i).leftAt, rfl⟩, fun _ => ⟨rfl, fun _ h => h⟩⟩

theorem State.Steers.trans {s t u : State} (h1 : s.Steers t) (h2 : t.Steers u) : s.Steers u := by
  obtain ⟨hctxs, hmem, hplinth, hstacks, htile, hcourse⟩ := h1
  obtain ⟨hctxs', hmem', hplinth', hstacks', htile', hcourse'⟩ := h2
  refine ⟨hctxs'.trans hctxs, hmem'.trans hmem, hplinth'.trans hplinth, hstacks'.trans hstacks, fun i => ?_, fun k => ?_⟩
  · obtain ⟨l, hl⟩ := htile i
    obtain ⟨l', hl'⟩ := htile' i
    exact ⟨l', by rw [hl', hl]⟩
  · obtain ⟨hnext, hreqs⟩ := hcourse k
    obtain ⟨hnext', hreqs'⟩ := hcourse' k
    exact ⟨hnext'.trans hnext, fun r hr => hreqs r (hreqs' r hr)⟩

/-- What keeps contexts, memory, thermal state, tiles and Courses steers. -/
theorem State.Steers.of_eq {s t : State} (hctxs : t.ctxs = s.ctxs) (hmem : t.mem = s.mem) (htherm : t.therm = s.therm) (htiles : t.tiles = s.tiles)
    (hcourses : t.courses = s.courses) : s.Steers t :=
  ⟨hctxs, hmem, by rw [htherm], by rw [htherm], fun i => ⟨(s.tile i).leftAt, by rw [tile, htiles]; rfl⟩,
    fun k => by rw [course, hcourses]; exact ⟨rfl, fun _ h => h⟩⟩

theorem State.updCourse_steers (s : State) (c : Nat) {f : Course → Course} (hnext : ∀ k, (f k).tNext = k.tNext) (hreqs : ∀ k, ∀ r ∈ (f k).reqs, r ∈ k.reqs) :
    s.Steers (s.updCourse c f) := by
  refine ⟨rfl, rfl, rfl, rfl, fun i => ⟨(s.tile i).leftAt, rfl⟩, fun k => ?_⟩
  by_cases hk : k = c
  · rw [hk, State.updCourse_course_self]
    exact ⟨hnext _, hreqs _⟩
  · rw [State.updCourse_course_ne _ _ hk]
    exact ⟨rfl, fun _ h => h⟩

theorem State.setThrottle_steers (s : State) (c n : Nat) : s.Steers (s.setThrottle c n) := by
  refine (s.updCourse_steers c (f := fun k => { k with t := n }) (fun _ => rfl) fun _ _ h => h).trans (.of_eq ?_ ?_ ?_ ?_ ?_)
  · exact State.setThrottle_keeps State.ctxs (fun _ _ _ _ _ => State.post_ctxs ..) ..
  · exact State.setThrottle_keeps State.mem (fun _ _ _ _ _ => State.post_mem ..) ..
  · exact State.setThrottle_keeps State.therm (fun _ _ _ _ _ => State.post_therm ..) ..
  · exact State.setThrottle_keeps State.tiles (fun _ _ _ _ _ => State.post_tiles ..) ..
  · exact State.setThrottle_keeps State.courses (fun _ _ _ _ _ => State.post_courses ..) ..

theorem State.leaveSlot_steers (s : State) (i : Nat) : s.Steers (s.updTile i fun x => { x with leftAt := some s.now }) := by
  refine ⟨rfl, rfl, rfl, rfl, fun j => ?_, fun _ => ⟨rfl, fun _ h => h⟩⟩
  by_cases hj : j = i
  · exact ⟨some s.now, by rw [hj, State.updTile_tile_self]⟩
  · exact ⟨(s.tile j).leftAt, by rw [State.updTile_tile_ne _ _ hj]⟩

theorem State.mapRotate_steers (s : State) (c slot : Nat) : s.Steers (s.mapRotate c slot) := by
  unfold mapRotate
  split
  · exact .refl s
  · next i _ =>
    have hcount (u : State) (n : Nat) : u.Steers { u with therm.rotations := n } :=
      ⟨rfl, rfl, rfl, rfl, fun i => ⟨(u.tile i).leftAt, rfl⟩, fun _ => ⟨rfl, fun _ h => h⟩⟩
    refine (((s.updCourse_steers c (f := fun k => { k with map := setAt k.map slot i }) (fun _ => rfl) fun _ _ h => h).trans
      (State.leaveSlot_steers _ (c * 9 + (s.course c).map.getD slot 15))).trans (hcount _ (sat32 s.therm.rotations 1))).trans ?_
    dsimp only
    split
    · exact .of_eq (by simp) (by simp) (by simp) (by simp) (by simp)
    · exact .refl _

theorem mem_of_mem_dropFirst {α : Type} {p : α → Bool} {x : α} {l : List α} (h : x ∈ dropFirst p l) : x ∈ l := by
  induction l with
  | nil => exact h
  | cons y l ih =>
    rw [dropFirst] at h
    split at h
    · exact List.mem_cons_of_mem _ h
    · rcases List.mem_cons.1 h with rfl | h
      · exact List.mem_cons_self ..
      · exact List.mem_cons_of_mem _ (ih h)

theorem mem_of_mem_insertByFront {α : Type} {le : α → α → Bool} {x y : α} {l : List α} (h : x ∈ sortBy.insertByFront le y l) : x = y ∨ x ∈ l := by
  induction l with
  | nil => exact List.mem_cons.1 h
  | cons z l ih =>
    rw [sortBy.insertByFront] at h
    split at h
    · exact List.mem_cons.1 h
    · rcases List.mem_cons.1 h with rfl | h
      · exact .inr (List.mem_cons_self ..)
      · exact (ih h).imp_right (List.mem_cons_of_mem _)

theorem mem_of_mem_sortBy {α : Type} {le : α → α → Bool} {x : α} {l : List α} (h : x ∈ sortBy le l) : x ∈ l := by
  induction l with
  | nil => exact h
  | cons y l ih =>
    rcases mem_of_mem_insertByFront h with rfl | h
    · exact List.mem_cons_self ..
    · exact List.mem_cons_of_mem _ (ih h)

/-- A request that steers, taken where it is due. -/
theorem State.applyReq_steers {s s' : State} {c : Nat} {bp : Bool} {r : CtlReq} (hr : r.steers) (h : s.applyReq c bp r = some s') : s.Steers s' := by
  unfold applyReq at h
  cases r with
  | repair _ => exact hr.elim
  | test _ _ _ => exact hr.elim
  | throttle t =>
    dsimp only at h
    split at h
    · exact Option.some.inj h ▸ s.setThrottle_steers c t
    · exact absurd h (by simp)
  | rotate slot thermal =>
    dsimp only at h
    split at h
    · exact absurd h (by simp)
    · split at h
      · exact absurd h (by simp)
      · split at h
        · exact absurd h (by simp)
        · exact Option.some.inj h ▸ s.mapRotate_steers c slot

theorem State.applyDue_steers {s : State} {c : Nat} (bp : Bool) (h : ∀ r ∈ (s.course c).reqs, r.steers) : s.Steers (s.applyDue c bp) := by
  unfold applyDue
  split
  · exact .refl s
  · generalize hl : sortBy _ (s.course c).reqs = l
    have hmem : ∀ r ∈ l, r.steers := fun r hr => h r (mem_of_mem_sortBy (hl ▸ hr))
    rename_i hhold
    clear hl h hhold
    induction l generalizing s with
    | nil => exact .refl s
    | cons r l ih =>
      refine .trans ?_ (ih fun q hq => hmem q (List.mem_cons_of_mem _ hq))
      dsimp only
      split
      · next s' hs' =>
        exact (State.applyReq_steers (hmem r (List.mem_cons_self ..)) hs').trans
          (s'.updCourse_steers c (fun _ => rfl) fun _ _ hq => mem_of_mem_dropFirst hq)
      · exact .refl s

/-- A request that steers, posted where only such requests wait: its Course has it, and what was due is taken. -/
theorem State.postReq_steers {s : State} {c : Nat} {r : CtlReq} (hs : s.Steered) (hr : r.steers) : ∃ u : State, u.Steered ∧
    (∃ l, u = s.updCourse c fun k => { k with reqs := l }) ∧ u.Steers (s.postReq c r) := by
  unfold postReq
  dsimp only
  generalize hl : _ ++ [r] = l
  have hu : (s.updCourse c fun k => { k with reqs := l }).Steered := by
    intro k q hq
    by_cases hk : k = c
    · rw [hk, State.updCourse_course_self, ← hl] at hq
      rcases List.mem_append.1 hq with hq | hq
      · exact hs c q (List.mem_filter.1 hq).1
      · exact List.mem_singleton.1 hq ▸ hr
    · rw [State.updCourse_course_ne _ _ hk] at hq
      exact hs k q hq
  exact ⟨_, hu, ⟨l, rfl⟩, State.applyDue_steers false (hu c)⟩

theorem State.Steers.steered {s t : State} (h : s.Steers t) (hs : s.Steered) : t.Steered := by
  obtain ⟨-, -, -, -, -, hcourse⟩ := h
  exact fun k r hr => hs k r ((hcourse k).2 r hr)

/-! ## The model's update (R246, R247) -/

/-- `t` is `s` after a Pier's thermal control, where only requests that steer wait: contexts, memory and the Plinth's pairs stay, and a tile may
have left its slot. -/
def State.Heats (s t : State) : Prop := s.Steered → t.Steered ∧ t.ctxs = s.ctxs ∧ t.mem = s.mem ∧ t.therm.plinth = s.therm.plinth ∧
  ∀ i, ∃ l, t.tile i = { s.tile i with leftAt := l }

theorem State.Heats.refl (s : State) : s.Heats s := fun hs => ⟨hs, rfl, rfl, rfl, fun i => ⟨(s.tile i).leftAt, rfl⟩⟩

theorem State.Heats.trans {s t u : State} (h1 : s.Heats t) (h2 : t.Heats u) : s.Heats u := by
  intro hs
  obtain ⟨ht, hctxs, hmem, hplinth, htile⟩ := h1 hs
  obtain ⟨hu, hctxs', hmem', hplinth', htile'⟩ := h2 ht
  refine ⟨hu, hctxs'.trans hctxs, hmem'.trans hmem, hplinth'.trans hplinth, fun i => ?_⟩
  obtain ⟨l, hl⟩ := htile i
  obtain ⟨l', hl'⟩ := htile' i
  exact ⟨l', by rw [hl', hl]⟩

theorem State.Heats.of_fold {β : Type} {g : State → β → State} (h : ∀ s x, State.Heats s (g s x)) (l : List β) : ∀ s, State.Heats s (l.foldl g s) := by
  induction l with
  | nil => exact fun s => .refl s
  | cons x l ih => exact fun s => (h s x).trans (ih _)

theorem State.postReq_heats (s : State) (c : Nat) {r : CtlReq} (hr : r.steers) : s.Heats (s.postReq c r) := by
  intro hs
  obtain ⟨u, hu, ⟨l, rfl⟩, hsteers⟩ := State.postReq_steers (c := c) hs hr
  obtain ⟨hctxs, hmem, hplinth, -, htile, -⟩ := id hsteers
  exact ⟨hsteers.steered hu, hctxs, hmem, hplinth, htile⟩

theorem State.throttleCourse_heats (s : State) (c : Nat) : s.Heats (s.throttleCourse c) := by
  have hnext (n : Nat) : s.Heats (s.updCourse c fun k => { k with tNext := n }) := by
    refine fun hs => ⟨fun k r hr => ?_, rfl, rfl, rfl, fun i => ⟨(s.tile i).leftAt, rfl⟩⟩
    by_cases hk : k = c
    · rw [hk, State.updCourse_course_self] at hr
      exact hs c r hr
    · rw [State.updCourse_course_ne _ _ hk] at hr
      exact hs k r hr
  have hcount (u : State) (n : Nat) : u.Heats { u with therm.throttleMs := n } :=
    fun hs => ⟨hs, rfl, rfl, rfl, fun i => ⟨(u.tile i).leftAt, rfl⟩⟩
  unfold throttleCourse
  dsimp only
  generalize (if s.hbmHot (c / 4) = true then _ else _ : Nat) = n
  generalize hu : s.updCourse c _ = u
  have hcounted (m : Nat) : s.Heats (if (s.course c).t < 16 then { u with therm.throttleMs := m } else u) := by
    have hsu : s.Heats u := hu ▸ hnext n
    split
    · exact hsu.trans (hcount u m)
    · exact hsu
  split
  · exact hcounted _
  · exact (hcounted _).trans (State.postReq_heats _ c trivial)

theorem State.rotateCourse_heats (s : State) (c : Nat) : s.Heats (s.rotateCourse c) := by
  unfold rotateCourse
  dsimp only
  split
  · exact .refl s
  · refine .of_fold (fun u slot => ?_) _ s
    split
    · exact State.postReq_heats _ c trivial
    · exact .refl u

/-- The model's update of a tile: its prediction covers the measured hot spot, and its offset only gains what was measured above. -/
theorem Tile.model_spec (x : Tile) (raw : Int) (now : Tick) : (x.model raw now).1.meas = x.meas ∧ (x.model raw now).1.offsetAt = now ∧
    (x.model raw now).1.pred = max x.meas (raw + (x.model raw now).1.offset / offsetUnit) ∧ x.offsetNow now ≤ (x.model raw now).1.offset ∧
    ((∀ p, x.oldPred now = some p → x.meas ≤ p + 48) → (x.model raw now).1.offset = x.offsetNow now) := by
  refine ⟨rfl, rfl, rfl, ?_, fun hcool => ?_⟩
  · unfold model
    dsimp only
    split
    · split
      · have hex : 0 ≤ (x.meas - ‹Int›) * offsetUnit := Int.mul_nonneg (by omega) (by decide)
        omega
      · simp
    · simp
  · unfold model
    dsimp only
    split
    · next p hp =>
      rw [if_neg (by have := hcool p hp; omega)]
      simp
    · simp

theorem State.modelTile_pair (s : State) (n : Nat) (raw : Int) : (s.modelTile n raw).pair n = ((s.pair n).model raw s.now).1 := by
  unfold modelTile
  dsimp only
  split
  · exact State.updPair_pair ..
  · exact State.updPair_pair ..

theorem State.modelTile_keeps {γ : Type} (φ : State → γ) (hpair : ∀ (s : State) n f, φ (s.updPair n f) = φ s)
    (hdrift : ∀ (s : State) d, φ { s with therm.drift := d } = φ s) (s : State) (n : Nat) (raw : Int) : φ (s.modelTile n raw) = φ s := by
  unfold modelTile
  dsimp only
  split
  · exact (hdrift ..).trans (hpair ..)
  · exact hpair ..

theorem exec_thermalModelUpdate_plinth {s : State} (hup : s.up = true) (raw : Int) :
    exec (.thermalModelUpdate 4 [raw] []) s = .next (s.modelTile 144 raw).plinthHeat := by
  have hx : exec (.thermalModelUpdate 4 [raw] []) s = execThermalModelUpdate 4 [raw] [] s := rfl
  rw [hx, execThermalModelUpdate, hup]
  rfl

/-- A Pier's Courses follow their predictions. -/
def State.steerPier (s : State) (pier : Nat) : State :=
  (List.range 4).foldl (fun s c => (s.throttleCourse (pier * 4 + c)).rotateCourse (pier * 4 + c)) s

theorem State.steerPier_heats (s : State) (pier : Nat) : s.Heats (s.steerPier pier) :=
  .of_fold (g := fun s c => (s.throttleCourse (pier * 4 + c)).rotateCourse (pier * 4 + c))
    (fun u _ => (u.throttleCourse_heats _).trans (State.rotateCourse_heats _ _)) _ s

theorem exec_thermalModelUpdate_pier {s : State} {pier : Nat} (hup : s.up = true) (hp : pier < 4) (hpow : (s.pier pier).powered = true)
    (hres : (s.pier pier).resetting = false) (raw : Int) :
    exec (.thermalModelUpdate pier [raw] []) s = .next ((s.modelTile (36 * pier) raw).steerPier pier) := by
  have hx : exec (.thermalModelUpdate pier [raw] []) s = execThermalModelUpdate pier [raw] [] s := rfl
  rw [hx, execThermalModelUpdate, hup, Nat.mul_comm 36 pier]
  simp [show pier ≠ 4 by omega, hp, hpow, hres, State.readRefs]
  rfl

/-! ## The HBM stacks (R245, R249) -/

theorem exec_hbmTempSample {s : State} {n : Nat} (hup : s.up = true) (hn : n < 8) (hp : (s.pier (n / 2)).powered = true) :
    (∀ v, exec (.hbmTempSample n (.val v)) s = .next (s.stackTemp n v)) ∧ exec (.hbmTempSample n .fail) s = .next (s.stackFail n) := by
  have hx (t : Reading) : exec (.hbmTempSample n t) s = execHbmTempSample n t s := rfl
  have hon : (s.up && decide (n < 8) && (s.pier (n / 2)).powered) = true := by simp [hup, hn, hp]
  exact ⟨fun v => by rw [hx, execHbmTempSample, if_pos hon], by rw [hx, execHbmTempSample, if_pos hon]⟩

theorem stackState_cool {t : Int} (h : t ≤ 85) : stackState 0 t = 0 := by
  simp [stackState, show ¬ 95 ≤ t by omega, show ¬ 90 < t by omega, show ¬ 85 < t by omega]

theorem stackState_hot {old : Nat} {t : Int} (hold : old < 2) (hlo : 85 < t) (hhi : t ≤ 90) : stackState old t = 1 := by
  simp [stackState, show ¬ 95 ≤ t by omega, show ¬ 90 < t by omega, hlo, show old ≠ 2 by omega, show old ≠ 3 by omega]

theorem State.stackTemp_cool {s : State} {n : Nat} {v : Int} (hv : v ≤ 85) (h : (s.stack n).state = 0) :
    s.stackTemp n v = s.updStack n fun _ => { temp := v, state := 0, fails := 0 } := by
  unfold stackTemp
  simp [h, stackState_cool hv]

/-- A hot stack has state 1, and is posted where it was normal. -/
theorem State.stackTemp_hot {s : State} {n : Nat} {v : Int} (hlo : 85 < v) (hhi : v ≤ 90) (h : (s.stack n).state < 2) :
    s.stackTemp n v = (if (s.stack n).state < 1 then
      (s.updStack n fun _ => { temp := v, state := 1, fails := 0 }).post 0x090B 4 n (temp16 (degC v) ++ leBytes 1 1)
      else s.updStack n fun _ => { temp := v, state := 1, fails := 0 }) := by
  have h4 : ((s.stack n).state == 4) = false := beq_eq_false_iff_ne.2 (by omega)
  unfold stackTemp
  simp only [h4, Bool.false_eq_true, if_false, stackState_hot h hlo hhi, Bool.false_and, Bool.or_false, decide_eq_true_eq]
  rfl

/-- A read that fails, before the third in a row. -/
theorem State.stackFail_counts {s : State} {n : Nat} (hf : (s.stack n).fails < 2) :
    s.stackFail n = s.updStack n fun q => { q with fails := q.fails + 1 } := by
  unfold stackFail
  simp [show (s.stack n).fails + 1 < 3 by omega]

/-- The third failed read: the stack is silent and taken as 91 °C, and its Pier is throttled. -/
theorem State.stackFail_silent {s : State} {n : Nat} (hs : (s.stack n).state < 4) (hf : 2 ≤ (s.stack n).fails) : s.stackFail n =
    ((s.updStack n fun q => { q with temp := 91, state := 4, fails := 0 }).post 0x090C 4 n []).throttlePier (n / 2) := by
  unfold stackFail
  simp [show (s.stack n).state ≠ 4 by omega, show ¬ (s.stack n).fails + 1 < 3 by omega]

/-- The request of t ≤ 8 for a Course. -/
def State.capCourse (s : State) (c : Nat) : State :=
  let n := min 8 (s.course c).tNext
  let s := s.updCourse c fun k => { k with tNext := n }
  if n == (s.course c).t then s else s.postReq c (.throttle n)

theorem State.throttlePier_eq (s : State) (pier : Nat) : s.throttlePier pier = ((List.range 4).map (pier * 4 + ·)).foldl capCourse s := by
  rw [List.foldl_map]
  rfl

/-- A capped Course has a coming level of at most 8, and no other Course's coming level changes. -/
theorem State.capCourse_spec {s : State} (hs : s.Steered) (c : Nat) : (s.capCourse c).Steered ∧ (s.capCourse c).ctxs = s.ctxs ∧
    (s.capCourse c).therm.hbmStacks = s.therm.hbmStacks ∧
    ∀ k, ((s.capCourse c).course k).tNext = if k = c then min 8 (s.course c).tNext else (s.course k).tNext := by
  unfold capCourse
  dsimp only
  generalize hn : min 8 (s.course c).tNext = n
  generalize hu : (s.updCourse c fun k => { k with tNext := n }) = u
  have hcourse (k : Nat) : (u.course k).reqs = (s.course k).reqs ∧ (u.course k).tNext = if k = c then n else (s.course k).tNext := by
    rw [← hu]
    by_cases hk : k = c
    · rw [hk, State.updCourse_course_self, if_pos rfl]
      exact ⟨rfl, rfl⟩
    · rw [State.updCourse_course_ne _ _ hk, if_neg hk]
      exact ⟨rfl, rfl⟩
  have hsteered : u.Steered := fun k r hr => hs k r ((hcourse k).1 ▸ hr)
  have hctxs : u.ctxs = s.ctxs := by rw [← hu]; rfl
  have hstacks : u.therm.hbmStacks = s.therm.hbmStacks := by rw [← hu]; rfl
  split
  · exact ⟨hsteered, hctxs, hstacks, fun k => (hcourse k).2⟩
  · obtain ⟨w, hw, ⟨l, rfl⟩, hsteers⟩ := State.postReq_steers (c := c) (r := .throttle n) hsteered trivial
    have hnext (k : Nat) : ((u.updCourse c fun q => { q with reqs := l }).course k).tNext = (u.course k).tNext := by
      by_cases hk : k = c
      · rw [hk, State.updCourse_course_self]
      · rw [State.updCourse_course_ne _ _ hk]
    obtain ⟨hctxs', -, -, hstacks', -, hcourse'⟩ := id hsteers
    exact ⟨hsteers.steered hw, hctxs'.trans hctxs, hstacks'.trans hstacks, fun k => (hcourse' k).1.trans ((hnext k).trans (hcourse k).2)⟩

theorem State.foldl_capCourse (cs : List Nat) : ∀ s : State, s.Steered → (cs.foldl capCourse s).ctxs = s.ctxs ∧
    (cs.foldl capCourse s).therm.hbmStacks = s.therm.hbmStacks ∧
    ∀ k, ((cs.foldl capCourse s).course k).tNext = if k ∈ cs then min 8 (s.course k).tNext else (s.course k).tNext := by
  induction cs with
  | nil => exact fun s _ => ⟨rfl, rfl, fun k => (if_neg List.not_mem_nil).symm⟩
  | cons c cs ih =>
    intro s hs
    obtain ⟨hsteered, hctxs, hstacks, hnext⟩ := State.capCourse_spec hs c
    obtain ⟨hctxs', hstacks', hnext'⟩ := ih _ hsteered
    refine ⟨hctxs'.trans hctxs, hstacks'.trans hstacks, fun k => (hnext' k).trans ?_⟩
    rw [hnext k]
    by_cases hk : k = c
    · subst hk
      simp
    · simp [hk]

/-- Settles O47: each event by its equation; control requests that only throttle and rotate leave the pairs, the stacks and the contexts alone. -/
theorem diodesAndStacks : Obligations.DiodesAndStacks := by
  refine ⟨?throttle, ?sample, fun s n u => exec_disagreeDwell, ?junction, fun s n => exec_sensorTest, ?tested, ?model, ?cool, ?hot, ?silent⟩
  case throttle =>
    intro s c n
    refine ⟨?_, State.setThrottle_keeps State.parts (fun _ _ _ _ _ => State.post_parts ..) s c n, fun ht hn => ?_, fun ht hn => ?_, State.setThrottle_within⟩
    · rw [State.setThrottle_keeps (fun s => s.course c) (fun _ _ _ _ _ => State.post_course ..) s c n, State.updCourse_course_self]
    · rw [State.setThrottle_post (.inl ⟨ht, hn⟩)]
      exact State.eventPosted_post (State.updCourse_host ..) (State.updCourse_now ..) _ _ _ _
    · rw [State.setThrottle_post (.inr ⟨ht, hn⟩), hn]
      exact State.eventPosted_post (State.updCourse_host ..) (State.updCourse_now ..) _ _ _ _
  case sample =>
    intro s n a b v band hread ha hb hv hcase
    have hspot (ref : Bool) : hotSpot a b (s.passed (s.pair n).disagreeAt (tMs 100)) ref = (v, band) := by
      rcases hcase with ⟨hlo, hhi, rfl, rfl⟩ | ⟨hfar, hlo, hhi, rfl, rfl⟩ | ⟨hfar, hnone, rfl, rfl⟩
      · exact hotSpot_close hlo hhi _ ref
      · exact hotSpot_apart hfar hlo hhi _ ref
      · rw [hnone]
        exact hotSpot_disagree hfar ref
    obtain ⟨⟨d, hpair⟩, hparts, hctxs⟩ := State.diodeSample_spec ha hb hv hspot
    refine ⟨_, exec_diodeSample hread _ _, ?_⟩
    rw [hpair]
    refine ⟨rfl, rfl, rfl, rfl, rfl, fun hband => ?_, hparts, hctxs⟩
    have hnone : (s.pair n).disagreeAt = none := by
      rcases hcase with ⟨_, _, _, rfl⟩ | ⟨_, _, _, _, rfl⟩ | ⟨_, hnone, _, _⟩
      · exact absurd hband (by decide)
      · exact absurd hband (by decide)
      · exact hnone
    subst hband
    rw [hnone]
    rfl
  case junction =>
    intro s n u hread hoff hhot hu
    have htherm : s.junctionSafe.therm = { s.therm with safeJunction := { on := true, since := none } } :=
      s.junctionSafe_keeps State.therm (fun _ _ _ _ _ => State.post_therm ..) fun _ _ _ => rfl
    have hcause : s.junctionSafe.safeCauses ≠ 0 := State.safeCauses_junction (by rw [htherm])
    exact ⟨_, exec_junctionDwell hread hoff hhot hu, htherm, hcause, State.profile_safe hcause,
      s.junctionSafe_keeps State.parts (fun _ _ _ _ _ => State.post_parts ..) fun _ _ _ => rfl,
      s.junctionSafe_keeps State.ctxs (fun _ _ _ _ _ => State.post_ctxs ..) fun _ _ _ => rfl⟩
  case tested =>
    intro s n u a b ref dA dB hdA hdB hn hread hq hidle hocc hu hreqs hb ha' hb'
    subst hdA hdB
    refine ⟨fun ha => ?passed, fun ha => ?retired⟩
    case passed =>
      obtain ⟨htransient, hpair, hparts, hcourses⟩ := (s.testOver n).noteTransient_spec 7 (16 + n)
      refine ⟨_, exec_sensorTestDone_passed hn hread hq hidle hocc hu hreqs a b ref hb ha, ?_, ?_, ?_, ?_, ?_, ?_⟩
      · rw [hpair, State.testOver_pair]
      · rw [hpair, State.testOver_pair, ha']
      · rw [hpair, State.testOver_pair, hb']
      · rw [State.course, hcourses]
        exact congrArg (·.occupied) (s.testOver_course n)
      · rw [htransient, State.testOver_flt]
      · rw [hparts, State.testOver_parts]
    case retired =>
      obtain ⟨hpair, hretired, hparts, hcourses⟩ := (s.testOver n).retireDiode_spec n 0 (a - (ref + min 16 ((s.tile n).offset16 s.now)))
      refine ⟨_, exec_sensorTestDone_retired hn hread hq hidle hocc hu hreqs a b ref hb ha, ?_, ?_, ?_, ?_, ?_, ?_⟩
      · rw [hpair, State.testOver_pair]
        rfl
      · rw [hpair, State.testOver_pair]
        rfl
      · rw [hpair, State.testOver_pair]
        exact hb'
      · rw [State.course, hcourses]
        exact congrArg (·.occupied) (s.testOver_course n)
      · rw [hretired, State.testOver_sensorsRetired]
      · rw [hparts, State.testOver_parts]
  case model =>
    intro s raw n pier hup hwhere
    obtain ⟨hmeas, hat, hpred, hle, hsame⟩ := (s.pair n).model_spec raw s.now
    have hpair := s.modelTile_pair n raw
    have hctxs := State.modelTile_keeps State.ctxs State.updPair_ctxs (fun _ _ => rfl) s n raw
    have hmem := State.modelTile_keeps State.mem State.updPair_mem (fun _ _ => rfl) s n raw
    have hparts := State.modelTile_keeps State.parts State.updPair_parts (fun _ _ => rfl) s n raw
    have hcourses := State.modelTile_keeps State.courses State.updPair_courses (fun _ _ => rfl) s n raw
    rcases hwhere with ⟨rfl, rfl⟩ | ⟨hp, rfl, hpow, hres, hreqs⟩
    · have hkeep : (s.modelTile 144 raw).plinthHeat.pair 144 = ((s.pair 144).model raw s.now).1 := hpair
      refine ⟨_, exec_thermalModelUpdate_plinth hup raw, ?_⟩
      rw [hkeep]
      exact ⟨hmeas, hat, hpred, hle, hsame, hctxs, hmem, fun _ => ⟨hparts, hcourses⟩⟩
    · have hsteered : (s.modelTile (36 * pier) raw).Steered := by
        intro k r hr
        rw [State.course, hcourses] at hr
        exact absurd (hreqs k ▸ hr) List.not_mem_nil
      obtain ⟨-, hctxs', hmem', -, htile⟩ := (s.modelTile (36 * pier) raw).steerPier_heats pier hsteered
      obtain ⟨l, hl⟩ := htile (36 * pier)
      have hkeep : ((s.modelTile (36 * pier) raw).steerPier pier).pair (36 * pier) = { ((s.pair (36 * pier)).model raw s.now).1 with leftAt := l } := by
        rw [State.pair_tile _ (by omega), hl, ← State.pair_tile _ (by omega), hpair]
      refine ⟨_, exec_thermalModelUpdate_pier hup hp hpow hres raw, ?_⟩
      rw [hkeep]
      exact ⟨hmeas, hat, hpred, hle, hsame, hctxs'.trans hctxs, hmem'.trans hmem, fun h => absurd h (by omega)⟩
  case cool =>
    intro s n v hup hn hp hv h
    rw [(exec_hbmTempSample hup hn hp).1 v, State.stackTemp_cool hv h]
  case hot =>
    intro s n v hup hn hp hlo hhi h
    refine ⟨_, (exec_hbmTempSample hup hn hp).1 v, ?_⟩
    rw [State.stackTemp_hot hlo hhi h]
    have hstack (u : State) (d : List Byte) : (u.post 0x090B 4 n d).stack n = u.stack n := by simp [State.stack]
    split
    · exact ⟨by rw [hstack, State.updStack_stack_self], by simp, by simp⟩
    · exact ⟨State.updStack_stack_self .., rfl, rfl⟩
  case silent =>
    intro s n hup hn hp hstate hreqs
    refine ⟨fun hf => ?_, fun hf => ?_⟩
    · rw [(exec_hbmTempSample hup hn hp).2, State.stackFail_counts hf]
    · generalize hu : (s.updStack n fun q => { q with temp := 91, state := 4, fails := 0 }).post 0x090C 4 n [] = u
      have hstack : u.stack n = { temp := 91, state := 4, fails := 0 } := by
        have hpost : u.stack n = (s.updStack n fun q => { q with temp := 91, state := 4, fails := 0 }).stack n := by rw [← hu]; simp [State.stack]
        rw [hpost, State.updStack_stack_self]
      have hcourse (k : Nat) : u.course k = s.course k := by rw [← hu, State.post_course]; rfl
      have hctxs : u.ctxs = s.ctxs := by rw [← hu]; simp
      have hsteered : u.Steered := fun k r hr => by
        rw [hcourse, hreqs k] at hr
        exact absurd hr List.not_mem_nil
      obtain ⟨hctxs', hstacks, hnext⟩ := State.foldl_capCourse ((List.range 4).map (n / 2 * 4 + ·)) u hsteered
      rw [← State.throttlePier_eq] at hctxs' hstacks
      refine ⟨u.throttlePier (n / 2), ?_, ?_, fun i hi => ?_, hctxs'.trans hctxs⟩
      · rw [(exec_hbmTempSample hup hn hp).2, State.stackFail_silent hstate hf, hu]
      · rw [State.stack, hstacks]
        exact hstack
      · rw [State.throttlePier_eq, hnext, if_pos (List.mem_map_of_mem (List.mem_range.2 hi)), hcourse]

end Sys2Proof.Machine
end

section
/-! SUPPORT. SRAM lines and their valid tags (R104), and the tags of a partition's tiles at its boundary point (R25). -/

namespace Sys2Proof.Machine

/-! ## Tags of a line (R104) -/

theorem sramWrite_valid_self (x : Sram) (a : Nat) (b : Byte) : (sramWrite x a b).valid.contains (a / 64) = true := by
  unfold sramWrite
  split
  · assumption
  · simp only [insertNat_contains, beq_self_eq_true, Bool.true_or]

theorem sramWrite_valid_ne (x : Sram) (a : Nat) (b : Byte) {n : Nat} (h : n ≠ a / 64) :
    (sramWrite x a b).valid.contains n = x.valid.contains n := by
  unfold sramWrite
  split
  · rfl
  · simp only [insertNat_contains, beq_eq_false_iff_ne.2 h, Bool.false_or]

theorem sramRead_invalid {x : Sram} {a : Nat} (h : x.valid.contains (a / 64) = false) : sramRead x a = 0 := by
  unfold sramRead
  rw [h]
  rfl

theorem sramInvalidate_valid (x : Sram) (lo hi n : Nat) :
    (sramInvalidate x lo hi).valid.contains n = (x.valid.contains n && !(decide (lo ≤ n) && decide (n < hi))) := by
  rw [Bool.eq_iff_iff]
  simp only [sramInvalidate, List.contains_iff_mem, List.mem_filter, Bool.or_eq_true, decide_eq_true_eq, Bool.and_eq_true, Bool.not_eq_true',
    Bool.and_eq_false_iff, decide_eq_false_iff_not, Nat.not_le, Nat.not_lt]

theorem sramRead_sramInvalidate (x : Sram) (lo hi a : Nat) :
    sramRead (sramInvalidate x lo hi) a = if lo ≤ a / 64 ∧ a / 64 < hi then 0 else sramRead x a := by
  by_cases h : lo ≤ a / 64 ∧ a / 64 < hi
  · rw [if_pos h, sramRead_invalid]
    rw [sramInvalidate_valid]
    simp [h]
  · have hv : (sramInvalidate x lo hi).valid.contains (a / 64) = x.valid.contains (a / 64) := by
      rw [sramInvalidate_valid]
      simp [-not_and, ← Bool.decide_and, h]
    rw [if_neg h]
    unfold sramRead
    rw [hv]
    rfl

/-! ## The boundary point's tags (R25) -/

/-- A tile with every tag clear; its array stays. -/
def Tile.cleared (x : Tile) : Tile := { x with sram.valid := [] }

theorem Tile.cleared_read (x : Tile) (a : Nat) : sramRead x.cleared.sram a = 0 := sramRead_invalid rfl

theorem State.foldl_cleared_tile (t : Nat) (l : List Nat) : ∀ s : State,
    (l.foldl (fun s k => s.updTile k Tile.cleared) s).tile t = if t ∈ l then (s.tile t).cleared else s.tile t := by
  induction l with
  | nil => exact fun s => rfl
  | cons k l ih =>
    intro s
    rw [List.foldl_cons, ih]
    by_cases hk : t = k
    · subst hk
      simp [Tile.cleared]
    · simp [updTile_tile_ne _ _ hk, hk]

/-- The tile of each Ashlar of the partition is cleared. -/
theorem State.clearPart_tile {s : State} {pid l t : Nat} {p : Part} (h : s.part? pid = some p) (hl : l < p.size) (ht : s.tileOf p l = some t) :
    (s.clearPart pid).tile t = (s.tile t).cleared := by
  have hmem : t ∈ (List.range p.size).filterMap (s.tileOf p) := List.mem_filterMap.2 ⟨l, List.mem_range.2 hl, ht⟩
  have htiles : (s.clearPart pid).tiles = (((List.range p.size).filterMap (s.tileOf p)).foldl (fun s k => s.updTile k Tile.cleared) s).tiles := by
    unfold clearPart
    simp only [h, updPart_tiles]
    refine foldl_keeps _ State.tiles ?_ p.courses _
    exact fun _ _ => rfl
  have htile := State.foldl_cleared_tile t ((List.range p.size).filterMap (s.tileOf p)) s
  rw [if_pos hmem] at htile
  rw [← htile]
  exact congrArg (fun ts : Tbl Tile => ts.get {} t) htiles

/-- Settles O24: an array's write is read back, the tags are those of the lines written, and a boundary point clears those of its tiles. -/
theorem sramLinesFollowTheirTags : Obligations.SramLinesFollowTheirTags := by
  refine ⟨fun x a bs h => ⟨sramWriteN_wf bs a h, fun k => sramRead_sramWriteN bs a k h⟩, fun x a b => ⟨sramWrite_valid_self x a b, fun n => sramWrite_valid_ne x a b⟩,
    fun x a => sramRead_invalid, fun x lo hi a => ⟨rfl, sramRead_sramInvalidate x lo hi a⟩, fun s pid p h => ⟨?_, fun l t hl ht => ?_, ?_⟩⟩
  · obtain ⟨ts, ps, cb, hc⟩ := State.clearPart_eq h
    rw [hc]
    exact ⟨_, State.updPart_part (s := { s with tiles := ts, piers := ps, mem.cbuf := cb }) h _, rfl, rfl, rfl, rfl⟩
  · rw [State.clearPart_tile h hl ht]
    exact ⟨rfl, fun a => Tile.cleared_read _ a⟩
  · obtain ⟨ts, ps, cb, hc⟩ := State.clearPart_eq h
    rw [hc, State.updPart_mem, State.updPart_ctxs]
    exact ⟨rfl, rfl⟩

end Sys2Proof.Machine
end

section
/-! SUPPORT. The register sets of a host channel (R112, R117, R118, R123): writes to the shadow window, arming, activation and the
two writes of CH_CTRL. -/

namespace Sys2Proof.Machine

/-! ## The two sets of a channel (R112) -/

@[simp] theorem Channel.setShadow_shadowSet (c : Channel) (x : ShSet) : (c.setShadow x).shadowSet = x := by
  unfold setShadow
  split <;> simp [shadowSet, *]

@[simp] theorem Channel.setShadow_doneCount (c : Channel) (x : ShSet) : (c.setShadow x).doneCount = c.doneCount := by
  unfold setShadow
  split <;> rfl

theorem Channel.activate_activeSet (c : Channel) : c.activate.activeSet = c.shadowSet := by
  cases h : c.activeB <;> simp [activate, activeSet, shadowSet, h]

@[simp] theorem State.raiseChan_mem (s : State) (ch : Nat) (b : Bool) : (s.raiseChan ch b).mem = s.mem := by
  unfold raiseChan
  split
  · exact raiseVec_mem ..
  · rfl

@[simp] theorem State.raiseChan_chan (s : State) (ch k : Nat) (b : Bool) : (s.raiseChan ch b).chan k = s.chan k := by
  simp [chan]

@[simp] theorem State.raiseChan_ctxs (s : State) (ch : Nat) (b : Bool) : (s.raiseChan ch b).ctxs = s.ctxs := by
  unfold raiseChan
  split <;> simp
@[simp] theorem State.raiseChan_sec (s : State) (ch : Nat) (b : Bool) : (s.raiseChan ch b).sec = s.sec := by
  unfold raiseChan
  split <;> simp
@[simp] theorem State.raiseChan_aer (s : State) (ch : Nat) (b : Bool) : (s.raiseChan ch b).host.aer = s.host.aer := by
  unfold raiseChan
  split <;> simp

/-! ## Writes to the shadow window (R117, R118) -/

section
variable {s : State} {ch : Nat}

theorem State.shadowWrite_armed (ha : (s.chan ch).armed = true) (off v : Nat) :
    s.shadowWrite ch off v = s.updChan ch fun c => { c with overwrite := true } := by
  simp [shadowWrite, ha]

theorem State.shadowWrite_stores (ha : (s.chan ch).armed = false) (hl : (s.chan ch).landing = none) {off : Nat} (ho : off ≠ 0x34) (v : Nat) :
    s.shadowWrite ch off v = s.updChan ch fun c => c.setShadow (c.shadowSet.put off v) := by
  simp [shadowWrite, ha, hl, ho]

/-- A write of SH_CTRL with ARM stores it and arms. -/
theorem State.shadowWrite_arm (ha : (s.chan ch).armed = false) (hl : (s.chan ch).landing = none) {v : Nat} (hv : bitOf v 0 = true) :
    s.shadowWrite ch 0x34 v = (s.updChan ch fun c => c.setShadow (c.shadowSet.put 0x34 v)).armSet ch := by
  simp [shadowWrite, ha, hl, hv]

theorem State.armSet_arms (h : s.armCode (s.chan ch).shadowSet = none) : s.armSet ch = s.updChan ch fun c => { c with armed := true } := by
  simp [armSet, h]

theorem State.armSet_refuses {k : Nat} (h : s.armCode (s.chan ch).shadowSet = some k) : s.armSet ch =
    (s.updChan ch fun c => { c with armRefused := true, badTag := (s.chan ch).shadowSet.tag, badCode := k, doneCount := (c.doneCount + 1) % 65536 }).raiseChan
      ch (s.chan ch).irqBad := by
  simp [armSet, h]

end

/-- The checks of arming read the frame tables and the tenants, not the channels. -/
@[simp] theorem State.updChan_armCode (s : State) (ch : Nat) (f : Channel → Channel) (x : ShSet) : (s.updChan ch f).armCode x = s.armCode x := rfl

/-! ## The commands -/

section
variable {s : State} {ch : Nat}

theorem exec_shCtrlArm {v : W32} (hd : s.fnDecodes .pf = true) (hch : ch < 16) (hv : bitOf v.toNat 0 = true) :
    exec (.shCtrlArm ch v) s = .next (s.shadowWrite ch 0x34 v.toNat) := by
  show execShCtrlArm ch v s = _
  simp [execShCtrlArm, hd, hch, hv]

theorem exec_shadowWindowOverwrite {off : Nat} (hd : s.fnDecodes .pf = true) (hch : ch < 16) (ho : off < 0x34) (h4 : off % 4 = 0) (hw : shWide off = false) (v : W64) :
    exec (.shadowWindowOverwrite ch off v) s = .next (s.shadowWrite ch off (v.toNat % 2 ^ 32)) := by
  have ho' : off < 0x38 := by omega
  show execShadowWindowOverwrite ch off v s = _
  simp [execShadowWindowOverwrite, hd, hch, ho', h4, hw]

theorem exec_dmaShadowActivate (hup : s.up = true) (hch : ch < 16) (hhold : s.power.hold = false) (hmay : (s.chan ch).mayActivate = true) :
    exec (.dmaShadowActivate ch) s = .next (s.updChan ch Channel.activate) := by
  show execDmaShadowActivate ch s = _
  simp [execDmaShadowActivate, hup, hch, hhold, hmay]

theorem exec_chCtrlEnable {v : W32} (hd : s.fnDecodes .pf = true) (hch : ch < 16) (hv : bitOf v.toNat 0 = true) :
    exec (.chCtrlEnable ch v) s =
      .next (s.updChan ch fun c => { c with irqBad := bitOf v.toNat 1, enable := !c.retired, stopped := c.retired }) := by
  show execChCtrlEnable ch v s = _
  simp [execChCtrlEnable, State.chCtrl, hd, hch, hv]

theorem exec_chCtrlDisable {v : W32} (hd : s.fnDecodes .pf = true) (hch : ch < 16) (hv : bitOf v.toNat 0 = false) :
    exec (.chCtrlDisable ch v) s =
      .next (if (s.chan ch).enable then s.stopChan ch else s.updChan ch fun c => { c with irqBad := bitOf v.toNat 1 }) := by
  show execChCtrlDisable ch v s = _
  simp [execChCtrlDisable, State.chCtrl, hd, hch, hv]

/-- A channel without a set under way stops at once: no byte moves. -/
theorem State.stopChan_idle (hb : (s.chan ch).busy = false) (hl : (s.chan ch).landing = none) (hq : ∀ r ∈ s.sec.tenants, r.2.state ≠ 2) :
    s.stopChan ch = s.updChan ch fun c => { retired := c.retired, stopped := true } := by
  unfold stopChan
  simp only [hb, hl, stopSet, Bool.false_eq_true, if_false]
  exact State.landDue_quiet _ hq

end

/-! ## The obligation -/

/-- Settles O30: arming by its code, the other writes by whether the channel is armed, and CH_CTRL by what is under way. -/
theorem channelsArmAndStop : Obligations.ChannelsArmAndStop := by
  intro s ch hch
  refine ⟨?arm, ?armed, ?window, ?activate, ?enable, ?disable⟩
  case arm =>
    intro v x hd hv ha hl hx
    have hset : ((s.updChan ch fun c => c.setShadow (c.shadowSet.put 0x34 v.toNat)).chan ch).shadowSet = x := by simp [hx]
    rw [exec_shCtrlArm hd hch hv, State.shadowWrite_arm ha hl hv]
    refine ⟨fun hc => ?_, fun k hc => ?_⟩
    · rw [State.armSet_arms (by rw [hset]; exact hc)]
      refine ⟨_, rfl, by simp [hx], fun k hk => ?_, rfl, rfl⟩
      rw [State.updChan_chan_ne _ _ hk, State.updChan_chan_ne _ _ hk]
    · rw [State.armSet_refuses (by rw [hset]; exact hc), hset]
      refine ⟨_, rfl, ?_, fun k hk => ?_, by simp, by simp⟩
      · simp [hx]
      · rw [State.raiseChan_chan, State.updChan_chan_ne _ _ hk, State.updChan_chan_ne _ _ hk]
  case armed =>
    intro v hd hv ha
    rw [exec_shCtrlArm hd hch hv, State.shadowWrite_armed ha]
  case window =>
    intro off v hd ho h4 hw
    rw [exec_shadowWindowOverwrite hd hch ho h4 hw]
    exact ⟨fun ha => by rw [State.shadowWrite_armed ha], fun ha hl => by rw [State.shadowWrite_stores ha hl (by omega)]⟩
  case activate =>
    intro hup hhold he hr ha hl
    have hmay : (s.chan ch).mayActivate = true := by simp [Channel.mayActivate, he, hr, ha, hl]
    refine ⟨_, exec_dmaShadowActivate hup hch hhold hmay, ?_⟩
    rw [State.updChan_chan_self, Channel.activate_activeSet]
    exact ⟨rfl, rfl, rfl, rfl, rfl, rfl, fun k hk => State.updChan_chan_ne _ _ hk⟩
  case enable =>
    intro v hd hv hr
    rw [exec_chCtrlEnable hd hch hv]
    exact congrArg Host.Outcome.next (State.updChan_congr s ch (by simp [hr]))
  case disable =>
    intro v hd hv
    rw [exec_chCtrlDisable hd hch hv]
    exact ⟨fun he => by rw [he]; rfl, fun he hb hl hq => by rw [he, if_pos rfl, State.stopChan_idle hb hl hq]⟩

end Sys2Proof.Machine
end

section
/-! SUPPORT. The end of a set of a host channel (R114, R115, R119, R120, R249): which bytes land, and what the channel shows. -/

namespace Sys2Proof.Machine

/-! ## HBM through the frame tables (R108) -/

theorem State.hbmByte_of_mem {s t : State} (h : t.mem = s.mem) (ten off : Nat) : t.hbmByte ten off = s.hbmByte ten off := by
  simp only [hbmByte, physAddr, frameOf, h]

theorem State.hbmReadN_of_mem {s t : State} (h : t.mem = s.mem) (ten n : Nat) : ∀ off, t.hbmReadN ten off n = s.hbmReadN ten off n := by
  induction n with
  | zero => exact fun off => rfl
  | succ n ih => exact fun off => by rw [hbmReadN, hbmReadN, hbmByte_of_mem h, ih]

theorem State.hbmWrite_of_mem {s t : State} (h : t.mem = s.mem) (ten off : Nat) (b : Byte) : (t.hbmWrite ten off b).mem = (s.hbmWrite ten off b).mem := by
  unfold hbmWrite physAddr frameOf
  rw [h]
  split <;> simp [h]

theorem State.hbmWriteN_of_mem (ten : Nat) (bs : List Byte) : ∀ {s t : State} (_ : t.mem = s.mem) (off : Nat),
    (t.hbmWriteN ten off bs).mem = (s.hbmWriteN ten off bs).mem := by
  induction bs with
  | nil => exact fun h off => h
  | cons b bs ih => exact fun h off => ih (State.hbmWrite_of_mem h ten off b) (off + 1)

theorem State.touchStacks_mem (s : State) (ks : List Nat) : (s.touchStacks ks).mem = s.mem := by
  obtain ⟨ps, e, -⟩ := s.touchStacks_eq ks
  rw [e]

/-! ## A set of one row (R112) -/

section
variable {x : ShSet}

theorem unsigned_word (w : W64) : unsigned 64 w.toNat = w.toNat := by
  have hw := w.isLt
  unfold unsigned
  omega

theorem ShSet.srcAt_first (x : ShSet) : x.srcAt 0 0 = x.src.toNat := by simp [srcAt]
theorem ShSet.dstAt_first (x : ShSet) : x.dstAt 0 0 = x.dst.toNat := by simp [dstAt]

theorem ShSet.total_row (hf : x.form = 0) : x.total = x.row.toNat := by simp [total, rows, planes, hf]

/-- A set of one row moves the first bytes of its row. -/
theorem State.moveSet_row (hf : x.form = 0) (s : State) {n : Nat} (hn : n ≤ x.row.toNat) :
    s.moveSet x n = if n = 0 then s else x.writeRow s 0 0 (x.readRow s 0 0 n) := by
  have hzero : (x.row.toNat = 0 ∨ n = 0) = (n = 0) := by
    rw [eq_iff_iff]
    omega
  simp [moveSet, ShSet.rows, ShSet.planes, hf, Nat.min_eq_right hn, hzero]

/-- What a move changes: memory. -/
theorem State.moveSet_keeps {γ : Type} (φ : State → γ) (hhbm : ∀ s y, φ { s with mem.hbm := y } = φ s) (hhost : ∀ s y, φ { s with mem.host := y } = φ s)
    (s : State) (x : ShSet) (n : Nat) : φ (s.moveSet x n) = φ s := by
  have hrow (s : State) (p r : Nat) (bs : List Byte) : φ (x.writeRow s p r bs) = φ s := by
    unfold ShSet.writeRow
    split
    · exact State.hbmWriteN_keeps φ hhbm ..
    · exact hhost ..
  refine foldl_keeps _ φ (fun s i => ?_) _ s
  dsimp only
  split
  · rfl
  · exact hrow ..

/-- Host read: the row's bytes come from host memory and go to HBM. -/
theorem State.moveSet_hostRead (hf : x.form = 0) (hd : x.dir = 0) (s : State) {n : Nat} (hn : n ≤ x.row.toNat) :
    s.moveSet x n = s.hbmWriteN x.tenant x.dst.toNat (s.hostReadN x.src.toNat n) := by
  rw [moveSet_row hf s hn]
  split
  · subst_vars
    rfl
  · simp [ShSet.writeRow, ShSet.readRow, ShSet.srcHbm, ShSet.dstHbm, hf, hd, ShSet.srcAt_first, ShSet.dstAt_first, unsigned_word]

/-- HBM read: the row's bytes come from HBM and go to host memory. -/
theorem State.moveSet_hbmRead (hf : x.form = 0) (hd : x.dir = 1) (s : State) {n : Nat} (hn : n ≤ x.row.toNat) :
    s.moveSet x n = s.hostWriteN x.dst.toNat (s.hbmReadN x.tenant x.src.toNat n) := by
  rw [moveSet_row hf s hn]
  split
  · subst_vars
    rfl
  · simp [ShSet.writeRow, ShSet.readRow, ShSet.srcHbm, ShSet.dstHbm, hf, hd, ShSet.srcAt_first, ShSet.dstAt_first, unsigned_word]

/-! ## What has landed -/

/-- The first `n` bytes of a set have landed; its HBM is out of self-refresh (R111). -/
def State.landed (s : State) (x : ShSet) (n : Nat) : State := (s.touchStacks (s.setStacks x)).moveSet x n

theorem State.landed_keeps {γ : Type} (φ : State → γ) (hpiers : ∀ s y, φ { s with piers := y } = φ s) (hhbm : ∀ s y, φ { s with mem.hbm := y } = φ s)
    (hhost : ∀ s y, φ { s with mem.host := y } = φ s) (s : State) (x : ShSet) (n : Nat) : φ (s.landed x n) = φ s := by
  obtain ⟨ps, e, -⟩ := s.touchStacks_eq (s.setStacks x)
  rw [landed, moveSet_keeps φ hhbm hhost, e]
  exact hpiers ..

@[simp] theorem State.landed_chan (s : State) (x : ShSet) (n k : Nat) : (s.landed x n).chan k = s.chan k :=
  State.landed_keeps (fun s => s.chan k) (fun _ _ => rfl) (fun _ _ => rfl) (fun _ _ => rfl) s x n
@[simp] theorem State.landed_ctxs (s : State) (x : ShSet) (n : Nat) : (s.landed x n).ctxs = s.ctxs :=
  State.landed_keeps State.ctxs (fun _ _ => rfl) (fun _ _ => rfl) (fun _ _ => rfl) s x n
@[simp] theorem State.landed_sec (s : State) (x : ShSet) (n : Nat) : (s.landed x n).sec = s.sec :=
  State.landed_keeps State.sec (fun _ _ => rfl) (fun _ _ => rfl) (fun _ _ => rfl) s x n
@[simp] theorem State.landed_host (s : State) (x : ShSet) (n : Nat) : (s.landed x n).host = s.host :=
  State.landed_keeps State.host (fun _ _ => rfl) (fun _ _ => rfl) (fun _ _ => rfl) s x n

theorem State.landed_hostRead (hf : x.form = 0) (hd : x.dir = 0) (s : State) {n : Nat} (hn : n ≤ x.row.toNat) :
    (s.landed x n).mem = (s.hbmWriteN x.tenant x.dst.toNat (s.hostReadN x.src.toNat n)).mem := by
  have hmem := s.touchStacks_mem (s.setStacks x)
  have hread : (s.touchStacks (s.setStacks x)).hostReadN x.src.toNat n = s.hostReadN x.src.toNat n := by simp only [hostReadN, hmem]
  rw [landed, moveSet_hostRead hf hd _ hn, hread]
  exact State.hbmWriteN_of_mem x.tenant _ hmem _

theorem State.landed_hbmRead (hf : x.form = 0) (hd : x.dir = 1) (s : State) {n : Nat} (hn : n ≤ x.row.toNat) :
    (s.landed x n).mem = { s.mem with host := memWriteN s.mem.host x.dst.toNat (s.hbmReadN x.tenant x.src.toNat n) } := by
  have hmem := s.touchStacks_mem (s.setStacks x)
  rw [landed, moveSet_hbmRead hf hd _ hn, State.hbmReadN_of_mem hmem]
  simp only [hostWriteN, hmem]

end

theorem State.hbmWriteN_host (s : State) (t o : Nat) (bs : List Byte) : (s.hbmWriteN t o bs).mem.host = s.mem.host :=
  State.hbmWriteN_keeps (fun s => s.mem.host) (fun _ _ => rfl) t bs s o

/-! ## The channel -/

/-- The active set is over, nothing of a former one lands. -/
theorem Channel.over_active {c : Channel} (hl : c.landing = none) (n : Nat) :
    c.over' n = { c with doneCount := (c.doneCount + 1) % 65536, busy := false, progress := n } := by
  simp [over', hl]

theorem Channel.ending_active {c : Channel} (hl : c.landing = none) (hb : c.busy = true) : c.ending = some c.activeSet := by
  simp [ending, hl, hb]

section
variable {s : State} {ch : Nat} {x : ShSet}

theorem State.chanMoves_served (hch : ch < 16) (hup : s.up = true) (hhold : s.power.hold = false) (hquench : s.therm.quench = false)
    (hstacks : ∀ k ∈ s.setStacks x, (s.stack k).state ≠ 3) : s.chanMoves ch x = true := by
  have hserves : s.hbmServes (s.setStacks x) = true := by
    simpa [hbmServes, hquench] using hstacks
  simp [chanMoves, hup, hch, hhold, hserves]

/-- CHANNEL_SET_COMPLETE of a set that moves. -/
theorem exec_channelSetComplete (he : (s.chan ch).ending = some x) (hm : s.chanMoves ch x = true) (hq : ∀ r ∈ s.sec.tenants, r.2.state ≠ 2) :
    exec (.channelSetComplete ch) s = .next (((s.landed x x.total).updChan ch fun c => c.over' x.total).raiseChan ch x.irq) := by
  show execChannelSetComplete ch s = _
  simp only [execChannelSetComplete, he, hm, if_true]
  refine congrArg Host.Outcome.next (State.landDue_quiet _ ?_)
  show ∀ r ∈ (((s.landed x x.total).updChan ch fun c => c.over' x.total).raiseChan ch x.irq).sec.tenants, r.2.state ≠ 2
  simpa using hq

/-- The channel that a bus error leaves: its set is over with the error's code and offset. -/
def Channel.failed (c : Channel) (x : ShSet) (code offset : Nat) : Channel :=
  { c.over' offset with bad := true, badTag := x.tag, badCode := code, badOffset := offset }

theorem Channel.failed_armed (c : Channel) (x : ShSet) (code offset : Nat) : (c.failed x code offset).armed = c.armed := by
  unfold failed over'
  dsimp only
  split <;> rfl

/-- A bus error on the host side that ends the active set of a channel without an armed one. -/
def State.busFailed (s : State) (ch : Nat) (x : ShSet) (code offset : Nat) : State :=
  let t := (s.landed x offset).updChan ch fun c => c.failed x code offset
  let t := t.raiseChan ch (t.chan ch).irqBad
  { t with host.aer := code :: t.host.aer }

@[simp] theorem State.busFailed_mem (s : State) (ch : Nat) (x : ShSet) (code offset : Nat) :
    (s.busFailed ch x code offset).mem = ((s.landed x offset).updChan ch fun c => c.failed x code offset).mem := State.raiseChan_mem ..
@[simp] theorem State.busFailed_sec (s : State) (ch : Nat) (x : ShSet) (code offset : Nat) : (s.busFailed ch x code offset).sec = s.sec := by
  simp [busFailed]
@[simp] theorem State.busFailed_aer (s : State) (ch : Nat) (x : ShSet) (code offset : Nat) :
    (s.busFailed ch x code offset).host.aer = code :: s.host.aer := by
  simp [busFailed]
@[simp] theorem State.busFailed_chan_self (s : State) (ch : Nat) (x : ShSet) (code offset : Nat) :
    (s.busFailed ch x code offset).chan ch = (s.chan ch).failed x code offset := by
  show (State.raiseChan ..).chan ch = _
  simp
theorem State.busFailed_chan_ne (s : State) {ch k : Nat} (x : ShSet) (code offset : Nat) (h : k ≠ ch) :
    (s.busFailed ch x code offset).chan k = s.chan k := by
  show (State.raiseChan ..).chan k = _
  rw [raiseChan_chan, updChan_chan_ne _ _ h, landed_chan]

theorem exec_channelBusError {code offset : Nat} (he : (s.chan ch).ending = some x) (hm : s.chanMoves ch x = true) (hcode : code < 5)
    (hfits : x.codeFits code offset = true) (ha : (s.chan ch).armed = false) (hq : ∀ r ∈ s.sec.tenants, r.2.state ≠ 2) :
    exec (.channelBusError ch code offset) s = .next (s.busFailed ch x code offset) := by
  have hmay : ((s.busFailed ch x code offset).chan ch).mayActivate = false := by
    simp [Channel.mayActivate, Channel.failed_armed, ha]
  have hquiet : (s.busFailed ch x code offset).landDue = s.busFailed ch x code offset := State.landDue_quiet _ (by simpa using hq)
  show execChannelBusError ch code offset s = _
  simp only [execChannelBusError, he, hm, hfits, Bool.not_true, Bool.or_self, Bool.false_eq_true, if_false, hcode, if_true]
  change Host.Outcome.next (State.landDue (if ((s.busFailed ch x code offset).chan ch).mayActivate then _ else s.busFailed ch x code offset)) = _
  rw [hmay, if_neg Bool.false_ne_true, hquiet]

end

/-! ## The obligation -/

/-- Settles O31: the set's one row lands as it stands on its source side, whole or up to the error, and the channel ends its set. -/
theorem channelSetsMoveTheirBytes : Obligations.ChannelSetsMoveTheirBytes := by
  intro s ch x hch hup hhold hquench hl hb hx hstacks hf hrow hq
  have he : (s.chan ch).ending = some x := by rw [Channel.ending_active hl hb, hx]
  have hm := State.chanMoves_served hch hup hhold hquench hstacks
  have htotal := ShSet.total_row hf
  refine ⟨fun hd => ⟨_, exec_channelSetComplete he hm hq, ?_⟩, fun hd => ⟨_, exec_channelSetComplete he hm hq, ?_⟩,
    fun code offset hd hc1 hc5 ho ha => ?_⟩
  · have hmem := State.landed_hostRead hf hd s (Nat.le_refl _)
    rw [htotal]
    refine ⟨by simp [hmem], by simp [hmem, State.hbmWriteN_host], by simp [Channel.over_active hl], fun k hk => ?_, by simp⟩
    rw [State.raiseChan_chan, State.updChan_chan_ne _ _ hk, State.landed_chan]
  · have hmem := State.landed_hbmRead hf hd s (Nat.le_refl _)
    rw [htotal]
    refine ⟨by simp [hmem], by simp [hmem], by simp [Channel.over_active hl], fun k hk => ?_⟩
    rw [State.raiseChan_chan, State.updChan_chan_ne _ _ hk, State.landed_chan]
  · have hmem := State.landed_hostRead hf hd s ho.le
    have hfits : x.codeFits code offset = true := by
      have h5 : code ≠ 5 := by omega
      simp [ShSet.codeFits, ShSet.hostReads, ShSet.srcHbm, hd, h5, hc1, hc5, htotal, ho]
    refine ⟨_, exec_channelBusError he hm hc5 hfits ha hq, by simp, by simp [hmem], by simp [hmem, State.hbmWriteN_host],
      by simp [Channel.failed, Channel.over_active hl], fun k hk => ?_⟩
    rw [State.busFailed_chan_ne _ _ _ _ hk]

end Sys2Proof.Machine
end

section
/-! SUPPORT. Facing units (R139, R145, R181): the conversion of a picture into the batch input area, and the row bands that go into the
rings of Course buffers. -/

namespace Sys2Proof.Tbl

/-- A change of the records of distinct numbers. -/
theorem get_foldl_upd {α : Type} (d : α) (f : α → α) (l : List Nat) (h : l.Nodup) :
    ∀ (t : Tbl α) (i : Nat), get d (l.foldl (fun t k => upd d t k f) t) i = if i ∈ l then f (get d t i) else get d t i := by
  induction l with
  | nil => exact fun t i => rfl
  | cons k l ih =>
    intro t i
    obtain ⟨hk, hl⟩ := List.nodup_cons.1 h
    rw [List.foldl_cons, ih hl]
    by_cases hi : i = k
    · subst hi
      simp [hk]
    · simp [get_upd_ne d t f (Ne.symm hi), hi]

end Sys2Proof.Tbl

namespace Sys2Proof.Machine

/-! ## What a Facing unit reads -/

theorem State.plane_of_mem {s t : State} (h : t.mem = s.mem) (ten off : Nat) (pic : Pic) : t.plane ten off pic = s.plane ten off pic := by
  have hsample (base depth i : Nat) : t.sample ten base depth i = s.sample ten base depth i := by
    simp only [sample, hbmByte_of_mem h, hbmReadN_of_mem h]
  funext comp x y
  simp only [plane, hsample]

theorem State.facingRuns_of {s : State} (hup : s.up = true) (hhold : s.power.hold = false) (hstage : s.therm.stage2 = false) :
    s.facingRuns = true := by
  simp [facingRuns, hup, hhold, hstage]

/-! ## Conversion (R181) -/

section
variable {s : State} {pier : Nat} {j : FacingJob} {rest : List FacingJob} {p : Part} {pl : Plan} {v : VisionRec}

theorem exec_facingConvert (hrun : s.facingRuns = true) (hj : (s.pier pier).facing = j :: rest) (hp : s.part? j.part = some p)
    (hpl : s.planOf p = some pl) (hv : s.visionOf p = some v) (hc : j.conv = false) (hserves : s.hbmServes (s.facingStacks p pl v j) = true) :
    exec (.facingConvert pier) s = .next ((s.touchStacks (s.facingStacks p pl v j)).facingGo pier p pl v j rest) := by
  show execFacingConvert pier s = _
  simp [execFacingConvert, hrun, hj, hp, hpl, hv, hc, hserves]

/-- The picture's pixels go to the slot's place in the batch input area, the job stays for its bands or leaves, and the PLL runs. -/
theorem State.facingGo_converts {t off : Nat} {pic : Pic} {f : Facing} (hpic : s.facingPic j = some (t, pic, f, off)) :
    (s.facingGo pier p pl v j rest).trowel = { s.trowel with pllOn := true, idleAt := s.now } ∧
    (s.facingGo pier p pl v j rest).piers = (s.updPier pier fun q => q.setFacing (if s.bandJob p j then { j with conv := true } :: rest else rest)).piers ∧
    (s.facingGo pier p pl v j rest).mem = (s.hbmWriteN p.tenant (pl.regionOff + s.inputBase p pl + j.slot * imgBytes v)
      (padTo (imgBytes v) (facingBytes f pic.bitDepth (s.plane t off pic)))).mem ∧
    (s.facingGo pier p pl v j rest).parts = s.parts ∧ (s.facingGo pier p pl v j rest).ctxs = s.ctxs := by
  let u : State := { s with trowel.pllOn := true, trowel.idleAt := s.now }
  have hpic' : u.facingPic j = some (t, pic, f, off) := hpic
  have hplane : u.plane t off pic = s.plane t off pic := State.plane_of_mem rfl ..
  have keeps {γ : Type} (φ : State → γ) (hφ : ∀ s x, φ { s with mem.hbm := x } = φ s) (bs : List Byte) :
      φ (u.hbmWriteN p.tenant (pl.regionOff + s.inputBase p pl + j.slot * imgBytes v) bs) = φ u := State.hbmWriteN_keeps φ hφ ..
  unfold facingGo
  simp only [u] at hpic' hplane keeps
  simp only [hpic', hplane]
  refine ⟨keeps State.trowel (fun _ _ => rfl) _, ?_, State.hbmWriteN_of_mem (s := s) (t := u) p.tenant _ rfl _, keeps State.parts (fun _ _ => rfl) _, keeps State.ctxs (fun _ _ => rfl) _⟩
  exact congrArg (fun x : Bool × Tbl Pier => x.2.upd {} pier fun q => q.setFacing (if x.1 then { j with conv := true } :: rest else rest))
    (keeps (fun s => (s.bandJob p j, s.piers)) (fun _ _ => rfl) _)

end

/-! ## Row bands (R139) -/

/-- The partition's record once a band is out: a credit of each ring that takes it, the band counted, the band semaphore signalled. -/
def Part.banded (p : Part) (sem : Nat) (ks : List Nat) : Part :=
  { p with credits := ks.foldl (fun c k => c.upd 0 k (· - 1)) p.credits, nextBand := p.nextBand + 1, sems := p.sems.set sem (p.sems.get 0 sem + 1) }

theorem Part.takeCredits_full {p : Part} {ks : List Nat} (h : ∀ k ∈ ks, p.credits.get 0 k ≠ 0) (free : Nat) :
    p.takeCredits free ks = some { p with credits := ks.foldl (fun c k => c.upd 0 k (· - 1)) p.credits } := by
  have hdry : (ks.filter fun k => p.credits.get 0 k == 0) = [] := List.filter_eq_nil_iff.2 fun k hk => by simpa using h k hk
  simp [takeCredits, hdry, Tbl.upd]

theorem Part.banded_credits (p : Part) (sem : Nat) {ks : List Nat} (h : ks.Nodup) (k : Nat) :
    (p.banded sem ks).credits.get 0 k = if k ∈ ks then p.credits.get 0 k - 1 else p.credits.get 0 k :=
  Tbl.get_foldl_upd 0 (· - 1) ks h p.credits k

theorem State.updPart_some {s : State} {i : Nat} {p : Part} (h : s.part? i = some p) (f : Part → Part) :
    s.updPart i f = { s with parts := s.parts.set i (f p) } := by
  have h' : s.parts.find? i = some p := h
  simp only [updPart, h']

theorem State.foldl_updCbuf_at (f : Sram → Sram) (at' : Nat → Nat) (l : List Nat) : ∀ s : State,
    l.foldl (fun s k => s.updCbuf (at' k) f) s = { s with mem.cbuf := (l.map at').foldl (fun t c => t.upd {} c f) s.mem.cbuf } := by
  induction l with
  | nil => exact fun s => rfl
  | cons k l ih => exact fun s => ih (s.updCbuf (at' k) f)

/-- What a band leaves: the partition's record, the rings of the Courses `ks` at offset `a`, and the running PLL. -/
def State.banded (s : State) (pid : Nat) (p q : Part) (ks : List Nat) (a : Nat) (data : List Byte) : State :=
  { s with parts := s.parts.set pid q, trowel.pllOn := true, trowel.idleAt := s.now
           mem.cbuf := (ks.map (p.pier * 4 + p.course + ·)).foldl (fun t c => t.upd {} c fun x => sramWriteN x a data) s.mem.cbuf }

theorem State.banded_cbuf (s : State) (pid : Nat) (p q : Part) {ks : List Nat} (h : ks.Nodup) (a : Nat) (data : List Byte) {k : Nat} (hk : k ∈ ks) :
    (s.banded pid p q ks a data).cbuf (p.pier * 4 + p.course + k) = sramWriteN (s.cbuf (p.pier * 4 + p.course + k)) a data := by
  have hnodup : (ks.map (p.pier * 4 + p.course + ·)).Nodup := h.map fun _ _ => Nat.add_left_cancel
  exact (Tbl.get_foldl_upd ({} : Sram) _ _ hnodup _ _).trans (if_pos (List.mem_map_of_mem hk))

theorem State.banded_part (s : State) (pid : Nat) (p q : Part) (ks : List Nat) (a : Nat) (data : List Byte) :
    (s.banded pid p q ks a data).part? pid = some q := Tbl.find?_set_self ..

/-- The band semaphore counts. -/
theorem State.banded_addSem (s : State) (pid : Nat) (p q : Part) (ks : List Nat) (a : Nat) (data : List Byte) {k : Nat} (hk : k < q.semCount)
    (hn : q.sems.get 0 k + 1 ≤ 0xFFFF) : (s.banded pid p q ks a data).addSem pid 0 k 1 0 =
      s.banded pid p { q with sems := q.sems.set k (q.sems.get 0 k + 1) } ks a data := by
  have hpart := s.banded_part pid p q ks a data
  rw [addSem_counts hpart 0 0 hk hn, updPart_some hpart]
  simp only [banded, Tbl.set_set]

section
variable {s : State} {pier : Nat} {j : FacingJob} {rest : List FacingJob} {p : Part} {pl : Plan} {v : VisionRec}

theorem State.bandGo_writes (hp : s.part? j.part = some p) {b : Nat} {ks : List Nat} (hks : ks = (List.range p.nCourses).filter fun k => s.courseHolds p pl v k b)
    (hfull : ∀ k ∈ ks, p.credits.get 0 k ≠ 0) (hsem : v.bandSem < p.semCount) (hcount : p.sems.get 0 v.bandSem + 1 ≤ 0xFFFF) (data : List Byte) (rows : Nat) :
    s.bandGo pier p pl v data rows j rest b =
      let u := s.banded j.part p (p.banded v.bandSem ks) ks
        (p.cbufBase + v.ringOffset + p.nextBand % v.ringDepth * (v.bandRows * runBytes v.inFmt (v.inW * v.inC))) data
      if rows ≤ (b + 1) * v.bandRows then u.updPier pier fun q => q.setFacing rest else u := by
  unfold bandGo
  rw [← hks]
  simp only [Part.takeCredits_full hfull, State.updPart_some hp, State.foldl_updCbuf_at]
  exact congrArg (fun u : State => if rows ≤ (b + 1) * v.bandRows then u.updPier pier fun q => q.setFacing rest else u)
    (State.banded_addSem s j.part p { p with credits := ks.foldl (fun c k => c.upd 0 k (· - 1)) p.credits, nextBand := p.nextBand + 1 } ks _ data hsem hcount)

/-- A band of the oldest converted job of a unit. -/
theorem exec_facingBandWrite {s0 : State} {b rows : Nat} {data : List Byte} {ts : List Nat} (hrun : s0.facingRuns = true) (hj : (s0.pier pier).facing = j :: rest)
    (hc : j.conv = true) (hs : s = s0.pumpPart j.part) (hp : s.part? j.part = some p) (hpl : s.planOf p = some pl) (hv : s.visionOf p = some v)
    (hb : b = p.nextBand - s.bandsBefore p j) (hdata : s.bandData p pl v j b = some (rows, data)) (hts : ts = if j.zero then [] else s.facingStacks p pl v j)
    (hserves : ts = [] ∨ s.hbmServes ts = true) :
    exec (.facingBandWrite pier) s0 = .next ((s.touchStacks ts).bandGo pier p pl v data rows j rest b) := by
  have hgo : (ts.isEmpty || s.hbmServes ts) = true := by
    rcases hserves with rfl | h
    · rfl
    · simp [h]
  show execFacingBandWrite pier s0 = _
  subst hs hb
  simp only [execFacingBandWrite, hj, hrun, hc, Bool.not_true, Bool.or_self, Bool.false_eq_true, if_false, hp, hpl, hv, hdata, ← hts, hgo, if_true]

end

/-! ## The obligation -/

/-- Settles O36: the conversion by the bytes it writes, the band by what it leaves in the partition's record and in the rings. -/
theorem facingUnitsConvertAndBand : Obligations.FacingUnitsConvertAndBand := by
  refine ⟨?convert, ?band, fun s p pl v j b => ⟨?zero, ?picture⟩, ?touched⟩
  case convert =>
    intro s pier j rest p pl v t pic f off hup hhold hstage hj hp hpl hv hpic hc hserves
    refine ⟨_, exec_facingConvert (State.facingRuns_of hup hhold hstage) hj hp hpl hv hc hserves, ?_⟩
    obtain ⟨ps, e, -⟩ := s.touchStacks_eq (s.facingStacks p pl v j)
    rw [e]
    obtain ⟨htrowel, hpiers, hmem, hparts, hctxs⟩ := State.facingGo_converts (s := { s with piers := ps }) (pier := pier) (rest := rest) (p := p)
      (pl := pl) (v := v) (show ({ s with piers := ps } : State).facingPic j = some (t, pic, f, off) from hpic)
    have hplane : ({ s with piers := ps } : State).plane t off pic = s.plane t off pic := State.plane_of_mem rfl ..
    rw [hplane] at hmem
    have hmem' := hmem.trans (State.hbmWriteN_of_mem (s := s) (t := { s with piers := ps }) p.tenant _ rfl _)
    rw [htrowel, hmem']
    exact ⟨rfl, rfl, hpiers, rfl, hparts, hctxs, State.hbmWriteN_host ..⟩
  case band =>
    intro s0 s pier j rest p pl v b rows data ks ts hup hhold hstage hj hc hs hp hpl hv hb hdata hts hserves hks hfull hsem hcount
    refine ⟨_, p.banded v.bandSem ks, exec_facingBandWrite (State.facingRuns_of hup hhold hstage) hj hc hs hp hpl hv hb hdata hts hserves, ?_⟩
    have hnodup : ks.Nodup := hks ▸ List.nodup_range.filter _
    obtain ⟨ps, e, -⟩ := s.touchStacks_eq ts
    rw [e, State.bandGo_writes (s := { s with piers := ps }) hp hks hfull hsem hcount]
    generalize p.cbufBase + v.ringOffset + p.nextBand % v.ringDepth * (v.bandRows * runBytes v.inFmt (v.inW * v.inC)) = a
    have hcbuf (k : Nat) (hk : k ∈ ks) := State.banded_cbuf { s with piers := ps } j.part p (p.banded v.bandSem ks) hnodup a data hk
    have hpart := State.banded_part { s with piers := ps } j.part p (p.banded v.bandSem ks) ks a data
    dsimp only
    split <;> exact ⟨hpart, rfl, Tbl.get_set_self .., p.banded_credits _ hnodup, hcbuf, rfl, rfl, rfl, rfl, rfl⟩
  case zero =>
    intro hz
    simp [State.bandData, hz]
  case picture =>
    intro t pic f off hz hpic
    simp [State.bandData, hz, hpic]
  case touched =>
    intro s ks k
    obtain ⟨ps, e, h⟩ := s.touchStacks_eq ks
    rw [e]
    exact h k

end Sys2Proof.Machine
end

section
/-! SUPPORT. Opening and pausing a session (R110, R151, R157, R165): the reservation of its pages, SRV_OPEN, the end of a mapping,
SRV_PAUSE and the idle timeout. -/

namespace Sys2Proof.Machine

/-! ## Reservation (R151): what it leaves unchanged -/

section
variable {γ : Type} (φ : State → γ) (hmem : ∀ s y, φ { s with mem := y } = φ s)
include hmem

theorem State.mapPage_keeps (s : State) (t pg : Nat) (pier : Option Nat) : φ (s.mapPage t pg pier) = φ s := by
  unfold mapPage
  dsimp only
  split
  · rfl
  · exact hmem ..

theorem State.mapPages_keeps (t pg : Nat) (pierOf : Nat → Option Nat) (n : Nat) : ∀ (s : State) (i : Nat), φ (s.mapPages t pg pierOf n i) = φ s := by
  induction n with
  | zero => exact fun s i => rfl
  | succ n ih => exact fun s i => (ih _ (i + 1)).trans (State.mapPage_keeps φ hmem ..)

theorem State.allocPages_keeps {s u : State} {t n pg : Nat} {pierOf : Nat → Option Nat} (h : s.allocPages t n pierOf = some (pg, u)) : φ u = φ s := by
  unfold allocPages at h
  split at h
  · cases h
  · dsimp only at h
    split at h
    · cases h
    · split at h
      · cases h
        exact State.mapPages_keeps φ hmem ..
      · cases h

theorem State.kvMap_keeps (t pier n : Nat) : ∀ {s u : State}, s.kvMap t pier n = some u → φ u = φ s := by
  induction n with
  | zero => intro s u h; cases h; rfl
  | succ n ih =>
    intro s u h
    unfold kvMap at h
    split at h
    · cases h
    · rename_i pg s1 ha
      exact ((ih h).trans (hmem ..)).trans (State.allocPages_keeps φ hmem ha)

theorem State.kvRoom_keeps (t : Nat) (want ps : List Nat) : ∀ {s u : State} {n : Nat}, s.kvRoom t want ps = some (u, n) → φ u = φ s := by
  induction ps with
  | nil => intro s u n h; cases h; rfl
  | cons p ps ih =>
    intro s u n h
    unfold kvRoom at h
    dsimp only at h
    split at h
    · cases h
    · split at h
      · cases h
      · rename_i s1 hm
        obtain ⟨q, hq, he⟩ := Option.map_eq_some_iff.1 h
        cases he
        exact (ih hq).trans (State.kvMap_keeps φ hmem _ _ _ hm)

theorem State.kvReserve_keeps (hsec : ∀ s y, φ { s with sec := y } = φ s) {s u : State} {t n : Nat} {want pages : List Nat}
    (h : s.kvReserve t want = some (u, pages, n)) : φ u = φ s := by
  unfold kvReserve at h
  split at h
  · cases h
  · split at h
    · cases h
    · rename_i s1 k hr
      cases h
      refine Eq.trans ?_ (State.kvRoom_keeps φ hmem _ _ _ hr)
      unfold useQuota updTenant
      split
      · exact hsec ..
      · rfl

end

/-! ## A session's record -/

section
variable {s : State} {n : Nat} {c : Ctx}

theorem State.updSession_ctx (h : s.ctx? n = some c) (f : Session → Session) : (s.updSession n f).ctx? n = some { c with session := f c.session } :=
  State.updCtx_some h _

theorem State.updSession_ctx_ne (s : State) {n k : Nat} (f : Session → Session) (h : k ≠ n) : (s.updSession n f).ctx? k = s.ctx? k :=
  State.updCtx_ctx_ne _ _ h

theorem State.ctxFor_ctx {r : Req} {g : Nat} (h : s.ctxFor r g = some c) : s.ctx? (r.u16 0) = some c := by
  unfold ctxFor at h
  split at h
  · cases h
  · obtain ⟨-, h⟩ := Option.ite_none_right_eq_some.1 h
    cases h
    assumption

/-- The next operation is accepted under the next number (R38). -/
theorem State.accept_next (h : s.mason.lastOp + 1 < 2 ^ 32) (r : Req) (k : OpKind) : s.accept r k =
    ({ s with mason.lastOp := s.mason.lastOp + 1, mason.ops := s.mason.ops ++ [⟨s.mason.lastOp + 1, r.mb, r.code, r.tag, k⟩] },
      { status := St.accepted, arg := s.mason.lastOp + 1 }) := by
  unfold accept
  simp only [h, if_true]

end

/-! ## SRV_OPEN (R151, R165) -/

theorem exec_srvOpen {s : State} {m : Mb} {r : Req} (h : s.runs m 0x0701 true = some r) (hl : r.len = 24) (hz : field r.pay 0xC 4 = 0) :
    exec (.srvOpen m) s = .next (((s.taken m).srvOpen r).1.respond m 0x0701 r.tag ((s.taken m).srvOpen r).2) :=
  congrArg Host.Outcome.next (State.mbRun_ok (lenIs 24 [(0xC, 4)]) State.srvOpen h (lenIs_ok hl fun _ hp => List.mem_singleton.1 hp ▸ hz))

/-- The values of an SRV_OPEN that the serving record admits. -/
structure Req.Opens (r : Req) (v : ServeRec) : Prop where
  mode : r.u8 2 ≤ 2
  draft : r.u8 2 = 0 ∨ (1 ≤ r.u8 3 ∧ r.u8 3 ≤ v.draftMax)
  least : 64 ≤ r.u32 4
  most : r.u32 4 ≤ v.maxContext
  pause : r.u32 8 ≤ 86400000

theorem Req.Opens.args {r : Req} {v : ServeRec} (h : r.Opens v) :
    (decide (2 < r.u8 2) || (r.u8 2 != 0 && v.draftMax != 0 && !State.srvOpen.btwN 1 (r.u8 3) v.draftMax) || !State.srvOpen.btwN 64 (r.u32 4) v.maxContext ||
      decide (86400000 < r.u32 8)) = false := by
  obtain ⟨hmode, hdraft, hleast, hmost, hpause⟩ := h
  rcases hdraft with h0 | ⟨hlo, hhi⟩
  · simp [State.srvOpen.btwN, h0, hleast, hmost, hpause]
  · simp [State.srvOpen.btwN, hmode, hlo, hhi, hleast, hmost, hpause]

theorem Req.Opens.compatible {r : Req} {v : ServeRec} (h : r.Opens v) : (r.u8 2 != 0 && v.draftMax == 0) = false := by
  rcases h.draft with h0 | ⟨hlo, hhi⟩
  · simp [h0]
  · have hd : v.draftMax ≠ 0 := by omega
    simp [hd]

/-- The state once an SRV_OPEN has given its session its values and the reserved pages; the session does not yet take work. -/
def State.opening (s : State) (r : Req) (pages : List Nat) (now : Tick) : State := s.updSession (r.u16 0) (openSession r pages now)

section
variable {s : State} {r : Req} {c : Ctx} {p : Part} {v : ServeRec} (hc : s.ctxFor r 7 = some c) (hp : s.part? c.part = some p) (hv : s.serveOf p = some v)
include hc hp hv

theorem State.srvOpen_outside (h : r.u32 4 < 64 ∨ v.maxContext < r.u32 4) : s.srvOpen r = (s, failR St.badArg) := by
  have hb : srvOpen.btwN 64 (r.u32 4) v.maxContext = false := by
    simp only [srvOpen.btwN, Bool.and_eq_false_iff, decide_eq_false_iff_not]
    omega
  simp [srvOpen, hc, hp, hv, hb]

variable (hr : r.Opens v) (hheld : s.held (2, r.u16 0) = false)
include hr hheld

theorem State.srvOpen_full (hk : s.kvReserve c.tenant (v.pagePiers p (r.u32 4)) = none) : s.srvOpen r = (s, failR St.noResource) := by
  simp only [srvOpen, hc, hp, hv, hr.args, hheld, hr.compatible, hk, Bool.false_eq_true, if_false]

section
variable {s1 : State} {pages : List Nat} {n : Nat} (hk : s.kvReserve c.tenant (v.pagePiers p (r.u32 4)) = some (s1, pages, n))
include hk

theorem State.srvOpen_again (h : c.session.state = 1 ∨ c.session.state = 2) : s.srvOpen r = (s, failR St.refused 1) := by
  have hs : (c.session.state == 1 || c.session.state == 2) = true := by simpa using h
  simp only [srvOpen, hc, hp, hv, hr.args, hheld, hr.compatible, hk, hs, Bool.false_eq_true, if_false, if_true]

theorem State.srvOpen_opens (h1 : c.session.state ≠ 1) (h2 : c.session.state ≠ 2) (hn : n = 0) : s.srvOpen r =
    ((s1.opening r pages s.now).updSession (r.u16 0) fun x => { x with state := 1 }, okR (leBytes 4 pages.length ++ leBytes 4 0)) := by
  have hs : (c.session.state == 1 || c.session.state == 2) = false := by simp [h1, h2]
  subst hn
  simp only [srvOpen, hc, hp, hv, hr.args, hheld, hr.compatible, hk, hs, Bool.false_eq_true, if_false, beq_self_eq_true, if_true]
  rfl

theorem State.srvOpen_accepted (h1 : c.session.state ≠ 1) (h2 : c.session.state ≠ 2) (hn : n ≠ 0) : s.srvOpen r =
    (((s1.opening r pages s.now).accept r (.mapFrames (r.u16 0))).1,
      { ((s1.opening r pages s.now).accept r (.mapFrames (r.u16 0))).2 with payload := leBytes 4 pages.length ++ leBytes 4 0 }) := by
  have hs : (c.session.state == 1 || c.session.state == 2) = false := by simp [h1, h2]
  simp only [srvOpen, hc, hp, hv, hr.args, hheld, hr.compatible, hk, hs, Bool.false_eq_true, if_false, beq_eq_false_iff_ne.2 hn]
  rfl

end

end

/-! ## The end of a mapping (R110) -/

theorem exec_frameMappingDone_session {s : State} {op n : Nat} {o : PendingOp} (ho : s.op? op = some o) (hk : o.kind = .mapFrames n) (hcode : o.code = 0x0701)
    (hup : s.up = true) : exec (.frameMappingDone op) s =
      .next ((s.updSession n fun x => { x with state := 1, idleAt := s.now }).finishOp op St.ok) := by
  obtain ⟨id, mb, code, tag, kind⟩ := o
  subst hk hcode
  show execFrameMappingDone op s = _
  simp only [execFrameMappingDone, ho, hup]
  rfl

/-! ## Pausing (R157) -/

/-- A paused session: its pages and its context are gone. -/
def Session.paused (x : Session) (timeout : Bool) : Session :=
  { x with state := 3, pages := [], length := 0, tokens := [], window := [], suspended := false, suspendLeft := 0
           timeoutPauses := if timeout then sat32 x.timeoutPauses 1 else x.timeoutPauses }

/-- A pause changes the session, its tenant's quota and, for the record it releases, what an emission may change. -/
theorem State.pauseNow_eq {s : State} {n : Nat} {c : Ctx} (h : s.ctx? n = some c) (timeout : Bool) : ∃ x : Rec, x.ctx = n ∧
    s.pauseNow n timeout = ((s.giveQuota c.tenant (65536 * c.session.pages.length)).updSession n fun x => x.paused timeout).release x [] := by
  unfold pauseNow
  simp only [h]
  exact ⟨_, rfl, rfl⟩

theorem State.pauseNow_session {s : State} {n : Nat} {c : Ctx} (h : s.ctx? n = some c) (timeout : Bool) :
    ((s.pauseNow n timeout).ctx? n).map Ctx.session = some (c.session.paused timeout) := by
  obtain ⟨x, -, e⟩ := State.pauseNow_eq h timeout
  have hq : (s.giveQuota c.tenant (65536 * c.session.pages.length)).ctx? n = some c :=
    (State.giveQuota_keeps (fun s => s.ctx? n) (fun _ _ => rfl) ..).trans h
  rw [e, State.release_session, State.updSession_ctx hq]
  rfl

theorem State.pauseNow_ctx_ne {s : State} {n k : Nat} {c : Ctx} (h : s.ctx? n = some c) (timeout : Bool) (hk : k ≠ n) :
    (s.pauseNow n timeout).ctx? k = s.ctx? k := by
  obtain ⟨x, hx, e⟩ := State.pauseNow_eq h timeout
  rw [e, State.release_ctx_ne (hx ▸ hk), State.updSession_ctx_ne _ _ hk]
  exact State.giveQuota_keeps (fun s => s.ctx? k) (fun _ _ => rfl) ..

theorem State.pauseNow_work {s : State} {n : Nat} {c : Ctx} (h : s.ctx? n = some c) (timeout : Bool) :
    (s.pauseNow n timeout).parts = s.parts ∧ (s.pauseNow n timeout).mem.hbm = s.mem.hbm := by
  obtain ⟨x, -, e⟩ := State.pauseNow_eq h timeout
  rw [e, State.release_parts, State.release_mem_hbm]
  exact ⟨(State.updCtx_parts ..).trans (State.giveQuota_keeps State.parts (fun _ _ => rfl) ..),
    (congrArg MemSys.hbm (State.updCtx_mem ..)).trans (State.giveQuota_keeps (fun s => s.mem.hbm) (fun _ _ => rfl) ..)⟩

theorem exec_srvPause {s : State} {m : Mb} {r : Req} (h : s.runs m 0x0703 true = some r) (hl : r.len = 4) (hz : r.u16 2 = 0) :
    exec (.srvPause m) s = .next (((s.taken m).srvPause r).1.respond m 0x0703 r.tag ((s.taken m).srvPause r).2) :=
  congrArg Host.Outcome.next (State.mbRun_ok (lenIs 4 [(2, 2)]) State.srvPause h (lenIs_ok hl fun _ hp => List.mem_singleton.1 hp ▸ hz))

section
variable {s : State} {r : Req} {c : Ctx} (hc : s.ctxFor r 7 = some c) (hheld : s.held (2, r.u16 0) = false)
include hc hheld

theorem State.srvPause_closed (h : c.session.state ≠ 1) : s.srvPause r = (s, failR St.refused 1) := by
  simp [srvPause, hc, hheld, h]

theorem State.srvPause_idle (h : c.session.state = 1) (hreq : c.session.req = none) (hq : c.queue = []) :
    s.srvPause r = (s.pauseNow (r.u16 0) false, okR []) := by
  simp [srvPause, hc, hheld, h, hreq, hq]

theorem State.srvPause_busy (h : c.session.state = 1) (hq : c.queue ≠ []) :
    s.srvPause r = (s.updSession (r.u16 0) fun x => { x with state := 2 }).accept r (.srvPause (r.u16 0)) := by
  simp [srvPause, hc, hheld, h, hq]

end

theorem exec_sessionPauseTimeout {s : State} {n : Nat} {c : Ctx} (hc : s.ctx? n = some c) (hup : s.up = true) (hg : c.group = 7) (hs : c.session.state = 1)
    (hms : c.session.pauseMs ≠ 0) (hreq : c.session.req = none) (hq : c.queue = []) : exec (.sessionPauseTimeout n) s =
      .next (if 25000 * c.session.pauseMs ≤ s.now - c.session.idleAt then s.pauseNow n true else s) := by
  show execSessionPauseTimeout n s = _
  by_cases hd : tMs c.session.pauseMs ≤ s.since c.session.idleAt
  · rw [if_pos (show 25000 * c.session.pauseMs ≤ s.now - c.session.idleAt from hd)]
    simp [execSessionPauseTimeout, hc, hup, hg, hs, hms, hreq, hq, hd]
  · rw [if_neg (show ¬ 25000 * c.session.pauseMs ≤ s.now - c.session.idleAt from hd)]
    simp [execSessionPauseTimeout, hc, hd]

/-! ## The obligation -/

/-- Settles O37: SRV_OPEN by what the reservation gives, the mapping's end, and a pause by whether work is left. -/
theorem sessionsOpenAndPause : Obligations.SessionsOpenAndPause := by
  refine ⟨?opens, ?mapped, ?pause, ?timeout⟩
  case opens =>
    intro s s1 m r c p v pages n h hlen hz hc hp hv hheld hmode hdraft hpause
    rw [exec_srvOpen h hlen hz]
    refine ⟨fun hout => by rw [State.srvOpen_outside (s := s.taken m) hc hp hv hout]; rfl, fun hleast hmost => ?_⟩
    have hr : r.Opens v := ⟨hmode, hdraft, hleast, hmost, hpause⟩
    refine ⟨fun hk => by rw [State.srvOpen_full (s := s.taken m) hc hp hv hr hheld hk]; rfl, fun hk => ?_⟩
    have hctxs : s1.ctxs = s.ctxs := State.kvReserve_keeps (s := s.taken m) State.ctxs (fun _ _ => rfl) (fun _ _ => rfl) hk
    have hmason : s1.mason = (s.taken m).mason := State.kvReserve_keeps (s := s.taken m) State.mason (fun _ _ => rfl) (fun _ _ => rfl) hk
    have hctx : s1.ctx? (r.u16 0) = some c := (congrArg (Tbl.find? · (r.u16 0)) hctxs).trans (State.ctxFor_ctx hc)
    have hother (k : Nat) : s1.ctx? k = s.ctx? k := congrArg (Tbl.find? · k) hctxs
    have hopening : (s1.opening r pages s.now).ctx? (r.u16 0) = some { c with session := openSession r pages s.now c.session } :=
      State.updSession_ctx hctx _
    refine ⟨fun hst => by rw [State.srvOpen_again (s := s.taken m) hc hp hv hr hheld hk hst]; rfl, fun h1 h2 hn => ?_, fun h1 h2 hn hop => ?_⟩
    · rw [State.srvOpen_opens (s := s.taken m) hc hp hv hr hheld hk h1 h2 hn]
      refine ⟨_, _, rfl, State.updSession_ctx hopening _, rfl, rfl, rfl, rfl, rfl, rfl, rfl, rfl, rfl, rfl, rfl, fun k hne => ?_⟩
      rw [State.updSession_ctx_ne _ _ hne, State.opening, State.updSession_ctx_ne _ _ hne, hother]
    · have hm : (s1.opening r pages s.now).mason = (s.taken m).mason := (State.updCtx_mason ..).trans hmason
      have hop' : (s1.opening r pages s.now).mason.lastOp + 1 < 2 ^ 32 := by rw [hm]; exact hop
      rw [State.srvOpen_accepted (s := s.taken m) hc hp hv hr hheld hk h1 h2 hn, State.taken_now, State.accept_next hop', hm]
      exact ⟨_, _, rfl, hopening, rfl, rfl, rfl⟩
  case mapped =>
    intro s op n o c ho hk hcode hup hc
    refine ⟨_, exec_frameMappingDone_session ho hk hcode hup, fun k hne => State.updSession_ctx_ne _ _ hne, State.updCtx_mason .., ?_⟩
    exact ⟨_, State.updSession_ctx hc _, rfl, rfl, rfl⟩
  case pause =>
    intro s m r c h hlen hz hc hheld
    have hctx : (s.taken m).ctx? (r.u16 0) = some c := State.ctxFor_ctx hc
    rw [exec_srvPause h hlen hz]
    refine ⟨fun h1 => by rw [State.srvPause_closed (s := s.taken m) hc hheld h1]; rfl, fun h1 hreq hq => ?_, fun h1 hq hop => ?_⟩
    · rw [State.srvPause_idle (s := s.taken m) hc hheld h1 hreq hq]
      exact ⟨_, _, rfl, State.pauseNow_session hctx false, rfl, rfl, rfl, rfl, rfl, fun k hne => State.pauseNow_ctx_ne hctx false hne⟩
    · have hm : ((s.taken m).updSession (r.u16 0) fun x => { x with state := 2 }).mason = (s.taken m).mason := State.updCtx_mason ..
      have hop' : ((s.taken m).updSession (r.u16 0) fun x => { x with state := 2 }).mason.lastOp + 1 < 2 ^ 32 := by rw [hm]; exact hop
      rw [State.srvPause_busy (s := s.taken m) hc hheld h1 hq, State.accept_next hop', hm]
      exact ⟨_, _, rfl, State.updSession_ctx hctx _, rfl, rfl, rfl⟩
  case timeout =>
    intro s n c hc hup hg hs hms hreq hq
    rw [exec_sessionPauseTimeout hc hup hg hs hms hreq hq]
    refine ⟨fun hd => ?_, fun hd => by rw [if_neg (Nat.not_le.2 hd)]⟩
    rw [if_pos hd]
    obtain ⟨hparts, hhbm⟩ := State.pauseNow_work hc true
    exact ⟨_, _, rfl, State.pauseNow_session hc true, rfl, rfl, rfl, rfl, fun k hne => State.pauseNow_ctx_ne hc true hne, hparts, hhbm⟩

end Sys2Proof.Machine
end

section
/-! SUPPORT. Vision commands and host copies: VIS_PARAMS, VIS_COUNTERS and the end of a host copy (R123, R146, R147, R177). -/

namespace Sys2Proof.Machine

/-! ## VIS_PARAMS -/

theorem exec_visParams {s : State} {m : Mb} {r : Req} (h : s.runs m 0x0501 true = some r) (hl : r.len = 20) (hz : field r.pay 3 1 = 0) (hz' : r.u16 0xE = 0) :
    exec (.visParams m) s = .next (((s.taken m).visParams r).1.respond m 0x0501 r.tag ((s.taken m).visParams r).2) :=
  congrArg Host.Outcome.next (State.mbRun_ok (lenIs 20 [(3, 1), (0xE, 2)]) State.visParams h
    (lenIs_ok hl (List.forall_mem_cons.2 ⟨hz, List.forall_mem_singleton.2 hz'⟩)))

/-- The values of a VIS_PARAMS lie in their ranges, or say that the setting is kept. -/
structure Req.VisionValues (r : Req) : Prop where
  mode : r.u8 2 ≤ 2
  score : r.u32 4 = 0x7FC00000 ∨ f32Finite (r.w32 4) = true
  iou : r.u32 8 = 0x7FC00000 ∨ f32In 0 fone (r.w32 8) = true
  maxOut : r.u16 0xC ≤ 1024
  fill : r.u32 0x10 ≤ 1000000 ∨ r.u32 0x10 = 0xFFFFFFFF

theorem Req.VisionValues.ok {r : Req} (h : r.VisionValues) : visParamsOk r = true := by
  obtain ⟨hmode, hscore, hiou, hmax, hfill⟩ := h
  simpa [visParamsOk, f32Keep, hmode, hscore, hmax, hfill] using hiou

theorem visParamsOk_outside {r : Req} (h : 2 < r.u8 2 ∨ 1024 < r.u16 0xC) : visParamsOk r = false := by
  rcases h with hmode | hmax
  · simp [visParamsOk, Nat.not_le.2 hmode]
  · simp [visParamsOk, Nat.not_le.2 hmax]

section
variable {s : State} {r : Req} {c : Ctx} (hc : s.ctxFor r 5 = some c)
include hc

theorem State.visParams_sets (hv : r.VisionValues) (hheld : s.held (2, r.u16 0) = false) :
    s.visParams r = (s.updCtx (r.u16 0) fun c => { c with vision := c.vision.setBy r }, okR []) := by
  simp [visParams, hc, hv.ok, hheld]

theorem State.visParams_outside (h : 2 < r.u8 2 ∨ 1024 < r.u16 0xC) : s.visParams r = (s, failR St.badArg) := by
  simp [visParams, hc, visParamsOk_outside h]

end

/-- Each setting takes the value given, or is kept. -/
theorem Vision.setBy_settings (v : Vision) (r : Req) :
    (v.setBy r).mode = (if r.u8 2 = 0 then v.mode else r.u8 2) ∧
    (v.setBy r).scoreThr = (if r.u32 4 = 0x7FC00000 then v.scoreThr else some (r.w32 4)) ∧
    (v.setBy r).iouThr = (if r.u32 8 = 0x7FC00000 then v.iouThr else some (r.w32 8)) ∧
    (v.setBy r).maxOut = (if r.u16 0xC = 0 then v.maxOut else r.u16 0xC) ∧
    (v.setBy r).fillUs = (if r.u32 0x10 = 0xFFFFFFFF then v.fillUs else r.u32 0x10) := by
  simp [setBy, f32Keep]

/-! ## VIS_COUNTERS -/

theorem exec_visCounters {s : State} {m : Mb} {r : Req} (h : s.runs m 0x0502 true = some r) (hl : r.len = 4) (hz : r.u16 2 = 0) :
    exec (.visCounters m) s = .next (((s.taken m).visCounters r).1.respond m 0x0502 r.tag ((s.taken m).visCounters r).2) :=
  congrArg Host.Outcome.next (State.mbRun_ok (lenIs 4 [(2, 2)]) State.visCounters h (lenIs_ok hl fun _ hp => List.mem_singleton.1 hp ▸ hz))

theorem State.visCounters_reports {s : State} {r : Req} {c : Ctx} (hc : s.ctxFor r 5 = some c) :
    s.visCounters r = (s, okR (leBytes 8 c.vision.images ++ leBytes 8 c.vision.boxes ++ leBytes 4 c.vision.candTruncated ++
      leBytes 4 c.vision.candInvalid ++ leBytes 4 c.vision.maxOutHits ++ leBytes 4 c.vision.partialBatches)) := by
  simp only [visCounters, hc]

theorem State.visCounters_foreign {s : State} {r : Req} (hc : s.ctxFor r 5 = none) : s.visCounters r = (s, failR St.badArg) := by
  simp only [visCounters, hc]

/-! ## The end of a host copy (R123, R146, R177) -/

/-- Copy `n` is gone; its bytes stand in host memory, or its failure is reported by AER. -/
def State.copyOver (s : State) (n : Nat) (h : HostCopy) (rd : HostRead) : State :=
  match rd with
  | .ok => ({ s with mem.copies := s.mem.copies.filter fun x => x.id != n } : State).hostWriteN h.hostAddr h.bytes
  | .err c => { s with mem.copies := s.mem.copies.filter fun x => x.id != n, host.aer := c :: s.host.aer }

@[simp] theorem State.syncSets_ctxs (s : State) : s.syncSets.ctxs = s.ctxs := rfl
@[simp] theorem State.syncSets_sec (s : State) : s.syncSets.sec = s.sec := rfl

@[simp] theorem State.copyOver_ctxs (s : State) (n : Nat) (h : HostCopy) (rd : HostRead) : (s.copyOver n h rd).ctxs = s.ctxs := by
  cases rd <;> rfl

@[simp] theorem State.copyOver_sec (s : State) (n : Nat) (h : HostCopy) (rd : HostRead) : (s.copyOver n h rd).sec = s.sec := by
  cases rd <;> rfl

theorem State.flushesDue_none {s : State} (h : ∀ c ∈ s.ctxs, c.2.codec.flushed = false) : s.flushesDue = s := by
  have hnone : (s.ctxs.filter fun (c : Nat × Ctx) => c.2.codec.flushed) = [] := List.filter_eq_nil_iff.2 fun c hc => by simp [h c hc]
  unfold flushesDue
  rw [hnone, List.foldl_nil]

section
variable {s : State} {n : Nat} {h : HostCopy} (hf : s.mem.copies.find? (fun x => x.id == n) = some h)
include hf

theorem exec_outHostCopyDone_waits (hw : s.therm.quench = true ∨ s.syncSets.intRuns (.copy n) = false) (rd : HostRead) :
    exec (.outHostCopyDone n rd) s = .next s := by
  show execOutHostCopyDone n rd s = _
  unfold execOutHostCopyDone
  rw [hf]
  dsimp only
  rcases hw with hq | hr
  · rw [if_pos hq]
  · rw [State.intDone_waits _ hr, ite_self]

variable (hq : s.therm.quench = false) (hr : s.syncSets.intRuns (.copy n) = true)
include hq hr

/-- The records of the copy are released on what it leaves, then what waited for it goes on, and its channel set is free. -/
theorem exec_outHostCopyDone (rd : HostRead) : exec (.outHostCopyDone n rd) s =
    .next ((h.recs.foldl (fun u x => u.releaseCopy h rd x) (s.syncSets.copyOver n h rd)).flushesDue.landDue).syncSets := by
  show execOutHostCopyDone n rd s = _
  unfold execOutHostCopyDone
  rw [hf]
  dsimp only
  rw [if_neg (by simp [hq]), State.intDone_runs _ hr]
  cases rd <;> rfl

/-- Nothing waits for a copy without records where no flush and no removal is under way. -/
theorem exec_outHostCopyDone_alone (hrecs : h.recs = []) (hflush : ∀ c ∈ s.ctxs, c.2.codec.flushed = false)
    (hquiet : ∀ r ∈ s.sec.tenants, r.2.state ≠ 2) (rd : HostRead) :
    exec (.outHostCopyDone n rd) s = .next (s.syncSets.copyOver n h rd).syncSets := by
  rw [exec_outHostCopyDone hf hq hr, hrecs, List.foldl_nil, State.flushesDue_none (by simpa using hflush), State.landDue_quiet _ (by simpa using hquiet)]

end

/-! ## The obligation -/

/-- Settles O35: each command by its body on the state whose request was taken, the copy by what its end leaves before its records
are released, and the record by whether the copy failed. -/
theorem visionCommandsAndCopiesAct : Obligations.VisionCommandsAndCopiesAct := by
  refine ⟨?params, ?counters, ?copies, fun x c late now => ⟨rfl, ?status, rfl⟩⟩
  case params =>
    intro s m r c h hl hz hz' hc
    rw [exec_visParams h hl hz hz']
    refine ⟨fun hmode hscore hiou hmax hfill hheld => ?_, fun hout => by rw [State.visParams_outside (s := s.taken m) hc hout]; rfl⟩
    rw [State.visParams_sets (s := s.taken m) hc ⟨hmode, hscore, hiou, hmax, hfill⟩ hheld]
    obtain ⟨hsmode, hsscore, hsiou, hsmax, hsfill⟩ := c.vision.setBy_settings r
    exact ⟨_, _, rfl, State.updCtx_some (s := s.taken m) (State.ctxFor_ctx hc) _, hsmode, hsscore, hsiou, hsmax, hsfill, rfl,
      fun k hk => State.updCtx_ctx_ne _ _ hk⟩
  case counters =>
    intro s m r h hl hz
    rw [exec_visCounters h hl hz]
    exact ⟨fun c hc => by rw [State.visCounters_reports (s := s.taken m) hc], fun hc => by rw [State.visCounters_foreign (s := s.taken m) hc]; rfl⟩
  case copies =>
    intro s n h hf hquiet
    refine ⟨exec_outHostCopyDone_waits hf, fun hq hr hflush => ⟨fun hrecs => ?written, fun c hrecs => ?failed⟩, fun hq hr x hrecs => ?released⟩
    case written => exact ⟨_, exec_outHostCopyDone_alone hf hq hr hrecs hflush hquiet .ok, rfl, rfl, rfl, rfl⟩
    case failed => exact ⟨_, exec_outHostCopyDone_alone hf hq hr hrecs hflush hquiet (.err c), rfl, rfl, rfl⟩
    case released =>
      refine ⟨s.syncSets.copyOver n h .ok, rfl, ?_⟩
      rw [exec_outHostCopyDone hf hq hr, hrecs, List.foldl_cons, List.foldl_nil]
  case status => simp [copyRec, St.ok, St.late]

end Sys2Proof.Machine
end

section
/-! SUPPORT. The other serving commands, SRV_SAMPLING, SRV_CANCEL and SRV_QUERY, and the speculation events (R158, R159, R164, R165). -/

namespace Sys2Proof.Machine

/-! ## SRV_SAMPLING (R159) -/

theorem exec_srvSampling {s : State} {m : Mb} {r : Req} (h : s.runs m 0x0702 true = some r) (hl : r.len = 64) (hz : field r.pay 0x1B 5 = 0) :
    exec (.srvSampling m) s = .next (((s.taken m).srvSampling r).1.respond m 0x0702 r.tag ((s.taken m).srvSampling r).2) :=
  congrArg Host.Outcome.next (State.mbRun_ok (lenIs 64 [(0x1B, 5)]) State.srvSampling h (lenIs_ok hl (List.forall_mem_singleton.2 hz)))

theorem samplingOk_outside {r : Req} (h : 1024 < r.u16 2 ∨ 4096 < r.u16 0x18 ∨ 8 < r.u8 0x1A) : samplingOk r = false := by
  rcases h with htopK | hwindow | hstop
  · simp [samplingOk, Nat.not_le.2 htopK]
  · simp [samplingOk, Nat.not_le.2 hwindow]
  · simp [samplingOk, Nat.not_le.2 hstop]

section
variable {s : State} {r : Req} {c : Ctx} (hc : s.ctxFor r 7 = some c)
include hc

theorem State.srvSampling_sets (hok : samplingOk r = true) (hheld : s.held (2, r.u16 0) = false) :
    s.srvSampling r = (s.updSession (r.u16 0) fun x => { x with sampling := samplingOf r }, okR []) := by
  simp [srvSampling, hc, hok, hheld]

theorem State.srvSampling_outside (h : samplingOk r = false) : s.srvSampling r = (s, failR St.badArg) := by
  simp [srvSampling, hc, h]

end

/-! ## SRV_CANCEL (R158) -/

/-- The requests that an SRV_CANCEL names: every one of the session, or those of its SEQ. -/
def Req.cancels (r : Req) (i : Item) : Bool := r.u8 2 == 1 || i.seq == r.u32 4

/-- A request after an SRV_CANCEL. -/
def Req.marks (r : Req) (i : Item) : Item := if r.cancels i then { i with cancelled := true } else i

/-- A context with each of its requests changed. -/
def Ctx.mapRequests (c : Ctx) (f : Item → Item) : Ctx :=
  { c with queue := c.queue.map f, session.req := c.session.req.map fun q => { q with item := f q.item } }

@[simp] theorem Ctx.mapRequests_requests (c : Ctx) (f : Item → Item) : (c.mapRequests f).requests = c.requests.map f := by
  simp [mapRequests, requests, Option.toList_map]

@[simp] theorem Req.marks_seq (r : Req) (i : Item) : (r.marks i).seq = i.seq := by
  unfold marks
  split <;> rfl

@[simp] theorem Req.cancels_marks (r : Req) (i : Item) : r.cancels (r.marks i) = r.cancels i := by simp [cancels]

theorem Req.marks_cancelled {r : Req} {i : Item} (h : r.cancels i = true) : (r.marks i).cancelled = true := by
  rw [marks, if_pos h]

theorem Req.cancels_all {r : Req} (h : r.u8 2 = 1) (i : Item) : r.cancels i = true := by simp [cancels, h]

theorem Req.cancels_iff_seq {r : Req} (h : r.u8 2 = 0) (i : Item) : r.cancels i = true ↔ i.seq = r.u32 4 := by simp [cancels, h]

theorem Ctx.marked_seqs (c : Ctx) (r : Req) : (c.mapRequests r.marks).requests.map Item.seq = c.requests.map Item.seq := by simp

/-- After an SRV_CANCEL every request that it names is marked as cancelled. -/
theorem Ctx.marked_cancelled (c : Ctx) (r : Req) : ∀ i ∈ (c.mapRequests r.marks).requests, r.cancels i = true → i.cancelled = true := by
  simp only [mapRequests_requests, List.forall_mem_map, Req.cancels_marks]
  exact fun _ _ => Req.marks_cancelled

theorem exec_srvCancel {s : State} {m : Mb} {r : Req} (h : s.runs m 0x0704 true = some r) (hl : r.len = 8) (hz : field r.pay 3 1 = 0) :
    exec (.srvCancel m) s = .next (((s.taken m).srvCancel r).1.respond m 0x0704 r.tag ((s.taken m).srvCancel r).2) :=
  congrArg Host.Outcome.next (State.mbRun_ok (lenIs 8 [(3, 1)]) State.srvCancel h (lenIs_ok hl (List.forall_mem_singleton.2 hz)))

section
variable {s : State} {r : Req} {c : Ctx} (hc : s.ctxFor r 7 = some c)
include hc

/-- An SRV_CANCEL of all requests, or of one SEQ that some request has. -/
theorem State.srvCancel_marks (hheld : s.held (2, r.u16 0) = false) (hmode : r.u8 2 = 1 ∨ r.u8 2 = 0 ∧ 0 < (c.requests.filter r.cancels).length) :
    s.srvCancel r = (s.updCtx (r.u16 0) (·.mapRequests r.marks), okR (leBytes 2 (c.requests.filter r.cancels).length ++ [0, 0])) := by
  have hargs : (decide (1 < r.u8 2) || (r.u8 2 == 0 && (c.requests.filter r.cancels).length == 0)) = false := by
    rcases hmode with h1 | ⟨h0, hn⟩
    · simp [h1]
    · simp [h0, Nat.ne_of_gt hn]
  unfold srvCancel
  simp only [hc, hheld]
  exact if_neg (Bool.eq_false_iff.1 hargs)

theorem State.srvCancel_none (h0 : r.u8 2 = 0) (hn : ∀ i ∈ c.requests, r.cancels i = false) : s.srvCancel r = (s, failR St.badArg) := by
  have hargs : (decide (1 < r.u8 2) || (r.u8 2 == 0 && (c.requests.filter r.cancels).length == 0)) = true := by
    simp [h0, List.filter_eq_nil_iff.2 fun i hi => Bool.eq_false_iff.1 (hn i hi)]
  unfold srvCancel
  simp only [hc]
  exact if_pos hargs

end

/-! ## SRV_QUERY (R165) -/

theorem exec_srvQuery {s : State} {m : Mb} {r : Req} (h : s.runs m 0x0705 true = some r) (hl : r.len = 4) (hz : r.u16 2 = 0) :
    exec (.srvQuery m) s = .next (((s.taken m).srvQuery r).1.respond m 0x0705 r.tag ((s.taken m).srvQuery r).2) :=
  congrArg Host.Outcome.next (State.mbRun_ok (lenIs 4 [(2, 2)]) State.srvQuery h (lenIs_ok hl (List.forall_mem_singleton.2 hz)))

/-- The session's report, with the pages in use as the one value that its context's serving record gives. -/
theorem State.srvQuery_reports {s : State} {r : Req} {c : Ctx} (hc : s.ctxFor r 7 = some c) : ∃ u,
    s.srvQuery r = (s, okR (leBytes 1 c.session.state ++ leBytes 1 c.session.specMode ++ leBytes 1 c.session.draftNow ++ [0] ++
      leBytes 2 c.session.suspendLeft ++ [0, 0] ++ leBytes 4 c.session.length ++ leBytes 4 c.session.pages.length ++ leBytes 4 u ++ leBytes 4 c.session.cancelled ++
      leBytes 8 c.session.steps ++ leBytes 8 c.session.tokensOut ++ leBytes 8 c.session.drafted ++ leBytes 8 c.session.accepted ++ leBytes 4 c.session.suspensions ++
      leBytes 4 c.session.timeoutPauses)) := by
  simp only [srvQuery, hc]
  exact ⟨_, rfl⟩

/-! ## Speculation events (R164) -/

theorem exec_specSuspend {s : State} (h : s.up = true) (n : Nat) : exec (.specSuspend n) s = .next (s.updSession n Session.suspend) :=
  congrArg Host.Outcome.next (if_pos h)

theorem exec_specResume {s : State} (h : s.up = true) (n : Nat) : exec (.specResume n) s = .next (s.updSession n Session.resume) :=
  congrArg Host.Outcome.next (if_pos h)

theorem Session.suspendDue_iff (x : Session) : x.suspendDue = true ↔
    x.specMode = 1 ∧ x.suspended = false ∧ 32 ≤ x.window.length ∧ 100 * x.taken < 15 * x.proposed := by
  simp [suspendDue, and_assoc]

theorem Session.resumeDue_iff (x : Session) : x.resumeDue = true ↔ x.suspended = true ∧ x.suspendLeft = 0 := by simp [resumeDue]

theorem Session.suspend_due {x : Session} (h : x.suspendDue = true) :
    x.suspend = { x with suspended := true, suspendLeft := 256, window := [], suspensions := sat32 x.suspensions 1 } := if_pos h

theorem Session.resume_due {x : Session} (h : x.resumeDue = true) :
    x.resume = { x with suspended := false, k := max 1 (x.k / 2), window := [] } := if_pos h

/-- Auto speculation drafts nothing while it is suspended, else its draft length. -/
theorem Session.draftNow_auto {x : Session} (h : x.specMode = 1) : x.draftNow = if x.suspended then 0 else x.k := by simp [draftNow, h]

/-! ## The obligation -/

/-- Settles O38: each command by its body on the state whose request was taken, SRV_CANCEL by what it marks, and each speculation event by
the condition under which it falls due. -/
theorem servingCommandsAct : Obligations.ServingCommandsAct := by
  refine ⟨fun s m r c hc hheld => ⟨?sampling, ?cancel⟩, ?query, fun s n c hup hc => ⟨?suspend, ?resume⟩⟩
  case sampling =>
    intro h hlen hz
    rw [exec_srvSampling h hlen hz]
    refine ⟨fun hok => ?_, fun hout => by rw [State.srvSampling_outside (s := s.taken m) hc (samplingOk_outside hout)]; rfl⟩
    rw [State.srvSampling_sets (s := s.taken m) hc hok hheld]
    exact ⟨_, _, rfl, State.updSession_ctx (s := s.taken m) (State.ctxFor_ctx hc) _, rfl, rfl, rfl, rfl, fun k hk => State.updSession_ctx_ne _ _ hk⟩
  case cancel =>
    intro h hlen hz
    have hmarked : ((s.taken m).updCtx (r.u16 0) (·.mapRequests r.marks)).ctx? (r.u16 0) = some (c.mapRequests r.marks) :=
      State.updCtx_some (s := s.taken m) (State.ctxFor_ctx hc) _
    rw [exec_srvCancel h hlen hz]
    refine ⟨fun h1 => ?all, fun h0 hsome => ?named, fun h0 hnone => ?unnamed⟩
    case all =>
      have hall : c.requests.filter r.cancels = c.requests := List.filter_eq_self.2 fun i _ => Req.cancels_all h1 i
      rw [State.srvCancel_marks (s := s.taken m) hc hheld (.inl h1), hall]
      exact ⟨_, _, rfl, hmarked, fun i hi => c.marked_cancelled r i hi (Req.cancels_all h1 i), c.marked_seqs r, fun k hk => State.updCtx_ctx_ne _ _ hk⟩
    case named =>
      obtain ⟨i, hi, hseq⟩ := hsome
      have hn : 0 < (c.requests.filter r.cancels).length :=
        List.length_pos_of_mem (List.mem_filter.2 ⟨hi, (Req.cancels_iff_seq h0 i).2 hseq⟩)
      rw [State.srvCancel_marks (s := s.taken m) hc hheld (.inr ⟨h0, hn⟩)]
      exact ⟨_, _, _, hn, rfl, hmarked, fun j hj hjseq => c.marked_cancelled r j hj ((Req.cancels_iff_seq h0 j).2 hjseq), c.marked_seqs r⟩
    case unnamed =>
      have hn : ∀ i ∈ c.requests, r.cancels i = false := fun i hi => Bool.eq_false_iff.2 fun hcan => hnone i hi ((Req.cancels_iff_seq h0 i).1 hcan)
      rw [State.srvCancel_none (s := s.taken m) hc h0 hn]
      rfl
  case query =>
    intro s m r c hc h hlen hz
    obtain ⟨u, hu⟩ := State.srvQuery_reports (s := s.taken m) hc
    exact ⟨u, by rw [exec_srvQuery h hlen hz, hu]⟩
  case suspend =>
    intro hauto hruns hwindow hrate
    have hdue : c.session.suspendDue = true := c.session.suspendDue_iff.2 ⟨hauto, hruns, hwindow, hrate⟩
    refine ⟨_, _, exec_specSuspend hup n, State.updSession_ctx hc _, ?_⟩
    rw [Session.suspend_due hdue]
    exact ⟨rfl, rfl, rfl, rfl, Session.draftNow_auto hauto, rfl, fun k hk => State.updSession_ctx_ne _ _ hk⟩
  case resume =>
    intro hsus hleft
    have hdue : c.session.resumeDue = true := c.session.resumeDue_iff.2 ⟨hsus, hleft⟩
    refine ⟨_, _, exec_specResume hup n, State.updSession_ctx hc _, ?_⟩
    rw [Session.resume_due hdue]
    exact ⟨rfl, rfl, rfl, fun hauto => Session.draftNow_auto hauto, fun k hk => State.updSession_ctx_ne _ _ hk⟩

end Sys2Proof.Machine
end

section
/-! SUPPORT. Opening a codec context (R167, R174, R177, R183): the reservation of its ring and picture pool, the two open commands and
the end of the mapping. -/

namespace Sys2Proof.Machine

/-! ## Values in range (R183) -/

theorem decodeOpenOk_outside (s : State) {r : Req} (t : Nat) (h : r.u8 3 = 0 ∨ 8 < r.u8 3 ∨ 2 < r.u8 2) : decodeOpenOk s r t = false := by
  rcases h with hnone | hmany | hcodec
  · simp [decodeOpenOk, btw, hnone]
  · simp [decodeOpenOk, btw, Nat.not_le.2 hmany]
  · simp [decodeOpenOk, Nat.not_le.2 hcodec]

theorem encodeOpenOk_outside {r : Req} (h : 1 < r.u8 2 ∨ 2 < r.u8 3 ∨ r.u32 0xC < 10) : encodeOpenOk r = false := by
  rcases h with hcodec | hmode | hrate
  · simp [encodeOpenOk, Nat.not_le.2 hcodec]
  · simp [encodeOpenOk, Nat.not_le.2 hmode]
  · simp [encodeOpenOk, btw, Nat.not_le.2 hrate]

@[simp] theorem decodeOpenOk_taken (s : State) (m : Mb) (r : Req) (t : Nat) : decodeOpenOk (s.taken m) r t = decodeOpenOk s r t := by
  simp [decodeOpenOk]

/-! ## The reservation (R174) -/

@[simp] theorem State.taken_quotaLeft (s : State) (m : Mb) (t : Nat) : (s.taken m).quotaLeft t = s.quotaLeft t := rfl

/-- The tenant's quota is charged, and the context holds the record of an opened codec. -/
def State.withCodec (s : State) (t n bytes : Nat) (x : Codec) : State := (s.useQuota t bytes).updCtx n fun c => { c with codec := x }

@[simp] theorem State.withCodec_mason (s : State) (t n bytes : Nat) (x : Codec) : (s.withCodec t n bytes x).mason = s.mason :=
  (State.updCtx_mason ..).trans (State.updTenant_mason ..)

theorem State.useQuota_ctx (s : State) (t bytes n : Nat) : (s.useQuota t bytes).ctx? n = s.ctx? n :=
  congrArg (Tbl.find? · n) (State.updTenant_ctxs ..)

theorem State.withCodec_ctx {s : State} {n : Nat} {c : Ctx} (h : s.ctx? n = some c) (t bytes : Nat) (x : Codec) :
    (s.withCodec t n bytes x).ctx? n = some { c with codec := x } := State.updCtx_some ((State.useQuota_ctx ..).trans h) _

theorem State.withCodec_ctx_ne (s : State) {n k : Nat} (t bytes : Nat) (x : Codec) (h : k ≠ n) : (s.withCodec t n bytes x).ctx? k = s.ctx? k :=
  (State.updCtx_ctx_ne _ _ h).trans (State.useQuota_ctx ..)

/-- What an open command answers of its pool: the number of its pictures and their bytes. -/
def poolPayload (pics bytes : Nat) : List Byte := leBytes 2 pics ++ [0, 0] ++ leBytes 8 bytes

section
variable {s : State} {q : Req} {c : Ctx} {pics each ring st : Nat} {mk : Nat → Nat → Codec} {pages : Nat} (hheld : s.held (2, q.u16 0) = false)
  (hn : pages = ring + pagesOf (pics * each))
include hheld hn

theorem State.openVideo_spent (hquota : s.quotaLeft c.tenant < pages * 2 ^ 21) : s.openVideo q c pics each ring st mk = (s, failR St.noResource) := by
  simp only [openVideo, ← hn, hheld, hquota, Bool.false_eq_true, if_false, if_true]

variable {pg : Nat} {s1 : State} (hquota : pages * 2 ^ 21 ≤ s.quotaLeft c.tenant) (hpages : s.allocPages c.tenant pages (fun _ => none) = some (pg, s1))
include hquota hpages

theorem State.openVideo_again (hst : c.codec.state ≠ 0) : s.openVideo q c pics each ring st mk = (s, failR St.refused 1) := by
  simp only [openVideo, ← hn, hheld, Nat.not_lt.2 hquota, hpages, bne_iff_ne.2 hst, Bool.false_eq_true, if_false, if_true]

/-- A context that needs no page is open at once. -/
theorem State.openVideo_opens (hst : c.codec.state = 0) (h0 : pages = 0) : s.openVideo q c pics each ring st mk =
    ((s1.withCodec c.tenant (q.u16 0) (pages * 2 ^ 21) (mk (pg * 2 ^ 21) pages)).updCtx (q.u16 0) fun c => { c with codec.state := st },
      okR (poolPayload pics (pics * each))) := by
  simp only [openVideo, ← hn, hheld, Nat.not_lt.2 hquota, hpages, hst, beq_iff_eq.2 h0, bne_self_eq_false, Bool.false_eq_true, if_false, if_true]
  rfl

/-- A context that needs pages is open once their zeros are written; the command waits for that (R110). -/
theorem State.openVideo_accepted (hst : c.codec.state = 0) (h0 : pages ≠ 0) (hop : s.mason.lastOp + 1 < 2 ^ 32) :
    s.openVideo q c pics each ring st mk =
    ({ s1.withCodec c.tenant (q.u16 0) (pages * 2 ^ 21) (mk (pg * 2 ^ 21) pages) with
        mason := { s.mason with
          lastOp := s.mason.lastOp + 1
          ops := s.mason.ops ++ [⟨s.mason.lastOp + 1, q.mb, q.code, q.tag, .mapFrames (q.u16 0)⟩] } },
      { status := St.accepted, arg := s.mason.lastOp + 1, payload := poolPayload pics (pics * each) }) := by
  have hmason : (s1.withCodec c.tenant (q.u16 0) (pages * 2 ^ 21) (mk (pg * 2 ^ 21) pages)).mason = s.mason :=
    (State.withCodec_mason ..).trans (State.allocPages_keeps State.mason (fun _ _ => rfl) hpages)
  have haccept := State.accept_next (s := s1.withCodec c.tenant (q.u16 0) (pages * 2 ^ 21) (mk (pg * 2 ^ 21) pages)) (by rw [hmason]; exact hop)
    q (.mapFrames (q.u16 0))
  rw [hmason] at haccept
  unfold withCodec at haccept
  simp only [openVideo, ← hn, hheld, Nat.not_lt.2 hquota, hpages, hst, beq_eq_false_iff_ne.2 h0, haccept, bne_self_eq_false, Bool.false_eq_true, if_false]
  rfl

end

/-! ## VID_DECODE_OPEN and VID_ENCODE_OPEN -/

theorem exec_vidDecodeOpen {s : State} {m : Mb} {r : Req} (h : s.runs m 0x0601 true = some r) (hl : r.len = 16) (hz : r.u16 0xE = 0) :
    exec (.vidDecodeOpen m) s = .next (((s.taken m).vidDecodeOpen r).1.respond m 0x0601 r.tag ((s.taken m).vidDecodeOpen r).2) :=
  congrArg Host.Outcome.next (State.mbRun_ok (lenIs 16 [(0xE, 2)]) State.vidDecodeOpen h (lenIs_ok hl (List.forall_mem_singleton.2 hz)))

theorem exec_vidEncodeOpen {s : State} {m : Mb} {r : Req} (h : s.runs m 0x0602 true = some r) (hl : r.len = 36) (hz : field r.pay 0x1F 1 = 0) :
    exec (.vidEncodeOpen m) s = .next (((s.taken m).vidEncodeOpen r).1.respond m 0x0602 r.tag ((s.taken m).vidEncodeOpen r).2) :=
  congrArg Host.Outcome.next (State.mbRun_ok (lenIs 36 [(0x1F, 1)]) State.vidEncodeOpen h (lenIs_ok hl (List.forall_mem_singleton.2 hz)))

section
variable {s : State} {r : Req} {c : Ctx} (hc : s.ctxFor r 6 = some c)
include hc

theorem State.vidDecodeOpen_outside (h : decodeOpenOk s r c.tenant = false) : s.vidDecodeOpen r = (s, failR St.badArg) := by
  simp [vidDecodeOpen, hc, h]

theorem State.vidDecodeOpen_reserves (h : decodeOpenOk s r c.tenant = true) :
    s.vidDecodeOpen r = s.openVideo r c (17 + r.u8 9) (picBytes (r.u16 4) (r.u16 6) (r.u8 8)) 2 1 (decodeCodec r) := by
  simp [vidDecodeOpen, hc, h]

theorem State.vidEncodeOpen_outside (h : encodeOpenOk r = false) : s.vidEncodeOpen r = (s, failR St.badArg) := by
  simp [vidEncodeOpen, hc, h]

theorem State.vidEncodeOpen_reserves (h : encodeOpenOk r = true) :
    s.vidEncodeOpen r = s.openVideo r c (encPoolPics (r.u8 0x1E) (r.u8 0x1B)) (picBytes (r.u16 4) (r.u16 6) 8) 0 2 (encodeCodec r) := by
  simp [vidEncodeOpen, hc, h]

end

/-! ## The end of the mapping (R110) -/

theorem exec_frameMappingDone_video {s : State} {op n : Nat} {o : PendingOp} (ho : s.op? op = some o) (hk : o.kind = .mapFrames n)
    (hcode : o.code = 0x0601 ∨ o.code = 0x0602) (hup : s.up = true) : exec (.frameMappingDone op) s =
      .next ((s.updCtx n fun c => { c with codec.state := if o.code = 0x0601 then 1 else 2 }).finishOp op St.ok) := by
  obtain ⟨id, mb, code, tag, kind⟩ := o
  subst hk
  show execFrameMappingDone op s = _
  simp only [execFrameMappingDone, ho, hup]
  rcases hcode with hdec | henc
  · subst hdec
    rfl
  · subst henc
    rfl

/-! ## The obligation -/

/-- Settles O39: each open command by its checks and then by what the reservation gives, and the mapping's end by the command it ends. -/
theorem codecContextsOpen : Obligations.CodecContextsOpen := by
  refine ⟨fun s m r c hc hheld => ⟨?decode, ?encode⟩, ?mapped⟩
  case decode =>
    intro h hlen hz
    rw [exec_vidDecodeOpen h hlen hz]
    refine ⟨fun hout => by rw [State.vidDecodeOpen_outside (s := s.taken m) hc (decodeOpenOk_outside _ _ hout)]; rfl, fun b hok hb => ?_⟩
    rw [← decodeOpenOk_taken s m] at hok
    rw [← s.taken_quotaLeft m]
    have hreserve := State.vidDecodeOpen_reserves (s := s.taken m) hc hok
    have hn : 2 + pagesOf b = 2 + pagesOf ((17 + r.u8 9) * picBytes (r.u16 4) (r.u16 6) (r.u8 8)) := by rw [hb]
    rw [hreserve]
    refine ⟨fun hquota => by rw [State.openVideo_spent (s := s.taken m) hheld hn hquota]; rfl, fun pg s1 hquota hpages => ⟨fun hst => ?_, fun hst hop => ?_⟩⟩
    · rw [State.openVideo_again (s := s.taken m) hheld hn hquota hpages hst]
      rfl
    · have hctxs : s1.ctxs = s.ctxs := State.allocPages_keeps (s := s.taken m) State.ctxs (fun _ _ => rfl) hpages
      have hctx1 : s1.ctx? (r.u16 0) = some c := (congrArg (Tbl.find? · (r.u16 0)) hctxs).trans (State.ctxFor_ctx hc)
      rw [State.openVideo_accepted (s := s.taken m) hheld hn hquota hpages hst (by omega) hop, ← hb]
      refine ⟨_, ?c', ?own, fun k hk => ?others, rfl, ?fields⟩
      case own => exact State.withCodec_ctx hctx1 ..
      case others => exact (State.withCodec_ctx_ne _ _ _ _ hk).trans (congrArg (Tbl.find? · k) hctxs)
      case fields => exact ⟨rfl, rfl, rfl, rfl, rfl, rfl, rfl, rfl, rfl, rfl, rfl, rfl⟩
  case encode =>
    intro h hlen hz
    rw [exec_vidEncodeOpen h hlen hz]
    refine ⟨fun hout => by rw [State.vidEncodeOpen_outside (s := s.taken m) hc (encodeOpenOk_outside hout)]; rfl,
      fun n b pg s1 hok hpics hb hquota hpages hst hop => ?_⟩
    rw [← s.taken_quotaLeft m] at hquota
    have hreserve := State.vidEncodeOpen_reserves (s := s.taken m) hc hok
    have hn : pagesOf b = 0 + pagesOf (encPoolPics (r.u8 0x1E) (r.u8 0x1B) * picBytes (r.u16 4) (r.u16 6) 8) := by rw [hb, hpics, Nat.zero_add]
    have hctxs : s1.ctxs = s.ctxs := State.allocPages_keeps (s := s.taken m) State.ctxs (fun _ _ => rfl) hpages
    have hctx1 : s1.ctx? (r.u16 0) = some c := (congrArg (Tbl.find? · (r.u16 0)) hctxs).trans (State.ctxFor_ctx hc)
    rw [hreserve]
    by_cases h0 : pagesOf b = 0
    · rw [State.openVideo_opens (s := s.taken m) hheld hn hquota hpages hst h0, ← hpics, ← hb]
      exact ⟨_, _, 0, 0, rfl, (if_pos h0).symm, State.updCtx_some (State.withCodec_ctx hctx1 ..) _, (if_pos h0).symm, rfl, rfl, rfl, rfl, rfl, rfl⟩
    · rw [State.openVideo_accepted (s := s.taken m) hheld hn hquota hpages hst h0 hop, ← hpics, ← hb]
      exact ⟨_, _, 1, _, rfl, (if_neg h0).symm, State.withCodec_ctx hctx1 .., (if_neg h0).symm, rfl, rfl, rfl, rfl, rfl, rfl⟩
  case mapped =>
    intro s op n o c ho hk hcode hup hc
    exact ⟨_, _, exec_frameMappingDone_video ho hk hcode hup, State.updCtx_some hc _, rfl, rfl⟩

end Sys2Proof.Machine
end

section
/-! SUPPORT. The commands of an open codec context and the report of the cores (R177, R181, R183). -/

namespace Sys2Proof.Machine

/-! ## VID_FACING, VID_FORCE_IDR and VID_FLUSH -/

theorem exec_vidFacing {s : State} {m : Mb} {r : Req} (h : s.runs m 0x0603 true = some r) (hl : r.len = 44) :
    exec (.vidFacing m) s = .next (((s.taken m).vidFacing r).1.respond m 0x0603 r.tag ((s.taken m).vidFacing r).2) :=
  congrArg Host.Outcome.next (State.mbRun_ok (lenIs 44 []) State.vidFacing h (lenIs_ok hl fun _ hp => absurd hp List.not_mem_nil))

theorem exec_vidForceIdr {s : State} {m : Mb} {r : Req} (h : s.runs m 0x0604 true = some r) (hl : r.len = 4) (hz : r.u16 2 = 0) :
    exec (.vidForceIdr m) s = .next (((s.taken m).vidForceIdr r).1.respond m 0x0604 r.tag ((s.taken m).vidForceIdr r).2) :=
  congrArg Host.Outcome.next (State.mbRun_ok (lenIs 4 [(2, 2)]) State.vidForceIdr h (lenIs_ok hl (List.forall_mem_singleton.2 hz)))

theorem exec_vidFlush {s : State} {m : Mb} {r : Req} (h : s.runs m 0x0605 true = some r) (hl : r.len = 4) (hz : r.u16 2 = 0) :
    exec (.vidFlush m) s = .next (((s.taken m).vidFlush r).1.respond m 0x0605 r.tag ((s.taken m).vidFlush r).2) :=
  congrArg Host.Outcome.next (State.mbRun_ok (lenIs 4 [(2, 2)]) State.vidFlush h (lenIs_ok hl (List.forall_mem_singleton.2 hz)))

section
variable {s : State} {r : Req} {c : Ctx} (hc : s.ctxFor r 6 = some c)
include hc

theorem State.vidFacing_wrongWay (h : c.codec.state ≠ 1) : s.vidFacing r = (s, failR St.badArg) := by
  simp [vidFacing, hc, h]

theorem State.vidForceIdr_wrongWay (h : c.codec.state ≠ 2) : s.vidForceIdr r = (s, failR St.badArg) := by
  simp [vidForceIdr, hc, h]

variable (hheld : s.held (2, r.u16 0) = false)
include hheld

theorem State.vidFacing_sets (h : c.codec.state = 1) (hok : facingOk r = true) :
    s.vidFacing r = (s.updCtx (r.u16 0) fun c => { c with codec.facing := some (facingOf r) }, okR []) := by
  simp [vidFacing, hc, hheld, h, hok]

theorem State.vidForceIdr_asks (h : c.codec.state = 2) :
    s.vidForceIdr r = (s.updCtx (r.u16 0) fun c => { c with codec.forceIdr := true }, okR []) := by
  simp [vidForceIdr, hc, hheld, h]

/-- A flush is accepted, and stands behind the units admitted by now. -/
theorem State.vidFlush_accepted (h : c.codec.state ≠ 0) :
    s.vidFlush r = (s.updCtx (r.u16 0) fun c => { c with codec.flushAt := some s.nextOrder }).accept r (.vidFlush (r.u16 0)) := by
  simp [vidFlush, hc, hheld, h]

end

/-! ## VID_QUERY and VID_CORES -/

theorem exec_vidQuery {s : State} {m : Mb} {r : Req} (h : s.runs m 0x0606 true = some r) (hl : r.len = 4) (hz : r.u16 2 = 0) :
    exec (.vidQuery m) s = .next (((s.taken m).vidQuery r).1.respond m 0x0606 r.tag ((s.taken m).vidQuery r).2) :=
  congrArg Host.Outcome.next (State.mbRun_ok (lenIs 4 [(2, 2)]) State.vidQuery h (lenIs_ok hl (List.forall_mem_singleton.2 hz)))

theorem State.vidQuery_reports {s : State} {r : Req} {c : Ctx} (hc : s.ctxFor r 6 = some c) : s.vidQuery r = (s, okR (leBytes 1 c.codec.state ++
    leBytes 1 c.codec.codec ++ leBytes 1 c.codec.maxCores ++ [0] ++ leBytes 2 c.codec.maxW ++ leBytes 2 c.codec.maxH ++ leBytes 8 c.codec.units ++
    leBytes 8 c.codec.pictures ++ leBytes 4 c.codec.concealedN ++ leBytes 4 c.codec.dropped ++ leBytes 4 c.codec.streamErrors ++
    leBytes 4 c.codec.oversize ++ leBytes 4 c.codec.hrdViol ++ leBytes 4 0 ++ leBytes 8 c.codec.coreNs)) := by
  simp only [vidQuery, hc]

/-- The 8 bytes of a core in VID_CORES. -/
def State.coreEntry (s : State) (k : Nat) : List Byte :=
  leBytes 1 (s.coreState k) ++ leBytes 1 0 ++ leBytes 2 (match (s.core k).busy with | some (n, _) => n | none => 0) ++ leBytes 4 (s.core k).switches

theorem State.coreEntry_length (s : State) (k : Nat) : (s.coreEntry k).length = 8 := by simp [coreEntry]

theorem State.coreEntry_state (s : State) (k : Nat) : slice (s.coreEntry k) 0 1 = leBytes 1 (s.coreState k) := rfl

theorem State.coreEntry_switches (s : State) (k : Nat) : slice (s.coreEntry k) 4 4 = leBytes 4 (s.core k).switches := rfl

/-- The report of the cores: an entry each, then the time they were busy. -/
def State.coresReport (s : State) : List Byte := ((List.range 16).map s.coreEntry).flatten ++ leBytes 8 s.trowel.busyNs

theorem State.vidCores_reports (s : State) (r : Req) : s.vidCores r = (s, okR s.coresReport) := rfl

theorem exec_vidCores {s : State} {m : Mb} {r : Req} (h : s.runs m 0x0607 false = some r) (hl : r.len = 0) :
    exec (.vidCores m) s = .next ((s.taken m).respond m 0x0607 r.tag (okR s.coresReport)) :=
  congrArg Host.Outcome.next (State.mbRun_report h hl ((s.taken m).vidCores_reports r))

theorem State.coreEntries_length (s : State) : ((List.range 16).map s.coreEntry).flatten.length = 128 := by
  simp [List.length_flatten, List.map_map, Function.comp_def, s.coreEntry_length]

theorem State.coresReport_length (s : State) : s.coresReport.length = 136 := by
  rw [coresReport, List.length_append, s.coreEntries_length, leBytes_length]

theorem State.coresReport_busy (s : State) : slice s.coresReport 128 8 = leBytes 8 s.trowel.busyNs := by
  have hbusy := slice_append_mid ((List.range 16).map s.coreEntry).flatten (leBytes 8 s.trowel.busyNs) [] (o := 0) (n := 8) (by simp)
  rwa [s.coreEntries_length, List.append_nil] at hbusy

theorem State.coresReport_entry (s : State) {k o n : Nat} (hk : k < 16) (h : o + n ≤ 8) :
    slice s.coresReport (8 * k + o) n = slice (s.coreEntry k) o n := by
  have hentries := slice_append_mid [] ((List.range 16).map s.coreEntry).flatten (leBytes 8 s.trowel.busyNs) (o := 8 * k + o) (n := n)
    (by rw [s.coreEntries_length]; omega)
  rw [List.nil_append, List.length_nil, Nat.zero_add] at hentries
  rw [coresReport, hentries, slice_flatten_blocks s.coreEntry_length hk h]

/-! ## The obligation -/

/-- Settles O40: each command by its body on the state whose request was taken, and the cores' report by its blocks. -/
theorem videoCommandsAct : Obligations.VideoCommandsAct := by
  refine ⟨fun s m r c hc hheld => ⟨?facing, ?idr, ?flush⟩, ?query, ?cores⟩
  case facing =>
    intro h hlen
    rw [exec_vidFacing h hlen]
    refine ⟨fun hst => by rw [State.vidFacing_wrongWay (s := s.taken m) hc hst]; rfl, fun hst hok => ?_⟩
    rw [State.vidFacing_sets (s := s.taken m) hc hheld hst hok]
    exact ⟨_, _, facingOf r, rfl, State.updCtx_some (s := s.taken m) (State.ctxFor_ctx hc) _, rfl, rfl, rfl, rfl, rfl, rfl, rfl, rfl, rfl, rfl, rfl,
      rfl, rfl, rfl, fun k hk => State.updCtx_ctx_ne _ _ hk⟩
  case idr =>
    intro h hlen hz
    rw [exec_vidForceIdr h hlen hz]
    exact ⟨fun hst => by rw [State.vidForceIdr_wrongWay (s := s.taken m) hc hst]; rfl,
      fun hst => by rw [State.vidForceIdr_asks (s := s.taken m) hc hheld hst]⟩
  case flush =>
    intro h hlen hz hst hop
    have hmason : ((s.taken m).updCtx (r.u16 0) fun c => { c with codec.flushAt := some s.nextOrder }).mason = (s.taken m).mason := State.updCtx_mason ..
    have hop' : ((s.taken m).updCtx (r.u16 0) fun c => { c with codec.flushAt := some s.nextOrder }).mason.lastOp + 1 < 2 ^ 32 := by
      rw [hmason]
      exact hop
    rw [exec_vidFlush h hlen hz, State.vidFlush_accepted (s := s.taken m) hc hheld hst, State.taken_nextOrder, State.accept_next hop', hmason]
    exact ⟨_, _, rfl, State.updCtx_some (s := s.taken m) (State.ctxFor_ctx hc) _, rfl, rfl, rfl⟩
  case query =>
    intro s m r c hc h hlen hz
    rw [exec_vidQuery h hlen hz, State.vidQuery_reports (s := s.taken m) hc]
  case cores =>
    intro s m r h hlen
    exact ⟨_, exec_vidCores h hlen, s.coresReport_length, s.coresReport_busy, fun k hk =>
      ⟨(s.coresReport_entry hk (by omega)).trans (s.coreEntry_state k), (s.coresReport_entry hk (by omega)).trans (s.coreEntry_switches k)⟩⟩

end Sys2Proof.Machine
end

section
/-! SUPPORT. Motion search and block QPs (R178, R179): the order of candidate vectors, the window that a search never leaves, and the
bounds of a block's QP. -/

namespace Sys2Proof.Machine

/-! ## The order of candidates (R178) -/

theorem Mv.before_iff (a b : Mv) : a.before b = true ↔ a.cost < b.cost ∨ a.cost = b.cost ∧ (a.x * a.x + a.y * a.y < b.x * b.x + b.y * b.y ∨
    a.x * a.x + a.y * a.y = b.x * b.x + b.y * b.y ∧ (a.y < b.y ∨ a.y = b.y ∧ a.x ≤ b.x)) := by
  simp [before]

theorem Mv.before_refl (a : Mv) : a.before a = true := (Mv.before_iff a a).2 (.inr ⟨rfl, .inr ⟨rfl, .inr ⟨rfl, Int.le_refl _⟩⟩⟩)

theorem Mv.before_trans {a b c : Mv} (hab : a.before b = true) (hbc : b.before c = true) : a.before c = true := by
  rw [Mv.before_iff] at *
  omega

theorem Mv.before_of_not {a b : Mv} (h : ¬ a.before b = true) : b.before a = true := by
  rw [Mv.before_iff] at *
  omega

theorem bestMv_eq_or_mem (l : List Mv) : ∀ b, bestMv l b = b ∨ bestMv l b ∈ l := by
  induction l with
  | nil => exact fun b => .inl rfl
  | cons c l ih =>
    intro b
    rw [bestMv]
    split
    · exact .inr (List.mem_cons.2 (ih c))
    · exact (ih b).imp_right (List.mem_cons_of_mem _)

/-- The best candidate comes before the one it started from and before each that was tried. -/
theorem bestMv_before (l : List Mv) : ∀ b, (bestMv l b).before b = true ∧ ∀ c ∈ l, (bestMv l b).before c = true := by
  induction l with
  | nil => exact fun b => ⟨b.before_refl, fun c hc => absurd hc List.not_mem_nil⟩
  | cons c l ih =>
    intro b
    rw [bestMv]
    split
    · next hcb =>
      obtain ⟨hc, hl⟩ := ih c
      exact ⟨Mv.before_trans hc hcb, List.forall_mem_cons.2 ⟨hc, hl⟩⟩
    · next hcb =>
      obtain ⟨hb, hl⟩ := ih b
      exact ⟨hb, List.forall_mem_cons.2 ⟨Mv.before_trans hb (Mv.before_of_not hcb), hl⟩⟩

/-! ## The window (R178) -/

theorem inReach_iff (x y : Int) : inReach x y = true ↔ (-512 ≤ x ∧ x ≤ 512) ∧ -256 ≤ y ∧ y ≤ 256 := by
  simp only [inReach, Bool.and_eq_true, decide_eq_true_eq, and_assoc]
  rfl

theorem tryAll_inReach {cost : Int → Int → Nat} {l : List (Int × Int)} : ∀ v ∈ tryAll cost l, inReach v.x v.y = true := by
  intro v hv
  obtain ⟨p, hp, rfl⟩ := List.mem_map.1 hv
  exact (List.mem_filter.1 hp).2

theorem bestMv_inReach {l : List Mv} {b : Mv} (hl : ∀ v ∈ l, inReach v.x v.y = true) (hb : inReach b.x b.y = true) :
    inReach (bestMv l b).x (bestMv l b).y = true := by
  rcases bestMv_eq_or_mem l b with h | h
  · rw [h]
    exact hb
  · exact hl _ h

/-- Each stage starts from a vector in reach, and tries only such. -/
theorem refine_inReach (cost : Int → Int → Nat) (three : List Mv) : inReach (refine cost three).x (refine cost three).y = true :=
  bestMv_inReach tryAll_inReach (bestMv_inReach tryAll_inReach (bestMv_inReach tryAll_inReach ((inReach_iff 0 0).2 (by decide))))

/-- A search is the refinement of its coarse candidates. -/
theorem searchUnit_refines (codec : Nat) (cur ref : Luma) (bx by' : Nat) : ∃ cost three,
    searchUnit codec cur ref bx by' = ((refine cost three).x, (refine cost three).y) := ⟨_, _, rfl⟩

theorem searchUnit_inReach (codec : Nat) (cur ref : Luma) (bx by' : Nat) :
    inReach (searchUnit codec cur ref bx by').1 (searchUnit codec cur ref bx by').2 = true := by
  obtain ⟨cost, three, h⟩ := searchUnit_refines codec cur ref bx by'
  rw [h]
  exact refine_inReach cost three

/-! ## A block's QP (R179) -/

theorem Codec.blockQp_region {x : Codec} (hmin : x.qpMin ≤ x.qpMax) (hmax : x.qpMax ≤ 51) (frame : Nat) (r : Roi) :
    x.qpMin ≤ x.blockQp frame (some r) ∧ x.blockQp frame (some r) ≤ x.qpMax ∧
      ((x.qpMin : Int) ≤ frame + r.off → (frame : Int) + r.off ≤ x.qpMax → (x.blockQp frame (some r) : Int) = frame + r.off) := by
  simp only [blockQp, clampI]
  omega

end Sys2Proof.Machine
end

section
/-! SUPPORT. The Trowel cores (R168, R170 to R173, R175, R176, R184, R223, R262, R263): the copy of a unit into its ring, the start, the
joining and the end of a picture, and the PLL. -/

namespace Sys2Proof.Machine

/-! ## The bitstream ring (R173) -/

theorem State.hbmWriteN_frames (s : State) (t o : Nat) (bs : List Byte) : (s.hbmWriteN t o bs).mem.frames = s.mem.frames :=
  State.hbmWriteN_keeps (fun s => s.mem.frames) (fun _ _ => rfl) t bs s o

/-- What a write leaves in HBM depends on the frames and on HBM alone. -/
theorem State.hbmWriteN_hbm (ten : Nat) (bs : List Byte) : ∀ {s t : State} (_ : t.mem.frames = s.mem.frames) (_ : t.mem.hbm = s.mem.hbm) (off : Nat),
    (t.hbmWriteN ten off bs).mem.hbm = (s.hbmWriteN ten off bs).mem.hbm := by
  induction bs with
  | nil => exact fun _ hhbm _ => hhbm
  | cons b bs ih =>
    intro s t hframes hhbm off
    refine ih ((State.hbmWrite_mem_frames ..).trans (hframes.trans (State.hbmWrite_mem_frames ..).symm)) ?_ (off + 1)
    unfold hbmWrite physAddr frameOf
    rw [hframes, hhbm]
    split <;> simp [hhbm]

theorem State.ringBytes_keeps {γ : Type} (φ : State → γ) (hφ : ∀ s x, φ { s with mem.hbm := x } = φ s) (s : State) (c : Ctx) (bs : List Byte) :
    φ (s.ringBytes c bs) = φ s :=
  (State.hbmWriteN_keeps φ hφ ..).trans (State.hbmWriteN_keeps φ hφ ..)

theorem State.ringBytes_hbm {s t : State} (hframes : t.mem.frames = s.mem.frames) (hhbm : t.mem.hbm = s.mem.hbm) (c : Ctx) (bs : List Byte) :
    (t.ringBytes c bs).mem.hbm = (s.ringBytes c bs).mem.hbm :=
  State.hbmWriteN_hbm _ _ ((State.hbmWriteN_frames ..).trans (hframes.trans (State.hbmWriteN_frames ..).symm)) (State.hbmWriteN_hbm _ _ hframes hhbm _) _

/-- The state in which the unit's bytes stand in its context's ring, and the unit counts as copied. -/
def State.unitCopied (s : State) (n : Nat) (c : Ctx) (i : Item) : State :=
  (s.ringBytes c (s.hostReadN i.addr i.length)).updCtx n fun c =>
    { c with codec.copied := c.codec.copied ++ [i.order], codec.ringPos := (c.codec.ringPos + i.length) % 2 ^ 22 }

theorem State.unitCopied_mem (s : State) (n : Nat) (c : Ctx) (i : Item) :
    (s.unitCopied n c i).mem = (s.ringBytes c (s.hostReadN i.addr i.length)).mem := State.updCtx_mem ..

theorem State.unitCopied_ctx {s : State} {n : Nat} {c : Ctx} (h : s.ctx? n = some c) (i : Item) : (s.unitCopied n c i).ctx? n =
    some { c with codec.copied := c.codec.copied ++ [i.order], codec.ringPos := (c.codec.ringPos + i.length) % 2 ^ 22 } :=
  State.updCtx_some ((State.ringBytes_keeps (fun s => s.ctx? n) (fun _ _ => rfl) ..).trans h) _

theorem State.unitCopied_ctx_ne (s : State) {n k : Nat} (c : Ctx) (i : Item) (h : k ≠ n) : (s.unitCopied n c i).ctx? k = s.ctx? k :=
  (State.updCtx_ctx_ne _ _ h).trans (State.ringBytes_keeps (fun s => s.ctx? k) (fun _ _ => rfl) ..)

/-- BITSTREAM_COPY_DONE of a copy that runs and whose ring is served. -/
theorem exec_bitstreamCopyDone_ok {s : State} {n : Nat} {c : Ctx} {i : Item} {ks : List Nat} (hc : s.ctx? n = some c) (hst : c.codec.state = 1)
    (hi : c.toCopy = some i) (hks : ks = s.spanStacks c.tenant c.codec.poolOff (2 ^ 22)) (hserves : s.hbmServes ks = true)
    (hruns : s.syncSets.intRuns (.unit n i.order) = true) :
    exec (.bitstreamCopyDone n .ok) s = .next ((s.syncSets.touchStacks ks).unitCopied n c i).syncSets := by
  have hread : (s.syncSets.touchStacks ks).hostReadN i.addr i.length = s.syncSets.hostReadN i.addr i.length := by
    rw [State.hostReadN, State.touchStacks_mem, State.hostReadN]
  subst hks
  show execBitstreamCopyDone n .ok s = _
  rw [State.unitCopied, hread]
  simp only [execBitstreamCopyDone, hc, hi, hst, hserves, bne_self_eq_false, Bool.not_true, Bool.or_self, Bool.false_eq_true, if_false]
  rw [State.intDone_runs _ hruns]

/-! ## Gating (R223) -/

/-- A free core gates. -/
def State.gateCore (s : State) (k : Nat) : State :=
  if s.coreFree k && !(s.core k).gated then s.updCore k fun x => { x with gated := true } else s

theorem State.gateCore_eq (s : State) (k : Nat) : ∃ cs, s.gateCore k = { s with trowel.cores := cs } := by
  unfold gateCore
  split
  · exact ⟨_, rfl⟩
  · exact ⟨s.trowel.cores, rfl⟩

/-- A core stays as it is, or it is free and gates. -/
theorem State.gateCores_core (k : Nat) (l : List Nat) : ∀ s : State, (l.foldl State.gateCore s).core k = s.core k ∨
    s.coreFree k = true ∧ (l.foldl State.gateCore s).core k = { s.core k with gated := true } := by
  induction l with
  | nil => exact fun s => .inl rfl
  | cons a l ih =>
    intro s
    rw [List.foldl_cons]
    by_cases hg : (s.coreFree a && !(s.core a).gated) = true
    · have hgate : s.gateCore a = s.updCore a fun x => { x with gated := true } := if_pos hg
      rw [hgate]
      by_cases hk : k = a
      · subst hk
        have hfree : s.coreFree k = true := (Bool.and_eq_true _ _ ▸ hg : _ ∧ _).1
        have hcore : (s.updCore k fun x => { x with gated := true }).core k = { s.core k with gated := true } := State.updCore_core_self ..
        refine .inr ⟨hfree, ?_⟩
        rcases ih (s.updCore k fun x => { x with gated := true }) with h | ⟨-, h⟩ <;> rw [h, hcore]
      · have hcore : (s.updCore a fun x => { x with gated := true }).core k = s.core k := State.updCore_core_ne _ _ hk
        have hfree : (s.updCore a fun x => { x with gated := true }).coreFree k = s.coreFree k := by
          simp only [coreFree, hcore]
          rfl
        have hl := ih (s.updCore a fun x => { x with gated := true })
        rwa [hcore, hfree] at hl
    · have hgate : s.gateCore a = s := if_neg hg
      rw [hgate]
      exact ih s

theorem State.regate_eq (s : State) : s.regate =
    if s.readyPics.isEmpty && s.trowel.again.isEmpty then { (List.range 16).foldl State.gateCore s with trowel.idleAt := s.now } else s := by
  unfold regate gateCore
  rfl

theorem State.regate_core (s : State) (k : Nat) : s.regate.core k = s.core k ∨
    s.coreFree k = true ∧ s.regate.core k = { s.core k with gated := true } := by
  have hgate := State.gateCores_core k (List.range 16) s
  rw [regate_eq]
  generalize (List.range 16).foldl State.gateCore s = u at hgate ⊢
  split
  · exact hgate
  · exact .inl rfl

theorem State.regate_core_busy (s : State) (k : Nat) : (s.regate.core k).busy = (s.core k).busy := by
  rcases s.regate_core k with h | ⟨-, h⟩ <;> rw [h]

/-- A core that runs a picture is not gated. -/
theorem State.regate_core_running {s : State} {k : Nat} (h : (s.core k).busy.isSome = true) : s.regate.core k = s.core k := by
  refine (s.regate_core k).resolve_right fun ⟨hfree, _⟩ => ?_
  simp [coreFree, Option.isNone_eq_false_iff.2 h] at hfree

/-- Gating changes the cores and since when the pool is idle. -/
theorem State.regate_keeps {γ : Type} (φ : State → γ) (hφ : ∀ s x y, φ { s with trowel.cores := x, trowel.idleAt := y } = φ s) (s : State) :
    φ s.regate = φ s := by
  have hfold (l : List Nat) : ∀ s : State, ∃ cs, l.foldl State.gateCore s = { s with trowel.cores := cs } := by
    induction l with
    | nil => exact fun s => ⟨s.trowel.cores, rfl⟩
    | cons a l ih =>
      intro s
      obtain ⟨cs, h⟩ := s.gateCore_eq a
      obtain ⟨cs', h'⟩ := ih (s.gateCore a)
      exact ⟨cs', by rw [List.foldl_cons, h', h]⟩
  obtain ⟨cs, h⟩ := hfold (List.range 16) s
  rw [regate_eq]
  split
  · rw [h]
    exact hφ s cs s.now
  · rfl

/-! ## The start of a picture (R168, R170, R171, R172) -/

theorem Core.take_switched (x : Core) (i : Item) (start : Tick) (nth run : Nat) (div : Division) (share : Nat) (st : Option StreamState) :
    (x.take i start nth run div share st).switched = true ↔ x.lastCtx ≠ some i.ctx := bne_iff_ne

theorem Core.take_switches (x : Core) (i : Item) (start : Tick) (nth run : Nat) (div : Division) (share : Nat) (st : Option StreamState) :
    (x.take i start nth run div share st).switches = if x.lastCtx = some i.ctx then x.switches else sat32 x.switches 1 := by
  simp [take]

/-- An item leaves its queue; its context keeps its codec. -/
theorem State.unqueue_ctx {s : State} {i : Item} {c : Ctx} (h : s.ctx? i.ctx = some c) : ∃ c', (s.unqueue i).ctx? i.ctx = some c' ∧
    c'.codec = c.codec ∧ c'.queue = c.queue.filter fun q => q.order != i.order := by
  have hc := State.updCtx_some h fun c => { c with queue := c.queue.filter fun q => q.order != i.order }
  obtain ⟨cs, he⟩ := State.quietFrom_eq _ i.ctx _ hc
  have hctxs : (s.unqueue i).ctxs = _ := congrArg State.ctxs he
  rw [ctx?, hctxs]
  dsimp only
  split
  · exact ⟨_, State.updCtx_some hc _, rfl, rfl⟩
  · exact ⟨_, hc, rfl, rfl⟩

/-- The state once a picture's item has left its queue; a frame to encode settles a forced IDR (R183). -/
def State.takenOff (s : State) (i : Item) : State :=
  if i.kind == 0x0602 then (s.unqueue i).updCtx i.ctx fun c => { c with codec.forceIdr := false } else s.unqueue i

theorem State.takenOff_sheds (s : State) (i : Item) : s.Sheds (s.takenOff i) := by
  unfold takenOff
  split
  · exact (State.unqueue_sheds ..).trans (State.updCtx_emits ..).sheds
  · exact State.unqueue_sheds ..

theorem State.takenOff_trowel (s : State) (i : Item) : (s.takenOff i).trowel = s.trowel := (s.takenOff_sheds i).keeps State.trowel fun _ _ _ _ => rfl

theorem State.takenOff_core (s : State) (i : Item) (k : Nat) : (s.takenOff i).core k = s.core k :=
  congrArg (fun t : Trowel => t.cores.get ({} : Core) k) (s.takenOff_trowel i)

theorem State.takenOff_now (s : State) (i : Item) : (s.takenOff i).now = s.now := (s.takenOff_sheds i).keeps State.now fun _ _ _ _ => rfl

theorem State.takenOff_ctx {s : State} {i : Item} {c : Ctx} (h : s.ctx? i.ctx = some c) : ∃ c', (s.takenOff i).ctx? i.ctx = some c' ∧
    c'.codec.codec = c.codec.codec ∧ c'.codec.stream = c.codec.stream ∧ c'.queue = c.queue.filter fun q => q.order != i.order := by
  obtain ⟨c', hc', hcodec, hqueue⟩ := State.unqueue_ctx h
  have hkind : c'.codec.codec = c.codec.codec := congrArg Codec.codec hcodec
  have hstream : c'.codec.stream = c.codec.stream := congrArg Codec.stream hcodec
  unfold takenOff
  split
  · exact ⟨_, State.updCtx_some hc' _, hkind, hstream, hqueue⟩
  · exact ⟨_, hc', hkind, hstream, hqueue⟩

theorem State.streamOf_ctx {s : State} {n : Nat} {c : Ctx} (h : s.ctx? n = some c) : s.streamOf n = some c.codec.stream := by
  simp [streamOf, h]

theorem State.divOf_ctx {s : State} {i : Item} {c : Ctx} (h : s.ctx? i.ctx = some c) (d : Division) :
    s.divOf i d = if i.kind = 0x0601 then divFor c.codec.codec d else .whole := by
  simp [divOf, h]

/-- The item as its core runs it: with the source picture of a frame under FROM_DECODE, and marked where an IDR was forced (R177, R183). -/
def State.pictureItem (s : State) (i : Item) : Item :=
  { i with
    pic := if i.fromDecode then (s.encSource i.ctx i.tenant).map fun x => x.2.order else none
    dflags := if i.kind == 0x0602 && (((s.ctx? i.ctx).map (·.codec.forceIdr)).getD false) && !bitOf i.dflags 2 then i.dflags + 4 else i.dflags }

/-- Core `k` takes a picture: the PLL runs. -/
def State.onCore (s : State) (k : Nat) (i : Item) (nth run : Nat) (div : Division) (st : Option StreamState) : State :=
  { s.updCore k fun x => x.take i s.now nth run div 0 st with trowel.pllOn := true }

theorem State.onCore_core_self (s : State) (k : Nat) (i : Item) (nth run : Nat) (div : Division) (st : Option StreamState) :
    (s.onCore k i nth run div st).core k = (s.core k).take i s.now nth run div 0 st := by
  show (s.updCore k fun x => x.take i s.now nth run div 0 st).core k = _
  rw [updCore_core_self]

theorem State.onCore_core_ne (s : State) {j k : Nat} (i : Item) (nth run : Nat) (div : Division) (st : Option StreamState) (h : j ≠ k) :
    (s.onCore k i nth run div st).core j = s.core j := by
  show (s.updCore k fun x => x.take i s.now nth run div 0 st).core j = _
  rw [updCore_core_ne _ _ h]

theorem State.takePic_starts (s : State) (k : Nat) {i : Item} (hi : i.kind ≠ flushKind) (run : Nat) (d : Division) : s.takePic k i run d =
    ((s.takenOff i).onCore k (s.pictureItem i) 1 run ((s.takenOff i).divOf i d) ((s.takenOff i).streamOf i.ctx)).regate := by
  unfold takePic
  rw [beq_eq_false_iff_ne.2 hi]
  rfl

/-- What a started picture leaves: its core runs it, the others go on, and the PLL runs. -/
theorem State.onCore_regate (s : State) (k : Nat) (i : Item) (nth run : Nat) (div : Division) (st : Option StreamState) :
    (s.onCore k i nth run div st).regate.core k = (s.core k).take i s.now nth run div 0 st ∧
    (∀ j, j ≠ k → ((s.onCore k i nth run div st).regate.core j).busy = (s.core j).busy) ∧
    (s.onCore k i nth run div st).regate.trowel.pllOn = true ∧ (s.onCore k i nth run div st).regate.trowel.again = s.trowel.again ∧
    (s.onCore k i nth run div st).regate.ctxs = s.ctxs := by
  have hself := s.onCore_core_self k i nth run div st
  refine ⟨?_, fun j hj => ?_, ?_, ?_, ?_⟩
  · rw [State.regate_core_running (by rw [hself]; rfl), hself]
  · rw [State.regate_core_busy, State.onCore_core_ne _ _ _ _ _ _ hj]
  · exact State.regate_keeps (fun s => s.trowel.pllOn) (fun _ _ _ => rfl) _
  · exact State.regate_keeps (fun s => s.trowel.again) (fun _ _ _ => rfl) _
  · exact State.regate_keeps State.ctxs (fun _ _ _ => rfl) _

section
variable {s : State} {k : Nat} (hrun : s.trowelRuns = true) (hk : k < 16) (hfree : s.coreFree k = true)
include hrun hk hfree

theorem exec_trowelPictureStart_again {a : Nat × Item × Nat} {l : List (Nat × Item × Nat)} (ha : s.trowel.again = a :: l) (d : Division) :
    exec (.trowelPictureStart k (.take d)) s = .next (s.takeAgain k a d) := by
  show execTrowelPictureStart k (.take d) s = _
  simp [execTrowelPictureStart, hrun, hk, hfree, ha]

/-- A module in no pair, without a lead to follow, starts the picture of its own choice. -/
theorem exec_trowelPictureStart_own (ha : s.trowel.again = []) (hrole : s.twin.role = 0) (hlead : s.twin.trowel = []) (d : Division) :
    exec (.trowelPictureStart k (.take d)) s = .next (s.startPic k d) := by
  show execTrowelPictureStart k (.take d) s = _
  simp [execTrowelPictureStart, hrun, hk, hfree, ha, hrole, hlead, State.nextTrowelLead]

theorem exec_trowelPictureStart_join {i : Item} {x : Core} (hj : s.joinPic = some (i, x)) :
    exec (.trowelPictureStart k .join) s = .next (s.joinCore k i x) := by
  show execTrowelPictureStart k .join s = _
  simp [execTrowelPictureStart, hrun, hk, hfree, hj]

end

/-- With nothing to shed, the picture that the run rule picks starts. -/
theorem State.startPic_takes {s : State} {k : Nat} {i : Item} {run : Nat} {c : Ctx} (hrole : s.twin.role = 0)
    (hshed : ∀ i ∈ s.queuedOn none, ∀ c, s.ctx? i.ctx = some c → s.sheddable c i = false) (hpick : s.pickPic k = some (i, run))
    (hc : s.ctx? i.ctx = some c) (hgood : s.badVideo c i = false) (d : Division) : s.startPic k d = s.takePic k i run d := by
  have hlead : s.leadsTrowel = false := by simp [leadsTrowel, hrole]
  simp only [startPic, State.shedLed_nothing hshed, hpick, hlead, Bool.false_and, Bool.false_eq_true, if_false, hc, hgood]

theorem State.takeAgain_starts (s : State) (k : Nat) (a : Nat × Item × Nat) (d : Division) : s.takeAgain k a d =
    (({ s with trowel.again := s.trowel.again.drop 1 } : State).onCore k a.2.1 a.2.2 1 (s.divOf a.2.1 d) (s.streamOf a.1)).regate := rfl

theorem State.joinCore_joins {x : Core} {n r : Nat} {j : Item} {b : Tick} (hx : x.busy = some (n, j, b, r)) (s : State) (k : Nat) (i : Item) :
    s.joinCore k i x = s.updCore k fun y => y.take i b r 1 x.div (s.coresOf i.ctx).length x.stream := by
  simp only [joinCore, hx]

/-! ## Division (R172) -/

/-- What a codec lets divide its pictures, in two parts or more. -/
theorem divFor_divides {n : Nat} (hn : 2 ≤ n) : divFor 0 (.tiles n) = .tiles n ∧ divFor 2 (.tiles n) = .tiles n ∧
    divFor 0 (.wavefront n) = .wavefront n ∧ divFor 0 (.slices n) = .slices n ∧ divFor 1 (.slices n) = .slices n := by
  simp [divFor, Nat.not_lt.2 hn]

/-- H.264 has no tiles, HEVC alone a wavefront, and AV1 no slices. -/
theorem divFor_whole (codec n : Nat) : divFor 1 (.tiles n) = .whole ∧ (codec ≠ 0 → divFor codec (.wavefront n) = .whole) ∧
    divFor 2 (.slices n) = .whole ∧ divFor codec .whole = .whole := by
  refine ⟨by simp [divFor], fun h => by simp [divFor, h], by simp [divFor], rfl⟩

theorem divFor_divisions (codec n : Nat) : divFor 1 (.tiles n) = .whole ∧ (codec ≠ 0 → divFor codec (.wavefront n) = .whole) ∧
    divFor 2 (.slices n) = .whole ∧ divFor codec .whole = .whole ∧ (2 ≤ n → divFor 0 (.tiles n) = .tiles n ∧ divFor 2 (.tiles n) = .tiles n ∧
      divFor 0 (.wavefront n) = .wavefront n ∧ divFor 0 (.slices n) = .slices n ∧ divFor 1 (.slices n) = .slices n) := by
  obtain ⟨htiles, hwave, hslices, hwhole⟩ := divFor_whole codec n
  exact ⟨htiles, hwave, hslices, hwhole, divFor_divides⟩

/-! ## Core time (R168, R170, R248) -/

section
variable {s : State} {cn : Nat} {i : Item} {res : CodecResult} {c : Ctx} (hc : s.ctx? cn = some c)
include hc

theorem State.picNs_encode (hi : i.kind = 0x0602) (hh : s.trowel.halved = false) :
    s.picNs cn i res = 2 * pixels c.codec.maxW c.codec.maxH + 18000 * s.switchesOf cn := by
  simp [picNs, hc, hi, hh, coreTime]

theorem State.picNs_decode (hi : i.kind = 0x0601) (hb : c.codec.blocks' res = false) :
    s.picNs cn i res = pixels res.info.width res.info.height * 10 / 21 * (if s.trowel.halved then 2 else 1) + 18000 * s.switchesOf cn := by
  simp [picNs, hc, hi, hb, coreTime, flushKind]

end

/-! ## What a unit yields (R175, R176, R184, R262, R263) -/

theorem State.finishPic_error {s : State} {i : Item} (ho : s.tenantOpen i.tenant = true) (k cn run : Nat) (res : CodecResult) (cores ns : Nat) :
    s.finishPic k cn i run res true cores ns = s.errorPic k cn i run := by
  simp [finishPic, ho]

/-- A picture whose first three runs an error touched waits to run again. -/
theorem State.finishPic_restarts {s : State} {i : Item} {run : Nat} (ho : s.tenantOpen i.tenant = true) (hrun : run < 4) (k cn : Nat) (res : CodecResult)
    (cores ns : Nat) : ∃ t : State, s.finishPic k cn i run res true cores ns = (t, []) ∧ t.trowel.again = s.trowel.again ++ [(cn, i, run + 1)] ∧
      t.flt.restarts = sat32 s.flt.restarts 1 := by
  rw [State.finishPic_error ho, errorPic, if_pos hrun]
  exact ⟨_, rfl, by simp, by simp⟩

theorem State.plainRec_status (s : State) (i : Item) (status : Nat) (last : Bool) :
    (s.plainRec i status last).status = status ∧ (s.plainRec i status last).seq = i.seq := by
  unfold plainRec
  split
  · exact ⟨rfl, rfl⟩
  · split
    · exact ⟨rfl, rfl⟩
    · split <;> exact ⟨rfl, rfl⟩

/-- The fourth run that an error touches ends the picture. -/
theorem State.finishPic_aborts {s : State} {i : Item} {run : Nat} (ho : s.tenantOpen i.tenant = true) (hrun : 4 ≤ run) (hi : i.kind ≠ flushKind) (k cn : Nat)
    (res : CodecResult) (cores ns : Nat) : ∃ (t : State) (r : Rel), s.finishPic k cn i run res true cores ns = (t, [r]) ∧ r.r.status = St.abortedFault ∧
      r.r.seq = i.seq ∧ t.trowel.again = s.trowel.again ∧ t.flt.aborted = sat32 s.flt.aborted 1 := by
  rw [State.finishPic_error ho, errorPic, if_neg (Nat.not_lt.2 hrun)]
  simp only [beq_eq_false_iff_ne.2 hi, Bool.false_eq_true, if_false]
  obtain ⟨hstatus, hseq⟩ := State.plainRec_status _ i St.abortedFault false
  exact ⟨_, _, rfl, hstatus, hseq, by simp, by simp⟩

/-- A unit without output, error or end of stream gives one record with NO_PICTURE. -/
theorem State.decodeUnit_nothing {s : State} {cn : Nat} {i : Item} {res : CodecResult} {c : Ctx} (hc : s.ctx? cn = some c) (hi : i.kind = 0x0601)
    (he : c.codec.unitError res = 0) (ho : res.outputs = []) (heos : res.eos = false) (cores ns : Nat) :
    (s.decodeUnit cn i res cores ns).2.map (fun x => (x.r.type, x.r.status, x.r.detail % 16)) = [(3, 0, 1)] := by
  have hflush : (i.kind == flushKind) = false := by rw [hi]; rfl
  have houts : c.codec.outputs i res = [] := by rw [Codec.outputs, ho, List.filter_nil]
  simp only [decodeUnit, hc, hflush, he, heos, houts, List.map_nil, outPics]
  simp [videoRels, videoRec, itemRec, videoDetail, St.ok]
  omega

/-! ## The codec frame boundary (R168, R170, R183) -/

/-- The cores of `l` write their stream state back and are free. -/
theorem State.foldl_free_core (lines : List (Nat × Nat)) (j : Nat) (l : List Nat) : ∀ s : State,
    ((l.foldl (fun s k => s.updCore k fun x => x.free lines) s).core j).busy = if j ∈ l then none else (s.core j).busy := by
  induction l with
  | nil => exact fun s => rfl
  | cons k l ih =>
    intro s
    rw [List.foldl_cons, ih]
    by_cases hj : j = k
    · subst hj
      simp [Core.free]
    · simp [State.updCore_core_ne _ _ hj, hj]

theorem State.foldl_free_eq (lines : List (Nat × Nat)) (l : List Nat) : ∀ s : State, ∃ cs,
    l.foldl (fun s k => s.updCore k fun x => x.free lines) s = { s with trowel.cores := cs } := by
  induction l with
  | nil => exact fun s => ⟨s.trowel.cores, rfl⟩
  | cons k l ih =>
    intro s
    obtain ⟨cs, h⟩ := ih (s.updCore k fun x => x.free lines)
    exact ⟨cs, h⟩

theorem State.freeCores_core (s : State) (cn ns : Nat) (lines : List (Nat × Nat)) (j : Nat) :
    ((s.freeCores cn ns lines).core j).busy = if j ∈ s.coresOf cn then none else (s.core j).busy :=
  State.foldl_free_core lines j (s.coresOf cn) s

theorem State.freeCores_eq (s : State) (cn ns : Nat) (lines : List (Nat × Nat)) : ∃ cs r, s.freeCores cn ns lines =
    { s with trowel.cores := cs, trowel.busyNs := sat64 s.trowel.busyNs ns, trowel.recent := r } := by
  obtain ⟨cs, h⟩ := State.foldl_free_eq lines (s.coresOf cn) s
  unfold freeCores
  rw [h]
  exact ⟨cs, _, rfl⟩

theorem State.freeCores_waits (s : State) (cn ns : Nat) (lines : List (Nat × Nat)) :
    (s.freeCores cn ns lines).power = s.power ∧ (s.freeCores cn ns lines).sec = s.sec := by
  obtain ⟨cs, r, h⟩ := s.freeCores_eq cn ns lines
  rw [h]
  exact ⟨rfl, rfl⟩

/-- What the end of a picture leaves as it is once its cores are free: what the cores run, the pool's time, no wish for SAFE_HOLD, and
no tenant under removal. -/
structure State.SamePool (s t : State) : Prop where
  busy : ∀ j, (t.core j).busy = (s.core j).busy
  busyNs : t.trowel.busyNs = s.trowel.busyNs
  safeHold : t.power.safeHoldReq = s.power.safeHoldReq
  quiet : (∀ r ∈ s.sec.tenants, r.2.state ≠ 2) → ∀ r ∈ t.sec.tenants, r.2.state ≠ 2

theorem State.SamePool.refl (s : State) : s.SamePool s := ⟨fun _ => rfl, rfl, rfl, id⟩

theorem State.SamePool.trans {s t u : State} (h : s.SamePool t) (h' : t.SamePool u) : s.SamePool u :=
  ⟨fun j => (h'.busy j).trans (h.busy j), h'.busyNs.trans h.busyNs, h'.safeHold.trans h.safeHold, h'.quiet ∘ h.quiet⟩

theorem State.SamePool.of_fold {β : Type} {g : State → β → State} (h : ∀ s x, State.SamePool s (g s x)) (l : List β) :
    ∀ s, State.SamePool s (l.foldl g s) := by
  induction l with
  | nil => exact fun s => .refl s
  | cons x l ih => exact fun s => (h s x).trans (ih _)

theorem State.SamePool.of_keeps {s t : State} (ht : t.trowel = s.trowel) (hp : t.power = s.power) (hs : t.sec = s.sec) : s.SamePool t :=
  ⟨fun j => congrArg (fun t : Trowel => (t.cores.get ({} : Core) j).busy) ht, congrArg Trowel.busyNs ht, congrArg Power.safeHoldReq hp, fun h => hs ▸ h⟩

theorem State.Sheds.samePool {s t : State} (h : s.Sheds t) : s.SamePool t :=
  .of_keeps (h.keeps State.trowel fun _ _ _ _ => rfl) (h.keeps State.power fun _ _ _ _ => rfl) (h.keeps State.sec fun _ _ _ _ => rfl)

theorem State.Emits.samePool {s t : State} (h : s.Emits t) : s.SamePool t := h.sheds.samePool

theorem State.updCtx_samePool (s : State) (n : Nat) (f : Ctx → Ctx) : s.SamePool (s.updCtx n f) := (State.updCtx_emits ..).samePool

theorem State.hbmWriteN_samePool (s : State) (t o : Nat) (bs : List Byte) : s.SamePool (s.hbmWriteN t o bs) :=
  .of_keeps (State.hbmWriteN_keeps State.trowel (fun _ _ => rfl) ..) (State.hbmWriteN_keeps State.power (fun _ _ => rfl) ..)
    (State.hbmWriteN_keeps State.sec (fun _ _ => rfl) ..)

theorem State.regate_samePool (s : State) : s.SamePool s.regate :=
  ⟨s.regate_core_busy, State.regate_keeps (fun s => s.trowel.busyNs) (fun _ _ _ => rfl) s,
    congrArg Power.safeHoldReq (State.regate_keeps State.power (fun _ _ _ => rfl) s),
    fun h => State.regate_keeps State.sec (fun _ _ _ => rfl) s ▸ h⟩

/-! Records of the picture. -/

theorem State.setPseq_samePool (s : State) (n : Nat) (lead : Option Nat) : s.SamePool (s.setPseq n lead) := by
  cases lead with
  | none => exact .refl s
  | some k => exact State.updCtx_samePool ..

theorem State.releaseOne_samePool (s : State) (x : Rel) (last : Bool) : s.SamePool (s.releaseOne x last) := by
  have hlate (b : Bool) : s.SamePool (if b then s.noteLate x.item else s) := by
    cases b
    · exact .refl s
    · exact (State.noteLate_sheds ..).samePool
  exact ((hlate _).trans (State.setPseq_samePool ..)).trans (State.release_emits ..).samePool

theorem State.releaseGroup_samePool (l : List Rel) : ∀ s : State, s.SamePool (s.releaseGroup l) := by
  induction l with
  | nil => exact .refl
  | cons x l ih =>
    intro s
    cases l with
    | nil => exact State.releaseOne_samePool ..
    | cons y l => exact (State.releaseOne_samePool ..).trans (ih _)

/-! What the picture yields. -/

theorem State.poolRoom_samePool (s : State) (u : Unit') : s.SamePool (s.poolRoom u).1 := by
  unfold poolRoom
  split
  · exact .refl s
  · split
    · exact .refl s
    · split
      · exact .refl s
      · exact State.updCtx_samePool ..

theorem State.keepPic_samePool (s : State) (u : Unit') (p : PicOut) (r : UnitRec) (data : List Byte) : s.SamePool (s.keepPic u p r data).1 := by
  unfold keepPic
  split
  · exact .refl s
  · exact (State.hbmWriteN_samePool ..).trans (State.updCtx_samePool ..)

theorem State.outPic_samePool (s : State) (u : Unit') (p : PicOut) : s.SamePool (s.outPic u p).1 := by
  unfold outPic
  split
  · exact .refl s
  · dsimp only
    generalize hsize : s.updCtx u.cn _ = t
    have ht : s.SamePool t := hsize ▸ State.updCtx_samePool ..
    split
    · exact ht.trans (State.updCtx_samePool ..)
    · refine ht.trans (.trans ?_ (State.keepPic_samePool ..))
      split
      · exact .refl _
      · exact State.poolRoom_samePool ..

theorem State.outPics_samePool (u : Unit') (l : List PicOut) : ∀ s : State, s.SamePool (s.outPics u l).1 := by
  induction l with
  | nil => exact .refl
  | cons p l ih => exact fun s => (s.outPic_samePool u p).trans (ih _)

theorem State.decodeUnit_samePool (s : State) (cn : Nat) (i : Item) (res : CodecResult) (cores ns : Nat) :
    s.SamePool (s.decodeUnit cn i res cores ns).1 := by
  unfold decodeUnit
  split
  · exact .refl s
  · exact (State.outPics_samePool ..).trans (State.updCtx_samePool ..)

theorem State.encTaken_samePool (s : State) (cn : Nat) (i : Item) : s.SamePool (s.encTaken cn i) := by
  unfold encTaken
  split
  · exact .refl s
  · exact .of_keeps rfl rfl rfl

theorem State.encodeUnit_samePool (s : State) (cn : Nat) (i : Item) (ns : Nat) : s.SamePool (s.encodeUnit cn i ns).1 := by
  unfold encodeUnit
  split
  · exact .refl s
  · dsimp only
    generalize hcoded : (s.encTaken cn i).updCtx cn _ = t
    have ht : s.SamePool t := (s.encTaken_samePool cn i).trans (hcoded ▸ State.updCtx_samePool ..)
    split
    · exact ht.trans (.of_keeps rfl rfl rfl)
    · exact ht.trans (State.hbmWriteN_samePool ..)

/-- A picture that no error touched. -/
theorem State.finishPic_samePool (s : State) (k cn : Nat) (i : Item) (run : Nat) (res : CodecResult) (cores ns : Nat) :
    s.SamePool (s.finishPic k cn i run res false cores ns).1 := by
  unfold finishPic
  split
  · exact .refl s
  · rw [if_neg Bool.false_ne_true]
    split
    · exact (State.setPseq_samePool ..).trans (State.shedItem_sheds ..).samePool
    · split
      · exact State.encodeUnit_samePool ..
      · split
        · exact .refl s
        · exact (State.updCtx_samePool ..).trans (State.decodeUnit_samePool ..)

/-! What follows a picture. -/

theorem State.finishOps_samePool (s : State) (p : OpKind → Bool) (st d : Nat) : s.SamePool (s.finishOps p st d) :=
  .of_keeps (State.finishOps_trowel ..) (State.finishOps_power ..) (State.finishOps_sec ..)

theorem State.flushOver_samePool (s : State) (cn : Nat) : s.SamePool (s.flushOver cn) := by
  unfold flushOver
  dsimp only
  split
  · exact State.updCtx_samePool ..
  · exact (State.finishOps_samePool ..).trans (State.updCtx_samePool ..)

theorem State.endQueued_sheds (s : State) (i : Item) (st : Nat) : s.Sheds (s.endQueued i st) := by
  unfold endQueued
  split
  · exact (State.unqueue_sheds ..).trans (State.closeMarked_emits ..).sheds
  · exact (State.unqueue_sheds ..).trans (State.release_emits ..).sheds

theorem State.endAllQueued_samePool (s : State) (p : Item → Bool) (st : Nat) : s.SamePool (s.endAllQueued p st) :=
  .of_fold (fun s i => (s.endQueued_sheds i st).samePool) _ s

theorem mem_of_mem_set {α : Type} {t : Tbl α} {i : Nat} {v : α} {p : Nat × α} (h : p ∈ Tbl.set t i v) : p = (i, v) ∨ p ∈ t := by
  induction t with
  | nil => exact .inl (List.mem_singleton.1 h)
  | cons q t ih =>
    rw [Tbl.set] at h
    split at h
    · exact (List.mem_cons.1 h).imp_right (List.mem_cons_of_mem _)
    · split at h
      · exact List.mem_cons.1 h
      · rcases List.mem_cons.1 h with rfl | h
        · exact .inr (List.mem_cons_self ..)
        · exact (ih h).imp_right (List.mem_cons_of_mem _)

theorem State.giveQuota_samePool (s : State) (t n : Nat) : s.SamePool (s.giveQuota t n) := by
  refine ⟨fun j => ?_, ?_, ?_, fun h => ?_⟩
  · exact State.giveQuota_keeps (fun s => (s.core j).busy) (fun _ _ => rfl) ..
  · exact State.giveQuota_keeps (fun s => s.trowel.busyNs) (fun _ _ => rfl) ..
  · exact State.giveQuota_keeps (fun s => s.power.safeHoldReq) (fun _ _ => rfl) ..
  · unfold giveQuota updTenant
    split
    · next r hr =>
      intro q hq
      rcases mem_of_mem_set hq with rfl | hq
      · exact h (t, r) (mem_of_find? hr)
      · exact h q hq
    · exact h

theorem State.freePages_samePool (s : State) (t pg n : Nat) : s.SamePool (s.freePages t pg n) :=
  .of_keeps (State.freePages_keeps State.trowel (fun _ _ _ => rfl) ..) (State.freePages_keeps State.power (fun _ _ _ => rfl) ..)
    (State.freePages_keeps State.sec (fun _ _ _ => rfl) ..)

/-- A context of group 6 gives its images and its pool back. -/
theorem State.dropPool_samePool (s : State) (n : Nat) (c : Ctx) :
    s.SamePool (if c.group == 6 then (s.refuseImages n).freePages c.tenant (c.codec.poolOff / 2 ^ 21) c.codec.poolPages else s) := by
  split
  · exact (State.endAllQueued_samePool ..).trans (State.freePages_samePool ..)
  · exact .refl s

theorem State.updPart_samePool (s : State) (n : Nat) (f : Part → Part) : s.SamePool (s.updPart n f) :=
  .of_keeps (State.updPart_trowel ..) (State.updPart_power ..) (State.updPart_sec ..)

theorem State.dropCtx_samePool (s : State) (n : Nat) : s.SamePool (s.dropCtx n) := by
  unfold dropCtx
  split
  · exact .refl s
  · next c _ =>
    dsimp only
    generalize hback : State.updPart _ c.part _ = s1
    have h1 : s.SamePool s1 := hback ▸ ((s.dropPool_samePool n c).trans (State.giveQuota_samePool ..)).trans (State.updPart_samePool ..)
    refine .trans (.trans (h1.trans ?_) (State.finishOps_samePool ..)) (State.finishOps_samePool ..)
    cases c.exportId <;> exact ⟨fun _ => rfl, rfl, rfl, id⟩

/-- The end of a flush (R183). -/
theorem State.flushEnd_samePool (s : State) (cn : Nat) (i : Item) : s.SamePool (if i.kind == flushKind then s.flushOver cn else s) := by
  split
  · exact State.flushOver_samePool ..
  · exact .refl s

theorem State.picOver_samePool (s : State) (cn : Nat) (i : Item) : s.SamePool (s.picOver cn i) := by
  unfold picOver
  split
  · exact .refl s
  · dsimp only
    have hflush (s' : State) (h : s.SamePool s') := h.trans (s'.flushEnd_samePool cn i)
    split
    · split
      · exact (hflush _ (State.updCtx_samePool ..)).trans (State.dropCtx_samePool ..)
      · exact hflush _ (State.updCtx_samePool ..)
    · exact hflush _ (State.updCtx_samePool ..)

theorem State.guardRecheck_emits (r : Res) (n : Nat) : ∀ s : State, s.Emits (s.guardRecheck r n) := by
  induction n with
  | zero => exact .refl
  | succ n ih =>
    intro s
    unfold guardRecheck
    split
    · exact .refl s
    · split
      · exact .refl s
      · exact ((State.updCtx_emits ..).trans (State.contextEvent_emits ..)).trans (ih _)

theorem State.guardRecheckAll_samePool (s : State) (r : Res) : s.SamePool (s.guardRecheckAll r) := (State.guardRecheck_emits ..).samePool

/-- What follows once the cores of a picture are free: its records, what waits for its end, gating, and the Guard reservations. -/
def State.afterPic (s : State) (cn : Nat) (i : Item) (rels : List Rel) : State :=
  (((s.releaseGroup rels).picOver cn i).regate).guardRecheckAll none

theorem State.afterPic_samePool (s : State) (cn : Nat) (i : Item) (rels : List Rel) : s.SamePool (s.afterPic cn i rels) :=
  (((State.releaseGroup_samePool ..).trans (State.picOver_samePool ..)).trans (State.regate_samePool ..)).trans (State.guardRecheckAll_samePool ..)

/-- What a picture that no error touched yields, where its context is still there. -/
def State.picYield (s : State) (k cn : Nat) (i : Item) (run : Nat) (res : CodecResult) (cores ns : Nat) : State × List Rel :=
  if s.live cn then s.finishPic k cn i run res false cores ns else (s, [])

theorem State.picYield_samePool (s : State) (k cn : Nat) (i : Item) (run : Nat) (res : CodecResult) (cores ns : Nat) :
    s.SamePool (s.picYield k cn i run res cores ns).1 := by
  unfold picYield
  split
  · exact State.finishPic_samePool ..
  · exact .refl s

/-- The end of a picture that no error touched. -/
def State.picEnd (s : State) (k cn : Nat) (i : Item) (run : Nat) (res : CodecResult) (cores ns : Nat) : State :=
  (s.picYield k cn i run res cores ns).1.afterPic cn i (s.picYield k cn i run res cores ns).2

theorem State.picEnd_samePool (s : State) (k cn : Nat) (i : Item) (run : Nat) (res : CodecResult) (cores ns : Nat) :
    s.SamePool (s.picEnd k cn i run res cores ns) := (State.picYield_samePool ..).trans (State.afterPic_samePool ..)

/-- A codec frame boundary without an error of a core, where neither a SAFE_HOLD nor a removal waits: the cores of the picture are free,
and what follows keeps the pool. -/
theorem exec_codecFrameBoundary {s : State} {k cn run : Nat} {i : Item} {b : Tick} (hup : s.up = true) (hhold : s.power.hold = false)
    (hserves : s.hbmServes (s.poolStacks cn) = true) (hsafe : s.power.safeHoldReq = none) (hquiet : ∀ r ∈ s.sec.tenants, r.2.state ≠ 2)
    (hbusy : (s.core k).busy = some (cn, i, b, run)) (res : CodecResult) : ∃ lines t,
      exec (.codecFrameBoundary k res none) s = .next t ∧
        ((s.touchStacks (s.poolStacks cn)).freeCores cn (s.picNs cn i res) lines).SamePool t := by
  obtain ⟨hpower, hsec⟩ := (s.touchStacks (s.poolStacks cn)).freeCores_waits cn (s.picNs cn i res) (s.cacheLines i.tenant res.lines)
  obtain ⟨ps, htouch, -⟩ := s.touchStacks_eq (s.poolStacks cn)
  refine ⟨s.cacheLines i.tenant res.lines, State.picEnd _ k cn i run res (s.coresOf cn).length (s.picNs cn i res), ?_, State.picEnd_samePool ..⟩
  show execCodecFrameBoundary k res none s = _
  simp only [execCodecFrameBoundary, hbusy, hup, hhold, hserves, Bool.not_true, Bool.or_self, Bool.false_eq_true, if_false]
  generalize hfreed : (s.touchStacks (s.poolStacks cn)).freeCores cn (s.picNs cn i res) (s.cacheLines i.tenant res.lines) = u at hpower hsec ⊢
  have hpool := u.picEnd_samePool k cn i run res (s.coresOf cn).length (s.picNs cn i res)
  have hnone : (u.picEnd k cn i run res (s.coresOf cn).length (s.picNs cn i res)).power.safeHoldReq = none := by
    rw [hpool.safeHold, hpower, htouch, hsafe]
  have hland := State.landDue_quiet _ (hpool.quiet (by rw [hsec, htouch]; exact hquiet))
  show Host.Outcome.next (u.picEnd k cn i run res (s.coresOf cn).length (s.picNs cn i res)).trySafeHold.landDue = _
  rw [State.trySafeHold_none hnone, hland]

/-! ## The PLL (R223) -/

theorem exec_trowelPllStop {s : State} (hup : s.up = true) (hon : s.trowel.pllOn = true) (hcores : ∀ k, k < 16 → (s.core k).gated = true)
    (hunits : ∀ p, p < 4 → (s.pier p).facing = []) (hidle : 50000 ≤ s.now - s.trowel.idleAt) :
    exec .trowelPllStop s = .next { s with trowel.pllOn := false } := by
  have hgated : ((List.range 16).all fun k => (s.core k).gated) = true := List.all_eq_true.2 fun k hk => hcores k (List.mem_range.1 hk)
  have hempty : ((List.range 4).all fun p => (s.pier p).facing.isEmpty) = true :=
    List.all_eq_true.2 fun p hp => List.isEmpty_iff.2 (hunits p (List.mem_range.1 hp))
  have hdue : tMs 2 ≤ s.since s.trowel.idleAt := hidle
  show execTrowelPllStop s = _
  rw [execTrowelPllStop, hup, hon, hgated, hempty, decide_eq_true hdue]
  rfl

end Sys2Proof.Machine
end

section
/-! SUPPORT. The obligation about the Trowel cores (R168, R170 to R173, R175, R176, R178, R179, R184, R223, R262, R263), from the rules of motion
search and of the pool. -/

namespace Sys2Proof.Machine

/-- What the end of a copy leaves: HBM by the ring alone, and its own context alone. -/
theorem State.unitCopied_after (s : State) (ks : List Nat) {n : Nat} {c : Ctx} (hc : s.ctx? n = some c) (i : Item) :
    ∃ c', ((s.syncSets.touchStacks ks).unitCopied n c i).ctx? n = some c' ∧ c'.codec.copied = c.codec.copied ++ [i.order] ∧
      c'.codec.ringPos = (c.codec.ringPos + i.length) % 2 ^ 22 ∧ c'.queue = c.queue ∧
      ((s.syncSets.touchStacks ks).unitCopied n c i).mem.hbm = (s.ringBytes c (s.hostReadN i.addr i.length)).mem.hbm ∧
      ((s.syncSets.touchStacks ks).unitCopied n c i).mem.host = s.mem.host ∧
      ∀ k, k ≠ n → ((s.syncSets.touchStacks ks).unitCopied n c i).ctx? k = s.ctx? k := by
  obtain ⟨ps, htouch, -⟩ := s.syncSets.touchStacks_eq ks
  rw [htouch]
  refine ⟨_, State.unitCopied_ctx (s := { s.syncSets with piers := ps }) hc i, rfl, rfl, rfl, ?hbm, ?host, fun k hk => State.unitCopied_ctx_ne _ c i hk⟩
  case hbm =>
    rw [State.unitCopied_mem]
    exact State.ringBytes_hbm (s := s) (t := { s.syncSets with piers := ps }) rfl rfl c (s.hostReadN i.addr i.length)
  case host =>
    rw [State.unitCopied_mem]
    exact State.ringBytes_keeps (fun s => s.mem.host) (fun _ _ => rfl) _ c _

/-- Settles O41: the copy of a unit by what the ring writes, each way a picture starts by the core that takes it, the frame boundary by the cores it
frees and the pool that the rest keeps, and motion search by the order in which the best candidate comes first. -/
theorem trowelCoresRunPictures : Obligations.TrowelCoresRunPictures := by
  refine ⟨?copy, ?take, ?again, ?join, divFor_divisions, ?boundary, ?time, ?error, ?nothing, ?pll, ?window, ?reach, ?best, ?qp⟩
  case copy =>
    intro s ctx c i hc hst hi hserves hruns
    obtain ⟨c', hc', hcopied, hpos, hqueue, hhbm, hhost, hothers⟩ := s.unitCopied_after (s.spanStacks c.tenant c.codec.poolOff (2 ^ 22)) hc i
    exact ⟨_, c', exec_bitstreamCopyDone_ok hc hst hi rfl hserves hruns, hhbm, hc', hcopied, hpos, hqueue, hhost, hothers⟩
  case take =>
    intro s k i run c d hrun hk hfree ha hrole hlead hshed hpick hc hgood hi
    obtain ⟨c', hc', hcodec, hstream, hqueue⟩ := State.takenOff_ctx hc
    obtain ⟨hself, hothers, hpll, -, hctxs⟩ :=
      (s.takenOff i).onCore_regate k (s.pictureItem i) 1 run ((s.takenOff i).divOf i d) ((s.takenOff i).streamOf i.ctx)
    rw [State.takenOff_core] at hself
    refine ⟨_, s.pictureItem i, (exec_trowelPictureStart_own hrun hk hfree ha hrole hlead d).trans
      (congrArg Host.Outcome.next ((State.startPic_takes hrole hshed hpick hc hgood d).trans (State.takePic_starts s k hi run d))), ?_⟩
    rw [hself]
    refine ⟨?now, rfl, rfl, rfl, rfl, rfl, rfl, Core.take_switches .., Core.take_switched .., ?stream, ?div, hpll, ?cores, ?queue⟩
    case now => exact congrArg (fun now => some (i.ctx, s.pictureItem i, now, 1)) (s.takenOff_now i)
    case stream => exact (State.streamOf_ctx hc').trans (congrArg some hstream)
    case div => exact hcodec ▸ State.divOf_ctx hc' d
    case cores => exact fun j hj => (hothers j hj).trans (congrArg Core.busy (s.takenOff_core i j))
    case queue =>
      intro c'' hc'' x hx
      have hsame : some c'' = some c' := hc''.symm.trans ((congrArg (Tbl.find? · i.ctx) hctxs).trans hc')
      rw [Option.some.inj hsame, hqueue] at hx
      exact bne_iff_ne.1 (List.mem_filter.1 hx).2
  case again =>
    intro s k a l d hrun hk hfree ha
    obtain ⟨hself, hothers, hpll, hagain, hctxs⟩ :=
      ({ s with trowel.again := s.trowel.again.drop 1 } : State).onCore_regate k a.2.1 a.2.2 1 (s.divOf a.2.1 d) (s.streamOf a.1)
    refine ⟨_, (exec_trowelPictureStart_again hrun hk hfree ha d).trans (congrArg Host.Outcome.next (s.takeAgain_starts k a d)), ?_, ?_, hpll, hothers, hctxs⟩
    · rw [hself]
      rfl
    · rw [hagain, ha]
      rfl
  case join =>
    intro s k i x n b r hrun hk hfree hj hx
    refine ⟨_, (exec_trowelPictureStart_join hrun hk hfree hj).trans (congrArg Host.Outcome.next (State.joinCore_joins hx s k i)), ?_, ?_, ?_,
      fun j hj => State.updCore_core_ne _ _ hj, rfl⟩
    all_goals
      rw [State.updCore_core_self]
      rfl
  case boundary =>
    intro s k cn i b run res hup hhold hserves hsafe hquiet hbusy _
    obtain ⟨lines, t, hexec, hpool⟩ := exec_codecFrameBoundary hup hhold hserves hsafe hquiet hbusy res
    obtain ⟨ps, htouch, -⟩ := s.touchStacks_eq (s.poolStacks cn)
    rw [htouch] at hpool
    have hcore (j : Nat) : (t.core j).busy = if j ∈ s.coresOf cn then none else (s.core j).busy :=
      (hpool.busy j).trans (State.freeCores_core ..)
    refine ⟨t, hexec, fun j hj => (hcore j).trans (if_pos hj), fun j hj => (hcore j).trans (if_neg hj), ?_⟩
    obtain ⟨cs, r, hfreed⟩ := ({ s with piers := ps } : State).freeCores_eq cn (s.picNs cn i res) lines
    rw [hpool.busyNs, hfreed]
  case time =>
    intro s cn i res c hc
    refine ⟨fun hi hh => State.picNs_encode hc hi hh, fun hi hb hh => ?_, fun hi hb hh => ?_⟩
    · rw [State.picNs_decode hc hi hb, hh, if_neg Bool.false_ne_true, Nat.mul_one]
    · rw [State.picNs_decode hc hi hb, hh, if_pos rfl]
  case error =>
    intro s k cn i run res cores ns ho
    exact ⟨fun hrun => State.finishPic_restarts ho hrun .., fun hrun hi => State.finishPic_aborts ho hrun hi ..⟩
  case nothing => exact fun s cn i res cores ns c hc hi he ho heos => State.decodeUnit_nothing hc hi he ho heos cores ns
  case pll => exact fun s hup hon hcores hunits hidle => exec_trowelPllStop hup hon hcores hunits hidle
  case window => decide
  case reach =>
    intro codec cur ref bx by'
    obtain ⟨⟨hx0, hx1⟩, hy0, hy1⟩ := (inReach_iff _ _).1 (searchUnit_inReach codec cur ref bx by')
    exact ⟨hx0, hx1, hy0, hy1⟩
  case best =>
    intro l b
    refine ⟨bestMv_eq_or_mem l b, fun c hc => ?_⟩
    have hbefore := (Mv.before_iff ..).1 ((bestMv_before l b).2 c hc)
    omega
  case qp =>
    intro x frame r hmin hmax
    obtain ⟨hlow, hhigh, hbetween⟩ := Codec.blockQp_region hmin hmax frame r
    exact ⟨hlow, hhigh, hbetween, rfl⟩

end Sys2Proof.Machine
end

section
/-! SUPPORT. Ledger contexts: CTX_QUERY, CTX_SHEDLOG and CTX_REBIND (R194, R197, R198). -/

namespace Sys2Proof.Machine

/-! ## CTX_QUERY and CTX_SHEDLOG -/

/-- The partition of the context is lost (R196); a context that draws on no partition has none to lose. -/
def State.ctxLost (s : State) (c : Ctx) : Bool := match c.res.bind s.part? with | some p => p.lost | none => false

/-- The payload of CTX_QUERY. -/
def State.queryReport (s : State) (c : Ctx) : List Byte :=
  leBytes 1 c.group ++ leBytes 1 c.cls ++ leBytes 2 c.part ++ leBytes 2 c.queue.length ++ leBytes 1 (boolN (s.ctxLost c)) ++ [0] ++
    leBytes 4 (unsigned 32 (c.tokens s.now / 25000000)) ++ leBytes 4 0 ++ leBytes 8 c.admitted ++ leBytes 8 c.deferred ++ leBytes 8 c.refused ++
    leBytes 4 c.late ++ leBytes 4 c.shed ++ leBytes 4 c.displaced ++ leBytes 4 c.guardExcess

/-- The payload of CTX_SHEDLOG from entry `start` of the loss log on. -/
def Ctx.shedReport (c : Ctx) (start : Nat) : List Byte :=
  leBytes 4 c.lossTotal ++ leBytes 1 ((c.losses.drop start).take 14).length ++ leBytes 3 0 ++ (((c.losses.drop start).take 14).map lossBytes).flatten

section
variable {s : State} {q : Req} {c : Ctx} (ho : s.ownCtx q = some c)
include ho

theorem State.ctxQuery_reports : s.ctxQuery q = (s, okR (s.queryReport c)) := by
  simp only [ctxQuery, ho]
  rfl

theorem State.ctxShedlog_reports : s.ctxShedlog q = (s, okR (c.shedReport (q.u8 2))) := by
  simp only [ctxShedlog, ho, Ctx.shedReport]

end

/-! ## CTX_REBIND -/

/-- A CTX_REBIND that comes to its comparison of images: context `c`, bound to partition `x` with plan `px`, goes to partition `d` of its own
tenant with plan `pd`, and no accepted operation holds the context or the destination. -/
structure State.Rebinds (s : State) (q : Req) (c : Ctx) (x d : Part) (px pd : Plan) : Prop where
  own : s.ownCtx q = some c
  source : s.part? c.part = some x
  destination : s.part? (q.u16 2) = some d
  group : c.group ≠ 6
  tenant : d.tenant = c.tenant
  ctxFree : s.held (2, q.u16 0) = false
  partFree : s.held (1, q.u16 2) = false
  sourcePlan : s.planOf x = some px
  destinationPlan : s.planOf d = some pd

/-- The state with the destination of a rebinding kept in the context. -/
def State.rebinding (s : State) (n p : Nat) : State := s.updCtx n fun c => { c with rebind := some p }

@[simp] theorem State.rebinding_mason (s : State) (n p : Nat) : (s.rebinding n p).mason = s.mason := State.updCtx_mason ..

@[simp] theorem State.rebinding_parts (s : State) (n p : Nat) : (s.rebinding n p).parts = s.parts := State.updCtx_parts ..

theorem State.rebinding_ctx_self {s : State} {n : Nat} {c : Ctx} (h : s.ctx? n = some c) (p : Nat) :
    (s.rebinding n p).ctx? n = some { c with rebind := some p } := State.updCtx_some h _

theorem State.rebinding_ctx_ne (s : State) {n k : Nat} (p : Nat) (h : k ≠ n) : (s.rebinding n p).ctx? k = s.ctx? k := State.updCtx_ctx_ne _ _ h

section
variable {s : State} {q : Req} {c : Ctx} {x d : Part} {px pd : Plan} (h : s.Rebinds q c x d px pd)
include h

theorem State.Rebinds.ctxRebind_otherImage (hne : pd.digest ≠ px.digest) : s.ctxRebind q = (s, failR St.incompatible) := by
  simp [ctxRebind, h.own, h.source, h.destination, h.group, h.tenant, h.ctxFree, h.partFree, h.sourcePlan, h.destinationPlan, hne]

/-- Below Guard no Guard check is made; while the source runs a job the context waits for its boundary point. -/
theorem State.Rebinds.ctxRebind_waits (heq : pd.digest = px.digest) (hcls : c.cls ≠ 0) (hlost : x.lost = false) (hjob : x.job ≠ none) :
    s.ctxRebind q = (s.rebinding (q.u16 0) (q.u16 2)).accept q (.ctxRebind (q.u16 0) (q.u16 2)) := by
  simp [ctxRebind, rebinding, h.own, h.source, h.destination, h.group, h.tenant, h.ctxFree, h.partFree, h.sourcePlan,
    h.destinationPlan, heq, hcls, hlost, hjob]

end

/-! ## Requests of their layout -/

section
variable {s : State} {m : Mb} {r : Req} (hl : r.len = 4)
include hl

theorem exec_ctxQuery (h : s.runs m 0x0305 true = some r) (hz : r.u16 2 = 0) :
    exec (.ctxQuery m) s = .next (((s.taken m).ctxQuery r).1.respond m 0x0305 r.tag ((s.taken m).ctxQuery r).2) :=
  congrArg Host.Outcome.next (State.mbRun_ok (lenIs 4 [(2, 2)]) State.ctxQuery h (lenIs_ok hl (List.forall_mem_singleton.2 hz)))

theorem exec_ctxShedlog (h : s.runs m 0x0306 true = some r) (hz : field r.pay 3 1 = 0) :
    exec (.ctxShedlog m) s = .next (((s.taken m).ctxShedlog r).1.respond m 0x0306 r.tag ((s.taken m).ctxShedlog r).2) :=
  congrArg Host.Outcome.next (State.mbRun_ok (lenIs 4 [(3, 1)]) State.ctxShedlog h (lenIs_ok hl (List.forall_mem_singleton.2 hz)))

theorem exec_ctxRebind (h : s.runs m 0x0304 true = some r) :
    exec (.ctxRebind m) s = .next (((s.taken m).ctxRebind r).1.respond m 0x0304 r.tag ((s.taken m).ctxRebind r).2) :=
  congrArg Host.Outcome.next (State.mbRun_ok (lenIs 4 []) State.ctxRebind h (lenIs_ok hl nofun))

end

/-- Settles O34: each command by its body on the state whose request was taken. -/
theorem contextReportsAndRebinding : Obligations.ContextReportsAndRebinding := by
  intro s m r c hl ho
  refine ⟨fun h hz => ?query, fun h hz => ?shedlog, fun d x pd px h hd hx hg ht hctxFree hpartFree hpd hpx => ?rebind⟩
  case query =>
    rw [exec_ctxQuery hl h hz, State.ctxQuery_reports (s := s.taken m) ho]
    rfl
  case shedlog =>
    rw [exec_ctxShedlog hl h hz, State.ctxShedlog_reports (s := s.taken m) ho]
    rfl
  case rebind =>
    have hre : (s.taken m).Rebinds r c x d px pd := ⟨ho, hx, hd, hg, ht, hctxFree, hpartFree, hpx, hpd⟩
    rw [exec_ctxRebind hl h]
    refine ⟨fun hne => ?otherImage, fun heq hcls hlost hjob hctx hop => ?sameImage⟩
    case otherImage =>
      rw [hre.ctxRebind_otherImage hne]
      rfl
    case sameImage =>
      have hmason := State.rebinding_mason (s.taken m) (r.u16 0) (r.u16 2)
      rw [hre.ctxRebind_waits heq hcls hlost hjob, State.accept_next (hmason ▸ hop), hmason]
      exact ⟨_, rfl, State.rebinding_ctx_self (s := s.taken m) hctx _, State.rebinding_parts .., fun k hk => State.rebinding_ctx_ne (s.taken m) _ hk⟩

end Sys2Proof.Machine
end

section
/-! SUPPORT. Sending on the fabric (R200, R201, R206, R208, R210): what sending leaves of the state and of every port, what the change of a port's
state leaves, and which packets leave. -/

namespace Sys2Proof.Machine

/-! ## What sending keeps -/

/-- A port without what sending changes: its counters, its retry buffer, what waits, the link sequence and the credits. -/
def FPort.line (f : FPort) : FPort := { f with ctr := [], retry := [], txSeq := 0, credits := 0, unpaid := [], waiting := [], owed := 0 }

/-- What sending does not change is the same where the rest of two ports is. -/
theorem FPort.line_keeps {γ : Type} (φ : FPort → γ) (hφ : ∀ f : FPort, φ f.line = φ f) {f g : FPort} (h : f.line = g.line) : φ f = φ g := by
  rw [← hφ f, h, hφ]

/-- The state without what sending changes: the ports, COUNTER, the routes kept and the frames sent. -/
def State.unsent (s : State) : State := { s with fab.ports := [], fab.counter := 0, fab.keeps := [], fab.sent := [] }

/-- `t` is `s` but for packets sent. -/
structure State.Transmits (s t : State) : Prop where
  rest : t.unsent = s.unsent
  line : ∀ q, (t.port q).line = (s.port q).line

namespace State.Transmits

theorem refl (s : State) : s.Transmits s := ⟨rfl, fun _ => rfl⟩

theorem trans {s t u : State} (h1 : s.Transmits t) (h2 : t.Transmits u) : s.Transmits u :=
  ⟨h2.rest.trans h1.rest, fun q => (h2.line q).trans (h1.line q)⟩

theorem of_fold {β : Type} {g : State → β → State} (h : ∀ s x, State.Transmits s (g s x)) (l : List β) : ∀ s, State.Transmits s (l.foldl g s) := by
  induction l with
  | nil => exact fun s => .refl s
  | cons x l ih => exact fun s => (h s x).trans (ih _)

variable {s t : State} (h : s.Transmits t)
include h

theorem keeps {γ : Type} (φ : State → γ) (hφ : ∀ s : State, φ s.unsent = φ s) : φ t = φ s := by rw [← hφ t, h.rest, hφ]
theorem port_keeps {γ : Type} (φ : FPort → γ) (hφ : ∀ f : FPort, φ f.line = φ f) (q : Nat) : φ (t.port q) = φ (s.port q) :=
  FPort.line_keeps φ hφ (h.line q)

theorem now : t.now = s.now := h.keeps State.now fun _ => rfl
theorem parts : t.parts = s.parts := h.keeps State.parts fun _ => rfl
theorem mem : t.mem = s.mem := h.keeps State.mem fun _ => rfl
theorem ownId : t.ownId = s.ownId := h.keeps State.ownId fun _ => rfl
theorem state (q : Nat) : (t.port q).state = (s.port q).state := h.port_keeps FPort.state (fun _ => rfl) q
theorem rx (q : Nat) : (t.port q).rx = (s.port q).rx := h.port_keeps FPort.rx (fun _ => rfl) q

/-- Sending is an emission. -/
theorem emits : s.Emits t :=
  .of_eq <| calc t = t.unsent.emitted t.emission := rfl
    _ = s.unsent.emitted t.emission := by rw [h.rest]
    _ = s.emitted t.emission := rfl

end State.Transmits

theorem State.updPort_transmits {s : State} {p : Nat} {g : FPort → FPort} (hg : (g (s.port p)).line = (s.port p).line) : s.Transmits (s.updPort p g) := by
  refine ⟨rfl, fun q => ?_⟩
  by_cases hq : q = p
  · rw [hq, State.updPort_port_self, hg]
  · rw [State.updPort_port_ne _ _ hq]

theorem FPort.send_line (f : FPort) (x : Packet) : (f.send x).line = f.line := by
  unfold FPort.line FPort.send FPort.count
  rfl

theorem State.pumpPort_transmits (p : Nat) (l : List Packet) : ∀ s : State, s.Transmits (s.pumpPort p l) := by
  induction l with
  | nil => exact fun s => State.updPort_transmits rfl
  | cons x l ih =>
    intro s
    unfold pumpPort
    split
    · have hsend : s.Transmits (s.updPort p fun f => f.send x) := State.updPort_transmits (FPort.send_line ..)
      have hnoted (u : State) (l : List (Nat × Frame)) : u.Transmits { u with fab.sent := l } := ⟨rfl, fun _ => rfl⟩
      exact (hsend.trans (hnoted ..)).trans (ih _)
    · exact State.updPort_transmits rfl

theorem State.sendOn_transmits (s : State) (p : Nat) (x : Packet) : s.Transmits (s.sendOn p x) := State.pumpPort_transmits ..

theorem State.sendLocal_transmits (s : State) (p : Nat) (x : Packet) : s.Transmits (s.sendLocal p x) := by
  have hcount : s.Transmits { s with fab.counter := s.fab.counter + 1 } := ⟨rfl, fun _ => rfl⟩
  exact hcount.trans (State.sendOn_transmits ..)

theorem State.sendRouted_transmits (s : State) (x : Packet) : s.Transmits (s.sendRouted x) := by
  unfold sendRouted
  split
  · exact State.updPort_transmits rfl
  · refine State.Transmits.trans ?_ (State.sendOn_transmits ..)
    exact ⟨rfl, fun _ => rfl⟩

theorem State.floodPort_transmits (s : State) (p : Nat) : s.Transmits (s.floodPort p) :=
  .of_fold (fun _ _ => State.sendRouted_transmits ..) _ _

/-- The same change of a port before and after sending. -/
theorem State.Transmits.updPort {s t : State} (h : s.Transmits t) (p : Nat) {g : FPort → FPort}
    (hg : ∀ f f' : FPort, f.line = f'.line → (g f).line = (g f').line) : (s.updPort p g).Transmits (t.updPort p g) := by
  refine ⟨h.rest, fun q => ?_⟩
  by_cases hq : q = p
  · rw [hq, State.updPort_port_self, State.updPort_port_self]
    exact hg _ _ (h.line p)
  · rw [State.updPort_port_ne _ _ hq, State.updPort_port_ne _ _ hq, h.line]

/-! ## A port's state -/

/-- The state a port takes, before it is flooded. -/
def State.portState (s : State) (p st : Nat) : State := s.updPort p fun f => { f with state := st }

/-- Beside the port's new state, a change of state only sends. -/
theorem State.setPort_transmits (s : State) (p st : Nat) : (s.portState p st).Transmits (s.setPort p st) := by
  unfold setPort
  split
  · next h =>
    refine ⟨rfl, fun q => ?_⟩
    by_cases hq : q = p
    · rw [hq, portState, State.updPort_port_self, ← eq_of_beq h]
    · rw [portState, State.updPort_port_ne _ _ hq]
  · exact State.floodPort_transmits ..

theorem State.setPort_line (s : State) (p st : Nat) : ((s.setPort p st).port p).line = { (s.port p).line with state := st } := by
  rw [(s.setPort_transmits p st).line, portState, State.updPort_port_self]
  rfl

theorem State.setPort_state (s : State) (p st : Nat) : ((s.setPort p st).port p).state = st := by
  rw [(s.setPort_transmits p st).state, portState, State.updPort_port_self]

theorem State.setPort_line_ne (s : State) {p q : Nat} (st : Nat) (h : q ≠ p) : ((s.setPort p st).port q).line = (s.port q).line := by
  rw [(s.setPort_transmits p st).line, portState, State.updPort_port_ne _ _ h]

theorem State.setPort_same {s : State} {p st : Nat} (h : (s.port p).state = st) : s.setPort p st = s := if_pos (beq_iff_eq.2 h)

/-- What neither the ports nor sending touch stays when a port's state changes. -/
theorem State.setPort_keeps {γ : Type} (φ : State → γ) (hφ : ∀ s : State, φ s.unsent = φ s) (s : State) (p st : Nat) : φ (s.setPort p st) = φ s := by
  have h : (s.setPort p st).unsent = s.unsent := (s.setPort_transmits p st).rest.trans rfl
  rw [← hφ, h, hφ]

theorem State.setPort_host (s : State) (p st : Nat) : (s.setPort p st).host = s.host := State.setPort_keeps State.host (fun _ => rfl) ..
theorem State.setPort_now (s : State) (p st : Nat) : (s.setPort p st).now = s.now := State.setPort_keeps State.now (fun _ => rfl) ..
theorem State.setPort_mason (s : State) (p st : Nat) : (s.setPort p st).mason = s.mason := State.setPort_keeps State.mason (fun _ => rfl) ..

/-! ## Packets that leave -/

/-- A packet with at most a credit's worth of payload takes one credit. -/
theorem creditsOf_short {x : Packet} (h : x.payload.length ≤ 4040) : creditsOf x = 1 := by
  unfold creditsOf frameBytes ceilDiv
  omega

/-- The packet of one hop on a port. -/
def oneHopPacket (x : Packet) (p counter : Nat) : Packet := { x with hop := 1, hopCount := 1, route := [p], counter }

/-- With a credit and nothing before it, a short packet of one hop leaves. -/
theorem State.sendLocal_sent {s : State} {p : Nat} {x : Packet} (hw : (s.port p).waiting = []) (hc : 1 ≤ (s.port p).credits)
    (hx : x.payload.length ≤ 4040) : (s.sendLocal p x).fab.sent = (p, (s.port p).frame (oneHopPacket x p s.fab.counter)) :: s.fab.sent := by
  have hone : creditsOf (oneHopPacket x p s.fab.counter) = 1 := creditsOf_short (x := oneHopPacket x p s.fab.counter) hx
  obtain ⟨hsent, -⟩ := State.sendOn_sends { s with fab.counter := s.fab.counter + 1 } p (oneHopPacket x p s.fab.counter) hw (by rw [hone]; exact hc)
  exact hsent

/-- Sending on a port leaves every other port as it was. -/
theorem State.pumpPort_port_ne {p q : Nat} (h : q ≠ p) (l : List Packet) : ∀ s : State, (s.pumpPort p l).port q = s.port q := by
  induction l with
  | nil => exact fun s => State.updPort_port_ne _ _ h
  | cons x l ih =>
    intro s
    unfold pumpPort
    split
    · rw [ih]
      exact State.updPort_port_ne s (fun f => f.send x) h
    · exact State.updPort_port_ne _ _ h

/-- A trace to another module begins on a usable port. -/
theorem State.traceOk_usable {s : State} {dest : Nat} {r : List Nat} (hd : dest ≠ s.ownId) (h : s.traceOk dest s.ownId r = true) :
    ∃ p l, r = p :: l ∧ portUsable (s.port p).state = true := by
  cases r with
  | nil => exact absurd (eq_of_beq h).symm hd
  | cons p l =>
    rw [traceOk, Bool.and_eq_true] at h
    obtain ⟨hlink, -⟩ := h
    rw [linkOk, if_pos (beq_self_eq_true _)] at hlink
    exact ⟨p, l, rfl, hlink⟩

/-- The route picked to another module begins on a usable port (R210). -/
theorem State.pickRoute_usable {s : State} {dest origin ctx : Nat} {r : Nat × Nat × List Nat} (hd : dest ≠ s.ownId)
    (h : s.pickRoute dest origin ctx = some r) : portUsable (s.port (r.2.2.getD 0 0)).state = true := by
  have hmem : r ∈ (s.routesTo dest).filter (s.routeOk dest) := by
    unfold pickRoute at h
    dsimp only at h
    split at h
    · split at h
      · cases h
        exact List.mem_of_find?_eq_some ‹_›
      · exact List.mem_of_mem_head? h
    · exact List.mem_of_mem_head? h
  have hok := (List.mem_filter.1 hmem).2
  rw [routeOk, Bool.and_eq_true] at hok
  obtain ⟨p, l, hr, hp⟩ := State.traceOk_usable hd hok.2
  cases hports : r.2.2 with
  | nil => rw [hports, List.take_nil] at hr; cases hr
  | cons q k =>
    rw [hports] at hr
    have hq : q = p := by
      cases hn : r.2.1 with
      | zero => rw [hn] at hr; cases hr
      | succ n => rw [hn, List.take_succ_cons] at hr; exact (List.cons.inj hr).1
    rw [List.getD_cons_zero, hq]
    exact hp

/-- A packet to another module leaves the retry buffer of a port that is not in use. -/
theorem State.sendRouted_retry {s : State} {p : Nat} {x : Packet} (hd : x.dest ≠ s.ownId) (hp : portUsable (s.port p).state = false) :
    ((s.sendRouted x).port p).retry = (s.port p).retry := by
  unfold sendRouted
  split
  · by_cases h : p = s.firstPort x.dest
    · rw [← h, State.updPort_port_self]
      rfl
    · rw [State.updPort_port_ne _ _ h]
  · next r hr =>
    have hne : p ≠ r.2.2.getD 0 0 := fun h => by
      rw [h, State.pickRoute_usable hd hr] at hp
      cases hp
    exact congrArg FPort.retry (State.pumpPort_port_ne hne ..)

/-- The flood of a port's state leaves the retry buffer of a port that is not in use. -/
theorem State.floodPort_retry {s : State} {p : Nat} (hp : portUsable (s.port p).state = false) :
    ((s.floodPort p).port p).retry = (s.port p).retry := by
  have hvault : ∀ m ∈ s.vault, m ≠ s.ownId := fun m hm => by simpa using (List.mem_filter.1 hm).2
  unfold floodPort
  generalize s.vault = l at hvault
  induction l generalizing s with
  | nil => rfl
  | cons m l ih =>
    rw [List.foldl_cons]
    generalize hx : ({ s.newPacket m 0x21 with payload := _ } : Packet) = x
    have hdest : x.dest = m := by rw [← hx]; rfl
    have hsent := s.sendRouted_transmits x
    have hm : x.dest ≠ s.ownId := hdest ▸ hvault m (List.mem_cons_self ..)
    rw [ih (by rw [hsent.state]; exact hp) fun k hk => by rw [hsent.ownId]; exact hvault k (List.mem_cons_of_mem _ hk)]
    exact State.sendRouted_retry hm hp

end Sys2Proof.Machine
end

section
/-! SUPPORT. The width and the service of a fabric port (R202-R204): what the width depends on, what a port that leaves service keeps, and the test of
its lanes. -/

namespace Sys2Proof.Machine

/-! ## The width in use -/

/-- What the width of a port depends on, of its own: the spare, the lanes with a lasting fault, the lane under test. -/
def FPort.lanes (f : FPort) : Nat × List Nat × Option Nat := (f.spareFor, f.badLanes, f.testing)

/-- A change that leaves a port's lanes, its state and every other port leaves its width. -/
theorem State.portWidth_congr {s t : State} {p : Nat} (hp : (t.port p).lanes = (s.port p).lanes) (hq : ∀ q, q ≠ p → t.port q = s.port q) :
    t.portWidth p = s.portWidth p := by
  simp only [FPort.lanes, Prod.mk.injEq] at hp
  obtain ⟨hspare, hbad, htest⟩ := hp
  have hcleaned : t.spareCleaned p = s.spareCleaned p := by
    unfold spareCleaned
    congr 1
    funext q
    by_cases h : q = p
    · simp [h]
    · rw [hq q h]
  have hlane (test : Option Nat) (l : Nat) : t.laneWhole p test l = s.laneWhole p test l := by
    unfold laneWhole
    dsimp only
    rw [hspare, hbad, hcleaned]
  have hwidth (test : Option Nat) : t.widthUnder p test = s.widthUnder p test := by
    unfold widthUnder
    simp only [hlane]
  unfold portWidth
  rw [htest, hwidth, hwidth]

theorem State.updPort_portWidth {s : State} {p : Nat} {g : FPort → FPort} (hg : (g (s.port p)).lanes = (s.port p).lanes) :
    (s.updPort p g).portWidth p = s.portWidth p :=
  State.portWidth_congr (by rw [State.updPort_port_self, hg]) fun _ hq => State.updPort_port_ne _ _ hq

/-- The port's state is that of the lanes in service (R203), or INSPECT. -/
def State.WidthServed (s : State) (p : Nat) : Prop :=
  s.portWidth p ≠ 0 ∧ ((s.port p).state = 4 ∨ (s.port p).state = if s.portWidth p = 8 then 2 else 3)

theorem State.WidthServed.usable {s : State} {p : Nat} (h : s.WidthServed p) : portUsable (s.port p).state = true := by
  obtain ⟨-, hstate | hstate⟩ := h
  · rw [hstate]; rfl
  · rw [hstate]; split <;> rfl

theorem State.WidthServed.congr {s t : State} {p : Nat} (h : s.WidthServed p) (hw : t.portWidth p = s.portWidth p)
    (hs : (t.port p).state = (s.port p).state) : t.WidthServed p := by
  unfold WidthServed
  rw [hw, hs]
  exact h

theorem State.WidthServed.updPort {s : State} {p : Nat} (h : s.WidthServed p) {g : FPort → FPort} (hg : (g (s.port p)).lanes = (s.port p).lanes)
    (hs : (g (s.port p)).state = (s.port p).state) : (s.updPort p g).WidthServed p :=
  h.congr (State.updPort_portWidth hg) (by rw [State.updPort_port_self, hs])

/-- With its ports unchanged a state serves the same widths. -/
theorem State.WidthServed.ports {s t : State} {p : Nat} (h : s.WidthServed p) (ht : t.fab = s.fab) : t.WidthServed p := by
  have hport (q : Nat) : t.port q = s.port q := by rw [port, ht, port]
  exact h.congr (State.portWidth_congr (by rw [hport]) fun q _ => hport q) (by rw [hport])

/-- A usable port with a whole half is UP or HALF by its width, where it is not in INSPECT. -/
theorem State.setWidth_whole {s : State} {p : Nat} (hu : portUsable (s.port p).state = true) (hw : s.portWidth p ≠ 0) :
    s.setWidth p = if (s.port p).state == 4 then s else s.setPort p (if s.portWidth p = 8 then 2 else 3) := by
  obtain ⟨w, hsucc⟩ := Nat.exists_eq_succ_of_ne_zero hw
  unfold setWidth
  simp only [hu, Bool.not_true, Bool.false_eq_true, if_false, hsucc, beq_iff_eq]

/-- A port that is in the state of its lanes stays in it. -/
theorem State.WidthServed.setWidth {s : State} {p : Nat} (h : s.WidthServed p) : s.setWidth p = s := by
  obtain ⟨hwidth, hstate⟩ := id h
  rw [State.setWidth_whole h.usable hwidth]
  rcases hstate with hstate | hstate
  · exact if_pos (beq_iff_eq.2 hstate)
  · split
    · rfl
    · exact State.setPort_same hstate

/-- While a lane is under test no other test begins. -/
theorem State.WidthServed.nextLane {s : State} {p : Nat} (h : s.WidthServed p) (ht : (s.port p).testing.isSome = true) : s.nextLane p = s := by
  rw [State.nextLane, if_pos ht, h.setWidth]

/-! ## Leaving service (R202) -/

/-- A port out of service: its frames are discarded, no lane is under test, no retrain runs and no inspection is near. -/
def FPort.outOfService (f : FPort) : FPort := { f.dropFrames with retraining := false, inspectAt := [], testing := none }

theorem FPort.dropFrames_ctr (f : FPort) : f.dropFrames.ctr.get 0 6 = sat64 (f.ctr.get 0 6) (f.retry.length + f.rx.length + f.waiting.length) :=
  Tbl.get_set_self ..

/-- What a port that leaves service is left with, beside what sending changes, and every other port. -/
theorem State.portDown_line (s : State) (p cause st : Nat) (fin : Bool) (q : Nat) :
    ((s.portDown p cause st fin).port q).line = ((s.updPort p fun f => { f.outOfService with state := st }).port q).line := by
  have hset (u : State) (hu : ∀ q, u.port q = (s.updPort p FPort.outOfService).port q) :
      ((u.setPort p st).port q).line = ((s.updPort p fun f => { f.outOfService with state := st }).port q).line := by
    by_cases hq : q = p
    · rw [hq, State.setPort_line, hu, State.updPort_port_self, State.updPort_port_self]
      rfl
    · rw [State.setPort_line_ne _ _ hq, hu, State.updPort_port_ne _ _ hq, State.updPort_port_ne _ _ hq]
  have hfin (u : State) : (if fin then u.finishOps (portOp p) St.abortedFault else u).port q = u.port q := by
    split
    · rw [port, State.finishOps_fab, port]
    · rfl
  unfold portDown
  dsimp only
  rw [hfin]
  split
  · exact hset _ fun q => by rw [port, State.post_fab]; rfl
  · exact hset _ fun q => rfl

theorem State.portDown_line_self (s : State) (p cause st : Nat) (fin : Bool) :
    ((s.portDown p cause st fin).port p).line = ({ (s.port p).outOfService with state := st } : FPort).line := by
  rw [State.portDown_line, State.updPort_port_self]

theorem State.portDown_line_ne (s : State) {p q : Nat} (cause st : Nat) (fin : Bool) (h : q ≠ p) :
    ((s.portDown p cause st fin).port q).line = (s.port q).line := by
  rw [State.portDown_line, State.updPort_port_ne _ _ h]

theorem State.portDown_state (s : State) (p cause st : Nat) (fin : Bool) : ((s.portDown p cause st fin).port p).state = st :=
  FPort.line_keeps FPort.state (fun _ => rfl) (s.portDown_line_self p cause st fin)

theorem State.portDown_rx (s : State) (p cause st : Nat) (fin : Bool) : ((s.portDown p cause st fin).port p).rx = [] :=
  FPort.line_keeps FPort.rx (fun _ => rfl) (s.portDown_line_self p cause st fin)

theorem State.portDown_state_ne (s : State) {p q : Nat} (cause st : Nat) (fin : Bool) (h : q ≠ p) :
    ((s.portDown p cause st fin).port q).state = (s.port q).state :=
  FPort.line_keeps FPort.state (fun _ => rfl) (s.portDown_line_ne cause st fin h)

/-- Leaving service is an emission, until the commands on the port end. -/
theorem State.portDown_emits (s : State) (p cause st : Nat) : s.Emits (s.portDown p cause st false) := by
  have hset (u : State) : u.Emits (u.setPort p st) := (State.updPort_emits ..).trans (u.setPort_transmits p st).emits
  unfold portDown
  simp only [Bool.false_eq_true, if_false]
  refine .trans (State.updPort_emits s p FPort.outOfService) (.trans ?_ (hset _))
  split
  · exact State.post_emits ..
  · exact .refl _

theorem State.portDown_mason (s : State) (p cause st : Nat) : (s.portDown p cause st false).mason = s.mason :=
  (s.portDown_emits p cause st).keeps State.mason fun _ => rfl

theorem State.portDown_parts (s : State) (p cause st : Nat) : (s.portDown p cause st false).parts = s.parts :=
  (s.portDown_emits p cause st).keeps State.parts fun _ => rfl

/-- The commands on a port that goes out of use end with ABORTED_FAULT (R202; log 42). -/
theorem State.portDown_fin (s : State) (p cause st : Nat) :
    s.portDown p cause st true = (s.portDown p cause st false).finishOps (portOp p) 0x10 := rfl

/-! ## What service leaves -/

/-- A port without what its service changes: its state and its traffic, the lane under test, a retrain, an inspection that is near. -/
def FPort.plant (f : FPort) : FPort :=
  { f.line with state := 0, testing := none, rx := [], nak := none, replayTimes := [], retraining := false, inspectAt := [] }

theorem FPort.plant_of_line {f g : FPort} (h : f.line = g.line) : f.plant = g.plant := by
  unfold plant
  rw [h]

theorem FPort.outOfService_plant (f : FPort) (st : Nat) : ({ f.outOfService with state := st } : FPort).plant = f.plant := by
  unfold plant line outOfService dropFrames count
  rfl

/-- `t` is `s` but for an emission and commands that ended. -/
def State.Reports (s t : State) : Prop := ∃ x l, t = { s.emitted x with mason.ops := l }

namespace State.Reports

theorem of_emits {s t : State} (h : s.Emits t) : s.Reports t := by
  obtain ⟨x, rfl⟩ := h
  exact ⟨x, s.mason.ops, rfl⟩

theorem trans {s t u : State} (h1 : s.Reports t) (h2 : t.Reports u) : s.Reports u := by
  obtain ⟨x, l, rfl⟩ := h1
  obtain ⟨y, k, rfl⟩ := h2
  exact ⟨y, k, rfl⟩

theorem keeps {γ : Type} {s t : State} (h : s.Reports t) (φ : State → γ) (hφ : ∀ x l, φ { s.emitted x with mason.ops := l } = φ s) : φ t = φ s := by
  obtain ⟨x, l, rfl⟩ := h
  exact hφ x l

end State.Reports

theorem State.portDown_reports (s : State) (p cause st : Nat) : s.Reports (s.portDown p cause st true) :=
  .trans (.of_emits (s.portDown_emits p cause st)) (State.finishOps_shape ..)

/-- A port whose width is set again is UP or HALF, out of service, or as it was. -/
theorem State.setWidth_cases (s : State) (p : Nat) :
    s.setWidth p = s ∨ (∃ st, s.setWidth p = s.setPort p st) ∨ ∃ cause, s.setWidth p = s.portDown p cause 0 true := by
  by_cases hu : portUsable (s.port p).state = true
  · by_cases hw : s.portWidth p = 0
    · refine .inr (.inr ⟨Config.unstated 10 [p] % 256, ?_⟩)
      unfold setWidth
      simp only [hu, hw, Bool.not_true, Bool.false_eq_true, if_false]
    · rw [State.setWidth_whole hu hw]
      split
      · exact .inl rfl
      · exact .inr (.inl ⟨_, rfl⟩)
  · exact .inl (if_pos (by simpa using hu))

theorem State.setWidth_reports (s : State) (p : Nat) : s.Reports (s.setWidth p) := by
  rcases s.setWidth_cases p with h | ⟨st, h⟩ | ⟨cause, h⟩ <;> rw [h]
  · exact .of_emits (.refl s)
  · exact .of_emits ((State.updPort_emits ..).trans (s.setPort_transmits p st).emits)
  · exact State.portDown_reports ..

theorem State.setWidth_plant (s : State) (p : Nat) : ((s.setWidth p).port p).plant = (s.port p).plant := by
  rcases s.setWidth_cases p with h | ⟨st, h⟩ | ⟨cause, h⟩ <;> rw [h]
  · rw [FPort.plant, State.setPort_line, FPort.plant]
  · rw [FPort.plant_of_line (State.portDown_line_self ..), FPort.outOfService_plant]

theorem State.setWidth_line_ne (s : State) {p q : Nat} (hq : q ≠ p) : ((s.setWidth p).port q).line = (s.port q).line := by
  rcases s.setWidth_cases p with h | ⟨st, h⟩ | ⟨cause, h⟩ <;> rw [h]
  · exact State.setPort_line_ne _ _ hq
  · exact State.portDown_line_ne _ _ _ _ hq

/-- The widths of the other ports in a row leave the port whose spare they share (R336). -/
theorem State.widthsInRow_line (s : State) (p : Nat) : ((s.widthsInRow p).port p).line = (s.port p).line := by
  refine foldl_keeps (fun (s : State) q => if q == p then s else s.setWidth q) (fun s => (s.port p).line) (fun s q => ?_) _ _
  split
  · rfl
  · next h => exact State.setWidth_line_ne _ fun e => h (beq_iff_eq.2 e.symm)

/-- The next lane's test changes its port's test and what service changes. -/
theorem State.nextLane_spec (s : State) (p : Nat) : s.Reports (s.nextLane p) ∧ ((s.nextLane p).port p).plant = (s.port p).plant := by
  unfold nextLane
  split
  · exact ⟨s.setWidth_reports p, s.setWidth_plant p⟩
  · split
    · refine ⟨.trans (.of_emits (State.updPort_emits ..)) (State.setWidth_reports ..), ?_⟩
      rw [State.setWidth_plant, State.updPort_port_self]
      rfl
    · exact ⟨s.setWidth_reports p, s.setWidth_plant p⟩

end Sys2Proof.Machine
end

section
/-! SUPPORT. Fabric ports: bring-up, HELLO, frames, replays and retrains (R201, R202, R205, R335). -/

namespace Sys2Proof.Machine

theorem State.post_port (s : State) (code kind id : Nat) (d : List Byte) (q : Nat) : (s.post code kind id d).port q = s.port q := by
  rw [port, State.post_fab, port]

/-! ## HELLO -/

/-- A HELLO notes its time and sends. -/
theorem State.sendHello_transmits (s : State) (p : Nat) : (s.updPort p fun f => { f with helloAt := s.now }).Transmits (s.sendHello p) := by
  refine State.Transmits.trans (t := s.updPort p fun f => { f with helloAt := s.now, credits := 256, unpaid := [], waiting := [] }) ⟨rfl, fun q => ?_⟩
    (State.sendLocal_transmits ..)
  by_cases hq : q = p
  · rw [hq, State.updPort_port_self, State.updPort_port_self]
    rfl
  · rw [State.updPort_port_ne _ _ hq, State.updPort_port_ne _ _ hq]

/-- The HELLO names the module and the port. -/
theorem State.sendHello_sent (s : State) (p : Nat) : ∃ x, (s.sendHello p).fab.sent = (p, x) :: s.fab.sent ∧ x.pkt.type = 0x20 ∧
    x.pkt.payload = [BitVec.ofNat 8 s.ownId, BitVec.ofNat 8 p] := by
  unfold sendHello
  generalize hx : ({ s.newPacket _ 0x20 with payload := _ } : Packet) = x
  have hpay : x.payload = [BitVec.ofNat 8 s.ownId, BitVec.ofNat 8 p] := by rw [← hx]; rfl
  have hport := State.updPort_port_self s p fun f => { f with helloAt := s.now, credits := 256, unpaid := [], waiting := [] }
  refine ⟨_, State.sendLocal_sent (by rw [hport]) (by rw [hport]; exact Nat.le_of_ble_eq_true rfl) (by rw [hpay]; exact Nat.le_of_ble_eq_true rfl), ?_, hpay⟩
  change x.type = 0x20
  rw [← hx]
  rfl

/-- A port that is brought up is TRAINING on its wavelengths, its HELLO sent now. -/
theorem State.bringUp_transmits (s : State) (p : Nat) :
    (s.updPort p fun f => { f with wave := (s.topo p).map fun t => wavelengths s.ownId t.2.1, state := 1, helloAt := s.now }).Transmits (s.bringUp p) := by
  have hnow : ((s.setWave p).setPort p 1).now = s.now := State.setPort_now ..
  have hset := ((s.setWave p).setPort_transmits p 1).updPort p (g := fun f => { f with helloAt := s.now }) fun f f' h => by
    have hline (f : FPort) : ({ f with helloAt := s.now } : FPort).line = { f.line with helloAt := s.now } := rfl
    rw [hline, hline, h]
  have hhello := ((s.setWave p).setPort p 1).sendHello_transmits p
  rw [hnow] at hhello
  have hstart : (s.updPort p fun f => { f with wave := (s.topo p).map fun t => wavelengths s.ownId t.2.1, state := 1, helloAt := s.now }).Transmits
      (((s.setWave p).portState p 1).updPort p fun f => { f with helloAt := s.now }) := by
    unfold portState setWave
    refine ⟨rfl, fun q => ?_⟩
    by_cases hq : q = p
    · rw [hq, State.updPort_port_self, State.updPort_port_self, State.updPort_port_self, State.updPort_port_self]
    · rw [State.updPort_port_ne _ _ hq, State.updPort_port_ne _ _ hq, State.updPort_port_ne _ _ hq, State.updPort_port_ne _ _ hq]
  exact hstart.trans (hset.trans hhello)

theorem State.bringUp_line (s : State) (p : Nat) : ((s.bringUp p).port p).line =
    ({ s.port p with wave := (s.topo p).map fun t => wavelengths s.ownId t.2.1, state := 1, helloAt := s.now } : FPort).line := by
  rw [(s.bringUp_transmits p).line, State.updPort_port_self]

theorem State.bringUp_line_ne (s : State) {p q : Nat} (h : q ≠ p) : ((s.bringUp p).port q).line = (s.port q).line := by
  rw [(s.bringUp_transmits p).line, State.updPort_port_ne _ _ h]

theorem State.bringUp_sent (s : State) (p : Nat) : ∃ x l, (s.bringUp p).fab.sent = (p, x) :: l ∧ x.pkt.type = 0x20 ∧
    x.pkt.payload = [BitVec.ofNat 8 s.ownId, BitVec.ofNat 8 p] := by
  obtain ⟨x, hsent, htype, hpay⟩ := ((s.setWave p).setPort p 1).sendHello_sent p
  have hown : ((s.setWave p).setPort p 1).ownId = s.ownId := State.setPort_keeps State.ownId (fun _ => rfl) ..
  rw [hown] at hpay
  exact ⟨x, _, hsent, htype, hpay⟩

/-- The link starts anew: both sequences at 0, nothing held or owed. -/
def FPort.freshLink (f : FPort) (now : Tick) : FPort :=
  { f with retry := [], rx := [], txSeq := 0, rxSeq := 0, nak := none, credits := 256, unpaid := [], waiting := [], owed := 0, upAt := now, rebase := f.rebase || f.berBase.isEmpty }

/-- The time of a HELLO is noted. -/
def State.greeted (s : State) (p : Nat) : State := s.updPort p fun f => { f with helloAt := s.now }

/-- The port is UP after its HELLO. -/
def State.linkUp (s : State) (p : Nat) : State := ((s.greeted p).updPort p fun f => f.freshLink s.now).setPort p 2

theorem State.linkUp_line (s : State) (p : Nat) :
    ((s.linkUp p).port p).line = { (({ s.port p with helloAt := s.now } : FPort).freshLink s.now).line with state := 2 } := by
  rw [linkUp, State.setPort_line, greeted, State.updPort_port_self, State.updPort_port_self]

theorem State.linkUp_port (s : State) (p : Nat) : ((s.linkUp p).port p).state = 2 ∧ ((s.linkUp p).port p).rxSeq = 0 ∧
    ((s.linkUp p).port p).rx = [] ∧ ((s.linkUp p).port p).upAt = s.now := by
  have hline : ((s.linkUp p).port p).line = ({ ({ s.port p with helloAt := s.now } : FPort).freshLink s.now with state := 2 } : FPort).line := s.linkUp_line p
  rw [FPort.line_keeps FPort.state (fun _ => rfl) hline, FPort.line_keeps FPort.rxSeq (fun _ => rfl) hline,
    FPort.line_keeps FPort.rx (fun _ => rfl) hline, FPort.line_keeps FPort.upAt (fun _ => rfl) hline]
  exact ⟨rfl, rfl, rfl, rfl⟩

theorem State.linkUp_host (s : State) (p : Nat) : (s.linkUp p).host = s.host := State.setPort_host ..
theorem State.linkUp_now (s : State) (p : Nat) : (s.linkUp p).now = s.now := State.setPort_now ..
theorem State.linkUp_mason (s : State) (p : Nat) : (s.linkUp p).mason = s.mason := State.setPort_mason ..

/-- A port with all its lanes comes UP. -/
theorem State.portUp_eight {s : State} {p : Nat} (h : s.portWidth p = 8) :
    s.portUp p = (((s.updPort p fun f => f.freshLink s.now).setPort p 2).post 0x0D01 5 p [8]).finishOps (portOp p) 0x00 := by
  unfold portUp
  simp only [h]
  rfl

section
variable {s : State} {p : Nat} (hon : s.portOn p = true)
include hon

theorem exec_portLightDetect (h : (s.port p).state = 0) : exec (.portLightDetect p) s = .next (s.bringUp p) := by
  have hx : exec (.portLightDetect p) s = execPortLightDetect p s := rfl
  rw [hx, execPortLightDetect, hon, h]
  rfl

theorem exec_lightLoss (h : [1, 2, 3, 4, 6, 7].contains (s.port p).state = true) : exec (.lightLoss p) s = .next ((s.portDown p 0 0 false).finishOps (portOp p) 0x10) := by
  have hx : exec (.lightLoss p) s = execLightLoss p s := rfl
  rw [hx, execLightLoss, hon, h, ← State.portDown_fin]
  rfl

theorem exec_helloRetry (h : (s.port p).state = 6 ∨ (s.port p).state = 7) (ht : 250000000 ≤ s.now - (s.port p).helloAt) :
    exec (.helloRetry p) s = .next (s.sendHello p) := by
  have hx : exec (.helloRetry p) s = execHelloRetry p s := rfl
  have hstate : ((s.port p).state == 6 || (s.port p).state == 7) = true := by simpa using h
  have hlong : decide (tS 10 ≤ s.since (s.port p).helloAt) = true := decide_eq_true ht
  rw [hx, execHelloRetry, hon, hstate, hlong]
  rfl

section
variable (h : (s.port p).state = 6 ∨ (s.port p).state = 7 ∨ ((s.port p).state = 1 ∧ (s.port p).retraining = false)) (n np : Nat)
include h

theorem exec_hello (key : Bool) : exec (.hello p n np key) s = .next
    (if !key then (if (s.port p).state == 7 then s.greeted p else ((s.greeted p).setPort p 7).post 0x0D09 5 p [])
    else if (s.topo p).map (fun t => t.2) != some (n, np) then
      (if (s.port p).state == 6 then s.greeted p else ((s.greeted p).setPort p 6).post 0x0D08 5 p (leBytes 1 n ++ leBytes 1 np))
    else (s.greeted p).portUp p) := by
  have hx : exec (.hello p n np key) s = execHello p n np key s := rfl
  have hstate : (((s.port p).state == 1 && !(s.port p).retraining) || (s.port p).state == 6 || (s.port p).state == 7) = true := by
    rcases h with h | h | ⟨h, hr⟩
    · simp [h]
    · simp [h]
    · simp [h, hr]
  rw [hx, execHello]
  simp only [hon, hstate, Bool.and_self, if_true]
  rfl

/-- The key and the neighbour are the profile's. -/
theorem exec_hello_up {k : Nat} (ht : s.topo p = some (k, n, np)) (hw : s.portWidth p = 8) :
    exec (.hello p n np true) s = .next (((s.linkUp p).post 0x0D01 5 p [8]).finishOps (portOp p) 0x00) := by
  have hw' : (s.greeted p).portWidth p = 8 := (State.updPort_portWidth (s := s) rfl).trans hw
  rw [exec_hello hon h n np true]
  simp only [ht, Option.map_some, bne_self_eq_false, Bool.not_true, Bool.false_eq_true, if_false]
  rw [State.portUp_eight hw']
  rfl

end

theorem exec_hello_wrongKey (h : (s.port p).state = 1) (hr : (s.port p).retraining = false) (n np : Nat) :
    exec (.hello p n np false) s = .next (((s.greeted p).setPort p 7).post 0x0D09 5 p []) := by
  rw [exec_hello hon (.inr (.inr ⟨h, hr⟩)), h]
  rfl

theorem exec_hello_wrongNeighbour (h : (s.port p).state = 1) (hr : (s.port p).retraining = false) {n np : Nat}
    (ht : (s.topo p).map (fun t => t.2) ≠ some (n, np)) :
    exec (.hello p n np true) s = .next (((s.greeted p).setPort p 6).post 0x0D08 5 p [BitVec.ofNat 8 n, BitVec.ofNat 8 np]) := by
  rw [exec_hello hon (.inr (.inr ⟨h, hr⟩)), h, if_neg (by decide), if_pos (bne_iff_ne.2 ht)]
  rfl

end

/-! ## Counters and credits (R201) -/

theorem FPort.count_self (f : FPort) (i n : Nat) : (f.count i n).ctr.get 0 i = sat64 (f.ctr.get 0 i) n := Tbl.get_set_self ..

theorem FPort.count_ne (f : FPort) {i j : Nat} (n : Nat) (h : i ≠ j) : (f.count i n).ctr.get 0 j = f.ctr.get 0 j := Tbl.get_set_ne _ _ _ h

/-- Corrected symbols count on the port. -/
theorem FPort.noteFec_ctr (f : FPort) (fec : List Nat) : (f.noteFec fec).ctr = (f.count 2 (sumNat fec)).ctr := rfl

/-- Credits that come back change the credits, the retry buffer and the frames whose credits are out. -/
theorem FPort.repay_keeps {γ : Type} (φ : FPort → γ) (hφ : ∀ (f : FPort) a b c, φ { f with unpaid := a, credits := b, retry := c } = φ f)
    (l : List (Nat × Nat)) : ∀ (n : Nat) (f : FPort), φ (FPort.repay n l f) = φ f := by
  induction l with
  | nil => exact fun _ _ => rfl
  | cons u l ih =>
    intro n f
    unfold repay
    split
    · rw [ih, hφ]
    · rfl

/-- Credits for the oldest frame alone take it, and no other, out of the retry buffer. -/
theorem FPort.repay_oldest {k n : Nat} {l : List (Nat × Nat)} (hl : ∀ u ∈ l, 0 < u.2) (f : FPort) : FPort.repay k ((n, k) :: l) f =
    { f with unpaid := l, credits := f.credits + k, retry := f.retry.filter fun x => decide (n < x.seq) } := by
  rw [repay, if_pos (Nat.le_refl k), Nat.sub_self]
  cases l with
  | nil => rfl
  | cons u l => rw [repay, if_neg (Nat.not_le_of_lt (hl u (List.mem_cons_self ..)))]

/-! ## Frames received (R201, R202) -/

/-- The port once a whole frame in order has entered its receive buffer. -/
def FPort.accepted (f : FPort) (cr : Nat) (x : Packet) : FPort :=
  { ((FPort.repay cr f.unpaid f).count 1 1).count 10 (frameBytes x) with rx := f.rx ++ [x], rxSeq := f.rxSeq + 1, nak := none }

theorem FPort.accepted_waiting (f : FPort) (cr : Nat) (x : Packet) : (f.accepted cr x).waiting = f.waiting :=
  FPort.repay_keeps FPort.waiting (fun _ _ _ _ => rfl) _ cr f

theorem FPort.accepted_corrected (f : FPort) (cr : Nat) (x : Packet) : (f.accepted cr x).ctr.get 0 2 = f.ctr.get 0 2 := by
  have hctr : (f.accepted cr x).ctr = (((FPort.repay cr f.unpaid f).count 1 1).count 10 (frameBytes x)).ctr := rfl
  rw [hctr, FPort.count_ne _ _ (by decide), FPort.count_ne _ _ (by decide)]
  exact FPort.repay_keeps (fun f => f.ctr.get 0 2) (fun _ _ _ _ => rfl) _ cr f

theorem FPort.accepted_spec (f : FPort) (fec : List Nat) (cr : Nat) (x : Packet) : ((f.noteFec fec).accepted cr x).rx = f.rx ++ [x] ∧
    ((f.noteFec fec).accepted cr x).rxSeq = f.rxSeq + 1 ∧ ((f.noteFec fec).accepted cr x).nak = none ∧
    ((f.noteFec fec).accepted cr x).ctr.get 0 2 = sat64 (f.ctr.get 0 2) (sumNat fec) := by
  refine ⟨rfl, rfl, rfl, ?_⟩
  rw [FPort.accepted_corrected, FPort.noteFec_ctr, FPort.count_self]

/-- Credits for the oldest frame alone come back. -/
theorem FPort.accepted_credits {f : FPort} {n k : Nat} {l : List (Nat × Nat)} (h : f.unpaid = (n, k) :: l) (hl : ∀ u ∈ l, 0 < u.2) (fec : List Nat) (x : Packet) :
    ((f.noteFec fec).accepted k x).credits = f.credits + k ∧ ((f.noteFec fec).accepted k x).unpaid = l ∧
      ((f.noteFec fec).accepted k x).retry = f.retry.filter fun y => decide (n < y.seq) := by
  have hunpaid : (f.noteFec fec).unpaid = (n, k) :: l := h
  have hrepay := FPort.repay_oldest (k := k) (n := n) hl (f.noteFec fec)
  unfold accepted
  rw [hunpaid, hrepay]
  exact ⟨rfl, rfl, rfl⟩

/-- With nothing waiting for credit a frame in order only changes its port. -/
theorem State.acceptFrame_inOrder {s : State} {p : Nat} {x : Packet} (hr : rxRoom (s.port p) x = true) (hw : (s.port p).waiting = []) (cr : Nat) :
    s.acceptFrame p (s.port p).rxSeq cr x = s.updPort p fun f => { f.accepted cr x with waiting := [] } := by
  have hport : ((s.updPort p fun f => f.accepted cr x).port p).waiting = [] := by rw [State.updPort_port_self, FPort.accepted_waiting, hw]
  unfold acceptFrame
  rw [beq_self_eq_true, hr, Bool.and_self, if_pos rfl]
  change (s.updPort p fun f => f.accepted cr x).pumpPort p ((s.updPort p fun f => f.accepted cr x).port p).waiting = _
  rw [hport]
  unfold pumpPort State.updPort
  rw [Tbl.upd_upd]

/-- A lane without a test has its test called for; on a port that tests one already nothing else changes. -/
theorem State.WidthServed.wantLane {s : State} {p l : Nat} (h : s.WidthServed p) (ht : (s.port p).testing.isSome = true)
    (hp : (s.unit 5 (laneKey p l)).pending = none) :
    s.wantLane p l = s.updUnit 5 (laneKey p l) fun u => { u with pending := some (l, none), pendingAt := s.now } := by
  have hnext : (s.updUnit 5 (laneKey p l) fun u => { u with pending := some (l, none), pendingAt := s.now }).WidthServed p := h.ports rfl
  unfold State.wantLane
  simp only [hp, Option.isSome_none, Bool.false_eq_true, if_false]
  exact hnext.nextLane ht

/-- The frame expected, asked for again. -/
def FPort.rejected (f : FPort) (codewords : Nat) : FPort := { f.count 3 codewords with nak := some f.rxSeq }

/-- A frame that is accepted or not, its corrected symbols counted. -/
def State.frameGot (s : State) (p : Nat) (w : LinkWord) (x : Packet) : FrameGot → State
  | .whole => s.acceptFrame p w.seq w.credits x
  | .badCrc lane => s.rejectFrame p lane 0
  | .uncorrectable lane => s.rejectFrame p lane 1

section
variable {s : State} {p : Nat} (hon : s.portOn p = true) (hu : portUsable (s.port p).state = true)
include hon hu

theorem exec_linkFrameReceive (w : LinkWord) (got : FrameGot) (fec : List Nat) (x : Packet) :
    exec (.linkFrameReceive p w got fec x) s = .next ((s.updPort p fun f => f.noteFec fec).frameGot p w x got) := by
  have hx : exec (.linkFrameReceive p w got fec x) s = execLinkFrameReceive p w got fec x s := rfl
  rw [hx, execLinkFrameReceive]
  simp only [hon, hu, Bool.not_true, Bool.or_self, Bool.false_eq_true, if_false]
  cases got <;> rfl

/-- A whole frame in order. -/
theorem exec_linkFrameReceive_whole {x : Packet} (hr : rxRoom (s.port p) x = true) (hw : (s.port p).waiting = []) (fec : List Nat) (cr : Nat) :
    exec (.linkFrameReceive p ⟨(s.port p).rxSeq, cr⟩ .whole fec x) s = .next (s.updPort p fun f => { (f.noteFec fec).accepted cr x with waiting := [] }) := by
  have hport : (s.updPort p fun f => f.noteFec fec).port p = (s.port p).noteFec fec := State.updPort_port_self ..
  have hseq : (s.port p).rxSeq = ((s.updPort p fun f => f.noteFec fec).port p).rxSeq := by rw [hport]; rfl
  rw [exec_linkFrameReceive hon hu, State.frameGot, hseq, State.acceptFrame_inOrder (by rw [hport]; exact hr) (by rw [hport]; exact hw)]
  unfold State.updPort
  rw [Tbl.upd_upd]

/-- A frame after a gap, or a copy. -/
theorem exec_linkFrameReceive_outOfOrder {n : Nat} (hn : n ≠ (s.port p).rxSeq) (fec : List Nat) (cr : Nat) (x : Packet) :
    exec (.linkFrameReceive p ⟨n, cr⟩ .whole fec x) s = .next (s.updPort p fun f => f.noteFec fec) := by
  have hseq : ((s.updPort p fun f => f.noteFec fec).port p).rxSeq = (s.port p).rxSeq := by rw [State.updPort_port_self]; rfl
  rw [exec_linkFrameReceive hon hu, State.frameGot, State.acceptFrame, hseq, beq_eq_false_iff_ne.2 hn, Bool.false_and, if_neg Bool.false_ne_true]

end

/-- What a bad frame changes of its port, and what the width in use rests on. -/
theorem FPort.rejected_spec (f : FPort) (fec : List Nat) (codewords : Nat) : ((f.noteFec fec).rejected codewords).nak = some f.rxSeq ∧
    ((f.noteFec fec).rejected codewords).rx = f.rx ∧ ((f.noteFec fec).rejected codewords).lanes = f.lanes ∧
    ((f.noteFec fec).rejected codewords).state = f.state ∧ ((f.noteFec fec).rejected codewords).testing = f.testing := by
  unfold lanes rejected noteFec count
  exact ⟨rfl, rfl, rfl, rfl, rfl⟩

theorem FPort.rejected_ctr (f : FPort) (fec : List Nat) (codewords : Nat) :
    ((f.noteFec fec).rejected codewords).ctr.get 0 3 = sat64 (f.ctr.get 0 3) codewords := by
  have hctr : ((f.noteFec fec).rejected codewords).ctr = ((f.noteFec fec).count 3 codewords).ctr := rfl
  rw [hctr, FPort.count_self, FPort.noteFec_ctr, FPort.count_ne _ _ (by decide)]

/-- A bad frame is answered with a NAK, and its lane's test is called for. -/
theorem State.WidthServed.rejectFrame {s : State} {p : Nat} (h : s.WidthServed p) (ht : (s.port p).testing.isSome = true) {lane : Nat}
    (hp : (s.unit 5 (laneKey p (lane % 9))).pending = none) (fec : List Nat) (codewords : Nat) :
    (s.updPort p fun f => f.noteFec fec).rejectFrame p lane codewords =
      (s.updPort p fun f => (f.noteFec fec).rejected codewords).updUnit 5 (laneKey p (lane % 9)) fun u => { u with pending := some (lane % 9, none), pendingAt := s.now } := by
  have hupd : (s.updPort p fun f => f.noteFec fec).updPort p (fun f => f.rejected codewords) = s.updPort p fun f => (f.noteFec fec).rejected codewords := by
    unfold State.updPort
    rw [Tbl.upd_upd]
  obtain ⟨-, -, hlanes, hstate, htesting⟩ := (s.port p).rejected_spec fec codewords
  have hserved : (s.updPort p fun f => (f.noteFec fec).rejected codewords).WidthServed p := h.updPort hlanes hstate
  have htest : ((s.updPort p fun f => (f.noteFec fec).rejected codewords).port p).testing.isSome = true := by
    rw [State.updPort_port_self, htesting, ht]
  unfold State.rejectFrame
  exact (congrArg (fun u : State => u.wantLane p (lane % 9)) hupd).trans (hserved.wantLane htest hp)

/-- A frame that fails its CRC, or that FEC cannot correct, which alone counts. -/
theorem State.WidthServed.exec_linkFrameReceive_bad {s : State} {p : Nat} (h : s.WidthServed p) (hon : s.portOn p = true)
    (ht : (s.port p).testing.isSome = true) {got : FrameGot} {lane : Nat} (hgot : got = .badCrc lane ∨ got = .uncorrectable lane)
    (hp : (s.unit 5 (laneKey p (lane % 9))).pending = none) (w : LinkWord) (fec : List Nat) (x : Packet) :
    exec (.linkFrameReceive p w got fec x) s = .next
      ((s.updPort p fun f => (f.noteFec fec).rejected (if got = .badCrc lane then 0 else 1)).updUnit 5 (laneKey p (lane % 9))
        fun u => { u with pending := some (lane % 9, none), pendingAt := s.now }) := by
  rw [exec_linkFrameReceive hon h.usable, ← h.rejectFrame ht hp]
  rcases hgot with rfl | rfl
  · rw [State.frameGot, if_pos rfl]
  · rw [State.frameGot, if_neg nofun]

/-! ## Replays and retrains (R201, R202) -/

theorem State.setPort_retry {s : State} {p st : Nat} (h : portUsable st = false) : ((s.setPort p st).port p).retry = (s.port p).retry := by
  have hport : (s.portState p st).port p = { s.port p with state := st } := State.updPort_port_self ..
  unfold setPort
  split
  · rfl
  · change (((s.portState p st).floodPort p).port p).retry = _
    rw [State.floodPort_retry (by rw [hport]; exact h), hport]

/-- A port once the frames from a NAK's on are to be sent again. -/
def FPort.replaying (f : FPort) (left : List Frame) (now : Tick) : FPort :=
  { f.count 4 1 with retry := left, replayTimes := now :: f.replayTimes.filter fun t => decide (now < t + tMs 1) }

/-- What a NAK leaves in the retry buffer. -/
def FPort.naked (f : FPort) (n : Nat) : List Frame := (f.retry.filter fun x => decide (n ≤ x.seq)).map fun x => { x with replays := x.replays + 1 }

section
variable {s : State} {p : Nat} (hon : s.portOn p = true) (hu : portUsable (s.port p).state = true) {n : Nat}
include hon hu

theorem exec_linkNak_empty (h : (s.port p).naked n = []) : exec (.linkNak p n) s = .next (s.updPort p fun f => { f with retry := [] }) := by
  have hx : exec (.linkNak p n) s = execLinkNak p n s := rfl
  unfold FPort.naked at h
  rw [hx, execLinkNak]
  simp only [hon, hu, h, Bool.not_true, Bool.or_self, Bool.false_eq_true, if_false, List.isEmpty_nil, if_true]

theorem exec_linkNak_left {left : List Frame} (hleft : (s.port p).naked n = left) (h : left ≠ []) : exec (.linkNak p n) s = .next
    (if left.any (fun x => decide (8 ≤ x.replays)) || 64 ≤ (s.now :: (s.port p).replayTimes.filter fun t => decide (s.now < t + tMs 1)).length then
      ((s.updPort p fun f => f.replaying left s.now).resend p).retrain p
    else (s.updPort p fun f => f.replaying left s.now).resend p) := by
  have hx : exec (.linkNak p n) s = execLinkNak p n s := rfl
  have htimes : (((s.updPort p fun f => f.replaying left s.now).resend p).port p).replayTimes =
      s.now :: (s.port p).replayTimes.filter fun t => decide (s.now < t + tMs 1) :=
    congrArg FPort.replayTimes (State.updPort_port_self s p fun f => f.replaying left s.now)
  unfold FPort.naked at hleft
  rw [hx, execLinkNak]
  simp only [hon, hu, hleft, List.isEmpty_iff, h, Bool.not_true, Bool.or_self, Bool.false_eq_true, if_false]
  rw [← htimes]
  rfl

end

theorem State.resend_sent {s : State} {p : Nat} {left : List Frame} (h : (s.port p).retry = left) :
    (s.resend p).fab.sent = (left.reverse.map fun f => (p, f)) ++ s.fab.sent := by
  rw [← h]
  rfl

/-- A retrain keeps the packets of the retry buffer, their replays counted anew. -/
theorem State.retrain_port (s : State) (p : Nat) : ((s.retrain p).port p).state = 1 ∧ ((s.retrain p).port p).retraining = true ∧
    ((s.retrain p).port p).retry.map (fun x => x.pkt) = (s.port p).retry.map fun x => x.pkt := by
  unfold retrain
  refine ⟨State.setPort_state .., ?_, ?_⟩
  · rw [FPort.line_keeps FPort.retraining (fun _ => rfl) ((State.setPort_transmits ..).line p), portState, State.updPort_port_self, State.updPort_port_self]
  · rw [State.setPort_retry rfl, State.updPort_port_self, List.map_map]
    rfl

section
variable {s : State} {p : Nat} (hon : s.portOn p = true) (h : (s.port p).state = 1) (hr : (s.port p).retraining = true)
include hon h hr

theorem exec_linkRetrainDone_failed : exec (.linkRetrainDone p false) s = .next ((s.portDown p 1 0 false).finishOps (portOp p) 0x10) := by
  have hx : exec (.linkRetrainDone p false) s = execLinkRetrainDone p false s := rfl
  rw [hx, execLinkRetrainDone, ← State.portDown_fin]
  simp only [hon, h, hr, beq_self_eq_true, Bool.and_self, if_true, Bool.false_eq_true, if_false]

theorem exec_linkRetrainDone_eight (hw : s.portWidth p = 8) : exec (.linkRetrainDone p true) s = .next
    ((((s.updPort p fun f => { f with retraining := false }).setPort p 2).resend p).finishOps (portOp p) 0x00) := by
  have hx : exec (.linkRetrainDone p true) s = execLinkRetrainDone p true s := rfl
  have hw' : (s.updPort p fun f => { f with retraining := false }).portWidth p = 8 := (State.updPort_portWidth (s := s) rfl).trans hw
  rw [hx, execLinkRetrainDone]
  simp only [hon, h, hr, beq_self_eq_true, Bool.and_self, if_true, hw']

end

/-- Settles O51: each event by its equation; what a change of state, a HELLO and a port that leaves service leave is read off the port's line. -/
theorem portsTrainAndCarryFrames : Obligations.PortsTrainAndCarryFrames := by
  intro s p hon
  refine ⟨fun h => ?light, fun h => ?loss, ⟨rfl, rfl, rfl, FPort.dropFrames_ctr _⟩, fun n np k hstate ht hw => ?hello, fun n np h hr => ⟨?key, fun ht => ?neighbour⟩,
    fun h ht => ?again, fun x => ⟨fun hw hc => ?sends, fun y l hw hc => State.sendOn_waits s p x y l hw hc⟩, fun x fec cr hu hr hw => ?whole,
    fun x fec cr n hu hn => exec_linkFrameReceive_outOfOrder hon hu hn fec cr x, fun x got fec cr lane n hgot hp ht hserved => ?bad,
    fun n left hu hleft => ⟨fun he => exec_linkNak_empty hon hu (hleft.symm.trans he), fun hne hfew htimes => ?replay, fun hmany => ?retrain⟩,
    fun h hr => ⟨fun hw => ?trained, ?failed⟩⟩
  case light =>
    have hline := s.bringUp_line p
    refine ⟨_, exec_portLightDetect hon h, FPort.line_keeps FPort.state (fun _ => rfl) hline, FPort.line_keeps FPort.helloAt (fun _ => rfl) hline,
      fun q hq => FPort.line_keeps FPort.state (fun _ => rfl) (s.bringUp_line_ne hq), (s.bringUp_transmits p).parts, fun k n np ht => ?_, s.bringUp_sent p⟩
    rw [FPort.line_keeps FPort.wave (fun _ => rfl) hline, ht]
    rfl
  case loss =>
    exact ⟨_, exec_lightLoss hon h, State.portDown_state .., State.portDown_rx .., fun q hq => State.portDown_state_ne _ _ _ _ hq,
      State.portDown_mason .., State.portDown_parts ..⟩
  case hello =>
    obtain ⟨hup, hseq, hrx, hat⟩ := s.linkUp_port p
    rw [← State.post_port (s.linkUp p) 0x0D01 5 p [8]] at hup hseq hrx hat
    refine ⟨_, exec_hello_up hon (by rcases hstate with h | h | h <;> simp [h]) n np ht hw, hup, hseq, hrx, hat,
      State.eventPosted_post (s.linkUp_host p) (s.linkUp_now p) _ _ _ _, ?_⟩
    rw [State.post_mason, State.linkUp_mason]
  case key =>
    refine ⟨_, exec_hello_wrongKey hon h hr n np, ?_,
      State.eventPosted_post ((s.greeted p).setPort_host p 7) ((s.greeted p).setPort_now p 7) _ _ _ _⟩
    rw [State.post_port, State.setPort_state]
  case neighbour =>
    refine ⟨_, exec_hello_wrongNeighbour hon h hr ht, ?_,
      State.eventPosted_post ((s.greeted p).setPort_host p 6) ((s.greeted p).setPort_now p 6) _ _ _ _⟩
    rw [State.post_port, State.setPort_state]
  case again =>
    obtain ⟨x, hsent, htype, -⟩ := s.sendHello_sent p
    have hline := (s.sendHello_transmits p).line p
    rw [State.updPort_port_self] at hline
    exact ⟨_, exec_helloRetry hon h ht, (FPort.line_keeps FPort.state (fun _ => rfl) hline).trans rfl,
      (FPort.line_keeps FPort.helloAt (fun _ => rfl) hline).trans rfl, x, hsent, htype⟩
  case sends =>
    obtain ⟨hsent, hport⟩ := State.sendOn_sends s p x hw hc
    rw [hsent, hport]
    exact ⟨rfl, rfl, rfl, rfl⟩
  case whole =>
    have hport := State.updPort_port_self s p fun f => { (f.noteFec fec).accepted cr x with waiting := [] }
    obtain ⟨hrx, hseq, hnak, hctr⟩ := (s.port p).accepted_spec fec cr x
    refine ⟨_, exec_linkFrameReceive_whole hon hu hr hw fec cr, ?_⟩
    rw [hport]
    refine ⟨hrx, hseq, hnak, hctr, fun n k l hunpaid hcr _ hl => ?_, fun q hq => State.updPort_port_ne _ _ hq, rfl⟩
    rw [hcr]
    exact FPort.accepted_credits hunpaid hl fec x
  case bad =>
    obtain ⟨hnak, hrx, -, hstate, -⟩ := (s.port p).rejected_spec fec (if got = .badCrc lane then 0 else 1)
    have hctr := (s.port p).rejected_ctr fec (if got = .badCrc lane then 0 else 1)
    rw [← State.updPort_port_self s p fun f => (f.noteFec fec).rejected _] at hnak hrx hstate hctr
    refine ⟨_, State.WidthServed.exec_linkFrameReceive_bad hserved hon ht hgot hp ⟨n, cr⟩ fec x, hnak, hrx, ?_, hstate, hctr⟩
    rw [State.updUnit_unit_self]
  case replay =>
    have hport := State.updPort_port_self s p fun f => f.replaying left s.now
    have hnone : left.any (fun x => decide (8 ≤ x.replays)) = false := List.any_eq_false.2 fun x hx => by simpa using hfew x hx
    have hfewer : ¬ 64 ≤ (s.now :: (s.port p).replayTimes.filter fun t => decide (s.now < t + tMs 1)).length := by
      have htimes' : ((s.port p).replayTimes.filter fun t => decide (s.now < t + tMs 1)).length < 63 := htimes
      rw [List.length_cons]
      omega
    have hexec := exec_linkNak_left hon hu hleft.symm hne
    rw [hnone, Bool.false_or, decide_eq_false hfewer, if_neg Bool.false_ne_true] at hexec
    refine ⟨_, hexec, congrArg FPort.retry hport, ?_, (congrArg FPort.state hport).trans rfl⟩
    rw [State.resend_sent (congrArg FPort.retry hport)]
    rfl
  case retrain =>
    obtain ⟨x, hx, hmuch⟩ := hmany
    have hport := State.updPort_port_self s p fun f => f.replaying left s.now
    have hany : left.any (fun x => decide (8 ≤ x.replays)) = true := List.any_eq_true.2 ⟨x, hx, decide_eq_true hmuch⟩
    have hexec := exec_linkNak_left hon hu hleft.symm (List.ne_nil_of_mem hx)
    rw [hany, Bool.true_or, if_pos rfl] at hexec
    obtain ⟨hstate, hretraining, hpackets⟩ := ((s.updPort p fun f => f.replaying left s.now).resend p).retrain_port p
    exact ⟨_, hexec, hstate, hretraining, hpackets.trans (congrArg (fun f : FPort => f.retry.map fun x => x.pkt) hport)⟩
  case trained =>
    have hline := (s.updPort p fun f => { f with retraining := false }).setPort_line p 2
    rw [State.updPort_port_self] at hline
    have hstate := State.setPort_state (s.updPort p fun f => { f with retraining := false }) p 2
    refine ⟨_, exec_linkRetrainDone_eight hon h hr hw, hstate, ?_, State.setPort_mason (s.updPort p fun f => { f with retraining := false }) p 2⟩
    exact congrArg FPort.retraining hline
  case failed =>
    exact ⟨_, exec_linkRetrainDone_failed hon h hr, State.portDown_state .., State.portDown_rx .., State.portDown_mason ..⟩

end Sys2Proof.Machine
end

section
/-! SUPPORT. Lanes of a fabric port: their tests, the spare, inspection and cleaning (R203, R204, R219, R220). -/

namespace Sys2Proof.Machine

/-- What service does not change is the same where the plant of two ports is. -/
theorem FPort.plant_keeps {γ : Type} (φ : FPort → γ) (hφ : ∀ f : FPort, φ f.plant = φ f) {f g : FPort} (h : f.plant = g.plant) : φ f = φ g := by
  rw [← hφ f, h, hφ]

theorem State.updUnit_unit_ne (s : State) (k : Nat) {i j : Nat} (f : Unit → Unit) (h : j ≠ i) : (s.updUnit k i f).unit k j = s.unit k j := by
  unfold updUnit unit
  exact Tbl.get_upd_ne _ _ _ (by omega)

/-- A lane's place in the histories is not a port's. -/
theorem laneKey_ne_port {p : Nat} (h : p < 12) (l : Nat) : p ≠ laneKey p l := by
  unfold laneKey
  omega

/-! ## The test of a lane (R203, R204) -/

/-- What lane tests count: the histories, the classes, and the partitions that they leave alone. -/
def State.tests (s : State) : Tbl Unit × Nat × Nat × Tbl Part := (s.flt.units, s.flt.transient, s.flt.lasting, s.parts)

theorem State.tests_eq {s t : State} (h : t.tests = s.tests) : (∀ k i, t.unit k i = s.unit k i) ∧ t.flt.transient = s.flt.transient ∧
    t.flt.lasting = s.flt.lasting ∧ t.parts = s.parts := by
  unfold tests at h
  simp only [Prod.mk.injEq] at h
  obtain ⟨hunits, htransient, hlasting, hparts⟩ := h
  exact ⟨fun k i => by rw [unit, hunits, unit], htransient, hlasting, hparts⟩

theorem State.post_tests (s : State) (code kind id : Nat) (d : List Byte) : (s.post code kind id d).tests = s.tests := by simp [tests]

theorem State.remap_tests (s : State) (p l : Nat) : (s.remap p l).tests = s.tests := by
  unfold remap
  exact State.post_tests ..

theorem State.giveSpare_tests (s : State) (p : Nat) : (s.giveSpare p).tests = s.tests := by
  unfold giveSpare
  dsimp only
  split
  · split
    · exact State.remap_tests ..
    · rfl
  · rfl

theorem State.lanePassed_tests (s : State) (p l : Nat) : (s.lanePassed p l).tests = s.tests := by
  unfold lanePassed
  dsimp only
  split
  · rfl
  · split
    · rw [State.giveSpare_tests]
      rfl
    · split
      · split
        · rfl
        · rw [State.remap_tests]
          rfl
      · rfl

theorem State.Reports.tests {s t : State} (h : s.Reports t) : t.tests = s.tests := h.keeps State.tests fun _ _ => rfl

/-- Outside a test of the whole port a lane's outcome is all. -/
theorem State.wholeTest_none {s : State} {p : Nat} (h : (s.unit 5 p).testing = false) (l : Nat) : s.wholeTest p l = s := by
  unfold wholeTest
  simp only [h, Bool.not_false, if_true]

/-- The lane's test is over. -/
def State.laneTested (s : State) (p l : Nat) : State :=
  (s.updPort p fun f => { f with testing := none }).updUnit 5 (laneKey p l) fun u => { u with pending := none }

theorem State.laneTested_unit (s : State) (p l : Nat) : (s.laneTested p l).unit 5 (laneKey p l) = { s.unit 5 (laneKey p l) with pending := none } :=
  State.updUnit_unit_self ..

theorem State.laneTested_unit_ne (s : State) (p l : Nat) {i : Nat} (h : i ≠ laneKey p l) : (s.laneTested p l).unit 5 i = s.unit 5 i :=
  State.updUnit_unit_ne _ _ _ h

/-- The history after a transient class. -/
theorem State.noteTransient_unit (s : State) (k i : Nat) : (s.noteTransient k i).1.unit k i =
    { s.unit k i with total := sat32 (s.unit k i).total 1, transient := s.now :: (s.unit k i).transient.filter fun t => decide (s.now < t + tS 86400) } :=
  State.updUnit_unit_self { s with flt.transient := sat32 s.flt.transient 1 } k i _

/-- Fewer than eight within 24 h. -/
theorem State.noteTransient_few {s : State} {k i : Nat} (h : ((s.unit k i).transient.filter fun u => decide (s.now < u + 2160000000000)).length < 7) :
    (s.noteTransient k i).2 = false := by
  have heighth : (s.noteTransient k i).2 = decide (8 ≤ ((s.noteTransient k i).1.unit k i).transient.length) := rfl
  have hlength : ((s.noteTransient k i).1.unit k i).transient.length = ((s.unit k i).transient.filter fun u => decide (s.now < u + 2160000000000)).length + 1 := by
    rw [State.noteTransient_unit]
    rfl
  rw [heighth, hlength]
  exact decide_eq_false (by omega)

section
variable {s : State} {p l e : Nat} (hon : s.portOn p = true) (ht : (s.port p).testing = some l) (hwhole : (s.unit 5 p).testing = false)
include hon ht hwhole

/-- Fewer than 10 errored bits, and fewer than eight transient classes in 24 h. -/
theorem exec_laneTestDone_passed (he : e < 10) (hfew : ((s.unit 5 (laneKey p l)).transient.filter fun u => decide (s.now < u + 2160000000000)).length < 7) :
    exec (.laneTestDone p l e) s = .next
      ((((((s.laneTested p l).noteTransient 5 (laneKey p l)).1.testResult 5 p 1 l false).lanePassed p l).wholeTest p l).nextLane p) := by
  have hx : exec (.laneTestDone p l e) s = execLaneTestDone p l e s := rfl
  have height : ((s.laneTested p l).noteTransient 5 (laneKey p l)).2 = false :=
    State.noteTransient_few (by rw [State.laneTested_unit]; exact hfew)
  unfold State.laneTested at height
  rw [hx, execLaneTestDone]
  simp only [hon, ht, hwhole, he, height, beq_self_eq_true, Bool.and_self, Bool.and_false, decide_true, Bool.not_false, if_true]
  rfl

/-- Ten errored bits or more. -/
theorem exec_laneTestDone_failed (he : 10 ≤ e) :
    exec (.laneTestDone p l e) s = .next (((((s.laneTested p l).testResult 5 p 2 l false).laneLasting p l).wholeTest p l).nextLane p) := by
  have hx : exec (.laneTestDone p l e) s = execLaneTestDone p l e s := rfl
  rw [hx, execLaneTestDone]
  simp only [hon, ht, hwhole, Nat.not_lt.2 he, beq_self_eq_true, Bool.and_self, Bool.and_false, decide_false, Bool.false_and, Bool.false_eq_true, if_true, if_false]
  rfl

end

/-- The free spare takes the one lane with a lasting fault, where no lower lane waits for its outcome. -/
theorem State.giveSpare_free {s : State} {p l : Nat} (hl : l < 8) (hfree : (s.port p).spareFor = 15) (hbad : (s.port p).badLanes = [l])
    (hremaps : (s.port p).remaps ≠ 0) (hwaits : s.lowerWaits p l = false) : s.giveSpare p = s.remap p l := by
  have hne : l ≠ 8 := by omega
  unfold giveSpare
  simp [hfree, hbad, hremaps, hwaits, hl, Ne.symm hne]

/-- A lane with a lasting fault, before the spare. -/
def State.laneBad (s : State) (p l : Nat) : State :=
  { s with flt.lasting := sat32 s.flt.lasting 1 }.updPort p fun f => { f with badLanes := insertNat f.badLanes l }

theorem State.laneBad_port (s : State) (p l : Nat) : (s.laneBad p l).port p = { s.port p with badLanes := insertNat (s.port p).badLanes l } :=
  State.updPort_port_self { s with flt.lasting := sat32 s.flt.lasting 1 } p _

theorem State.laneLasting_spare {s : State} {p l : Nat} (hl : l < 8) (hfree : (s.port p).spareFor = 15) (hgood : (s.port p).badLanes = [])
    (hremaps : 0 < (s.port p).remaps) (hlower : ∀ k, k < l → (s.unit 5 (laneKey p k)).pending = none) : s.laneLasting p l = (s.laneBad p l).remap p l := by
  have hwaits : (s.laneBad p l).lowerWaits p l = false := by
    refine List.any_eq_false.2 fun k hk => ?_
    have hnone : ((s.laneBad p l).unit 5 (laneKey p k)).pending = none := hlower k (List.mem_range.1 hk)
    rw [hnone]
    exact Bool.false_ne_true
  refine State.giveSpare_free (s := s.laneBad p l) hl ?_ ?_ ?_ hwaits
  · rw [State.laneBad_port, hfree]
  · rw [State.laneBad_port, hgood]
    rfl
  · rw [State.laneBad_port]
    exact Nat.ne_of_gt hremaps

/-- The spare serves the lane, one remap is used, and its fuse waits to be burned. -/
theorem State.remap_spec (s : State) (p l : Nat) :
    (s.remap p l).port p = { s.port p with spareFor := l, remaps := (s.port p).remaps - 1 } ∧
    ∃ b, (s.remap p l).flt.burns = s.flt.burns ++ [b] ∧ b.kind = 7 ∧ b.unitId = p ∧ b.value = l := by
  unfold remap
  refine ⟨?_, ⟨7, 1, 5, p, l, s.fw.boot, s.now, s.lastLog % 2 ^ 32, (s.port p).spareFor⟩, ?_, rfl, rfl, rfl⟩
  · rw [State.post_port]
    exact State.updPort_port_self s p fun f => { f with spareFor := l, remaps := f.remaps - 1 }
  · rw [State.post_flt_burns]
    rfl

/-! ## Inspection (R219, R220) -/

/-- Both conditions of R219 on the lane measured. -/
theorem FPort.measure_foul {f : FPort} {l : Nat} {o b : Int} {e n : Nat} (hlight : o < -150 ∨ 300 < b) (hn : 0 < n) (hbase : 0 < (f.berBase.get (0, 0) l).2)
    (hfour : 4 * (f.berBase.get (0, 0) l).1 * n ≤ e * (f.berBase.get (0, 0) l).2) : (f.measure ⟨l, o, b, (e, n)⟩).foul l = true := by
  have homa : (f.measure ⟨l, o, b, (e, n)⟩).oma.get 0 l = o := Tbl.get_set_self ..
  have hbr : (f.measure ⟨l, o, b, (e, n)⟩).br.get 0 l = b := Tbl.get_set_self ..
  have hber : (f.measure ⟨l, o, b, (e, n)⟩).ber.get (0, 0) l = (e, n) := Tbl.get_set_self ..
  have hratio : fourfold (f.berBase.get (0, 0) l) (e, n) = true := by
    simp [fourfold, Nat.ne_of_gt hn, Nat.ne_of_gt hbase, hfour]
  have hlight' : (decide (o < -150) || decide (300 < b)) = true := by simpa using hlight
  unfold foul
  rw [homa, hbr, hber, hlight', Bool.true_and]
  exact hratio

theorem upOrHalf {st : Nat} (h : st = 2 ∨ st = 3) : (st == 2 || st == 3) = true := by simpa using h

/-- The last measurement of a lane is noted. -/
def State.measured (s : State) (p : Nat) (m : LaneMeas) : State := s.updPort p fun f => f.measure m

theorem State.measured_port (s : State) (p : Nat) (m : LaneMeas) : (s.measured p m).port p = (s.port p).measure m := State.updPort_port_self ..

section
variable {s : State} {p l : Nat} {o b : Int} {e n : Nat} (hon : s.portOn p = true) (hl : l ≤ 8) (hup : (s.port p).state = 2 ∨ (s.port p).state = 3)
  (hfoul : ((s.port p).measure ⟨l, o, b, (e, n)⟩).foul l = true)
include hon hl hup hfoul

/-- The conditions begin to hold on the lane. -/
theorem exec_inspectEntry_first (hat : (s.port p).inspectAt.find? l = none) : exec (.inspectEntry p l o b (e, n)) s = .next
    ((s.measured p ⟨l, o, b, (e, n)⟩).updPort p fun f => { f with inspectAt := f.inspectAt.set l s.now }) := by
  have hx : exec (.inspectEntry p l o b (e, n)) s = execInspectEntry p l o b (e, n) s := rfl
  have hstate : ((s.port p).measure ⟨l, o, b, (e, n)⟩).state = (s.port p).state := rfl
  have hsince : ((s.port p).measure ⟨l, o, b, (e, n)⟩).inspectAt = (s.port p).inspectAt := rfl
  rw [hx, execInspectEntry]
  simp only [hon, Bool.not_true, Bool.false_or, decide_eq_false (Nat.not_lt.2 hl), Bool.false_eq_true, if_false, State.updPort_port_self, hstate,
    upOrHalf hup, hfoul, if_true, hsince, hat]
  rfl

/-- The conditions have held on the lane since `u`. -/
theorem exec_inspectEntry_since {u : Tick} (hat : (s.port p).inspectAt.find? l = some u) : exec (.inspectEntry p l o b (e, n)) s = .next
    (if 250000000 ≤ s.now - u then (s.measured p ⟨l, o, b, (e, n)⟩).enterInspect p l else s.measured p ⟨l, o, b, (e, n)⟩) := by
  have hx : exec (.inspectEntry p l o b (e, n)) s = execInspectEntry p l o b (e, n) s := rfl
  have hstate : ((s.port p).measure ⟨l, o, b, (e, n)⟩).state = (s.port p).state := rfl
  have hsince : ((s.port p).measure ⟨l, o, b, (e, n)⟩).inspectAt = (s.port p).inspectAt := rfl
  rw [hx, execInspectEntry]
  simp only [hon, Bool.not_true, Bool.false_or, decide_eq_false (Nat.not_lt.2 hl), Bool.false_eq_true, if_false, State.updPort_port_self, hstate,
    upOrHalf hup, hfoul, if_true, hsince, hat]
  rfl

end

/-- The port stands in INSPECT, and is posted. -/
def State.inspecting (s : State) (p l : Nat) : State := ((s.updPort p fun f => f.noteUseless s.now).setPort p 4).postInspect p l

theorem State.inspecting_line (s : State) (p l : Nat) :
    ((s.inspecting p l).port p).line = ({ (s.port p).noteUseless s.now with state := 4, inspectPost := some s.now } : FPort).line := by
  have hline := (s.updPort p fun f => f.noteUseless s.now).setPort_line p 4
  have hnow := (s.updPort p fun f => f.noteUseless s.now).setPort_now p 4
  rw [State.updPort_port_self] at hline
  unfold inspecting postInspect
  rw [State.post_port, State.updPort_port_self, hnow]
  exact congrArg (fun f : FPort => { f with inspectPost := some s.now }) hline

/-- The event names the lane and its last measurements. -/
theorem State.inspecting_posted (s : State) (p l : Nat) : eventPosted s (s.inspecting p l) 0x0D04 5 p
    (leBytes 1 l ++ [0] ++ leBytes 2 (unsigned 16 ((s.port p).oma.get 0 l)) ++ leBytes 2 (berLog ((s.port p).ber.get (0, 0) l))) := by
  have hhost := (s.updPort p fun f => f.noteUseless s.now).setPort_host p 4
  have hnow := (s.updPort p fun f => f.noteUseless s.now).setPort_now p 4
  have hline : (((s.updPort p fun f => f.noteUseless s.now).setPort p 4).port p).line = ({ (s.port p).noteUseless s.now with state := 4 } : FPort).line := by
    rw [State.setPort_line, State.updPort_port_self]
    rfl
  have homa := FPort.line_keeps FPort.oma (fun _ => rfl) hline
  have hber := FPort.line_keeps FPort.ber (fun _ => rfl) hline
  unfold inspecting
  generalize (s.updPort p fun f => f.noteUseless s.now).setPort p 4 = u at hhost hnow homa hber
  have hposted := State.eventPosted_post (s := s) (u := u.updPort p fun f => { f with inspectPost := some u.now }) hhost hnow 0x0D04 5 p
    (leBytes 1 l ++ [0] ++ leBytes 2 (unsigned 16 ((u.port p).oma.get 0 l)) ++ leBytes 2 (berLog ((u.port p).ber.get (0, 0) l)))
  rw [homa, hber] at hposted
  unfold postInspect
  dsimp only
  rw [homa, hber]
  exact hposted

theorem State.inspecting_cartridge (s : State) (p l : Nat) : (s.inspecting p l).cartridge = s.cartridge := by
  have hset := State.setPort_keeps State.cartridge (fun _ => rfl) (s.updPort p fun f => f.noteUseless s.now) p 4
  unfold inspecting postInspect
  rw [cartridge, State.post_fw]
  exact hset

/-- A port that was never cleaned is cleaned at once, where there is a cartridge. -/
theorem State.enterInspect_first {s : State} {p : Nat} (hat : (s.port p).cleanAt = none) (hcleanings : (s.port p).cleanings = []) (l : Nat) :
    s.enterInspect p l = if s.cartridge then (s.inspecting p l).startClean p else s.inspecting p l := by
  have hline := s.inspecting_line p l
  have hnote : ((s.port p).noteUseless s.now).cleanings = [] := by
    unfold FPort.noteUseless
    rw [hat, hcleanings]
    rfl
  have hat' : ((s.inspecting p l).port p).cleanAt = none := (FPort.line_keeps FPort.cleanAt (fun _ => rfl) hline).trans hat
  have hnone : ((s.inspecting p l).port p).cleanings = [] := (FPort.line_keeps FPort.cleanings (fun _ => rfl) hline).trans hnote
  have huseless : (s.inspecting p l).uselessCleans p = 0 := by
    unfold uselessCleans
    rw [hnone]
    rfl
  have henter : s.enterInspect p l = (s.inspecting p l).cleanDue p := rfl
  rw [henter, cleanDue, State.inspecting_cartridge, hourPassed, hat', huseless]
  cases s.cartridge <;> rfl

/-- The request to the cartridge is written, and the port is CLEANING. -/
theorem State.startClean_port (s : State) (p : Nat) : ((s.startClean p).port p).state = 5 ∧ ((s.startClean p).port p).cleanAt = some s.now ∧
    ((s.startClean p).port p).reqId = ((s.port p).reqId + 1) % 256 ∧ ((s.startClean p).port p).cleanReq = cleanReqBytes p (((s.port p).reqId + 1) % 256) := by
  generalize hg : (fun f : FPort => ({ f.count 11 1 with retry := [], cleanAt := some s.now, reqId := (f.reqId + 1) % 256, cleanReq := cleanReqBytes p ((f.reqId + 1) % 256), cartFails := 0 } : FPort)) = g
  have hline : ((s.startClean p).port p).line = ({ (g (s.port p)).outOfService with state := 5 } : FPort).line := by
    have hstart : s.startClean p = ((s.updPort p g).portDown p 3 5 false).widthsInRow p := by rw [← hg]; rfl
    rw [hstart, State.widthsInRow_line, State.portDown_line_self, State.updPort_port_self]
  rw [FPort.line_keeps FPort.state (fun _ => rfl) hline, FPort.line_keeps FPort.cleanAt (fun _ => rfl) hline,
    FPort.line_keeps FPort.reqId (fun _ => rfl) hline, FPort.line_keeps FPort.cleanReq (fun _ => rfl) hline, ← hg]
  exact ⟨rfl, rfl, rfl, rfl⟩

/-! ## The cartridge (R220, R336) -/

/-- At the end of a cleaning the port trains again, its baseline to be taken anew. -/
theorem State.cleanEnd_port (s : State) (p result : Nat) : ((s.cleanEnd p result).port p).state = 1 ∧ ((s.cleanEnd p result).port p).rebase = true ∧
    ((s.cleanEnd p result).port p).helloAt = s.now := by
  generalize hu : (s.updPort p fun f => { f with rebase := true }).post 0x0D05 5 p (leBytes 1 result) = u
  have hnow : u.now = s.now := by rw [← hu, State.post_now]; rfl
  have hport : (u.port p).rebase = true := by rw [← hu, State.post_port, State.updPort_port_self]
  have hline : ((s.cleanEnd p result).port p).line = ((u.bringUp p).port p).line := by
    have hend : s.cleanEnd p result = (u.bringUp p).widthsInRow p := by rw [← hu]; rfl
    rw [hend, State.widthsInRow_line]
  rw [State.bringUp_line, hnow] at hline
  rw [FPort.line_keeps FPort.state (fun _ => rfl) hline, FPort.line_keeps FPort.rebase (fun _ => rfl) hline, FPort.line_keeps FPort.helloAt (fun _ => rfl) hline]
  exact ⟨rfl, hport, rfl⟩

section
variable {s : State} {p : Nat} (hup : s.up = true) (hstate : (s.port p).state = 5)
include hup hstate

theorem exec_cartridgePoll_value (hfree : s.therm.i3cStuck = none) (hprofile : s.fw.profile.isSome = true) (v : Int) (id : Nat) :
    exec (.cartridgePoll p ⟨.val v, id⟩) s = .next (if id != (s.port p).reqId then s.updPort p fun f => { f with cartFails := 0 }
      else if v == 2 then (s.updPort p fun f => { f with cartFails := 0 }).cleanEnd p 0
      else if v == 3 then (s.updPort p fun f => { f with cartFails := 0 }).cleanEnd p 1 else s.updPort p fun f => { f with cartFails := 0 }) := by
  have hx : exec (.cartridgePoll p ⟨.val v, id⟩) s = execCartridgePoll p ⟨.val v, id⟩ s := rfl
  have hstuck : (s.therm.i3cStuck.isSome || s.fw.profile.isNone) = false := by
    rw [hfree, Option.isNone_eq_false_iff.2 hprofile]
    rfl
  have hreq : ((s.updPort p fun f => { f with cartFails := 0 }).port p).reqId = (s.port p).reqId := by rw [State.updPort_port_self]
  have hanswered : s.answered (.val v) = some v := by simp only [State.answered, hstuck, Bool.false_eq_true, if_false]
  rw [hx, execCartridgePoll]
  simp only [hup, hstate, beq_self_eq_true, Bool.and_self, if_true, hanswered, hreq]

/-- Two failed reads are not yet a silent device. -/
theorem exec_cartridgePoll_failed (hfree : s.therm.i3cStuck = none) (hfails : (s.port p).cartFails < 2) (id : Nat) :
    exec (.cartridgePoll p ⟨.fail, id⟩) s = .next (s.updPort p fun f => { f with cartFails := f.cartFails + 1 }) := by
  have hx : exec (.cartridgePoll p ⟨.fail, id⟩) s = execCartridgePoll p ⟨.fail, id⟩ s := rfl
  have hport : ((s.updPort p fun f => { f with cartFails := f.cartFails + 1 }).port p).cartFails = (s.port p).cartFails + 1 := by rw [State.updPort_port_self]
  have hfew : ¬ 3 ≤ (s.port p).cartFails + 1 := by omega
  rw [hx, execCartridgePoll]
  simp only [hup, hstate, beq_self_eq_true, Bool.and_self, if_true, State.answered, hport, State.updPort_therm, hfree, Option.isSome_none, Bool.or_false,
    decide_eq_true_eq, if_neg hfew]

theorem exec_cartridgeTimeout {u : Tick} (hu : (s.port p).cleanAt = some u) (hlong : 3000000000 ≤ s.now - u) :
    exec (.cartridgeTimeout p) s = .next (s.cleanEnd p 2) := by
  have hx : exec (.cartridgeTimeout p) s = execCartridgeTimeout p s := rfl
  have hpassed : s.passed (some u) (tS 120) = true := decide_eq_true hlong
  rw [hx, execCartridgeTimeout, hup, hstate, hu, hpassed]
  rfl

end

theorem State.testResult_tests (s : State) (kind id cls slice : Nat) (req : Bool) : (s.testResult kind id cls slice req).tests = s.tests := by
  simp [tests, testResult]

theorem State.testResult_port (s : State) (kind id cls slice : Nat) (req : Bool) (q : Nat) : (s.testResult kind id cls slice req).port q = s.port q := by
  simp [port, testResult]

theorem State.testResult_burns (s : State) (kind id cls slice : Nat) (req : Bool) : (s.testResult kind id cls slice req).flt.burns = s.flt.burns := by
  simp [testResult]

theorem State.inspecting_now (s : State) (p l : Nat) : (s.inspecting p l).now = s.now := by
  unfold inspecting postInspect
  rw [State.post_now]
  exact State.setPort_now ..

/-! ## Outcomes of a lane's test -/

theorem exec_laneBerCheck {s : State} {p l : Nat} (hon : s.portOn p = true) (hl : l < 9) (hu : portUsable (s.port p).state = true) :
    exec (.laneBerCheck p l true) s = .next (s.wantLane p l) := by
  have hx : exec (.laneBerCheck p l true) s = execLaneBerCheck p l true s := rfl
  rw [hx, execLaneBerCheck, hon, hu, decide_eq_true hl]
  rfl

/-- Outside a test of the whole port the next lane follows, which leaves what the outcome counted. -/
theorem State.wholeTest_nextLane {s : State} {p : Nat} (h : (s.unit 5 p).testing = false) (l : Nat) : s.Reports ((s.wholeTest p l).nextLane p) ∧
    (((s.wholeTest p l).nextLane p).port p).plant = (s.port p).plant := by
  rw [State.wholeTest_none h]
  exact s.nextLane_spec p

/-- A transient outcome is counted in the lane's history, and on the whole module. -/
theorem exec_laneTestDone_transient {s : State} {p l e : Nat} (hon : s.portOn p = true) (ht : (s.port p).testing = some l) (hp : p < 12)
    (hwhole : (s.unit 5 p).testing = false) (hfew : ((s.unit 5 (laneKey p l)).transient.filter fun u => decide (s.now < u + 2160000000000)).length < 7) (he : e < 10) :
    ∃ t, exec (.laneTestDone p l e) s = .next t ∧ t.tests = ((s.laneTested p l).noteTransient 5 (laneKey p l)).1.tests := by
  have htests : (((((s.laneTested p l).noteTransient 5 (laneKey p l)).1.testResult 5 p 1 l false).lanePassed p l)).tests =
      ((s.laneTested p l).noteTransient 5 (laneKey p l)).1.tests := by rw [State.lanePassed_tests, State.testResult_tests]
  obtain ⟨hunits, -, -, -⟩ := State.tests_eq htests
  have hnote : (((s.laneTested p l).noteTransient 5 (laneKey p l)).1.unit 5 p).testing = (s.unit 5 p).testing := by
    unfold State.noteTransient
    dsimp only
    rw [State.updUnit_unit_ne _ _ _ (laneKey_ne_port hp l)]
    exact congrArg Unit.testing (s.laneTested_unit_ne p l (laneKey_ne_port hp l))
  obtain ⟨hrest, -⟩ := State.wholeTest_nextLane (l := l) (by rw [hunits, hnote, hwhole])
  exact ⟨_, exec_laneTestDone_passed hon ht hwhole he hfew, hrest.tests.trans htests⟩

/-- What the spare's taking a lane with a lasting fault leaves: the port, its fuse to be burned, the counts. -/
theorem State.laneBad_remap (s : State) (p l : Nat) :
    ((s.laneBad p l).remap p l).port p = { s.port p with badLanes := insertNat (s.port p).badLanes l, spareFor := l, remaps := (s.port p).remaps - 1 } ∧
    (∃ b, ((s.laneBad p l).remap p l).flt.burns = s.flt.burns ++ [b] ∧ b.kind = 7 ∧ b.unitId = p ∧ b.value = l) ∧
    ((s.laneBad p l).remap p l).tests = (s.flt.units, s.flt.transient, sat32 s.flt.lasting 1, s.parts) := by
  obtain ⟨hport, hburns⟩ := (s.laneBad p l).remap_spec p l
  rw [State.laneBad_port] at hport
  exact ⟨hport, hburns, (s.laneBad p l).remap_tests p l⟩

/-- A lasting outcome gives the lane to the free spare. -/
theorem exec_laneTestDone_spared {s : State} {p l e : Nat} (hon : s.portOn p = true) (ht : (s.port p).testing = some l) (hp : p < 12) (hl : l < 8)
    (hwhole : (s.unit 5 p).testing = false) (he : 10 ≤ e) (hfree : (s.port p).spareFor = 15) (hgood : (s.port p).badLanes = [])
    (hremaps : 0 < (s.port p).remaps) (hlower : ∀ k, k < l → (s.unit 5 (laneKey p k)).pending = none) :
    ∃ t w, exec (.laneTestDone p l e) s = .next t ∧ w = (s.laneTested p l).testResult 5 p 2 l false ∧ ((w.laneBad p l).remap p l).Reports t ∧
      (t.port p).plant = (((w.laneBad p l).remap p l).port p).plant := by
  generalize hw : (s.laneTested p l).testResult 5 p 2 l false = w
  have hport : w.port p = { s.port p with testing := none } := by
    rw [← hw, State.testResult_port]
    exact State.updPort_port_self ..
  obtain ⟨hunits, -, -, -⟩ : (∀ k i, w.unit k i = (s.laneTested p l).unit k i) ∧ _ := State.tests_eq (by rw [← hw, State.testResult_tests])
  have hlasting : w.laneLasting p l = (w.laneBad p l).remap p l := by
    refine State.laneLasting_spare hl (by rw [hport, hfree]) (by rw [hport, hgood]) (by rw [hport]; exact hremaps) fun k hk => ?_
    have hne : laneKey p k ≠ laneKey p l := by unfold laneKey; omega
    rw [hunits, State.laneTested_unit_ne _ _ _ hne, hlower k hk]
  obtain ⟨hunits', -, -, -⟩ := State.tests_eq ((w.laneBad p l).remap_tests p l)
  have htesting : (((w.laneBad p l).remap p l).unit 5 p).testing = false := by
    have hbad : (w.laneBad p l).unit 5 p = w.unit 5 p := rfl
    rw [hunits', hbad, hunits, State.laneTested_unit_ne _ _ _ (laneKey_ne_port hp l), hwhole]
  obtain ⟨hrest, hplant⟩ := State.wholeTest_nextLane htesting l
  exact ⟨_, _, by rw [exec_laneTestDone_failed hon ht hwhole he, hw, hlasting], rfl, hrest, hplant⟩

/-! ## A new baseline (R204, R219) -/

theorem Tbl.get_foldl_set {α : Type} (d : α) (g : Nat → α) (l : List Nat) {k : Nat} (hk : k ∈ l) : ∀ t : Tbl α,
    (l.foldl (fun t k => t.set k (g k)) t).get d k = g k := by
  have hkeeps (l : List Nat) (h : k ∉ l) : ∀ t : Tbl α, (l.foldl (fun t k => t.set k (g k)) t).get d k = t.get d k := by
    induction l with
    | nil => exact fun _ => rfl
    | cons a l ih =>
      intro t
      rw [List.mem_cons, not_or] at h
      rw [List.foldl_cons, ih h.2, Tbl.get_set_ne _ _ _ (Ne.symm h.1)]
  induction l with
  | nil => cases hk
  | cons a l ih =>
    intro t
    rw [List.foldl_cons]
    by_cases hl : k ∈ l
    · exact ih hl _
    · obtain rfl : k = a := (List.mem_cons.1 hk).resolve_right hl
      rw [hkeeps l hl, Tbl.get_set_self]

/-- The port with its new baseline. -/
def FPort.rebased (f : FPort) : FPort :=
  { f with oma := [], br := [], berBase := (List.range 9).foldl (fun t l => t.set l (f.ber.get (0, 0) l)) f.berBase, aged := (List.range 9).foldl (fun t l => t.set l (f.below l)) f.aged, inspectAt := [], rebase := false }

/-- A lane that has aged is posted. -/
def State.postAged (s : State) (p l : Nat) (d : Int) : State := s.post 0x0D07 5 p (leBytes 1 l ++ [0] ++ leBytes 2 (unsigned 16 d))

theorem State.newBaseline_eq (s : State) (p : Nat) : s.newBaseline p =
    (List.range 9).foldl (fun u l => if 300 < (s.port p).below l then u.postAged p l ((s.port p).below l) else u) (s.updPort p FPort.rebased) := rfl

/-- Beside the port's baseline only posts. -/
theorem State.newBaseline_keeps (s : State) (p : Nat) : (s.newBaseline p).fab = (s.updPort p FPort.rebased).fab ∧ (s.newBaseline p).tests = s.tests := by
  have hpost (u : State) (l : Nat) : (if 300 < (s.port p).below l then u.postAged p l ((s.port p).below l) else u).fab = u.fab ∧
      (if 300 < (s.port p).below l then u.postAged p l ((s.port p).below l) else u).tests = u.tests := by
    split
    · exact ⟨State.post_fab .., State.post_tests ..⟩
    · exact ⟨rfl, rfl⟩
  rw [State.newBaseline_eq]
  exact ⟨foldl_keeps _ State.fab (fun u l => (hpost u l).1) _ _, foldl_keeps _ State.tests (fun u l => (hpost u l).2) _ _⟩

theorem State.newBaseline_port (s : State) (p : Nat) : (s.newBaseline p).port p = (s.port p).rebased := by
  rw [port, (s.newBaseline_keeps p).1, ← port, State.updPort_port_self]

/-- One lane alone has aged. -/
theorem State.newBaseline_aged {s : State} {p l : Nat} (hl : l < 9) (haged : 300 < (s.port p).below l) (hone : ∀ k, k < 9 → k ≠ l → (s.port p).below k ≤ 300) :
    s.newBaseline p = (s.updPort p FPort.rebased).postAged p l ((s.port p).below l) := by
  have hlanes : (List.range 9).filter (fun k => decide (300 < (s.port p).below k)) = [l] := by
    have hcongr : ∀ k ∈ List.range 9, decide (300 < (s.port p).below k) = (k == l) := fun k hk => by
      by_cases h : k = l
      · rw [h, beq_self_eq_true, decide_eq_true haged]
      · rw [beq_eq_false_iff_ne.2 h, decide_eq_false (Int.not_lt.2 (hone k (List.mem_range.1 hk) h))]
    rw [List.filter_congr hcongr, List.filter_beq, List.count_eq_one_of_mem List.nodup_range (List.mem_range.2 hl)]
    rfl
  have hfold := List.foldl_filter (p := fun k => decide (300 < (s.port p).below k)) (f := fun u l => u.postAged p l ((s.port p).below l))
    (l := List.range 9) (init := s.updPort p FPort.rebased)
  rw [hlanes] at hfold
  rw [State.newBaseline_eq]
  simp only [decide_eq_true_eq] at hfold
  exact hfold.symm

theorem State.newBaseline_posted {s : State} {p l : Nat} (hl : l < 9) (haged : 300 < (s.port p).below l) (hone : ∀ k, k < 9 → k ≠ l → (s.port p).below k ≤ 300) :
    eventPosted s (s.newBaseline p) 0x0D07 5 p (leBytes 1 l ++ [0] ++ leBytes 2 (unsigned 16 ((s.port p).below l))) := by
  rw [State.newBaseline_aged hl haged hone]
  exact State.eventPosted_post (u := s.updPort p FPort.rebased) rfl rfl _ _ _ _

/-- A lane to be tested again has its test called for. -/
def State.retestLane (s : State) (p l : Nat) : State :=
  s.updUnit 5 (laneKey p l) fun u => { u with pending := u.pending.orElse fun _ => some (l, none), pendingAt := s.now }

def State.retestLanes (s : State) (p : Nat) (lanes : List Nat) : State := lanes.foldl (fun s l => s.retestLane p l) s

theorem State.retestLanes_keeps (s : State) (p : Nat) (lanes : List Nat) : (s.retestLanes p lanes).fab = s.fab ∧ (s.retestLanes p lanes).parts = s.parts :=
  ⟨foldl_keeps (fun s l => s.retestLane p l) State.fab (fun _ _ => rfl) lanes s, foldl_keeps (fun s l => s.retestLane p l) State.parts (fun _ _ => rfl) lanes s⟩

/-- A rebaseline's port and partitions. -/
theorem State.rebaseline_keeps (s : State) (p : Nat) : ((s.rebaseline p).port p).plant = (s.port p).rebased.plant ∧ (s.rebaseline p).parts = s.parts := by
  have hrebase : s.rebaseline p = ((s.newBaseline p).retestLanes p (s.port p).badLanes).nextLane p := rfl
  obtain ⟨hfab, hparts⟩ := (s.newBaseline p).retestLanes_keeps p (s.port p).badLanes
  obtain ⟨hrest, hplant⟩ := ((s.newBaseline p).retestLanes p (s.port p).badLanes).nextLane_spec p
  obtain ⟨-, -, -, hparts'⟩ := State.tests_eq (s.newBaseline_keeps p).2
  obtain ⟨-, -, -, hparts''⟩ := State.tests_eq hrest.tests
  rw [hrebase]
  refine ⟨?_, hparts''.trans (hparts.trans hparts')⟩
  rw [hplant, port, hfab, ← port, State.newBaseline_port]

/-- With no test called for, a port in the state of its lanes stays as it is. -/
theorem State.WidthServed.nextLane_idle {s : State} {p : Nat} (h : s.WidthServed p) (hnone : ∀ l, l < 9 → (s.unit 5 (laneKey p l)).pending = none) :
    s.nextLane p = s := by
  have hleast : (leastBelow 9 fun l => (s.unit 5 (laneKey p l)).pending.isSome) = none :=
    List.find?_eq_none.2 fun l hl => by simp [hnone l (List.mem_range.1 hl)]
  unfold State.nextLane
  rw [h.setWidth, hleast]
  exact ite_self s

/-- A port with no lane to be tested only takes its baseline. -/
theorem State.WidthServed.rebaseline_idle {s : State} {p : Nat} (h : s.WidthServed p) (hgood : (s.port p).badLanes = [])
    (hnone : ∀ l, l < 9 → (s.unit 5 (laneKey p l)).pending = none) : s.rebaseline p = s.newBaseline p := by
  obtain ⟨hfab, htests⟩ := s.newBaseline_keeps p
  obtain ⟨hunits, -, -, -⟩ := State.tests_eq htests
  have hserved : (s.newBaseline p).WidthServed p := (h.updPort (g := FPort.rebased) rfl rfl).ports hfab
  have hrebase : s.rebaseline p = ((s.newBaseline p).retestLanes p (s.port p).badLanes).nextLane p := rfl
  rw [hrebase, hgood]
  exact hserved.nextLane_idle fun l hl => by rw [hunits, hnone l hl]

theorem FPort.rebased_lane (f : FPort) {l : Nat} (hl : l < 9) : f.rebased.berBase.get (0, 0) l = f.ber.get (0, 0) l ∧ f.rebased.aged.get 0 l = f.below l :=
  ⟨Tbl.get_foldl_set (0, 0) (f.ber.get (0, 0)) _ (List.mem_range.2 hl) _, Tbl.get_foldl_set 0 f.below _ (List.mem_range.2 hl) _⟩

/-- The last measurements of lanes leave the rest of their port. -/
theorem FPort.measures_keeps {γ : Type} (φ : FPort → γ) (hφ : ∀ (f : FPort) a b c, φ { f with oma := a, br := b, ber := c } = φ f) (l : List LaneMeas) :
    ∀ f : FPort, φ (l.foldl FPort.measure f) = φ f := by
  induction l with
  | nil => exact fun _ => rfl
  | cons m l ih => exact fun f => (ih _).trans (hφ f _ _ _)

theorem exec_rebaseline {s : State} {p : Nat} (hon : s.portOn p = true) (hu : portUsable (s.port p).state = true) (hr : (s.port p).rebase = true)
    (hlong : 250000000 ≤ s.now - (s.port p).upAt) (lanes : List LaneMeas) :
    exec (.rebaseline p lanes) s = .next ((s.updPort p fun f => lanes.foldl FPort.measure f).rebaseline p) := by
  have hx : exec (.rebaseline p lanes) s = execRebaseline p lanes s := rfl
  have hpassed : decide (tS 10 ≤ s.since (s.port p).upAt) = true := decide_eq_true hlong
  rw [hx, execRebaseline]
  simp only [hon, hu, hr, hpassed, Bool.and_self, if_true]

/-- An hour of cleanings in vain. -/
theorem exec_cleanReqInterval_vain {s : State} {p : Nat} (hon : s.portOn p = true) (hstate : (s.port p).state = 4) (hat : (s.port p).inspectPost = none)
    (hvain : 3 ≤ s.uselessCleans p) : exec (.cleanReqInterval p) s = .next (s.postIneffective p) := by
  have hx : exec (.cleanReqInterval p) s = execCleanReqInterval p s := rfl
  have hpassed : hourPassed s (s.port p).inspectPost = true := by rw [hat]; rfl
  rw [hx, execCleanReqInterval]
  simp only [hon, hstate, hpassed, beq_self_eq_true, Bool.and_self, if_true, if_neg (Nat.not_lt.2 hvain)]

theorem State.postIneffective_spec (s : State) (p : Nat) : (s.postIneffective p).port p = { s.port p with inspectPost := some s.now } ∧
    eventPosted s (s.postIneffective p) 0x0D06 5 p [] := by
  unfold postIneffective
  refine ⟨?_, State.eventPosted_post (u := s.updPort p fun f => { f with inspectPost := some s.now }) rfl rfl _ _ _ _⟩
  rw [State.post_port]
  exact State.updPort_port_self ..

/-! ## Into INSPECT (R219, R220) -/

theorem FPort.measure_lane (f : FPort) (l : Nat) (o b : Int) (r : Nat × Nat) : (f.measure ⟨l, o, b, r⟩).oma.get 0 l = o ∧
    (f.measure ⟨l, o, b, r⟩).br.get 0 l = b ∧ (f.measure ⟨l, o, b, r⟩).ber.get (0, 0) l = r :=
  ⟨Tbl.get_set_self .., Tbl.get_set_self .., Tbl.get_set_self ..⟩

theorem FPort.noteUseless_reqId (f : FPort) (now : Tick) : (f.noteUseless now).reqId = f.reqId := by
  unfold noteUseless
  rfl

theorem State.inspecting_port (s : State) (p l : Nat) : ((s.inspecting p l).port p).state = 4 ∧ ((s.inspecting p l).port p).inspectPost = some s.now ∧
    ((s.inspecting p l).port p).reqId = (s.port p).reqId := by
  have hline := s.inspecting_line p l
  exact ⟨(FPort.line_keeps FPort.state (fun _ => rfl) hline).trans rfl, (FPort.line_keeps FPort.inspectPost (fun _ => rfl) hline).trans rfl,
    (FPort.line_keeps FPort.reqId (fun _ => rfl) hline).trans (FPort.noteUseless_reqId (s.port p) s.now)⟩

section
variable {s : State} {p l : Nat} {o b : Int} {r : Nat × Nat} {u : Tick} (hon : s.portOn p = true) (hl : l ≤ 8) (hup : (s.port p).state = 2 ∨ (s.port p).state = 3)
  (hfoul : ((s.port p).measure ⟨l, o, b, r⟩).foul l = true) (hat : (s.port p).inspectAt.find? l = some u) (hlong : 250000000 ≤ s.now - u)
  (hclean : (s.port p).cleanAt = none) (hnever : (s.port p).cleanings = [])
include hon hl hup hfoul hat hlong hclean hnever

/-- After 10 s a port that was never cleaned stands in INSPECT, and its cartridge cleans it. -/
theorem exec_inspectEntry_enters : exec (.inspectEntry p l o b r) s = .next
    (if s.cartridge then ((s.measured p ⟨l, o, b, r⟩).inspecting p l).startClean p else (s.measured p ⟨l, o, b, r⟩).inspecting p l) := by
  have hport := s.measured_port p ⟨l, o, b, r⟩
  have hcart : (s.measured p ⟨l, o, b, r⟩).cartridge = s.cartridge := rfl
  rw [exec_inspectEntry_since hon hl hup hfoul hat, if_pos hlong, State.enterInspect_first (by rw [hport]; exact hclean) (by rw [hport]; exact hnever), hcart]

theorem exec_inspectEntry_posted (hcart : s.cartridge = false) : ∃ t : State, exec (.inspectEntry p l o b r) s = .next t ∧ (t.port p).state = 4 ∧
    (t.port p).inspectPost = some s.now ∧
    eventPosted s t 0x0D04 5 p (leBytes 1 l ++ [0] ++ leBytes 2 (unsigned 16 o) ++ leBytes 2 (berLog r)) := by
  have hexec := exec_inspectEntry_enters hon hl hup hfoul hat hlong hclean hnever
  rw [hcart, if_neg Bool.false_ne_true] at hexec
  obtain ⟨homa, -, hber⟩ := (s.port p).measure_lane l o b r
  obtain ⟨hstate, hpost, -⟩ := (s.measured p ⟨l, o, b, r⟩).inspecting_port p l
  have hposted := (s.measured p ⟨l, o, b, r⟩).inspecting_posted p l
  rw [State.measured_port, homa, hber] at hposted
  exact ⟨_, hexec, hstate, hpost, hposted⟩

theorem exec_inspectEntry_cleans (hcart : s.cartridge = true) : ∃ t : State, exec (.inspectEntry p l o b r) s = .next t ∧ (t.port p).state = 5 ∧
    (t.port p).cleanAt = some s.now ∧ (t.port p).reqId = ((s.port p).reqId + 1) % 256 ∧
    (t.port p).cleanReq = cleanReqBytes p (((s.port p).reqId + 1) % 256) := by
  have hexec := exec_inspectEntry_enters hon hl hup hfoul hat hlong hclean hnever
  rw [hcart, if_pos rfl] at hexec
  obtain ⟨-, -, hreq⟩ := (s.measured p ⟨l, o, b, r⟩).inspecting_port p l
  obtain ⟨hstate, hat, hid, hbytes⟩ := ((s.measured p ⟨l, o, b, r⟩).inspecting p l).startClean_port p
  have hnow : ((s.measured p ⟨l, o, b, r⟩).inspecting p l).now = s.now := State.inspecting_now ..
  have hid' : ((s.port p).measure ⟨l, o, b, r⟩).reqId = (s.port p).reqId := rfl
  rw [hreq, State.measured_port, hid'] at hid hbytes
  rw [hnow] at hat
  exact ⟨_, hexec, hstate, hat, hid, hbytes⟩

end

/-! ## The port commands (R221) -/

section
variable {s : State} {m : Mb} {r : Req}

theorem exec_fabPort (h : s.runs m 0x0D01 false = some r) (hl : r.len = 4) (hz : field r.pay 1 3 = 0) :
    exec (.fabPort m) s = .next (((s.taken m).fabPort r).1.respond m 0x0D01 r.tag ((s.taken m).fabPort r).2) :=
  congrArg Host.Outcome.next (State.mbRun_ok (lenIs 4 [(1, 3)]) State.fabPort h (lenIs_ok hl (List.forall_mem_singleton.2 hz)))

theorem exec_fabCounters (h : s.runs m 0x0D02 false = some r) (hl : r.len = 4) (hz : r.u16 2 = 0) :
    exec (.fabCounters m) s = .next (((s.taken m).fabCounters r).1.respond m 0x0D02 r.tag ((s.taken m).fabCounters r).2) :=
  congrArg Host.Outcome.next (State.mbRun_ok (lenIs 4 [(2, 2)]) State.fabCounters h (lenIs_ok hl (List.forall_mem_singleton.2 hz)))

theorem exec_fabPortCtrl (h : s.runs m 0x0D03 false = some r) (hl : r.len = 4) (hz : r.u16 2 = 0) :
    exec (.fabPortCtrl m) s = .next (((s.taken m).fabPortCtrl r).1.respond m 0x0D03 r.tag ((s.taken m).fabPortCtrl r).2) :=
  congrArg Host.Outcome.next (State.mbRun_ok (lenIs 4 [(2, 2)]) State.fabPortCtrl h (lenIs_ok hl (List.forall_mem_singleton.2 hz)))

/-- A lane's measurements in FAB_PORT. -/
def FPort.laneReport (f : FPort) (l : Nat) : List Byte :=
  leBytes 2 (unsigned 16 (f.oma.get 0 l)) ++ leBytes 2 (unsigned 16 (f.br.get 0 l)) ++ leBytes 2 (berLog (f.ber.get (0, 0) l)) ++ [0, 0]

theorem FPort.report_length (f : FPort) : ((List.range 9).map f.laneReport).flatten.length = 72 := rfl

theorem State.fabPort_named (hp : r.u8 0 ≤ 11) {k n np : Nat} (ht : s.topo (r.u8 0) = some (k, n, np)) : s.fabPort r =
    (s, okR (leBytes 1 (s.port (r.u8 0)).state ++ leBytes 1 (s.port (r.u8 0)).spareFor ++ leBytes 1 (s.port (r.u8 0)).remaps ++ leBytes 1 np ++ leBytes 1 n ++ [0, 0, 0] ++
      ((List.range 9).map (s.port (r.u8 0)).laneReport).flatten)) := by
  unfold fabPort portCode
  rw [if_neg (Nat.not_lt.2 hp), ht]
  rfl

theorem State.fabCounters_named (hp : r.u8 0 ≤ 11) (ha : r.u8 1 ≤ 1) : s.fabCounters r =
    (if r.u8 1 == 1 then s.updPort (r.u8 0) fun f => { f with ctr := [] } else s, okR ((List.range 12).map fun i => leBytes 8 ((s.port (r.u8 0)).ctr.get 0 i)).flatten) := by
  have hok : (decide (11 < r.u8 0) || decide (1 < r.u8 1)) = false := by simp [hp, ha]
  unfold fabCounters
  simp only [hok, Bool.false_eq_true, if_false]

/-- A port that the topology does not name, or an action that there is not. -/
theorem State.fabPortCtrl_badArg (h : 11 < r.u8 0 ∨ 4 < r.u8 1 ∨ s.topo (r.u8 0) = none) : s.fabPortCtrl r = (s, failR St.badArg) := by
  have hbad : (decide (11 < r.u8 0) || decide (4 < r.u8 1) || (s.topo (r.u8 0)).isNone) = true := by
    rw [Bool.or_eq_true, Bool.or_eq_true, decide_eq_true_eq, decide_eq_true_eq, Option.isNone_iff_eq_none, or_assoc]
    exact h
  unfold fabPortCtrl
  exact if_pos hbad

/-- The actions on a port that no other operation holds. -/
theorem State.fabPortCtrl_acts (hp : r.u8 0 ≤ 11) (ht : (s.topo (r.u8 0)).isSome = true) (hheld : s.held (7, r.u8 0) = false) :
    (r.u8 1 = 0 → s.fabPortCtrl r = (if (s.port (r.u8 0)).state == 8 then s.setPort (r.u8 0) 0 else s, okR [])) ∧
    (r.u8 1 = 1 → s.fabPortCtrl r = (if (s.port (r.u8 0)).state == 8 then s else s.portDown (r.u8 0) 2 8 true, okR [])) ∧
    (r.u8 1 = 2 → s.fabPortCtrl r = s.portRetrain r (r.u8 0)) ∧ (r.u8 1 = 3 → s.fabPortCtrl r = s.portClean r (r.u8 0)) ∧
    (r.u8 1 = 4 → s.fabPortCtrl r = if (s.port (r.u8 0)).state == 2 then (s.newBaseline (r.u8 0), okR []) else (s, failR St.refused 2)) := by
  have hok (ha : r.u8 1 ≤ 4) : (decide (11 < r.u8 0) || decide (4 < r.u8 1) || (s.topo (r.u8 0)).isNone) = false := by
    rw [decide_eq_false (Nat.not_lt.2 hp), decide_eq_false (Nat.not_lt.2 ha), Option.isNone_eq_false_iff.2 ht]
    rfl
  unfold fabPortCtrl
  refine ⟨fun h => ?_, fun h => ?_, fun h => ?_, fun h => ?_, fun h => ?_⟩ <;>
    · simp only [hok (by omega), hheld, Bool.false_eq_true, if_false]
      simp only [h]

theorem State.portRetrain_usable {p : Nat} (hu : portUsable (s.port p).state = true) (hop : s.mason.lastOp + 1 < 2 ^ 32) : s.portRetrain r p =
    (State.retrain { s with mason.lastOp := s.mason.lastOp + 1, mason.ops := s.mason.ops ++ [⟨s.mason.lastOp + 1, r.mb, r.code, r.tag, .fabRetrain p⟩] } p,
      { status := St.accepted, arg := s.mason.lastOp + 1 }) := by
  unfold portRetrain
  rw [if_pos hu, State.accept_next hop]

/-- A port is cleaned at most once an hour. -/
theorem State.portClean_often {p : Nat} {u : Tick} (hat : (s.port p).cleanAt = some u) (hshort : s.now - u < 90000000000) :
    s.portClean r p = (s, failR St.refused 1) := by
  have hpassed : hourPassed s (s.port p).cleanAt = false := by
    rw [hat]
    exact decide_eq_false (Nat.not_le.2 hshort)
  unfold portClean
  rw [hpassed]
  rfl

end

theorem State.retrain_mason (s : State) (p : Nat) : (s.retrain p).mason = s.mason := State.setPort_mason ..

/-- Settles O52: each event by its equation. A lane's test counts in what `State.tests` names, a cleaning and a baseline are read off what service leaves
of the port, and each command is its body on the request taken. -/
theorem lanesAreTestedAndPortsCleaned : Obligations.LanesAreTestedAndPortsCleaned := by
  refine ⟨fun s p l hon hl hu hp ht hserved => ?high, fun s p l e hon ht hp hl hwhole hfew he => ?transient,
    fun s p l e hon ht hp hl hwhole he hfree hgood hremaps hlower => ?lasting,
    fun s p l o b e n hon hl hup hlight hn hbase hfour => ⟨fun hat => ?begins, fun u hat hshort => ?early, fun u hat hlong hclean hnever => ⟨fun hcart => ?inspect, fun hcart => ?clean⟩⟩,
    fun s p id hup hstate hfree hprofile => ⟨fun hid => ?done, fun v hv => ?busy, fun hfails => exec_cartridgePoll_failed hup hstate hfree hfails id, fun u hat hlong => ?silent⟩,
    fun s p lanes f below hf hon hu hr hlong hbelow => ?baseline, fun s p hon hstate hat hvain => ?vain,
    fun s m r hm hl hz => ⟨fun hp => ?portBad, fun k n np hp ht => ?port⟩, fun s m r hm hl hz => ⟨fun hbad => ?countersBad, fun hp ha => ?counters⟩,
    fun s m r hm hl hz => ⟨fun hbad => ?ctrlBad, fun hp ht hheld => ?ctrl⟩⟩
  case high =>
    rw [exec_laneBerCheck hon hl hu]
    exact congrArg Host.Outcome.next (State.WidthServed.wantLane hserved ht hp)
  case transient =>
    obtain ⟨t, hexec, htests⟩ := exec_laneTestDone_transient hon ht hp hwhole hfew he
    obtain ⟨hunits, htransient, hlasting, hparts⟩ := State.tests_eq htests
    refine ⟨t, hexec, ?_, ?_, htransient, hlasting, hparts⟩ <;> rw [hunits, State.noteTransient_unit, State.laneTested_unit]
  case lasting =>
    obtain ⟨t, w, hexec, hw, hrest, hplant⟩ := exec_laneTestDone_spared hon ht hp hl hwhole he hfree hgood hremaps hlower
    have hwport : w.port p = { s.port p with testing := none } := by
      rw [hw, State.testResult_port]
      exact State.updPort_port_self ..
    obtain ⟨hport, ⟨b, hburns, hb⟩, htests⟩ := w.laneBad_remap p l
    have hwtests : w.tests = (s.laneTested p l).tests := by rw [hw, State.testResult_tests]
    obtain ⟨-, hwtransient, hwlasting, hwparts⟩ := State.tests_eq hwtests
    have hend := hrest.tests.trans htests
    unfold State.tests at hend
    simp only [Prod.mk.injEq] at hend
    obtain ⟨-, htransient, hlasting, hparts⟩ := hend
    have hfuse : t.flt.burns = w.flt.burns ++ [b] := (hrest.keeps (fun s => s.flt.burns) fun _ _ => rfl).trans hburns
    refine ⟨t, hexec, ?_, ?_, ?_, hlasting.trans (congrArg (fun n => sat32 n 1) hwlasting), htransient.trans hwtransient, ⟨b, ?_, hb⟩, hparts.trans hwparts⟩
    · rw [FPort.plant_keeps FPort.spareFor (fun _ => rfl) hplant, hport]
    · rw [FPort.plant_keeps FPort.badLanes (fun _ => rfl) hplant, hport, hwport, hgood]
      rfl
    · rw [FPort.plant_keeps FPort.remaps (fun _ => rfl) hplant, hport, hwport]
    · rw [hfuse, hw, State.testResult_burns]
      rfl
  case begins =>
    have hfoul := FPort.measure_foul (f := s.port p) hlight hn hbase hfour
    have hport := State.updPort_port_self (s.measured p ⟨l, o, b, (e, n)⟩) p fun f => { f with inspectAt := f.inspectAt.set l s.now }
    rw [State.measured_port] at hport
    refine ⟨_, exec_inspectEntry_first hon hl hup hfoul hat, ?_⟩
    rw [hport]
    exact ⟨Tbl.find?_set_self .., Tbl.get_set_self .., Tbl.get_set_self .., Tbl.get_set_self .., rfl, rfl⟩
  case early =>
    have hexec := exec_inspectEntry_since hon hl hup (FPort.measure_foul (f := s.port p) hlight hn hbase hfour) hat
    rw [if_neg (Nat.not_le.2 hshort)] at hexec
    exact ⟨_, hexec, (congrArg FPort.state (s.measured_port p ⟨l, o, b, (e, n)⟩)).trans rfl, rfl⟩
  case inspect => exact exec_inspectEntry_posted hon hl hup (FPort.measure_foul (f := s.port p) hlight hn hbase hfour) hat hlong hclean hnever hcart
  case clean => exact exec_inspectEntry_cleans hon hl hup (FPort.measure_foul (f := s.port p) hlight hn hbase hfour) hat hlong hclean hnever hcart
  case done =>
    have hexec := exec_cartridgePoll_value hup hstate hfree hprofile 2 id
    rw [hid, bne_self_eq_false, if_neg Bool.false_ne_true, if_pos (beq_self_eq_true _)] at hexec
    rw [hid]
    exact ⟨_, hexec, State.cleanEnd_port (s.updPort p fun f => { f with cartFails := 0 }) p 0⟩
  case busy =>
    rw [exec_cartridgePoll_value hup hstate hfree hprofile]
    split
    · rfl
    · next hsame =>
      obtain rfl | rfl := hv.resolve_left fun h => hsame (bne_iff_ne.2 h)
      · rfl
      · rfl
  case silent =>
    obtain ⟨h1, h2, -⟩ := s.cleanEnd_port p 2
    exact ⟨_, exec_cartridgeTimeout hup hstate hat hlong, h1, h2⟩
  case baseline =>
    obtain rfl : below = f.below := funext hbelow
    have hport : (s.updPort p fun f => lanes.foldl FPort.measure f).port p = f := by rw [State.updPort_port_self, hf]
    obtain ⟨hplant, hparts⟩ := (s.updPort p fun f => lanes.foldl FPort.measure f).rebaseline_keeps p
    rw [hport] at hplant
    refine ⟨_, exec_rebaseline hon hu hr hlong lanes, FPort.plant_keeps FPort.rebase (fun _ => rfl) hplant, FPort.plant_keeps FPort.oma (fun _ => rfl) hplant,
      FPort.plant_keeps FPort.br (fun _ => rfl) hplant, hparts, fun l hl => ?_, fun hgood hnone hserved l hl haged hone => ?_⟩
    · rw [FPort.plant_keeps FPort.berBase (fun _ => rfl) hplant, FPort.plant_keeps FPort.aged (fun _ => rfl) hplant]
      exact f.rebased_lane hl
    · have hserved' : (s.updPort p fun f => lanes.foldl FPort.measure f).WidthServed p :=
        State.WidthServed.updPort hserved (FPort.measures_keeps FPort.lanes (fun _ _ _ _ => rfl) lanes _) (FPort.measures_keeps FPort.state (fun _ _ _ _ => rfl) lanes _)
      have hgood' : f.badLanes = [] := by rw [hf, FPort.measures_keeps FPort.badLanes (fun _ _ _ _ => rfl), hgood]
      have hposted := State.newBaseline_posted (s := s.updPort p fun f => lanes.foldl FPort.measure f) hl (by rw [hport]; exact haged) (by rw [hport]; exact hone)
      rw [hport] at hposted
      rw [hserved'.rebaseline_idle (by rw [hport, hgood']) hnone]
      exact hposted
  case vain =>
    obtain ⟨hport, hposted⟩ := s.postIneffective_spec p
    exact ⟨_, exec_cleanReqInterval_vain hon hstate hat hvain, congrArg FPort.inspectPost hport, (congrArg FPort.state hport).trans hstate, hposted⟩
  case portBad =>
    rw [exec_fabPort hm hl hz, State.fabPort, if_pos hp]
    rfl
  case port =>
    rw [exec_fabPort hm hl hz, State.fabPort_named (s := s.taken m) hp ht]
    exact ⟨_, rfl, FPort.report_length _, rfl⟩
  case countersBad =>
    rw [exec_fabCounters hm hl hz, State.fabCounters, if_pos (by simpa using hbad)]
    rfl
  case counters =>
    rw [exec_fabCounters hm hl hz, State.fabCounters_named (s := s.taken m) hp ha]
    refine ⟨_, rfl, fun h => ?_, fun h => ⟨?_, fun q hq => ?_⟩⟩
    · rw [h]
      rfl
    · rw [h]
      exact State.updPort_port_self (s.taken m) (r.u8 0) fun f => { f with ctr := [] }
    · rw [h]
      exact State.updPort_port_ne (s.taken m) (fun f => { f with ctr := [] }) hq
  case ctrlBad =>
    rw [exec_fabPortCtrl hm hl hz, State.fabPortCtrl_badArg (s := s.taken m) hbad]
    rfl
  case ctrl =>
    obtain ⟨henable, hdisable, hretrain, hclean, hbaseline⟩ := State.fabPortCtrl_acts (s := s.taken m) hp ht hheld
    rw [exec_fabPortCtrl hm hl hz]
    refine ⟨fun ha hstate => ?enable, fun ha hstate => ?disable, fun ha hu hop => ?again, fun u ha hat hshort => ?often, fun ha hstate => ?notUp⟩
    case enable =>
      rw [henable ha, State.taken_get_port, hstate]
      exact ⟨_, rfl, State.setPort_state .., congrArg (fun m => m.ops) (State.setPort_mason (s.taken m) (r.u8 0) 0)⟩
    case disable =>
      rw [hdisable ha, State.taken_get_port, if_neg (by simpa using hstate), State.portDown_fin]
      exact ⟨_, rfl, State.portDown_state .., State.portDown_rx ..⟩
    case again =>
      rw [hretrain ha, State.portRetrain_usable (s := s.taken m) hu hop]
      obtain ⟨hstate, hretraining, -⟩ := State.retrain_port { s.taken m with mason.lastOp := s.mason.lastOp + 1, mason.ops := s.mason.ops ++ [⟨s.mason.lastOp + 1, r.mb, r.code, r.tag, .fabRetrain (r.u8 0)⟩] } (r.u8 0)
      exact ⟨_, rfl, hstate, hretraining, congrArg (fun m => m.ops) (State.retrain_mason ..)⟩
    case often =>
      rw [hclean ha, State.portClean_often (s := s.taken m) hat hshort]
      rfl
    case notUp =>
      rw [hbaseline ha, State.taken_get_port, if_neg (by simpa using hstate)]
      rfl

end Sys2Proof.Machine
end

section
/-! SUPPORT. Packets that arrive (R206, R207, R210, R215, R217): delivery, forwarding, drops, and a child's TIME. -/

namespace Sys2Proof.Machine

/-- The oldest packet has left the receive buffer of its port. -/
def State.unloaded (s : State) (p : Nat) (x : Packet) (rest : List Packet) : State :=
  s.updPort p fun f => { f with rx := rest, owed := f.owed + creditsOf x }

theorem State.unloaded_port (s : State) (p : Nat) (x : Packet) (rest : List Packet) :
    (s.unloaded p x rest).port p = { s.port p with rx := rest, owed := (s.port p).owed + creditsOf x } := State.updPort_port_self ..

theorem State.unloaded_port_ne (s : State) {p q : Nat} (h : q ≠ p) (x : Packet) (rest : List Packet) : (s.unloaded p x rest).port q = s.port q :=
  State.updPort_port_ne _ _ h

/-- What the receive buffer and the credits owed do not touch is the same on every port. -/
theorem State.unloaded_port_keeps {γ : Type} (φ : FPort → γ) (hφ : ∀ (f : FPort) a b, φ { f with rx := a, owed := b } = φ f) (s : State) (p : Nat) (x : Packet)
    (rest : List Packet) (q : Nat) : φ ((s.unloaded p x rest).port q) = φ (s.port q) := by
  by_cases h : q = p
  · rw [h, State.unloaded_port, hφ]
  · rw [State.unloaded_port_ne _ h]

section
variable {s : State} {p : Nat} {x : Packet} {rest : List Packet} (hon : s.portOn p = true) (hrx : (s.port p).rx = x :: rest)
include hon hrx

theorem exec_settPacketReceive : exec (.settPacketReceive p) s = .next
    (if s.delivers x then (s.unloaded p x rest).deliver p x else (s.unloaded p x rest).forward p x) := by
  have hx : exec (.settPacketReceive p) s = execSettPacketReceive p s := rfl
  rw [hx, execSettPacketReceive]
  simp only [hrx, hon, if_true]
  rfl

theorem exec_settPacketReceive_delivered (h : s.delivers x = true) : exec (.settPacketReceive p) s = .next ((s.unloaded p x rest).deliver p x) := by
  rw [exec_settPacketReceive hon hrx, if_pos h]

theorem exec_settPacketReceive_forwarded (h : s.delivers x = false) : exec (.settPacketReceive p) s = .next ((s.unloaded p x rest).forward p x) := by
  rw [exec_settPacketReceive hon hrx, h, if_neg Bool.false_ne_true]

end

/-! ## Delivery -/

theorem State.deliver_tagFail {s : State} {x : Packet} (h : x.tagOk = false ∨ s.sec.fabRetired.contains x.keyId = true) (p : Nat) :
    s.deliver p x = s.tagFail p x := by
  have hbad : (!x.tagOk || s.sec.fabRetired.contains x.keyId) = true := by
    rw [Bool.or_eq_true, Bool.not_eq_true']
    exact h
  unfold deliver
  exact if_pos hbad

section
variable {s : State} {x : Packet} (htag : x.tagOk = true) (hkey : s.sec.fabRetired.contains x.keyId = false)
include htag hkey

theorem State.deliver_whole (p : Nat) : s.deliver p x = if s.isDrained x then s.drainCount p x else if x.type == 0x22 then s.answerTime p x
    else if linkOnly x then s else { s with fab.inbox := s.fab.inbox ++ [(p, x)] } := by
  unfold deliver
  rw [htag, hkey]
  rfl

/-- A packet for this module that no event brings by itself waits to be acted on. -/
theorem State.deliver_inbox (hdrained : s.isDrained x = false) (h20 : x.type ≠ 0x20) (h22 : x.type ≠ 0x22) (p : Nat) :
    s.deliver p x = { s with fab.inbox := s.fab.inbox ++ [(p, x)] } := by
  rw [State.deliver_whole htag hkey, hdrained, linkOnly, beq_eq_false_iff_ne.2 h20, beq_eq_false_iff_ne.2 h22]
  rfl

theorem State.deliver_drained (hdrained : s.isDrained x = true) (p : Nat) : s.deliver p x = s.drainCount p x := by
  rw [State.deliver_whole htag hkey, if_pos hdrained]

/-- A control packet belongs to no tenant (R215; log 39). -/
theorem State.deliver_time (h : x.type = 0x22) (p : Nat) : s.deliver p x = s.answerTime p x := by
  have hdrained : s.isDrained x = false := by rw [isDrained, h]; rfl
  rw [State.deliver_whole htag hkey, hdrained, h]
  rfl

end

theorem State.drainCount_none {s : State} {x : Packet} (h : s.importOf x = none) (p : Nat) : s.drainCount p x = s.updPort p fun f => f.count 8 1 := by
  have himport : (s.updPort p fun f => f.count 8 1).importOf x = none := h
  unfold drainCount
  simp only [himport]

/-! ## On the way (R210) -/

theorem State.forward_dropped {s : State} {x : Packet} (hdrained : s.isDrained x = false)
    (h : x.hopCount ≤ x.hop ∨ portUsable (s.port (x.route.getD x.hop 0)).state = false) (p : Nat) : s.forward p x = s.updPort p fun f => f.count 6 1 := by
  have hlost : (decide (x.hopCount < x.hop + 1) || !portUsable (s.port (x.route.getD x.hop 0)).state) = true := by
    rw [Bool.or_eq_true, decide_eq_true_eq, Bool.not_eq_true', Nat.lt_succ_iff]
    exact h
  unfold forward
  simp only [hdrained, Bool.false_eq_true, if_false, hlost, if_true]

theorem State.forward_drained {s : State} {x : Packet} (hdrained : s.isDrained x = true) (p : Nat) : s.forward p x = s.drainCount p x := by
  unfold forward
  exact if_pos hdrained

/-- With a usable port for its next hop the packet goes on, its hop counted. -/
theorem State.forward_sends {s : State} {x : Packet} {out : Nat} (hout : x.route.getD x.hop 0 = out) (hdrained : s.isDrained x = false) (hhop : x.hop < x.hopCount)
    (hu : portUsable (s.port out).state = true) (p : Nat) : s.forward p x = s.sendOn out { x with hop := x.hop + 1 } := by
  have hgoes : (decide (x.hopCount < x.hop + 1) || !portUsable (s.port out).state) = false := by
    rw [hu, decide_eq_false (by omega)]
    rfl
  unfold forward
  simp only [hdrained, Bool.false_eq_true, if_false, hout, hgoes]

/-- The packet leaves by its next hop, and the credits owed there leave with it. -/
theorem exec_settPacketReceive_sent {s : State} {p out : Nat} {x : Packet} {rest : List Packet} (hon : s.portOn p = true) (hrx : (s.port p).rx = x :: rest)
    (hout : x.route.getD x.hop 0 = out) (hd : s.delivers x = false) (hdrained : s.isDrained x = false) (hhop : x.hop < x.hopCount)
    (hu : portUsable (s.port out).state = true) (hw : (s.port out).waiting = []) (hc : creditsOf x ≤ (s.port out).credits) :
    ∃ t : State, exec (.settPacketReceive p) s = .next t ∧ (t.port p).rx = rest ∧ (t.port p).owed = (if out = p then 0 else (s.port p).owed + creditsOf x) ∧
      t.fab.sent = (out, { seq := (s.port out).txSeq, credits := (if out = p then (s.port p).owed + creditsOf x else (s.port out).owed), pkt := { x with hop := x.hop + 1 } }) :: s.fab.sent ∧ t.fab.inbox = s.fab.inbox := by
  have hu' : portUsable ((s.unloaded p x rest).port out).state = true := (State.unloaded_port_keeps (fun f => portUsable f.state) (fun _ _ _ => rfl) ..).trans hu
  have hw' : ((s.unloaded p x rest).port out).waiting = [] := (State.unloaded_port_keeps FPort.waiting (fun _ _ _ => rfl) ..).trans hw
  have hcr : ((s.unloaded p x rest).port out).credits = (s.port out).credits := State.unloaded_port_keeps FPort.credits (fun _ _ _ => rfl) ..
  have hseq : ((s.unloaded p x rest).port out).txSeq = (s.port out).txSeq := State.unloaded_port_keeps FPort.txSeq (fun _ _ _ => rfl) ..
  have howed : ((s.unloaded p x rest).port out).owed = if out = p then (s.port p).owed + creditsOf x else (s.port out).owed := by
    split
    · next h => rw [h, State.unloaded_port]
    · next h => rw [State.unloaded_port_ne _ h]
  have hframe : ((s.unloaded p x rest).port out).frame { x with hop := x.hop + 1 } =
      { seq := (s.port out).txSeq, credits := (if out = p then (s.port p).owed + creditsOf x else (s.port out).owed), pkt := { x with hop := x.hop + 1 } } := by
    rw [FPort.frame, hseq, howed]
  have hsends := (s.unloaded p x rest).sendOn_transmits out { x with hop := x.hop + 1 }
  obtain ⟨hsent, hport⟩ := (s.unloaded p x rest).sendOn_sends out { x with hop := x.hop + 1 } hw' (by rw [hcr]; exact hc)
  have hexec := exec_settPacketReceive_forwarded hon hrx hd
  rw [State.forward_sends (s := s.unloaded p x rest) hout hdrained hhop hu'] at hexec
  refine ⟨_, hexec, ?_, ?_, hsent.trans (congrArg (fun f => (out, f) :: s.fab.sent) hframe), hsends.keeps (fun s => s.fab.inbox) fun _ => rfl⟩
  · rw [hsends.rx, State.unloaded_port]
  · split
    · next h =>
      subst h
      rw [hport]
      rfl
    · next h =>
      have hne : ((s.unloaded p x rest).sendOn out { x with hop := x.hop + 1 }).port p = (s.unloaded p x rest).port p := State.pumpPort_port_ne (Ne.symm h) ..
      rw [hne, State.unloaded_port]

/-! ## A tag that fails (R206) -/

theorem FPort.count_rx (f : FPort) (i n : Nat) : (f.count i n).rx = f.rx := rfl

/-- The tests of lanes are called for. -/
def State.callLanes (s : State) (p : Nat) (lanes : List Nat) : State :=
  lanes.foldl (fun s l => s.updUnit 5 (laneKey p l) fun u => if u.pending.isSome then u else { u with pending := some (l, none), pendingAt := s.now }) s

theorem State.callLanes_keeps {γ : Type} (φ : State → γ) (hφ : ∀ (s : State) k i f, φ (s.updUnit k i f) = φ s) (s : State) (p : Nat) (lanes : List Nat) :
    φ (s.callLanes p lanes) = φ s := foldl_keeps _ φ (fun _ _ => hφ ..) _ _

theorem State.callLanes_pending (p : Nat) (lanes : List Nat) {k : Nat} : ∀ {s : State}, k ∈ lanes ∨ (s.unit 5 (laneKey p k)).pending ≠ none →
    ((s.callLanes p lanes).unit 5 (laneKey p k)).pending ≠ none := by
  induction lanes with
  | nil => exact fun h => h.resolve_left List.not_mem_nil
  | cons l lanes ih =>
    intro s h
    refine ih ?_
    by_cases hk : k = l
    · subst hk
      refine .inr ?_
      rw [State.updUnit_unit_self]
      split
      · next hs => exact fun h => by rw [h] at hs; cases hs
      · exact Option.some_ne_none _
    · have hne : laneKey p k ≠ laneKey p l := by unfold laneKey; omega
      rw [State.updUnit_unit_ne _ _ _ hne]
      exact h.imp_left fun h => (List.mem_cons.1 h).resolve_left hk

theorem State.WidthServed.tagFail {s : State} {p : Nat} (h : s.WidthServed p) (ht : (s.port p).testing.isSome = true) (x : Packet) : s.tagFail p x =
    ((s.updPort p fun f => f.count 7 1).post 0x0D0A 5 p [BitVec.ofNat 8 x.src, BitVec.ofNat 8 x.type]).callLanes p (List.range 9) := by
  generalize hu : (s.updPort p fun f => f.count 7 1).post 0x0D0A 5 p [BitVec.ofNat 8 x.src, BitVec.ofNat 8 x.type] = u
  have hfab : (u.callLanes p (List.range 9)).fab = (s.updPort p fun f => f.count 7 1).fab := by
    rw [State.callLanes_keeps State.fab (fun _ _ _ _ => rfl), ← hu, State.post_fab]
  have hserved : (u.callLanes p (List.range 9)).WidthServed p := (h.updPort (g := fun f => f.count 7 1) rfl rfl).ports hfab
  have htest : ((u.callLanes p (List.range 9)).port p).testing.isSome = true := by
    rw [State.port, hfab, ← State.port, State.updPort_port_self]
    exact ht
  have htag : s.tagFail p x = (u.callLanes p (List.range 9)).nextLane p := by rw [← hu]; rfl
  rw [htag, hserved.nextLane htest]

theorem State.WidthServed.unloaded {s : State} {p : Nat} (h : s.WidthServed p) (x : Packet) (rest : List Packet) : (s.unloaded p x rest).WidthServed p :=
  h.congr (State.portWidth_congr (State.unloaded_port_keeps FPort.lanes (fun _ _ _ => rfl) ..) fun _ hq => State.unloaded_port_ne _ hq ..)
    (State.unloaded_port_keeps FPort.state (fun _ _ _ => rfl) ..)

/-- A packet whose tag fails is counted and posted, and the arrival port's lanes are tested. -/
theorem exec_settPacketReceive_tagFail {s : State} {p : Nat} {x : Packet} {rest : List Packet} (hon : s.portOn p = true) (hrx : (s.port p).rx = x :: rest)
    (hd : s.delivers x = true) (hbad : x.tagOk = false ∨ s.sec.fabRetired.contains x.keyId = true) (ht : (s.port p).testing.isSome = true) (hserved : s.WidthServed p) :
    ∃ t : State, exec (.settPacketReceive p) s = .next t ∧ (t.port p).rx = rest ∧ (t.port p).ctr.get 0 7 = sat64 ((s.port p).ctr.get 0 7) 1 ∧ t.fab.inbox = s.fab.inbox ∧
      (∀ l, l < 9 → (t.unit 5 (laneKey p l)).pending ≠ none) ∧ eventPosted s t 0x0D0A 5 p [BitVec.ofNat 8 x.src, BitVec.ofNat 8 x.type] := by
  have hserved' : (s.unloaded p x rest).WidthServed p := hserved.unloaded x rest
  have ht' : ((s.unloaded p x rest).port p).testing.isSome = true := by rw [State.unloaded_port]; exact ht
  have hexec := exec_settPacketReceive_delivered hon hrx hd
  rw [State.deliver_tagFail (s := s.unloaded p x rest) hbad, hserved'.tagFail ht'] at hexec
  generalize hv : (s.unloaded p x rest).updPort p (fun f => f.count 7 1) = v at hexec
  have hport : v.port p = (({ s.port p with rx := rest, owed := (s.port p).owed + creditsOf x } : FPort).count 7 1) := by
    rw [← hv, State.updPort_port_self, State.unloaded_port]
  have hfab : ((v.post 0x0D0A 5 p [BitVec.ofNat 8 x.src, BitVec.ofNat 8 x.type]).callLanes p (List.range 9)).fab = v.fab := by
    rw [State.callLanes_keeps State.fab (fun _ _ _ _ => rfl), State.post_fab]
  have hport' : ((v.post 0x0D0A 5 p [BitVec.ofNat 8 x.src, BitVec.ofNat 8 x.type]).callLanes p (List.range 9)).port p = v.port p := by
    rw [State.port, hfab, State.port]
  have hposted : eventPosted s (v.post 0x0D0A 5 p [BitVec.ofNat 8 x.src, BitVec.ofNat 8 x.type]) 0x0D0A 5 p [BitVec.ofNat 8 x.src, BitVec.ofNat 8 x.type] :=
    State.eventPosted_post (by rw [← hv]; rfl) (by rw [← hv]; rfl) _ _ _ _
  refine ⟨_, hexec, ?_, ?_, ?_, fun l hl => State.callLanes_pending p _ (.inl (List.mem_range.2 hl)), ?_⟩
  · rw [hport', hport, FPort.count_rx]
  · rw [hport', hport, FPort.count_self]
  · rw [hfab, ← hv]
    rfl
  · unfold eventPosted
    rw [State.callLanes_keeps State.host (fun _ _ _ _ => rfl)]
    exact hposted

/-! ## A child's TIME (R217) -/

theorem exec_settPacketReceive_answered {s : State} {p : Nat} {x : Packet} {rest : List Packet} (hon : s.portOn p = true) (hrx : (s.port p).rx = x :: rest)
    (htype : x.type = 0x22) (htag : x.tagOk = true) (hkey : s.sec.fabRetired.contains x.keyId = false) (hzero : allZero (x.payload.drop 8) = true)
    (hparent : s.parentPort ≠ some p) (hw : (s.port p).waiting = []) (hc : 1 ≤ (s.port p).credits) :
    ∃ (t : State) (y : Frame), exec (.settPacketReceive p) s = .next t ∧ t.fab.sent = (p, y) :: s.fab.sent ∧ y.pkt.type = 0x22 ∧ y.pkt.dest = x.src ∧
      y.pkt.payload = x.payload.take 8 ++ leBytes 8 (40 * s.now) ++ leBytes 8 (40 * s.now) ++ leBytes 8 0 := by
  have hd : s.delivers x = true := by
    rw [State.delivers, htype, Bool.or_eq_true]
    exact .inr rfl
  have hexec := exec_settPacketReceive_delivered hon hrx hd
  have hasked : (allZero (x.payload.drop 8) && s.parentPort != some p) = true := by rw [hzero, bne_iff_ne.2 hparent]; rfl
  have hanswer : (s.unloaded p x rest).answerTime p x = (s.unloaded p x rest).sendLocal p
      { s.newPacket x.src 0x22 with payload := x.payload.take 8 ++ leBytes 8 (40 * s.now) ++ leBytes 8 (40 * s.now) ++ leBytes 8 0 } := if_pos hasked
  rw [State.deliver_time (s := s.unloaded p x rest) htag hkey htype, hanswer] at hexec
  refine ⟨_, _, hexec, State.sendLocal_sent ?_ ?_ ?_, rfl, rfl, rfl⟩
  · rw [State.unloaded_port]
    exact hw
  · rw [State.unloaded_port]
    exact hc
  · simp only [List.length_append, List.length_take, leBytes_length]
    omega

end Sys2Proof.Machine
end

section
/-! SUPPORT. The bytes of a packet and of a frame (R206, R207): their lengths, and the packet that a header spells. -/

namespace Sys2Proof.Machine

/-! ## Fields one after another -/

/-- The bytes of fields, each of its width. -/
def spell (l : List (Nat × Nat)) : List Byte := (l.map fun x => leBytes x.1 x.2).flatten

theorem spell_append (l r : List (Nat × Nat)) : spell (l ++ r) = spell l ++ spell r := by simp [spell]

theorem spell_cons (x : Nat × Nat) (r : List (Nat × Nat)) : spell (x :: r) = leBytes x.1 x.2 ++ spell r := rfl

theorem spell_length (l : List (Nat × Nat)) : (spell l).length = (l.map Prod.fst).sum := by
  simp only [spell, List.length_flatten, List.map_map]
  congr 1
  exact List.map_congr_left fun x _ => leBytes_length ..

/-- A field is read where the widths before it end. -/
theorem field_spell {l : List (Nat × Nat)} {j off n k : Nat} (hj : l[j]? = some (n, k)) (hoff : ((l.take j).map Prod.fst).sum = off) :
    field (spell l) off n = k % 256 ^ n := by
  obtain ⟨hlt, hget⟩ := List.getElem?_eq_some_iff.1 hj
  have hl : l = l.take j ++ (n, k) :: l.drop (j + 1) := by
    rw [← hget, ← List.drop_eq_getElem_cons hlt, List.take_append_drop]
  have hmid : slice (spell (l.take j) ++ (leBytes n k ++ spell (l.drop (j + 1)))) ((spell (l.take j)).length + 0) n = slice (leBytes n k) 0 n :=
    slice_append_mid _ _ _ (by rw [leBytes_length]; omega)
  rw [spell_length, hoff, ← spell_cons (n, k), ← spell_append, ← hl] at hmid
  rw [field, ← field_leBytes, field, ← hmid, Nat.add_zero]

/-! ## ROUTE -/

theorem routeWord_lt (l : List Nat) : routeWord l < 16 ^ l.length := by
  induction l with
  | nil => exact Nat.one_pos
  | cons p l ih =>
    rw [routeWord, List.length_cons, Nat.pow_succ]
    omega

/-- Hop k of ROUTE. -/
theorem routeWord_digit (l : List Nat) : ∀ k, (hk : k < l.length) → routeWord l / 16 ^ k % 16 = l[k] % 16 := by
  induction l with
  | nil => exact fun k hk => absurd hk (Nat.not_lt_zero k)
  | cons p l ih =>
    intro k hk
    cases k with
    | zero =>
      rw [routeWord, Nat.pow_zero, Nat.div_one, List.getElem_cons_zero]
      omega
    | succ k =>
      have htail : routeWord (p :: l) / 16 = routeWord l := by
        rw [routeWord]
        omega
      rw [Nat.pow_succ', ← Nat.div_div_eq_div_mul, htail, List.getElem_cons_succ]
      exact ih k _

/-- Eight ports are read back from their word. -/
theorem routeWord_ports {l : List Nat} (hl : l.length = 8) (hp : ∀ n ∈ l, n < 16) :
    ((List.range 8).map fun k => routeWord l % 2 ^ 32 / 16 ^ k % 16) = l := by
  have hword : routeWord l % 2 ^ 32 = routeWord l := Nat.mod_eq_of_lt (by
    have hlt := routeWord_lt l
    rw [hl] at hlt
    exact hlt)
  rw [hword]
  refine List.ext_getElem (by simp [hl]) fun k hk hk' => ?_
  rw [List.getElem_map, List.getElem_range, routeWord_digit l k hk', Nat.mod_eq_of_lt (hp _ (List.getElem_mem hk'))]

/-! ## The header -/

/-- The header's fields in order, each with its width. -/
def headerFields (x : Packet) (hop : Nat) : List (Nat × Nat) :=
  [(1, x.dest), (1, x.src), (1, x.origin), (1, x.type), (1, x.tenant % 64 + x.keyId % 4 * 64), (1, x.epoch), (1, hop),
    (1, boolN x.first + 2 * boolN x.last + 4 * boolN x.twin), (2, x.context % 2 ^ 14), (2, x.payload.length), (4, routeWord x.route), (6, x.seq), (2, x.boot), (8, x.counter)]

theorem packetHeader_eq (x : Packet) (hop : Nat) : packetHeader x hop = spell (headerFields x hop) := by
  simp only [packetHeader, headerFields, spell, List.map_cons, List.map_nil, List.flatten_cons, List.flatten_nil, List.append_assoc, List.append_nil]

theorem packetHeader_length (x : Packet) (hop : Nat) : (packetHeader x hop).length = 32 := by
  rw [packetHeader_eq, spell_length]
  rfl

theorem packetHeader_field (x : Packet) (hop : Nat) {j off n k : Nat} (hj : (headerFields x hop)[j]? = some (n, k))
    (hoff : (((headerFields x hop).take j).map Prod.fst).sum = off) : field (packetHeader x hop) off n = k % 256 ^ n := by
  rw [packetHeader_eq]
  exact field_spell hj hoff

/-- Every field of the header. -/
theorem packetHeader_fields (x : Packet) (hop : Nat) : field (packetHeader x hop) 0 1 = x.dest % 256 ∧ field (packetHeader x hop) 1 1 = x.src % 256 ∧
    field (packetHeader x hop) 2 1 = x.origin % 256 ∧ field (packetHeader x hop) 3 1 = x.type % 256 ∧
    field (packetHeader x hop) 4 1 = (x.tenant % 64 + x.keyId % 4 * 64) % 256 ∧ field (packetHeader x hop) 5 1 = x.epoch % 256 ∧
    field (packetHeader x hop) 6 1 = hop % 256 ∧ field (packetHeader x hop) 7 1 = (boolN x.first + 2 * boolN x.last + 4 * boolN x.twin) % 256 ∧
    field (packetHeader x hop) 8 2 = x.context % 2 ^ 14 % 2 ^ 16 ∧ field (packetHeader x hop) 0xC 4 = routeWord x.route % 2 ^ 32 ∧
    field (packetHeader x hop) 0x10 6 = x.seq % 2 ^ 48 ∧ field (packetHeader x hop) 0x16 2 = x.boot % 2 ^ 16 ∧ field (packetHeader x hop) 0x18 8 = x.counter % 2 ^ 64 :=
  ⟨packetHeader_field x hop (j := 0) rfl rfl, packetHeader_field x hop (j := 1) rfl rfl, packetHeader_field x hop (j := 2) rfl rfl,
    packetHeader_field x hop (j := 3) rfl rfl, packetHeader_field x hop (j := 4) rfl rfl, packetHeader_field x hop (j := 5) rfl rfl,
    packetHeader_field x hop (j := 6) rfl rfl, packetHeader_field x hop (j := 7) rfl rfl, packetHeader_field x hop (j := 8) rfl rfl,
    packetHeader_field x hop (j := 10) rfl rfl, packetHeader_field x hop (j := 11) rfl rfl, packetHeader_field x hop (j := 12) rfl rfl,
    packetHeader_field x hop (j := 13) rfl rfl⟩

/-- The flags are read back from their byte. -/
theorem bitOf_flags (a b c : Bool) : bitOf ((boolN a + 2 * boolN b + 4 * boolN c) % 256) 0 = a ∧
    bitOf ((boolN a + 2 * boolN b + 4 * boolN c) % 256) 1 = b ∧ bitOf ((boolN a + 2 * boolN b + 4 * boolN c) % 256) 2 = c := by
  cases a <;> cases b <;> cases c <;> decide

/-- A packet whose fields fit their widths. -/
structure HeaderFits (x : Packet) : Prop where
  dest : x.dest < 256
  src : x.src < 256
  origin : x.origin < 256
  type : x.type < 256
  tenant : x.tenant < 64
  keyId : x.keyId < 4
  epoch : x.epoch < 256
  hop : x.hop < 16
  hopCount : x.hopCount < 16
  context : x.context < 2 ^ 14
  ports : x.route.length = 8
  route : ∀ n ∈ x.route, n < 16
  seq : x.seq < 2 ^ 48
  boot : x.boot < 2 ^ 16
  counter : x.counter < 2 ^ 64

/-- A header spells its packet. -/
theorem HeaderFits.packetOf_header {x : Packet} (h : HeaderFits x) : packetOf (packetHeader x (hopByte x)) x.payload x.tagOk = x := by
  obtain ⟨hdest, hsrc, horigin, htype, htenant, hkey, hepoch, hhop, hcount, hcontext, hports, hroute, hseq, hboot, hcounter⟩ := h
  obtain ⟨hfirst, hlast, htwin⟩ := bitOf_flags x.first x.last x.twin
  obtain ⟨f0, f1, f2, f3, f4, f5, f6, f7, f8, fc, f10, f16, f18⟩ := packetHeader_fields x (hopByte x)
  have hkeyByte : (x.tenant % 64 + x.keyId % 4 * 64) % 256 = x.tenant + x.keyId * 64 := by omega
  have hhopByte : hopByte x % 256 = x.hop + x.hopCount * 16 := by rw [hopByte]; omega
  have hports' := routeWord_ports hports hroute
  dsimp only [packetOf]
  rw [f0, f1, f2, f3, f4, f5, f6, f7, f8, fc, f10, f16, f18, hkeyByte, hhopByte, hfirst, hlast, htwin, hports', Nat.mod_eq_of_lt hdest, Nat.mod_eq_of_lt hsrc,
    Nat.mod_eq_of_lt horigin, Nat.mod_eq_of_lt htype, Nat.mod_eq_of_lt hepoch, Nat.mod_eq_of_lt hseq, Nat.mod_eq_of_lt hboot, Nat.mod_eq_of_lt hcounter]
  have htenant' : (x.tenant + x.keyId * 64) % 64 = x.tenant := by omega
  have hkey' : (x.tenant + x.keyId * 64) / 64 = x.keyId := by omega
  have hhop' : (x.hop + x.hopCount * 16) % 16 = x.hop := by omega
  have hcount' : (x.hop + x.hopCount * 16) / 16 = x.hopCount := by omega
  have hcontext' : x.context % 2 ^ 14 % 2 ^ 16 % 2 ^ 14 = x.context := by omega
  rw [htenant', hkey', hhop', hcount', hcontext']

theorem padTo_length (n : Nat) (l : List Byte) : (padTo n l).length = n := by
  simp only [padTo, slice, List.length_append, List.length_replicate, List.length_take, List.length_drop]
  omega

theorem packetBytes_length (x : Packet) : (packetBytes x).length = x.payload.length + 48 := by
  rw [packetBytes, List.length_append, packetHeader_length, padTo_length]
  omega

theorem Frame.bytes_length (f : Frame) : f.bytes.length = f.pkt.payload.length + 56 := by
  rw [bytes, List.length_append, List.length_append, linkWord, leBytes_length, leBytes_length, packetBytes_length]
  omega

end Sys2Proof.Machine
end

section
/-! SUPPORT. Result streams (R213, R214): packets that have been delivered, and how they land. -/

namespace Sys2Proof.Machine

/-- A delivered packet has been taken. -/
def State.received (s : State) (x : Packet) : State := { s with fab.inbox := dropFirst (fun y : Nat × Packet => y.2 == x) s.fab.inbox }

theorem State.take_found {s : State} {x : Packet} {port : Nat} {types : Nat → Bool} (hup : s.up = true)
    (hin : List.find? (fun y : Nat × Packet => y.2 == x) s.fab.inbox = some (port, x)) (ht : types x.type = true) :
    s.take x types = some (port, s.received x) := by
  unfold take
  simp only [hin, hup, ht, Bool.and_self, if_true]
  rfl

/-! ## Sequence numbers -/

theorem newer_self (n : Nat) : newer 48 n n = false := by
  have hd : (n + 2 ^ 48 - n % 2 ^ 48) % 2 ^ 48 = 0 := by omega
  simp only [newer, hd]
  rfl

/-- The next number is one from the one before it. -/
theorem seqDist_next {h : Nat} (hh : h < 2 ^ 48) : seqDist (seqAdd h 1) h = 1 := by
  unfold seqDist seqAdd
  omega

theorem newer_next (h : Nat) : newer 48 (seqAdd h 1) h = true := by
  have hd : (seqAdd h 1 + 2 ^ 48 - h % 2 ^ 48) % 2 ^ 48 = 1 := by
    unfold seqAdd
    omega
  simp only [newer, hd]
  rfl

/-- A number is that many after the other. -/
theorem seqAdd_seqDist {q h : Nat} (hq : q < 2 ^ 48) (hh : h < 2 ^ 48) : seqAdd h (seqDist q h) = q := by
  unfold seqDist seqAdd
  omega

theorem seqAdd_seqAdd (h m n : Nat) : seqAdd (seqAdd h m) n = seqAdd h (m + n) := by
  unfold seqAdd
  omega

/-- Different distances reach different numbers. -/
theorem seqAdd_ne {h m n : Nat} (hm : m < 2 ^ 48) (hn : n < 2 ^ 48) (hne : m ≠ n) : seqAdd h m ≠ seqAdd h n := by
  unfold seqAdd
  omega

/-! ## The window -/

/-- With the next number alone in its window, H advances to it. -/
theorem Import.advance_next {i : Import} {u : Tick} (h : i.window = [(seqAdd i.h 1, u)]) (n : Nat) :
    i.advance (n + 2) = { i with h := seqAdd i.h 1, window := [] } := by
  rw [advance, h]
  simp only [List.any_cons, beq_self_eq_true, Bool.true_or, if_true, List.filter_cons, bne_self_eq_false, Bool.false_eq_true, if_false, List.filter_nil]
  rw [advance]
  rfl

/-- The number after H lands alone. -/
theorem Import.landed_next {i : Import} (h : i.window = []) (u : Tick) :
    i.landed (seqAdd i.h 1) u = { i with h := seqAdd i.h 1, delivered := sat64 i.delivered 1 } := by
  unfold landed
  rw [h, Import.advance_next (u := u) rfl 63, ← h]

/-- One number alone beyond H leaves those between them missing. -/
theorem Import.gone_before {i : Import} {q : Nat} {u : Tick} (hw : i.window = [(q, u)]) (hh : i.h < 2 ^ 48) (hq : q < 2 ^ 48) :
    (i.gone (seqDist q i.h - 1)).length = seqDist q i.h - 1 := by
  have hd : seqDist q i.h < 2 ^ 48 := Nat.mod_lt _ (by decide)
  unfold gone
  rw [List.filter_eq_self.2 ?_, List.length_map, List.length_range]
  intro a ha
  obtain ⟨k, hk, rfl⟩ := List.mem_map.1 ha
  have hk' := List.mem_range.1 hk
  have hne : seqAdd i.h (k + 1) ≠ seqAdd i.h (seqDist q i.h) := seqAdd_ne (by omega) hd (by omega)
  rw [seqAdd_seqDist hq hh] at hne
  simp [hw, Ne.symm hne]

/-- The window then begins just before it, and H advances to it. -/
theorem Import.slid_before {i : Import} {q : Nat} {u : Tick} (hw : i.window = [(q, u)]) (hh : i.h < 2 ^ 48) (hq : q < 2 ^ 48) (h2 : 2 ≤ seqDist q i.h) :
    (i.slid (seqDist q i.h - 1)).advance 65 = { i with h := q, window := [], lost := sat64 i.lost (seqDist q i.h - 1) } := by
  have hnext : seqAdd (seqAdd i.h (seqDist q i.h - 1)) 1 = q := by
    rw [seqAdd_seqAdd, Nat.sub_add_cancel (by omega), seqAdd_seqDist hq hh]
  have hkept : (i.window.filter fun w => decide (seqDist q i.h - 1 < seqDist w.1 i.h) && decide (seqDist w.1 i.h ≤ seqDist q i.h - 1 + 64)) = [(q, u)] := by
    rw [hw]
    refine List.filter_eq_self.2 fun w hw => ?_
    rw [List.mem_singleton.1 hw, Bool.and_eq_true, decide_eq_true_eq, decide_eq_true_eq]
    change seqDist q i.h - 1 < seqDist q i.h ∧ seqDist q i.h ≤ seqDist q i.h - 1 + 64
    omega
  have hslid : i.slid (seqDist q i.h - 1) = { i with h := seqAdd i.h (seqDist q i.h - 1), lost := sat64 i.lost (seqDist q i.h - 1), window := [(q, u)] } := by
    rw [slid, Import.gone_before hw hh hq, hkept]
  rw [hslid, Import.advance_next (u := u) (by rw [hnext]) 63, hnext]

theorem foldl_max_one {α : Type} (f : α → Nat) {P : α → Bool} {w : α} (h : P w = true) : (([w].filter P).map f).foldl max 0 = f w := by
  rw [List.filter_cons, if_pos h]
  exact Nat.zero_max _

/-- One number that arrived 2 ms ago is due at its distance. -/
theorem Import.due_one {i : Import} {q : Nat} {u now : Tick} (hw : i.window = [(q, u)]) (hlong : u + 50000 ≤ now) : i.due now = seqDist q i.h := by
  have hms : tMs 2 = 50000 := rfl
  unfold due
  rw [hw, hms]
  exact foldl_max_one (fun w : Nat × Tick => seqDist w.1 i.h) (decide_eq_true hlong)

/-! ## Landing -/

theorem State.setImport_find (s : State) (n : Nat) (i : Import) : (s.setImport n i).fab.imports.find? n = some i := Tbl.find?_set_self ..

theorem State.setImport_parts (s : State) (n : Nat) (i : Import) : (s.setImport n i).parts = s.parts := rfl

theorem truncFlag_lt (broup : Bool) (i : Import) (x : Packet) : truncFlag broup i x < 2 := by
  have hbool (b : Bool) : boolN b < 2 := by cases b <;> decide
  unfold truncFlag
  split
  · decide
  · split
    · exact hbool _
    · split
      · exact hbool _
      · exact Nat.mod_lt _ (by decide)

theorem truncFlag_inside {x : Packet} (h : x.last = false) (broup : Bool) (i : Import) : truncFlag broup i x = 0 := by
  rw [truncFlag, h]
  rfl

/-- A record in one packet is truncated where it names more bytes than the packet holds (R214). -/
theorem truncFlag_record {x : Packet} (hlast : x.last = true) (htype : x.type = 1) (broup : Bool) (i : Import) :
    truncFlag broup i x = 1 ↔ x.payload.length - 64 < namedBytes broup x.payload := by
  have hbool (b : Bool) : boolN b = 1 ↔ b = true := by cases b <;> decide
  have hsent : sentBytes 0 x = x.payload.length - 64 := by rw [sentBytes, Nat.mul_zero, Nat.zero_add]
  rw [truncFlag, hlast, htype]
  exact (hbool _).trans (by rw [decide_eq_true_eq, hsent])

section
variable {s : State} {n : Nat} {i : Import} {x : Packet}

theorem State.landPacket_again (h : x.seq = i.h) : s.landPacket n i x = s.setImport n { i with duplicates := sat64 i.duplicates 1 } := by
  unfold landPacket
  rw [h, newer_self]
  rfl

/-- The next number, with room in its ring, lands with an empty window. -/
theorem State.landPacket_next (hseq : x.seq = seqAdd i.h 1) (hh : i.h < 2 ^ 48) (hw : i.window = [])
    (hroom : seqDist x.seq (leNat (s.hostReadN i.consAddr 8) % 2 ^ 48) ≤ i.slots) :
    s.landPacket n i x = (s.landEntry i x).setImport n ({ i with h := x.seq, delivered := sat64 i.delivered 1 }.noteHead s.broup x) := by
  have hslide : s.slideFor i x.seq = (s, i) := by
    rw [slideFor, hseq, seqDist_next hh]
    rfl
  have hnew : (!newer 48 x.seq i.h || i.window.any fun w => w.1 == x.seq) = false := by
    rw [hseq, newer_next, hw]
    rfl
  unfold landPacket
  rw [hnew, if_neg Bool.false_ne_true, if_neg (Nat.not_lt.2 hroom), landIn, hslide]
  dsimp only
  rw [hseq, Import.landed_next hw]

variable {c : Instr} {port : Nat} (hup : s.up = true) (hhold : s.power.hold = false) (hc : (c = .record x ∧ x.type = 1) ∨ (c = .data x ∧ x.type = 2))
  (hin : List.find? (fun y : Nat × Packet => y.2 == x) s.fab.inbox = some (port, x))
include hup hhold hc hin

theorem exec_landing : exec c s = .next ((s.received x).landResult port x) := by
  have hland {k : Nat} (hk : x.type = k) : s.landFrom x k = (s.received x).landResult port x := by
    unfold State.landFrom
    rw [hhold, State.take_found (types := fun t => t == k) hup hin (beq_iff_eq.2 hk)]
    rfl
  rcases hc with ⟨rfl, hk⟩ | ⟨rfl, hk⟩
  · exact congrArg Host.Outcome.next (hland hk)
  · exact congrArg Host.Outcome.next (hland hk)

/-- A packet of an import that is bound and runs. -/
theorem exec_landing_import (himport : s.importOf x = some (n, i)) (hopen : s.tenantOpen i.tenant = true) (hruns : i.stopped = false) :
    exec c s = .next ((s.received x).landPacket n i x) := by
  have himport' : (s.received x).importOf x = some (n, i) := himport
  have hopen' : (s.received x).tenantOpen i.tenant = true := hopen
  rw [exec_landing hup hhold hc hin, State.landResult]
  simp only [himport', hopen', hruns, Bool.not_true, Bool.false_eq_true, if_false]

end

/-- 2 ms after a later number arrived the missing ones are lost. -/
theorem exec_landingGapTimeout {s : State} {n : Nat} {i : Import} {q : Nat} {u : Tick} (hup : s.up = true) (hhold : s.power.hold = false)
    (hi : s.fab.imports.find? n = some i) (hruns : i.stopped = false) (hw : i.window = [(q, u)]) (hlong : u + 50000 ≤ s.now) (hh : i.h < 2 ^ 48) (hq : q < 2 ^ 48)
    (h2 : 2 ≤ seqDist q i.h) : exec (.landingGapTimeout n) s = .next ((s.slide i (seqDist q i.h - 1)).1.setImport n
      { i with h := q, window := [], lost := sat64 i.lost (seqDist q i.h - 1) }) := by
  have hx : exec (.landingGapTimeout n) s = execLandingGapTimeout n s := rfl
  have hdue := Import.due_one hw hlong
  have hsome : (seqDist q i.h != 0) = true := bne_iff_ne.2 (by omega)
  have hslid : (s.slide i (seqDist q i.h - 1)).2 = i.slid (seqDist q i.h - 1) := rfl
  rw [← Import.slid_before hw hh hq h2, ← hslid, hx, execLandingGapTimeout]
  simp only [hi, hup, hhold, hruns, hdue, hsome, Bool.not_false, Bool.and_self, if_true]

theorem State.landLost_parts (s : State) (i : Import) (q : Nat) : (s.landLost i q).parts = s.parts := State.hostWriteN_parts ..

theorem State.slide_parts (s : State) (i : Import) (n : Nat) : (s.slide i n).1.parts = s.parts :=
  foldl_keeps (fun s q => s.landLost i q) State.parts (fun s q => s.landLost_parts i q) (i.gone n) s

end Sys2Proof.Machine
end

section
/-! SUPPORT. Drain markers, PORT_STATE and Vault time (R211, R215-R218). -/

namespace Sys2Proof.Machine

/-! ## Drain markers (R215, R216) -/

/-- A DRAIN not seen before drains its epoch, and is passed on and acknowledged. -/
def State.drained (s : State) (x : Packet) (id : Nat) : State :=
  { s with
    fab.seen := (x.src, id) :: s.fab.seen
    fab.drained := (x.src, x.tenant, x.epoch) :: s.fab.drained.filter fun d => !(d.1 == x.src && d.2.1 == x.tenant) }

theorem State.drainIn_transmits (s : State) (port id : Nat) (x : Packet) : (s.drained x id).Transmits (s.drainIn port id x) := by
  have hflood (u : State) (l : List Nat) : u.Transmits (l.foldl (fun s k => s.sendOn k x) u) := .of_fold (fun s k => s.sendOn_transmits k x) l u
  exact (hflood (s.drained x id) _).trans (State.sendRouted_transmits ..)

section
variable {s : State} {x : Packet} {port : Nat} (hup : s.up = true) (hin : List.find? (fun y : Nat × Packet => y.2 == x) s.fab.inbox = some (port, x))
include hup hin

theorem exec_drain (h : x.type = 0x10) : exec (.drain x port) s = .next
    (if s.fab.seen.contains (x.src, field x.payload 0 4) then s.received x else (s.received x).drainIn port (field x.payload 0 4) x) := by
  have hx : exec (.drain x port) s = execDrain x port s := rfl
  have hseen : (s.received x).fab.seen = s.fab.seen := rfl
  rw [hx, execDrain, State.take_found (types := fun t => t == 0x10) hup hin (beq_iff_eq.2 h)]
  simp only [bne_self_eq_false, Bool.false_eq_true, if_false, hseen]

theorem exec_drainAck (h : x.type = 0x11) : exec (.drainAck x) s = .next ((s.received x).ackDrain x.src (field x.payload 0 4)) := by
  have hx : exec (.drainAck x) s = execDrainAck x s := rfl
  rw [hx, execDrainAck, State.take_found (types := fun t => t == 0x11) hup hin (beq_iff_eq.2 h)]

theorem exec_portState (h : x.type = 0x21) : exec (.portState x) s = .next ((s.received x).notePort x) := by
  have hx : exec (.portState x) s = execPortState x s := rfl
  rw [hx, execPortState, State.take_found (types := fun t => t == 0x21) hup hin (beq_iff_eq.2 h)]

end

/-- A step that other modules have still to acknowledge. -/
theorem State.ackDrain_waits {s : State} {src id tn id' : Nat} {w : List Nat} {u : Tick}
    (hfind : List.find? (fun y : Nat × Nat × List Nat × Tick => y.2.1 == id) s.fab.steps = some (tn, id', w, u)) (hleft : (w.filter fun m => m != src) ≠ []) :
    s.ackDrain src id = { s with fab.steps := s.fab.steps.set tn (id, w.filter fun m => m != src, u) } := by
  have hsome : (w.filter fun m => m != src).isEmpty = false := by rw [List.isEmpty_eq_false_iff]; exact hleft
  unfold ackDrain
  simp only [hfind, hsome, Bool.false_eq_true, if_false]

/-- 10 ms after its DRAIN the one step under way ends. -/
theorem exec_drainTimeout_one {s : State} {tn id : Nat} {w : List Nat} {u : Tick} (hup : s.up = true) (hsteps : s.fab.steps = [(tn, id, w, u)])
    (hlong : u + 250000 ≤ s.now) : exec .drainTimeout s = .next ((s.post 0x0D0C 0 0 (leBytes 4 id ++ leBytes 2 w.length)).drainOver tn) := by
  have hx : exec .drainTimeout s = execDrainTimeout s := rfl
  have hms : tMs 10 = 250000 := rfl
  rw [hx, execDrainTimeout, hup, if_pos rfl, hsteps, hms, List.filter_cons, if_pos (decide_eq_true hlong)]
  rfl

/-! ## PORT_STATE (R211) -/

/-- Only PORT_STATE is sent, where only PORT_STATE waits. -/
def State.Floods (s t : State) : Prop := (∀ p, ∀ w ∈ (s.port p).waiting, w.type = 0x21) →
  (∀ p, ∀ w ∈ (t.port p).waiting, w.type = 0x21) ∧ ∃ l, t.fab.sent = l ++ s.fab.sent ∧ ∀ y ∈ l, y.2.pkt.type = 0x21

namespace State.Floods

theorem refl (s : State) : s.Floods s := fun h => ⟨h, [], rfl, fun _ hy => absurd hy List.not_mem_nil⟩

theorem trans {s t u : State} (h1 : s.Floods t) (h2 : t.Floods u) : s.Floods u := by
  intro h
  obtain ⟨ht, l, hl, hl'⟩ := h1 h
  obtain ⟨hu, k, hk, hk'⟩ := h2 ht
  refine ⟨hu, k ++ l, by rw [hk, hl, List.append_assoc], fun y hy => ?_⟩
  exact (List.mem_append.1 hy).elim (hk' y) (hl' y)

theorem of_fold {β : Type} {g : State → β → State} (h : ∀ s x, State.Floods s (g s x)) (l : List β) : ∀ s, State.Floods s (l.foldl g s) := by
  induction l with
  | nil => exact fun s => .refl s
  | cons x l ih => exact fun s => (h s x).trans (ih _)

end State.Floods

/-- A port whose queue holds only PORT_STATE, and nothing sent. -/
theorem State.updPort_floods (s : State) (p : Nat) {g : FPort → FPort}
    (hg : (∀ w ∈ (s.port p).waiting, w.type = 0x21) → ∀ w ∈ (g (s.port p)).waiting, w.type = 0x21) : s.Floods (s.updPort p g) := by
  refine fun h => ⟨fun q => ?_, [], rfl, fun _ hy => absurd hy List.not_mem_nil⟩
  by_cases hq : q = p
  · rw [hq, State.updPort_port_self]
    exact hg (h p)
  · rw [State.updPort_port_ne _ _ hq]
    exact h q

theorem State.pumpPort_floods (p : Nat) (l : List Packet) (hl : ∀ x ∈ l, x.type = 0x21) : ∀ s : State, s.Floods (s.pumpPort p l) := by
  induction l with
  | nil => exact fun s => State.updPort_floods s p fun _ _ hw => absurd hw List.not_mem_nil
  | cons x l ih =>
    intro s
    obtain ⟨hx, hl⟩ := List.forall_mem_cons.1 hl
    unfold pumpPort
    split
    · have hsend : s.Floods (s.updPort p fun f => f.send x) := State.updPort_floods s p fun h => h
      have hsent (u : State) : u.Floods { u with fab.sent := (p, (s.port p).frame x) :: u.fab.sent } :=
        fun h => ⟨h, [(p, (s.port p).frame x)], rfl, fun y hy => by rw [List.mem_singleton.1 hy]; exact hx⟩
      exact (hsend.trans (hsent _)).trans (ih hl _)
    · exact State.updPort_floods s p fun _ => List.forall_mem_cons.2 ⟨hx, hl⟩

theorem State.sendOn_floods (s : State) (p : Nat) {x : Packet} (hx : x.type = 0x21) : s.Floods (s.sendOn p x) := by
  intro h
  refine State.pumpPort_floods p _ (fun y hy => ?_) s h
  exact (List.mem_append.1 hy).elim (h p y) fun hy => by rw [List.mem_singleton.1 hy, hx]

theorem State.sendRouted_floods (s : State) {x : Packet} (hx : x.type = 0x21) : s.Floods (s.sendRouted x) := by
  unfold sendRouted
  split
  · exact State.updPort_floods s _ fun h => h
  · have hkeeps (u : State) (n : Nat) (l : List Kept) : u.Floods { u with fab.counter := n, fab.keeps := l } :=
      fun h => ⟨h, [], rfl, fun _ hy => absurd hy List.not_mem_nil⟩
    exact State.Floods.trans (hkeeps _ _ _) (State.sendOn_floods _ _ hx)

theorem State.floodPort_floods (s : State) (p : Nat) : s.Floods (s.floodPort p) :=
  .of_fold (fun _ _ => State.sendRouted_floods _ rfl) _ _

/-- Every 1 s the ports of the profile are flooded. -/
def State.floodPorts (s : State) : State := ((List.range 12).filter fun p => (s.topo p).isSome).foldl (fun s p => s.floodPort p) { s with fab.floodAt := s.now }

theorem exec_portStateFlood {s : State} (hon : s.fabricOn = true) :
    exec .portStateFlood s = .next (if 25000000 ≤ s.now - s.fab.floodAt then s.floodPorts else s) := by
  have hx : exec .portStateFlood s = execPortStateFlood s := rfl
  have hs : tS 1 = 25000000 := rfl
  rw [hx, execPortStateFlood, hon, Bool.true_and, hs]
  simp only [decide_eq_true_eq]
  rfl

theorem State.floodPorts_transmits (s : State) : State.Transmits { s with fab.floodAt := s.now } s.floodPorts :=
  .of_fold (fun s p => s.floodPort_transmits p) _ _

theorem State.floodPorts_floods (s : State) : s.Floods s.floodPorts := by
  have hat : s.Floods { s with fab.floodAt := s.now } := fun h => ⟨h, [], rfl, fun _ hy => absurd hy List.not_mem_nil⟩
  exact hat.trans (.of_fold (fun s p => s.floodPort_floods p) _ _)

/-! ## Vault time (R217, R218) -/

/-- A change of the time state is posted, and changes nothing else of the fabric. -/
theorem State.setTimeState_spec (s : State) (st : Nat) : (s.setTimeState st).fab = { s.fab with timeState := st } ∧ (s.setTimeState st).now = s.now := by
  unfold setTimeState
  split
  · next h => exact ⟨by rw [← eq_of_beq h], rfl⟩
  · exact ⟨State.post_fab .., State.post_now ..⟩

/-- A TIME exchange that counts, before the counter is set. -/
def State.timeHeard (s : State) (port : Nat) : State :=
  { s.free.2 with
    fab.timeAt := s.now, fab.holdoverAt := none, fab.unsynced := false, fab.uncertainty := s.free.1.toNat % 51
    fab.alternate := (match s.parents with | some (a, b) => port == b && a != b | none => false) }

/-- How far the counter lies from Vault time, in ns. -/
def timeOffset (a b c d : Int) : Int := ((b - a) + (c - d)) / 2

section
variable {s : State} {port : Nat} (hon : s.fabricOn = true) (hhears : s.hearsTime port = true) (a b c d : Int)
include hon hhears

/-- The first exchange steps the counter, later ones slew it. -/
theorem exec_time : exec (.time port a b c d) s = .next
    (State.setTimeState (if s.fab.stepped then { s.timeHeard port with fab.slew := timeOffset a b c d } else
      State.post { s.timeHeard port with fab.stepped := true, now := (s.now + timeOffset a b c d / 40).toNat, fab.timeAt := (s.now + timeOffset a b c d / 40).toNat }
        0x0D0D 0 0 (leBytes 8 (unsigned 64 (timeOffset a b c d / 40)))) 1) := by
  have hx : exec (.time port a b c d) s = execTime port a b c d s := rfl
  have hheard : (s.fabricOn && s.hearsTime port) = true := by rw [hon, hhears]; rfl
  rw [hx, execTime, if_pos hheard]
  rfl

end

/-- A TIME goes to the parent with the time of sending. -/
def State.askTime (s : State) (port : Nat) : State :=
  State.sendLocal { s with fab.timeSent := s.now } port
    { s.newPacket (((s.topo port).map fun t => t.2.1).getD 0) 0x22 with payload := leBytes 8 (40 * s.now) ++ List.replicate 24 0 }

/-- Every 1 ms the parent is asked. -/
theorem exec_timeExchange {s : State} {port : Nat} (hon : s.fabricOn = true) (hparent : s.parentPort = some port) (hu : portUsable (s.port port).state = true)
    (hlong : 25000 ≤ s.now - s.fab.timeSent) (hw : (s.port port).waiting = []) (hc : 1 ≤ (s.port port).credits) :
    ∃ t : State, exec .timeExchange s = .next t ∧ t.now = s.now ∧ ∃ x, t.fab.sent = (port, x) :: s.fab.sent ∧ x.pkt.type = 0x22 ∧
      x.pkt.payload = leBytes 8 (40 * s.now) ++ List.replicate 24 0 := by
  have hx : exec .timeExchange s = execTimeExchange s := rfl
  have hpassed : decide (tMs 1 ≤ s.since s.fab.timeSent) = true := decide_eq_true hlong
  have hexec : exec .timeExchange s = .next (s.askTime port) := by
    rw [hx, execTimeExchange]
    simp only [hparent, hon, hu, hpassed, Bool.and_self, if_true]
    rfl
  refine ⟨_, hexec, (State.sendLocal_transmits { s with fab.timeSent := s.now } port _).now, _, State.sendLocal_sent hw hc ?_, rfl, rfl⟩
  simp only [List.length_append, leBytes_length, List.length_replicate]
  omega

/-- Holdover has begun, and the other parent is turned to. -/
def State.heldOver (s : State) : State := { s with fab.holdoverAt := some s.now, fab.alternate := !s.fab.alternate, fab.slew := 0, fab.timeState := 2 }

/-- 5 ms without a TIME. -/
theorem exec_timeParentLoss {s : State} (hup : s.up = true) (hstate : s.fab.timeState = 1) (hlong : 125000 ≤ s.now - s.fab.timeAt) : exec .timeParentLoss s = .next
    (s.heldOver.post 0x0D0E 0 0 [2]) := by
  have hx : exec .timeParentLoss s = execTimeParentLoss s := rfl
  have hpassed : decide (tMs 5 ≤ s.since s.fab.timeAt) = true := decide_eq_true hlong
  rw [hx, execTimeParentLoss, hup, hstate, hpassed]
  simp only [beq_self_eq_true, Bool.and_self, if_true, State.setTimeState, hstate]
  rfl

theorem exec_holdoverLimit {s : State} {u : Tick} (hup : s.up = true) (hstate : s.fab.timeState = 2) (hat : s.fab.holdoverAt = some u)
    (hlong : 23750000 ≤ s.now - u) : exec .holdoverLimit s = .next { s with fab.unsynced := true } := by
  have hx : exec .holdoverLimit s = execHoldoverLimit s := rfl
  have hpassed : s.passed (some u) (tMs 950) = true := decide_eq_true hlong
  rw [hx, execHoldoverLimit, hup, hstate, hat, hpassed]
  rfl

end Sys2Proof.Machine
end

section
/-! SUPPORT. The stream and route commands (R209, R213, R221), and the proof of O53. -/

namespace Sys2Proof.Machine

/-- A trace rests on the links, which a request taken leaves. -/
theorem State.traceOk_taken (s : State) (m : Mb) (dest : Nat) (l : List Nat) : ∀ cur, (s.taken m).traceOk dest cur l = s.traceOk dest cur l := by
  induction l with
  | nil => exact fun _ => rfl
  | cons p l ih =>
    intro cur
    have hlink : (s.taken m).linkOk cur p = s.linkOk cur p := rfl
    have hnext : (s.taken m).neighbour cur p = s.neighbour cur p := rfl
    rw [traceOk, traceOk, hlink, hnext]
    cases s.neighbour cur p with
    | none => rfl
    | some n => exact congrArg (s.linkOk cur p && ·) (ih n)

theorem State.routeEntry_taken (s : State) (m : Mb) (dest : Nat) : (s.taken m).routeEntry dest = s.routeEntry dest := by
  have hroute (r : Nat × Nat × List Nat) : (s.taken m).routeOk dest r = s.routeOk dest r := congrArg (_ && ·) (s.traceOk_taken m dest _ _)
  have hroutes : (s.taken m).routesTo dest = s.routesTo dest := rfl
  funext i
  unfold routeEntry
  simp only [hroute, hroutes, State.taken_fab]

section
variable {s : State} {m : Mb} {r : Req}

theorem exec_fabExport (h : s.runs m 0x0D04 false = some r) (hl : r.len = 8) (hz : r.u8 3 = 0) :
    exec (.fabExport m) s = .next (((s.taken m).fabExport r).1.respond m 0x0D04 r.tag ((s.taken m).fabExport r).2) :=
  congrArg Host.Outcome.next (State.mbRun_ok (lenIs 8 [(3, 1)]) State.fabExport h (lenIs_ok hl (List.forall_mem_singleton.2 hz)))

theorem exec_fabImport (h : s.runs m 0x0D05 false = some r) (hl : r.len = 24) (hz : r.u16 6 = 0) :
    exec (.fabImport m) s = .next (((s.taken m).fabImport r).1.respond m 0x0D05 r.tag ((s.taken m).fabImport r).2) :=
  congrArg Host.Outcome.next (State.mbRun_ok (lenIs 24 [(6, 2)]) State.fabImport h (lenIs_ok hl (List.forall_mem_singleton.2 hz)))

theorem exec_fabUnbind (h : s.runs m 0x0D06 false = some r) (hl : r.len = 4) (hz : r.u8 1 = 0) :
    exec (.fabUnbind m) s = .next (((s.taken m).fabUnbind r).1.respond m 0x0D06 r.tag ((s.taken m).fabUnbind r).2) :=
  congrArg Host.Outcome.next (State.mbRun_ok (lenIs 4 [(1, 1)]) State.fabUnbind h (lenIs_ok hl (List.forall_mem_singleton.2 hz)))

theorem exec_fabStream (h : s.runs m 0x0D07 false = some r) (hl : r.len = 4) (hz : r.u16 2 = 0) :
    exec (.fabStream m) s = .next (((s.taken m).fabStream r).1.respond m 0x0D07 r.tag ((s.taken m).fabStream r).2) :=
  congrArg Host.Outcome.next (State.mbRun_ok (lenIs 4 [(2, 2)]) State.fabStream h (lenIs_ok hl (List.forall_mem_singleton.2 hz)))

theorem exec_fabRoute (h : s.runs m 0x0D08 false = some r) (hl : r.len = 4) (hz : field r.pay 1 3 = 0) :
    exec (.fabRoute m) s = .next ((s.taken m).respond m 0x0D08 r.tag (okR ((List.range 4).map (s.routeEntry (r.u8 0))).flatten)) := by
  have hx : exec (.fabRoute m) s = .next (s.mbRun m 0x0D08 false (lenIs 4 [(1, 3)]) State.fabRoute) := rfl
  rw [hx, State.mbRun_ok _ _ h (lenIs_ok hl (List.forall_mem_singleton.2 hz)), State.fabRoute, State.routeEntry_taken]

/-- A context whose output is to be exported under the lowest free number. -/
theorem State.fabExport_named {c : Ctx} {id : Nat} (hc : s.ctx? (r.u16 0) = some c) (hmax : r.u32 4 ≤ 1048576) (hheld : s.held (2, r.u16 0) = false)
    (hid : (leastBelow 1024 fun i => !s.fab.exports.has i) = some id) : s.fabExport r =
    if !s.hasRoute (r.u8 2) then (s, failR St.refused 3) else if c.exportId.isSome then (s, failR St.refused 4)
    else (({ s with fab.exports := s.fab.exports.set id { ctx := r.u16 0, dest := r.u8 2, attachMax := r.u32 4, seq := 1 } } : State).updCtx (r.u16 0)
      fun c => { c with exportId := some id }, okR (leBytes 2 id ++ leBytes 1 s.origin ++ [0])) := by
  unfold fabExport
  simp only [hc, if_neg (Nat.not_lt.2 hmax), hheld, Bool.false_eq_true, if_false, hid]
  rfl

theorem State.fabImport_badArg (ht : s.tenantErr (r.u8 0) = none) (h : importArgs r = false) : s.fabImport r = (s, failR St.badArg) := by
  unfold fabImport
  simp only [ht, h, Bool.not_false, if_true]

/-- A stream that no import is bound to yet. -/
theorem State.fabImport_new {id : Nat} (ht : s.tenantErr (r.u8 0) = none) (h : importArgs r = true)
    (hid : (leastBelow 1024 fun i => !s.fab.imports.has i) = some id) (hnew : (s.fab.imports.any fun x => x.2.key == (newImport r).key) = false) :
    s.fabImport r = ({ s with fab.imports := s.fab.imports.set id (newImport r), fab.closed := s.fab.closed.filter fun k => k != (newImport r).key },
      okR (leBytes 2 id ++ [0, 0])) := by
  unfold fabImport
  simp only [ht, h, Bool.not_true, Bool.false_eq_true, if_false, hid, hnew]

theorem State.fabUnbind_import (h : r.u8 0 = 1) (hi : s.fab.imports.has (r.u16 2) = true) :
    s.fabUnbind r = ({ s with fab.imports := s.fab.imports.del (r.u16 2) }, okR []) := by
  unfold fabUnbind
  simp only [h, hi]
  rfl

theorem State.fabUnbind_exported {e : Export} (h : r.u8 0 = 0) (he : s.fab.exports.find? (r.u16 2) = some e) :
    s.fabUnbind r = (({ s with fab.exports := s.fab.exports.del (r.u16 2) } : State).updCtx e.ctx fun c => { c with exportId := none }, okR []) := by
  unfold fabUnbind
  simp only [h, he, beq_self_eq_true, if_true]

theorem State.fabUnbind_badArg (h : 1 < r.u8 0) : s.fabUnbind r = (s, failR St.badArg) := by
  have h0 : (r.u8 0 == 0) = false := beq_eq_false_iff_ne.2 (by omega)
  have h1 : (r.u8 0 == 1) = false := beq_eq_false_iff_ne.2 (by omega)
  unfold fabUnbind
  simp only [h0, h1, Bool.false_and, Bool.false_eq_true, if_false]

theorem State.fabStream_none (h : s.fab.imports.find? (r.u16 0) = none) : s.fabStream r = (s, failR St.badArg) := by
  unfold fabStream
  simp only [h]

theorem State.fabStream_some {i : Import} (h : s.fab.imports.find? (r.u16 0) = some i) : s.fabStream r = (s, okR (leBytes 8 i.h ++ leBytes 8 i.bits ++
    leBytes 8 i.delivered ++ leBytes 8 i.duplicates ++ leBytes 8 i.lost ++ leBytes 4 i.landFull ++ leBytes 4 i.drainDiscard)) := by
  unfold fabStream
  simp only [h]

end

/-- The entry's bytes in host memory. -/
theorem State.landEntry_host (s : State) (i : Import) (x : Packet) : (s.landEntry i x).mem.host = memWriteN s.mem.host (i.slotAddr x.seq)
    (landHeader x.seq (2 * boolN x.first + 4 * boolN x.last + 8 * truncFlag s.broup i x) x.payload.length x.type x.src x.origin s.now ++ x.payload) := by
  simp only [landEntry, hostWriteN]

/-- Settles O53: each packet, event and command by its equation; what sending leaves is `State.Transmits`, what a flood sends is `State.Floods`. -/
theorem streamsLandAndTimeLocks : Obligations.StreamsLandAndTimeLocks := by
  refine ⟨fun s p x rest hon hrx => ⟨fun hd htag hkey hdrained h20 h22 => ?delivered,
      fun out hout hd hdrained hhop hu hw hc => exec_settPacketReceive_sent hon hrx hout.symm hd hdrained hhop hu hw hc, fun hd hdrained hlost => ?dropped,
      fun hdrained htag hkey hnone => ?drained, fun hd hbad ht hserved => exec_settPacketReceive_tagFail hon hrx hd hbad ht hserved,
      fun htype htag hkey hzero hparent hw hc => exec_settPacketReceive_answered hon hrx htype htag hkey hzero hparent hw hc⟩,
    fun x f => ⟨packetHeader_length x, packetBytes_length f.pkt, f.bytes_length,
      fun h1 h2 h3 h4 h5 h6 h7 h8 h9 h10 h11 h12 h13 h14 h15 => HeaderFits.packetOf_header ⟨h1, h2, h3, h4, h5, h6, h7, h8, h9, h10, h11, h12, h13, h14, h15⟩⟩,
    fun s c x port n i hup hhold hc hin himport hopen hruns hh hseq => ⟨fun hsame => ?again, fun hnext hw hroom => ?lands⟩,
    fun s n i q u hup hhold hi hruns hw hlong hh hq h2 h64 => ?gap,
    fun s x port hup htype hin => ⟨fun hseen => ?seen, fun hseen => ?drain⟩,
    fun s x port tn id w u hup htype hin hfind hleft => ?ack,
    fun s tn id w u hup hsteps hlong => exec_drainTimeout_one hup hsteps hlong,
    fun s x port hup htype hin => ⟨_, exec_portState hup hin htype, List.mem_cons_self .., rfl⟩,
    fun s hon => ⟨fun hshort => ?early, fun hlong => ?flood⟩,
    fun s port a b c d hon hhears => ⟨fun h => ?slewed, fun h => ?stepped⟩,
    fun s port hon hparent hu hlong hw hc => exec_timeExchange hon hparent hu hlong hw hc,
    fun s hup hstate hlong => ?holdover, fun s u hup hstate hat hlong => exec_holdoverLimit hup hstate hat hlong,
    fun s m r c id hm hl hz hc hmax hheld hid => ⟨fun hroute => ?noRoute, fun hroute hnone => ?exports⟩,
    fun s m r id hm hl hz ht hid => ⟨fun hbad => ?importBad, fun hargs hnew => ?imports⟩,
    fun s m r hm hl hz => ⟨fun h hi => ?unbindImport, fun e h he => ?unbindExport, fun h => ?unbindBad⟩,
    fun s m r hm hl hz => ⟨fun h => ?streamBad, fun i h => ?stream⟩, fun s m r hm hl hz => exec_fabRoute hm hl hz⟩
  case delivered =>
    rw [exec_settPacketReceive_delivered hon hrx hd, State.deliver_inbox (s := s.unloaded p x rest) htag hkey hdrained h20 h22]
    rfl
  case dropped =>
    have hlost' : x.hopCount ≤ x.hop ∨ portUsable ((s.unloaded p x rest).port (x.route.getD x.hop 0)).state = false := by
      rw [State.unloaded_port_keeps FPort.state (fun _ _ _ => rfl)]
      exact hlost
    rw [exec_settPacketReceive_forwarded hon hrx hd, State.forward_dropped (s := s.unloaded p x rest) hdrained hlost']
    rfl
  case drained =>
    have hcount := State.drainCount_none (s := s.unloaded p x rest) hnone p
    rw [exec_settPacketReceive hon hrx, State.deliver_drained (s := s.unloaded p x rest) htag hkey hdrained,
      State.forward_drained (s := s.unloaded p x rest) hdrained, hcount, ite_self]
    rfl
  case again =>
    refine ⟨_, exec_landing_import hup hhold hc hin himport hopen hruns, ?_⟩
    rw [State.landPacket_again hsame]
    exact ⟨State.setImport_find .., rfl⟩
  case lands =>
    refine ⟨_, truncFlag s.broup i x, exec_landing_import hup hhold hc hin himport hopen hruns, truncFlag_lt .., fun hlast => truncFlag_inside hlast ..,
      fun hlast htype => truncFlag_record hlast htype .., ?_⟩
    rw [State.landPacket_next (s := s.received x) hnext hh hw hroom]
    exact ⟨State.setImport_find .., (s.received x).landEntry_host i x, rfl⟩
  case gap =>
    refine ⟨_, exec_landingGapTimeout hup hhold hi hruns hw hlong hh hq h2, State.setImport_find .., ?_⟩
    rw [State.setImport_parts, State.slide_parts]
  case seen =>
    rw [exec_drain hup hin htype, if_pos hseen]
    rfl
  case drain =>
    have hexec := exec_drain hup hin htype
    rw [hseen, if_neg Bool.false_ne_true] at hexec
    have hsends := (s.received x).drainIn_transmits port (field x.payload 0 4) x
    refine ⟨_, hexec, hsends.keeps (fun s => s.fab.seen) fun _ => rfl, ?_, hsends.keeps (fun s => s.fab.imports) fun _ => rfl, hsends.mem⟩
    rw [hsends.keeps (fun s => s.fab.drained) fun _ => rfl]
    exact List.mem_cons_self ..
  case ack =>
    rw [exec_drainAck hup hin htype, State.ackDrain_waits (s := s.received x) hfind hleft]
    rfl
  case early => rw [exec_portStateFlood hon, if_neg (Nat.not_le.2 hshort)]
  case flood =>
    have hsends := s.floodPorts_transmits
    refine ⟨_, (exec_portStateFlood hon).trans (by rw [if_pos hlong]), hsends.keeps (fun s => s.fab.floodAt) fun _ => rfl, hsends.state, hsends.mem, fun hwaits => ?_⟩
    exact (s.floodPorts_floods hwaits).2
  case slewed =>
    have hexec := exec_time hon hhears a b c d
    rw [if_pos h] at hexec
    obtain ⟨hfab, hnow⟩ := State.setTimeState_spec { s.timeHeard port with fab.slew := timeOffset a b c d } 1
    refine ⟨_, hexec, ?_⟩
    rw [hfab, hnow]
    exact ⟨rfl, rfl, rfl, Nat.le_of_lt_succ (Nat.mod_lt _ (by decide)), rfl, rfl⟩
  case stepped =>
    have hexec := exec_time hon hhears a b c d
    rw [h, if_neg Bool.false_ne_true] at hexec
    refine ⟨_, hexec, ?_⟩
    obtain ⟨hfab, hnow⟩ := State.setTimeState_spec (State.post { s.timeHeard port with fab.stepped := true, now := (s.now + timeOffset a b c d / 40).toNat, fab.timeAt := (s.now + timeOffset a b c d / 40).toNat }
        0x0D0D 0 0 (leBytes 8 (unsigned 64 (timeOffset a b c d / 40)))) 1
    rw [State.post_fab] at hfab
    rw [State.post_now] at hnow
    rw [hfab, hnow]
    exact ⟨rfl, rfl, rfl, Nat.le_of_lt_succ (Nat.mod_lt _ (by decide))⟩
  case holdover =>
    refine ⟨_, exec_timeParentLoss hup hstate hlong, ?_⟩
    rw [State.post_fab]
    exact ⟨rfl, rfl, rfl, State.eventPosted_post (u := s.heldOver) rfl rfl _ _ _ _⟩
  case noRoute =>
    have hroute' : (s.taken m).hasRoute (r.u8 2) = false := hroute
    rw [exec_fabExport hm hl hz, State.fabExport_named (s := s.taken m) hc hmax hheld hid, hroute']
    rfl
  case exports =>
    have hroute' : (s.taken m).hasRoute (r.u8 2) = true := hroute
    rw [exec_fabExport hm hl hz, State.fabExport_named (s := s.taken m) hc hmax hheld hid, if_neg (by simp [hroute']), if_neg (by simp [hnone])]
    refine ⟨_, rfl, ?_, ?_, fun k hk => State.updCtx_ctx_ne _ _ hk⟩
    · rw [State.updCtx_fab]
      exact Tbl.find?_set_self ..
    · rw [State.updCtx_ctx_self]
      exact congrArg (Option.map _) hc
  case importBad =>
    rw [exec_fabImport hm hl hz, State.fabImport_badArg (s := s.taken m) ht hbad]
    rfl
  case imports =>
    rw [exec_fabImport hm hl hz, State.fabImport_new (s := s.taken m) ht hargs hid hnew]
    refine ⟨_, rfl, Tbl.find?_set_self .., fun h => ?_, rfl⟩
    simpa using (List.mem_filter.1 h).2
  case unbindImport =>
    rw [exec_fabUnbind hm hl hz, State.fabUnbind_import (s := s.taken m) h hi]
    rfl
  case unbindExport =>
    rw [exec_fabUnbind hm hl hz, State.fabUnbind_exported (s := s.taken m) h he]
    rfl
  case unbindBad =>
    rw [exec_fabUnbind hm hl hz, State.fabUnbind_badArg (s := s.taken m) h]
    rfl
  case streamBad =>
    rw [exec_fabStream hm hl hz, State.fabStream_none (s := s.taken m) h]
    rfl
  case stream =>
    rw [exec_fabStream hm hl hz, State.fabStream_some (s := s.taken m) h]

end Sys2Proof.Machine
end

section
/-! SUPPORT. What every command keeps (R52's queue of the model, logs 4 and 8): the commands that wait, and the canonical form of the memories.
`Keeps` is shown once of every operation of the state that a command can call, in the order of the model's definitions. -/

namespace Sys2Proof.Machine

/-- `t` has the commands of `s` that wait, and its memories are in canonical form where those of `s` are. -/
structure State.Keeps (s t : State) : Prop where
  queue : t.pending = s.pending
  memories : s.canonical → t.canonical

/-- A command answers a next state, which keeps the queue and the memories of `s`. -/
def State.Answers (s : State) (o : Out) : Prop := ∃ t, o = .next t ∧ s.Keeps t

/-! ## Steps of a meaning: a new record, a choice, a fold -/

theorem State.Keeps.refl (s : State) : s.Keeps s := ⟨rfl, id⟩

theorem State.Answers.next {s t : State} (h : s.Keeps t) : s.Answers (.next t) := ⟨t, rfl, h⟩

variable {s₀ s : State}

/-- A change of fields beside the queue, the tiles and the memory system. -/
theorem State.Keeps.upd {now idleTicks freeIdx host mason parts plans lastPlan courses piers ctxs nextOrder trowel power therm flt fab twin sec fw}
    (h : s₀.Keeps s) :
    s₀.Keeps ⟨s.pending, now, idleTicks, freeIdx, host, mason, parts, plans, lastPlan, courses, s.tiles, piers, s.mem, ctxs, nextOrder, trowel, power, therm,
      flt, fab, twin, sec, fw⟩ :=
  ⟨h.queue, h.memories⟩

/-- A change of fields beside the queue, the tiles and the memories themselves. -/
theorem State.Keeps.updMem {now idleTicks freeIdx host mason parts plans lastPlan courses piers ctxs nextOrder trowel power therm flt fab twin sec fw
    frames badFrames nextPier kvFrames ch intCh intRetired lossBuf copies nextCopy} (h : s₀.Keeps s) :
    s₀.Keeps ⟨s.pending, now, idleTicks, freeIdx, host, mason, parts, plans, lastPlan, courses, s.tiles, piers,
      ⟨s.mem.hbm, s.mem.host, frames, badFrames, nextPier, kvFrames, ch, intCh, intRetired, lossBuf, copies, nextCopy, s.mem.cbuf⟩,
      ctxs, nextOrder, trowel, power, therm, flt, fab, twin, sec, fw⟩ :=
  ⟨h.queue, h.memories⟩

/-- A change of the memories that keeps each in canonical form. -/
theorem State.Keeps.written {t : State} (h : s₀.Keeps s) (hq : t.pending = s.pending)
    (hbm : Memory.wf s.mem.hbm = true → Memory.wf t.mem.hbm = true) (host : Memory.wf s.mem.host = true → Memory.wf t.mem.host = true)
    (tiles : (∀ n, (s.tile n).sram.wf = true) → ∀ n, (t.tile n).sram.wf = true) (cbufs : (∀ c, (s.cbuf c).wf = true) → ∀ c, (t.cbuf c).wf = true) :
    s₀.Keeps t := by
  refine ⟨hq.trans h.queue, fun h0 => ?_⟩
  obtain ⟨h1, h2, h3, h4⟩ := h.memories h0
  exact ⟨hbm h1, host h2, tiles h3, cbufs h4⟩

theorem State.Keeps.ite {c : Prop} [Decidable c] {t u : State} (ht : s₀.Keeps t) (hu : s₀.Keeps u) : s₀.Keeps (if c then t else u) := by
  split
  · exact ht
  · exact hu

theorem State.Keeps.foldl {β : Type} {g : State → β → State} {l : List β} (hg : ∀ s x, s₀.Keeps s → s₀.Keeps (g s x)) (h : s₀.Keeps s) :
    s₀.Keeps (l.foldl g s) := by
  induction l generalizing s with
  | nil => exact h
  | cons x l ih => exact ih (hg s x h)

theorem State.Keeps.foldl_fst {β γ : Type} {g : State × γ → β → State × γ} {l : List β} {x : State × γ}
    (hg : ∀ x b, s₀.Keeps x.1 → s₀.Keeps (g x b).1) (h : s₀.Keeps x.1) : s₀.Keeps (l.foldl g x).1 := by
  induction l generalizing x with
  | nil => exact h
  | cons b l ih => exact ih (hg x b h)

/-! ## Writing memory -/

theorem State.Keeps.hbmWrite {t o : Nat} {b : Byte} (h : s₀.Keeps s) : s₀.Keeps (s.hbmWrite t o b) := by
  unfold State.hbmWrite
  split
  · exact h.written rfl (memWrite_wf _ _) id id id
  · exact h

theorem State.Keeps.hbmWriteN {t o : Nat} {bs : List Byte} (h : s₀.Keeps s) : s₀.Keeps (s.hbmWriteN t o bs) := by
  induction bs generalizing s o with
  | nil => exact h
  | cons b bs ih => exact ih h.hbmWrite

theorem State.Keeps.hostWriteN {a : Nat} {bs : List Byte} (h : s₀.Keeps s) : s₀.Keeps (s.hostWriteN a bs) :=
  h.written rfl id (memWriteN_wf bs a) id id

/-- A frame's bytes are cleared. -/
theorem State.Keeps.cleared {now idleTicks freeIdx host mason parts plans lastPlan courses piers ctxs nextOrder trowel power therm flt fab twin sec fw
    frames badFrames nextPier kvFrames ch intCh intRetired lossBuf copies nextCopy lo n} (h : s₀.Keeps s) :
    s₀.Keeps ⟨s.pending, now, idleTicks, freeIdx, host, mason, parts, plans, lastPlan, courses, s.tiles, piers,
      ⟨memClear s.mem.hbm lo n, s.mem.host, frames, badFrames, nextPier, kvFrames, ch, intCh, intRetired, lossBuf, copies, nextCopy, s.mem.cbuf⟩,
      ctxs, nextOrder, trowel, power, therm, flt, fab, twin, sec, fw⟩ :=
  h.written rfl (memClear_wf lo n) id id id

/-- A record of a table, where the changed one and every one before the change have a property. -/
theorem Tbl.get_upd_all {α : Type} {P : α → Prop} {d : α} {t : Tbl α} {i : Nat} {f : α → α} (h : ∀ n, P (t.get d n)) (hf : P (f (t.get d i))) (n : Nat) :
    P ((t.upd d i f).get d n) := by
  by_cases hn : i = n
  · rw [← hn, Tbl.get_upd_self]
    exact hf
  · rw [Tbl.get_upd_ne d t f hn]
    exact h n

theorem State.Keeps.updTile {n : Nat} {f : Tile → Tile} (hf : (s.tile n).sram.wf = true → (f (s.tile n)).sram.wf = true) (h : s₀.Keeps s) : s₀.Keeps (s.updTile n f) :=
  h.written rfl id id (fun ht => Tbl.get_upd_all (P := fun x : Tile => x.sram.wf = true) ht (hf (ht n))) id

theorem State.Keeps.updCbuf {c : Nat} {f : Sram → Sram} (hf : (s.cbuf c).wf = true → (f (s.cbuf c)).wf = true) (h : s₀.Keeps s) : s₀.Keeps (s.updCbuf c f) :=
  h.written rfl id id id fun hc => Tbl.get_upd_all (P := fun x : Sram => x.wf = true) hc (hf (hc c))

end Sys2Proof.Machine
end

section
/-! SUPPORT. `Keeps` of registers, tiles and HBM (Machine/Operands.lean). -/

namespace Sys2Proof.Machine

variable {s₀ s : State}

theorem State.Keeps.updPart {p : Nat} {f : Part → Part} (h : s₀.Keeps s) : s₀.Keeps (s.updPart p f) := by
  unfold State.updPart
  split
  · exact .upd h
  · exact h

theorem State.Keeps.updCtx {c : Nat} {f : Ctx → Ctx} (h : s₀.Keeps s) : s₀.Keeps (s.updCtx c f) := by
  unfold State.updCtx
  split
  · exact .upd h
  · exact h

theorem State.Keeps.updCourse {c : Nat} {f : Course → Course} (h : s₀.Keeps s) : s₀.Keeps (s.updCourse c f) := by
  unfold State.updCourse
  exact .upd h

theorem State.Keeps.updPier {p : Nat} {f : Pier → Pier} (h : s₀.Keeps s) : s₀.Keeps (s.updPier p f) := by
  unfold State.updPier
  exact .upd h

theorem State.Keeps.updChan {c : Nat} {f : Channel → Channel} (h : s₀.Keeps s) : s₀.Keeps (s.updChan c f) := by
  unfold State.updChan
  exact .updMem h

theorem State.Keeps.updVf {v : Nat} {f : Vf → Vf} (h : s₀.Keeps s) : s₀.Keeps (s.updVf v f) := by
  unfold State.updVf
  exact .upd h

theorem State.Keeps.updRing {v r : Nat} {f : Ring → Ring} (h : s₀.Keeps s) : s₀.Keeps (s.updRing v r f) := by
  unfold State.updRing
  exact .updVf h

theorem State.Keeps.updCore {c : Nat} {f : Core → Core} (h : s₀.Keeps s) : s₀.Keeps (s.updCore c f) := by
  unfold State.updCore
  exact .upd h

theorem State.Keeps.updPort {p : Nat} {f : FPort → FPort} (h : s₀.Keeps s) : s₀.Keeps (s.updPort p f) := by
  unfold State.updPort
  exact .upd h

theorem State.Keeps.updStack {k : Nat} {f : Stack → Stack} (h : s₀.Keeps s) : s₀.Keeps (s.updStack k f) := by
  unfold State.updStack
  exact .upd h

theorem State.Keeps.updUnit {kind id : Nat} {f : Unit → Unit} (h : s₀.Keeps s) : s₀.Keeps (s.updUnit kind id f) := by
  unfold State.updUnit
  exact .upd h

theorem State.Keeps.updTenant {t : Nat} {f : Tenant → Tenant} (h : s₀.Keeps s) : s₀.Keeps (s.updTenant t f) := by
  unfold State.updTenant
  dsimp only
  split
  · exact .upd h
  · exact h

theorem State.Keeps.updChisel {p l : Nat} {f : Chisel → Chisel} (h : s₀.Keeps s) : s₀.Keeps (s.updChisel p l f) := by
  unfold State.updChisel
  exact .updPart h

theorem State.Keeps.updPartCtr {p : Nat} {f : PartCounters → PartCounters} (h : s₀.Keeps s) : s₀.Keeps (s.updPartCtr p f) := by
  unfold State.updPartCtr
  exact .updPart h

theorem State.Keeps.syncSets (h : s₀.Keeps s) : s₀.Keeps s.syncSets := by
  unfold State.syncSets
  exact .updMem h

theorem State.Keeps.intDone {j : IntJob} {f : State → State} (hf : ∀ s, s₀.Keeps s → s₀.Keeps (f s)) (h : s₀.Keeps s) : s₀.Keeps (s.intDone j f) := by
  unfold State.intDone
  exact .ite (.syncSets (hf _ (.syncSets h))) h

theorem State.Keeps.updMbox {m : Mb} {f : Mailbox → Mailbox} (h : s₀.Keeps s) : s₀.Keeps (s.updMbox m f) := by
  unfold State.updMbox
  dsimp only
  split
  · exact .upd h
  · exact .upd h

theorem State.Keeps.updPair {n : Nat} {f : Tile → Tile} (hf : (s.pair n).sram.wf = true → (f (s.pair n)).sram.wf = true) (h : s₀.Keeps s) :
    s₀.Keeps (s.updPair n f) := by
  unfold State.pair at hf
  unfold State.updPair
  split
  · next hn =>
    rw [if_pos hn] at hf
    exact .updTile hf h
  · exact .upd h

theorem State.Keeps.hbmTouch {pier : Nat} (h : s₀.Keeps s) : s₀.Keeps (s.hbmTouch pier) := by
  unfold State.hbmTouch
  exact .updPier h

theorem State.Keeps.touchStacks {ks : List Nat} (h : s₀.Keeps s) : s₀.Keeps (s.touchStacks ks) := by
  unfold State.touchStacks
  exact .foldl (fun _ _ h1 => .hbmTouch h1) h

end Sys2Proof.Machine
end

section
/-! SUPPORT. `Keeps` of operations and answers (Machine/Ops.lean). -/

namespace Sys2Proof.Machine

variable {s₀ s : State}

theorem State.Keeps.free (h : s₀.Keeps s) : s₀.Keeps s.free.2 := by
  unfold State.free
  exact .upd h

theorem State.Keeps.setVector {f : Fn} {i : Nat} {x : Vector} (h : s₀.Keeps s) : s₀.Keeps (s.setVector f i x) := by
  unfold State.setVector
  dsimp only
  split
  · exact .upd h
  · exact .upd h

theorem State.Keeps.sendMsg {f : Fn} {i : Nat} (h : s₀.Keeps s) : s₀.Keeps (s.sendMsg f i) := by
  unfold State.sendMsg
  exact .upd h

theorem State.Keeps.raiseVec {f : Fn} {i : Nat} (h : s₀.Keeps s) : s₀.Keeps (s.raiseVec f i) := by
  unfold State.raiseVec
  exact .ite (.setVector h) (.sendMsg h)

theorem State.Keeps.logWrite {code kind id : Nat} {detail : List Byte} {t : LogTag} (h : s₀.Keeps s) :
    s₀.Keeps (s.logWrite code kind id detail t) := by
  unfold State.logWrite
  exact .upd h

theorem State.Keeps.eqPut {bytes : List Byte} (h : s₀.Keeps s) : s₀.Keeps (s.eqPut bytes) := by
  unfold State.eqPut
  exact .ite (.raiseVec (.upd h)) (.upd h)

theorem State.Keeps.eqEvent {code kind id : Nat} {detail : List Byte} (h : s₀.Keeps s) : s₀.Keeps (s.eqEvent code kind id detail) := by
  unfold State.eqEvent
  exact .ite (.upd h) (.eqPut h)

theorem State.Keeps.postT {code kind id : Nat} {detail : List Byte} {t : LogTag} (h : s₀.Keeps s) : s₀.Keeps (s.postT code kind id detail t) := by
  unfold State.postT
  exact .logWrite (.eqEvent h)

theorem State.Keeps.post {code kind id : Nat} {detail : List Byte} (h : s₀.Keeps s) : s₀.Keeps (s.post code kind id detail) := by
  unfold State.post
  exact .postT h

theorem State.Keeps.eqSpace (h : s₀.Keeps s) : s₀.Keeps s.eqSpace := by
  unfold State.eqSpace
  exact .ite h (.post (.upd h))

theorem State.Keeps.respond {m : Mb} {code tag : Nat} {r : Resp} (h : s₀.Keeps s) : s₀.Keeps (s.respond m code tag r) := by
  unfold State.respond
  refine .ite ?_ ?_
  · refine .raiseVec ?_
    dsimp only
    split
    · exact .upd (.updMbox h)
    · exact .updVf (.updMbox h)
  · dsimp only
    split
    · exact .upd (.updMbox h)
    · exact .updVf (.updMbox h)

theorem State.Keeps.mbRun {m : Mb} {code : Nat} {vfOk : Bool} {layout : Req → Bool} {body : State → Req → State × Resp}
    (hb : ∀ s r, s₀.Keeps s → s₀.Keeps (body s r).1) (h : s₀.Keeps s) : s₀.Keeps (s.mbRun m code vfOk layout body) := by
  unfold State.mbRun
  split
  · exact h
  · dsimp only
    split
    · exact h
    · split
      · split
        · exact .upd h
        · exact hb _ _ (.upd h)
      · split
        · exact .respond (.upd h)
        · exact .respond (hb _ _ (.upd h))

theorem State.Keeps.accept {r : Req} {k : OpKind} (h : s₀.Keeps s) : s₀.Keeps (s.accept r k).1 := by
  unfold State.accept
  exact .upd h

theorem State.Keeps.dropOp {id : Nat} (h : s₀.Keeps s) : s₀.Keeps (s.dropOp id) := by
  unfold State.dropOp
  exact .upd h

end Sys2Proof.Machine
end

section
/-! SUPPORT. `Keeps` of records (Machine/Records.lean). -/

namespace Sys2Proof.Machine

variable {s₀ s : State}

theorem State.Keeps.pumpPort {port : Nat} {l : List Packet} (h : s₀.Keeps s) : s₀.Keeps (s.pumpPort port l) := by
  induction l generalizing s with
  | nil => exact .updPort h
  | cons p t ih =>
    unfold State.pumpPort
    exact .ite (ih (.upd (.updPort h))) (.updPort h)

theorem State.Keeps.sendOn {port : Nat} {p : Packet} (h : s₀.Keeps s) : s₀.Keeps (s.sendOn port p) := by
  unfold State.sendOn
  exact .pumpPort h

theorem State.Keeps.sendRouted {p : Packet} (h : s₀.Keeps s) : s₀.Keeps (s.sendRouted p) := by
  unfold State.sendRouted
  dsimp only
  split
  · exact .updPort h
  · exact .sendOn (.upd h)

theorem State.Keeps.sendLocal {port : Nat} {p : Packet} (h : s₀.Keeps s) : s₀.Keeps (s.sendLocal port p) := by
  unfold State.sendLocal
  exact .sendOn (.upd h)

theorem State.Keeps.ringAnnounce {v i : Nat} (h : s₀.Keeps s) : s₀.Keeps (s.ringAnnounce v i) := by
  unfold State.ringAnnounce
  exact .ite (.raiseVec (.updRing h)) h

theorem State.Keeps.ringWrite {v i : Nat} {x : Rec} (h : s₀.Keeps s) : s₀.Keeps (s.ringWrite v i x) := by
  unfold State.ringWrite
  exact .ringAnnounce (.updRing (.hostWriteN h))

theorem State.Keeps.ringDropOne {v i : Nat} (h : s₀.Keeps s) : s₀.Keeps (s.ringDropOne v i) := by
  unfold State.ringDropOne
  exact .updRing h

theorem State.Keeps.ringPush {v i : Nat} {x : Rec} (h : s₀.Keeps s) : s₀.Keeps (s.ringPush v i x) := by
  unfold State.ringPush
  exact .ite (.ringDropOne h) (.ite (.ringWrite h) (.ite (.updVf h) (.ite (.updRing (.ringDropOne h)) (.post (.updRing (.ringDropOne h))))))

theorem State.Keeps.exportSend {id tenant ctx n i : Nat} {l : List (List Byte)} (h : s₀.Keeps s) : s₀.Keeps (s.exportSend id tenant ctx n i l) := by
  induction l generalizing s i with
  | nil => exact h
  | cons c t ih =>
    unfold State.exportSend
    split
    · exact h
    · exact ih (.upd (.sendRouted h))

theorem State.Keeps.exportRec {c : Ctx} {x : Rec} {phase : Bool} {att : List Byte} (h : s₀.Keeps s) : s₀.Keeps (s.exportRec c x phase att) := by
  unfold State.exportRec
  dsimp only
  split
  · exact h
  · split
    · exact h
    · exact .ite (.upd h) (.exportSend h)

theorem State.Keeps.exportHeld (h : s₀.Keeps s) : s₀.Keeps s.exportHeld := by
  unfold State.exportHeld
  exact .foldl (fun _ _ h1 => .exportSend h1) (.upd h)

theorem State.Keeps.release {x : Rec} {att : List Byte} {perMember : Bool} (h : s₀.Keeps s) :
    s₀.Keeps (s.release x att perMember) := by
  unfold State.release
  dsimp only
  split
  · exact h
  · exact .exportRec (.ringPush (.updCtx h))

theorem State.Keeps.finishOp {id status : Nat} {detail : Nat} (h : s₀.Keeps s) : s₀.Keeps (s.finishOp id status detail) := by
  unfold State.finishOp
  dsimp only
  split
  · exact h
  · split
    · exact .post (.dropOp h)
    · exact .ringPush (.dropOp h)

theorem State.Keeps.finishOps {p : OpKind → Bool} {status : Nat} {detail : Nat} (h : s₀.Keeps s) :
    s₀.Keeps (s.finishOps p status detail) := by
  unfold State.finishOps
  exact .foldl (fun _ _ h1 => .finishOp h1) h

theorem State.Keeps.contextEvent {ctx detail : Nat} {body : List Byte} (h : s₀.Keeps s) : s₀.Keeps (s.contextEvent ctx detail body) := by
  unfold State.contextEvent
  split
  · exact h
  · exact .release h

end Sys2Proof.Machine
end

section
/-! SUPPORT. `Keeps` of frames (Machine/Alloc.lean). -/

namespace Sys2Proof.Machine

variable {s₀ s : State}

theorem State.Keeps.mapPage {tenant pg : Nat} {pier : Option Nat} (h : s₀.Keeps s) : s₀.Keeps (s.mapPage tenant pg pier) := by
  unfold State.mapPage
  dsimp only
  split
  · exact h
  · exact .cleared h

theorem State.Keeps.mapPages {tenant pg : Nat} {pierOf : Nat → Option Nat} {n i : Nat} (h : s₀.Keeps s) :
    s₀.Keeps (s.mapPages tenant pg pierOf n i) := by
  induction n generalizing s i with
  | zero => exact h
  | succ n ih => exact ih (.mapPage h)

theorem State.Keeps.allocPages {tenant n : Nat} {pierOf : Nat → Option Nat} {pg : Nat} {t : State} (h : s₀.Keeps s)
    (e : s.allocPages tenant n pierOf = some (pg, t)) : s₀.Keeps t := by
  unfold State.allocPages at e
  split at e
  · cases e
  · dsimp only at e
    split at e
    · cases e
    · split at e
      · cases e
        exact .mapPages h
      · cases e

theorem State.Keeps.freePages {tenant pg n : Nat} (h : s₀.Keeps s) : s₀.Keeps (s.freePages tenant pg n) := by
  induction n generalizing s pg with
  | zero => exact h
  | succ n ih =>
    refine ih ?_
    split
    · exact .cleared h
    · exact h

theorem State.Keeps.useQuota {t n : Nat} (h : s₀.Keeps s) : s₀.Keeps (s.useQuota t n) := by
  unfold State.useQuota
  exact .updTenant h

theorem State.Keeps.giveQuota {t n : Nat} (h : s₀.Keeps s) : s₀.Keeps (s.giveQuota t n) := by
  unfold State.giveQuota
  exact .updTenant h

end Sys2Proof.Machine
end

section
/-! SUPPORT. `Keeps` of admission (Machine/Admission.lean). -/

namespace Sys2Proof.Machine

variable {s₀ s : State}

theorem State.Keeps.rebound {r : Res} (h : s₀.Keeps s) : s₀.Keeps (s.rebound r) := by
  unfold State.rebound
  split
  · exact h
  · exact .upd h

theorem State.Keeps.writeLoss {ctx : Nat} {l : Loss} (h : s₀.Keeps s) : s₀.Keeps (s.writeLoss ctx l) := by
  unfold State.writeLoss
  exact .updCtx (.hbmTouch h)

theorem State.Keeps.loss {ctx seq kind reason item : Nat} (h : s₀.Keeps s) : s₀.Keeps (s.loss ctx seq kind reason item) := by
  unfold State.loss
  exact .ite (.ite (.updMem (.updCtx h)) (.updCtx h)) (.writeLoss (.updCtx h))

theorem State.Keeps.flushLoss (h : s₀.Keeps s) : s₀.Keeps s.flushLoss := by
  unfold State.flushLoss
  exact .foldl (fun _ _ h1 => .writeLoss h1) (.updMem h)

theorem State.Keeps.noteLate {i : Item} (h : s₀.Keeps s) : s₀.Keeps (s.noteLate i) := by
  unfold State.noteLate
  exact .loss (.updCtx h)

theorem State.Keeps.quietFrom {ctx : Nat} (h : s₀.Keeps s) : s₀.Keeps (s.quietFrom ctx) := by
  unfold State.quietFrom
  dsimp only
  split
  · exact h
  · refine .ite ?_ ?_
    · refine .updCtx ?_
      split
      · exact .foldl (fun _ _ h1 => .updCourse h1) h
      · exact h
    · split
      · exact .foldl (fun _ _ h1 => .updCourse h1) h
      · exact h

theorem State.Keeps.closeMarked {i : Item} (h : s₀.Keeps s) : s₀.Keeps (s.closeMarked i) := by
  unfold State.closeMarked
  exact .release (.updCtx h)

theorem State.Keeps.shedItem {i : Item} {cause : Nat} (h : s₀.Keeps s) : s₀.Keeps (s.shedItem i cause) := by
  unfold State.shedItem
  dsimp only
  split
  · exact h
  · exact .ite (.closeMarked (.quietFrom (.loss (.updCtx h)))) (.release (.quietFrom (.loss (.updCtx h))))

theorem State.Keeps.enqueue {cn : Nat} {is : List Item} (h : s₀.Keeps s) : s₀.Keeps (s.enqueue cn is) := by
  unfold State.enqueue
  exact .upd (.updCtx h)

theorem State.Keeps.refuse {cn seq k reason : Nat} (h : s₀.Keeps s) : s₀.Keeps (s.refuse cn seq k reason).1 := by
  unfold State.refuse
  exact .loss (.updCtx h)

theorem State.Keeps.decideGuard {cn : Nat} {c : Ctx} {d : List Byte} {k : Nat} (h : s₀.Keeps s) : s₀.Keeps (s.decideGuard cn c d k).1 := by
  unfold State.decideGuard
  dsimp only
  split
  · exact .enqueue (.updCtx h)
  · exact .foldl (fun _ _ h1 => .shedItem h1) (.enqueue (.updCtx h))

theorem State.Keeps.decideRest {cn : Nat} {c : Ctx} {d : List Byte} {k : Nat} (h : s₀.Keeps s) : s₀.Keeps (s.decideRest cn c d k).1 := by
  unfold State.decideRest
  dsimp only
  split
  · exact .refuse h
  · split
    · exact .refuse h
    · split
      · split
        · split
          · exact .refuse h
          · split
            · split
              · exact .updCtx (.enqueue (.updCtx h))
              · exact .updCtx (.enqueue (.updCtx h))
            · split
              · exact .updCtx (.enqueue (.updCtx h))
              · exact .updCtx (.enqueue (.updCtx h))
        · split
          · exact .refuse h
          · split
            · split
              · exact .updCtx (.enqueue (.updCtx h))
              · exact .updCtx (.enqueue (.updCtx h))
            · split
              · exact .updCtx (.enqueue (.updCtx h))
              · exact .updCtx (.enqueue (.updCtx h))
      · split
        · split
          · exact .refuse h
          · split
            · split
              · exact .updCtx (.enqueue (.updCtx h))
              · exact .updCtx (.enqueue (.updCtx h))
            · split
              · exact .updCtx (.enqueue (.updCtx h))
              · exact .updCtx (.enqueue (.updCtx h))
        · split
          · exact .refuse h
          · split
            · split
              · exact .updCtx (.enqueue (.updCtx h))
              · exact .updCtx (.enqueue (.updCtx h))
            · split
              · exact .updCtx (.enqueue (.updCtx h))
              · exact .updCtx (.enqueue (.updCtx h))

theorem State.Keeps.decideClass {cn : Nat} {c : Ctx} {d : List Byte} {k : Nat} (h : s₀.Keeps s) : s₀.Keeps (s.decideClass cn c d k).1 := by
  unfold State.decideClass
  dsimp only
  split
  · exact .refuse h
  · split
    · split
      · exact .refuse h
      · split
        · exact .refuse h
        · split
          · split
            · exact .updCtx (.enqueue h)
            · split
              · exact .decideGuard h
              · exact .decideRest h
          · split
            · exact .updCtx (.enqueue h)
            · split
              · exact .decideGuard h
              · exact .decideRest h
    · split
      · exact .refuse h
      · split
        · exact .refuse h
        · split
          · split
            · exact .updCtx (.enqueue h)
            · split
              · exact .decideGuard h
              · exact .decideRest h
          · split
            · exact .updCtx (.enqueue h)
            · split
              · exact .decideGuard h
              · exact .decideRest h

theorem State.Keeps.decideTicket {cn : Nat} {c : Ctx} {d : List Byte} (h : s₀.Keeps s) : s₀.Keeps (s.decideTicket cn c d).1 := by
  unfold State.decideTicket
  dsimp only
  split
  · exact h
  · split
    · exact h
    · split
      · exact h
      · split
        · exact .refuse (.updCtx h)
        · exact .decideClass (.updCtx h)

theorem State.Keeps.countTicket {cn : Nat} (h : s₀.Keeps s) : s₀.Keeps (s.countTicket cn).1 := by
  unfold State.countTicket
  dsimp only
  split
  · exact h
  · exact .updCtx h

end Sys2Proof.Machine
end

section
/-! SUPPORT. `Keeps` of errors (Machine/Errors.lean). -/

namespace Sys2Proof.Machine

variable {s₀ s : State}

theorem State.Keeps.unqueue {i : Item} (h : s₀.Keeps s) : s₀.Keeps (s.unqueue i) := by
  unfold State.unqueue
  exact .quietFrom (.updCtx h)

theorem State.Keeps.endQueued {i : Item} {status : Nat} (h : s₀.Keeps s) : s₀.Keeps (s.endQueued i status) := by
  unfold State.endQueued
  exact .ite (.closeMarked (.unqueue h)) (.release (.unqueue h))

theorem State.Keeps.endAllQueued {p : Item → Bool} {status : Nat} (h : s₀.Keeps s) : s₀.Keeps (s.endAllQueued p status) := by
  unfold State.endAllQueued
  exact .foldl (fun _ _ h1 => .endQueued h1) h

theorem State.Keeps.touchPart {p : Nat} (h : s₀.Keeps s) : s₀.Keeps (s.touchPart p) := by
  unfold State.touchPart
  exact .updPart h

theorem State.Keeps.planError {p l code off : Nat} (h : s₀.Keeps s) : s₀.Keeps (s.planError p l code off) := by
  unfold State.planError
  dsimp only
  split
  · exact h
  · split
    · exact h
    · exact .ite h (.postT (.updPart h))

theorem State.Keeps.clearPart {p : Nat} (h : s₀.Keeps s) : s₀.Keeps (s.clearPart p) := by
  unfold State.clearPart
  split
  · exact h
  · refine .updPart (.upd (.foldl (fun _ _ h => .updCbuf (fun hw => ?_) h) (.foldl (fun _ _ h => .updTile id h) h)))
    split
    · exact hw
    · exact hw

theorem State.Keeps.burn {kind reason ukind uid value ref : Nat} {aux : Nat} (h : s₀.Keeps s) :
    s₀.Keeps (s.burn kind reason ukind uid value ref aux) := by
  unfold State.burn
  exact .upd h

theorem State.Keeps.handover {cause : Nat} (h : s₀.Keeps s) : s₀.Keeps (s.handover cause) := by
  unfold State.handover
  refine .ite ?_ ?_
  · dsimp only
    split
    · exact .sendRouted (.upd h)
    · exact h
  · exact h

theorem State.Keeps.loseParts {pred : Part → Bool} (h : s₀.Keeps s) : s₀.Keeps (s.loseParts pred) := by
  unfold State.loseParts
  exact .foldl (fun _ _ h1 => .foldl (fun _ _ h2 => .contextEvent h2) (.updPart h1)) h

theorem State.Keeps.guardRecheck {r : Res} {n : Nat} (h : s₀.Keeps s) : s₀.Keeps (s.guardRecheck r n) := by
  induction n generalizing s with
  | zero => exact h
  | succ n ih =>
    unfold State.guardRecheck
    split
    · exact h
    · split
      · exact h
      · exact ih (.contextEvent (.updCtx h))

theorem State.Keeps.guardRecheckAll {r : Res} (h : s₀.Keeps s) : s₀.Keeps (s.guardRecheckAll r) := by
  unfold State.guardRecheckAll
  exact .guardRecheck h

theorem State.Keeps.guardRecheckCourse {c : Nat} (h : s₀.Keeps s) : s₀.Keeps (s.guardRecheckCourse c) := by
  unfold State.guardRecheckCourse
  exact .foldl (fun _ _ h1 => .guardRecheckAll h1) h

theorem State.Keeps.requeuePics {f : Item → Bool} (h : s₀.Keeps s) : s₀.Keeps (s.requeuePics f) := by
  unfold State.requeuePics
  exact .foldl (fun _ _ h1 => .updCtx h1) (.upd h)

theorem State.Keeps.dropObjects (h : s₀.Keeps s) : s₀.Keeps s.dropObjects :=
  h.written rfl (fun _ => rfl) id id id

theorem State.Keeps.enterSafeHold {kind id : Nat} (h : s₀.Keeps s) : s₀.Keeps (s.enterSafeHold kind id) := by
  unfold State.enterSafeHold
  exact .postT (.upd (.dropObjects (.finishOps (.endAllQueued (.foldl (fun _ _ h1 => .updCtx h1) (.requeuePics h))))))

theorem State.Keeps.trySafeHold (h : s₀.Keeps s) : s₀.Keeps s.trySafeHold := by
  unfold State.trySafeHold
  split
  · exact .ite h (.enterSafeHold h)
  · exact h

theorem State.Keeps.wantSafeHold {kind id : Nat} (h : s₀.Keeps s) : s₀.Keeps (s.wantSafeHold kind id) := by
  unfold State.wantSafeHold
  exact .ite h (.trySafeHold (.upd h))

theorem State.Keeps.mapRotate {c slot : Nat} (h : s₀.Keeps s) : s₀.Keeps (s.mapRotate c slot) := by
  unfold State.mapRotate
  dsimp only
  split
  · exact h
  · split
    · exact .updPartCtr (.upd (.updTile id (.updCourse h)))
    · exact .upd (.updTile id (.updCourse h))

theorem State.Keeps.retiredEvent {kind id : Nat} (h : s₀.Keeps s) : s₀.Keeps (s.retiredEvent kind id) := by
  unfold State.retiredEvent
  exact .postT h

theorem State.Keeps.burnTile {c t : Nat} (h : s₀.Keeps s) : s₀.Keeps (s.burnTile c t) := by
  unfold State.burnTile
  exact .retiredEvent (.updCourse (.burn (.ite h (.burn h))))

theorem State.Keeps.mapRepair {c t slot i : Nat} (h : s₀.Keeps s) : s₀.Keeps (s.mapRepair c t slot i) := by
  unfold State.mapRepair
  exact .updCourse (.burnTile h)

theorem State.Keeps.touchSlot {c slot : Nat} (h : s₀.Keeps s) : s₀.Keeps (s.touchSlot c slot) := by
  unfold State.touchSlot
  split
  · exact .touchPart h
  · exact h

theorem State.Keeps.mapAbsent {c t slot : Nat} (h : s₀.Keeps s) : s₀.Keeps (s.mapAbsent c t slot) := by
  unfold State.mapAbsent
  refine .ite ?_ ?_
  · exact .guardRecheckCourse (.loseParts (.updCourse (.burnTile (.touchSlot h))))
  · exact .guardRecheckCourse (.loseParts (.updCourse (.burnTile (.foldl (fun _ _ h1 => .touchSlot h1) h))))

theorem State.Keeps.setThrottle {c t : Nat} (h : s₀.Keeps s) : s₀.Keeps (s.setThrottle c t) := by
  unfold State.setThrottle
  exact .ite (.post (.updCourse h)) (.updCourse h)

theorem State.Keeps.applyReq {c : Nat} {bp : Bool} {r : CtlReq} {t : State} (h : s₀.Keeps s) (e : s.applyReq c bp r = some t) : s₀.Keeps t := by
  cases r with
  | repair tl =>
    unfold State.applyReq at e
    dsimp only at e
    split at e
    · cases e
      exact .ite h (.burnTile h)
    · split at e
      · cases e
      · split at e
        · cases e
          exact .mapRepair h
        · cases e
          exact .mapAbsent h
  | throttle tl =>
    unfold State.applyReq at e
    dsimp only at e
    split at e
    · cases e
      exact .setThrottle h
    · cases e
  | rotate slot thermal =>
    unfold State.applyReq at e
    dsimp only at e
    split at e
    · cases e
    · split at e
      · cases e
      · split at e
        · cases e
        · cases e
          exact .mapRotate h
  | test tl _ _ =>
    unfold State.applyReq at e
    dsimp only at e
    split at e
    · cases e
      exact h
    · cases e

theorem State.Keeps.applyDue {c : Nat} {bp : Bool} (h : s₀.Keeps s) : s₀.Keeps (s.applyDue c bp) := by
  unfold State.applyDue
  refine .ite ?_ ?_
  · exact h
  · refine .foldl (fun s1 x h1 => ?_) h
    split
    · exact .updCourse (.applyReq h1 ‹_›)
    · exact h1

theorem State.Keeps.postReq {c : Nat} {r : CtlReq} (h : s₀.Keeps s) : s₀.Keeps (s.postReq c r) := by
  unfold State.postReq
  exact .applyDue (.updCourse h)

theorem foldl_memWrite_wf {l : List Host.Cell} {m : Memory} (hm : Memory.wf m = true) :
    Memory.wf (l.foldl (fun m c => memWrite m c.1 c.2) m) = true := by
  induction l generalizing m with
  | nil => exact hm
  | cons c l ih => exact ih (memWrite_wf _ _ hm)

theorem State.Keeps.migrateFrame {f : Nat} (h : s₀.Keeps s) : s₀.Keeps (s.migrateFrame f) := by
  unfold State.migrateFrame
  dsimp only
  split
  · exact .updMem h
  · split
    · exact .updMem h
    · exact h.written rfl (fun hw => foldl_memWrite_wf (memClear_wf _ _ (memClear_wf _ _ hw))) id id id

theorem State.Keeps.retireUnit {kind id : Nat} (h : s₀.Keeps s) : s₀.Keeps (s.retireUnit kind id) := by
  unfold State.retireUnit
  exact .updUnit h

theorem State.Keeps.rowRepair {kind key set fuse ukind uid w : Nat} (h : s₀.Keeps s) : s₀.Keeps (s.rowRepair kind key set fuse ukind uid w) := by
  unfold State.rowRepair
  exact .burn (.updUnit h)

theorem State.Keeps.losePair {p : Nat} (h : s₀.Keeps s) : s₀.Keeps (s.losePair p) := by
  unfold State.losePair
  exact .loseParts h

theorem State.Keeps.gateCourse {c : Nat} (h : s₀.Keeps s) : s₀.Keeps (s.gateCourse c) := by
  unfold State.gateCourse
  exact .updCourse h

theorem State.Keeps.pierReset {p cause : Nat} (h : s₀.Keeps s) : s₀.Keeps (s.pierReset p cause) := by
  unfold State.pierReset
  exact .postT (.upd (.foldl (fun _ _ h1 => .ite h1 (.gateCourse h1)) (.updPier (.handover h))))

theorem State.Keeps.lasting {kind id slice : Nat} (h : s₀.Keeps s) : s₀.Keeps (s.lasting kind id slice) := by
  unfold State.lasting
  dsimp only
  split
  · exact .ite (.rowRepair (.free (.upd h))) (.postReq (.upd h))
  · refine .ite ?_ ?_
    · exact .rowRepair (.free (.upd h))
    · exact .ite (.guardRecheckCourse (.loseParts (.updCourse (.retiredEvent (.retireUnit (.upd h)))))) (.wantSafeHold (.retireUnit (.upd h)))
  · exact .ite (.rowRepair (.free (.upd h))) (.logWrite (.migrateFrame (.free (.upd h))))
  · exact .ite (.pierReset (.postT (.updPier (.retireUnit (.upd h))))) (.postT (.updPier (.retireUnit (.upd h))))
  · exact .guardRecheckAll (.updCore (.burn (.retiredEvent (.retireUnit (.upd h)))))
  · refine .ite ?_ ?_
    · refine .ite ?_ ?_
      · exact .losePair (.updPier (.updPier (.burn (.retiredEvent (.retireUnit (.upd h))))))
      · exact .updPier (.updPier (.burn (.retiredEvent (.retireUnit (.upd h)))))
    · refine .ite ?_ ?_
      · exact .ite (.losePair (.updPier (.burn (.retiredEvent (.retireUnit (.upd h)))))) (.updPier (.burn (.retiredEvent (.retireUnit (.upd h)))))
      · refine .ite ?_ ?_
        · exact .ite (.wantSafeHold (.upd (.burn (.retiredEvent (.retireUnit (.upd h)))))) (.upd (.burn (.retiredEvent (.retireUnit (.upd h)))))
        · exact .ite (.updChan (.retiredEvent (.retireUnit (.upd h)))) (.updMem (.retiredEvent (.retireUnit (.upd h))))
  · exact .wantSafeHold (.upd h)
  · exact .retireUnit (.upd h)

theorem State.Keeps.wantTest {kind id slice : Nat} {req : Option Nat} (h : s₀.Keeps s) : s₀.Keeps (s.wantTest kind id slice req) := by
  unfold State.wantTest
  refine .ite ?_ ?_
  · exact .updUnit (.lasting h)
  · refine .ite ?_ ?_
    · dsimp only
      split
      · exact .ite (.postReq (.postReq (.updUnit h))) (.updUnit h)
      · exact .updUnit h
    · exact .updUnit h

theorem State.Keeps.errorEvent {kind id mech part seq : Nat} {tested : Bool} {p : Nat} (h : s₀.Keeps s) :
    s₀.Keeps (s.errorEvent kind id mech part seq tested p) := by
  unfold State.errorEvent
  exact .postT (.upd h)

theorem State.Keeps.ashlarError {p : Nat} {r : Part} {l mech part slice : Nat} (h : s₀.Keeps s) : s₀.Keeps (s.ashlarError p r l mech part slice) := by
  unfold State.ashlarError
  split
  · exact h
  · exact .wantTest (.errorEvent (.touchPart h))

end Sys2Proof.Machine
end

section
/-! SUPPORT. `Keeps` of the ledgers (Machine/Ledger.lean). -/

namespace Sys2Proof.Machine

variable {s₀ s : State}

theorem State.Keeps.burnNow {f : Fuse} (h : s₀.Keeps s) : s₀.Keeps (s.burnNow f) := by
  unfold State.burnNow
  exact .ite (.upd h) h

theorem State.Keeps.burnCmd {kind reason ukind uid value : Nat} (h : s₀.Keeps s) : s₀.Keeps (s.burnCmd kind reason ukind uid value) := by
  unfold State.burnCmd
  exact .burnNow h

theorem execFuseBurnDone_answers (h : s₀.Keeps s) : s₀.Answers (execFuseBurnDone s) := by
  unfold execFuseBurnDone
  refine .next ?_
  dsimp only
  split
  · exact h
  · refine .ite ?_ ?_
    · split
      · exact .postT (.ite (.post (.upd (.burnNow (.upd h)))) (.burnNow (.upd h)))
      · exact .ite (.post (.upd (.burnNow (.upd h)))) (.burnNow (.upd h))
    · exact h

theorem State.Keeps.fuseInfo {x1 : Req} (h : s₀.Keeps s) : s₀.Keeps (s.fuseInfo x1).1 := by
  unfold State.fuseInfo
  exact h

theorem execFuseInfo_answers {m : Mb} (h : s₀.Keeps s) : s₀.Answers (execFuseInfo m s) := by
  unfold execFuseInfo
  exact .next (.mbRun (fun _ _ h1 => .fuseInfo h1) h)

theorem State.Keeps.fuseRead {q : Req} (h : s₀.Keeps s) : s₀.Keeps (s.fuseRead q).1 := by
  unfold State.fuseRead
  dsimp only
  split
  · exact h
  · exact h

theorem execFuseRead_answers {m : Mb} (h : s₀.Keeps s) : s₀.Answers (execFuseRead m s) := by
  unfold execFuseRead
  exact .next (.mbRun (fun _ _ h1 => .fuseRead h1) h)

end Sys2Proof.Machine
end

section
/-! SUPPORT. `Keeps` of the address space (Machine/Space.lean). -/

namespace Sys2Proof.Machine

variable {s₀ s : State}

theorem State.Keeps.writeLoc {b : Byte} {x : Loc} (h : s₀.Keeps s) : s₀.Keeps (s.writeLoc b x) := by
  cases x with
  | sram t o => exact .updTile (fun hw => sramWrite_wf o b hw) h
  | cbuf c o => exact .updCbuf (fun hw => sramWrite_wf o b hw) h
  | hbm t o => exact .hbmWrite h

theorem State.Keeps.writeAt {p : Part} {l a : Nat} {b : Byte} (h : s₀.Keeps s) : s₀.Keeps (s.writeAt p l a b) := by
  unfold State.writeAt
  split
  · exact .writeLoc h
  · exact h

theorem State.Keeps.writeRange {p : Part} {l a : Nat} {bs : List Byte} (h : s₀.Keeps s) : s₀.Keeps (s.writeRange p l a bs) := by
  induction bs generalizing s a with
  | nil => exact h
  | cons b t ih => exact ih (.writeAt h)

theorem State.Keeps.issue {a : Ash} {k : Nat} {body : Part → Chisel → State} (hb : ∀ p c, s₀.Keeps (body p c)) (h : s₀.Keeps s) :
    s₀.Keeps (s.issue a k body) := by
  unfold State.issue
  split
  · split
    · split
      · exact .ite (hb _ _) (.ite (.planError h) h)
      · exact h
    · exact h
  · exact h

theorem State.Keeps.retire {a : Ash} {f : Chisel → Chisel} (h : s₀.Keeps s) : s₀.Keeps (s.retire a f) := by
  unfold State.retire
  exact .updChisel h

theorem State.Keeps.perr {a : Ash} {c : Chisel} {code : Nat} (h : s₀.Keeps s) : s₀.Keeps (s.perr a c code) := by
  unfold State.perr
  exact .planError h

end Sys2Proof.Machine
end

section
/-! SUPPORT. `Keeps` of the Chisels (Machine/Chisel.lean). -/

namespace Sys2Proof.Machine

variable {s₀ s : State}

theorem execScalar_answers {a : Ash} {op : ScalarOp} {rd rs rt : Nat} (h : s₀.Keeps s) : s₀.Answers (execScalar a op rd rs rt s) := by
  unfold execScalar
  refine .next ?_
  refine .issue (fun _ _ => ?_) h
  split
  · exact .ite (.retire h) (.perr h)
  · exact .perr h

theorem execBranch_answers {a : Ash} {op : BranchOp} {target : Nat} (h : s₀.Keeps s) : s₀.Answers (execBranch a op target s) := by
  unfold execBranch
  refine .next ?_
  refine .issue (fun _ _ => ?_) h
  split
  · exact .perr h
  · exact .ite (.perr h) (.ite (.perr h) (.updChisel h))

theorem execAddr_answers {a : Ash} {op : AddrOp} (h : s₀.Keeps s) : s₀.Answers (execAddr a op s) := by
  unfold execAddr
  refine .next ?_
  refine .issue (fun _ _ => ?_) h
  split
  · exact .retire h
  · exact .perr h

theorem State.Keeps.addSem {p l k n off : Nat} (h : s₀.Keeps s) : s₀.Keeps (s.addSem p l k n off) := by
  unfold State.addSem
  split
  · exact h
  · exact .ite (.planError h) (.ite (.planError h) (.updPart h))

theorem execSig_answers {a : Ash} {k n : Nat} (h : s₀.Keeps s) : s₀.Answers (execSig a k n s) := by
  unfold execSig
  exact .next (.issue (fun _ _ => .ite (.perr h) (.ite (.perr h) (.ite (.ite (.addSem (.retire h)) (.updChisel (.retire h))) (.ite (.updChisel (.upd (.retire h))) (.addSem (.upd (.retire h))))))) h)

theorem State.Keeps.landLoose {a : Ash} {k : Option Nat} (h : s₀.Keeps s) : s₀.Keeps (s.landLoose a k) := by
  unfold State.landLoose
  dsimp only
  split
  · exact h
  · exact .foldl (fun _ _ h1 => .addSem h1) (.updChisel h)

theorem State.Keeps.landAll {pid k : Nat} (h : s₀.Keeps s) : s₀.Keeps (s.landAll pid k) := by
  unfold State.landAll
  split
  · exact h
  · exact .foldl (fun _ _ h1 => .landLoose h1) h

theorem execWait_answers {a : Ash} {k n : Nat} (h : s₀.Keeps s) : s₀.Answers (execWait a k n s) := by
  unfold execWait
  exact .next (.issue (fun _ _ => .ite (.perr h) (.ite (.updPart (.retire h)) (.updPart (.updChisel h)))) h)

theorem execWaitGrant_answers {part k : Nat} (h : s₀.Keeps s) : s₀.Answers (execWaitGrant part k s) := by
  unfold execWaitGrant
  refine .next ?_
  dsimp only
  split
  · exact h
  · refine .ite ?_ ?_
    · split
      · exact .landAll h
      · split
        · exact .landAll h
        · exact .ite (.retire (.updPart (.landAll h))) (.landAll h)
    · exact h

theorem execSemrd_answers {a : Ash} {rd k : Nat} (h : s₀.Keeps s) : s₀.Answers (execSemrd a rd k s) := by
  unfold execSemrd
  exact .next (.issue (fun _ _ => .ite (.perr h) (.ite (.perr h) (.retire h))) h)

theorem State.Keeps.handoffQuoin {a : Ash} {p : Part} {c : Chisel} {reg count rec' image : Nat} (h : s₀.Keeps s) :
    s₀.Keeps (s.handoffQuoin a p c reg count rec' image) := by
  unfold State.handoffQuoin
  dsimp only
  split
  · exact h
  · exact .ite (.perr h) (.ite (.perr h) (.ite h (.updPier (.retire h))))

theorem State.Keeps.handoffRiddle {a : Ash} {p : Part} {c : Chisel} {n : Nat} {draft : Bool} {j reg : Nat} (h : s₀.Keeps s) :
    s₀.Keeps (s.handoffRiddle a p c n draft j reg) := by
  unfold State.handoffRiddle
  dsimp only
  split
  · exact .ite (.perr h) (.ite (.perr h) (.updPart (.retire h)))
  · exact .perr h

theorem execEmit_answers {a : Ash} {item : Nat} {bytes : List Byte} (h : s₀.Keeps s) : s₀.Answers (execEmit a item bytes s) := by
  unfold execEmit
  exact .next (.issue (fun _ _ => .ite (.perr h) (.updPart (.retire h))) h)

end Sys2Proof.Machine
end

section
/-! SUPPORT. `Keeps` of the tile DMA (Machine/TileDma.lean). -/

namespace Sys2Proof.Machine

variable {s₀ s : State}

theorem execDma_answers {a : Ash} {q : Nat} {d : TileDesc} (h : s₀.Keeps s) : s₀.Answers (execDma a q d s) := by
  unfold execDma
  exact .next (.issue (fun _ _ => .ite (.perr h) (.ite h (.retire h))) h)

theorem execTileDmaShadowLoad_answers {a : Ash} {q : Nat} (h : s₀.Keeps s) : s₀.Answers (execTileDmaShadowLoad a q s) := by
  unfold execTileDmaShadowLoad
  refine .next ?_
  dsimp only
  split
  · exact h
  · refine .ite ?_ ?_
    · exact h
    · split
      · exact .ite (.planError (.updChisel h)) (.ite (.planError (.updChisel h)) (.updChisel h))
      · exact .updChisel h

theorem State.Keeps.moveRows {p : Part} {l : Nat} {d : TileDesc} {r n : Nat} (h : s₀.Keeps s) : s₀.Keeps (s.moveRows p l d r n) := by
  induction n generalizing s r with
  | zero => exact h
  | succ n ih => exact ih (.writeRange h)

theorem State.Keeps.landSigs {a : Ash} {off : Nat} {l : List HeldSig} (h : s₀.Keeps s) : s₀.Keeps (s.landSigs a off l) := by
  induction l generalizing s with
  | nil => exact h
  | cons x t ih => exact ih (.addSem h)

theorem State.Keeps.releaseHeld {a : Ash} {tag : Nat} (h : s₀.Keeps s) : s₀.Keeps (s.releaseHeld a tag) := by
  unfold State.releaseHeld
  dsimp only
  split
  · exact h
  · exact .landSigs (.updChisel h)

end Sys2Proof.Machine
end

section
/-! SUPPORT. `Keeps` of the Beds (Machine/Bed.lean). -/

namespace Sys2Proof.Machine

variable {s₀ s : State}

/-- A computation that answers with a value went through its first part. -/
theorem ok_of_bind {ε α β : Type} {x : Except ε α} {g : α → Except ε β} {b : β} (e : (x >>= g) = .ok b) : ∃ a, x = .ok a ∧ g a = .ok b := by
  cases x with
  | error _ => cases e
  | ok a => exact ⟨a, rfl, e⟩

/-- Every value that a computation answers has a property. -/
def Yields {ε α : Type} (P : α → Prop) (x : Except ε α) : Prop := ∀ a, x = .ok a → P a

theorem Yields.ok {ε α : Type} {P : α → Prop} {a : α} (h : P a) : Yields P (.ok a : Except ε α) := fun _ e => by
  cases e
  exact h

theorem Yields.error {ε α : Type} {P : α → Prop} {x : ε} : Yields P (.error x : Except ε α) := fun _ e => by
  cases e

theorem Yields.bind {ε α β : Type} {P : β → Prop} {x : Except ε α} {g : α → Except ε β} (h : ∀ a, x = .ok a → Yields P (g a)) :
    Yields P (x >>= g) := by
  intro b e
  obtain ⟨a, ha, hb⟩ := ok_of_bind e
  exact h a ha b hb

theorem State.Keeps.unitWrite {p : Part} {slot a : Nat} {bs : List Byte} {t : State} (h : s₀.Keeps s) (e : s.unitWrite p slot a bs = .ok t) :
    s₀.Keeps t := by
  unfold State.unitWrite at e
  split at e
  · cases e
    exact .writeRange h
  · cases e

theorem State.Keeps.writeRun {p : Part} {slot dst sc : Nat} {r : List Byte × List Byte × NumEv} {t : State} (h : s₀.Keeps s)
    (e : s.writeRun p slot dst sc r = .ok t) : s₀.Keeps t := by
  obtain ⟨u, hu, ht⟩ := ok_of_bind e
  exact .unitWrite (.unitWrite h hu) ht

theorem State.bedOp_keeps {p : Part} {slot : Nat} {c : Chisel} {op : BedOp} (h : s₀.Keeps s) :
    Yields (fun x => s₀.Keeps x.1) (s.bedOp p slot c op) := by
  cases op with
  | load => exact .bind fun _ _ => .bind fun _ _ => .ok h
  | start => exact .bind fun _ _ => .bind fun _ _ => .bind fun _ _ => .ok h
  | combine => exact .bind fun _ _ => .bind fun _ _ => .bind fun _ _ => .ok h
  | stream =>
    refine .bind fun _ _ => ?_
    split
    · exact .error
    · exact .bind fun _ _ => .ok h
  | tree =>
    refine .bind fun _ _ => .bind fun _ _ => ?_
    dsimp only
    split
    · exact .bind fun _ _ => .bind fun _ _ => .ok h
    · exact .bind fun _ _ => .bind fun _ _ => .ok h
  | readout =>
    refine .bind fun _ _ => ?_
    dsimp only
    split
    · exact .bind fun _ hu => .ok (.unitWrite h hu)
    · exact .bind fun _ hu => .ok (.writeRun h hu)
  | requant => exact .bind fun _ _ => .bind fun _ hu => .ok (.unitWrite h hu)
  | illegal => exact .error

end Sys2Proof.Machine
end

section
/-! SUPPORT. `Keeps` of the Dressing (Machine/Dress.lean). -/

namespace Sys2Proof.Machine

variable {s₀ s : State}

theorem State.Keeps.putVals {p : Part} {slot : Nat} {c : Chisel} {ctrl dst sc : Nat} {vs : List Val} {x : State × (PartCounters → PartCounters)} (h : s₀.Keeps s)
    (e : s.putVals p slot c ctrl dst sc vs = .ok x) : s₀.Keeps x.1 := by
  obtain ⟨_, _, e⟩ := ok_of_bind e
  obtain ⟨u, hu, e⟩ := ok_of_bind e
  cases e
  exact .writeRun h hu

theorem State.poolOp_keeps {p : Part} {slot : Nat} {c : Chisel} {port ot oy ox ch n dst sc : Nat} (h : s₀.Keeps s) :
    Yields (fun x => s₀.Keeps x.1) (s.poolOp p slot c port ot oy ox ch n dst sc) := by
  refine .bind fun _ _ => .bind fun _ _ => .bind fun _ _ => ?_
  split
  · split
    · exact .bind fun _ _ _ => .putVals h
    · exact .error
  · exact .error

theorem State.dressOp_keeps {p : Part} {slot : Nat} {c : Chisel} {op : DressOp} (h : s₀.Keeps s) :
    Yields (fun x => s₀.Keeps x.1) (s.dressOp p slot c op) := by
  cases op with
  | elem =>
    refine .bind fun _ _ => ?_
    dsimp only
    split
    · refine .bind fun _ _ => ?_
      split
      · exact .bind fun _ _ _ => .putVals h
      · exact .bind fun _ _ _ => .putVals h
    · refine .bind fun _ _ => ?_
      split
      · exact .bind fun _ _ _ => .putVals h
      · exact .bind fun _ _ _ => .putVals h
  | softmax => exact .bind fun _ _ => .bind fun _ _ _ => .putVals h
  | layerNorm => exact .bind fun _ _ => .bind fun _ _ _ => .putVals h
  | rmsNorm => exact .bind fun _ _ => .bind fun _ _ _ => .putVals h
  | rowSum => exact .bind fun _ _ => .bind fun _ _ => .bind fun _ hu => .ok (.unitWrite h hu)
  | pool => exact State.poolOp_keeps h
  | widen =>
    refine .bind fun _ _ => .bind fun _ _ => ?_
    dsimp only
    split
    · exact .bind fun _ _ => .bind fun _ hu => .ok (.unitWrite h hu)
    · exact .bind fun _ _ => .bind fun _ hu => .ok (.unitWrite h hu)
  | illegal => exact .error

end Sys2Proof.Machine
end

section
/-! SUPPORT. `Keeps` of the units (Machine/Units.lean). -/

namespace Sys2Proof.Machine

variable {s₀ s : State}

theorem State.Keeps.tileErr {pid : Nat} {p : Part} {l res : Nat} {x5 : HwErr} (h : s₀.Keeps s) : s₀.Keeps (s.tileErr pid p l res x5) := by
  unfold State.tileErr
  dsimp only
  split
  · exact .ashlarError h
  · split
    · exact .ite (.ashlarError h) h
    · exact h
  · exact .ite (.wantTest (.errorEvent (.touchPart h))) h
  · exact .wantTest (.errorEvent (.touchPart h))
  · exact .ashlarError h
  · exact .wantTest (.errorEvent (.ite h (.touchPart h)))
  · exact .wantTest (.errorEvent (.ite h (.touchPart h)))

theorem State.Keeps.runOp {pid l : Nat} {p : Part} {c : Chisel} {j : UnitJob} (h : s₀.Keeps s) : s₀.Keeps (s.runOp pid l p c j) := by
  unfold State.runOp
  split
  · split
    · exact .planError h
    · exact .updPartCtr (.updChisel (State.bedOp_keeps h _ ‹_›))
  · split
    · exact .planError h
    · exact .updPartCtr (State.dressOp_keeps h _ ‹_›)
  · exact .updChisel h

theorem State.Keeps.runJob {pid l : Nat} {p : Part} {c : Chisel} {j : UnitJob} (h : s₀.Keeps s) : s₀.Keeps (s.runJob pid l p c j) := by
  unfold State.runJob
  dsimp only
  split
  · exact .tileErr (.runOp (.updChisel h))
  · exact .runOp (.updChisel h)

theorem State.Keeps.unitStep {a : Ash} {u : Nat} {t : State} (h : s₀.Keeps s) (e : s.unitStep a u = some t) : s₀.Keeps t := by
  unfold State.unitStep at e
  split at e
  · cases e
  · split at e
    · cases e
    · split at e
      · cases e
        exact .runJob h
      · cases e

theorem State.Keeps.pump {a : Ash} {n : Nat} (h : s₀.Keeps s) : s₀.Keeps (s.pump a n) := by
  induction n generalizing s with
  | zero => exact h
  | succ n ih =>
    unfold State.pump
    dsimp only
    split
    · exact .free h
    · split
      · exact ih (.unitStep (.free h) ‹_›)
      · exact ih (.free h)

theorem State.Keeps.drainQ {a : Ash} {n : Nat} (h : s₀.Keeps s) : s₀.Keeps (s.drainQ a n) := by
  induction n generalizing s with
  | zero => exact h
  | succ n ih =>
    have h1 : s₀.Keeps s.free.2 := .free h
    unfold State.drainQ
    dsimp only
    split
    · next e =>
      rcases (Option.orElse_eq_some _ _ _).1 e with e | ⟨_, e⟩
      · rcases (Option.orElse_eq_some _ _ _).1 e with e | ⟨_, e⟩
        · exact ih (.unitStep h1 e)
        · exact ih (.unitStep h1 e)
      · exact ih (.unitStep h1 e)
    · exact h1

theorem State.Keeps.pumpAsh {a : Ash} (h : s₀.Keeps s) : s₀.Keeps (s.pumpAsh a) := by
  unfold State.pumpAsh
  exact .pump h

theorem State.Keeps.drainUnits {a : Ash} (h : s₀.Keeps s) : s₀.Keeps (s.drainUnits a) := by
  unfold State.drainUnits
  exact .drainQ h

theorem State.Keeps.pumpPart {pid : Nat} (h : s₀.Keeps s) : s₀.Keeps (s.pumpPart pid) := by
  unfold State.pumpPart
  split
  · exact h
  · exact .foldl (fun _ _ h1 => .pumpAsh h1) h

theorem State.Keeps.dispatch {a : Ash} {k : Nat} {op : UnitOp} (h : s₀.Keeps s) : s₀.Keeps (s.dispatch a k op) := by
  refine .issue (fun _ c => ?_) h
  have hr : s₀.Keeps (if 16 ≤ (c.queueOf op.unit).length then (s.unitStep a op.unit).getD s else s) := by
    refine .ite ?_ h
    cases e : s.unitStep a op.unit with
    | none => exact h
    | some t => exact .unitStep h e
  dsimp only
  split
  · exact hr
  · exact .ite hr (.retire hr)

theorem execTemplate_answers {a : Ash} {port : Nat} {set : TemplateSet} (h : s₀.Keeps s) : s₀.Answers (execTemplate a port set s) := by
  unfold execTemplate
  refine .next ?_
  split
  · exact .ite (.dispatch h) (.issue (fun _ _ => .perr h) h)
  · exact h

theorem execBed_answers {a : Ash} {op : BedOp} {err : Option HwErr} (h : s₀.Keeps s) : s₀.Answers (execBed a op err s) := by
  unfold execBed
  exact .next (.dispatch h)

theorem execDress_answers {a : Ash} {op : DressOp} {err : Option HwErr} (h : s₀.Keeps s) : s₀.Answers (execDress a op err s) := by
  unfold execDress
  exact .next (.dispatch h)

theorem State.Keeps.fence {a : Ash} {f : Nat} (h : s₀.Keeps s) : s₀.Keeps (s.fence a f) := by
  unfold State.fence
  exact .issue (fun _ _ => .ite (.retire h) (.updChisel h)) h

theorem execFenceL_answers {a : Ash} (h : s₀.Keeps s) : s₀.Answers (execFenceL a s) := by
  unfold execFenceL
  exact .next (.fence h)

theorem execFenceC_answers {a : Ash} (h : s₀.Keeps s) : s₀.Answers (execFenceC a s) := by
  unfold execFenceC
  exact .next (.fence h)

theorem execFenceP_answers {a : Ash} (h : s₀.Keeps s) : s₀.Answers (execFenceP a s) := by
  unfold execFenceP
  exact .next (.fence h)

theorem execFenceH_answers {a : Ash} (h : s₀.Keeps s) : s₀.Answers (execFenceH a s) := by
  unfold execFenceH
  exact .next (.fence h)

theorem execFenceRelease_answers {a : Ash} (h : s₀.Keeps s) : s₀.Answers (execFenceRelease a s) := by
  unfold execFenceRelease
  refine .next ?_
  dsimp only
  split
  · exact h
  · split
    · split
      · exact .landLoose (.drainUnits h)
      · exact .ite (.retire (.landLoose (.drainUnits h))) (.landLoose (.drainUnits h))
    · exact h

theorem execHandoff_answers {a : Ash} {op : HandoffOp} (h : s₀.Keeps s) : s₀.Answers (execHandoff a op s) := by
  unfold execHandoff
  refine .next ?_
  refine .issue (fun _ _ => ?_) (.pumpAsh h)
  split
  · exact .handoffQuoin (.pumpAsh h)
  · exact .handoffRiddle (.pumpAsh h)
  · exact .perr (.pumpAsh h)

theorem execBndry_answers {a : Ash} (h : s₀.Keeps s) : s₀.Answers (execBndry a s) := by
  unfold execBndry
  refine .next ?_
  dsimp only
  split
  · exact h
  · refine .ite ?_ ?_
    · exact .perr h
    · exact .ite (.issue (fun _ _ => .ite (.retire (.landLoose (.drainUnits h))) (.landLoose (.drainUnits h))) (.landLoose (.drainUnits h))) h

theorem State.Keeps.endingSet {p : Part} {x : DmaQueue} (h : s₀.Keeps s) : s₀.Keeps (s.endingSet p x).1 := by
  unfold State.endingSet
  split
  · split
    · exact h
    · exact .upd h
  · exact h
  · exact h
  · exact h

theorem State.Keeps.unitsBefore {a : Ash} {t : Nat} {d : TileDesc} (h : s₀.Keeps s) : s₀.Keeps (s.unitsBefore a t d) := by
  unfold State.unitsBefore
  split
  · exact .ite h (.drainUnits h)
  · exact h

theorem State.Keeps.descEnd {a : Ash} {q : Nat} {p : Part} {former : Bool} {t : Nat} {d : TileDesc} {err : Option HwErr} (h : s₀.Keeps s) :
    s₀.Keeps (s.descEnd a q p former t d err) := by
  unfold State.descEnd
  refine .releaseHeld ?_
  refine .ite ?_ ?_
  · refine .addSem ?_
    refine .updChisel ?_
    split
    · exact .tileErr (.ite (.moveRows (.upd (.touchStacks h))) (.moveRows (.touchStacks h)))
    · exact .ite (.moveRows (.upd (.touchStacks h))) (.moveRows (.touchStacks h))
  · refine .updChisel ?_
    split
    · exact .tileErr (.ite (.moveRows (.upd (.touchStacks h))) (.moveRows (.touchStacks h)))
    · exact .ite (.moveRows (.upd (.touchStacks h))) (.moveRows (.touchStacks h))

theorem execTileDmaDescriptorDone_answers {a : Ash} {q : Nat} {err : Option HwErr} (h : s₀.Keeps s) :
    s₀.Answers (execTileDmaDescriptorDone a q err s) := by
  unfold execTileDmaDescriptorDone
  refine .next ?_
  dsimp only
  split
  · exact h
  · refine .ite ?_ ?_
    · exact h
    · split
      · exact h
      · refine .ite ?_ ?_
        · exact h
        · split
          · exact .unitsBefore (.pumpPart (.endingSet h))
          · exact .ite (.descEnd (.unitsBefore (.pumpPart (.endingSet h)))) (.unitsBefore (.pumpPart (.endingSet h)))

end Sys2Proof.Machine
end

section
/-! SUPPORT. `Keeps` of Quoin (Machine/Quoin.lean). -/

namespace Sys2Proof.Machine

variable {s₀ s : State}

theorem State.Keeps.quoinResult {j : QuoinJob} {item : Option Item} {o : ImageOut} (h : s₀.Keeps s) : s₀.Keeps (s.quoinResult j item o) := by
  unfold State.quoinResult
  dsimp only
  split
  · exact .ite (.updPart (.updPart h)) (.hbmWriteN (.updPart h))
  · exact .updPart h

theorem State.Keeps.quoinErr {pier : Nat} {j : QuoinJob} {p : Part} {x4 : HwErr} (h : s₀.Keeps s) : s₀.Keeps (s.quoinErr pier j p x4) := by
  unfold State.quoinErr
  split
  · exact .wantTest (.errorEvent (.touchPart h))
  · exact .tileErr h

theorem execQuoinJob_answers {pier : Nat} {err : Option HwErr} (h : s₀.Keeps s) : s₀.Answers (execQuoinJob pier err s) := by
  unfold execQuoinJob
  refine .next ?_
  dsimp only
  split
  · exact h
  · refine .ite ?_ ?_
    · exact h
    · split
      · exact .pumpPart h
      · refine .ite ?_ ?_
        · exact .pumpPart h
        · split
          · refine .quoinErr ?_
            refine .updChisel ?_
            split
            · exact .quoinResult (.updPier (.pumpPart h))
            · exact .updPier (.pumpPart h)
          · refine .updChisel ?_
            split
            · exact .quoinResult (.updPier (.pumpPart h))
            · exact .updPier (.pumpPart h)

end Sys2Proof.Machine
end

section
/-! SUPPORT. `Keeps` of the host interface (Machine/Host.lean). -/

namespace Sys2Proof.Machine

variable {s₀ s : State}

theorem State.Keeps.unmask {f : Fn} {i : Nat} (h : s₀.Keeps s) : s₀.Keeps (s.unmask f i) := by
  unfold State.unmask
  exact .ite (.sendMsg (.setVector h)) (.setVector h)

theorem execMsixUnmask_answers {f : Fn} {i : Nat} (h : s₀.Keeps s) : s₀.Answers (execMsixUnmask f i s) := by
  unfold execMsixUnmask
  exact .next (.ite (.unmask h) h)

theorem execSriovVfEnable_answers (h : s₀.Keeps s) : s₀.Answers (execSriovVfEnable s) := by
  unfold execSriovVfEnable
  exact .next (.ite (.upd h) h)

theorem execPciPmStateWrite_answers {f : Fn} {d3 : Bool} (h : s₀.Keeps s) : s₀.Answers (execPciPmStateWrite f d3 s) := by
  unfold execPciPmStateWrite
  exact .next (.ite (.upd h) h)

theorem State.Keeps.ringOff {v i : Nat} (h : s₀.Keeps s) : s₀.Keeps (s.ringOff v i) := by
  unfold State.ringOff
  exact .updRing (.updVf h)

theorem State.Keeps.ringCfg {v i w : Nat} (h : s₀.Keeps s) : s₀.Keeps (s.ringCfg v i w) := by
  unfold State.ringCfg
  exact .ite (.updRing (.updRing h)) (.ite (.ringOff (.updRing h)) (.updRing h))

theorem execRingEnable_answers {v i : Nat} {cfg : W32} (h : s₀.Keeps s) : s₀.Answers (execRingEnable v i cfg s) := by
  unfold execRingEnable
  exact .next (.ite (.ringCfg h) h)

theorem execRingRegistrationCheck_answers {v i : Nat} (h : s₀.Keeps s) : s₀.Answers (execRingRegistrationCheck v i s) := by
  unfold execRingRegistrationCheck
  exact .next (.ite (.ite (.updRing h) (.updRing h)) h)

theorem execRingDisable_answers {v i : Nat} {cfg : W32} (h : s₀.Keeps s) : s₀.Answers (execRingDisable v i cfg s) := by
  unfold execRingDisable
  exact .next (.ite (.ringCfg h) h)

theorem execRingHeadWrite_answers {v i : Nat} {w : W32} (h : s₀.Keeps s) : s₀.Answers (execRingHeadWrite v i w s) := by
  unfold execRingHeadWrite
  exact .next (.ite (.updRing h) h)

theorem State.Keeps.drainBacklog {v : Nat} {l kept : List (Nat × Rec)} (h : s₀.Keeps s) : s₀.Keeps (s.drainBacklog v l kept) := by
  induction l generalizing s kept with
  | nil => exact .updVf h
  | cons x t ih => exact .ite (ih (.ringWrite h)) (ih h)

theorem execRingBacklogDrain_answers {v : Nat} (h : s₀.Keeps s) : s₀.Answers (execRingBacklogDrain v s) := by
  unfold execRingBacklogDrain
  exact .next (.ite (.drainBacklog h) h)

theorem execRingModTimer_answers {v i : Nat} (h : s₀.Keeps s) : s₀.Answers (execRingModTimer v i s) := by
  unfold execRingModTimer
  exact .next (.ite (.raiseVec (.updRing h)) h)

theorem execRingDropRead_answers {v i : Nat} (h : s₀.Keeps s) : s₀.Answers (execRingDropRead v i s) := by
  unfold execRingDropRead
  exact .next (.ite (.upd (.updRing h)) h)

theorem execEqConsWrite_answers {w : W32} (h : s₀.Keeps s) : s₀.Answers (execEqConsWrite w s) := by
  unfold execEqConsWrite
  exact .next (.ite (.eqSpace (.upd h)) h)

theorem execEqLostRead_answers (h : s₀.Keeps s) : s₀.Answers (execEqLostRead s) := by
  unfold execEqLostRead
  exact .next (.ite (.upd h) h)

theorem State.Keeps.updEntry {f : Fn} {n : Nat} {g : Entry → Entry} (h : s₀.Keeps s) : s₀.Keeps (s.updEntry f n g) := by
  unfold State.updEntry
  dsimp only
  split
  · exact .upd h
  · exact .upd h

theorem State.Keeps.slotWrite {f : Fn} {n off : Nat} {bs : List Byte} (h : s₀.Keeps s) : s₀.Keeps (s.slotWrite f n off bs) := by
  unfold State.slotWrite
  exact .updEntry h

theorem execSubmissionSlotWrite_answers {f : Fn} {n off : Nat} {bs : List Byte} (h : s₀.Keeps s) :
    s₀.Answers (execSubmissionSlotWrite f n off bs s) := by
  unfold execSubmissionSlotWrite
  exact .next (.ite (.slotWrite h) h)

theorem State.Keeps.noteAdmitted {cn : Nat} {c : Ctx} (h : s₀.Keeps s) : s₀.Keeps (s.noteAdmitted cn c) := by
  unfold State.noteAdmitted
  dsimp only
  split
  · exact .updCtx h
  · exact .foldl (fun _ _ h1 => .updCourse h1) (.updPart (.updCtx h))

theorem State.Keeps.decideEntry {f : Fn} {n : Nat} (h : s₀.Keeps s) : s₀.Keeps (s.decideEntry f n).1 := by
  unfold State.decideEntry
  dsimp only
  split
  · exact h
  · exact h
  · exact h
  · exact .ite (.noteAdmitted (.decideTicket (.countTicket h))) (.decideTicket (.countTicket h))

theorem execTicketRead_answers {f : Fn} {n : Nat} (h : s₀.Keeps s) : s₀.Answers (execTicketRead f n s) :=
  .next (.ite (.ite (.upd (.updEntry (.decideEntry h))) (.upd h)) h)

theorem State.Keeps.submit {m : Mb} (h : s₀.Keeps s) : s₀.Keeps (s.submit m) := by
  unfold State.submit
  exact .ite (.respond h) (.ite (.respond h) (.upd (.updMbox h)))

theorem State.Keeps.doorbell {m : Mb} {w : Nat} (h : s₀.Keeps s) : s₀.Keeps (s.doorbell m w) := by
  unfold State.doorbell
  exact .ite h (.ite (.updMbox h) (.submit h))

theorem execMbDoorbell_answers {m : Mb} {w : W32} (h : s₀.Keeps s) : s₀.Answers (execMbDoorbell m w s) := by
  unfold execMbDoorbell
  exact .next (.ite (.doorbell h) h)

theorem State.Keeps.requestWrite {m : Mb} {off : Nat} {bs : List Byte} (h : s₀.Keeps s) : s₀.Keeps (s.requestWrite m off bs) := by
  unfold State.requestWrite
  exact .ite (.updMbox h) (.updMbox h)

theorem execMailboxRequestWrite_answers {m : Mb} {off : Nat} {bs : List Byte} (h : s₀.Keeps s) : s₀.Answers (execMailboxRequestWrite m off bs s) := by
  unfold execMailboxRequestWrite
  exact .next (.ite (.requestWrite h) h)

theorem State.Keeps.vfReset {v : Nat} (h : s₀.Keeps s) : s₀.Keeps (s.vfReset v) := by
  unfold State.vfReset
  exact .post (.updVf (.foldl (fun _ _ h1 => .ringOff h1) (.upd h)))

theorem execVfFlr_answers {v : Nat} (h : s₀.Keeps s) : s₀.Answers (execVfFlr v s) := by
  unfold execVfFlr
  exact .next (.ite (.upd (.vfReset h)) h)

end Sys2Proof.Machine
end

section
/-! SUPPORT. `Keeps` of partitions (Machine/Partition.lean). -/

namespace Sys2Proof.Machine

variable {s₀ s : State}

theorem State.Keeps.wakeCourses {p : Nat} (h : s₀.Keeps s) : s₀.Keeps (s.wakeCourses p) := by
  unfold State.wakeCourses
  split
  · exact h
  · exact .foldl (fun _ _ h1 => .updCourse h1) h

theorem State.Keeps.checkRef {c : Nat} {ref : Int} (h : s₀.Keeps s) : s₀.Keeps (s.checkRef c ref) := by
  unfold State.checkRef
  exact .ite (.post (.updCourse (.updCourse h))) (.updCourse h)

theorem State.Keeps.warmCourses {p : Nat} (h : s₀.Keeps s) : s₀.Keeps (s.warmCourses p) := by
  unfold State.warmCourses
  split
  · exact h
  · exact .ite h (.foldl (fun _ _ h1 => .ite h1 (.updCourse (.checkRef h1))) h)

theorem State.Keeps.gatePier {q : Nat} (h : s₀.Keeps s) : s₀.Keeps (s.gatePier q) := by
  unfold State.gatePier
  exact .ite h (.foldl (fun _ _ h1 => .updCourse h1) (.updPier h))

theorem State.Keeps.removePart {p : Nat} (h : s₀.Keeps s) : s₀.Keeps (s.removePart p) := by
  unfold State.removePart
  dsimp only
  split
  · exact h
  · exact .foldl (fun _ _ h1 => .gatePier h1) (.foldl (fun _ _ h1 => .applyDue h1) (.foldl (fun _ _ h1 => .updCourse h1) (.upd (.clearPart h))))

theorem State.Keeps.addPart {q : Req} {id : Nat} {r : Part} (h : s₀.Keeps s) : s₀.Keeps (s.addPart q id r).1 := by
  unfold State.addPart
  dsimp only
  split
  · exact .warmCourses (.upd h)
  · exact .accept (.foldl (fun _ _ h1 => .updPier h1) (.upd h))

theorem State.Keeps.partCreate {q : Req} (h : s₀.Keeps s) : s₀.Keeps (s.partCreate q).1 := by
  unfold State.partCreate
  split
  · exact h
  · split
    · exact h
    · split
      · split
        · exact h
        · exact .addPart h
      · exact h

theorem execPartCreate_answers {m : Mb} (h : s₀.Keeps s) : s₀.Answers (execPartCreate m s) := by
  unfold execPartCreate
  exact .next (.mbRun (fun _ _ h1 => .partCreate h1) h)

theorem State.Keeps.powerParts (h : s₀.Keeps s) : s₀.Keeps s.powerParts := by
  unfold State.powerParts
  exact .foldl (fun _ _ h1 => .finishOps (.warmCourses (.updPart h1))) h

theorem execPierPowerUpDone_answers {pier : Nat} (h : s₀.Keeps s) : s₀.Answers (execPierPowerUpDone pier s) := by
  unfold execPierPowerUpDone
  exact .next (.ite (.powerParts (.updPier h)) h)

theorem State.Keeps.partDestroy {q : Req} (h : s₀.Keeps s) : s₀.Keeps (s.partDestroy q).1 := by
  unfold State.partDestroy
  split
  · exact h
  · split
    · exact h
    · split
      · exact h
      · split
        · exact .accept (.updPart h)
        · exact .removePart h

theorem execPartDestroy_answers {m : Mb} (h : s₀.Keeps s) : s₀.Answers (execPartDestroy m s) := by
  unfold execPartDestroy
  exact .next (.mbRun (fun _ _ h1 => .partDestroy h1) h)

theorem State.Keeps.partQuery {q : Req} (h : s₀.Keeps s) : s₀.Keeps (s.partQuery q).1 := by
  unfold State.partQuery
  dsimp only
  split
  · exact h
  · exact h

theorem execPartQuery_answers {m : Mb} (h : s₀.Keeps s) : s₀.Answers (execPartQuery m s) := by
  unfold execPartQuery
  exact .next (.mbRun (fun _ _ h1 => .partQuery h1) h)

theorem State.Keeps.partKeepwarm {q : Req} (h : s₀.Keeps s) : s₀.Keeps (s.partKeepwarm q).1 := by
  unfold State.partKeepwarm
  dsimp only
  split
  · exact h
  · split
    · exact h
    · split
      · exact h
      · exact .ite (.foldl (fun _ _ h1 => .updCourse h1) (.updPart h)) (.warmCourses (.updPart h))

theorem execPartKeepwarm_answers {m : Mb} (h : s₀.Keeps s) : s₀.Answers (execPartKeepwarm m s) := by
  unfold execPartKeepwarm
  exact .next (.mbRun (fun _ _ h1 => .partKeepwarm h1) h)

theorem State.Keeps.partCounters {q : Req} (h : s₀.Keeps s) : s₀.Keeps (s.partCounters q).1 := by
  unfold State.partCounters
  split
  · exact h
  · exact h

theorem execPartCounters_answers {m : Mb} (h : s₀.Keeps s) : s₀.Answers (execPartCounters m s) := by
  unfold execPartCounters
  exact .next (.mbRun (fun _ _ h1 => .partCounters h1) h)

theorem execCourseGate_answers {c : Nat} (h : s₀.Keeps s) : s₀.Answers (execCourseGate c s) := by
  unfold execCourseGate
  exact .next (.ite (.updCourse h) h)

theorem execCourseWake_answers {c : Nat} {ref : Int} (h : s₀.Keeps s) : s₀.Answers (execCourseWake c ref s) := by
  unfold execCourseWake
  refine .next ?_
  split
  · exact h
  · exact .ite (.updPartCtr (.updCourse (.checkRef h))) h

theorem execHbmSelfRefreshEntry_answers {pier : Nat} (h : s₀.Keeps s) : s₀.Answers (execHbmSelfRefreshEntry pier s) := by
  unfold execHbmSelfRefreshEntry
  exact .next (.ite (.updPier h) h)

end Sys2Proof.Machine
end

section
/-! SUPPORT. `Keeps` of serving (Machine/Serve.lean). -/

namespace Sys2Proof.Machine

variable {s₀ s : State}

theorem State.Keeps.setPseq {ctx : Nat} {lead : Option Nat} (h : s₀.Keeps s) : s₀.Keeps (s.setPseq ctx lead) := by
  unfold State.setPseq
  split
  · exact .updCtx h
  · exact h

theorem State.Keeps.releaseOne {x : Rel} {last : Bool} (h : s₀.Keeps s) : s₀.Keeps (s.releaseOne x last) := by
  unfold State.releaseOne
  exact .release (.setPseq (.ite (.noteLate h) h))

theorem State.Keeps.releaseGroup {l : List Rel} (h : s₀.Keeps s) : s₀.Keeps (s.releaseGroup l) := by
  induction l generalizing s with
  | nil => exact h
  | cons x t ih =>
    cases t with
    | nil => exact .releaseOne h
    | cons y t => exact ih (.releaseOne h)

theorem State.Keeps.updSession {ctx : Nat} {f : Session → Session} (h : s₀.Keeps s) : s₀.Keeps (s.updSession ctx f) := by
  unfold State.updSession
  exact .updCtx h

theorem execSpecSuspend_answers {ctx : Nat} (h : s₀.Keeps s) : s₀.Answers (execSpecSuspend ctx s) := by
  unfold execSpecSuspend
  exact .next (.ite (.updSession h) h)

theorem execSpecResume_answers {ctx : Nat} (h : s₀.Keeps s) : s₀.Answers (execSpecResume ctx s) := by
  unfold execSpecResume
  exact .next (.ite (.updSession h) h)

theorem State.Keeps.pauseNow {ctx : Nat} {timeout : Bool} (h : s₀.Keeps s) : s₀.Keeps (s.pauseNow ctx timeout) := by
  unfold State.pauseNow
  dsimp only
  split
  · exact h
  · exact .release (.updSession (.giveQuota h))

theorem State.Keeps.tryPause {ctx : Nat} (h : s₀.Keeps s) : s₀.Keeps (s.tryPause ctx) := by
  unfold State.tryPause
  split
  · exact h
  · exact .ite (.finishOps (.pauseNow h)) h

theorem State.Keeps.tokenPage {ctx : Nat} (h : s₀.Keeps s) : s₀.Keeps (s.tokenPage ctx) := by
  unfold State.tokenPage
  dsimp only
  split
  · exact h
  · split
    · exact h
    · exact .foldl (fun _ _ h1 => .hbmWriteN h1) h

theorem State.Keeps.setTokens {ctx : Nat} {ts : List Nat} {len : Nat} (h : s₀.Keeps s) : s₀.Keeps (s.setTokens ctx ts len) := by
  unfold State.setTokens
  exact .tokenPage (.updSession h)

theorem State.Keeps.endRequest {ctx : Nat} (h : s₀.Keeps s) : s₀.Keeps (s.endRequest ctx) := by
  unfold State.endRequest
  dsimp only
  split
  · exact h
  · exact .updPart (.updSession h)

theorem State.Keeps.closeCancelled {ctx : Nat} {r : Request} (h : s₀.Keeps s) : s₀.Keeps (s.closeCancelled ctx r).1 := by
  unfold State.closeCancelled
  exact .endRequest (.updSession (.setTokens h))

theorem State.Keeps.abortReq {status : Nat} {perMember : Bool} {ctx : Nat} (h : s₀.Keeps s) : s₀.Keeps (s.abortReq status perMember ctx).1 := by
  unfold State.abortReq
  dsimp only
  split
  · exact h
  · split
    · exact h
    · split
      · exact .closeCancelled h
      · exact .endRequest (.setTokens h)

theorem State.Keeps.gather {f : State → Nat → State × List Rel} {l : List Nat} (hf : ∀ s c, s₀.Keeps s → s₀.Keeps (f s c).1) (h : s₀.Keeps s) :
    s₀.Keeps (gather f s l).1 := by
  induction l generalizing s with
  | nil => exact h
  | cons c t ih => exact ih (hf s c h)

theorem State.Keeps.commitStep {st : StepSlot} {r : Request} {tokens : List Nat} {x : Step} {withheld : Bool} (h : s₀.Keeps s) :
    s₀.Keeps (s.commitStep st r tokens x withheld).1 := by
  unfold State.commitStep
  dsimp only
  split
  · split
    · dsimp only
      exact .updSession (.setTokens h)
    · exact .closeCancelled (.updSession (.setTokens h))
  · dsimp only
    split
    · exact .ite (.updSession (.setTokens h)) (.updSession (.updSession (.setTokens h)))
    · exact .endRequest (.ite (.updSession (.setTokens h)) (.updSession (.updSession (.setTokens h))))

theorem State.Keeps.stepSlot {vocab : Nat} {st : StepSlot} (h : s₀.Keeps s) : s₀.Keeps (s.stepSlot vocab st).1 := by
  unfold State.stepSlot
  dsimp only
  split
  · exact h
  · split
    · exact h
    · split
      · exact .commitStep h
      · exact .commitStep (.ite (.updSession h) h)

theorem State.Keeps.stepSlots {vocab : Nat} {l : List StepSlot} (h : s₀.Keeps s) : s₀.Keeps (s.stepSlots vocab l).1 := by
  induction l generalizing s with
  | nil => exact h
  | cons x t ih => exact ih (.stepSlot h)

theorem State.Keeps.kvMap {tn pier n : Nat} {t : State} (h : s₀.Keeps s) (e : s.kvMap tn pier n = some t) : s₀.Keeps t := by
  induction n generalizing s with
  | zero =>
    cases e
    exact h
  | succ n ih =>
    unfold State.kvMap at e
    split at e
    · cases e
    · exact ih (.updMem (.allocPages h ‹_›)) e

theorem State.Keeps.kvRoom {tn n : Nat} {want l : List Nat} {t : State} (h : s₀.Keeps s) (e : s.kvRoom tn want l = some (t, n)) : s₀.Keeps t := by
  induction l generalizing s n with
  | nil =>
    cases e
    exact h
  | cons p ps ih =>
    unfold State.kvRoom at e
    dsimp only at e
    split at e
    · cases e
    · split at e
      · cases e
      · obtain ⟨q, hq, he⟩ := Option.map_eq_some_iff.1 e
        cases he
        exact ih (.kvMap h ‹_›) hq

theorem State.Keeps.kvReserve {tn n : Nat} {want l : List Nat} {t : State} (h : s₀.Keeps s) (e : s.kvReserve tn want = some (t, l, n)) :
    s₀.Keeps t := by
  unfold State.kvReserve at e
  split at e
  · cases e
  · split at e
    · cases e
    · cases e
      exact .useQuota (.kvRoom h ‹_›)

theorem State.Keeps.srvOpen {q : Req} (h : s₀.Keeps s) : s₀.Keeps (s.srvOpen q).1 := by
  unfold State.srvOpen
  dsimp only
  split
  · exact h
  · split
    · exact h
    · split
      · exact h
      · split
        · exact h
        · split
          · exact h
          · split
            · exact h
            · split
              · exact h
              · split
                · exact h
                · split
                  · dsimp only
                    exact .updSession (.updSession (.kvReserve h ‹_›))
                  · exact .accept (.updSession (.kvReserve h ‹_›))

theorem execSrvOpen_answers {m : Mb} (h : s₀.Keeps s) : s₀.Answers (execSrvOpen m s) := by
  unfold execSrvOpen
  exact .next (.mbRun (fun _ _ h1 => .srvOpen h1) h)

theorem execFrameMappingDone_answers {op : Nat} (h : s₀.Keeps s) : s₀.Answers (execFrameMappingDone op s) := by
  unfold execFrameMappingDone
  refine .next ?_
  dsimp only
  split
  · exact .ite (.finishOp (.updCtx h)) h
  · exact h

theorem State.Keeps.srvSampling {q : Req} (h : s₀.Keeps s) : s₀.Keeps (s.srvSampling q).1 := by
  unfold State.srvSampling
  split
  · exact h
  · split
    · exact h
    · split
      · exact h
      · dsimp only
        exact .updSession h

theorem execSrvSampling_answers {m : Mb} (h : s₀.Keeps s) : s₀.Answers (execSrvSampling m s) := by
  unfold execSrvSampling
  exact .next (.mbRun (fun _ _ h1 => .srvSampling h1) h)

theorem State.Keeps.srvPause {q : Req} (h : s₀.Keeps s) : s₀.Keeps (s.srvPause q).1 := by
  unfold State.srvPause
  split
  · exact h
  · split
    · exact h
    · split
      · exact h
      · split
        · exact .pauseNow h
        · exact .accept (.updSession h)

theorem execSrvPause_answers {m : Mb} (h : s₀.Keeps s) : s₀.Answers (execSrvPause m s) := by
  unfold execSrvPause
  exact .next (.mbRun (fun _ _ h1 => .srvPause h1) h)

theorem execSessionPauseTimeout_answers {ctx : Nat} (h : s₀.Keeps s) : s₀.Answers (execSessionPauseTimeout ctx s) := by
  unfold execSessionPauseTimeout
  refine .next ?_
  dsimp only
  split
  · exact h
  · exact .ite (.pauseNow h) h

theorem State.Keeps.srvCancel {q : Req} (h : s₀.Keeps s) : s₀.Keeps (s.srvCancel q).1 := by
  unfold State.srvCancel
  dsimp only
  split
  · exact h
  · split
    · exact h
    · split
      · exact h
      · exact .updCtx h

theorem execSrvCancel_answers {m : Mb} (h : s₀.Keeps s) : s₀.Answers (execSrvCancel m s) := by
  unfold execSrvCancel
  exact .next (.mbRun (fun _ _ h1 => .srvCancel h1) h)

theorem State.Keeps.srvQuery {q : Req} (h : s₀.Keeps s) : s₀.Keeps (s.srvQuery q).1 := by
  unfold State.srvQuery
  dsimp only
  split
  · exact h
  · exact h

theorem execSrvQuery_answers {m : Mb} (h : s₀.Keeps s) : s₀.Answers (execSrvQuery m s) := by
  unfold execSrvQuery
  exact .next (.mbRun (fun _ _ h1 => .srvQuery h1) h)

end Sys2Proof.Machine
end

section
/-! SUPPORT. `Keeps` of leads (Machine/Lead.lean). -/

namespace Sys2Proof.Machine

variable {s₀ s : State}

theorem State.Keeps.sendTwin {type : Nat} {payload : List Byte} (h : s₀.Keeps s) : s₀.Keeps (s.sendTwin type payload) := by
  unfold State.sendTwin
  dsimp only
  split
  · exact .sendRouted h
  · exact h

theorem State.Keeps.sendLead {part job : Nat} {es : List LeadEntry} (h : s₀.Keeps s) : s₀.Keeps (s.sendLead part job es) := by
  unfold State.sendLead
  exact .foldl (fun _ _ h1 => .ite h1 (.sendTwin h1)) (.upd h)

theorem State.Keeps.shedLed {r : Res} (h : s₀.Keeps s) : s₀.Keeps (s.shedLed r).1 := by
  unfold State.shedLed
  dsimp only
  split
  · exact h
  · exact .foldl_fst (fun _ _ h1 => .shedItem h1) h

theorem State.Keeps.sendGrant {part : Nat} {cs : List (Nat × Ctx)} (h : s₀.Keeps s) : s₀.Keeps (s.sendGrant part cs) := by
  unfold State.sendGrant
  exact .foldl (fun _ _ h1 => .sendTwin h1) (.ite (.sendTwin h) h)

theorem State.Keeps.joinDone (h : s₀.Keeps s) : s₀.Keeps s.joinDone := by
  unfold State.joinDone
  exact .ite (.post (.upd h)) h

theorem State.Keeps.grantPart {pid : Nat} (h : s₀.Keeps s) : s₀.Keeps (s.grantPart pid) := by
  unfold State.grantPart
  split
  · exact h
  · exact .ite (.joinDone (.updPart (.sendGrant h))) h

end Sys2Proof.Machine
end

section
/-! SUPPORT. `Keeps` of batches (Machine/Batch.lean). -/

namespace Sys2Proof.Machine

variable {s₀ s : State}

theorem State.Keeps.startJob {pid : Nat} {j : Job} (h : s₀.Keeps s) : s₀.Keeps (s.startJob pid j) := by
  unfold State.startJob
  dsimp only
  split
  · exact .foldl (fun _ _ h1 => .updCourse h1) (.updPart h)
  · exact h

theorem State.Keeps.displace {i : Item} (h : s₀.Keeps s) : s₀.Keeps (s.displace i) := by
  unfold State.displace
  exact .loss (.updCtx h)

theorem State.Keeps.takeItems {is : List Item} (h : s₀.Keeps s) : s₀.Keeps (s.takeItems is) := by
  unfold State.takeItems
  exact .foldl (fun _ _ h1 => .unqueue h1) h

theorem State.Keeps.pushFacing {p : Part} {j : FacingJob} (h : s₀.Keeps s) : s₀.Keeps (s.pushFacing p j) := by
  unfold State.pushFacing
  exact .updPier h

theorem State.Keeps.placeImage {pid : Nat} {p : Part} {pl : Plan} {v : VisionRec} {fresh ring : Bool} {x : Option Item × Nat} (h : s₀.Keeps s) :
    s₀.Keeps (s.placeImage pid p pl v fresh ring x) := by
  unfold State.placeImage
  dsimp only
  split
  · exact .ite (.hbmWriteN (.ite (.pushFacing h) h)) (.ite (.pushFacing h) h)
  · exact .ite (.pushFacing h) (.ite h (.hbmWriteN h))

theorem State.Keeps.placeImages {pid : Nat} {p : Part} {pl : Plan} {v : VisionRec} {fresh : Bool} {slots : List (Option Item)} (h : s₀.Keeps s) :
    s₀.Keeps (s.placeImages pid p pl v fresh slots) := by
  unfold State.placeImages
  exact .foldl (fun _ _ h1 => .placeImage h1) h

theorem State.Keeps.latchVision {ctxs : List Nat} {partialStart : Bool} (h : s₀.Keeps s) : s₀.Keeps (s.latchVision ctxs partialStart) := by
  unfold State.latchVision
  exact .foldl (fun _ _ h1 => .updCtx h1) h

theorem State.Keeps.latchFacing {pid : Nat} {slots : List (Option Item)} (h : s₀.Keeps s) : s₀.Keeps (s.latchFacing pid slots) := by
  unfold State.latchFacing
  refine .foldl (fun s1 x h1 => ?_) h
  dsimp only
  split
  · exact .ite (.updCtx h1) h1
  · exact h1

theorem State.Keeps.failNow {is : List Item} (h : s₀.Keeps s) : s₀.Keeps (s.failNow is) := by
  unfold State.failNow
  exact .releaseGroup h

theorem State.Keeps.startVision {pid : Nat} {p : Part} {pl : Plan} {v : VisionRec} {ordinal : Nat} {slots : List (Option Item)} {failed : List Item} (h : s₀.Keeps s) :
    s₀.Keeps (s.startVision pid p pl v ordinal slots failed) := by
  unfold State.startVision
  exact .startJob (.hbmTouch (.placeImages (.latchFacing (.updPart (.latchVision h)))))

theorem State.Keeps.formVision {pid : Nat} {p : Part} {pl : Plan} {v : VisionRec} (h : s₀.Keeps s) : s₀.Keeps (s.formVision pid p pl v) := by
  have hs : ∀ (l : List Item) (b : List Item), s₀.Keeps ((l.foldl (fun s i => s.displace i) (s.shedLed (some pid)).1).takeItems b) :=
    fun _ _ => .takeItems (.foldl (fun _ _ h => .displace h) (.shedLed h))
  unfold State.formVision
  dsimp only
  split
  · refine .failNow (.ite (.sendLead (hs _ _)) (hs _ _))
  · refine .startVision (.ite (.sendLead (hs _ _)) (hs _ _))

theorem State.Keeps.startRequest {pid : Nat} {q : ServeRec} {i : Item} (h : s₀.Keeps s) : s₀.Keeps (s.startRequest pid q i) := by
  unfold State.startRequest
  dsimp only
  split
  · exact h
  · refine .ite ?_ ?_
    · exact .updPart (.updSession (.unqueue h))
    · exact .ite (.tryPause (.closeMarked (.setPseq (.unqueue h)))) (.tryPause (.release (.setPseq (.unqueue h))))

theorem State.Keeps.startRequests {pid : Nat} {q : ServeRec} {n : Nat} (h : s₀.Keeps s) : s₀.Keeps (s.startRequests pid q n) := by
  induction n generalizing s with
  | zero => exact h
  | succ n ih =>
    unfold State.startRequests
    split
    · exact h
    · exact ih (.startRequest h)

theorem State.Keeps.dueSpec {pid : Nat} (h : s₀.Keeps s) : s₀.Keeps (s.dueSpec pid) := by
  unfold State.dueSpec
  exact .foldl (fun _ _ h1 => .updSession h1) h

theorem State.Keeps.formServe {pid : Nat} {q : ServeRec} (h : s₀.Keeps s) : s₀.Keeps (s.formServe pid q) := by
  unfold State.formServe
  dsimp only
  split
  · exact .startRequests (.dueSpec (.foldl (fun _ _ h1 => .tryPause h1) (.shedLed h)))
  · refine .ite ?_ ?_
    · refine .ite ?_ ?_
      · exact .sendLead (.startRequests (.dueSpec (.foldl (fun _ _ h1 => .tryPause h1) (.shedLed h))))
      · exact .startRequests (.dueSpec (.foldl (fun _ _ h1 => .tryPause h1) (.shedLed h)))
    · refine .startJob (.ite ?_ ?_)
      · exact .sendLead (.startRequests (.dueSpec (.foldl (fun _ _ h1 => .tryPause h1) (.shedLed h))))
      · exact .startRequests (.dueSpec (.foldl (fun _ _ h1 => .tryPause h1) (.shedLed h)))

theorem State.Keeps.skipOlder {es : List LeadEntry} (h : s₀.Keeps s) : s₀.Keeps (s.skipOlder es) := by
  unfold State.skipOlder
  refine .foldl (fun s1 x h1 => ?_) h
  dsimp only
  split
  · exact h1
  · exact .upd (.takeItems h1)

theorem State.Keeps.countAbsent (h : s₀.Keeps s) : s₀.Keeps s.countAbsent := by
  unfold State.countAbsent
  exact .upd h

theorem State.Keeps.ledShed {e : LeadEntry} (h : s₀.Keeps s) : s₀.Keeps (s.ledShed e) := by
  unfold State.ledShed
  split
  · exact .shedItem (.setPseq h)
  · exact .countAbsent h

theorem State.Keeps.ledVision {v : VisionRec} {l : List LeadEntry} {slots : List (Option Item)} {failed : List Item} (h : s₀.Keeps s) :
    s₀.Keeps (s.ledVision v l slots failed).1 := by
  induction l generalizing s slots failed with
  | nil => exact h
  | cons e t ih =>
    unfold State.ledVision
    split
    · exact ih (.countAbsent h)
    · dsimp only
      split
      · exact ih (.unqueue h)
      · exact ih (.unqueue h)

theorem State.Keeps.ledServe {pid : Nat} {q : ServeRec} {e : LeadEntry} (h : s₀.Keeps s) : s₀.Keeps (s.ledServe pid q e).1 := by
  unfold State.ledServe
  dsimp only
  split
  · exact .countAbsent h
  · split
    · split
      · exact h
      · exact .upd h
    · split
      · exact .countAbsent h
      · split
        · exact .startRequest (.updSession h)
        · exact .upd h

theorem State.Keeps.ledServes {pid : Nat} {q : ServeRec} {l : List LeadEntry} (h : s₀.Keeps s) : s₀.Keeps (s.ledServes pid q l).1 := by
  induction l generalizing s with
  | nil => exact h
  | cons e t ih => exact ih (.ledServe h)

theorem State.Keeps.ownPrefills {pid : Nat} {q : ServeRec} (h : s₀.Keeps s) : s₀.Keeps (s.ownPrefills pid q) := by
  unfold State.ownPrefills
  refine .foldl (fun s1 x h1 => ?_) h
  split
  · exact .ite (.startRequest h1) h1
  · exact h1

theorem State.Keeps.startLead {pid : Nat} {p : Part} {pl : Plan} {ld : Lead} (h : s₀.Keeps s) : s₀.Keeps (s.startLead pid p pl ld) := by
  unfold State.startLead
  refine .ite ?_ ?_
  · exact .skipOlder (.foldl (fun _ _ h1 => .ledShed h1) (.updPart h))
  · dsimp only
    split
    · refine .ite ?_ ?_
      · exact .failNow (.ledVision (.skipOlder (.foldl (fun _ _ h1 => .ledShed h1) (.updPart h))))
      · exact .startVision (.ledVision (.skipOlder (.foldl (fun _ _ h1 => .ledShed h1) (.updPart h))))
    · refine .ite ?_ ?_
      · exact .ownPrefills (.ledServes (.skipOlder (.foldl (fun _ _ h1 => .ledShed h1) (.updPart h))))
      · exact .startJob (.ownPrefills (.ledServes (.skipOlder (.foldl (fun _ _ h1 => .ledShed h1) (.updPart h)))))
    · exact .skipOlder (.foldl (fun _ _ h1 => .ledShed h1) (.updPart h))

theorem State.Keeps.restartJob {pid : Nat} {p : Part} {pl : Plan} {j : Job} (h : s₀.Keeps s) : s₀.Keeps (s.restartJob pid p pl j) := by
  unfold State.restartJob
  refine .startJob ?_
  dsimp only
  split
  · exact .placeImages (.upd (.postT (.updPartCtr h)))
  · exact .upd (.postT (.updPartCtr h))

theorem State.Keeps.startDue {pid : Nat} (h : s₀.Keeps s) : s₀.Keeps (s.startDue pid) := by
  unfold State.startDue
  dsimp only
  split
  · exact h
  · split
    · exact h
    · refine .ite ?_ ?_
      · exact h
      · split
        · exact .restartJob h
        · exact .startLead h
        · split
          · exact .ite (.formVision h) h
          · exact .ite (.formServe h) (.ite (.ownPrefills h) (.startJob (.ownPrefills h)))
          · exact h

theorem execBatchStart_answers {part : Nat} (h : s₀.Keeps s) : s₀.Answers (execBatchStart part s) := by
  unfold execBatchStart
  exact .next (.startDue h)

theorem execBatchFillTimeout_answers {part : Nat} (h : s₀.Keeps s) : s₀.Answers (execBatchFillTimeout part s) := by
  unfold execBatchFillTimeout
  refine .next ?_
  split
  · exact h
  · split
    · exact .ite (.formVision h) h
    · exact h

end Sys2Proof.Machine
end

section
/-! SUPPORT. `Keeps` of contexts (Machine/Context.lean). -/

namespace Sys2Proof.Machine

variable {s₀ s : State}

theorem State.Keeps.refuseImages {codec : Nat} (h : s₀.Keeps s) : s₀.Keeps (s.refuseImages codec) := by
  unfold State.refuseImages
  exact .endAllQueued h

theorem State.Keeps.dropCtx {n : Nat} (h : s₀.Keeps s) : s₀.Keeps (s.dropCtx n) := by
  unfold State.dropCtx
  dsimp only
  split
  · exact h
  · refine .finishOps ?_
    refine .finishOps ?_
    refine .updMem ?_
    split
    · exact .upd (.updPart (.giveQuota (.ite (.freePages (.refuseImages h)) h)))
    · exact .updPart (.giveQuota (.ite (.freePages (.refuseImages h)) h))

theorem State.Keeps.rebindNow {n : Nat} (h : s₀.Keeps s) : s₀.Keeps (s.rebindNow n) := by
  unfold State.rebindNow
  dsimp only
  split
  · exact h
  · split
    · exact h
    · refine .finishOps (.ite ?_ ?_)
      · exact .wakeCourses (.contextEvent (.updCtx (.ite (.updPart (.updPart h)) (.updPart h))))
      · exact .contextEvent (.updCtx (.ite (.updPart (.updPart h)) (.updPart h)))

theorem State.Keeps.addCtx {q : Req} {t n slot : Nat} (h : s₀.Keeps s) : s₀.Keeps (s.addCtx q t n slot).1 := by
  unfold State.addCtx
  dsimp only
  split
  · exact h
  · exact .upd h

theorem State.Keeps.ctxCreate {q : Req} (h : s₀.Keeps s) : s₀.Keeps (s.ctxCreate q).1 := by
  unfold State.ctxCreate
  dsimp only
  split
  · exact h
  · split
    · exact h
    · split
      · exact h
      · split
        · exact h
        · split
          · exact h
          · split
            · exact h
            · split
              · exact .addCtx h
              · split
                · exact h
                · exact .addCtx h

theorem execCtxCreate_answers {m : Mb} (h : s₀.Keeps s) : s₀.Answers (execCtxCreate m s) := by
  unfold execCtxCreate
  exact .next (.mbRun (fun _ _ h1 => .ctxCreate h1) h)

theorem State.Keeps.ctxRemove {q : Req} (h : s₀.Keeps s) : s₀.Keeps (s.ctxRemove q).1 := by
  unfold State.ctxRemove
  dsimp only
  split
  · exact h
  · split
    · exact h
    · split
      · exact .accept (.quietFrom (.updCtx h))
      · exact .dropCtx (.quietFrom (.updCtx h))

theorem execCtxRemove_answers {m : Mb} (h : s₀.Keeps s) : s₀.Answers (execCtxRemove m s) := by
  unfold execCtxRemove
  exact .next (.mbRun (fun _ _ h1 => .ctxRemove h1) h)

theorem State.Keeps.ctxSet {q : Req} (h : s₀.Keeps s) : s₀.Keeps (s.ctxSet q).1 := by
  unfold State.ctxSet
  dsimp only
  split
  · exact h
  · split
    · exact h
    · split
      · exact h
      · split
        · exact h
        · split
          · exact h
          · exact .updCtx h

theorem execCtxSet_answers {m : Mb} (h : s₀.Keeps s) : s₀.Answers (execCtxSet m s) := by
  unfold execCtxSet
  exact .next (.mbRun (fun _ _ h1 => .ctxSet h1) h)

theorem State.Keeps.ctxRebind {q : Req} (h : s₀.Keeps s) : s₀.Keeps (s.ctxRebind q).1 := by
  unfold State.ctxRebind
  dsimp only
  split
  · split
    · exact h
    · split
      · exact h
      · split
        · split
          · exact h
          · split
            · exact h
            · exact .ite (.rebindNow (.accept (.updCtx h))) (.accept (.updCtx h))
        · split
          · exact h
          · split
            · exact h
            · exact .ite (.rebindNow (.accept (.updCtx h))) (.accept (.updCtx h))
  · exact h

theorem execCtxRebind_answers {m : Mb} (h : s₀.Keeps s) : s₀.Answers (execCtxRebind m s) := by
  unfold execCtxRebind
  exact .next (.mbRun (fun _ _ h1 => .ctxRebind h1) h)

theorem State.Keeps.ctxQuery {q : Req} (h : s₀.Keeps s) : s₀.Keeps (s.ctxQuery q).1 := by
  unfold State.ctxQuery
  dsimp only
  split
  · exact h
  · exact h

theorem execCtxQuery_answers {m : Mb} (h : s₀.Keeps s) : s₀.Answers (execCtxQuery m s) := by
  unfold execCtxQuery
  exact .next (.mbRun (fun _ _ h1 => .ctxQuery h1) h)

theorem State.Keeps.ctxShedlog {q : Req} (h : s₀.Keeps s) : s₀.Keeps (s.ctxShedlog q).1 := by
  unfold State.ctxShedlog
  dsimp only
  split
  · exact h
  · exact h

theorem execCtxShedlog_answers {m : Mb} (h : s₀.Keeps s) : s₀.Answers (execCtxShedlog m s) := by
  unfold execCtxShedlog
  exact .next (.mbRun (fun _ _ h1 => .ctxShedlog h1) h)

end Sys2Proof.Machine
end

section
/-! SUPPORT. `Keeps` of plan images (Machine/PlanCmd.lean). -/

namespace Sys2Proof.Machine

variable {s₀ s : State}

theorem State.Keeps.planLoad {q : Req} (h : s₀.Keeps s) : s₀.Keeps (s.planLoad q).1 := by
  unfold State.planLoad
  dsimp only
  split
  · exact h
  · split
    · exact h
    · exact .accept (.upd h)

theorem execPlanLoad_answers {m : Mb} (h : s₀.Keeps s) : s₀.Answers (execPlanLoad m s) := by
  unfold execPlanLoad
  exact .next (.mbRun (fun _ _ h1 => .planLoad h1) h)

theorem State.Keeps.readFailed {op code : Nat} (h : s₀.Keeps s) : s₀.Keeps (s.readFailed op code) := by
  unfold State.readFailed
  exact .finishOp (.upd h)

theorem State.Keeps.placePlan {pl pl' : Plan} {b : List Byte} {t : State} (h : s₀.Keeps s) (e : s.placePlan pl b = some (pl', t)) : s₀.Keeps t := by
  unfold State.placePlan at e
  -- the kernel must not compute an allocation when it compares the cases
  obtain ⟨alloc, ha⟩ : ∃ alloc, alloc = State.allocPages := ⟨_, rfl⟩
  rw [← ha] at e
  extract_lets at e
  split at e
  · cases e
  · split at e
    · cases e
    · next h1 =>
      split at e
      · cases e
      · next h2 =>
        cases e
        exact .useQuota (.hbmWriteN (.hbmWriteN (.allocPages (.allocPages h (ha ▸ h1)) (ha ▸ h2))))

theorem State.Keeps.loadImage {op id tenant : Nat} {b : List Byte} (h : s₀.Keeps s) : s₀.Keeps (s.loadImage op id tenant b) := by
  unfold State.loadImage
  -- as in placePlan: the kernel must not compute the allocation
  obtain ⟨place, hp⟩ : ∃ place, place = State.placePlan := ⟨_, rfl⟩
  rw [← hp]
  split
  · exact .finishOp h
  · split
    · exact .finishOp h
    · exact .finishOp (.post h)
    · split
      · exact .finishOp h
      · next hpl => exact .finishOp (.upd (.placePlan h (hp ▸ hpl)))

theorem execPlanLoadComplete_answers {op : Nat} {rd : HostRead} (h : s₀.Keeps s) : s₀.Answers (execPlanLoadComplete op rd s) := by
  unfold execPlanLoadComplete
  refine .next ?_
  split
  · exact h
  · dsimp only
    split
    · split
      · exact h
      · split
        · exact .ite h (.intDone (fun _ h1 => .touchStacks (.loadImage h1)) h)
        · exact .intDone (fun _ h1 => .readFailed h1) h
    · exact h

theorem execInternalReadFail_answers {op code : Nat} (h : s₀.Keeps s) : s₀.Answers (execInternalReadFail op code s) := by
  unfold execInternalReadFail
  refine .next ?_
  dsimp only
  split
  · exact h
  · split
    · exact .intDone (fun _ h1 => .readFailed h1) h
    · exact .intDone (fun _ h1 => .readFailed (.upd h1)) h
    · exact .intDone (fun _ h1 => .readFailed h1) h
    · exact h

theorem State.Keeps.planBindGo {p pl : Nat} (h : s₀.Keeps s) : s₀.Keeps (s.planBindGo p pl).1 := by
  unfold State.planBindGo
  dsimp only
  split
  · exact h
  · exact .updPart h

theorem State.Keeps.planBind {q : Req} (h : s₀.Keeps s) : s₀.Keeps (s.planBind q).1 := by
  unfold State.planBind
  dsimp only
  split
  · split
    · exact h
    · split
      · exact h
      · split
        · exact h
        · split
          · exact h
          · split
            · exact h
            · exact .planBindGo h
  · exact h

theorem execPlanBind_answers {m : Mb} (h : s₀.Keeps s) : s₀.Answers (execPlanBind m s) := by
  unfold execPlanBind
  exact .next (.mbRun (fun _ _ h1 => .planBind h1) h)

theorem State.Keeps.dropPlan {id : Nat} (h : s₀.Keeps s) : s₀.Keeps (s.dropPlan id) := by
  unfold State.dropPlan
  dsimp only
  split
  · exact h
  · exact .upd (.giveQuota (.freePages (.freePages h)))

theorem State.Keeps.planUnload {q : Req} (h : s₀.Keeps s) : s₀.Keeps (s.planUnload q).1 := by
  unfold State.planUnload
  split
  · exact h
  · split
    · exact h
    · exact .dropPlan h

theorem execPlanUnload_answers {m : Mb} (h : s₀.Keeps s) : s₀.Answers (execPlanUnload m s) := by
  unfold execPlanUnload
  exact .next (.mbRun (fun _ _ h1 => .planUnload h1) h)

theorem State.Keeps.planInfo {q : Req} (h : s₀.Keeps s) : s₀.Keeps (s.planInfo q).1 := by
  unfold State.planInfo
  split
  · exact h
  · exact h

theorem execPlanInfo_answers {m : Mb} (h : s₀.Keeps s) : s₀.Answers (execPlanInfo m s) := by
  unfold execPlanInfo
  exact .next (.mbRun (fun _ _ h1 => .planInfo h1) h)

end Sys2Proof.Machine
end

section
/-! SUPPORT. `Keeps` of removals (Machine/Removal.lean). -/

namespace Sys2Proof.Machine

variable {s₀ s : State}

/-- The tables of frames and HBM of `s` put back. -/
theorem State.Keeps.hbmBack {u : State} {b : Tbl Nat} (h : s₀.Keeps s) (hu : s₀.Keeps u) :
    s₀.Keeps { u with mem.frames := s.mem.frames, mem.hbm := s.mem.hbm, host.slotBind := b } :=
  ⟨hu.queue, fun hc => ⟨(h.memories hc).1, (hu.memories hc).2⟩⟩

theorem State.Keeps.tearDown {t : Nat} (h : s₀.Keeps s) : s₀.Keeps (s.tearDown t) :=
  .updTenant (.hbmBack h (.foldl (fun _ _ h => .ringOff h) (.foldl (fun _ _ h => .dropPlan h) (.foldl (fun _ _ h => .finishOps (.removePart h))
    (.foldl (fun _ _ h => .dropCtx h) (.finishOps h))))))

theorem State.Keeps.tearDue {t : Nat} (h : s₀.Keeps s) : s₀.Keeps (s.tearDue t) := by
  unfold State.tearDue
  split
  · exact .ite (.tearDown h) h
  · exact h

theorem State.Keeps.drainOver {t : Nat} (h : s₀.Keeps s) : s₀.Keeps (s.drainOver t) := by
  unfold State.drainOver
  exact .tearDue (.updTenant (.upd h))

theorem State.Keeps.drainBegin {t : Nat} (h : s₀.Keeps s) : s₀.Keeps (s.drainBegin t) := by
  unfold State.drainBegin
  refine .ite ?_ ?_
  · exact .drainOver (.updTenant (.upd (.foldl (fun _ _ h1 => .sendLocal h1) (.upd (.foldl (fun _ _ h1 => .updCtx (.upd h1)) h)))))
  · exact .updTenant (.upd (.foldl (fun _ _ h1 => .sendLocal h1) (.upd (.foldl (fun _ _ h1 => .updCtx (.upd h1)) h))))

theorem State.Keeps.landDue (h : s₀.Keeps s) : s₀.Keeps s.landDue := by
  unfold State.landDue
  exact .foldl (fun _ _ h1 => .ite h1 (.drainBegin h1)) h

end Sys2Proof.Machine
end

section
/-! SUPPORT. `Keeps` of boundaries (Machine/Boundary.lean). -/

namespace Sys2Proof.Machine

variable {s₀ s : State}

theorem State.Keeps.imageDone {j : Job} {i : Item} {slot : Nat} {last : Bool} (h : s₀.Keeps s) : s₀.Keeps (s.imageDone j i slot last) := by
  unfold State.imageDone
  exact .ite (.updMem h) (.releaseOne (.updCtx h))

theorem State.Keeps.imagesDone {j : Job} {l : List (Item × Option Nat)} (h : s₀.Keeps s) : s₀.Keeps (s.imagesDone j l) := by
  induction l generalizing s with
  | nil => exact h
  | cons x t ih =>
    obtain ⟨i, k⟩ := x
    cases k with
    | none => exact ih (.releaseOne h)
    | some k => exact ih (.imageDone h)

theorem State.Keeps.countTaps {pid images : Nat} (h : s₀.Keeps s) : s₀.Keeps (s.countTaps pid images) := by
  unfold State.countTaps
  dsimp only
  split
  · exact h
  · exact .updPartCtr h

theorem State.Keeps.takePics {j : Job} (h : s₀.Keeps s) : s₀.Keeps (s.takePics j) := by
  unfold State.takePics
  refine .foldl (fun s1 x h1 => ?_) h
  dsimp only
  split
  · split
    · exact .updCtx h1
    · exact h1
  · exact h1

theorem State.Keeps.abortJob {pid : Nat} {j : Job} {status : Nat} {perMember : Bool} (h : s₀.Keeps s) :
    s₀.Keeps (s.abortJob pid j status perMember) := by
  have hg : ∀ l, s₀.Keeps (if j.steps.isEmpty then (s.takePics j, []) else Machine.gather (fun s c => s.abortReq status perMember c) (s.takePics j) l).1 := by
    intro l
    split
    · exact .takePics h
    · exact .gather (fun _ _ h => .abortReq h) (.takePics h)
  exact .releaseGroup (hg _)

theorem State.Keeps.completeJob {pid : Nat} {j : Job} (h : s₀.Keeps s) : s₀.Keeps (s.completeJob pid j) := by
  unfold State.completeJob
  exact .ite (.imagesDone (.takePics h)) (.releaseGroup (.stepSlots (.takePics h)))

theorem State.Keeps.abortFault {pid : Nat} {p : Part} {j : Job} (h : s₀.Keeps s) : s₀.Keeps (s.abortFault pid p j) := by
  unfold State.abortFault
  exact .abortJob (.postT (.upd h))

theorem State.Keeps.finishJob {pid : Nat} {p : Part} {j : Job} {how : Fin} (h : s₀.Keeps s) : s₀.Keeps (s.finishJob pid p j how) := by
  unfold State.finishJob
  refine .ite ?_ ?_
  · exact .abortJob h
  · dsimp only
    split
    · exact .abortJob h
    · exact .updPart h
    · exact .ite (.abortJob h) (.ite (.ite (.updPart (.countTaps h)) (.abortFault (.countTaps h))) (.completeJob (.countTaps h)))

theorem State.Keeps.ctxsDue {pid : Nat} (h : s₀.Keeps s) : s₀.Keeps (s.ctxsDue pid) := by
  unfold State.ctxsDue
  refine .foldl (fun s1 x h1 => ?_) h
  split
  · exact h1
  · exact .ite (.ite h1 (.dropCtx h1)) (.ite (.rebindNow h1) (.tryPause h1))

theorem State.Keeps.restCourses {cs : List Nat} (h : s₀.Keeps s) : s₀.Keeps (s.restCourses cs) := by
  unfold State.restCourses
  exact .foldl (fun _ _ h1 => .ite h1 (.ite (.gateCourse h1) (.updCourse h1))) h

theorem State.Keeps.dropUnled {pid : Nat} (h : s₀.Keeps s) : s₀.Keeps (s.dropUnled pid) := by
  unfold State.dropUnled
  exact .updPart (.foldl (fun _ _ h1 => .updSession h1) h)

theorem State.Keeps.reachBoundary {pid : Nat} {how : Fin} (h : s₀.Keeps s) : s₀.Keeps (s.reachBoundary pid how) := by
  unfold State.reachBoundary
  dsimp only
  split
  · exact h
  · split
    · exact h
    · refine .landDue (.trySafeHold (.grantPart (.guardRecheckAll (.ite ?_ ?_))))
      · refine .finishOps (.removePart (.restCourses (.ctxsDue (.ite ?_ ?_))))
        · exact .dropUnled (.finishJob (.foldl (fun _ _ h1 => .applyDue h1) (.foldl (fun _ _ h1 => .updPier h1) (.updPart (.clearPart h)))))
        · exact .finishJob (.foldl (fun _ _ h1 => .applyDue h1) (.foldl (fun _ _ h1 => .updPier h1) (.updPart (.clearPart h))))
      · refine .restCourses (.ctxsDue (.ite ?_ ?_))
        · exact .dropUnled (.finishJob (.foldl (fun _ _ h1 => .applyDue h1) (.foldl (fun _ _ h1 => .updPier h1) (.updPart (.clearPart h)))))
        · exact .finishJob (.foldl (fun _ _ h1 => .applyDue h1) (.foldl (fun _ _ h1 => .updPier h1) (.updPart (.clearPart h))))

theorem execBoundaryPoint_answers {part : Nat} (h : s₀.Keeps s) : s₀.Answers (execBoundaryPoint part s) := by
  unfold execBoundaryPoint
  refine .next ?_
  split
  · exact h
  · split
    · exact h
    · exact .ite (.startDue (.reachBoundary h)) h

theorem State.Keeps.overdueErrors {pid : Nat} {p : Part} {j : Job} (h : s₀.Keeps s) : s₀.Keeps (s.overdueErrors pid p j) := by
  unfold State.overdueErrors
  refine .foldl (fun s1 x h1 => ?_) h
  split
  · exact h1
  · exact .foldl (fun _ _ h2 => .wantTest h2) (.errorEvent h1)

theorem execBoundaryOverdue_answers {part : Nat} (h : s₀.Keeps s) : s₀.Answers (execBoundaryOverdue part s) := by
  unfold execBoundaryOverdue
  refine .next ?_
  split
  · exact h
  · split
    · exact h
    · exact .ite (.startDue (.reachBoundary (.overdueErrors (.touchPart h)))) h

theorem State.Keeps.emptyParts {pred : Part → Bool} {how : Fin} (h : s₀.Keeps s) : s₀.Keeps (s.emptyParts pred how) := by
  unfold State.emptyParts
  exact .foldl (fun _ _ h1 => .reachBoundary h1) h

end Sys2Proof.Machine
end

section
/-! SUPPORT. `Keeps` of Facing (Machine/Facing.lean). -/

namespace Sys2Proof.Machine

variable {s₀ s : State}

theorem State.Keeps.facingGo {pier : Nat} {p : Part} {pl : Plan} {v : VisionRec} {j : FacingJob} {rest : List FacingJob} (h : s₀.Keeps s) :
    s₀.Keeps (s.facingGo pier p pl v j rest) := by
  unfold State.facingGo
  refine .updPier ?_
  dsimp only
  split
  · exact .hbmWriteN (.upd h)
  · exact .upd h

theorem execFacingConvert_answers {pier : Nat} (h : s₀.Keeps s) : s₀.Answers (execFacingConvert pier s) := by
  unfold execFacingConvert
  refine .next ?_
  dsimp only
  split
  · exact h
  · split
    · exact h
    · split
      · exact .ite (.facingGo (.touchStacks h)) h
      · exact h

theorem State.Keeps.bandGo {pier : Nat} {p : Part} {pl : Plan} {v : VisionRec} {data : List Byte} {rows : Nat} {j : FacingJob} {rest : List FacingJob} {b : Nat}
    (h : s₀.Keeps s) : s₀.Keeps (s.bandGo pier p pl v data rows j rest b) := by
  unfold State.bandGo
  dsimp only
  split
  · exact h
  · split
    · exact .updPier (.addSem (.foldl (fun _ _ h => .updCbuf (sramWriteN_wf data _) h) (.upd (.updPart h))))
    · exact .addSem (.foldl (fun _ _ h => .updCbuf (sramWriteN_wf data _) h) (.upd (.updPart h)))

theorem execFacingBandWrite_answers {pier : Nat} (h : s₀.Keeps s) : s₀.Answers (execFacingBandWrite pier s) := by
  unfold execFacingBandWrite
  refine .next ?_
  dsimp only
  split
  · exact h
  · refine .ite ?_ ?_
    · exact h
    · split
      · exact .pumpPart h
      · split
        · split
          · exact .ite (.bandGo (.touchStacks (.pumpPart h))) (.pumpPart h)
          · exact .updPier (.pumpPart h)
        · exact .pumpPart h

theorem State.Keeps.visParams {q : Req} (h : s₀.Keeps s) : s₀.Keeps (s.visParams q).1 := by
  unfold State.visParams
  split
  · exact h
  · split
    · exact h
    · split
      · exact h
      · exact .updCtx h

theorem execVisParams_answers {m : Mb} (h : s₀.Keeps s) : s₀.Answers (execVisParams m s) := by
  unfold execVisParams
  exact .next (.mbRun (fun _ _ h1 => .visParams h1) h)

theorem State.Keeps.visCounters {q : Req} (h : s₀.Keeps s) : s₀.Keeps (s.visCounters q).1 := by
  unfold State.visCounters
  dsimp only
  split
  · exact h
  · exact h

theorem execVisCounters_answers {m : Mb} (h : s₀.Keeps s) : s₀.Answers (execVisCounters m s) := by
  unfold execVisCounters
  exact .next (.mbRun (fun _ _ h1 => .visCounters h1) h)

theorem State.Keeps.releaseCopy {x1 : HostCopy} {rd : HostRead} {r : Rec} (h : s₀.Keeps s) : s₀.Keeps (s.releaseCopy x1 rd r) := by
  unfold State.releaseCopy
  exact .release (.setPseq (.updCtx (.ite (.loss (.updCtx h)) h)))

theorem State.Keeps.flushOver {cn : Nat} (h : s₀.Keeps s) : s₀.Keeps (s.flushOver cn) := by
  unfold State.flushOver
  exact .updCtx (.ite h (.finishOps h))

theorem State.Keeps.flushesDue (h : s₀.Keeps s) : s₀.Keeps s.flushesDue := by
  unfold State.flushesDue
  exact .foldl (fun _ _ h1 => .flushOver h1) h

theorem execOutHostCopyDone_answers {copy : Nat} {rd : HostRead} (h : s₀.Keeps s) : s₀.Answers (execOutHostCopyDone copy rd s) := by
  unfold execOutHostCopyDone
  refine .next ?_
  dsimp only
  split
  · exact h
  · refine .ite ?_ ?_
    · exact h
    · refine .intDone (fun _ h1 => ?_) h
      refine .landDue ?_
      refine .flushesDue ?_
      refine .foldl (fun s1 x h2 => ?_) ?_
      · exact .releaseCopy h2
      · split
        · exact .hostWriteN (.updMem h1)
        · exact .updMem h1

end Sys2Proof.Machine
end

section
/-! SUPPORT. `Keeps` of video (Machine/Video.lean). -/

namespace Sys2Proof.Machine

variable {s₀ s : State}

theorem State.Keeps.regate (h : s₀.Keeps s) : s₀.Keeps s.regate := by
  unfold State.regate
  exact .ite (.upd (.foldl (fun _ _ h1 => .ite (.updCore h1) h1) h)) h

theorem State.Keeps.takePic {k : Nat} {i : Item} {run : Nat} {d : Division} (h : s₀.Keeps s) : s₀.Keeps (s.takePic k i run d) := by
  unfold State.takePic
  exact .regate (.upd (.updCore (.ite (.updCtx (.ite (.updCtx h) (.unqueue h))) (.ite (.updCtx h) (.unqueue h)))))

theorem State.Keeps.takeAgain {k : Nat} {a : Nat × Item × Nat} {d : Division} (h : s₀.Keeps s) : s₀.Keeps (s.takeAgain k a d) := by
  unfold State.takeAgain
  exact .regate (.upd (.updCore h))

theorem State.Keeps.failVideo {i : Item} (h : s₀.Keeps s) : s₀.Keeps (s.failVideo i) := by
  unfold State.failVideo
  exact .release (.setPseq (.unqueue h))

theorem State.Keeps.startPic {k : Nat} {d : Division} (h : s₀.Keeps s) : s₀.Keeps (s.startPic k d) := by
  unfold State.startPic
  dsimp only
  split
  · exact .regate (.ite (.sendLead (.shedLed h)) (.shedLed h))
  · split
    · exact .ite (.failVideo (.ite (.sendLead (.shedLed h)) (.shedLed h))) (.takePic (.ite (.sendLead (.shedLed h)) (.shedLed h)))
    · exact .ite (.sendLead (.shedLed h)) (.shedLed h)

theorem State.Keeps.startTrowelLead {k : Nat} {d : Division} (h : s₀.Keeps s) : s₀.Keeps (s.startTrowelLead k d) := by
  unfold State.startTrowelLead
  dsimp only
  split
  · split
    · exact .takePic h
    · exact h
  · split
    · exact .ite (.failVideo (.skipOlder (.upd h))) (.takePic (.skipOlder (.upd h)))
    · exact .countAbsent (.skipOlder (.upd h))

theorem State.Keeps.joinCore {k : Nat} {i : Item} {x : Core} (h : s₀.Keeps s) : s₀.Keeps (s.joinCore k i x) := by
  unfold State.joinCore
  split
  · exact .updCore h
  · exact h

theorem execTrowelPictureStart_answers {core : Nat} {how : PicStart} (h : s₀.Keeps s) : s₀.Answers (execTrowelPictureStart core how s) := by
  unfold execTrowelPictureStart
  refine .next ?_
  refine .ite ?_ ?_
  · exact h
  · split
    · split
      · exact .joinCore h
      · exact h
    · split
      · exact .takeAgain h
      · exact .ite (.startTrowelLead h) (.startPic h)

theorem execTrowelPllStop_answers (h : s₀.Keeps s) : s₀.Answers (execTrowelPllStop s) := by
  unfold execTrowelPllStop
  exact .next (.ite (.upd h) h)

theorem State.Keeps.ringBytes {c : Ctx} {bs : List Byte} (h : s₀.Keeps s) : s₀.Keeps (s.ringBytes c bs) := by
  unfold State.ringBytes
  exact .hbmWriteN (.hbmWriteN h)

theorem execBitstreamCopyDone_answers {ctx : Nat} {rd : HostRead} (h : s₀.Keeps s) : s₀.Answers (execBitstreamCopyDone ctx rd s) := by
  unfold execBitstreamCopyDone
  refine .next ?_
  dsimp only
  split
  · exact h
  · split
    · exact h
    · refine .ite ?_ ?_
      · exact h
      · refine .intDone (fun _ h1 => ?_) h
        split
        · exact .updCtx (.ringBytes (.touchStacks h1))
        · exact .failVideo (.upd h1)

theorem State.Keeps.poolRoom {u : Unit'} (h : s₀.Keeps s) : s₀.Keeps (s.poolRoom u).1 := by
  unfold State.poolRoom
  dsimp only
  split
  · exact h
  · split
    · exact h
    · split
      · exact h
      · exact .updCtx h

theorem State.Keeps.keepPic {u : Unit'} {p : PicOut} {r : UnitRec} {data : List Byte} (h : s₀.Keeps s) : s₀.Keeps (s.keepPic u p r data).1 := by
  unfold State.keepPic
  dsimp only
  split
  · exact h
  · exact .updCtx (.hbmWriteN h)

theorem State.Keeps.outPic {u : Unit'} {p : PicOut} (h : s₀.Keeps s) : s₀.Keeps (s.outPic u p).1 := by
  unfold State.outPic
  dsimp only
  split
  · exact h
  · split
    · exact .updCtx (.updCtx h)
    · refine .keepPic ?_
      split
      · exact .updCtx h
      · exact .poolRoom (.updCtx h)

theorem State.Keeps.outPics {u : Unit'} {l : List PicOut} (h : s₀.Keeps s) : s₀.Keeps (s.outPics u l).1 := by
  induction l generalizing s with
  | nil => exact h
  | cons p t ih => exact ih (.outPic h)

theorem State.Keeps.decodeUnit {cn : Nat} {i : Item} {res : CodecResult} {cores ns : Nat} (h : s₀.Keeps s) :
    s₀.Keeps (s.decodeUnit cn i res cores ns).1 := by
  unfold State.decodeUnit
  dsimp only
  split
  · exact h
  · exact .updCtx (.outPics h)

theorem State.Keeps.encTaken {cn : Nat} {i : Item} (h : s₀.Keeps s) : s₀.Keeps (s.encTaken cn i) := by
  unfold State.encTaken
  dsimp only
  split
  · exact h
  · exact .upd h

theorem State.Keeps.encodeUnit {cn : Nat} {i : Item} {ns : Nat} (h : s₀.Keeps s) : s₀.Keeps (s.encodeUnit cn i ns).1 := by
  unfold State.encodeUnit
  dsimp only
  split
  · exact h
  · split
    · exact .updMem (.updCtx (.encTaken h))
    · exact .hbmWriteN (.updCtx (.encTaken h))

theorem State.Keeps.freeCores {cn ns : Nat} {lines : List (Nat × Nat)} (h : s₀.Keeps s) : s₀.Keeps (s.freeCores cn ns lines) := by
  unfold State.freeCores
  exact .upd (.foldl (fun _ _ h1 => .updCore h1) h)

theorem State.Keeps.errorPic {core cn : Nat} {i : Item} {run : Nat} (h : s₀.Keeps s) : s₀.Keeps (s.errorPic core cn i run).1 := by
  unfold State.errorPic
  dsimp only
  split
  · exact .upd (.postT (.upd h))
  · exact .postT (.upd h)

theorem State.Keeps.finishPic {core cn : Nat} {i : Item} {run : Nat} {res : CodecResult} {hw : Bool} {cores ns : Nat} (h : s₀.Keeps s) :
    s₀.Keeps (s.finishPic core cn i run res hw cores ns).1 := by
  unfold State.finishPic
  split
  · exact h
  · split
    · exact .errorPic h
    · split
      · exact .shedItem (.setPseq h)
      · split
        · exact .encodeUnit h
        · split
          · exact h
          · exact .decodeUnit (.updCtx h)

theorem State.Keeps.picOver {cn : Nat} {i : Item} (h : s₀.Keeps s) : s₀.Keeps (s.picOver cn i) := by
  unfold State.picOver
  refine .ite ?_ ?_
  · exact h
  · dsimp only
    split
    · exact .ite (.dropCtx (.ite (.flushOver (.updCtx h)) (.updCtx h))) (.ite (.flushOver (.updCtx h)) (.updCtx h))
    · exact .ite (.flushOver (.updCtx h)) (.updCtx h)

theorem execCodecFrameBoundary_answers {core : Nat} {res : CodecResult} {hw : Option Nat} (h : s₀.Keeps s) :
    s₀.Answers (execCodecFrameBoundary core res hw s) := by
  unfold execCodecFrameBoundary
  refine .next ?_
  dsimp only
  split
  · exact h
  · refine .ite ?_ ?_
    · exact h
    · refine .landDue ?_
      refine .trySafeHold ?_
      refine .guardRecheckAll ?_
      refine .regate ?_
      refine .picOver ?_
      refine .releaseGroup ?_
      split
      · split
        · exact .finishPic (.wantTest (.errorEvent (.freeCores (.touchStacks h))))
        · exact .wantTest (.errorEvent (.freeCores (.touchStacks h)))
      · split
        · exact .finishPic (.freeCores (.touchStacks h))
        · exact .freeCores (.touchStacks h)

theorem State.Keeps.openVideo {q : Req} {c : Ctx} {pics each ring newState : Nat} {mk : Nat → Nat → Codec} (h : s₀.Keeps s) :
    s₀.Keeps (s.openVideo q c pics each ring newState mk).1 := by
  unfold State.openVideo
  extract_lets n bytes pages pay
  clear_value pages
  split
  · exact h
  · split
    · exact h
    · split
      · exact h
      · split
        · exact h
        · split
          · exact .updCtx (.updCtx (.useQuota (.allocPages h ‹_›)))
          · exact .accept (.updCtx (.useQuota (.allocPages h ‹_›)))

theorem State.Keeps.vidDecodeOpen {q : Req} (h : s₀.Keeps s) : s₀.Keeps (s.vidDecodeOpen q).1 := by
  unfold State.vidDecodeOpen
  split
  · exact h
  · split
    · exact h
    · exact .openVideo h

theorem execVidDecodeOpen_answers {m : Mb} (h : s₀.Keeps s) : s₀.Answers (execVidDecodeOpen m s) := by
  unfold execVidDecodeOpen
  exact .next (.mbRun (fun _ _ h1 => .vidDecodeOpen h1) h)

theorem State.Keeps.vidEncodeOpen {q : Req} (h : s₀.Keeps s) : s₀.Keeps (s.vidEncodeOpen q).1 := by
  unfold State.vidEncodeOpen
  split
  · exact h
  · split
    · exact h
    · exact .openVideo h

theorem execVidEncodeOpen_answers {m : Mb} (h : s₀.Keeps s) : s₀.Answers (execVidEncodeOpen m s) := by
  unfold execVidEncodeOpen
  exact .next (.mbRun (fun _ _ h1 => .vidEncodeOpen h1) h)

theorem State.Keeps.vidFacing {q : Req} (h : s₀.Keeps s) : s₀.Keeps (s.vidFacing q).1 := by
  unfold State.vidFacing
  dsimp only
  split
  · exact h
  · split
    · exact h
    · split
      · exact h
      · exact .updCtx h

theorem execVidFacing_answers {m : Mb} (h : s₀.Keeps s) : s₀.Answers (execVidFacing m s) := by
  unfold execVidFacing
  exact .next (.mbRun (fun _ _ h1 => .vidFacing h1) h)

theorem State.Keeps.vidForceIdr {q : Req} (h : s₀.Keeps s) : s₀.Keeps (s.vidForceIdr q).1 := by
  unfold State.vidForceIdr
  dsimp only
  split
  · exact h
  · split
    · exact h
    · split
      · exact h
      · exact .updCtx h

theorem execVidForceIdr_answers {m : Mb} (h : s₀.Keeps s) : s₀.Answers (execVidForceIdr m s) := by
  unfold execVidForceIdr
  exact .next (.mbRun (fun _ _ h1 => .vidForceIdr h1) h)

theorem State.Keeps.vidFlush {q : Req} (h : s₀.Keeps s) : s₀.Keeps (s.vidFlush q).1 := by
  unfold State.vidFlush
  dsimp only
  split
  · exact h
  · split
    · exact h
    · split
      · exact h
      · exact .accept (.updCtx h)

theorem execVidFlush_answers {m : Mb} (h : s₀.Keeps s) : s₀.Answers (execVidFlush m s) := by
  unfold execVidFlush
  exact .next (.mbRun (fun _ _ h1 => .vidFlush h1) h)

theorem State.Keeps.vidQuery {q : Req} (h : s₀.Keeps s) : s₀.Keeps (s.vidQuery q).1 := by
  unfold State.vidQuery
  dsimp only
  split
  · exact h
  · exact h

theorem execVidQuery_answers {m : Mb} (h : s₀.Keeps s) : s₀.Answers (execVidQuery m s) := by
  unfold execVidQuery
  exact .next (.mbRun (fun _ _ h1 => .vidQuery h1) h)

theorem State.Keeps.vidCores {x1 : Req} (h : s₀.Keeps s) : s₀.Keeps (s.vidCores x1).1 := by
  unfold State.vidCores
  exact h

theorem execVidCores_answers {m : Mb} (h : s₀.Keeps s) : s₀.Answers (execVidCores m s) := by
  unfold execVidCores
  exact .next (.mbRun (fun _ _ h1 => .vidCores h1) h)

end Sys2Proof.Machine
end

section
/-! SUPPORT. `Keeps` of power (Machine/Power.lean). -/

namespace Sys2Proof.Machine

variable {s₀ s : State}

theorem State.Keeps.noteProfile {old : Nat} (h : s₀.Keeps s) : s₀.Keeps (s.noteProfile old) := by
  unfold State.noteProfile
  exact .ite h (.post h)

theorem State.Keeps.mapRates {f : Nat → Nat} (h : s₀.Keeps s) : s₀.Keeps (s.mapRates f) := by
  unfold State.mapRates
  exact .foldl (fun _ _ h1 => .updCourse h1) h

theorem State.Keeps.abortSlices (h : s₀.Keeps s) : s₀.Keeps s.abortSlices := by
  unfold State.abortSlices
  exact .upd h

theorem State.Keeps.postFloor (h : s₀.Keeps s) : s₀.Keeps s.postFloor := by
  unfold State.postFloor
  exact .post h

theorem State.Keeps.floorStep (h : s₀.Keeps s) : s₀.Keeps s.floorStep := by
  unfold State.floorStep
  exact .postFloor (.abortSlices (.upd (.mapRates h)))

theorem State.Keeps.floorIfOver {watts : Nat} (h : s₀.Keeps s) : s₀.Keeps (s.floorIfOver watts) := by
  unfold State.floorIfOver
  exact .ite (.floorStep h) h

theorem State.Keeps.measure {watts : Nat} (h : s₀.Keeps s) : s₀.Keeps (s.measure watts) := by
  unfold State.measure
  exact .upd h

theorem State.Keeps.review (h : s₀.Keeps s) : s₀.Keeps s.review := by
  unfold State.review
  exact .floorIfOver h

theorem State.Keeps.quietCourses (h : s₀.Keeps s) : s₀.Keeps s.quietCourses := by
  unfold State.quietCourses
  exact .foldl (fun _ _ h1 => .updCourse h1) h

theorem State.Keeps.rewarm (h : s₀.Keeps s) : s₀.Keeps s.rewarm := by
  unfold State.rewarm
  exact .foldl (fun _ _ h1 => .warmCourses h1) h

theorem State.Keeps.floorEnd (h : s₀.Keeps s) : s₀.Keeps s.floorEnd := by
  unfold State.floorEnd
  exact .rewarm (.quietCourses (.upd h))

theorem execGovernorSample_answers {watts : Nat} (h : s₀.Keeps s) : s₀.Answers (execGovernorSample watts s) := by
  unfold execGovernorSample
  exact .next (.ite (.floorIfOver (.measure h)) h)

theorem execFloorStepSecondStage_answers {watts fit : Nat} (h : s₀.Keeps s) : s₀.Answers (execFloorStepSecondStage watts fit s) := by
  unfold execFloorStepSecondStage
  exact .next (.ite (.postFloor (.mapRates (.upd h))) h)

theorem State.Keeps.raiseRates (h : s₀.Keeps s) : s₀.Keeps s.raiseRates := by
  unfold State.raiseRates
  exact .mapRates h

theorem execRateClimb_answers {watts predicted : Nat} (h : s₀.Keeps s) : s₀.Answers (execRateClimb watts predicted s) := by
  unfold execRateClimb
  refine .next (.ite ?_ ?_)
  · refine .ite ?_ ?_
    · exact .ite (.upd h) (.floorStep (.upd h))
    · exact .ite (.ite (.floorEnd (.upd (.raiseRates (.upd h)))) (.upd (.raiseRates (.upd h)))) (.ite (.floorEnd (.upd h)) (.upd h))
  · exact h

theorem execPwrAlertNAssert_answers (h : s₀.Keeps s) : s₀.Answers (execPwrAlertNAssert s) := by
  unfold execPwrAlertNAssert
  exact .next (.ite (.ite (.post (.abortSlices (.upd (.mapRates (.upd h))))) (.upd h)) h)

theorem execPwrAlertNRelease_answers (h : s₀.Keeps s) : s₀.Answers (execPwrAlertNRelease s) := by
  unfold execPwrAlertNRelease
  exact .next (.ite h (.ite (.post (.upd (.upd h))) (.upd h)))

theorem State.Keeps.setCap {w : Nat} (h : s₀.Keeps s) : s₀.Keeps (s.setCap w) := by
  unfold State.setCap
  exact .ite (.floorStep (.upd h)) (.review (.upd h))

theorem State.Keeps.pwrCap {q : Req} (h : s₀.Keeps s) : s₀.Keeps (s.pwrCap q).1 := by
  unfold State.pwrCap
  dsimp only
  split
  · exact h
  · exact .setCap (.upd h)

theorem execPwrCap_answers {m : Mb} (h : s₀.Keeps s) : s₀.Answers (execPwrCap m s) := by
  unfold execPwrCap
  exact .next (.mbRun (fun _ _ h1 => .pwrCap h1) h)

theorem execLeaseLapsed_answers (h : s₀.Keeps s) : s₀.Answers (execLeaseLapsed s) := by
  unfold execLeaseLapsed
  exact .next (.ite (.post (.upd h)) h)

theorem execFallbackCap_answers (h : s₀.Keeps s) : s₀.Answers (execFallbackCap s) := by
  unfold execFallbackCap
  exact .next (.ite (.post (.setCap (.upd h))) h)

theorem State.Keeps.seeInput {mv : Nat} (h : s₀.Keeps s) : s₀.Keeps (s.seeInput mv) := by
  unfold State.seeInput
  exact .upd h

theorem execSupplyHold_answers {mv : Nat} (h : s₀.Keeps s) : s₀.Answers (execSupplyHold mv s) := by
  unfold execSupplyHold
  exact .next (.ite (.ite (.seeInput h) (.post (.abortSlices (.upd (.seeInput h))))) h)

theorem execSupplyRecovered_answers {mv : Nat} (h : s₀.Keeps s) : s₀.Answers (execSupplyRecovered mv s) := by
  unfold execSupplyRecovered
  exact .next (.ite (.seeInput h) h)

theorem State.Keeps.applyAll (h : s₀.Keeps s) : s₀.Keeps s.applyAll := by
  unfold State.applyAll
  exact .foldl (fun _ _ h1 => .applyDue h1) h

theorem State.Keeps.step7 (h : s₀.Keeps s) : s₀.Keeps s.step7 := by
  unfold State.step7
  exact .ite h (.ite (.upd h) (.upd h))

theorem execHoldEnd_answers (h : s₀.Keeps s) : s₀.Answers (execHoldEnd s) := by
  unfold execHoldEnd
  refine .next (.ite ?_ ?_)
  · refine .ite ?_ ?_
    · exact .step7 (.review (.applyAll (.rewarm (.quietCourses (.post (.exportHeld (.upd h)))))))
    · exact .review (.applyAll (.rewarm (.quietCourses (.post (.exportHeld (.upd h))))))
  · exact h

theorem execLongDip_answers (h : s₀.Keeps s) : s₀.Answers (execLongDip s) := by
  unfold execLongDip
  exact .next (.ite (.review (.noteProfile (.upd h))) h)

theorem execSupplyHigh_answers {mv : Nat} (h : s₀.Keeps s) : s₀.Answers (execSupplyHigh mv s) := by
  unfold execSupplyHigh
  exact .next (.ite (.ite (.post (.upd (.seeInput h))) (.seeInput h)) h)

theorem State.Keeps.pwrProfile {q : Req} (h : s₀.Keeps s) : s₀.Keeps (s.pwrProfile q).1 := by
  unfold State.pwrProfile
  dsimp only
  split
  · exact h
  · exact .review (.noteProfile (.upd h))

theorem execPwrProfile_answers {m : Mb} (h : s₀.Keeps s) : s₀.Answers (execPwrProfile m s) := by
  unfold execPwrProfile
  exact .next (.mbRun (fun _ _ h1 => .pwrProfile h1) h)

theorem State.Keeps.pwrStatus {x1 : Req} (h : s₀.Keeps s) : s₀.Keeps (s.pwrStatus x1).1 := by
  unfold State.pwrStatus
  exact h

theorem execPwrStatus_answers {m : Mb} (h : s₀.Keeps s) : s₀.Answers (execPwrStatus m s) := by
  unfold execPwrStatus
  exact .next (.mbRun (fun _ _ h1 => .pwrStatus h1) h)

theorem State.Keeps.pwrShutdown {q : Req} (h : s₀.Keeps s) : s₀.Keeps (s.pwrShutdown q).1 := by
  unfold State.pwrShutdown
  dsimp only
  split
  · exact h
  · split
    · exact h
    · exact .handover (.upd (.accept h))

theorem execPwrShutdown_answers {m : Mb} (h : s₀.Keeps s) : s₀.Answers (execPwrShutdown m s) := by
  unfold execPwrShutdown
  exact .next (.mbRun (fun _ _ h1 => .pwrShutdown h1) h)

theorem execShutdownDrainTimeout_answers (h : s₀.Keeps s) : s₀.Answers (execShutdownDrainTimeout s) := by
  unfold execShutdownDrainTimeout
  refine .next ?_
  dsimp only
  split
  · exact h
  · exact .ite (.upd (.endAllQueued h)) h

theorem execShutdownBistDone_answers {found : List (Nat × Nat × Nat)} {results : Nat} (h : s₀.Keeps s) :
    s₀.Answers (execShutdownBistDone found results s) := by
  unfold execShutdownBistDone
  exact .next (.ite (.finishOps (.upd (.foldl (fun _ _ h1 => .lasting h1) h))) h)

end Sys2Proof.Machine
end

section
/-! SUPPORT. `Keeps` of the coolant and the temperatures (Machine/Thermal.lean). -/

namespace Sys2Proof.Machine

variable {s₀ s : State}

theorem State.Keeps.noteSensor {i : Nat} {was is : Bool} (h : s₀.Keeps s) : s₀.Keeps (s.noteSensor i was is) := by
  unfold State.noteSensor
  exact .ite h (.post h)

theorem State.Keeps.trackRows (h : s₀.Keeps s) : s₀.Keeps s.trackRows := by
  unfold State.trackRows
  exact .upd h

theorem State.Keeps.rowEvent {row : Nat} {on : Bool} (h : s₀.Keeps s) : s₀.Keeps (s.rowEvent row on) := by
  unfold State.rowEvent
  split
  · exact .post h
  · exact .ite (.post h) h
  · exact .ite (.post h) h
  · exact .post h
  · exact h

theorem State.Keeps.rowDue {row : Nat} (h : s₀.Keeps s) : s₀.Keeps (s.rowDue row) := by
  unfold State.rowDue
  exact .ite (.review (.noteProfile (.rowEvent (.upd h)))) h

theorem State.Keeps.rowsNow (h : s₀.Keeps s) : s₀.Keeps s.rowsNow := by
  unfold State.rowsNow
  exact .foldl (fun _ _ h1 => .ite (.rowDue h1) h1) (.trackRows h)

theorem execCoolantStateDwell_answers {row : Nat} (h : s₀.Keeps s) : s₀.Answers (execCoolantStateDwell row s) := by
  unfold execCoolantStateDwell
  exact .next (.ite (.rowDue h) h)

theorem execSafeCauseClear_answers {cause : Nat} (h : s₀.Keeps s) : s₀.Answers (execSafeCauseClear cause s) := by
  unfold execSafeCauseClear
  refine .next ?_
  refine .ite ?_ ?_
  · exact h
  · dsimp only
    split
    · exact .ite (.review (.noteProfile (.upd h))) h
    · exact .rowDue h
    · exact .review (.noteProfile (.upd h))
    · exact .rowDue (.rowDue (.rowDue h))
    · exact h

theorem State.Keeps.quenchBegin {trig before at' : Nat} (h : s₀.Keeps s) : s₀.Keeps (s.quenchBegin trig before at') := by
  unfold State.quenchBegin
  exact .handover (.upd (.foldl (fun _ _ h1 => .updCourse h1) (.post (.emptyParts (.abortSlices (.upd h))))))

theorem State.Keeps.quenchOver (h : s₀.Keeps s) : s₀.Keeps s.quenchOver := by
  unfold State.quenchOver
  exact .review (.foldl (fun _ _ h1 => .wakeCourses h1) (.rewarm (.post (.flushLoss (.upd h)))))

theorem execQuenchEnd_answers (h : s₀.Keeps s) : s₀.Answers (execQuenchEnd s) := by
  unfold execQuenchEnd
  exact .next (.ite (.quenchOver h) h)

theorem execQuenchStage2_answers (h : s₀.Keeps s) : s₀.Answers (execQuenchStage2 s) := by
  unfold execQuenchStage2
  exact .next (.ite (.post (.upd h)) h)

theorem State.Keeps.flowSample {r : Reading} (h : s₀.Keeps s) : s₀.Keeps (s.flowSample r) := by
  unfold State.flowSample
  dsimp only
  split
  · exact .ite (.rowsNow (.review (.noteProfile (.noteSensor (.upd h))))) (.quenchBegin (.rowsNow (.review (.noteProfile (.noteSensor (.upd h))))))
  · exact .rowsNow (.review (.noteProfile (.noteSensor (.upd h))))

theorem execFlowSample_answers {f : Reading} (h : s₀.Keeps s) : s₀.Answers (execFlowSample f s) := by
  unfold execFlowSample
  exact .next (.ite (.flowSample h) h)

theorem State.Keeps.tempSample {i o : Reading} (h : s₀.Keeps s) : s₀.Keeps (s.tempSample i o) := by
  unfold State.tempSample
  exact .rowsNow (.review (.noteProfile (.noteSensor (.noteSensor (.upd h)))))

theorem execTempSample_answers {i o : Reading} (h : s₀.Keeps s) : s₀.Answers (execTempSample i o s) := by
  unfold execTempSample
  exact .next (.ite (.tempSample h) h)

theorem execPflowUpdate_answers (h : s₀.Keeps s) : s₀.Answers (execPflowUpdate s) := by
  unfold execPflowUpdate
  exact .next (.ite (.review (.upd h)) h)

theorem State.Keeps.retireDiode {n d : Nat} {dev : Int} (h : s₀.Keeps s) : s₀.Keeps (s.retireDiode n d dev) := by
  refine .burn (.postT (.upd (.updPair (fun hw => ?_) h)))
  split
  · exact hw
  · exact hw

theorem State.Keeps.noteDisagree {n band : Nat} {a b : Int} (h : s₀.Keeps s) : s₀.Keeps (s.noteDisagree n band a b) := by
  unfold State.noteDisagree
  exact .ite (.updPair id h) (.post (.updPair id (.updPair id h)))

theorem State.Keeps.noteLimit {n : Nat} {t : Int} (h : s₀.Keeps s) : s₀.Keeps (s.noteLimit n t) := by
  unfold State.noteLimit
  exact .ite (.updPair id h) (.post (.postReq (.updCourse (.updPair id h))))

theorem State.Keeps.setMeas {n : Nat} {t : Int} {band : Nat} (h : s₀.Keeps s) : s₀.Keeps (s.setMeas n t band) := by
  unfold State.setMeas
  exact .rowsNow (.noteLimit (.updPair id h))

theorem State.Keeps.takeReading {n : Nat} {a b : Reading} (h : s₀.Keeps s) : s₀.Keeps (s.takeReading n a b) := by
  unfold State.takeReading
  exact .updPair id h

theorem State.Keeps.diodeSample {n : Nat} {a b : Reading} (h : s₀.Keeps s) : s₀.Keeps (s.diodeSample n a b) := by
  unfold State.diodeSample
  refine .ite ?_ ?_
  · refine .ite ?_ ?_
    · exact .postReq (.takeReading (.ite (.retireDiode (.ite (.retireDiode h) h)) (.ite (.retireDiode h) h)))
    · exact .takeReading (.ite (.retireDiode (.ite (.retireDiode h) h)) (.ite (.retireDiode h) h))
  · refine .ite ?_ ?_
    · exact .setMeas (.updPair id (.takeReading (.ite (.retireDiode (.ite (.retireDiode h) h)) (.ite (.retireDiode h) h))))
    · refine .ite ?_ ?_
      · exact .setMeas (.updPair id (.takeReading (.ite (.retireDiode (.ite (.retireDiode h) h)) (.ite (.retireDiode h) h))))
      · exact .setMeas (.noteDisagree (.takeReading (.ite (.retireDiode (.ite (.retireDiode h) h)) (.ite (.retireDiode h) h))))

theorem execDiodeSample_answers {tile : Nat} {a b : Reading} (h : s₀.Keeps s) : s₀.Answers (execDiodeSample tile a b s) := by
  unfold execDiodeSample
  exact .next (.ite (.diodeSample h) h)

theorem execDisagreeDwell_answers {tile : Nat} (h : s₀.Keeps s) : s₀.Answers (execDisagreeDwell tile s) := by
  unfold execDisagreeDwell
  exact .next (.ite (.updPair id h) h)

theorem execJunctionDwell_answers {tile : Nat} (h : s₀.Keeps s) : s₀.Answers (execJunctionDwell tile s) := by
  unfold execJunctionDwell
  exact .next (.ite (.review (.noteProfile (.upd h))) h)

theorem execSensorTest_answers {tile : Nat} (h : s₀.Keeps s) : s₀.Answers (execSensorTest tile s) := by
  unfold execSensorTest
  exact .next (.ite (.updCourse h) h)

theorem State.Keeps.noteTransient {kind id : Nat} (h : s₀.Keeps s) : s₀.Keeps (s.noteTransient kind id).1 := by
  unfold State.noteTransient
  exact .updUnit (.upd h)

theorem execSensorTestDone_answers {tile : Nat} {diodes : Int × Int} {ref : Int} (h : s₀.Keeps s) :
    s₀.Answers (execSensorTestDone tile diodes ref s) := by
  unfold execSensorTestDone
  refine .next ?_
  dsimp only
  split
  · refine .ite ?_ ?_
    · refine .applyDue (.ite ?_ ?_)
      · refine .ite ?_ ?_
        · refine .postReq (.upd (.ite ?_ ?_))
          · exact .retireDiode (.ite (.retireDiode (.updPair id (.updCourse h))) (.updPair id (.updCourse h)))
          · exact .ite (.retireDiode (.updPair id (.updCourse h))) (.updPair id (.updCourse h))
        · refine .ite ?_ ?_
          · exact .retireDiode (.ite (.retireDiode (.updPair id (.updCourse h))) (.updPair id (.updCourse h)))
          · exact .ite (.retireDiode (.updPair id (.updCourse h))) (.updPair id (.updCourse h))
      · refine .noteTransient (.ite ?_ ?_)
        · refine .postReq (.upd (.ite ?_ ?_))
          · exact .retireDiode (.ite (.retireDiode (.updPair id (.updCourse h))) (.updPair id (.updCourse h)))
          · exact .ite (.retireDiode (.updPair id (.updCourse h))) (.updPair id (.updCourse h))
        · refine .ite ?_ ?_
          · exact .retireDiode (.ite (.retireDiode (.updPair id (.updCourse h))) (.updPair id (.updCourse h)))
          · exact .ite (.retireDiode (.updPair id (.updCourse h))) (.updPair id (.updCourse h))
    · exact h
  · exact h

theorem State.Keeps.modelTile {n : Nat} {raw : Int} (h : s₀.Keeps s) : s₀.Keeps (s.modelTile n raw) := by
  have hu : s₀.Keeps (s.updPair n fun _ => ((s.pair n).model raw s.now).1) := .updPair id h
  exact .ite (.upd hu) hu

theorem State.Keeps.throttleCourse {c : Nat} (h : s₀.Keeps s) : s₀.Keeps (s.throttleCourse c) := by
  unfold State.throttleCourse
  exact .ite (.ite (.upd (.updCourse h)) (.updCourse h)) (.postReq (.ite (.upd (.updCourse h)) (.updCourse h)))

theorem State.Keeps.rotateCourse {c : Nat} (h : s₀.Keeps s) : s₀.Keeps (s.rotateCourse c) := by
  unfold State.rotateCourse
  exact .ite h (.foldl (fun _ _ h1 => .ite (.postReq h1) h1) h)

theorem State.Keeps.plinthHeat (h : s₀.Keeps s) : s₀.Keeps s.plinthHeat := by
  unfold State.plinthHeat
  exact .upd h

theorem State.Keeps.readRefs {pier : Nat} {ref : List Int} (h : s₀.Keeps s) : s₀.Keeps (s.readRefs pier ref) := by
  unfold State.readRefs
  exact .foldl (fun _ _ h1 => .updCourse h1) h

theorem execThermalModelUpdate_answers {pier : Nat} {pred ref : List Int} (h : s₀.Keeps s) : s₀.Answers (execThermalModelUpdate pier pred ref s) := by
  unfold execThermalModelUpdate
  refine .next (.ite ?_ ?_)
  · exact h
  · refine .ite ?_ ?_
    · exact .plinthHeat (.foldl (fun _ _ h1 => .modelTile h1) h)
    · exact .ite (.foldl (fun _ _ h1 => .rotateCourse (.throttleCourse h1)) (.readRefs (.foldl (fun _ _ h1 => .modelTile h1) h))) h

theorem State.Keeps.throttlePier {pier : Nat} (h : s₀.Keeps s) : s₀.Keeps (s.throttlePier pier) := by
  unfold State.throttlePier
  exact .foldl (fun _ _ h1 => .ite (.updCourse h1) (.postReq (.updCourse h1))) h

theorem State.Keeps.stackTemp {n : Nat} {t : Int} (h : s₀.Keeps s) : s₀.Keeps (s.stackTemp n t) := by
  unfold State.stackTemp
  exact .ite (.throttlePier (.ite (.post (.updStack h)) (.updStack h))) (.ite (.post (.updStack h)) (.updStack h))

theorem State.Keeps.stackFail {n : Nat} (h : s₀.Keeps s) : s₀.Keeps (s.stackFail n) := by
  unfold State.stackFail
  exact .ite (.updStack h) (.throttlePier (.post (.updStack h)))

theorem execHbmTempSample_answers {n : Nat} {t : Reading} (h : s₀.Keeps s) : s₀.Answers (execHbmTempSample n t s) := by
  unfold execHbmTempSample
  refine .next ?_
  refine .ite ?_ ?_
  · split
    · exact .stackTemp h
    · exact .stackFail h
  · exact h

theorem State.Keeps.thermStatus {x1 : Req} (h : s₀.Keeps s) : s₀.Keeps (s.thermStatus x1).1 := by
  unfold State.thermStatus
  exact h

theorem execThermStatus_answers {m : Mb} (h : s₀.Keeps s) : s₀.Answers (execThermStatus m s) := by
  unfold execThermStatus
  exact .next (.mbRun (fun _ _ h1 => .thermStatus h1) h)

theorem State.Keeps.thermCourse {q : Req} (h : s₀.Keeps s) : s₀.Keeps (s.thermCourse q).1 := by
  unfold State.thermCourse
  dsimp only
  split
  · exact h
  · exact h

theorem execThermCourse_answers {m : Mb} (h : s₀.Keeps s) : s₀.Answers (execThermCourse m s) := by
  unfold execThermCourse
  exact .next (.mbRun (fun _ _ h1 => .thermCourse h1) h)

theorem State.Keeps.thermHbm {x1 : Req} (h : s₀.Keeps s) : s₀.Keeps (s.thermHbm x1).1 := by
  unfold State.thermHbm
  exact h

theorem execThermHbm_answers {m : Mb} (h : s₀.Keeps s) : s₀.Answers (execThermHbm m s) := by
  unfold execThermHbm
  exact .next (.mbRun (fun _ _ h1 => .thermHbm h1) h)

end Sys2Proof.Machine
end

section
/-! SUPPORT. `Keeps` of faults and tests (Machine/Faults.lean). -/

namespace Sys2Proof.Machine

variable {s₀ s : State}

theorem State.Keeps.beginTest {kind key : Nat} (h : s₀.Keeps s) : s₀.Keeps (s.beginTest kind key) := by
  unfold State.beginTest
  dsimp only
  split
  · split
    · exact .updPart (.updCourse (.updTile id (.updUnit h)))
    · exact .updCourse (.updTile id (.updUnit h))
  · exact .updCore (.updUnit h)
  · exact .updPort (.updUnit h)
  · exact .updUnit h

theorem execTargetedSelfTestStart_answers {kind key : Nat} (h : s₀.Keeps s) : s₀.Answers (execTargetedSelfTestStart kind key s) := by
  unfold execTargetedSelfTestStart
  exact .next (.ite (.beginTest h) h)

theorem State.Keeps.endTest {kind key : Nat} (h : s₀.Keeps s) : s₀.Keeps (s.endTest kind key) := by
  unfold State.endTest
  split
  · exact .updCourse h
  · exact .updCore h
  · exact h

theorem State.Keeps.testResult {kind id cls slice : Nat} {req : Bool} (h : s₀.Keeps s) : s₀.Keeps (s.testResult kind id cls slice req) := by
  unfold State.testResult
  exact .postT h

theorem State.Keeps.classLasting {kind id slice : Nat} {req : Bool} (h : s₀.Keeps s) : s₀.Keeps (s.classLasting kind id slice req) := by
  unfold State.classLasting
  exact .ite (.updUnit (.lasting (.testResult h))) (.lasting (.testResult h))

theorem State.Keeps.classify {kind id slice : Nat} {pass req : Bool} (h : s₀.Keeps s) : s₀.Keeps (s.classify kind id slice pass req) := by
  unfold State.classify
  exact .ite (.ite (.classLasting (.updUnit (.upd h))) (.testResult (.updUnit (.upd h)))) (.classLasting h)

theorem execTargetedSelfTestDone_answers {kind key : Nat} {pass : Bool} (h : s₀.Keeps s) : s₀.Answers (execTargetedSelfTestDone kind key pass s) := by
  unfold execTargetedSelfTestDone
  refine .next ?_
  refine .ite ?_ ?_
  · refine .ite ?_ ?_
    · refine .applyDue ?_
      split
      · exact .finishOp (.classify (.endTest (.updUnit h)))
      · exact .classify (.endTest (.updUnit h))
    · split
      · exact .finishOp (.classify (.endTest (.updUnit h)))
      · exact .classify (.endTest (.updUnit h))
  · exact h

theorem execBistSliceStart_answers {t : Nat} (h : s₀.Keeps s) : s₀.Answers (execBistSliceStart t s) := by
  unfold execBistSliceStart
  exact .next (.ite (.updCourse (.updTile id h)) h)

theorem Tile.slicePassed_sram (x : Tile) (now : Tick) : (x.slicePassed now).sram = x.sram := by
  unfold slicePassed
  dsimp only
  split
  · rfl
  · rfl

theorem execBistSliceDone_answers {t : Nat} {pass : Bool} (h : s₀.Keeps s) : s₀.Answers (execBistSliceDone t pass s) := by
  refine .next ?_
  split
  · refine .ite (.applyDue (.ite (.updTile (fun hw => ?_) (.updCourse h)) (.classLasting (.updCourse h)))) h
    rw [Tile.slicePassed_sram]
    exact hw
  · exact h

theorem execCoverageRotation_answers {t : Nat} (h : s₀.Keeps s) : s₀.Answers (execCoverageRotation t s) := by
  unfold execCoverageRotation
  refine .next ?_
  split
  · exact .ite (.postReq h) h
  · exact h

theorem execBistCoverageLapsed_answers {t : Nat} (h : s₀.Keeps s) : s₀.Answers (execBistCoverageLapsed t s) := by
  unfold execBistCoverageLapsed
  exact .next (.ite (.post (.updTile id h)) h)

theorem execCorrectedSummary_answers {kind id count : Nat} (h : s₀.Keeps s) : s₀.Answers (execCorrectedSummary kind id count s) := by
  unfold execCorrectedSummary
  exact .next (.ite (.postT (.upd (.updUnit h))) h)

theorem execErrorLogFlush_answers (h : s₀.Keeps s) : s₀.Answers (execErrorLogFlush s) := by
  unfold execErrorLogFlush
  exact .next (.ite (.upd h) h)

theorem execForemanWatchdog_answers {pier : Nat} {what : PierFault} (h : s₀.Keeps s) : s₀.Answers (execForemanWatchdog pier what s) := by
  unfold execForemanWatchdog
  exact .next (.ite (.emptyParts (.pierReset (.errorEvent h))) h)

theorem State.Keeps.pauseMason {cause us : Nat} (h : s₀.Keeps s) : s₀.Keeps (s.pauseMason cause us) := by
  unfold State.pauseMason
  exact .foldl (fun _ _ h1 => .ite h1 (.respond h1)) (.upd h)

theorem State.Keeps.resumeMason (h : s₀.Keeps s) : s₀.Keeps s.resumeMason := by
  unfold State.resumeMason
  exact .foldl (fun _ _ h1 => .tearDue h1) (.post (.upd h))

theorem execMasonLockstepError_answers (h : s₀.Keeps s) : s₀.Answers (execMasonLockstepError s) := by
  unfold execMasonLockstepError
  refine .next (.ite ?_ ?_)
  · refine .ite ?_ ?_
    · exact .wantSafeHold (.ite (.errorEvent (.upd h)) (.pauseMason (.errorEvent (.upd h))))
    · exact .ite (.errorEvent (.upd h)) (.pauseMason (.errorEvent (.upd h)))
  · exact h

theorem execMasonRestartDone_answers (h : s₀.Keeps s) : s₀.Answers (execMasonRestartDone s) := by
  unfold execMasonRestartDone
  exact .next (.ite (.resumeMason h) h)

theorem State.Keeps.freshPier {p : Nat} (h : s₀.Keeps s) : s₀.Keeps (s.freshPier p) := by
  unfold State.freshPier
  exact .foldl (fun _ _ h1 => .updCourse (.setThrottle h1)) (.foldl (fun _ _ h1 => .updTile id h1) h)

theorem State.Keeps.redoTests {p : Nat} (h : s₀.Keeps s) : s₀.Keeps (s.redoTests p) := by
  unfold State.redoTests
  exact .upd h

theorem State.Keeps.pierBack {p : Nat} (h : s₀.Keeps s) : s₀.Keeps (s.pierBack p) := by
  unfold State.pierBack
  refine .foldl (fun s1 x h1 => ?_) (.powerParts (.foldl (fun _ _ h1 => .wakeCourses h1) (.postT (.redoTests (.freshPier (.updPier h))))))
  split
  · exact .ite (.warmCourses h1) h1
  · exact h1

theorem State.Keeps.pierGone {p : Nat} (h : s₀.Keeps s) : s₀.Keeps (s.pierGone p) := by
  unfold State.pierGone
  exact .loseParts (.burn (.retiredEvent (.postT (.retireUnit (.updPier h)))))

theorem State.Keeps.endReset {p : Nat} {pass : Bool} (h : s₀.Keeps s) : s₀.Keeps (s.endReset p pass) := by
  unfold State.endReset
  exact .finishOps (.flushLoss (.ite (.pierBack h) (.pierGone h)))

theorem execPierResetComplete_answers {p : Nat} {pass : Bool} (h : s₀.Keeps s) : s₀.Answers (execPierResetComplete p pass s) := by
  unfold execPierResetComplete
  exact .next (.ite (.endReset h) h)

theorem State.Keeps.requestTest {kind id op : Nat} (h : s₀.Keeps s) : s₀.Keeps (s.requestTest kind id op) := by
  unfold State.requestTest
  exact .ite (.updUnit h) (.wantTest h)

theorem State.Keeps.fltTest {q : Req} (h : s₀.Keeps s) : s₀.Keeps (s.fltTest q).1 := by
  unfold State.fltTest
  dsimp only
  split
  · exact h
  · split
    · exact h
    · split
      · exact h
      · split
        · exact h
        · split
          · exact h
          · exact .ite (.requestTest (.accept h)) (.accept h)

theorem execFltTest_answers {m : Mb} (h : s₀.Keeps s) : s₀.Answers (execFltTest m s) := by
  unfold execFltTest
  exact .next (.mbRun (fun _ _ h1 => .fltTest h1) h)

theorem execCalibrationDone_answers {op : Nat} {ok : Bool} (h : s₀.Keeps s) : s₀.Answers (execCalibrationDone op ok s) := by
  unfold execCalibrationDone
  refine .next ?_
  split
  · exact .ite (.finishOp (.testResult h)) h
  · exact h

theorem State.Keeps.fltSummary {x1 : Req} (h : s₀.Keeps s) : s₀.Keeps (s.fltSummary x1).1 := by
  unfold State.fltSummary
  exact h

theorem execFltSummary_answers {m : Mb} (h : s₀.Keeps s) : s₀.Answers (execFltSummary m s) := by
  unfold execFltSummary
  exact .next (.mbRun (fun _ _ h1 => .fltSummary h1) h)

theorem State.Keeps.fltUnitQ {q : Req} (h : s₀.Keeps s) : s₀.Keeps (s.fltUnitQ q).1 := by
  unfold State.fltUnitQ
  dsimp only
  split
  · exact h
  · exact h

theorem execFltUnit_answers {m : Mb} (h : s₀.Keeps s) : s₀.Answers (execFltUnit m s) := by
  unfold execFltUnit
  exact .next (.mbRun (fun _ _ h1 => .fltUnitQ h1) h)

theorem State.Keeps.fltPierReset {q : Req} (h : s₀.Keeps s) : s₀.Keeps (s.fltPierReset q).1 := by
  unfold State.fltPierReset
  split
  · exact h
  · split
    · exact h
    · exact .pierReset (.upd h)

theorem execFltPierReset_answers {m : Mb} (h : s₀.Keeps s) : s₀.Answers (execFltPierReset m s) := by
  unfold execFltPierReset
  exact .next (.mbRun (fun _ _ h1 => .fltPierReset h1) h)

theorem State.Keeps.logInfo {x1 : Req} (h : s₀.Keeps s) : s₀.Keeps (s.logInfo x1).1 := by
  unfold State.logInfo
  exact h

theorem execLogInfo_answers {m : Mb} (h : s₀.Keeps s) : s₀.Answers (execLogInfo m s) := by
  unfold execLogInfo
  exact .next (.mbRun (fun _ _ h1 => .logInfo h1) h)

theorem State.Keeps.logRead {q : Req} (h : s₀.Keeps s) : s₀.Keeps (s.logRead q).1 := by
  unfold State.logRead
  dsimp only
  split
  · exact h
  · exact h

theorem execLogRead_answers {m : Mb} (h : s₀.Keeps s) : s₀.Answers (execLogRead m s) := by
  unfold execLogRead
  exact .next (.mbRun (fun _ _ h1 => .logRead h1) h)

end Sys2Proof.Machine
end

section
/-! SUPPORT. `Keeps` of tenants (Machine/Tenant.lean). -/

namespace Sys2Proof.Machine

variable {s₀ s : State}

theorem State.Keeps.unbindClosed {t : Nat} (h : s₀.Keeps s) : s₀.Keeps (s.unbindClosed t) := by
  unfold State.unbindClosed
  exact .upd h

theorem State.Keeps.tenantCreate {q : Req} (h : s₀.Keeps s) : s₀.Keeps (s.tenantCreate q).1 := by
  unfold State.tenantCreate
  dsimp only
  split
  · exact h
  · split
    · split
      · exact h
      · split
        · exact h
        · split
          · exact h
          · split
            · exact h
            · split
              · exact h
              · exact .post (.unbindClosed (.upd h))
    · split
      · exact h
      · split
        · exact h
        · split
          · exact h
          · split
            · exact h
            · split
              · exact h
              · exact .post (.unbindClosed (.upd h))

theorem execSecTenantCreate_answers {m : Mb} (h : s₀.Keeps s) : s₀.Answers (execSecTenantCreate m s) := by
  unfold execSecTenantCreate
  exact .next (.mbRun (fun _ _ h1 => .tenantCreate h1) h)

theorem State.Keeps.endIdleJobs {t : Nat} (h : s₀.Keeps s) : s₀.Keeps (s.endIdleJobs t) := by
  unfold State.endIdleJobs
  refine .foldl (fun s1 x h1 => ?_) h
  split
  · exact .abortJob (.updPart h1)
  · exact .releaseGroup (.gather (fun _ _ h2 => .abortReq h2) h1)

theorem State.Keeps.closeTenant {t : Nat} (h : s₀.Keeps s) : s₀.Keeps (s.closeTenant t) := by
  unfold State.closeTenant
  exact .endIdleJobs (.foldl (fun _ _ h1 => .finishOps (.updCtx h1)) (.endAllQueued (.requeuePics (.upd (.updTenant h)))))

theorem State.Keeps.tenantRemove {q : Req} (h : s₀.Keeps s) : s₀.Keeps (s.tenantRemove q).1 := by
  unfold State.tenantRemove
  dsimp only
  split
  · exact h
  · dsimp only
    exact .landDue (.closeTenant (.accept h))

theorem execSecTenantRemove_answers {m : Mb} (h : s₀.Keeps s) : s₀.Answers (execSecTenantRemove m s) := by
  unfold execSecTenantRemove
  exact .next (.mbRun (fun _ _ h1 => .tenantRemove h1) h)

theorem foldl_memClear_wf {β : Type} {g : β → Nat} {n : Nat} {l : List β} {m : Memory} (hm : Memory.wf m = true) :
    Memory.wf (l.foldl (fun m x => memClear m (g x) n) m) = true := by
  induction l generalizing m with
  | nil => exact hm
  | cons c l ih => exact ih (memClear_wf _ _ hm)

theorem State.Keeps.scrubbed {t : Nat} {r : Tenant} (h : s₀.Keeps s) : s₀.Keeps (s.scrubbed t r) := by
  unfold State.scrubbed
  exact .finishOps (.post (h.written rfl foldl_memClear_wf id id id))

theorem execTenantScrubDone_answers {t : Nat} (h : s₀.Keeps s) : s₀.Answers (execTenantScrubDone t s) := by
  unfold execTenantScrubDone
  refine .next ?_
  split
  · exact .ite (.scrubbed h) h
  · exact h

theorem State.Keeps.tenantQuery {q : Req} (h : s₀.Keeps s) : s₀.Keeps (s.tenantQuery q).1 := by
  unfold State.tenantQuery
  dsimp only
  split
  · exact h
  · exact h

theorem execSecTenantQuery_answers {m : Mb} (h : s₀.Keeps s) : s₀.Answers (execSecTenantQuery m s) := by
  unfold execSecTenantQuery
  exact .next (.mbRun (fun _ _ h1 => .tenantQuery h1) h)

theorem State.Keeps.secQuota {q : Req} (h : s₀.Keeps s) : s₀.Keeps (s.secQuota q).1 := by
  unfold State.secQuota
  dsimp only
  split
  · exact h
  · split
    · exact h
    · split
      · exact h
      · exact .updTenant h

theorem execSecQuota_answers {m : Mb} (h : s₀.Keeps s) : s₀.Answers (execSecQuota m s) := by
  unfold execSecQuota
  exact .next (.mbRun (fun _ _ h1 => .secQuota h1) h)

theorem State.Keeps.bumpEpoch {cause : Nat} (h : s₀.Keeps s) : s₀.Keeps (s.bumpEpoch cause) := by
  unfold State.bumpEpoch
  exact .post (.upd h)

theorem State.Keeps.retireKey {kind i : Nat} (h : s₀.Keeps s) : s₀.Keeps (s.retireKey kind i).1 := by
  unfold State.retireKey
  exact .bumpEpoch (.post (.burnCmd h))

theorem State.Keeps.keyRetire {q : Req} (h : s₀.Keeps s) : s₀.Keeps (s.keyRetire q).1 := by
  unfold State.keyRetire
  dsimp only
  split
  · exact h
  · split
    · split
      · exact h
      · split
        · exact h
        · exact .retireKey (.upd h)
    · split
      · exact h
      · exact .retireKey (.upd h)

theorem execSecKeyRetire_answers {m : Mb} (h : s₀.Keeps s) : s₀.Answers (execSecKeyRetire m s) := by
  unfold execSecKeyRetire
  exact .next (.mbRun (fun _ _ h1 => .keyRetire h1) h)

theorem State.Keeps.keyStatus {x1 : Req} (h : s₀.Keeps s) : s₀.Keeps (s.keyStatus x1).1 := by
  unfold State.keyStatus
  exact h

theorem execSecKeyStatus_answers {m : Mb} (h : s₀.Keeps s) : s₀.Answers (execSecKeyStatus m s) := by
  unfold execSecKeyStatus
  exact .next (.mbRun (fun _ _ h1 => .keyStatus h1) h)

theorem State.Keeps.lifecycle {q : Req} (h : s₀.Keeps s) : s₀.Keeps (s.lifecycle q).1 := by
  unfold State.lifecycle
  dsimp only
  split
  · exact h
  · split
    · exact h
    · exact .bumpEpoch (.post (.burnCmd (.upd h)))

theorem execSecLifecycle_answers {m : Mb} (h : s₀.Keeps s) : s₀.Answers (execSecLifecycle m s) := by
  unfold execSecLifecycle
  exact .next (.mbRun (fun _ _ h1 => .lifecycle h1) h)

theorem State.Keeps.fabricBind {q : Req} (h : s₀.Keeps s) : s₀.Keeps (s.fabricBind q).1 := by
  unfold State.fabricBind
  dsimp only
  split
  · exact h
  · split
    · exact h
    · exact .burnCmd (.upd h)

theorem execSecFabricBind_answers {m : Mb} (h : s₀.Keeps s) : s₀.Answers (execSecFabricBind m s) := by
  unfold execSecFabricBind
  exact .next (.mbRun (fun _ _ h1 => .fabricBind h1) h)

end Sys2Proof.Machine
end

section
/-! SUPPORT. `Keeps` of keys and attestation (Machine/Attest.lean). -/

namespace Sys2Proof.Machine

variable {s₀ s : State}

theorem State.Keeps.secAttest {q : Req} (h : s₀.Keeps s) : s₀.Keeps (s.secAttest q).1 := by
  unfold State.secAttest
  split
  · exact h
  · split
    · exact h
    · exact .accept h

theorem execSecAttest_answers {m : Mb} (h : s₀.Keeps s) : s₀.Answers (execSecAttest m s) := by
  unfold execSecAttest
  exact .next (.mbRun (fun _ _ h1 => .secAttest h1) h)

theorem execAttestReportLanded_answers {op : Nat} (h : s₀.Keeps s) : s₀.Answers (execAttestReportLanded op s) := by
  unfold execAttestReportLanded
  refine .next ?_
  split
  · exact .ite (.finishOp (.hostWriteN h)) h
  · exact h

theorem State.Keeps.spdmReply {req resp : List Byte} (h : s₀.Keeps s) : s₀.Keeps (s.spdmReply req resp) := by
  unfold State.spdmReply
  exact .upd h

theorem State.Keeps.spdmError {code : Nat} (h : s₀.Keeps s) : s₀.Keeps (s.spdmError code) := by
  unfold State.spdmError
  exact .upd h

theorem State.Keeps.spdmRun {need : Nat} {body : State → State} (hb : ∀ s, s₀.Keeps s → s₀.Keeps (body s)) (h : s₀.Keeps s) :
    s₀.Keeps (s.spdmRun need body) := by
  unfold State.spdmRun
  exact .ite h (.ite (.spdmError h) (.ite (.spdmError h) (hb _ h)))

theorem execGetVersion_answers {r : SpdmReq} (h : s₀.Keeps s) : s₀.Answers (execGetVersion r s) := by
  unfold execGetVersion
  exact .next (.spdmRun (fun _ h1 => .spdmReply (.upd h1)) h)

theorem execGetCapabilities_answers {r : SpdmReq} (h : s₀.Keeps s) : s₀.Answers (execGetCapabilities r s) := by
  unfold execGetCapabilities
  exact .next (.spdmRun (fun _ h1 => .spdmReply (.upd h1)) h)

theorem execNegotiateAlgorithms_answers {r : SpdmReq} (h : s₀.Keeps s) : s₀.Answers (execNegotiateAlgorithms r s) := by
  unfold execNegotiateAlgorithms
  exact .next (.spdmRun (fun _ h1 => .spdmReply (.upd h1)) h)

theorem execGetDigests_answers {r : SpdmReq} (h : s₀.Keeps s) : s₀.Answers (execGetDigests r s) := by
  unfold execGetDigests
  exact .next (.spdmRun (fun _ h1 => .spdmReply h1) h)

theorem execGetCertificate_answers {r : SpdmReq} (h : s₀.Keeps s) : s₀.Answers (execGetCertificate r s) := by
  unfold execGetCertificate
  exact .next (.spdmRun (fun _ h1 => .ite (.spdmError h1) (.spdmReply h1)) h)

theorem State.Keeps.nonce (h : s₀.Keeps s) : s₀.Keeps s.nonce.2 := by
  unfold State.nonce
  exact .upd (.upd (.upd (.upd h)))

theorem State.Keeps.spdmSigned {req head : List Byte} (h : s₀.Keeps s) : s₀.Keeps (s.spdmSigned req head) := by
  unfold State.spdmSigned
  exact .spdmReply h

theorem execChallenge_answers {r : SpdmReq} (h : s₀.Keeps s) : s₀.Answers (execChallenge r s) := by
  unfold execChallenge
  exact .next (.spdmRun (fun _ h1 => .ite (.spdmError h1) (.spdmSigned (.upd (.upd (.upd (.upd h1)))))) h)

theorem execGetMeasurements_answers {r : SpdmReq} (h : s₀.Keeps s) : s₀.Answers (execGetMeasurements r s) := by
  unfold execGetMeasurements
  exact .next (.spdmRun (fun _ h1 => .ite (.spdmError h1) (.ite (.spdmError (.upd h1)) (.ite (.upd (.spdmSigned (.upd (.upd (.upd (.upd h1)))))) (.spdmReply (.upd (.upd (.upd (.upd (.upd h1))))))))) h)

theorem execSpdmUnsupportedRequest_answers {code : Nat} (h : s₀.Keeps s) : s₀.Answers (execSpdmUnsupportedRequest code s) := by
  unfold execSpdmUnsupportedRequest
  exact .next (.ite h (.spdmRun (fun _ h1 => .spdmError h1) h))

end Sys2Proof.Machine
end

section
/-! SUPPORT. `Keeps` of the information commands (Machine/Info.lean). -/

namespace Sys2Proof.Machine

variable {s₀ s : State}

theorem State.Keeps.infoIdentity {q : Req} (h : s₀.Keeps s) : s₀.Keeps (s.infoIdentity q).1 := by
  unfold State.infoIdentity
  exact h

theorem execInfoIdentity_answers {m : Mb} (h : s₀.Keeps s) : s₀.Answers (execInfoIdentity m s) := by
  unfold execInfoIdentity
  exact .next (.mbRun (fun _ _ h1 => .infoIdentity h1) h)

theorem State.Keeps.infoFirmware {x1 : Req} (h : s₀.Keeps s) : s₀.Keeps (s.infoFirmware x1).1 := by
  unfold State.infoFirmware
  exact h

theorem execInfoFirmware_answers {m : Mb} (h : s₀.Keeps s) : s₀.Answers (execInfoFirmware m s) := by
  unfold execInfoFirmware
  exact .next (.mbRun (fun _ _ h1 => .infoFirmware h1) h)

theorem State.Keeps.infoCapacity {q : Req} (h : s₀.Keeps s) : s₀.Keeps (s.infoCapacity q).1 := by
  unfold State.infoCapacity
  exact h

theorem execInfoCapacity_answers {m : Mb} (h : s₀.Keeps s) : s₀.Answers (execInfoCapacity m s) := by
  unfold execInfoCapacity
  exact .next (.mbRun (fun _ _ h1 => .infoCapacity h1) h)

theorem State.Keeps.infoStatus {x1 : Req} (h : s₀.Keeps s) : s₀.Keeps (s.infoStatus x1).1 := by
  unfold State.infoStatus
  exact h

theorem execInfoStatus_answers {m : Mb} (h : s₀.Keeps s) : s₀.Answers (execInfoStatus m s) := by
  unfold execInfoStatus
  exact .next (.mbRun (fun _ _ h1 => .infoStatus h1) h)

theorem State.Keeps.infoTime {x1 : Req} (h : s₀.Keeps s) : s₀.Keeps (s.infoTime x1).1 := by
  unfold State.infoTime
  exact h

theorem execInfoTime_answers {m : Mb} (h : s₀.Keeps s) : s₀.Answers (execInfoTime m s) := by
  unfold execInfoTime
  exact .next (.mbRun (fun _ _ h1 => .infoTime h1) h)

theorem State.Keeps.modeQuery {x1 : Req} (h : s₀.Keeps s) : s₀.Keeps (s.modeQuery x1).1 := by
  unfold State.modeQuery
  exact h

theorem execModeQuery_answers {m : Mb} (h : s₀.Keeps s) : s₀.Answers (execModeQuery m s) := by
  unfold execModeQuery
  exact .next (.mbRun (fun _ _ h1 => .modeQuery h1) h)

theorem State.Keeps.modeSet {q : Req} (h : s₀.Keeps s) : s₀.Keeps (s.modeSet q).1 := by
  unfold State.modeSet
  dsimp only
  split
  · exact h
  · split
    · exact h
    · split
      · exact h
      · exact .upd h

theorem execModeSet_answers {m : Mb} (h : s₀.Keeps s) : s₀.Answers (execModeSet m s) := by
  unfold execModeSet
  exact .next (.mbRun (fun _ _ h1 => .modeSet h1) h)

theorem State.Keeps.compatLock {q : Req} (h : s₀.Keeps s) : s₀.Keeps (s.compatLock q).1 := by
  unfold State.compatLock
  dsimp only
  split
  · exact h
  · split
    · exact h
    · split
      · exact h
      · split
        · exact h
        · exact .post (.burnCmd (.upd h))

theorem execModeCompatLock_answers {m : Mb} (h : s₀.Keeps s) : s₀.Answers (execModeCompatLock m s) := by
  unfold execModeCompatLock
  exact .next (.mbRun (fun _ _ h1 => .compatLock h1) h)

end Sys2Proof.Machine
end

section
/-! SUPPORT. `Keeps` of the links (Machine/Link.lean). -/

namespace Sys2Proof.Machine

variable {s₀ s : State}

theorem State.Keeps.floodPort {p : Nat} (h : s₀.Keeps s) : s₀.Keeps (s.floodPort p) := by
  unfold State.floodPort
  exact .foldl (fun _ _ h1 => .sendRouted h1) h

theorem State.Keeps.setPort {p st : Nat} (h : s₀.Keeps s) : s₀.Keeps (s.setPort p st) := by
  unfold State.setPort
  exact .ite h (.floodPort (.updPort h))

theorem State.Keeps.portDown {p cause st : Nat} {fin : Bool} (h : s₀.Keeps s) : s₀.Keeps (s.portDown p cause st fin) := by
  unfold State.portDown
  exact .ite (.finishOps (.setPort (.ite (.post (.updPort h)) (.updPort h)))) (.setPort (.ite (.post (.updPort h)) (.updPort h)))

theorem State.Keeps.setWidth {p : Nat} (h : s₀.Keeps s) : s₀.Keeps (s.setWidth p) := by
  unfold State.setWidth
  refine .ite ?_ ?_
  · exact h
  · split
    · exact .portDown h
    · exact .ite h (.setPort h)

theorem State.Keeps.sendHello {p : Nat} (h : s₀.Keeps s) : s₀.Keeps (s.sendHello p) := by
  unfold State.sendHello
  exact .sendLocal (.updPort h)

theorem State.Keeps.setWave {p : Nat} (h : s₀.Keeps s) : s₀.Keeps (s.setWave p) := by
  unfold State.setWave
  exact .updPort h

theorem State.Keeps.bringUp {p : Nat} (h : s₀.Keeps s) : s₀.Keeps (s.bringUp p) := by
  unfold State.bringUp
  exact .sendHello (.setPort (.setWave h))

theorem execPortLightDetect_answers {p : Nat} (h : s₀.Keeps s) : s₀.Answers (execPortLightDetect p s) := by
  unfold execPortLightDetect
  exact .next (.ite (.bringUp h) h)

theorem execLightLoss_answers {p : Nat} (h : s₀.Keeps s) : s₀.Answers (execLightLoss p s) := by
  unfold execLightLoss
  exact .next (.ite (.portDown h) h)

theorem State.Keeps.portUp {p : Nat} (h : s₀.Keeps s) : s₀.Keeps (s.portUp p) := by
  unfold State.portUp
  dsimp only
  split
  · exact .setPort h
  · exact .finishOps (.post (.setPort (.updPort h)))

theorem execHello_answers {p neighbour nport : Nat} {keyOk : Bool} (h : s₀.Keeps s) : s₀.Answers (execHello p neighbour nport keyOk s) := by
  unfold execHello
  refine .next (.ite ?_ ?_)
  · exact .ite (.ite (.updPort h) (.post (.setPort (.updPort h)))) (.ite (.ite (.updPort h) (.post (.setPort (.updPort h)))) (.portUp (.updPort h)))
  · exact h

theorem execHelloRetry_answers {p : Nat} (h : s₀.Keeps s) : s₀.Answers (execHelloRetry p s) := by
  unfold execHelloRetry
  exact .next (.ite (.sendHello h) h)

theorem State.Keeps.remap {p l : Nat} (h : s₀.Keeps s) : s₀.Keeps (s.remap p l) := by
  unfold State.remap
  exact .post (.burn (.updPort h))

theorem State.Keeps.giveSpare {p : Nat} (h : s₀.Keeps s) : s₀.Keeps (s.giveSpare p) := by
  unfold State.giveSpare
  refine .ite ?_ ?_
  · split
    · exact .remap h
    · exact h
  · exact h

theorem State.Keeps.laneLasting {p l : Nat} (h : s₀.Keeps s) : s₀.Keeps (s.laneLasting p l) := by
  unfold State.laneLasting
  exact .giveSpare (.updPort (.upd h))

theorem State.Keeps.nextLane {p : Nat} (h : s₀.Keeps s) : s₀.Keeps (s.nextLane p) := by
  unfold State.nextLane
  refine .ite ?_ ?_
  · exact .setWidth h
  · split
    · exact .setWidth (.updPort h)
    · exact .setWidth h

theorem State.Keeps.wantLane {p l : Nat} (h : s₀.Keeps s) : s₀.Keeps (s.wantLane p l) := by
  unfold State.wantLane
  exact .nextLane (.ite (.laneLasting (.testResult h)) (.updUnit h))

theorem execLaneBerCheck_answers {p l : Nat} {high : Bool} (h : s₀.Keeps s) : s₀.Answers (execLaneBerCheck p l high s) := by
  unfold execLaneBerCheck
  exact .next (.ite (.wantLane h) h)

theorem State.Keeps.lanePassed {p l : Nat} (h : s₀.Keeps s) : s₀.Keeps (s.lanePassed p l) := by
  unfold State.lanePassed
  refine .ite ?_ ?_
  · exact h
  · refine .ite ?_ ?_
    · exact .giveSpare (.updPort h)
    · split
      · exact .ite h (.remap (.updPort h))
      · exact h

theorem State.Keeps.wholeTest {p l : Nat} (h : s₀.Keeps s) : s₀.Keeps (s.wholeTest p l) := by
  unfold State.wholeTest
  refine .ite ?_ ?_
  · exact h
  · refine .ite ?_ ?_
    · exact .updPort h
    · dsimp only
      split
      · exact .finishOp (.updUnit h)
      · exact .updUnit h

theorem execLaneTestDone_answers {p l errors : Nat} (h : s₀.Keeps s) : s₀.Answers (execLaneTestDone p l errors s) := by
  have hn : ∀ b : Bool, s₀.Keeps (if b then
        ((s.updPort p fun f => { f with testing := none }).updUnit 5 (laneKey p l) fun u => { u with pending := none }).noteTransient 5 (laneKey p l)
      else ((s.updPort p fun f => { f with testing := none }).updUnit 5 (laneKey p l) fun u => { u with pending := none }, false)).1 := by
    intro b
    split
    · exact .noteTransient (.updUnit (.updPort h))
    · exact .updUnit (.updPort h)
  exact .next (.ite (.nextLane (.wholeTest (.ite (.lanePassed (.testResult (hn _))) (.laneLasting (.testResult (hn _)))))) h)

theorem State.Keeps.rejectFrame {p lane codewords : Nat} (h : s₀.Keeps s) : s₀.Keeps (s.rejectFrame p lane codewords) := by
  unfold State.rejectFrame
  exact .wantLane (.updPort h)

theorem State.Keeps.acceptFrame {p linkSeq credits : Nat} {pkt : Packet} (h : s₀.Keeps s) : s₀.Keeps (s.acceptFrame p linkSeq credits pkt) := by
  unfold State.acceptFrame
  exact .ite (.pumpPort (.updPort h)) h

theorem execLinkFrameReceive_answers {p : Nat} {word : LinkWord} {got : FrameGot} {fec : List Nat} {pkt : Packet} (h : s₀.Keeps s) :
    s₀.Answers (execLinkFrameReceive p word got fec pkt s) := by
  unfold execLinkFrameReceive
  refine .next ?_
  refine .ite ?_ ?_
  · exact h
  · dsimp only
    split
    · exact .rejectFrame (.updPort h)
    · exact .rejectFrame (.updPort h)
    · exact .acceptFrame (.updPort h)

theorem State.Keeps.retrain {p : Nat} (h : s₀.Keeps s) : s₀.Keeps (s.retrain p) := by
  unfold State.retrain
  exact .setPort (.updPort h)

theorem State.Keeps.resend {p : Nat} (h : s₀.Keeps s) : s₀.Keeps (s.resend p) := by
  unfold State.resend
  exact .upd h

theorem execLinkNak_answers {p linkSeq : Nat} (h : s₀.Keeps s) : s₀.Answers (execLinkNak p linkSeq s) := by
  unfold execLinkNak
  exact .next (.ite h (.ite (.updPort h) (.ite (.retrain (.resend (.updPort h))) (.resend (.updPort h)))))

theorem execLinkRetrainDone_answers {p : Nat} {ok : Bool} (h : s₀.Keeps s) : s₀.Answers (execLinkRetrainDone p ok s) := by
  unfold execLinkRetrainDone
  refine .next ?_
  refine .ite ?_ ?_
  · refine .ite ?_ ?_
    · dsimp only
      split
      · exact .portDown (.updPort h)
      · exact .finishOps (.resend (.setPort (.updPort h)))
    · exact .portDown h
  · exact h

theorem State.Keeps.widthsInRow {p : Nat} (h : s₀.Keeps s) : s₀.Keeps (s.widthsInRow p) := by
  unfold State.widthsInRow
  exact .foldl (fun _ _ h1 => .ite h1 (.setWidth h1)) h

theorem State.Keeps.startClean {p : Nat} (h : s₀.Keeps s) : s₀.Keeps (s.startClean p) := by
  unfold State.startClean
  exact .widthsInRow (.portDown (.updPort h))

theorem State.Keeps.postInspect {p l : Nat} (h : s₀.Keeps s) : s₀.Keeps (s.postInspect p l) := by
  unfold State.postInspect
  exact .post (.updPort h)

theorem State.Keeps.postIneffective {p : Nat} (h : s₀.Keeps s) : s₀.Keeps (s.postIneffective p) := by
  unfold State.postIneffective
  exact .post (.updPort h)

theorem State.Keeps.cleanDue {p : Nat} (h : s₀.Keeps s) : s₀.Keeps (s.cleanDue p) := by
  unfold State.cleanDue
  exact .ite (.startClean h) (.ite (.postIneffective h) h)

theorem State.Keeps.enterInspect {p l : Nat} (h : s₀.Keeps s) : s₀.Keeps (s.enterInspect p l) := by
  unfold State.enterInspect
  exact .cleanDue (.postInspect (.setPort (.updPort h)))

theorem execInspectEntry_answers {p l : Nat} {omaDelta brDelta : Int} {ber : Nat × Nat} (h : s₀.Keeps s) :
    s₀.Answers (execInspectEntry p l omaDelta brDelta ber s) := by
  unfold execInspectEntry
  refine .next ?_
  refine .ite ?_ ?_
  · exact h
  · refine .ite ?_ ?_
    · exact .updPort h
    · refine .ite ?_ ?_
      · split
        · exact .updPort (.updPort h)
        · exact .ite (.enterInspect (.updPort h)) (.updPort h)
      · exact .updPort (.updPort h)

theorem State.Keeps.cleanEnd {p result : Nat} (h : s₀.Keeps s) : s₀.Keeps (s.cleanEnd p result) := by
  unfold State.cleanEnd
  exact .widthsInRow (.bringUp (.post (.updPort h)))

theorem execCartridgePoll_answers {p : Nat} {st : CartStatus} (h : s₀.Keeps s) : s₀.Answers (execCartridgePoll p st s) := by
  unfold execCartridgePoll
  refine .next ?_
  refine .ite ?_ ?_
  · dsimp only
    split
    · exact .ite (.updPort h) (.ite (.cleanEnd (.updPort h)) (.ite (.cleanEnd (.updPort h)) (.updPort h)))
    · exact .ite (.cleanEnd (.updPort h)) (.updPort h)
  · exact h

theorem execCartridgeTimeout_answers {p : Nat} (h : s₀.Keeps s) : s₀.Answers (execCartridgeTimeout p s) := by
  unfold execCartridgeTimeout
  exact .next (.ite (.cleanEnd h) h)

theorem State.Keeps.newBaseline {p : Nat} (h : s₀.Keeps s) : s₀.Keeps (s.newBaseline p) := by
  unfold State.newBaseline
  exact .foldl (fun _ _ h1 => .ite (.post h1) h1) (.updPort h)

theorem State.Keeps.rebaseline {p : Nat} (h : s₀.Keeps s) : s₀.Keeps (s.rebaseline p) := by
  unfold State.rebaseline
  exact .nextLane (.foldl (fun _ _ h1 => .updUnit h1) (.newBaseline h))

theorem execRebaseline_answers {p : Nat} {lanes : List LaneMeas} (h : s₀.Keeps s) : s₀.Answers (execRebaseline p lanes s) := by
  unfold execRebaseline
  exact .next (.ite (.rebaseline (.updPort h)) h)

theorem execCleanReqInterval_answers {p : Nat} (h : s₀.Keeps s) : s₀.Answers (execCleanReqInterval p s) := by
  unfold execCleanReqInterval
  exact .next (.ite (.ite (.cleanDue (.postInspect h)) (.postIneffective h)) h)

end Sys2Proof.Machine
end

section
/-! SUPPORT. `Keeps` of the Setters (Machine/Sett.lean). -/

namespace Sys2Proof.Machine

variable {s₀ s : State}

theorem State.Keeps.setImport {n : Nat} {i : Import} (h : s₀.Keeps s) : s₀.Keeps (s.setImport n i) := by
  unfold State.setImport
  exact .upd h

theorem State.Keeps.drainCount {port : Nat} {p : Packet} (h : s₀.Keeps s) : s₀.Keeps (s.drainCount port p) := by
  unfold State.drainCount
  dsimp only
  split
  · exact .setImport (.updPort h)
  · exact .updPort h

theorem State.Keeps.answerTime {port : Nat} {p : Packet} (h : s₀.Keeps s) : s₀.Keeps (s.answerTime port p) := by
  unfold State.answerTime
  exact .ite (.sendLocal h) h

theorem State.Keeps.tagFail {port : Nat} {p : Packet} (h : s₀.Keeps s) : s₀.Keeps (s.tagFail port p) := by
  unfold State.tagFail
  exact .nextLane (.foldl (fun _ _ h1 => .updUnit h1) (.post (.updPort h)))

theorem State.Keeps.deliver {port : Nat} {p : Packet} (h : s₀.Keeps s) : s₀.Keeps (s.deliver port p) := by
  unfold State.deliver
  exact .ite (.tagFail h) (.ite (.drainCount h) (.ite (.answerTime h) (.ite h (.upd h))))

theorem State.Keeps.forward {port : Nat} {p : Packet} (h : s₀.Keeps s) : s₀.Keeps (s.forward port p) := by
  unfold State.forward
  exact .ite (.drainCount h) (.ite (.updPort h) (.sendOn h))

theorem execSettPacketReceive_answers {port : Nat} (h : s₀.Keeps s) : s₀.Answers (execSettPacketReceive port s) := by
  unfold execSettPacketReceive
  refine .next ?_
  dsimp only
  split
  · exact h
  · exact .ite (.ite (.deliver (.updPort h)) (.forward (.updPort h))) h

theorem State.Keeps.take {p : Packet} {types : Nat → Bool} {port : Nat} {t : State} (h : s₀.Keeps s) (e : s.take p types = some (port, t)) :
    s₀.Keeps t := by
  unfold State.take at e
  split at e
  · split at e
    · cases e
      exact .upd h
    · cases e
  · cases e

theorem State.Keeps.landLost {i : Import} {seq : Nat} (h : s₀.Keeps s) : s₀.Keeps (s.landLost i seq) := by
  unfold State.landLost
  exact .hostWriteN h

theorem State.Keeps.slide {i : Import} {n : Nat} (h : s₀.Keeps s) : s₀.Keeps (s.slide i n).1 := by
  unfold State.slide
  exact .foldl (fun _ _ h1 => .landLost h1) h

theorem State.Keeps.landEntry {i : Import} {p : Packet} (h : s₀.Keeps s) : s₀.Keeps (s.landEntry i p) := by
  unfold State.landEntry
  exact .hostWriteN h

theorem State.Keeps.slideFor {i : Import} {seq : Nat} (h : s₀.Keeps s) : s₀.Keeps (s.slideFor i seq).1 := by
  unfold State.slideFor
  split
  · exact .slide h
  · exact h

theorem State.Keeps.landIn {n : Nat} {i : Import} {p : Packet} (h : s₀.Keeps s) : s₀.Keeps (s.landIn n i p) := by
  unfold State.landIn
  exact .setImport (.landEntry (.slideFor h))

theorem State.Keeps.landPacket {n : Nat} {i : Import} {p : Packet} (h : s₀.Keeps s) : s₀.Keeps (s.landPacket n i p) := by
  unfold State.landPacket
  exact .ite (.setImport h) (.ite (.setImport h) (.landIn h))

theorem State.Keeps.landResult {port : Nat} {p : Packet} (h : s₀.Keeps s) : s₀.Keeps (s.landResult port p) := by
  unfold State.landResult
  split
  · exact .ite (.drainCount h) (.ite (.setImport h) (.landPacket h))
  · exact .ite (.drainCount h) h

theorem State.Keeps.landFrom {p : Packet} {type : Nat} (h : s₀.Keeps s) : s₀.Keeps (s.landFrom p type) := by
  unfold State.landFrom
  refine .ite ?_ ?_
  · exact h
  · split
    · exact .landResult (.take h ‹_›)
    · exact h

theorem execRecord_answers {p : Packet} (h : s₀.Keeps s) : s₀.Answers (execRecord p s) := by
  unfold execRecord
  exact .next (.landFrom h)

theorem execData_answers {p : Packet} (h : s₀.Keeps s) : s₀.Answers (execData p s) := by
  unfold execData
  exact .next (.landFrom h)

theorem execLandingGapTimeout_answers {n : Nat} (h : s₀.Keeps s) : s₀.Answers (execLandingGapTimeout n s) := by
  unfold execLandingGapTimeout
  refine .next ?_
  split
  · exact h
  · exact .ite (.setImport (.slide h)) h

theorem State.Keeps.drainIn {port id : Nat} {p : Packet} (h : s₀.Keeps s) : s₀.Keeps (s.drainIn port id p) := by
  unfold State.drainIn
  exact .sendRouted (.foldl (fun _ _ h1 => .sendOn h1) (.upd h))

theorem execDrain_answers {p : Packet} {port : Nat} (h : s₀.Keeps s) : s₀.Answers (execDrain p port s) := by
  unfold execDrain
  refine .next ?_
  split
  · exact .ite h (.ite (.take h ‹_›) (.drainIn (.take h ‹_›)))
  · exact h

theorem State.Keeps.ackDrain {src id : Nat} (h : s₀.Keeps s) : s₀.Keeps (s.ackDrain src id) := by
  unfold State.ackDrain
  dsimp only
  split
  · exact h
  · exact .ite (.drainOver h) (.upd h)

theorem execDrainAck_answers {p : Packet} (h : s₀.Keeps s) : s₀.Answers (execDrainAck p s) := by
  unfold execDrainAck
  refine .next ?_
  split
  · exact .ackDrain (.take h ‹_›)
  · exact h

theorem execDrainTimeout_answers (h : s₀.Keeps s) : s₀.Answers (execDrainTimeout s) := by
  unfold execDrainTimeout
  exact .next (.ite (.foldl (fun _ _ h1 => .drainOver (.post h1)) h) h)

theorem State.Keeps.notePort {p : Packet} (h : s₀.Keeps s) : s₀.Keeps (s.notePort p) := by
  unfold State.notePort
  exact .upd h

theorem execPortState_answers {p : Packet} (h : s₀.Keeps s) : s₀.Answers (execPortState p s) := by
  unfold execPortState
  refine .next ?_
  split
  · exact .notePort (.take h ‹_›)
  · exact h

theorem execPortStateFlood_answers (h : s₀.Keeps s) : s₀.Answers (execPortStateFlood s) := by
  unfold execPortStateFlood
  exact .next (.ite (.foldl (fun _ _ h1 => .floodPort h1) (.upd h)) h)

theorem State.Keeps.setTimeState {st : Nat} (h : s₀.Keeps s) : s₀.Keeps (s.setTimeState st) := by
  unfold State.setTimeState
  exact .ite h (.post (.upd h))

theorem execTime_answers {port : Nat} {t1 t2 t3 t4 : Int} (h : s₀.Keeps s) : s₀.Answers (execTime port t1 t2 t3 t4 s) := by
  unfold execTime
  exact .next (.ite (.setTimeState (.ite (.upd (.upd (.upd h))) (.post (.upd (.upd (.upd h)))))) h)

theorem execTimeExchange_answers (h : s₀.Keeps s) : s₀.Answers (execTimeExchange s) := by
  unfold execTimeExchange
  refine .next ?_
  dsimp only
  split
  · exact .ite (.sendLocal (.upd h)) h
  · exact h

theorem execTimeParentLoss_answers (h : s₀.Keeps s) : s₀.Answers (execTimeParentLoss s) := by
  unfold execTimeParentLoss
  exact .next (.ite (.setTimeState (.upd h)) h)

theorem execHoldoverLimit_answers (h : s₀.Keeps s) : s₀.Answers (execHoldoverLimit s) := by
  unfold execHoldoverLimit
  exact .next (.ite (.upd h) h)

end Sys2Proof.Machine
end

section
/-! SUPPORT. `Keeps` of the fabric commands (Machine/FabCmd.lean). -/

namespace Sys2Proof.Machine

variable {s₀ s : State}

theorem State.Keeps.fabPort {q : Req} (h : s₀.Keeps s) : s₀.Keeps (s.fabPort q).1 := by
  unfold State.fabPort
  dsimp only
  split
  · exact h
  · exact h

theorem execFabPort_answers {m : Mb} (h : s₀.Keeps s) : s₀.Answers (execFabPort m s) := by
  unfold execFabPort
  exact .next (.mbRun (fun _ _ h1 => .fabPort h1) h)

theorem State.Keeps.fabCounters {q : Req} (h : s₀.Keeps s) : s₀.Keeps (s.fabCounters q).1 := by
  unfold State.fabCounters
  dsimp only
  split
  · exact h
  · exact .ite (.updPort h) h

theorem execFabCounters_answers {m : Mb} (h : s₀.Keeps s) : s₀.Answers (execFabCounters m s) := by
  unfold execFabCounters
  exact .next (.mbRun (fun _ _ h1 => .fabCounters h1) h)

theorem State.Keeps.portOpDown {q : Req} {k : OpKind} (h : s₀.Keeps s) : s₀.Keeps (s.portOpDown q k).1 := by
  unfold State.portOpDown
  exact .finishOp (.upd h)

theorem State.Keeps.portRetrain {q : Req} {p : Nat} (h : s₀.Keeps s) : s₀.Keeps (s.portRetrain q p).1 := by
  unfold State.portRetrain
  split
  · exact .retrain (.upd h)
  · exact .portOpDown h

theorem State.Keeps.portClean {q : Req} {p : Nat} (h : s₀.Keeps s) : s₀.Keeps (s.portClean q p).1 := by
  unfold State.portClean
  split
  · exact h
  · split
    · exact .portOpDown h
    · exact .startClean (.upd h)

theorem State.Keeps.fabPortCtrl {q : Req} (h : s₀.Keeps s) : s₀.Keeps (s.fabPortCtrl q).1 := by
  unfold State.fabPortCtrl
  dsimp only
  split
  · exact h
  · split
    · exact h
    · split
      · exact .ite (.setPort h) h
      · exact .ite h (.portDown h)
      · exact .portRetrain h
      · exact .portClean h
      · split
        · exact .newBaseline h
        · exact h

theorem execFabPortCtrl_answers {m : Mb} (h : s₀.Keeps s) : s₀.Answers (execFabPortCtrl m s) := by
  unfold execFabPortCtrl
  exact .next (.mbRun (fun _ _ h1 => .fabPortCtrl h1) h)

theorem State.Keeps.fabExport {q : Req} (h : s₀.Keeps s) : s₀.Keeps (s.fabExport q).1 := by
  unfold State.fabExport
  dsimp only
  split
  · exact h
  · split
    · exact h
    · split
      · exact h
      · split
        · exact h
        · split
          · exact h
          · split
            · exact h
            · exact .updCtx (.upd h)

theorem execFabExport_answers {m : Mb} (h : s₀.Keeps s) : s₀.Answers (execFabExport m s) := by
  unfold execFabExport
  exact .next (.mbRun (fun _ _ h1 => .fabExport h1) h)

theorem State.Keeps.fabImport {q : Req} (h : s₀.Keeps s) : s₀.Keeps (s.fabImport q).1 := by
  unfold State.fabImport
  dsimp only
  split
  · exact h
  · split
    · exact h
    · split
      · exact h
      · split
        · exact h
        · exact .upd h

theorem execFabImport_answers {m : Mb} (h : s₀.Keeps s) : s₀.Answers (execFabImport m s) := by
  unfold execFabImport
  exact .next (.mbRun (fun _ _ h1 => .fabImport h1) h)

theorem State.Keeps.fabUnbind {q : Req} (h : s₀.Keeps s) : s₀.Keeps (s.fabUnbind q).1 := by
  unfold State.fabUnbind
  dsimp only
  split
  · split
    · exact h
    · exact .updCtx (.upd h)
  · split
    · exact .upd h
    · exact h

theorem execFabUnbind_answers {m : Mb} (h : s₀.Keeps s) : s₀.Answers (execFabUnbind m s) := by
  unfold execFabUnbind
  exact .next (.mbRun (fun _ _ h1 => .fabUnbind h1) h)

theorem State.Keeps.fabStream {q : Req} (h : s₀.Keeps s) : s₀.Keeps (s.fabStream q).1 := by
  unfold State.fabStream
  split
  · exact h
  · exact h

theorem execFabStream_answers {m : Mb} (h : s₀.Keeps s) : s₀.Answers (execFabStream m s) := by
  unfold execFabStream
  exact .next (.mbRun (fun _ _ h1 => .fabStream h1) h)

theorem State.Keeps.fabRoute {q : Req} (h : s₀.Keeps s) : s₀.Keeps (s.fabRoute q).1 := by
  unfold State.fabRoute
  exact h

theorem execFabRoute_answers {m : Mb} (h : s₀.Keeps s) : s₀.Answers (execFabRoute m s) := by
  unfold execFabRoute
  exact .next (.mbRun (fun _ _ h1 => .fabRoute h1) h)

end Sys2Proof.Machine
end

section
/-! SUPPORT. `Keeps` of twin pairs (Machine/Twin.lean). -/

namespace Sys2Proof.Machine

variable {s₀ s : State}

theorem State.Keeps.takeTwin {p : Packet} {type : Nat} {t : State} (h : s₀.Keeps s) (e : s.takeTwin p type = some t) : s₀.Keeps t := by
  unfold State.takeTwin at e
  split at e
  · split at e
    · cases e
      exact .upd (.take h ‹_›)
    · cases e
  · cases e

theorem State.Keeps.ungrant (h : s₀.Keeps s) : s₀.Keeps s.ungrant := by
  unfold State.ungrant
  exact .upd h

theorem State.Keeps.setRole {role cause : Nat} (h : s₀.Keeps s) : s₀.Keeps (s.setRole role cause) := by
  unfold State.setRole
  exact .post (.upd (.ungrant h))

theorem State.Keeps.takeLead {cause : Nat} (h : s₀.Keeps s) : s₀.Keeps (s.takeLead cause) := by
  unfold State.takeLead
  exact .upd (.setRole (.finishOps h))

theorem execTwinHeartbeat_answers {p : Packet} (h : s₀.Keeps s) : s₀.Answers (execTwinHeartbeat p s) := by
  unfold execTwinHeartbeat
  refine .next ?_
  dsimp only
  split
  · exact h
  · exact .ite (.post (.upd (.setRole (.ite (.upd (.takeTwin h ‹_›)) (.takeTwin h ‹_›))))) (.ite (.upd (.takeTwin h ‹_›)) (.takeTwin h ‹_›))

theorem execTwinHeartbeatSend_answers (h : s₀.Keeps s) : s₀.Answers (execTwinHeartbeatSend s) := by
  unfold execTwinHeartbeatSend
  exact .next (.ite (.sendTwin h) h)

theorem State.Keeps.partnerGone (h : s₀.Keeps s) : s₀.Keeps s.partnerGone := by
  unfold State.partnerGone
  exact .ite (.takeLead (.finishOps (.post (.upd h)))) (.upd (.ungrant (.finishOps (.post (.upd h)))))

theorem execPartnerLossTimeout_answers (h : s₀.Keeps s) : s₀.Answers (execPartnerLossTimeout s) := by
  unfold execPartnerLossTimeout
  exact .next (.ite (.partnerGone h) h)

theorem State.Keeps.trowelLead {es : List LeadEntry} (h : s₀.Keeps s) : s₀.Keeps (s.trowelLead es) := by
  unfold State.trowelLead
  exact .foldl (fun _ _ h1 => .ite (.ledShed h1) (.upd h1)) h

theorem State.Keeps.takeLeadPacket {b : List Byte} (h : s₀.Keeps s) : s₀.Keeps (s.takeLeadPacket b) := by
  unfold State.takeLeadPacket
  exact .ite h (.ite (.ite (.trowelLead h) h) (.updPart h))

theorem execTwinLead_answers {p : Packet} (h : s₀.Keeps s) : s₀.Answers (execTwinLead p s) := by
  unfold execTwinLead
  refine .next ?_
  split
  · exact .takeLeadPacket (.takeTwin h ‹_›)
  · exact h

theorem State.Keeps.grantAll (h : s₀.Keeps s) : s₀.Keeps s.grantAll := by
  unfold State.grantAll
  exact .joinDone (.foldl (fun _ _ h1 => .grantPart h1) (.sendGrant (.ungrant (.upd h))))

theorem execTwinJoinReq_answers {p : Packet} (h : s₀.Keeps s) : s₀.Answers (execTwinJoinReq p s) := by
  unfold execTwinJoinReq
  refine .next ?_
  split
  · exact h
  · exact .ite (.takeTwin h ‹_›) (.ite (.grantAll (.takeTwin h ‹_›)) (.sendTwin (.takeTwin h ‹_›)))

theorem State.Keeps.takeGrant {b : List Byte} (h : s₀.Keeps s) : s₀.Keeps (s.takeGrant b) := by
  unfold State.takeGrant
  dsimp only
  split
  · split
    · exact .upd (.setPseq h)
    · exact .setPseq h
  · exact .setPseq h

theorem State.Keeps.joinedNow (h : s₀.Keeps s) : s₀.Keeps s.joinedNow := by
  unfold State.joinedNow
  exact .ite (.finishOps (.post (.upd h))) h

theorem execTwinJoinGrant_answers {p : Packet} (h : s₀.Keeps s) : s₀.Answers (execTwinJoinGrant p s) := by
  unfold execTwinJoinGrant
  refine .next ?_
  dsimp only
  split
  · exact h
  · exact .ite (.takeTwin h ‹_›) (.joinedNow (.updPart (.foldl (fun _ _ h1 => .takeGrant h1) (.takeTwin h ‹_›))))

theorem execTwinJoinRefuse_answers {p : Packet} (h : s₀.Keeps s) : s₀.Answers (execTwinJoinRefuse p s) := by
  unfold execTwinJoinRefuse
  refine .next ?_
  dsimp only
  split
  · exact .ite (.finishOps (.upd (.takeTwin h ‹_›))) (.takeTwin h ‹_›)
  · exact h

theorem execTwinHandoverPacket_answers {p : Packet} (h : s₀.Keeps s) : s₀.Answers (execTwinHandoverPacket p s) := by
  unfold execTwinHandoverPacket
  refine .next ?_
  dsimp only
  split
  · exact .ite (.upd (.sendTwin (.takeLead (.takeTwin h ‹_›)))) (.takeTwin h ‹_›)
  · exact h

theorem State.Keeps.stopLeading (h : s₀.Keeps s) : s₀.Keeps s.stopLeading := by
  unfold State.stopLeading
  exact .upd (.setRole (.upd h))

theorem execTwinHandoverAck_answers {p : Packet} (h : s₀.Keeps s) : s₀.Answers (execTwinHandoverAck p s) := by
  unfold execTwinHandoverAck
  refine .next ?_
  split
  · exact .ite (.finishOps (.stopLeading (.takeTwin h ‹_›))) (.takeTwin h ‹_›)
  · exact h

theorem State.Keeps.twinStatus {x1 : Req} (h : s₀.Keeps s) : s₀.Keeps (s.twinStatus x1).1 := by
  unfold State.twinStatus
  exact h

theorem execTwinStatus_answers {m : Mb} (h : s₀.Keeps s) : s₀.Answers (execTwinStatus m s) := by
  unfold execTwinStatus
  exact .next (.mbRun (fun _ _ h1 => .twinStatus h1) h)

theorem State.Keeps.twinJoin {q : Req} (h : s₀.Keeps s) : s₀.Keeps (s.twinJoin q).1 := by
  unfold State.twinJoin
  dsimp only
  split
  · exact h
  · split
    · exact h
    · split
      · exact h
      · exact .sendTwin (.upd (.ungrant (.accept h)))

theorem execTwinJoin_answers {m : Mb} (h : s₀.Keeps s) : s₀.Answers (execTwinJoin m s) := by
  unfold execTwinJoin
  exact .next (.mbRun (fun _ _ h1 => .twinJoin h1) h)

theorem State.Keeps.twinHandover {q : Req} (h : s₀.Keeps s) : s₀.Keeps (s.twinHandover q).1 := by
  unfold State.twinHandover
  split
  · exact h
  · split
    · exact h
    · split
      · exact h
      · exact .handover (.upd h)

theorem execTwinHandover_answers {m : Mb} (h : s₀.Keeps s) : s₀.Answers (execTwinHandover m s) := by
  unfold execTwinHandover
  exact .next (.mbRun (fun _ _ h1 => .twinHandover h1) h)

end Sys2Proof.Machine
end

section
/-! SUPPORT. `Keeps` of firmware, profile and modes (Machine/Firmware.lean). -/

namespace Sys2Proof.Machine

variable {s₀ s : State}

theorem State.Keeps.emptyArea {area : Nat} (h : s₀.Keeps s) : s₀.Keeps (s.emptyArea area) := by
  unfold State.emptyArea
  exact .upd h

theorem State.Keeps.fwStage {rd : HostRead} {q : Req} (h : s₀.Keeps s) : s₀.Keeps (State.fwStage rd s q).1 := by
  unfold State.fwStage
  dsimp only
  split
  · exact h
  · split
    · exact h
    · split
      · exact .upd (.emptyArea h)
      · split
        · exact h
        · exact .accept (.upd h)

theorem execFwStage_answers {m : StageCmd} (h : s₀.Keeps s) : s₀.Answers (execFwStage m s) := by
  unfold execFwStage
  exact .next (.mbRun (fun _ _ h1 => .fwStage h1) h)

theorem State.Keeps.stageVerify {op area addr : Nat} {x4 : List Byte} (h : s₀.Keeps s) : s₀.Keeps (s.stageVerify op area addr x4) := by
  unfold State.stageVerify
  exact .finishOp (.post (.ite (.upd h) (.emptyArea h)))

theorem execFwStageVerify_answers {op : Nat} {rd : HostRead} (h : s₀.Keeps s) : s₀.Answers (execFwStageVerify op rd s) := by
  unfold execFwStageVerify
  refine .next ?_
  split
  · refine .intDone (fun _ h1 => ?_) h
    split
    · exact .stageVerify h1
    · exact .readFailed (.emptyArea h1)
  · exact h

theorem State.Keeps.fwDiscard {q : Req} (h : s₀.Keeps s) : s₀.Keeps (s.fwDiscard q).1 := by
  unfold State.fwDiscard
  split
  · exact h
  · split
    · exact h
    · exact .emptyArea h

theorem execFwDiscard_answers {m : Mb} (h : s₀.Keeps s) : s₀.Answers (execFwDiscard m s) := by
  unfold execFwDiscard
  exact .next (.mbRun (fun _ _ h1 => .fwDiscard h1) h)

theorem State.Keeps.fwActivate {q : Req} (h : s₀.Keeps s) : s₀.Keeps (s.fwActivate q).1 := by
  unfold State.fwActivate
  dsimp only
  split
  · exact h
  · split
    · exact h
    · split
      · exact h
      · split
        · exact h
        · split
          · exact h
          · exact .upd (.accept h)

theorem execFwActivate_answers {m : Mb} (h : s₀.Keeps s) : s₀.Answers (execFwActivate m s) := by
  unfold execFwActivate
  exact .next (.mbRun (fun _ _ h1 => .fwActivate h1) h)

theorem State.Keeps.setActive {role : Nat} {i : Image} (h : s₀.Keeps s) : s₀.Keeps (s.setActive role i) := by
  unfold State.setActive
  exact .upd h

theorem State.Keeps.engineDown {e : Nat} (h : s₀.Keeps s) : s₀.Keeps (s.engineDown e) := by
  unfold State.engineDown
  exact .foldl (fun _ _ h1 => .portDown (.updPort h1)) h

theorem State.Keeps.restartUnit {role u : Nat} (h : s₀.Keeps s) : s₀.Keeps (s.restartUnit role u) := by
  unfold State.restartUnit
  split
  · exact .pauseMason h
  · exact .pierReset h
  · exact .handover h
  · exact .engineDown h
  · exact h

theorem State.Keeps.rollbackSteps (h : s₀.Keeps s) : s₀.Keeps s.rollbackSteps := by
  unfold State.rollbackSteps
  exact .foldl (fun _ _ h1 => .burn h1) h

theorem State.Keeps.activated {a : Activation} (h : s₀.Keeps s) : s₀.Keeps (s.activated a) := by
  unfold State.activated
  exact .rollbackSteps (.finishOp (.post (.upd (.emptyArea h))))

theorem State.Keeps.goOn {a : Activation} {u : Nat} (h : s₀.Keeps s) : s₀.Keeps (s.goOn a u) := by
  unfold State.goOn
  dsimp only
  split
  · exact .restartUnit (.upd h)
  · exact .activated h

theorem execActivationCopyDone_answers (h : s₀.Keeps s) : s₀.Answers (execActivationCopyDone s) := by
  unfold execActivationCopyDone
  refine .next ?_
  split
  · exact h
  · split
    · exact h
    · exact .ite (.goOn (.setActive h)) h

theorem State.Keeps.inService {a : Activation} (h : s₀.Keeps s) : s₀.Keeps (s.inService a) := by
  have hr : s₀.Keeps (match a.role with
      | 0 => s.resumeMason
      | 1 => if (s.pier a.unit).resetting then s.endReset a.unit true else s
      | _ => s) := by
    split
    · exact .resumeMason h
    · exact .ite (.endReset h) h
    · exact h
  exact .goOn (.ite (.bumpEpoch hr) hr)

theorem State.Keeps.fallBack {a : Activation} (h : s₀.Keeps s) : s₀.Keeps (s.fallBack a) := by
  unfold State.fallBack
  refine .finishOp ?_
  refine .post ?_
  dsimp only
  split
  · exact .upd (.setActive h)
  · exact .foldl (fun _ _ h1 => .pierReset h1) (.upd (.setActive h))
  · exact .foldl (fun _ _ h1 => .engineDown h1) (.upd (.setActive h))
  · exact .upd (.setActive h)

theorem execActivationProcessorInService_answers {pass : Bool} (h : s₀.Keeps s) : s₀.Answers (execActivationProcessorInService pass s) := by
  unfold execActivationProcessorInService
  refine .next ?_
  split
  · exact h
  · exact .ite (.ite (.inService h) (.fallBack h)) h

theorem State.Keeps.profileWrite {q : Req} (h : s₀.Keeps s) : s₀.Keeps (s.profileWrite q).1 := by
  unfold State.profileWrite
  split
  · exact h
  · split
    · exact h
    · split
      · exact h
      · exact .accept h

theorem execProfileWrite_answers {m : Mb} (h : s₀.Keeps s) : s₀.Answers (execProfileWrite m s) := by
  unfold execProfileWrite
  exact .next (.mbRun (fun _ _ h1 => .profileWrite h1) h)

theorem State.Keeps.profileVerify {op : Nat} {b : List Byte} (h : s₀.Keeps s) : s₀.Keeps (s.profileVerify op b) := by
  unfold State.profileVerify
  refine .ite ?_ ?_
  · exact .finishOp h
  · refine .ite ?_ ?_
    · exact .finishOp h
    · dsimp only
      split
      · exact .finishOp h
      · exact .ite (.finishOp h) (.finishOp (.bumpEpoch (.upd h)))

theorem execProfileWriteDone_answers {op : Nat} {rd : HostRead} (h : s₀.Keeps s) : s₀.Answers (execProfileWriteDone op rd s) := by
  unfold execProfileWriteDone
  refine .next ?_
  split
  · refine .intDone (fun _ h1 => ?_) h
    split
    · exact .profileVerify h1
    · exact .readFailed h1
  · exact h

theorem State.Keeps.profileInfo {x1 : Req} (h : s₀.Keeps s) : s₀.Keeps (s.profileInfo x1).1 := by
  unfold State.profileInfo
  exact h

theorem execProfileInfo_answers {m : Mb} (h : s₀.Keeps s) : s₀.Answers (execProfileInfo m s) := by
  unfold execProfileInfo
  exact .next (.mbRun (fun _ _ h1 => .profileInfo h1) h)

end Sys2Proof.Machine
end

section
/-! SUPPORT. `Keeps` of Lintel (Machine/Lintel.lean). -/

namespace Sys2Proof.Machine

variable {s₀ s : State}

theorem State.Keeps.writeRow {x : ShSet} {p r : Nat} {bs : List Byte} (h : s₀.Keeps s) : s₀.Keeps (x.writeRow s p r bs) := by
  unfold ShSet.writeRow
  exact .ite (.hbmWriteN h) (.hostWriteN h)

theorem State.Keeps.moveSet {x : ShSet} {n : Nat} (h : s₀.Keeps s) : s₀.Keeps (s.moveSet x n) := by
  unfold State.moveSet
  exact .foldl (fun _ _ h1 => .ite h1 (.writeRow h1)) h

theorem State.Keeps.raiseChan {ch : Nat} {b : Bool} (h : s₀.Keeps s) : s₀.Keeps (s.raiseChan ch b) := by
  unfold State.raiseChan
  exact .ite (.raiseVec h) h

theorem State.Keeps.armSet {ch : Nat} (h : s₀.Keeps s) : s₀.Keeps (s.armSet ch) := by
  unfold State.armSet
  dsimp only
  split
  · exact .updChan h
  · exact .raiseChan (.updChan h)

theorem State.Keeps.shadowWrite {ch off v : Nat} (h : s₀.Keeps s) : s₀.Keeps (s.shadowWrite ch off v) := by
  unfold State.shadowWrite
  exact .ite (.updChan h) (.ite h (.ite (.armSet (.updChan h)) (.updChan h)))

theorem execShCtrlArm_answers {ch : Nat} {v : W32} (h : s₀.Keeps s) : s₀.Answers (execShCtrlArm ch v s) := by
  unfold execShCtrlArm
  exact .next (.ite (.shadowWrite h) h)

theorem execShadowWindowOverwrite_answers {ch off : Nat} {v : W64} (h : s₀.Keeps s) : s₀.Answers (execShadowWindowOverwrite ch off v s) := by
  unfold execShadowWindowOverwrite
  exact .next (.ite (.ite (.shadowWrite (.shadowWrite h)) (.shadowWrite h)) h)

theorem execDmaShadowActivate_answers {ch : Nat} (h : s₀.Keeps s) : s₀.Answers (execDmaShadowActivate ch s) := by
  unfold execDmaShadowActivate
  exact .next (.ite (.updChan h) h)

theorem execChannelSetComplete_answers {ch : Nat} (h : s₀.Keeps s) : s₀.Answers (execChannelSetComplete ch s) := by
  unfold execChannelSetComplete
  refine .next ?_
  split
  · exact h
  · exact .ite (.landDue (.raiseChan (.updChan (.moveSet (.touchStacks h))))) h

theorem State.Keeps.chanHbmError {x : ShSet} {offset : Nat} (h : s₀.Keeps s) : s₀.Keeps (s.chanHbmError x offset) := by
  unfold State.chanHbmError
  dsimp only
  split
  · exact .wantTest (.errorEvent (.free h))
  · exact .free h

theorem execChannelBusError_answers {ch code offset : Nat} (h : s₀.Keeps s) : s₀.Answers (execChannelBusError ch code offset s) := by
  unfold execChannelBusError
  refine .next ?_
  dsimp only
  split
  · exact h
  · refine .ite ?_ ?_
    · exact h
    · refine .landDue (.ite ?_ ?_)
      · refine .updChan (.ite ?_ ?_)
        · exact .upd (.raiseChan (.updChan (.moveSet (.touchStacks h))))
        · exact .chanHbmError (.raiseChan (.updChan (.moveSet (.touchStacks h))))
      · exact .ite (.upd (.raiseChan (.updChan (.moveSet (.touchStacks h))))) (.chanHbmError (.raiseChan (.updChan (.moveSet (.touchStacks h)))))

theorem State.Keeps.stopSet {x : Option ShSet} (h : s₀.Keeps s) : s₀.Keeps (s.stopSet x) := by
  unfold State.stopSet
  split
  · exact h
  · exact .moveSet (.upd h)

theorem State.Keeps.stopChan {ch : Nat} (h : s₀.Keeps s) : s₀.Keeps (s.stopChan ch) := by
  unfold State.stopChan
  exact .landDue (.updChan (.stopSet (.stopSet h)))

theorem State.Keeps.chCtrl {ch v : Nat} (h : s₀.Keeps s) : s₀.Keeps (s.chCtrl ch v) := by
  unfold State.chCtrl
  exact .ite (.updChan h) (.ite (.stopChan h) (.updChan h))

theorem execChCtrlEnable_answers {ch : Nat} {v : W32} (h : s₀.Keeps s) : s₀.Answers (execChCtrlEnable ch v s) := by
  unfold execChCtrlEnable
  exact .next (.ite (.chCtrl h) h)

theorem execChCtrlDisable_answers {ch : Nat} {v : W32} (h : s₀.Keeps s) : s₀.Answers (execChCtrlDisable ch v s) := by
  unfold execChCtrlDisable
  exact .next (.ite (.chCtrl h) h)

end Sys2Proof.Machine
end

section
/-! SUPPORT. `Keeps` of resets and the start (Machine/Start.lean). -/

namespace Sys2Proof.Machine

variable {s₀ s : State}

/-- A record of a table, where every changed record and the default have a property. -/
theorem Tbl.get_mapVals_all {α : Type} {P : α → Prop} {d : α} {t : Tbl α} {f : Nat → α → α} (h : ∀ n, P (t.get d n)) (hf : ∀ n x, P x → P (f n x)) (n : Nat) :
    P ((t.mapVals f).get d n) := by
  have hn := h n
  unfold Tbl.get at hn ⊢
  rw [Tbl.find?_mapVals]
  cases hx : t.find? n with
  | none => simpa [hx] using hn
  | some x =>
    rw [hx] at hn
    exact hf n x hn

theorem State.Keeps.dropAll (h : s₀.Keeps s) : s₀.Keeps s.dropAll := by
  refine h.written (t := s.dropAll) rfl (fun _ => rfl) id (fun ht => ?_) fun _ _ => rfl
  exact Tbl.get_mapVals_all (P := fun x : Tile => x.sram.wf = true) (f := fun _ x => x.fresh) ht fun _ _ _ => rfl

theorem State.Keeps.undoBurn {f : Fuse} (h : s₀.Keeps s) : s₀.Keeps (s.undoBurn f) := by
  unfold State.undoBurn
  split
  · exact .updCourse h
  · exact .updUnit h
  · exact .updUnit h
  · exact .updUnit h
  · exact .updUnit h
  · exact .updPort h
  · refine .updPair (fun hw => ?_) h
    split
    · exact hw
    · exact hw
  · have hu : s₀.Keeps (s.updUnit f.unitKind f.unitId fun u => { u with retired := false }) := .updUnit h
    dsimp only
    split
    · exact .updPier hu
    · exact .updCourse hu
    · exact .updCore hu
    · exact .ite (.updPier hu) (.ite (.updPier hu) (.upd hu))
    · exact hu
  · exact h

theorem State.Keeps.loseBurns (h : s₀.Keeps s) : s₀.Keeps s.loseBurns := by
  unfold State.loseBurns
  exact .ite h (.foldl (fun _ _ h1 => .undoBurn h1) (.upd h))

theorem State.Keeps.loseLog {heldUp : Bool} (h : s₀.Keeps s) : s₀.Keeps (s.loseLog heldUp) := by
  unfold State.loseLog
  exact .upd h

theorem State.Keeps.coldDrop (h : s₀.Keeps s) : s₀.Keeps s.coldDrop := by
  refine h.written (t := s.coldDrop) rfl id id (fun ht => ?_) id
  exact Tbl.get_mapVals_all (P := fun x : Tile => x.sram.wf = true) (f := fun _ x => { aRetired := x.aRetired, bRetired := x.bRetired }) ht fun _ _ _ => rfl

theorem State.Keeps.stagesOff {aon : Bool} (h : s₀.Keeps s) : s₀.Keeps (s.stagesOff aon) := by
  unfold State.stagesOff
  exact .upd h

theorem State.Keeps.powerLoss {heldUp : Bool} (h : s₀.Keeps s) : s₀.Keeps (s.powerLoss heldUp) := by
  unfold State.powerLoss
  exact .stagesOff (.coldDrop (.dropAll (.loseBurns (.loseLog h))))

theorem State.Keeps.failNote {cause : Nat} (h : s₀.Keeps s) : s₀.Keeps (s.failNote cause) := by
  unfold State.failNote
  exact .ite (.upd h) h

theorem State.Keeps.powerFail {cause mv : Nat} (h : s₀.Keeps s) : s₀.Keeps (s.powerFail cause mv) := by
  unfold State.powerFail
  exact .upd (.powerLoss (.failNote h))

theorem State.Keeps.lockOut {mv : Nat} (h : s₀.Keeps s) : s₀.Keeps (s.lockOut mv) := by
  unfold State.lockOut
  exact .upd (.stagesOff (.dropAll (.loseBurns (.loseLog (.failNote h)))))

theorem execPowerFailReset_answers {mv : Nat} (h : s₀.Keeps s) : s₀.Answers (execPowerFailReset mv s) := by
  unfold execPowerFailReset
  exact .next (.ite (.upd (.powerFail h)) h)

theorem execOverVoltageLockout_answers {mv : Nat} (h : s₀.Keeps s) : s₀.Answers (execOverVoltageLockout mv s) := by
  unfold execOverVoltageLockout
  exact .next (.ite (.lockOut h) h)

theorem execEpoNAssert_answers (h : s₀.Keeps s) : s₀.Answers (execEpoNAssert s) := by
  unfold execEpoNAssert
  exact .next (.ite (.upd (.powerLoss h)) h)

theorem execThermtrip_answers (h : s₀.Keeps s) : s₀.Answers (execThermtrip s) := by
  unfold execThermtrip
  exact .next (.ite (.upd (.powerLoss h)) h)

theorem State.Keeps.step1 (h : s₀.Keeps s) : s₀.Keeps s.step1 := by
  unfold State.step1
  exact .upd (.powerLoss h)

theorem State.Keeps.sampleSel (h : s₀.Keeps s) : s₀.Keeps s.sampleSel := by
  unfold State.sampleSel
  exact .upd (.upd h)

theorem State.Keeps.postSel (h : s₀.Keeps s) : s₀.Keeps s.postSel := by
  unfold State.postSel
  split
  · exact .ite h (.post h)
  · exact h

theorem State.Keeps.killKeys (h : s₀.Keeps s) : s₀.Keeps s.killKeys := by
  unfold State.killKeys
  exact .ite (.burnCmd (.upd h)) h

theorem State.Keeps.step2 (h : s₀.Keeps s) : s₀.Keeps s.step2 := by
  unfold State.step2
  exact .sampleSel (.killKeys (.upd h))

theorem State.Keeps.step3 (h : s₀.Keeps s) : s₀.Keeps s.step3 := by
  unfold State.step3
  split
  · exact .bumpEpoch (.activated h)
  · exact h

theorem State.Keeps.checkRoutes (h : s₀.Keeps s) : s₀.Keeps s.checkRoutes := by
  unfold State.checkRoutes
  dsimp only
  split
  · exact h
  · exact .foldl (fun _ _ h1 => .post (.upd h1)) h

theorem State.Keeps.sensorsSilent (h : s₀.Keeps s) : s₀.Keeps s.sensorsSilent := by
  unfold State.sensorsSilent
  exact .rowsNow (.review (.noteProfile (.noteSensor (.noteSensor (.noteSensor (.upd h))))))

theorem State.Keeps.readVault (h : s₀.Keeps s) : s₀.Keeps s.readVault := by
  unfold State.readVault
  exact .ite (.sensorsSilent (.upd (.upd h))) (.upd (.upd h))

theorem State.Keeps.nextBoot (h : s₀.Keeps s) : s₀.Keeps s.nextBoot := by
  unfold State.nextBoot
  exact .ite (.post (.upd h)) (.upd h)

theorem State.Keeps.postFail (h : s₀.Keeps s) : s₀.Keeps s.postFail := by
  unfold State.postFail
  dsimp only
  split
  · exact .upd (.postT h)
  · exact .ite (.postT h) h

theorem State.Keeps.step4 (h : s₀.Keeps s) : s₀.Keeps s.step4.1 := by
  unfold State.step4
  exact .rollbackSteps (.upd (.postFail (.postSel (.checkRoutes (.nextBoot (.readVault h))))))

theorem State.Keeps.step5 {found : List (Nat × Nat × Nat)} (h : s₀.Keeps s) : s₀.Keeps (s.step5 found) := by
  unfold State.step5
  exact .foldl (fun _ _ h1 => .updTile id h1) (.foldl (fun _ _ h1 => .lasting h1) h)

theorem State.Keeps.alertNow (h : s₀.Keeps s) : s₀.Keeps s.alertNow := by
  unfold State.alertNow
  exact .ite h (.upd (.mapRates h))

theorem State.Keeps.start {warm bist plinthOk : Bool} {found : List (Nat × Nat × Nat)} (h : s₀.Keeps s) :
    s₀.Keeps (s.start warm bist plinthOk found) := by
  unfold State.start
  refine .step7 (.alertNow (.ite ?_ ?_))
  · refine .ite ?_ ?_
    · exact .step5 (.rollbackSteps (.upd (.postFail (.postSel (.checkRoutes (.nextBoot (.readVault (.step3 (.step2 h)))))))))
    · exact .enterSafeHold (.step5 (.rollbackSteps (.upd (.postFail (.postSel (.checkRoutes (.nextBoot (.readVault (.step3 (.step2 h))))))))))
  · exact .rollbackSteps (.upd (.postFail (.postSel (.checkRoutes (.nextBoot (.readVault (.step3 (.step2 h))))))))

theorem execAonPowerUp_answers {mv : Nat} {plinthOk : Bool} {found : List (Nat × Nat × Nat)} (h : s₀.Keeps s) :
    s₀.Answers (execAonPowerUp mv plinthOk found s) := by
  unfold execAonPowerUp
  exact .next (.ite (.start (.upd (.ite h (.step1 h)))) h)

theorem execEpoNRelease_answers (h : s₀.Keeps s) : s₀.Answers (execEpoNRelease s) := by
  unfold execEpoNRelease
  exact .next (.ite h (.ite (.step1 (.upd h)) (.upd h)))

theorem execPerstNAssert_answers (h : s₀.Keeps s) : s₀.Answers (execPerstNAssert s) := by
  unfold execPerstNAssert
  exact .next (.ite h (.ite (.upd (.dropAll (.upd h))) (.upd h)))

theorem execPerstNRelease_answers {plinthOk : Bool} {found : List (Nat × Nat × Nat)} (h : s₀.Keeps s) :
    s₀.Answers (execPerstNRelease plinthOk found s) := by
  unfold execPerstNRelease
  exact .next (.ite h (.ite (.ite (.step7 (.sampleSel (.upd h))) (.start (.upd h))) (.ite (.start (.upd h)) (.upd h))))

theorem execShutdownPowerOff_answers (h : s₀.Keeps s) : s₀.Answers (execShutdownPowerOff s) := by
  unfold execShutdownPowerOff
  exact .next (.ite (.upd (.stagesOff (.dropAll h))) h)

theorem execI3cBusRecovery_answers {freed : Bool} (h : s₀.Keeps s) : s₀.Answers (execI3cBusRecovery freed s) := by
  unfold execI3cBusRecovery
  exact .next (.ite (.ite (.upd h) (.sensorsSilent (.upd h))) h)

end Sys2Proof.Machine
end

section
/-! SUPPORT. `Keeps` of the registers (Machine/Registers.lean). -/

namespace Sys2Proof.Machine

variable {s₀ s : State}

theorem State.Keeps.vectorWrite {f : Fn} {i o v : Nat} (h : s₀.Keeps s) : s₀.Keeps (s.vectorWrite f i o v) := by
  unfold State.vectorWrite
  dsimp only
  split
  · exact .setVector h
  · exact .setVector h
  · exact .setVector h
  · exact .ite (.setVector h) (.unmask h)
  · exact h

theorem State.Keeps.mbRegWrite {m : Mb} {o v : Nat} (h : s₀.Keeps s) : s₀.Keeps (s.mbRegWrite m o v) := by
  unfold State.mbRegWrite
  split
  · exact .doorbell h
  · exact .updMbox h
  · exact h

theorem State.Keeps.ringRegWrite {v i o w : Nat} (h : s₀.Keeps s) : s₀.Keeps (s.ringRegWrite v i o w) := by
  unfold State.ringRegWrite
  split
  · exact .ite h (.updRing h)
  · exact .ite h (.updRing h)
  · exact .ringCfg h
  · exact .updRing h
  · exact .updRing h
  · exact .updRing h
  · exact h

theorem State.Keeps.chRegWrite {ch o v : Nat} (h : s₀.Keeps s) : s₀.Keeps (s.chRegWrite ch o v) := by
  unfold State.chRegWrite
  exact .ite (.chCtrl h) (.ite (.updChan h) (.ite (.shadowWrite h) h))

theorem State.Keeps.pfRegWrite {o v : Nat} (h : s₀.Keeps s) : s₀.Keeps (s.pfRegWrite o v) := by
  unfold State.pfRegWrite
  exact .ite (.upd h) (.ite (.eqSpace (.upd h)) (.ite (.upd h) (.ite (.vectorWrite h) (.ite (.mbRegWrite h) (.ite (.chRegWrite h) h)))))

theorem State.Keeps.vfRegWrite {f o v : Nat} (h : s₀.Keeps s) : s₀.Keeps (s.vfRegWrite f o v) := by
  unfold State.vfRegWrite
  exact .ite (.updVf h) (.ite (.ringRegWrite h) (.ite (.mbRegWrite h) (.ite (.vectorWrite h) h)))

theorem State.Keeps.regWrite {f : Fn} {o v : Nat} (h : s₀.Keeps s) : s₀.Keeps (s.regWrite f o v) := by
  unfold State.regWrite
  split
  · exact .pfRegWrite h
  · exact .vfRegWrite h

theorem State.Keeps.barWrite {f : Fn} {o size v : Nat} (h : s₀.Keeps s) : s₀.Keeps (s.barWrite f o size v) := by
  unfold State.barWrite
  dsimp only
  split
  · exact .requestWrite h
  · exact .ite (.slotWrite h) h
  · exact .ite (.ite (.regWrite (.regWrite h)) (.regWrite h)) h

theorem execRegisterWrite_answers {f : Fn} {o size : Nat} {v : W64} (h : s₀.Keeps s) : s₀.Answers (execRegisterWrite f o size v s) := by
  unfold execRegisterWrite
  exact .next (.ite (.barWrite h) h)

theorem State.Keeps.stopStaging (h : s₀.Keeps s) : s₀.Keeps s.stopStaging := by
  unfold State.stopStaging
  refine .foldl (fun s1 x h1 => ?_) h
  split
  · exact .dropOp (.emptyArea h1)
  · exact h1

theorem State.Keeps.pfReset (h : s₀.Keeps s) : s₀.Keeps s.pfReset := by
  unfold State.pfReset
  exact .upd h

theorem State.Keeps.stopImports (h : s₀.Keeps s) : s₀.Keeps s.stopImports := by
  unfold State.stopImports
  exact .upd h

theorem State.Keeps.pfFlr (h : s₀.Keeps s) : s₀.Keeps s.pfFlr := by
  unfold State.pfFlr
  exact .stopImports (.stopStaging (.pfReset (.foldl (fun _ _ h1 => .stopChan h1) (.foldl (fun _ _ h1 => .vfReset h1) h))))

theorem execPfFlr_answers (h : s₀.Keeps s) : s₀.Answers (execPfFlr s) := by
  unfold execPfFlr
  exact .next (.ite (.pfFlr h) h)

end Sys2Proof.Machine
end

section
/-! SUPPORT. Every command answers a next state. -/

namespace Sys2Proof.Machine

variable {s₀ s : State}

/-- Every command answers a next state, which keeps the queue it is given and the canonical form of the memories. -/
theorem exec_answers (i : Instr) (h : s₀.Keeps s) : s₀.Answers (exec i s) := by
  cases i with
  | registerWrite => exact execRegisterWrite_answers h
  | msixUnmask => exact execMsixUnmask_answers h
  | sriovVfEnable => exact execSriovVfEnable_answers h
  | pciPmStateWrite => exact execPciPmStateWrite_answers h
  | vfFlr => exact execVfFlr_answers h
  | pfFlr => exact execPfFlr_answers h
  | submissionSlotWrite => exact execSubmissionSlotWrite_answers h
  | ticketRead => exact execTicketRead_answers h
  | eqConsWrite => exact execEqConsWrite_answers h
  | eqLostRead => exact execEqLostRead_answers h
  | ringDropRead => exact execRingDropRead_answers h
  | ringEnable => exact execRingEnable_answers h
  | ringRegistrationCheck => exact execRingRegistrationCheck_answers h
  | ringDisable => exact execRingDisable_answers h
  | ringHeadWrite => exact execRingHeadWrite_answers h
  | ringBacklogDrain => exact execRingBacklogDrain_answers h
  | ringModTimer => exact execRingModTimer_answers h
  | infoIdentity => exact execInfoIdentity_answers h
  | infoFirmware => exact execInfoFirmware_answers h
  | infoCapacity => exact execInfoCapacity_answers h
  | infoStatus => exact execInfoStatus_answers h
  | infoTime => exact execInfoTime_answers h
  | partCreate => exact execPartCreate_answers h
  | pierPowerUpDone => exact execPierPowerUpDone_answers h
  | partDestroy => exact execPartDestroy_answers h
  | partQuery => exact execPartQuery_answers h
  | partKeepwarm => exact execPartKeepwarm_answers h
  | partCounters => exact execPartCounters_answers h
  | planLoad => exact execPlanLoad_answers h
  | planLoadComplete => exact execPlanLoadComplete_answers h
  | planBind => exact execPlanBind_answers h
  | planUnload => exact execPlanUnload_answers h
  | planInfo => exact execPlanInfo_answers h
  | ctxCreate => exact execCtxCreate_answers h
  | ctxRemove => exact execCtxRemove_answers h
  | ctxSet => exact execCtxSet_answers h
  | ctxRebind => exact execCtxRebind_answers h
  | ctxQuery => exact execCtxQuery_answers h
  | ctxShedlog => exact execCtxShedlog_answers h
  | batchStart => exact execBatchStart_answers h
  | batchFillTimeout => exact execBatchFillTimeout_answers h
  | scalar => exact execScalar_answers h
  | branch => exact execBranch_answers h
  | addr => exact execAddr_answers h
  | template => exact execTemplate_answers h
  | bed => exact execBed_answers h
  | dress => exact execDress_answers h
  | dma => exact execDma_answers h
  | tileDmaShadowLoad => exact execTileDmaShadowLoad_answers h
  | tileDmaDescriptorDone => exact execTileDmaDescriptorDone_answers h
  | sig => exact execSig_answers h
  | wait => exact execWait_answers h
  | waitGrant => exact execWaitGrant_answers h
  | semrd => exact execSemrd_answers h
  | fenceL => exact execFenceL_answers h
  | fenceC => exact execFenceC_answers h
  | fenceP => exact execFenceP_answers h
  | fenceH => exact execFenceH_answers h
  | fenceRelease => exact execFenceRelease_answers h
  | handoff => exact execHandoff_answers h
  | quoinJob => exact execQuoinJob_answers h
  | emit => exact execEmit_answers h
  | bndry => exact execBndry_answers h
  | boundaryPoint => exact execBoundaryPoint_answers h
  | boundaryOverdue => exact execBoundaryOverdue_answers h
  | courseGate => exact execCourseGate_answers h
  | courseWake => exact execCourseWake_answers h
  | hbmSelfRefreshEntry => exact execHbmSelfRefreshEntry_answers h
  | shCtrlArm => exact execShCtrlArm_answers h
  | chCtrlEnable => exact execChCtrlEnable_answers h
  | chCtrlDisable => exact execChCtrlDisable_answers h
  | shadowWindowOverwrite => exact execShadowWindowOverwrite_answers h
  | dmaShadowActivate => exact execDmaShadowActivate_answers h
  | channelSetComplete => exact execChannelSetComplete_answers h
  | channelBusError => exact execChannelBusError_answers h
  | internalReadFail => exact execInternalReadFail_answers h
  | facingConvert => exact execFacingConvert_answers h
  | facingBandWrite => exact execFacingBandWrite_answers h
  | visParams => exact execVisParams_answers h
  | visCounters => exact execVisCounters_answers h
  | srvOpen => exact execSrvOpen_answers h
  | frameMappingDone => exact execFrameMappingDone_answers h
  | srvSampling => exact execSrvSampling_answers h
  | srvPause => exact execSrvPause_answers h
  | sessionPauseTimeout => exact execSessionPauseTimeout_answers h
  | srvCancel => exact execSrvCancel_answers h
  | srvQuery => exact execSrvQuery_answers h
  | specSuspend => exact execSpecSuspend_answers h
  | specResume => exact execSpecResume_answers h
  | vidDecodeOpen => exact execVidDecodeOpen_answers h
  | vidEncodeOpen => exact execVidEncodeOpen_answers h
  | vidFacing => exact execVidFacing_answers h
  | vidForceIdr => exact execVidForceIdr_answers h
  | vidFlush => exact execVidFlush_answers h
  | vidQuery => exact execVidQuery_answers h
  | vidCores => exact execVidCores_answers h
  | bitstreamCopyDone => exact execBitstreamCopyDone_answers h
  | trowelPictureStart => exact execTrowelPictureStart_answers h
  | codecFrameBoundary => exact execCodecFrameBoundary_answers h
  | trowelPllStop => exact execTrowelPllStop_answers h
  | pwrCap => exact execPwrCap_answers h
  | pwrProfile => exact execPwrProfile_answers h
  | pwrStatus => exact execPwrStatus_answers h
  | pwrShutdown => exact execPwrShutdown_answers h
  | shutdownDrainTimeout => exact execShutdownDrainTimeout_answers h
  | shutdownBistDone => exact execShutdownBistDone_answers h
  | shutdownPowerOff => exact execShutdownPowerOff_answers h
  | governorSample => exact execGovernorSample_answers h
  | floorStepSecondStage => exact execFloorStepSecondStage_answers h
  | rateClimb => exact execRateClimb_answers h
  | pwrAlertNAssert => exact execPwrAlertNAssert_answers h
  | pwrAlertNRelease => exact execPwrAlertNRelease_answers h
  | leaseLapsed => exact execLeaseLapsed_answers h
  | fallbackCap => exact execFallbackCap_answers h
  | supplyHold => exact execSupplyHold_answers h
  | supplyRecovered => exact execSupplyRecovered_answers h
  | holdEnd => exact execHoldEnd_answers h
  | longDip => exact execLongDip_answers h
  | safeCauseClear => exact execSafeCauseClear_answers h
  | supplyHigh => exact execSupplyHigh_answers h
  | overVoltageLockout => exact execOverVoltageLockout_answers h
  | powerFailReset => exact execPowerFailReset_answers h
  | epoNAssert => exact execEpoNAssert_answers h
  | epoNRelease => exact execEpoNRelease_answers h
  | thermtrip => exact execThermtrip_answers h
  | aonPowerUp => exact execAonPowerUp_answers h
  | perstNAssert => exact execPerstNAssert_answers h
  | perstNRelease => exact execPerstNRelease_answers h
  | flowSample => exact execFlowSample_answers h
  | tempSample => exact execTempSample_answers h
  | pflowUpdate => exact execPflowUpdate_answers h
  | coolantStateDwell => exact execCoolantStateDwell_answers h
  | quenchEnd => exact execQuenchEnd_answers h
  | quenchStage2 => exact execQuenchStage2_answers h
  | diodeSample => exact execDiodeSample_answers h
  | disagreeDwell => exact execDisagreeDwell_answers h
  | junctionDwell => exact execJunctionDwell_answers h
  | sensorTest => exact execSensorTest_answers h
  | sensorTestDone => exact execSensorTestDone_answers h
  | thermalModelUpdate => exact execThermalModelUpdate_answers h
  | hbmTempSample => exact execHbmTempSample_answers h
  | thermStatus => exact execThermStatus_answers h
  | thermCourse => exact execThermCourse_answers h
  | thermHbm => exact execThermHbm_answers h
  | targetedSelfTestStart => exact execTargetedSelfTestStart_answers h
  | targetedSelfTestDone => exact execTargetedSelfTestDone_answers h
  | fuseBurnDone => exact execFuseBurnDone_answers h
  | bistSliceStart => exact execBistSliceStart_answers h
  | bistSliceDone => exact execBistSliceDone_answers h
  | coverageRotation => exact execCoverageRotation_answers h
  | bistCoverageLapsed => exact execBistCoverageLapsed_answers h
  | correctedSummary => exact execCorrectedSummary_answers h
  | errorLogFlush => exact execErrorLogFlush_answers h
  | foremanWatchdog => exact execForemanWatchdog_answers h
  | masonLockstepError => exact execMasonLockstepError_answers h
  | pierResetComplete => exact execPierResetComplete_answers h
  | fltSummary => exact execFltSummary_answers h
  | fltTest => exact execFltTest_answers h
  | fltUnit => exact execFltUnit_answers h
  | fltPierReset => exact execFltPierReset_answers h
  | logInfo => exact execLogInfo_answers h
  | logRead => exact execLogRead_answers h
  | portLightDetect => exact execPortLightDetect_answers h
  | lightLoss => exact execLightLoss_answers h
  | hello => exact execHello_answers h
  | helloRetry => exact execHelloRetry_answers h
  | linkFrameReceive => exact execLinkFrameReceive_answers h
  | linkNak => exact execLinkNak_answers h
  | linkRetrainDone => exact execLinkRetrainDone_answers h
  | laneBerCheck => exact execLaneBerCheck_answers h
  | laneTestDone => exact execLaneTestDone_answers h
  | settPacketReceive => exact execSettPacketReceive_answers h
  | record => exact execRecord_answers h
  | data => exact execData_answers h
  | landingGapTimeout => exact execLandingGapTimeout_answers h
  | drain => exact execDrain_answers h
  | drainAck => exact execDrainAck_answers h
  | drainTimeout => exact execDrainTimeout_answers h
  | portState => exact execPortState_answers h
  | portStateFlood => exact execPortStateFlood_answers h
  | time => exact execTime_answers h
  | timeExchange => exact execTimeExchange_answers h
  | timeParentLoss => exact execTimeParentLoss_answers h
  | holdoverLimit => exact execHoldoverLimit_answers h
  | inspectEntry => exact execInspectEntry_answers h
  | cartridgePoll => exact execCartridgePoll_answers h
  | cartridgeTimeout => exact execCartridgeTimeout_answers h
  | rebaseline => exact execRebaseline_answers h
  | fabPort => exact execFabPort_answers h
  | fabCounters => exact execFabCounters_answers h
  | fabPortCtrl => exact execFabPortCtrl_answers h
  | fabExport => exact execFabExport_answers h
  | fabImport => exact execFabImport_answers h
  | fabUnbind => exact execFabUnbind_answers h
  | fabStream => exact execFabStream_answers h
  | fabRoute => exact execFabRoute_answers h
  | twinHeartbeat => exact execTwinHeartbeat_answers h
  | twinHeartbeatSend => exact execTwinHeartbeatSend_answers h
  | twinLead => exact execTwinLead_answers h
  | twinJoinReq => exact execTwinJoinReq_answers h
  | twinJoinGrant => exact execTwinJoinGrant_answers h
  | twinJoinRefuse => exact execTwinJoinRefuse_answers h
  | twinHandoverPacket => exact execTwinHandoverPacket_answers h
  | twinHandoverAck => exact execTwinHandoverAck_answers h
  | partnerLossTimeout => exact execPartnerLossTimeout_answers h
  | twinStatus => exact execTwinStatus_answers h
  | twinJoin => exact execTwinJoin_answers h
  | twinHandover => exact execTwinHandover_answers h
  | secTenantCreate => exact execSecTenantCreate_answers h
  | secTenantRemove => exact execSecTenantRemove_answers h
  | tenantScrubDone => exact execTenantScrubDone_answers h
  | secTenantQuery => exact execSecTenantQuery_answers h
  | secQuota => exact execSecQuota_answers h
  | secKeyRetire => exact execSecKeyRetire_answers h
  | secKeyStatus => exact execSecKeyStatus_answers h
  | secLifecycle => exact execSecLifecycle_answers h
  | secFabricBind => exact execSecFabricBind_answers h
  | secAttest => exact execSecAttest_answers h
  | attestReportLanded => exact execAttestReportLanded_answers h
  | getVersion => exact execGetVersion_answers h
  | getCapabilities => exact execGetCapabilities_answers h
  | negotiateAlgorithms => exact execNegotiateAlgorithms_answers h
  | getDigests => exact execGetDigests_answers h
  | getCertificate => exact execGetCertificate_answers h
  | challenge => exact execChallenge_answers h
  | getMeasurements => exact execGetMeasurements_answers h
  | spdmUnsupportedRequest => exact execSpdmUnsupportedRequest_answers h
  | fwStage => exact execFwStage_answers h
  | fwStageVerify => exact execFwStageVerify_answers h
  | fwActivate => exact execFwActivate_answers h
  | activationProcessorInService => exact execActivationProcessorInService_answers h
  | fwDiscard => exact execFwDiscard_answers h
  | profileWrite => exact execProfileWrite_answers h
  | profileInfo => exact execProfileInfo_answers h
  | fuseInfo => exact execFuseInfo_answers h
  | fuseRead => exact execFuseRead_answers h
  | modeQuery => exact execModeQuery_answers h
  | modeSet => exact execModeSet_answers h
  | modeCompatLock => exact execModeCompatLock_answers h
  | i3cBusRecovery => exact execI3cBusRecovery_answers h
  | mbDoorbell => exact execMbDoorbell_answers h
  | mailboxRequestWrite => exact execMailboxRequestWrite_answers h
  | masonRestartDone => exact execMasonRestartDone_answers h
  | outHostCopyDone => exact execOutHostCopyDone_answers h
  | profileWriteDone => exact execProfileWriteDone_answers h
  | activationCopyDone => exact execActivationCopyDone_answers h
  | calibrationDone => exact execCalibrationDone_answers h
  | cleanReqInterval => exact execCleanReqInterval_answers h

theorem State.Keeps.advance {n : Nat} (h : s₀.Keeps s) : s₀.Keeps (s.advance n) := by
  unfold State.advance
  exact .ite h (.upd h)

end Sys2Proof.Machine
end

section
/-! The proofs of O1, O59 and O60. -/

namespace Sys2Proof.Machine

/-- Settles O1: the step of a queue that is not empty. -/
theorem stepRunsTheFrontCommand : Obligations.StepRunsTheFrontCommand := by
  intro s c rest hq
  unfold step
  rw [hq]

/-- Settles O60: `exec_answers` on the queue's rest; an empty queue lets time pass. -/
theorem everyStepCompletesAndKeepsTheMemories : Obligations.EveryStepCompletesAndKeepsTheMemories := by
  intro s
  unfold step
  split
  · next hq =>
    have h := (State.Keeps.refl s).advance (n := s.idleTicks)
    exact ⟨_, rfl, by rw [h.queue, hq]; rfl, h.memories⟩
  · next c rest hq =>
    obtain ⟨t, ht, h⟩ := exec_answers c (.refl { s with pending := rest })
    exact ⟨t, ht, by rw [h.queue, hq]; rfl, h.memories⟩

/-- Settles O59: the tables of the reset state list nothing. -/
theorem resetMemoriesAreCanonical : Obligations.ResetMemoriesAreCanonical :=
  ⟨⟨rfl, rfl, fun _ => rfl, fun _ => rfl⟩, fun _ => ⟨rfl, rfl⟩⟩

end Sys2Proof.Machine
end

section
/-! SUPPORT. Rate levels and the governor (R223, R224, R226-R228). -/

namespace Sys2Proof.Machine

/-! ## Rate levels -/

theorem State.mapRates_shape (s : State) (f : Nat → Nat) : s.mapRates f =
    { s with courses := (List.range 16).foldl (fun t c => t.upd {} c fun k : Course => { k with r := f k.r }) s.courses } := by
  unfold mapRates
  induction List.range 16 generalizing s with
  | nil => rfl
  | cons c l ih => exact ih (s.updCourse c fun k => { k with r := f k.r })

theorem State.mapRates_course (s : State) (f : Nat → Nat) {c : Nat} (hc : c < 16) :
    (s.mapRates f).course c = { s.course c with r := f (s.course c).r } := by
  rw [s.mapRates_shape, State.course, State.course, Tbl.get_foldl_upd _ _ _ List.nodup_range, if_pos (List.mem_range.2 hc)]

theorem State.mapRates_r (s : State) (f : Nat → Nat) {c : Nat} (hc : c < 16) : ((s.mapRates f).course c).r = f (s.course c).r := by
  rw [s.mapRates_course f hc]

/-- The least of the levels of a list of Courses and a bound. -/
theorem foldl_min_spec (g : Nat → Nat) (l : List Nat) (a : Nat) :
    l.foldl (fun a c => min a (g c)) a ≤ a ∧ (∀ c ∈ l, l.foldl (fun a c => min a (g c)) a ≤ g c) ∧
      (l.foldl (fun a c => min a (g c)) a = a ∨ ∃ c ∈ l, l.foldl (fun a c => min a (g c)) a = g c) := by
  induction l generalizing a with
  | nil => exact ⟨Nat.le_refl a, nofun, .inl rfl⟩
  | cons x l ih =>
    obtain ⟨hle, hmem, hat⟩ := ih (min a (g x))
    rw [List.foldl_cons]
    refine ⟨hle.trans (Nat.min_le_left ..), fun c hc => ?_, ?_⟩
    · rcases List.mem_cons.1 hc with rfl | hc
      · exact hle.trans (Nat.min_le_right ..)
      · exact hmem c hc
    · rcases hat with h | ⟨c, hc, h⟩
      · rcases Nat.le_total a (g x) with hx | hx
        · exact .inl (h.trans (Nat.min_eq_left hx))
        · exact .inr ⟨x, List.mem_cons_self .., h.trans (Nat.min_eq_right hx)⟩
      · exact .inr ⟨c, List.mem_cons_of_mem _ hc, h⟩

theorem State.lowestRate_le (s : State) {c : Nat} (hc : c < 16) : s.lowestRate ≤ (s.course c).r :=
  (foldl_min_spec (fun c => (s.course c).r) (List.range 16) 16).2.1 c (List.mem_range.2 hc)

theorem State.lowestRate_attained {s : State} (h : s.lowestRate < 16) : ∃ c, c < 16 ∧ (s.course c).r = s.lowestRate := by
  obtain ⟨-, -, hat | ⟨c, hc, hat⟩⟩ := foldl_min_spec (fun c => (s.course c).r) (List.range 16) 16
  · exact absurd hat (Nat.ne_of_lt h)
  · exact ⟨c, List.mem_range.1 hc, hat.symm⟩

theorem State.raiseRates_r (s : State) {c : Nat} (hlow : s.lowestRate < 16) (hc : c < 16) :
    (s.raiseRates.course c).r = if (s.course c).r = s.lowestRate then (s.course c).r + 1 else (s.course c).r := by
  rw [raiseRates, State.mapRates_r _ _ hc]
  by_cases h : (s.course c).r = s.lowestRate
  · rw [if_pos h, h, beq_self_eq_true, if_pos rfl, Nat.min_eq_right (by omega)]
  · rw [if_neg h, beq_false_of_ne h, if_neg Bool.false_ne_true]

theorem State.raiseRates_eq (s : State) : ∃ cs, s.raiseRates = { s with courses := cs } := by
  unfold raiseRates
  exact s.mapRates_eq _

theorem State.raiseRates_pinW (s : State) (w : Nat) :
    ({ s with power.pinW := w } : State).raiseRates = { s.raiseRates with power := { s.power with pinW := w } } := by
  have hlo : ({ s with power.pinW := w } : State).lowestRate = s.lowestRate := rfl
  unfold raiseRates
  dsimp only
  rw [hlo, State.mapRates_shape, State.mapRates_shape]

/-- After the lowest level has risen by one, it is not yet 16 where it was below 15. -/
theorem State.raiseRates_lowest {s : State} (h : s.lowestRate < 15) : s.raiseRates.lowestRate ≠ 16 := by
  obtain ⟨c, hc, hlow⟩ := State.lowestRate_attained (s := s) (by omega)
  have hle := s.raiseRates.lowestRate_le hc
  rw [State.raiseRates_r s (by omega) hc, if_pos hlow] at hle
  omega

theorem State.lowestRate_congr {s t : State} (h : t.courses = s.courses) : t.lowestRate = s.lowestRate := by
  unfold lowestRate State.course
  rw [h]

/-! ## The floor step (R227) -/

theorem State.abortSlices_course (s : State) (c : Nat) :
    s.abortSlices.course c = { s.course c with occupied := (s.course c).occupied.filter fun o => o.1 != 0 } := by
  unfold abortSlices State.course Tbl.get
  dsimp only
  rw [Tbl.find?_mapVals]
  cases s.courses.find? c with
  | none => rfl
  | some k => rfl

/-- A floor step changes the levels and the governor's record, and posts its event. -/
theorem State.floorStep_eq (s : State) : ∃ cs, (∀ c, c < 16 → (Tbl.get {} cs c : Course).r = min 8 (s.course c).r) ∧ s.floorStep =
    ({ s with courses := cs, power := { s.power with floor := true, floorAt := s.now, climbing := false, floorSteps := sat32 s.power.floorSteps 1 } } : State).postFloor := by
  have hr (c : Nat) (hc : c < 16) := s.mapRates_r (min 8) hc
  obtain ⟨cs, hcs⟩ := s.mapRates_eq (min 8)
  rw [hcs] at hr
  refine ⟨_, fun c hc => ?_, by unfold floorStep; rw [hcs]; rfl⟩
  exact (congrArg Course.r (State.abortSlices_course { s with courses := cs } c)).trans (hr c hc)

theorem State.postFloor_posted {s u : State} (hhost : u.host = s.host) (hnow : u.now = s.now) :
    eventPosted s u.postFloor 0x0804 0 0 (leBytes 2 u.budgetW ++ leBytes 1 u.postFloor.lowestRate) := by
  rw [State.lowestRate_congr (t := u.postFloor) (State.post_courses ..)]
  exact State.eventPosted_post hhost hnow _ _ _ _

/-! ## The governor's events -/

section
variable {s : State} (hup : s.up = true) (hhold : s.power.hold = false) (hquench : s.therm.quench = false)
include hup

theorem exec_governorSample_within {w : Nat} (hw : 16 * (w : Int) ≤ s.budget16) : exec (.governorSample w) s = .next (s.measure w) := by
  have hin : (s.measure w).overBudget w = false := decide_eq_false (Int.not_lt.2 hw)
  have hx : exec (.governorSample w) s = execGovernorSample w s := rfl
  rw [hx, execGovernorSample, if_pos hup, State.floorIfOver, hin]
  rfl

theorem exec_pwrAlertNAssert (h : s.power.pwrAlertN = true) :
    exec .pwrAlertNAssert s = .next (({ s.mapRates (min 4) with
      power := { s.power with pwrAlertN := false, floor := true, floorAt := s.now, climbing := false, alerts := sat32 s.power.alerts 1 } } : State).abortSlices.post
        0x0809 0 0 (leBytes 1 1)) := by
  have hx : exec .pwrAlertNAssert s = execPwrAlertNAssert s := rfl
  have hu : ({ s with power.pwrAlertN := false } : State).up = true := hup
  have hm : ({ s with power.pwrAlertN := false } : State).mapRates (min 4) = { s.mapRates (min 4) with power := { s.power with pwrAlertN := false } } := by
    rw [State.mapRates_shape, State.mapRates_shape]
  obtain ⟨cs, hcs⟩ := s.mapRates_eq (min 4)
  rw [hx, execPwrAlertNAssert, if_pos h]
  dsimp only
  rw [if_pos hu, hm, hcs]

theorem exec_pwrAlertNRelease (h : s.power.pwrAlertN = false) :
    exec .pwrAlertNRelease s = .next (({ s with power := { s.power with pwrAlertN := true, floorAt := s.now } } : State).post 0x0809 0 0 (leBytes 1 0)) := by
  have hx : exec .pwrAlertNRelease s = execPwrAlertNRelease s := rfl
  have hu : ({ s with power := { s.power with pwrAlertN := true } } : State).up = true := hup
  rw [hx, execPwrAlertNRelease, h, if_neg Bool.false_ne_true]
  dsimp only
  rw [if_pos hu]

include hhold hquench

theorem exec_governorSample_over {w : Nat} (hw : s.budget16 < 16 * (w : Int)) (hf : s.power.floor = false) :
    exec (.governorSample w) s = .next (s.measure w).floorStep := by
  have hover : (s.measure w).overBudget w = true := decide_eq_true hw
  have hh : (s.measure w).power.hold = false := hhold
  have hq : (s.measure w).therm.quench = false := hquench
  have hfl : (s.measure w).power.floor = false := hf
  have hx : exec (.governorSample w) s = execGovernorSample w s := rfl
  rw [hx, execGovernorSample, if_pos hup, State.floorIfOver, hover, hh, hq, hfl]
  rfl

theorem exec_floorStepSecondStage {w fit : Nat} (hw : s.budget16 < 16 * (w : Int)) (hf : s.power.floor = true) (hc : s.power.climbing = false)
    (ht : 1000 ≤ s.now - s.power.floorAt) :
    exec (.floorStepSecondStage w fit) s = .next (({ s with power.pinW := w } : State).mapRates (min (min 4 (max 1 fit)))).postFloor := by
  have hover : s.overBudget w = true := decide_eq_true hw
  have ht' : tUs 40 ≤ s.since s.power.floorAt := ht
  have hx : exec (.floorStepSecondStage w fit) s = execFloorStepSecondStage w fit s := rfl
  rw [hx, execFloorStepSecondStage, if_pos (by simp [hup, hf, hc, hhold, hquench, hover, ht'])]

section
variable {w q : Nat} (hw : 16 * (w : Int) ≤ s.budget16) (hf : s.power.floor = true) (hn : s.power.pwrAlertN = true)
  (ht : 25000 ≤ s.now - s.power.floorAt)
include hw hf hn ht

theorem exec_rateClimb_fits (hlow : s.lowestRate < 15) (hq : 1600 * (q : Int) ≤ 99 * s.budget16) : ∃ cs, exec (.rateClimb w q) s =
    .next { s with courses := cs, power := { s.power with pinW := w, floorAt := s.now, climbing := true } } ∧ s.raiseRates.courses = cs := by
  have ht' : tMs 1 ≤ s.since s.power.floorAt := ht
  have hin : ({ s with power.pinW := w } : State).overBudget w = false := decide_eq_false (Int.not_lt.2 hw)
  have hlow' : ({ s with power.pinW := w } : State).lowestRate < 16 := Nat.lt_succ_of_lt hlow
  have hfits : (decide (({ s with power.pinW := w } : State).lowestRate < 16) &&
      decide (1600 * (q : Int) ≤ 99 * ({ s with power.pinW := w } : State).budget16)) = true := by
    rw [decide_eq_true hlow', Bool.true_and]
    exact decide_eq_true hq
  have hx : exec (.rateClimb w q) s = execRateClimb w q s := rfl
  have htop := State.raiseRates_lowest hlow
  have hraise := s.raiseRates_pinW w
  obtain ⟨cs, hcs⟩ : ∃ cs, s.raiseRates = { s with courses := cs } := s.raiseRates_eq
  rw [hcs] at hraise htop
  refine ⟨cs, ?_, by rw [hcs]⟩
  rw [hx, execRateClimb, if_pos (by simp [hup, hhold, hquench, hn, ht'])]
  dsimp only
  rw [hin, if_neg Bool.false_ne_true, if_pos hfits, hraise, hf]
  exact congrArg Host.Outcome.next (if_neg fun h => htop (eq_of_beq (Bool.and_eq_true_iff.1 h).2))

theorem exec_rateClimb_stops (hq : 99 * s.budget16 < 1600 * (q : Int)) :
    exec (.rateClimb w q) s = .next ({ s with power.pinW := w } : State).floorEnd := by
  have ht' : tMs 1 ≤ s.since s.power.floorAt := ht
  have hin : ({ s with power.pinW := w } : State).overBudget w = false := decide_eq_false (Int.not_lt.2 hw)
  have hfits : (decide (({ s with power.pinW := w } : State).lowestRate < 16) &&
      decide (1600 * (q : Int) ≤ 99 * ({ s with power.pinW := w } : State).budget16)) = false := by
    rw [decide_eq_false (Int.not_le.2 hq : ¬ 1600 * (q : Int) ≤ 99 * ({ s with power.pinW := w } : State).budget16), Bool.and_false]
  have hx : exec (.rateClimb w q) s = execRateClimb w q s := rfl
  rw [hx, execRateClimb, if_pos (by simp [hup, hhold, hquench, hn, ht'])]
  dsimp only
  rw [hin, if_neg Bool.false_ne_true, hfits, if_neg Bool.false_ne_true, if_pos hf]

end
end

theorem exec_rateClimb_alert {s : State} (w q : Nat) (h : s.power.pwrAlertN = false) : exec (.rateClimb w q) s = .next s := by
  have hx : exec (.rateClimb w q) s = execRateClimb w q s := rfl
  rw [hx, execRateClimb, h, Bool.and_false, Bool.false_and, if_neg Bool.false_ne_true]

/-! ## The end of a floor step (R93, R94) -/

/-- A change of a Course that keeps a part of the record keeps that part of every Course. -/
theorem State.updCourse_part {γ : Type} (g : Course → γ) (s : State) (i c : Nat) {f : Course → Course} (hf : ∀ k, g (f k) = g k) :
    g ((s.updCourse i f).course c) = g (s.course c) := by
  by_cases h : c = i
  · rw [h, State.updCourse_course_self, hf]
  · rw [State.updCourse_course_ne _ _ h]

theorem State.checkRef_keeps {γ : Type} (φ : State → γ) (hpost : ∀ (s : State) a b c d, φ (s.post a b c d) = φ s)
    (href : ∀ (s : State) k ref, φ (s.updCourse k fun q => { q with refTemp := ref }) = φ s)
    (hret : ∀ (s : State) k, φ (s.updCourse k fun q => { q with refRetired := true }) = φ s) (s : State) (k : Nat) (ref : Int) :
    φ (s.checkRef k ref) = φ s := by
  unfold checkRef
  dsimp only
  split
  · rw [hpost, hret, href]
  · exact href ..

/-- Keep-warm checks references and turns Courses Warm. -/
theorem State.rewarm_keeps {γ : Type} (φ : State → γ) (hpost : ∀ (s : State) a b c d, φ (s.post a b c d) = φ s)
    (href : ∀ (s : State) k ref, φ (s.updCourse k fun q => { q with refTemp := ref }) = φ s)
    (hret : ∀ (s : State) k, φ (s.updCourse k fun q => { q with refRetired := true }) = φ s)
    (hpow : ∀ (s : State) k, φ (s.updCourse k fun q => { q with power := max 1 q.power }) = φ s) (s : State) : φ s.rewarm = φ s := by
  refine foldl_keeps _ φ (fun u p => ?_) _ s
  unfold warmCourses
  split
  · rfl
  · split
    · rfl
    · refine foldl_keeps _ φ (fun v k => ?_) _ u
      split
      · rfl
      · rw [hpow, State.checkRef_keeps φ hpost href hret]

theorem State.quietCourses_keeps {γ : Type} (φ : State → γ) (hset : ∀ (s : State) k n, φ (s.updCourse k fun q => { q with busyAt := n }) = φ s) (s : State) :
    φ s.quietCourses = φ s :=
  foldl_keeps _ φ (fun u c => hset u c u.now) _ s

theorem State.floorEnd_r (s : State) (c : Nat) : (s.floorEnd.course c).r = (s.course c).r := by
  unfold floorEnd
  rw [State.rewarm_keeps (fun u => (u.course c).r) (fun u a b d e => congrArg Course.r (u.post_course a b d c e)) (fun u k _ => u.updCourse_part Course.r k c fun _ => rfl)
      (fun u k => u.updCourse_part Course.r k c fun _ => rfl) (fun u k => u.updCourse_part Course.r k c fun _ => rfl),
    State.quietCourses_keeps (fun u => (u.course c).r) fun u k _ => u.updCourse_part Course.r k c fun _ => rfl]
  rfl

theorem State.floorEnd_power (s : State) : s.floorEnd.power = { s.power with floor := false, climbing := false } := by
  unfold floorEnd
  rw [State.rewarm_keeps State.power State.post_power (fun _ _ _ => rfl) (fun _ _ => rfl) (fun _ _ => rfl), State.quietCourses_keeps State.power fun _ _ _ => rfl]

/-! ## The clock of a Pier (R223) -/

theorem State.pierClock_highest {s : State} {p hi : Nat} (hle : ∀ i, i < 4 → (s.course (4 * p + i)).r ≤ hi) (hat : ∃ i, i < 4 ∧ (s.course (4 * p + i)).r = hi) :
    s.pierClock p = tileClock hi := by
  have hfold : (List.range 4).foldl (fun a i => max a (s.course (4 * p + i)).r) 0 = hi := by
    have h0 := hle 0 (by omega)
    have h1 := hle 1 (by omega)
    have h2 := hle 2 (by omega)
    have h3 := hle 3 (by omega)
    obtain ⟨i, hi4, hi⟩ := hat
    have hcases : i = 0 ∨ i = 1 ∨ i = 2 ∨ i = 3 := by omega
    have hrange : List.range 4 = [0, 1, 2, 3] := rfl
    rw [hrange]
    simp only [List.foldl_cons, List.foldl_nil]
    rcases hcases with rfl | rfl | rfl | rfl <;> omega
  unfold pierClock
  rw [hfold]

end Sys2Proof.Machine
end

section
/-! The proof of O42. -/

namespace Sys2Proof.Machine

/-- Settles O42: each event by its equation; a floor step by what `floorStep_eq` gives. -/
theorem governorKeepsTheBudget : Obligations.GovernorKeepsTheBudget := by
  intro s hup hhold hquench
  refine ⟨?floor, ?within, ?second, ?climb, fun w q h => exec_rateClimb_alert w q h, ?alert, ?release,
    fun p hi hle hat => State.pierClock_highest hle hat⟩
  case floor =>
    intro w hw hf
    obtain ⟨cs, hr, heq⟩ := (s.measure w).floorStep_eq
    rw [exec_governorSample_over hup hhold hquench hw hf, heq]
    refine ⟨_, rfl, ?_, ?_, ?_, ?_, ?_, fun c hc => ?_, State.postFloor_posted rfl rfl, State.post_parts .., State.post_ctxs ..⟩
    all_goals unfold State.postFloor
    · rw [State.post_power]; rfl
    · rw [State.post_power]; rfl
    · rw [State.post_power]
    · rw [State.post_power]; rfl
    · rw [State.post_power]; rfl
    · rw [State.post_course]
      exact hr c hc
  case within =>
    intro w hw
    exact exec_governorSample_within hup hw
  case second =>
    intro w fit hw hf hc ht hfit
    have hr (c : Nat) (hc : c < 16) := ({ s with power.pinW := w } : State).mapRates_r (min (min 4 (max 1 fit))) hc
    obtain ⟨cs, hcs⟩ := ({ s with power.pinW := w } : State).mapRates_eq (min (min 4 (max 1 fit)))
    rw [exec_floorStepSecondStage hup hhold hquench hw hf hc ht, hcs]
    rw [hcs] at hr
    refine ⟨_, rfl, fun c hc => ?_, State.post_parts .., ?_⟩
    · unfold State.postFloor
      rw [State.post_course, hr c hc, Nat.max_eq_right hfit]
      rfl
    · unfold State.postFloor
      rw [State.post_power]
      exact hf
  case climb =>
    intro w q hw hf hn ht
    refine ⟨fun hlow hq => ?_, fun hq => ⟨_, exec_rateClimb_stops hup hhold hquench hw hf hn ht hq, fun c _ => State.floorEnd_r _ c, ?_⟩⟩
    · obtain ⟨cs, hx, hcs⟩ := exec_rateClimb_fits hup hhold hquench hw hf hn ht hlow hq
      refine ⟨_, hx, fun c hc => ?_, rfl, rfl, hf⟩
      rw [← State.raiseRates_r s (by omega) hc, State.course, State.course, hcs]
    · rw [State.floorEnd_power]
  case alert =>
    intro h
    have hr (c : Nat) (hc : c < 16) := s.mapRates_r (min 4) hc
    obtain ⟨cs, hcs⟩ := s.mapRates_eq (min 4)
    rw [hcs] at hr
    have hone : leBytes 1 1 = [1] := rfl
    rw [exec_pwrAlertNAssert hup h, hcs, hone]
    refine ⟨_, rfl, ?_, fun c hc => ?_, ?_, ?_, ?_, State.post_parts ..⟩
    · rw [State.post_power]; rfl
    · rw [State.post_course, State.abortSlices_course]
      exact hr c hc
    · rw [State.post_power]; rfl
    · rw [State.post_power]; rfl
    · apply State.eventPosted_post
      · rfl
      · rfl
  case release =>
    intro h
    have hzero : leBytes 1 0 = [0] := rfl
    rw [exec_pwrAlertNRelease hup h, hzero]
    refine ⟨_, rfl, ?_, ?_, ?_, State.post_courses .., ?_⟩
    · rw [State.post_power]
    · rw [State.post_power]
    · rw [State.post_power]
    · apply State.eventPosted_post
      · rfl
      · rfl

end Sys2Proof.Machine
end

section
/-! SUPPORT. The power commands, the lease and the orderly shutdown (R227, R229, R236, R237). -/

namespace Sys2Proof.Machine

/-! ## A change of B (R227) -/

/-- A change of B starts the floor step or does nothing. -/
theorem State.review_cases (s : State) : s.review = s ∨ s.review = s.floorStep := by
  unfold review floorIfOver
  split
  · exact .inr rfl
  · exact .inl rfl

/-- A floor step, or none: the governor's record changes by the step's own fields. -/
theorem State.floorStep_power (s : State) : s.floorStep.power =
    { s.power with floor := true, floorAt := s.now, climbing := false, floorSteps := sat32 s.power.floorSteps 1 } := by
  obtain ⟨cs, -, heq⟩ := s.floorStep_eq
  rw [heq]
  exact State.post_power ..

theorem State.floorStep_r (s : State) {c : Nat} (hc : c < 16) : (s.floorStep.course c).r = min 8 (s.course c).r := by
  obtain ⟨cs, hr, heq⟩ := s.floorStep_eq
  rw [heq]
  unfold postFloor
  rw [State.post_course]
  exact hr c hc

/-- A floor step changes the Courses and the governor's record, and posts an event. -/
theorem State.floorStep_keeps {γ : Type} (φ : State → γ) (hpost : ∀ (s : State) a b c d, φ (s.post a b c d) = φ s)
    (hset : ∀ (s : State) cs pw, φ { s with courses := cs, power := pw } = φ s) (s : State) : φ s.floorStep = φ s := by
  obtain ⟨cs, -, heq⟩ := s.floorStep_eq
  rw [heq]
  exact (hpost ..).trans (hset s _ _)

/-- A part of the governor's record that a floor step keeps. -/
theorem State.review_power {γ : Type} (φ : Power → γ)
    (hstep : ∀ (p : Power) at' n, φ { p with floor := true, floorAt := at', climbing := false, floorSteps := n } = φ p) (s : State) :
    φ s.review.power = φ s.power := by
  rcases s.review_cases with h | h
  · rw [h]
  · rw [h, State.floorStep_power, hstep]

theorem State.setCap_power {γ : Type} (φ : Power → γ)
    (hstep : ∀ (p : Power) at' n, φ { p with floor := true, floorAt := at', climbing := false, floorSteps := n } = φ p) (s : State) (w : Nat) :
    φ (s.setCap w).power = φ { s.power with capW := w } := by
  unfold setCap
  dsimp only
  split
  · rw [State.floorStep_power, hstep]
  · rw [State.review_power φ hstep]

theorem State.setCap_keeps {γ : Type} (φ : State → γ) (hpost : ∀ (s : State) a b c d, φ (s.post a b c d) = φ s)
    (hset : ∀ (s : State) cs pw, φ { s with courses := cs, power := pw } = φ s) (s : State) (w : Nat) : φ (s.setCap w) = φ s := by
  have hcap : φ { s with power.capW := w } = φ s := hset s _ _
  unfold setCap
  dsimp only
  split
  · rw [State.floorStep_keeps φ hpost hset, hcap]
  · rw [State.review_keeps φ hpost hset, hcap]

theorem State.setCap_lower {s : State} {w : Nat} (hw : w < s.power.capW) (hh : s.power.hold = false) (hq : s.therm.quench = false) :
    s.setCap w = ({ s with power.capW := w } : State).floorStep := by
  unfold setCap
  rw [hh, hq, decide_eq_true hw]
  rfl

/-! ## Requests of their layout -/

section
variable {s : State} {m : Mb} {r : Req}

theorem exec_pwrCap (h : s.runs m 0x0801 false = some r) (hl : r.len = 4) (hz : r.u16 2 = 0) :
    exec (.pwrCap m) s = .next (((s.taken m).pwrCap r).1.respond m 0x0801 r.tag ((s.taken m).pwrCap r).2) :=
  congrArg Host.Outcome.next (State.mbRun_ok (lenIs 4 [(2, 2)]) State.pwrCap h (lenIs_ok hl fun _ hp => List.mem_singleton.1 hp ▸ hz))

theorem exec_pwrProfile (h : s.runs m 0x0802 false = some r) (hl : r.len = 4) (hz : field r.pay 1 3 = 0) :
    exec (.pwrProfile m) s = .next (((s.taken m).pwrProfile r).1.respond m 0x0802 r.tag ((s.taken m).pwrProfile r).2) :=
  congrArg Host.Outcome.next (State.mbRun_ok (lenIs 4 [(1, 3)]) State.pwrProfile h (lenIs_ok hl fun _ hp => List.mem_singleton.1 hp ▸ hz))

theorem exec_pwrStatus (h : s.runs m 0x0803 false = some r) (hl : r.len = 0) :
    exec (.pwrStatus m) s = .next (((s.taken m).pwrStatus r).1.respond m 0x0803 r.tag ((s.taken m).pwrStatus r).2) :=
  congrArg Host.Outcome.next (State.mbRun_ok (lenIs 0 []) State.pwrStatus h (lenIs_ok hl fun _ hp => nomatch hp))

theorem exec_pwrShutdown (h : s.runs m 0x0804 false = some r) (hl : r.len = 4) :
    exec (.pwrShutdown m) s = .next (((s.taken m).pwrShutdown r).1.respond m 0x0804 r.tag ((s.taken m).pwrShutdown r).2) :=
  congrArg Host.Outcome.next (State.mbRun_ok (lenIs 4 []) State.pwrShutdown h (lenIs_ok hl fun _ hp => nomatch hp))

end

/-! ## PWR_CAP and the lease (R229) -/

section
variable {s : State} {q : Req}

theorem State.pwrCap_range (h : q.u16 0 < 300 ∨ 1500 < q.u16 0) : s.pwrCap q = (s, failR St.badArg) := by
  unfold pwrCap
  rw [if_pos (by simpa using h)]

/-- A cap renews the lease. -/
def State.leased (s : State) : State := { s with power := { s.power with lease := 0, leaseAt := s.now } }

theorem State.pwrCap_ok (h1 : 300 ≤ q.u16 0) (h2 : q.u16 0 ≤ 1500) : s.pwrCap q = (s.leased.setCap (q.u16 0),
    okR (leBytes 2 (s.leased.setCap (q.u16 0)).budgetW ++ leBytes 1 (s.leased.setCap (q.u16 0)).limitSrc ++ [0])) := by
  unfold pwrCap
  rw [if_neg (by simp; omega)]
  rfl

theorem exec_leaseLapsed (hup : s.up = true) (hl : s.power.lease = 0) (ht : 125000000 ≤ s.now - s.power.leaseAt) :
    exec .leaseLapsed s = .next (({ s with power := { s.power with lease := 1, leaseAt := s.now } } : State).post 0x0805 0 0 (leBytes 2 s.power.capW)) := by
  have ht' : tS 5 ≤ s.since s.power.leaseAt := ht
  have hx : exec .leaseLapsed s = execLeaseLapsed s := rfl
  rw [hx, execLeaseLapsed, if_pos (by simp [hup, hl, ht'])]

theorem exec_fallbackCap (hup : s.up = true) (hl : s.power.lease = 1) (ht : 1500000000 ≤ s.now - s.power.leaseAt) :
    exec .fallbackCap s = .next ((({ s with power.lease := 2 } : State).setCap s.fallbackW).post 0x0806 0 0 (leBytes 2 s.fallbackW)) := by
  have ht' : tS 60 ≤ s.since s.power.leaseAt := ht
  have hx : exec .fallbackCap s = execFallbackCap s := rfl
  rw [hx, execFallbackCap, if_pos (by simp [hup, hl, ht'])]

end

/-! ## PWR_PROFILE (R224, R225) -/

section
variable {s : State} {q : Req}

/-- The profile that is selected, and what it changes. -/
def State.selected (s : State) (q : Req) : State := (({ s with power.eco := q.u8 0 == 1 } : State).noteProfile s.profile).review

theorem State.pwrProfile_range (h : 1 < q.u8 0) : s.pwrProfile q = (s, failR St.badArg) := by
  unfold pwrProfile
  rw [if_pos h]

theorem State.pwrProfile_ok (h : q.u8 0 ≤ 1) : s.pwrProfile q = (s.selected q, okR (leBytes 1 (s.selected q).profile ++ [0, 0, 0])) := by
  unfold pwrProfile
  rw [if_neg (by omega)]
  rfl

theorem State.selected_power {γ : Type} (φ : Power → γ)
    (hstep : ∀ (p : Power) at' n, φ { p with floor := true, floorAt := at', climbing := false, floorSteps := n } = φ p) :
    φ (s.selected q).power = φ { s.power with eco := q.u8 0 == 1 } := by
  unfold selected
  rw [State.review_power φ hstep, State.noteProfile_keeps State.power State.post_power]

theorem State.profile_free {t : State} (h : t.safeCauses = 0) : t.profile = boolN t.power.eco := by
  unfold profile safeCause
  rw [h]
  rfl

end

/-! ## The orderly shutdown (R236) -/

/-- A handover is a note of the twin pair and a packet sent. -/
theorem State.handover_keeps {γ : Type} (φ : State → γ) (hsend : ∀ s : State, φ s.unsent = φ s) (htwin : ∀ (s : State) tw, φ { s with twin := tw } = φ s)
    (s : State) (cause : Nat) : φ (s.handover cause) = φ s := by
  unfold handover
  split
  · split
    · exact ((State.sendRouted_transmits _ _).keeps φ hsend).trans (htwin s _)
    · rfl
  · rfl

section
variable {s : State} {q : Req}

/-- Step 1 of the shutdown. -/
def State.draining (s : State) (ms : Nat) : State :=
  { s with power := { s.power with phase := 3, drain := some (ms, s.now - s.power.holdTicks), shutStep := 1 } }

theorem State.pwrShutdown_range (h : 60000 < q.u32 0) : s.pwrShutdown q = (s, failR St.badArg) := by
  unfold pwrShutdown
  rw [if_pos h]

theorem State.pwrShutdown_ok (h : q.u32 0 ≤ 60000) (hheld : s.held (11, 0) = false) (hact : s.fw.act = none) :
    s.pwrShutdown q = (((s.accept q .shutdown).1.draining (q.u32 0)).handover 1, (s.accept q .shutdown).2) := by
  unfold pwrShutdown isActivating
  rw [if_neg (by omega), hheld, hact]
  rfl

theorem exec_shutdownDrainTimeout_over {ms : Nat} {u : Tick} (hd : s.power.drain = some (ms, u)) (hup : s.up = true) (hstep : s.power.shutStep = 1)
    (hh : s.power.hold = false) (ht : 25000 * ms ≤ s.now - s.power.holdTicks - u ∨ s.allDone = true) :
    exec .shutdownDrainTimeout s = .next { s.endAllQueued (fun _ => true) St.cancelled with power.shutStep := 2 } := by
  have hx : exec .shutdownDrainTimeout s = execShutdownDrainTimeout s := rfl
  have hpast : s.drainPast ms u = true := by
    unfold State.drainPast
    rw [hh]
    exact Bool.or_eq_true_iff.2 (ht.imp_left fun h => decide_eq_true h)
  rw [hx, execShutdownDrainTimeout, hd]
  dsimp only
  rw [hup, hstep, hpast]
  rfl

theorem exec_shutdownDrainTimeout_held (hh : s.power.hold = true) : exec .shutdownDrainTimeout s = .next s := by
  have hx : exec .shutdownDrainTimeout s = execShutdownDrainTimeout s := rfl
  rw [hx, execShutdownDrainTimeout]
  split
  · rfl
  · unfold State.drainPast
    rw [hh, Bool.not_true, Bool.false_and, Bool.and_false, if_neg Bool.false_ne_true]

/-- Whether an operation is the shutdown's. -/
def OpKind.isShutdown (k : OpKind) : Bool := match k with | .shutdown => true | _ => false

/-- The record of step 4, and its step (R270). -/
def State.shutRecorded (s : State) (found n : Nat) : State :=
  { s with
    fw := { s.fw with shutRec := some ⟨s.fw.boot, n % 8, s.now, (s.activeImage 0).version, found, s.ledgerDigest, s.profileDigest⟩ }
    power := { s.power with shutStep := 4, shutAt := s.now } }

theorem exec_shutdownBistDone (hup : s.up = true) (hstep : s.power.shutStep = 2) (hjob : s.anyJob = false) (hh : s.power.hold = false) (n : Nat) :
    exec (.shutdownBistDone [] n) s = .next ((s.shutRecorded 0 n).finishOps OpKind.isShutdown St.ok) := by
  have hx : exec (.shutdownBistDone [] n) s = execShutdownBistDone [] n s := rfl
  rw [hx, execShutdownBistDone, hup, hstep, hjob, hh]
  rfl

theorem exec_shutdownPowerOff (hup : s.up = true) (hstep : s.power.shutStep = 4) (ht : 250000 ≤ s.now - s.power.shutAt) (hh : s.power.hold = false) :
    exec .shutdownPowerOff s = .next { s.dropAll.stagesOff true with power.shutStep := 4, flt.unflushed := [] } := by
  have ht' : tMs 10 ≤ s.since s.power.shutAt := ht
  have hx : exec .shutdownPowerOff s = execShutdownPowerOff s := rfl
  rw [hx, execShutdownPowerOff, if_pos (by simp [hup, hstep, ht', hh])]

end

end Sys2Proof.Machine
end

section
/-! The proof of O43. -/

namespace Sys2Proof.Machine

/-- Settles O43: each command and each instant by its equation; what a change of B does by `review_cases`. -/
theorem powerCommandsAct : Obligations.PowerCommandsAct := by
  refine ⟨?cap, ?lapse, ?fallback, ?profile, ?status, ?shutdown, ?drain, ?bist, ?off⟩
  case cap =>
    intro s m r h hl hz
    rw [exec_pwrCap h hl hz]
    refine ⟨fun hr => by rw [State.pwrCap_range hr]; rfl, fun h1 h2 => ?_⟩
    rw [State.pwrCap_ok h1 h2]
    refine ⟨_, rfl, State.setCap_power Power.capW (fun _ _ _ => rfl) .., State.setCap_power Power.lease (fun _ _ _ => rfl) ..,
      State.setCap_power Power.leaseAt (fun _ _ _ => rfl) .., State.setCap_keeps State.ctxs State.post_ctxs (fun _ _ _ => rfl) ..,
      State.setCap_keeps State.parts State.post_parts (fun _ _ _ => rfl) .., fun hw hh hq => ?_⟩
    rw [State.setCap_lower (s := (s.taken m).leased) hw hh hq, State.floorStep_power]
    exact ⟨rfl, rfl, rfl, fun c hc => State.floorStep_r _ hc⟩
  case lapse =>
    intro s hup hl ht
    rw [exec_leaseLapsed hup hl ht]
    refine ⟨_, rfl, ?_, ?_, ?_, ?_⟩
    · rw [State.post_power]
    · rw [State.post_power]
    · rw [State.post_power]
    · apply State.eventPosted_post
      · rfl
      · rfl
  case fallback =>
    intro s hup hl ht
    rw [exec_fallbackCap hup hl ht]
    refine ⟨_, rfl, ?_, ?_, ?_⟩
    · rw [State.post_power]
      exact State.setCap_power Power.lease (fun _ _ _ => rfl) ..
    · rw [State.post_power]
      exact State.setCap_power Power.capW (fun _ _ _ => rfl) ..
    · rw [State.post_parts]
      exact State.setCap_keeps State.parts State.post_parts (fun _ _ _ => rfl) ..
  case profile =>
    intro s m r h hl hz
    rw [exec_pwrProfile h hl hz]
    refine ⟨fun hr => by rw [State.pwrProfile_range hr]; rfl, fun hr => ?_⟩
    rw [State.pwrProfile_ok hr]
    have heco := State.selected_power (s := s.taken m) (q := r) Power.eco fun _ _ _ => rfl
    refine ⟨_, rfl, heco, State.profile_safe, fun hsafe => ?_, State.selected_power Power.capW fun _ _ _ => rfl⟩
    rw [State.profile_free hsafe, heco]
    rcases Nat.le_one_iff_eq_zero_or_eq_one.1 hr with h0 | h1
    · rw [h0]; rfl
    · rw [h1]; rfl
  case status =>
    intro s m r h hl
    rw [exec_pwrStatus h hl]
    exact ⟨_, rfl, rfl⟩
  case shutdown =>
    intro s m r h hl
    rw [exec_pwrShutdown h hl]
    refine ⟨fun hr => by rw [State.pwrShutdown_range hr]; rfl, fun hr hheld hact hop => ?_⟩
    rw [State.pwrShutdown_ok (s := s.taken m) hr hheld hact, State.accept_next (s := s.taken m) hop]
    have hpower := State.handover_keeps State.power (fun _ => rfl) fun _ _ => rfl
    refine ⟨_, rfl, ?_, ?_, ?_, State.handover_keeps State.ctxs (fun _ => rfl) (fun _ _ => rfl) .., State.handover_keeps State.parts (fun _ => rfl) (fun _ _ => rfl) ..,
      State.handover_keeps (fun t => t.mason.ops) (fun _ => rfl) (fun _ _ => rfl) ..⟩
    · rw [hpower]; rfl
    · rw [hpower]; rfl
    · rw [hpower]; rfl
  case drain =>
    intro s ms u hd hup hstep
    exact ⟨fun hh ht => exec_shutdownDrainTimeout_over hd hup hstep hh ht, exec_shutdownDrainTimeout_held⟩
  case bist =>
    intro s n hup hstep hjob hh
    rw [exec_shutdownBistDone hup hstep hjob hh]
    refine ⟨_, rfl, ?_, ?_, ⟨_, by rw [State.finishOps_fw]; rfl, rfl, rfl⟩, fun o ho he => ?_⟩
    · rw [State.finishOps_power]; rfl
    · rw [State.finishOps_power]; rfl
    · have hk := (State.finishOps_mem _ _ _ _ o ho).2
      rw [he] at hk
      cases hk
  case off =>
    intro s hup hstep ht hh
    exact ⟨_, exec_shutdownPowerOff hup hstep ht hh, rfl, rfl, rfl, rfl, rfl, rfl, rfl, rfl, rfl⟩

end Sys2Proof.Machine
end

section
/-! SUPPORT. The 54 V input (R225, R230): the comparators, the Hold and its end, the Safe cause of the supply. -/

namespace Sys2Proof.Machine

/-! ## The Hold (R230) -/

section
variable {s : State} {mv : Nat}

/-- The Hold begins. -/
def State.heldFrom (s : State) (mv : Nat) : State :=
  { s.seeInput mv with power := { (s.seeInput mv).power with hold := true, holdAt := s.now, holdMin := mv, holds := sat32 s.power.holds 1 } }

theorem exec_supplyHold_begins (hst : s.power.stages = true) (h1 : 40000 ≤ mv) (h2 : mv < 43000) (hh : s.power.hold = false) :
    exec (.supplyHold mv) s = .next ((s.heldFrom mv).abortSlices.post 0x0801 0 0 (leBytes 2 mv)) := by
  have hx : exec (.supplyHold mv) s = execSupplyHold mv s := rfl
  have hh' : (s.seeInput mv).power.hold = false := hh
  rw [hx, execSupplyHold, if_pos (by simp [hst, h1, h2])]
  dsimp only
  rw [hh', if_neg Bool.false_ne_true]
  rfl

theorem exec_supplyHold_goes_on (hst : s.power.stages = true) (h1 : 40000 ≤ mv) (h2 : mv < 43000) (hh : s.power.hold = true) :
    exec (.supplyHold mv) s = .next (s.seeInput mv) := by
  have hx : exec (.supplyHold mv) s = execSupplyHold mv s := rfl
  have hh' : (s.seeInput mv).power.hold = true := hh
  rw [hx, execSupplyHold, if_pos (by simp [hst, h1, h2])]
  dsimp only
  rw [if_pos hh']

theorem exec_supplyRecovered (hst : s.power.stages = true) (h1 : 43000 ≤ mv) (h2 : mv ≤ 58000) : exec (.supplyRecovered mv) s = .next (s.seeInput mv) := by
  have hx : exec (.supplyRecovered mv) s = execSupplyRecovered mv s := rfl
  rw [hx, execSupplyRecovered, if_pos (by simp [hst, h1, h2])]

/-- What an input voltage that is back above 44 V leaves. -/
theorem State.seeInput_recovered (h : 44000 < mv) :
    (s.seeInput mv).power.lowAt = none ∧ (s.seeInput mv).power.recoverAt = s.power.recoverAt.orElse fun _ => some s.now := by
  have hlow : ¬ mv < 43000 := by omega
  have hback : 43300 ≤ mv := by omega
  exact ⟨(if_neg hlow).trans (if_pos hback), if_pos h⟩

end

/-! ## The end of the Hold -/

/-- The end of the Hold, posted with its length and least voltage. -/
def State.holdOver (s : State) : State :=
  ({ s with power.hold := false } : State).exportHeld.post 0x0802 0 0 (leBytes 8 (40 * s.since s.power.holdAt) ++ leBytes 2 s.power.holdMin)

theorem State.exportHeld_none {s : State} (h : s.fab.heldOut = []) : s.exportHeld = s := by
  unfold exportHeld
  rw [h, List.foldl_nil, ← h]

theorem State.holdOver_alone {s : State} (h : s.fab.heldOut = []) : s.holdOver =
    ({ s with power.hold := false } : State).post 0x0802 0 0 (leBytes 8 (40 * s.since s.power.holdAt) ++ leBytes 2 s.power.holdMin) := by
  unfold holdOver
  rw [State.exportHeld_none (s := { s with power.hold := false }) h]

/-- No request comes where none waited. -/
theorem State.holdOver_reqs {s : State} (hreqs : ∀ c, (s.course c).reqs = []) (hheld : s.fab.heldOut = []) (c : Nat) :
    (s.holdOver.quietCourses.rewarm.course c).reqs = [] := by
  rw [State.rewarm_keeps (fun u => (u.course c).reqs) (fun u a b d e => congrArg Course.reqs (u.post_course a b d c e))
      (fun u k _ => u.updCourse_part Course.reqs k c fun _ => rfl) (fun u k => u.updCourse_part Course.reqs k c fun _ => rfl)
      (fun u k => u.updCourse_part Course.reqs k c fun _ => rfl),
    State.quietCourses_keeps (fun u => (u.course c).reqs) (fun u k _ => u.updCourse_part Course.reqs k c fun _ => rfl),
    State.holdOver_alone hheld, State.post_course]
  exact hreqs c

/-- Work resumes on Courses that are quiet from now on. -/
def State.resumed (s : State) : State := s.holdOver.quietCourses.rewarm.applyAll.review

theorem exec_holdEnd {s : State} {u : Tick} (hst : s.power.stages = true) (hh : s.power.hold = true) (hr : s.power.recoverAt = some u) (ht : 25000 ≤ s.now - u) :
    exec .holdEnd s = .next (if s.resumed.power.heldStep7 then s.resumed.step7 else s.resumed) := by
  have hx : exec .holdEnd s = execHoldEnd s := rfl
  have hpassed : s.passed s.power.recoverAt (tMs 1) = true := by
    rw [hr]
    exact decide_eq_true ht
  rw [hx, execHoldEnd, hst, hh, hpassed]
  rfl

/-- Without requests of the Courses and packets that wait, the end of a Hold changes Courses and the governor's record, and posts events. -/
theorem State.resumed_keeps {γ : Type} (φ : State → γ) (hpost : ∀ (s : State) a b c d, φ (s.post a b c d) = φ s)
    (hset : ∀ (s : State) cs pw, φ { s with courses := cs, power := pw } = φ s) {s : State} (hreqs : ∀ c, (s.course c).reqs = [])
    (hheld : s.fab.heldOut = []) : φ s.resumed = φ s := by
  have hcourse (u : State) (k : Nat) (f : Course → Course) : φ (u.updCourse k f) = φ u := hset u _ u.power
  have hover : φ s.holdOver = φ s := by
    rw [State.holdOver_alone hheld, hpost]
    exact hset s s.courses _
  unfold resumed applyAll
  rw [State.review_keeps φ hpost hset, State.foldl_applyDue_nil _ _ _ fun k _ => State.holdOver_reqs hreqs hheld k,
    State.rewarm_keeps φ hpost (fun u k _ => hcourse u k _) (fun u k => hcourse u k _) (fun u k => hcourse u k _),
    State.quietCourses_keeps φ (fun u k _ => hcourse u k _), hover]

theorem State.resumed_power {γ : Type} (φ : Power → γ)
    (hstep : ∀ (p : Power) at' n, φ { p with floor := true, floorAt := at', climbing := false, floorSteps := n } = φ p)
    {s : State} (hreqs : ∀ c, (s.course c).reqs = []) (hheld : s.fab.heldOut = []) : φ s.resumed.power = φ { s.power with hold := false } := by
  unfold resumed applyAll
  rw [State.review_power φ hstep, State.foldl_applyDue_nil _ _ _ fun k _ => State.holdOver_reqs hreqs hheld k,
    State.rewarm_keeps State.power State.post_power (fun _ _ _ => rfl) (fun _ _ => rfl) (fun _ _ => rfl),
    State.quietCourses_keeps State.power (fun _ _ _ => rfl), State.holdOver_alone hheld, State.post_power]

/-- A start-up that waited for the end of the Hold alone brings the link up. -/
theorem State.step7_up {s : State} (hlife : s.sec.life ≠ 4) (hperst : s.power.perstN = true) (hh : s.power.hold = false) : s.step7 =
    { s with host.linkUp := true, power := { s.power with heldStep7 := false, phase := if s.power.phase == 2 then 2 else 1 } } := by
  unfold step7
  rw [beq_false_of_ne hlife, if_neg Bool.false_ne_true, hperst, hh]
  rfl

/-- Step 7 changes the link, the record of the supply, or nothing. -/
theorem State.step7_keeps {γ : Type} (φ : State → γ) (hset : ∀ (s : State) h pw, φ { s with host := h, power := pw } = φ s) (s : State) :
    φ s.step7 = φ s := by
  unfold step7
  split
  · rfl
  · split
    · exact hset s s.host _
    · exact hset ..

/-! ## The Safe cause of the supply (R225) -/

section
variable {s : State} {u : Tick}

/-- The supply is a Safe cause, or is none any more. -/
def State.supplySafe (s : State) (b : Bool) : State := (({ s with power.safeSupply := b } : State).noteProfile s.profile).review

theorem exec_longDip (hst : s.power.stages = true) (hs : s.power.safeSupply = false) (hl : s.power.lowAt = some u) (ht : 500000 ≤ s.now - u) :
    exec .longDip s = .next (s.supplySafe true) := by
  have hx : exec .longDip s = execLongDip s := rfl
  have hpassed : s.passed s.power.lowAt (tMs 20) = true := by
    rw [hl]
    exact decide_eq_true ht
  rw [hx, execLongDip, hst, hs, hpassed]
  rfl

theorem exec_safeCauseClear_supply (hup : s.up = true) (hs : s.power.safeSupply = true) (ho : s.power.okAt = some u) (ht : 250000000 ≤ s.now - u) :
    exec (.safeCauseClear 0) s = .next (s.supplySafe false) := by
  have hx : exec (.safeCauseClear 0) s = execSafeCauseClear 0 s := rfl
  have hpassed : s.passed s.power.okAt (tS 10) = true := by
    rw [ho]
    exact decide_eq_true ht
  rw [hx, execSafeCauseClear, hup]
  dsimp only
  rw [hs, hpassed]
  rfl

theorem State.supplySafe_keeps {γ : Type} (φ : State → γ) (hpost : ∀ (s : State) a b c d, φ (s.post a b c d) = φ s)
    (hset : ∀ (s : State) cs pw, φ { s with courses := cs, power := pw } = φ s) (s : State) (b : Bool) : φ (s.supplySafe b) = φ s := by
  unfold supplySafe
  rw [State.review_keeps φ hpost hset, State.noteProfile_keeps φ hpost]
  exact hset s s.courses _

theorem State.supplySafe_power (s : State) (b : Bool) : (s.supplySafe b).power.safeSupply = b := by
  unfold supplySafe
  rw [State.review_power Power.safeSupply fun _ _ _ => rfl, State.noteProfile_keeps State.power State.post_power]

theorem State.safeCauses_supply {t : State} (h : t.power.safeSupply = true) : t.safeCauses ≠ 0 := by
  have hone : boolN t.power.safeSupply = 1 := by
    rw [h]
    rfl
  unfold safeCauses
  omega

end

/-! ## An input above 58.0 V -/

section
variable {s : State} {mv : Nat}

theorem State.seeInput_high (h : 58000 < mv) : (s.seeInput mv).power.highAt = s.power.highAt.orElse fun _ => some s.now := if_pos h

theorem exec_supplyHigh (hup : s.up = true) (h1 : 58000 < mv) (h2 : mv ≤ 59500) {posts : Bool}
    (hposts : ((s.seeInput mv).passed (s.power.highAt.orElse fun _ => some s.now) (tMs 1) &&
      (s.power.highPost.isNone || s.passed s.power.highPost (tS 60))) = posts) :
    exec (.supplyHigh mv) s = .next (if posts then ({ s.seeInput mv with power := { (s.seeInput mv).power with highPost := some s.now } } : State).post 0x0808 0 0 (leBytes 2 mv)
      else s.seeInput mv) := by
  have hx : exec (.supplyHigh mv) s = execSupplyHigh mv s := rfl
  rw [hx, execSupplyHigh, if_pos (by simp [hup, h1, h2])]
  dsimp only
  rw [State.seeInput_high h1]
  rw [← hposts]
  rfl

end

end Sys2Proof.Machine
end

section
/-! The proof of O44. -/

namespace Sys2Proof.Machine

/-- Settles O44: each event by its equation; what a Hold's end and a Safe cause leave by `resumed_keeps` and `supplySafe_keeps`. -/
theorem supplyVoltageHoldsAndSafe : Obligations.SupplyVoltageHoldsAndSafe := by
  intro s hst
  refine ⟨?begins, ?goes_on, ?recovered, ?ends, ?dip, ?clear, ?high, ?first, ?again⟩
  case begins =>
    intro mv h1 h2 hh
    rw [exec_supplyHold_begins hst h1 h2 hh]
    refine ⟨_, rfl, ?_, ?_, ?_, ?_, ?_, ?_, State.post_parts .., State.post_ctxs .., fun c => ?_⟩
    · rw [State.post_power]; rfl
    · rw [State.post_power]; rfl
    · rw [State.post_power]; rfl
    · rw [State.post_power]; rfl
    · rw [State.post_power]; rfl
    · apply State.eventPosted_post
      · rfl
      · rfl
    · rw [State.post_course, State.abortSlices_course]
      rfl
  case goes_on =>
    intro mv h1 h2 hh
    exact ⟨_, exec_supplyHold_goes_on hst h1 h2 hh, hh, rfl, if_pos hh, rfl⟩
  case recovered =>
    intro mv h1 h2
    obtain ⟨hlow, hrec⟩ := State.seeInput_recovered (s := s) h1
    refine ⟨_, exec_supplyRecovered hst (by omega) h2, rfl, hlow, fun hn => ?_, fun u hu => ?_, rfl, rfl, rfl⟩
    · rw [hrec, hn]; rfl
    · rw [hrec, hu]; rfl
  case ends =>
    intro u hh hr ht hreqs hheld
    rw [exec_holdEnd hst hh hr ht]
    have hstep7 := State.resumed_power Power.heldStep7 (fun _ _ _ => rfl) hreqs hheld
    have hhold := State.resumed_power Power.hold (fun _ _ _ => rfl) hreqs hheld
    have hperst := State.resumed_power Power.perstN (fun _ _ _ => rfl) hreqs hheld
    have hparts := State.resumed_keeps State.parts State.post_parts (fun _ _ _ => rfl) hreqs hheld
    have hctxs := State.resumed_keeps State.ctxs State.post_ctxs (fun _ _ _ => rfl) hreqs hheld
    have hmem := State.resumed_keeps State.mem State.post_mem (fun _ _ _ => rfl) hreqs hheld
    have hlife := State.resumed_keeps (fun t => t.sec.life) (fun t a b c d => congrArg (fun x => x.life) (t.post_sec a b c d)) (fun _ _ _ => rfl) hreqs hheld
    cases h7 : s.power.heldStep7 with
    | false =>
      rw [if_neg (by rw [hstep7, h7]; exact Bool.false_ne_true)]
      exact ⟨_, rfl, hhold, hparts, hctxs, hmem, nofun⟩
    | true =>
      rw [if_pos (hstep7.trans h7)]
      refine ⟨_, rfl, ?_, (State.step7_keeps State.parts (fun _ _ _ => rfl) _).trans hparts, (State.step7_keeps State.ctxs (fun _ _ _ => rfl) _).trans hctxs,
        (State.step7_keeps State.mem (fun _ _ _ => rfl) _).trans hmem, fun _ hp hl => ?_⟩
      · unfold State.step7
        split
        · exact hhold
        · split
          · exact hhold
          · exact hhold
      · rw [State.step7_up (hlife.trans_ne hl) (hperst.trans hp) hhold]
        exact ⟨rfl, rfl⟩
  case dip =>
    intro u hs hl ht
    exact ⟨_, exec_longDip hst hs hl ht, State.supplySafe_power .., State.profile_safe (State.safeCauses_supply (State.supplySafe_power ..)),
      State.supplySafe_keeps State.parts State.post_parts (fun _ _ _ => rfl) .., State.supplySafe_keeps State.ctxs State.post_ctxs (fun _ _ _ => rfl) ..⟩
  case clear =>
    intro u hup hs ho ht
    exact ⟨_, exec_safeCauseClear_supply hup hs ho ht, State.supplySafe_power .., State.supplySafe_keeps State.parts State.post_parts (fun _ _ _ => rfl) ..,
      State.supplySafe_keeps State.ctxs State.post_ctxs (fun _ _ _ => rfl) .., State.supplySafe_keeps State.therm State.post_therm (fun _ _ _ => rfl) ..⟩
  case high =>
    intro mv u hup h1 h2 hu ht hp
    have hlong : decide (tMs 1 ≤ s.now - u) = true := decide_eq_true ht
    rw [exec_supplyHigh (posts := true) hup h1 h2 (by rw [hu, hp]; exact (Bool.and_true _).trans hlong), if_pos rfl]
    refine ⟨_, rfl, ?_, ?_, ?_, State.post_parts ..⟩
    · rw [State.post_power]
    · rw [State.post_power]; rfl
    · apply State.eventPosted_post
      · rfl
      · rfl
  case first =>
    intro mv hup h1 h2 hn
    have hnew : decide (tMs 1 ≤ s.now - s.now) = false := decide_eq_false (by rw [Nat.sub_self]; decide)
    rw [exec_supplyHigh (posts := false) hup h1 h2 (by rw [hn]; exact Bool.and_eq_false_iff.2 (.inl hnew)), if_neg Bool.false_ne_true]
    exact ⟨_, rfl, (State.seeInput_high h1).trans (by rw [hn]; rfl), rfl, rfl⟩
  case again =>
    intro mv u hup h1 h2 hp ht
    have hrecent : decide (tS 60 ≤ s.now - u) = false := decide_eq_false (Nat.not_le.2 ht)
    rw [exec_supplyHigh (posts := false) hup h1 h2 (by rw [hp]; exact Bool.and_eq_false_iff.2 (.inr hrecent)), if_neg Bool.false_ne_true]
    exact ⟨_, rfl, hp, rfl⟩

end Sys2Proof.Machine
end

section
/-! SUPPORT. Losses of power and warm resets (R230, R232, R233, R235, R250). -/

namespace Sys2Proof.Machine

/-! ## What a loss takes back -/

theorem State.undoBurn_keeps {γ : Type} (φ : State → γ)
    (hset : ∀ (s : State) c t p tr pl fl fa, φ { s with courses := c, tiles := t, piers := p, trowel := tr, therm.plinth := pl, flt := fl, fab.ports := fa } = φ s)
    (s : State) (f : Fuse) : φ (s.undoBurn f) = φ s := by
  have hunit (u : State) (k i : Nat) (g : Unit → Unit) : φ (u.updUnit k i g) = φ u := hset u u.courses u.tiles u.piers u.trowel u.therm.plinth _ u.fab.ports
  have hcourse (u : State) (i : Nat) (g : Course → Course) : φ (u.updCourse i g) = φ u := hset u _ u.tiles u.piers u.trowel u.therm.plinth u.flt u.fab.ports
  have hpier (u : State) (i : Nat) (g : Pier → Pier) : φ (u.updPier i g) = φ u := hset u u.courses u.tiles _ u.trowel u.therm.plinth u.flt u.fab.ports
  have hcore (u : State) (i : Nat) (g : Core → Core) : φ (u.updCore i g) = φ u := hset u u.courses u.tiles u.piers _ u.therm.plinth u.flt u.fab.ports
  have hport (u : State) (i : Nat) (g : FPort → FPort) : φ (u.updPort i g) = φ u := hset u u.courses u.tiles u.piers u.trowel u.therm.plinth u.flt _
  have hpair (u : State) (i : Nat) (g : Tile → Tile) : φ (u.updPair i g) = φ u := by
    unfold updPair
    split
    · exact hset u u.courses _ u.piers u.trowel u.therm.plinth u.flt u.fab.ports
    · exact hset u u.courses u.tiles u.piers u.trowel _ u.flt u.fab.ports
  have hriddle (u : State) (l : List Nat) : φ { u with flt.riddleRetired := l } = φ u :=
    hset u u.courses u.tiles u.piers u.trowel u.therm.plinth _ u.fab.ports
  unfold undoBurn
  split
  · exact hcourse ..
  · exact hunit ..
  · exact hunit ..
  · exact hunit ..
  · exact hunit ..
  · exact hport ..
  · exact hpair ..
  · dsimp only
    split
    · rw [hpier, hunit]
    · rw [hcourse, hunit]
    · rw [hcore, hunit]
    · split
      · rw [hpier, hunit]
      · split
        · rw [hpier, hunit]
        · rw [hriddle, hunit]
    · exact hunit ..
  · rfl

theorem State.loseBurns_keeps {γ : Type} (φ : State → γ)
    (hset : ∀ (s : State) c t p tr pl fl fa, φ { s with courses := c, tiles := t, piers := p, trowel := tr, therm.plinth := pl, flt := fl, fab.ports := fa } = φ s)
    (s : State) : φ s.loseBurns = φ s := by
  unfold loseBurns
  split
  · rfl
  · exact (foldl_keeps _ φ (State.undoBurn_keeps φ hset) _ _).trans (hset s s.courses s.tiles s.piers s.trowel s.therm.plinth _ s.fab.ports)

/-- What a loss takes back of log and ledger leaves every other record. -/
theorem State.taken_back_keeps {γ : Type} (φ : State → γ)
    (hset : ∀ (s : State) c t p tr pl fl fa, φ { s with courses := c, tiles := t, piers := p, trowel := tr, therm.plinth := pl, flt := fl, fab.ports := fa } = φ s)
    (s : State) (h : Bool) : φ (s.loseLog h).loseBurns = φ s :=
  (State.loseBurns_keeps φ hset _).trans (hset s s.courses s.tiles s.piers s.trowel s.therm.plinth _ s.fab.ports)

/-! ## The loss of all power, and the lockout -/

theorem State.powerLoss_power (s : State) (h : Bool) : (s.powerLoss h).power =
    { epoN := s.power.epoN, perstN := s.power.perstN, pwrAlertN := s.power.pwrAlertN, compatSel := s.power.compatSel, thermtrip := s.power.thermtrip,
      vinMv := s.power.vinMv } := by
  have hp := State.taken_back_keeps State.power (fun _ _ _ _ _ _ _ _ => rfl) s h
  unfold powerLoss stagesOff coldDrop dropAll
  dsimp only
  rw [hp]

theorem State.powerLoss_fw (s : State) (h : Bool) : (s.powerLoss h).fw = s.freshFlash :=
  State.taken_back_keeps State.freshFlash (fun _ _ _ _ _ _ _ _ => rfl) s h

theorem State.powerLoss_sec {γ : Type} (φ : Sec → γ) (hset : ∀ x : Sec, φ { x with tenants := [], doe := [], spdm := 0, transcript := [], measEpoch := none } = φ x)
    (s : State) (h : Bool) : φ (s.powerLoss h).sec = φ s.sec :=
  (hset _).trans (congrArg φ (State.taken_back_keeps State.sec (fun _ _ _ _ _ _ _ _ => rfl) s h))

theorem State.failNote_on {s : State} (hst : s.power.stages = true) (cause : Nat) :
    s.failNote cause = { s with fw.failRec := some (cause, s.partsRunning, s.now) } := if_pos hst

section
variable {s : State} {mv : Nat}

theorem exec_powerFailReset (h : mv < 40000) : exec (.powerFailReset mv) s =
    .next { (s.failNote 0).powerLoss true with power := { ((s.failNote 0).powerLoss true).power with vinMv := mv, thermtrip := false } } :=
  congrArg Host.Outcome.next (if_pos h)

theorem exec_overVoltageLockout (h : 59500 < mv) (hst : s.power.stages = true) : exec (.overVoltageLockout mv) s = .next (s.lockOut mv) :=
  congrArg Host.Outcome.next (if_pos (by simp [h, hst]))

theorem exec_epoNAssert (h : s.power.epoN = true) : exec .epoNAssert s =
    .next { s.powerLoss false with power := { (s.powerLoss false).power with epoN := false, thermtrip := false } } :=
  congrArg Host.Outcome.next (if_pos h)

theorem exec_thermtrip_pulls (hst : s.power.stages = true) (h : s.tripPulls = true) :
    exec .thermtrip s = .next { s.powerLoss false with power := { (s.powerLoss false).power with thermtrip := true } } :=
  congrArg Host.Outcome.next (if_pos (by rw [hst, h]; rfl))

theorem exec_thermtrip_still (h : s.tripPulls = false) : exec .thermtrip s = .next s :=
  congrArg Host.Outcome.next (if_neg (by rw [h, Bool.and_false]; exact Bool.false_ne_true))

end

/-! ## THERMTRIP_N (R250, R244) -/

section
variable {s : State}

/-- An in-service diode at 115 °C, or a stack, pulls. -/
theorem State.tripPulls_diode {n : Nat} (hn : n < 152) (h : (1840 ≤ (s.pair n).dA ∧ (s.pair n).aRetired = false) ∨ (1840 ≤ (s.pair n).dB ∧ (s.pair n).bRetired = false)) :
    s.tripPulls = true := by
  have hany : ((List.range 152).any fun n => (decide (degC 115 ≤ (s.pair n).dA) && !(s.pair n).aRetired) || (decide (degC 115 ≤ (s.pair n).dB) && !(s.pair n).bRetired)) = true := by
    refine List.any_eq_true.2 ⟨n, List.mem_range.2 hn, ?_⟩
    rcases h with ⟨h1, h2⟩ | ⟨h1, h2⟩
    · rw [h2, decide_eq_true (p := degC 115 ≤ (s.pair n).dA) h1]
      rfl
    · rw [h2, decide_eq_true (p := degC 115 ≤ (s.pair n).dB) h1, Bool.not_false, Bool.and_true, Bool.or_true]
  unfold tripPulls
  dsimp only
  rw [hany, Bool.or_true, Bool.true_or]

theorem State.tripPulls_stack {n : Nat} (hn : n < 8) (h : 115 ≤ (s.stack n).temp) : s.tripPulls = true := by
  have hany : ((List.range 8).any fun n => decide (115 ≤ (s.stack n).temp)) = true := List.any_eq_true.2 ⟨n, List.mem_range.2 hn, decide_eq_true h⟩
  unfold tripPulls
  dsimp only
  rw [hany, Bool.true_or, Bool.true_or]

/-- The comparators are faster than the readings: a trip that no reading shows pulls. -/
theorem State.tripPulls_unseen (h : ∀ n, n < 152 → (s.pair n).dA < 1840 ∧ (s.pair n).dB < 1840) : s.tripPulls = true := by
  have hany : ((List.range 152).any fun n => decide (degC 115 ≤ (s.pair n).dA) || decide (degC 115 ≤ (s.pair n).dB)) = false := by
    refine List.any_eq_false.2 fun n hn => ?_
    obtain ⟨h1, h2⟩ := h n (List.mem_range.1 hn)
    rw [decide_eq_false (p := degC 115 ≤ (s.pair n).dA) (Int.not_le.2 h1), decide_eq_false (p := degC 115 ≤ (s.pair n).dB) (Int.not_le.2 h2)]
    exact Bool.false_ne_true
  unfold tripPulls
  dsimp only
  rw [hany, Bool.not_false, Bool.or_true]

/-- Only retired diodes read 115 °C: nothing pulls (log 48). -/
theorem State.tripPulls_retired (hs : ∀ n, n < 8 → (s.stack n).temp < 115) (hat : ∃ n, n < 152 ∧ (1840 ≤ (s.pair n).dA ∨ 1840 ≤ (s.pair n).dB))
    (hret : ∀ n, n < 152 → (1840 ≤ (s.pair n).dA → (s.pair n).aRetired = true) ∧ (1840 ≤ (s.pair n).dB → (s.pair n).bRetired = true)) : s.tripPulls = false := by
  have hstack : ((List.range 8).any fun n => decide (115 ≤ (s.stack n).temp)) = false :=
    List.any_eq_false.2 fun n hn => by
      have := hs n (List.mem_range.1 hn)
      simp only [decide_eq_true_eq]
      omega
  have hserv : ((List.range 152).any fun n => (decide (degC 115 ≤ (s.pair n).dA) && !(s.pair n).aRetired) ||
      (decide (degC 115 ≤ (s.pair n).dB) && !(s.pair n).bRetired)) = false := by
    refine List.any_eq_false.2 fun n hn => ?_
    obtain ⟨hA, hB⟩ := hret n (List.mem_range.1 hn)
    simp only [Bool.or_eq_true, Bool.and_eq_true, Bool.not_eq_true', decide_eq_true_eq, not_or, not_and, Bool.not_eq_false]
    exact ⟨hA, hB⟩
  have hany : ((List.range 152).any fun n => decide (degC 115 ≤ (s.pair n).dA) || decide (degC 115 ≤ (s.pair n).dB)) = true := by
    obtain ⟨n, hn, h⟩ := hat
    refine List.any_eq_true.2 ⟨n, List.mem_range.2 hn, ?_⟩
    simp only [Bool.or_eq_true, decide_eq_true_eq]
    exact h
  unfold tripPulls
  dsimp only
  rw [hstack, hserv, hany]
  rfl

end

end Sys2Proof.Machine
end

section
/-! SUPPORT. The start (R234, R235, R340), where the profile verifies and the BIST finds nothing. -/

namespace Sys2Proof.Machine

/-! ## The steps -/

theorem State.readVault_verified {s : State} (h0 : s.sec.life ≠ 0) (h4 : s.sec.life ≠ 4) (hst : s.fw.stored.isSome = true) :
    ∃ r w, s.readVault = { s with fw.profile := s.fw.stored, twin.role := r, power.capW := w } := by
  have hlife : (s.sec.life == 0 || s.sec.life == 4) = false := by rw [beq_false_of_ne h0, beq_false_of_ne h4]; rfl
  have hsome : s.fw.stored.isNone = false := by rw [Option.isNone_eq_false_iff]; exact hst
  unfold readVault
  dsimp only
  simp only [hlife, Bool.false_eq_true, if_false, hsome]
  exact ⟨_, _, rfl⟩

theorem State.nextBoot_keeps {γ : Type} (φ : State → γ) (hpost : ∀ (s : State) a b c d, φ (s.post a b c d) = φ s) (s : State) :
    φ s.nextBoot = φ { s with fw.boot := min 0xFFFF (s.fw.boot + 1),
                              fab.exhausted := min 0xFFFF (s.fw.boot + 1) == 0xFFFF || decide (4 ≤ s.sec.fabRetired.length) } := by
  unfold nextBoot
  dsimp only
  split
  · exact hpost ..
  · rfl

theorem State.checkRoutes_keeps {γ : Type} (φ : State → γ) (hpost : ∀ (s : State) a b c d, φ (s.post a b c d) = φ s)
    (hbad : ∀ (s : State) l, φ { s with fab.badRoutes := l } = φ s) (s : State) : φ s.checkRoutes = φ s := by
  unfold checkRoutes
  split
  · rfl
  · exact foldl_keeps _ φ (fun u d => (hpost ..).trans (hbad u _)) _ s

theorem State.postSel_keeps {γ : Type} (φ : State → γ) (hpost : ∀ (s : State) a b c d, φ (s.post a b c d) = φ s) (s : State) : φ s.postSel = φ s := by
  unfold postSel
  split
  · split
    · rfl
    · exact hpost ..
  · rfl

theorem State.postFail_keeps {γ : Type} (φ : State → γ) (hpost : ∀ (s : State) a b c d t, φ (s.postT a b c d t) = φ s)
    (hrec : ∀ s : State, φ { s with fw.failRec := none } = φ s) (s : State) : φ s.postFail = φ s := by
  unfold postFail
  split
  · exact (hrec _).trans (hpost ..)
  · split
    · exact hpost ..
    · rfl

theorem State.rollbackSteps_keeps {γ : Type} (φ : State → γ) (hburn : ∀ (s : State) l, φ { s with flt.burns := l } = φ s) (s : State) :
    φ s.rollbackSteps = φ s :=
  foldl_keeps _ φ (fun u _ => hburn u _) _ s

/-! ## Step 4 -/

/-- What step 4 leaves beside the shutdown record, where the profile verifies. -/
theorem State.step4_keeps {γ : Type} (φ : State → γ) (hpost : ∀ (s : State) a b c d t, φ (s.postT a b c d t) = φ s)
    (hrec : ∀ (s : State) x y, φ { s with fw.failRec := x, fw.shutRec := y } = φ s) (hfab : ∀ (s : State) x y, φ { s with fab.badRoutes := x, fab.exhausted := y } = φ s)
    (hburn : ∀ (s : State) l, φ { s with flt.burns := l } = φ s) {s : State} (h0 : s.sec.life ≠ 0) (h4 : s.sec.life ≠ 4) (hst : s.fw.stored.isSome = true) :
    ∃ r w, φ s.step4.1 = φ { s with fw.profile := s.fw.stored, fw.boot := min 0xFFFF (s.fw.boot + 1), twin.role := r, power.capW := w } := by
  have hpost' (u : State) (a b c : Nat) (d : List Byte) : φ (u.post a b c d) = φ u := hpost u a b c d {}
  obtain ⟨r, w, hv⟩ := State.readVault_verified h0 h4 hst
  refine ⟨r, w, ?_⟩
  unfold step4
  dsimp only
  rw [State.rollbackSteps_keeps φ hburn]
  refine (hrec _ _ none).trans ?_
  rw [State.postFail_keeps φ hpost fun u => hrec u none u.fw.shutRec, State.postSel_keeps φ hpost',
    State.checkRoutes_keeps φ hpost' fun u l => hfab u l u.fab.exhausted, State.nextBoot_keeps φ hpost', hv]
  exact hfab { s with fw.profile := s.fw.stored, fw.boot := min 0xFFFF (s.fw.boot + 1), twin.role := r, power.capW := w } s.fab.badRoutes _

theorem State.step4_shutRec (s : State) : s.step4.1.fw.shutRec = none :=
  State.rollbackSteps_keeps (fun u => u.fw.shutRec) (fun _ _ => rfl) _

/-! ## Steps 2 to 8 -/

/-- The state that step 7 finds: after a BIST that found nothing or was not due. -/
def State.beforeStep7 (s : State) (bist : Bool) : State := (if bist then s.step4.1.step5 [] else s.step4.1).alertNow

theorem State.beforeStep7_keeps {γ : Type} (φ : State → γ) (htiles : ∀ (s : State) t, φ { s with tiles := t } = φ s)
    (hset : ∀ (s : State) cs f at', φ { s with courses := cs, power := { s.power with floor := f, floorAt := at' } } = φ s) (s : State) (bist : Bool) :
    φ (s.beforeStep7 bist) = φ s.step4.1 := by
  have halert (u : State) : φ u.alertNow = φ u := by
    unfold alertNow
    split
    · rfl
    · obtain ⟨cs, hcs⟩ := u.mapRates_eq (min 4)
      rw [hcs]
      exact hset u cs _ _
  unfold beforeStep7
  rw [halert]
  split
  · exact foldl_keeps _ φ (fun u _ => htiles u _) _ _
  · rfl

theorem State.step3_idle {s : State} (h : s.fw.act = none) : s.step3 = s := by
  unfold step3
  rw [h]

theorem State.start_clean {s : State} (hact : s.step2.fw.act = none) (warm : Bool) : ∃ bist, s.start warm false true [] = (s.step2.beforeStep7 bist).step7 := by
  refine ⟨false || (!warm && s.step2.step4.2), ?_⟩
  unfold start beforeStep7
  rw [State.step3_idle hact]
  rfl

/-- Step 2 in a state of the life cycle without keys to kill. -/
theorem State.step2_eq {s : State} (h : s.sec.lifeFused = 1 ∨ s.sec.lifeFused = 2) : ∃ i, s.step2 =
    { s with power := { s.power with stages := true, phase := 0, shutStep := 0, resetAt := s.now }, sec.life := s.sec.lifeFused,
             fw := { s.fw with tenancy := s.fw.tenancyBit, selSampled := s.power.compatSel, iface := i } } := by
  have hkill : (s.sec.lifeFused == 3 && !s.sec.killed) = false := by rcases h with h | h <;> rw [h] <;> rfl
  unfold step2 killKeys sampleSel
  dsimp only
  rw [hkill]
  exact ⟨_, rfl⟩

/-- What the end of a start rests on, with BOOT. -/
def State.startView (s : State) : Bool × Bool × Bool × Bool × Nat × Nat × Bool × Nat × Tick × Nat :=
  (s.power.stages, s.power.aon, s.power.perstN, s.power.hold, s.power.phase, s.power.vinMv, s.host.linkUp, s.sec.life, s.now, s.fw.boot)

/-- A start whose BIST finds nothing comes to step 7 with the stages on and BOOT advanced. -/
theorem State.start_reaches {s : State} (hact : s.fw.act = none) (hst : s.fw.stored.isSome = true) (hlife : s.sec.lifeFused = 1 ∨ s.sec.lifeFused = 2)
    (warm : Bool) : ∃ x : State, s.start warm false true [] = x.step7 ∧ x.fw.shutRec = none ∧
      x.startView = (true, s.power.aon, s.power.perstN, s.power.hold, 0, s.power.vinMv, s.host.linkUp, s.sec.lifeFused, s.now, min 0xFFFF (s.fw.boot + 1)) := by
  obtain ⟨i, h2⟩ := State.step2_eq hlife
  have hact2 : s.step2.fw.act = none := by rw [h2]; exact hact
  have hst2 : s.step2.fw.stored.isSome = true := by rw [h2]; exact hst
  have h0 : s.step2.sec.life ≠ 0 := by rw [h2]; dsimp only; omega
  have h4 : s.step2.sec.life ≠ 4 := by rw [h2]; dsimp only; omega
  obtain ⟨bist, hx⟩ := State.start_clean hact2 warm
  obtain ⟨r, w, hv⟩ := State.step4_keeps State.startView (fun _ _ _ _ _ _ => by simp [startView]) (fun _ _ _ => rfl) (fun _ _ _ => rfl) (fun _ _ => rfl) h0 h4 hst2
  refine ⟨_, hx, (State.beforeStep7_keeps (fun u => u.fw.shutRec) (fun _ _ => rfl) (fun _ _ _ _ => rfl) _ _).trans (State.step4_shutRec _), ?_⟩
  rw [State.beforeStep7_keeps State.startView (fun _ _ => rfl) (fun _ _ _ _ => rfl), hv, h2]
  rfl

/-- A held step 7 waits. -/
theorem State.step7_held {s : State} (hlife : s.sec.life ≠ 4) (hperst : s.power.perstN = false) : s.step7 = { s with power.heldStep7 := true } := by
  unfold step7
  rw [beq_false_of_ne hlife, if_neg Bool.false_ne_true, hperst]
  rfl

/-! ## The pins and the supply -/

section
variable {s : State} {mv : Nat}

/-- The state in which an AON power-up finds the module: step 1 has run. -/
def State.supplied (s : State) (mv : Nat) : State :=
  { (if s.power.aon && s.power.shutStep != 4 then s else s.step1) with
    power := { (if s.power.aon && s.power.shutStep != 4 then s else s.step1).power with vinMv := mv, lockout := false } }

theorem exec_aonPowerUp (h1 : 44000 < mv) (h2 : mv ≤ 59500) (hlock : s.power.lockout = true → mv ≤ 59200) (hepo : s.power.epoN = true)
    (htrip : s.power.thermtrip = false) (hst : s.power.stages = false) (ok : Bool) (f : List (Nat × Nat × Nat)) :
    exec (.aonPowerUp mv ok f) s = .next ((s.supplied mv).start false false ok f) := by
  have hlock' : (s.power.lockout && decide (59200 < mv)) = false := by
    cases hl : s.power.lockout with
    | false => rfl
    | true => exact decide_eq_false (Nat.not_lt.2 (hlock hl))
  exact congrArg Host.Outcome.next (if_pos (by simp only [h1, h2, hlock', hepo, htrip, hst, decide_true, Bool.not_false, Bool.and_self]))

theorem exec_aonPowerUp_off (h : s.power.epoN = false ∨ (s.power.lockout = true ∧ 59200 < mv)) (ok : Bool) (f : List (Nat × Nat × Nat)) :
    exec (.aonPowerUp mv ok f) s = .next s := by
  refine congrArg Host.Outcome.next (if_neg ?_)
  rcases h with h | ⟨h1, h2⟩
  · simp [h]
  · simp [h1, h2]

theorem exec_perstNAssert (hp : s.power.perstN = true) (hst : s.power.stages = true) (h7 : s.power.heldStep7 = false) : exec .perstNAssert s =
    .next { ({ s with power.perstN := false } : State).dropAll with
      power := { ({ s with power.perstN := false } : State).dropAll.power with phase := if s.power.phase == 2 then 2 else 0 } } := by
  have hx : exec .perstNAssert s = execPerstNAssert s := rfl
  rw [hx, execPerstNAssert, hp, Bool.not_true, if_neg Bool.false_ne_true]
  dsimp only
  rw [hst, h7]
  rfl

theorem exec_perstNRelease_held (hp : s.power.perstN = false) (hst : s.power.stages = true) (h7 : s.power.heldStep7 = true) (ok : Bool) (f : List (Nat × Nat × Nat)) :
    exec (.perstNRelease ok f) s = .next ({ s with power.perstN := true } : State).sampleSel.step7 := by
  have hx : exec (.perstNRelease ok f) s = execPerstNRelease ok f s := rfl
  rw [hx, execPerstNRelease, hp, if_neg Bool.false_ne_true]
  dsimp only
  rw [hst, if_pos rfl, h7, if_pos rfl]

theorem exec_perstNRelease_warm (hp : s.power.perstN = false) (hst : s.power.stages = true) (h7 : s.power.heldStep7 = false) (hphase : s.power.phase ≠ 2)
    (ok : Bool) (f : List (Nat × Nat × Nat)) :
    exec (.perstNRelease ok f) s = .next (({ s with power.perstN := true } : State).start true false ok f) := by
  have hx : exec (.perstNRelease ok f) s = execPerstNRelease ok f s := rfl
  rw [hx, execPerstNRelease, hp, if_neg Bool.false_ne_true]
  dsimp only
  rw [hst, if_pos rfl, h7, if_neg Bool.false_ne_true, beq_false_of_ne hphase]

theorem exec_epoNRelease_low (h : s.power.epoN = false) (hv : s.power.vinMv ≤ 44000) : exec .epoNRelease s = .next { s with power.epoN := true } := by
  have hx : exec .epoNRelease s = execEpoNRelease s := rfl
  rw [hx, execEpoNRelease, h, if_neg Bool.false_ne_true]
  exact congrArg Host.Outcome.next (if_neg (Nat.not_lt.2 hv))

theorem exec_epoNRelease_supplied (h : s.power.epoN = false) (hv : 44000 < s.power.vinMv) :
    exec .epoNRelease s = .next ({ s with power.epoN := true } : State).step1 := by
  have hx : exec .epoNRelease s = execEpoNRelease s := rfl
  rw [hx, execEpoNRelease, h, if_neg Bool.false_ne_true]
  exact congrArg Host.Outcome.next (if_pos hv)

end

end Sys2Proof.Machine
end

section
/-! The proof of O45. -/

namespace Sys2Proof.Machine

/-- Where step 1 has run or was not needed, what a start rests on stands as it was. -/
theorem State.supplied_start {s : State} (mv : Nat) (hact : s.fw.act = none) (hst : s.fw.stored.isSome = true) (hp : s.power.perstN = false) (hl : s.host.linkUp = false) :
    (s.supplied mv).fw.act = none ∧ (s.supplied mv).fw.stored.isSome = true ∧ (s.supplied mv).sec.lifeFused = s.sec.lifeFused ∧
      (s.supplied mv).fw.boot = s.fw.boot ∧ (s.supplied mv).power.aon = true ∧ (s.supplied mv).power.perstN = false ∧ (s.supplied mv).power.vinMv = mv ∧
      (s.supplied mv).host.linkUp = false := by
  unfold State.supplied
  cases h : s.power.aon && s.power.shutStep != 4 with
  | true =>
    obtain ⟨haon, -⟩ := Bool.and_eq_true_iff.1 h
    exact ⟨hact, hst, rfl, rfl, haon, hp, rfl, hl⟩
  | false =>
    have hfw := s.powerLoss_fw true
    have hboot := congrArg Flash.boot hfw
    have hperst : s.step1.power.perstN = false := (congrArg Power.perstN (s.powerLoss_power true)).trans hp
    refine ⟨?_, ?_, State.powerLoss_sec Sec.lifeFused (fun _ => rfl) s true, hboot, rfl, hperst, rfl, rfl⟩
    · refine (congrArg Flash.act hfw).trans ?_
      unfold State.freshFlash
      dsimp only
      rw [hact]
      rfl
    · exact (congrArg (fun x : Flash => x.stored.isSome) hfw).trans hst

/-- Settles O45: a loss by `powerLoss_power` and `powerLoss_fw`, a start by `start_reaches`. -/
theorem resetsLoseWorkAndStart : Obligations.ResetsLoseWorkAndStart := by
  refine ⟨?fails, ?trips, fun s hs hat hret => exec_thermtrip_still (State.tripPulls_retired hs hat hret), ?epo, ?assert, ?release, ?start,
    fun s mv ok f h => exec_aonPowerUp_off h ok f⟩
  case fails =>
    intro s mv hst
    refine ⟨fun h => ?_, fun h => ?_⟩
    · have hfail := congrArg Flash.failRec ((s.failNote 0).powerLoss_fw true)
      rw [State.failNote_on hst] at hfail
      refine ⟨_, exec_powerFailReset h, rfl, rfl, rfl, ?_, rfl, rfl, rfl, rfl, rfl, rfl, rfl⟩
      rw [State.failNote_on hst]
      exact hfail
    · refine ⟨_, exec_overVoltageLockout h hst, rfl, rfl, ?_, rfl, ?_, rfl, rfl, rfl, rfl, rfl, rfl, rfl⟩
      · refine (State.taken_back_keeps State.now (fun _ _ _ _ _ _ _ _ => rfl) (s.failNote 1) true).trans ?_
        rw [State.failNote_on hst]
      · refine (State.taken_back_keeps (fun u => u.fw.failRec) (fun _ _ _ _ _ _ _ _ => rfl) (s.failNote 1) true).trans ?_
        rw [State.failNote_on hst]
        rfl
  case trips =>
    intro s i tt ep
    have hfail := congrArg Flash.failRec (s.powerLoss_fw false)
    have hepoN := congrArg Power.epoN (s.powerLoss_power false)
    rintro (⟨rfl, hepo, rfl, rfl⟩ | ⟨rfl, hst, hcause, rfl, rfl⟩)
    · exact ⟨_, exec_epoNAssert hepo, rfl, rfl, rfl, hfail, rfl, rfl, rfl, rfl, rfl, rfl, rfl⟩
    · have hpulls : s.tripPulls = true := by
        rcases hcause with ⟨n, hn, h⟩ | ⟨n, hn, h⟩ | h
        · exact State.tripPulls_diode hn h
        · exact State.tripPulls_stack hn h
        · exact State.tripPulls_unseen h
      exact ⟨_, exec_thermtrip_pulls hst hpulls, rfl, rfl, rfl, hfail, rfl, hepoN, rfl, rfl, rfl, rfl, rfl⟩
  case epo =>
    intro s h
    refine ⟨exec_epoNRelease_low h, fun hv => ⟨_, exec_epoNRelease_supplied h hv, ?_, rfl, rfl, rfl⟩⟩
    exact congrArg Power.epoN (State.powerLoss_power { s with power.epoN := true } true)
  case assert =>
    intro s hp hst h7
    refine ⟨_, exec_perstNAssert hp hst h7, rfl, ?_, rfl, rfl, rfl, rfl, rfl, rfl, rfl, rfl, rfl, rfl, hst⟩
    exact Bool.and_false _
  case release =>
    intro s ok f hp hst h7 hh hlife hphase
    rw [exec_perstNRelease_held hp hst h7, State.step7_up (s := ({ s with power.perstN := true } : State).sampleSel) hlife rfl hh]
    refine ⟨_, rfl, rfl, rfl, ?_, rfl, rfl, rfl⟩
    exact if_neg fun h => hphase (eq_of_beq h)
  case start =>
    intro s hact hst hlife
    refine ⟨fun mv h1 h2 hlock hepo htrip hoff hp hl => ?_, fun hp hon h7 hh hphase => ?_⟩
    · obtain ⟨hact', hst', hlife', hboot', haon', hp', hv', hl'⟩ := State.supplied_start mv hact hst hp hl
      obtain ⟨x, hx, hshut, hview⟩ := State.start_reaches hact' hst' (hlife'.symm ▸ hlife) false
      simp only [State.startView, Prod.mk.injEq] at hview
      obtain ⟨hstages, haon, hperst, -, -, hvin, hlink, hxlife, -, hboot⟩ := hview
      have hx4 : x.sec.life ≠ 4 := by rw [hxlife, hlife']; omega
      rw [exec_aonPowerUp h1 h2 hlock hepo htrip hoff, hx, State.step7_held hx4 (hperst.trans hp')]
      exact ⟨_, rfl, hvin.trans hv', haon.trans haon', hstages, rfl, hlink.trans hl', hboot.trans (by rw [hboot']), hshut⟩
    · obtain ⟨x, hx, -, hview⟩ := State.start_reaches (s := { s with power.perstN := true }) hact hst hlife true
      simp only [State.startView, Prod.mk.injEq] at hview
      obtain ⟨-, -, hperst, hhold, hphase', -, -, hxlife, hnow, hboot⟩ := hview
      have hx4 : x.sec.life ≠ 4 := by rw [hxlife]; omega
      rw [exec_perstNRelease_warm hp hon h7 hphase, hx, State.step7_up hx4 hperst (hhold.trans hh)]
      exact ⟨_, rfl, hperst, rfl, by rw [hphase']; rfl, hboot, hnow⟩

end Sys2Proof.Machine
end

section
/-! SUPPORT. The coolant (R239-R242, R251-R253, R341): readings, rows and the Quench. -/

namespace Sys2Proof.Machine

/-! ## Frames: a sensor's note, a row, the rows after a reading -/

/-- The rows of the coolant states. -/
def Thermal.withRows (t : Thermal) (a b c d e f : Dwell) : Thermal :=
  { t with flowLow := a, safeFlow := b, safeInlet := c, safeOutlet := d, safeJunction := e, inletCold := f }

theorem Thermal.setRow_withRows (t : Thermal) (row : Nat) (x : Dwell) : ∃ a b c d e f, t.setRow row x = t.withRows a b c d e f := by
  unfold setRow
  split
  · exact ⟨x, t.safeFlow, t.safeInlet, t.safeOutlet, t.safeJunction, t.inletCold, rfl⟩
  · exact ⟨t.flowLow, x, t.safeInlet, t.safeOutlet, t.safeJunction, t.inletCold, rfl⟩
  · exact ⟨t.flowLow, t.safeFlow, x, t.safeOutlet, t.safeJunction, t.inletCold, rfl⟩
  · exact ⟨t.flowLow, t.safeFlow, t.safeInlet, x, t.safeJunction, t.inletCold, rfl⟩
  · exact ⟨t.flowLow, t.safeFlow, t.safeInlet, t.safeOutlet, x, t.inletCold, rfl⟩
  · exact ⟨t.flowLow, t.safeFlow, t.safeInlet, t.safeOutlet, t.safeJunction, x, rfl⟩

theorem State.noteSensor_keeps {γ : Type} (φ : State → γ) (hpost : ∀ (s : State) a b c d, φ (s.post a b c d) = φ s) (s : State) (i : Nat) (was is : Bool) :
    φ (s.noteSensor i was is) = φ s := by
  unfold noteSensor
  split
  · rfl
  · exact hpost ..

section
variable {γ : Type} (φ : State → γ) (hpost : ∀ (s : State) a b c d, φ (s.post a b c d) = φ s)
  (hset : ∀ (s : State) cs pw, φ { s with courses := cs, power := pw } = φ s)
include hpost hset

/-- A row that flips changes itself, and posts events. -/
theorem State.rowDue_keeps (s : State) (row : Nat) (hrow : ∀ x, φ { s with therm := s.therm.setRow row x } = φ s) : φ (s.rowDue row) = φ s := by
  unfold rowDue
  dsimp only
  split
  · rw [State.review_keeps φ hpost hset, State.noteProfile_keeps φ hpost, State.rowEvent_keeps φ hpost, hrow]
  · rfl

/-- After a reading, the rows change, and events are posted. -/
theorem State.rowsNow_keeps (hrows : ∀ (s : State) a b c d e f, φ { s with therm := s.therm.withRows a b c d e f } = φ s) (s : State) : φ s.rowsNow = φ s := by
  have hrow (u : State) (row : Nat) (x : Dwell) : φ { u with therm := u.therm.setRow row x } = φ u := by
    obtain ⟨a, b, c, d, e, f, h⟩ := u.therm.setRow_withRows row x
    rw [h, hrows]
  refine Eq.trans (foldl_keeps _ φ (fun u row => ?_) _ _) (?_ : φ s.trackRows = φ s)
  · split
    · exact State.rowDue_keeps φ hpost hset u row (hrow u row)
    · rfl
  · exact hrows s ..

/-- What follows a reading of the coolant: the note of a sensor, the profile, B and the rows. -/
theorem State.afterReading_keeps (hrows : ∀ (s : State) a b c d e f, φ { s with therm := s.therm.withRows a b c d e f } = φ s) (s : State) (old : Nat) :
    φ ((s.noteProfile old).review).rowsNow = φ s := by
  rw [State.rowsNow_keeps φ hpost hset hrows, State.review_keeps φ hpost hset, State.noteProfile_keeps φ hpost]

end

/-- The readings of the coolant sensors and the Quench. -/
def State.coolant (s : State) : Sensor × Sensor × Sensor × List (Option Nat) × Nat × Int × Int × Option Tick × Bool × Nat :=
  (s.therm.flow, s.therm.inletS, s.therm.outletS, s.therm.flows, s.therm.fMean, s.therm.inlet, s.therm.outlet, s.therm.okAt, s.therm.quench, s.therm.quenches)

theorem State.post_coolant (s : State) (a b c : Nat) (d : List Byte) : (s.post a b c d).coolant = s.coolant := by simp [coolant]

theorem State.afterReading_coolant (s : State) (old : Nat) : ((s.noteProfile old).review).rowsNow.coolant = s.coolant :=
  State.afterReading_keeps State.coolant State.post_coolant (fun _ _ _ => rfl) (fun _ _ _ _ _ _ _ => rfl) s old

/-! ## A read (R239, R240) -/

theorem State.sensed_val {s : State} {p : Profile} {raw : Int} (k : Nat) (hp : s.fw.profile = some p) (hi : s.therm.i3cStuck = none) (hr : raw.toNat % 65536 ≠ 65535) :
    s.sensed k (.val raw) = some (sensorValue p.sensors k raw.toNat) := by
  unfold sensed answered
  rw [hp, hi]
  exact if_neg fun h => hr (eq_of_beq h)

theorem State.sensed_stuck {s : State} (k : Nat) (raw : Int) (h : s.therm.i3cStuck.isSome = true) : s.sensed k (.val raw) = none := by
  unfold sensed answered
  rw [h]
  rfl

theorem State.sensed_failed {s : State} (k : Nat) {raw : Int} (h : raw.toNat % 65536 = 65535) : s.sensed k (.val raw) = none := by
  unfold sensed
  split
  · next v _ ha _ =>
    have hv : v = raw := by
      unfold answered at ha
      dsimp only at ha
      split at ha
      · cases ha
      · cases ha
        rfl
    rw [hv]
    exact if_pos (beq_iff_eq.2 h)
  · rfl

theorem Sensor.read_ok {q : Sensor} (h : q.silent = false) (now : Tick) : q.read true now = { q with fails := 0 } := by
  unfold read
  rw [h]
  rfl

/-- The third failed read in a row. -/
theorem Sensor.read_third {q : Sensor} (h : q.silent = false) (hf : q.fails = 2) (now : Tick) : q.read false now = { fails := 0, oks := 0, silent := true, backAt := none } := by
  unfold read
  rw [h, hf]
  rfl

/-! ## A sample of FLOW (R239-R241) -/

/-- The sensor after a read of FLOW that answers `v`. -/
def State.flowSensor (s : State) (v : Option Nat) : Sensor := s.therm.flow.read v.isSome s.now

/-- The readings after it. -/
def State.flowList (s : State) (v : Option Nat) : List (Option Nat) := ((if (s.flowSensor v).silent then none else v) :: s.therm.flows).take 102

/-- The state that has taken the reading, before the rows and the Quench are looked at. -/
def State.flowRead (s : State) (v : Option Nat) : State :=
  { s with
    therm.flow := s.flowSensor v
    therm.flows := s.flowList v
    therm.fMean := if flowMean (s.flowSensor v).silent (s.flowList v) == 0 && ((s.flowList v).filterMap id).isEmpty then s.therm.fMean
      else flowMean (s.flowSensor v).silent (s.flowList v)
    therm.okAt := match v with
      | some f => if (s.flowSensor v).silent || f < 1200 then none else some (s.therm.okAt.getD s.now)
      | none => if (s.flowSensor v).silent then none else s.therm.okAt }

/-- The state after the reading has been noted and the rows have followed. -/
def State.flowTaken (s : State) (v : Option Nat) : State :=
  ((((s.flowRead v).noteSensor 0 s.therm.flow.silent (s.flowSensor v).silent).noteProfile s.profile).review).rowsNow

theorem exec_flowSample_calm {s : State} {r : Reading} {v : Option Nat} (hup : s.up = true) (hv : (s.sensed 0 r).map Int.toNat = v)
    (h : quenchTrigger (s.flowList v) = none) : exec (.flowSample r) s = .next (s.flowTaken v) := by
  have hx : exec (.flowSample r) s = execFlowSample r s := rfl
  subst hv
  rw [hx, execFlowSample, if_pos hup]
  unfold State.flowSample
  extract_lets v q flows m ok src s1 s2
  have hlist : quenchTrigger flows = none := h
  rw [hlist]
  rfl

theorem exec_flowSample_quenches {s : State} {r : Reading} {v : Option Nat} {k f : Nat} (hup : s.up = true) (hv : (s.sensed 0 r).map Int.toNat = v)
    (h : quenchTrigger (s.flowList v) = some k) (hhead : (s.flowList v).head? = some (some f)) (hq : (s.flowTaken v).therm.quench = false) :
    exec (.flowSample r) s = .next ((s.flowTaken v).quenchBegin k (peakOf ((s.flowList v).drop 1)) f) := by
  have hx : exec (.flowSample r) s = execFlowSample r s := rfl
  subst hv
  rw [hx, execFlowSample, if_pos hup]
  unfold State.flowSample
  extract_lets v q flows m ok src s1 s2
  have hlist : quenchTrigger flows = some k := h
  have hhead' : flows.head? = some (some f) := hhead
  have hs2 : s2 = s.flowTaken v := rfl
  rw [hlist, hhead']
  dsimp only
  rw [hs2, hq, if_neg Bool.false_ne_true]
  rfl

theorem State.flowTaken_coolant (s : State) (v : Option Nat) : (s.flowTaken v).coolant = (s.flowRead v).coolant := by
  unfold flowTaken
  rw [State.afterReading_coolant, State.noteSensor_keeps State.coolant State.post_coolant]

/-- A reading changes the sensor's records, Courses and the governor's record, and posts events. -/
theorem State.flowTaken_keeps {γ : Type} (φ : State → γ) (hpost : ∀ (s : State) a b c d, φ (s.post a b c d) = φ s)
    (hset : ∀ (s : State) cs pw, φ { s with courses := cs, power := pw } = φ s) (htherm : ∀ (s : State) t, φ { s with therm := t } = φ s) (s : State) (v : Option Nat) :
    φ (s.flowTaken v) = φ s := by
  unfold flowTaken
  rw [State.afterReading_keeps φ hpost hset fun _ _ _ _ _ _ _ => htherm .., State.noteSensor_keeps φ hpost]
  exact htherm ..

/-! ## The trigger of the Quench (R251) -/

theorem peakOf_le {l : List (Option Nat)} {b : Nat} (h : ∀ x ∈ l, x.getD 0 ≤ b) : peakOf l ≤ b := by
  have key (l : List (Option Nat)) : ∀ a, a ≤ b → (∀ x ∈ l, x.getD 0 ≤ b) → l.foldl (fun a x => max a (x.getD 0)) a ≤ b := by
    induction l with
    | nil => exact fun a ha _ => ha
    | cons x l ih =>
      intro a ha hl
      exact ih _ (Nat.max_le.2 ⟨ha, hl x (List.mem_cons_self ..)⟩) fun y hy => hl y (List.mem_cons_of_mem _ hy)
  exact key _ 0 (Nat.zero_le b) fun x hx => h x (List.mem_of_mem_take hx)

/-- A read of 1.2 L/min or more that is at least half of every earlier one triggers nothing. -/
theorem quenchTrigger_flow {v : Nat} {l : List (Option Nat)} (hv : 300 ≤ v) (hl : ∀ x ∈ l, x.getD 0 ≤ 2 * v) : quenchTrigger (some v :: l) = none := by
  have hlow0 (p : Nat) : isLow v p 0 = false := decide_eq_false (Nat.not_lt.2 hv)
  have hlow1 : isLow v (peakOf l) 1 = false := decide_eq_false (Nat.not_lt.2 (peakOf_le hl))
  unfold quenchTrigger
  split
  · next f g t heq =>
    obtain ⟨hf, ht⟩ := List.cons.inj heq
    cases Option.some.inj hf
    rw [hlow0, ← ht, hlow1]
    rfl
  · rfl

theorem quenchTrigger_none (l : List (Option Nat)) : quenchTrigger (none :: l) = none := rfl

theorem quenchTrigger_low {f g : Nat} (l : List (Option Nat)) (hf : f < 300) (hg : g < 300) : quenchTrigger (some f :: some g :: l) = some 0 := by
  have hf' (p : Nat) : isLow f p 0 = true := decide_eq_true hf
  have hg' (p : Nat) : isLow g p 0 = true := decide_eq_true hg
  simp only [quenchTrigger, hf', hg', Bool.and_self, if_true]

/-! ## The Quench begins (R251) -/

theorem State.emptyParts_idle {s : State} (h : ∀ q ∈ s.parts, q.2.job = none) (pred : Part → Bool) (how : Fin) : s.emptyParts pred how = s := by
  have hnone : (s.parts.filter fun p => p.2.job.isSome && pred p.2) = [] :=
    List.filter_eq_nil_iff.2 fun q hq => by rw [h q hq]; exact Bool.false_ne_true
  unfold emptyParts
  rw [hnone]
  rfl

/-- What the Quench notes of itself. -/
def State.quenched (s : State) : State :=
  { s with therm := { s.therm with quench := true, quenchAt := s.now, stage2 := false, okAt := none, quenches := sat32 s.therm.quenches 1 } }

/-- Every Course off. -/
def State.coursesOff (s : State) : State :=
  (List.range 16).foldl (fun s c => s.updCourse c fun k => { k with power := 0, waking := none, gatedAt := if k.power == 0 then k.gatedAt else s.now }) s

theorem State.coursesOff_keeps {γ : Type} (φ : State → γ) (hset : ∀ (s : State) cs, φ { s with courses := cs } = φ s) (s : State) : φ s.coursesOff = φ s :=
  foldl_keeps _ φ (fun u _ => hset u _) _ s

theorem State.coursesOff_power (s : State) {c : Nat} (hc : c < 16) : (s.coursesOff.course c).power = 0 := by
  have key (l : List Nat) : ∀ u : State, ((u.course c).power = 0 ∨ c ∈ l) → ((l.foldl (fun (s : State) c => s.updCourse c fun k =>
      { k with power := 0, waking := none, gatedAt := if k.power == 0 then k.gatedAt else s.now }) u).course c).power = 0 := by
    induction l with
    | nil => exact fun u h => h.elim id nofun
    | cons k l ih =>
      refine fun u h => ih _ ?_
      by_cases hk : c = k
      · exact .inl (by rw [hk, State.updCourse_course_self])
      · rw [State.updCourse_course_ne _ _ hk]
        exact h.imp_right fun h => (List.mem_cons.1 h).resolve_left hk
  exact key _ s (.inr (List.mem_range.2 hc))

theorem State.quenchBegin_idle {s : State} (h : ∀ q ∈ s.parts, q.2.job = none) (trig before at' : Nat) : ∃ d, s.quenchBegin trig before at' =
    ({ (s.quenched.abortSlices.post 0x0902 0 0 d).coursesOff with
      piers := (s.quenched.abortSlices.post 0x0902 0 0 d).coursesOff.piers.mapVals fun _ p => { p with selfRefresh := true } } : State).handover 5 := by
  refine ⟨leBytes 1 trig ++ [0] ++ leBytes 2 before ++ leBytes 2 at', ?_⟩
  have hidle := State.emptyParts_idle (s := s.quenched.abortSlices) h (fun _ => true) .quench
  unfold quenchBegin
  dsimp only
  exact congrArg (fun u : State => ({ (u.post 0x0902 0 0 (leBytes 1 trig ++ [0] ++ leBytes 2 before ++ leBytes 2 at')).coursesOff with
    piers := (u.post 0x0902 0 0 (leBytes 1 trig ++ [0] ++ leBytes 2 before ++ leBytes 2 at')).coursesOff.piers.mapVals fun _ p => { p with selfRefresh := true } } : State).handover 5) hidle

/-- The Quench without jobs changes its own record, Courses, Piers and the twin pair's, and posts and sends. -/
theorem State.quenchBegin_keeps {γ : Type} (φ : State → γ) (hpost : ∀ (s : State) a b c d, φ (s.post a b c d) = φ s) (hsend : ∀ s : State, φ s.unsent = φ s)
    (hset : ∀ (s : State) cs ps tw, φ { s with courses := cs, piers := ps, twin := tw } = φ s) {s : State} (h : ∀ q ∈ s.parts, q.2.job = none)
    (trig before at' : Nat) : φ (s.quenchBegin trig before at') = φ s.quenched := by
  obtain ⟨d, hd⟩ := State.quenchBegin_idle h trig before at'
  rw [hd, State.handover_keeps φ hsend fun u tw => hset u u.courses u.piers tw]
  generalize hu : s.quenched.abortSlices.post 0x0902 0 0 d = u
  refine (hset u.coursesOff u.coursesOff.courses _ u.coursesOff.twin).trans ?_
  rw [State.coursesOff_keeps φ (fun v cs => hset v cs v.piers v.twin), ← hu, hpost]
  exact hset s.quenched _ s.piers s.twin

theorem State.quenchBegin_course {s : State} (h : ∀ q ∈ s.parts, q.2.job = none) (trig before at' : Nat) {c : Nat} (hc : c < 16) :
    ((s.quenchBegin trig before at').course c).power = 0 := by
  obtain ⟨d, hd⟩ := State.quenchBegin_idle h trig before at'
  rw [hd, State.handover_keeps (fun u => (u.course c).power) (fun _ => rfl) fun _ _ => rfl]
  have hoff := State.coursesOff_power (s.quenched.abortSlices.post 0x0902 0 0 d) hc
  generalize (s.quenched.abortSlices.post 0x0902 0 0 d).coursesOff = u at hoff ⊢
  exact hoff

theorem State.quenchBegin_pier {s : State} (h : ∀ q ∈ s.parts, q.2.job = none) (trig before at' : Nat) :
    ∀ p ∈ (s.quenchBegin trig before at').piers, p.2.selfRefresh = true := by
  obtain ⟨d, hd⟩ := State.quenchBegin_idle h trig before at'
  rw [hd, State.handover_keeps State.piers (fun _ => rfl) fun _ _ => rfl]
  intro p hp
  obtain ⟨q, -, rfl⟩ := List.mem_map.1 hp
  rfl

/-! ## The samples of the temperatures (R240) -/

/-- The state that has taken both reads, before the rows are looked at. -/
def State.tempRead (s : State) (i o : Option Int) : State :=
  { s with
    therm.inletS := s.therm.inletS.read i.isSome s.now
    therm.outletS := s.therm.outletS.read o.isSome s.now
    therm.inlet := if (s.therm.inletS.read i.isSome s.now).silent then degC 40 else i.getD s.therm.inlet
    therm.outlet := if (s.therm.outletS.read o.isSome s.now).silent then
        (if (s.therm.inletS.read i.isSome s.now).silent then degC 40 else i.getD s.therm.inlet) + degC 14 else o.getD s.therm.outlet }

/-- The state after the reads have been noted and the rows have followed. -/
def State.tempTaken (s : State) (i o : Option Int) : State :=
  (((((s.tempRead i o).noteSensor 1 s.therm.inletS.silent (s.tempRead i o).therm.inletS.silent).noteSensor 2 s.therm.outletS.silent
    (s.tempRead i o).therm.outletS.silent).noteProfile s.profile).review).rowsNow

theorem exec_tempSample {s : State} {ri ro : Reading} {i o : Option Int} (hup : s.up = true) (hi : s.sensed 1 ri = i) (ho : s.sensed 2 ro = o) :
    exec (.tempSample ri ro) s = .next (s.tempTaken i o) := by
  have hx : exec (.tempSample ri ro) s = execTempSample ri ro s := rfl
  subst hi ho
  rw [hx, execTempSample, if_pos hup]
  rfl

theorem State.tempTaken_coolant (s : State) (i o : Option Int) : (s.tempTaken i o).coolant = (s.tempRead i o).coolant := by
  unfold tempTaken
  rw [State.afterReading_coolant, State.noteSensor_keeps State.coolant State.post_coolant, State.noteSensor_keeps State.coolant State.post_coolant]

theorem State.tempTaken_keeps {γ : Type} (φ : State → γ) (hpost : ∀ (s : State) a b c d, φ (s.post a b c d) = φ s)
    (hset : ∀ (s : State) cs pw, φ { s with courses := cs, power := pw } = φ s) (htherm : ∀ (s : State) t, φ { s with therm := t } = φ s) (s : State) (i o : Option Int) :
    φ (s.tempTaken i o) = φ s := by
  unfold tempTaken
  rw [State.afterReading_keeps φ hpost hset fun _ _ _ _ _ _ _ => htherm .., State.noteSensor_keeps φ hpost, State.noteSensor_keeps φ hpost]
  exact htherm ..

/-! ## P_FLOW, rows and the end of the Quench (R241, R242, R252) -/

theorem exec_pflowUpdate {s : State} (hup : s.up = true) : exec .pflowUpdate s =
    .next ({ s with therm.pFlow := pFlowStep s.therm.pFlow (pFlowTarget s.flowMl s.therm.inlet) } : State).review :=
  congrArg Host.Outcome.next (if_pos hup)

theorem pFlowTarget_eq (f : Nat) (inlet : Int) : pFlowTarget f inlet = min 24000 (15 * (f : Int)) - (if 640 < inlet then 60 * (inlet - 640) else 0) := by
  have h40 : degC 40 = 640 := rfl
  unfold pFlowTarget
  rw [h40]
  dsimp only
  split
  · rfl
  · exact (Int.sub_zero _).symm

theorem pFlowStep_eq (force p : Int) : pFlowStep force p = if p ≤ force - 400 ∨ force + 800 ≤ p then p else force := by
  unfold pFlowStep
  by_cases h1 : p ≤ force - 400
  · rw [if_pos h1, if_pos (.inl h1)]
  · by_cases h2 : force + 800 ≤ p
    · rw [if_neg h1, if_pos h2, if_pos (.inr h2)]
    · rw [if_neg h1, if_neg h2, if_neg fun h => h.elim h1 h2]

/-- A row whose condition has held for its time flips. -/
theorem State.rowDue_flips {s : State} {row : Nat} {u : Tick} (h : row < 6) (hs : (s.therm.row row).since = some u)
    (ht : dwellTime row (s.therm.row row).on ≤ s.now - u) :
    (s.rowDue row).therm = s.therm.setRow row { on := !(s.therm.row row).on, since := none } := by
  have hdue : (decide (row < 6) && s.passed (s.therm.row row).since (dwellTime row (s.therm.row row).on)) = true := by
    rw [hs, decide_eq_true h, Bool.true_and]
    exact decide_eq_true ht
  unfold rowDue
  dsimp only
  rw [if_pos hdue, State.review_keeps State.therm State.post_therm (fun _ _ _ => rfl), State.noteProfile_keeps State.therm State.post_therm,
    State.rowEvent_keeps State.therm State.post_therm]

theorem State.rowDue_rest {γ : Type} (φ : State → γ) (hpost : ∀ (s : State) a b c d, φ (s.post a b c d) = φ s)
    (hset : ∀ (s : State) cs pw, φ { s with courses := cs, power := pw } = φ s) (htherm : ∀ (s : State) t, φ { s with therm := t } = φ s) (s : State) (row : Nat) :
    φ (s.rowDue row) = φ s :=
  State.rowDue_keeps φ hpost hset s row fun _ => htherm ..

theorem State.flushLoss_none {s : State} (h : s.mem.lossBuf = []) : s.flushLoss = s := by
  unfold flushLoss
  rw [h]
  dsimp only [List.filter_nil, List.foldl_nil]
  rw [← h]

/-- The Quench ends, and the pictures of the cores begin anew. -/
def State.unquenched (s : State) : State :=
  { s with
    therm := { s.therm with quench := false, stage2 := false }
    trowel.cores := s.trowel.cores.mapVals fun _ c => { c with busy := c.busy.map fun (b : Nat × Item × Tick × Nat) => (b.1, b.2.1, s.now, b.2.2.2) } }

/-- The Courses of partitions with work wake. -/
def State.wakeAll (s : State) : State := (s.parts.filter fun (q : Nat × Part) => s.partWork q.1 q.2).foldl (fun (s : State) (q : Nat × Part) => s.wakeCourses q.1) s.rewarm

theorem State.quenchOver_eq (s : State) : s.quenchOver =
    (s.unquenched.flushLoss.post 0x0903 0 0 (leBytes 8 (40 * s.unquenched.since s.unquenched.therm.quenchAt))).wakeAll.review := rfl

theorem State.wakeAll_idle {s : State} (h : ∀ q ∈ s.parts, s.partWork q.1 q.2 = false) : s.wakeAll = s.rewarm := by
  have hnone : (s.parts.filter fun q : Nat × Part => s.partWork q.1 q.2) = [] :=
    List.filter_eq_nil_iff.2 fun q hq => by rw [h q hq]; exact Bool.false_ne_true
  unfold wakeAll
  rw [hnone, List.foldl_nil]

theorem State.post_partWork (s : State) (a b c : Nat) (d : List Byte) (p : Nat) (r : Part) : (s.post a b c d).partWork p r = s.partWork p r := by
  unfold partWork queuedOn ctxsOn
  rw [State.post_ctxs]

/-- Without work and losses that wait, the end of the Quench warms Courses and posts events. -/
theorem State.quenchOver_idle {γ : Type} (φ : State → γ) (hpost : ∀ (s : State) a b c d, φ (s.post a b c d) = φ s)
    (hset : ∀ (s : State) cs pw, φ { s with courses := cs, power := pw } = φ s) {s : State} (hwork : ∀ q ∈ s.parts, s.partWork q.1 q.2 = false) (hloss : s.mem.lossBuf = []) :
    φ s.quenchOver = φ s.unquenched := by
  have hcourse (u : State) (k : Nat) (f : Course → Course) : φ (u.updCourse k f) = φ u := hset u _ u.power
  have hflush : s.unquenched.flushLoss = s.unquenched := State.flushLoss_none hloss
  rw [State.quenchOver_eq, hflush, State.review_keeps φ hpost hset, State.wakeAll_idle, State.rewarm_keeps φ hpost (fun u k _ => hcourse u k _)
    (fun u k => hcourse u k _) (fun u k => hcourse u k _), hpost]
  intro q hq
  rw [State.post_parts] at hq
  rw [State.post_partWork]
  exact hwork q hq

theorem exec_quenchEnd {s : State} {u : Tick} (hup : s.up = true) (hq : s.therm.quench = true) (ho : s.therm.okAt = some u) (ht : 250000000 ≤ s.now - u) :
    exec .quenchEnd s = .next s.quenchOver := by
  have hpassed : s.passed s.therm.okAt (tS 10) = true := by
    rw [ho]
    exact decide_eq_true ht
  exact congrArg Host.Outcome.next (if_pos (by rw [hup, hq, hpassed]; rfl))

theorem exec_quenchStage2 {s : State} {f : Nat} {rest : List (Option Nat)} (hup : s.up = true) (hq : s.therm.quench = true) (h2 : s.therm.stage2 = false)
    (ht : 750000000 ≤ s.now - s.therm.quenchAt) (hf : s.therm.flows = some f :: rest) (hlow : f < 300) : exec .quenchStage2 s = .next
      (({ s with therm.stage2 := true, trowel.cores := s.trowel.cores.mapVals fun _ c => { c with gated := true } } : State).post 0x0904 0 0 []) := by
  have hx : exec .quenchStage2 s = execQuenchStage2 s := rfl
  have ht' : decide (tS 30 ≤ s.since s.therm.quenchAt) = true := decide_eq_true ht
  rw [hx, execQuenchStage2, hup, hq, h2, ht', hf]
  exact congrArg Host.Outcome.next (if_pos (decide_eq_true hlow))

/-! ## The I3C bus (R341) -/

/-- The note of a silent sensor in each place. -/
def State.silenced (s : State) : State :=
  { s with therm.flow := { silent := true }, therm.inletS := { silent := true }, therm.outletS := { silent := true },
           therm.fMean := 1190, therm.inlet := degC 40, therm.outlet := degC 54, therm.okAt := none }

/-- The bus is stuck from now on. -/
def State.busStuck (s : State) : State := { s with therm.i3cStuck := some s.now }

/-- The sensors are silent, and the rows follow. -/
theorem State.sensorsSilent_keeps {γ : Type} (φ : State → γ) (hpost : ∀ (s : State) a b c d, φ (s.post a b c d) = φ s)
    (hset : ∀ (s : State) cs pw, φ { s with courses := cs, power := pw } = φ s)
    (hrows : ∀ (s : State) a b c d e f, φ { s with therm := s.therm.withRows a b c d e f } = φ s) (s : State) : φ s.sensorsSilent = φ s.silenced := by
  unfold sensorsSilent
  dsimp only
  rw [State.afterReading_keeps φ hpost hset hrows, State.noteSensor_keeps φ hpost, State.noteSensor_keeps φ hpost, State.noteSensor_keeps φ hpost]
  rfl

section
variable {s : State} (hup : s.up = true) (h : s.therm.i3cStuck = none ∨ ∃ u, s.therm.i3cStuck = some u ∧ 2500000 ≤ s.now - u)
include hup h

theorem State.i3c_due : (s.up && (s.therm.i3cStuck.isNone || s.passed s.therm.i3cStuck (tMs 100))) = true := by
  rcases h with h | ⟨u, h, ht⟩
  · rw [hup, h]
    rfl
  · rw [hup, h]
    exact decide_eq_true ht

theorem exec_i3cBusRecovery_freed : exec (.i3cBusRecovery true) s = .next { s with therm.i3cStuck := none } :=
  congrArg Host.Outcome.next (if_pos (State.i3c_due hup h))

theorem exec_i3cBusRecovery_stuck : exec (.i3cBusRecovery false) s = .next s.busStuck.sensorsSilent :=
  congrArg Host.Outcome.next (if_pos (State.i3c_due hup h))

end

/-! ## The thermal commands (R253) -/

section
variable {s : State} {m : Mb} {r : Req}

theorem exec_thermStatus (h : s.runs m 0x0901 false = some r) (hl : r.len = 0) :
    exec (.thermStatus m) s = .next (((s.taken m).thermStatus r).1.respond m 0x0901 r.tag ((s.taken m).thermStatus r).2) :=
  congrArg Host.Outcome.next (State.mbRun_ok (lenIs 0 []) State.thermStatus h (lenIs_ok hl fun _ hp => nomatch hp))

theorem exec_thermCourse (h : s.runs m 0x0902 false = some r) (hl : r.len = 4) (hz : r.u16 2 = 0) :
    exec (.thermCourse m) s = .next (((s.taken m).thermCourse r).1.respond m 0x0902 r.tag ((s.taken m).thermCourse r).2) :=
  congrArg Host.Outcome.next (State.mbRun_ok (lenIs 4 [(2, 2)]) State.thermCourse h (lenIs_ok hl fun _ hp => List.mem_singleton.1 hp ▸ hz))

theorem exec_thermHbm (h : s.runs m 0x0903 false = some r) (hl : r.len = 0) :
    exec (.thermHbm m) s = .next (((s.taken m).thermHbm r).1.respond m 0x0903 r.tag ((s.taken m).thermHbm r).2) :=
  congrArg Host.Outcome.next (State.mbRun_ok (lenIs 0 []) State.thermHbm h (lenIs_ok hl fun _ hp => nomatch hp))

end

/-- FLOW_STATE, SAFE_STATE and SENSOR_STATE of THERM_STATUS. -/
def State.coolantBits (s : State) : List Byte :=
  leBytes 1 (boolN s.therm.flowLow.on + 2 * boolN s.therm.safeFlow.on + 4 * boolN s.therm.quench + 8 * boolN s.therm.stage2 + 16 * boolN s.therm.inletCold.on) ++
    leBytes 1 (boolN s.therm.safeInlet.on + 2 * boolN s.therm.safeOutlet.on + 4 * boolN s.therm.safeJunction.on) ++
    leBytes 1 (boolN s.therm.flow.silent + 2 * boolN s.therm.inletS.silent + 4 * boolN s.therm.outletS.silent) ++ [0]

theorem State.thermStatus_eq (s : State) (q : Req) : s.thermStatus q = (s, okR (temp16 s.therm.inlet ++ temp16 s.therm.outlet ++ leBytes 2 s.therm.fMean ++
    leBytes 2 (s.therm.pFlow / 16).toNat ++ s.coolantBits ++ temp16 s.hottest.1 ++ leBytes 2 s.hottest.2 ++ leBytes 4 s.therm.quenches ++ leBytes 4 s.therm.rotations ++
    leBytes 4 s.therm.throttleMs ++ leBytes 2 s.therm.drift ++ leBytes 2 s.therm.sensorsRetired)) := by
  unfold thermStatus coolantBits
  simp only [List.append_assoc]

/-- The limit of a Course in °C: 97 with an idle tile to rotate to, else 94. -/
theorem theta_byte (k : Course) : leBytes 1 (theta k / 16).toNat = if k.idle.isSome then [97] else [94] := by
  unfold theta
  cases k.idle.isSome <;> rfl

end Sys2Proof.Machine
end

section
/-! The proof of O46. -/

namespace Sys2Proof.Machine

/-- The readings after an answered read of FLOW. -/
theorem State.flowRead_answered {s : State} {v : Nat} (h : s.therm.flow.silent = false) : (s.flowSensor (some v)) = { s.therm.flow with fails := 0 } ∧
    s.flowList (some v) = (some v :: s.therm.flows).take 102 := by
  have hsensor : s.flowSensor (some v) = { s.therm.flow with fails := 0 } := Sensor.read_ok h s.now
  refine ⟨hsensor, ?_⟩
  have hsilent : (s.flowSensor (some v)).silent = false := by rw [hsensor]; exact h
  unfold State.flowList
  rw [hsilent]
  rfl

/-- F is the mean of the newest ten readings. -/
theorem State.flowRead_fMean {s : State} {v : Nat} (h : s.therm.flow.silent = false) : (s.flowRead (some v)).therm.fMean =
    sumNat (((s.flowList (some v)).filterMap id).take 10) / (((s.flowList (some v)).filterMap id).take 10).length := by
  obtain ⟨hsensor, hlist⟩ := State.flowRead_answered (v := v) h
  have hsilent : (s.flowSensor (some v)).silent = false := by rw [hsensor]; exact h
  have hcons : (s.flowList (some v)).filterMap id = v :: (s.therm.flows.take 101).filterMap id := by
    rw [hlist]
    rfl
  unfold State.flowRead flowMean
  dsimp only
  rw [hsilent, hcons, List.isEmpty_cons, Bool.and_false, if_neg Bool.false_ne_true, if_neg Bool.false_ne_true]
  rfl

/-- An answered read of FLOW: the readings, the sensor, F and the Quench. -/
theorem State.flowTaken_answered {s : State} {v : Nat} (h : s.therm.flow.silent = false) :
    (s.flowTaken (some v)).therm.flows = (some v :: s.therm.flows).take 102 ∧ (s.flowTaken (some v)).therm.flow = { s.therm.flow with fails := 0 } ∧
      (s.flowTaken (some v)).therm.fMean = sumNat (((s.flowList (some v)).filterMap id).take 10) / (((s.flowList (some v)).filterMap id).take 10).length ∧
      (s.flowTaken (some v)).therm.quench = s.therm.quench ∧ (s.flowTaken (some v)).therm.quenches = s.therm.quenches := by
  obtain ⟨hsensor, hlist⟩ := State.flowRead_answered (v := v) h
  have hc := s.flowTaken_coolant (some v)
  simp only [State.coolant, Prod.mk.injEq] at hc
  obtain ⟨hflow, -, -, hflows, hf, -, -, -, hq, hcount⟩ := hc
  exact ⟨hflows.trans hlist, hflow.trans hsensor, hf.trans (State.flowRead_fMean h), hq, hcount⟩

/-- The third failed read of FLOW in a row. -/
theorem State.flowTaken_third {s : State} (h : s.therm.flow.silent = false) (hf : s.therm.flow.fails = 2) :
    quenchTrigger (s.flowList none) = none ∧ (s.flowTaken none).therm.flow.silent = true ∧ (s.flowTaken none).therm.fMean = 1190 ∧
      (s.flowTaken none).therm.quench = s.therm.quench := by
  have hsensor : s.flowSensor none = { fails := 0, oks := 0, silent := true, backAt := none } := Sensor.read_third h hf s.now
  have hcalm : quenchTrigger (s.flowList none) = none := by
    unfold State.flowList
    rw [hsensor]
    rfl
  have hmean : (s.flowRead none).therm.fMean = 1190 := by
    unfold State.flowRead
    rw [hsensor]
    rfl
  have hc := s.flowTaken_coolant none
  simp only [State.coolant, Prod.mk.injEq] at hc
  obtain ⟨hflow, -, -, -, hf', -, -, -, hq, -⟩ := hc
  exact ⟨hcalm, congrArg Sensor.silent (hflow.trans hsensor), hf'.trans hmean, hq⟩

/-- A silent FLOW is a Safe cause. -/
theorem State.safeCauses_flow {t : State} (h : t.therm.flow.silent = true) : t.safeCauses ≠ 0 := by
  have hone : boolN (t.therm.flow.holds || t.therm.inletS.holds || t.therm.outletS.holds) = 1 := by
    unfold Sensor.holds
    rw [h, Bool.true_or, Bool.true_or, Bool.true_or]
    rfl
  unfold safeCauses
  omega

/-- Two reads below 0.3 L/min, and no job, begin the Quench. -/
theorem exec_flowSample_low {s : State} {v g : Nat} {r : Reading} {rest : List (Option Nat)} (hup : s.up = true) (hv : (s.sensed 0 r).map Int.toNat = some v)
    (hs : s.therm.flow.silent = false) (hq : s.therm.quench = false) (hlow : v < 300) (hlowg : g < 300) (hflows : s.therm.flows = some g :: rest) :
    ∃ peak, exec (.flowSample r) s = .next ((s.flowTaken (some v)).quenchBegin 0 peak v) := by
  have hlist : s.flowList (some v) = some v :: some g :: rest.take 100 := by
    rw [(State.flowRead_answered hs).2, hflows]
    rfl
  have htrig : quenchTrigger (s.flowList (some v)) = some 0 := by rw [hlist, quenchTrigger_low _ hlow hlowg]
  have hhead : (s.flowList (some v)).head? = some (some v) := by rw [hlist]; rfl
  obtain ⟨-, -, -, hquench, -⟩ := State.flowTaken_answered (v := v) hs
  exact ⟨_, exec_flowSample_quenches hup hv htrig hhead (hquench.trans hq)⟩

/-- Answered reads of both temperatures. -/
theorem State.tempTaken_answered {s : State} {i o : Int} (hsi : s.therm.inletS.silent = false) (hso : s.therm.outletS.silent = false) :
    (s.tempTaken (some i) (some o)).therm.inlet = i ∧ (s.tempTaken (some i) (some o)).therm.outlet = o ∧
      (s.tempTaken (some i) (some o)).therm.fMean = s.therm.fMean := by
  have hsi' : (s.therm.inletS.read (some i).isSome s.now).silent = false := (congrArg Sensor.silent (Sensor.read_ok hsi s.now)).trans hsi
  have hso' : (s.therm.outletS.read (some o).isSome s.now).silent = false := (congrArg Sensor.silent (Sensor.read_ok hso s.now)).trans hso
  have hc := s.tempTaken_coolant (some i) (some o)
  simp only [State.coolant, Prod.mk.injEq] at hc
  obtain ⟨-, -, -, -, hf, hin, hout, -, -, -⟩ := hc
  refine ⟨hin.trans ?_, hout.trans ?_, hf⟩
  · unfold State.tempRead
    rw [hsi']
    rfl
  · unfold State.tempRead
    rw [hso']
    rfl

/-- The third failed reads of both temperatures in a row. -/
theorem State.tempTaken_third {s : State} (hsi : s.therm.inletS.silent = false) (hfi : s.therm.inletS.fails = 2) (hso : s.therm.outletS.silent = false)
    (hfo : s.therm.outletS.fails = 2) : (s.tempTaken none none).therm.inletS.silent = true ∧ (s.tempTaken none none).therm.outletS.silent = true ∧
      (s.tempTaken none none).therm.inlet = 640 ∧ (s.tempTaken none none).therm.outlet = 864 := by
  have hi := Sensor.read_third hsi hfi s.now
  have ho := Sensor.read_third hso hfo s.now
  have hc := s.tempTaken_coolant none none
  simp only [State.coolant, Prod.mk.injEq] at hc
  obtain ⟨-, hins, houts, -, -, hin, hout, -, -, -⟩ := hc
  refine ⟨congrArg Sensor.silent (hins.trans hi), congrArg Sensor.silent (houts.trans ho), hin.trans ?_, hout.trans ?_⟩
  · unfold State.tempRead
    rw [Option.isSome_none, hi]
    rfl
  · unfold State.tempRead
    rw [Option.isSome_none, hi, ho]
    rfl

/-- A stuck bus makes the sensors silent. -/
theorem State.sensorsSilent_coolant (s : State) : s.sensorsSilent.therm.flow.silent = true ∧ s.sensorsSilent.therm.inletS.silent = true ∧
    s.sensorsSilent.therm.outletS.silent = true := by
  have hc := State.sensorsSilent_keeps State.coolant State.post_coolant (fun _ _ _ => rfl) (fun _ _ _ _ _ _ _ => rfl) s
  simp only [State.coolant, Prod.mk.injEq] at hc
  obtain ⟨hflow, hins, houts, -⟩ := hc
  exact ⟨congrArg Sensor.silent hflow, congrArg Sensor.silent hins, congrArg Sensor.silent houts⟩

/-- Settles O46: a read by `flowTaken_coolant` and `tempTaken_coolant`, the Quench's begin and end by what they keep where no work runs. -/
theorem coolantReadingsAndQuench : Obligations.CoolantReadingsAndQuench := by
  refine ⟨fun s k raw => ⟨rfl, State.sensed_stuck k raw, State.sensed_failed k, fun p => State.sensed_val k⟩, ?flow, ?silent, ?quench, ?temps, ?tempsFail, ?pflow, ?row, ?cause,
    ?ends, ?stage2, ?i3c, ?status, ?course, ?hbm⟩
  case flow =>
    intro s v raw hup hv hs hhigh hall
    have hcalm : quenchTrigger (s.flowList (some v)) = none := by
      rw [(State.flowRead_answered hs).2]
      exact quenchTrigger_flow (by omega) fun x hx => hall x (List.mem_of_mem_take hx)
    obtain ⟨hflows, hflow, hmean, hq, -⟩ := State.flowTaken_answered (v := v) hs
    have hlist : s.flowList (some v) = (s.flowTaken (some v)).therm.flows := (State.flowRead_answered hs).2.trans hflows.symm
    rw [exec_flowSample_calm (v := some v) hup (by rw [hv]; rfl) hcalm]
    refine ⟨_, rfl, hflows, by rw [hflow], by rw [hflow]; exact hs, by rw [hmean, hlist], hq,
      State.flowTaken_keeps State.parts State.post_parts (fun _ _ _ => rfl) (fun _ _ => rfl) .., State.flowTaken_keeps State.ctxs State.post_ctxs (fun _ _ _ => rfl) (fun _ _ => rfl) ..⟩
  case silent =>
    intro s hup hs hf
    obtain ⟨hcalm, hsilent, hmean, hq⟩ := State.flowTaken_third hs hf
    have hv : (s.sensed 0 .fail).map Int.toNat = none := rfl
    rw [exec_flowSample_calm hup hv hcalm]
    exact ⟨_, rfl, hsilent, hmean, State.safeCauses_flow hsilent, State.profile_safe (State.safeCauses_flow hsilent), hq,
      State.flowTaken_keeps State.parts State.post_parts (fun _ _ _ => rfl) (fun _ _ => rfl) .., State.flowTaken_keeps State.ctxs State.post_ctxs (fun _ _ _ => rfl) (fun _ _ => rfl) ..⟩
  case quench =>
    intro s v g raw rest hup hv hs hq hlow hlowg hflows hjobs
    have hparts := State.flowTaken_keeps State.parts State.post_parts (fun _ _ _ => rfl) (fun _ _ => rfl) s (some v)
    have hctxs := State.flowTaken_keeps State.ctxs State.post_ctxs (fun _ _ _ => rfl) (fun _ _ => rfl) s (some v)
    have hnow := State.flowTaken_keeps State.now State.post_now (fun _ _ _ => rfl) (fun _ _ => rfl) s (some v)
    obtain ⟨-, -, -, -, hcount⟩ := State.flowTaken_answered (v := v) hs
    obtain ⟨peak, hx⟩ := exec_flowSample_low hup (v := v) (by rw [hv]; rfl) hs hq hlow hlowg hflows
    rw [hx]
    generalize s.flowTaken (some v) = u at hparts hctxs hnow hcount
    have hidle : ∀ q ∈ u.parts, q.2.job = none := by rw [hparts]; exact hjobs
    have htherm := State.quenchBegin_keeps State.therm State.post_therm (fun _ => rfl) (fun _ _ _ _ => rfl) hidle 0 peak v
    refine ⟨_, rfl, ?_, ?_, ?_, ?_, fun c hc => State.quenchBegin_course hidle _ _ _ hc, State.quenchBegin_pier hidle _ _ _,
      (State.quenchBegin_keeps State.parts State.post_parts (fun _ => rfl) (fun _ _ _ _ => rfl) hidle _ _ _).trans hparts,
      (State.quenchBegin_keeps State.ctxs State.post_ctxs (fun _ => rfl) (fun _ _ _ _ => rfl) hidle _ _ _).trans hctxs⟩
    · rw [htherm]; rfl
    · rw [htherm]; exact hnow
    · rw [htherm]; rfl
    · rw [htherm]; exact congrArg (sat32 · 1) hcount
  case temps =>
    intro s ri ro i o hup hi ho hsi hso
    obtain ⟨hin, hout, hf⟩ := State.tempTaken_answered (i := i) (o := o) hsi hso
    rw [exec_tempSample hup hi ho]
    exact ⟨_, rfl, hin, hout, hf, State.tempTaken_keeps State.parts State.post_parts (fun _ _ _ => rfl) (fun _ _ => rfl) ..,
      State.tempTaken_keeps State.ctxs State.post_ctxs (fun _ _ _ => rfl) (fun _ _ => rfl) ..⟩
  case tempsFail =>
    intro s hup hsi hfi hso hfo
    obtain ⟨hins, houts, hin, hout⟩ := State.tempTaken_third hsi hfi hso hfo
    have hi : s.sensed 1 .fail = none := rfl
    have ho : s.sensed 2 .fail = none := rfl
    rw [exec_tempSample hup hi ho]
    exact ⟨_, rfl, hins, houts, hin, hout, State.tempTaken_keeps State.parts State.post_parts (fun _ _ _ => rfl) (fun _ _ => rfl) ..,
      State.tempTaken_keeps State.ctxs State.post_ctxs (fun _ _ _ => rfl) (fun _ _ => rfl) ..⟩
  case pflow =>
    intro s p hup hp
    have htarget : pFlowTarget s.flowMl s.therm.inlet = p := (pFlowTarget_eq _ _).trans hp.symm
    rw [exec_pflowUpdate hup, htarget, pFlowStep_eq]
    have htherm (u : State) := State.review_keeps State.therm State.post_therm (fun _ _ _ => rfl) u
    refine ⟨_, rfl, ?_, ?_, State.review_keeps State.parts State.post_parts (fun _ _ _ => rfl) _, State.review_keeps State.ctxs State.post_ctxs (fun _ _ _ => rfl) _⟩
    · rw [htherm]
    · rw [htherm]
  case row =>
    intro s row u hup hr hs ht
    exact ⟨_, congrArg Host.Outcome.next (if_pos hup), State.rowDue_flips hr hs ht, State.rowDue_rest State.parts State.post_parts (fun _ _ _ => rfl) (fun _ _ => rfl) ..,
      State.rowDue_rest State.ctxs State.post_ctxs (fun _ _ _ => rfl) (fun _ _ => rfl) ..⟩
  case cause =>
    rintro s cause u hup rfl hon hs ht
    have hx : exec (.safeCauseClear 1) s = .next (s.rowDue 1) := by
      have hx' : exec (.safeCauseClear 1) s = execSafeCauseClear 1 s := rfl
      rw [hx', execSafeCauseClear, hup]
      rfl
    have hdwell : dwellTime 1 (s.therm.row 1).on ≤ s.now - u := by
      have hon' : (s.therm.row 1).on = true := hon
      rw [hon']
      exact ht
    refine ⟨_, hx, (State.rowDue_flips (row := 1) (by decide) hs hdwell).trans ?_, State.rowDue_rest State.parts State.post_parts (fun _ _ _ => rfl) (fun _ _ => rfl) ..⟩
    have hon' : (s.therm.row 1).on = true := hon
    rw [hon']
    rfl
  case ends =>
    intro s u hup hq ho ht hwork hloss
    exact ⟨_, exec_quenchEnd hup hq ho ht, State.quenchOver_idle State.therm State.post_therm (fun _ _ _ => rfl) hwork hloss,
      State.quenchOver_idle State.parts State.post_parts (fun _ _ _ => rfl) hwork hloss, State.quenchOver_idle State.ctxs State.post_ctxs (fun _ _ _ => rfl) hwork hloss⟩
  case stage2 =>
    intro s f rest hup hq h2 ht hf hlow
    refine ⟨_, exec_quenchStage2 hup hq h2 ht hf hlow, State.post_therm .., ?_, State.post_parts .., ?_⟩
    · rw [State.post_trowel]
      intro c hc
      obtain ⟨d, -, rfl⟩ := List.mem_map.1 hc
      rfl
    · apply State.eventPosted_post
      · rfl
      · rfl
  case i3c =>
    intro s hup h
    obtain ⟨hflow, hins, houts⟩ := s.busStuck.sensorsSilent_coolant
    refine ⟨exec_i3cBusRecovery_freed hup h, ?_⟩
    rw [exec_i3cBusRecovery_stuck hup h]
    refine ⟨_, rfl, ?_, hflow, hins, houts, ?_, ?_⟩
    · exact State.sensorsSilent_keeps (fun u => u.therm.i3cStuck) (fun u a b c d => congrArg Thermal.i3cStuck (u.post_therm a b c d)) (fun _ _ _ => rfl) (fun _ _ _ _ _ _ _ => rfl) _
    · exact State.sensorsSilent_keeps State.parts State.post_parts (fun _ _ _ => rfl) (fun _ _ _ _ _ _ _ => rfl) _
    · exact State.sensorsSilent_keeps State.ctxs State.post_ctxs (fun _ _ _ => rfl) (fun _ _ _ _ _ _ _ => rfl) _
  case status =>
    intro s m r h hl
    rw [exec_thermStatus h hl]
    rw [State.thermStatus_eq]
    exact ⟨(s.taken m).coolantBits, rfl, rfl⟩
  case course =>
    intro s m r h hl hz
    rw [exec_thermCourse h hl hz]
    refine ⟨fun hr => ?_, ?_⟩
    · unfold State.thermCourse
      rw [if_pos (by simpa using hr)]
      rfl
    · rintro h0 h1 c rfl
      unfold State.thermCourse
      rw [if_neg (by simp; omega)]
      dsimp only
      rw [theta_byte]
      rfl
  case hbm =>
    intro s m r h hl
    rw [exec_thermHbm h hl]
    rfl

end Sys2Proof.Machine
end

section
/-! SUPPORT. Targeted tests, their outcomes, and the periodic slices (R259-R261, R266-R268). -/

namespace Sys2Proof.Machine

/-! ## Events posted with a class -/

/-- What was posted is told by the host's side alone. -/
theorem eventPosted_congr {s t u : State} (h : u.host = t.host) {code kind id : Nat} {d : List Byte} (hp : eventPosted s t code kind id d) :
    eventPosted s u code kind id d := by
  unfold eventPosted
  rw [h]
  exact hp

theorem State.eventPosted_postT {s u : State} (hhost : u.host = s.host) (hnow : u.now = s.now) (code kind id : Nat) (d : List Byte) (t : LogTag) :
    eventPosted s (u.postT code kind id d t) code kind id d :=
  eventPosted_congr (t := u.post code kind id d) rfl (State.eventPosted_post hhost hnow code kind id d)

theorem State.postT_unit (s : State) (code kind id k i : Nat) (d : List Byte) (t : LogTag) : (s.postT code kind id d t).unit k i = s.unit k i := by
  simp [unit]

/-! ## A test begins (R259, R260) -/

theorem exec_targetedSelfTestStart_begins {s : State} {kind key : Nat} (hup : s.up = true) (hp : (s.unit kind key).pending.isSome = true)
    (ht : (s.unit kind key).testing = false) (hr : (s.unit kind key).retired = false) (hfree : s.testable kind key = true) :
    exec (.targetedSelfTestStart kind key) s = .next (s.beginTest kind key) :=
  congrArg Host.Outcome.next (if_pos (by simp [hup, hp, ht, hr, hfree]))

/-- What a test takes: tiles, Courses, partitions that hold, cores and ports; nothing else. -/
theorem State.beginTest_keeps {γ : Type} (φ : State → γ) (htile : ∀ (s : State) i f, φ (s.updTile i f) = φ s)
    (hcourse : ∀ (s : State) c f, φ (s.updCourse c f) = φ s) (hpart : ∀ (s : State) n f, φ (s.updPart n f) = φ s)
    (hcore : ∀ (s : State) c f, φ (s.updCore c f) = φ s) (hport : ∀ (s : State) p f, φ (s.updPort p f) = φ s) (s : State) (kind key : Nat) :
    φ (s.beginTest kind key) = φ (s.updUnit kind key fun u => { u with testing := true }) := by
  unfold beginTest
  dsimp only
  split
  · split
    · rw [hpart, hcourse, htile]
    · rw [hcourse, htile]
  · exact hcore ..
  · exact hport ..
  · rfl

theorem State.updPart_unit (s : State) (n k i : Nat) (f : Part → Part) : (s.updPart n f).unit k i = s.unit k i := by
  simp [unit]

theorem State.beginTest_unit (s : State) (kind key : Nat) : (s.beginTest kind key).unit kind key = { s.unit kind key with testing := true } := by
  rw [State.beginTest_keeps (fun u => u.unit kind key) (fun _ _ _ => rfl) (fun _ _ _ => rfl) (fun u n f => u.updPart_unit n _ _ f) (fun _ _ _ => rfl) (fun _ _ _ => rfl)]
  exact State.updUnit_unit_self ..

theorem State.beginTest_course (s : State) (key : Nat) :
    (s.beginTest 3 key).course (key / 64 / 9) = { s.course (key / 64 / 9) with occupied := some (2, s.now) } := by
  unfold beginTest
  simp only
  split
  · rw [course, State.updPart_courses]
    exact State.updCourse_course_self ..
  · exact State.updCourse_course_self ..

theorem State.beginTest_core (s : State) (key : Nat) : (s.beginTest 6 key).core key = { s.core key with testing := true } :=
  State.updCore_core_self ..

/-! ## A test ends (R261) -/

/-- A part of an Ashlar is named as the Ashlar and the slice. -/
theorem unitId_unitSrc (kind key : Nat) : unitId kind (unitSrc kind key).1 (unitSrc kind key).2 = key := by
  unfold unitId unitSrc
  split
  · omega
  · rfl

/-- The test is over, and its unit given back. -/
def State.testOff (s : State) (kind key : Nat) : State :=
  (s.updUnit kind key fun u => { u with testing := false, pending := none }).endTest kind key

theorem State.testOff_keeps {γ : Type} (φ : State → γ) (hcourse : ∀ (s : State) c f, φ (s.updCourse c f) = φ s) (hcore : ∀ (s : State) c f, φ (s.updCore c f) = φ s)
    (s : State) (kind key : Nat) : φ (s.testOff kind key) = φ (s.updUnit kind key fun u => { u with testing := false, pending := none }) := by
  unfold testOff endTest
  split
  · exact hcourse ..
  · exact hcore ..
  · rfl

theorem State.testOff_unit (s : State) (kind key : Nat) : (s.testOff kind key).unit kind key = { s.unit kind key with testing := false, pending := none } := by
  rw [State.testOff_keeps (fun u => u.unit kind key) (fun _ _ _ => rfl) (fun _ _ _ => rfl)]
  exact State.updUnit_unit_self ..

theorem State.testOff_host (s : State) (kind key : Nat) : (s.testOff kind key).host = s.host :=
  State.testOff_keeps State.host (fun _ _ _ => rfl) (fun _ _ _ => rfl) ..

theorem State.testOff_now (s : State) (kind key : Nat) : (s.testOff kind key).now = s.now :=
  State.testOff_keeps State.now (fun _ _ _ => rfl) (fun _ _ _ => rfl) ..

theorem State.testOff_parts (s : State) (kind key : Nat) : (s.testOff kind key).parts = s.parts :=
  State.testOff_keeps State.parts (fun _ _ _ => rfl) (fun _ _ _ => rfl) ..

theorem State.testOff_mason (s : State) (kind key : Nat) : (s.testOff kind key).mason = s.mason :=
  State.testOff_keeps State.mason (fun _ _ _ => rfl) (fun _ _ _ => rfl) ..

theorem State.testOff_counts (s : State) (kind key : Nat) : ((s.testOff kind key).flt.transient, (s.testOff kind key).flt.lasting, (s.testOff kind key).flt.burns) =
    (s.flt.transient, s.flt.lasting, s.flt.burns) :=
  State.testOff_keeps (fun u => (u.flt.transient, u.flt.lasting, u.flt.burns)) (fun _ _ _ => rfl) (fun _ _ _ => rfl) ..

theorem State.testOff_unit_ne (s : State) (kind : Nat) {key j : Nat} (h : j ≠ key) : (s.testOff kind key).unit kind j = s.unit kind j := by
  rw [State.testOff_keeps (fun u => u.unit kind j) (fun _ _ _ => rfl) (fun _ _ _ => rfl)]
  exact State.updUnit_unit_ne _ _ _ h

theorem State.testOff_reqs (s : State) (kind key c : Nat) (h : (s.course c).reqs = []) : ((s.testOff kind key).course c).reqs = [] := by
  unfold testOff endTest
  split
  · refine Eq.trans (State.updCourse_part Course.reqs _ _ _ ?_) h
    exact fun _ => rfl
  · exact h
  · exact h

/-- The state after a test's outcome is classed. -/
def State.tested (s : State) (kind key : Nat) (pass req : Bool) : State :=
  (s.testOff kind key).classify kind (unitSrc kind key).1 (unitSrc kind key).2 pass req

section
variable {s : State} {kind key slice : Nat} (hup : s.up = true) (ht : (s.unit kind key).testing = true)
include hup ht

/-- A test that no request asked for, on a Course without requests. -/
theorem exec_targetedSelfTestDone_classed {pass : Bool} (hk : kind ≠ 5) (hp : (s.unit kind key).pending = some (slice, none))
    (hr : kind = 3 → ((s.tested kind key pass false).course (key / 64 / 9)).reqs = []) :
    exec (.targetedSelfTestDone kind key pass) s = .next (s.tested kind key pass false) := by
  have hx : exec (.targetedSelfTestDone kind key pass) s = execTargetedSelfTestDone kind key pass s := rfl
  rw [hx, execTargetedSelfTestDone, if_pos (by simp [hup, ht, hk]), hp]
  dsimp only
  by_cases h3 : kind = 3
  · subst h3
    exact congrArg Host.Outcome.next (State.applyDue_nil _ _ _ (hr rfl))
  · rw [if_neg (by simpa using h3)]
    rfl

/-- A test that a request asked for ends the request. -/
theorem exec_targetedSelfTestDone_requested {pass : Bool} {n : Nat} (hk : kind ≠ 5) (h3 : kind ≠ 3) (hp : (s.unit kind key).pending = some (slice, some n)) :
    exec (.targetedSelfTestDone kind key pass) s = .next ((s.tested kind key pass true).finishOp n St.ok) := by
  have hx : exec (.targetedSelfTestDone kind key pass) s = execTargetedSelfTestDone kind key pass s := rfl
  rw [hx, execTargetedSelfTestDone, if_pos (by simp [hup, ht, hk]), hp]
  dsimp only
  rw [if_neg (by simpa using h3)]
  rfl

end

/-! ## A pass: the class is transient -/

theorem State.classify_passed {s : State} {kind id slice : Nat} (req : Bool)
    (hfew : ((s.unit kind (unitId kind id slice)).transient.filter fun u => decide (s.now < u + 2160000000000)).length < 7) :
    s.classify kind id slice true req = (s.noteTransient kind (unitId kind id slice)).1.testResult kind id 1 slice req := by
  have height := State.noteTransient_few hfew
  unfold classify
  rw [if_pos rfl]
  generalize s.noteTransient kind (unitId kind id slice) = r at height ⊢
  obtain ⟨u, eighth⟩ := r
  subst height
  rfl

section
variable {s : State} {kind key : Nat} (hfew : ((s.unit kind key).transient.filter fun u => decide (s.now < u + 2160000000000)).length < 7)
include hfew

theorem State.tested_passed (req : Bool) : s.tested kind key true req =
    ((s.testOff kind key).noteTransient kind key).1.testResult kind (unitSrc kind key).1 1 (unitSrc kind key).2 req := by
  unfold tested
  rw [State.classify_passed (s := s.testOff kind key), unitId_unitSrc]
  rw [unitId_unitSrc, State.testOff_unit, State.testOff_now]
  exact hfew

theorem State.tested_passed_unit (req : Bool) : (s.tested kind key true req).unit kind key =
    { s.unit kind key with testing := false, pending := none, total := sat32 (s.unit kind key).total 1,
                           transient := s.now :: (s.unit kind key).transient.filter fun t => decide (s.now < t + tS 86400) } := by
  rw [State.tested_passed hfew, testResult, State.postT_unit, State.noteTransient_unit, State.testOff_unit, State.testOff_now]

/-- A pass changes no partition and no operation, and counts one transient class. -/
theorem State.tested_passed_rest (req : Bool) : (s.tested kind key true req).parts = s.parts ∧ (s.tested kind key true req).mason = s.mason ∧
    (s.tested kind key true req).flt.transient = sat32 s.flt.transient 1 ∧ (s.tested kind key true req).flt.lasting = s.flt.lasting := by
  have hcounts := s.testOff_counts kind key
  simp only [Prod.mk.injEq] at hcounts
  obtain ⟨htransient, hlasting, -⟩ := hcounts
  rw [State.tested_passed hfew, testResult]
  refine ⟨(State.postT_parts ..).trans (s.testOff_parts kind key), (State.postT_mason ..).trans (s.testOff_mason kind key), ?_, ?_⟩
  · rw [State.postT_flt_transient]
    exact congrArg (sat32 · 1) htransient
  · rw [State.postT_flt_lasting]
    exact hlasting

theorem State.tested_passed_posted (req : Bool) : eventPosted s (s.tested kind key true req) 0x0A02 kind (unitSrc kind key).1
    (leBytes 1 1 ++ leBytes 1 (unitSrc kind key).2 ++ leBytes 1 (boolN req)) := by
  rw [State.tested_passed hfew]
  apply State.eventPosted_postT
  · exact s.testOff_host kind key
  · exact s.testOff_now kind key

theorem State.tested_passed_reqs {c : Nat} (req : Bool) (h : (s.course c).reqs = []) : ((s.tested kind key true req).course c).reqs = [] := by
  rw [State.tested_passed hfew, testResult, course, State.postT_courses]
  exact s.testOff_reqs kind key c h

end

/-! ## A failure that a spare row repairs (R264) -/

theorem State.classLasting_cases (s : State) (kind id slice : Nat) (req : Bool) :
    s.classLasting kind id slice req = (s.testResult kind id 2 slice req).lasting kind id slice ∨
      s.classLasting kind id slice req = ((s.testResult kind id 2 slice req).lasting kind id slice).updUnit kind (unitId kind id slice)
        fun u => { u with pending := some (slice, none), pendingAt := ((s.testResult kind id 2 slice req).lasting kind id slice).now } := by
  unfold classLasting
  dsimp only
  split
  · exact .inr rfl
  · exact .inl rfl

/-- What a row repair does: the row, its fuse and the count of lasting classes. -/
theorem State.lasting_row {s : State} {id slice : Nat} (h32 : slice < 32) (hrows : rowsUsed (s.unit 3 (id * 64)) (slice / 4) < 16) :
    ∃ (u : State) (row : Nat), s.lasting 3 id slice = u.rowRepair 3 (id * 64) (slice / 4) 0x03 3 id row ∧ u.flt = { s.flt with lasting := sat32 s.flt.lasting 1 } ∧
      u.parts = s.parts ∧ u.host = s.host ∧ u.now = s.now ∧ u.courses = s.courses :=
  ⟨_, _, if_pos (by simp only [h32, decide_true, Bool.true_and, decide_eq_true_eq]; exact hrows), rfl, rfl, rfl, rfl, rfl⟩

theorem State.rowRepair_unit (s : State) (kind key set fuse ukind uid w : Nat) : (s.rowRepair kind key set fuse ukind uid w).unit kind key =
    { s.unit kind key with rows := (s.unit kind key).rows.set set (rowsUsed (s.unit kind key) set + 1) } := by
  unfold rowRepair burn
  exact s.updUnit_unit_self kind key fun u => { u with rows := u.rows.set set (rowsUsed u set + 1) }

theorem State.rowRepair_unit_ne (s : State) (kind set fuse ukind uid w : Nat) {key j : Nat} (h : j ≠ key) :
    (s.rowRepair kind key set fuse ukind uid w).unit kind j = s.unit kind j := by
  unfold rowRepair burn
  exact s.updUnit_unit_ne kind (fun u => { u with rows := u.rows.set set (rowsUsed u set + 1) }) h

theorem rowsUsed_set (u : Unit) (set n : Nat) : rowsUsed { u with rows := u.rows.set set n } set = n := Tbl.get_set_self ..

/-- A failed Ashlar part, while its bank set has rows left. -/
theorem State.classLasting_row {s : State} {id slice : Nat} (req : Bool) (h32 : slice < 32) (h0 : slice ≠ 0) (hrows : rowsUsed (s.unit 3 (id * 64)) (slice / 4) < 16) :
    ∃ t : State, s.classLasting 3 id slice req = t ∧ rowsUsed (t.unit 3 (id * 64)) (slice / 4) = rowsUsed (s.unit 3 (id * 64)) (slice / 4) + 1 ∧
      (t.unit 3 (id * 64 + slice)).testing = (s.unit 3 (id * 64 + slice)).testing ∧ t.flt.lasting = sat32 s.flt.lasting 1 ∧
      (∃ b, t.flt.burns = s.flt.burns ++ [b] ∧ b.kind = 3) ∧ t.host = (s.testResult 3 id 2 slice req).host ∧ t.parts = s.parts ∧ t.courses = s.courses := by
  have hunit (k : Nat) : (s.testResult 3 id 2 slice req).unit 3 k = s.unit 3 k := State.postT_unit ..
  have hne : id * 64 + slice ≠ id * 64 := by omega
  obtain ⟨u, row, hlasting, hflt, hparts, hhost, -, hcourses⟩ := State.lasting_row (s := s.testResult 3 id 2 slice req) h32 (by rw [hunit]; exact hrows)
  have hu (k : Nat) : u.unit 3 k = s.unit 3 k := by
    rw [← hunit k, unit, hflt]
    rfl
  have hused : rowsUsed ((u.rowRepair 3 (id * 64) (slice / 4) 0x03 3 id row).unit 3 (id * 64)) (slice / 4) = rowsUsed (s.unit 3 (id * 64)) (slice / 4) + 1 := by
    rw [State.rowRepair_unit, rowsUsed_set, hu]
  have htesting : ((u.rowRepair 3 (id * 64) (slice / 4) 0x03 3 id row).unit 3 (id * 64 + slice)).testing = (s.unit 3 (id * 64 + slice)).testing := by
    rw [State.rowRepair_unit_ne _ _ _ _ _ _ _ hne, hu]
  have hcount : u.flt.lasting = sat32 s.flt.lasting 1 := by
    rw [hflt, testResult, State.postT_flt_lasting]
  have hburns : ∃ b, (u.rowRepair 3 (id * 64) (slice / 4) 0x03 3 id row).flt.burns = s.flt.burns ++ [b] ∧ b.kind = 3 := by
    have hold : u.flt.burns = s.flt.burns := by rw [hflt, testResult, State.postT_flt_burns]
    rw [← hold]
    exact ⟨_, rfl, rfl⟩
  have hparts' : u.parts = s.parts := hparts.trans (by rw [testResult, State.postT_parts])
  have hcourses' : u.courses = s.courses := hcourses.trans (by rw [testResult, State.postT_courses])
  rcases State.classLasting_cases s 3 id slice req with h | h
  · rw [hlasting] at h
    exact ⟨_, h, hused, htesting, hcount, hburns, hhost, hparts', hcourses'⟩
  · rw [hlasting] at h
    refine ⟨_, h, ?_, ?_, hcount, hburns, hhost, hparts', hcourses'⟩
    · rw [State.updUnit_unit_ne _ _ _ (show id * 64 ≠ unitId 3 id slice from Ne.symm hne)]
      exact hused
    · rw [show unitId 3 id slice = id * 64 + slice from rfl, State.updUnit_unit_self]
      exact htesting

/-! ## Periodic slices and rotation (R266-R268) -/

theorem exec_bistSliceStart_takes {s : State} {n : Nat} (hup : s.up = true) (htile : s.sliceTile n = true) (hocc : (s.course (n / 9)).occupied = none)
    (hqueued : (s.pair n).testQueued = false) (hhold : s.power.hold = false) (hfloor : s.power.floor = false) (hquench : s.therm.quench = false)
    (hlast : (s.course (n / 9)).lastSlice = none ∨ ∃ u, (s.course (n / 9)).lastSlice = some u ∧ 2500000 ≤ s.now - u) :
    exec (.bistSliceStart n) s = .next ((s.updTile n fun x => { x with sram.valid := [] }).updCourse (n / 9) fun k =>
      { k with occupied := some (0, s.now), lastSlice := some s.now }) := by
  have hdue : ((s.course (n / 9)).lastSlice.isNone || s.passed (s.course (n / 9)).lastSlice (tMs 100)) = true := by
    rcases hlast with h | ⟨u, h, hu⟩
    · rw [h]
      rfl
    · rw [h]
      exact decide_eq_true hu
  refine congrArg Host.Outcome.next (if_pos ?_)
  rw [hup, htile, hocc, hqueued, hhold, hfloor, hquench, hdue]
  rfl

theorem Tile.slicePassed_eq (x : Tile) (now : Tick) : x.slicePassed now =
    if (insertNat x.slices (nextSlice x)).length = 64 then { x with slices := [], covered := now } else { x with slices := insertNat x.slices (nextSlice x) } := by
  simp [slicePassed]

theorem exec_bistSliceDone_passed {s : State} {n : Nat} {u : Tick} (hup : s.up = true) (htile : s.sliceTile n = true)
    (hocc : (s.course (n / 9)).occupied = some (0, u)) (hreqs : (s.course (n / 9)).reqs = []) :
    exec (.bistSliceDone n true) s = .next ((s.updCourse (n / 9) fun k => { k with occupied := none }).updTile n fun x => x.slicePassed s.now) := by
  have hx : exec (.bistSliceDone n true) s = execBistSliceDone n true s := rfl
  rw [hx, execBistSliceDone, hocc, hup, htile]
  refine congrArg Host.Outcome.next (State.applyDue_nil _ _ _ ?_)
  refine Eq.trans (State.updCourse_part Course.reqs s (n / 9) (n / 9) (f := fun k => { k with occupied := none }) ?_) hreqs
  exact fun _ => rfl

/-- The request of a rotation waits at a Course that had no other. -/
def State.askRotation (s : State) (c slot : Nat) : State := s.updCourse c fun k => { k with reqs := [.rotate slot false] }

theorem State.askRotation_course (s : State) (c slot : Nat) : (s.askRotation c slot).course c = { s.course c with reqs := [.rotate slot false] } :=
  s.updCourse_course_self c fun k => { k with reqs := [.rotate slot false] }

section
variable {s : State} {n slot : Nat} (hup : s.up = true) (hn : n < 144) (hslot : (s.course (n / 9)).slotOfTile (n % 9) = some slot) (hserves : s.pierServes (n / 36) = true)
  (hcovered : 1800000000000 ≤ s.now - (s.tile n).covered) (hidle : (s.course (n / 9)).idle.isSome = true) (hreqs : (s.course (n / 9)).reqs = [])
include hup hn hslot hserves hcovered hidle hreqs

/-- The one request of a Course that had none. -/
theorem exec_coverageRotation_posts : exec (.coverageRotation n) s =
    .next ((s.askRotation (n / 9) slot).applyDue (n / 9) false) := by
  have hx : exec (.coverageRotation n) s = execCoverageRotation n s := rfl
  have hold : decide (tS 72000 ≤ s.since (s.tile n).covered) = true := decide_eq_true hcovered
  rw [hx, execCoverageRotation, hslot]
  simp only [hup, hn, hserves, hold, hidle, decide_true, Bool.and_self, if_true]
  unfold State.postReq
  dsimp only
  rw [hreqs]
  rfl

end

/-- A Course with one request. -/
theorem State.applyDue_one {s : State} {c : Nat} {bp : Bool} {r : CtlReq} (hhold : s.power.hold = false) (hr : (s.course c).reqs = [r]) :
    s.applyDue c bp = match s.applyReq c bp r with
      | some t => t.updCourse c fun k => { k with reqs := dropFirst (fun q => q == r) k.reqs }
      | none => s := by
  unfold applyDue
  rw [hhold, hr]
  rfl

/-- What keeps a request waiting: a Hold, or a slot in use. -/
theorem State.applyDue_waits {s : State} {c slot : Nat} (hr : (s.course c).reqs = [.rotate slot false]) (h : s.power.hold = true ∨ s.slotBusy c slot = true) :
    s.applyDue c false = s := by
  by_cases hhold : s.power.hold = true
  · unfold applyDue
    rw [if_pos hhold]
  · have hnone : s.applyReq c false (.rotate slot false) = none := if_pos (by rw [h.resolve_left hhold]; rfl)
    rw [State.applyDue_one (by simpa using hhold) hr, hnone]

theorem dropFirst_single (r : CtlReq) : dropFirst (fun q => q == r) [r] = [] := if_pos (beq_self_eq_true r)

/-- A rotation moves the slot to the idle tile and is counted. -/
theorem State.mapRotate_idle {s : State} {c slot i : Nat} (hi : (s.course c).idle = some i) :
    (s.mapRotate c slot).course c = { s.course c with map := setAt (s.course c).map slot i } ∧ (s.mapRotate c slot).therm.rotations = sat32 s.therm.rotations 1 ∧
      (s.mapRotate c slot).ctxs = s.ctxs := by
  unfold mapRotate
  rw [hi]
  dsimp only
  split
  · refine ⟨?_, ?_, ?_⟩
    · rw [course, State.updPartCtr_courses]
      exact s.updCourse_course_self c fun k => { k with map := setAt k.map slot i }
    · rw [State.updPartCtr_therm]
      rfl
    · rw [State.updPartCtr_ctxs]
      rfl
  · exact ⟨s.updCourse_course_self c fun k => { k with map := setAt k.map slot i }, rfl, rfl⟩

/-- A rotation that is due at once. -/
theorem State.applyDue_rotates {s : State} {c slot i : Nat} (hr : (s.course c).reqs = [.rotate slot false]) (hhold : s.power.hold = false)
    (hfree : s.slotBusy c slot = false) (hocc : (s.course c).occupied = none) (hi : (s.course c).idle = some i) :
    ((s.applyDue c false).course c).map = setAt (s.course c).map slot i ∧ ((s.applyDue c false).course c).reqs = [] ∧
      (s.applyDue c false).therm.rotations = sat32 s.therm.rotations 1 ∧ (s.applyDue c false).ctxs = s.ctxs := by
  obtain ⟨hcourse, hrotations, hctxs⟩ := State.mapRotate_idle (slot := slot) hi
  have hdue : s.applyReq c false (.rotate slot false) = some (s.mapRotate c slot) := by
    unfold applyReq
    simp [hfree, hocc, hi]
  rw [State.applyDue_one hhold hr, hdue]
  dsimp only
  refine ⟨?_, ?_, hrotations, hctxs⟩
  · rw [State.updCourse_course_self, hcourse]
  · rw [State.updCourse_course_self, hcourse]
    dsimp only
    rw [hr]
    exact dropFirst_single _

theorem exec_bistCoverageLapsed_posts {s : State} {n : Nat} (hup : s.up = true) (hn : n < 144) (hr : (s.course (n / 9)).retired.contains (n % 9) = false)
    (hlong : 2160000000000 ≤ s.now - (s.tile n).covered) (hlapsed : (s.tile n).lapsedAt = none) :
    exec (.bistCoverageLapsed n) s = .next ((s.updTile n fun x => { x with lapsedAt := some s.now }).post 0x0A09 3 n
      (leBytes 2 (min 0xFFFF ((s.now - (s.tile n).covered) / 90000000000)))) := by
  have hlong' : decide (tS 86400 ≤ s.since (s.tile n).covered) = true := decide_eq_true hlong
  refine congrArg Host.Outcome.next (if_pos ?_)
  rw [hup, hr, hlong', hlapsed, decide_eq_true hn]
  rfl

end Sys2Proof.Machine
end

section
/-! The proof of O48. -/

namespace Sys2Proof.Machine

/-- Settles O48: a test begins where its unit is free, its outcome is classed once (a pass as transient, a failed part by a row repair), and slices and rotations are
taken when they are due. -/
theorem testsRunAndClassify : Obligations.TestsRunAndClassify := by
  unfold Obligations.TestsRunAndClassify
  refine ⟨?starts, ?passes, ?requested, ?fails, ?sliceStarts, ?sliceDone, ?waits, ?rotates, ?lapsed⟩
  case starts =>
    intro s kind key hup hp ht hr hfree
    refine ⟨_, exec_targetedSelfTestStart_begins hup hp ht hr hfree, s.beginTest_unit kind key, ?_, ?_, ?_, ?_⟩
    · rintro rfl
      exact s.beginTest_course key
    · rintro rfl
      exact s.beginTest_core key
    · exact State.beginTest_keeps State.ctxs (fun _ _ _ => rfl) (fun _ _ _ => rfl) State.updPart_ctxs (fun _ _ _ => rfl) (fun _ _ _ => rfl) ..
    · exact State.beginTest_keeps State.mem (fun _ _ _ => rfl) (fun _ _ _ => rfl) State.updPart_mem (fun _ _ _ => rfl) (fun _ _ _ => rfl) ..
  case passes =>
    intro s kind key slice hup ht hp hk hreqs hfew
    have hunit := State.tested_passed_unit hfew false
    obtain ⟨hparts, -, htransient, hlasting⟩ := State.tested_passed_rest hfew false
    refine ⟨_, exec_targetedSelfTestDone_classed hup ht hk hp fun _ => State.tested_passed_reqs hfew false (hreqs _), congrArg Unit.testing hunit,
      congrArg Unit.pending hunit, congrArg Unit.total hunit, htransient, hlasting, ?_, ?_, hparts⟩
    · rintro rfl
      exact State.tested_passed_posted hfew false
    · rintro rfl
      exact State.tested_passed_posted hfew false
  case requested =>
    intro s kind key slice n hup ht hp hk h3 hfew
    obtain ⟨-, hmason, -, -⟩ := State.tested_passed_rest hfew true
    have hsrc : unitSrc kind key = (key, 0) := if_neg (by simpa using h3)
    have hposted := State.tested_passed_posted hfew true
    rw [hsrc] at hposted
    exact ⟨_, exec_targetedSelfTestDone_requested hup ht hk h3 hp, congrArg Unit.pending (State.tested_passed_unit hfew true), hposted, hmason⟩
  case fails =>
    intro s key slice hup ht hp hreqs h32 hrows h0
    have hcounts := s.testOff_counts 3 key
    simp only [Prod.mk.injEq] at hcounts
    obtain ⟨-, hlasting, hburns⟩ := hcounts
    have hbase : (s.testOff 3 key).unit 3 (key / 64 * 64) = s.unit 3 (key / 64 * 64) := State.testOff_unit_ne _ _ (by omega)
    have hkey : key / 64 * 64 + key % 64 = key := by omega
    obtain ⟨t, hclass, hused, htesting, hcount, hburn, hhost, hparts, hcourses⟩ :=
      State.classLasting_row (s := s.testOff 3 key) (id := key / 64) false h32 h0 (by rw [hbase]; exact hrows)
    rw [hbase] at hused
    rw [hkey, State.testOff_unit] at htesting
    rw [hlasting] at hcount
    rw [hburns] at hburn
    have htested : s.tested 3 key false false = t := hclass
    refine ⟨t, ?_, hused, htesting, hcount, hburn, ?_, hparts.trans (s.testOff_parts 3 key)⟩
    · rw [exec_targetedSelfTestDone_classed hup ht (by decide) hp, htested]
      intro _
      rw [htested, State.course, hcourses]
      exact s.testOff_reqs 3 key _ (hreqs _)
    · apply eventPosted_congr hhost
      apply State.eventPosted_postT
      · exact s.testOff_host 3 key
      · exact s.testOff_now 3 key
  case sliceStarts =>
    intro s n hup htile hocc hqueued hhold hfloor hquench hlast
    exact exec_bistSliceStart_takes hup htile hocc hqueued hhold hfloor hquench hlast
  case sliceDone =>
    intro s n u hup htile hocc hreqs
    rw [exec_bistSliceDone_passed hup htile hocc hreqs]
    simp only [Tile.slicePassed_eq]
  case waits =>
    intro s n slot hup hn hslot hserves hcovered hidle hwaits hreqs
    rw [exec_coverageRotation_posts hup hn hslot hserves hcovered hidle hreqs,
      State.applyDue_waits (s := s.askRotation (n / 9) slot) (congrArg Course.reqs (s.askRotation_course (n / 9) slot)) hwaits]
    rfl
  case rotates =>
    intro s n slot hup hn hslot hserves hcovered hidle hhold hfree hocc hreqs
    obtain ⟨i, hi⟩ := Option.isSome_iff_exists.1 hidle
    have hcourse := s.askRotation_course (n / 9) slot
    obtain ⟨hmap, hnone, hrotations, hctxs⟩ := State.applyDue_rotates (s := s.askRotation (n / 9) slot)
      (congrArg Course.reqs hcourse) hhold hfree ((congrArg Course.occupied hcourse).trans hocc) ((congrArg Course.idle hcourse).trans hi)
    rw [congrArg Course.map hcourse] at hmap
    exact ⟨_, i, exec_coverageRotation_posts hup hn hslot hserves hcovered hidle hreqs, hi, hmap, hnone, hrotations, hctxs⟩
  case lapsed =>
    intro s n hup hn hr hlong hlapsed
    refine ⟨_, exec_bistCoverageLapsed_posts hup hn hr hlong hlapsed, ?_, ?_, ?_⟩
    · rw [State.tile, State.post_tiles]
      exact State.updTile_tile_self ..
    · exact State.post_parts ..
    · apply State.eventPosted_post
      · rfl
      · rfl

end Sys2Proof.Machine
end

section
/-! SUPPORT. Errors and what they reset: corrections, burns, Foreman, Setter and Mason, and the end of a Pier reset (R258, R265, R273, R318). -/

namespace Sys2Proof.Machine

/-! ## Corrections and burns -/

/-- The summary of an hour. -/
def State.hourSummed (s : State) (kind id n : Nat) : State :=
  let u := s.updUnit kind id fun u => { u with hourAt := some s.now }
  { u with flt.corrected := sat64 u.flt.corrected n }

theorem exec_correctedSummary_posts {s : State} {kind id n : Nat} (hup : s.up = true) (hn : 0 < n)
    (hdue : (s.unit kind id).hourAt = none ∨ ∃ u, (s.unit kind id).hourAt = some u ∧ 90000000000 ≤ s.now - u) :
    exec (.correctedSummary kind id n) s = .next ((s.hourSummed kind id n).postT 0x0A0A kind id (leBytes 4 (min n 0xFFFFFFFF)) { cls := 0 }) := by
  have hdue' : ((s.unit kind id).hourAt.isNone || s.passed (s.unit kind id).hourAt (tS 3600)) = true := by
    rcases hdue with h | ⟨u, h, hu⟩
    · rw [h]
      rfl
    · rw [h]
      exact decide_eq_true hu
  refine congrArg Host.Outcome.next (if_pos ?_)
  rw [hup, hdue']
  simp
  omega

theorem State.hourSummed_unit (s : State) (kind id n : Nat) : (s.hourSummed kind id n).unit kind id = { s.unit kind id with hourAt := some s.now } :=
  s.updUnit_unit_self kind id fun u => { u with hourAt := some s.now }

/-- The oldest burn is an entry of the ledger, and a version counter takes its value. -/
def State.burned (s : State) (f : Fuse) (rest : List Fuse) : State :=
  let u := { s with flt.burns := rest }.burnNow f
  if f.kind == 8 then { u with fw.counter := max u.fw.counter f.value }.post 0x0C04 0 0 (leBytes 1 f.value) else u

/-- A burn that ends posts a repair where it was one. -/
theorem State.repairPosted_keeps {γ : Type} (φ : State → γ) (hpost : ∀ (s : State) c k i d t, φ (s.postT c k i d t) = φ s) (s : State) (f : Fuse) :
    φ (match s.repairInfo f with
      | some (a, left) => s.postT 0x0A03 f.unitKind f.unitId (leBytes 1 a ++ leBytes 2 left) { cls := 2, action := a }
      | none => s) = φ s := by
  split
  · exact hpost ..
  · rfl

theorem exec_fuseBurnDone_keeps {γ : Type} (φ : State → γ) (hpost : ∀ (s : State) c k i d t, φ (s.postT c k i d t) = φ s) {s : State} {f : Fuse} {rest : List Fuse}
    (hup : s.up = true) (hm : s.mason.paused = false) (hb : s.flt.burns = f :: rest) : ∃ t : State, exec .fuseBurnDone s = .next t ∧ φ t = φ (s.burned f rest) := by
  have hx : exec .fuseBurnDone s = execFuseBurnDone s := rfl
  rw [hx, execFuseBurnDone, hb, hup, hm]
  exact ⟨_, rfl, State.repairPosted_keeps φ hpost (s.burned f rest) f⟩

/-- What a burn leaves: the ledger with one entry more, and the firmware's counter. -/
theorem State.burned_spec {s : State} (f : Fuse) (rest : List Fuse) (hcap : s.flt.ledger.length < 24576) :
    (s.burned f rest).flt.burns = rest ∧ (s.burned f rest).flt.ledger = s.flt.ledger ++ [some { f with boot := s.fw.boot, time := s.now }] ∧
      (s.burned f rest).fw.counter = (if f.kind = 8 then max s.fw.counter f.value else s.fw.counter) ∧ (s.burned f rest).parts = s.parts ∧ (s.burned f rest).ctxs = s.ctxs := by
  have hnow : { s with flt.burns := rest }.burnNow f =
      { s with flt.burns := rest, flt.ledger := s.flt.ledger ++ [some { f with boot := s.fw.boot, time := s.now }] } := if_pos hcap
  unfold burned
  rw [hnow]
  by_cases h8 : f.kind = 8
  · simp [h8]
  · simp [h8]

/-! ## A Pier reset begins (R273) -/

/-- The Courses of a Pier without a job are gated. -/
def State.gateIdle (s : State) (p : Nat) (l : List Nat) : State :=
  l.foldl (fun s i => if s.courseRunning (p * 4 + i) then s else s.gateCourse (p * 4 + i)) s

theorem State.gateIdle_keeps {γ : Type} (φ : State → γ) (hcourse : ∀ (s : State) c f, φ (s.updCourse c f) = φ s) (s : State) (p : Nat) (l : List Nat) :
    φ (s.gateIdle p l) = φ s := by
  unfold gateIdle
  refine foldl_keeps _ φ (fun u i => ?_) l s
  split
  · rfl
  · exact hcourse ..

/-- A gated Course stays gated. -/
theorem State.gateCourse_off {s : State} {c k : Nat} (h : c = k ∨ (s.course c).power = 0) : ((s.gateCourse k).course c).power = 0 := by
  unfold gateCourse
  by_cases hk : c = k
  · subst hk
    rw [State.updCourse_course_self]
  · rw [State.updCourse_course_ne _ _ hk]
    exact h.resolve_left hk

theorem State.gateIdle_power {p i : Nat} {l : List Nat} : ∀ {s : State}, s.courseRunning (p * 4 + i) = false → (i ∈ l ∨ (s.course (p * 4 + i)).power = 0) →
    ((s.gateIdle p l).course (p * 4 + i)).power = 0 := by
  induction l with
  | nil =>
    intro s _ h
    exact h.resolve_left (by simp)
  | cons j l ih =>
    intro s hrun h
    by_cases hj : s.courseRunning (p * 4 + j) = true
    · have hne : i ≠ j := by
        rintro rfl
        rw [hrun] at hj
        exact Bool.false_ne_true hj
      have hstep : s.gateIdle p (j :: l) = s.gateIdle p l := by
        unfold gateIdle
        rw [List.foldl_cons, if_pos hj]
      rw [hstep]
      exact ih hrun (h.imp_left fun hm => (List.mem_cons.1 hm).resolve_left hne)
    · have hstep : s.gateIdle p (j :: l) = (s.gateCourse (p * 4 + j)).gateIdle p l := by
        unfold gateIdle
        rw [List.foldl_cons, if_neg hj]
      rw [hstep]
      refine ih hrun ?_
      rcases h with hm | hoff
      · rcases List.mem_cons.1 hm with rfl | hm
        · exact .inr (State.gateCourse_off (.inl rfl))
        · exact .inl hm
      · exact .inr (State.gateCourse_off (.inr hoff))

/-- The Pier of a reset that begins. -/
def Pier.reset (q : Pier) (cause : Nat) (now : Tick) : Pier := { q with resetting := true, resetCause := cause, resetAt := now }

/-- A reset that begins, before its event. -/
def State.resetBegun (s : State) (p cause : Nat) : State :=
  (((s.handover (if cause == 4 then 3 else 2)).updPier p fun q => q.reset cause (s.handover (if cause == 4 then 3 else 2)).now)).gateIdle p (List.range 4)

theorem State.pierReset_eq (s : State) (p cause : Nat) : s.pierReset p cause =
    { s.resetBegun p cause with flt.pierResets := sat32 (s.resetBegun p cause).flt.pierResets 1 }.postT 0x0A07 1 p (leBytes 1 cause ++ leBytes 1 0) { action := 7 } := rfl

theorem State.resetBegun_keeps {γ : Type} (φ : State → γ) (hsend : ∀ s : State, φ s.unsent = φ s) (htwin : ∀ (s : State) tw, φ { s with twin := tw } = φ s)
    (hcourse : ∀ (s : State) c f, φ (s.updCourse c f) = φ s) (hpier : ∀ (s : State) p f, φ (s.updPier p f) = φ s) (s : State) (p cause : Nat) :
    φ (s.resetBegun p cause) = φ s := by
  unfold resetBegun
  rw [State.gateIdle_keeps φ hcourse, hpier]
  exact State.handover_keeps φ hsend htwin ..

theorem State.pierReset_pier (s : State) (p cause : Nat) : (s.pierReset p cause).pier p = { s.pier p with resetting := true, resetCause := cause, resetAt := s.now } := by
  have hpier (c : Nat) : (s.handover c).pier p = s.pier p := State.handover_keeps (fun u => u.pier p) (fun _ => rfl) (fun _ _ => rfl) ..
  have hnow (c : Nat) : (s.handover c).now = s.now := State.handover_keeps State.now (fun _ => rfl) (fun _ _ => rfl) ..
  rw [State.pierReset_eq, pier, State.postT_piers]
  have hgate := State.gateIdle_keeps (fun u => u.pier p) (fun _ _ _ => rfl)
    ((s.handover (if cause == 4 then 3 else 2)).updPier p fun q => q.reset cause (s.handover (if cause == 4 then 3 else 2)).now) p (List.range 4)
  refine hgate.trans ?_
  rw [State.updPier_pier_self, hpier, hnow]
  rfl

theorem State.pierReset_pier_ne (s : State) {p q : Nat} (cause : Nat) (h : q ≠ p) : (s.pierReset p cause).pier q = s.pier q := by
  have hpier (c : Nat) : (s.handover c).pier q = s.pier q := State.handover_keeps (fun u => u.pier q) (fun _ => rfl) (fun _ _ => rfl) ..
  rw [State.pierReset_eq, pier, State.postT_piers]
  have hgate := State.gateIdle_keeps (fun u => u.pier q) (fun _ _ _ => rfl)
    ((s.handover (if cause == 4 then 3 else 2)).updPier p fun q => q.reset cause (s.handover (if cause == 4 then 3 else 2)).now) p (List.range 4)
  refine hgate.trans ?_
  rw [State.updPier_pier_ne _ _ h, hpier]

theorem State.pierReset_power {s : State} {p i : Nat} (cause : Nat) (hi : i < 4) (hrun : s.courseRunning (p * 4 + i) = false) :
    ((s.pierReset p cause).course (p * 4 + i)).power = 0 := by
  rw [State.pierReset_eq, course, State.postT_courses]
  have hrun' (c : Nat) : (s.handover c).courseRunning (p * 4 + i) = false := by
    rw [State.handover_keeps (fun u => u.courseRunning (p * 4 + i)) (fun _ => rfl) (fun _ _ => rfl)]
    exact hrun
  exact State.gateIdle_power (s := (s.handover (if cause == 4 then 3 else 2)).updPier p _) (hrun' _) (.inl (List.mem_range.2 hi))

theorem State.pierReset_counts (s : State) (p cause : Nat) : (s.pierReset p cause).flt.pierResets = sat32 s.flt.pierResets 1 ∧
    (s.pierReset p cause).flt.errors = s.flt.errors ∧ (s.pierReset p cause).parts = s.parts ∧ (s.pierReset p cause).mason = s.mason := by
  have hflt : (s.resetBegun p cause).flt = s.flt :=
    State.resetBegun_keeps State.flt (fun _ => rfl) (fun _ _ => rfl) (fun _ _ _ => rfl) (fun _ _ _ => rfl) ..
  have hparts : (s.resetBegun p cause).parts = s.parts :=
    State.resetBegun_keeps State.parts (fun _ => rfl) (fun _ _ => rfl) (fun _ _ _ => rfl) (fun _ _ _ => rfl) ..
  have hmason : (s.resetBegun p cause).mason = s.mason :=
    State.resetBegun_keeps State.mason (fun _ => rfl) (fun _ _ => rfl) (fun _ _ _ => rfl) (fun _ _ _ => rfl) ..
  rw [State.pierReset_eq, ← hflt, ← hparts, ← hmason, State.postT_flt_pierResets, State.postT_flt_errors, State.postT_parts, State.postT_mason]
  exact ⟨rfl, rfl, rfl, rfl⟩

theorem State.emptyParts_none {s : State} {pred : Part → Bool} (how : Fin) (h : ∀ q ∈ s.parts, pred q.2 = true → q.2.job = none) : s.emptyParts pred how = s := by
  have hnone : (s.parts.filter fun p => p.2.job.isSome && pred p.2) = [] := by
    refine List.filter_eq_nil_iff.2 fun q hq hrun => ?_
    simp only [Bool.and_eq_true] at hrun
    obtain ⟨hjob, hpred⟩ := hrun
    rw [h q hq hpred] at hjob
    exact Bool.false_ne_true hjob
  unfold emptyParts
  rw [hnone]
  rfl

/-- A Foreman's or Setter's error on a Pier without a job. -/
theorem exec_foremanWatchdog_idle {s : State} {p : Nat} (what : PierFault) (hup : s.up = true) (hserves : s.pierServes p = true)
    (hidle : ∀ q ∈ s.parts, q.2.piers.contains p = true → q.2.job = none) :
    exec (.foremanWatchdog p what) s = .next ((s.errorEvent 1 p (if what == .watchdog then 6 else 4) 0 0 false).pierReset p (if what = .setterParity then 1 else 0)) := by
  have hx : exec (.foremanWatchdog p what) s = execForemanWatchdog p what s := rfl
  have hcause : (if what = PierFault.setterParity then 1 else 0) = (if what == PierFault.setterParity then 1 else 0) := by simp
  have hparts : ((s.errorEvent 1 p (if what == .watchdog then 6 else 4) 0 0 false).pierReset p (if what == .setterParity then 1 else 0)).parts = s.parts := by
    obtain ⟨-, -, hparts, -⟩ := (s.errorEvent 1 p (if what == .watchdog then 6 else 4) 0 0 false).pierReset_counts p (if what == PierFault.setterParity then 1 else 0)
    rw [hparts, State.errorEvent, State.postT_parts]
  have hnone := State.emptyParts_none (pred := fun r => r.piers.contains p) .pierReset fun q hq => hidle q (hparts ▸ hq)
  rw [hx, execForemanWatchdog, hup, hserves, hcause]
  exact congrArg Host.Outcome.next hnone

/-! ## A lockstep difference (R39, R264) -/

/-- Mason as its pause begins. -/
def Mason.pausing (m : Mason) (cause us : Nat) (now : Tick) (kept : Tbl (Nat × Nat)) : Mason :=
  { m with paused := true, pauseCause := cause, pauseAt := now, pauseUs := us, inputs := [], kept }

theorem State.pauseMason_keeps {γ : Type} (φ : State → γ) (hrespond : ∀ (s : State) m c t r, φ (s.respond m c t r) = φ s) (s : State) (cause us : Nat) :
    φ (s.pauseMason cause us) = φ { s with mason := s.mason.pausing cause us s.now s.keptCapacity } := by
  unfold pauseMason
  dsimp only
  refine (foldl_keeps _ φ (fun u q => ?_) s.mason.inputs _).trans rfl
  split
  · rfl
  · exact hrespond ..

/-- The difference is noted, and is an error. -/
def State.lockstepNoted (s : State) : State :=
  { s with mason.lockstep := s.now :: s.mason.lockstep.filter fun t => decide (s.now < t + tS 86400) }.errorEvent 0 0 5 0 0 true

theorem exec_masonLockstepError_pauses {s : State} (hup : s.up = true) (hphase : s.power.phase = 1) (hm : s.mason.paused = false)
    (hfew : (s.mason.lockstep.filter fun u => decide (s.now < u + 2160000000000)).length < 2) :
    exec .masonLockstepError s = .next (s.lockstepNoted.pauseMason 1 (Config.unstated 8 [] % 2 ^ 32)) := by
  have hx : exec .masonLockstepError s = execMasonLockstepError s := rfl
  have hnoted : s.lockstepNoted.mason.paused = false := by
    rw [State.lockstepNoted, State.errorEvent, State.postT_mason]
    exact hm
  rw [hx, execMasonLockstepError, if_pos (by rw [hup, hphase]; rfl)]
  refine congrArg Host.Outcome.next ?_
  refine (if_neg ?_).trans (if_neg fun e => Bool.false_ne_true (hnoted.symm.trans e))
  have hlength : (s.now :: s.mason.lockstep.filter fun t => decide (s.now < t + tS 86400)).length =
      (s.mason.lockstep.filter fun u => decide (s.now < u + 2160000000000)).length + 1 := rfl
  rw [hlength]
  omega

theorem State.lockstepNoted_spec (s : State) : s.lockstepNoted.now = s.now ∧ s.lockstepNoted.parts = s.parts ∧ s.lockstepNoted.power = s.power ∧
    s.lockstepNoted.flt.errors = sat64 s.flt.errors 1 ∧
    s.lockstepNoted.mason = { s.mason with lockstep := s.now :: s.mason.lockstep.filter fun t => decide (s.now < t + tS 86400) } := by
  unfold lockstepNoted errorEvent
  rw [State.postT_now, State.postT_parts, State.postT_power, State.postT_mason, State.postT_flt_errors]
  exact ⟨rfl, rfl, rfl, rfl, rfl⟩

/-! ## A Pier reset ends (R254, R273) -/

/-- A Course after its Pier's reset: level 16, gated, with no thermal request. -/
def Course.afterReset (k : Course) (now : Tick) : Course :=
  { k with t := 16, tNext := 16, power := 0, waking := none, gatedAt := now, occupied := none, reqs := k.reqs.filter fun r => match r with | .throttle _ => false | _ => true }

def State.freshCourse (s : State) (c : Nat) : State := (s.setThrottle c 16).updCourse c fun k => k.afterReset s.now

def State.freshCourses (s : State) (p : Nat) (l : List Nat) : State := l.foldl (fun s i => s.freshCourse (p * 4 + i)) s

/-- The tiles' models restart from the measured values. -/
def State.freshTiles (s : State) (p : Nat) : State :=
  (List.range 36).foldl (fun s i => s.updTile (p * 36 + i) fun x => { x with pred := x.meas, predHist := [], offset := 0, offsetAt := s.now }) s

theorem State.freshPier_eq (s : State) (p : Nat) : s.freshPier p = (s.freshTiles p).freshCourses p (List.range 4) := by
  unfold freshPier freshCourses freshTiles
  rfl

theorem State.freshCourse_keeps {γ : Type} (φ : State → γ) (hpost : ∀ (s : State) a b c d, φ (s.post a b c d) = φ s) (hcourse : ∀ (s : State) c f, φ (s.updCourse c f) = φ s)
    (s : State) (c : Nat) : φ (s.freshCourse c) = φ s := by
  unfold freshCourse
  rw [hcourse, State.setThrottle_keeps φ hpost, hcourse]

theorem State.freshPier_keeps {γ : Type} (φ : State → γ) (hpost : ∀ (s : State) a b c d, φ (s.post a b c d) = φ s) (hcourse : ∀ (s : State) c f, φ (s.updCourse c f) = φ s)
    (htile : ∀ (s : State) i f, φ (s.updTile i f) = φ s) (s : State) (p : Nat) : φ (s.freshPier p) = φ s := by
  rw [State.freshPier_eq]
  refine (foldl_keeps _ φ (fun u i => State.freshCourse_keeps φ hpost hcourse u _) _ _).trans ?_
  exact foldl_keeps _ φ (fun _ _ => htile ..) _ _

theorem State.freshCourse_course (s : State) (c : Nat) : ((s.freshCourse c).course c).t = 16 ∧ ((s.freshCourse c).course c).power = 0 := by
  unfold freshCourse
  rw [State.updCourse_course_self]
  exact ⟨rfl, rfl⟩

theorem State.freshCourse_course_ne (s : State) {c k : Nat} (h : k ≠ c) : (s.freshCourse c).course k = s.course k := by
  unfold freshCourse
  rw [State.updCourse_course_ne _ _ h, State.setThrottle_keeps (fun u => u.course k) fun u a b c d => u.post_course a b c k d]
  exact State.updCourse_course_ne _ _ h

theorem State.freshCourses_course {p i : Nat} {l : List Nat} : ∀ {s : State}, (i ∈ l ∨ (s.course (p * 4 + i)).t = 16 ∧ (s.course (p * 4 + i)).power = 0) →
    ((s.freshCourses p l).course (p * 4 + i)).t = 16 ∧ ((s.freshCourses p l).course (p * 4 + i)).power = 0 := by
  induction l with
  | nil =>
    intro s h
    exact h.resolve_left (by simp)
  | cons j l ih =>
    intro s h
    refine ih (s := s.freshCourse (p * 4 + j)) ?_
    by_cases hj : i = j
    · subst hj
      exact .inr (s.freshCourse_course _)
    · rw [s.freshCourse_course_ne (by omega)]
      exact h.imp_left fun hm => (List.mem_cons.1 hm).resolve_left hj

/-- A Course at level 16 already posts nothing. -/
theorem State.freshCourse_host {s : State} {c : Nat} (h : (s.course c).t = 16) : (s.freshCourse c).host = s.host := by
  unfold freshCourse setThrottle
  simp [h]

theorem State.freshCourses_host {p : Nat} {l : List Nat} : ∀ {s : State}, (∀ i ∈ l, (s.course (p * 4 + i)).t = 16) → (s.freshCourses p l).host = s.host := by
  induction l with
  | nil =>
    intro s _
    rfl
  | cons j l ih =>
    intro s h
    have hrest : ∀ i ∈ l, ((s.freshCourse (p * 4 + j)).course (p * 4 + i)).t = 16 := by
      intro i hi
      by_cases hj : i = j
      · subst hj
        exact (s.freshCourse_course _).1
      · rw [s.freshCourse_course_ne (by omega)]
        exact h i (List.mem_cons_of_mem _ hi)
    exact (ih hrest).trans (State.freshCourse_host (h j List.mem_cons_self))

/-- The Pier as its reset ends well. -/
def Pier.back (q : Pier) (now : Tick) : Pier :=
  { q with resetting := false, powered := true, powering := false, selfRefresh := true, hbmBusyAt := now }

/-- The Pier is back, before its event. -/
def State.restarted (s : State) (p : Nat) : State := ((s.updPier p fun q => q.back s.now).freshPier p).redoTests p

theorem State.redoTests_course (s : State) (p c : Nat) : (s.redoTests p).course c = s.course c := rfl

theorem State.redoTests_host (s : State) (p : Nat) : (s.redoTests p).host = s.host := rfl

theorem State.restarted_keeps {γ : Type} (φ : State → γ) (hpost : ∀ (s : State) a b c d, φ (s.post a b c d) = φ s) (hcourse : ∀ (s : State) c f, φ (s.updCourse c f) = φ s)
    (htile : ∀ (s : State) i f, φ (s.updTile i f) = φ s) (hunits : ∀ (s : State) u, φ { s with flt.units := u } = φ s) (s : State) (p : Nat) :
    φ (s.restarted p) = φ (s.updPier p fun q => q.back s.now) := by
  unfold restarted redoTests
  rw [hunits, State.freshPier_keeps φ hpost hcourse htile]

theorem State.restarted_pier (s : State) (p : Nat) : (s.restarted p).pier p = (s.pier p).back s.now := by
  rw [State.restarted_keeps (fun u => u.pier p) (fun u a b c d => by simp [pier]) (fun _ _ _ => rfl) (fun _ _ _ => rfl) (fun _ _ => rfl)]
  exact State.updPier_pier_self ..

theorem State.restarted_parts (s : State) (p : Nat) : (s.restarted p).parts = s.parts :=
  State.restarted_keeps State.parts State.post_parts (fun _ _ _ => rfl) (fun _ _ _ => rfl) (fun _ _ => rfl) ..

theorem State.restarted_mason (s : State) (p : Nat) : (s.restarted p).mason = s.mason :=
  State.restarted_keeps State.mason State.post_mason (fun _ _ _ => rfl) (fun _ _ _ => rfl) (fun _ _ => rfl) ..

theorem State.restarted_now (s : State) (p : Nat) : (s.restarted p).now = s.now :=
  State.restarted_keeps State.now State.post_now (fun _ _ _ => rfl) (fun _ _ _ => rfl) (fun _ _ => rfl) ..

theorem State.restarted_mem (s : State) (p : Nat) : (s.restarted p).mem = s.mem :=
  State.restarted_keeps State.mem State.post_mem (fun _ _ _ => rfl) (fun _ _ _ => rfl) (fun _ _ => rfl) ..

theorem State.restarted_course (s : State) {p i : Nat} (hi : i < 4) : ((s.restarted p).course (p * 4 + i)).t = 16 ∧ ((s.restarted p).course (p * 4 + i)).power = 0 := by
  unfold restarted
  rw [State.redoTests_course, State.freshPier_eq]
  exact State.freshCourses_course (.inl (List.mem_range.2 hi))

theorem State.freshTiles_keeps {γ : Type} (φ : State → γ) (htile : ∀ (s : State) i f, φ (s.updTile i f) = φ s) (s : State) (p : Nat) : φ (s.freshTiles p) = φ s :=
  foldl_keeps _ φ (fun _ _ => htile ..) _ _

theorem State.restarted_host {s : State} {p : Nat} (h : ∀ i, i < 4 → (s.course (4 * p + i)).t = 16) : (s.restarted p).host = s.host := by
  have hlevel : ∀ i ∈ List.range 4, (((s.updPier p fun q => q.back s.now).freshTiles p).course (p * 4 + i)).t = 16 := by
    intro i hi
    rw [State.freshTiles_keeps (fun u => (u.course (p * 4 + i)).t) (fun _ _ _ => rfl), Nat.mul_comm p 4]
    exact h i (List.mem_range.1 hi)
  unfold restarted
  rw [State.redoTests_host, State.freshPier_eq]
  exact (State.freshCourses_host hlevel).trans (State.freshTiles_keeps State.host (fun _ _ _ => rfl) ..)

/-- No partition has a place on the Pier, and none waits for one. -/
def State.pierEmpty (s : State) (p : Nat) : Prop := ∀ q ∈ s.parts, q.2.piers.contains p = false ∧ q.2.powering = false

/-- Keep-warm concerns no partition of an empty Pier. -/
theorem State.warmFold_empty {s : State} {p : Nat} (h : s.pierEmpty p) (l : List Nat) :
    l.foldl (fun s n => match s.part? n with | some r => if r.piers.contains p then s.warmCourses n else s | none => s) s = s := by
  induction l with
  | nil => rfl
  | cons n l ih =>
    rw [List.foldl_cons]
    cases hn : s.part? n with
    | none => exact ih
    | some r =>
      obtain ⟨hother, -⟩ := h (n, r) (Tbl.mem_of_find? hn)
      dsimp only at hother ⊢
      rw [hother]
      exact ih

/-- What a Pier that is back does for its partitions. -/
def State.partsBack (s : State) (p : Nat) : State :=
  let s := ((s.parts.filter fun q => q.2.piers.contains p && s.partWork q.1 q.2).foldl (fun s q => s.wakeCourses q.1) s).powerParts
  s.parts.keys.foldl (fun s n => match s.part? n with | some r => if r.piers.contains p then s.warmCourses n else s | none => s) s

theorem State.partsBack_empty {s : State} {p : Nat} (h : s.pierEmpty p) : s.partsBack p = s := by
  have hwork : (s.parts.filter fun q => q.2.piers.contains p && s.partWork q.1 q.2) = [] :=
    List.filter_eq_nil_iff.2 fun q hq => by rw [(h q hq).1]; exact Bool.false_ne_true
  unfold partsBack
  rw [hwork, List.foldl_nil, State.powerParts_none fun q hq => (h q hq).2]
  exact State.warmFold_empty h _

theorem State.pierBack_eq (s : State) (p : Nat) : s.pierBack p =
    ((s.restarted p).postT 0x0A07 1 p (leBytes 1 ((s.restarted p).pier p).resetCause ++ leBytes 1 1) { action := 7 }).partsBack p := rfl

theorem State.pierBack_empty {s : State} {p : Nat} (h : s.pierEmpty p) :
    s.pierBack p = (s.restarted p).postT 0x0A07 1 p (leBytes 1 (s.pier p).resetCause ++ leBytes 1 1) { action := 7 } := by
  rw [State.pierBack_eq, State.restarted_pier]
  refine State.partsBack_empty fun q hq => h q ?_
  rw [State.postT_parts, State.restarted_parts] at hq
  exact hq

/-- The Pier as its reset retires it. -/
def Pier.gone (q : Pier) : Pier := { q with resetting := false, retired := true, powered := false, powering := false }

/-- The Pier is retired, and posts the end of its reset. -/
def State.pierOff (s : State) (p : Nat) : State :=
  let u := (s.updPier p Pier.gone).retireUnit 1 p
  u.postT 0x0A07 1 p (leBytes 1 (u.pier p).resetCause ++ leBytes 1 2) { cls := 2, action := 6 }

/-- The retirement is posted and burned. -/
def State.pierRetired (s : State) (p : Nat) : State := ((s.pierOff p).retiredEvent 1 p).burn 0x0E 1 1 p 0 (s.pierOff p).flt.logNext

theorem State.loseParts_none {s : State} {pred : Part → Bool} (h : ∀ q ∈ s.parts, pred q.2 = false) : s.loseParts pred = s := by
  have hnone : (s.parts.filter fun q => pred q.2 && !q.2.lost) = [] :=
    List.filter_eq_nil_iff.2 fun q hq => by rw [h q hq]; exact Bool.false_ne_true
  unfold loseParts
  rw [hnone, List.foldl_nil]

theorem State.burn_keeps {γ : Type} (φ : State → γ) (hburns : ∀ (s : State) l, φ { s with flt.burns := l } = φ s) (s : State) (a b c d e f g : Nat) :
    φ (s.burn a b c d e f g) = φ s :=
  hburns ..

theorem State.pierRetired_keeps {γ : Type} (φ : State → γ) (hpost : ∀ (s : State) c k i d t, φ (s.postT c k i d t) = φ s)
    (hburns : ∀ (s : State) l, φ { s with flt.burns := l } = φ s) (hunit : ∀ (s : State) k i f, φ (s.updUnit k i f) = φ s) (s : State) (p : Nat) :
    φ (s.pierRetired p) = φ (s.updPier p Pier.gone) := by
  unfold pierRetired
  rw [State.burn_keeps φ hburns, retiredEvent, hpost]
  unfold pierOff
  rw [hpost, retireUnit, hunit]

theorem State.pierRetired_parts (s : State) (p : Nat) : (s.pierRetired p).parts = s.parts :=
  State.pierRetired_keeps State.parts State.postT_parts (fun _ _ => rfl) (fun _ _ _ _ => rfl) ..

theorem State.pierRetired_rest (s : State) (p : Nat) : (s.pierRetired p).pier p = (s.pier p).gone ∧ (s.pierRetired p).mason = s.mason ∧ (s.pierRetired p).mem = s.mem := by
  refine ⟨?_, ?_, ?_⟩
  · rw [State.pierRetired_keeps (fun u => u.pier p) (fun u c k i d t => by simp [pier]) (fun _ _ => rfl) (fun _ _ _ _ => rfl)]
    exact s.updPier_pier_self p Pier.gone
  · exact State.pierRetired_keeps State.mason State.postT_mason (fun _ _ => rfl) (fun _ _ _ _ => rfl) ..
  · exact State.pierRetired_keeps State.mem State.postT_mem (fun _ _ => rfl) (fun _ _ _ _ => rfl) ..

theorem State.pierGone_empty {s : State} {p : Nat} (h : s.pierEmpty p) : s.pierGone p = s.pierRetired p := by
  have hgone : s.pierGone p = (s.pierRetired p).loseParts fun r => r.piers.contains p := rfl
  rw [hgone]
  exact State.loseParts_none fun q hq => (h q (s.pierRetired_parts p ▸ hq)).1

theorem State.endReset_eq (s : State) (p : Nat) (pass : Bool) : s.endReset p pass =
    (if pass && decide ((s.pier p).mortarOff.length ≤ 16) then s.pierBack p else s.pierGone p).flushLoss.finishOps
      (fun k => match k with | .pierReset q => q == p | _ => false) (if pass && decide ((s.pier p).mortarOff.length ≤ 16) then St.ok else St.abortedFault) := rfl

section
variable {s : State} {p : Nat} {pass : Bool} (hup : s.up = true) (hp : p < 4) (hr : (s.pier p).resetting = true) (hc : (s.pier p).resetCause ≠ 4) (h : s.pierEmpty p)
include hup hp hr hc h

theorem exec_pierResetComplete_ends : exec (.pierResetComplete p pass) s = .next (s.endReset p pass) := by
  have hquiet : s.pierQuiet p = true := List.all_eq_true.2 fun q hq => by rw [(h q hq).1]; rfl
  exact congrArg Host.Outcome.next (if_pos (by simp [hup, hp, hr, hc, hquiet]))

variable (hloss : s.mem.lossBuf = [])
include hloss

theorem exec_pierResetComplete_back (hpass : pass = true ∧ (s.pier p).mortarOff.length ≤ 16) :
    exec (.pierResetComplete p pass) s = .next (((s.restarted p).postT 0x0A07 1 p (leBytes 1 (s.pier p).resetCause ++ leBytes 1 1) { action := 7 }).finishOps
      (fun k => match k with | .pierReset q => q == p | _ => false) 0x00) := by
  have hok : (pass && decide ((s.pier p).mortarOff.length ≤ 16)) = true := by simp [hpass]
  rw [exec_pierResetComplete_ends hup hp hr hc h, State.endReset_eq, hok, if_pos rfl, if_pos rfl, State.pierBack_empty h, State.flushLoss_none (by rw [State.postT_mem, State.restarted_mem]; exact hloss)]

theorem exec_pierResetComplete_gone (hfail : pass = false ∨ 16 < (s.pier p).mortarOff.length) :
    exec (.pierResetComplete p pass) s = .next ((s.pierRetired p).finishOps
      (fun k => match k with | .pierReset q => q == p | _ => false) 0x10) := by
  obtain ⟨-, -, hmem⟩ := s.pierRetired_rest p
  have hbad : (pass && decide ((s.pier p).mortarOff.length ≤ 16)) = false := by
    rcases hfail with rfl | hmany
    · rfl
    · simp [hmany]
  have hflush : (s.pierRetired p).flushLoss = s.pierRetired p := State.flushLoss_none (by rw [hmem]; exact hloss)
  rw [exec_pierResetComplete_ends hup hp hr hc h, State.endReset_eq, hbad, if_neg Bool.false_ne_true, if_neg Bool.false_ne_true, State.pierGone_empty h, hflush]

end

end Sys2Proof.Machine
end

section
/-! The proof of O49. -/

namespace Sys2Proof.Machine

/-- Settles O49: an error is counted and resets the unit it names; the end of a Pier reset gives back or retires a Pier that no partition uses. -/
theorem errorsResetTheirUnits : Obligations.ErrorsResetTheirUnits := by
  unfold Obligations.ErrorsResetTheirUnits
  refine ⟨?corrected, ?burn, fun s hup => congrArg Host.Outcome.next (if_pos hup), ?foreman, ?lockstep, ?reset⟩
  case corrected =>
    intro s kind id n hup hn hdue
    refine ⟨_, exec_correctedSummary_posts hup hn hdue, ?_, ?_, ?_, ?_, ?_⟩
    · rw [State.postT_unit]
      exact s.hourSummed_unit kind id n
    · rw [State.postT_flt_corrected]
      rfl
    · rw [State.postT_flt_errors]
      rfl
    · apply State.eventPosted_postT
      · rfl
      · rfl
    · rw [State.postT_parts]
      rfl
  case burn =>
    intro s f rest hup hm hb hcap
    obtain ⟨t, ht, hkept⟩ := exec_fuseBurnDone_keeps (fun u => (u.flt.burns, u.flt.ledger, u.fw.counter, u.parts, u.ctxs)) (fun _ _ _ _ _ _ => by simp) hup hm hb
    simp only [Prod.mk.injEq] at hkept
    obtain ⟨hburns, hledger, hcounter, hparts, hctxs⟩ := hkept
    obtain ⟨hburns', hledger', hcounter', hparts', hctxs'⟩ := State.burned_spec f rest hcap
    exact ⟨t, ht, hburns.trans hburns', hledger.trans hledger', hcounter.trans hcounter', hparts.trans hparts', hctxs.trans hctxs'⟩
  case foreman =>
    intro s p what hup hserves hidle
    rw [exec_foremanWatchdog_idle what hup hserves hidle]
    have herror (x : Nat) : ((s.errorEvent 1 p x 0 0 false).pier = s.pier ∧ (s.errorEvent 1 p x 0 0 false).now = s.now ∧ (s.errorEvent 1 p x 0 0 false).parts = s.parts) ∧
        (s.errorEvent 1 p x 0 0 false).flt.pierResets = s.flt.pierResets ∧ (s.errorEvent 1 p x 0 0 false).flt.errors = sat64 s.flt.errors 1 := by
      unfold State.errorEvent
      simp [State.pier, funext_iff]
    generalize (if what == PierFault.watchdog then 6 else 4) = x
    obtain ⟨⟨hpier, hnow, hparts⟩, hresets, herrors⟩ := herror x
    generalize s.errorEvent 1 p x 0 0 false = u at hpier hnow hparts hresets herrors
    generalize (if what = PierFault.setterParity then 1 else 0) = cause
    obtain ⟨hresets', herrors', hparts', -⟩ := u.pierReset_counts p cause
    refine ⟨_, rfl, ?_, fun i hi hrun => ?_, ?_, ?_, hparts'.trans hparts, fun q hq => ?_⟩
    · rw [State.pierReset_pier, hpier, hnow]
    · refine State.pierReset_power cause hi ?_
      rw [← hrun, State.courseRunning, hparts, State.courseRunning]
    · rw [hresets', hresets]
    · rw [herrors', herrors]
    · rw [State.pierReset_pier_ne _ _ hq, hpier]
  case lockstep =>
    intro s hup hphase hm hfew
    obtain ⟨hnow, hparts, hpower, herrors, hmason⟩ := s.lockstepNoted_spec
    have hpaused : (s.lockstepNoted.pauseMason 1 (Config.unstated 8 [] % 2 ^ 32)).mason =
        s.lockstepNoted.mason.pausing 1 (Config.unstated 8 [] % 2 ^ 32) s.lockstepNoted.now s.lockstepNoted.keptCapacity :=
      State.pauseMason_keeps State.mason State.respond_mason ..
    have hflt := State.pauseMason_keeps State.flt State.respond_flt s.lockstepNoted 1 (Config.unstated 8 [] % 2 ^ 32)
    have hpower' := State.pauseMason_keeps State.power State.respond_power s.lockstepNoted 1 (Config.unstated 8 [] % 2 ^ 32)
    have hparts' := State.pauseMason_keeps State.parts State.respond_parts s.lockstepNoted 1 (Config.unstated 8 [] % 2 ^ 32)
    rw [exec_masonLockstepError_pauses hup hphase hm hfew]
    refine ⟨_, rfl, congrArg Mason.paused hpaused, congrArg Mason.pauseCause hpaused, (congrArg Mason.pauseAt hpaused).trans hnow, congrArg Mason.inputs hpaused,
      (congrArg Mason.ops hpaused).trans ?_, (congrArg Mason.lockstep hpaused).trans ?_, (congrArg Faults.errors hflt).trans herrors, ?_, hparts'.trans hparts⟩
    · exact (congrArg Mason.ops hmason : s.lockstepNoted.mason.ops = _)
    · exact (congrArg Mason.lockstep hmason : s.lockstepNoted.mason.lockstep = _)
    · rw [hpower']
      exact (congrArg Power.phase hpower).trans hphase
  case reset =>
    intro s p pass hup hp hr hc h hloss
    refine ⟨fun hpass => ?_, fun hfail => ?_⟩
    · refine ⟨_, exec_pierResetComplete_back hup hp hr hc h hloss hpass, ?_, ?_, ?_, fun i hi => ?_, fun hlevel => ?_, ?_, ?_⟩
      · rw [State.pier, State.postT_piers]
        exact congrArg Pier.resetting (s.restarted_pier p)
      · rw [State.pier, State.postT_piers]
        exact congrArg Pier.powered (s.restarted_pier p)
      · rw [State.pier, State.postT_piers]
        exact (congrArg Pier.retired (s.restarted_pier p)).trans rfl
      · rw [State.course, State.postT_courses, Nat.mul_comm 4 p]
        exact s.restarted_course hi
      · apply State.eventPosted_postT
        · exact State.restarted_host hlevel
        · exact s.restarted_now p
      · rw [State.postT_parts, State.restarted_parts]
      · rw [State.postT_mason, State.restarted_mason]
    · obtain ⟨hpier, hmason, -⟩ := s.pierRetired_rest p
      have hresetting := congrArg Pier.resetting hpier
      have hpowered := congrArg Pier.powered hpier
      have hretired := congrArg Pier.retired hpier
      rw [exec_pierResetComplete_gone hup hp hr hc h hloss hfail]
      exact ⟨_, rfl, hresetting, hpowered, hretired, s.pierRetired_parts p, hmason⟩

end Sys2Proof.Machine
end

section
/-! SUPPORT. The fault and log commands (R271, R274, R275). -/

namespace Sys2Proof.Machine

section
variable {s : State} {m : Mb} {r : Req}

theorem exec_fltSummary (h : s.runs m 0x0A01 false = some r) (hl : r.len = 0) :
    exec (.fltSummary m) s = .next ((s.taken m).respond m 0x0A01 r.tag ((s.taken m).fltSummary r).2) :=
  congrArg Host.Outcome.next (State.mbRun_ok (lenIs 0 []) State.fltSummary h (lenIs_ok hl fun _ hp => nomatch hp))

theorem exec_fltTest (h : s.runs m 0x0A02 false = some r) (hl : r.len = 8) (hz : field r.pay 2 2 = 0) :
    exec (.fltTest m) s = .next (((s.taken m).fltTest r).1.respond m 0x0A02 r.tag ((s.taken m).fltTest r).2) :=
  congrArg Host.Outcome.next (State.mbRun_ok (lenIs 8 [(2, 2)]) State.fltTest h (lenIs_ok hl fun _ hp => List.mem_singleton.1 hp ▸ hz))

theorem exec_fltUnit (h : s.runs m 0x0A03 false = some r) (hl : r.len = 8) (hz : field r.pay 2 2 = 0) :
    exec (.fltUnit m) s = .next (((s.taken m).fltUnitQ r).1.respond m 0x0A03 r.tag ((s.taken m).fltUnitQ r).2) :=
  congrArg Host.Outcome.next (State.mbRun_ok (lenIs 8 [(2, 2)]) State.fltUnitQ h (lenIs_ok hl fun _ hp => List.mem_singleton.1 hp ▸ hz))

theorem exec_fltPierReset (h : s.runs m 0x0A04 false = some r) (hl : r.len = 4) (hz : field r.pay 1 3 = 0) :
    exec (.fltPierReset m) s = .next (((s.taken m).fltPierReset r).1.respond m 0x0A04 r.tag ((s.taken m).fltPierReset r).2) :=
  congrArg Host.Outcome.next (State.mbRun_ok (lenIs 4 [(1, 3)]) State.fltPierReset h (lenIs_ok hl fun _ hp => List.mem_singleton.1 hp ▸ hz))

theorem exec_logInfo (h : s.runs m 0x0E01 false = some r) (hl : r.len = 0) :
    exec (.logInfo m) s = .next ((s.taken m).respond m 0x0E01 r.tag ((s.taken m).logInfo r).2) :=
  congrArg Host.Outcome.next (State.mbRun_ok (lenIs 0 []) State.logInfo h (lenIs_ok hl fun _ hp => nomatch hp))

theorem exec_logRead (h : s.runs m 0x0E02 false = some r) (hl : r.len = 12) (hz : field r.pay 9 3 = 0) :
    exec (.logRead m) s = .next (((s.taken m).logRead r).1.respond m 0x0E02 r.tag ((s.taken m).logRead r).2) :=
  congrArg Host.Outcome.next (State.mbRun_ok (lenIs 12 [(9, 3)]) State.logRead h (lenIs_ok hl fun _ hp => List.mem_singleton.1 hp ▸ hz))

end

/-- The next operation is noted. -/
def State.withOp (s : State) (q : Req) (k : OpKind) : State :=
  { s with mason.lastOp := s.mason.lastOp + 1, mason.ops := s.mason.ops ++ [⟨s.mason.lastOp + 1, q.mb, q.code, q.tag, k⟩] }

theorem State.accept_withOp {s : State} (h : s.mason.lastOp + 1 < 2 ^ 32) (q : Req) (k : OpKind) :
    s.accept q k = (s.withOp q k, { status := St.accepted, arg := s.mason.lastOp + 1 }) :=
  State.accept_next h q k

/-! ## FLT_SUMMARY -/

/-- The units out of service, as FLT_SUMMARY gives them after its counts. -/
def State.summaryUnits (s : State) : List Byte :=
  let bits := fun (f : Nat → Bool) n => sumNat ((List.range n).map fun i => boolN (f i) * 2 ^ i)
  let cov := ((List.range 144).filter fun t => !(s.course (t / 9)).retired.contains (t % 9)).map fun t => (s.tile t).covered
  leBytes 2 (bits (fun c => !(s.course c).spareUsed) 16) ++ leBytes 2 (bits (fun c => decide (9 ≤ (s.course c).map.getD 7 15)) 16) ++
    leBytes 1 (bits (fun p => (s.pier p).retired) 4) ++ leBytes 1 ((List.range 16).filter fun c => (s.core c).retired).length ++
    ((List.range 4).map fun p => leBytes 1 (64 - (s.pier p).mortarOff.length)).flatten ++ [0, 0] ++ leBytes 4 s.flt.pierResets ++ leBytes 8 (cov.foldl min (cov.headD 0))

theorem State.summaryUnits_length (s : State) : s.summaryUnits.length = 24 := by
  simp [summaryUnits, leBytes, List.range_succ]

theorem State.fltSummary_eq (s : State) (q : Req) : (s.fltSummary q).2 = okR (leBytes 8 s.flt.corrected ++ leBytes 8 s.flt.errors ++ leBytes 4 s.flt.transient ++
    leBytes 4 s.flt.lasting ++ leBytes 4 s.flt.restarts ++ leBytes 4 s.flt.aborted ++ s.summaryUnits) := by
  simp only [fltSummary, summaryUnits, List.append_assoc]

/-! ## FLT_TEST (R271) -/

/-- Neither a targeted test nor the one calibration that the unit's kind has. -/
def Req.noTest (q : Req) : Prop := 2 < q.u8 1 ∨ (q.u8 1 = 1 ∧ q.u8 0 ≠ 4) ∨ (q.u8 1 = 2 ∧ q.u8 0 ≠ 5)

theorem Req.noTest_iff (q : Req) : (decide (2 < q.u8 1) || (q.u8 1 == 1 && q.u8 0 != 4) || (q.u8 1 == 2 && q.u8 0 != 5)) = true ↔ q.noTest := by
  simp [noTest, or_assoc]

theorem Req.calibrates {q : Req} (h : (q.u8 1 = 1 ∧ q.u8 0 = 4) ∨ (q.u8 1 = 2 ∧ q.u8 0 = 5)) : ¬ q.noTest ∧ q.u8 1 ≠ 0 := by
  unfold noTest
  omega

section
variable {s : State} {q : Req}

theorem State.fltTest_noUnit (h : fltUnit (q.u8 0) (q.u32 4) = none) : s.fltTest q = (s, failR St.badArg) := by
  unfold fltTest
  rw [h]

variable {k id : Nat} (hu : fltUnit (q.u8 0) (q.u32 4) = some (k, id))
include hu

theorem State.fltTest_noTest (h : q.noTest) : s.fltTest q = (s, failR St.badArg) := by
  unfold fltTest
  rw [hu]
  dsimp only
  rw [if_pos (q.noTest_iff.2 h)]

/-- What follows the argument checks, but for a test of an Ashlar. -/
theorem State.fltTest_unit (h : ¬ q.noTest) (hheld : s.held (6, q.u8 0 * 2 ^ 20 + id) = false) (hk : k = 3 → q.u8 1 ≠ 0) : s.fltTest q =
    if s.unitGone k id then (s, failR St.refused 1)
    else (if q.u8 1 == 0 then (s.accept q (.fltTest (q.u8 0) id (q.u8 1))).1.requestTest k id (s.accept q (.fltTest (q.u8 0) id (q.u8 1))).2.arg
      else (s.accept q (.fltTest (q.u8 0) id (q.u8 1))).1, (s.accept q (.fltTest (q.u8 0) id (q.u8 1))).2) := by
  have hslot : ¬ (k == 3 && q.u8 1 == 0 && !s.unitGone k id && (s.course (id / 9)).idle.isNone) = true := by
    intro h'
    simp only [Bool.and_eq_true, beq_iff_eq] at h'
    obtain ⟨⟨⟨h3, h0⟩, -⟩, -⟩ := h'
    exact hk h3 h0
  unfold fltTest
  rw [hu]
  dsimp only
  rw [if_neg (mt q.noTest_iff.1 h), if_neg (by rw [hheld]; exact Bool.false_ne_true), if_neg hslot]

theorem State.fltTest_gone (h : ¬ q.noTest) (hheld : s.held (6, q.u8 0 * 2 ^ 20 + id) = false) (hk : k = 3 → q.u8 1 ≠ 0) (hgone : s.unitGone k id = true) :
    s.fltTest q = (s, failR St.refused 1) := by
  rw [State.fltTest_unit hu h hheld hk, if_pos hgone]

theorem State.fltTest_calibration (h : ¬ q.noTest) (hheld : s.held (6, q.u8 0 * 2 ^ 20 + id) = false) (h0 : q.u8 1 ≠ 0) (hgone : s.unitGone k id = false) :
    s.fltTest q = s.accept q (.fltTest (q.u8 0) id (q.u8 1)) := by
  rw [State.fltTest_unit hu h hheld fun _ => h0, if_neg (by rw [hgone]; exact Bool.false_ne_true), if_neg (by simpa using h0)]

theorem State.fltTest_test (h3 : k ≠ 3) (hheld : s.held (6, q.u8 0 * 2 ^ 20 + id) = false) (h0 : q.u8 1 = 0) (hgone : s.unitGone k id = false) :
    s.fltTest q = ((s.accept q (.fltTest (q.u8 0) id 0)).1.requestTest k id (s.accept q (.fltTest (q.u8 0) id 0)).2.arg, (s.accept q (.fltTest (q.u8 0) id 0)).2) := by
  have h : ¬ q.noTest := by
    unfold Req.noTest
    omega
  rw [State.fltTest_unit hu h hheld fun hk => absurd hk h3, if_neg (by rw [hgone]; exact Bool.false_ne_true), h0, if_pos (beq_self_eq_true 0)]

end

/-- A requested test of a unit without one, not an Ashlar, is called for. -/
theorem State.requestTest_calls {s : State} {k id : Nat} (op : Nat) (h3 : k ≠ 3) (hp : (s.unit k id).pending = none) :
    s.requestTest k id op = s.updUnit k id fun u => { u with pending := some (0, some op), pendingAt := s.now } := by
  have h3' : ¬ (k == 3) = true := by simpa using h3
  have hid (n : Nat) : unitId k id n = id := if_neg h3'
  have hp' : ¬ (s.unit k id).pending.isSome = true := by rw [hp]; exact Bool.false_ne_true
  unfold requestTest wantTest
  dsimp only
  rw [if_neg h3', hid, if_neg hp', if_neg hp', if_neg h3']

theorem exec_calibrationDone_ends {s : State} {op k id c : Nat} {o : PendingOp} {ok : Bool} (hup : s.up = true) (ho : s.op? op = some o) (hk : o.kind = .fltTest k id c)
    (hc : c ≠ 0) : exec (.calibrationDone op ok) s = .next ((s.testResult (if k == 4 then 10 else k) id (if ok then 1 else 2) 0 true).finishOp op St.ok) := by
  have hx : exec (.calibrationDone op ok) s = execCalibrationDone op ok s := rfl
  rw [hx, execCalibrationDone, ho, Option.map_some, hk]
  exact congrArg Host.Outcome.next (if_pos (by simp [hup, hc]))

/-! ## FLT_UNIT, FLT_PIER_RESET, LOG_READ -/

theorem State.fltUnitQ_eq {s : State} {q : Req} {k id : Nat} (hu : fltUnit (q.u8 0) (q.u32 4) = some (k, id)) : ∃ d, s.fltUnitQ q =
    (s, okR (leBytes 1 (s.unitState k id) ++ [0] ++ leBytes 2 (min d 0xFFFF) ++ leBytes 4 (min (sumNat ((s.histories k id).map (·.total))) 0xFFFFFFFF) ++ s.repairsLeft k id ++
      (if k = 3 then leBytes 8 (s.tile id).covered ++ leBytes 1 (s.tile id).slices.length else List.replicate 9 0) ++ List.replicate 7 0)) := by
  refine ⟨sumNat ((s.histories k id).map fun u => (u.transient.filter fun t => decide (s.now < t + tS 86400)).length), ?_⟩
  unfold fltUnitQ
  rw [hu]
  dsimp only
  by_cases h3 : k = 3
  · simp only [h3, beq_self_eq_true, if_true, List.append_assoc]
  · have hzero : leBytes 8 ({} : Tile).covered ++ leBytes 1 ({} : Tile).slices.length = List.replicate 9 0 := by decide
    rw [if_neg (by simpa using h3), if_neg h3, ← hzero]
    simp only [List.append_assoc]

section
variable {s : State} {q : Req}

theorem State.fltPierReset_noPier (h : 3 < q.u8 0) : s.fltPierReset q = (s, failR St.badArg) := if_pos h

theorem State.fltPierReset_refused (h : q.u8 0 ≤ 3) (hr : (s.pier (q.u8 0)).retired = true ∨ (s.pier (q.u8 0)).resetting = true) :
    s.fltPierReset q = (s, failR St.refused 1) :=
  (if_neg (by omega)).trans (if_pos (by simpa using hr))

theorem State.fltPierReset_begins (h : q.u8 0 ≤ 3) (hr : (s.pier (q.u8 0)).retired = false) (hs : (s.pier (q.u8 0)).resetting = false) :
    s.fltPierReset q = ((s.accept q (.pierReset (q.u8 0))).1.pierReset (q.u8 0) 2, (s.accept q (.pierReset (q.u8 0))).2) :=
  (if_neg (by omega)).trans (if_neg (by simp [hr, hs]))

/-- Entries of the area from START on. -/
def State.logFrom (s : State) (q : Req) : List LogEntry :=
  ((if q.u8 8 = 0 then s.flt.log else s.flt.kept).reverse.filter fun e => decide (q.u64 0 ≤ e.number)).take 3

/-- The number to go on from. -/
def State.logAfter (s : State) (q : Req) : Nat := match (s.logFrom q).getLast? with | some e => e.number + 1 | none => s.flt.logNext

theorem State.logRead_area (h : q.u8 8 ≤ 1) : s.logRead q = (s, okR (leBytes 1 (s.logFrom q).length ++ List.replicate 7 0 ++ leBytes 8 (s.logAfter q) ++
    ((s.logFrom q).map logBytes).flatten)) := by
  have harea : (if q.u8 8 == 0 then s.flt.log else s.flt.kept) = (if q.u8 8 = 0 then s.flt.log else s.flt.kept) := by simp
  unfold logRead
  rw [if_neg (by omega), harea]
  rfl

end

end Sys2Proof.Machine
end

section
/-! The proof of O50. -/

namespace Sys2Proof.Machine

/-- Settles O50: each command's answer is read from its argument checks; a test and a reset are accepted and begun, a report changes nothing else. -/
theorem faultAndLogCommandsAct : Obligations.FaultAndLogCommandsAct := by
  unfold Obligations.FaultAndLogCommandsAct
  refine ⟨?summary, ?test, ?calibration, ?unit, ?pier, ?info, ?read⟩
  case summary =>
    intro s m r h hl
    refine ⟨(s.taken m).summaryUnits, ?_, State.summaryUnits_length _⟩
    rw [exec_fltSummary h hl, State.fltSummary_eq]
    rfl
  case test =>
    intro s m r h hl hz
    rw [exec_fltTest h hl hz]
    refine ⟨fun hu => ?_, fun k id hu => ⟨fun hno => ?_, fun hcal hheld hgone => ?_, fun hcal hheld hgone hop => ?_, fun h0 h3 hheld hgone hop hp => ?_⟩⟩
    · rw [State.fltTest_noUnit hu]
      rfl
    · rw [State.fltTest_noTest hu hno]
      rfl
    · obtain ⟨hyes, h0⟩ := Req.calibrates hcal
      rw [State.fltTest_gone (s := s.taken m) hu hyes hheld (fun _ => h0) hgone]
      rfl
    · obtain ⟨hyes, h0⟩ := Req.calibrates hcal
      rw [State.fltTest_calibration (s := s.taken m) hu hyes hheld h0 hgone, State.accept_withOp (s := s.taken m) hop]
      exact ⟨_, rfl, rfl, rfl, rfl⟩
    · rw [State.fltTest_test (s := s.taken m) hu h3 hheld h0 hgone, State.accept_withOp (s := s.taken m) hop]
      dsimp only
      rw [State.requestTest_calls (s := (s.taken m).withOp r (.fltTest (r.u8 0) id 0)) _ h3 hp]
      refine ⟨_, rfl, rfl, ?_, ?_, rfl⟩
      · rw [State.updUnit_unit_self]
        rfl
      · rw [State.updUnit_unit_self]
        rfl
  case calibration =>
    intro s op k id c o ok hup ho hk hc
    refine ⟨_, exec_calibrationDone_ends hup ho hk hc, ?_, State.postT_mason .., State.postT_parts ..⟩
    have hbytes : [if ok then (1 : Byte) else 2, 0, 1] = leBytes 1 (if ok then 1 else 2) ++ leBytes 1 0 ++ leBytes 1 (boolN true) := by
      cases ok <;> rfl
    have hkind : (if k = 4 then 10 else k) = (if k == 4 then 10 else k) := by simp
    rw [hbytes, hkind]
    apply State.eventPosted_postT
    · rfl
    · rfl
  case unit =>
    intro s m r h hl hz
    rw [exec_fltUnit h hl hz]
    refine ⟨fun hu => ?_, fun k id hu => ?_⟩
    · unfold State.fltUnitQ
      rw [hu]
      rfl
    · obtain ⟨d, heq⟩ := State.fltUnitQ_eq (s := s.taken m) hu
      rw [heq]
      exact ⟨d, _, rfl, rfl⟩
  case pier =>
    intro s m r h hl hz
    rw [exec_fltPierReset h hl hz]
    refine ⟨fun hno => ?_, fun hle hout => ?_, fun hle hin hreset hop => ?_⟩
    · rw [State.fltPierReset_noPier hno]
      rfl
    · rw [State.fltPierReset_refused (s := s.taken m) hle hout]
      rfl
    · rw [State.fltPierReset_begins (s := s.taken m) hle hin hreset, State.accept_withOp (s := s.taken m) hop]
      dsimp only
      generalize hv : (s.taken m).withOp r (.pierReset (r.u8 0)) = v
      obtain ⟨-, -, hparts, hmason⟩ := v.pierReset_counts (r.u8 0) 2
      refine ⟨_, rfl, ?_, ?_, ?_⟩
      · rw [State.pierReset_pier, ← hv]
        rfl
      · rw [hmason, ← hv]
        rfl
      · rw [hparts, ← hv]
        rfl
  case info =>
    intro s m r h hl
    rw [exec_logInfo h hl]
    rfl
  case read =>
    intro s m r h hl hz
    rw [exec_logRead h hl hz]
    refine ⟨fun hno => ?_, ?_⟩
    · unfold State.logRead
      rw [if_pos hno]
      rfl
    · rintro hle es rfl
      rw [State.logRead_area hle]
      refine ⟨(s.taken m).logAfter r, rfl, fun e he => ?_, fun he => ?_⟩
      · have hlast : ((s.taken m).logFrom r).getLast? = some e := he
        unfold State.logAfter
        rw [hlast]
      · have hnone : (s.taken m).logFrom r = [] := he
        unfold State.logAfter
        rw [hnone]
        rfl

end Sys2Proof.Machine
end

section
/-! SUPPORT. Twin pairs: roles, heartbeats, leads, joining, the handover and the twin commands (R280-R284, R287). -/

namespace Sys2Proof.Machine

/-! ## Messages from the partner and to it -/

theorem State.takeTwin_message {s : State} {x : Packet} {type : Nat} (h : twinMessage s x type) : s.takeTwin x type = some (heardState s x) := by
  obtain ⟨hup, hrole, hpartner, htype, port, hin⟩ := h
  unfold takeTwin
  rw [State.take_found (types := fun t => t == type) hup hin (by simp [htype])]
  exact if_pos (by simp [hrole, hpartner])

theorem twinMessage_partner {s : State} {x : Packet} {type : Nat} (h : twinMessage s x type) : s.partner = some x.src := by
  obtain ⟨-, -, hpartner, -⟩ := h
  exact hpartner

/-- A twin packet changes the fabric only. -/
theorem State.sendTwin_keeps {γ : Type} (φ : State → γ) (h : ∀ (s : State) x, φ { s with fab := x } = φ s) (s : State) (type : Nat) (b : List Byte) :
    φ (s.sendTwin type b) = φ s := by
  unfold sendTwin
  split
  · exact State.sendRouted_keeps φ h ..
  · rfl

/-- A packet of a twin pair on its route. -/
def State.twinPacket (s : State) (q type : Nat) (b : List Byte) (rt : Nat × Nat × List Nat) : Packet :=
  { s.newPacket q type with payload := b, hop := 1, hopCount := rt.2.1, route := rt.2.2, counter := s.fab.counter }

/-- With a route, a credit and nothing before it, a short twin packet leaves. -/
theorem State.sendTwin_sent {s : State} {q type : Nat} {b : List Byte} {rt : Nat × Nat × List Nat} (hq : s.partner = some q)
    (hroute : s.pickRoute q s.origin (s.newPacket q type).context = some rt) (hw : (s.port (rt.2.2.getD 0 0)).waiting = []) (hc : 1 ≤ (s.port (rt.2.2.getD 0 0)).credits)
    (hb : b.length ≤ 4040) :
    (s.sendTwin type b).fab.sent = (rt.2.2.getD 0 0, (s.port (rt.2.2.getD 0 0)).frame (s.twinPacket q type b rt)) :: s.fab.sent := by
  have hone : creditsOf (s.twinPacket q type b rt) = 1 := creditsOf_short hb
  unfold sendTwin sendRouted
  rw [hq]
  dsimp only
  have hroute' : s.pickRoute (s.newPacket q type).dest (s.newPacket q type).origin (s.newPacket q type).context = some rt := hroute
  rw [hroute']
  dsimp only
  generalize hv : ({ s with fab.counter := s.fab.counter + 1, fab.keeps := _ } : State) = v
  have hport (p : Nat) : v.port p = s.port p := by
    rw [← hv]
    rfl
  have hsent : v.fab.sent = s.fab.sent := by
    rw [← hv]
  obtain ⟨hgone, -⟩ := State.sendOn_sends v (rt.2.2.getD 0 0) (s.twinPacket q type b rt) ((congrArg FPort.waiting (hport _)).trans hw) (by rw [hone, hport]; exact hc)
  rw [hport, hsent] at hgone
  exact hgone

/-! ## Roles -/

theorem State.setRole_twin (s : State) (role cause : Nat) : (s.setRole role cause).twin = { s.twin with role := role, handing := false } := by
  unfold setRole
  rw [State.post_twin]
  rfl

theorem State.setRole_fw (s : State) (role cause : Nat) : (s.setRole role cause).fw = { s.fw with twinBit := some role } := by
  unfold setRole
  rw [State.post_fw]
  rfl

theorem State.setRole_ctxs (s : State) (role cause : Nat) : (s.setRole role cause).ctxs = s.ctxs := by
  unfold setRole
  rw [State.post_ctxs]
  rfl

theorem State.setRole_parts (s : State) (role cause : Nat) : (s.setRole role cause).parts = s.ungrant.parts := by
  unfold setRole
  rw [State.post_parts]

/-- Grants end; a partition's job goes on. -/
theorem State.ungrant_part {s : State} {n : Nat} {p : Part} (h : s.part? n = some p) : s.ungrant.part? n = some { p with granted := false } := by
  have hmap : s.ungrant.part? n = (s.part? n).map fun p => { p with granted := false } :=
    Tbl.find?_mapVals s.parts (fun _ p => { p with granted := false }) n
  rw [hmap, h]
  rfl

theorem State.takeLead_twin (s : State) (cause : Nat) : (s.takeLead cause).twin =
    { s.twin with role := 1, handing := false, primaryAt := s.now, switchovers := sat32 s.twin.switchovers 1, former := false } := by
  have htwin := (s.finishOps isJoin St.refused 2).setRole_twin 1 cause
  rw [State.finishOps_twin] at htwin
  have hnow : ((s.finishOps isJoin St.refused 2).setRole 1 cause).now = s.now := by
    unfold setRole
    rw [State.post_now]
    exact State.finishOps_now ..
  unfold takeLead
  dsimp only
  rw [htwin, hnow]

theorem State.takeLead_fw (s : State) (cause : Nat) : (s.takeLead cause).fw = { s.fw with twinBit := some 1 } := by
  have hfw := (s.finishOps isJoin St.refused 2).setRole_fw 1 cause
  rw [State.finishOps_fw] at hfw
  exact hfw

/-! ## Heartbeats and loss (R280, R284) -/

section
variable {s : State} {x : Packet} (h : twinMessage s x 0x30)
include h

theorem exec_twinHeartbeat_heard (hy : s.twin.role ≠ 1 ∨ field x.payload 0 1 ≠ 1 ∨ s.twin.primaryAt ≤ s.twin.heardAt) :
    exec (.twinHeartbeat x) s = .next (if s.twin.partner == 3 then { heardState s x with twin.partner := 0 } else heardState s x) := by
  have hx : exec (.twinHeartbeat x) s = execTwinHeartbeat x s := rfl
  have hyields : s.yields (field x.payload 0 1) = false := by
    unfold State.yields
    rcases hy with hrole | hpartner | hlate
    · simp [hrole]
    · simp [hpartner]
    · simp [hlate]
  rw [hx, execTwinHeartbeat, State.takeTwin_message h]
  dsimp only
  rw [hyields]
  rfl

/-- The later of two Primaries, once it has heard the other. -/
def State.yielded (s : State) (x : Packet) : State :=
  let t := if s.twin.partner == 3 then { heardState s x with twin.partner := 0 } else heardState s x
  { t.setRole 2 2 with twin.partner := 0, twin.former := true }

theorem exec_twinHeartbeat_yields (hrole : s.twin.role = 1) (hpartner : field x.payload 0 1 = 1) (hlate : s.twin.heardAt < s.twin.primaryAt) :
    exec (.twinHeartbeat x) s = .next ((s.yielded x).post 0x0D83 0 0 s.partnerByte) := by
  have hx : exec (.twinHeartbeat x) s = execTwinHeartbeat x s := rfl
  have hyields : s.yields (field x.payload 0 1) = true := by
    unfold State.yields
    simp [hrole, hpartner, hlate]
  rw [hx, execTwinHeartbeat, State.takeTwin_message h]
  dsimp only
  rw [hyields]
  rfl

end

theorem State.yielded_spec (s : State) (x : Packet) : (s.yielded x).twin.role = 2 ∧ (s.yielded x).twin.partner = 0 ∧ (s.yielded x).twin.former = true ∧
    (s.yielded x).fw.twinBit = some 2 ∧ (s.yielded x).ctxs = s.ctxs := by
  unfold yielded
  dsimp only
  refine ⟨?_, rfl, rfl, ?_, ?_⟩
  · rw [State.setRole_twin]
  · rw [State.setRole_fw]
  · rw [State.setRole_ctxs]
    split <;> rfl

theorem exec_twinHeartbeatSend_sends {s : State} (hup : s.up = true) (hrole : s.twin.role ≠ 0) : exec .twinHeartbeatSend s =
    .next (s.sendTwin 0x30 (leBytes 1 s.twin.role ++ leBytes 1 s.twin.partner ++ leBytes 2 s.fw.boot ++ leBytes 8 s.twin.leads)) :=
  congrArg Host.Outcome.next (if_pos (by simp [hup, hrole]))

/-- The loss is posted, and ends a join and a handover. -/
def State.lossNoted (s : State) : State :=
  ({ s with twin.partner := 3 }.post 0x0D81 0 0 s.partnerByte).finishOps (fun k => isJoin k || isHandover k) St.refused 2

theorem State.lossNoted_spec (s : State) : s.lossNoted.twin = { s.twin with partner := 3 } ∧ s.lossNoted.fw = s.fw ∧ s.lossNoted.parts = s.parts ∧ s.lossNoted.now = s.now := by
  unfold lossNoted
  rw [State.finishOps_twin, State.finishOps_fw, State.finishOps_parts, State.finishOps_now, State.post_twin, State.post_fw, State.post_parts, State.post_now]
  exact ⟨rfl, rfl, rfl, rfl⟩

theorem exec_partnerLossTimeout_lost {s : State} (hup : s.up = true) (hrole : s.twin.role ≠ 0) (hp : s.twin.partner ≠ 3) (hh : s.twin.heardAt ≠ 0)
    (hlong : 125000 ≤ s.now - s.twin.heardAt) : exec .partnerLossTimeout s =
      .next (if s.lossNoted.twin.role == 2 then s.lossNoted.takeLead 0 else { s.lossNoted.ungrant with twin.handing := false }) := by
  have hlong' : decide (tMs 5 ≤ s.since s.twin.heardAt) = true := decide_eq_true hlong
  exact congrArg Host.Outcome.next (if_pos (by simp [hup, hrole, hp, hh, hlong']))

/-! ## Leads (R281) -/

theorem exec_twinLead_part {s : State} {x : Packet} (h : twinMessage s x 0x31) (hrole : s.twin.role = 2) (hpart : field x.payload 0 2 ≠ 0xFFFF) :
    exec (.twinLead x) s = .next ((heardState s x).updPart (field x.payload 0 2) fun p =>
      if p.granted then { p with leads := addLead p.leads (field x.payload 4 8) (readEntries x.payload 16 (field x.payload 2 2)) } else p) := by
  have hx : exec (.twinLead x) s = execTwinLead x s := rfl
  have hstandby : ¬ ((heardState s x).twin.role != 2) = true := by
    have hrole' : (heardState s x).twin.role = 2 := hrole
    simp [hrole']
  rw [hx, execTwinLead, State.takeTwin_message h]
  refine congrArg Host.Outcome.next ?_
  unfold State.takeLeadPacket
  dsimp only
  rw [if_neg hstandby, if_neg (by simpa using hpart)]

/-! ## Joining (R282) -/

section
variable {s : State} {x : Packet} (h : twinMessage s x 0x32)
include h

theorem exec_twinJoinReq_standby (hrole : s.twin.role ≠ 1) : exec (.twinJoinReq x) s = .next (heardState s x) := by
  have hx : exec (.twinJoinReq x) s = execTwinJoinReq x s := rfl
  rw [hx, execTwinJoinReq, State.takeTwin_message h]
  exact congrArg Host.Outcome.next (if_pos (show (s.twin.role != 1) = true by simpa using hrole))

theorem exec_twinJoinReq_refused (hrole : s.twin.role = 1) (hd : slice x.payload 0 48 ≠ s.listDigest) :
    exec (.twinJoinReq x) s = .next ((heardState s x).sendTwin 0x36 (leBytes 1 0)) := by
  have hx : exec (.twinJoinReq x) s = execTwinJoinReq x s := rfl
  have hdigest : (heardState s x).listDigest = s.listDigest := rfl
  rw [hx, execTwinJoinReq, State.takeTwin_message h]
  refine congrArg Host.Outcome.next ((if_neg (show ¬ (s.twin.role != 1) = true by simp [hrole])).trans (if_neg ?_))
  rw [hdigest]
  simpa using hd

theorem exec_twinJoinReq_granted (hrole : s.twin.role = 1) (hd : slice x.payload 0 48 = s.listDigest) :
    exec (.twinJoinReq x) s = .next (heardState s x).grantAll := by
  have hx : exec (.twinJoinReq x) s = execTwinJoinReq x s := rfl
  have hdigest : (heardState s x).listDigest = s.listDigest := rfl
  rw [hx, execTwinJoinReq, State.takeTwin_message h]
  refine congrArg Host.Outcome.next ((if_neg (show ¬ (s.twin.role != 1) = true by simp [hrole])).trans (if_pos ?_))
  rw [hdigest, hd]
  exact beq_self_eq_true _

end

theorem State.sendGrant_keeps {γ : Type} (φ : State → γ) (h : ∀ (s : State) x, φ { s with fab := x } = φ s) (s : State) (part : Nat) (cs : List (Nat × Ctx)) :
    φ (s.sendGrant part cs) = φ s := by
  unfold sendGrant
  refine (foldl_keeps _ φ (fun u c => State.sendTwin_keeps φ h ..) _ _).trans ?_
  split
  · exact State.sendTwin_keeps φ h ..
  · rfl

/-- The pool's grant, sent as a join begins on the Primary. -/
def State.poolGranted (s : State) : State := ({ s with twin.partner := 1 }.ungrant).sendGrant 0xFFFF (s.ctxsOn none)

theorem State.poolGranted_spec (s : State) : s.poolGranted.twin = { s.twin with partner := 1 } ∧ s.poolGranted.parts = s.ungrant.parts ∧ s.poolGranted.fw = s.fw ∧
    s.poolGranted.host = s.host ∧ s.poolGranted.now = s.now :=
  ⟨State.sendGrant_keeps State.twin (fun _ _ => rfl) .., State.sendGrant_keeps State.parts (fun _ _ => rfl) .., State.sendGrant_keeps State.fw (fun _ _ => rfl) ..,
    State.sendGrant_keeps State.host (fun _ _ => rfl) .., State.sendGrant_keeps State.now (fun _ _ => rfl) ..⟩

theorem State.partner_of_fw {s t : State} (h : t.fw = s.fw) : t.partner = s.partner := by
  unfold partner
  rw [h]

/-- Without partitions the pool's grant is the last. -/
theorem State.grantAll_noParts {s : State} (hrole : s.twin.role = 1) (hparts : s.parts = []) :
    s.grantAll = { s.poolGranted with twin.partner := 2 }.post 0x0D82 0 0 (leBytes 1 (s.partner.getD 0xFF)) := by
  obtain ⟨htwin, hparts', hfw, -, -⟩ := s.poolGranted_spec
  have hnone : s.poolGranted.parts = [] := by
    rw [hparts', ungrant, hparts]
    rfl
  have hgrant : s.grantAll = (((s.poolGranted.parts.filter fun p => p.2.job.isNone).map Prod.fst).foldl (fun s n => s.grantPart n) s.poolGranted).joinDone := rfl
  rw [hgrant, hnone, List.filter_nil, List.map_nil, List.foldl_nil, ← State.partner_of_fw hfw]
  exact if_pos (by simp [htwin, hnone, hrole])

section
variable {s : State} {x : Packet} (h : twinMessage s x 0x33)
include h

theorem exec_twinJoinGrant_other (hno : s.twin.role ≠ 2 ∨ s.twin.partner ≠ 1) : exec (.twinJoinGrant x) s = .next (heardState s x) := by
  have hx : exec (.twinJoinGrant x) s = execTwinJoinGrant x s := rfl
  rw [hx, execTwinJoinGrant, State.takeTwin_message h]
  exact congrArg Host.Outcome.next (if_pos (show (s.twin.role != 2 || s.twin.partner != 1) = true by simpa using hno))

theorem exec_twinJoinGrant_part (hrole : s.twin.role = 2) (hp : s.twin.partner = 1) (hctxs : field x.payload 2 2 = 0) :
    exec (.twinJoinGrant x) s = .next ((heardState s x).updPart (field x.payload 0 2) fun q => { q with granted := true }).joinedNow := by
  have hx : exec (.twinJoinGrant x) s = execTwinJoinGrant x s := rfl
  rw [hx, execTwinJoinGrant, State.takeTwin_message h]
  refine congrArg Host.Outcome.next ((if_neg (show ¬ (s.twin.role != 2 || s.twin.partner != 1) = true by simp [hrole, hp])).trans ?_)
  dsimp only
  rw [hctxs]
  rfl

end

theorem Tbl.mem_set_sorted {α : Type} {t : Tbl α} {i : Nat} {v : α} (h : t.Pairwise fun a b => a.1 < b.1) {q : Nat × α} (hq : q ∈ Tbl.set t i v) :
    q = (i, v) ∨ (q ∈ t ∧ q.1 ≠ i) := by
  induction t with
  | nil => exact .inl (List.mem_singleton.1 hq)
  | cons y t ih =>
    obtain ⟨hmin, hrest⟩ := List.pairwise_cons.1 h
    rw [Tbl.set] at hq
    split at hq
    · next heq =>
      refine (List.mem_cons.1 hq).imp_right fun hm => ⟨List.mem_cons_of_mem _ hm, ?_⟩
      have hlt := hmin q hm
      omega
    · split at hq
      · next hlt =>
        refine (List.mem_cons.1 hq).imp_right fun hm => ⟨hm, ?_⟩
        rcases List.mem_cons.1 hm with rfl | hm
        · exact Nat.ne_of_gt hlt
        · have hlt' := hmin q hm
          omega
      · next hne _ =>
        rcases List.mem_cons.1 hq with rfl | hm
        · exact .inr ⟨List.mem_cons_self, hne⟩
        · exact (ih hrest hm).imp_right fun hm => ⟨List.mem_cons_of_mem _ hm.1, hm.2⟩

/-- The last partition is granted. -/
def State.lastGrant (s : State) (n : Nat) : State := s.updPart n fun q => { q with granted := true }

theorem State.lastGrant_all {s : State} {n : Nat} {p : Part} (hp : s.part? n = some p) (hsorted : s.parts.Pairwise fun a b => a.1 < b.1)
    (hothers : ∀ y ∈ s.parts, y.1 ≠ n → y.2.granted = true) : ∀ q ∈ (s.lastGrant n).parts, q.2.granted = true := by
  intro q hq
  have hset : (s.lastGrant n).parts = s.parts.set n { p with granted := true } := by
    have hp' : s.parts.find? n = some p := hp
    unfold lastGrant updPart
    rw [hp']
  rw [hset] at hq
  rcases Tbl.mem_set_sorted hsorted hq with rfl | ⟨hq, hne⟩
  · rfl
  · exact hothers q hq hne

theorem State.lastGrant_rest (s : State) (n : Nat) : (s.lastGrant n).twin = s.twin ∧ (s.lastGrant n).fw = s.fw ∧ (s.lastGrant n).host = s.host ∧ (s.lastGrant n).now = s.now ∧
    (s.lastGrant n).ctxs = s.ctxs := by
  unfold lastGrant
  exact ⟨State.updPart_twin .., State.updPart_fw .., State.updPart_host .., State.updPart_now .., State.updPart_ctxs ..⟩

theorem State.joinedNow_all {s : State} (hp : s.twin.partner = 1) (hall : ∀ q ∈ s.parts, q.2.granted = true) :
    s.joinedNow = ({ s with twin.partner := 2 }.post 0x0D82 0 0 s.partnerByte).finishOps isJoin St.ok :=
  if_pos (by simp only [hp, beq_self_eq_true, Bool.true_and]; exact List.all_eq_true.2 hall)

theorem exec_twinJoinRefuse_ends {s : State} {x : Packet} (h : twinMessage s x 0x36) (hrole : s.twin.role = 2) (hp : s.twin.partner = 1) :
    exec (.twinJoinRefuse x) s = .next (State.finishOps { heardState s x with twin.partner := 0 } isJoin St.incompatible) := by
  have hx : exec (.twinJoinRefuse x) s = execTwinJoinRefuse x s := rfl
  rw [hx, execTwinJoinRefuse, State.takeTwin_message h]
  exact congrArg Host.Outcome.next (if_pos (show (s.twin.role == 2 && s.twin.partner == 1) = true by simp [hrole, hp]))

/-! ## The handover (R283) -/

section
variable {s : State} {x : Packet}

theorem exec_twinHandoverPacket_other (h : twinMessage s x 0x34) (hrole : s.twin.role ≠ 2) : exec (.twinHandoverPacket x) s = .next (heardState s x) := by
  have hx : exec (.twinHandoverPacket x) s = execTwinHandoverPacket x s := rfl
  rw [hx, execTwinHandoverPacket, State.takeTwin_message h]
  exact congrArg Host.Outcome.next (if_neg (show ¬ (s.twin.role == 2) = true by simpa using hrole))

theorem exec_twinHandoverPacket_leads (h : twinMessage s x 0x34) (hrole : s.twin.role = 2) :
    exec (.twinHandoverPacket x) s = .next { ((heardState s x).takeLead 1).sendTwin 0x35 [] with twin.partner := 0 } := by
  have hx : exec (.twinHandoverPacket x) s = execTwinHandoverPacket x s := rfl
  rw [hx, execTwinHandoverPacket, State.takeTwin_message h]
  exact congrArg Host.Outcome.next (if_pos (show (s.twin.role == 2) = true by simp [hrole]))

theorem exec_twinHandoverAck_other (h : twinMessage s x 0x35) (hno : s.twin.role ≠ 1 ∨ s.twin.handing = false) :
    exec (.twinHandoverAck x) s = .next (heardState s x) := by
  have hx : exec (.twinHandoverAck x) s = execTwinHandoverAck x s := rfl
  rw [hx, execTwinHandoverAck, State.takeTwin_message h]
  refine congrArg Host.Outcome.next (if_neg (show ¬ (s.twin.role == 1 && s.twin.handing) = true from ?_))
  rcases hno with hrole | hhanding
  · simp [hrole]
  · simp [hhanding]

theorem exec_twinHandoverAck_yields (h : twinMessage s x 0x35) (hrole : s.twin.role = 1) (hhanding : s.twin.handing = true) :
    exec (.twinHandoverAck x) s = .next ((heardState s x).stopLeading.finishOps isHandover St.ok) := by
  have hx : exec (.twinHandoverAck x) s = execTwinHandoverAck x s := rfl
  rw [hx, execTwinHandoverAck, State.takeTwin_message h]
  exact congrArg Host.Outcome.next (if_pos (show (s.twin.role == 1 && s.twin.handing) = true by simp [hrole, hhanding]))

end

/-- A context whose items the former Primary no longer leads. -/
def Ctx.stopped (c : Ctx) (led : Bool) : Ctx :=
  { c with queue := [], session := if led then { c.session with joined := true } else { c.session with req := none, joined := false } }

/-- A running job still knows the context. -/
def State.leading (s : State) (n : Nat) : Bool := s.parts.any fun p => match p.2.job with | some j => j.hasCtx n | none => false

theorem State.stopLeading_spec (s : State) : s.stopLeading.twin = { s.twin with role := 2, handing := false, partner := 0, former := true } ∧
    s.stopLeading.fw = { s.fw with twinBit := some 2 } ∧ s.stopLeading.ctxs = s.ctxs.mapVals (fun n c => c.stopped (s.leading n)) ∧
    s.stopLeading.parts = (s.parts.mapVals fun _ p => { p with running := p.running.filter s.leading }).mapVals fun _ p => { p with granted := false } := by
  unfold stopLeading
  dsimp only
  rw [State.setRole_twin, State.setRole_fw, State.setRole_ctxs, State.setRole_parts]
  exact ⟨rfl, rfl, rfl, rfl⟩

theorem State.stopLeading_ctx {s : State} {n : Nat} {c : Ctx} (h : s.ctx? n = some c) : s.stopLeading.ctx? n = some (c.stopped (s.leading n)) := by
  obtain ⟨-, -, hctxs, -⟩ := s.stopLeading_spec
  have h' : s.ctxs.find? n = some c := h
  rw [ctx?, hctxs, Tbl.find?_mapVals, h']
  rfl

theorem State.stopLeading_part {s : State} {n : Nat} {p : Part} (h : s.part? n = some p) :
    s.stopLeading.part? n = some { p with running := p.running.filter s.leading, granted := false } := by
  obtain ⟨-, -, -, hparts⟩ := s.stopLeading_spec
  have h' : s.parts.find? n = some p := h
  rw [part?, hparts, Tbl.find?_mapVals, Tbl.find?_mapVals, h']
  rfl

/-! ## The twin commands (R287) -/

section
variable {s : State} {m : Mb} {r : Req}

theorem exec_twinStatus (h : s.runs m 0x0D80 false = some r) (hl : r.len = 0) :
    exec (.twinStatus m) s = .next ((s.taken m).respond m 0x0D80 r.tag ((s.taken m).twinStatus r).2) :=
  congrArg Host.Outcome.next (State.mbRun_ok (lenIs 0 []) State.twinStatus h (lenIs_ok hl fun _ hp => nomatch hp))

theorem exec_twinJoin (h : s.runs m 0x0D81 false = some r) (hl : r.len = 0) :
    exec (.twinJoin m) s = .next (((s.taken m).twinJoin r).1.respond m 0x0D81 r.tag ((s.taken m).twinJoin r).2) :=
  congrArg Host.Outcome.next (State.mbRun_ok (lenIs 0 []) State.twinJoin h (lenIs_ok hl fun _ hp => nomatch hp))

theorem exec_twinHandover (h : s.runs m 0x0D82 false = some r) (hl : r.len = 0) :
    exec (.twinHandover m) s = .next (((s.taken m).twinHandover r).1.respond m 0x0D82 r.tag ((s.taken m).twinHandover r).2) :=
  congrArg Host.Outcome.next (State.mbRun_ok (lenIs 0 []) State.twinHandover h (lenIs_ok hl fun _ hp => nomatch hp))

end

section
variable {s : State} {q : Req} (hheld : s.held (10, 0) = false)
include hheld

theorem State.twinJoin_notStandby (hrole : s.twin.role ≠ 2) : s.twinJoin q = (s, failR St.refused 1) :=
  (if_neg (by rw [hheld]; exact Bool.false_ne_true)).trans (if_pos (by simpa using hrole))

/-- The Standby as its join request goes out. -/
def State.joining (s : State) : State :=
  let t := { s.ungrant with twin.partner := 1, twin.former := false, twin.trowel := [] }
  { t with parts := t.parts.mapVals fun _ p => { p with leads := [] } }

theorem State.twinJoin_accepted {n : Nat} (hrole : s.twin.role = 2) (hp : s.partner = some n) (hh : s.twin.heardAt ≠ 0) (hrecent : s.now - s.twin.heardAt < 125000) :
    s.twinJoin q = ((s.accept q .twinJoin).1.joining.sendTwin 0x32 (s.accept q .twinJoin).1.joining.listDigest, (s.accept q .twinJoin).2) := by
  have hpresent : s.partnerAbsent = false := by
    have hrecent' : decide (tMs 5 ≤ s.since s.twin.heardAt) = false := decide_eq_false (Nat.not_le.2 hrecent)
    unfold partnerAbsent
    simp [hp, hh, hrecent']
  unfold twinJoin
  rw [if_neg (by rw [hheld]; exact Bool.false_ne_true), if_neg (by simp [hrole]), if_neg (by rw [hpresent]; exact Bool.false_ne_true)]
  rfl

theorem State.twinHandover_notPrimary (hrole : s.twin.role ≠ 1) : s.twinHandover q = (s, failR St.refused 1) :=
  (if_neg (by rw [hheld]; exact Bool.false_ne_true)).trans (if_pos (by simpa using hrole))

theorem State.twinHandover_notJoined (hrole : s.twin.role = 1) (hp : s.twin.partner ≠ 2) : s.twinHandover q = (s, failR St.refused 2) :=
  (if_neg (by rw [hheld]; exact Bool.false_ne_true)).trans ((if_neg (by simp [hrole])).trans (if_pos (by simpa using hp)))

theorem State.twinHandover_accepted (hrole : s.twin.role = 1) (hp : s.twin.partner = 2) :
    s.twinHandover q = ((s.accept q .twinHandover).1.handover 0, (s.accept q .twinHandover).2) :=
  (if_neg (by rw [hheld]; exact Bool.false_ne_true)).trans ((if_neg (by simp [hrole])).trans (if_neg (by simp [hp])))

end

/-- A handover that the joined Primary begins. -/
theorem State.handover_begins {s : State} {q : Nat} (cause : Nat) (hrole : s.twin.role = 1) (hp : s.twin.partner = 2) (hh : s.twin.handing = false) (hq : s.partner = some q) :
    (s.handover cause).twin = { s.twin with handing := true, handCause := cause } ∧ (s.handover cause).mason = s.mason := by
  unfold handover
  rw [if_pos (by simp [hrole, hp, hh]), hq]
  dsimp only
  rw [State.sendRouted_twin, State.sendRouted_mason]
  exact ⟨rfl, rfl⟩

end Sys2Proof.Machine
end

section
/-! The proof of O54. -/

namespace Sys2Proof.Machine

/-- Settles O54: each twin message is answered by role and pairing as the sections say, and the grants end with every change of role. -/
theorem twinsLeadJoinAndTakeOver : Obligations.TwinsLeadJoinAndTakeOver := by
  unfold Obligations.TwinsLeadJoinAndTakeOver
  refine ⟨?heartbeat, ?sends, ?lead, ?joinReq, ?joinGrant, fun s x h hrole hp => exec_twinJoinRefuse_ends h hrole hp, ?handover, ?ack, ?loss, ?status, ?join, ?hand⟩
  case heartbeat =>
    intro s x h
    refine ⟨fun hy => ⟨fun hp => ?_, fun hp => ?_⟩, fun hrole hpartner hlate => ?_⟩
    · rw [exec_twinHeartbeat_heard h hy, if_neg (by simpa using hp)]
    · rw [exec_twinHeartbeat_heard h hy, if_pos (by simp [hp])]
    · obtain ⟨hrole', hpartner', hformer, hbit, hctxs⟩ := s.yielded_spec x
      refine ⟨_, exec_twinHeartbeat_yields h hrole hpartner hlate, ?_⟩
      rw [State.post_twin, State.post_fw, State.post_ctxs]
      exact ⟨hrole', hpartner', hformer, hbit, hctxs⟩
  case sends =>
    intro s q rt hup hrole hq hroute hw hc
    rw [exec_twinHeartbeatSend_sends hup hrole]
    have hsent := State.sendTwin_sent (b := leBytes 1 s.twin.role ++ leBytes 1 s.twin.partner ++ leBytes 2 s.fw.boot ++ leBytes 8 s.twin.leads) hq hroute hw hc (by simp [leBytes])
    refine ⟨_, _, rfl, hsent, rfl, rfl, ?_, rfl, State.sendTwin_keeps State.twin (fun _ _ => rfl) ..⟩
    exact bne_iff_ne.2 hrole
  case lead =>
    intro s x p h hrole hpart hp
    have hp' : (heardState s x).part? (field x.payload 0 2) = some p := hp
    refine ⟨_, exec_twinLead_part h hrole hpart, State.updPart_ctxs .., fun k hk => State.updPart_part_ne _ _ hk, ?_⟩
    rw [State.updPart_part_self, hp']
    rfl
  case joinReq =>
    intro s x h
    refine ⟨fun hrole => exec_twinJoinReq_standby h hrole, fun hrole hd => ?_, fun hrole hd hparts => ?_⟩
    · rw [exec_twinJoinReq_refused h hrole hd]
      exact ⟨_, rfl, State.sendTwin_keeps State.twin (fun _ _ => rfl) .., State.sendTwin_keeps State.parts (fun _ _ => rfl) ..⟩
    · obtain ⟨htwin, -, -, hhost, hnow⟩ := (heardState s x).poolGranted_spec
      have hpartner : (heardState s x).partner = some x.src := (twinMessage_partner h : s.partner = some x.src)
      rw [exec_twinJoinReq_granted h hrole hd, State.grantAll_noParts (s := heardState s x) hrole hparts, hpartner]
      refine ⟨_, rfl, ?_, ?_, ?_⟩
      · rw [State.post_twin]
      · rw [State.post_twin]
        exact (congrArg Twin.role htwin).trans hrole
      · apply State.eventPosted_post
        · exact hhost
        · exact hnow
  case joinGrant =>
    intro s x p h
    refine ⟨fun hno => exec_twinJoinGrant_other h hno, fun hrole hp hctxs hpart hsorted hothers => ?_⟩
    obtain ⟨htwin, hfw, hhost, hnow, hctxs'⟩ := (heardState s x).lastGrant_rest (field x.payload 0 2)
    have hpartner : ((heardState s x).lastGrant (field x.payload 0 2)).partner = some x.src := (State.partner_of_fw hfw).trans (twinMessage_partner h : s.partner = some x.src)
    have hjoining : ((heardState s x).lastGrant (field x.payload 0 2)).twin.partner = 1 := (congrArg Twin.partner htwin).trans hp
    have hgranted : ((heardState s x).lastGrant (field x.payload 0 2)).part? (field x.payload 0 2) = some { p with granted := true } := by
      have hpart' : (heardState s x).part? (field x.payload 0 2) = some p := hpart
      rw [State.lastGrant, State.updPart_part_self, hpart']
      rfl
    have hall := State.lastGrant_all (s := heardState s x) hpart hsorted hothers
    rw [exec_twinJoinGrant_part h hrole hp hctxs]
    change ∃ t, Host.Outcome.next ((heardState s x).lastGrant (field x.payload 0 2)).joinedNow = _ ∧ _
    rw [State.joinedNow_all hjoining hall, State.partnerByte, hpartner]
    refine ⟨_, rfl, ?_, ?_, ?_, ?_⟩
    · rw [State.post_twin]
    · rw [State.part?, State.post_parts]
      exact hgranted
    · rw [State.post_ctxs]
      exact hctxs'
    · apply State.eventPosted_post
      · exact hhost
      · exact hnow
  case handover =>
    intro s x h
    refine ⟨fun hrole => exec_twinHandoverPacket_other h hrole, fun hrole => ?_⟩
    have htwin : (((heardState s x).takeLead 1).sendTwin 0x35 []).twin = _ := (State.sendTwin_keeps State.twin (fun _ _ => rfl) ..).trans ((heardState s x).takeLead_twin 1)
    have hfw : (((heardState s x).takeLead 1).sendTwin 0x35 []).fw = _ := (State.sendTwin_keeps State.fw (fun _ _ => rfl) ..).trans ((heardState s x).takeLead_fw 1)
    rw [exec_twinHandoverPacket_leads h hrole]
    refine ⟨_, rfl, ?_, rfl, ?_, ?_, ?_, ?_⟩
    · exact congrArg Twin.role htwin
    · exact congrArg Twin.former htwin
    · exact congrArg Twin.primaryAt htwin
    · exact congrArg Twin.switchovers htwin
    · exact congrArg Flash.twinBit hfw
  case ack =>
    intro s x h
    refine ⟨fun hno => exec_twinHandoverAck_other h hno, fun hrole hhanding => ?_⟩
    obtain ⟨htwin, hfw, -, -⟩ := (heardState s x).stopLeading_spec
    rw [exec_twinHandoverAck_yields h hrole hhanding]
    refine ⟨_, rfl, congrArg Twin.role htwin, congrArg Twin.partner htwin, congrArg Twin.former htwin, congrArg Twin.handing htwin, ?_, fun n c hc => ?_, fun n p hp => ?_⟩
    · rw [hfw]
    · exact ⟨_, State.stopLeading_ctx (s := heardState s x) hc, rfl, rfl⟩
    · exact ⟨_, State.stopLeading_part (s := heardState s x) hp, rfl, rfl⟩
  case loss =>
    intro s hup hp hh hlong
    obtain ⟨htwin, hfw, hparts, hnow⟩ := s.lossNoted_spec
    refine ⟨fun hrole => ?_, fun hrole => ?_⟩
    · have hrole' : s.lossNoted.twin.role = 2 := (congrArg Twin.role htwin).trans hrole
      rw [exec_partnerLossTimeout_lost hup (by omega) hp hh hlong, if_pos (by simp [hrole'])]
      refine ⟨_, rfl, ?_, ?_, ?_, ?_⟩
      · rw [State.takeLead_twin]
      · rw [State.takeLead_twin]
        exact congrArg Twin.partner htwin
      · rw [State.takeLead_twin, htwin]
      · rw [State.takeLead_fw]
    · have hrole' : s.lossNoted.twin.role = 1 := (congrArg Twin.role htwin).trans hrole
      rw [exec_partnerLossTimeout_lost hup (by omega) hp hh hlong, if_neg (by simp [hrole'])]
      refine ⟨_, rfl, hrole', congrArg Twin.partner htwin, rfl, fun n p hpart => ?_⟩
      have hpart' : s.lossNoted.part? n = some p := by
        rw [State.part?, hparts]
        exact hpart
      exact ⟨_, State.ungrant_part hpart', rfl, rfl⟩
  case status =>
    intro s m r q h hl hq
    have hq' : (s.taken m).partner = some q := hq
    rw [exec_twinStatus h hl, State.twinStatus, hq']
    rfl
  case join =>
    intro s m r q h hl hheld
    rw [exec_twinJoin h hl]
    refine ⟨fun hrole => ?_, fun hrole hq hh hrecent hop => ?_⟩
    · rw [State.twinJoin_notStandby (s := s.taken m) hheld hrole]
      rfl
    · rw [State.twinJoin_accepted (s := s.taken m) hheld hrole hq hh hrecent, State.accept_withOp (s := s.taken m) hop]
      dsimp only
      have htwin : (((s.taken m).withOp r .twinJoin).joining.sendTwin 0x32 ((s.taken m).withOp r .twinJoin).joining.listDigest).twin = ((s.taken m).withOp r .twinJoin).joining.twin :=
        State.sendTwin_keeps State.twin (fun _ _ => rfl) ..
      refine ⟨_, rfl, congrArg Twin.partner htwin, congrArg Twin.former htwin, congrArg Twin.trowel htwin, State.sendTwin_keeps (fun u => u.mason.ops) (fun _ _ => rfl) ..⟩
  case hand =>
    intro s m r q h hl hheld
    rw [exec_twinHandover h hl]
    refine ⟨fun hrole => ?_, fun hrole hp => ?_, fun hrole hp hh hq hop => ?_⟩
    · rw [State.twinHandover_notPrimary (s := s.taken m) hheld hrole]
      rfl
    · rw [State.twinHandover_notJoined (s := s.taken m) hheld hrole hp]
      rfl
    · rw [State.twinHandover_accepted (s := s.taken m) hheld hrole hp, State.accept_withOp (s := s.taken m) hop]
      dsimp only
      obtain ⟨htwin, hmason⟩ := State.handover_begins (s := (s.taken m).withOp r .twinHandover) 0 hrole hp hh hq
      exact ⟨_, rfl, congrArg Twin.handing htwin, congrArg Twin.handCause htwin, (congrArg Twin.role htwin).trans hrole, congrArg Mason.ops hmason⟩

end Sys2Proof.Machine
end

section
/-! SUPPORT. Tenants: opening, removal, the scrub, the query and quotas (R297-R301, R307, R351). -/

namespace Sys2Proof.Machine

section
variable {s : State} {m : Mb} {r : Req}

theorem exec_secTenantCreate (h : s.runs m 0x0B01 false = some r) (hl : r.len = 8) (h1 : field r.pay 1 3 = 0) (h6 : r.u16 6 = 0) :
    exec (.secTenantCreate m) s = .next (((s.taken m).tenantCreate r).1.respond m 0x0B01 r.tag ((s.taken m).tenantCreate r).2) :=
  congrArg Host.Outcome.next (State.mbRun_ok (lenIs 8 [(1, 3), (6, 2)]) State.tenantCreate h (lenIs_ok hl (by simpa using ⟨h1, h6⟩)))

theorem exec_secTenantRemove (h : s.runs m 0x0B02 false = some r) (hl : r.len = 4) (hz : field r.pay 1 3 = 0) :
    exec (.secTenantRemove m) s = .next (((s.taken m).tenantRemove r).1.respond m 0x0B02 r.tag ((s.taken m).tenantRemove r).2) :=
  congrArg Host.Outcome.next (State.mbRun_ok (lenIs 4 [(1, 3)]) State.tenantRemove h (lenIs_ok hl fun _ hp => List.mem_singleton.1 hp ▸ hz))

theorem exec_secTenantQuery (h : s.runs m 0x0B03 true = some r) (hl : r.len = 4) (hz : field r.pay 1 3 = 0) :
    exec (.secTenantQuery m) s = .next (((s.taken m).tenantQuery r).1.respond m 0x0B03 r.tag ((s.taken m).tenantQuery r).2) :=
  congrArg Host.Outcome.next (State.mbRun_ok (lenIs 4 [(1, 3)]) State.tenantQuery h (lenIs_ok hl fun _ hp => List.mem_singleton.1 hp ▸ hz))

theorem exec_secQuota (h : s.runs m 0x0B04 false = some r) (hl : r.len = 4) (hz : field r.pay 1 1 = 0) :
    exec (.secQuota m) s = .next (((s.taken m).secQuota r).1.respond m 0x0B04 r.tag ((s.taken m).secQuota r).2) :=
  congrArg Host.Outcome.next (State.mbRun_ok (lenIs 4 [(1, 1)]) State.secQuota h (lenIs_ok hl fun _ hp => List.mem_singleton.1 hp ▸ hz))

end

/-! ## Opening a tenant (R297, R351) -/

/-- As `State.eventPosted_post`, where only the event queue is known to be the same. -/
theorem State.eventPosted_queue {s u : State} (heq : u.host.eq = s.host.eq) (hnow : u.now = s.now) (code kind id : Nat) (d : List Byte) :
    eventPosted s (u.post code kind id d) code kind id d := by
  intro hroom
  obtain ⟨hentry, hprod, -, hlost, -⟩ := State.post_room (s := u) (by rw [heq]; exact hroom) code kind id d
  rw [heq, hnow] at hentry
  rw [heq] at hprod hlost
  exact ⟨hentry, hprod, hlost⟩

/-- The tenant is open, and the closed slots of its VF are unbound. -/
def State.tenantOpened (s : State) (t g : Nat) : State := { s with sec.tenants := s.sec.tenants.set t { quotaGib := g } }.unbindClosed t

/-- No closed slot of the tenant's VF is left. -/
theorem State.tenantOpened_slots (s : State) (t g k : Nat) (hk : k / 768 = t) : (s.tenantOpened t g).host.slotBind.find? k ≠ some 16384 := by
  intro h
  have hm : (k, 16384) ∈ s.host.slotBind.filter fun b => !(b.1 / 768 == t && b.2 == 16384) := Tbl.mem_of_find? h
  simp [hk] at hm

theorem State.tenantOpened_tenant (s : State) (t g : Nat) : (s.tenantOpened t g).sec.tenants.find? t = some { quotaGib := g } := Tbl.find?_set_self ..

theorem State.tenantOpened_tenant_ne (s : State) {t k : Nat} (g : Nat) (h : k ≠ t) : (s.tenantOpened t g).sec.tenants.find? k = s.sec.tenants.find? k :=
  Tbl.find?_set_ne _ _ (Ne.symm h)

section
variable {s : State} {q : Req}

theorem State.tenantCreate_badArg (h : 63 < q.u8 0 ∨ q.u16 4 = 0 ∨ 287 < q.u16 4) : s.tenantCreate q = (s, failR St.badArg) :=
  if_pos (by simpa only [Bool.or_eq_true, Bool.not_eq_true', decide_eq_true_eq, beq_iff_eq, or_assoc, show poolGib = 287 from rfl] using h)

variable (ht : q.u8 0 ≤ 63) (h0 : 0 < q.u16 4) (h287 : q.u16 4 ≤ 287) (hnone : s.sec.tenants.find? (q.u8 0) = none)
include ht h0 h287 hnone

/-- What follows the argument checks for a tenant that there is not. -/
theorem State.tenantCreate_new : s.tenantCreate q =
    if 287 < s.quotaOthers (q.u8 0) + q.u16 4 then (s, failR St.noResource)
    else if q.u8 0 != 0 && (!s.multi || s.sec.life == 0) then (s, failR St.refused 1)
    else if 3 ≤ s.sec.life then (s, failR St.refused 2)
    else ((s.tenantOpened (q.u8 0) (q.u16 4)).post 0x0B01 9 (q.u8 0) (leBytes 2 (q.u16 4)),
      okR (leBytes 1 (s.keyGen (q.u8 0)) ++ [0, 0, 0])) := by
  have hargs : ¬ (decide (63 < q.u8 0) || q.u16 4 == 0 || decide (poolGib < q.u16 4)) = true := by
    simp only [Bool.or_eq_true, decide_eq_true_eq, beq_iff_eq, show poolGib = 287 from rfl]
    omega
  have hhas : ¬ s.sec.tenants.has (q.u8 0) = true := by
    simp [Tbl.has, hnone]
  unfold tenantCreate
  dsimp only
  rw [if_neg hargs, hnone, if_neg Bool.false_ne_true, if_neg hhas]
  rfl

theorem State.tenantCreate_noResource (hpool : 287 < s.quotaOthers (q.u8 0) + q.u16 4) : s.tenantCreate q = (s, failR St.noResource) := by
  rw [State.tenantCreate_new ht h0 h287 hnone, if_pos hpool]

theorem State.tenantCreate_refused (hpool : s.quotaOthers (q.u8 0) + q.u16 4 ≤ 287) (hother : q.u8 0 ≠ 0) (hsingle : s.multi = false ∨ s.sec.life = 0) :
    s.tenantCreate q = (s, failR St.refused 1) := by
  rw [State.tenantCreate_new ht h0 h287 hnone, if_neg (by omega), if_pos (by simpa [hother] using hsingle)]

theorem State.tenantCreate_opens (hpool : s.quotaOthers (q.u8 0) + q.u16 4 ≤ 287) (hmay : q.u8 0 = 0 ∨ (s.multi = true ∧ s.sec.life ≠ 0)) (hlife : s.sec.life < 3) :
    s.tenantCreate q = ((s.tenantOpened (q.u8 0) (q.u16 4)).post 0x0B01 9 (q.u8 0) (leBytes 2 (q.u16 4)),
      okR (leBytes 1 (s.keyGen (q.u8 0)) ++ [0, 0, 0])) := by
  have hsingle : ¬ (q.u8 0 != 0 && (!s.multi || s.sec.life == 0)) = true := by
    rcases hmay with h | ⟨hm, hl⟩
    · simp [h]
    · simp [hm, hl]
  rw [State.tenantCreate_new ht h0 h287 hnone, if_neg (by omega), if_neg hsingle, if_neg (by omega)]

end

/-! ## Step 1 of a removal (R299) -/

/-- The tenant is closed: its jobs are marked, and what led its work is dropped. -/
def State.tenantClosed (s : State) (t : Nat) : State :=
  let mine (n : Nat) : Bool := match s.ctx? n with | some c => c.tenant == t | none => false
  let s := s.updTenant t fun r => { r with state := 2, step := 2, startAt := s.now }
  { s with
    parts := s.parts.mapVals fun _ p => if p.tenant == t then { p with job := p.job.map (fun (j : Job) => { j with closed := true }), leads := [] } else p
    twin.trowel := s.twin.trowel.filter fun e => !mine e.1 }

/-- Its queued items and flushes end. -/
def State.queuesEnded (s : State) (t : Nat) : State :=
  let s := (s.requeuePics fun i => i.tenant == t).endAllQueued (fun i => i.tenant == t) St.tenantClosed
  let flushing := (s.ctxs.filter fun (c : Nat × Ctx) => c.2.tenant == t && c.2.codec.flushAt.isSome && (s.coresOf c.1).isEmpty).map Prod.fst
  flushing.foldl (fun (s : State) n => (s.updCtx n fun c => { c with codec.flushAt := none }).finishOps (fun k => match k with | .vidFlush m => m == n | _ => false) St.tenantClosed) s

theorem State.closeTenant_eq (s : State) (t : Nat) : s.closeTenant t = ((s.tenantClosed t).queuesEnded t).endIdleJobs t := rfl

theorem State.requeuePics_keeps {γ : Type} (φ : State → γ) (hctx : ∀ (s : State) n f, φ (s.updCtx n f) = φ s) (hagain : ∀ (s : State) l, φ { s with trowel.again := l } = φ s)
    (s : State) (f : Item → Bool) : φ (s.requeuePics f) = φ s := by
  unfold requeuePics
  exact (foldl_keeps _ φ (fun _ _ => hctx ..) _ _).trans (hagain ..)

theorem State.endAllQueued_keeps {γ : Type} (φ : State → γ) (hφ : ∀ (s : State) x ps cs b, φ { s.emitted x with piers := ps, courses := cs, mem.lossBuf := b } = φ s)
    (s : State) (p : Item → Bool) (status : Nat) : φ (s.endAllQueued p status) = φ s := by
  unfold endAllQueued
  exact foldl_keeps _ φ (fun u i => (u.endQueued_sheds i status).keeps φ (hφ u)) _ _

/-- Without a flush command under way, the end of the queues keeps what records and contexts leave alone. -/
theorem State.queuesEnded_keeps {γ : Type} (φ : State → γ) (hctx : ∀ (s : State) n f, φ (s.updCtx n f) = φ s) (hagain : ∀ (s : State) l, φ { s with trowel.again := l } = φ s)
    (hφ : ∀ (s : State) x ps cs b, φ { s.emitted x with piers := ps, courses := cs, mem.lossBuf := b } = φ s) {s : State} (t : Nat)
    (hops : ∀ o ∈ s.mason.ops, ∀ n, o.kind ≠ .vidFlush n) : φ (s.queuesEnded t) = φ s := by
  have hstart (u : State) (hu : u = (s.requeuePics fun i => i.tenant == t).endAllQueued (fun i => i.tenant == t) St.tenantClosed) : φ u = φ s ∧ u.mason = s.mason := by
    subst hu
    exact ⟨(State.endAllQueued_keeps φ hφ ..).trans (State.requeuePics_keeps φ hctx hagain ..),
      (State.endAllQueued_keeps State.mason (fun _ _ _ _ _ => rfl) ..).trans (State.requeuePics_keeps State.mason State.updCtx_mason (fun _ _ => rfl) ..)⟩
  have hnone (u : State) (hu : u.mason = s.mason) (n : Nat) (st : Nat) : u.finishOps (fun k => match k with | .vidFlush m => m == n | _ => false) st = u := by
    have hempty : (u.mason.ops.filter fun o => (match o.kind with | .vidFlush m => m == n | _ => false)) = [] := by
      rw [hu]
      refine List.filter_eq_nil_iff.2 fun o ho => ?_
      have hkind := hops o ho
      split
      · next m hm => exact absurd hm (hkind m)
      · exact Bool.false_ne_true
    unfold finishOps
    rw [hempty]
    rfl
  obtain ⟨hkept, hmason⟩ := hstart _ rfl
  unfold queuesEnded
  dsimp only
  refine (foldl_keeps_if _ φ (fun u => u.mason = s.mason) (fun u n hu => ?_) (fun u n hu => ?_) _ _ hmason).trans hkept
  · rw [hnone _ ((State.updCtx_mason ..).trans hu)]
    exact hctx ..
  · rw [hnone _ ((State.updCtx_mason ..).trans hu)]
    exact (State.updCtx_mason ..).trans hu

theorem State.endIdleJobs_none {s : State} {t : Nat} (h : ∀ y ∈ s.parts, y.2.tenant = t → y.2.job.isSome = true) : s.endIdleJobs t = s := by
  have hempty : (s.parts.filter fun p => p.2.tenant == t && p.2.job.isNone) = [] := by
    refine List.filter_eq_nil_iff.2 fun y hy hidle => ?_
    simp only [Bool.and_eq_true, beq_iff_eq, Option.isNone_iff_eq_none] at hidle
    obtain ⟨htenant, hjob⟩ := hidle
    have hsome := h y hy htenant
    rw [hjob] at hsome
    exact Bool.false_ne_true hsome
  unfold endIdleJobs
  rw [hempty]
  rfl

/-- A removal whose tenant has a job running does not go on yet. -/
theorem State.landDue_busy {s : State} (h : ∀ y ∈ s.sec.tenants, y.2.state = 2 → s.tenantBusy y.1 = true) : s.landDue = s := by
  have hfold (l : List (Nat × Tenant)) (hl : ∀ y ∈ l, s.tenantBusy y.1 = true) : l.foldl (fun s r => if s.tenantBusy r.1 then s else s.drainBegin r.1) s = s := by
    induction l with
    | nil => rfl
    | cons y l ih =>
      rw [List.foldl_cons, if_pos (hl y List.mem_cons_self)]
      exact ih fun z hz => hl z (List.mem_cons_of_mem _ hz)
  refine hfold _ fun y hy => ?_
  obtain ⟨hmem, hstate⟩ := List.mem_filter.1 hy
  simp only [Bool.and_eq_true, beq_iff_eq] at hstate
  exact h y hmem hstate.1

/-- A partition whose job is marked as its tenant closes. -/
def Part.closedFor (p : Part) (t : Nat) : Part := if p.tenant == t then { p with job := p.job.map (fun (j : Job) => { j with closed := true }), leads := [] } else p

theorem Part.closedFor_tenant (p : Part) (t : Nat) : (p.closedFor t).tenant = p.tenant := by
  unfold closedFor
  split <;> rfl

theorem Part.closedFor_job {p : Part} {t : Nat} (h : p.tenant = t) : (p.closedFor t).job = p.job.map fun j => { j with closed := true } := by
  unfold closedFor
  rw [if_pos (by simp [h])]

theorem State.tenantClosed_parts (s : State) (t : Nat) : (s.tenantClosed t).parts = s.parts.mapVals fun _ p => p.closedFor t := by
  unfold tenantClosed
  dsimp only
  rw [State.updTenant_parts]
  rfl

theorem State.tenantClosed_mason (s : State) (t : Nat) : (s.tenantClosed t).mason = s.mason := State.updTenant_mason ..

theorem State.tenantClosed_mem (s : State) (t : Nat) : (s.tenantClosed t).mem = s.mem := State.updTenant_mem ..

theorem State.tenantClosed_tenants {s : State} {t : Nat} {w : Tenant} (h : s.sec.tenants.find? t = some w) :
    (s.tenantClosed t).sec.tenants = s.sec.tenants.set t { w with state := 2, step := 2, startAt := s.now } := by
  have hupd : (s.updTenant t fun r => { r with state := 2, step := 2, startAt := s.now }).sec.tenants = s.sec.tenants.set t { w with state := 2, step := 2, startAt := s.now } := by
    unfold updTenant
    rw [h]
  exact hupd

theorem Tbl.mem_mapVals {α : Type} {t : Tbl α} {f : Nat → α → α} {q : Nat × α} : q ∈ Tbl.mapVals t f ↔ ∃ y ∈ t, (y.1, f y.1 y.2) = q := by
  unfold Tbl.mapVals
  exact List.mem_map

section
variable {s : State} {t : Nat} {w : Tenant} (hw : s.sec.tenants.find? t = some w) (hothers : ∀ y ∈ s.sec.tenants, y.1 ≠ t → y.2.state ≠ 2)
  (hpart : ∃ y ∈ s.parts, y.2.tenant = t) (hjobs : ∀ y ∈ s.parts, y.2.tenant = t → y.2.job.isSome = true) (hops : ∀ o ∈ s.mason.ops, ∀ n, o.kind ≠ .vidFlush n)
include hw hothers hpart hjobs hops

/-- Every job of the tenant runs still: the removal waits in step 2. -/
theorem State.closeTenant_waits : (s.closeTenant t).landDue = (s.tenantClosed t).queuesEnded t := by
  have hops' : ∀ o ∈ (s.tenantClosed t).mason.ops, ∀ n, o.kind ≠ .vidFlush n := by
    rw [State.tenantClosed_mason]
    exact hops
  have hparts : ((s.tenantClosed t).queuesEnded t).parts = s.parts.mapVals fun _ p => p.closedFor t :=
    (State.queuesEnded_keeps State.parts State.updCtx_parts (fun _ _ => rfl) (fun _ _ _ _ _ => rfl) t hops').trans (s.tenantClosed_parts t)
  have htenants : ((s.tenantClosed t).queuesEnded t).sec.tenants = s.sec.tenants.set t { w with state := 2, step := 2, startAt := s.now } :=
    (State.queuesEnded_keeps (fun u => u.sec.tenants) (fun u n f => by simp) (fun _ _ => rfl) (fun _ _ _ _ _ => rfl) t hops').trans (State.tenantClosed_tenants hw)
  have hrun : ∀ y ∈ ((s.tenantClosed t).queuesEnded t).parts, y.2.tenant = t → y.2.job.isSome = true := by
    rw [hparts]
    intro y hy htenant
    obtain ⟨z, hz, rfl⟩ := Tbl.mem_mapVals.1 hy
    have hmine : z.2.tenant = t := (z.2.closedFor_tenant t).symm.trans htenant
    dsimp only
    rw [Part.closedFor_job hmine, Option.isSome_map]
    exact hjobs z hz hmine
  have hbusy : ((s.tenantClosed t).queuesEnded t).tenantBusy t = true := by
    obtain ⟨z, hz, hmine⟩ := hpart
    have hclosed : (z.1, z.2.closedFor t) ∈ ((s.tenantClosed t).queuesEnded t).parts := by
      rw [hparts]
      exact Tbl.mem_mapVals.2 ⟨z, hz, rfl⟩
    have hjob := hrun _ hclosed ((z.2.closedFor_tenant t).trans hmine)
    have hany : ((s.tenantClosed t).queuesEnded t).parts.any (fun p => p.2.ofTenant t && p.2.job.isSome) = true := by
      refine List.any_eq_true.2 ⟨_, hclosed, ?_⟩
      simp only [Part.ofTenant, Part.closedFor_tenant, hmine, beq_self_eq_true, Bool.true_and]
      exact hjob
    unfold tenantBusy
    rw [hany]
    rfl
  rw [State.closeTenant_eq, State.endIdleJobs_none hrun]
  refine State.landDue_busy fun y hy hstate => ?_
  rw [htenants] at hy
  rcases mem_of_mem_set hy with rfl | hy
  · exact hbusy
  · by_cases hmine : y.1 = t
    · rw [hmine]
      exact hbusy
    · exact absurd hstate (hothers y hy hmine)

/-- The state in which the removal waits. -/
theorem State.closeTenant_spec : (s.closeTenant t).landDue.sec.tenants.find? t = some { w with state := 2, step := 2, startAt := s.now } ∧
    (s.closeTenant t).landDue.mason = s.mason ∧ (s.closeTenant t).landDue.mem.frames = s.mem.frames ∧
    ∀ n p j, s.part? n = some p → p.tenant = t → p.job = some j → ∃ q, (s.closeTenant t).landDue.part? n = some q ∧ q.job = some { j with closed := true } := by
  have hops' : ∀ o ∈ (s.tenantClosed t).mason.ops, ∀ n, o.kind ≠ .vidFlush n := by
    rw [State.tenantClosed_mason]
    exact hops
  have htenants : ((s.tenantClosed t).queuesEnded t).sec.tenants = s.sec.tenants.set t { w with state := 2, step := 2, startAt := s.now } :=
    (State.queuesEnded_keeps (fun u => u.sec.tenants) (fun u n f => by simp) (fun _ _ => rfl) (fun _ _ _ _ _ => rfl) t hops').trans (State.tenantClosed_tenants hw)
  have hparts : ((s.tenantClosed t).queuesEnded t).parts = s.parts.mapVals fun _ p => p.closedFor t :=
    (State.queuesEnded_keeps State.parts State.updCtx_parts (fun _ _ => rfl) (fun _ _ _ _ _ => rfl) t hops').trans (s.tenantClosed_parts t)
  have hmason : ((s.tenantClosed t).queuesEnded t).mason = s.mason :=
    (State.queuesEnded_keeps State.mason State.updCtx_mason (fun _ _ => rfl) (fun _ _ _ _ _ => rfl) t hops').trans (s.tenantClosed_mason t)
  have hframes : ((s.tenantClosed t).queuesEnded t).mem.frames = s.mem.frames :=
    (State.queuesEnded_keeps (fun u => u.mem.frames) (fun u n f => by simp) (fun _ _ => rfl) (fun _ _ _ _ _ => rfl) t hops').trans (congrArg MemSys.frames (s.tenantClosed_mem t))
  rw [State.closeTenant_waits hw hothers hpart hjobs hops]
  refine ⟨by rw [htenants, Tbl.find?_set_self], hmason, hframes, fun n p j hn hmine hj => ⟨p.closedFor t, ?_, ?_⟩⟩
  · have hn' : s.parts.find? n = some p := hn
    rw [part?, hparts, Tbl.find?_mapVals, hn']
    rfl
  · rw [Part.closedFor_job hmine, hj]
    rfl

end

section
variable {s : State} {q : Req}

theorem State.tenantRemove_badArg (h : 63 < q.u8 0 ∨ s.tenantOpen (q.u8 0) = false) : s.tenantRemove q = (s, failR St.badArg) :=
  if_pos (by simpa using h)

theorem State.tenantRemove_closes (ht : q.u8 0 ≤ 63) (ho : s.tenantOpen (q.u8 0) = true) :
    s.tenantRemove q = (((s.accept q (.tenantRemove (q.u8 0))).1.closeTenant (q.u8 0)).landDue, (s.accept q (.tenantRemove (q.u8 0))).2) :=
  if_neg (by simpa [ho] using ht)

/-- What an accepted removal leaves while the tenant's jobs run. -/
theorem State.tenantRemove_waits {w : Tenant} (ht : q.u8 0 ≤ 63) (ho : s.tenantOpen (q.u8 0) = true) (hw : s.sec.tenants.find? (q.u8 0) = some w)
    (hop : s.mason.lastOp + 1 < 2 ^ 32) (hothers : ∀ y ∈ s.sec.tenants, y.1 ≠ q.u8 0 → y.2.state ≠ 2) (hpart : ∃ y ∈ s.parts, y.2.tenant = q.u8 0)
    (hjobs : ∀ y ∈ s.parts, y.2.tenant = q.u8 0 → y.2.job.isSome = true) (hops : ∀ o ∈ s.mason.ops, ∀ n, o.kind ≠ .vidFlush n) :
    ∃ u : State, s.tenantRemove q = (u, { status := St.accepted, arg := s.mason.lastOp + 1 }) ∧
      u.sec.tenants.find? (q.u8 0) = some { w with state := 2, step := 2, startAt := s.now } ∧
      u.mason.ops = s.mason.ops ++ [⟨s.mason.lastOp + 1, q.mb, q.code, q.tag, .tenantRemove (q.u8 0)⟩] ∧ u.mem.frames = s.mem.frames ∧
      ∀ n p j, s.part? n = some p → p.tenant = q.u8 0 → p.job = some j → ∃ r, u.part? n = some r ∧ r.job = some { j with closed := true } := by
  have hops' : ∀ o ∈ (s.withOp q (.tenantRemove (q.u8 0))).mason.ops, ∀ n, o.kind ≠ .vidFlush n := by
    intro o ho n
    rcases List.mem_append.1 ho with hold | hnew
    · exact hops o hold n
    · rw [List.mem_singleton.1 hnew]
      exact OpKind.noConfusion
  obtain ⟨htenant, hmason, hframes, hclosed⟩ := State.closeTenant_spec (s := s.withOp q (.tenantRemove (q.u8 0))) hw hothers hpart hjobs hops'
  rw [State.tenantRemove_closes ht ho, State.accept_withOp hop]
  dsimp only
  generalize ((s.withOp q (.tenantRemove (q.u8 0))).closeTenant (q.u8 0)).landDue = u at htenant hmason hframes hclosed
  exact ⟨u, rfl, htenant, congrArg Mason.ops hmason, hframes, hclosed⟩

end

/-! ## The scrub (R299, R307) -/

theorem memRead_unlisted {m : Memory} {k : Nat} (h : ∀ c ∈ m, c.1 ≠ k) : memRead m k = 0 := by
  induction m with
  | nil => rfl
  | cons c t ih =>
    have hne : c.1 ≠ k := h c List.mem_cons_self
    unfold memRead
    rw [if_neg hne]
    split
    · rfl
    · exact ih fun d hd => h d (List.mem_cons_of_mem _ hd)

/-- After frames are cleared, none of their bytes is listed. -/
theorem foldl_memClear_lists {β : Type} {g : β → Nat} {n : Nat} {l : List β} : ∀ {m : Memory} {c : Nat × Byte}, c ∈ l.foldl (fun m x => memClear m (g x) n) m →
    c ∈ m ∧ ∀ x ∈ l, ¬ (g x ≤ c.1 ∧ c.1 < g x + n) := by
  induction l with
  | nil =>
    intro m c h
    exact ⟨h, fun _ hx => nomatch hx⟩
  | cons y l ih =>
    intro m c h
    obtain ⟨hmem, hrest⟩ := ih h
    obtain ⟨hm, hout⟩ := List.mem_filter.1 hmem
    refine ⟨hm, fun x hx => ?_⟩
    rcases List.mem_cons.1 hx with rfl | hx
    · simp only [Bool.or_eq_true, decide_eq_true_eq] at hout
      omega
    · exact hrest x hx

/-- The frames are zeroed and free, and the slot is released. -/
def State.framesZeroed (s : State) (t : Nat) : State :=
  { s with
    mem.hbm := (s.framesOf t).foldl (fun m p => memClear m (p.2 * 2 ^ 21) (2 ^ 21)) s.mem.hbm
    mem.frames := s.mem.frames.filter fun p => p.1 / 2 ^ 28 != t
    mem.kvFrames := s.mem.kvFrames.filter fun p => p.1 != t
    sec.tenants := s.sec.tenants.del t }

theorem State.framesZeroed_framesOf (s : State) (t : Nat) : (s.framesZeroed t).framesOf t = [] := by
  refine List.filter_eq_nil_iff.2 fun p hp => ?_
  have hout : (p.1 / 2 ^ 28 != t) = true := (List.mem_filter.1 hp).2
  simpa using hout

theorem State.framesZeroed_read {s : State} {t a : Nat} {f : Nat × Nat} (hf : f ∈ s.framesOf t) (hlo : f.2 * 2 ^ 21 ≤ a) (hhi : a < (f.2 + 1) * 2 ^ 21) :
    memRead (s.framesZeroed t).mem.hbm a = 0 := by
  refine memRead_unlisted fun c hc heq => ?_
  obtain ⟨-, hout⟩ := foldl_memClear_lists hc
  exact hout f hf ⟨by omega, by omega⟩

theorem exec_tenantScrubDone_ends {s : State} {n : Nat} {w : Tenant} (hw : s.sec.tenants.find? n = some w) (hstate : w.state = 2) (hstep : w.step = 5) (hup : s.up = true)
    (hm : s.mason.paused = false) (hh : s.power.hold = false) (hq : s.therm.quench = false) (hp : ∀ p, (s.pier p).resetting = false) : exec (.tenantScrubDone n) s =
      .next (((s.framesZeroed n).post 0x0B02 9 n (leBytes 4 w.scrubMib ++ leBytes 8 (40 * (s.now - w.startAt)))).finishOps
        (fun k => match k with | .tenantRemove k => k == n | _ => false) 0x00) := by
  have hx : exec (.tenantScrubDone n) s = execTenantScrubDone n s := rfl
  have hpiers : ((s.framesOf n).all fun p => !(s.pier (p.2 / pierFrames)).resetting) = true := List.all_eq_true.2 fun p _ => by rw [hp]; rfl
  rw [hx, execTenantScrubDone, hw]
  exact congrArg Host.Outcome.next (if_pos (by rw [hup, hstate, hstep, hm, hh, hq, hpiers]; rfl))

/-! ## SEC_TENANT_QUERY, SEC_QUOTA (R298, R300) -/

section
variable {s : State} {q : Req}

theorem State.tenantQuery_badArg (h : 63 < q.vf.getD (q.u8 0)) : s.tenantQuery q = (s, failR St.badArg) := if_pos h

theorem State.tenantQuery_open {n : Nat} {w : Tenant} (hn : n = q.vf.getD (q.u8 0)) (h63 : n ≤ 63) (hw : s.sec.tenants.find? n = some w) (hstate : w.state = 1) :
    s.tenantQuery q = (s, okR (leBytes 1 1 ++ leBytes 1 0 ++ leBytes 1 (s.keyGen n) ++ [0] ++ leBytes 2 w.quotaGib ++ [0, 0] ++ leBytes 4 (2 * (s.framesOf n).length) ++
      leBytes 2 (s.ctxs.filter fun c => c.2.tenant == n).length ++ leBytes 1 (s.parts.filter fun p => p.2.tenant == n).length ++
      leBytes 1 (min 255 (s.plans.filter fun p => p.2.tenant == n).length))) := by
  subst hn
  unfold tenantQuery
  dsimp only
  rw [if_neg (by omega), hw, Option.map_some, Option.getD_some, Option.map_some, Option.getD_some, hstate]
  rfl

theorem State.secQuota_badArg (h : 63 < q.u8 0 ∨ s.tenantOpen (q.u8 0) = false ∨ q.u16 2 = 0 ∨ 287 < q.u16 2) : s.secQuota q = (s, failR St.badArg) :=
  if_pos (by simpa only [Bool.or_eq_true, Bool.not_eq_true', decide_eq_true_eq, beq_iff_eq, or_assoc, show poolGib = 287 from rfl] using h)

variable (ht : q.u8 0 ≤ 63) (ho : s.tenantOpen (q.u8 0) = true) (h0 : 0 < q.u16 2) (h287 : q.u16 2 ≤ 287)
include ht ho h0 h287

theorem State.secQuota_open : s.secQuota q =
    if 287 < s.quotaOthers (q.u8 0) + q.u16 2 then (s, failR St.noResource)
    else if 1024 * q.u16 2 < 2 * (s.framesOf (q.u8 0)).length then (s, failR St.refused 3)
    else (s.updTenant (q.u8 0) fun r => { r with quotaGib := q.u16 2 }, okR []) :=
  by
  have hargs : ¬ (decide (63 < q.u8 0) || !s.tenantOpen (q.u8 0) || q.u16 2 == 0 || decide (poolGib < q.u16 2)) = true := by
    simp only [ho, Bool.not_true, Bool.or_false, Bool.or_eq_true, decide_eq_true_eq, beq_iff_eq, show poolGib = 287 from rfl]
    omega
  exact if_neg hargs

end

theorem State.updTenant_some {s : State} {t : Nat} {w : Tenant} (f : Tenant → Tenant) (h : s.sec.tenants.find? t = some w) :
    s.updTenant t f = { s with sec.tenants := s.sec.tenants.set t (f w) } := by
  unfold updTenant
  rw [h]

end Sys2Proof.Machine
end

section
/-! The proof of O55. -/

namespace Sys2Proof.Machine

/-- Settles O55: the checks come in the order of R351, a removal marks the jobs that run and waits for them, and the scrub lists no byte of the tenant's frames. -/
theorem tenantsOpenAndAreRemoved : Obligations.TenantsOpenAndAreRemoved := by
  unfold Obligations.TenantsOpenAndAreRemoved
  refine ⟨?create, ?remove, ?scrub, ?query, ?quota⟩
  case create =>
    intro s m r h hl h1 h6
    rw [exec_secTenantCreate h hl h1 h6]
    refine ⟨fun hbad => ?_, fun ht h0 h287 hnone => ⟨fun hpool => ?_, fun hpool hother hsingle => ?_, fun hpool hmay hlife => ?_⟩⟩
    · rw [State.tenantCreate_badArg hbad]
      rfl
    · rw [State.tenantCreate_noResource (s := s.taken m) ht h0 h287 hnone hpool]
      rfl
    · rw [State.tenantCreate_refused (s := s.taken m) ht h0 h287 hnone hpool hother hsingle]
      rfl
    · rw [State.tenantCreate_opens (s := s.taken m) ht h0 h287 hnone hpool hmay hlife]
      refine ⟨_, rfl, ?_, fun k hk => ?_, fun k hk => ?_, ?_, ?_, ?_, ?_⟩
      · rw [State.post_sec]
        exact State.tenantOpened_tenant ..
      · rw [State.post_sec]
        exact State.tenantOpened_tenant_ne _ _ hk
      · rw [State.post_host_slotBind]
        exact State.tenantOpened_slots _ _ _ _ hk
      · apply State.eventPosted_queue
        · rfl
        · rfl
      · rw [State.post_ctxs]
        rfl
      · rw [State.post_parts]
        rfl
      · rw [State.post_mem]
        rfl
  case remove =>
    intro s m r h hl hz
    rw [exec_secTenantRemove h hl hz]
    refine ⟨fun hbad => ?_, fun w ht ho hw hop hothers hpart hjobs hops => ?_⟩
    · rw [State.tenantRemove_badArg (s := s.taken m) hbad]
      rfl
    · obtain ⟨u, heq, htenant, hnoted, hframes, hclosed⟩ := State.tenantRemove_waits (s := s.taken m) ht ho hw hop hothers hpart hjobs hops
      rw [heq]
      exact ⟨u, rfl, htenant, hnoted, hclosed, hframes⟩
  case scrub =>
    intro s n w hw hstate hstep hup hm hh hq hp
    refine ⟨_, exec_tenantScrubDone_ends hw hstate hstep hup hm hh hq hp, ?_, fun k hk => ?_, ?_, fun f hf a hlo hhi => ?_, ?_, ?_, ?_⟩
    · rw [State.post_sec]
      exact Tbl.find?_del_self ..
    · rw [State.post_sec]
      exact Tbl.find?_del_ne _ (Ne.symm hk)
    · rw [State.framesOf, State.post_mem]
      exact s.framesZeroed_framesOf n
    · rw [State.post_mem]
      exact State.framesZeroed_read hf hlo hhi
    · apply State.eventPosted_post
      · rfl
      · rfl
    · rw [State.post_mem]
      rfl
    · rw [State.post_mason]
      rfl
  case query =>
    intro s m r n h hl hz hn
    rw [exec_secTenantQuery h hl hz]
    refine ⟨fun h63 => ?_, fun w h63 hw hstate => ?_⟩
    · rw [State.tenantQuery_badArg (hn ▸ h63)]
      rfl
    · rw [State.tenantQuery_open (s := s.taken m) hn h63 hw hstate]
      rfl
  case quota =>
    intro s m r h hl hz
    rw [exec_secQuota h hl hz]
    refine ⟨fun hbad => ?_, fun w ht ho hw h0 h287 => ?_⟩
    · rw [State.secQuota_badArg (s := s.taken m) hbad]
      rfl
    · rw [State.secQuota_open (s := s.taken m) ht ho h0 h287]
      refine ⟨fun hpool => ?_, fun hpool hfew => ?_, fun hpool hfits => ?_⟩
      · rw [if_pos (show 287 < (s.taken m).quotaOthers (r.u8 0) + r.u16 2 from hpool)]
        rfl
      · rw [if_neg (show ¬ 287 < (s.taken m).quotaOthers (r.u8 0) + r.u16 2 from Nat.not_lt.2 hpool),
          if_pos (show 1024 * r.u16 2 < 2 * ((s.taken m).framesOf (r.u8 0)).length from hfew)]
        rfl
      · rw [if_neg (show ¬ 287 < (s.taken m).quotaOthers (r.u8 0) + r.u16 2 from Nat.not_lt.2 hpool),
          if_neg (show ¬ 1024 * r.u16 2 < 2 * ((s.taken m).framesOf (r.u8 0)).length from Nat.not_lt.2 hfits),
          State.updTenant_some (s := s.taken m) _ hw]
        rfl

end Sys2Proof.Machine
end

section
/-! SUPPORT. Keys, the life cycle, the fabric binding and debug access (R289-R296, R304). -/

namespace Sys2Proof.Machine

section
variable {s : State} {m : Mb} {r : Req}

theorem exec_secKeyRetire (h : s.runs m 0x0B05 false = some r) (hl : r.len = 4) (hz : r.u16 2 = 0) :
    exec (.secKeyRetire m) s = .next (((s.taken m).keyRetire r).1.respond m 0x0B05 r.tag ((s.taken m).keyRetire r).2) :=
  congrArg Host.Outcome.next (State.mbRun_ok (lenIs 4 [(2, 2)]) State.keyRetire h (lenIs_ok hl fun _ hp => List.mem_singleton.1 hp ▸ hz))

theorem exec_secKeyStatus (h : s.runs m 0x0B06 false = some r) (hl : r.len = 0) :
    exec (.secKeyStatus m) s = .next ((s.taken m).respond m 0x0B06 r.tag ((s.taken m).keyStatus r).2) :=
  congrArg Host.Outcome.next (State.mbRun_ok (lenIs 0 []) State.keyStatus h (lenIs_ok hl fun _ hp => nomatch hp))

theorem exec_secLifecycle (h : s.runs m 0x0B07 false = some r) (hl : r.len = 100) (hz : field r.pay 1 3 = 0) :
    exec (.secLifecycle m) s = .next (((s.taken m).lifecycle r).1.respond m 0x0B07 r.tag ((s.taken m).lifecycle r).2) :=
  congrArg Host.Outcome.next (State.mbRun_ok (lenIs 100 [(1, 3)]) State.lifecycle h (lenIs_ok hl fun _ hp => List.mem_singleton.1 hp ▸ hz))

theorem exec_secFabricBind (h : s.runs m 0x0B08 false = some r) (hl : r.len = 8) :
    exec (.secFabricBind m) s = .next (((s.taken m).fabricBind r).1.respond m 0x0B08 r.tag ((s.taken m).fabricBind r).2) :=
  congrArg Host.Outcome.next (State.mbRun_ok (lenIs 8 []) State.fabricBind h (lenIs_ok hl fun _ hp => nomatch hp))

end

/-! ## A setting is burned, and the epoch advances (R304) -/

theorem State.burnCmd_sec (s : State) (a b c d e : Nat) : (s.burnCmd a b c d e).sec = s.sec := by
  unfold burnCmd burnNow
  split <;> rfl

theorem State.bumpEpoch_sec (s : State) (cause : Nat) : (s.bumpEpoch cause).sec = { s.sec with epoch := s.sec.epoch + 1 } := by
  unfold bumpEpoch
  rw [State.post_sec]

/-- A retired key is burned and posted, and the epoch advances. -/
theorem State.retireKey_sec (s : State) (kind i : Nat) : (s.retireKey kind i).1.sec = { s.sec with epoch := s.sec.epoch + 1 } := by
  unfold retireKey
  dsimp only
  rw [State.bumpEpoch_sec, State.post_sec, State.burnCmd_sec]

/-! ## SEC_KEY_RETIRE (R293, R294) -/

section
variable {s : State} {q : Req}

theorem State.keyRetire_badArg (h : 1 < q.u8 0 ∨ (q.u8 0 = 0 ∧ 63 < q.u8 1) ∨ (q.u8 0 = 1 ∧ 3 < q.u8 1)) : s.keyRetire q = (s, failR St.badArg) :=
  if_pos (by simpa [or_assoc] using h)

theorem State.keyRetire_slot (h0 : q.u8 0 = 0) (h63 : q.u8 1 ≤ 63) : s.keyRetire q =
    if s.sec.tenants.has (q.u8 1) then (s, failR St.refused 1)
    else if s.sec.slotB.contains (q.u8 1) then (s, failR St.refused 2)
    else { s with sec.slotB := insertNat s.sec.slotB (q.u8 1) }.retireKey 0 (q.u8 1) :=
  (if_neg (by simp [h0, h63])).trans (if_pos (by simp [h0]))

theorem State.keyRetire_fabric (h1 : q.u8 0 = 1) (h3 : q.u8 1 ≤ 3) : s.keyRetire q =
    if s.sec.fabRetired.contains (q.u8 1) then (s, failR St.refused 2)
    else { s with sec.fabRetired := insertNat s.sec.fabRetired (q.u8 1) }.retireKey 1 (q.u8 1) :=
  (if_neg (by simp [h1, h3])).trans (if_neg (by simp [h1]))

end

theorem insertNat_has (l : List Nat) (n : Nat) : (insertNat l n).contains n = true := by
  rw [insertNat_contains, beq_self_eq_true, Bool.true_or]

/-! ## SEC_LIFECYCLE (R289, R290) -/

/-- A state one step ahead that is no state, or is no step ahead. -/
theorem lifeForward_stays {src target : Nat} (h : target ≠ src + 1) (h' : ¬ (src = 1 ∧ target = 3)) : lifeForward src target = false := by
  unfold lifeForward
  rw [Bool.or_eq_false_iff]
  exact ⟨by simp [h], by simpa using h'⟩

/-- The state is fused, burned and posted, and the epoch advances. -/
def State.lifeMoved (s : State) (target : Nat) : State :=
  (({ s with sec.lifeFused := target }.burnCmd 0x01 4 0 0 target).post 0x0B04 0 0 (leBytes 1 s.sec.lifeFused ++ leBytes 1 target)).bumpEpoch 2

theorem State.lifeMoved_sec (s : State) (target : Nat) : (s.lifeMoved target).sec = { s.sec with lifeFused := target, epoch := s.sec.epoch + 1 } := by
  unfold lifeMoved
  rw [State.bumpEpoch_sec, State.post_sec, State.burnCmd_sec]

section
variable {s : State} {q : Req}

theorem State.lifecycle_badArg (h : lifeForward s.sec.lifeFused (q.u8 0) = false) : s.lifecycle q = (s, failR St.badArg) :=
  if_pos (by rw [h]; rfl)

variable (h : lifeForward s.sec.lifeFused (q.u8 0) = true) (hzero : q.u8 0 = 2 → allZero (slice q.pay 4 96) = true)
include h hzero

theorem State.lifecycle_refused {d : Nat} (hd : s.lifeRefusal (q.u8 0) (slice q.pay 4 96) = some d) : s.lifecycle q = (s, failR St.refused d) := by
  have hok : ¬ (!lifeForward s.sec.lifeFused (q.u8 0) || (q.u8 0 == 2 && !allZero (slice q.pay 4 96))) = true := by
    simp only [h, Bool.not_true, Bool.false_or, Bool.and_eq_true, beq_iff_eq, Bool.not_eq_true', not_and, Bool.not_eq_false]
    exact hzero
  unfold lifecycle
  dsimp only
  rw [if_neg hok, hd]

theorem State.lifecycle_moves (hd : s.lifeRefusal (q.u8 0) (slice q.pay 4 96) = none) : s.lifecycle q = (s.lifeMoved (q.u8 0), okR []) := by
  have hok : ¬ (!lifeForward s.sec.lifeFused (q.u8 0) || (q.u8 0 == 2 && !allZero (slice q.pay 4 96))) = true := by
    simp only [h, Bool.not_true, Bool.false_or, Bool.and_eq_true, beq_iff_eq, Bool.not_eq_true', not_and, Bool.not_eq_false]
    exact hzero
  unfold lifecycle
  dsimp only
  rw [if_neg hok, hd]
  rfl

end

section
variable {s : State} {auth : List Byte}

theorem State.lifeRefusal_integration (h : Config.sigOk 2 (s.authDigest none) auth = false) : s.lifeRefusal 1 auth = some 1 :=
  (if_pos rfl).trans (if_neg (by rw [h]; exact Bool.false_ne_true))

theorem State.lifeRefusal_field_unbound (h : s.sec.fabBound = false) : s.lifeRefusal 2 auth = some 2 :=
  (if_neg (by decide)).trans ((if_pos rfl).trans (if_neg (by simp [h])))

theorem State.lifeRefusal_field_none (hb : s.sec.fabBound = true) (hp : s.fw.stored.isSome = true) (ht : ∀ y ∈ s.sec.tenants, y.2.state ≠ 1) : s.lifeRefusal 2 auth = none := by
  have hopen : (s.sec.tenants.any fun r => r.2.state == 1) = false := List.any_eq_false.2 fun y hy => by simpa using ht y hy
  exact (if_neg (by decide)).trans ((if_pos rfl).trans (if_pos (by rw [hb, hp, hopen]; rfl)))

theorem State.lifeRefusal_rma (h : Config.sigOk 3 (s.authDigest (some 3)) auth = true) : s.lifeRefusal 3 auth = if s.sec.tenants.isEmpty then none else some 3 := by
  unfold lifeRefusal
  rw [if_neg (by decide), if_neg (by decide), if_neg (by rw [h]; decide)]
  cases s.sec.tenants <;> rfl

end

theorem lifeForward_rma {src : Nat} (h : src = 1 ∨ src = 2) : lifeForward src 3 = true := by
  rcases h with rfl | rfl <;> rfl

/-! ## SEC_FABRIC_BIND (R295) and debug access (R291) -/

section
variable {s : State} {q : Req}

theorem State.fabricBind_refused (h : s.sec.life ≠ 1 ∨ s.sec.fabBound = true) : s.fabricBind q = (s, failR St.refused 1) :=
  if_pos (by simpa using h)

variable (hl : s.sec.life = 1) (hb : s.sec.fabBound = false)
include hl hb

theorem State.fabricBind_order (h : q.u64 0 ≠ s.sec.order) : s.fabricBind q = (s, failR St.refused 2) :=
  (if_neg (by simp [hl, hb])).trans (if_pos (by simp [h]))

theorem State.fabricBind_binds {p : Profile} (h : q.u64 0 = s.sec.order) (hp : s.fw.stored = some p) (ho : p.order = q.u64 0) :
    s.fabricBind q = ({ s with sec.fabBound := true }.burnCmd 0x0B 2 0 0 0, okR []) :=
  (if_neg (by simp [hl, hb])).trans (if_neg (by simp [hp, ho, ← h]))

end

theorem debugOpen_iff (life : Nat) (way : DebugPath) : debugOpen life way = true ↔ life = 0 ∨ life = 3 := by
  simp [debugOpen]

theorem debugOpen_shut {life : Nat} (way : DebugPath) (h0 : life ≠ 0) (h3 : life ≠ 3) : debugOpen life way = false := by
  simp [debugOpen, h0, h3]

end Sys2Proof.Machine
end

section
/-! The proof of O56. -/

namespace Sys2Proof.Machine

/-- Settles O56: each command burns at most one setting after its refusals in order, and debug access is read from the life state. -/
theorem keysAndLifeCycleGoForward : Obligations.KeysAndLifeCycleGoForward := by
  unfold Obligations.KeysAndLifeCycleGoForward
  refine ⟨?retire, ?status, ?life, ?bind, ?debug⟩
  case retire =>
    intro s m r h hl hz
    rw [exec_secKeyRetire h hl hz]
    refine ⟨fun hbad => ?_, fun h0 h63 => ?_, fun h1 h3 => ?_⟩
    · rw [State.keyRetire_badArg hbad]
      rfl
    · rw [State.keyRetire_slot (s := s.taken m) h0 h63]
      refine ⟨fun hheld => ?_, fun hfree hdone => ?_, fun hfree hnew => ?_⟩
      · rw [if_pos (show (s.taken m).sec.tenants.has (r.u8 1) = true from hheld)]
        rfl
      · rw [if_neg (show ¬ (s.taken m).sec.tenants.has (r.u8 1) = true by simpa using hfree), if_pos (show (s.taken m).sec.slotB.contains (r.u8 1) = true from hdone)]
        rfl
      · rw [if_neg (show ¬ (s.taken m).sec.tenants.has (r.u8 1) = true by simpa using hfree), if_neg (show ¬ (s.taken m).sec.slotB.contains (r.u8 1) = true by simpa using hnew)]
        refine ⟨_, rfl, ?_⟩
        rw [State.retireKey_sec]
        exact ⟨insertNat_has .., rfl, rfl, rfl⟩
    · rw [State.keyRetire_fabric (s := s.taken m) h1 h3]
      refine ⟨fun hdone => ?_, fun hnew => ?_⟩
      · rw [if_pos (show (s.taken m).sec.fabRetired.contains (r.u8 1) = true from hdone)]
        rfl
      · rw [if_neg (show ¬ (s.taken m).sec.fabRetired.contains (r.u8 1) = true by simpa using hnew)]
        refine ⟨_, rfl, ?_⟩
        rw [State.retireKey_sec]
        exact ⟨insertNat_has .., rfl, rfl⟩
  case status =>
    intro s m r h hl
    rw [exec_secKeyStatus h hl]
    exact ⟨leBytes 16 (s.taken m).slotGens, leBytes_length .., rfl⟩
  case life =>
    intro s m r h hl hz
    rw [exec_secLifecycle h hl hz]
    refine ⟨fun hno hnot => ?_, fun hfrom hto hsig => ?_, fun hfrom hto hzero => ⟨fun hb => ?_, fun hb hp ht => ?_⟩, fun hmove hsig => ?_⟩
    · rw [State.lifecycle_badArg (s := s.taken m) (lifeForward_stays hno hnot)]
      rfl
    · have hforward : lifeForward (s.taken m).sec.lifeFused (r.u8 0) = true := by
        rw [hto, show (s.taken m).sec.lifeFused = 0 from hfrom]
        rfl
      have hrefusal : (s.taken m).lifeRefusal (r.u8 0) (slice r.pay 4 96) = some 1 := by
        rw [hto]
        exact State.lifeRefusal_integration hsig
      rw [State.lifecycle_refused hforward (fun h2 => absurd h2 (by omega)) hrefusal]
      rfl
    · have hforward : lifeForward (s.taken m).sec.lifeFused (r.u8 0) = true := by
        rw [hto, show (s.taken m).sec.lifeFused = 1 from hfrom]
        rfl
      have hrefusal : (s.taken m).lifeRefusal (r.u8 0) (slice r.pay 4 96) = some 2 := by
        rw [hto]
        exact State.lifeRefusal_field_unbound hb
      rw [State.lifecycle_refused hforward (fun _ => hzero) hrefusal]
      rfl
    · have hforward : lifeForward (s.taken m).sec.lifeFused (r.u8 0) = true := by
        rw [hto, show (s.taken m).sec.lifeFused = 1 from hfrom]
        rfl
      have hrefusal : (s.taken m).lifeRefusal (r.u8 0) (slice r.pay 4 96) = none := by
        rw [hto]
        exact State.lifeRefusal_field_none hb hp ht
      rw [State.lifecycle_moves hforward (fun _ => hzero) hrefusal]
      refine ⟨_, rfl, ?_⟩
      rw [State.lifeMoved_sec]
      exact ⟨hto, rfl, rfl, rfl⟩
    · obtain ⟨hto, hfrom⟩ := hmove
      have hforward : lifeForward (s.taken m).sec.lifeFused (r.u8 0) = true := by
        rw [hto]
        exact lifeForward_rma hfrom
      have hrefusal : (s.taken m).lifeRefusal (r.u8 0) (slice r.pay 4 96) = if s.sec.tenants.isEmpty then none else some 3 := by
        rw [hto]
        exact State.lifeRefusal_rma hsig
      refine ⟨fun htenants => ?_, fun htenants => ?_⟩
      · rw [if_neg (by simpa using htenants)] at hrefusal
        rw [State.lifecycle_refused hforward (fun h2 => absurd h2 (by omega)) hrefusal]
        rfl
      · rw [if_pos (by simp [htenants])] at hrefusal
        rw [State.lifecycle_moves hforward (fun h2 => absurd h2 (by omega)) hrefusal]
        refine ⟨_, rfl, ?_⟩
        rw [State.lifeMoved_sec]
        exact ⟨hto, rfl, rfl⟩
  case bind =>
    intro s m r h hl
    rw [exec_secFabricBind h hl]
    refine ⟨fun hno => ?_, fun hlife hb => ⟨fun horder => ?_, fun p horder hp ho => ?_⟩⟩
    · rw [State.fabricBind_refused (s := s.taken m) hno]
      rfl
    · rw [State.fabricBind_order (s := s.taken m) hlife hb horder]
      rfl
    · rw [State.fabricBind_binds (s := s.taken m) hlife hb horder hp ho]
      refine ⟨_, rfl, ?_⟩
      rw [State.burnCmd_sec]
      exact ⟨rfl, rfl, rfl⟩
  case debug =>
    intro s way isKey bytes a
    refine ⟨debugOpen_iff .., fun h0 h3 => ⟨if_pos ?_, if_pos ?_⟩, fun h3 => ?_, fun h0 => ⟨?_, ?_⟩⟩
    · rw [debugOpen_shut _ h0 h3]
      rfl
    · rw [debugOpen_shut _ h0 h3]
      rfl
    · simp [State.debugFuse, debugOpen, h3]
    · simp [State.debugFuse, debugOpen, h0]
    · simp [State.debugHbm, debugOpen, h0]

end Sys2Proof.Machine
end

section
/-! SUPPORT. Attestation: the report, and SPDM over DOE (R302-R306). -/

namespace Sys2Proof.Machine

/-! ## The report (R306) -/

/-- Padding leaves what stands in front. -/
theorem padTo_append {n : Nat} {a : List Byte} (b : List Byte) (h : a.length ≤ n) : padTo n (a ++ b) = a ++ padTo (n - a.length) b := by
  unfold padTo slice
  simp only [List.drop_zero, List.take_append, List.take_of_length_le h, List.length_append, List.append_assoc, Nat.sub_add_eq]

/-- Magic, layout version and length. -/
def State.reportHead (s : State) (vf : Option Nat) : List Byte :=
  let blocks := s.mBlocks ++ match vf with | some t => [mBlock 0x30 0 0 (leBytes 1 t ++ leBytes 1 (s.keyGen t))] | none => []
  [0x41, 0x4D, 0x5A, 0x41] ++ leBytes 2 1 ++ leBytes 2 (0x40 + 64 * blocks.length + 96)

theorem State.reportHead_length (s : State) (vf : Option Nat) : (s.reportHead vf).length = 8 := by
  simp [reportHead]

theorem State.reportHead_magic (s : State) (vf : Option Nat) (b : List Byte) : (s.reportHead vf ++ b).take 6 = [0x41, 0x4D, 0x5A, 0x41, 1, 0] := rfl

/-- Epoch, time and serial number. -/
def State.reportOf (s : State) : List Byte := leBytes 8 s.sec.epoch ++ leBytes 8 s.now ++ leBytes 8 s.sec.serial

theorem State.reportOf_length (s : State) : s.reportOf.length = 24 := by
  simp [reportOf]

theorem State.report_eq (s : State) (nonce : List Byte) (vf : Option Nat) : ∃ rest, s.report nonce vf = s.reportHead vf ++ (s.reportOf ++ rest) := by
  have hbody : ∃ tail, s.reportBody nonce vf = s.reportHead vf ++ (s.reportOf ++ tail) := by
    unfold reportBody reportHead reportOf
    simp only [List.append_assoc]
    exact ⟨_, rfl⟩
  obtain ⟨tail, htail⟩ := hbody
  have hhead : (s.reportHead vf).length ≤ 4096 := by
    rw [State.reportHead_length]
    decide
  have hof : s.reportOf.length ≤ 4096 - (s.reportHead vf).length := by
    rw [State.reportOf_length, State.reportHead_length]
    decide
  unfold report
  dsimp only
  rw [htail, List.append_assoc, List.append_assoc, padTo_append _ hhead, padTo_append _ hof]
  exact ⟨_, rfl⟩

/-- What a report says in front of its blocks. -/
theorem State.report_spec (s : State) (nonce : List Byte) (vf : Option Nat) : (s.report nonce vf).length = 4096 ∧
    (s.report nonce vf).take 6 = [0x41, 0x4D, 0x5A, 0x41, 1, 0] ∧ slice (s.report nonce vf) 8 24 = s.reportOf := by
  obtain ⟨rest, hrep⟩ := s.report_eq nonce vf
  refine ⟨padTo_length .., ?_, ?_⟩
  · rw [hrep]
    exact s.reportHead_magic ..
  · have hmid := slice_append_mid (s.reportHead vf) s.reportOf rest (o := 0) (n := 24) (by rw [State.reportOf_length])
    rw [State.reportHead_length] at hmid
    have hwhole := slice_length_self s.reportOf
    rw [State.reportOf_length] at hwhole
    rw [hrep]
    exact hmid.trans hwhole

section
variable {s : State} {m : Mb} {r : Req}

theorem exec_secAttest (h : s.runs m 0x0B09 true = some r) (hl : r.len = 40) :
    exec (.secAttest m) s = .next (((s.taken m).secAttest r).1.respond m 0x0B09 r.tag ((s.taken m).secAttest r).2) :=
  congrArg Host.Outcome.next (State.mbRun_ok (lenIs 40 []) State.secAttest h (lenIs_ok hl fun _ hp => nomatch hp))

end

section
variable {s : State} {q : Req}

theorem State.secAttest_badArg (h : q.u64 32 % 4096 ≠ 0) : s.secAttest q = (s, failR St.badArg) := if_pos (by simpa using h)

theorem State.secAttest_refused (h : q.u64 32 % 4096 = 0) (hl : 3 ≤ s.sec.life) : s.secAttest q = (s, failR St.refused 4) :=
  (if_neg (by simp [h])).trans (if_pos hl)

theorem State.secAttest_accepted (h : q.u64 32 % 4096 = 0) (hl : s.sec.life < 3) :
    s.secAttest q = s.accept q (.attest (q.u64 32) q.vf (slice q.pay 0 32) (s.report (slice q.pay 0 32) q.vf)) :=
  (if_neg (by simp [h])).trans (if_neg (by omega))

end

theorem exec_attestReportLanded_lands {s : State} {op addr : Nat} {v : Option Nat} {nonce rep : List Byte}
    (ho : (s.op? op).map PendingOp.kind = some (.attest addr v nonce rep)) (hup : s.up = true) (hh : s.power.hold = false) :
    exec (.attestReportLanded op) s = .next ((s.hostWriteN addr rep).finishOp op St.ok) := by
  have hx : exec (.attestReportLanded op) s = execAttestReportLanded op s := rfl
  rw [hx, execAttestReportLanded, ho]
  exact congrArg Host.Outcome.next (if_pos (by rw [hup, hh]; rfl))

/-! ## SPDM requests (R302, R305) -/

section
variable {s : State} {need : Nat} {body : State → State} (hup : s.up = true) (hlink : s.host.linkUp = true)
include hup hlink

theorem State.spdmRun_paused (hm : s.mason.paused = true) : s.spdmRun need body = { s with sec.doe := [0x12, 0x7F, 3, 0] } :=
  (if_neg (by simp [hup, State.fnThere, hlink])).trans (if_pos hm)

variable (hm : s.mason.paused = false)
include hm

theorem State.spdmRun_early (hn : s.sec.spdm < need) : s.spdmRun need body = { s with sec.doe := [0x12, 0x7F, 4, 0] } :=
  (if_neg (by simp [hup, State.fnThere, hlink])).trans ((if_neg (by rw [hm]; exact Bool.false_ne_true)).trans (if_pos hn))

theorem State.spdmRun_ok (hn : need ≤ s.sec.spdm) : s.spdmRun need body = body s :=
  (if_neg (by simp [hup, State.fnThere, hlink])).trans ((if_neg (by rw [hm]; exact Bool.false_ne_true)).trans (if_neg (by omega)))

end

/-- The seven requests, each by the negotiation that it needs. -/
theorem exec_spdm_run {c : Instr} {r : SpdmReq} (s : State)
    (hc : c ∈ [.getVersion r, .getCapabilities r, .negotiateAlgorithms r, .getDigests r, .getCertificate r, .challenge r, .getMeasurements r]) :
    ∃ need body, exec c s = .next (s.spdmRun need body) ∧ (c ≠ .getVersion r → 1 ≤ need) ∧
      (c ∈ [.getDigests r, .getCertificate r, .challenge r, .getMeasurements r] → need = 3) := by
  simp only [List.mem_cons, List.not_mem_nil, or_false] at hc
  rcases hc with rfl | rfl | rfl | rfl | rfl | rfl | rfl
  · exact ⟨0, _, rfl, fun h => absurd rfl h, fun h => by simp at h⟩
  · exact ⟨1, _, rfl, fun _ => by decide, fun h => by simp at h⟩
  · exact ⟨2, _, rfl, fun _ => by decide, fun h => by simp at h⟩
  · exact ⟨3, _, rfl, fun _ => by decide, fun _ => rfl⟩
  · exact ⟨3, _, rfl, fun _ => by decide, fun _ => rfl⟩
  · exact ⟨3, _, rfl, fun _ => by decide, fun _ => rfl⟩
  · exact ⟨3, _, rfl, fun _ => by decide, fun _ => rfl⟩

section
variable {s : State} {r : SpdmReq} (hup : s.up = true) (hlink : s.host.linkUp = true) (hm : s.mason.paused = false)
include hup hlink hm

theorem exec_getVersion_starts : exec (.getVersion r) s = .next { s with
    sec.spdm := 1, sec.measEpoch := none, sec.doe := [0x12, 0x04, 0, 0, 0, 1, 0x00, 0x12], sec.transcript := spdmBytes r 0x84 ++ [0x12, 0x04, 0, 0, 0, 1, 0x00, 0x12] } := by
  have hx : exec (.getVersion r) s = execGetVersion r s := rfl
  rw [hx, execGetVersion, State.spdmRun_ok hup hlink hm (Nat.zero_le _)]
  rfl

theorem exec_getCapabilities_answers (hn : 1 ≤ s.sec.spdm) : ∃ resp, exec (.getCapabilities r) s =
    .next ({ s with sec.spdm := max 2 s.sec.spdm }.spdmReply (spdmBytes r 0xE1) resp) ∧ resp.take 2 = [0x12, 0x61] := by
  have hx : exec (.getCapabilities r) s = execGetCapabilities r s := rfl
  rw [hx, execGetCapabilities, State.spdmRun_ok hup hlink hm hn]
  exact ⟨_, rfl, rfl⟩

theorem exec_negotiateAlgorithms_answers (hn : 2 ≤ s.sec.spdm) : ∃ resp, exec (.negotiateAlgorithms r) s =
    .next ({ s with sec.spdm := 3 }.spdmReply (spdmBytes r 0xE3) resp) ∧ resp.take 2 = [0x12, 0x63] := by
  have hx : exec (.negotiateAlgorithms r) s = execNegotiateAlgorithms r s := rfl
  rw [hx, execNegotiateAlgorithms, State.spdmRun_ok hup hlink hm hn]
  exact ⟨_, rfl, rfl⟩

variable (hn : 3 ≤ s.sec.spdm)
include hn

theorem exec_getDigests_answers : ∃ resp, exec (.getDigests r) s = .next (s.spdmReply (spdmBytes r 0x81) resp) ∧ resp.take 2 = [0x12, 0x01] := by
  have hx : exec (.getDigests r) s = execGetDigests r s := rfl
  rw [hx, execGetDigests, State.spdmRun_ok hup hlink hm hn]
  exact ⟨_, rfl, rfl⟩

theorem exec_getCertificate_answers (hslot : r.param1 % 16 = 0) : ∃ resp, exec (.getCertificate r) s = .next (s.spdmReply (spdmBytes r 0x82) resp) ∧ resp.take 2 = [0x12, 0x02] := by
  have hx : exec (.getCertificate r) s = execGetCertificate r s := rfl
  rw [hx, execGetCertificate, State.spdmRun_ok hup hlink hm hn, if_neg (by simp [hslot])]
  exact ⟨_, rfl, rfl⟩

theorem exec_challenge_signs (hp : r.param1 = 0) (hk : s.sec.killed = false) : ∃ head, exec (.challenge r) s = .next (s.nonce.2.spdmSigned (spdmBytes r 0x83) head) ∧
    head.take 2 = [0x12, 0x03] := by
  have hx : exec (.challenge r) s = execChallenge r s := rfl
  rw [hx, execChallenge, State.spdmRun_ok hup hlink hm hn, if_neg (by simp [hp, hk])]
  exact ⟨_, rfl, rfl⟩

theorem exec_challenge_killed (hk : s.sec.killed = true) : exec (.challenge r) s = .next { s with sec.doe := [0x12, 0x7F, 7, 0] } := by
  have hx : exec (.challenge r) s = execChallenge r s := rfl
  rw [hx, execChallenge, State.spdmRun_ok hup hlink hm hn, if_pos (by simp [hk])]
  rfl

section
variable (hraw : bitOf r.param1 1 = false)
include hraw

theorem exec_getMeasurements_resynch {e : Nat} (hsign : bitOf r.param1 0 = true) (hk : s.sec.killed = false) (he : s.sec.measEpoch = some e) (hne : e ≠ s.sec.epoch) :
    exec (.getMeasurements r) s = .next { s with sec.spdm := 0, sec.transcript := [], sec.measEpoch := none, sec.doe := [0x12, 0x7F, 0x43, 0] } := by
  have hx : exec (.getMeasurements r) s = execGetMeasurements r s := rfl
  rw [hx, execGetMeasurements, State.spdmRun_ok hup hlink hm hn]
  dsimp only
  rw [if_neg (by rw [hraw, hsign, hk]; decide), hsign, he, if_pos (by simpa using hne)]
  rfl

theorem exec_getMeasurements_unsigned (hsign : bitOf r.param1 0 = false) : ∃ head, exec (.getMeasurements r) s =
    .next ({ s.nonce.2 with sec.measEpoch := s.nonce.2.sec.measEpoch.orElse fun _ => some s.nonce.2.sec.epoch }.spdmReply (spdmBytes r 0xE0) head) ∧ head.take 2 = [0x12, 0x60] := by
  have hx : exec (.getMeasurements r) s = execGetMeasurements r s := rfl
  rw [hx, execGetMeasurements, State.spdmRun_ok hup hlink hm hn]
  dsimp only
  rw [hraw, hsign, Bool.false_and, Bool.false_and, Bool.or_self, if_neg Bool.false_ne_true, if_neg Bool.false_ne_true, if_neg Bool.false_ne_true]
  exact ⟨_, rfl, rfl⟩

theorem exec_getMeasurements_signed (hsign : bitOf r.param1 0 = true) (hk : s.sec.killed = false) (he : s.sec.measEpoch = none ∨ s.sec.measEpoch = some s.sec.epoch) :
    ∃ head, exec (.getMeasurements r) s = .next { s.nonce.2.spdmSigned (spdmBytes r 0xE0) head with sec.transcript := [], sec.measEpoch := none } ∧ head.take 2 = [0x12, 0x60] := by
  have hx : exec (.getMeasurements r) s = execGetMeasurements r s := rfl
  rw [hx, execGetMeasurements, State.spdmRun_ok hup hlink hm hn]
  dsimp only
  rw [hraw, hsign, hk, Bool.and_false, Bool.or_self, if_neg Bool.false_ne_true, Bool.true_and]
  rcases he with he | he
  · rw [he]
    dsimp only
    rw [if_neg Bool.false_ne_true, if_pos rfl]
    exact ⟨_, rfl, rfl⟩
  · rw [he]
    dsimp only
    rw [if_neg (show ¬ (s.sec.epoch != s.sec.epoch) = true by simp), if_pos rfl]
    exact ⟨_, rfl, rfl⟩

end

end

/-- An answer with its code joins the transcript behind its request. -/
theorem State.spdmReply_spec (s : State) (req resp : List Byte) : (s.spdmReply req resp).sec.transcript = s.sec.transcript ++ req ++ (s.spdmReply req resp).sec.doe ∧
    (s.spdmReply req resp).sec.doe = resp ∧ (s.spdmReply req resp).sec.spdm = s.sec.spdm ∧ (s.spdmReply req resp).mason = s.mason :=
  ⟨rfl, rfl, rfl, rfl⟩

end Sys2Proof.Machine
end

section
/-! The proof of O57. -/

namespace Sys2Proof.Machine

/-- Settles O57: the report is taken at acceptance, and each SPDM request is answered by the negotiation that stands. -/
theorem modulesAttest : Obligations.ModulesAttest := by
  unfold Obligations.ModulesAttest
  refine ⟨?attest, fun s op addr v nonce rep ho hup hh => exec_attestReportLanded_lands ho hup hh, ?early, ?answers, ?unsupported⟩
  case attest =>
    intro s m r h hl
    rw [exec_secAttest h hl]
    refine ⟨fun hbad => ?_, fun halign hlife => ?_, fun halign hlife hop => ?_⟩
    · rw [State.secAttest_badArg hbad]
      rfl
    · rw [State.secAttest_refused (s := s.taken m) halign hlife]
      rfl
    · obtain ⟨hlength, hmagic, hof⟩ := (s.taken m).report_spec (slice r.pay 0 32) r.vf
      rw [State.secAttest_accepted (s := s.taken m) halign hlife, State.accept_withOp (s := s.taken m) hop]
      exact ⟨_, hlength, hmagic, hof, rfl⟩
  case early =>
    intro s c r hup hlink hc
    obtain ⟨need, body, hx, hone, hthree⟩ := exec_spdm_run s hc
    rw [hx]
    refine ⟨fun hm => ?_, fun hm => ⟨fun hnew hc' => ?_, fun hearly hc' => ?_⟩⟩
    · rw [State.spdmRun_paused hup hlink hm]
    · have hneed := hone hc'
      rw [State.spdmRun_early hup hlink hm (by omega)]
    · have hneed := hthree hc'
      rw [State.spdmRun_early hup hlink hm (by omega)]
  case answers =>
    intro s r hup hlink hm
    refine ⟨exec_getVersion_starts hup hlink hm, ?_, fun hn hp hk => ?_, fun hn hk => exec_challenge_killed hup hlink hm hn hk, fun hn hraw => ⟨?_, fun hsign => ?_, fun hsign hk he => ?_⟩⟩
    · rintro c code (⟨rfl, rfl, hn⟩ | ⟨rfl, rfl, hn⟩ | ⟨rfl, rfl, hn⟩ | ⟨rfl, rfl, hn, hslot⟩)
      · obtain ⟨resp, hx, htake⟩ := exec_getCapabilities_answers (r := r) hup hlink hm hn
        exact ⟨_, hx, rfl, htake, Nat.le_max_right .., rfl⟩
      · obtain ⟨resp, hx, htake⟩ := exec_negotiateAlgorithms_answers (r := r) hup hlink hm hn
        exact ⟨_, hx, rfl, htake, Nat.le_add_left .., rfl⟩
      · obtain ⟨resp, hx, htake⟩ := exec_getDigests_answers (r := r) hup hlink hm hn
        exact ⟨_, hx, rfl, htake, Nat.le_refl _, rfl⟩
      · obtain ⟨resp, hx, htake⟩ := exec_getCertificate_answers hup hlink hm hn hslot
        exact ⟨_, hx, rfl, htake, Nat.le_refl _, rfl⟩
    · obtain ⟨head, hx, htake⟩ := exec_challenge_signs hup hlink hm hn hp hk
      exact ⟨_, head, hx, rfl, htake, rfl⟩
    · intro e hsign hk he hne
      exact exec_getMeasurements_resynch hup hlink hm hn hraw hsign hk he hne
    · obtain ⟨head, hx, htake⟩ := exec_getMeasurements_unsigned hup hlink hm hn hraw hsign
      refine ⟨_, hx, htake, rfl, rfl, ?_⟩
      have hepoch : (s.sec.measEpoch.orElse fun _ => some s.sec.epoch) = some (s.sec.measEpoch.getD s.sec.epoch) := by
        cases s.sec.measEpoch <;> rfl
      exact hepoch
    · obtain ⟨head, hx, htake⟩ := exec_getMeasurements_signed hup hlink hm hn hraw hsign hk he
      exact ⟨_, head, hx, htake, rfl, rfl, rfl⟩
  case unsupported =>
    intro s code hup hlink hm hcode
    have hx : exec (.spdmUnsupportedRequest code) s = execSpdmUnsupportedRequest code s := rfl
    have hcode' : ¬ spdmCodes.contains code = true := by
      rw [List.contains_iff_mem]
      exact hcode
    rw [hx, execSpdmUnsupportedRequest, if_neg hcode', State.spdmRun_ok hup hlink hm (Nat.zero_le _)]
    rfl

end Sys2Proof.Machine
end

section
/-! SUPPORT. Firmware staging and activation, the cabinet profile, the fuse queries and the modes (R309-R317, R320-R322, R330). -/

namespace Sys2Proof.Machine

section
variable {s : State} {m : Mb} {r : Req}

theorem exec_fwStage (rd : HostRead) (h : s.runs m 0x0C01 false = some r) (hl : r.len = 24) (hz : field r.pay 1 7 = 0) :
    exec (.fwStage ⟨m, rd⟩) s = .next (((s.taken m).fwStage rd r).1.respond m 0x0C01 r.tag ((s.taken m).fwStage rd r).2) :=
  congrArg Host.Outcome.next (State.mbRun_ok (lenIs 24 [(1, 7)]) (State.fwStage rd) h (lenIs_ok hl fun _ hp => List.mem_singleton.1 hp ▸ hz))

theorem exec_fwActivate (h : s.runs m 0x0C02 false = some r) (hl : r.len = 4) (hz : field r.pay 1 3 = 0) :
    exec (.fwActivate m) s = .next (((s.taken m).fwActivate r).1.respond m 0x0C02 r.tag ((s.taken m).fwActivate r).2) :=
  congrArg Host.Outcome.next (State.mbRun_ok (lenIs 4 [(1, 3)]) State.fwActivate h (lenIs_ok hl fun _ hp => List.mem_singleton.1 hp ▸ hz))

theorem exec_fwDiscard (h : s.runs m 0x0C03 false = some r) (hl : r.len = 4) (hz : field r.pay 1 3 = 0) :
    exec (.fwDiscard m) s = .next (((s.taken m).fwDiscard r).1.respond m 0x0C03 r.tag ((s.taken m).fwDiscard r).2) :=
  congrArg Host.Outcome.next (State.mbRun_ok (lenIs 4 [(1, 3)]) State.fwDiscard h (lenIs_ok hl fun _ hp => List.mem_singleton.1 hp ▸ hz))

theorem exec_profileWrite (h : s.runs m 0x0C10 false = some r) (hl : r.len = 12) :
    exec (.profileWrite m) s = .next (((s.taken m).profileWrite r).1.respond m 0x0C10 r.tag ((s.taken m).profileWrite r).2) :=
  congrArg Host.Outcome.next (State.mbRun_ok (lenIs 12 []) State.profileWrite h (lenIs_ok hl fun _ hp => nomatch hp))

theorem exec_profileInfo (h : s.runs m 0x0C11 false = some r) (hl : r.len = 0) :
    exec (.profileInfo m) s = .next ((s.taken m).respond m 0x0C11 r.tag ((s.taken m).profileInfo r).2) :=
  congrArg Host.Outcome.next (State.mbRun_ok (lenIs 0 []) State.profileInfo h (lenIs_ok hl fun _ hp => nomatch hp))

theorem exec_fuseInfo (h : s.runs m 0x0E40 false = some r) (hl : r.len = 0) :
    exec (.fuseInfo m) s = .next ((s.taken m).respond m 0x0E40 r.tag ((s.taken m).fuseInfo r).2) :=
  congrArg Host.Outcome.next (State.mbRun_ok (lenIs 0 []) State.fuseInfo h (lenIs_ok hl fun _ hp => nomatch hp))

theorem exec_fuseRead (h : s.runs m 0x0E41 false = some r) (hl : r.len = 4) (hz : r.u16 2 = 0) :
    exec (.fuseRead m) s = .next (((s.taken m).fuseRead r).1.respond m 0x0E41 r.tag ((s.taken m).fuseRead r).2) :=
  congrArg Host.Outcome.next (State.mbRun_ok (lenIs 4 [(2, 2)]) State.fuseRead h (lenIs_ok hl fun _ hp => List.mem_singleton.1 hp ▸ hz))

theorem exec_modeQuery (h : s.runs m 0x0F01 false = some r) (hl : r.len = 0) :
    exec (.modeQuery m) s = .next ((s.taken m).respond m 0x0F01 r.tag ((s.taken m).modeQuery r).2) :=
  congrArg Host.Outcome.next (State.mbRun_ok (lenIs 0 []) State.modeQuery h (lenIs_ok hl fun _ hp => nomatch hp))

theorem exec_modeSet (h : s.runs m 0x0F02 false = some r) (hl : r.len = 4) (hz : r.u16 2 = 0) :
    exec (.modeSet m) s = .next (((s.taken m).modeSet r).1.respond m 0x0F02 r.tag ((s.taken m).modeSet r).2) :=
  congrArg Host.Outcome.next (State.mbRun_ok (lenIs 4 [(2, 2)]) State.modeSet h (lenIs_ok hl fun _ hp => List.mem_singleton.1 hp ▸ hz))

theorem exec_modeCompatLock (h : s.runs m 0x0F03 false = some r) (hl : r.len = 4) (hz : field r.pay 1 3 = 0) :
    exec (.modeCompatLock m) s = .next (((s.taken m).compatLock r).1.respond m 0x0F03 r.tag ((s.taken m).compatLock r).2) :=
  congrArg Host.Outcome.next (State.mbRun_ok (lenIs 4 [(1, 3)]) State.compatLock h (lenIs_ok hl fun _ hp => List.mem_singleton.1 hp ▸ hz))

end

/-! ## FW_STAGE (R310-R312, R354) -/

section
variable {s : State} {q : Req}

theorem State.fwStage_badArg (rd : HostRead) (h : 1 < q.u8 0 ∨ q.u64 8 % 4096 ≠ 0) : s.fwStage rd q = (s, failR St.badArg) :=
  if_pos (by simpa using h)

variable (ha : q.u8 0 ≤ 1) (halign : q.u64 8 % 4096 = 0)
include ha halign

theorem State.fwStage_held (rd : HostRead) (hheld : s.held (8, q.u8 0) = true) : s.fwStage rd q = (s, failR St.busy) :=
  (if_neg (by simp [halign]; omega)).trans (if_pos hheld)

variable (hfree : s.held (8, q.u8 0) = false)
include hfree

theorem State.fwStage_readFails (c : Nat) : s.fwStage (.err c) q = ({ s.emptyArea (q.u8 0) with host.aer := c :: s.host.aer }, failR St.badArg c) :=
  (if_neg (by simp [halign]; omega)).trans (if_neg (by rw [hfree]; exact Bool.false_ne_true))

theorem State.fwStage_rejected {st d : Nat} (hc : s.headerCheck (s.hostReadN (q.u64 8) 512) (q.u64 16) = some (st, d)) : s.fwStage .ok q = (s, failR st d) := by
  unfold fwStage
  dsimp only
  rw [if_neg (by simp [halign]; omega), if_neg (by rw [hfree]; exact Bool.false_ne_true), hc]

theorem State.fwStage_accepted (hc : s.headerCheck (s.hostReadN (q.u64 8) 512) (q.u64 16) = none) : s.fwStage .ok q =
    { s with fw.staged := s.fw.staged.set (q.u8 0) (headerImage (s.hostReadN (q.u64 8) 512)) }.accept q (.fwStage (q.u8 0) (q.u64 8) (s.hostReadN (q.u64 8) 512)) := by
  unfold fwStage
  dsimp only
  rw [if_neg (by simp [halign]; omega), if_neg (by rw [hfree]; exact Bool.false_ne_true), hc]

end

/-! ## The payload's check (R312, R317) -/

section
variable {s : State} {op area addr : Nat} {h : List Byte} (hop : (s.op? op).map PendingOp.kind = some (.fwStage area addr h)) (hruns : s.syncSets.intRuns (.op op) = true)
include hop hruns

theorem exec_fwStageVerify_read : exec (.fwStageVerify op .ok) s = .next (s.syncSets.stageVerify op area addr h).syncSets := by
  have hx : exec (.fwStageVerify op .ok) s = execFwStageVerify op .ok s := rfl
  rw [hx, execFwStageVerify, hop]
  exact congrArg Host.Outcome.next (State.intDone_runs _ hruns)

theorem exec_fwStageVerify_fails (c : Nat) : exec (.fwStageVerify op (.err c)) s = .next ((s.syncSets.emptyArea area).readFailed op c).syncSets := by
  have hx : exec (.fwStageVerify op (.err c)) s = execFwStageVerify op (.err c) s := rfl
  rw [hx, execFwStageVerify, hop]
  exact congrArg Host.Outcome.next (State.intDone_runs _ hruns)

end

/-- STAGED, as it is posted. -/
def stagedBytes (area st : Nat) (i : Image) : List Byte := leBytes 1 area ++ leBytes 1 i.role ++ leBytes 1 st ++ [0] ++ leBytes 4 i.version

theorem State.stageVerify_ok {s : State} {area addr : Nat} {h : List Byte} (op : Nat) (hok : imageOk h (s.hostReadN (addr + 512) (headerImage h).length) = true) :
    s.stageVerify op area addr h = ({ s with fw.staged := s.fw.staged.set area { headerImage h with verified := true } }.post 0x0C01 0 0
      (stagedBytes area St.ok (headerImage h))).finishOp op St.ok := by
  unfold stageVerify
  simp only [hok, if_true]
  rfl

theorem State.stageVerify_bad {s : State} {area addr : Nat} {h : List Byte} (op : Nat) (hbad : imageOk h (s.hostReadN (addr + 512) (headerImage h).length) = false) :
    s.stageVerify op area addr h = ((s.emptyArea area).post 0x0C01 0 0 (stagedBytes area St.signatureFailed (headerImage h))).finishOp op St.signatureFailed := by
  unfold stageVerify
  simp only [hbad, Bool.false_eq_true, if_false]
  rfl

/-! ## FW_DISCARD, FW_ACTIVATE (R313, R314) -/

section
variable {s : State} {q : Req}

theorem State.fwDiscard_badArg (h : 1 < q.u8 0) : s.fwDiscard q = (s, failR St.badArg) := if_pos h

theorem State.fwDiscard_empties (h : q.u8 0 ≤ 1) (hfree : s.held (8, q.u8 0) = false) : s.fwDiscard q = (s.emptyArea (q.u8 0), okR []) :=
  (if_neg (by omega)).trans (if_neg (by rw [hfree]; exact Bool.false_ne_true))

theorem State.fwActivate_badArg (h : 1 < q.u8 0) : s.fwActivate q = (s, failR St.badArg) := if_pos h

theorem State.fwActivate_busy (h : q.u8 0 ≤ 1) (hact : s.fw.act.isSome = true) : s.fwActivate q = (s, failR St.busy) :=
  (if_neg (by omega)).trans (if_pos (by simp [isActivating, hact]))

variable (h : q.u8 0 ≤ 1) (hact : s.fw.act = none) (hfree : s.held (8, q.u8 0) = false)
include h hact hfree

theorem State.fwActivate_empty (hx : s.fw.staged.find? (q.u8 0) = none) : s.fwActivate q = (s, failR St.refused 1) := by
  unfold fwActivate
  dsimp only
  rw [if_neg (by omega), if_neg (by simp [isActivating, hact, hfree]), hx]

variable {x : Image} (hx : s.fw.staged.find? (q.u8 0) = some x) (hv : x.verified = true)
include hx hv

theorem State.fwActivate_incompatible {d : Nat} (hd : s.compatFail x = some d) : s.fwActivate q = (s, failR St.incompatible d) := by
  unfold fwActivate
  dsimp only
  rw [if_neg (by omega), if_neg (by simp [isActivating, hact, hfree]), hx]
  dsimp only
  rw [if_neg (by simp [hv]), hd]

theorem State.fwActivate_accepted (hd : s.compatFail x = none) : s.fwActivate q =
    ({ (s.accept q (.fwActivate (q.u8 0))).1 with fw.act := some ⟨q.u8 0, x.role, 0, (s.accept q (.fwActivate (q.u8 0))).2.arg, s.activeImage x.role, 0⟩ },
      (s.accept q (.fwActivate (q.u8 0))).2) := by
  unfold fwActivate
  dsimp only
  rw [if_neg (by omega), if_neg (by simp [isActivating, hact, hfree]), hx]
  dsimp only
  rw [if_neg (by simp [hv]), hd]

end

/-! ## The units of a role restart (R313, R315) -/

theorem activeImage_of_active {s t : State} (h : t.fw.active = s.fw.active) (role : Nat) : t.activeImage role = s.activeImage role := by
  unfold State.activeImage
  rw [h]

theorem State.setActive_image (s : State) {role : Nat} (i : Image) {k : Nat} (hk : k < 5) : (s.setActive role i).activeImage k = if k = role then i else s.activeImage k := by
  have hget : (s.setActive role i).activeImage k = ((List.range 5).map fun r => if r == role then i else s.activeImage r).getD k _ := rfl
  rw [hget]
  simp [List.getD_eq_getElem?_getD, hk]

theorem exec_activationCopyDone_goesOn {s : State} {a : Activation} {x : Image} (ha : s.fw.act = some a) (hx : s.fw.staged.find? a.area = some x) (hup : s.up = true)
    (hp : a.phase = 0) (hh : s.power.hold = false) (hm : a.role = 0 → s.mason.inputs = []) : exec .activationCopyDone s = .next ((s.setActive a.role x).goOn a 0) := by
  have he : exec .activationCopyDone s = execActivationCopyDone s := rfl
  have hanswered : (a.role != 0 || s.mason.inputs.isEmpty) = true := by
    by_cases h0 : a.role = 0
    · rw [hm h0]
      simp
    · simp [h0]
  rw [he, execActivationCopyDone, ha]
  dsimp only
  rw [hx]
  exact congrArg Host.Outcome.next (if_pos (by rw [hup, hp, hh, hanswered]; rfl))

/-- The unit that restarts is noted. -/
def State.unitNoted (s : State) (a : Activation) (k : Nat) : State := { s with fw.act := some { a with unit := k, phase := 1 } }

theorem State.goOn_mason {s : State} {a : Activation} (h : a.role = 0) : s.goOn a 0 = (s.unitNoted a 0).pauseMason 0 150000 := by
  have hnext : s.nextUnit a.role 0 = some 0 := by
    rw [h]
    rfl
  have hrestart : (s.unitNoted a 0).restartUnit a.role 0 = (s.unitNoted a 0).pauseMason 0 150000 := by
    rw [h]
    rfl
  unfold goOn
  rw [hnext, ← hrestart]
  rfl

theorem State.goOn_lodge {s : State} {a : Activation} (h : a.role = 4) : s.goOn a 0 = s.unitNoted a 0 := by
  have hnext : s.nextUnit a.role 0 = some 0 := by
    rw [h]
    rfl
  have hrestart : (s.unitNoted a 0).restartUnit a.role 0 = s.unitNoted a 0 := by
    rw [h]
    rfl
  unfold goOn
  rw [hnext]
  exact hrestart

theorem State.goOn_last {s : State} {a : Activation} (h : a.role = 4) : s.goOn a 1 = s.activated a := by
  have hnext : s.nextUnit a.role 1 = none := by
    rw [h]
    rfl
  unfold goOn
  rw [hnext]

/-- The last unit of role 4 is in service. -/
theorem exec_activationProcessorInService_ends {s : State} {a : Activation} (ha : s.fw.act = some a) (hup : s.up = true) (hp : a.phase = 1) (hh : s.power.hold = false)
    (hrole : a.role = 4) (hu : a.unit = 0) : exec (.activationProcessorInService true) s = .next ((s.bumpEpoch 0).activated a) := by
  have he : exec (.activationProcessorInService true) s = execActivationProcessorInService true s := rfl
  have hready : s.unitReady a = true := by
    unfold State.unitReady
    rw [hrole]
    rfl
  have hserves : s.inService a = (s.bumpEpoch 0).goOn a 1 := by
    unfold State.inService
    rw [hrole, hu]
    rfl
  rw [he, execActivationProcessorInService, ha]
  dsimp only
  rw [if_pos (by rw [hup, hp, hh, hready]; rfl), if_pos rfl, hserves, State.goOn_last hrole]

/-- The previous image is active again, and its failed successor is posted. -/
def State.fellBack (s : State) (a : Activation) : State :=
  { s.setActive a.role a.old with fw.act := none }.post 0x0C03 0 0 (leBytes 1 a.role ++ [0, 0, 0] ++ leBytes 4 (s.activeImage a.role).version)

theorem exec_activationProcessorInService_fails {s : State} {a : Activation} (ha : s.fw.act = some a) (hup : s.up = true) (hp : a.phase = 1) (hh : s.power.hold = false)
    (hrole : a.role = 4) : exec (.activationProcessorInService false) s = .next ((s.fellBack a).finishOp a.op St.refused 0x11) := by
  have he : exec (.activationProcessorInService false) s = execActivationProcessorInService false s := rfl
  have hready : s.unitReady a = true := by
    unfold State.unitReady
    rw [hrole]
    rfl
  have hback : s.fallBack a = (s.fellBack a).finishOp a.op St.refused 0x11 := by
    unfold State.fallBack State.fellBack
    rw [hrole]
    rfl
  rw [he, execActivationProcessorInService, ha]
  dsimp only
  rw [if_pos (by rw [hup, hp, hh, hready]; rfl), if_neg Bool.false_ne_true, hback]

theorem State.bumpEpoch_keeps {γ : Type} (φ : State → γ) (hpost : ∀ (s : State) a b c d, φ (s.post a b c d) = φ s) (hsec : ∀ (s : State) c, φ { s with sec := c } = φ s)
    (s : State) (cause : Nat) : φ (s.bumpEpoch cause) = φ s := by
  unfold bumpEpoch
  rw [hpost]
  exact hsec ..

/-- The end of an activation, but for the fuse steps that follow it. -/
theorem State.activated_keeps {γ : Type} (φ : State → γ) (hburn : ∀ (s : State) l, φ { s with flt.burns := l } = φ s) (s : State) (a : Activation) :
    φ (s.activated a) = φ (({ s.emptyArea a.area with fw.act := none }.post 0x0C02 0 0
      (leBytes 1 a.role ++ [0, 0, 0] ++ leBytes 4 (s.activeImage a.role).version)).finishOp a.op St.ok) :=
  State.rollbackSteps_keeps φ hburn _

theorem State.activated_spec (s : State) (a : Activation) : (s.activated a).fw = { s.fw with staged := s.fw.staged.del a.area, act := none } ∧ (s.activated a).sec = s.sec ∧
    (s.activated a).mason.ops = s.mason.ops.filter fun o => o.opId != a.op := by
  refine ⟨?_, ?_, ?_⟩
  · rw [State.activated_keeps State.fw (fun _ _ => rfl), State.finishOp_fw, State.post_fw]
    rfl
  · rw [State.activated_keeps State.sec (fun _ _ => rfl), State.finishOp_sec, State.post_sec]
    rfl
  · rw [State.activated_keeps (fun u => u.mason.ops) (fun _ _ => rfl), State.finishOp_ops, State.post_mason]
    rfl

/-! ## The cabinet profile (R320, R321) -/

section
variable {s : State} {q : Req}

theorem State.profileWrite_badArg (h : q.u32 8 < 160 ∨ 1048576 < q.u32 8) : s.profileWrite q = (s, failR St.badArg) :=
  if_pos (by simpa using h)

variable (hlo : 160 ≤ q.u32 8) (hhi : q.u32 8 ≤ 1048576) (hfree : s.held (9, 0) = false)
include hlo hhi hfree

theorem State.profileWrite_refused (hl : s.sec.life ≠ 1) : s.profileWrite q = (s, failR St.refused 1) :=
  (if_neg (by simp; omega)).trans ((if_neg (by rw [hfree]; exact Bool.false_ne_true)).trans (if_pos (by simpa using hl)))

theorem State.profileWrite_accepted (hl : s.sec.life = 1) : s.profileWrite q = s.accept q (.profileWrite (q.u64 0) (q.u32 8)) :=
  (if_neg (by simp; omega)).trans ((if_neg (by rw [hfree]; exact Bool.false_ne_true)).trans (if_neg (by simp [hl])))

end

section
variable {s : State} {op addr len : Nat} (hop : (s.op? op).map PendingOp.kind = some (.profileWrite addr len)) (hruns : s.syncSets.intRuns (.op op) = true)
include hop hruns

theorem exec_profileWriteDone_read : exec (.profileWriteDone op .ok) s = .next (s.syncSets.profileVerify op (s.syncSets.hostReadN addr len)).syncSets := by
  have hx : exec (.profileWriteDone op .ok) s = execProfileWriteDone op .ok s := rfl
  rw [hx, execProfileWriteDone, hop]
  exact congrArg Host.Outcome.next (State.intDone_runs _ hruns)

theorem exec_profileWriteDone_fails (c : Nat) : exec (.profileWriteDone op (.err c)) s = .next (s.syncSets.readFailed op c).syncSets := by
  have hx : exec (.profileWriteDone op (.err c)) s = execProfileWriteDone op (.err c) s := rfl
  rw [hx, execProfileWriteDone, hop]
  exact congrArg Host.Outcome.next (State.intDone_runs _ hruns)

end

section
variable {s : State} {b : List Byte} (op : Nat)

theorem State.profileVerify_unsigned (h : Config.sigOk 1 (sha384 (b.take (b.length - 96))) (b.drop (b.length - 96)) = false) :
    s.profileVerify op b = s.finishOp op St.signatureFailed :=
  if_pos (by rw [h]; rfl)

variable (h : Config.sigOk 1 (sha384 (b.take (b.length - 96))) (b.drop (b.length - 96)) = true)
include h

theorem State.profileVerify_order (ho : field b 8 8 ≠ s.sec.order) : s.profileVerify op b = s.finishOp op St.refused 2 :=
  (if_neg (by rw [h]; decide)).trans (if_pos (by simpa using ho))

variable {p : Profile} (ho : field b 8 8 = s.sec.order) (hp : readProfile b = some p)
include ho hp

theorem State.profileVerify_rollback {o : Profile} (hs : s.fw.stored = some o) (hold : p.seq ≤ o.seq) : s.profileVerify op b = s.finishOp op St.rollback := by
  unfold profileVerify
  rw [if_neg (by rw [h]; decide), if_neg (by simp [ho]), hp]
  dsimp only
  rw [hs]
  exact if_pos (decide_eq_true hold)

theorem State.profileVerify_stores (hnew : ∀ o, s.fw.stored = some o → o.seq < p.seq) :
    s.profileVerify op b = ({ s with fw.stored := some p }.bumpEpoch 1).finishOp op St.ok := by
  unfold profileVerify
  rw [if_neg (by rw [h]; decide), if_neg (by simp [ho]), hp]
  dsimp only
  cases hs : s.fw.stored with
  | none => exact if_neg Bool.false_ne_true
  | some o => exact if_neg (by simpa using hnew o hs)

end

/-! ## Fuse queries and modes (R322, R330) -/

section
variable {s : State} {q : Req}

theorem State.fuseRead_badArg (h : 24576 ≤ q.u16 0) : s.fuseRead q = (s, failR St.badArg) := if_pos h

theorem State.fuseRead_entries (h : q.u16 0 < 24576) : s.fuseRead q = (s, okR (leBytes 1 (min 7 (s.flt.ledger.length - q.u16 0)) ++ List.replicate 7 0 ++
    (((s.flt.ledger.zipIdx.drop (q.u16 0)).take 7).map fuseBytes).flatten)) := by
  have hlength : ((s.flt.ledger.zipIdx.drop (q.u16 0)).take 7).length = min 7 (s.flt.ledger.length - q.u16 0) := by simp
  unfold fuseRead
  rw [if_neg (show ¬ ledgerCap ≤ q.u16 0 from Nat.not_le.2 h), ← hlength]

theorem State.modeSet_badArg (h : (1 < q.u8 0 ∧ q.u8 0 ≠ 0xFF) ∨ (1 < q.u8 1 ∧ q.u8 1 ≠ 0xFF)) : s.modeSet q = (s, failR St.badArg) :=
  if_pos (by simpa using h)

section
variable (h0 : q.u8 0 ≤ 1 ∨ q.u8 0 = 0xFF) (h1 : q.u8 1 ≤ 1 ∨ q.u8 1 = 0xFF)
include h0 h1

theorem State.modeSet_args : s.modeSet q =
    if q.u8 0 != 0xFF && s.fw.lock.isSome then (s, failR St.refused 1)
    else if 3 ≤ s.sec.life then (s, failR St.refused 4)
    else ({ s with fw.ifaceBit := if q.u8 0 = 0xFF then s.fw.ifaceBit else q.u8 0, fw.tenancyBit := if q.u8 1 = 0xFF then s.fw.tenancyBit else q.u8 1 }, okR []) := by
  have hargs : ¬ ((decide (1 < q.u8 0) && q.u8 0 != 0xFF) || (decide (1 < q.u8 1) && q.u8 1 != 0xFF)) = true := by
    simp only [Bool.or_eq_true, Bool.and_eq_true, decide_eq_true_eq, bne_iff_ne]
    omega
  unfold modeSet
  dsimp only
  rw [if_neg hargs]
  simp only [beq_iff_eq]

theorem State.modeSet_locked (hset : q.u8 0 ≠ 0xFF) (hlock : s.fw.lock.isSome = true) : s.modeSet q = (s, failR St.refused 1) := by
  rw [State.modeSet_args h0 h1, if_pos (by simp [hset, hlock])]

variable (hfree : q.u8 0 = 0xFF ∨ s.fw.lock = none)
include hfree

theorem State.modeSet_refused (hl : 3 ≤ s.sec.life) : s.modeSet q = (s, failR St.refused 4) := by
  have hmay : ¬ (q.u8 0 != 0xFF && s.fw.lock.isSome) = true := by
    rcases hfree with h | h <;> simp [h]
  rw [State.modeSet_args h0 h1, if_neg hmay, if_pos hl]

theorem State.modeSet_stores (hl : s.sec.life < 3) : s.modeSet q =
    ({ s with fw.ifaceBit := if q.u8 0 = 0xFF then s.fw.ifaceBit else q.u8 0, fw.tenancyBit := if q.u8 1 = 0xFF then s.fw.tenancyBit else q.u8 1 }, okR []) := by
  have hmay : ¬ (q.u8 0 != 0xFF && s.fw.lock.isSome) = true := by
    rcases hfree with h | h <;> simp [h]
  rw [State.modeSet_args h0 h1, if_neg hmay, if_neg (by omega)]

end

theorem State.compatLock_badArg (h : 1 < q.u8 0) : s.compatLock q = (s, failR St.badArg) := if_pos h

section
variable (h : q.u8 0 ≤ 1)
include h

theorem State.compatLock_locked (hlock : s.fw.lock.isSome = true) : s.compatLock q = (s, failR St.refused 1) :=
  (if_neg (by omega)).trans (if_pos hlock)

variable (hlock : s.fw.lock = none)
include hlock

theorem State.compatLock_other (hv : q.u8 0 ≠ s.fw.iface) : s.compatLock q = (s, failR St.refused 3) :=
  (if_neg (by omega)).trans ((if_neg (by simp [hlock])).trans (if_pos (by simpa using hv)))

theorem State.compatLock_locks (hv : q.u8 0 = s.fw.iface) (hl : s.sec.life < 3) :
    s.compatLock q = (({ s with fw.lock := some (q.u8 0) }.burnCmd 0x0C 2 0 0 (q.u8 0)).post 0x0F02 0 0 (leBytes 1 (q.u8 0)), okR []) :=
  (if_neg (by omega)).trans ((if_neg (by simp [hlock])).trans ((if_neg (by simp [hv])).trans (if_neg (by omega))))

end

end

theorem State.burnCmd_fw (s : State) (a b c d e : Nat) : (s.burnCmd a b c d e).fw = s.fw := by
  unfold burnCmd burnNow
  split <;> rfl

end Sys2Proof.Machine
end

section
/-! The proof of O58. -/

namespace Sys2Proof.Machine

/-- Settles O58: each command by its checks in order; the payload's and the profile's check by what was read; an activation of the last role by its one unit. -/
theorem firmwareProfileFusesAndModes : Obligations.FirmwareProfileFusesAndModes := by
  unfold Obligations.FirmwareProfileFusesAndModes
  refine ⟨?stage, ?verify, ?discard, ?activate, ?copied, ?inService, ?write, ?written, ?info, ?fuses, ?ledger, ?modes, ?set, ?lock⟩
  case stage =>
    intro s m r h hl hz
    refine ⟨fun rd hbad => ?_, fun rd ha halign hheld => ?_, fun c ha halign hfree => ?_, fun st d ha halign hfree hc => ?_, fun ha halign hfree hc hop => ?_⟩
    · rw [exec_fwStage rd h hl hz, State.fwStage_badArg rd hbad]
      rfl
    · rw [exec_fwStage rd h hl hz, State.fwStage_held (s := s.taken m) ha halign rd hheld]
      rfl
    · rw [exec_fwStage _ h hl hz, State.fwStage_readFails (s := s.taken m) ha halign hfree]
      rfl
    · rw [exec_fwStage _ h hl hz, State.fwStage_rejected (s := s.taken m) ha halign hfree hc]
      rfl
    · rw [exec_fwStage _ h hl hz, State.fwStage_accepted (s := s.taken m) ha halign hfree hc,
        State.accept_withOp (s := { s.taken m with fw.staged := _ }) hop]
      rfl
  case verify =>
    rintro s0 s op area addr h hop rfl hruns
    refine ⟨fun hok => ?_, fun hbad => ?_, fun c => exec_fwStageVerify_fails hop hruns c⟩
    · rw [exec_fwStageVerify_read hop hruns, State.stageVerify_ok op hok]
      refine ⟨_, rfl, ?_, fun k hk => ?_, ?_, ?_⟩
      · rw [State.post_fw]
        exact Tbl.find?_set_self ..
      · rw [State.post_fw]
        exact Tbl.find?_set_ne _ _ (Ne.symm hk)
      · rw [State.post_fw]
      · apply State.eventPosted_post
        · rfl
        · rfl
    · rw [exec_fwStageVerify_read hop hruns, State.stageVerify_bad op hbad]
      refine ⟨_, rfl, ?_, ?_⟩
      · rw [State.post_fw]
        exact Tbl.find?_del_self ..
      · rw [State.post_fw]
        rfl
  case discard =>
    intro s m r h hl hz
    rw [exec_fwDiscard h hl hz]
    refine ⟨fun hbad => ?_, fun ha hfree => ?_⟩
    · rw [State.fwDiscard_badArg hbad]
      rfl
    · rw [State.fwDiscard_empties (s := s.taken m) ha hfree]
      rfl
  case activate =>
    intro s m r h hl hz
    rw [exec_fwActivate h hl hz]
    refine ⟨fun hbad => ?_, fun ha hact => ?_, fun ha hact hfree => ⟨fun hx => ?_, fun x hx hv => ⟨fun d hd => ?_, fun hd hop => ?_⟩⟩⟩
    · rw [State.fwActivate_badArg hbad]
      rfl
    · rw [State.fwActivate_busy (s := s.taken m) ha hact]
      rfl
    · rw [State.fwActivate_empty (s := s.taken m) ha hact hfree hx]
      rfl
    · rw [State.fwActivate_incompatible (s := s.taken m) ha hact hfree hx hv hd]
      rfl
    · rw [State.fwActivate_accepted (s := s.taken m) ha hact hfree hx hv hd, State.accept_withOp (s := s.taken m) hop]
      rfl
  case copied =>
    intro s a x ha hx hup hp hh
    refine ⟨fun hrole hm => ?_, fun hrole => ?_⟩
    · have hfw : (((s.setActive a.role x).unitNoted a 0).pauseMason 0 150000).fw = ((s.setActive a.role x).unitNoted a 0).fw :=
        State.pauseMason_keeps State.fw State.respond_fw ..
      have hpaused : (((s.setActive a.role x).unitNoted a 0).pauseMason 0 150000).mason.paused = true :=
        State.pauseMason_keeps (fun u => u.mason.paused) (fun u m c t r => congrArg Mason.paused (u.respond_mason m c t r)) ..
      rw [exec_activationCopyDone_goesOn ha hx hup hp hh fun _ => hm, State.goOn_mason hrole]
      refine ⟨_, rfl, congrArg Flash.act hfw, ?_, hpaused, fun r hne hr => ?_⟩
      · rw [activeImage_of_active (congrArg Flash.active hfw)]
        exact (s.setActive_image x (by decide)).trans (if_pos hrole.symm)
      · rw [activeImage_of_active (congrArg Flash.active hfw)]
        exact (s.setActive_image x hr).trans (if_neg (by omega))
    · rw [exec_activationCopyDone_goesOn ha hx hup hp hh fun h0 => absurd (hrole.symm.trans h0) (by decide), State.goOn_lodge hrole]
      exact ⟨_, rfl, rfl, (s.setActive_image x (by decide)).trans (if_pos hrole.symm), rfl⟩
  case inService =>
    intro s a ha hup hp hh hrole hu
    refine ⟨?_, ?_⟩
    · obtain ⟨hfw, hsec, hops⟩ := (s.bumpEpoch 0).activated_spec a
      have hfw' : (s.bumpEpoch 0).fw = s.fw := State.bumpEpoch_keeps State.fw State.post_fw (fun _ _ => rfl) ..
      have hmason : (s.bumpEpoch 0).mason = s.mason := State.bumpEpoch_keeps State.mason State.post_mason (fun _ _ => rfl) ..
      rw [exec_activationProcessorInService_ends ha hup hp hh hrole hu]
      refine ⟨_, rfl, ?_, ?_, ?_, ?_, ?_⟩
      · rw [hfw]
      · rw [hfw, hfw']
      · rw [hsec, State.bumpEpoch_sec]
      · rw [hfw, hfw']
      · rw [hops, hmason]
    · have hfw : (s.fellBack a).fw = ({ s.setActive a.role a.old with fw.act := none } : State).fw := State.post_fw ..
      rw [exec_activationProcessorInService_fails ha hup hp hh hrole]
      refine ⟨_, rfl, ?_, ?_, ?_, ?_⟩
      · rw [hfw]
      · rw [activeImage_of_active (congrArg Flash.active hfw)]
        exact (s.setActive_image a.old (by decide)).trans (if_pos hrole.symm)
      · rw [hfw]
        rfl
      · have hbytes : [4, 0, 0, 0] ++ leBytes 4 (s.activeImage 4).version = leBytes 1 a.role ++ [0, 0, 0] ++ leBytes 4 (s.activeImage a.role).version := by
          rw [hrole]
          rfl
        rw [hbytes]
        apply State.eventPosted_post
        · rfl
        · rfl
  case write =>
    intro s m r h hl
    rw [exec_profileWrite h hl]
    refine ⟨fun hbad => ?_, fun hlo hhi hfree => ⟨fun hlife => ?_, fun hlife hop => ?_⟩⟩
    · rw [State.profileWrite_badArg hbad]
      rfl
    · rw [State.profileWrite_refused (s := s.taken m) hlo hhi hfree hlife]
      rfl
    · rw [State.profileWrite_accepted (s := s.taken m) hlo hhi hfree hlife, State.accept_withOp (s := s.taken m) hop]
      rfl
  case written =>
    rintro s0 s op addr len b hop rfl hruns rfl
    refine ⟨fun c => exec_profileWriteDone_fails hop hruns c, fun hsig => ?_, fun hsig => ⟨fun ho => ?_, fun p ho hp => ⟨fun o hs hold => ?_, fun hnew => ?_⟩⟩⟩
    · rw [exec_profileWriteDone_read hop hruns, State.profileVerify_unsigned op hsig]
    · rw [exec_profileWriteDone_read hop hruns, State.profileVerify_order op hsig ho]
    · rw [exec_profileWriteDone_read hop hruns, State.profileVerify_rollback op hsig ho hp hs hold]
    · have hfw : (({ s0.syncSets with fw.stored := some p } : State).bumpEpoch 1).fw = ({ s0.syncSets with fw.stored := some p } : State).fw :=
        State.bumpEpoch_keeps State.fw State.post_fw (fun _ _ => rfl) ..
      rw [exec_profileWriteDone_read hop hruns, State.profileVerify_stores op hsig ho hp hnew]
      refine ⟨_, rfl, ?_, ?_, ?_⟩
      · rw [hfw]
      · rw [hfw]
      · rw [State.bumpEpoch_sec]
  case info =>
    intro s m r p h hl hp
    have hp' : (s.taken m).fw.stored = some p := hp
    have hlocked : (if 2 ≤ s.sec.life then [(2 : Byte)] else [1]) = leBytes 1 (if 2 ≤ s.sec.life then 2 else 1) := by
      split <;> rfl
    rw [exec_profileInfo h hl, State.profileInfo, hp', hlocked]
    rfl
  case fuses =>
    intro s m r h hl
    rw [exec_fuseInfo h hl]
    rfl
  case ledger =>
    intro s m r h hl hz
    rw [exec_fuseRead h hl hz]
    refine ⟨fun hbad => ?_, fun hin => ?_⟩
    · rw [State.fuseRead_badArg hbad]
      rfl
    · rw [State.fuseRead_entries hin]
      exact ⟨_, rfl, rfl⟩
  case modes =>
    intro s m r h hl
    rw [exec_modeQuery h hl]
    rfl
  case set =>
    intro s m r h hl hz
    rw [exec_modeSet h hl hz]
    refine ⟨fun hbad => ?_, fun h0 h1 => ⟨fun hset hlock => ?_, fun hfree hlife => ?_, fun hfree hlife => ?_⟩⟩
    · rw [State.modeSet_badArg hbad]
      rfl
    · rw [State.modeSet_locked (s := s.taken m) h0 h1 hset hlock]
      rfl
    · rw [State.modeSet_refused (s := s.taken m) h0 h1 hfree hlife]
      rfl
    · rw [State.modeSet_stores (s := s.taken m) h0 h1 hfree hlife]
      rfl
  case lock =>
    intro s m r h hl hz
    rw [exec_modeCompatLock h hl hz]
    refine ⟨fun hbad => ?_, fun ha hlock => ?_, fun ha hlock hv => ?_, fun ha hlock hv hlife => ?_⟩
    · rw [State.compatLock_badArg hbad]
      rfl
    · rw [State.compatLock_locked (s := s.taken m) ha hlock]
      rfl
    · rw [State.compatLock_other (s := s.taken m) ha hlock hv]
      rfl
    · rw [State.compatLock_locks (s := s.taken m) ha hlock hv hlife]
      refine ⟨_, rfl, ?_⟩
      rw [State.post_fw, State.burnCmd_fw]
      exact ⟨rfl, rfl, rfl⟩

end Sys2Proof.Machine
end
